-- ==== Sys2Proof/Word.lean ====
section
/-! DEFINITION. The word types of the model: bytes, byte strings, and the table type that holds the device's
many like things (banks, rings, contexts) by their number. -/

namespace Sys2Proof

/-- One byte, the smallest addressable unit (R480). -/
abbrev Byte := BitVec 8

/-- A string of bytes, the byte at the lowest address first. -/
abbrev Bytes := List Byte

/-- A finite table by number: an entry that is not listed has the default its reader names. -/
abbrev Table (α : Type) := List (Nat × α)

end Sys2Proof
end

