-- ==== Sys2Proof/Syntax.lean ====
section
/-! DEFINITION. The commands: one constructor for each row of the spec's table of operations and events, with the
operands that come from outside the device (addresses, values, measured outcomes of physical events). -/

namespace Sys2Proof

/-- The architectural registers of an application hart that the enclave gateway rules touch (R384 to R386).
The RVA23 instructions that change them between two gateway events are outside the spec. -/
structure HartRegs where
  /-- The program counter. -/
  pc : Nat := 0
  /-- x1 to x31 by number; an unlisted register is 0. -/
  x : Table Nat := []
  /-- f0 to f31 by number. -/
  f : Table Nat := []
  /-- v0 to v31 by number. -/
  v : Table Nat := []
  /-- fcsr. -/
  fcsr : Nat := 0
  /-- The vector CSRs vstart, vxrm, vxsat, vl, vtype, in that order; empty stands for their reset values. -/
  vcsr : List Nat := []
  deriving DecidableEq, Repr

/-- What waits for the answer to an access (R68, R141, R150, R438). -/
inductive Origin where
  /-- Nothing in the device waits for it. -/
  | other
  /-- A local requester of the Mawyn aperture, by its source port. -/
  | core (src tag : Nat)
  /-- The processor side of a Basin, or its fetch. -/
  | basin (n : Nat)
  /-- A line of the DMA command `idx` of list run `run` of Basin `n`, on its way to its destination. -/
  | dma (n run idx : Nat)
  /-- A line that the same command reads, for Pool line `line`. -/
  | dmaRead (n run idx line : Nat)
  /-- The completion record of a graph. -/
  | record (graph : Nat)
  /-- The head word of a ring. -/
  | head (ring : Nat)
  /-- An inbound request of another device, by its first flit. -/
  | inbound (flit : Bytes)
  /-- The response line of a KVC request, whose token message follows its acknowledgement (R219). -/
  | kvc (token value tag gen : Nat)
  /-- A line of the output of the job that Routesetter `inst` runs for node `slot` (R245). -/
  | route (inst slot : Nat)
  /-- The result record header of the node of a slot (R269). -/
  | header (slot : Nat)
  /-- A line of a frame that a camera port writes (R464). -/
  | line (port frame line : Nat)
  /-- The slot that a memory queue of Points takes a frame into (R348). -/
  | slot (queue frame : Nat)
  /-- A memory queue's index word, and the frame that it announces where there is one (R346, R348). -/
  | index (queue : Nat) (frame : Option Nat)
  /-- The response line of a mailbox request, whose interrupt follows its acknowledgement (R399). -/
  | reply (tag addr data : Nat)
  deriving DecidableEq, Repr

/-- The privilege levels of an application hart that choose the tag of its accesses (R386). -/
inductive HartLevel where
  /-- M: mstag. -/
  | machine
  /-- HS, S and U with V = 0: hstag. -/
  | supervisor
  /-- VS and VU: vstag. -/
  | virtual
  deriving DecidableEq, Repr

/-- What an application hart does with its caches (R12, R375). -/
inductive CoreOp where
  /-- An access that passes the caches. -/
  | uncached
  /-- An access through the caches. -/
  | cached
  /-- The line is written back where it is dirty, and stays. -/
  | clean
  /-- The line is written back where it is dirty, and leaves: software's flush, or an eviction. -/
  | flush
  /-- The line leaves without a write-back. -/
  | inval
  deriving DecidableEq, Repr

/-- The application hart that makes an access, the level it runs at, and what its caches do. -/
structure CoreUse where
  /-- The hart, 0 to 19. -/
  hart : Nat := 0
  /-- Its level. -/
  level : HartLevel := .supervisor
  /-- The part of its caches. -/
  op : CoreOp := .uncached
  deriving DecidableEq, Repr

/-- Who makes an access: a requester that carries a tag of its own, or an application hart, whose tag is that of its level
or its enclave (R19, R386). -/
inductive Requester where
  | tag (t : Nat)
  | hart (h : Nat) (level : HartLevel)
  deriving DecidableEq, Repr

/-- One access as a Sluice sees it (R365). -/
structure Access where
  /-- The Sluice that judges it, 0 to 32. -/
  sluice : Nat := 0
  /-- The stream tag it carries. -/
  tag : Nat := 0
  /-- The parity bit that travels with the tag agrees with it (R19). -/
  parityOk : Bool := true
  /-- Its first byte. -/
  addr : Nat := 0
  /-- How many bytes it covers. -/
  len : Nat := 0
  /-- A write, and then the bytes written. -/
  write : Bool := false
  /-- The bytes a write stores. -/
  data : Bytes := []
  /-- The two copies of the check logic agree (R366); a disagreement is a hardware fault. -/
  copiesAgree : Bool := true
  /-- An application-core hart or the Junction makes it, so dirty logging does not see it (R178). -/
  fromCore : Bool := false
  /-- The hart that makes it, where one does: its own tag then takes the place of `tag`. -/
  core : Option CoreUse := none
  /-- The owner entry could be fetched without an uncorrectable error (R369). -/
  entryOk : Bool := true
  /-- What the ECC of the words read finds: 0 nothing, 1 an error corrected, 2 an uncorrectable error (R91, R117). -/
  ecc : Nat := 0
  /-- What waits for its answer. -/
  origin : Origin := .other
  deriving DecidableEq, Repr

/-- One access as a Pool or Reservoir bank sees it (R96). -/
structure BankReq where
  /-- The stream tag it carries. -/
  tag : Nat := 0
  /-- What waits for its answer; a Basin that makes it is named here. -/
  origin : Origin := .other
  /-- A write. -/
  write : Bool := false
  /-- Its first byte, counted from the bank's start. -/
  off : Nat := 0
  /-- How many bytes it covers. -/
  len : Nat := 0
  /-- The bytes a write stores. -/
  data : Bytes := []
  /-- What the ECC of the words read finds: 0 nothing, 1 an error corrected, 2 an uncorrectable error (R91). -/
  ecc : Nat := 0
  deriving DecidableEq, Repr

/-- What a march of banks finds: the failing rows and the spares that fail themselves, each with its bank (R110). -/
structure MarchRows where
  /-- The failing rows. -/
  rows : List (Nat × Nat) := []
  /-- The spares that fail themselves. -/
  badSpares : List (Nat × Nat) := []
  deriving DecidableEq, Repr

/-- What the boot ROM's march of Reservoir slice 0 finds (R50). -/
structure BootMarch extends MarchRows where
  /-- The banks whose reserved sweep row fails. -/
  badSweepRows : List Nat := []
  deriving DecidableEq, Repr

/-- A visit to a unit of a Basin that may leave its command half done. -/
structure UnitVisit where
  /-- The Basin. -/
  basin : Nat := 0
  /-- The lines, key blocks or blocks that it does at most; 0 for all that remain. -/
  most : Nat := 0
  deriving DecidableEq, Repr

/-- A link of a Basin's tap port to the concentrator (R276). -/
structure TapLink where
  /-- The Basin that sends. -/
  basin : Nat := 0
  /-- The concentrator's port on which its record arrives. -/
  port : Nat := 0
  deriving DecidableEq, Repr

/-- What the bank mover reads with an uncorrectable error (R166). -/
structure BadMoves where
  /-- Banks whose copy-out meets one. -/
  banks : List Nat := []
  /-- The copy-in meets one. -/
  slots : Bool := false
  deriving DecidableEq, Repr

/-- Who writes a bank control register (R97, R102). -/
inductive BankWriter where
  | stationmaster
  | turntable
  | software
  deriving DecidableEq, Repr

/-- A write of a bank control register. -/
structure BankWrite where
  /-- The value. -/
  value : Nat := 0
  /-- Its writer. -/
  writer : BankWriter := .software
  deriving DecidableEq, Repr

/-- A network frame as Points sees it (R341, R347). -/
structure NetFrame where
  /-- KIND of the slot header: 0 Ethernet, 1 classical CAN, 2 CAN FD, 3 CAN XL. -/
  kind : Nat := 0
  /-- Ethernet: from the destination address to the end of the payload, without FCS. CAN: the payload. -/
  bytes : Bytes := []
  /-- CAN_ID of the slot header. -/
  canId : Nat := 0
  /-- VCID of CAN XL. -/
  vcid : Nat := 0
  /-- SDU type of CAN XL. -/
  sdt : Nat := 0
  /-- Acceptance field of CAN XL. -/
  af : Nat := 0
  /-- CAN_FLAGS: BRS, ESI, SEC. -/
  canFlags : Nat := 0
  /-- A CAN remote frame. -/
  remote : Bool := false
  /-- An FCS error, a CAN frame error or an uncorrectable error in the buffer. -/
  bad : Bool := false
  deriving DecidableEq, Repr


/-- A command frame of the supervisor port (R449), after its OPCODE. -/
structure SupFrame where
  /-- The byte OPCODE, where it is no row's of the table of R452; none where it is the command's own. -/
  opcode : Option Nat := none
  /-- The byte SEQ. -/
  seq : Nat := 0
  /-- The byte CFLAGS. -/
  cflags : Nat := 0
  /-- The byte RES. -/
  res : Nat := 0
  /-- LENGTH. -/
  length : Nat := 0
  /-- ADDR. -/
  addr : Nat := 0
  /-- The payload. -/
  payload : Bytes := []
  /-- The CRC as received. -/
  crc : Nat := 0
  deriving DecidableEq, Repr

/-- How a command of the bulk path ends (R453). -/
inductive SupBound where
  /-- It completes within its bound. -/
  | met
  /-- It takes effect, but its answer is TIMEOUT. -/
  | lateDone
  /-- It takes no effect, and its answer is TIMEOUT. -/
  | lateLost
  deriving DecidableEq, Repr

/-- What REGISTER_WRITE writes (R386, R480). -/
inductive RegTarget where
  /-- A register of the control bus over a path: 0 supervisor port, 1 Stationmaster, 2 Interlocking, and from 3 on the
  gateway for its requester. `hartsStopped` says what R406 asks of a cluster that the write lets go
  off. -/
  | bus (path : Nat) (requester : Requester) (addr size value : Nat) (hartsStopped : Bool)
  /-- A custom CSR of a hart, written at a privilege level: 0 U, 1 HS, 2 VS, 3 M. -/
  | csr (hart number level value : Nat)
  deriving DecidableEq, Repr

/-- The commands: one constructor per row of the command table. -/
inductive Instr where
  /-- PORST_N_ASSERT (R30): Cold reset asserts asynchronously and resets every domain, including the island and the Timetable time counter. -/
  | porstNAssert
  /-- RESET_N_ASSERT (R30): Warm reset asserts asynchronously and resets every domain except the always-on domain and the Timetable time counter. -/
  | resetNAssert
  /-- RESET_RELEASE (R30): Release of PORST_N or RESET_N starts the full start-up sequence: BOOT_SEL is sampled, the PLLs lock, the PUF identity is rebuilt and the boot memories are marched. -/
  | resetRelease (porst : Bool) (bootSel : Nat) (fabricLocked pufOk memoriesOk backupOk : Bool) (march : BootMarch)
  /-- IMAGE_STAGED (R52): Loading of the image into staging completes, with section digests computed during the transfer. -/
  | imageStaged (readable : Bool) (content : Bytes)
  /-- STM_VERIFY_DONE (R35): The Stationmaster completes its header checks and signature-chain verification; start-up then enters APPLY, applies CLOCKPLAN and starts SMFW, or fails. -/
  | stmVerifyDone (locked : Bool)
  /-- MEMORY_TRAINING_DONE (R52): LPDDR5X training completes; the remaining Stationmaster sections are applied and PHASE becomes READY. -/
  | memoryTrainingDone (trained : Bool) (march : MarchRows) (badSweepRows : List Nat)
  /-- ILK_VERIFY_DONE (R36): The Interlocking completes its independent verification of the chain, applies its sections and reads back SLUICE, TAGS and BANKOWN. -/
  | ilkVerifyDone (agrees : Bool)
  /-- SLICE0_HANDOFF (R113): Once PHASE READY and Interlocking step 9 have both been reached, banks 0 to 29 of slice 0 take their BANKOWN owners and are scrubbed. -/
  | slice0Handoff
  /-- STARTUP_SELFTEST_DONE (R53): The start-up self-test of all ten checker slices completes; a failure ends start-up with 0x13. -/
  | startupSelftestDone (failing : Option Nat)
  /-- STARTUP_GOLDEN_DONE (R53): One golden graph per Terrace that holds express Basins completes; a failure ends start-up with 0x14. -/
  | startupGoldenDone (instant : Nat)
  /-- SAFE_N_RELEASE (R53): When the start-up conditions hold and time is valid, the Interlocking drives SAFE_N high and PHASE becomes SAFE. -/
  | safeNRelease
  /-- REPAIR_WRITE_BACK (R111): Within 5 s of a change to the repair map, firmware writes the resealed map back to the boot slot or offers it to the host. -/
  | repairWriteBack
  /-- RELOAD_VERIFY_DONE (R59): Both verifications of a partial image complete; the reload is then armed, or rejected with the configuration unchanged. -/
  | reloadVerifyDone (agrees : Bool)
  /-- TTSCHED_SWAP (R328): At its quiescent point the new Timetable schedule takes effect, and nodes waiting on removed identifiers complete with RELEASE_EVENT_REMOVED. -/
  | ttschedSwap
  /-- CONSISTTPL_SWAP (R59): Between two Consist-creation requests, the new Consist templates take effect. -/
  | consisttplSwap
  /-- RULES_SWAP (R61): At T_s the new rule set takes effect for results stamped at or after T_s, while the old set is kept. -/
  | rulesSwap
  /-- RULES_RETIRE (R61): The old rule set is released once every result stamped before T_s has been released or has expired. -/
  | rulesRetire
  /-- CLOCK_MONITOR_WINDOW (R26): At the end of each 1 µs window the always-on domain judges each domain's clock count against ±2 % of its nominal. -/
  | clockMonitorWindow (counts : List (Nat × Nat)) (locked : List Nat) (pixelKHz : List Nat)
  /-- REF_CLK_LOSS (R26): Loss of REF_CLK switches domain 72 to its internal oscillator within 2 µs and is reported as an island clock fault. -/
  | refClkLoss
  /-- VDD_IO_LOSS (R29): Loss of VDD_IO leaves SAFE_N undriven; if SAFE_N is commanded high, the pad read-back sees the fall. -/
  | vddIoLoss
  /-- SLUICE_ACCESS (R365): A Sluice judges an arriving transaction's tag parity, region, page owner and view, and grants it or denies it with an error response. -/
  | sluiceAccess (acc : Access) (hartsStopped : Bool)
  /-- BANK_ACCESS (R96): A Pool or Reservoir bank checks an access against its owner, power state and fencing, and serves it or faults it. -/
  | bankAccess (bank : Nat) (req : BankReq)
  /-- TAP_RECORD_RECEIVE (R276): The Interlocking's tap receiver takes a tap record, checks its CRC, sequence, port and type, and updates the Basin's counts. -/
  | tapRecordReceive (link : TapLink) (flips : Bytes) (crcFlips : Nat)
  /-- LIST_START (R64): A dispatch unit sends a sequencer a kernel pointer, context, tag, node and generation, and the sequencer starts fetching the list. -/
  | listStart (basin : Nat) (kernelPtr context tag node generation : Nat)
  /-- NOP (R71): The sequencer issues a NOP command, which does nothing. -/
  | nop (basin : Nat)
  /-- DMA (R72): A DMA command moves lines between the Pool and an external address, or zero-fills Pool lines. -/
  | dma (visit : UnitVisit)
  /-- MATMUL (R72): The Cascade computes a 64 × 64 tile product, accumulating checksums and optionally draining it to the Pool. -/
  | matmul (basin : Nat)
  /-- CONV (R185): The Cascade computes a convolution tile directly from a Pool image under its layer descriptor. -/
  | conv (basin : Nat)
  /-- ATTN (R208): The Basin runs batched attention over key blocks with deferred normalisation, optionally appending KV rows first. -/
  | attn (visit : UnitVisit)
  /-- RILL (R81): The Rill applies a bundle sequence to streams of vectors over a number of iterations. -/
  | rill (basin : Nat)
  /-- TRANSPOSE (R72): The Rill transposer transposes blocks of 64 rows × 64 B. -/
  | transpose (visit : UnitVisit)
  /-- JET (R84): The Jet computes f(PRE_A × x + PRE_B) over COUNT elements. -/
  | jet (basin : Nat)
  /-- BARRIER (R71): The sequencer waits until every unit is idle and every DMA write has been acknowledged. -/
  | barrier (basin : Nat)
  /-- HALO_SIGNAL (R73): After the sender's earlier DMA has been acknowledged, scoreboard bits are sent to a target Basin. -/
  | haloSignal (basin : Nat)
  /-- HALO_SIGNAL_DELIVER (R73): A halo signal reaches its target and sets its scoreboard bits, or is dropped and counted if the target is not bound to the sender's context. -/
  | haloSignalDeliver (basin : Nat)
  /-- HALO_WAIT (R72): The sequencer waits for all the named scoreboard bits, then clears them. -/
  | haloWait (basin : Nat)
  /-- HALO_TIMEOUT (R72): A HALO_WAIT that exceeds its timeout ends the list with HALO_TIMEOUT. -/
  | haloTimeout (basin : Nat)
  /-- TAP_FLUSH (R85): The Cascade emits a flush marker, no earlier than 64 cycles after the previous record. -/
  | tapFlush (basin : Nat)
  /-- PERF_MARK (R73): The sequencer writes a 64 B snapshot record of the counters. -/
  | perfMark (basin : Nat)
  /-- SETRND (R78): The stochastic-rounding seed and the tile's position are set for later MATMULs of the list. -/
  | setrnd (basin : Nat)
  /-- END (R68): END emits a flush marker and ends the list. -/
  | endList (basin : Nat)
  /-- TAP_TIMEOUT (R70): No concentrator acknowledgement arrives within 10 µs of a tap record, and the list fails with TAP_TIMEOUT. -/
  | tapTimeout (basin : Nat)
  /-- LIST_COMPLETE (R68): With every unit idle, every write acknowledged and every tap record acknowledged, the sequencer reports the list complete. -/
  | listComplete (basin blamedNs : Nat)
  /-- STOP_REQUEST (R70): On a Turntable stop request the sequencer stops issuing, rewinds to the first unstarted command and lets started commands reach their stop. -/
  | stopRequest (basin : Nat)
  /-- RANK_STOPPED (R70): All started commands reach their stop points and the rank's state is ready to be saved. -/
  | rankStopped (basin : Nat) (blamedNs : Nat)
  /-- PMU_CLEAR (R88): Writing CLEAR to a monitor control register zeroes all of its counters. -/
  | pmuClear (monitor : Nat)
  /-- PMU_OVERFLOW (R89): A counter wraps; OVF is set, and a sample capture, an interrupt or a freeze of the counters follows as configured. -/
  | pmuOverflow (monitor counter listIndex unit : Nat) (exact : Bool)
  /-- BANK_SCRUB_HANDOVER (R100): A bank control write in SCRUB mode starts a handover: old-owner access stops, the bank drains and it is zeroed for the new owner. -/
  | bankScrubHandover (bank : Nat) (write : BankWrite)
  /-- BANK_TRANSFER (R98): A bank control write in TRANSFER mode starts a zero-copy handover if a transfer pair permits it. -/
  | bankTransfer (bank : Nat) (write : BankWrite)
  /-- BANK_PWR_CHANGE (R114): A bank control write that changes only PWR starts a power transition, or is latched if a transition is in progress. -/
  | bankPwrChange (bank : Nat) (write : BankWrite) (pastIsolation : Bool)
  /-- HANDOVER_COMPLETE (R100): After the drain, the sweeper pause and any scrub, CUR_OWNER takes the new value, HANDOVER_BUSY clears and held accesses proceed. -/
  | handoverComplete (bank : Nat)
  /-- POWER_TRANSITION_DONE (R102): A bank power transition completes, and any latched PWR write then starts. -/
  | powerTransitionDone (bank : Nat)
  /-- SWEEP_REGION_TEST (R106): Once per INTERVAL_US per bank, the sweeper saves, marches and restores one region. -/
  | sweepRegionTest (bank : Nat) (fails : Bool) (poisoned : List Nat)
  /-- MARCH_START (R110): Writing START runs the march engine in destroy or preserve mode on the masked banks, or rejects the request. -/
  | marchStart (block ctl : Nat)
  /-- MARCH_DONE (R110): A march run completes and sets DONE, REPAIRED or UNREPAIRABLE. -/
  | marchDone (block : Nat) (failing : List (Nat × Nat)) (badSpares : List (Nat × Nat)) (badSweepRows : List Nat)
  /-- DRAM_RETRAIN (R118): Every 64 ms each LPDDR5X controller retrains its WCK-to-DQ timing, blocking accesses for at most 400 ns. -/
  | dramRetrain (ctrl : Nat)
  /-- TAIL_WRITE (R123): The tail-watch filter captures a ring tail written with WRITER_TAG, or counts the write in TAIL_IGNORED. -/
  | tailWrite (requester : Requester) (addr len value : Nat) (entryOk : Bool)
  /-- GRAPH_ADMIT (R126): The Signal box fetches and checks the graph at the head of a ring, and admits it whole when capacity allows. -/
  | graphAdmit (ring : Nat)
  /-- HEAD_WRITE_ERROR (R150): An error response to a head-word write disarms the ring. -/
  | headWriteError (ring : Nat)
  /-- ARM (R121): Writing ARM arms a ring, subject to configuration checks, GATED and the ring quota. -/
  | arm (ring : Nat) (window : Bool)
  /-- CANCEL (R144): Writing CANCEL stops the ring's graphs in flight with status CANCELLED and disarms the ring. -/
  | cancel (ring : Nat)
  /-- DISARM (R121): Writing DISARM stops admission on the ring and, from the privileged view, sets GATED. -/
  | disarm (ring : Nat)
  /-- NODE_COMPLETE (R137): A node completes; its successors' predecessor counts are decremented, its tokens are sent and its graph record is updated. -/
  | nodeComplete (context generation : Nat)
  /-- COMPLETION_INTERRUPT (R141): Once the completion record is acknowledged, or its loss is known, the ring's completion interrupt is raised. -/
  | completionInterrupt (graph : Nat)
  /-- SAFETY_DISPATCH (R136): The first ready SAFETY BASIN node in deadline order is dispatched when the express Basins it needs are idle. -/
  | safetyDispatch
  /-- NODE_DEADLINE (R133): A node's deadline passes; if its release condition is still unmet, the node completes with RELEASE_TIMEOUT. -/
  | nodeDeadline (slot : Nat)
  /-- TOKEN_CFG_WRITE (R147): A write of TOKEN_CFG reconfigures a token entry; clearing VALID completes the nodes waiting on it with REMOTE_UNREACHABLE. -/
  | tokenCfgWrite (path value : Nat)
  /-- TOKEN_GEN_WRITE (R147): A write of EXPECT_GEN sets the accepted sender generation and clears STALE. -/
  | tokenGenWrite (path value : Nat)
  /-- TOKEN_VALUE_WRITE (R146): A write of TOKEN_VALUE replaces the token's value, which may release waiting nodes. -/
  | tokenValueWrite (path value : Nat)
  /-- CONTEXT_BIND (R160): The Turntable chooses a ready node by virtual time and binds it to free pool Basins. -/
  | contextBind (pool : Nat)
  /-- QUANTUM_TICK (R161): At a pool's quantum tick the Turntable reruns selection and may preempt a qualifying QM node. -/
  | quantumTick (pool : Nat)
  /-- PREEMPT_RANKS_STOPPED (R163): All outgoing ranks have stopped; the mover saves rank state and starts the bank moves. -/
  | preemptRanksStopped
  /-- PREEMPT_MOVES_DONE (R163): Bank moves and the restore complete and the incoming context is bound. -/
  | preemptMovesDone (context : Nat) (bad : BadMoves)
  /-- TEARDOWN (R171): A teardown cause reaches the Turntable; binding stops, stop requests go out and parked contexts are discarded. -/
  | teardown (consist cause basin node : Nat)
  /-- TEARDOWN_RANKS_STOPPED (R171): All ranks of the Consist have stopped; the generation advance is accepted and the banks are handed to FREE by SCRUB. -/
  | teardownRanksStopped (consist : Nat)
  /-- TEARDOWN_SCRUB_DONE (R171): The bank scrubs complete, STATE is set and the teardown interrupt is sent. -/
  | teardownScrubDone (consist : Nat)
  /-- LEASE_CHECK (R176): Every 1 ms the Turntable checks the leases of the ACTIVE Consists. -/
  | leaseCheck
  /-- KICK (R176): A write of KICK from DRIVER_TAG renews the lease; a late or foreign KICK is ignored. -/
  | kick (consist tag : Nat)
  /-- CST_BANK_PWR (R158): A Consist sets the power state of one of its resident or parked banks. -/
  | cstBankPwr (consist value : Nat)
  /-- TTB_SLOW_CLEAR (R168): A write zeroes COUNT slow-down rows from FIRST. -/
  | ttbSlowClear (value : Nat)
  /-- PREEMPT_CLEAR (R165): Writing CLEAR zeroes the TTB_PREEMPT statistics. -/
  | preemptClear
  /-- MBOX_TAKE (R399): A write covering bytes 0x00 to 0x07 of STM_MBOX queues a service request, or is refused when the queue is full. -/
  | mboxTake (tag : Nat) (data : Bytes)
  /-- VERSION (R401): The VERSION service compares driver and firmware versions and records the handshake. -/
  | version
  /-- CONSIST_CREATE (R173): CREATE carves a Consist's resources all at once, or fails with nothing carved. -/
  | consistCreate
  /-- CONSIST_DESTROY (R175): DESTROY tears the Consist down and releases all its resources. -/
  | consistDestroy
  /-- CONSIST_RESET (R169): RESET tears the Consist down, leaving it ACTIVE with its rings disarmed. -/
  | consistReset
  /-- SET_WEIGHT (R160): SET_WEIGHT changes the weight of a share group, or of the Consist itself. -/
  | setWeight
  /-- LOG_START (R178): LOG_START enables dirty logging into buffer 0. -/
  | logStart
  /-- LOG_FLIP (R178): LOG_FLIP makes the other dirty-log buffer active. -/
  | logFlip
  /-- LOG_STOP (R178): LOG_STOP ends dirty logging. -/
  | logStop
  /-- LOG_SYNC_DONE (R178): Every write acknowledged before a flip or stop has been logged, and the response is sent. -/
  | logSyncDone (consist : Nat)
  /-- QUIESCE (R179): QUIESCE disarms the Consist's rings and waits for its graphs in flight. -/
  | quiesce
  /-- QUIESCE_DONE (R179): With no graphs in flight, banks and contexts are parked, the header is written and STATE becomes QUIESCED. -/
  | quiesceDone (consist : Nat)
  /-- RESUME (R179): RESUME returns a QUIESCED Consist to ACTIVE. -/
  | resume
  /-- KVC_REQ_TAKE (R219): A write covering bytes 0x38 to 0x3F of KVC_REQ queues a KVC request, or discards it when the queue is full. -/
  | kvcReqTake (consist : Nat) (data : Bytes)
  /-- KVC_CREATE (R220): A new sequence is created and matched against the prefix tree. -/
  | kvcCreate
  /-- KVC_FORK (R220): A new sequence is made that shares the pages of an existing one. -/
  | kvcFork
  /-- KVC_APPEND (R223): A sequence is extended, copying a shared last page on write and allocating new pages. -/
  | kvcAppend
  /-- KVC_TRUNCATE (R220): A sequence is shortened and the references of the dropped blocks are released. -/
  | kvcTruncate
  /-- KVC_PUBLISH (R224): A full block is inserted into the prefix tree. -/
  | kvcPublish
  /-- KVC_FREE (R220): All references of a sequence are dropped and its slot retires. -/
  | kvcFree
  /-- KVC_PIN (R225): A reader pin is taken for the Consist at the current epoch. -/
  | kvcPin
  /-- KVC_UNPIN (R225): A pin slot held by the Consist is released. -/
  | kvcUnpin
  /-- KVC_EVICT (R224): Up to ARG0 eligible tree leaves of the space are evicted. -/
  | kvcEvict
  /-- KVC_QUERY (R220): The length and tree-path length of a sequence are reported. -/
  | kvcQuery
  /-- PAGE_RECLAIM (R226): A retired page or sequence slot becomes FREE once no pin predates its retirement. -/
  | pageReclaim
  /-- WALKER_PIN_GRANT (R225): A waiting ATTN walker obtains a pin slot and proceeds. -/
  | walkerPinGrant (basin : Nat)
  /-- KV_SPACE_VALID (R216): Setting VALID on a KV space record makes the KVC check it and accept or reject it. -/
  | kvSpaceValid (space value : Nat)
  /-- KV_SPACE_INVALIDATE (R216): A write that clears VALID on a space record is accepted only while the owner holds no pin. -/
  | kvSpaceInvalidate (space value : Nat)
  /-- KVC_ENABLE (R229): A write of KVC_CTL EN enables the KVC, or is refused under its conditions. -/
  | kvcEnable (value : Nat)
  /-- PLAN_TREE (R248): The planner starts a sampling-tree search job. -/
  | planTree (rtsNo memError : Nat)
  /-- PLAN_MAP (R250): The planner starts a road-map search job. -/
  | planMap (rtsNo memError : Nat)
  /-- PLAN_LATTICE (R233): The planner starts a lattice search job. -/
  | planLattice (rtsNo memError : Nat)
  /-- CHECK (R256): The planner checks a given trajectory against the world and the cost map. -/
  | check (rtsNo memError : Nat)
  /-- COMMIT_DYNAMIC (R239): The loader builds a new dynamic layer in the inactive bank. -/
  | commitDynamic (rtsNo memError : Nat)
  /-- COMMIT_STATIC (R239): Once the planner is idle, the loader builds a new static layer in place. -/
  | commitStatic (rtsNo memError : Nat)
  /-- LOAD_VEHICLE (R234): Once the planner is idle, the loader loads and checks a vehicle file. -/
  | loadVehicle (rtsNo memError : Nat)
  /-- COMMIT_SWAP (R238): A commit reaches its swap point and the world epoch advances. -/
  | commitSwap (rtsNo : Nat)
  /-- SEARCH_END (R245): A search ends at its budget, its iteration limit or its own end, and the output phase revalidates candidates. -/
  | searchEnd (rtsNo iterations tries memError : Nat)
  /-- YIELD (R244): A running QM plan job yields to a newly queued SAFETY job at its next iteration boundary. -/
  | yield (rtsNo iterations tries memError : Nat)
  /-- ROUTE_JOB_DONE (R245): With every write acknowledged, the Routesetter reports the job done. -/
  | routeJobDone (rtsNo : Nat) (loader : Bool) (excessNs : Nat)
  /-- WORLD_OWNER_WRITE (R237): A write of RTS_WORLD_OWNER changes the owner and scrubs the stores, or is rejected while the instance is busy. -/
  | worldOwnerWrite (rtsNo value : Nat)
  /-- RTS_OVERRUN_CLEAR (R254): Writing CLEAR zeroes RTS_OVERRUN MAX_NS. -/
  | rtsOverrunClear (rtsNo value : Nat)
  /-- RESULT_HANDOVER (R266): The Signal box hands a completed RESULT node to an Interlocking lane, or holds it while the lane is full. -/
  | resultHandover
  /-- RESULT_RELEASE (R269): The Interlocking reads the payload, runs the checks and issues the result header. -/
  | resultRelease (safetyLane payloadError : Bool)
  /-- RESULT_HEADER_ACK (R269): The header write is acknowledged and the Interlocking acknowledges the hand-over. -/
  | resultHeaderAck
  /-- HEADWAY_EXPIRE (R272): An expectation passes its deadline without release; it is counted, an alert is raised and REACT_EXPIRE applies. -/
  | headwayExpire (cls : Nat)
  /-- SELFTEST_SLICE_START (R288): In each 10 ms window the checker starts the test of one of its slices. -/
  | selftestSliceStart
  /-- SELFTEST_SLICE_END (R288): A slice test ends; a failure is the safe-state cause SELFTEST_FAIL. -/
  | selftestSliceEnd (pass : Bool)
  /-- SAFE_N_READBACK (R288): Every 1 µs the SAFE_N ball level is compared with the commanded level. -/
  | safeNReadback (level : Bool)
  /-- LOCKSTEP_MISMATCH (R261): The core-pair comparator detects a mismatch, which is a safe-state cause. -/
  | lockstepMismatch
  /-- CHECKER_MISMATCH (R261): The checker-copy comparator detects a mismatch, which is a safe-state cause. -/
  | checkerMismatch (unit : Nat)
  /-- ISLAND_ECC (R261): An uncorrectable island memory error is a safe-state cause. -/
  | islandEcc (memory : Nat)
  /-- RTC_MISMATCH (R265): A real-time pair comparator mismatches, which is a safe-state cause. -/
  | rtcMismatch (pair : Nat)
  /-- DEBUG_INVASIVE (R264): An invasive debug action on the Interlocking breaks lock-step until reset. -/
  | debugInvasive
  /-- SAFE_N_ASSERT (R291): Once pre-latch headers are acknowledged or 6 µs have passed, the SAFE_N pull-downs turn on and the status frame becomes available. -/
  | safeNAssert
  /-- SLUICE_PROBE (R366): Every 100 ms the Interlocking probes each Sluice with one grant and one deny access. -/
  | sluiceProbe (sluice : Nat) (grantAnswered denyAnswered : Bool)
  /-- GPTP_SYNC (R317): An accepted gPTP Sync yields an offset that steps the time once or adjusts RATE. -/
  | gptpSync (mac ptpDomain identity originNs : Nat) (correction : Int) (wellFormed : Bool) (instant : Nat)
  /-- PDELAY_REQ (R316): A received Pdelay_Req is answered as peer-delay responder. -/
  | pdelayReq (mac ptpDomain seq instant : Nat)
  /-- PDELAY_RESP (R316): A received Pdelay_Resp completes a peer-delay exchange and updates the link delay. -/
  | pdelayResp (mac ptpDomain seq t2 t3 instant : Nat)
  /-- PDELAY_INTERVAL (R316): Each peer-delay interval, the engine sends a Pdelay_Req. -/
  | pdelayInterval (instant : Nat)
  /-- SYNC_INTERVAL (R316): In GM mode, a one-step Sync is sent each sync interval. -/
  | syncInterval (instant : Nat)
  /-- SYNC_TIMEOUT (R318): No Sync is accepted for SYNC_TIMEOUT_MS, and the Timetable enters HOLDOVER. -/
  | syncTimeout
  /-- HOLDOVER_TIMEOUT (R318): The holdover time runs out and time validity is withdrawn. -/
  | holdoverTimeout
  /-- MAWYN_TIME_SYNC (R443): Each TSYNC_INTERVAL_US a device forms an offset from its parent's control slot and applies it as a Sync. -/
  | mawynTimeSync (instant : Nat)
  /-- TIMETABLE_EVENT (R325): A scheduled event occurs: its count advances, it is delivered, and it may start a golden slot or a freeze. -/
  | timetableEvent
  /-- TRIGGER_EDGE (R329): A trigger output's active edge lands at the occurrence plus DELAY_NS. -/
  | triggerEdge (output : Nat)
  /-- TRIGGER_PULSE_END (R329): A trigger pulse ends WIDTH_NS after its edge. -/
  | triggerPulseEnd (output : Nat)
  /-- CAPTURE_EDGE (R330): A capture input edge is filtered, stamped, numbered and delivered to events, Headway and the FIFO. -/
  | captureEdge (input : Nat) (falling : Bool) (heldNs instant : Nat)
  /-- FRAME_START (R322): An accepted CSI-2 frame start increments the frame number, takes the stamp and truncates any open frame. -/
  | frameStart (port vc instant : Nat)
  /-- LINE_PACKET (R464): A camera line packet is written to its buffer under CAM_TAG, and the line timeout restarts. -/
  | linePacket (port vc dt : Nat) (data : Bytes) (crcError : Bool) (instant : Nat)
  /-- FRAME_END (R322): A frame-end packet closes the frame. -/
  | frameEnd (port vc : Nat)
  /-- LINE_ACK (R322): A line write is acknowledged, the line count advances in order, and camera release conditions are evaluated. -/
  | lineAck (port frame line : Nat)
  /-- LINE_TIMEOUT (R323): LINE_TIMEOUT_US passes with a frame open; the frame is truncated and the port enters RESYNC. -/
  | lineTimeout (port : Nat)
  /-- LINE_WRITE_DENIED (R464): A denied line write truncates the frame at that line and the port enters RESYNC. -/
  | lineWriteDenied (port frame line : Nat)
  /-- FREEZE (R332): FREEZE_N goes low; the freeze latch forces SAFE_N low and requests every clock stop. -/
  | freeze
  /-- FREEZE_GATED (R332): The controller groups reach self-refresh and every domain is gated, so FROZEN becomes readable. -/
  | freezeGated
  /-- FREEZE_RELEASE (R335): After FREEZE_N has been high for 1 µs, the domains restart and the time counter resumes with STEPPED cleared. -/
  | freezeRelease
  /-- TMT_NOW_READ (R336): A read of TMT_NOW_SEC latches NS and FRAC for the following reads. -/
  | tmtNowRead (path : Nat)
  /-- CAP_FIFO_POP (R336): A read of TMT_CAP_NS pops the head entry of the capture FIFO. -/
  | capFifoPop (input : Nat)
  /-- FRAME_RECEIVE (R342): A frame arriving at a Points port is looked up and sent to its egress ports or queues. -/
  | frameReceive (port : Nat) (frame : NetFrame) (full instant : Nat)
  /-- AGG_TIMEOUT (R344): AGG_US after its first message, a partly filled ACF frame is sent. -/
  | aggTimeout (entry full : Nat)
  /-- QUEUE_SLOT_ACK (R348): An RX frame's slot writes are acknowledged and Points writes its index word. -/
  | queueSlotAck (queue : Nat)
  /-- QUEUE_INDEX_ACK (R348): The index-word write is acknowledged; the queue interrupt is sent and the entry's arrival count advances. -/
  | queueIndexAck (queue : Nat)
  /-- TX_INDEX_WRITE (R346): The tail-watch filter captures a software index word of a Points queue. -/
  | txIndexWrite (requester : Requester) (addr len value : Nat) (entryOk : Bool)
  /-- TX_SLOT_READ (R347): Points reads a TX slot and looks its frame up as arriving on port 32 + q, or skips a malformed slot. -/
  | txSlotRead (queue full instant : Nat)
  /-- COMMIT (R343): Writing COMMIT checks ENTRY_DATA and replaces the selected routing entry between two lookups. -/
  | commit (path : Nat) (resetCount : Bool)
  /-- ENTRY_READ (R343): Writing READ copies the selected routing entry into ENTRY_DATA. -/
  | entryRead (path : Nat)
  /-- RESET_COUNT (R343): Writing RESET_COUNT zeroes the selected entry's arrival count. -/
  | resetCount (path : Nat)
  /-- Q_ENABLE (R362): Setting a queue's EN enables it, or refuses with SLOT_ERROR. -/
  | qEnable (queue value : Nat)
  /-- Q_DISABLE (R362): Clearing a queue's EN stops it from taking frames from the next lookup on. -/
  | qDisable (queue : Nat)
  /-- CAN_BUS_OFF_RECOVERY (R339): A bus-off CAN controller recovers after 128 × 11 recessive bits. -/
  | canBusOffRecovery (controller : Nat)
  /-- JCT_OUTBOUND (R354): The Junction cuts an outbound access into pieces and issues them to the far side. -/
  | jctOutbound (src tag addr len : Nat) (write : Bool) (data : Bytes)
  /-- JCT_COMPLETION (R355): A far-side completion arrives; when all pieces are done the read is answered. -/
  | jctCompletion (side readTag status : Nat) (data : Bytes) (last : Bool)
  /-- CPL_TIMEOUT (R356): A piece with no completion within CPL_TIMEOUT_US ends its read with an error and quarantines its tag. -/
  | cplTimeout (side readTag : Nat)
  /-- TAG_QUARANTINE_END (R356): After 2 × CPL_TIMEOUT_US a quarantined read tag becomes free. -/
  | tagQuarantineEnd (side readTag : Nat)
  /-- JCT_INBOUND (R358): An inbound PCIe request is matched to a window, translated and tagged. -/
  | jctInbound (port rid addr len : Nat) (write : Bool) (data : Bytes) (atomic : Bool)
  /-- LR (R359): An LR through the Junction reads and takes a reservation slot. -/
  | lr (src tag hart addr len : Nat)
  /-- SC (R359): An SC writes only if the holder's reservation is intact. -/
  | sc (src tag hart addr : Nat) (data : Bytes)
  /-- AMO (R359): An AMO reads, computes and writes its granule atomically against Junction traffic. -/
  | amo (src tag hart addr len op operand old : Nat) (readOk : Bool)
  /-- RESERVATION_TIMEOUT (R359): A reservation breaks 4 µs after its LR. -/
  | reservationTimeout
  /-- PAGE_REQ_TAKE (R371): A write covering bytes 0x18 to 0x1F of SLC_PAGE_REQ queues a page request, or is refused when the queue is full. -/
  | pageReqTake (tag : Nat) (data : Bytes)
  /-- ASSIGN (R372): Owner entries of a page range pass to a new owner by SCRUB or TRANSFER. -/
  | assign
  /-- SET_SHARE (R372): The share and result fields of a page range are changed. -/
  | setShare
  /-- PAGE_FREE (R372): A page range is scrubbed and made FREE. -/
  | pageFree
  /-- PAGE_HANDOVER_DONE (R373): After the drain, cache maintenance and any scrub, the new page entries take effect and the response is written. -/
  | pageHandoverDone
  /-- ENCLAVE_CREATE (R381): An EMPTY enclave becomes BUILDING. -/
  | enclaveCreate (tag enclave : Nat) (debug : Bool)
  /-- ENCLAVE_ADD (R381): Pages pass to the enclave by TRANSFER and are measured. -/
  | enclaveAdd (tag enclave type page count : Nat)
  /-- ENCLAVE_SEAL (R382): The measurement is finalised and the ENTRY page checked, making the enclave READY. -/
  | enclaveSeal (tag enclave : Nat)
  /-- ENCLAVE_DESTROY (R381): Harts are forced out, the pages are scrubbed and returned, and the enclave becomes EMPTY. -/
  | enclaveDestroy (tag enclave : Nat)
  /-- ENCLAVE_SELECT (R382): SELECT chooses the enclave shown in SLC_ENC_STAT and SLC_ENC_MEAS. -/
  | enclaveSelect (path tag enclave : Nat)
  /-- GATE_MARK (R383): GATE.MARK marks an enclave entry point and is otherwise a no-op. -/
  | gateMark (hart : Nat) (regs : HartRegs)
  /-- GATE_ENTER (R384): GATE.ENTER enters or resumes an enclave under tag 0xF:n, or writes a failure code. -/
  | gateEnter (hart : Nat) (level : HartLevel) (rd rs1 rs2 : Nat) (entryPhys : Nat) (regs : HartRegs)
  /-- GATE_EXIT (R385): GATE.EXIT clears registers and returns from the enclave. -/
  | gateExit (hart : Nat) (regs : HartRegs)
  /-- ASYNC_EXIT (R386): A trap inside an enclave saves and clears state and leaves the enclave. -/
  | asyncExit (hart cause : Nat) (regs : HartRegs)
  /-- DBG_EN_WRITE (R387): A write of SLC_DBG_EN sets or clears per-world debug enables within the allowances. -/
  | dbgEnWrite (tag value : Nat)
  /-- SECURE_REL (R390): A write of SLC_SECURE_REL by the using world releases a held power or clock request. -/
  | secureRel (tag domain : Nat) (hartsStopped : Bool)
  /-- REGION_ENTRY_WRITE (R367): A Stationmaster write of a Sluice region entry is applied unless locked or refused. -/
  | regionEntryWrite (tag table entry : Nat) (data : Bytes)
  /-- MEMORY_STATUS (R400): The MEMORY service reports corrected and uncorrectable error counts per controller. -/
  | memoryStatus
  /-- RELOAD (R400): The RELOAD service starts a partial reload of the image in the staging area. -/
  | reload
  /-- SET_STATE (R405): The power service judges a domain state change and accepts it, holds it or refuses it. -/
  | setState (hartsStopped past : Bool)
  /-- POWER_QUERY (R404): The power service reports a domain's current state. -/
  | powerQuery
  /-- SET_PKG_LIMIT (R405): The power service sets the package power limit within range. -/
  | setPkgLimit
  /-- POWER_HELD_PROCEED (R406): A held power request proceeds once its domain becomes idle or leaves secure use. -/
  | powerHeldProceed (domain : Nat) (hartsStopped : Bool)
  /-- DOMAIN_SHUTDOWN_DONE (R407): A logic domain completes its drain and reaches CLOCK_STOP or OFF. -/
  | domainShutdownDone (domain : Nat)
  /-- DOMAIN_POWER_UP_DONE (R409): A domain reaches ON after power-up, reset and clock start. -/
  | domainPowerUpDone (domain : Nat)
  /-- DVFS_LOOP (R411): Every 10 µs firmware adjusts each Terrace's voltage and DVFS point from its slack. -/
  | dvfsLoop (slacks : List Int) (tjs : List Nat)
  /-- PKG_POWER_LOOP (R412): Every 10 µs firmware estimates package power and sheds DVFS points to meet the limit. -/
  | pkgPowerLoop (mean : Nat) (powers : List Nat)
  /-- THERMAL_STEP (R413): A Terrace above THERMAL_TARGET_C is lowered one point, or a cooled Terrace raised one point. -/
  | thermalStep (terrace tj : Nat)
  /-- CLAMP_SAMPLE (R414): Every 1 µs the clamp reads its sensors and segment currents and enters THROTTLE or CUT when its thresholds are reached. -/
  | clampSample (temps currents : List Nat) (instant : Nat)
  /-- CLAMP_IDLE (R416): After 1 ms below its thresholds the clamp returns to IDLE and removes its limits. -/
  | clampIdle
  /-- FW_LOAD (R417): FW_UPDATE LOAD starts verification of a full image in the staging area. -/
  | fwLoad
  /-- FW_VERIFY_DONE (R417): Firmware-update verification ends with STAGED or a rejection code. -/
  | fwVerifyDone
  /-- ACTIVATE (R418): ACTIVATE arms a staged update, or defers it under a clamp emergency. -/
  | activate
  /-- FW_ABORT (R419): ABORT discards a staged update. -/
  | fwAbort
  /-- FW_SWAP (R418): At a loop boundary with the clamp IDLE, old firmware writes its handoff state and the hardware copy starts. -/
  | fwSwap
  /-- FW_COPY_DONE (R418): The new firmware is copied, runs from ENTRY, and STATE becomes DONE. -/
  | fwCopyDone
  /-- WATCHDOG_EXPIRE (R421): With no kick for 1 ms, the watchdog halts the Stationmaster and holds the Terraces at safe points. -/
  | watchdogExpire
  /-- ISLAND_SUPPLY_SWITCH (R425): VDD_ISL leaves its window; the island moves to VDD_ISL_BK and ISLAND_SUPPLY is latched. -/
  | islandSupplySwitch
  /-- BACKUP_SUPPLY_LOW (R426): VDD_ISL_BK leaves its window, setting BK_LOW and counting the event. -/
  | backupSupplyLow
  /-- ISLAND_SUPPLY_LOSS (R427): Both island supplies fail and the SAFE_N pad pulls low within 1 µs. -/
  | islandSupplyLoss
  /-- LINK_TRAINING_DONE (R432): A Mawyn port finishes training as UP_X8, UP_X4, WRONG_PEER or FAILED. -/
  | linkTrainingDone (port lanesBad peerSystem peerDevice peerPort : Nat)
  /-- LINK_RETRY (R432): Every 100 ms a FAILED or WRONG_PEER port retrains. -/
  | linkRetry (port : Nat)
  /-- CONTROL_SLOT_TIMEOUT (R432): No valid control slot arrives for 1 µs and the port drops to TRAINING. -/
  | controlSlotTimeout (port : Nat)
  /-- BLOCK_RECEIVE (R433): A Mawyn block is corrected, checked and acknowledged, or discarded with a NAK that starts a replay. -/
  | blockReceive (port : Nat) (corrected good : Bool) (control : Bytes) (instant : Nat)
  /-- WRITE (R437): A Mawyn WRITE message arrives at its destination and is issued through the inbound window. -/
  | write (flit data : Bytes)
  /-- READ (R437): A Mawyn READ message arrives at its destination and is issued through the inbound window. -/
  | read (flit : Bytes)
  /-- WRITE_ACK (R438): A WRITE_ACK completes the local requester's write. -/
  | writeAck (flit : Bytes)
  /-- READ_DATA (R438): A READ_DATA completes the local requester's read. -/
  | readData (flit data : Bytes)
  /-- ERROR (R438): An ERROR message ends its transaction with an error response. -/
  | error (flit : Bytes)
  /-- TOKEN (R146): A received token message is checked against its token entry and raises the entry's value, or is dropped. -/
  | token (flit : Bytes)
  /-- LINK_STATE (R441): A received LINK_STATE updates the link-state table, the routes and reachability. -/
  | linkState (flit : Bytes) (instant : Nat)
  /-- LINK_STATE_INTERVAL (R441): Every 1 ms, and on port changes, a device sends LINK_STATE to the others. -/
  | linkStateInterval
  /-- LINK_STATE_TIMEOUT (R441): A device silent for 5 ms becomes unreachable. -/
  | linkStateTimeout (device : Nat)
  /-- APERTURE_ACCESS (R436): A local access to the Mawyn aperture becomes a WRITE or READ through an outbound window, or receives an error. -/
  | apertureAccess (src tag addr len : Nat) (write : Bool) (data : Bytes)
  /-- TXN_TIMEOUT (R438): A Mawyn transaction with no response within TXN_TIMEOUT_US ends with TIMEOUT. -/
  | txnTimeout (txn : Nat)
  /-- STATUS_READ (R454): The supervisor port returns the normal or safe-state status frame and clears ALERT_PENDING. -/
  | statusRead (cmd : SupFrame)
  /-- HEARTBEAT (R461): The island answers a nonce with a checked reply and HB_COUNT. -/
  | heartbeat (cmd : SupFrame)
  /-- IDENTITY_READ (R452): The supervisor port returns the identity digest and the PUF public key. -/
  | identityRead (cmd : SupFrame)
  /-- REG_READ (R452): The supervisor port reads privileged-view registers. -/
  | regRead (cmd : SupFrame) (bound : SupBound)
  /-- REG_WRITE (R452): The supervisor port writes privileged-view registers on its own path. -/
  | regWrite (cmd : SupFrame) (bound : SupBound) (hartsStopped : Bool)
  /-- MEM_READ (R452): The supervisor bulk path reads device memory under tag 0x0FE. -/
  | memRead (cmd : SupFrame) (bound : SupBound)
  /-- MEM_WRITE (R452): The supervisor bulk path writes device memory under tag 0x0FE. -/
  | memWrite (cmd : SupFrame) (bound : SupBound)
  /-- IMAGE_LOAD (R456): A chunk of a boot or partial image is written to the staging area in order. -/
  | imageLoad (cmd : SupFrame) (bound : SupBound)
  /-- REPAIR_READ (R457): The supervisor port returns part of the sealed REPAIR payload. -/
  | repairRead (cmd : SupFrame) (bound : SupBound)
  /-- SAFE_REQUEST (R460): The host causes the safe state SUPERVISOR_REQUEST. -/
  | safeRequest (cmd : SupFrame)
  /-- COUNTER_CLEAR (R459): W1C counter fields of an ILK, HDW or TMT register are cleared. -/
  | counterClear (cmd : SupFrame)
  /-- TIME_SET (R458): In GPTP_GM mode the time is set at once, or armed on a capture edge. -/
  | timeSet (cmd : SupFrame) (instant : Nat)
  /-- TIME_SET_LAPSE (R458): An armed TIME_SET with no accepted edge within 2 s lapses. -/
  | timeSetLapse
  /-- TRANSACTION_ABORT (R453): SUP_CS_N rising before the response ends abandons it and counts in ABORTS. -/
  | transactionAbort
  /-- VERTICAL_BLANK (R466): At each vertical blank the Fountain reads its layer list and age-checks gated layers. -/
  | verticalBlank (stream width height underruns : Nat) (hpd : Bool) (instant : Nat)
  /-- EXTEST (R493): EXTEST drives the boundary scan while PORST_N is low or the device is frozen. -/
  | extest
  /-- IDCODE (R492): IDCODE selects the 32-bit identification register. -/
  | idcode
  /-- SAMPLE_PRELOAD (R492): SAMPLE/PRELOAD selects the boundary-scan register. -/
  | samplePreload
  /-- CLAMP (R493): CLAMP holds the boundary outputs and selects bypass, under its conditions. -/
  | clamp
  /-- HIGHZ (R493): HIGHZ floats the outputs and selects bypass, under its conditions. -/
  | highz
  /-- FREEZE_STATUS (R492): FREEZE_STATUS reports FROZEN, SOURCE, READOUT_ENABLED and ROTATION_PENDING. -/
  | freezeStatus
  /-- SCAN_SELECT (R495): SCAN_SELECT chooses a scan chain unless a rotation is pending. -/
  | scanSelect (chain : Nat)
  /-- SCAN_READ (R494): SCAN_READ rotates the selected chain out on TDO. -/
  | scanRead (count : Nat)
  /-- TAP_MEM_SELECT (R496): MEM_SELECT chooses a memory, the ECC option and the start word. -/
  | tapMemSelect (value : Nat)
  /-- TAP_MEM_READ (R496): MEM_READ shifts out words of the selected memory. -/
  | tapMemRead (count : Nat)
  /-- RELEASE (R492): RELEASE ends an event-started freeze at Update-IR. -/
  | release
  /-- DEBUG (R387): DEBUG selects the RISC-V debug module interface under the world enables. -/
  | debug (hart : Nat) (request : Nat)
  /-- BYPASS (R492): BYPASS selects the 1-bit bypass register. -/
  | bypass (bits : Nat) (count : Nat)
  /-- REGISTER_WRITE (R480): A write to a register that has no row of its own updates its RW, W1C or selector fields under the access rules. -/
  | registerWrite (target : RegTarget)
  /-- UNCORRECTABLE_HEADER (R464): A camera packet whose header ECC cannot correct truncates the open frame at once, as a line timeout does, and puts the port in RESYNC. -/
  | uncorrectableHeader (port : Nat)
  /-- PCIE_LINK_UP (R361): A PCIe port's link finishes training, or goes down, and JCT_STATUS PCIE0_UP or PCIE1_UP changes. -/
  | pcieLinkUp (port : Nat) (up : Bool)
  deriving DecidableEq, Repr

end Sys2Proof
end

