-- ==== Sys2Proof/Decode.lean ====
section
/-! DEFINITION. The commands that words spell: the spec's command table gives no row any bits, so no word spells one. -/

namespace Sys2Proof

/-- The command that a word spells by the table's bits. No row of the table has bits: commands reach the block as the
operations that the spec's chapters name, not as words. -/
def decodeTableWord (_nbits _w : Nat) : Option Instr := none

end Sys2Proof
end

