-- ==== Sys2Proof/Config.lean ====
section
/-! DEFINITION. What the spec leaves open: constants and functions without a body, so that no proof can see a value
of theirs. A function that takes an index is applied to the state's counter of free values, so that each use is a
fresh value. -/

namespace Sys2Proof.Config

/-- SHA-384 (R35): a published algorithm, held as an uninterpreted function. -/
opaque sha384 : Bytes → Bytes
/-- HMAC-SHA-384 with the device's sealing key (R49). -/
opaque sealMac : Bytes → Bytes
/-- ECDSA P-384 verification over SHA-384 (R35): public key, message, signature. -/
opaque ecdsaVerify : Bytes → Bytes → Bytes → Bool
/-- The vendor root-key hash in boot ROM and Interlocking ROM (R35, R392). -/
opaque vendorRootHash : Bytes
/-- The P-384 public key that the device derives from its PUF (R35). -/
opaque pufPublicKey : Bytes
/-- The accesses that the KVC makes in its metadata area for its work number `i`: line numbers, and the bytes of each write
(R216). -/
opaque kvcMeta : Nat → List (Nat × Option Bytes)

/-- A free byte: what the spec leaves unspecified, by free-value index and place. -/
opaque freeByte : Nat → Nat → Byte
/-- A free number below 2³², by free-value index and place. -/
opaque freeWord : Nat → Nat → BitVec 32

/-- The Jet's result for a function code and an FP32 argument, outside the special cases of R84: bit-identical on
every Basin, within the function's error bound, and otherwise open. -/
opaque jet : Nat → Nat → BitVec 32

/-- A Rill lane whose result the spec does not state (R82): operation, lane type and the three operands. -/
opaque rillOpen : Nat → Nat → Nat → Nat → Nat → BitVec 32
/-- RSUM or RMAX of lanes that are not FP32 (R82): operation, lane type and the lanes. -/
opaque rillReduce : Nat → Nat → List Nat → BitVec 32

/-- What IN_PITCH and OUT_PITCH of a TRANSPOSE count (R72 does not say): true, the lines between the rows of a block,
with successive blocks on successive lines; false, the lines between successive blocks, with a block's bytes on
successive lines. -/
opaque transposeRowPitch : Bool

/-- How W_LINE and W2_LINE of a sparse CONV divide the compressed weight panel (R182 does not say): true, W2_LINE holds
the second half of its lines in order; false, W_LINE holds the even lines and W2_LINE the odd ones. -/
opaque convWeightHalves : Bool

/-- The first byte of a TRAIN block that lies outside the range of the Sohild board-description schema, if any (R120 names
the schema and does not give it). -/
opaque trainFault : Bytes → Option (BitVec 10)

/-- Flit credits of a buffer class when a Mawyn link comes up (R434 gives no buffer depth). -/
opaque initialCredits : Nat → Nat

/-- The MAC address of Ethernet MAC `n` (R345 names it as the source address and does not give it). -/
opaque macAddress : Nat → BitVec 48
/-- Where the Device Control register lies in the configuration space of a PCIe port (R354 names the register and no
offset). -/
opaque deviceControlOffset : Nat → Nat

/-- The segment that a thermal sensor of the clamp belongs to (R415 names a segment's sensors and gives no map). -/
opaque sensorSegment : Nat → Nat
/-- LEVEL of a trace point's log record: [1:0] severity, [3:2] core (R422, R424 give neither for the key points). -/
opaque traceLevel : Nat → BitVec 4

/-! ### The Routesetter: what its searches find, and the arithmetic that R241 leaves open -/

/-- A pose of an output trajectory (R255): x, y, heading and time, FP32 bits. -/
structure RoutePose where
  /-- x. -/
  x : Nat := 0
  /-- y. -/
  y : Nat := 0
  /-- Heading. -/
  h : Nat := 0
  /-- Time from the start. -/
  t : Nat := 0
  deriving DecidableEq, Repr, Inhabited

/-- A trajectory of a search with its cost (R250). -/
structure RouteTrack where
  /-- Its poses. -/
  poses : List RoutePose := []
  /-- Its cost, FP32 bits. -/
  cost : Nat := 0
  /-- It is the repaired plan (R251). -/
  repaired : Bool := false
  deriving DecidableEq, Repr, Inhabited

/-- What a search depends on (R249): nothing else. -/
structure RouteInput where
  /-- The job descriptor. -/
  desc : Bytes := []
  /-- The primitives of the search epoch. -/
  prims : Bytes := []
  /-- Their stamp. -/
  stamp : Nat := 0
  /-- The static layer. -/
  statics : Bytes := []
  /-- Its triangles. -/
  tris : Bytes := []
  /-- The vehicle file. -/
  vehicle : Bytes := []
  /-- The lattice primitives of each start heading 0 to 63, rotated (R233). -/
  lattice : List (List Bytes) := []
  /-- The cost map. -/
  map : Bytes := []
  /-- MAP_IN. -/
  mapIn : Bytes := []
  /-- The plan to repair. -/
  prev : Bytes := []
  /-- The iterations made. -/
  iterations : Nat := 0
  deriving DecidableEq, Repr, Inhabited

/-- What a search has come to. -/
structure RouteFound where
  /-- The candidates in rank order. -/
  candidates : List RouteTrack := []
  /-- The iterations made. -/
  made : Nat := 0
  /-- Nodes at the end of the search. -/
  nodes : Nat := 0
  /-- The node store is full. -/
  exhausted : Bool := false
  /-- A lattice search's open set is empty. -/
  openEmpty : Bool := false
  /-- The best partial plan. -/
  best : RouteTrack := {}
  /-- Its h, FP32 bits. -/
  gap : Nat := 0
  /-- The node store after the search, 32 bytes a node; for PLAN_MAP the road map's nodes (R250). -/
  mapNodes : Bytes := []
  /-- The closed-state table after the search: the lattice states expanded. -/
  closed : List Nat := []
  deriving DecidableEq, Repr, Inhabited

/-- A biarc (the sampling search of R248 and R249): the curvatures of its two arcs, and the length of each. -/
structure Biarc where
  /-- Curvature of the first arc. -/
  k1 : Rat := 0
  /-- Curvature of the second arc. -/
  k2 : Rat := 0
  /-- Length of one arc. -/
  len : Rat := 0
  deriving DecidableEq, Repr, Inhabited

/-- The FP32 number that the planner holds for an exact value: the rounding of its arithmetic is open (R247 to R253). -/
opaque planRound : Rat → BitVec 32
/-- The two tangent arcs of equal length from one pose to another: their computation is open. -/
opaque biarc : RoutePose → RoutePose → Biarc
/-- The pose at an arc length along a biarc, from a pose and its speed level: the speed along an edge is open. -/
opaque biarcPose : RoutePose → Nat → Biarc → Rat → RoutePose
/-- The speed level at the end of an edge. -/
opaque biarcSpeed : Nat → Biarc → BitVec 8
/-- 32 × (ln N / N)^(1/3) of the tree's radius, as the planner computes it. -/
opaque radiusTerm : Nat → Rat
/-- The cost of a step that ends outside the grid: the spec states none (R247). -/
opaque offGridCost : RoutePose → BitVec 8
/-- The pose at an arc length along a path given by its start, and the length and end pose of each of its steps (R255). -/
opaque pathPose : RoutePose → List (Rat × RoutePose) → Rat → RoutePose
/-- The time of pose `i` of a lattice primitive from its start: the record gives none (R232). -/
opaque primTime : Bytes → Nat → BitVec 32
/-- The time of a pose of an earlier plan in the repaired trajectory: where the plan is joined, with its new time, and the
pose (R251). -/
opaque retime : RoutePose → RoutePose → RoutePose → BitVec 32
/-- The local search of a repair (R251): the poses that join two free poses, from samples within a box (least and greatest x,
least and greatest y); none where it fails within its share of the budget. -/
opaque reconnect : RouteInput → RoutePose → RoutePose → List Rat → Option (List RoutePose)
/-- What the parent field of a node without a parent holds in the map file (R250). -/
opaque noParent : BitVec 32
/-- What the cost field of a road-map node holds that no path from the start reaches (R250). -/
opaque noCost : BitVec 32
/-- Cosine of an FP32 or widened FP16 angle, as the collision test uses it (R241); its precision is open. -/
opaque cosine : Nat → BitVec 32
/-- Sine of such an angle. -/
opaque sine : Nat → BitVec 32
/-- Square root of an FP32 number, as the inflation of R241 uses it. -/
opaque root : Nat → BitVec 32
/-- Pose `k` of the `n` steps that the motion between two poses is checked in (R241): the spec does not state the curve
between them. -/
opaque motionPose : RoutePose → RoutePose → Nat → Nat → RoutePose
/-- What the broad-phase hierarchy holds of a world layer (R231, R241): its layout is the implementation's. -/
opaque broadPhase : Bytes → Bytes

/-- Flip-flop `pos`, counted from the tail, of a scan chain at a freeze (R494): the map is the stepping's own. -/
opaque scanBit : Nat → Nat → Nat → Bool
/-- The 72 bits of a word of a memory behind the test access port at a freeze (R496), the check bits in the top 8. -/
opaque tapWord : Nat → Nat → Nat → BitVec 72

end Sys2Proof.Config
end

