-- ==== Sys2Proof/Machine/Bits.lean ====
section
/-! DEFINITION. Bit fields, byte order, checksums and tables: the helpers that every other file of the machine uses.
Multi-byte fields are little-endian (R6). -/

namespace Sys2Proof.Machine

/-- Bits `lo + n - 1` to `lo` of `v`. -/
def fld (v lo n : Nat) : Nat := (v >>> lo) % 2 ^ n

/-- `v` with bits `lo + n - 1` to `lo` replaced by `x`. -/
def setFld (v lo n x : Nat) : Nat := v % 2 ^ lo + (x % 2 ^ n) * 2 ^ lo + (v >>> (lo + n)) * 2 ^ (lo + n)

/-- Bit `i` of `v`. -/
def bit (v i : Nat) : Bool := v.testBit i

/-- A truth value as a bit. -/
def b2n (b : Bool) : Nat := if b then 1 else 0

/-- The byte of `bs` at offset `i`; a byte beyond the end reads 0. -/
def byteAt (bs : Bytes) (i : Nat) : Nat := (bs.getD i 0).toNat

/-- The number that a byte string spells, least significant byte first (R6). -/
def leNat : Bytes → Nat
  | [] => 0
  | b :: r => b.toNat + 256 * leNat r

/-- The `n` bytes of `v`, least significant byte first (R6). -/
def leBytes : Nat → Nat → Bytes
  | 0, _ => []
  | n + 1, v => BitVec.ofNat 8 v :: leBytes n (v / 256)

/-- `n` bytes of `bs` from `off`, with zero bytes beyond its end. -/
def slice (bs : Bytes) (off n : Nat) : Bytes :=
  let t := (bs.drop off).take n
  t ++ List.replicate (n - t.length) 0

/-- The little-endian field of `n` bytes at `off`. -/
def le (bs : Bytes) (off n : Nat) : Nat := leNat (slice bs off n)

/-- All of the `n` bytes at `off` are zero. -/
def zeroAt (bs : Bytes) (off n : Nat) : Bool := (slice bs off n).all (· == 0)

/-- `bs` with the bytes from `off` replaced by `d`. -/
def patch (bs : Bytes) (off : Nat) (d : Bytes) : Bytes :=
  slice bs 0 off ++ d ++ bs.drop (off + d.length)

/-- A zero string of `n` bytes. -/
def zeros (n : Nat) : Bytes := List.replicate n 0

/-- The entry of a table, or the default. -/
def tget {α : Type} (d : α) : Table α → Nat → α
  | [], _ => d
  | (j, a) :: r, k => if j = k then a else tget d r k

/-- The table with entry `k` set, its keys rising. -/
def tset {α : Type} : Table α → Nat → α → Table α
  | [], k, a => [(k, a)]
  | (j, b) :: r, k, a =>
    if k < j then (k, a) :: (j, b) :: r
    else if k = j then (k, a) :: r
    else (j, b) :: tset r k a

/-- The table without entry `k`, which then reads as the default. -/
def tdel {α : Type} (t : Table α) (k : Nat) : Table α := t.filter fun e => e.1 != k

/-- The table with entry `k` changed. -/
def tmod {α : Type} (d : α) (t : Table α) (k : Nat) (f : α → α) : Table α := tset t k (f (tget d t k))

/-- The listed entry of a table, if there is one. -/
def tfind {α : Type} : Table α → Nat → Option α
  | [], _ => none
  | (j, a) :: r, k => if j = k then some a else tfind r k

/-- The table with every listed entry changed. -/
def tmap {α : Type} (t : Table α) (f : Nat → α → α) : Table α := t.map fun e => (e.1, f e.1 e.2)

/-- One step of a bitwise CRC of width `w` fed from the most significant bit (R21). -/
def crcStep (w poly c : Nat) : Nat :=
  let c2 := (c * 2) % 2 ^ w
  if c.testBit (w - 1) then c2 ^^^ poly else c2

/-- CRC-16 with polynomial 0x1021 and initial value 0xFFFF, most significant bit first (R21). -/
def crc16 (bs : Bytes) : Nat :=
  bs.foldl (fun c b =>
    (List.range 8).foldl (fun c _ => crcStep 16 0x1021 c) (c ^^^ (b.toNat <<< 8))) 0xFFFF

/-- One step of a reflected 32-bit CRC. -/
def crcStepR (poly c : Nat) : Nat := if c.testBit 0 then (c >>> 1) ^^^ poly else c >>> 1

/-- CRC-32C (reflected, initial value and final inversion all ones). -/
def crc32c (bs : Bytes) : Nat :=
  (bs.foldl (fun c b =>
    (List.range 8).foldl (fun c _ => crcStepR 0x82F63B78 c) (c ^^^ b.toNat)) 0xFFFFFFFF) ^^^ 0xFFFFFFFF

/-- `c ≥ v` on 32-bit counters that wrap (R130): (c − v) mod 2³² < 2³¹. -/
def ge32 (c v : Nat) : Bool := (c + 2 ^ 32 - v % 2 ^ 32) % 2 ^ 32 < 2 ^ 31

/-- The numbers of the bits set in a mask of `n` bits, ascending. -/
def maskBits (m n : Nat) : List Nat := (List.range n).filter fun i => m.testBit i

/-- Insert into an ascending list without repeats. -/
def insertNat (k : Nat) : List Nat → List Nat
  | [] => [k]
  | j :: r => if k < j then k :: j :: r else if k = j then j :: r else j :: insertNat k r

end Sys2Proof.Machine
end

