-- ==== Sys2Proof/Machine/Flags.lean ====
section
/-! DEFINITION. Counters and status flags: saturation, write-one-to-clear fields and the all-ones clear (R5 to R7's
access codes). -/

namespace Sys2Proof.Machine

/-- A counter of `w` bits that saturates at all ones, `n` added. -/
def satAdd (w c n : Nat) : Nat := min (c + n) (2 ^ w - 1)

/-- A saturating counter of 8 bits, counted once. -/
def sat8 (c : Nat) : Nat := satAdd 8 c 1

/-- A saturating counter of 16 bits, counted once. -/
def sat16 (c : Nat) : Nat := satAdd 16 c 1

/-- A wrapping counter of `w` bits, counted once. -/
def wrapInc (w c : Nat) : Nat := (c + 1) % 2 ^ w

/-- A counter field at bit `lo` that a write of all ones clears. -/
def onesClear (c value lo w : Nat) : Nat := if fld value lo w = 2 ^ w - 1 then 0 else c

/-- A W1C flag at bit `i`: a write of 1 clears it. -/
def w1c (f : Bool) (value i : Nat) : Bool := f && !(bit value i)

/-- The next generation: plus 1 modulo 2¹⁶, skipping 0 (R171). -/
def nextGen (g : Nat) : Nat := if (g + 1) % 2 ^ 16 = 0 then 1 else (g + 1) % 2 ^ 16

end Sys2Proof.Machine
end

