-- ==== Sys2Proof/Machine/State.lean ====
section
/-! DEFINITION. The state of the device, as plain data: every register, table, queue, buffer, pin and hidden
condition that the spec gives it, under the spec's own names, and the queue of the commands that wait.
A field's default is its value right after a cold reset (PORST_N low). The docstring of a field names its rule. -/

namespace Sys2Proof.Machine


/-- One queued mailbox request: its 128 bytes and the tag that wrote it (R399). -/
structure MboxReq where
  /-- the requester's stream tag (R399) -/
  tag : Nat := 0
  /-- the request (R399) -/
  bytes : Bytes := []
  deriving DecidableEq, Repr

/-- The state of a clock or power domain (R26, R404). -/
inductive ClockState where
  | on | clockStop | off | transition | frozen
  deriving DecidableEq, Repr

/-- One of the 72 clock domains (R26's table); the entry is read by its number 1 to 72. -/
structure ClockDomain where
  /-- whether the domain runs, is stopped, off or between states (R26, R404) -/
  state : ClockState := .off
  /-- in the current window lies a glitch-free frequency step, or an instant at which the domain did not run (R26) -/
  stepInWindow : Bool := false
  /-- for the recovered clocks of camera and Mawyn ports: the port holds lock (R26) -/
  locked : Bool := false
  deriving DecidableEq, Repr

/-- The pins and supplies the rules speak of. -/
structure Pins where
  /-- PORST_N level (R30) -/
  porstN : Bool := false
  /-- RESET_N level (R30) -/
  resetN : Bool := true
  /-- BOOT_SEL as sampled at the last reset release (R32) -/
  bootSel : Nat := 0
  /-- FREEZE_N level (R331) -/
  freezeN : Bool := true
  /-- the level the island commands on SAFE_N (R31) -/
  safeNCmd : Bool := false
  /-- VDD_IO is present so that the SAFE_N pad follows the command (R29, R427) -/
  safeNDriven : Bool := true
  /-- VDD_IO is in its window (R29) -/
  vddIo : Bool := true
  /-- REF_CLK is present (R26) -/
  refClk : Bool := true
  /-- domain 72 runs from its internal 20 MHz oscillator (R26) -/
  aonInternalOsc : Bool := false
  deriving DecidableEq, Repr

/-- PHASE of SUP_BOOT_STATUS (R55), in the order of its codes 0 to 7. -/
inductive Phase where
  | rom | identity | load | apply | firmware | ready | safe | failed
  deriving DecidableEq, Repr

/-- ILK_STATE of SUP_BOOT_STATUS (R55), in the order of its codes 0 to 7. -/
inductive IlkState where
  | rom | verify | selftest | golden | waitTime | checking | split | failed
  deriving DecidableEq, Repr

/-- BOOT_SRC of SUP_BOOT_STATUS (R55), in the order of its codes 0 to 3. -/
inductive BootSrc where
  | none | slotA | slotB | supervisor
  deriving DecidableEq, Repr

/-- STATE of SUP_RELOAD_STATUS (R63), in the order of its codes 0 to 5. -/
inductive ReloadState where
  | idle | loading | verifying | armed | done | rejected
  deriving DecidableEq, Repr

/-- SUP_BOOT_STATUS, SUP_BOOT_DETAIL and the progress of start-up (R52, R55). -/
structure Boot where
  /-- PHASE (R55) -/
  phase : Phase := .rom
  /-- ILK_STATE (R55) -/
  ilkState : IlkState := .rom
  /-- FAIL_CODE (R55, R56) -/
  failCode : Nat := 0
  /-- BOOT_SRC (R55) -/
  bootSrc : BootSrc := .none
  /-- REPAIR_UPDATED (R55, R51) -/
  repairUpdated : Bool := false
  /-- BANKS_FENCED (R55, R50) -/
  banksFenced : Bool := false
  /-- REPAIR_SEAL_REJECTED (R55, R49) -/
  repairSealRejected : Bool := false
  /-- DEBUG_PROFILE (R55) -/
  debugProfile : Bool := false
  /-- RTC_SPLIT (R55) -/
  rtcSplit : Bool := false
  /-- SUP_BOOT_DETAIL SECTION (R55) -/
  detailSection : Nat := 0xFF
  /-- SUP_BOOT_DETAIL SLOT_A_CODE (R55) -/
  slotACode : Nat := 0
  /-- SUP_BOOT_DETAIL FIELD_OFFSET (R55) -/
  fieldOffset : Nat := 0xFFFF
  /-- the PUF identity is readable (step 4 complete) (R35, R52) -/
  identityReadable : Bool := false
  /-- a whole image stands in staging and waits for verification (step 5 complete) (R52) -/
  imageStaged : Bool := false
  /-- the Stationmaster's verification passed (step 6) (R35, R52) -/
  stmVerified : Bool := false
  /-- the Interlocking's verification and read-back passed (step 9) (R36, R52) -/
  ilkVerified : Bool := false
  /-- step 10 passed (R52) -/
  selftestPassed : Bool := false
  /-- step 11 passed (R52) -/
  goldenPassed : Bool := false
  /-- the banks of Reservoir slice 0 have passed from the boot ROM's tag to their owners (R113) -/
  slice0Handed : Bool := false
  /-- the Interlocking's own verification of the chain has completed and it waits for PHASE READY to read back (R52) -/
  ilkReadBack : Bool := false
  /-- BUILD_ID of the running full image (R38) -/
  buildId : Bytes := []
  /-- OWNER_PUBKEY of the running image's certificate (R35, R58) -/
  ownerPubkey : Bytes := []
  /-- IMAGE_VERSION of the running image (R38) -/
  imageVersion : Nat := 0
  /-- CERT_FLAGS of the running certificate (R46) -/
  certFlags : Nat := 0
  /-- FLAGS ISOLATION of the running image (R38) -/
  isolation : Bool := false
  /-- the last of steps 1 to 4 that start-up has reached (R52) -/
  step : Nat := 0
  /-- the image that the two verifications read, as it was staged (R36, R52) -/
  image : Bytes := []
  /-- slot A has failed a check and slot B is read (R33) -/
  slotAFailed : Bool := false
  /-- slot A could be read (R33, R56) -/
  slotARead : Bool := false
  /-- a boot image is accepted from the supervisor port (R32, R57, R456) -/
  supLoad : Bool := false
  /-- the section descriptors of the image that booted, against which a firmware update's are compared (R417) -/
  descs : List Bytes := []
  deriving DecidableEq, Repr

/-- SUP_RELOAD_STATUS and an armed partial reload (R58 to R63). -/
structure Reload where
  /-- STATE (R63) -/
  state : ReloadState := .idle
  /-- CODE (R63) -/
  code : Nat := 0
  /-- TTSCHED_SWAPPED (R63) -/
  ttschedSwapped : Bool := false
  /-- CONSISTTPL_SWAPPED (R63) -/
  consisttplSwapped : Bool := false
  /-- RULES_SWAPPED (R63) -/
  rulesSwapped : Bool := false
  /-- RULES_OLD_RETIRED (R63) -/
  rulesOldRetired : Bool := false
  /-- EVENTS_ORPHANED, saturating at 255 (R63, R60) -/
  eventsOrphaned : Nat := 0
  /-- the verified sections that wait for their quiescent points, by TYPE (R59) -/
  armedSections : Table Bytes := []
  /-- a verified partial image waits for its quiescent points, or for its old rule set to retire (R59, R63) -/
  armed : Bool := false
  /-- the types that the accepted partial image carries (R63) -/
  carried : List Nat := []
  /-- the activation time in Timetable nanoseconds; 0 for each section's next quiescent point (R38, R59) -/
  activateNs : Nat := 0
  /-- IMAGE_VERSION of the image that carried the newest rule set (R266, R281) -/
  rulesVersion : Nat := 0
  /-- IMAGE_VERSION of the image that carried the old rule set (R266, R281) -/
  oldRulesVersion : Nat := 0
  /-- T_s of the last RULES swap, in Timetable nanoseconds (R61) -/
  swapNs : Nat := 0
  /-- the old rule set that is still held after a RULES swap (R61) -/
  oldRules : Option Bytes := none
  /-- the instant at which both verifications completed (R59, R61) -/
  armedNs : Nat := 0
  /-- IMAGE_VERSION of the partial image in work (R281) -/
  version : Nat := 0
  /-- the partial image that the two verifications read, as it was staged (R59) -/
  image : Bytes := []
  deriving DecidableEq, Repr

/-- What the sequencer does with its command list (R64 to R70). -/
inductive ListState where
  | idle | running | stopping | stopped | failed | ended
  deriving DecidableEq, Repr

/-- The accumulation type of an accumulator set (R75). -/
inductive AccType where
  | none | int | float
  deriving DecidableEq, Repr

/-- One accumulator set of the Cascade, with its checksums (R75, R86). -/
structure AccSet where
  /-- accumulation type (R75) -/
  type : AccType := .none
  /-- c(i, j) at 64 i + j: INT32 modulo 2³², or FP32 bits (R72, R76) -/
  c : Table Nat := []
  /-- predicted row sums p_i (R86) -/
  p : Table Nat := []
  /-- predicted weighted column sums q_j (R86) -/
  q : Table Nat := []
  /-- K_t, the number of k since ZERO (R86) -/
  kT : Nat := 0
  /-- T, exactly, as m × 2^e (R86) -/
  t : Nat × Int := (0, 0)
  /-- 0 T is finite, 1 infinite, 2 NaN (R86) -/
  tBad : Nat := 0
  /-- an operand, scale or element of the tile was non-finite since ZERO (R86) -/
  nonfinite : Bool := false
  deriving DecidableEq, Repr

/-- One record on the check-tap network (R86's layout). -/
structure TapRecord where
  /-- TYPE: residue record or flush marker (R86) -/
  marker : Bool := false
  /-- BASIN (R86) -/
  basin : Nat := 0
  /-- FLOAT (R86) -/
  isFloat : Bool := false
  /-- NONFINITE (R86) -/
  nonfinite : Bool := false
  /-- TAP_SEQ (R86) -/
  seq : Nat := 0
  /-- ROW_RES (R86) -/
  rowRes : Nat := 0
  /-- COL_RES (R86) -/
  colRes : Nat := 0
  /-- BOUND (R86) -/
  bound : Nat := 0
  /-- CONTEXT of a marker (R86) -/
  context : Nat := 0
  /-- NODE of a marker (R86) -/
  node : Nat := 0
  /-- GENERATION of a marker (R86) -/
  generation : Nat := 0
  /-- RECORD_COUNT of a marker (R86) -/
  recordCount : Nat := 0
  /-- beside the record's own bits: the tag of the context that sent it (R177) -/
  senderTag : Nat := 0
  /-- beside them: the generation that its acknowledgement carries back (R177) -/
  senderGen : Nat := 0
  /-- beside them: the list that it belongs to, by the model's count (R23) -/
  run : Nat := 0
  deriving DecidableEq, Repr

/-- The SETRND state (R78). -/
structure Rnd where
  /-- SEED (R78) -/
  seed : Nat := 0
  /-- ROW0 (R78) -/
  row0 : Nat := 0
  /-- COL0 (R78) -/
  col0 : Nat := 0
  /-- ROW_LEN (R78) -/
  rowLen : Nat := 0
  deriving DecidableEq, Repr

/-- A command that the sequencer has issued and that has not completed (R64, R65). -/
structure QCmd where
  /-- its index in the list (R69) -/
  idx : Nat := 0
  /-- its 32 bytes (R71) -/
  cmd : Bytes := []
  /-- its unit has started it (R69) -/
  started : Bool := false
  /-- its progress: lines of a DMA, blocks of a TRANSPOSE, key blocks of an ATTN (R70) -/
  done : Nat := 0
  /-- all of its lines have been moved or asked for (R65) -/
  whole : Bool := false
  /-- its accesses that have not been answered (R65, R68) -/
  left : Nat := 0
  deriving DecidableEq, Repr

/-- A performance monitor of a Basin or of a block (R88, R489). -/
structure Pmu where
  /-- CTL EN (R88) -/
  en : Bool := false
  /-- CTL VIRT (R88) -/
  virt : Bool := false
  /-- CTL FREEZE_ON_OVF (R88) -/
  freezeOnOvf : Bool := false
  /-- the counters were stopped by an overflow under FREEZE_ON_OVF (R88) -/
  frozen : Bool := false
  /-- CYCLE (R88) -/
  cycle : Nat := 0
  /-- EVSEL0 to EVSEL3 (R88, R489) -/
  evsel : Table Nat := []
  /-- CNT0 to CNT3 (R88) -/
  cnt : Table Nat := []
  /-- OVF (R88) -/
  ovf : Nat := 0
  /-- SAMPLE LIST_INDEX (R88) -/
  sampleIndex : Nat := 0
  /-- SAMPLE UNIT (R88) -/
  sampleUnit : Nat := 0
  /-- SAMPLE COUNTER (R88) -/
  sampleCounter : Nat := 0
  /-- SAMPLE EXACT (R88) -/
  sampleExact : Bool := false
  /-- SAMPLE VALID (R88) -/
  sampleValid : Bool := false
  /-- MSI_ADDR of a block monitor (R489) -/
  msiAddr : Nat := 0
  /-- MSI_DATA of a block monitor (R489) -/
  msiData : Nat := 0
  /-- a counter wrapped with OVF_IRQ set: the Basin's interrupt is raised (R88) -/
  irq : Bool := false
  deriving DecidableEq, Repr

/-- One Basin: its binding, its sequencer and its units' registers. -/
structure Basin where
  /-- BSN_STATUS BOUND (R486) -/
  bound : Bool := false
  /-- BSN_STATUS CONTEXT (R486) -/
  context : Nat := 0
  /-- BSN_STATUS TAG (R486) -/
  tag : Nat := 0
  /-- BSN_STATUS GENERATION (R486) -/
  generation : Nat := 0
  /-- node index sent with the kernel pointer (R64) -/
  node : Nat := 0
  /-- kernel pointer (R64) -/
  kernelPtr : Nat := 0
  /-- tag of the last context bound to the Basin (R376) -/
  lastTag : Option Nat := none
  /-- what the sequencer does (R64) -/
  list : ListState := .idle
  /-- index of the next command to issue (CMD_INDEX) (R486) -/
  listPos : Nat := 0
  /-- the commands in the unit queues and under way, in issue order (R64) -/
  queue : List QCmd := []
  /-- the model's own count of the lists started, which tells an old list's accesses apart (MODEL) -/
  run : Nat := 0
  /-- command list status (R69) -/
  status : Nat := 0
  /-- index of the failing command (R69) -/
  failIndex : Nat := 0
  /-- ACC_OVF (R69) -/
  accOvf : Bool := false
  /-- NAN_SEEN (R69) -/
  nanSeen : Bool := false
  /-- SAT_HIT (R69) -/
  satHit : Bool := false
  /-- accumulator sets 0 and 1 (R75) -/
  acc : Table AccSet := []
  /-- Rill register Vr lane l at 64 r + l (R81) -/
  rill : Table Nat := []
  /-- halo scoreboard (R73) -/
  scoreboard : Nat := 0
  /-- SETRND state (R78) -/
  rnd : Rnd := {}
  /-- TAP_SEQ of the next record (R86) -/
  tapSeq : Nat := 0
  /-- residue records since the last marker (R86) -/
  recCount : Nat := 0
  /-- tap records the concentrator has not acknowledged, oldest first (R23) -/
  unacked : List TapRecord := []
  /-- halo signals sent and not yet delivered, as (target Basin, bits, context, generation) (R73) -/
  signals : List (Nat × Nat × Nat × Nat) := []
  /-- HALO_DROPPED events (R73) -/
  haloDropped : Nat := 0
  /-- the command at the list position is a HALO_WAIT whose bits are not all set (R72) -/
  haloWaiting : Bool := false
  /-- performance monitor (R88) -/
  pmu : Pmu := {}
  /-- ATN_FAULT ENTRY (R218) -/
  atnEntry : Nat := 0
  /-- ATN_FAULT KEY_BLOCK (R218) -/
  atnKeyBlock : Nat := 0
  /-- ATN_FAULT DETAIL (R218) -/
  atnDetail : Nat := 0
  /-- ATN_FAULT VALID (R218) -/
  atnValid : Bool := false
  /-- ATN_BLOCKS DONE (R218) -/
  atnDone : Nat := 0
  /-- ATN_BLOCKS SKIPPED (R218) -/
  atnSkipped : Nat := 0
  /-- the pin slot that the ATTN walker holds (R225) -/
  walkerPin : Option Nat := none
  /-- the ATTN walker waits for a pin slot (R225) -/
  walkerWaits : Bool := false
  deriving DecidableEq, Repr

/-- PWR of a bank control register (R102), in the order of its codes. -/
inductive BankPwr where
  | off | retention | on
  deriving DecidableEq, Repr

/-- An accepted ownership write that is not yet complete (R100). -/
structure BankHandover where
  /-- the new owner (R100) -/
  owner : Nat := 0
  /-- the new state is FREE (R100) -/
  free : Bool := false
  /-- MODE SCRUB (R97) -/
  scrub : Bool := true
  /-- PWR in the same write, which follows when the handover completes (R100, R114) -/
  pwr : BankPwr := .off
  /-- the bank was in retention when the write arrived (R100) -/
  wake : Bool := false
  /-- accesses that the bank accepted before step 1 and that complete in step 2 (R100, R101) -/
  drain : List BankReq := []
  deriving DecidableEq, Repr

/-- A power transition in progress (R102). -/
structure BankTransition where
  /-- the state it left (R102) -/
  src : BankPwr := .off
  /-- the state it goes to (R102) -/
  dst : BankPwr := .off
  deriving DecidableEq, Repr

/-- One bank's control and status registers and what goes on inside it. Bank 16 b + k is bank k of Pool b; bank 1024 + 32 s + k is bank k of Reservoir slice s. -/
structure Bank where
  /-- OWNER, the last accepted value (BANK_CTL) -/
  ctlOwner : Nat := 0
  /-- FREE (BANK_CTL) -/
  ctlFree : Bool := true
  /-- PWR (BANK_CTL) -/
  ctlPwr : BankPwr := .off
  /-- CUR_OWNER (BANK_STAT) -/
  curOwner : Nat := 0
  /-- CUR_FREE (BANK_STAT) -/
  curFree : Bool := true
  /-- HANDOVER_REJECTED (BANK_STAT, R98) -/
  handoverRejected : Bool := false
  /-- PWR_STATE while no transition is in progress (BANK_STAT, R102) -/
  pwrState : BankPwr := .off
  /-- FENCED (BANK_STAT, R50) -/
  fenced : Bool := false
  /-- DEGRADED (BANK_STAT, R108) -/
  degraded : Bool := false
  /-- NO_SWEEP (BANK_STAT, R108) -/
  noSweep : Bool := false
  /-- the repair spares as (STATE, ROW); an empty list stands for five free ones (R111) -/
  spares : List (Nat × Nat) := []
  /-- words of 8 B, by number in the bank, that read as uncorrectable (R91, R109) -/
  poison : List Nat := []
  /-- PWR_ABORTED (BANK_STAT, R105) -/
  pwrAborted : Bool := false
  /-- OLD_OWNER_FAULT (BANK_STAT) -/
  oldOwnerFault : Bool := false
  /-- HANDOVER_BUSY and what is handed over (R100) -/
  handover : Option BankHandover := none
  /-- PWR_STATE 11 and what changes (R102) -/
  transition : Option BankTransition := none
  /-- the PWR write latched during a transition (R105) -/
  latchedPwr : Option BankPwr := none
  /-- the owner before the last handover, for OLD_OWNER_FAULT (R101) -/
  prevOwner : Option Nat := none
  /-- accesses held until the handover or the wake is over, in arrival order (R100, R104) -/
  held : List BankReq := []
  /-- the region the sweeper tests next (R106) -/
  sweepPos : Nat := 0
  deriving DecidableEq, Repr

/-- The registers of one POOL block (0 to 63) or RSV block (64 to 71). -/
structure BankBlock where
  /-- CE, saturating (ECC_CNT) -/
  ce : Nat := 0
  /-- UE, saturating (ECC_CNT) -/
  ue : Nat := 0
  /-- TAG (FAULT_INFO) -/
  faultTag : Nat := 0
  /-- BANK (FAULT_INFO) -/
  faultBank : Nat := 0
  /-- LINE (FAULT_INFO) -/
  faultLine : Nat := 0
  /-- WRITE (FAULT_INFO) -/
  faultWrite : Bool := false
  /-- CAUSE (FAULT_INFO) -/
  faultCause : Nat := 0
  /-- COUNT, saturating (FAULT_INFO) -/
  faultCount : Nat := 0
  /-- VALID (FAULT_INFO) -/
  faultValid : Bool := false
  /-- EN (SWEEP_CTL) -/
  sweepEn : Bool := false
  /-- INTERVAL_US (SWEEP_CTL) -/
  sweepInterval : Nat := 20
  /-- PRESERVE (MARCH_CTL) -/
  marchPreserve : Bool := false
  /-- BANKS (MARCH_MASK) -/
  marchMask : Nat := 0
  /-- BUSY (MARCH_STAT) -/
  marchBusy : Bool := false
  /-- DONE (MARCH_STAT) -/
  marchDone : Bool := false
  /-- REPAIRED (MARCH_STAT) -/
  marchRepaired : Bool := false
  /-- UNREPAIRABLE (MARCH_STAT) -/
  marchUnrepairable : Bool := false
  /-- REJECTED (MARCH_STAT) -/
  marchRejected : Bool := false
  /-- the banks of the run in progress (R110) -/
  marchSet : Nat := 0
  /-- the mode of the run in progress (R110) -/
  marchSetPreserve : Bool := false
  deriving DecidableEq, Repr

/-- The power state of an LPDDR5X controller group (R115). -/
inductive DramState where
  | on | selfRefresh | off
  deriving DecidableEq, Repr

/-- One LPDDR5X controller. -/
structure DramCtrl where
  /-- power state of the group (R28, R115) -/
  state : DramState := .off
  /-- start-up training converged (R120) -/
  trained : Bool := false
  /-- corrected errors (R117, R400) -/
  ce : Nat := 0
  /-- uncorrectable errors (R117, R400) -/
  ue : Nat := 0
  /-- retrainings done (R118) -/
  retrains : Nat := 0
  deriving DecidableEq, Repr

/-- The repair map in use, beside the banks' own entries (R111). -/
structure Repair where
  /-- UPDATE_SEQ (R111) -/
  updateSeq : Nat := 0
  /-- the map differs from the sealed payload and no write-back has been made (R111) -/
  changed : Bool := false
  /-- AUX_ENTRY area, format internal to Sohild; empty stands for zero bytes (R111) -/
  aux : Bytes := []
  /-- AUX_COUNT (R111) -/
  auxCount : Nat := 0
  /-- the repair map in use has been started, so that SPARES_FREE counts (R111, BANK_STAT) -/
  built : Bool := false
  /-- DRAM lines, by address over 64, that read as uncorrectable (R117) -/
  badLines : List Nat := []
  /-- the last sealed payload, offered for read-out (R51, R457) -/
  sealed : Bytes := []
  deriving DecidableEq, Repr

/-- One of the 1,024 submission rings (R121). -/
structure Ring where
  /-- BASE (SBX_RING_BASE) -/
  base : Nat := 0
  /-- LOG2_SIZE (SBX_RING_CFG) -/
  log2Size : Nat := 0
  /-- LOCKED (SBX_RING_CFG) -/
  locked : Bool := false
  /-- OWNER_TAG (SBX_RING_CFG) -/
  ownerTag : Nat := 0
  /-- WRITER_TAG (SBX_RING_CFG) -/
  writerTag : Nat := 0
  /-- ADDR (SBX_RING_TAILADDR) -/
  tailAddr : Nat := 0
  /-- HEAD (SBX_RING_HEAD) -/
  head : Nat := 0
  /-- the tail the filter captured last (R123) -/
  tail : Nat := 0
  /-- ERROR (SBX_RING_STAT) -/
  error : Nat := 0
  /-- ARMED (SBX_RING_STAT) -/
  armed : Bool := false
  /-- WAIT_SLOTS (SBX_RING_STAT) -/
  waitSlots : Bool := false
  /-- WAIT_QUOTA (SBX_RING_STAT) -/
  waitQuota : Bool := false
  /-- GATED (SBX_RING_STAT) -/
  gated : Bool := true
  /-- completion interrupt address of rings 0 to 15, from TAGS (R141, R396) -/
  msiAddr : Nat := 0
  /-- completion interrupt data of rings 0 to 15, from TAGS (R141, R396) -/
  msiData : Nat := 0
  /-- the graph of the last GRAPH entry of this ring, admitted or rejected (R140) -/
  lastGraph : Option Nat := none
  deriving DecidableEq, Repr

/-- One entry of the token table (R146). -/
structure Token where
  /-- OWNER_CONSIST (SBX_TOKEN_CFG) -/
  ownerConsist : Nat := 0
  /-- SRC_DEVICE (SBX_TOKEN_CFG) -/
  srcDevice : Nat := 0
  /-- SRC_TAG (SBX_TOKEN_CFG) -/
  srcTag : Nat := 0
  /-- VALID (SBX_TOKEN_CFG) -/
  valid : Bool := false
  /-- STALE (SBX_TOKEN_CFG) -/
  stale : Bool := false
  /-- EXPECT_GEN (SBX_TOKEN_GEN) -/
  expectGen : Nat := 0
  /-- VALUE (SBX_TOKEN_VALUE) -/
  value : Nat := 0
  deriving DecidableEq, Repr

/-- Where a node in flight stands: predecessors outstanding, release condition under evaluation, ready, dispatched, handed to the Interlocking, complete (R131, R137). -/
inductive NodeState where
  | waiting | release | ready | running | handed | complete
  deriving DecidableEq, Repr

/-- One node in flight. -/
structure Node where
  /-- the node record as fetched (R128) -/
  bytes : Bytes := []
  /-- its successor entries (R129) -/
  succs : List Nat := []
  /-- the graph it belongs to (R126) -/
  graph : Nat := 0
  /-- its index in the graph (R128) -/
  index : Nat := 0
  /-- predecessors not yet complete (R137) -/
  preds : Nat := 0
  /-- where it stands (R131, R137) -/
  state : NodeState := .waiting
  /-- it carries a missing-class mark (R134) -/
  marked : Bool := false
  /-- node status once complete (R149) -/
  status : Nat := 0
  /-- marked NOT_RUN (R143) -/
  notRun : Bool := false
  /-- NEXT: the event's occurrence count when every predecessor had completed (R130) -/
  nextFrom : Nat := 0
  /-- Timetable time of readiness, in ns (R167) -/
  readyAt : Nat := 0
  /-- its dispatch was delayed for want of a context number and is counted in CTX_WAITS (R152) -/
  ctxWait : Bool := false
  /-- released after its deadline (R133) -/
  releasedLate : Bool := false
  /-- context number once dispatched (R151) -/
  context : Nat := 0
  /-- its deadline has passed (R133) -/
  lateAt : Bool := false
  deriving DecidableEq, Repr

/-- What became of a graph's completion record (R141). -/
inductive RecordState where
  | none | writing | written | lost
  deriving DecidableEq, Repr

/-- One graph in flight. -/
structure Graph where
  /-- the ring it came from (R126) -/
  ring : Nat := 0
  /-- free-running index of its ring entry (R149) -/
  ringIndex : Nat := 0
  /-- its header (R125) -/
  hdr : Bytes := []
  /-- its Consist; 0 for rings 0 to 15 (R126) -/
  consist : Nat := 0
  /-- the generation under which it was admitted (R142) -/
  generation : Nat := 0
  /-- origin in Timetable nanoseconds (R125) -/
  originNs : Nat := 0
  /-- slot indices of its nodes, in index order (R126) -/
  nodes : List Nat := []
  /-- 0 while it runs; 2 NODE_FAILED, 3 CANCELLED, 4 ABORTED, 5 REJECTED once it has ended so (R143, R144) -/
  endStatus : Nat := 0
  /-- DETAIL (R149) -/
  detail : Nat := 0
  /-- FAIL_VALID (R149) -/
  failValid : Bool := false
  /-- FAIL_NODE (R149) -/
  failNode : Nat := 0
  /-- FAIL_CMD (R149) -/
  failCmd : Nat := 0
  /-- LATE (R133) -/
  late : Bool := false
  /-- PREEMPTED (R149) -/
  preempted : Bool := false
  /-- Basin-nanoseconds charged to the graph (R159) -/
  basinNs : Nat := 0
  /-- ORDERED: the previous graph of the ring, until its record has been written (R140) -/
  prev : Option Nat := none
  /-- its completion record (R141) -/
  record : RecordState := .none
  /-- the record is acknowledged, lost or not wanted, and the completion interrupt has not been raised (R141) -/
  interruptDue : Bool := false
  deriving DecidableEq, Repr

/-- What the Signal box keeps of one camera frame (R132). -/
structure CamHist where
  /-- frame number (R132) -/
  frame : Nat := 0
  /-- final line count, or the lines acknowledged so far (R132) -/
  lines : Nat := 0
  /-- the final line count is decided (R132) -/
  final : Bool := false
  /-- truncation mark (R132) -/
  truncated : Bool := false
  deriving DecidableEq, Repr

/-- The Signal box. -/
structure Sbx where
  /-- the ring table (R121) -/
  rings : Table Ring := []
  /-- the token table (R146) -/
  tokens : Table Token := []
  /-- SBX_TOKEN_SEL, per control-bus path (R482) -/
  tokenSel : Table Nat := []
  /-- the node store, by slot (R148) -/
  nodes : Table Node := []
  /-- graphs in flight, in admission order (R126) -/
  graphs : Table Graph := []
  /-- admission number of the next graph (R136) -/
  nextGraph : Nat := 0
  /-- GEN_DISCARDS (SBX_COUNTS) -/
  genDiscards : Nat := 0
  /-- TOKEN_DROPS (SBX_COUNTS) -/
  tokenDrops : Nat := 0
  /-- TAIL_IGNORED (SBX_COUNTS) -/
  tailIgnored : Nat := 0
  /-- RECORD_LOST (SBX_COUNTS) -/
  recordLost : Nat := 0
  /-- STALE of the token entries that nothing has written: their SRC_DEVICE is 0 (R147) -/
  freshStale : Bool := false
  /-- the ring 0 to 15 served last (R125) -/
  lastSafety : Nat := 15
  /-- the general ring served last (R125) -/
  lastGeneral : Nat := 1023
  /-- per camera port, the current frame and the 8 frames before it, newest first (R132) -/
  cams : Table (List CamHist) := []
  deriving DecidableEq, Repr

/-- The state of a context (R152). -/
inductive CtxState where
  | free | running | stopping | parked | resuming
  deriving DecidableEq, Repr

/-- One rank of a context. -/
structure Rank where
  /-- virtual Basin (the physical one for a SAFETY context) (R155) -/
  vbasin : Nat := 0
  /-- physical Basin (R156) -/
  basin : Nat := 0
  /-- its list is complete (R137) -/
  done : Bool := false
  /-- it has reached its stop point (R163) -/
  stopped : Bool := false
  /-- ACC_OVF [0], NAN_SEEN [1], SAT_HIT [2] of its completion report (R69) -/
  flags : Nat := 0
  /-- the state slot that holds its state while it is parked (R153) -/
  slot : Option Nat := none
  /-- the pin slot that its stopped ATTN walker keeps while it is parked (R213) -/
  pin : Option Nat := none
  deriving DecidableEq, Repr

/-- One context descriptor of the Siding (R151). -/
structure Ctx where
  /-- state (R152) -/
  state : CtxState := .free
  /-- the node's slot (R151) -/
  node : Nat := 0
  /-- Consist; 0 for a SAFETY context (R151) -/
  consist : Nat := 0
  /-- generation (R177) -/
  generation : Nat := 0
  /-- its ranks in order (R155) -/
  ranks : List Rank := []
  /-- start of its binding, Timetable ns (R159) -/
  boundAt : Nat := 0
  /-- first bind, Timetable ns (R167) -/
  firstBound : Nat := 0
  /-- step 1 of the preemption that stopped it (R167) -/
  preemptAt : Nat := 0
  /-- P so far (R167) -/
  preemptNs : Nat := 0
  /-- Q so far (R167) -/
  queuedNs : Nat := 0
  /-- B so far (R167) -/
  blamedNs : Nat := 0
  /-- the Routesetter instance, for a ROUTE node (R151) -/
  rts : Option Nat := none
  /-- the status that the Routesetter has reported for a ROUTE node (R137) -/
  routeStatus : Option Nat := none
  /-- PLAN_STATUS of a ROUTE node's report (R257) -/
  planStatus : Nat := 0
  /-- PFLAGS[8:0] of a ROUTE node's report (R257) -/
  pflags : Nat := 0
  deriving DecidableEq, Repr

/-- STATE of CST_STATE, in the order of its codes. -/
inductive ConsistState where
  | free | active | teardown | quiescing | quiesced | expired
  deriving DecidableEq, Repr

/-- One of the 255 Consists. -/
structure Consist where
  /-- STATE (CST_STATE) -/
  state : ConsistState := .free
  /-- POOL (CST_STATE) -/
  pool : Nat := 0
  /-- BASIN_CAP (CST_STATE) -/
  basinCap : Nat := 0
  /-- GENERATION (CST_STATE) -/
  generation : Nat := 0
  /-- world of the Consist's tag (R173) -/
  world : Nat := 0
  /-- DRIVER_TAG (R173) -/
  driverTag : Nat := 0
  /-- the template it was created from (R180) -/
  tpl : Bytes := []
  /-- FIRST_GROUP (R173) -/
  firstGroup : Nat := 0
  /-- FIRST_SLOW_ROW (R173) -/
  firstSlowRow : Nat := 0
  /-- WEIGHT (R160) -/
  weight : Nat := 0
  /-- the last renewal, Timetable ns (R176) -/
  leaseKick : Nat := 0
  /-- CAUSE (CST_CAUSE) -/
  causeCode : Nat := 0
  /-- BASIN (CST_CAUSE) -/
  causeBasin : Nat := 0
  /-- OLD_GEN (CST_CAUSE) -/
  causeGen : Nat := 0
  /-- NODE (CST_CAUSE) -/
  causeNode : Nat := 0
  /-- VALID (CST_CAUSE) -/
  causeValid : Bool := false
  /-- BASIN_NS (CST_USAGE) -/
  usage : Nat := 0
  /-- TEARDOWNS (CST_COUNTS) -/
  teardowns : Nat := 0
  /-- LATE_KICKS (CST_COUNTS) -/
  lateKicks : Nat := 0
  /-- LATE_COMPLETIONS (CST_COUNTS) -/
  lateCompletions : Nat := 0
  /-- GROUP_FOLDS (CST_FOLDS) -/
  groupFolds : Nat := 0
  /-- BASE (CST_SIDING_BASE) -/
  sidingBase : Nat := 0
  /-- the VALID bitmap (R153) -/
  validMap : Nat := 0
  /-- LOG_EN (CST_DIRTY_CTL) -/
  logEn : Bool := false
  /-- ACTIVE_BUF (CST_DIRTY_CTL) -/
  activeBuf : Nat := 0
  /-- FLIP_BUSY (CST_DIRTY_CTL) -/
  flipBusy : Bool := false
  /-- the sync in progress is a LOG_STOP's (R178) -/
  logStopping : Bool := false
  /-- BASE (CST_DIRTY_BASE0) -/
  dirtyBase0 : Nat := 0
  /-- BASE (CST_DIRTY_BASE1) -/
  dirtyBase1 : Nat := 0
  /-- ADDR (CST_COMPL_MSI_ADDR) -/
  complMsiAddr : Nat := 0
  /-- DATA (CST_COMPL_MSI_DATA) -/
  complMsiData : Nat := 0
  /-- ADDR (CST_TEAR_MSI_ADDR) -/
  tearMsiAddr : Nat := 0
  /-- DATA (CST_TEAR_MSI_DATA) -/
  tearMsiData : Nat := 0
  /-- what V_c has been raised by, over usage × 1,024 / WEIGHT (R160) -/
  raised : Nat := 0
  /-- physical Basin of each bound virtual Basin (R156) -/
  binding : Table Nat := []
  /-- whole Terraces held in a strict pool, as a mask (R162) -/
  terraces : Nat := 0
  /-- the state that the teardown in progress ends in (R169, R172) -/
  afterTeardown : ConsistState := .active
  /-- steps 3 to 5 of the teardown have begun: the ranks have stopped (R171) -/
  tornStopped : Bool := false
  /-- the LOG_FLIP or LOG_STOP request whose response waits for the sync (R178) -/
  logReply : Option MboxReq := none
  /-- the QUIESCE request whose response waits for the graphs in flight (R179) -/
  quiesceReply : Option MboxReq := none
  deriving DecidableEq, Repr

/-- One of the 4,096 share-group entries. -/
structure ShareGroup where
  /-- WEIGHT (TTB_GRP_CFG) -/
  weight : Nat := 0
  /-- CONSIST (TTB_GRP_CFG) -/
  consist : Nat := 0
  /-- VALID (TTB_GRP_CFG) -/
  valid : Bool := false
  /-- BASIN_NS (TTB_GRP_USAGE) -/
  usage : Nat := 0
  /-- what V_g has been raised by, over usage × 1,024 / weight (R160) -/
  raised : Nat := 0
  deriving DecidableEq, Repr

/-- One of the 4,096 slow-down rows (R168). -/
structure SlowRow where
  /-- NODES (R168) -/
  nodes : Nat := 0
  /-- ACHIEVED_NS (R168) -/
  achieved : Nat := 0
  /-- STANDALONE_NS (R168) -/
  standalone : Nat := 0
  /-- QUEUED_NS (R168) -/
  queued : Nat := 0
  /-- PREEMPTED_NS (R168) -/
  preempted : Nat := 0
  /-- BLAMED_NS (R168) -/
  blamed : Nat := 0
  /-- MAX_SLOWDOWN (R168) -/
  maxSlowdown : Nat := 0
  deriving DecidableEq, Repr

/-- A preemption in progress (R163). -/
structure Preemption where
  /-- slot of the incoming node (R163) -/
  inNode : Nat := 0
  /-- step 1, Timetable ns (R165) -/
  start : Nat := 0
  /-- the Terraces between steps 1 and 6 (R163) -/
  terraces : Nat := 0
  /-- step 2 is past (R163) -/
  ranksStopped : Bool := false
  /-- step 2, Timetable ns (R159) -/
  stoppedNs : Nat := 0
  /-- the Basins that the outgoing context has left and that the incoming node is to take (R163) -/
  basins : List Nat := []
  deriving DecidableEq, Repr

/-- The Turntable and the Siding. -/
structure Ttb where
  /-- context descriptors (R152) -/
  ctxs : Table Ctx := []
  /-- the Consists (R155) -/
  consists : Table Consist := []
  /-- share-group table (R160) -/
  groups : Table ShareGroup := []
  /-- slow-down table (R168) -/
  slow : Table SlowRow := []
  /-- MAX_NS (TTB_PREEMPT) -/
  maxNs : Nat := 0
  /-- OVER_BOUND (TTB_PREEMPT) -/
  overBound : Nat := 0
  /-- CTX_WAITS (TTB_PREEMPT) -/
  ctxWaits : Nat := 0
  /-- BASIN_NS (TTB_SAFETY_USAGE) -/
  safetyUsage : Nat := 0
  /-- TTB_GRP_SEL, per path and window (R482) -/
  grpSel : Table Nat := []
  /-- the preemptions in progress, by outgoing context (R163) -/
  preemptions : Table Preemption := []
  deriving DecidableEq, Repr

/-- One reader pin that is held (R225). -/
structure KvPin where
  /-- p, the epoch at the moment it was granted (R225) -/
  epoch : Nat := 0
  /-- the Consist whose software or context holds it (R225, R228) -/
  consist : Nat := 0
  /-- the Basin whose ATTN walker holds it; none for a pin that software took (R225) -/
  basin : Option Nat := none
  deriving DecidableEq, Repr

/-- What the KVC keeps of one KV space (R215, R229). -/
structure KvSpace where
  /-- the 64-byte record, VALID with it; empty stands for zero bytes (R215) -/
  record : Bytes := []
  /-- CFG_REJECTED (R216, R229) -/
  cfgRejected : Bool := false
  /-- NO_PAGES, saturating (R229) -/
  noPages : Nat := 0
  /-- EVICTIONS, saturating (R229) -/
  evictions : Nat := 0
  deriving DecidableEq, Repr

/-- Where a page or a sequence slot stands in its lifetime (R222, R226). -/
inductive KvLife where
  | free | live | retired
  deriving DecidableEq, Repr

/-- One device sequence slot (R220). -/
structure KvSeq where
  /-- whether the slot is free, live or retired (R220, R226) -/
  life : KvLife := .free
  /-- the space it belongs to (R220) -/
  space : Nat := 0
  /-- its reuse count (R220) -/
  reuse : Nat := 0
  /-- LENGTH in tokens (R220) -/
  length : Nat := 0
  /-- the page of each block, by block index (R218) -/
  blocks : Table Nat := []
  /-- the prefix-tree nodes of its leading blocks (R220, R224) -/
  path : List Nat := []
  /-- E_r of a retired slot (R225) -/
  retireEpoch : Nat := 0
  deriving DecidableEq, Repr

/-- One device page record (R222). -/
structure KvPage where
  /-- FREE, LIVE or RETIRED (R222) -/
  life : KvLife := .free
  /-- its reference count (R222) -/
  refs : Nat := 0
  /-- a prefix-tree node holds it (R218, R222) -/
  published : Bool := false
  /-- E_r of a retired page (R225) -/
  retireEpoch : Nat := 0
  deriving DecidableEq, Repr

/-- One prefix-tree node (R224). -/
structure KvNode where
  /-- its space (R224) -/
  space : Nat := 0
  /-- its parent node; 0 for the root (R224) -/
  parent : Nat := 0
  /-- the block hash of its key (R224) -/
  hash : Nat := 0
  /-- the page it holds (R224) -/
  page : Nat := 0
  /-- when it was matched last, on the KVC's count of matches (R224) -/
  matched : Nat := 0
  deriving DecidableEq, Repr

/-- The KVC_REQ slot and the request queue of one Consist (R219). -/
structure KvQueue where
  /-- KVC_REQ; empty stands for zero bytes (R219) -/
  slot : Bytes := []
  /-- requests that wait, oldest first (R219) -/
  queue : List Bytes := []
  /-- DROPS, saturating (R229) -/
  drops : Nat := 0
  deriving DecidableEq, Repr

/-- The KV cache manager. -/
structure Kvc where
  /-- KVC_CTL EN (R229) -/
  en : Bool := false
  /-- KVC_META_BASE (R229) -/
  metaBase : Nat := 0
  /-- E (R225, R229) -/
  epoch : Nat := 0
  /-- the pin slots that are held, by number (R225) -/
  pins : Table KvPin := []
  /-- PIN_WAITS, saturating (R229) -/
  pinWaits : Nat := 0
  /-- GEN_DROPS, saturating (R229) -/
  genDrops : Nat := 0
  /-- the KV spaces (R215) -/
  spaces : Table KvSpace := []
  /-- the sequence slots (R220) -/
  seqs : Table KvSeq := []
  /-- the page records (R222) -/
  pages : Table KvPage := []
  /-- the prefix-tree nodes, by a number from 1 (R224) -/
  nodes : Table KvNode := []
  /-- the count of prefix-tree matches, which orders them in time (R224) -/
  matchCount : Nat := 0
  /-- the request slots and queues, by Consist (R219) -/
  queues : Table KvQueue := []
  /-- the Consist whose request was served last (R219) -/
  lastServed : Nat := 0
  deriving DecidableEq, Repr

/-- One ROUTE job in a Routesetter's queue (R242, R243). -/
structure RtsJob where
  /-- its node's slot (R243) -/
  slot : Nat := 0
  /-- its context (R151, R243) -/
  ctx : Nat := 0
  /-- its generation (R258) -/
  generation : Nat := 0
  /-- the stream tag of its context (R19) -/
  tag : Nat := 0
  /-- its node is SAFETY (R243) -/
  safety : Bool := false
  /-- RTS_BUDGET_US (R245) -/
  budgetUs : Nat := 0
  /-- its descriptor as read; none where the read was answered with an error (R242) -/
  desc : Option Bytes := none
  deriving DecidableEq, Repr

/-- Where a running planner job stands (R245). -/
inductive RtsPhase where
  | setup | search | done
  deriving DecidableEq, Repr

/-- The planner's job (R245). -/
structure RtsRun where
  /-- the job (R245) -/
  job : RtsJob := {}
  /-- its start, Timetable ns (R245) -/
  startNs : Nat := 0
  /-- its phase: setup lasts while a read must wait; the output phase belongs to the row that ends the search, and done stands for a job whose record is written or on its way (R245) -/
  phase : RtsPhase := .search
  /-- SEARCH_EPOCH (R252) -/
  searchEpoch : Nat := 0
  /-- the dynamic bank of its search epoch (R239) -/
  searchBank : Nat := 0
  /-- that bank is pinned (R239) -/
  pinned : Bool := false
  /-- the cost map as read in setup (R242) -/
  map : Bytes := []
  /-- the road map as read in setup (R250) -/
  mapIn : Bytes := []
  /-- the plan record to repair, as read in setup (R251) -/
  prev : Bytes := []
  /-- the triangles as read in setup (R235) -/
  tris : Bytes := []
  /-- the stop primitive passed its check in setup (R253) -/
  stopFree : Bool := false
  /-- PFLAGS so far (R255) -/
  pflags : Nat := 0
  /-- PLAN_STATUS (R255) -/
  planStatus : Nat := 0
  /-- node status: 0, or 0x10 ROUTE_ERROR (R243) -/
  status : Nat := 0
  /-- writes of its output that are not yet acknowledged (R245) -/
  left : Nat := 0
  deriving DecidableEq, Repr

/-- One entry of the static leaf store (R231, R235). -/
structure RtsLeaf where
  /-- where its triangles stand in memory (R231, R235) -/
  addr : Nat := 0
  /-- its triangles: 4, or fewer in the last leaf of a mesh (R235) -/
  count : Nat := 0
  /-- the leaf box: least x, y, z and greatest x, y, z, FP32 bits (R231) -/
  box : List Nat := []
  deriving DecidableEq, Repr

/-- The loader's job (R239). -/
structure RtsLoad where
  /-- the job (R239) -/
  job : RtsJob := {}
  /-- the layer that is built and waits for its swap point (R239) -/
  built : Option Bytes := none
  /-- the stamp of a dynamic layer, Timetable ns (R241) -/
  stamp : Nat := 0
  /-- the leaves of a static layer that is built (R235) -/
  leaves : List RtsLeaf := []
  /-- the start of the job, Timetable ns (R246) -/
  startNs : Nat := 0
  /-- every write is acknowledged and the report is due (R245) -/
  done : Bool := false
  /-- node status (R243) -/
  status : Nat := 0
  deriving DecidableEq, Repr

/-- One dynamic bank (R231). -/
structure RtsBank where
  /-- its primitives, 32 bytes each (R231) -/
  prims : Bytes := []
  /-- Timetable time at which the positions hold, in ns (R236) -/
  stamp : Nat := 0
  deriving DecidableEq, Repr

/-- One Routesetter instance. -/
structure Rts where
  /-- RTS_WORLD_OWNER OWNER (R237) -/
  owner : Nat := 0
  /-- RTS_WORLD_OWNER NONE (R237) -/
  noOwner : Bool := true
  /-- EPOCH (R238) -/
  epoch : Nat := 0
  /-- WORLD_VALID (R237) -/
  worldValid : Bool := false
  /-- STATIC_VALID (R237) -/
  staticValid : Bool := false
  /-- VEHICLE_VALID (R237) -/
  vehicleValid : Bool := false
  /-- OWNER_REJECTED (R237) -/
  ownerRejected : Bool := false
  /-- WORLD_VALID was cleared by an uncorrectable error, and no dynamic commit has succeeded since (R258) -/
  lostDynamic : Bool := false
  /-- the same, and no static commit has succeeded since (R258) -/
  lostStatic : Bool := false
  /-- dynamic banks A (0) and B (1) (R231) -/
  banks : Table RtsBank := []
  /-- the active dynamic bank (R239) -/
  active : Nat := 0
  /-- the static layer: header and mesh entries as committed (R231, R235) -/
  statics : Bytes := []
  /-- the static leaf store (R231, R235) -/
  leaves : List RtsLeaf := []
  /-- the broad-phase hierarchy: parts 0 and 1 for the dynamic banks, 2 for the static layer (R231) -/
  hier : Table Bytes := []
  /-- the triangle cache: leaves as read, by their address (R231, R235) -/
  triCache : Table Bytes := []
  /-- the node store: search nodes of 32 bytes (R231, R248) -/
  nodes : Bytes := []
  /-- the closed-state table (R231, R251) -/
  closed : List Nat := []
  /-- the wavefront field, by cell; a cell without an entry holds 0xFFFF_FFFF (R231, R247) -/
  field : Table Nat := []
  /-- the vehicle file (R231, R232) -/
  vehicle : Bytes := []
  /-- planner queue, oldest first (R243) -/
  planQueue : List RtsJob := []
  /-- loader queue, oldest first (R243) -/
  loadQueue : List RtsJob := []
  /-- the planner's job (R245) -/
  run : Option RtsRun := none
  /-- the loader's job (R239) -/
  load : Option RtsLoad := none
  /-- BANK_PINNED: a commit waits for the pinned bank (R239) -/
  bankWait : Bool := false
  /-- RTS_FAULT DETAIL (R258) -/
  faultDetail : Nat := 0
  /-- RTS_FAULT CONTEXT (R258) -/
  faultCtx : Nat := 0
  /-- RTS_FAULT GENERATION (R258) -/
  faultGen : Nat := 0
  /-- RTS_FAULT NODE (R258) -/
  faultNode : Nat := 0
  /-- RTS_FAULT VALID (R258) -/
  faultValid : Bool := false
  /-- RTS_COUNTS NOT_FOUND, saturating (R260) -/
  notFound : Nat := 0
  /-- RTS_COUNTS DEGRADED, saturating (R260) -/
  degraded : Nat := 0
  /-- RTS_COUNTS YIELDS, saturating (R260) -/
  yields : Nat := 0
  /-- RTS_COUNTS OVERRUNS, saturating (R260) -/
  overruns : Nat := 0
  /-- RTS_OVERRUN MAX_NS, saturating (R254) -/
  maxNs : Nat := 0
  deriving DecidableEq, Repr

/-- A completed RESULT node as the Signal box hands it to the Interlocking (R137, R266). -/
structure ResultHandover where
  /-- the node's slot (R137) -/
  slot : Nat := 0
  /-- node status (R137) -/
  status : Nat := 0
  /-- missing-class mark (R137) -/
  marked : Bool := false
  /-- context (R137) -/
  context : Nat := 0
  /-- generation (R137) -/
  generation : Nat := 0
  /-- RESULT_PTR (R137) -/
  resultPtr : Nat := 0
  /-- HEADWAY_CLASS (R137) -/
  headwayClass : Nat := 0
  /-- ring of the graph (R266) -/
  ring : Nat := 0
  /-- Consist of the graph (R266) -/
  consist : Nat := 0
  /-- origin of the graph, Timetable ns (R266) -/
  originNs : Nat := 0
  /-- PLAN_STATUS of a ROUTE node's job (R257) -/
  planStatus : Nat := 0
  /-- PFLAGS[8:0] of a ROUTE node's job (R257) -/
  pflags : Nat := 0
  deriving DecidableEq, Repr

/-- The tap receiver's counts of one Basin (R276). -/
structure TapCount where
  /-- RECORDS (R276) -/
  records : Nat := 0
  /-- RESIDUE_FAILS (R276) -/
  residueFails : Nat := 0
  /-- LOSS_FAILS (R276) -/
  lossFails : Nat := 0
  /-- NONFINITE (R276) -/
  nonfinite : Nat := 0
  /-- the TAP_SEQ expected next (R276) -/
  nextSeq : Nat := 0
  /-- residue records since the previous marker (R276) -/
  sinceMarker : Nat := 0
  deriving DecidableEq, Repr

/-- What became of one capture of a class's source (R271). -/
inductive CaptureState where
  | noExpectation | isOpen | expired | closed
  deriving DecidableEq, Repr

/-- One of the last captures of a class's source, with the tap snapshots of R276. -/
structure Capture where
  /-- capture stamp, Timetable ns (R271) -/
  stamp : Nat := 0
  /-- whether its expectation is open, expired or closed (R271) -/
  state : CaptureState := .noExpectation
  /-- stored sum of RECORDS (R276) -/
  records : Nat := 0
  /-- stored sum of RESIDUE_FAILS (R276) -/
  residueFails : Nat := 0
  /-- stored sum of LOSS_FAILS (R276) -/
  lossFails : Nat := 0
  /-- stored sum of NONFINITE (R276) -/
  nonfinite : Nat := 0
  deriving DecidableEq, Repr

/-- The Headway monitor's state of one class. -/
structure HdwClass where
  /-- LAST_SEQ (HDW_CLASS_STAT) -/
  seq : Nat := 0
  /-- open expectations, oldest first (R271) -/
  opened : List Capture := []
  /-- the last 16 captures of the source, newest first (R271) -/
  past : List Capture := []
  /-- EXPIRED (HDW_CLASS_CNT) -/
  expired : Nat := 0
  /-- LATE (HDW_CLASS_CNT) -/
  late : Nat := 0
  /-- ORIGIN_UNKNOWN (HDW_CLASS_CNT) -/
  originUnknown : Nat := 0
  /-- DUPLICATE (HDW_CLASS_CNT) -/
  duplicate : Nat := 0
  /-- MAX_AGE (HDW_CLASS_AGE) -/
  maxAge : Nat := 0
  deriving DecidableEq, Repr

/-- The history of a RATE rule or the partner snapshot of a CROSS rule (R280). -/
structure RuleHistory where
  /-- capture stamp of the record it was taken from (R279) -/
  stamp : Nat := 0
  /-- its elements in FP32 (R280) -/
  elems : List Nat := []
  deriving DecidableEq, Repr

/-- The obstacle snapshot of a PLAN rule (R280, R282). -/
structure ObstSnapshot where
  /-- capture stamp of the obstacle record (R282) -/
  stamp : Nat := 0
  /-- its obstacle list (R282) -/
  list : Bytes := []
  deriving DecidableEq, Repr

/-- A result header that has been issued and not yet acknowledged (R269, R291). -/
structure HeaderWrite where
  /-- the node's slot (R269) -/
  slot : Nat := 0
  /-- the write was answered with an error (R269) -/
  denied : Bool := false
  /-- the write is held and not yet answered (R269, R373) -/
  waiting : Bool := false
  /-- issued before the safe-state latch (R291) -/
  beforeLatch : Bool := true
  /-- the Consist of the node's graph (R142) -/
  consist : Nat := 0
  /-- the generation that its acknowledgement carries back (R142) -/
  generation : Nat := 0
  deriving DecidableEq, Repr

/-- The Interlocking. -/
structure Ilk where
  /-- RESULT nodes that have completed and wait to be handed over, oldest first (R137) -/
  toHand : List ResultHandover := []
  /-- SAFETY lane, oldest first (R269) -/
  laneSafety : List ResultHandover := []
  /-- QM lane, oldest first (R269) -/
  laneQm : List ResultHandover := []
  /-- headers issued and not acknowledged, oldest first (R269) -/
  headers : List HeaderWrite := []
  /-- tap counts by concentrator port (R276) -/
  taps : Table TapCount := []
  /-- the most recent Basin with a failing record; 0xFF none (R289) -/
  lastFailBasin : Nat := 0xFF
  /-- TAP_FAILS_EXPRESS (ILK_COUNTS) -/
  tapFailsExpress : Nat := 0
  /-- TAP_FAILS_QM (ILK_COUNTS) -/
  tapFailsQm : Nat := 0
  /-- RULE_FAILS (ILK_COUNTS) -/
  ruleFails : Nat := 0
  /-- AGREE_FORCED (ILK_COUNTS) -/
  agreeForced : Nat := 0
  /-- VALID (ILK_RESULTS) -/
  valid : Nat := 0
  /-- NOT_VALID (ILK_RESULTS) -/
  notValid : Nat := 0
  /-- Headway state by class (R271) -/
  classes : Table HdwClass := []
  /-- HDW_CLASS_SEL, per access path (R293, R482) -/
  classSel : Table Nat := []
  /-- RATE histories by RULE_ID (R280) -/
  rate : Table RuleHistory := []
  /-- CROSS partner snapshots by RULE_ID (R280) -/
  cross : Table RuleHistory := []
  /-- obstacle snapshots by RULE_ID (R280) -/
  obst : Table ObstSnapshot := []
  /-- FRAME (ILK_FRAME) -/
  frame : Nat := 0
  /-- FRAME_EVENT occurrences as (instant, count), newest first (R283) -/
  frameHist : List (Nat × Nat) := []
  /-- marked disagreement frames (R283) -/
  marked : List Nat := []
  /-- the frame of the last TAP_QM alert (R278) -/
  qmFrame : Option Nat := none
  /-- ILK_ALERT, by ALERT_NO mod 64 (R289) -/
  alerts : Table Bytes := []
  /-- NEXT_NO (ILK_ALERT_CTL) -/
  nextAlert : Nat := 0
  /-- ALERT_PENDING (ILK_STATUS) -/
  alertPending : Bool := false
  /-- LOCKSTEP (ILK_STATUS) -/
  lockstep : Bool := true
  /-- DEBUG_BROKEN (ILK_STATUS, R264) -/
  debugBroken : Bool := false
  /-- the real-time pairs whose lock-step invasive debug has broken (R264, R387) -/
  rtcBroken : List Nat := []
  /-- QUARANTINE (ILK_STATUS) -/
  quarantine : Nat := 0
  /-- CAUSE; not 0 once the safe state is latched (ILK_SAFE_CAUSE) -/
  safeCause : Nat := 0
  /-- SUBCAUSE (ILK_SAFE_CAUSE) -/
  safeSub : Nat := 0
  /-- CAUSE_COUNT (ILK_SAFE_CAUSE) -/
  causeCount : Nat := 0
  /-- SECOND_CAUSE (R291, R292) -/
  secondCause : Nat := 0
  /-- detection stamp, Timetable ns (ILK_SAFE_SEC, ILK_SAFE_NS) -/
  detectNs : Nat := 0
  /-- PHASE_SAFE at detection (R292) -/
  detectPhaseSafe : Bool := false
  /-- DFRAMES at detection (R292) -/
  detectDframes : Nat := 0
  /-- ILK_STATE at detection (R292, R454) -/
  detectState : IlkState := .rom
  /-- LOCKSTEP_OK at detection (R292, R454) -/
  detectLockstep : Bool := true
  /-- RULESET at detection (R292, R454) -/
  detectRuleset : Nat := 0
  /-- the domains whose clock faults have been reported to the Interlocking (R26) -/
  clockFaults : List Nat := []
  /-- the pull-downs are on and the status frame is available (R291) -/
  asserted : Bool := false
  /-- SAFE_N_NS (R292) -/
  safeNNs : Nat := 0
  /-- WRITES_PENDING (R291) -/
  writesPending : Bool := false
  /-- TERRACE (ILK_GOLDEN) -/
  goldenTerrace : Nat := 0
  /-- PENDING (ILK_GOLDEN) -/
  goldenPending : Bool := false
  /-- DEFERRALS (ILK_GOLDEN) -/
  goldenDeferrals : Nat := 0
  /-- FAILS (ILK_GOLDEN) -/
  goldenFails : Nat := 0
  /-- PASSES (ILK_GOLDEN) -/
  goldenPasses : Nat := 0
  /-- failing residues and losses of the Terrace at the slot (R286) -/
  goldenSnap : Nat := 0
  /-- frame of the slot (R283) -/
  goldenFrame : Nat := 0
  /-- SLICE (ILK_SELFTEST) -/
  lastSlice : Nat := 0
  /-- ROTATIONS (ILK_SELFTEST) -/
  rotations : Nat := 0
  /-- number of the next 10 ms self-test window (R288) -/
  window : Nat := 0
  /-- the slice under test (R288) -/
  testing : Option Nat := none
  /-- the next SAFE_N sample follows a change of the commanded level (R288) -/
  readbackSkip : Bool := true
  /-- WRITE_DENIED (ILK_ERRORS) -/
  writeDenied : Nat := 0
  /-- BAD_PTR (ILK_ERRORS) -/
  badPtr : Nat := 0
  deriving DecidableEq, Repr

/-- How far a freeze has come (R332). -/
inductive FreezeState where
  | running | latched | frozen
  deriving DecidableEq, Repr

/-- A trigger output (R329). -/
structure TrigOut where
  /-- the output is at its active level (R329) -/
  asserted : Bool := false
  /-- when the pulse in progress ends, in Timetable nanoseconds (R329) -/
  pulseEnd : Option Nat := none
  /-- instants of the edges that have not landed yet, oldest occurrence first (R329) -/
  due : List Nat := []
  deriving DecidableEq, Repr

/-- A capture input (R330). -/
structure CapInput where
  /-- stamp of the last accepted edge (R330) -/
  last : Option Int := none
  /-- number of the last accepted edge (R330) -/
  edgeNo : Nat := 0
  /-- stamps and falling polarity, oldest first (R330) -/
  fifo : List (Nat × Bool) := []
  /-- OVERFLOW (R336) -/
  overflow : Nat := 0
  /-- IGNORED (R336) -/
  ignored : Nat := 0
  deriving DecidableEq, Repr

/-- A frame of a camera port (R322). -/
structure CamFrame where
  /-- FRAME (R322) -/
  frame : Nat := 0
  /-- frame-start stamp in nanoseconds (R322) -/
  stamp : Nat := 0
  /-- lines that the port has written (R322) -/
  received : Nat := 0
  /-- LINES: lines acknowledged in line order (R322, R336) -/
  lines : Nat := 0
  /-- the frame is open (R336) -/
  isOpen : Bool := true
  /-- TRUNCATED (R323) -/
  truncated : Bool := false
  /-- the final line count is decided (R322) -/
  final : Bool := false
  deriving DecidableEq, Repr

/-- A line write that is not acknowledged yet (R322, R464). -/
structure LineWrite where
  /-- its frame (R464) -/
  frame : Nat := 0
  /-- its line (R464) -/
  line : Nat := 0
  /-- a Sluice or bank owner denied it (R464) -/
  denied : Bool := false
  deriving DecidableEq, Repr

/-- A camera port (R322, R464). -/
structure CamPort where
  /-- the last frame number given (R322) -/
  number : Nat := 0
  /-- the current frame and the 15 before it, newest first (R322, R336) -/
  frames : List CamFrame := []
  /-- RESYNC (R336) -/
  resync : Bool := false
  /-- ORPHAN_LINES (R336) -/
  orphanLines : Nat := 0
  /-- LINE_CRC_ERRORS (R464, R487) -/
  crcErrors : Nat := 0
  /-- HDR_ERRORS (R487) -/
  hdrErrors : Nat := 0
  /-- when the line timeout last started (R323) -/
  lineBase : Nat := 0
  /-- the line timeout of the frame in progress (R323, R328) -/
  timeoutNs : Nat := 0
  /-- line writes not acknowledged yet, oldest first (R322) -/
  writes : List LineWrite := []
  deriving DecidableEq, Repr

/-- The peer-delay exchanges (R316). -/
structure Pdelay where
  /-- sequence number of the last Pdelay_Req (R316) -/
  reqSeq : Nat := 0
  /-- when it was sent (R316) -/
  t1 : Nat := 0
  /-- its response is awaited (R316) -/
  awaiting : Bool := false
  /-- a peer-delay exchange has completed (R317) -/
  done : Bool := false
  /-- meanLinkDelay, in nanoseconds (R317) -/
  meanDelay : Int := 0
  /-- the previous response's departure at the peer (R316) -/
  lastT3 : Nat := 0
  /-- the previous response's arrival here (R316) -/
  lastT4 : Nat := 0
  deriving DecidableEq, Repr

/-- An event message that the PTP engine has sent (R316). -/
structure PtpMsg where
  /-- 0 Sync, 2 Pdelay_Req, 3 Pdelay_Resp (R316) -/
  kind : Nat := 0
  /-- the Ethernet MAC (R316) -/
  mac : Nat := 0
  /-- sequence number (R316) -/
  seq : Nat := 0
  /-- the time it carries or was sent at (R316) -/
  timeNs : Nat := 0
  deriving DecidableEq, Repr

/-- An armed time-set command (R458). -/
structure ArmedSet where
  /-- SRC (R458) -/
  src : Nat := 0
  /-- SEC and NS, in nanoseconds (R458) -/
  valueNs : Nat := 0
  /-- when it lapses (R458) -/
  lapseNs : Nat := 0
  deriving DecidableEq, Repr

/-- A frame start or an accepted capture edge, as the source of FRAME or CAPTURE events (R325). -/
structure SourceStamp where
  /-- 2 FRAME, 3 CAPTURE (R325) -/
  kind : Nat := 0
  /-- the port or the input (R325) -/
  src : Nat := 0
  /-- its stamp in nanoseconds (R325) -/
  stamp : Nat := 0
  /-- its frame or edge number (R322, R330) -/
  number : Nat := 0
  deriving DecidableEq, Repr

/-- An occurrence of a FRAME or CAPTURE event that is not due yet (R325). -/
structure PendingEvent where
  /-- EVENT_ID (R325) -/
  id : Nat := 0
  /-- its instant (R325) -/
  instant : Nat := 0
  /-- the frame that caused it, for a FRAME event (R326) -/
  frame : Nat := 0
  deriving DecidableEq, Repr

/-- The Timetable. -/
structure Tmt where
  /-- the time counter in whole nanoseconds (SEC × 10⁹ + NS) (R313, R314) -/
  nowNs : Nat := 0
  /-- its fraction, in 2⁻³² ns (R313) -/
  nowFrac : Nat := 0
  /-- RATE (R314, R336) -/
  rate : Int := 0
  /-- the servo's integrator (R317) -/
  integ : Int := 0
  /-- STEPPED (R336) -/
  stepped : Bool := false
  /-- VALID (R336) -/
  valid : Bool := false
  /-- HOLDOVER (R336) -/
  holdover : Bool := false
  /-- LOST (R336) -/
  lost : Bool := false
  /-- FROZE (R336) -/
  froze : Bool := false
  /-- OFF, the last off, saturating (R336) -/
  offset : Int := 0
  /-- SYNC_ACCEPTED, wrapping (R336) -/
  syncAccepted : Nat := 0
  /-- SYNC_REJECTED (R336) -/
  syncRejected : Nat := 0
  /-- TRIG_OVERLAP (R336) -/
  trigOverlap : Nat := 0
  /-- local time of the last accepted Sync (R317, R318) -/
  lastSync : Option Int := none
  /-- consecutive accepted Syncs beyond LOST_OFFSET_NS (R318) -/
  lostRun : Nat := 0
  /-- the peer-delay exchanges (R316) -/
  pdelay : Pdelay := {}
  /-- sequence number of the last Sync sent (R316) -/
  syncSeq : Nat := 0
  /-- event messages sent, newest last (R316) -/
  ptpSent : List PtpMsg := []
  /-- an armed time-set command (R458) -/
  armedSet : Option ArmedSet := none
  /-- occurrence count of each event, by identifier (R326, R336) -/
  evCount : Table Nat := []
  /-- instant of the last occurrence of each event (R336) -/
  evLast : Table Nat := []
  /-- the first instant at which a PERIODIC event may occur next (R325) -/
  evFrom : Table Nat := []
  /-- ONCE events that have occurred, with their instants (R325) -/
  onceDone : List (Nat × Nat) := []
  /-- instants before it were passed before the schedule or the step (R325, R328) -/
  schedFrom : Nat := 0
  /-- FRAME and CAPTURE occurrences not due yet (R325) -/
  pendingEv : List PendingEvent := []
  /-- the stamps of the last second, oldest first: OFFSET_NS reaches no further (R59, R325) -/
  stamps : List SourceStamp := []
  /-- the trigger outputs (R329) -/
  triggers : Table TrigOut := []
  /-- the capture inputs (R330) -/
  caps : Table CapInput := []
  /-- the camera ports (R322) -/
  cams : Table CamPort := []
  /-- NS and FRAC latched by a path's read of TMT_NOW_SEC (R336) -/
  nowLatch : Table (Nat × Nat) := []
  /-- TMT_EVENT_SEL of each path (R336, R482) -/
  eventSel : Table Nat := []
  /-- TMT_CAM_SEL of each path: PORT, HIST (R336, R482) -/
  camSel : Table Nat := []
  /-- how far a freeze has come (R332) -/
  freeze : FreezeState := .running
  /-- TMT_FREEZE SEC and NS (R331, R336) -/
  freezeNs : Nat := 0
  /-- SOURCE (R336) -/
  freezeByEvent : Bool := false
  /-- VALID of TMT_FREEZE (R336) -/
  freezeValid : Bool := false
  /-- time was valid when the freeze started (R335) -/
  validAtFreeze : Bool := false
  deriving DecidableEq, Repr

/-- A Points memory queue (R346, R362). -/
structure PtsQueue where
  /-- Q_BASE BASE, in bytes (R362) -/
  base : Nat := 0
  /-- LOG2_SLOTS (R362) -/
  log2Slots : Nat := 0
  /-- SLOT_SIZE (R362) -/
  slotSize : Nat := 0
  /-- DIR (R362) -/
  tx : Bool := false
  /-- EN (R362) -/
  en : Bool := false
  /-- OWNER_TAG (R362) -/
  ownerTag : Nat := 0
  /-- WRITER_TAG (R362) -/
  writerTag : Nat := 0
  /-- Q_ADDR ADDR (R362) -/
  addr : Nat := 0
  /-- ERROR (R362) -/
  error : Nat := 0
  /-- Q_MSI_ADDR (R362) -/
  msiAddr : Nat := 0
  /-- Q_MSI_DATA (R362) -/
  msiData : Nat := 0
  /-- Points' own index (R346) -/
  index : Nat := 0
  /-- the captured software index (R346) -/
  captured : Nat := 0
  /-- frames written since the queue was enabled (R347) -/
  seq : Nat := 0
  /-- slot writes not acknowledged yet, as (frame, index after it), oldest first (R348) -/
  slotWrites : List (Nat × Nat) := []
  /-- frames whose index-word write is not acknowledged yet, oldest first (R348) -/
  indexWrites : List Nat := []
  deriving DecidableEq, Repr

/-- A port's counters and default queue (R362). -/
structure PtsPort where
  /-- DEFAULT_EN (R362) -/
  defaultEn : Bool := false
  /-- DEFAULT_Q (R362) -/
  defaultQ : Nat := 0
  /-- RX_FRAMES (R362) -/
  rxFrames : Nat := 0
  /-- RX_ERRORS (R362) -/
  rxErrors : Nat := 0
  /-- TX_DROPS (R362) -/
  txDrops : Nat := 0
  deriving DecidableEq, Repr

/-- An ACF frame being filled (R344). -/
structure PtsAgg where
  /-- the entry that decides it (R344) -/
  entry : Bytes := []
  /-- its messages, in order (R344) -/
  msgs : List Bytes := []
  /-- when its first message came (R344) -/
  sinceNs : Nat := 0
  deriving DecidableEq, Repr

/-- A frame that memory queues took (R348). -/
structure PtsArrival where
  /-- the deciding entry (R348) -/
  entry : Nat := 0
  /-- queues whose index word is not acknowledged yet (R348) -/
  left : Nat := 0
  /-- a queue's index word was acknowledged (R348) -/
  acked : Bool := false
  deriving DecidableEq, Repr

/-- A frame queued for an egress port (R349). -/
structure PtsSent where
  /-- the port (R349) -/
  port : Nat := 0
  /-- the traffic class (R349) -/
  tc : Nat := 0
  /-- the frame (R349) -/
  frame : NetFrame := {}
  deriving DecidableEq, Repr

/-- Points. -/
structure Pts where
  /-- the routing table; empty stands for an entry of zeros (R340) -/
  entries : Table Bytes := []
  /-- the arrival counts (R348) -/
  arrivals : Table Nat := []
  /-- PTS_ENTRY_SEL of each path (R362, R482) -/
  entrySel : Table Nat := []
  /-- PTS_ENTRY_DATA of each path; empty stands for zeros (R362, R482) -/
  entryData : Table Bytes := []
  /-- ENTRY_REJECTED (R362) -/
  rejected : Bool := false
  /-- NO_ROUTE (R362) -/
  noRoute : Nat := 0
  /-- Q_FULL (R362) -/
  qFull : Nat := 0
  /-- EGRESS_FULL (R362) -/
  egressFull : Nat := 0
  /-- FORMAT (R362) -/
  formatDrops : Nat := 0
  /-- the encapsulation profiles; empty stands for zeros (R345) -/
  profiles : Table Bytes := []
  /-- IEEE 1722 sequence number of each profile (R344) -/
  encSeq : Table Nat := []
  /-- the ACF frames being filled, by entry (R344) -/
  aggs : Table PtsAgg := []
  /-- the ports (R362) -/
  ports : Table PtsPort := []
  /-- the memory queues (R362) -/
  queues : Table PtsQueue := []
  /-- the model's own number for the next frame that queues take; not the spec's (MODEL) -/
  nextFrame : Nat := 0
  /-- frames whose index words are not all acknowledged (R348) -/
  frames : Table PtsArrival := []
  /-- CAN controllers that are bus-off (R339) -/
  busOff : List Nat := []
  /-- frames queued for egress ports, newest last (R344, R349) -/
  sent : List PtsSent := []
  deriving DecidableEq, Repr

/-- An outbound read that is not answered yet (R355). -/
structure JctRead where
  /-- stream tag of its requester (R355) -/
  tag : Nat := 0
  /-- source port of its requester (R355) -/
  src : Nat := 0
  /-- its address (R355) -/
  addr : Nat := 0
  /-- its length (R355) -/
  len : Nat := 0
  /-- pieces that wait for a read tag, as (address, length) (R354) -/
  toIssue : List (Nat × Nat) := []
  /-- pieces that hold a read tag (R355) -/
  outstanding : Nat := 0
  /-- the data received (R355) -/
  parts : List Host.Cell := []
  /-- a piece has failed (R355) -/
  failed : Bool := false
  deriving DecidableEq, Repr

/-- A read tag of a far side that is held (R355, R356). -/
structure JctTag where
  /-- the read it serves (R355) -/
  read : Nat := 0
  /-- where the next data of its piece goes (R355) -/
  addr : Nat := 0
  /-- when the piece was issued (R356) -/
  sinceNs : Nat := 0
  /-- the tag is quarantined (R356) -/
  quarantined : Bool := false
  deriving DecidableEq, Repr

/-- A semaphore slot (R359). -/
structure JctSlot where
  /-- the 64 B granule (R359) -/
  granule : Nat := 0
  /-- source port of the holder (R359) -/
  src : Nat := 0
  /-- stream tag of the holder (R359) -/
  tag : Nat := 0
  /-- hart number of the holder (R359) -/
  hart : Nat := 0
  /-- when the LR was made (R359) -/
  sinceNs : Nat := 0
  deriving DecidableEq, Repr

/-- An inbound window (R358, R362). -/
structure JctWindow where
  /-- IN_BASE BASE, in bytes (R362) -/
  base : Nat := 0
  /-- IN_LIMIT LIMIT, in bytes (R362) -/
  limit : Nat := 0
  /-- IN_TARGET TARGET, in bytes (R362) -/
  target : Nat := 0
  /-- EN (R362) -/
  en : Bool := false
  /-- ORDERED (R362) -/
  ordered : Bool := false
  /-- RID_MATCH (R362) -/
  ridMatch : Bool := false
  /-- STREAM_TAG (R362) -/
  streamTag : Nat := 0
  /-- RID (R362) -/
  rid : Nat := 0
  deriving DecidableEq, Repr

/-- A far side: 0 PCIe 0, 1 PCIe 1, 2 peripheral fabric (R362). -/
structure JctSide where
  /-- CPL_TIMEOUT_US (R362) -/
  timeoutUs : Nat := 10000
  /-- the PCIe port's Device Control register (R354) -/
  devCtl : Nat := 0x2810
  /-- the read tags held or quarantined (R355, R356) -/
  tags : Table JctTag := []
  /-- KIND (R362) -/
  errKind : Nat := 0
  /-- TAG (R362) -/
  errTag : Nat := 0
  /-- RD_TAG (R362) -/
  errRdTag : Nat := 0
  /-- WRITE (R362) -/
  errWrite : Bool := false
  /-- INBOUND (R362) -/
  errInbound : Bool := false
  /-- VALID (R362) -/
  errValid : Bool := false
  /-- ERR_ADDR (R362) -/
  errAddr : Nat := 0
  /-- ERRORS (R362) -/
  errors : Nat := 0
  /-- LATE_CPL (R362) -/
  lateCpl : Nat := 0
  /-- SC_FAILED (R362) -/
  scFailed : Nat := 0
  /-- the inbound windows of a PCIe port (R362) -/
  windows : Table JctWindow := []
  /-- reads not answered yet, by the model's own number, oldest first (R355) -/
  reads : Table JctRead := []
  /-- write pieces issued, as (tag, address, bytes), newest last (R354, R357) -/
  issued : List (Nat × Nat × Bytes) := []
  /-- the PCIe port's link is up (R362) -/
  up : Bool := false
  deriving DecidableEq, Repr

/-- The Junction. -/
structure Jct where
  /-- the far sides (R362) -/
  sides : Table JctSide := []
  /-- reservations held, oldest first (R359) -/
  slots : List JctSlot := []
  /-- the model's own number for the next read; not the spec's (MODEL) -/
  nextRead : Nat := 0
  /-- responses to outbound reads, as (source port, tag, address, data or none for an error), newest last (R355) -/
  answers : List (Nat × Nat × Nat × Option Bytes) := []
  deriving DecidableEq, Repr

/-- One entry of a Sluice region table (R368's layout). -/
structure Region where
  /-- BASE, byte address of the first page (R367) -/
  base : Nat := 0
  /-- LIMIT, byte address of the last page, inclusive (R367) -/
  limit : Nat := 0
  /-- R_WORLDS (R368) -/
  rWorlds : Nat := 0
  /-- W_WORLDS (R368) -/
  wWorlds : Nat := 0
  /-- VALID (R365) -/
  valid : Bool := false
  /-- PAGED, table 0 only (R365) -/
  paged : Bool := false
  /-- ADMIN_ONLY (R365) -/
  adminOnly : Bool := false
  /-- WINDOW, table 22 only (R380) -/
  window : Bool := false
  /-- LOCKED (R367) -/
  locked : Bool := false
  deriving DecidableEq, Repr

/-- The owner entry of one 4 KiB DRAM page (R368). -/
structure OwnerEntry where
  /-- OWNER (R368) -/
  owner : Nat := 0
  /-- SHARE_TAG (R368) -/
  shareTag : Nat := 0
  /-- SHARE_R (R368) -/
  shareR : Bool := false
  /-- SHARE_W (R368) -/
  shareW : Bool := false
  /-- RESULT (R368) -/
  result : Bool := false
  /-- FREE; a page named by no seed run is FREE (R368, R394) -/
  free : Bool := true
  deriving DecidableEq, Repr

/-- SLC_FAULT_INFO and SLC_FAULT_ADDR of one Sluice. -/
structure SluiceFault where
  /-- TAG of the first denied access (R366) -/
  tag : Nat := 0
  /-- KIND (R365) -/
  kind : Nat := 0
  /-- WRITE (R365) -/
  write : Bool := false
  /-- COUNT, denials of all kinds, saturating (R365) -/
  count : Nat := 0
  /-- VALID (R365) -/
  valid : Bool := false
  /-- ADDR (R365) -/
  addr : Nat := 0
  deriving DecidableEq, Repr

/-- One queued page request: its 32 bytes and the tag that wrote it (R371). -/
structure PageReq where
  /-- the requester's stream tag (R371) -/
  tag : Nat := 0
  /-- the request (R371) -/
  bytes : Bytes := []
  deriving DecidableEq, Repr

/-- A page request accepted and not yet complete (R373). -/
structure PageHandover where
  /-- the request (R373) -/
  req : PageReq := {}
  /-- first page index (R373) -/
  first : Nat := 0
  /-- pages (R373) -/
  count : Nat := 0
  /-- the pages are scrubbed (SCRUB and FREE) (R373) -/
  scrub : Bool := false
  /-- the entry that comes into force; SET_SHARE keeps each page's own OWNER (R373) -/
  newEntry : OwnerEntry := {}
  /-- SET_SHARE: OWNER and FREE stay as they are (R372) -/
  keepOwner : Bool := false
  deriving DecidableEq, Repr

/-- STATE of SLC_ENC_STAT (R381), in the order of its codes. -/
inductive EnclaveState where
  | empty | building | ready
  deriving DecidableEq, Repr

/-- TYPE of an ADD (R381), in the order of its codes. -/
inductive EnclavePageType where
  | code | data | entry | save
  deriving DecidableEq, Repr

/-- One of the 63 enclaves (R381). -/
structure Enclave where
  /-- STATE (R381) -/
  state : EnclaveState := .empty
  /-- creator world (R381) -/
  creator : Nat := 0
  /-- DEBUG (R381) -/
  debug : Bool := false
  /-- (TYPE, page index) in the order of addition (R381, R382) -/
  pages : List (Nat × Nat) := []
  /-- M; empty stands for the 48 zero bytes it reads as (R381) -/
  measure : Bytes := []
  /-- BUSY (SLC fields) -/
  busy : Bool := false
  /-- the registers an asynchronous exit wrote to slot h (R386) -/
  slots : Table HartRegs := []
  deriving DecidableEq, Repr

/-- One application hart (R382's numbering, 0 to 19), as far as the gateway and the tags go. -/
structure Hart where
  /-- the hart's architectural registers at its last gateway event (R384, R386) -/
  regs : HartRegs := {}
  /-- the stream tag the hart's accesses carry (R19) -/
  tag : Nat := 0
  /-- mstag, loaded at reset from TAGS (R386) -/
  mstag : Nat := 0
  /-- hstag (R386) -/
  hstag : Nat := 0
  /-- vstag (R386) -/
  vstag : Nat := 0
  /-- gatestat ENCLAVE (R386) -/
  enclave : Nat := 0
  /-- gatestat AEX (R386) -/
  aex : Bool := false
  /-- gatestat FAULT (R386) -/
  gateFault : Bool := false
  /-- internal gate state: pc + 4 of the GATE.ENTER (R384) -/
  savedPc : Nat := 0
  /-- internal gate state: sp (R384) -/
  savedSp : Nat := 0
  /-- internal gate state: ra (R384) -/
  savedRa : Nat := 0
  /-- internal gate state: the tag before the entry (R384) -/
  savedTag : Nat := 0
  /-- internal gate state: the GATE.ENTER's rd (R385) -/
  savedRd : Nat := 0
  /-- xepc of the last trap the gateway rules describe (R384, R386) -/
  xepc : Nat := 0
  /-- xtval of that trap (R386) -/
  xtval : Nat := 0
  /-- xcause of that trap: 1 instruction access fault, 2 illegal instruction (R383, R384) -/
  xcause : Nat := 0
  /-- halted through the debug module; harts 20 and 21 are the Interlocking's cores (R387) -/
  debugHalted : Bool := false
  /-- a halt request is held until the hart leaves its enclave (R387) -/
  haltHeld : Bool := false
  deriving DecidableEq, Repr

/-- A line of the coherent caches of the application cores (R12, R375). -/
structure CoreLine where
  /-- the stream tag under which it was filled (R375) -/
  tag : Nat := 0
  /-- it holds a store that memory does not (R375) -/
  dirty : Bool := false
  /-- its bytes (R375) -/
  data : Bytes := []
  deriving DecidableEq, Repr

/-- The SLC block: Sluice tables, page requests, enclaves and debug enables. -/
structure Slc where
  /-- region tables, entry r of table t at 32 t + r (R365, R394) -/
  regions : Table Region := []
  /-- the owner table, by page index (R368) -/
  owners : Table OwnerEntry := []
  /-- SLC_PAGE_REQ; empty stands for zero bytes (R371) -/
  pageSlot : Bytes := []
  /-- page requests that wait, oldest first (R371) -/
  pageQueue : List PageReq := []
  /-- SLC_PAGE_QSTAT REFUSED (R371) -/
  refused : Nat := 0
  /-- the page request in progress (R373) -/
  handover : Option PageHandover := none
  /-- accesses held until the new page entries are in force (R373) -/
  held : List Access := []
  /-- the enclaves, by number (R381) -/
  enclaves : Table Enclave := []
  /-- the SELECT state, per control-bus path (R382, R482) -/
  selected : Table Nat := []
  /-- SLC_ENC_STAT ERROR (SLC fields) -/
  encError : Nat := 0
  /-- SLC_DBG_EN INV (R387) -/
  dbgInv : Nat := 0
  /-- SLC_DBG_EN NONINV (R387) -/
  dbgNonInv : Nat := 0
  /-- SLC_REVOKE DOMAIN (R391) -/
  revokeDomain : Nat := 0
  /-- SLC_REVOKE WORLD (R391) -/
  revokeWorld : Nat := 0
  /-- SLC_REVOKE VALID (R391) -/
  revokeValid : Bool := false
  /-- SLC_REVOKE COUNT, saturating (R391) -/
  revokeCount : Nat := 0
  /-- fault captures, by Sluice number (R365) -/
  faults : Table SluiceFault := []
  /-- the application harts (R382) -/
  harts : Table Hart := []
  /-- the cached lines of the coherent application cores, by line number (R12, R375) -/
  coreLines : Table CoreLine := []
  deriving DecidableEq, Repr

/-- The Stationmaster. -/
structure Stm where
  /-- reports that blocks have made to the Stationmaster, newest last, as (kind, subject, detail); kinds: 1 clock fault, 2 region repaired, 3 bank degraded, 4 poisoned word, 5 page-table error, 6 Terrace quarantine (R26, R108, R109, R369) -/
  reports : List (Nat × Nat × Nat) := []
  /-- STM_MBOX; empty stands for zero bytes (R399) -/
  mboxSlot : Bytes := []
  /-- mailbox requests that wait, oldest first (R399) -/
  queue : List MboxReq := []
  /-- interrupts of responses whose line has been acknowledged, not yet sent: tag, address and data (R399) -/
  replies : List (Nat × Nat × Nat) := []
  /-- REFUSED (R399) -/
  mboxRefused : Nat := 0
  /-- tags with a valid handshake, oldest first (R401, R402) -/
  handshakes : List Nat := []
  /-- FW_RUNNING (R398, STM_STATUS) -/
  fwRunning : Bool := false
  /-- WDOG_EXPIRED (R421, STM_STATUS) -/
  wdogExpired : Bool := false
  /-- STATE: 0 IDLE, 1 VERIFYING, 2 STAGED, 3 DEFERRED_EMERGENCY, 4 ACTIVATING, 5 DONE, 6 REJECTED, 7 ABORTED (R417, STM_FW_STAT) -/
  fwState : Nat := 0
  /-- CODE (R417, STM_FW_STAT) -/
  fwCode : Nat := 0
  /-- ACTIVATIONS (STM_FW_STAT) -/
  activations : Nat := 0
  /-- IMAGE_LEN of the update being verified (R400) -/
  fwLen : Nat := 0
  /-- the staged image as it was verified (R417) -/
  fwImage : Bytes := []
  /-- the swap point has passed and the new firmware does not run yet (R418) -/
  fwSwapped : Bool := false
  /-- GROUPS (STM_TRACE_EN) -/
  traceEn : Nat := 0x0FFF
  /-- WRITE_SEQ: records written since start-up (R422) -/
  logSeq : Nat := 0
  deriving DecidableEq, Repr

/-- A Terrace's DVFS state (R411, R413). -/
structure Terr where
  /-- POINT (PWR_TERRACE) -/
  point : Nat := 0
  /-- VOLTAGE_MV (PWR_TERRACE) -/
  voltage : Nat := 0
  /-- TJ, coded as °C + 64 (PWR_TERRACE) -/
  tj : Nat := 0
  /-- the thermal loop lowers it until it reads 2 °C below the target (R413) -/
  cooling : Bool := false
  deriving DecidableEq, Repr

/-- A power domain's transition (R404, R408). -/
structure PwrDom where
  /-- the state that the transition in progress ends in (R407, R409) -/
  target : Option Nat := none
  /-- OUTCOME: 1 COMPLETED, 2 ABORTED, 3 RESTARTED (R408, PWR_DOM_STAT) -/
  outcome : Nat := 0
  /-- a SET_STATE ON is latched (R408) -/
  latchedOn : Bool := false
  /-- EMERGENCY_CUT (R415, PWR_DOM_STAT) -/
  cut : Bool := false
  deriving DecidableEq, Repr

/-- A held power request (R390, R406). -/
structure PwrHold where
  /-- the domain (R390) -/
  domain : Nat := 0
  /-- the state requested (R406) -/
  state : Nat := 0
  /-- the requester's tag (R390) -/
  tag : Nat := 0
  /-- held because of secure use (R390) -/
  secure : Bool := false
  /-- the using world has released it (R390) -/
  released : Bool := false
  deriving DecidableEq, Repr

/-- Power domains, control loops, the clamp and the island supplies. -/
structure Pwr where
  /-- STATE: 0 IDLE, 1 THROTTLE, 2 CUT (R414, PWR_CLAMP) -/
  clampState : Nat := 0
  /-- SENSOR (PWR_CLAMP) -/
  clampSensor : Nat := 0
  /-- TJ_MAX (PWR_CLAMP) -/
  tjMax : Nat := 0
  /-- THROTTLES (PWR_CLAMP) -/
  throttles : Nat := 0
  /-- CUTS (PWR_CLAMP) -/
  cuts : Nat := 0
  /-- when THROTTLE began (R415) -/
  throttleNs : Nat := 0
  /-- since when every sensor and segment is clear of its release level (R416) -/
  clearNs : Option Nat := none
  /-- the segments in CUT (R415) -/
  cutSegs : List Nat := []
  /-- POWER (PWR_PKG) -/
  pkgPower : Nat := 0
  /-- LIMIT_W (PWR_PKG) -/
  pkgLimit : Nat := 0
  /-- PKG_LIMITED (PWR_PKG) -/
  pkgLimited : Bool := false
  /-- the Terraces (R411) -/
  terr : Table Terr := []
  /-- the switchable domains, by number (R404) -/
  doms : Table PwrDom := []
  /-- the power state of each CAN controller, whose clock domain 36 they share (R404) -/
  can : Table ClockState := []
  /-- held requests, oldest first (R390, R406) -/
  holds : List PwrHold := []
  /-- HELD (R390, SLC_SECURE_HOLD) -/
  secureHeld : Nat := 0
  /-- ON_BACKUP (R425, PWR_ISL_STAT) -/
  onBackup : Bool := false
  /-- BK_LOW (R426, PWR_ISL_STAT) -/
  bkLow : Bool := false
  /-- BK_CHECK_FAIL (R426, PWR_ISL_STAT) -/
  bkCheckFail : Bool := false
  /-- BK_LOW_EVENTS (PWR_ISL_STAT) -/
  bkLowEvents : Nat := 0
  /-- both island supplies have failed (R427) -/
  islandLost : Bool := false
  /-- PWR_DOM_SEL of each path (R482, PWR_DOM_SEL) -/
  domSel : Table Nat := []
  deriving DecidableEq, Repr

/-- STATE of MWL_PORT_STAT, in the order of its codes. -/
inductive LinkState where
  | off | training | upX8 | upX4 | wrongPeer | failed
  deriving DecidableEq, Repr

/-- A message sent on a port (R435). -/
structure MwlMsg where
  /-- the port (R435) -/
  port : Nat := 0
  /-- its first flit (R435) -/
  flit : Bytes := []
  /-- its data (R435) -/
  data : Bytes := []
  /-- its buffer class (R434) -/
  cls : Nat := 0
  deriving DecidableEq, Repr

/-- A Mawyn port (R432, R433). -/
structure MwlPort where
  /-- STATE (MWL_PORT_STAT) -/
  state : LinkState := .off
  /-- LANES_BAD (MWL_PORT_STAT) -/
  lanesBad : Nat := 0
  /-- PEER_DEVICE (MWL_PORT_STAT) -/
  peerDevice : Nat := 0
  /-- PEER_PORT (MWL_PORT_STAT) -/
  peerPort : Nat := 0
  /-- the block sequence expected next (R433) -/
  rxExpect : Nat := 0
  /-- the last block of ours that the peer has acknowledged (R433) -/
  ackSeen : Nat := 0
  /-- a NAK with the sequence expected is to be sent (R433) -/
  nakDue : Bool := false
  /-- instants of the last replays, newest first (R432) -/
  replayNs : List Nat := []
  /-- link-delay samples of the last 16 control slots, newest first (R443) -/
  delays : List Int := []
  /-- TX_TIME of the last block received (R443) -/
  txTime : Nat := 0
  /-- TIME_VALID of it (R443) -/
  timeValid : Bool := false
  /-- its local arrival (R443) -/
  arrival : Nat := 0
  /-- REPLAYS (MWL_PORT_CNT) -/
  replays : Nat := 0
  /-- FEC_CORRECTED (MWL_PORT_CNT) -/
  fecCorrected : Nat := 0
  /-- UNCORRECTABLE (MWL_PORT_CNT) -/
  uncorrectable : Nat := 0
  /-- RETRAINS (MWL_PORT_CNT) -/
  retrains : Nat := 0
  /-- flit credits held, by buffer class (R433, R434) -/
  credits : Table Nat := []
  /-- messages that wait for credits or for the output, oldest first (R434) -/
  queue : List MwlMsg := []
  /-- PRIO flits sent since the last normal flit while normal flits wait (R434) -/
  prioRun : Nat := 0
  deriving DecidableEq, Repr

/-- What a device knows of another (R441). -/
structure MwlPeer where
  /-- its port-up bits (R441) -/
  ports : Nat := 0
  /-- sequence of its latest LINK_STATE (R441) -/
  seq : Nat := 0
  /-- it has sent a LINK_STATE within 5 ms (R441) -/
  heard : Bool := false
  /-- when its last LINK_STATE arrived (R441) -/
  heardNs : Nat := 0
  deriving DecidableEq, Repr

/-- A transaction of this device (R438). -/
structure MwlTxn where
  /-- its destination (R438) -/
  dst : Nat := 0
  /-- a write (R438) -/
  write : Bool := false
  /-- its requester (R438) -/
  origin : Origin := .other
  /-- the stream tag of its requester (R438) -/
  tag : Nat := 0
  /-- its bytes (R438) -/
  len : Nat := 0
  /-- when it was sent (R438) -/
  sentNs : Nat := 0
  /-- the route candidate it took (R441) -/
  route : Nat := 0
  deriving DecidableEq, Repr

/-- A local access that waits for its destination's old route to be empty (R441). -/
structure MwlReq where
  /-- its requester (R441) -/
  origin : Origin := .other
  /-- the stream tag of its requester (R441) -/
  tag : Nat := 0
  /-- the outbound window (R436) -/
  window : Nat := 0
  /-- the offset in it (R436) -/
  offset : Nat := 0
  /-- its bytes (R436) -/
  len : Nat := 0
  /-- a write (R436) -/
  write : Bool := false
  /-- the bytes of a write (R436) -/
  data : Bytes := []
  deriving DecidableEq, Repr

/-- The Mawyn layer. -/
structure Mwl where
  /-- the ports (MWL_PORT_STAT) -/
  ports : Table MwlPort := []
  /-- the link-state table (R441) -/
  peers : Table MwlPeer := []
  /-- REACHABLE (MWL_REACH) -/
  reach : Nat := 0
  /-- sequence of the last LINK_STATE sent (R441) -/
  seq : Nat := 0
  /-- TXN of the next transaction (R435) -/
  nextTxn : Nat := 0
  /-- the transactions outstanding, by TXN (R438) -/
  txns : Table MwlTxn := []
  /-- accesses that wait for the old route, oldest first (R441) -/
  waiting : List MwlReq := []
  /-- messages sent and forwarded, newest last (R435) -/
  sent : List MwlMsg := []
  /-- responses to local requesters, as (source port, tag, data or none for an error), newest last (R438) -/
  answers : List (Nat × Nat × Option Bytes) := []
  /-- TIMEOUTS (MWL_ERRORS) -/
  timeouts : Nat := 0
  /-- REMOTE_ERRORS (MWL_ERRORS) -/
  remoteErrors : Nat := 0
  /-- NO_WINDOW (MWL_ERRORS) -/
  noWindow : Nat := 0
  /-- DROPPED (MWL_ERRORS) -/
  dropped : Nat := 0
  deriving DecidableEq, Repr

/-- A display stream of the Fountain (R465, R488). -/
structure FtnStream where
  /-- LIST BASE (R488) -/
  listBase : Nat := 0
  /-- EN (R488) -/
  en : Bool := false
  /-- ACTIVE (R488) -/
  active : Bool := false
  /-- HPD (R488) -/
  hpd : Bool := false
  /-- FRAMES (R488) -/
  frames : Nat := 0
  /-- STALE_FRAMES (R488) -/
  stale : Nat := 0
  /-- BAD_DESC (R488) -/
  badDesc : Nat := 0
  /-- UNDERRUN (R488) -/
  underrun : Nat := 0
  /-- what the frame in progress shows of each layer that the list enables, as (index, treatment): 0 shown, 1 hidden, 2 filled with FALLBACK (R465, R466) -/
  layers : List (Nat × Nat) := []
  deriving DecidableEq, Repr

/-- The Fountain. -/
structure Ftn where
  /-- the display streams (R488) -/
  streams : Table FtnStream := []
  deriving DecidableEq, Repr

/-- An image that IMAGE_LOAD has opened (R456). -/
structure SupImage where
  /-- it is a partial image (R456) -/
  partialImage : Bool := false
  /-- IMAGE_LEN of its header (R456) -/
  len : Nat := 0
  /-- the sum of the chunk lengths so far (R456) -/
  next : Nat := 0
  deriving DecidableEq, Repr

/-- The supervisor port (R446 to R462). -/
structure Sup where
  /-- the response frame to the last command, header, data and CRC; empty where none is answered (R450) -/
  response : Bytes := []
  /-- CRC_ERRORS, saturating (R462) -/
  crcErrors : Nat := 0
  /-- ABORTS, saturating (R462) -/
  aborts : Nat := 0
  /-- TIMEOUTS, saturating (R462) -/
  timeouts : Nat := 0
  /-- HB_COUNT (R461) -/
  hbCount : Nat := 0
  /-- the image that is open (R456) -/
  image : Option SupImage := none
  /-- ADDR, LENGTH and CRC of the previous chunk (R456) -/
  lastChunk : Option (Nat × Nat × Nat) := none
  deriving DecidableEq, Repr

/-- What the debug module answers to a request (R387). -/
inductive DmiAnswer where
  | none | done | unavailable | held
  deriving DecidableEq, Repr

/-- The test access port (R492 to R497). -/
structure TapPort where
  /-- the instruction register; IDCODE after test-logic reset (R492) -/
  instr : Nat := 1
  /-- what the last data-register scan shifted out: how many bits, and the bits, the first shifted least significant (R492) -/
  out : Nat × Nat := (0, 0)
  /-- what the debug module answered to the last request (R387, R492) -/
  dmi : DmiAnswer := .none
  /-- the selected scan chain (R492, R495) -/
  chain : Nat := 0
  /-- bits shifted from the chain beyond whole rotations (R495) -/
  shifted : Nat := 0
  /-- MEM_ID (R492) -/
  memId : Nat := 0
  /-- ECC (R492) -/
  memEcc : Bool := false
  /-- the word that MEM_READ shifts next (R496) -/
  memWord : Nat := 0
  deriving DecidableEq, Repr

/-- What the device answered to an access. -/
inductive RespKind where
  | none | data | error | held
  deriving DecidableEq, Repr

/-- The response to the access that a command carried (R15, R479). -/
structure Resp where
  /-- what kind of response (R15) -/
  kind : RespKind := .none
  /-- the data of a read response (R15) -/
  bytes : Bytes := []
  deriving DecidableEq, Repr

/-- The whole device. -/
structure State where
  /-- the model's own queue of the commands that wait, first in, first out (MODEL) -/
  pending : List Instr := []
  /-- the model's own counter of the free values drawn so far; not the spec's (MODEL) -/
  freeCtr : Nat := 0
  /-- contents of DRAM, Pools and Reservoir, at device physical addresses, in canonical form (R479) -/
  mem : List Host.Cell := []
  /-- the clock domains (R26) -/
  clocks : Table ClockDomain := []
  /-- pins and supplies (R30) -/
  pins : Pins := {}
  /-- start-up status and progress (R55) -/
  boot : Boot := {}
  /-- partial reload (R63) -/
  reload : Reload := {}
  /-- the section payloads in force, by TYPE (R42) -/
  sections : Table Bytes := []
  /-- the Basins (R64) -/
  basins : Table Basin := []
  /-- the Pool and Reservoir banks (R96) -/
  banks : Table Bank := []
  /-- the POOL and RSV register blocks (R97) -/
  blocks : Table BankBlock := []
  /-- the LPDDR5X controllers (R115) -/
  dram : Table DramCtrl := []
  /-- the repair map (R111) -/
  repair : Repair := {}
  /-- Sluices, page owners, enclaves, debug enables (R365) -/
  slc : Slc := {}
  /-- the Signal box (R121) -/
  sbx : Sbx := {}
  /-- the Turntable (R152) -/
  ttb : Ttb := {}
  /-- writes the device has issued to targets outside its memories (interrupt files, PCIe, Mawyn) as (tag, address, bytes), newest last (R19) -/
  sent : List (Nat × Nat × Bytes) := []
  /-- the Timetable (R313) -/
  tmt : Tmt := {}
  /-- the response to the last access a command carried (R15) -/
  resp : Resp := {}
  /-- the Stationmaster (R399) -/
  stm : Stm := {}
  /-- the block monitors: 64 + r AQD router r, 80 SBX, 81 TTB, 82 KVC, 83 + i RTS i, 85 PTS, 86 JCT, 87 MWL, 88 + k RSV k (R489) -/
  mons : Table Pmu := []
  /-- the Interlocking (R261) -/
  ilk : Ilk := {}
  /-- the KV cache manager (R229) -/
  kvc : Kvc := {}
  /-- the Routesetter instances (R231) -/
  rts : Table Rts := []
  /-- Points (R337) -/
  pts : Pts := {}
  /-- the Junction (R354) -/
  jct : Jct := {}
  /-- power domains, control loops, clamp and island supplies (R404) -/
  pwr : Pwr := {}
  /-- the Mawyn layer (R431) -/
  mwl : Mwl := {}
  /-- the Fountain (R465) -/
  ftn : Ftn := {}
  /-- the supervisor port (R446) -/
  sup : Sup := {}
  /-- the test access port (R492) -/
  tapPort : TapPort := {}
  /-- per path, the address and the value of the high half that a 4 B read has latched (R480, R482) -/
  highLatch : Table (Nat × Nat) := []
  deriving DecidableEq, Repr

/-- The reasons a run stops in a fault. -/
inductive Fault where
  /-- Raised by no command: the spec answers every access to a missing address with an error response (R479),
  which the meanings model. Safe, because nothing that the device goes on with ends here. -/
  | noSuchAddress
  deriving DecidableEq, Repr

/-- The reasons a command is refused. -/
inductive Refusal where
  /-- Raised by an arm of the dispatch whose command has no meaning yet. Safe: the run stops. -/
  | notModelled (mnemonic : String)
  deriving DecidableEq, Repr

/-- The device as power-on leaves it, PORST_N low: every register at the value that the spec gives for reset, or that the
assumption log names; memory with nothing listed; no command waiting. RESET_RELEASE starts it up (R30, R52). -/
def State.reset : State := {}

end Sys2Proof.Machine
end

