-- ==== Sys2Proof/Machine/Ops.lean ====
section
/-! DEFINITION. The named operations over the state that the meanings share: memory, the section payloads in force,
stream tags, the address map, the Sluice's judgement, and the writes and reads that blocks make on their own. -/

namespace Sys2Proof.Machine

/-- The outcome of a command. -/
abbrev Out := Host.Outcome State Fault Refusal

/-- The device is out of reset, its clocks run and its island has power, so that commands reach its blocks (R27, R30,
R427). -/
def State.live (s : State) : Bool :=
  s.pins.porstN && s.pins.resetN && s.tmt.freeze != .frozen && !s.pwr.islandLost

/-- A command acts when the device is out of reset and not frozen; otherwise nothing in the device sees it. -/
def act (s : State) (f : State → State) : Out := .next (if s.live then f s else s)

/-! ### Memory -/

/-- The byte at an address; an address that is not listed reads as 0. -/
def memGet (m : List Host.Cell) (a : Nat) : Byte := tget 0 m a

/-- The cells that a byte string takes from an address: the bytes that are not 0. -/
def cellsFrom (a : Nat) : Bytes → List Host.Cell
  | [] => []
  | b :: r => if b = 0 then cellsFrom (a + 1) r else (a, b) :: cellsFrom (a + 1) r

/-- The memory with a byte string stored from an address. -/
def memWrite (m : List Host.Cell) (a : Nat) (bs : Bytes) : List Host.Cell :=
  m.filter (fun c => c.1 < a) ++ cellsFrom a bs ++ m.filter fun c => a + bs.length ≤ c.1

/-- `n` bytes from an address. -/
def memRead (m : List Host.Cell) (a : Nat) : Nat → Bytes
  | 0 => []
  | n + 1 => memGet m a :: memRead m (a + 1) n

/-- The memory with `n` bytes from an address zeroed. -/
def memZero (m : List Host.Cell) (a n : Nat) : List Host.Cell := m.filter fun c => c.1 < a || a + n ≤ c.1

/-- The canonical form: addresses strictly rising from `lo`, and no entry equal to what an unlisted address reads. -/
def memWfFrom (lo : Nat) : List Host.Cell → Bool
  | [] => true
  | (a, b) :: r => lo ≤ a && b != 0 && memWfFrom (a + 1) r

/-- The memory is in canonical form. -/
def Memory.wf (m : List Host.Cell) : Bool := memWfFrom 0 m

/-- Store bytes at a device physical address. -/
def State.wr (s : State) (a : Nat) (bs : Bytes) : State := { s with mem := memWrite s.mem a bs }

/-- Read bytes at a device physical address. -/
def State.rd (s : State) (a n : Nat) : Bytes := memRead s.mem a n

/-- Read a little-endian number of `n` bytes at a device physical address. -/
def State.rdLe (s : State) (a n : Nat) : Nat := leNat (s.rd a n)

/-- Zero `n` bytes. -/
def State.zero (s : State) (a n : Nat) : State := { s with mem := memZero s.mem a n }

/-- `n` bytes from an address become free values: the spec does not say what they hold. -/
def State.scramble (s : State) (a n k : Nat) : State := s.wr a ((List.range n).map (Config.freeByte k))

/-- Take a fresh free-value index: the next one, and the state that has used it. -/
def State.draw (s : State) : Nat × State := (s.freeCtr, { s with freeCtr := s.freeCtr + 1 })

/-! ### Entries of the tables -/

/-- Basin `n`. -/
def State.basin (s : State) (n : Nat) : Basin := tget {} s.basins n
/-- Change Basin `n`. -/
def State.modBasin (s : State) (n : Nat) (f : Basin → Basin) : State := { s with basins := tmod {} s.basins n f }
/-- Bank `k`. -/
def State.bank (s : State) (k : Nat) : Bank := tget {} s.banks k
/-- Change bank `k`. -/
def State.modBank (s : State) (k : Nat) (f : Bank → Bank) : State := { s with banks := tmod {} s.banks k f }
/-- POOL or RSV block `k`. -/
def State.block (s : State) (k : Nat) : BankBlock := tget {} s.blocks k
/-- Change POOL or RSV block `k`. -/
def State.modBlock (s : State) (k : Nat) (f : BankBlock → BankBlock) : State :=
  { s with blocks := tmod {} s.blocks k f }
/-- LPDDR5X controller `k`. -/
def State.dramCtrl (s : State) (k : Nat) : DramCtrl := tget {} s.dram k
/-- Clock domain `d`. -/
def State.clock (s : State) (d : Nat) : ClockDomain := tget {} s.clocks d
/-- Change clock domain `d`. -/
def State.modClock (s : State) (d : Nat) (f : ClockDomain → ClockDomain) : State :=
  { s with clocks := tmod {} s.clocks d f }
/-- A reload is between LOADING and DONE (R58). -/
def Reload.busy (r : Reload) : Bool := r.state == .loading || r.state == .verifying || r.armed
/-- The current window of a clock domain is not judged: a step lies in it, or an instant at which the domain does not run
(R26). -/
def State.clockStep (s : State) (d : Nat) : State := s.modClock d fun c => { c with stepInWindow := true }
/-- Ring `n`. -/
def State.ring (s : State) (n : Nat) : Ring := tget {} s.sbx.rings n
/-- Change ring `n`. -/
def State.modRing (s : State) (n : Nat) (f : Ring → Ring) : State :=
  { s with sbx := { s.sbx with rings := tmod {} s.sbx.rings n f } }
/-- Token entry `n`. -/
def State.token (s : State) (n : Nat) : Token := tget { stale := s.sbx.freshStale } s.sbx.tokens n
/-- Change token entry `n`. -/
def State.modToken (s : State) (n : Nat) (f : Token → Token) : State :=
  { s with sbx := { s.sbx with tokens := tmod { stale := s.sbx.freshStale } s.sbx.tokens n f } }
/-- The node in slot `n`. -/
def State.node (s : State) (n : Nat) : Node := tget {} s.sbx.nodes n
/-- Change the node in slot `n`. -/
def State.modNode (s : State) (n : Nat) (f : Node → Node) : State :=
  { s with sbx := { s.sbx with nodes := tmod {} s.sbx.nodes n f } }
/-- Graph `g`. -/
def State.graph (s : State) (g : Nat) : Graph := tget {} s.sbx.graphs g
/-- Change graph `g`. -/
def State.modGraph (s : State) (g : Nat) (f : Graph → Graph) : State :=
  { s with sbx := { s.sbx with graphs := tmod {} s.sbx.graphs g f } }
/-- Context `c`. -/
def State.ctx (s : State) (c : Nat) : Ctx := tget {} s.ttb.ctxs c
/-- Change context `c`. -/
def State.modCtx (s : State) (c : Nat) (f : Ctx → Ctx) : State :=
  { s with ttb := { s.ttb with ctxs := tmod {} s.ttb.ctxs c f } }
/-- Consist `c`. -/
def State.consist (s : State) (c : Nat) : Consist := tget {} s.ttb.consists c
/-- Change Consist `c`. -/
def State.modConsist (s : State) (c : Nat) (f : Consist → Consist) : State :=
  { s with ttb := { s.ttb with consists := tmod {} s.ttb.consists c f } }
/-- The owner entry of page `p`. -/
def State.owner (s : State) (p : Nat) : OwnerEntry := tget {} s.slc.owners p
/-- Change the owner entry of page `p`. -/
def State.modOwner (s : State) (p : Nat) (f : OwnerEntry → OwnerEntry) : State :=
  { s with slc := { s.slc with owners := tmod {} s.slc.owners p f } }
/-- Enclave `n`. -/
def State.enclave (s : State) (n : Nat) : Enclave := tget {} s.slc.enclaves n
/-- Change enclave `n`. -/
def State.modEnclave (s : State) (n : Nat) (f : Enclave → Enclave) : State :=
  { s with slc := { s.slc with enclaves := tmod {} s.slc.enclaves n f } }
/-- Hart `h`. -/
def State.hart (s : State) (h : Nat) : Hart := tget {} s.slc.harts h
/-- Change hart `h`. -/
def State.modHart (s : State) (h : Nat) (f : Hart → Hart) : State :=
  { s with slc := { s.slc with harts := tmod {} s.slc.harts h f } }
/-- The logic of Terrace `t` is on (R407). -/
def State.terraceOn (s : State) (t : Nat) : Bool := (s.clock (t + 1)).state == .on
/-- The time counter, in nanoseconds. -/
def State.now (s : State) : Nat := s.tmt.nowNs

/-- Change the Timetable. -/
def State.modTmt (s : State) (f : Tmt → Tmt) : State := { s with tmt := f s.tmt }
/-- Time has come to an instant: the counter stands at it, or further where it is already. -/
def State.reach (s : State) (t : Nat) : State :=
  if s.pins.porstN && s.tmt.freeze == .running then s.modTmt fun x => { x with nowNs := max x.nowNs t } else s

/-- Firmware runs its loops: it is running, its watchdog has not expired, and no activation holds it (R418, R421). -/
def State.fwLoops (s : State) : Bool := s.stm.fwRunning && !s.stm.wdogExpired && !s.stm.fwSwapped

/-- A report to the Stationmaster: kind, subject, detail. -/
def State.report (s : State) (kind a b : Nat) : State :=
  { s with stm := { s.stm with reports := s.stm.reports ++ [(kind, a, b)] } }

/-! ### Sections in force (R42) and what they say -/

/-- The payload in force of a section TYPE; empty where the image has none. -/
def State.sec (s : State) (type : Nat) : Bytes := tget [] s.sections type

/-- TYPE codes of the sections (R42). -/
def secSmfw : Nat := 0x0001
/-- ILKFW (R42). -/
def secIlkfw : Nat := 0x0002
/-- CLOCKPLAN (R42). -/
def secClockplan : Nat := 0x0010
/-- POWERPLAN (R42). -/
def secPowerplan : Nat := 0x0011
/-- MEMORY (R42). -/
def secMemory : Nat := 0x0012
/-- IOPLAN (R42). -/
def secIoplan : Nat := 0x0013
/-- BASINMAP (R42). -/
def secBasinmap : Nat := 0x0020
/-- BANKOWN (R42). -/
def secBankown : Nat := 0x0021
/-- SLUICE (R42). -/
def secSluice : Nat := 0x0022
/-- TAGS (R42). -/
def secTags : Nat := 0x0023
/-- TTSCHED (R42). -/
def secTtsched : Nat := 0x0030
/-- CONSISTTPL (R42). -/
def secConsisttpl : Nat := 0x0031
/-- HEADWAY (R42). -/
def secHeadway : Nat := 0x0040
/-- RULES (R42). -/
def secRules : Nat := 0x0041
/-- ISLAND (R42). -/
def secIsland : Nat := 0x0042
/-- MAWYN (R42). -/
def secMawyn : Nat := 0x0050
/-- REPAIR (R42). -/
def secRepair : Nat := 0x0060

/-- A 12-bit tag field of TAGS (R396). -/
def State.tagAt (s : State) (off : Nat) : Nat := fld (le (s.sec secTags) off 2) 0 12
/-- STM_TAG (R396). -/
def State.stmTag (s : State) : Nat := s.tagAt 0x010
/-- ILK_TAG (R396). -/
def State.ilkTag (s : State) : Nat := s.tagAt 0x012
/-- KVC_TAG (R396). -/
def State.kvcTag (s : State) : Nat := s.tagAt 0x014
/-- FTN_TAG (R396). -/
def State.ftnTag (s : State) : Nat := s.tagAt 0x016
/-- CAM_TAG of a port (R396). -/
def State.camTag (s : State) (p : Nat) : Nat := s.tagAt (0x018 + 2 * p)
/-- SBX_TAG (R396). -/
def State.sbxTag (s : State) : Nat := s.tagAt 0x048
/-- PTS_TAG (R396). -/
def State.ptsTag (s : State) : Nat := s.tagAt 0x04A
/-- MON_TAG (R396). -/
def State.monTag (s : State) : Nat := s.tagAt 0x04C
/-- The boot ROM's tag, fixed in hardware (R19). -/
def bootTag : Nat := 0x0FF
/-- The supervisor bulk path's tag, fixed in hardware (R19). -/
def bulkTag : Nat := 0x0FE

/-- WORLD of a tag (R19). -/
def worldOf (tag : Nat) : Nat := fld tag 8 4
/-- CONSIST of a tag (R19). -/
def consistOf (tag : Nat) : Nat := fld tag 0 8
/-- The stream tag of a Consist. -/
def State.consistTag (s : State) (c : Nat) : Nat := (s.consist c).world * 256 + c
/-- The world admin of a tag (R364). -/
def adminOf (tag : Nat) : Nat := worldOf tag * 256

/-- The classes of worlds (R363). -/
inductive WorldClass where
  | device | safety | normal | secure | split | enclave
  deriving DecidableEq, Repr

/-- The class of a world (R363). -/
def worldClass (w : Nat) : WorldClass :=
  if w = 0 then .device else if w = 1 then .safety else if w ≤ 0xB then .normal
  else if w ≤ 0xD then .secure else if w = 0xE then .split else .enclave

/-- A flag of a world's entry in SLUICE: 0 PRIV, 1 INV_ALLOW, 2 NONINV_ALLOW (R394). -/
def State.worldFlag (s : State) (w i : Nat) : Bool := bit (byteAt (s.sec secSluice) (0x40 + 16 * w)) i

/-- A tag is privileged (R364). -/
def State.privileged (s : State) (tag : Nat) : Bool :=
  consistOf tag == 0 && s.worldFlag (worldOf tag) 0

/-- A transfer pair of SLUICE lets `src` hand over to `dst`; `kind` 24 for BANK, 25 for PAGE (R374, R394). -/
def State.transferPair (s : State) (src dst kind : Nat) : Bool :=
  (List.range (le (s.sec secSluice) 6 2)).any fun i =>
    let e := le (s.sec secSluice) (0x140 + 4 * i) 4
    fld e 0 12 == src && fld e 12 12 == dst && bit e kind

/-- The role of a Basin: 0 off, 1 shared, 2 express (R43). -/
def State.basinRole (s : State) (n : Nat) : Nat := fld (byteAt (s.sec secBasinmap) n) 0 2
/-- The pool of a shared Basin (R43). -/
def State.basinPool (s : State) (n : Nat) : Nat := fld (byteAt (s.sec secBasinmap) n) 2 4
/-- A pool entry's field of BASINMAP (R43). -/
def State.poolField (s : State) (p off n : Nat) : Nat := le (s.sec secBasinmap) (0x40 + 16 * p + off) n
/-- VALID of a pool (R43). -/
def State.poolValid (s : State) (p : Nat) : Bool := bit (s.poolField p 0 1) 0
/-- STRICT_PARTITION of a pool (R43). -/
def State.poolStrict (s : State) (p : Nat) : Bool := bit (s.poolField p 0 1) 1
/-- QUANTUM_US of a pool, in ns (R43). -/
def State.quantumNs (s : State) (p : Nat) : Nat := s.poolField p 2 2 * 1000

/-- The installed DRAM capacity in bytes (R120). -/
def memoryInstalled (m : Bytes) : Nat :=
  (if byteAt m 0 = 0xFF then 8 else if byteAt m 0 = 0x66 then 4 else 0) * (2 ^ 31 * 2 ^ fld (byteAt m 1) 0 2)

/-- The usable DRAM capacity in bytes (R117). -/
def memoryUsable (m : Bytes) : Nat :=
  if bit (byteAt m 3) 0 then memoryInstalled m / 32 * 31 else memoryInstalled m

/-- The usable DRAM capacity of the running image. -/
def State.dramSize (s : State) : Nat := memoryUsable (s.sec secMemory)

/-- The controller that serves a DRAM window offset (R116). -/
def dramController (mask a : Nat) : Nat :=
  if mask = 0x66 then
    [1, 2, 5, 6].getD (fld a 8 2 ^^^ fld a 13 2 ^^^ fld a 18 2 ^^^ fld a 23 2) 0
  else fld a 8 3 ^^^ fld a 13 3 ^^^ fld a 18 3 ^^^ fld a 23 3

/-! ### The address map (R479) -/

/-- What stands at a device physical address (R479). -/
inductive Target where
  | dram (ctrl : Nat)
  | pool (basin : Nat)
  | reservoir (slice : Nat)
  | ctlPriv
  | ctlWindow
  | fabric
  | ecam (port : Nat)
  | interruptFile (hart : Nat)
  | outbound (port : Nat)
  | mawyn
  | hole
  deriving DecidableEq, Repr

/-- First byte of the Pool windows. -/
def poolBase : Nat := 0x002000000000
/-- First byte of the Reservoir windows. -/
def rsvBase : Nat := 0x002010000000
/-- First byte of the control bus, privileged view. -/
def ctlBase : Nat := 0x003000000000
/-- First byte of the unprivileged window. -/
def windowBase : Nat := 0x003000800000
/-- First byte of the Mawyn aperture. -/
def mawynBase : Nat := 0x008000000000

/-- The target of an address (R479). -/
def State.target (s : State) (a : Nat) : Target :=
  if a < s.dramSize then .dram (dramController (byteAt (s.sec secMemory) 0) a)
  else if poolBase ≤ a ∧ a < poolBase + 64 * 0x200000 then .pool ((a - poolBase) / 0x200000)
  else if rsvBase ≤ a ∧ a < rsvBase + 8 * 0x400000 then .reservoir ((a - rsvBase) / 0x400000)
  else if ctlBase ≤ a ∧ a < ctlBase + 0x800000 then .ctlPriv
  else if windowBase ≤ a ∧ a < windowBase + 0x60000 then .ctlWindow
  else if 0x003100000000 ≤ a ∧ a < 0x003111000000 then .fabric
  else if 0x003200000000 ≤ a ∧ a < 0x003220000000 then .ecam ((a - 0x003200000000) / 0x10000000)
  else if 0x003300000000 ≤ a ∧ a < 0x003300000000 + 20 * 0x10000 then .interruptFile ((a - 0x003300000000) / 0x10000)
  else if 0x004000000000 ≤ a ∧ a < 0x006000000000 then .outbound ((a - 0x004000000000) / 0x1000000000)
  else if mawynBase ≤ a ∧ a < mawynBase + 0x4000000000 then .mawyn
  else .hole

/-- The Sluice in front of a target (R479); which of the four Mawyn ports' Sluices judges an access to the aperture follows
from its route (R436). -/
def targetSluice : Target → Option Nat
  | .dram c => some c
  | .pool n => some (16 + n / 8)
  | .reservoir k => some (8 + k)
  | .ctlPriv => some 29
  | .ctlWindow => some 29
  | .fabric => some 24
  | .ecam _ => some 24
  | .interruptFile h => some (if h < 8 then 30 else if h < 16 then 31 else 32)
  | .outbound _ => some 24
  | .mawyn => none
  | .hole => none

/-- The region table that a Sluice reads (R364's table). -/
def sluiceTable (k : Nat) : Nat := if k < 8 then 0 else k - 7

/-- The bank and the offset in it of a Pool or Reservoir address (R90). -/
def bankOf (a : Nat) : Nat × Nat :=
  if a < rsvBase then ((a - poolBase) / 0x20000, (a - poolBase) % 0x20000)
  else (1024 + (a - rsvBase) / 0x20000, (a - rsvBase) % 0x20000)

/-- The first byte of a bank in the address map (R90). -/
def bankBase (k : Nat) : Nat :=
  if k < 1024 then poolBase + k * 0x20000 else rsvBase + (k - 1024) * 0x20000

/-! ### The log ring (R422 to R424) -/

/-- First byte of the log ring: offset 0x3F_0000 of Reservoir slice 0. -/
def logBase : Nat := rsvBase + 0x3F0000

/-- A trace point is logged: the record, its SEQ and the header's WRITE_SEQ. A group that STM_TRACE_EN clears suppresses
INFO and DEBUG records. -/
def State.trace (s : State) (tp : Nat) (args : List Nat) : State :=
  let level := (Config.traceLevel tp).toNat
  if fld level 0 2 ≥ 2 && !(bit s.stm.traceEn (tp / 4096)) then s
  else
    let n := s.stm.logSeq
    let a := logBase + 0x40 + 32 * (n % 2046)
    let s := s.wr a (leBytes 4 n ++ leBytes 2 tp ++ leBytes 1 level ++ leBytes 1 args.length ++ leBytes 8 s.now
      ++ slice (args.flatMap (leBytes 4)) 0 16)
    let s := s.wr (logBase + 4) (leBytes 4 (wrapInc 32 n))
    { s with stm := { s.stm with logSeq := wrapInc 32 n } }

/-! ### The Sluice's judgement (R365 to R370, R380) -/

/-- The verdict on an access: granted, denied with a KIND, or held until a page handover is over (R373). -/
inductive Verdict where
  | grant
  | deny (kind : Nat)
  | hold
  deriving DecidableEq, Repr

/-- Entry `r` of region table `t`. -/
def State.region (s : State) (t r : Nat) : Region := tget {} s.slc.regions (32 * t + r)

/-- The lowest-numbered valid region of a table that covers an address (R365 step 2). -/
def State.findRegion (s : State) (t a : Nat) : Option Region :=
  ((List.range 32).find? fun r =>
    let e := s.region t r
    e.valid && e.base ≤ a && a ≤ e.limit + 0xFFF).map (s.region t)

/-- The page check of R370. -/
def State.pagePass (s : State) (e : OwnerEntry) (tag : Nat) (write : Bool) : Bool :=
  !e.free && (tag == e.owner
    || (tag == adminOf e.owner && worldClass (worldOf e.owner) != .enclave)
    || (tag == e.shareTag && (if write then e.shareW else e.shareR))
    || (tag == s.ilkTag && e.result))

/-- The entry that a page has once the handover in progress is over; the page's own entry where none covers it. -/
def State.newOwner (s : State) (p : Nat) : OwnerEntry :=
  match s.slc.handover with
  | some h =>
    if h.first ≤ p ∧ p < h.first + h.count then
      if h.keepOwner then { h.newEntry with owner := (s.owner p).owner, free := (s.owner p).free } else h.newEntry
    else s.owner p
  | none => s.owner p

/-- The judgement on one 4 KiB page of an access (R365, R373). -/
def State.judgePage (s : State) (acc : Access) (a : Nat) : Verdict :=
  match s.findRegion (sluiceTable acc.sluice) a with
  | none => .deny 2
  | some r =>
    let w := worldOf acc.tag
    if !(bit (if acc.write then r.wWorlds else r.rWorlds) w) || (r.adminOnly && consistOf acc.tag != 0) then .deny 3
    else if r.paged && !acc.entryOk then .deny 5
    else if r.paged && !(s.pagePass (s.newOwner (a / 4096)) acc.tag acc.write) then .deny 4
    else if r.paged && !(s.pagePass (s.owner (a / 4096)) acc.tag acc.write) then .hold
    else if acc.sluice = 29 then
      if r.window then
        if consistOf acc.tag != 0 && (s.consist (consistOf acc.tag)).state != .free
            && (s.consist (consistOf acc.tag)).world == w then .grant else .deny 6
      else if s.privileged acc.tag || worldClass w == .safety then .grant else .deny 6
    else .grant

/-- The judgement on an access (R365, R366): the first failure denies it whole. -/
def State.judge (s : State) (acc : Access) : Verdict :=
  if !acc.copiesAgree then .deny 7
  else if !acc.parityOk then .deny 1
  else
    match s.judgePage acc acc.addr with
    | .grant =>
      if (acc.addr + acc.len - 1) / 4096 = acc.addr / 4096 then .grant
      else s.judgePage acc ((acc.addr + acc.len - 1) / 4096 * 4096)
    | v => v

/-- A denial is counted, and captured where no capture is held (SLC_FAULT_INFO). -/
def State.noteDenial (s : State) (acc : Access) (kind : Nat) : State :=
  let f := tget {} s.slc.faults acc.sluice
  let f := if f.valid then { f with count := sat16 f.count }
    else { tag := acc.tag, kind := kind, write := acc.write, count := sat16 f.count, valid := true, addr := acc.addr }
  { s with slc := { s.slc with faults := tset s.slc.faults acc.sluice f } }

/-! ### Dirty logging (R178) -/

/-- Set the dirty bit of a page in a Consist's active buffer. -/
def State.logPage (s : State) (page : Nat) : State :=
  let c := s.consist (consistOf (s.owner page).owner)
  if consistOf (s.owner page).owner != 0 && c.logEn && c.world == worldOf (s.owner page).owner then
    let a := (if c.activeBuf = 0 then c.dirtyBase0 else c.dirtyBase1) + page / 8
    s.wr a [memGet s.mem a ||| BitVec.ofNat 8 (2 ^ (page % 8))]
  else s

/-- Set the dirty bits of the pages that a write covers. -/
def State.logWrite (s : State) (a n : Nat) : State :=
  let s1 := s.logPage (a / 4096)
  if n ≤ 1 ∨ (a + n - 1) / 4096 = a / 4096 then s1 else s1.logPage ((a + n - 1) / 4096)

end Sys2Proof.Machine
end

