-- ==== Sys2Proof/Machine/Sources.lean ====
section
/-! DEFINITION. What the Signal box reads of other blocks when it evaluates a release condition (R130). -/

namespace Sys2Proof.Machine

/-- The Timetable schedule in force has the event identifier (R324). -/
def State.eventPresent (s : State) (id : Nat) : Bool := (tfind s.tmt.evCount id).isSome

/-- The occurrence count of an event (R326). -/
def State.eventCount (s : State) (id : Nat) : Nat := tget 0 s.tmt.evCount id

/-- A camera port is enabled in IOPLAN and its domain is on (R467, R322). -/
def State.camEnabled (s : State) (port : Nat) : Bool :=
  bit (le (s.sec secIoplan) 4 2) port && (s.clock (37 + port)).state == .on

/-- Routing entry `i` of Points; an entry never committed is zero (R340). -/
def State.ptsEntry (s : State) (i : Nat) : Bytes := slice (tget [] s.pts.entries i) 0 64

/-- A Points routing entry is enabled for release conditions: VALID, with a memory queue in EGRESS (R348). -/
def State.entryEnabled (s : State) (i : Nat) : Bool :=
  bit (byteAt (s.ptsEntry i) 0x22) 0 && le (s.ptsEntry i) 0x1C 4 != 0

/-- The arrival count of a Points routing entry (R348). -/
def State.arrivalCount (s : State) (i : Nat) : Nat := tget 0 s.pts.arrivals i

/-- A device of the system can be reached (R441). -/
def State.deviceReachable (s : State) (d : Nat) : Bool := bit s.mwl.reach d

/-- The device's own number (R444). -/
def State.ownDevice (s : State) : Nat := byteAt (s.sec secMawyn) 6

/-- A Routesetter instance is on. -/
def State.rtsOn (s : State) (i : Nat) : Bool := (s.clock (67 + i)).state == .on

end Sys2Proof.Machine
end

