-- ==== Sys2Proof/Machine/Torus.lean ====
section
/-! DEFINITION. The Mawyn torus: its wiring, the routes and their candidates, buffer classes and output arbitration, and the
message header (R431, R434, R435, R440). -/

namespace Sys2Proof.Machine

/-- Change the Mawyn layer. -/
def State.modMwl (s : State) (f : Mwl → Mwl) : State := { s with mwl := f s.mwl }
/-- Port `p`. -/
def State.mport (s : State) (p : Nat) : MwlPort := tget {} s.mwl.ports p
/-- Change port `p`. -/
def State.modMport (s : State) (p : Nat) (f : MwlPort → MwlPort) : State :=
  s.modMwl fun m => { m with ports := tmod {} m.ports p f }

/-- A field of MAWYN (R444). -/
def State.mwField (s : State) (off n : Nat) : Nat := le (s.sec secMawyn) off n
/-- TRAYS. -/
def State.trays (s : State) : Nat := s.mwField 4 1
/-- SLOTS. -/
def State.slots (s : State) : Nat := s.mwField 5 1
/-- MAWYN is applied. -/
def State.mawynOn (s : State) : Bool := s.sec secMawyn != []
/-- PORT_EN names a port and its domain is on. -/
def State.mportOn (s : State) (p : Nat) : Bool := bit (s.mwField 8 1) p && (s.clock (57 + p)).state == .on

/-- A port is UP. -/
def LinkState.up (l : LinkState) : Bool := l == .upX8 || l == .upX4

/-! ### The torus (R431, R440) -/

/-- The device that a port of a device is wired to. -/
def neighbour (trays slots dev p : Nat) : Nat :=
  let t := dev / 8
  let k := dev % 8
  match p with
  | 0 => 8 * t + (k + 1) % slots
  | 1 => 8 * t + (k + slots - 1) % slots
  | 2 => 8 * ((t + 1) % trays) + k
  | _ => 8 * ((t + trays - 1) % trays) + k

/-- The port at the other end of a link. -/
def oppositePort (p : Nat) : Nat := if p % 2 = 0 then p + 1 else p - 1

/-- A device lies in the torus. -/
def inTorus (trays slots dev : Nat) : Bool := dev / 8 < trays && dev % 8 < slots

/-- The port-up bits of this device. -/
def State.ownPorts (s : State) : Nat :=
  (List.range 4).foldl (fun m p => if (s.mport p).state.up then m + 2 ^ p else m) 0

/-- The port-up bits of a device in the link-state table. -/
def State.portsOf (s : State) (d : Nat) : Nat :=
  if d = s.ownDevice then s.ownPorts else (tget ({} : MwlPeer) s.mwl.peers d).ports

/-- The end `p` of device `d` of a link to device `e` is UP in the link-state table. Of a neighbour that has not been heard
from, this device's own end speaks: LINK_STATE could reach no device otherwise (DEDUCED, log entry 125). -/
def State.endUp (s : State) (d p e : Nat) : Bool :=
  bit (s.portsOf d) p || (e == s.ownDevice && d != e && !(tget ({} : MwlPeer) s.mwl.peers d).heard)

/-- A link is UP: both of its ends are. -/
def State.linkUp (s : State) (d p : Nat) : Bool :=
  let e := neighbour s.trays s.slots d p
  s.endUp d p e && s.endUp e (oppositePort p) d

/-- The ring port of a dimension, and the hops that it takes: `plus` hops in + direction in a ring of `n`. -/
def ringWay (base n plus : Nat) (long : Bool) : Nat × Nat :=
  if plus = 0 then (base, 0)
  else if (2 * plus ≤ n) != long then (base, plus) else (base + 1, n - plus)

/-- The hops of a route along one dimension, as (device, port). -/
def hopsAlong (trays slots p : Nat) : Nat → Nat → List (Nat × Nat)
  | 0, _ => []
  | k + 1, d => (d, p) :: hopsAlong trays slots p k (neighbour trays slots d p)

/-- The hops of a route by its MFLAGS bits: ORDER, X_LONG, Y_LONG, judged at its source. -/
def State.routeHops (s : State) (src dst : Nat) (yx xl yl : Bool) : List (Nat × Nat) :=
  let x := ringWay 0 s.slots ((dst % 8 + s.slots - src % 8) % s.slots) xl
  let y := ringWay 2 s.trays ((dst / 8 + s.trays - src / 8) % s.trays) yl
  let along (w : Nat × Nat) (d : Nat) := hopsAlong s.trays s.slots w.1 w.2 d
  if yx then along y src ++ along x (src % 8 + 8 * (dst / 8))
  else along x src ++ along y (dst % 8 + 8 * (src / 8))

/-- Candidate `c` of R440: ORDER, X_LONG, Y_LONG. -/
def routeBits (c : Nat) : Bool × Bool × Bool := (c ≥ 4, bit c 1, bit c 0)

/-- The first usable candidate to a device. -/
def State.routeTo (s : State) (d : Nat) : Option Nat :=
  (List.range 8).find? fun c =>
    let b := routeBits c
    (s.routeHops s.ownDevice d b.1 b.2.1 b.2.2).all fun h => s.linkUp h.1 h.2

/-- The first hop of a candidate. -/
def State.firstHop (s : State) (d c : Nat) : Option Nat :=
  let b := routeBits c
  ((s.routeHops s.ownDevice d b.1 b.2.1 b.2.2).head?).map (·.2)

/-- A device can be reached (R441): this one, or one heard from with a usable candidate. -/
def State.reachableNow (s : State) (d : Nat) : Bool :=
  s.mawynOn && inTorus s.trays s.slots d
    && (d == s.ownDevice || ((tget ({} : MwlPeer) s.mwl.peers d).heard && (s.routeTo d).isSome))

/-! ### Messages (R435) -/

/-- A message header. -/
def mwlHeader (type mflags dst src txn flits ecode argA bytes argB offset token gen value : Nat) : Bytes :=
  leBytes 1 type ++ leBytes 1 mflags ++ leBytes 1 dst ++ leBytes 1 src ++ leBytes 2 txn ++ leBytes 1 flits
    ++ leBytes 1 ecode ++ leBytes 2 argA ++ leBytes 2 bytes ++ leBytes 4 argB ++ leBytes 8 offset
    ++ leBytes 2 token ++ leBytes 2 gen ++ leBytes 4 value ++ zeros 32

/-- The MFLAGS bits of a candidate. -/
def routeFlags (c : Nat) (prio : Bool) : Nat :=
  let b := routeBits c
  b2n prio + 2 * b2n b.1 + 4 * b2n b.2.1 + 8 * b2n b.2.2

/-! ### Buffer classes and the outputs (R434) -/

/-- A hop crosses the wrap link of its ring. -/
def wrapHop (trays slots : Nat) (h : Nat × Nat) : Bool :=
  match h.2 with
  | 0 => h.1 % 8 == slots - 1
  | 1 => h.1 % 8 == 0
  | 2 => h.1 / 8 == trays - 1
  | _ => h.1 / 8 == 0

/-- The message class of a TYPE: REQ 0, RSP 1, SIG 2. -/
def messageClass (type : Nat) : Nat := if type = 1 ∨ type = 2 then 0 else if type ≤ 5 then 1 else 2

/-- The hops of a message's route by the bits of its header, seen from its source (R440). -/
def State.messageHops (s : State) (f : Bytes) : List (Nat × Nat) :=
  let m := byteAt f 1
  s.routeHops (byteAt f 3) (byteAt f 2) (bit m 1) (bit m 2) (bit m 3)

/-- A message that leaves this device by port `p` has crossed the dateline of its present dimension, this link included. -/
def State.pastDateline (s : State) (f : Bytes) (p : Nat) : Bool :=
  let hops := s.messageHops f
  let upTo := hops.takeWhile fun h => h.1 != s.ownDevice
  ((upTo.filter fun h => h.2 / 2 == p / 2) ++ [(s.ownDevice, p)]).any (wrapHop s.trays s.slots)

/-- The buffer class of a message on an output: 4 × message class + 2 × route order + dateline. -/
def State.bufferClass (s : State) (f : Bytes) (p : Nat) : Nat :=
  4 * messageClass (byteAt f 0) + 2 * b2n (bit (byteAt f 1) 1) + b2n (s.pastDateline f p)

/-- Flits of a message. -/
def MwlMsg.flits (m : MwlMsg) : Nat := 1 + (m.data.length + 63) / 64

/-- PRIO of a message. -/
def MwlMsg.prio (m : MwlMsg) : Bool := bit (byteAt m.flit 1) 0

/-- The oldest waiting message of each class, where its class has credits for all its flits. -/
def MwlPort.candidates (x : MwlPort) : List MwlMsg :=
  (List.range 12).filterMap fun c =>
    match x.queue.find? fun m => m.cls == c with
    | some m => if m.flits ≤ tget 0 x.credits c then some m else none
    | none => none

/-- The message that the output sends next: one with PRIO first, but a normal one where the PRIO flits before it would make
more than seven (R13, R434). The flits of a message leave together (DESIGN CHOICE, log entry 123). -/
def MwlPort.nextMsg (x : MwlPort) : Option MwlMsg :=
  match x.candidates.find? (·.prio), x.candidates.find? (fun m => !m.prio) with
  | some p, some n => if x.prioRun + p.flits > 7 then some n else some p
  | some p, none => some p
  | none, n => n

/-- The port with a message sent: its credits are spent. -/
def MwlPort.spend (x : MwlPort) (m : MwlMsg) : MwlPort :=
  { x with
    queue := x.queue.erase m
    credits := tset x.credits m.cls (tget 0 x.credits m.cls - m.flits)
    prioRun := if m.prio && x.candidates.any (fun n => !n.prio) then x.prioRun + m.flits else 0 }

/-- An output sends the messages that its credits allow, at most `fuel` of them. -/
def State.pumpN (p : Nat) : Nat → State → State
  | 0, s => s
  | k + 1, s =>
    match (s.mport p).nextMsg with
    | some m =>
      if (s.mport p).state.up then
        State.pumpN p k ((s.modMport p fun x => x.spend m).modMwl fun w => { w with sent := w.sent ++ [m] })
      else s
    | none => s

/-- An output sends the messages that its credits allow. -/
def State.pump (s : State) (p : Nat) : State := State.pumpN p (s.mport p).queue.length s

/-- A message enters the queue of an output. -/
def State.enqueue (s : State) (p : Nat) (flit data : Bytes) : State :=
  (s.modMport p fun x => { x with queue := x.queue ++ [{ port := p, flit := flit, data := data, cls := s.bufferClass flit p }] }).pump p

/-- A message leaves for a device by its current route; one for an unreachable device is dropped and counted. -/
def State.mwlSend (s : State) (dst : Nat) (prio : Bool) (flit : Nat → Bytes) (data : Bytes) : State :=
  match s.routeTo dst with
  | some c =>
    match s.firstHop dst c with
    | some p => s.enqueue p (flit (routeFlags c prio)) data
    | none => s
  | none => s.modMwl fun m => { m with dropped := sat16 m.dropped }

/-- A message is malformed: a reserved TYPE or a non-zero reserved field. -/
def mwlMalformed (f : Bytes) : Bool :=
  let t := byteAt f 0
  let rw := t == 1 || t == 2
  !(rw || t == 3 || t == 4 || t == 5 || t == 0x10 || t == 0x11)
    || fld (byteAt f 1) 4 4 != 0 || byteAt f 6 > 4 || !(zeroAt f 0x20 32)
    || (t != 5 && byteAt f 7 != 0) || (rw && fld (le f 8 2) 5 11 != 0) || (t == 0x11 && fld (le f 8 2) 4 12 != 0)
    || (!rw && t != 0x10 && t != 0x11 && le f 8 2 != 0)
    || (if rw then le f 0x0A 2 == 0 || le f 0x0A 2 > 256 else le f 0x0A 2 != 0)
    || (t != 0x11 && le f 0x0C 4 != 0) || (!rw && le f 0x10 8 != 0) || (t != 0x10 && !(zeroAt f 0x18 8))

/-- The port by which a message for another device goes on: by its ORDER, X_LONG and Y_LONG bits alone, seen from its
source (R440). -/
def State.nextPort (s : State) (f : Bytes) : Option Nat :=
  ((s.messageHops f).find? fun h => h.1 == s.ownDevice).map (·.2)


end Sys2Proof.Machine
end

