-- ==== Sys2Proof/Machine/Access.lean ====
section
/-! DEFINITION. How accesses meet their targets: what waits for their answers, banks, DRAM, the tail-watch filter, the Mawyn
aperture and its transactions, and the writes and reads that blocks make on their own (R14, R15, R91 to R105, R117, R119,
R123, R436 to R438). -/

namespace Sys2Proof.Machine

/-! ### Answers (R69, R141, R150, R437) -/

/-- Why an access is answered with an error. -/
inductive AccessError where
  /-- A Sluice, a link window or an address without a target denies it. -/
  | denied
  /-- A bank that the tag does not own, or a FREE one. -/
  | owner
  /-- A bank that is off or fenced. -/
  | bank
  /-- An uncorrectable error, or a controller group that is off. -/
  | memory
  deriving DecidableEq, Repr

/-- The command list status that a Basin makes of it; 0x31 stands for an access that the Turntable tears down for (R69,
R91, R119). -/
def AccessError.status : AccessError → Nat
  | .denied => 4
  | .owner => 3
  | .bank => 3
  | .memory => 0x31

/-- The ECODE that an inbound request's answer carries (R435, R437). -/
def AccessError.ecode : AccessError → Nat
  | .denied => 2
  | .owner => 2
  | .bank => 3
  | .memory => 3

/-- The error of a bank's fault cause. -/
def bankError (cause : Nat) : AccessError := if cause ≤ 1 then .owner else .bank

/-- The ATTN walker of a Basin releases its pin (R225). -/
def State.dropWalkerPin (s : State) (n : Nat) : State :=
  let s := match (s.basin n).walkerPin with
    | some p => { s with kvc := { s.kvc with pins := tdel s.kvc.pins p } }
    | none => s
  s.modBasin n fun b => { b with walkerPin := none, walkerWaits := false }

/-- The list of a Basin ends with the failing command `idx` (R69): queued commands that have not started are discarded, and
started ones run on. The 16-bit index of LIST_OVERRUN, position 65,536, reads 0 (DESIGN CHOICE, log entry 108). -/
def State.basinFail (s : State) (n idx status : Nat) : State :=
  (s.dropWalkerPin n).modBasin n fun b =>
    { b with
      list := .failed, status := status, failIndex := idx % 65536, haloWaiting := false
      queue := b.queue.filter fun q => q.started && q.idx != idx }

/-- A Basin's list still counts: a failing command ends it. -/
def ListState.open : ListState → Bool
  | .running => true
  | .stopping => true
  | .ended => true
  | _ => false

/-- An access of a started command has failed: the list ends unless it has, and the command is gone. -/
def State.listFails (s : State) (n idx status : Nat) : State :=
  if (s.basin n).list.open then s.basinFail n idx status
  else s.modBasin n fun b => { b with queue := b.queue.filter fun q => q.idx != idx }

/-- All lines of a command have been moved and acknowledged (R65). -/
def QCmd.finished (q : QCmd) : Bool := q.whole && q.left == 0

/-- One access of a started command has been answered. -/
def State.lineAnswered (s : State) (n idx : Nat) : State :=
  s.modBasin n fun b =>
    { b with
      queue := (b.queue.map fun q => if q.idx = idx then { q with left := q.left - 1 } else q).filter fun q => !q.finished }

/-- A ring error disarms the ring and gates it (R121, R124, R150). -/
def State.ringError (s : State) (n code : Nat) : State :=
  s.modRing n fun r => { r with error := code, armed := false, gated := true, waitSlots := false, waitQuota := false }

/-- The write of a graph's completion record has been answered (R141). -/
def State.recordDone (s : State) (g : Nat) (ok : Bool) : State :=
  let s := s.modGraph g fun x => { x with record := if ok then .written else .lost }
  if ok then s else { s with sbx := { s.sbx with recordLost := sat16 s.sbx.recordLost } }

/-- A token message arrives (R146). -/
def State.tokenReceive (s : State) (token value device tag gen : Nat) : State :=
  let t := s.token token
  if t.valid && !t.stale && t.srcDevice == device && t.srcTag == tag && t.expectGen == gen then
    s.modToken token fun t => { t with value := if ge32 value t.value then value else t.value }
  else { s with sbx := { s.sbx with tokenDrops := sat16 s.sbx.tokenDrops } }

/-- A response to a request of another device (R437). -/
def State.mwlRespond (s : State) (f : Bytes) (type ecode : Nat) (data : Bytes) : State :=
  s.mwlSend (byteAt f 3) false (fun fl => mwlHeader type fl (byteAt f 3) s.ownDevice (le f 4 2)
    ((data.length + 63) / 64) ecode 0 0 0 0 0 0 0) data

/-- Routesetter `i`. -/
def State.rtsAt (s : State) (i : Nat) : Rts := tget {} s.rts i
/-- Change Routesetter `i`. -/
def State.modRts (s : State) (i : Nat) (f : Rts → Rts) : State := { s with rts := tmod {} s.rts i f }

/-- The capture of a failing Routesetter job (R258). -/
def State.rtsCapture (s : State) (i code : Nat) (j : RtsJob) : State :=
  s.modRts i fun x =>
    if x.faultValid then x
    else { x with faultDetail := code, faultCtx := j.ctx, faultGen := j.generation, faultNode := j.slot, faultValid := true }

/-- A planner job ends with ROUTE_ERROR (R243, R258). -/
def State.runFail (s : State) (i code : Nat) (r : RtsRun) : State :=
  (s.rtsCapture i code r.job).modRts i fun x =>
    { x with run := some { r with phase := .done, pinned := false, status := 0x10, left := 0 } }

/-- A write of a planner job's output has been answered; an error response ends the job with FETCH_ERROR (R245, R258). -/
def State.routeWritten (s : State) (i slot : Nat) (ok : Bool) : State :=
  match (s.rtsAt i).run with
  | none => s
  | some r =>
    if r.job.slot ≠ slot ∨ r.status ≠ 0 then s
    else if ok then s.modRts i fun x => { x with run := some { r with left := r.left - 1 } }
    else s.runFail i 8 r

/-- The write of a result header has been answered; a denied one is counted (R269). -/
def State.headerDone (s : State) (slot : Nat) (ok : Bool) : State :=
  { s with ilk := { s.ilk with
    headers := s.ilk.headers.map fun w =>
      if w.slot = slot && w.waiting then { w with waiting := false, denied := !ok } else w
    writeDenied := if ok then s.ilk.writeDenied else sat16 s.ilk.writeDenied } }

/-- Change Points. -/
def State.modPts (s : State) (f : Pts → Pts) : State := { s with pts := f s.pts }
/-- Memory queue `q`. -/
def State.ptsQueue (s : State) (q : Nat) : PtsQueue := tget {} s.pts.queues q
/-- Change memory queue `q`. -/
def State.modQueue (s : State) (q : Nat) (f : PtsQueue → PtsQueue) : State :=
  s.modPts fun p => { p with queues := tmod {} p.queues q f }
/-- A queue error disables the queue (R346). -/
def State.queueError (s : State) (q code : Nat) : State := s.modQueue q fun x => { x with en := false, error := code }

/-- One of a frame's queues is done with it; when all are, and one acknowledged it, the entry's arrival count advances
(R348). -/
def State.frameAnswered (s : State) (id : Nat) (acked : Bool) : State :=
  match tfind s.pts.frames id with
  | none => s
  | some a =>
    let a := { a with left := a.left - 1, acked := a.acked || acked }
    if a.left ≠ 0 then s.modPts fun p => { p with frames := tset p.frames id a }
    else
      s.modPts fun p =>
        { p with
          frames := tdel p.frames id
          arrivals := if a.acked then tset p.arrivals a.entry (wrapInc 32 (tget 0 p.arrivals a.entry)) else p.arrivals }

/-- A write of a memory queue has failed after it was held: the queue is disabled, and the frame is lost to it (R346). -/
def State.queueLost (s : State) (q : Nat) (id : Option Nat) : State :=
  let s := s.queueError q 2
  match id with
  | none => s
  | some id =>
    let x := s.ptsQueue q
    if x.slotWrites.any (·.1 == id) || x.indexWrites.contains id then
      (s.modQueue q fun x =>
        { x with slotWrites := x.slotWrites.filter (·.1 != id), indexWrites := x.indexWrites.filter (· != id) }).frameAnswered
        id false
    else s

/-- A line write has failed after it was held (R464). -/
def State.lineLost (s : State) (port frame line : Nat) : State :=
  s.modTmt fun t => { t with cams := tmod {} t.cams port fun c => { c with
    writes := c.writes.map fun w => if w.frame = frame && w.line = line then { w with denied := true } else w } }

/-- An access whose answer stands in `resp` is settled with what waits for it; `e` says why, where the answer is an
error. A held access is settled later, and the data of a DMA read go on to the Pool (`answerTxn`). -/
def State.settled (s : State) (o : Origin) (e : AccessError) : State :=
  if s.resp.kind = .held then s
  else
    let ok := s.resp.kind == .data
    match o with
    | .other => s
    | .core src tag =>
      s.modMwl fun m => { m with answers := m.answers ++ [(src, tag, if ok then some s.resp.bytes else none)] }
    | .basin n => if ok then s else s.listFails n (s.basin n).listPos e.status
    | .dma n run idx =>
      if (s.basin n).run ≠ run then s else if ok then s.lineAnswered n idx else s.listFails n idx e.status
    | .dmaRead n run idx _ => if (s.basin n).run ≠ run || ok then s else s.listFails n idx e.status
    | .record g => s.recordDone g ok
    | .head ring => if ok then s else s.ringError ring 2
    | .route i slot => s.routeWritten i slot ok
    | .header slot => s.headerDone slot ok
    | .line p f l => if ok then s else s.lineLost p f l
    | .slot q id => if ok then s else s.queueLost q (some id)
    | .index q id => if ok then s else s.queueLost q id
    | .reply t a d => if ok then { s with stm := { s.stm with replies := s.stm.replies ++ [(t, a, d)] } } else s
    | .kvc token value tag gen => if ok then s.tokenReceive token value s.ownDevice tag gen else s
    | .inbound f =>
      if !ok then (s.modMwl fun m => { m with remoteErrors := sat16 m.remoteErrors }).mwlRespond f 5 e.ecode []
      else if byteAt f 0 = 1 then s.mwlRespond f 3 0 []
      else s.mwlRespond f 4 0 s.resp.bytes

/-- An access is answered with data or an acknowledgement. -/
def State.answerData (s : State) (o : Origin) (bytes : Bytes) : State :=
  State.settled { s with resp := { kind := .data, bytes := bytes } } o .denied

/-- An access is answered with an error. -/
def State.answerError (s : State) (o : Origin) (e : AccessError) : State :=
  State.settled { s with resp := { kind := .error } } o e

/-! ### Banks, as an access meets them (R91, R96 to R105) -/

/-- What a bank does with an access. -/
inductive BankVerdict where
  | serve
  | fault (cause : Nat)
  | hold
  deriving DecidableEq, Repr

/-- The block whose registers a bank belongs to. -/
def blockOf (k : Nat) : Nat := if k < 1024 then k / 16 else 64 + (k - 1024) / 32
/-- The bank's number within its block. -/
def bankInBlock (k : Nat) : Nat := if k < 1024 then k % 16 else (k - 1024) % 32

/-- A bank of Reservoir slice 0 still serves ILK_TAG's reads beside the boot ROM (R113). -/
def State.bootBank (s : State) (k : Nat) : Bool := 1024 ≤ k && k < 1024 + 30 && !s.boot.slice0Handed

/-- What the power state of a bank makes of its owner's access (R103, R104). -/
def Bank.powerVerdict (b : Bank) : BankVerdict :=
  match b.transition with
  | some t => if t.dst = .off then .fault 2 else .hold
  | none =>
    match b.pwrState with
    | .on => .serve
    | .retention => .hold
    | .off => .fault 2

/-- The bank's judgement on an access (R96, R100, R103, R104). -/
def State.bankJudge (s : State) (k : Nat) (r : BankReq) : BankVerdict :=
  let b := s.bank k
  if b.fenced then .fault 3
  else
    match b.handover with
    | some h =>
      if !h.free && r.tag == h.owner then .hold else .fault (if b.curFree then 1 else 0)
    | none =>
      if b.curFree then .fault 1
      else if r.tag != b.curOwner && !(s.bootBank k && r.tag == s.ilkTag && !r.write) then .fault 0
      else b.powerVerdict

/-- A bank's fault is counted, and captured where no capture is held (FAULT_INFO). -/
def State.noteBankFault (s : State) (k : Nat) (r : BankReq) (cause : Nat) : State :=
  s.modBlock (blockOf k) fun b =>
    if b.faultValid then { b with faultCount := sat16 b.faultCount }
    else { b with
      faultTag := r.tag, faultBank := bankInBlock k, faultLine := r.off / 64, faultWrite := r.write,
      faultCause := cause, faultCount := sat16 b.faultCount, faultValid := true }

/-- The late access of a previous owner is marked (BANK_STAT OLD_OWNER_FAULT). -/
def State.noteOldOwner (s : State) (k : Nat) (tag : Nat) : State :=
  s.modBank k fun b =>
    if b.prevOwner = some tag || (b.handover.isSome && !b.curFree && b.curOwner == tag) then
      { b with oldOwnerFault := true }
    else b

/-- An access that waits for the power of a bank wakes it: PWR reads on, and the wake starts or is latched (R104). During a
handover nothing wakes the bank, because the access waits for the new owner (R100). -/
def Bank.wake (b : Bank) : Bank :=
  if b.handover.isSome then b
  else
    match b.transition with
    | some t => if t.dst = .on then b else { b with ctlPwr := .on, latchedPwr := some .on }
    | none =>
      if b.pwrState = .retention then { b with ctlPwr := .on, transition := some { src := .retention, dst := .on } } else b

/-- An 8 B word, by its number, lies wholly in `len` bytes from `off`. -/
def wordIn (off len w : Nat) : Bool := off ≤ 8 * w && 8 * w + 8 ≤ off + len
/-- An 8 B word shares a byte with `len` bytes from `off`. -/
def wordMet (off len w : Nat) : Bool := 8 * w < off + len && off < 8 * w + 8

/-- What a read finds in the words it covers (R91, R109). -/
def State.bankEcc (s : State) (k : Nat) (r : BankReq) : Nat :=
  if r.ecc = 2 || (s.bank k).poison.any (wordMet r.off r.len) then 2 else r.ecc

/-- An uncorrectable read is recorded and counted (R91). -/
def State.noteUncorrectable (s : State) (k : Nat) (r : BankReq) : State :=
  (s.noteBankFault k r 4).modBlock (blockOf k) fun b => { b with ue := sat16 b.ue }

/-- Serve an access at a bank that accepts it: the data moves, and ECC events are counted (R91). -/
def State.bankServe (s : State) (k : Nat) (r : BankReq) : State :=
  let a := bankBase k + r.off
  if r.write then
    ((s.wr a (r.data.take r.len)).modBank k fun b =>
      { b with poison := b.poison.filter fun w => !(wordIn r.off r.len w) }).answerData r.origin []
  else if s.bankEcc k r = 2 then
    ((s.noteUncorrectable k r).modBank k fun b =>
      { b with poison := if r.ecc = 2 then insertNat (r.off / 8) b.poison else b.poison }).answerError r.origin .memory
  else
    let s1 := if r.ecc = 1 then s.modBlock (blockOf k) fun b => { b with ce := sat16 b.ce } else s
    s1.answerData r.origin (s.rd a r.len)

/-- A bank meets an access: it serves it, holds it, or faults it with no effect on the bank (R96). -/
def State.bankMeet (s : State) (k : Nat) (r : BankReq) : State :=
  match s.bankJudge k r with
  | .serve => s.bankServe k r
  | .hold =>
    let s1 := s.modBank k fun b => { (Bank.wake b) with held := b.held ++ [r] }
    { s1 with resp := { kind := .held } }
  | .fault c => ((s.noteBankFault k r c).noteOldOwner k r.tag).answerError r.origin (bankError c)

/-- Every line of a bank is written with zero: no word of it reads as uncorrectable any more (R97, R102, R110). -/
def State.zeroBank (s : State) (k : Nat) : State :=
  (s.zero (bankBase k) 0x20000).modBank k fun b => { b with poison := [] }

/-! ### The order of held accesses (R14, R373) -/

/-- Two accesses share a 64 B line. -/
def sameLine (x y : Access) : Bool :=
  x.addr / 64 ≤ (y.addr + y.len - 1) / 64 && y.addr / 64 ≤ (x.addr + x.len - 1) / 64

/-- An earlier access of the same tag to the same line is held at a Sluice. -/
def State.behindHeld (s : State) (acc : Access) : Bool := s.slc.held.any fun h => h.tag == acc.tag && sameLine h acc

/-- The judgement on an access, which waits behind an earlier one of its tag to its line (R14, R365). -/
def State.verdict (s : State) (acc : Access) : Verdict :=
  match s.judge acc with
  | .grant => if s.behindHeld acc then .hold else .grant
  | v => v

/-- An access is held at its Sluice. -/
def State.holdAccess (s : State) (acc : Access) : State :=
  { s with slc := { s.slc with held := s.slc.held ++ [acc] }, resp := { kind := .held } }

/-! ### Link windows and transactions (R436, R438, R441) -/

/-- A field of outbound window `n`. -/
def State.outField (s : State) (n off len : Nat) : Nat := s.mwField (0x40 + 32 * n + off) len
/-- A field of inbound window `n`. -/
def State.inField (s : State) (n off len : Nat) : Nat := s.mwField (0x840 + 32 * n + off) len

/-- The aperture's window and offset of an address. -/
def apertureOf (a : Nat) : Nat × Nat := ((a - mawynBase) / 2 ^ 32, (a - mawynBase) % 2 ^ 32)

/-- A window lets an access through: it is enabled, holds the whole access and allows its kind (R436). -/
def State.windowLets (s : State) (w : Nat × Nat) (len : Nat) (write : Bool) : Bool :=
  let fl := s.outField w.1 0 1
  bit fl 0 && w.2 + len ≤ s.outField w.1 4 4 * 4096 && bit fl (if write then 2 else 1)

/-- The first-hop port of the route to a window's destination. -/
def State.windowPort (s : State) (window : Nat) : Option Nat :=
  (s.routeTo (s.outField window 1 1)).bind (s.firstHop (s.outField window 1 1))

/-- The line that a Mawyn read brings for a DMA command is written to the Pool, under the tag of the Basin's context. -/
def State.poolDeliver (s : State) (n run idx line : Nat) (data : Bytes) : State :=
  let a := poolBase + n * 0x200000 + line * 64
  let acc : Access :=
    { sluice := 16 + n / 8, tag := (s.basin n).tag, addr := a, len := 64, write := true, data := data
      origin := .dma n run idx }
  match s.verdict acc with
  | .grant =>
    s.bankMeet (bankOf a).1 { tag := acc.tag, write := true, off := (bankOf a).2, len := 64, data := data, origin := acc.origin }
  | .deny k => (s.noteDenial acc k).answerError acc.origin .denied
  | .hold => s.holdAccess acc

/-- A local requester of the aperture is answered; none is an error response, which a Basin meets as SLUICE_DENIED (R436). -/
def State.answerTxn (s : State) (o : Origin) (r : Option Bytes) : State :=
  match o, r with
  | .dmaRead n run idx line, some d =>
    if (s.basin n).run = run then s.poolDeliver n run idx line (slice d 0 64) else s
  | _, some d => s.answerData o d
  | _, none => s.answerError o .denied

/-- A transaction goes out by route candidate `c`. -/
def State.issueTxn (s : State) (q : MwlReq) (c : Nat) : State :=
  let id := s.mwl.nextTxn
  let dst := s.outField q.window 1 1
  let off := fld (s.outField q.window 8 8) 0 48 + q.offset
  let t : MwlTxn := { dst := dst, write := q.write, origin := q.origin, tag := q.tag, len := q.len, sentNs := s.now, route := c }
  let s := s.modMwl fun m => { m with nextTxn := wrapInc 16 id, txns := tset m.txns id t }
  s.mwlSend dst false (fun fl => mwlHeader (if q.write then 1 else 2) fl dst s.ownDevice id
    (if q.write then (q.len + 63) / 64 else 0) 0 (s.outField q.window 2 1) q.len 0 off 0 0 0)
    (if q.write then q.data.take q.len else [])

/-- A local access is sent, waits for the transactions on its destination's old route, or ends as unreachable. -/
def State.tryTxn (s : State) (q : MwlReq) : State :=
  let dst := s.outField q.window 1 1
  match s.routeTo dst with
  | none => s.answerTxn q.origin none
  | some c =>
    if !(s.deviceReachable dst) then s.answerTxn q.origin none
    else if s.mwl.txns.any fun e => e.2.dst == dst && e.2.route != c then
      s.modMwl fun m => { m with waiting := m.waiting ++ [q] }
    else s.issueTxn q c

/-- The waiting accesses are tried again, in order. -/
def State.retryWaiting (s : State) : State :=
  s.mwl.waiting.foldl State.tryTxn (s.modMwl fun m => { m with waiting := [] })

/-- A transaction ends and its requester is answered; a response after its end finds none and is discarded. -/
def State.endTxn (s : State) (id : Nat) (r : Option Bytes) : State :=
  match tfind s.mwl.txns id with
  | none => s
  | some t => ((s.modMwl fun m => { m with txns := tdel m.txns id }).answerTxn t.origin r).retryWaiting

/-! ### DRAM and the tail-watch filter (R117, R119, R123, R124) -/

/-- Difference modulo 2³². -/
def subMod (a b : Nat) : Nat := (a + 2 ^ 32 - b % 2 ^ 32) % 2 ^ 32

/-- Entries of a ring. -/
def Ring.size (r : Ring) : Nat := 2 ^ r.log2Size

/-- A captured tail is valid (R124). -/
def Ring.tailOk (r : Ring) (t : Nat) : Bool := subMod t r.head ≤ r.size

/-- A write that a DRAM controller's Sluice has granted meets the tail-watch filter: it captures a tail written under the
ring's WRITER_TAG, and counts a write of a tail word under another tag (R123); an invalid tail disarms an armed ring
(R124). -/
def State.tailWatch (s : State) (tag addr len : Nat) (data : Bytes) : State :=
  (s.sbx.rings.filter fun e =>
    e.2.log2Size != 0 && addr ≤ e.2.tailAddr && e.2.tailAddr + 4 ≤ addr + len).foldl (fun s e =>
      if tag = e.2.writerTag then
        let t := le data (e.2.tailAddr - addr) 4
        let s := s.modRing e.1 fun r => { r with tail := t }
        if (s.ring e.1).armed && !((s.ring e.1).tailOk t) then s.ringError e.1 1 else s
      else { s with sbx := { s.sbx with tailIgnored := sat16 s.sbx.tailIgnored } }) s

/-- Slots of a queue. -/
def PtsQueue.slots (q : PtsQueue) : Nat := 2 ^ q.log2Slots

/-- A captured index is valid (R124, R346). -/
def PtsQueue.indexOk (q : PtsQueue) (t : Nat) : Bool :=
  (if q.tx then subMod t q.index else subMod q.index t) ≤ q.slots

/-- The tail-watch filter on the index words of Points' queues (R346): one written under the queue's WRITER_TAG is captured,
and one that breaks R124 disables the queue. -/
def State.indexWatch (s : State) (tag addr len : Nat) (data : Bytes) : State :=
  (s.pts.queues.filter fun e =>
    e.2.en && addr ≤ e.2.addr && e.2.addr + 4 ≤ addr + len && e.2.writerTag == tag).foldl (fun s e =>
      let t := le data (e.2.addr - addr) 4
      if e.2.indexOk t then s.modQueue e.1 fun q => { q with captured := t } else s.queueError e.1 1) s

/-- A DRAM line, by its number, shares a byte with `len` bytes from `a`. -/
def lineMet (a len l : Nat) : Bool := 64 * l < a + len && a < 64 * l + 64
/-- A DRAM line lies wholly in `len` bytes from `a`. -/
def lineIn (a len l : Nat) : Bool := a ≤ 64 * l && 64 * l + 64 ≤ a + len

/-- Change an LPDDR5X controller. -/
def State.modDram (s : State) (c : Nat) (f : DramCtrl → DramCtrl) : State := { s with dram := tmod {} s.dram c f }

/-- DRAM lines that read as uncorrectable change. -/
def State.setBadLines (s : State) (l : List Nat) : State := { s with repair := { s.repair with badLines := l } }

/-- A write reaches DRAM: dirty logging and the tail-watch filter see it (R123, R178, R346). -/
def State.dramWrite (s : State) (acc : Access) : State :=
  let s1 := (s.wr acc.addr (acc.data.take acc.len)).setBadLines (s.repair.badLines.filter fun l => !(lineIn acc.addr acc.len l))
  let s2 := if acc.fromCore then s1 else s1.logWrite acc.addr acc.len
  ((s2.tailWatch acc.tag acc.addr acc.len acc.data).indexWatch acc.tag acc.addr acc.len acc.data).answerData acc.origin []

/-- Pages of DRAM are zeroed (R373). -/
def State.zeroDram (s : State) (a n : Nat) : State :=
  (s.zero a n).setBadLines (s.repair.badLines.filter fun l => !(lineIn a n l))

/-- An access wakes a controller group that is in self-refresh (R119). -/
def State.wakeDram (s : State) (c : Nat) : State :=
  if (s.dramCtrl c).state = .selfRefresh then (s.modDram c fun d => { d with state := .on }).clockStep (16 + c) else s

/-- A read reaches DRAM: its ECC events are counted, and an uncorrectable error is answered with an error (R91, R117). -/
def State.dramRead (s : State) (c : Nat) (acc : Access) : State :=
  if acc.ecc = 2 || s.repair.badLines.any (lineMet acc.addr acc.len) then
    ((s.modDram c fun d => { d with ue := wrapInc 32 d.ue }).setBadLines
      (if acc.ecc = 2 then insertNat (acc.addr / 64) s.repair.badLines else s.repair.badLines)).answerError acc.origin .memory
  else
    let s1 := if acc.ecc = 1 then s.modDram c fun d => { d with ce := wrapInc 32 d.ce } else s
    s1.answerData acc.origin (s.rd acc.addr acc.len)

/-! ### Accesses that blocks make on their own (R19) -/

/-- The request that a bank sees of an access. -/
def bankReqOf (acc : Access) : BankReq :=
  { tag := acc.tag, write := acc.write, off := (bankOf acc.addr).2, len := acc.len, data := acc.data, ecc := acc.ecc
    origin := acc.origin }

/-- What an access to the aperture asks of its window (R436). -/
def apertureReq (acc : Access) : MwlReq :=
  { origin := acc.origin, tag := acc.tag, window := (apertureOf acc.addr).1, offset := (apertureOf acc.addr).2
    len := acc.len, write := acc.write, data := acc.data }

/-- An access is answered with data that nothing constrains. -/
def State.freeAnswer (s : State) (n : Nat) : State :=
  { s.draw.2 with resp := { kind := .data, bytes := (List.range n).map (Config.freeByte s.freeCtr) } }

/-- The access goes out through its window (R436). A block's read on its own behalf, whose requester cannot be resumed
later, takes free data: what another device answers is not this model's. -/
def State.aperture (s : State) (acc : Access) : State :=
  let s := State.tryTxn { s with resp := { kind := .held } } (apertureReq acc)
  if s.resp.kind = .held && !acc.write && acc.origin == .other then s.freeAnswer acc.len else s

/-- Carry out an access that its Sluice has granted: memory and banks take it, a link window sends it on, and any other
target receives it. -/
def State.carry (s : State) (acc : Access) : State :=
  match s.target acc.addr with
  | .dram c =>
    if (s.dramCtrl c).state = .off then s.answerError acc.origin .memory
    else
      let s := s.wakeDram c
      if acc.write then s.dramWrite acc else s.dramRead c acc
  | .pool _ => s.bankMeet (bankOf acc.addr).1 (bankReqOf acc)
  | .reservoir _ => s.bankMeet (bankOf acc.addr).1 (bankReqOf acc)
  | .mawyn => s.aperture acc
  | .hole => s.answerError acc.origin .denied
  | _ =>
    if acc.write then
      ({ s with sent := s.sent ++ [(acc.tag, acc.addr, acc.data.take acc.len)] } : State).answerData acc.origin []
    else s.draw.2.answerData acc.origin ((List.range acc.len).map (Config.freeByte s.freeCtr))

/-- An access meets its Sluice and then its target (R365): a denial has no effect on the target (R15). -/
def State.access (s : State) (acc : Access) : State :=
  match s.verdict acc with
  | .grant => s.carry acc
  | .hold => s.holdAccess acc
  | .deny k => (s.noteDenial acc k).answerError acc.origin .denied

/-- The access that a block makes to an address under a tag; none where no target stands there, or where no link window or
route takes it (R436). -/
def State.blockAccess (s : State) (tag a len : Nat) (write : Bool) (data : Bytes) : Option Access :=
  match s.target a with
  | .mawyn =>
    if s.windowLets (apertureOf a) len write then
      (s.windowPort (apertureOf a).1).map fun p =>
        { sluice := 25 + p, tag := tag, addr := a, len := len, write := write, data := data }
    else none
  | t => (targetSluice t).map fun k => { sluice := k, tag := tag, addr := a, len := len, write := write, data := data }

/-- A block's access under a tag, with what waits for its answer. -/
def State.devAccess (s : State) (o : Origin) (tag a len : Nat) (write : Bool) (data : Bytes) : State :=
  match s.blockAccess tag a len write data with
  | some acc => s.access { acc with origin := o }
  | none => s.answerError o .denied

/-- An access that has this waiting for its answer is not answered yet: a handover, a wake or a link has it. -/
def State.awaits (s : State) (o : Origin) : Bool :=
  s.slc.held.any (fun a => a.origin == o) || s.banks.any (fun b => b.2.held.any fun r => r.origin == o)
    || s.mwl.txns.any (fun t => t.2.origin == o) || s.mwl.waiting.any fun r => r.origin == o

/-- A block's write under a tag; `resp` says how it went. -/
def State.devWrite (s : State) (tag a : Nat) (bs : Bytes) : State := s.devAccess .other tag a bs.length true bs

/-- A block's read under a tag; `resp` holds the data or the error. -/
def State.devRead (s : State) (tag a n : Nat) : State := s.devAccess .other tag a n false []

/-- The last access was answered with data or a write acknowledgement. -/
def State.answered (s : State) : Bool := s.resp.kind == .data

/-- The last access was answered with an error; a held write is not, it takes effect later (R373, R100). -/
def State.refused (s : State) : Bool := s.resp.kind == .error

/-- What a block's read comes to. -/
inductive Fetch where
  /-- The data. -/
  | got (bytes : Bytes)
  /-- An error response. -/
  | failed
  /-- The access is held: a page handover, a bank handover or a wake comes first (R100, R104, R373). -/
  | waits
  deriving DecidableEq, Repr

/-- The bytes that a fetch has brought; none for an error response. -/
def Fetch.bytes : Fetch → Option Bytes
  | .got b => some b
  | _ => none

/-- The writes of a byte string, line by line. -/
def linesOf (a : Nat) (bs : Bytes) : List (Nat × Bytes) :=
  (List.range ((bs.length + 63) / 64)).map fun k => (a + 64 * k, (bs.drop (64 * k)).take 64)

/-- A block's read that is made again where it is held: a bank that it would wake is waking. -/
def State.fetchAt (s : State) (tag a n : Nat) : State × Fetch :=
  let t := s.devRead tag a n
  match t.resp.kind with
  | .data => (t, .got (slice t.resp.bytes 0 n))
  | .held =>
    if t.slc.held ≠ s.slc.held then (s, .waits)
    else
      match s.target a with
      | .pool _ => (s.modBank (bankOf a).1 Bank.wake, .waits)
      | .reservoir _ => (s.modBank (bankOf a).1 Bank.wake, .waits)
      | _ => (s, .waits)
  | _ => (t, .failed)

/-- The tag that a hart's accesses carry (R19, R386): its enclave's, or that of its level. -/
def State.coreTag (s : State) (h : Nat) (level : HartLevel) : Nat :=
  let x := s.hart h
  if x.enclave ≠ 0 then x.tag
  else
    match level with
    | .machine => x.mstag
    | .supervisor => x.hstag
    | .virtual => x.vstag

/-- The tag of a requester. -/
def State.requesterTag (s : State) : Requester → Nat
  | .tag t => t
  | .hart h level => s.coreTag h level

/-- The write of a requester; a hart runs under the tag of its level from then on, and dirty logging does not see its
writes (R178); `entryOk` says that the owner entry of a DRAM page could be fetched (R369). -/
def State.requesterWrite (s : State) (r : Requester) (a len value : Nat) (entryOk : Bool) : State :=
  let tag := s.requesterTag r
  let s := match r with
    | .tag _ => s
    | .hart h _ => s.modHart h fun x => { x with tag := tag }
  match s.blockAccess tag a len true (leBytes len value) with
  | some acc => s.access { acc with fromCore := match r with | .tag _ => false | .hart _ _ => true, entryOk := entryOk }
  | none => s.answerError .other .denied

/-- A message-signalled interrupt: a 4-byte write of the data; address 0 raises none (R141, R171). -/
def State.msi (s : State) (tag a data : Nat) : State := if a = 0 then s else s.devWrite tag a (leBytes 4 data)

/-- The interrupts of the mailbox responses that have been acknowledged go out, in order (R399). -/
def State.sendReplies (s : State) : State :=
  s.stm.replies.foldl (fun s e => s.msi e.1 e.2.1 e.2.2) { s with stm := { s.stm with replies := [] } }

end Sys2Proof.Machine
end

