-- ==== Sys2Proof/Machine/Banks.lean ====
section
/-! DEFINITION. The Pool and Reservoir banks: ownership handover, power transitions, the sweeper, the march engine and
the repair map; the LPDDR5X controllers' retraining (chapter Pools, Reservoir and External Memory). -/

namespace Sys2Proof.Machine

/-- The power state that a PWR code names; code 3 is reserved. -/
def bankPwrOf (n : Nat) : BankPwr := if n = 0 then .off else if n = 1 then .retention else .on

/-- A PWR write at a bank (R102, R105, R114). -/
def Bank.pwrWrite (b : Bank) (dst : BankPwr) (pastIsolation : Bool) : Bank :=
  match b.transition with
  | some t =>
    if t.src = .on ∧ t.dst = .off ∧ dst = .on then
      if pastIsolation then { b with ctlPwr := .on, latchedPwr := some .on, pwrAborted := false }
      else { b with ctlPwr := .on, transition := none, latchedPwr := none, pwrState := .on, pwrAborted := true }
    else { b with ctlPwr := dst, latchedPwr := some dst }
  | none =>
    if b.pwrState = dst then { b with ctlPwr := dst }
    else { b with ctlPwr := dst, transition := some { src := b.pwrState, dst := dst } }

/-- A bank control write changes OWNER or FREE (R114). -/
def Bank.changesOwner (b : Bank) (value : Nat) : Bool :=
  if bit value 12 then !b.ctlFree else b.ctlFree || b.ctlOwner != fld value 0 12

/-- A bank control write is rejected (R98). -/
def State.bankRejects (s : State) (k value : Nat) : Bool :=
  let b := s.bank k
  b.fenced || b.handover.isSome || fld value 13 2 ≥ 2 || fld value 16 2 = 3
    || (fld value 13 2 = 1 && bit value 12)
    || (fld value 13 2 = 1 && b.changesOwner value
        && (b.curFree || !(s.transferPair b.curOwner (fld value 0 12) 24)))

/-- A writer may switch the power of a bank (R102): a Pool bank the Turntable, for its owner, and the Stationmaster; a
Reservoir bank the Stationmaster alone. -/
def mayPower (k : Nat) : BankWriter → Bool
  | .stationmaster => true
  | .turntable => k < 1024
  | .software => false

/-- An accepted ownership write starts its handover (R100 step 1): what the bank held until now was accepted before. -/
def Bank.startHandover (b : Bank) (value : Nat) (pwr : BankPwr) : Bank :=
  { b with
    ctlOwner := if bit value 12 then b.ctlOwner else fld value 0 12
    ctlFree := bit value 12
    ctlPwr := pwr
    held := []
    handover := some {
      owner := fld value 0 12, free := bit value 12, scrub := fld value 13 2 = 0, pwr := pwr
      wake := b.pwrState = .retention && b.transition.isNone, drain := b.held } }

/-- A PWR write reaches a bank (R102, R105). Whether one of PWR = on comes before the isolation point of an on → off
transition is the instant's: `past` says it, and where nothing does it is free. -/
def State.bankPwr (s : State) (k : Nat) (dst : BankPwr) (past : Option Bool) : State :=
  match past with
  | some p => s.modBank k fun b => b.pwrWrite dst p
  | none => s.draw.2.modBank k fun b => b.pwrWrite dst ((Config.freeWord s.freeCtr 0).getLsbD 0)

/-- A write of a bank control register (R97, R98, R102, R114). The PWR field of a writer that may not switch the bank is
taken as unchanged (DEDUCED from R102, log entry 109). -/
def State.bankCtlWrite (s : State) (k value : Nat) (writer : BankWriter) (past : Option Bool) : State :=
  let pwr := if mayPower k writer then bankPwrOf (fld value 16 2) else (s.bank k).ctlPwr
  if s.bankRejects k value then s.modBank k fun b => { b with handoverRejected := true }
  else if (s.bank k).changesOwner value then s.modBank k fun b => b.startHandover value pwr
  else if (s.bank k).ctlPwr = pwr then s
  else s.bankPwr k pwr past

/-- The accesses that a bank held meet it again, in arrival order (R100 step 5, R104). -/
def State.serveHeld (s : State) (k : Nat) : State :=
  (s.bank k).held.foldl (fun s r => s.bankMeet k r) (s.modBank k fun b => { b with held := [] })

/-- The accesses that a bank accepted before step 1 of its handover complete in full, whoever owns the bank later (R100
step 2, R101); a bank that is off by then faults them (R103). -/
def State.serveDrain (s : State) (k : Nat) : State :=
  match (s.bank k).handover with
  | none => s
  | some h =>
    h.drain.foldl (fun s r =>
        if (s.bank k).pwrState = .on then s.bankServe k r else (s.noteBankFault k r 2).answerError r.origin .bank)
      (s.modBank k fun b => { b with handover := some { h with drain := [] } })

/-- Accesses accepted before step 1 wait for a bank that is powering up: step 2 is not over (R100). -/
def Bank.draining (b : Bank) : Bool :=
  match b.handover, b.transition with
  | some h, some t => h.drain != [] && t.dst != .off
  | _, _ => false

/-- Step 2 of a handover: a bank that was in retention has woken, and the accesses accepted before step 1 complete. -/
def State.drainHandover (s : State) (k : Nat) (wake : Bool) : State :=
  (s.modBank k fun b => { b with pwrState := if wake then .on else b.pwrState, ctlPwr := if wake then .on else b.ctlPwr }).serveDrain k

/-- Steps 4 and 5 of a handover: the scrub and the new owner. -/
def State.giveOwner (s : State) (k : Nat) (h : BankHandover) : State :=
  (if h.scrub then s.zeroBank k else s).modBank k fun b =>
    { b with
      prevOwner := if b.curFree then none else some b.curOwner
      curOwner := if h.free then b.curOwner else h.owner
      curFree := h.free
      handover := none }

/-- The power change of an ownership write follows when its handover is over (R114). -/
def State.followPwr (s : State) (k : Nat) (pwr : BankPwr) : State :=
  if (s.bank k).transition.isNone && (s.bank k).pwrState == pwr then s.modBank k fun b => { b with ctlPwr := pwr }
  else s.bankPwr k pwr none

/-- A handover comes to its end (R100 steps 2 to 5, R114); firmware then gives a bank that has become FREE the state of
FREE_BANK_POLICY (R429). -/
def State.finishHandover (s : State) (k : Nat) : State :=
  match (s.bank k).handover with
  | none => s
  | some h =>
    if (s.bank k).draining then s
    else
      let s := (((s.drainHandover k h.wake).giveOwner k h).serveHeld k).followPwr k h.pwr
      if h.free && s.fwLoops && byteAt (s.sec secPowerplan) 0x10 != 0 then
        s.bankPwr k (if byteAt (s.sec secPowerplan) 0x10 = 1 then .retention else .off) none
      else s

/-- A handover made whole in one step, as a block that owns the sequence makes it, once a handover in progress is over:
`value` as written to the bank control register. A fenced bank has none (R98). -/
def State.handoverNow (s : State) (k value : Nat) : State :=
  if (s.bank k).fenced then s
  else ((s.finishHandover k).bankCtlWrite k value .stationmaster none).finishHandover k

/-- The PWR code of a bank's control register. -/
def Bank.pwrCode (b : Bank) : Nat :=
  match b.ctlPwr with
  | .off => 0
  | .retention => 1
  | .on => 2

/-- A bank passes to FREE by SCRUB, keeping its power state (R99). -/
def State.scrubFree (s : State) (k : Nat) : State := s.handoverNow k (0x1000 + 0x10000 * (s.bank k).pwrCode)

/-- BANK_SCRUB_HANDOVER (R97, R100): a bank control write in SCRUB mode. -/
def execBankScrubHandover (bank : Nat) (write : BankWrite) (s : State) : Out :=
  act s fun s => s.bankCtlWrite bank write.value write.writer none

/-- BANK_TRANSFER (R98): a bank control write in TRANSFER mode. -/
def execBankTransfer (bank : Nat) (write : BankWrite) (s : State) : Out :=
  act s fun s => s.bankCtlWrite bank write.value write.writer none

/-- BANK_PWR_CHANGE (R114): a bank control write that changes only PWR. -/
def execBankPwrChange (bank : Nat) (write : BankWrite) (pastIsolation : Bool) (s : State) : Out :=
  act s fun s => s.bankCtlWrite bank write.value write.writer (some pastIsolation)

/-- A transition has ended: the state latched during it follows at once, where it differs (R105). -/
def Bank.followLatched (b : Bank) : Bank :=
  { b with
    transition := match b.latchedPwr with
      | some d => if d = b.pwrState then none else some { src := b.pwrState, dst := d }
      | none => none
    latchedPwr := none }

/-- The transition of a bank ends (R102, R105): accesses held for a wake proceed before a latched change starts. -/
def State.finishPower (s : State) (k : Nat) : State :=
  match (s.bank k).transition with
  | none => s
  | some t =>
    let s := if t.src = .off ∨ t.dst = .off then s.zeroBank k else s
    let s := s.modBank k fun b =>
      { b with pwrState := t.dst, transition := none, pwrAborted := if t.dst = .off then false else b.pwrAborted }
    if t.dst = .on then ((s.serveDrain k).serveHeld k).modBank k Bank.followLatched
    else (s.modBank k Bank.followLatched).serveHeld k

/-- The first free repair spare takes a row; none where no spare is free (R108). -/
def takeSpare (spares : List (Nat × Nat)) (row : Nat) : Option (List (Nat × Nat)) :=
  match spares with
  | [] => none
  | (st, r) :: rest => if st = 0 then some ((1, row) :: rest) else (takeSpare rest row).map ((st, r) :: ·)

/-- The five spares of a bank; a bank that lists none has used none. -/
def Bank.spareList (b : Bank) : List (Nat × Nat) := if b.spares = [] then List.replicate 5 (0, 0) else b.spares

/-- A change of the repair map in use: firmware reseals it and REPAIR_UPDATED is set (R111). -/
def State.repairChange (s : State) : State :=
  { s with repair := { s.repair with changed := true }, boot := { s.boot with repairUpdated := true } }

/-- A failing region is restored into a spare, or kept in the sweep row for good (R108). -/
def State.repairRegion (s : State) (k row : Nat) : State :=
  match takeSpare (s.bank k).spareList row with
  | some sp => ((s.modBank k fun b => { b with spares := sp }).repairChange).report 2 k row
  | none =>
    ((s.modBank k fun b => { b with degraded := true, noSweep := true }).repairChange).report 3 k row

/-- The sweeper does not skip the bank (R106). -/
def State.sweepable (s : State) (k : Nat) : Bool :=
  let b := s.bank k
  (s.block (blockOf k)).sweepEn && b.pwrState == .on && b.transition.isNone && b.handover.isNone
    && !b.curFree && !b.fenced && !b.noSweep

/-- The words of a row that the save step finds uncorrectable: new ones, and those already poisoned (R109). -/
def Bank.foundBad (b : Bank) (row : Nat) (poisoned : List Nat) : List Nat :=
  (List.range 32).filterMap fun w =>
    if poisoned.contains w || b.poison.contains (32 * row + w) then some (32 * row + w) else none

/-- An uncorrectable word is restored with the poison pattern and reported with the owner's tag (R109): the subject is
16,384 × the bank + the word. -/
def State.poisonWord (s : State) (k w : Nat) : State :=
  (s.modBank k fun b => { b with poison := insertNat w b.poison }).report 4 (16384 * k + w) (s.bank k).curOwner

/-- SWEEP_REGION_TEST (R106 to R109): the next region of a bank is saved, marched and restored. -/
def execSweepRegionTest (bank : Nat) (fails : Bool) (poisoned : List Nat) (s : State) : Out :=
  act s fun s =>
    if s.sweepable bank then
      let row := (s.bank bank).sweepPos
      let bad := (s.bank bank).foundBad row poisoned
      let s := s.modBank bank fun b => { b with sweepPos := (b.sweepPos + 1) % 512 }
      let s := bad.foldl (fun s w => s.poisonWord bank w) s
      if fails then s.repairRegion bank row else s
    else s

/-- The banks of a block. -/
def blockBank (block i : Nat) : Nat := if block < 64 then 16 * block + i else 1024 + 32 * (block - 64) + i

/-- A march set is acceptable in its mode (R110). -/
def State.marchAccepts (s : State) (block mask : Nat) (preserve : Bool) : Bool :=
  (maskBits mask (if block < 64 then 16 else 32)).all fun i =>
    let b := s.bank (blockBank block i)
    if preserve then b.pwrState == .on && b.transition.isNone && !b.noSweep else b.curFree && b.handover.isNone

/-- MARCH_START (R110): a write of MARCH_CTL. -/
def execMarchStart (block ctl : Nat) (s : State) : Out :=
  act s fun s =>
    let p := bit ctl 1
    let s := s.modBlock block fun b => { b with marchPreserve := p }
    if !(bit ctl 0) then s
    else if (s.block block).marchBusy || !(s.marchAccepts block (s.block block).marchMask p) then
      s.modBlock block fun b => { b with marchRejected := true }
    else s.modBlock block fun b =>
      { b with marchBusy := true, marchSet := b.marchMask, marchSetPreserve := p }

/-- A destroy-mode march found defective spares: they are never used (R110). -/
def markBadSpares (k : Nat) (bad : List (Nat × Nat)) (i : Nat) (sp : List (Nat × Nat)) : List (Nat × Nat) :=
  match sp with
  | [] => []
  | e :: rest => (if bad.contains (k, i) then (2, 0) else e) :: markBadSpares k bad (i + 1) rest

/-- A failing row in destroy mode: a spare takes it, or the bank has none left (R110). -/
def State.marchRow (s : State) (block i row : Nat) : State :=
  let k := blockBank block i
  match takeSpare (s.bank k).spareList row with
  | some sp =>
    ((s.modBank k fun b => { b with spares := sp }).repairChange).modBlock block fun b =>
      { b with marchRepaired := true }
  | none => s.modBlock block fun b => { b with marchUnrepairable := true }

/-- A failing row in preserve mode is repaired by R108. -/
def State.marchRowKeep (s : State) (block i row : Nat) : State :=
  let k := blockBank block i
  if (takeSpare (s.bank k).spareList row).isSome then
    (s.repairRegion k row).modBlock block fun b => { b with marchRepaired := true }
  else (s.repairRegion k row).modBlock block fun b => { b with marchUnrepairable := true }

/-- A destroy-mode march of bank `k`, number `i` of its block, marks something new: the repair map has changed (R111). -/
def State.marksChange (s : State) (k i : Nat) (badSpares : List (Nat × Nat)) (badSweepRows : List Nat) : State :=
  let b := s.bank k
  if markBadSpares i badSpares 0 b.spareList != b.spareList || (badSweepRows.contains i && !b.noSweep) then s.repairChange
  else s

/-- What a march run leaves (R110): repairs, marks, and in destroy mode zeroed banks. -/
def State.marchFinish (s : State) (block : Nat) (set : List Nat) (preserve : Bool)
    (failing badSpares : List (Nat × Nat)) (badSweepRows : List Nat) : State :=
  let rows := failing.filter fun e => set.contains e.1
  if preserve then rows.foldl (fun s e => s.marchRowKeep block e.1 e.2) s
  else
    let s := set.foldl (fun s i =>
      ((s.zeroBank (blockBank block i)).marksChange (blockBank block i) i badSpares badSweepRows).modBank (blockBank block i)
        fun b =>
          { b with
            spares := markBadSpares i badSpares 0 b.spareList
            noSweep := b.noSweep || badSweepRows.contains i }) s
    rows.foldl (fun s e => s.marchRow block e.1 e.2) s

/-- MARCH_DONE (R110): the run in progress completes, with the rows, spares and sweep rows it found defective. -/
def execMarchDone (block : Nat) (failing badSpares : List (Nat × Nat)) (badSweepRows : List Nat) (s : State) : Out :=
  act s fun s =>
    let b := s.block block
    if b.marchBusy then
      let s := s.marchFinish block (maskBits b.marchSet 32) b.marchSetPreserve failing badSpares badSweepRows
      s.modBlock block fun b => { b with marchBusy := false, marchDone := true }
    else s

/-- DRAM_RETRAIN (R118): a trained controller that is on retrains, blocking accesses only inside this step. -/
def execDramRetrain (ctrl : Nat) (s : State) : Out :=
  act s fun s =>
    let d := s.dramCtrl ctrl
    if d.trained && d.state == .on then
      { s with dram := tset s.dram ctrl { d with retrains := d.retrains + 1 } }
    else s

/-- The 8-byte entry of a bank in the repair map (R111); a degraded bank is fenced at the next boot (R108). -/
def Bank.repairEntry (b : Bank) : Nat :=
  b2n (b.fenced || b.degraded) + 2 * b2n b.noSweep
    + (List.range 5).foldl (fun v i => v + ((b.spares.getD i (0, 0)).1 * 512 + (b.spares.getD i (0, 0)).2) * 2 ^ (2 + 11 * i)) 0

/-- The sealed REPAIR payload of the map in use (R111). -/
def State.repairPayload (s : State) : Bytes :=
  let body := leBytes 4 0x01504552 ++ leBytes 2 1 ++ leBytes 2 s.repair.auxCount ++ leBytes 4 s.repair.updateSeq
    ++ zeros 52 ++ ((List.range 1280).map fun k => leBytes 8 (s.bank k).repairEntry).flatten ++ slice s.repair.aux 0 6032
  body ++ slice (Config.sealMac body) 0 48

/-- REPAIR_WRITE_BACK (R51, R111): firmware reseals the changed map and writes it back, or offers it to the host. -/
def execRepairWriteBack (s : State) : Out :=
  act s fun s =>
    if s.repair.changed then
      let s := { s with repair := { s.repair with updateSeq := wrapInc 32 s.repair.updateSeq } }
      State.trace { s with
        repair := { s.repair with sealed := s.repairPayload, changed := false }
        boot := { s.boot with repairUpdated := true } } 0x9001 []
    else s

end Sys2Proof.Machine
end

