-- ==== Sys2Proof/Machine/Operands.lean ====
section
/-! DEFINITION. The number formats of the operands and outputs, and exact arithmetic on them with one rounding
(R74 to R79, R83). -/

namespace Sys2Proof.Machine

/-- A value as the arithmetic sees it: not a number, an infinity, or (−1)^neg × m × 2^e. -/
inductive Fp where
  | nan
  | inf (neg : Bool)
  | num (neg : Bool) (m : Nat) (e : Int)
  deriving DecidableEq, Repr

/-- A value of a binary format with `eb` exponent bits and `mb` mantissa bits, IEEE style (R74). -/
def decodeIeee (eb mb v : Nat) : Fp :=
  let s := v.testBit (eb + mb)
  let e := fld v mb eb
  let m := fld v 0 mb
  let bias : Int := 2 ^ (eb - 1) - 1
  if e = 2 ^ eb - 1 then (if m = 0 then .inf s else .nan)
  else if e = 0 then .num s m (1 - bias - mb)
  else .num s (m + 2 ^ mb) (e - bias - mb)

/-- A value of FP8 E4M3: no infinity, S.1111.111 is NaN (R74). -/
def decodeE4M3 (v : Nat) : Fp :=
  let s := v.testBit 7
  let e := fld v 3 4
  let m := fld v 0 3
  if e = 15 ∧ m = 7 then .nan
  else if e = 0 then .num s m (-9)
  else .num s (m + 8) ((e : Int) - 10)

/-- A value of an E2M1 element (R74). -/
def decodeE2M1 (v : Nat) : Fp :=
  let s := v.testBit 3
  let e := fld v 1 2
  let m := fld v 0 1
  if e = 0 then .num s m (-1) else .num s (m + 2) ((e : Int) - 2)

/-- A two's-complement value of `w` bits. -/
def toSigned (w v : Nat) : Int := if v.testBit (w - 1) then (v : Int) - 2 ^ w else v

/-- An integer as a value. -/
def fpOfInt (i : Int) : Fp := .num (i < 0) i.natAbs 0

/-- The value of an FP32 bit pattern. -/
def dec32 (v : Nat) : Fp := decodeIeee 8 23 v

/-- `m` shifted right by `k`, rounded to nearest even. -/
def rneShift (m k : Nat) : Nat :=
  if k = 0 then m
  else
    let q := m >>> k
    let r := m % 2 ^ k
    if r > 2 ^ (k - 1) ∨ (r = 2 ^ (k - 1) ∧ q % 2 = 1) then q + 1 else q

/-- Round m × 2^e to a precision of `mb` mantissa bits with least exponent `emin`, unbounded above; the result is
(m', q) standing for m' × 2^q. -/
def roundMant (mb : Nat) (emin : Int) (m : Nat) (e : Int) : Nat × Int :=
  let top : Int := e + Nat.log2 m
  let q : Int := max (top - mb) (emin - mb)
  if q ≤ e then (m * 2 ^ (e - q).toNat, q) else (rneShift m (q - e).toNat, q)

/-- m × 2^e is greater than m2 × 2^e2. -/
def dyGt (m : Nat) (e : Int) (m2 : Nat) (e2 : Int) : Bool :=
  if e ≤ e2 then m > m2 * 2 ^ (e2 - e).toNat else m * 2 ^ (e - e2).toNat > m2

/-- The bit pattern of a rounded magnitude that is in range, for an IEEE-style format. -/
def packMant (eb mb : Nat) (neg : Bool) (m : Nat) (q : Int) : Nat :=
  let bias : Int := 2 ^ (eb - 1) - 1
  let m1 := if m = 2 ^ (mb + 1) then 2 ^ mb else m
  let q1 := if m = 2 ^ (mb + 1) then q + 1 else q
  b2n neg * 2 ^ (eb + mb) +
    (if m1 < 2 ^ mb then m1 else (q1 + mb + bias).toNat * 2 ^ mb + (m1 - 2 ^ mb))

/-- FP32 rounding to nearest even; every NaN is the positive quiet NaN (R76, R79). -/
def enc32 : Fp → Nat
  | .nan => 0x7FC00000
  | .inf n => if n then 0xFF800000 else 0x7F800000
  | .num n m e =>
    if m = 0 then b2n n * 2 ^ 31
    else
      let (m1, q) := roundMant 23 (-126) m e
      if dyGt m1 q (2 ^ 24 - 1) 104 then (if n then 0xFF800000 else 0x7F800000) else packMant 8 23 n m1 q

/-- The exact product. -/
def fpMul : Fp → Fp → Fp
  | .nan, _ => .nan
  | _, .nan => .nan
  | .inf a, .inf b => .inf (a != b)
  | .inf a, .num b m _ => if m = 0 then .nan else .inf (a != b)
  | .num a m _, .inf b => if m = 0 then .nan else .inf (a != b)
  | .num a m e, .num b m2 e2 => .num (a != b) (m * m2) (e + e2)

/-- The exact sum; a sum of opposite values is +0, and of two negative zeros −0. -/
def fpAdd : Fp → Fp → Fp
  | .nan, _ => .nan
  | _, .nan => .nan
  | .inf a, .inf b => if a = b then .inf a else .nan
  | .inf a, .num _ _ _ => .inf a
  | .num _ _ _, .inf b => .inf b
  | .num a m e, .num b m2 e2 =>
    let q := min e e2
    let x := m * 2 ^ (e - q).toNat
    let y := m2 * 2 ^ (e2 - q).toNat
    if a = b then .num a (x + y) q
    else if x = y then .num false 0 q
    else if x > y then .num a (x - y) q
    else .num b (y - x) q

/-- The value with its sign turned. -/
def fpNeg : Fp → Fp
  | .nan => .nan
  | .inf a => .inf (!a)
  | .num a m e => .num (!a) m e

/-- The absolute value. -/
def fpAbs : Fp → Fp
  | .nan => .nan
  | .inf _ => .inf false
  | .num _ m e => .num false m e

/-- A value is finite. -/
def fpFinite : Fp → Bool
  | .num _ _ _ => true
  | _ => false

/-- x < y on numbers; false with a NaN. -/
def fpLt (x y : Fp) : Bool :=
  match x, y with
  | .nan, _ => false
  | _, .nan => false
  | .inf a, .inf b => a && !b
  | .inf a, .num _ _ _ => a
  | .num _ _ _, .inf b => !b
  | .num a m e, .num b m2 e2 =>
    if m = 0 ∧ m2 = 0 then false
    else if a && !b then true
    else if !a && b then false
    else if a then dyGt m e m2 e2 else dyGt m2 e2 m e

/-- x = y on numbers; false with a NaN. -/
def fpEq (x y : Fp) : Bool :=
  match x, y with
  | .nan, _ => false
  | _, .nan => false
  | _, _ => !(fpLt x y) && !(fpLt y x)

/-- x ≤ y on numbers; false with a NaN. -/
def fpLe (x y : Fp) : Bool := fpLt x y || fpEq x y

/-- FP32 addition on bit patterns. -/
def add32 (a b : Nat) : Nat := enc32 (fpAdd (dec32 a) (dec32 b))
/-- FP32 subtraction on bit patterns. -/
def sub32 (a b : Nat) : Nat := enc32 (fpAdd (dec32 a) (fpNeg (dec32 b)))
/-- FP32 multiplication on bit patterns. -/
def mul32 (a b : Nat) : Nat := enc32 (fpMul (dec32 a) (dec32 b))
/-- FP32 fused multiply-add on bit patterns, with one rounding. -/
def fma32 (a b c : Nat) : Nat := enc32 (fpAdd (fpMul (dec32 a) (dec32 b)) (dec32 c))

/-- IEEE 754-2019 maximum on bit patterns: NaN where either is NaN, +0 above −0 (R82). -/
def max32 (a b : Nat) : Nat :=
  match dec32 a, dec32 b with
  | .nan, _ => 0x7FC00000
  | _, .nan => 0x7FC00000
  | x, y => if fpLt x y then b else if fpLt y x then a else if a.testBit 31 then b else a

/-- IEEE 754-2019 minimum on bit patterns (R82). -/
def min32 (a b : Nat) : Nat :=
  match dec32 a, dec32 b with
  | .nan, _ => 0x7FC00000
  | _, .nan => 0x7FC00000
  | x, y => if fpLt x y then a else if fpLt y x then b else if a.testBit 31 then a else b

/-- Round a value to BF16 or FP16 with overflow to infinity; every NaN is the positive quiet one (R79, R83). -/
def enc16 (fp16 : Bool) (x : Fp) : Nat :=
  match x with
  | .nan => if fp16 then 0x7E00 else 0x7FC0
  | .inf n => (if fp16 then 0x7C00 else 0x7F80) + b2n n * 0x8000
  | .num n m e =>
    if m = 0 then b2n n * 0x8000
    else if fp16 then
      let (m1, q) := roundMant 10 (-14) m e
      if dyGt m1 q (2 ^ 11 - 1) 5 then 0x7C00 + b2n n * 0x8000 else packMant 5 10 n m1 q
    else
      let (m1, q) := roundMant 7 (-126) m e
      if dyGt m1 q (2 ^ 8 - 1) 120 then 0x7F80 + b2n n * 0x8000 else packMant 8 7 n m1 q

/-- The value of a BF16 or FP16 bit pattern. -/
def dec16 (fp16 : Bool) (v : Nat) : Fp := if fp16 then decodeIeee 5 10 v else decodeIeee 8 7 v

/-! ### Operand formats (R74, R75) -/

/-- The classes of operand formats that may be paired (R75). -/
inductive FmtClass where
  | int8 | int4 | fp8 | mxfp4 | fp16
  deriving DecidableEq, Repr

/-- The class of an operand format code; none for a code that is reserved as an operand (R74). -/
def fmtClass (f : Nat) : Option FmtClass :=
  match f with
  | 0 => some .int8
  | 1 => some .int8
  | 2 => some .int4
  | 3 => some .int4
  | 4 => some .fp8
  | 5 => some .fp8
  | 6 => some .mxfp4
  | 8 => some .fp16
  | 9 => some .fp16
  | _ => none

/-- A class accumulates in INT32 (R75). -/
def FmtClass.isInt (c : FmtClass) : Bool := c == .int8 || c == .int4

/-- A class has 4-bit elements. -/
def FmtClass.is4 (c : FmtClass) : Bool := c == .int4 || c == .mxfp4

/-- The integer value of an element of an integer format. -/
def intElem (f v : Nat) : Int :=
  if f = 0 then toSigned 8 (v % 256) else if f = 2 then toSigned 4 (v % 16) else v

/-- The value of an element of a float format; E2M1 before its block scale. -/
def floatElem (f v : Nat) : Fp :=
  match f with
  | 4 => decodeE4M3 v
  | 5 => decodeIeee 5 2 v
  | 6 => decodeE2M1 v
  | 8 => decodeIeee 8 7 v
  | 9 => decodeIeee 5 10 v
  | _ => .nan

/-- An E8M0 block scale: 2^(v − 127), 0xFF is NaN (R74). -/
def scaleE8M0 (v : Nat) : Fp := if v = 0xFF then .nan else .num false 1 ((v : Int) - 127)

/-! ### Output conversion (R77 to R79) -/

/-- Output format codes (R74). -/
def fmtOutOk (f : Nat) : Bool := f < 6 || (8 ≤ f && f ≤ 11)

/-- Bits of one output element. -/
def fmtOutBits (f : Nat) : Nat := if f = 2 ∨ f = 3 then 4 else if f = 8 ∨ f = 9 then 16 else if f ≥ 10 then 32 else 8

/-- An output format is an integer format (R79). -/
def fmtOutInt (f : Nat) : Bool := f < 4 || f == 11

/-- The range of an integer output format. -/
def intRange (f : Nat) : Int × Int :=
  match f with
  | 0 => (-128, 127)
  | 1 => (0, 255)
  | 2 => (-8, 7)
  | 3 => (0, 15)
  | _ => (-(2 ^ 31), 2 ^ 31 - 1)

/-- A converted element: its bits, and whether it sets NAN_SEEN and SAT_HIT. -/
structure Conv where
  /-- The element's bits. -/
  bits : Nat
  /-- A NaN was produced or converted to an integer. -/
  nan : Bool := false
  /-- The conversion saturated. -/
  sat : Bool := false
  deriving DecidableEq, Repr

/-- An integer saturated into an integer output format (R77 step 1). -/
def satInt (f : Nat) (i : Int) : Conv :=
  let (lo, hi) := intRange f
  let bits := fun x : Int => (x % (2 ^ fmtOutBits f : Nat)).toNat
  if i < lo then { bits := bits lo, sat := true }
  else if i > hi then { bits := bits hi, sat := true }
  else { bits := bits i }

/-- m × 2^e rounded to an integer, to nearest even. -/
def rneInt (m : Nat) (e : Int) : Nat := if 0 ≤ e then m * 2 ^ e.toNat else rneShift m (-e).toNat

/-- m × 2^e truncated to an integer. -/
def truncInt (m : Nat) (e : Int) : Nat := if 0 ≤ e then m * 2 ^ e.toNat else m >>> (-e).toNat

/-- The first 16 bits of m × 2^e below the integer point (R78). -/
def frac16 (m : Nat) (e : Int) : Nat := truncInt m (e + 16) % 0x10000

/-- The mixing steps of R78. -/
def mix32 (x : Nat) : Nat :=
  let x := ((x ^^^ (x >>> 16)) * 0x85EBCA6B) % 2 ^ 32
  let x := ((x ^^^ (x >>> 13)) * 0xC2B2AE35) % 2 ^ 32
  x ^^^ (x >>> 16)

/-- The mixed word of a seed and an index (R78). -/
def mixWord (seed n : Nat) : Nat := mix32 (seed ^^^ ((n * 0x9E3779B9) % 2 ^ 32))

/-- The stochastic-rounding decision word of an element of the output tensor (R78). -/
def stochWord (seed row0 col0 rowLen i j : Nat) : Nat :=
  mixWord seed (((row0 + i) * rowLen + col0 + j) % 2 ^ 32) >>> 16

/-- A finite magnitude rounded to an integer: to nearest even, or by the stochastic word `r`. -/
def roundInt (stoch : Option Nat) (m : Nat) (e : Int) : Nat :=
  match stoch with
  | none => rneInt m e
  | some r => if frac16 m e + r ≥ 0x10000 then truncInt m e + 1 else truncInt m e

/-- The conversion of a value to an output format (R79): `sat` is the SAT flag, `stoch` the stochastic word. -/
def convert (f : Nat) (sat : Bool) (stoch : Option Nat) (v : Fp) : Conv :=
  if fmtOutInt f then
    match v with
    | .nan => { bits := 0, nan := true }
    | .inf n => { satInt f (if n then (intRange f).1 else (intRange f).2) with sat := true }
    | .num n m e =>
      let i : Int := roundInt stoch m e
      satInt f (if n then -i else i)
  else if f = 10 then { bits := enc32 v, nan := v == .nan }
  else if f = 8 ∨ f = 9 then
    let fp16 := f == 9
    let b := enc16 fp16 v
    let big := fld b 0 15 == (if fp16 then 0x7C00 else 0x7F80)
    if v = .nan then { bits := b, nan := true }
    else if big && sat then { bits := (if fp16 then 0x7BFF else 0x7F7F) + fld b 15 1 * 0x8000, sat := true }
    else { bits := b }
  else
    match v with
    | .nan => { bits := if f = 4 then 0x7F else 0x7E, nan := true }
    | .inf n =>
      if sat then { bits := (if f = 4 then 0x7E else 0x7B) + b2n n * 0x80, sat := true }
      else { bits := if f = 4 then 0x7F else 0x7C + b2n n * 0x80, nan := f == 4 }
    | .num n m e =>
      if m = 0 then { bits := b2n n * 0x80 }
      else
        let (m1, q) := if f = 4 then roundMant 3 (-6) m e else roundMant 2 (-14) m e
        let tooBig := if f = 4 then dyGt m1 q 14 5 else dyGt m1 q 7 13
        if tooBig then
          if sat then { bits := (if f = 4 then 0x7E else 0x7B) + b2n n * 0x80, sat := true }
          else { bits := if f = 4 then 0x7F else 0x7C + b2n n * 0x80, nan := f == 4 }
        else if f = 4 then
          { bits := packMant 4 3 n m1 q }
        else { bits := packMant 5 2 n m1 q }

end Sys2Proof.Machine
end

