-- ==== Sys2Proof/Machine/BasinOps.lean ====
section
/-! DEFINITION. The operations that a Basin's commands share: the fetch and the reserved-field check, Pool accesses of
the processor side, external accesses, tap records and the end of a command (chapter Basins). -/

namespace Sys2Proof.Machine

/-- What a command comes to: 0 it is done; a list status (R69); 0x31 an access that the Turntable tears down for
(R91, R119); 0x100 it has not completed, and the state says how far it has come. -/
abbrev CmdResult := Nat × State

/-- The status that stands for a command that has not completed. -/
def waits : Nat := 0x100

/-- First byte of a Pool line of Basin `n`. -/
def poolAddr (n line : Nat) : Nat := poolBase + n * 0x200000 + line * 64

/-- The banks of Basin `n` that hold the lines from `line` to `line + count - 1`, each once. -/
def lineBanks (n line count : Nat) : List Nat :=
  if count = 0 then []
  else (List.range ((line + count - 1) / 2048 - line / 2048 + 1)).map fun i => 16 * n + line / 2048 + i

/-- A bank in retention that its owner accesses is on by the time the access proceeds (R104). -/
def State.wakeNow (s : State) (k tag : Nat) : State :=
  s.modBank k fun b =>
    if b.handover.isNone && !b.fenced && !b.curFree && b.curOwner == tag && b.pwrState == .retention
        && b.transition.isNone then
      { b with pwrState := .on, ctlPwr := .on }
    else b

/-- The processor side asks the banks it is going to use: 0 they serve, BANK_FAULT, or it must wait (R67, R96). Every bank
is asked before the first access, so a command that meets a foreign bank makes none (DESIGN CHOICE, log entry 110). -/
def State.askBanks (s : State) (n : Nat) (banks : List Nat) : CmdResult :=
  let tag := (s.basin n).tag
  let s := banks.foldl (fun s k => s.wakeNow k tag) s
  banks.foldl (fun (r : CmdResult) k =>
    if r.1 ≠ 0 then r
    else
      match r.2.bankJudge k { tag := tag } with
      | .serve => r
      | .hold => (waits, r.2)
      | .fault c => (3, (r.2.noteBankFault k { tag := tag } c).noteOldOwner k tag)) (0, s)

/-- The banks that hold regions of Pool lines, each a first line and a count. -/
def regionBanks (n : Nat) (rs : List (Nat × Nat)) : List Nat := (rs.map fun r => lineBanks n r.1 r.2).flatten

/-- The first word of a region that reads as uncorrectable, as (bank, word). -/
def State.badWord (s : State) (n : Nat) (r : Nat × Nat) : Option (Nat × Nat) :=
  (lineBanks n r.1 r.2).findSome? fun k =>
    ((s.bank k).poison.find? fun w =>
      let l := (k - 16 * n) * 2048 + w / 8
      r.1 ≤ l && l < r.1 + r.2).map fun w => (k, w)

/-- The processor side asks for the lines that it reads and writes: their banks serve, and no word that it reads is
uncorrectable (R91); such a word ends the command with the status that the Turntable tears the context down for. -/
def State.askLines (s : State) (n : Nat) (reads writes : List (Nat × Nat)) : CmdResult :=
  let r := s.askBanks n (regionBanks n (reads ++ writes))
  if r.1 ≠ 0 then r
  else
    match reads.findSome? (s.badWord n) with
    | some (k, w) => (0x31, r.2.noteUncorrectable k { tag := (s.basin n).tag, off := 8 * w, len := 8 })
    | none => r

/-- The physical Basin that a Basin number names for the context bound to Basin `n` (R157); none where no rank of the
same node runs there. -/
def State.translate (s : State) (n v : Nat) : Option Nat :=
  let b := s.basin n
  let c := s.ctx b.context
  if c.state = .free ∨ c.consist = 0 then some v
  else (c.ranks.find? fun r => r.vbasin == v).map (·.basin)

/-- An external address with its Basin field translated (R157). -/
def State.translateAddr (s : State) (n a : Nat) : Option Nat :=
  match s.target a with
  | .pool v => (s.translate n v).map fun p => a - v * 0x200000 + p * 0x200000
  | _ => some a

/-- What a Basin makes of the response to an access of its own: the target decides between the statuses. -/
def State.ioStatus (s : State) (a : Nat) : Nat :=
  match s.target a with
  | .dram _ => 0x31
  | .pool _ => 3
  | .reservoir _ => 3
  | _ => 4

/-- One access of a Basin's DMA engine or fetch at a physical address, under its context's tag (R15, R69). -/
def State.basinIo (s : State) (n a len : Nat) (write : Bool) (data : Bytes) : CmdResult :=
  let tag := (s.basin n).tag
  match s.blockAccess tag a len write data with
  | none => (4, s)
  | some acc =>
    match s.verdict acc with
    | .deny k => (4, s.noteDenial acc k)
    | .hold => (waits, s)
    | .grant =>
      let s1 := match s.target a with
        | .pool _ => s.wakeNow (bankOf a).1 tag
        | .reservoir _ => s.wakeNow (bankOf a).1 tag
        | _ => s
      let s2 := s1.carry acc
      match s2.resp.kind with
      | .held => (waits, s)
      | .error => (s.ioStatus a, s2)
      | _ => (0, s2)

/-- Reserved bits: byte `i` of a command may only have bits that mask `i` names; beyond the list no bit. -/
def resOk (cmd : Bytes) (mask : List Nat) : Bool :=
  (List.range 32).all fun i =>
    let m := mask.getD i 0
    byteAt cmd i &&& (0xFF ^^^ m) == 0

/-- OPCODE, WAIT and LAG: the header bytes that every command has. -/
def hdrMask : List Nat := [0xFF, 0xFF]

/-- Opcodes of R71's table. -/
def knownOpcode (o : Nat) : Bool :=
  [0x00, 0x01, 0x10, 0x11, 0x12, 0x20, 0x21, 0x28, 0x30, 0x31, 0x32, 0x38, 0x3C, 0x3E, 0x3F].contains o

/-- A Basin that runs a list: its context is bound, it is not stopping, and its Terrace's clock runs. -/
def State.runsList (s : State) (n : Nat) : Bool := (s.basin n).list == .running && s.terraceOn (n / 8)

/-! ### Performance counters that the model knows (R88) -/

/-- Monitor `m`: that of Basin m below 64, a block monitor above. -/
def State.monitor (s : State) (m : Nat) : Pmu := if m < 64 then (s.basin m).pmu else tget {} s.mons m

/-- Change monitor `m`. -/
def State.modMonitor (s : State) (m : Nat) (f : Pmu → Pmu) : State :=
  if m < 64 then s.modBasin m fun b => { b with pmu := f b.pmu } else { s with mons := tmod {} s.mons m f }

/-- A counter wraps (R88, R89). -/
def Pmu.wrap (p : Pmu) (counter listIndex unit : Nat) (exact basin : Bool) : Pmu :=
  let ev := tget 0 p.evsel counter
  let capture := basin && bit ev 9 && !p.sampleValid
  { p with
    cnt := tset p.cnt counter 0
    ovf := p.ovf ||| 2 ^ counter
    frozen := p.frozen || p.freezeOnOvf
    irq := p.irq || (basin && bit ev 8)
    sampleIndex := if capture then listIndex else p.sampleIndex
    sampleUnit := if capture then unit else p.sampleUnit
    sampleCounter := if capture then counter else p.sampleCounter
    sampleExact := if capture then exact else p.sampleExact
    sampleValid := p.sampleValid || capture }

/-- A Basin counter whose count the model knows: a command issued, a tap record sent or a halo signal dropped, each a cycle
of its own, counted by level and not inverted. -/
def exactEvsel (ev : Nat) : Bool := [0x01, 0x30, 0x32].contains (fld ev 0 6) && fld ev 6 2 == 0

/-- One event counts in a counter that selects it; `skid` says that a boundary of the unit fell within the skid (R89). -/
def Pmu.countEvent (p : Pmu) (event listIndex : Nat) (skid : Bool) (counter : Nat) : Pmu :=
  let ev := tget 0 p.evsel counter
  if !p.en || p.frozen || !(exactEvsel ev) || fld ev 0 6 != event then p
  else if tget 0 p.cnt counter + 1 = 2 ^ 48 then
    p.wrap counter ((if skid then listIndex + 1 else listIndex) % 65536) (if event = 0x30 then 2 else 0) (!skid) true
  else { p with cnt := tset p.cnt counter (tget 0 p.cnt counter + 1) }

/-- An event of Basin `n` that the model knows; the skid of a capture is open (R89). -/
def State.pmuEvent (s : State) (n event : Nat) : State :=
  s.draw.2.modBasin n fun b =>
    { b with
      pmu := (List.range 4).foldl (fun p k => p.countEvent event b.listPos ((Config.freeWord s.freeCtr k).getLsbD 0) k) b.pmu }

/-! ### The sequencer (R64 to R71) -/

/-- The units that execute an opcode: bit 0 DMA, 1 Cascade, 2 Rill, 3 Jet, as WAIT names them; 0 is the sequencer (R71). -/
def unitsOf (opcode : Nat) : Nat :=
  match opcode with
  | 0x01 => 1
  | 0x10 => 2
  | 0x11 => 2
  | 0x12 => 14
  | 0x20 => 4
  | 0x21 => 4
  | 0x28 => 8
  | 0x38 => 2
  | 0x3E => 2
  | _ => 0

/-- A command's opcode. -/
def QCmd.opcode (q : QCmd) : Nat := byteAt q.cmd 0
/-- A command uses one of a set of units. -/
def QCmd.uses (q : QCmd) (units : Nat) : Bool := unitsOf q.opcode &&& units != 0

/-- The commands of unit `u` that are outstanding (R65). -/
def Basin.outstanding (b : Basin) (u : Nat) : Nat := (b.queue.filter fun q => q.uses (2 ^ u)).length

/-- The WAIT and LAG condition of a command holds (R65). -/
def Basin.waitOk (b : Basin) (cmd : Bytes) : Bool :=
  (List.range 4).all fun u => !(bit (byteAt cmd 1) u) || b.outstanding u ≤ fld (byteAt cmd 1) 4 4

/-- The queues of a command's units have room for it (R64). -/
def Basin.room (b : Basin) (cmd : Bytes) : Bool :=
  (List.range 4).all fun u =>
    !(bit (unitsOf (byteAt cmd 0)) u) || (b.queue.filter fun q => q.uses (2 ^ u) && !q.started).length < 8

/-- The oldest outstanding command of a set of units. -/
def State.unitHead (s : State) (n units : Nat) : Option QCmd := (s.basin n).queue.find? (·.uses units)

/-- Change the command `idx` that Basin `n` has issued. -/
def State.modQ (s : State) (n idx : Nat) (f : QCmd → QCmd) : State :=
  s.modBasin n fun b => { b with queue := b.queue.map fun q => if q.idx = idx then f q else q }

/-- The command `idx` has completed. -/
def State.dropQ (s : State) (n idx : Nat) : State :=
  s.modBasin n fun b => { b with queue := b.queue.filter fun q => q.idx != idx }

/-- The command at the list position, as the sequencer fetches it (R64): an error response is FETCH_ERROR, a bank's among
them (DESIGN CHOICE, log entry 111); a denial by a Sluice or a link window is SLUICE_DENIED (R69). -/
def State.fetchCmd (s : State) (n : Nat) : CmdResult :=
  let b := s.basin n
  let a := b.kernelPtr + 32 * b.listPos
  let r := s.basinIo n a 32 false []
  (if r.1 = 0x31 ∨ r.1 = 3 ∨ (r.1 = 4 ∧ s.target a = .hole) then 7 else r.1, r.2)

/-- The list goes on to its next command, and an issued command counts (R64, R88). -/
def State.nextCmd (s : State) (n : Nat) : State :=
  (s.pmuEvent n 0x01).modBasin n fun b => { b with listPos := b.listPos + 1 }

/-- A command issues to the queue of its unit (R64). -/
def State.issueCmd (s : State) (n : Nat) (cmd : Bytes) : State :=
  (s.modBasin n fun b => { b with queue := b.queue ++ [{ idx := b.listPos, cmd := cmd }] }).nextCmd n

/-- The sequencer issues commands in list order, at most `fuel` of them, until the units of `opcode` have one or a command
of its own stands at the list position: that one, where it is `opcode` and may issue, comes back (R64, R65, R69, R71). -/
def State.issueFor (n opcode : Nat) : Nat → State → State × Option Bytes
  | 0, s => (s, none)
  | k + 1, s =>
    if unitsOf opcode ≠ 0 && (s.unitHead n (unitsOf opcode)).isSome then (s, none)
    else if (s.basin n).listPos ≥ 65536 then (s.basinFail n 65536 6, none)
    else
      let r := s.fetchCmd n
      if r.1 = waits then (s, none)
      else if r.1 ≠ 0 then (r.2.basinFail n (s.basin n).listPos r.1, none)
      else
        let cmd := slice r.2.resp.bytes 0 32
        if !(knownOpcode (byteAt cmd 0)) || fld (byteAt cmd 1) 4 4 > 8 then (r.2.basinFail n (s.basin n).listPos 1, none)
        else if !((r.2.basin n).waitOk cmd) then (r.2, none)
        else if unitsOf (byteAt cmd 0) = 0 then (r.2, if byteAt cmd 0 = opcode then some cmd else none)
        else if (r.2.basin n).room cmd then State.issueFor n opcode k (r.2.issueCmd n cmd)
        else (r.2, none)

/-- A DMA, a TRANSPOSE and an ATTN stop between their steps (R70, R213). -/
def QCmd.stops (q : QCmd) : Bool := [0x01, 0x12, 0x21].contains q.opcode

/-- A Basin's units run: a started command that no stop can divide runs on while the list stops, and any started one once
it has failed (R69, R70). -/
def Basin.mayRun (b : Basin) (q : QCmd) : Bool :=
  match b.list with
  | .running => true
  | .stopping => q.started && !q.stops
  | .failed => q.started
  | _ => false

/-- A unit works on its oldest command, where that is `opcode` (R64): it completes, goes on later, or fails (R69). -/
def State.runUnit (s : State) (n opcode : Nat) (mask : List Nat) (f : QCmd → State → CmdResult) : State :=
  match s.unitHead n (unitsOf opcode) with
  | none => s
  | some q =>
    if q.opcode ≠ opcode || q.whole || !((s.basin n).mayRun q) then s
    else if !(resOk q.cmd (hdrMask ++ mask)) then s.listFails n q.idx 1
    else
      let r := f q s
      if r.1 = waits then r.2
      else if r.1 ≠ 0 then r.2.listFails n q.idx r.1
      else r.2.dropQ n q.idx

/-- A command of the sequencer's own, at the list position (R64). -/
def State.runOwn (s : State) (n : Nat) (mask : List Nat) (cmd : Bytes) (f : Bytes → State → CmdResult) : State :=
  if !(resOk cmd (hdrMask ++ mask)) then s.basinFail n (s.basin n).listPos 1
  else
    let r := f cmd s
    if r.1 = waits then r.2
    else if r.1 ≠ 0 then r.2.basinFail n (s.basin n).listPos r.1
    else r.2.nextCmd n

/-- At most so many commands issue before a given one can: the four unit queues are full (R64). -/
def issueFuel : Nat := 40

/-- The sequencer issues what it may, so that the units of `opcode` or the sequencer itself come to a command. -/
def State.issue (s : State) (n opcode : Nat) : State × Option Bytes :=
  if s.runsList n then State.issueFor n opcode issueFuel s else (s, none)

/-- A command of the sequencer's own in the list of Basin `n` (R64, R71). -/
def State.runSeq (s : State) (n opcode : Nat) (mask : List Nat) (f : Bytes → State → CmdResult) : State :=
  match s.issue n opcode with
  | (t, some cmd) => t.runOwn n mask cmd f
  | (t, none) => t

/-- A command of a unit in the list of Basin `n`, with its record in the unit's queue (R64, R71). -/
def State.runQueued (s : State) (n opcode : Nat) (mask : List Nat) (f : QCmd → State → CmdResult) : State :=
  if s.terraceOn (n / 8) then (s.issue n opcode).1.runUnit n opcode mask f else s

/-- A command of a unit that runs whole once it starts. -/
def State.runCmd (s : State) (n opcode : Nat) (mask : List Nat) (f : Bytes → State → CmdResult) : State :=
  s.runQueued n opcode mask fun q s => f q.cmd s

/-- A line field: bits [14:0]. -/
def lineAt (cmd : Bytes) (off : Nat) : Nat := fld (le cmd off 2) 0 15

/-- Byte `i` of Pool line `line` of Basin `n`. -/
def State.poolByte (s : State) (n line i : Nat) : Nat := (memGet s.mem (poolAddr n line + i)).toNat

/-- The residue or marker is sent: it stays outstanding until the concentrator acknowledges it (R23, R86). -/
def State.sendTap (s : State) (n : Nat) (r : TapRecord) : State :=
  (s.pmuEvent n 0x30).modBasin n fun b =>
    { b with
      unacked := b.unacked ++
        [{ r with basin := n, seq := b.tapSeq, senderTag := b.tag, senderGen := b.generation, run := b.run }]
      tapSeq := wrapInc 16 b.tapSeq
      recCount := if r.marker then 0 else wrapInc 16 b.recCount }

/-- A tap record of the Basin's present list is not acknowledged yet (R23). -/
def Basin.tapsOpen (b : Basin) : Bool := b.unacked.any fun r => r.run == b.run

/-- A flush marker (R86). -/
def State.sendMarker (s : State) (n : Nat) : State :=
  let b := s.basin n
  s.sendTap n
    { marker := true, context := b.context, node := b.node, generation := b.generation, recordCount := b.recCount }

/-- Weights of the check sums (R84): 2 i + 1. -/
def tapWeight (i : Nat) : Nat := 2 * i + 1

/-- A sum modulo 2³² over indexes below `n`. -/
def sumMod (n : Nat) (f : Nat → Nat) : Nat := (List.range n).foldl (fun a i => (a + f i) % 2 ^ 32) 0

/-- Element (i, j) of an accumulator set. -/
def AccSet.at (a : AccSet) (i j : Nat) : Nat := tget 0 a.c (64 * i + j)

/-- ROW_RES of an integer set (R85). -/
def AccSet.rowRes (a : AccSet) : Nat :=
  sumMod 64 fun i => tapWeight i * subMod (tget 0 a.p i) (sumMod 64 fun j => a.at i j)

/-- COL_RES of an integer set (R85). -/
def AccSet.colRes (a : AccSet) : Nat :=
  sumMod 64 fun j => tapWeight j * subMod (tget 0 a.q j) (sumMod 64 fun i => tapWeight i * a.at i j)

/-- A magnitude rounded upward to FP32 (R86). -/
def encUp32 (m : Nat) (e : Int) : Nat :=
  if m = 0 then 0
  else
    let (m1, q) := roundMant 23 (-126) m e
    let m2 := if dyGt m e m1 q then m1 + 1 else m1
    if dyGt m2 q (2 ^ 24 - 1) 104 then 0x7F800000 else packMant 8 23 false m2 q

/-- BOUND (R86): (K_t + 128) × 127 × 2⁻²³ × T, rounded upward. T over operands that are not finite is +∞, or NaN where
one of them is NaN or an infinite sum meets a zero one. -/
def AccSet.bound (a : AccSet) : Nat :=
  if a.tBad = 2 then 0x7FC00000 else if a.tBad = 1 then 0x7F800000 else encUp32 ((a.kT + 128) * 127 * a.t.1) (a.t.2 - 23)

/-- A free FP32 value that does not exceed a bound in magnitude: where the free word does, +0. -/
def withinBound (w bound : Nat) : Nat :=
  if fpLe (fpAbs (dec32 w)) (dec32 bound) then w else 0

/-- The residue record of a set (R85, R86). Float residues are free within BOUND: the spec does not fix the order of
their sums, and correct arithmetic stays within BOUND. -/
def State.sendResidue (s : State) (n : Nat) (a : AccSet) : State :=
  if a.type != .float then s.sendTap n { rowRes := a.rowRes, colRes := a.colRes }
  else if a.nonfinite then s.sendTap n { isFloat := true, nonfinite := true, bound := a.bound }
  else
    let (i, s) := s.draw
    s.sendTap n
      { isFloat := true
        rowRes := withinBound (Config.freeWord i 0).toNat a.bound
        colRes := withinBound (Config.freeWord i 1).toNat a.bound
        bound := a.bound }

/-- The exact sum of two magnitudes held as m × 2^e. -/
def dySum (x y : Nat × Int) : Nat × Int :=
  let q := min x.2 y.2
  (x.1 * 2 ^ (x.2 - q).toNat + y.1 * 2 ^ (y.2 - q).toNat, q)

/-- The magnitude of a finite value. -/
def fpMag : Fp → Nat × Int
  | .num _ m e => (m, e)
  | _ => (0, 0)

/-- The sum of the magnitudes of one operand line. -/
def magSum (l : List Fp) : Nat × Int := l.foldl (fun z v => dySum z (fpMag v)) (0, 0)

/-- One more k of the magnitude sum T (R86): (Σ |a|)(Σ |b|). -/
def dyProdSum (av bv : List Fp) (t : Nat × Int) : Nat × Int :=
  let x := magSum av
  let y := magSum bv
  if x.1 = 0 ∨ y.1 = 0 then t else if t.1 = 0 then (x.1 * y.1, x.2 + y.2) else dySum t (x.1 * y.1, x.2 + y.2)

/-- The class of a magnitude sum: 0 finite, 1 infinite, 2 NaN. -/
def magClass (l : List Fp) : Nat := if l.any (· == .nan) then 2 else if l.any fun v => !(fpFinite v) then 1 else 0

/-- The class that one more k gives T: a sum stays NaN, and ∞ × 0 is NaN. -/
def prodClass (av bv : List Fp) (t : Nat) : Nat :=
  let x := magClass av
  let y := magClass bv
  if t = 2 ∨ x = 2 ∨ y = 2 ∨ (x = 1 ∧ y = 0 ∧ (magSum bv).1 = 0) ∨ (y = 1 ∧ x = 0 ∧ (magSum av).1 = 0) then 2
  else if t = 1 ∨ x = 1 ∨ y = 1 then 1
  else 0

end Sys2Proof.Machine
end

