-- ==== Sys2Proof/Machine/Cascade.lean ====
section
/-! DEFINITION. The Cascade's tile: accumulation, check sums and the drain (R72 to R80, R85, R86), and the MATMUL and
SETRND commands. -/

namespace Sys2Proof.Machine

/-- The elements of an integer tile: a(m, k) and b(k, n). -/
structure IntTile where
  /-- The number of k. -/
  k : Nat
  /-- a(m, k). -/
  a : Nat → Nat → Int
  /-- b(k, n). -/
  b : Nat → Nat → Int

/-- The elements of a float tile, scaled; `pairs` adds two k in one step, their sum exact (R76); a masked product adds
nothing to its chain (R187). -/
structure FloatTile where
  /-- The number of k. -/
  k : Nat
  /-- Two k make one step of a chain. -/
  pairs : Bool
  /-- a(m, k) with its block scale. -/
  a : Nat → Nat → Fp
  /-- b(k, n) with its block scale. -/
  b : Nat → Nat → Fp
  /-- The product at (k, n) is masked. -/
  masked : Nat → Nat → Bool := fun _ _ => false

/-- An integer modulo 2³². -/
def intMod32 (i : Int) : Nat := (i % (2 ^ 32 : Nat)).toNat

/-- One chain of an integer tile (R76): the element, and whether a partial sum left the INT32 range. -/
def IntTile.chain (t : IntTile) (c i j : Nat) : Nat × Bool :=
  (List.range t.k).foldl (fun (r : Nat × Bool) k =>
    let x := toSigned 32 r.1 + t.a i k * t.b k j
    (intMod32 x, r.2 || x < -(2 ^ 31) || x ≥ 2 ^ 31)) (c, false)

/-- Accumulate an integer tile into a set (R75, R76, R86): the set, and ACC_OVF. -/
def IntTile.into (t : IntTile) (s : AccSet) : AccSet × Bool :=
  let cells := (List.range 4096).map fun n => (n, t.chain (tget 0 s.c n) (n / 64) (n % 64))
  let bRow := fun k => (List.range 64).foldl (fun (x : Int) j => x + t.b k j) 0
  let aCol := fun k => (List.range 64).foldl (fun (x : Int) i => x + tapWeight i * t.a i k) 0
  ({ s with
      type := .int
      c := cells.map fun e => (e.1, e.2.1)
      p := (List.range 64).map fun i =>
        (i, intMod32 ((List.range t.k).foldl (fun (x : Int) k => x + t.a i k * bRow k) ((tget 0 s.p i : Nat) : Int)))
      q := (List.range 64).map fun j =>
        (j, intMod32 ((List.range t.k).foldl (fun (x : Int) k => x + aCol k * t.b k j) ((tget 0 s.q j : Nat) : Int)))
      kT := s.kT + t.k },
   cells.any fun e => e.2.2)

/-- One chain of a float tile (R76): each addition rounds once, to nearest even. -/
def FloatTile.chain (t : FloatTile) (c i j : Nat) : Nat :=
  if t.pairs then
    (List.range (t.k / 2)).foldl (fun r h =>
      enc32 (fpAdd (dec32 r)
        (fpAdd (fpMul (t.a i (2 * h)) (t.b (2 * h) j)) (fpMul (t.a i (2 * h + 1)) (t.b (2 * h + 1) j))))) c
  else (List.range t.k).foldl (fun r k =>
    if t.masked k j then r else enc32 (fpAdd (dec32 r) (fpMul (t.a i k) (t.b k j)))) c

/-- An operand element of the tile is not finite (R86). -/
def FloatTile.badOperand (t : FloatTile) : Bool :=
  (List.range t.k).any fun k => (List.range 64).any fun i => !(fpFinite (t.a i k)) || !(fpFinite (t.b k i))

/-- Accumulate a float tile into a set (R75, R76, R86): the set, and NAN_SEEN. The predicted sums of a float set are
free: the spec does not fix the order in which they are added. -/
def FloatTile.into (t : FloatTile) (s : AccSet) (free : Nat) : AccSet × Bool :=
  let cells := (List.range 4096).map fun n => (n, t.chain (tget 0 s.c n) (n / 64) (n % 64))
  ({ s with
      type := .float
      c := cells
      p := (List.range 64).map fun i => (i, (Config.freeWord free i).toNat)
      q := (List.range 64).map fun j => (j, (Config.freeWord free (64 + j)).toNat)
      kT := s.kT + t.k
      t := (List.range t.k).foldl (fun z k =>
        dyProdSum ((List.range 64).map fun i => t.a i k) ((List.range 64).map fun j => t.b k j) z) s.t
      tBad := (List.range t.k).foldl (fun z k =>
        prodClass ((List.range 64).map fun i => t.a i k) ((List.range 64).map fun j => t.b k j) z) s.tBad
      nonfinite := s.nonfinite || t.badOperand || cells.any fun e => !(fpFinite (dec32 e.2)) },
   cells.any fun e => dec32 e.2 == .nan)

/-- How a drain converts and where it writes (R72, R77). -/
structure Drain where
  /-- FMT_OUT. -/
  fmt : Nat
  /-- SAT. -/
  sat : Bool
  /-- STOCH. -/
  stoch : Bool
  /-- QNT. -/
  qnt : Bool
  /-- QNT_ROW. -/
  qntRow : Bool
  /-- QNT_LINE. -/
  qntLine : Nat
  /-- C_LINE. -/
  line : Nat
  /-- C_PITCH. -/
  pitch : Nat
  /-- Valid rows. -/
  rows : Nat
  /-- Valid columns. -/
  cols : Nat

/-- Bytes of an output row. -/
def Drain.rowBytes (d : Drain) : Nat := (d.cols * fmtOutBits d.fmt + 7) / 8
/-- Lines of an output row. -/
def Drain.rowLines (d : Drain) : Nat := (d.rowBytes + 63) / 64

/-- A 32-bit word of Basin `n`'s Pool, `i` words after a line's start. -/
def State.poolWord (s : State) (n line i : Nat) : Nat := s.rdLe (poolAddr n line + 4 * i) 4

/-- One element at EMIT (R77): the element (i, j) of the set, converted. -/
def State.emitElem (s : State) (n : Nat) (a : AccSet) (d : Drain) (i j : Nat) : Conv :=
  let r := (s.basin n).rnd
  let st := if d.stoch then some (stochWord r.seed r.row0 r.col0 r.rowLen i j) else none
  if a.type != .float && !d.qnt && fmtOutInt d.fmt then satInt d.fmt (toSigned 32 (a.at i j))
  else
    let x := if a.type = .float then a.at i j else enc32 (fpOfInt (toSigned 32 (a.at i j)))
    let v := if d.qnt then
        let h := if d.qntRow then i else j
        fma32 x (s.poolWord n d.qntLine h) (s.poolWord n d.qntLine (64 + h))
      else x
    convert d.fmt d.sat st (dec32 v)

/-- Two nibbles of a row packed into its bytes; a half byte at the end keeps the other nibble (R72). -/
def packNibbles (old : Bytes) : List Nat → Bytes
  | [] => []
  | [x] => [BitVec.ofNat 8 (x % 16 + fld (byteAt old 0) 4 4 * 16)]
  | x :: y :: r => BitVec.ofNat 8 (x % 16 + (y % 16) * 16) :: packNibbles (old.drop 1) r

/-- The bytes of an output row (R72). -/
def packRow (fmt : Nat) (old : Bytes) (xs : List Nat) : Bytes :=
  if fmtOutBits fmt = 4 then packNibbles old xs else (xs.map (leBytes (fmtOutBits fmt / 8))).flatten

/-- Drain a set to the Pool (R72, R77) and send its residue record (R85). -/
def State.drain (s : State) (n : Nat) (a : AccSet) (d : Drain) : State :=
  let rows := (List.range d.rows).map fun i => (i, (List.range d.cols).map fun j => s.emitElem n a d i j)
  let s1 := rows.foldl (fun s r =>
    let addr := poolAddr n (d.line + r.1 * d.pitch)
    s.wr addr (packRow d.fmt (s.rd addr d.rowBytes) (r.2.map (·.bits)))) s
  let s2 := s1.modBasin n fun b =>
    { b with
      nanSeen := b.nanSeen || rows.any fun r => r.2.any (·.nan)
      satHit := b.satHit || rows.any fun r => r.2.any (·.sat) }
  s2.sendResidue n a

/-- Store an accumulator set. -/
def State.setAcc (s : State) (n sel : Nat) (a : AccSet) : State := s.modBasin n fun b => { b with acc := tset b.acc sel a }

/-- The set a command accumulates into: cleared first where ZERO says so (R75, R85). -/
def State.accStart (s : State) (n sel : Nat) (zero : Bool) : AccSet :=
  if zero then {} else tget {} (s.basin n).acc sel

/-- The class accumulates in the other type than the set holds (R75). -/
def accMismatch (a : AccSet) (c : FmtClass) : Bool :=
  (a.type == .int && !c.isInt) || (a.type == .float && c.isInt)

/-- Operand bytes of MATMUL (R71). -/
def matmulMask : List Nat :=
  [0xFF, 0xFF, 0x0F, 0x3F, 0x3F, 0, 0xFF, 0xFF, 0xFF, 0x7F, 0xFF, 0x7F, 0xFF, 0x7F, 0xFF, 0x7F, 0xFF, 0x7F, 0xFF, 0x7F,
   0xFF, 0x7F, 0xFF, 0x07, 0xFF, 0x7F]

/-- The fields of a MATMUL command (R71). -/
structure Matmul where
  /-- FLAGS. -/
  flags : Nat
  /-- FMT_A. -/
  fa : Nat
  /-- FMT_B. -/
  fb : Nat
  /-- FMT_OUT. -/
  fo : Nat
  /-- Valid rows. -/
  m : Nat
  /-- Valid columns. -/
  n : Nat
  /-- K_M1. -/
  km1 : Nat
  /-- A_LINE. -/
  aLine : Nat
  /-- B_LINE. -/
  bLine : Nat
  /-- C_LINE. -/
  cLine : Nat
  /-- META_LINE. -/
  metaLine : Nat
  /-- SCALE_A_LINE. -/
  sa : Nat
  /-- SCALE_B_LINE. -/
  sb : Nat
  /-- QNT_LINE. -/
  qnt : Nat
  /-- C_PITCH. -/
  pitch : Nat
  /-- B2_LINE. -/
  b2 : Nat

/-- The fields of a MATMUL command, read from its bytes (R71). -/
def matmulOf (c : Bytes) : Matmul :=
  { flags := byteAt c 2, fa := fld (byteAt c 3) 0 4, fb := fld (byteAt c 3) 4 4, fo := fld (byteAt c 4) 0 4
    m := fld (byteAt c 5) 0 6 + 1, n := fld (byteAt c 6) 0 6 + 1, km1 := le c 8 2
    aLine := lineAt c 10, bLine := lineAt c 12, cLine := lineAt c 14, metaLine := lineAt c 16
    sa := lineAt c 18, sb := lineAt c 20, qnt := lineAt c 22, pitch := fld (le c 24 2) 0 11, b2 := lineAt c 26 }

/-- EMIT of a MATMUL. -/
def Matmul.emit (q : Matmul) : Bool := bit q.flags 1
/-- SPARSE_A of a MATMUL. -/
def Matmul.sparse (q : Matmul) : Bool := bit q.flags 3
/-- ACC_SEL of a MATMUL. -/
def Matmul.sel (q : Matmul) : Nat := fld q.flags 2 1
/-- K of a MATMUL (R72). -/
def Matmul.k (q : Matmul) (c : FmtClass) : Nat := if c.is4 then 2 * (q.km1 + 1) else q.km1 + 1

/-- The drain that a MATMUL's fields ask for. -/
def Matmul.drain (q : Matmul) : Drain :=
  { fmt := q.fo, sat := bit q.flags 4, stoch := bit q.flags 5, qnt := bit q.flags 6, qntRow := bit q.flags 7
    qntLine := q.qnt, line := q.cLine, pitch := q.pitch, rows := q.m, cols := q.n }

/-- Lines that K values of a panel take (R72). -/
def panelLines (c : FmtClass) (k : Nat) : Nat := if c.is4 then k / 2 else if c = .fp16 then 2 * k else k

/-- The regions of Pool lines that a MATMUL reads, as (first line, count) (R71). -/
def Matmul.reads (q : Matmul) (c : FmtClass) : List (Nat × Nat) :=
  let k := q.k c
  (if q.sparse then
      [(q.aLine, panelLines c k / 2), (q.bLine, panelLines c k / 2), (q.b2, panelLines c k / 2), (q.metaLine, (k / 4 + 1) / 2)]
    else [(q.aLine, panelLines c k), (q.bLine, panelLines c k)])
  ++ (if c = .mxfp4 then [(q.sa, k / 32), (q.sb, k / 32)] else [])
  ++ (if q.emit && bit q.flags 6 then [(q.qnt, 8)] else [])

/-- The regions of Pool lines that a MATMUL writes (R71). -/
def Matmul.writes (q : Matmul) : List (Nat × Nat) :=
  if q.emit then (List.range q.m).map fun i => (q.cLine + i * q.pitch, q.drain.rowLines) else []

/-- All regions of Pool lines that a MATMUL reaches (R71). -/
def Matmul.regions (q : Matmul) (c : FmtClass) : List (Nat × Nat) := q.reads c ++ q.writes

/-- Every line of the regions is a Pool line (R71). -/
def regionsFit (rs : List (Nat × Nat)) : Bool := rs.all fun r => r.1 + r.2 ≤ 0x8000

/-- The metadata nibble of row `m` in group `g` (R80). -/
def State.metaNibble (s : State) (n line g m : Nat) : Nat :=
  fld (s.poolByte n (line + g / 2) (32 * (g % 2) + m / 2)) (4 * (m % 2)) 4

/-- Raw element (lane, k) of a dense panel (R72). -/
def State.denseElem (s : State) (n : Nat) (c : FmtClass) (line lane k : Nat) : Nat :=
  match c with
  | .fp16 => s.rdLe (poolAddr n (line + 2 * k) + 2 * lane) 2
  | .int4 => fld (s.poolByte n (line + k / 2) lane) (4 * (k % 2)) 4
  | .mxfp4 => fld (s.poolByte n (line + k / 2) lane) (4 * (k % 2)) 4
  | _ => s.poolByte n (line + k) lane

/-- Raw element a(m, k) of a compressed panel; none at a position that was dropped (R80). -/
def State.sparseElem (s : State) (n : Nat) (c : FmtClass) (line ml m k : Nat) : Option Nat :=
  let g := k / 4
  let nib := s.metaNibble n ml g m
  if k % 4 = fld nib 0 2 then
    some (if c.is4 then fld (s.poolByte n (line + g) m) 0 4 else s.poolByte n (line + 2 * g) m)
  else if k % 4 = fld nib 2 2 then
    some (if c.is4 then fld (s.poolByte n (line + g) m) 4 4 else s.poolByte n (line + 2 * g + 1) m)
  else none

/-- Raw element b(k, j) of a B panel split between two banks (R80). -/
def State.splitElem (s : State) (n : Nat) (c : FmtClass) (line line2 j k : Nat) : Nat :=
  let g := k / 4
  let base := if k % 4 < 2 then line else line2
  if c.is4 then fld (s.poolByte n (base + g) j) (4 * (k % 2)) 4 else s.poolByte n (base + 2 * g + k % 2) j

/-- Every row of the groups has strictly ascending positions (R80). -/
def State.metaOkAt (s : State) (n ml : Nat) (groups : List Nat) : Bool :=
  groups.all fun g => (List.range 64).all fun m =>
    let nib := s.metaNibble n ml g m
    fld nib 0 2 < fld nib 2 2

/-- Every group and row of `k` values has strictly ascending positions (R80). -/
def State.metaOk (s : State) (n ml k : Nat) : Bool := s.metaOkAt n ml (List.range (k / 4))

/-- Raw a(m, k) of a MATMUL; none stands for a dropped zero. -/
def Matmul.rawA (q : Matmul) (s : State) (n : Nat) (c : FmtClass) (m k : Nat) : Option Nat :=
  if q.sparse then s.sparseElem n c q.aLine q.metaLine m k else some (s.denseElem n c q.aLine m k)

/-- Raw b(k, j) of a MATMUL. -/
def Matmul.rawB (q : Matmul) (s : State) (n : Nat) (c : FmtClass) (k j : Nat) : Nat :=
  if q.sparse then s.splitElem n c q.bLine q.b2 j k else s.denseElem n c q.bLine j k

/-- The integer tile of a MATMUL. -/
def Matmul.intTile (q : Matmul) (s : State) (n : Nat) (c : FmtClass) : IntTile :=
  { k := q.k c
    a := fun m k => match q.rawA s n c m k with | some v => intElem q.fa v | none => 0
    b := fun k j => intElem q.fb (q.rawB s n c k j) }

/-- The float tile of a MATMUL, with the block scales of MXFP4 (R72, R74). -/
def Matmul.floatTile (q : Matmul) (s : State) (n : Nat) (c : FmtClass) : FloatTile :=
  let sc := fun (line lane k : Nat) (x : Fp) =>
    if c = .mxfp4 then fpMul x (scaleE8M0 (s.poolByte n (line + k / 32) lane)) else x
  { k := q.k c
    pairs := c.is4
    a := fun m k => sc q.sa m k (match q.rawA s n c m k with | some v => floatElem q.fa v | none => .num false 0 0)
    b := fun k j => sc q.sb j k (floatElem q.fb (q.rawB s n c k j)) }

/-- Reserved encodings of a MATMUL (R74, R75, R77, R80). -/
def Matmul.reserved (q : Matmul) (c : FmtClass) : Bool :=
  fmtClass q.fb != some c || !(fmtOutOk q.fo) || (bit q.flags 5 && q.fo != 2 && q.fo != 3) || (q.sparse && c == .fp16)

/-- Shapes outside their ranges (R71, R72, R80). -/
def Matmul.badShape (q : Matmul) (c : FmtClass) : Bool :=
  let k := q.k c
  (c == .fp16 && k > 16384)
    || (c == .mxfp4 && k % 32 != 0)
    || (q.sparse && k % (if c.is4 then 8 else 4) != 0)
    || (q.sparse && q.b2 / 2048 == q.bLine / 2048)
    || q.pitch == 0 || q.pitch < q.drain.rowLines
    || !(regionsFit (q.regions c))

/-- Accumulate a tile into the set of a command; the state also gives the new set. -/
def State.tileAcc (s : State) (n sel : Nat) (zero : Bool) (tile : IntTile ⊕ FloatTile) : State × AccSet :=
  let set := s.accStart n sel zero
  let (s, a, ovf, nan) :=
    match tile with
    | .inl t => (s, (t.into set).1, (t.into set).2, false)
    | .inr t => (s.draw.2, (t.into set s.freeCtr).1, false, (t.into set s.freeCtr).2)
  ((s.setAcc n sel a).modBasin n fun b => { b with accOvf := b.accOvf || ovf, nanSeen := b.nanSeen || nan }, a)

/-- Accumulate a tile into the set of a command, and drain it where EMIT says so. -/
def State.tileInto (s : State) (n sel : Nat) (zero : Bool) (tile : IntTile ⊕ FloatTile) (emit : Bool) (d : Drain) : State :=
  let q := s.tileAcc n sel zero tile
  if emit then q.1.drain n q.2 d else q.1

/-- MATMUL (R72, R75 to R80, R85). -/
def Matmul.run (q : Matmul) (n : Nat) (s : State) : CmdResult :=
  match fmtClass q.fa with
  | none => (1, s)
  | some c =>
    if q.reserved c || accMismatch (s.accStart n q.sel (bit q.flags 0)) c then (1, s)
    else if q.badShape c then (2, s)
    else
      let r := s.askLines n (q.reads c) q.writes
      if r.1 ≠ 0 then r
      else if q.sparse && !(r.2.metaOk n q.metaLine (q.k c)) then (2, r.2)
      else
        (0, r.2.tileInto n q.sel (bit q.flags 0)
          (if c.isInt then .inl (q.intTile r.2 n c) else .inr (q.floatTile r.2 n c)) q.emit q.drain)

/-- MATMUL (R72): one 64 × 64 output tile. -/
def execMatmul (basin : Nat) (s : State) : Out :=
  act s fun s => s.runCmd basin 0x10 matmulMask fun cmd s => (matmulOf cmd).run basin s

/-- SETRND (R78): the stochastic-rounding seed and the tile's position. -/
def execSetrnd (basin : Nat) (s : State) : Out :=
  act s fun s => s.runCmd basin 0x3E ([0, 0] ++ List.replicate 16 0xFF) fun cmd s =>
    (0, s.modBasin basin fun b =>
      { b with rnd := { seed := le cmd 4 4, row0 := le cmd 8 4, col0 := le cmd 12 4, rowLen := le cmd 16 4 } })

end Sys2Proof.Machine
end

