-- ==== Sys2Proof/Machine/JetMath.lean ====
section
/-! DEFINITION. The Jet's functions within their error bounds (R84): fixed-point evaluation with 400 fraction bits, far finer
than any bound, and the test that a result lies within its bound. -/

namespace Sys2Proof.Machine

/-- Fraction bits of the evaluation. -/
def fxBits : Nat := 400
/-- 1. -/
def fxOne : Int := 2 ^ fxBits
/-- A product. -/
def fxMul (a b : Int) : Int := a * b / fxOne
/-- A quotient. -/
def fxDiv (a b : Int) : Int := a * fxOne / b

/-- m × 2^e as a fixed-point number. -/
def fxOf (neg : Bool) (m : Nat) (e : Int) : Int :=
  let v : Int := if e + fxBits ≥ 0 then m * 2 ^ (e + fxBits).toNat else m / 2 ^ (-(e + fxBits)).toNat
  if neg then -v else v

/-- The sum of a series of `n` terms: each comes from the one before and its number, and counts as `use` says. -/
def fxSeries (n : Nat) (first : Int) (next use : Int → Nat → Int) : Int :=
  ((List.range n).foldl (fun (r : Int × Int) i => (r.1 + use r.2 i, next r.2 (i + 1))) (0, first)).1

/-- eˣ: the series at x / 2¹², squared twelve times. -/
def fxExp (x : Int) : Int :=
  let y := x / 2 ^ 12
  (List.range 12).foldl (fun v _ => fxMul v v) (fxSeries 60 fxOne (fun t i => fxMul t y / i) fun t _ => t)

/-- artanh z for |z| ≤ 1/3. -/
def fxArtanh (z : Int) : Int := fxSeries 140 z (fun t _ => fxMul (fxMul t z) z) fun t i => t / (2 * i + 1)

/-- ln t for 1 ≤ t < 2. -/
def fxLn (t : Int) : Int := 2 * fxArtanh (fxDiv (t - fxOne) (t + fxOne))

/-- The square root of a number that is not negative. -/
def fxSqrt (a : Int) : Int := Nat.sqrt (a.toNat * 2 ^ fxBits)

/-- arctan (1 / k). -/
def fxArctanInv (k : Nat) : Int := fxSeries 100 (fxOne / k) (fun t _ => t / (k * k)) fun t i => (if i % 2 = 0 then t else -t) / (2 * i + 1)

/-- π. -/
def fxPi : Int := 16 * fxArctanInv 5 - 4 * fxArctanInv 239

/-- erf x for |x| < 8. -/
def fxErf (x : Int) : Int :=
  let s := fxSeries 800 x (fun t i => -(fxMul (fxMul t x) x) / i) fun t i => t / (2 * i + 1)
  fxDiv (2 * s) (fxSqrt fxPi)

/-- The exponent of the leading bit of a magnitude. -/
def topBit (m : Nat) (e : Int) : Int := (Nat.log2 m : Int) + e

/-- The exact value of a Jet function at a finite argument that is no special case, to within 2⁻¹⁸⁰ (R84). -/
def jetValue (func : Nat) (neg : Bool) (m : Nat) (e : Int) : Int :=
  let x := fxOf neg m e
  let sat := topBit m e ≥ 4
  match func with
  | 0 => fxExp x
  | 1 => fxDiv fxOne x
  | 2 => fxDiv fxOne (fxSqrt x)
  | 3 =>
    let k := topBit m e
    k * fxOne + fxDiv (fxLn (fxOf false m (e - k))) (fxLn (3 * fxOne / 2) + fxLn (4 * fxOne / 3))
  | 4 =>
    if sat then (if neg then -fxOne else fxOne)
    else fxDiv (fxExp (2 * x) - fxOne) (fxExp (2 * x) + fxOne)
  | _ => if topBit m e ≥ 3 then (if neg then -fxOne else fxOne) else fxErf x

/-- One FP32 unit in the last place at a value. -/
def ulpAt (v : Int) : Int :=
  let top : Int := if v = 0 then -126 else max (topBit v.natAbs (-(fxBits : Int))) (-126)
  2 ^ (top - 23 + fxBits).toNat

/-- The largest error of a function at its value (R84); the last term covers the evaluation. -/
def jetBound (func : Nat) (m : Nat) (e : Int) (v : Int) : Int :=
  let ulps : Int := if func = 1 ∨ func = 2 then 1 else 2
  let near := func = 3 ∧ !(dyGt 1 (-1) m e) ∧ !(dyGt m e 2 0)
  (if near then max (ulps * ulpAt v) (2 ^ (fxBits - 22)) else ulps * ulpAt v) - 2 ^ (fxBits - 180)

/-- An FP32 word is a finite number within the bound of a Jet function. -/
def jetFits (func : Nat) (neg : Bool) (m : Nat) (e : Int) (w : Nat) : Bool :=
  match dec32 w with
  | .num n wm we =>
    let v := jetValue func neg m e
    (fxOf n wm we - v).natAbs ≤ (jetBound func m e v).toNat
  | _ => false

/-- The result of a Jet function at a finite argument that is no special case: an open word within the bound, and the
nearest FP32 number where the open word is not (R84). -/
def jetOpen (func x : Nat) (neg : Bool) (m : Nat) (e : Int) : Nat :=
  let w := (Config.jet func x).toNat
  if jetFits func neg m e w then w
  else
    let v := jetValue func neg m e
    enc32 (.num (v < 0) v.natAbs (-(fxBits : Int)))

/-- The Jet's function on the result of the fused multiply-add, as FP32 bits (R84). -/
def jetFn (func x : Nat) : Nat :=
  match dec32 x with
  | .nan => 0x7FC00000
  | .inf n =>
    match func with
    | 0 => if n then 0 else 0x7F800000
    | 1 => b2n n * 2 ^ 31
    | 2 => if n then 0x7FC00000 else 0
    | 3 => if n then 0x7FC00000 else 0x7F800000
    | _ => if n then 0xBF800000 else 0x3F800000
  | .num n m e =>
    match func with
    | 0 =>
      if !n && dyGt (m * 10000) e 887228 0 then 0x7F800000
      else if n && dyGt (m * 10000) e 1039721 0 then 0
      else jetOpen func x n m e
    | 1 => if m = 0 then 0x7F800000 + b2n n * 2 ^ 31 else jetOpen func x n m e
    | 2 => if m = 0 then 0x7F800000 + b2n n * 2 ^ 31 else if n then 0x7FC00000 else jetOpen func x n m e
    | 3 => if m = 0 then 0xFF800000 else if n then 0x7FC00000 else jetOpen func x n m e
    | _ => jetOpen func x n m e

end Sys2Proof.Machine
end

