-- ==== Sys2Proof/Machine/Sequencer.lean ====
section
/-! DEFINITION. The sequencer's own commands, DMA, the Rill and its transposer, the Jet, halo signals, tap records and
the performance monitors (R64 to R73, R81 to R89). -/

namespace Sys2Proof.Machine

/-- A context that is bound or stopping holds a physical Basin, its rank done or not (R155, R159). -/
def State.basinBusy (s : State) (b : Nat) : Bool :=
  s.ttb.ctxs.any fun e =>
    (e.2.state == .running || e.2.state == .stopping) && e.2.rts.isNone && e.2.ranks.any fun r => r.basin == b

/-- A Basin is bound to a context (R151): a tag other than that of the last one clears the Basin's register state where the
image sets ISOLATION (R376). -/
def State.bindBasin (s : State) (basin context tag node generation : Nat) : State :=
  let clear := s.boot.isolation && (s.basin basin).lastTag != some tag
  s.modBasin basin fun b =>
    { b with
      bound := true, context := context, tag := tag, node := node, generation := generation
      lastTag := some tag, list := .idle, queue := [], haloWaiting := false
      acc := if clear then [] else b.acc
      rill := if clear then [] else b.rill
      scoreboard := if clear then 0 else b.scoreboard
      rnd := if clear then {} else b.rnd
      pmu := if clear && b.pmu.virt then { b.pmu with cycle := 0, cnt := [] } else b.pmu }

/-- The dispatch unit starts a list in a Basin (R64). -/
def State.startList (s : State) (basin kernelPtr context tag node generation : Nat) : State :=
  (s.bindBasin basin context tag node generation).modBasin basin fun b =>
    { b with
      kernelPtr := kernelPtr, list := .running, listPos := 0, status := 0, failIndex := 0, run := b.run + 1
      accOvf := false, nanSeen := false, satHit := false }

/-- LIST_START (R64, R376): a dispatch unit starts a list in a Basin that no context of the Turntable holds; the lists of a
context start when it is bound (`State.bindRanks`). -/
def execListStart (basin kernelPtr context tag node generation : Nat) (s : State) : Out :=
  act s fun s =>
    let b := s.basin basin
    if !(s.terraceOn (basin / 8)) ∨ s.basinRole basin = 0 ∨ s.basinRole basin = 3 ∨ b.list = .running ∨ b.list = .stopping
      ∨ s.basinBusy basin then s
    else s.startList basin kernelPtr context tag node generation

/-- NOP (R71). -/
def execNop (basin : Nat) (s : State) : Out := act s fun s => s.runSeq basin 0x00 [0, 0] fun _ s => (0, s)

/-- BARRIER (R71): it waits until every unit is idle and every DMA write has been acknowledged. -/
def execBarrier (basin : Nat) (s : State) : Out :=
  act s fun s => s.runSeq basin 0x30 [0, 0] fun _ s => (if (s.basin basin).queue = [] then 0 else waits, s)

/-- The fields of a DMA command (R72). -/
structure DmaCmd where
  /-- DIR: Pool to external. -/
  out : Bool
  /-- ZERO_FILL. -/
  zero : Bool
  /-- POOL_LINE. -/
  line : Nat
  /-- POOL_PITCH. -/
  pitch : Nat
  /-- EXT_ADDR. -/
  ext : Nat
  /-- LINES. -/
  lines : Nat
  /-- ROWS. -/
  rows : Nat
  /-- EXT_PITCH. -/
  extPitch : Nat

/-- The fields of a DMA command, read from its bytes (R72). -/
def dmaOf (c : Bytes) : DmaCmd :=
  { out := bit (byteAt c 2) 0, zero := bit (byteAt c 2) 1, line := lineAt c 4, pitch := fld (le c 6 2) 0 11
    ext := le c 8 6, lines := fld (le c 14 2) 0 12, rows := le c 16 2, extPitch := le c 18 4 }

/-- Shapes of a DMA outside their ranges (R71, R72). -/
def DmaCmd.badShape (d : DmaCmd) : Bool :=
  d.pitch == 0 || d.lines == 0 || d.lines > 2048 || d.rows == 0 || d.lines * d.rows * 64 > 0x200000
    || d.line + (d.rows - 1) * d.pitch + d.lines > 0x8000
    || (!d.zero && (d.ext % 64 != 0 || d.extPitch % 64 != 0))

/-- Lines of a DMA. -/
def DmaCmd.total (d : DmaCmd) : Nat := d.rows * d.lines
/-- Pool line of the `i`-th line of a DMA. -/
def DmaCmd.poolLine (d : DmaCmd) (i : Nat) : Nat := d.line + i / d.lines * d.pitch + i % d.lines
/-- External address of the `i`-th line of a DMA. -/
def DmaCmd.extAddr (d : DmaCmd) (i : Nat) : Nat := d.ext + i / d.lines * d.extPitch + i % d.lines * 64

/-- A line of a DMA that another device answers (R436, R438): the command has one more access outstanding. -/
def State.dmaRemote (s : State) (n idx a : Nat) (write : Bool) (data : Bytes) (o : Origin) : CmdResult :=
  match s.blockAccess (s.basin n).tag a 64 write data with
  | none => (4, s)
  | some acc =>
    match s.verdict acc with
    | .deny k => (4, s.noteDenial acc k)
    | .hold => (waits, s)
    | .grant =>
      let t := (s.modQ n idx fun q => { q with left := q.left + 1 }).carry { acc with origin := o }
      (if t.resp.kind = .error then 4 else 0, t)

/-- One line of a DMA (R72): Pool line `p` and external address `e`. -/
def State.dmaLine (s : State) (n idx : Nat) (d : DmaCmd) (p e : Nat) : CmdResult :=
  if d.zero then s.basinIo n (poolAddr n p) 64 true (zeros 64)
  else
    match s.translateAddr n e with
    | none => (4, s)
    | some a =>
      let run := (s.basin n).run
      if s.target a = .mawyn ∧ !d.out then s.dmaRemote n idx a false [] (.dmaRead n run idx p)
      else
        let r := s.basinIo n (if d.out then poolAddr n p else a) 64 false []
        let data := slice r.2.resp.bytes 0 64
        if r.1 ≠ 0 then r
        else if s.target a = .mawyn then r.2.dmaRemote n idx a true data (.dma n run idx)
        else r.2.basinIo n (if d.out then a else poolAddr n p) 64 true data

/-- Up to `k` lines of a DMA, from its recorded progress; a line that must wait ends the step (R72). -/
def State.dmaSteps (s : State) (n idx from_ k : Nat) (d : DmaCmd) : CmdResult :=
  (List.range k).foldl (fun (r : CmdResult) i =>
    if r.1 ≠ 0 then r
    else
      let q := r.2.dmaLine n idx d (d.poolLine (from_ + i)) (d.extAddr (from_ + i))
      if q.1 ≠ 0 then q else (0, q.2.modQ n idx fun x => { x with done := from_ + i + 1 })) (0, s)

/-- A DMA command goes on by `k` lines, 0 for all that remain: it completes with its last line acknowledged (R65, R70). -/
def DmaCmd.run (d : DmaCmd) (n k : Nat) (q : QCmd) (s : State) : CmdResult :=
  if d.badShape then (2, s)
  else
    let rest := d.total - q.done
    let todo := if k = 0 then rest else min k rest
    let r := (s.modQ n q.idx fun x => { x with started := true }).dmaSteps n q.idx q.done todo d
    if r.1 ≠ 0 then r
    else if todo = rest then
      let t := r.2.modQ n q.idx fun x => { x with whole := true }
      (if (t.basin n).queue.any fun x => x.idx == q.idx && x.left != 0 then waits else 0, t)
    else (waits, r.2)

/-- Operand bytes of DMA (R71). -/
def dmaMask : List Nat :=
  [0x03, 0, 0xFF, 0x7F, 0xFF, 0x07, 0xFF, 0xFF, 0xFF, 0xFF, 0xFF, 0xFF, 0xFF, 0x0F, 0xFF, 0xFF, 0xFF, 0xFF, 0xFF, 0xFF]

/-- DMA (R72): the engine moves the lines of the visit of its oldest command. -/
def execDma (visit : UnitVisit) (s : State) : Out :=
  act s fun s => s.runQueued visit.basin 0x01 dmaMask fun q s => (dmaOf q.cmd).run visit.basin visit.most q s

/-! ### The Rill (R81 to R83) -/

/-- A Rill operation code of R82's table. -/
def rillOpOk (o : Nat) : Bool :=
  o ≤ 0x0C || (0x10 ≤ o && o ≤ 0x16) || (0x18 ≤ o && o ≤ 0x1C) || o == 0x20 || o == 0x21

/-- A float operation of one FP32 or 16-bit value (R82): codes 0x01 to 0x08. -/
def rillFloat (o : Nat) (a b c : Fp) : Fp :=
  match o with
  | 1 => fpAdd a b
  | 2 => fpAdd a (fpNeg b)
  | 3 => fpMul a b
  | 4 => fpAdd (fpMul a b) c
  | 7 => fpAbs a
  | 8 => fpNeg a
  | _ => a

/-- A comparison of R82: codes 0x09 to 0x0B. -/
def rillCmp (o : Nat) (a b : Fp) : Bool := if o = 9 then fpLt a b else if o = 10 then fpLe a b else fpEq a b

/-- An FP32 lane of operations 0x01 to 0x0B (R82, R83). -/
def rillLane32 (o a b c : Nat) : Nat :=
  if o = 5 then max32 a b
  else if o = 6 then min32 a b
  else if o ≥ 9 then (if rillCmp o (dec32 a) (dec32 b) then 0xFFFFFFFF else 0)
  else enc32 (rillFloat o (dec32 a) (dec32 b) (dec32 c))

/-- A 16-bit value widened to the FP32 pattern of the same value. -/
def widen16 (fp16 : Bool) (v : Nat) : Nat := enc32 (dec16 fp16 v)

/-- A 16-bit half of operations 0x01 to 0x0B: computed in FP32, rounded to the lane type (R83). -/
def rillHalf (fp16 : Bool) (o a b c : Nat) : Nat :=
  if o ≥ 9 then (if rillCmp o (dec16 fp16 a) (dec16 fp16 b) then 0xFFFF else 0)
  else enc16 fp16 (dec32 (rillLane32 o (widen16 fp16 a) (widen16 fp16 b) (widen16 fp16 c)))

/-- Apply a function to both 16-bit halves of a lane. -/
def onHalves (f : Nat → Nat → Nat → Nat) (a b c : Nat) : Nat :=
  f (a % 65536) (b % 65536) (c % 65536) + f (a >>> 16) (b >>> 16) (c >>> 16) * 65536

/-- A lane-wise Rill operation, none where the spec states no result: a float operation on INT32 lanes, a conversion
whose lane type does not fit it, or a shift by 32 or more (R81 to R83). -/
def rillLane (o lt a b c : Nat) : Option Nat :=
  if o = 0 then none
  else if o ≤ 0x0B then
    if lt = 0 then some (rillLane32 o a b c)
    else if lt = 3 then none
    else some (onHalves (rillHalf (lt == 2) o) a b c)
  else
    match o with
    | 0x0C =>
      if lt = 1 ∨ lt = 2 then some (onHalves (fun x y z => if z ≠ 0 then x else y) a b c)
      else some (if c ≠ 0 then a else b)
    | 0x10 => some ((a + b) % 2 ^ 32)
    | 0x11 => some ((a * b) % 2 ^ 32)
    | 0x12 => some (a &&& b)
    | 0x13 => some (a ||| b)
    | 0x14 => some (a ^^^ b)
    | 0x15 => if b < 32 then some ((a <<< b) % 2 ^ 32) else none
    | 0x16 => if b < 32 then some ((toSigned 32 a / (2 ^ b : Nat)) % (2 ^ 32 : Nat)).toNat else none
    | 0x18 =>
      if lt = 1 ∨ lt = 2 then none
      else some (match dec32 a with
        | .nan => 0
        | v => (convert 11 false none v).bits)
    | 0x19 => if lt = 1 ∨ lt = 2 then none else some (enc32 (fpOfInt (toSigned 32 a)))
    | 0x1A => if lt = 1 ∨ lt = 2 then some (widen16 (lt == 2) (a % 65536)) else none
    | 0x1B => if lt = 1 ∨ lt = 2 then some (widen16 (lt == 2) (a >>> 16)) else none
    | 0x1C =>
      if lt = 1 ∨ lt = 2 then some (enc16 (lt == 2) (dec32 a) + enc16 (lt == 2) (dec32 b) * 65536) else none
    | _ => none

/-- One level of the reduction tree: neighbours combine (R83). -/
def pairUp (f : Nat → Nat → Nat) : List Nat → List Nat
  | a :: b :: r => f a b :: pairUp f r
  | l => l

/-- The fixed pairwise tree over 64 lanes (R83). -/
def laneTree (f : Nat → Nat → Nat) (l : List Nat) : Nat :=
  ((List.range 6).foldl (fun l _ => pairUp f l) l).headD 0

/-- A bundle (R81). -/
structure Bundle where
  /-- OP. -/
  op : Nat
  /-- VD. -/
  vd : Nat
  /-- VA. -/
  va : Nat
  /-- VB. -/
  vb : Nat
  /-- VC. -/
  vc : Nat
  /-- LT. -/
  lt : Nat
  /-- IMM. -/
  imm : Nat

/-- The bundle that 8 bytes spell (R81). -/
def bundleOf (v : Nat) : Bundle :=
  { op := fld v 0 8, vd := fld v 8 5, va := fld v 13 5, vb := fld v 18 5, vc := fld v 23 5, lt := fld v 28 2
    imm := fld v 32 32 }

/-- A bundle without reserved encodings (R81); bits [31:30] are RES. -/
def bundleOk (v : Nat) : Bool := rillOpOk (fld v 0 8) && fld v 8 5 != 31 && fld v 30 2 == 0

/-- A lane of a source register; register 31 is the immediate. -/
def Basin.lane (b : Basin) (r imm l : Nat) : Nat := if r = 31 then imm else tget 0 b.rill (64 * r + l)

/-- The result of a bundle that produced a NaN in one of its lanes (R69). -/
def laneNan (lt v : Nat) : Bool :=
  if lt = 0 then dec32 v == .nan
  else if lt = 3 then false
  else dec16 (lt == 2) (v % 65536) == .nan || dec16 (lt == 2) (v >>> 16) == .nan

/-- A lane of a bundle; where the spec states no result it is an open function of the operands (R4, R83). -/
def rillResult (o lt a b c : Nat) : Nat := (rillLane o lt a b c).getD (Config.rillOpen o lt a b c).toNat

/-- RSUM and RMAX (R83): the fixed tree over FP32 lanes; over other lanes an open function of them. -/
def rillReduce (o lt : Nat) (l : List Nat) : Nat :=
  if lt = 0 then laneTree (if o = 0x20 then add32 else max32) l else (Config.rillReduce o lt l).toNat

/-- The lanes that a bundle gives (R81 to R83). -/
def Basin.bundleLanes (b : Basin) (q : Bundle) : List Nat :=
  if q.op = 0x20 ∨ q.op = 0x21 then
    let v := rillReduce q.op q.lt ((List.range 64).map fun l => b.lane q.va q.imm l)
    (List.range 64).map fun _ => v
  else (List.range 64).map fun l =>
    rillResult q.op q.lt (b.lane q.va q.imm l) (b.lane q.vb q.imm l) (b.lane q.vc q.imm l)

/-- A bundle produces a NaN or converts one to an integer (R69): WIDEN gives FP32 lanes, and NARROW lanes of its type. -/
def Basin.bundleNan (b : Basin) (q : Bundle) (vals : List Nat) : Bool :=
  (1 ≤ q.op && q.op ≤ 8 || q.op == 0x20 || q.op == 0x21 || q.op == 0x1C) && vals.any (laneNan q.lt)
    || (q.op == 0x1A || q.op == 0x1B) && vals.any (laneNan 0)
    || q.op == 0x18 && (List.range 64).any fun l => dec32 (b.lane q.va q.imm l) == .nan

/-- One bundle (R81 to R83): all its lanes. -/
def State.bundleStep (s : State) (n : Nat) (q : Bundle) : State :=
  if q.op = 0 then s
  else
    let vals := (s.basin n).bundleLanes q
    let nan := (s.basin n).bundleNan q vals
    s.modBasin n fun b =>
      { b with
        rill := ((List.range 64).zip vals).foldl (fun t e => tset t (64 * q.vd + e.1) e.2) b.rill
        nanSeen := b.nanSeen || nan }

/-- Load a vector of four lines into a register. -/
def State.loadVec (s : State) (n line r : Nat) : State :=
  let vals := (List.range 64).map fun l => s.poolWord n line l
  s.modBasin n fun b =>
    { b with rill := ((List.range 64).zip vals).foldl (fun t e => tset t (64 * r + e.1) e.2) b.rill }

/-- Store a register as a vector of four lines. -/
def State.storeVec (s : State) (n line r : Nat) : State :=
  s.wr (poolAddr n line) ((List.range 64).map fun l => leBytes 4 (tget 0 (s.basin n).rill (64 * r + l))).flatten

/-- The fields of a RILL command (R71). -/
structure RillCmd where
  /-- Bundles. -/
  count : Nat
  /-- BUNDLE_LINE. -/
  bundles : Nat
  /-- Iterations. -/
  iters : Nat
  /-- IN0_LINE. -/
  in0 : Nat
  /-- IN0_STEP. -/
  step0 : Nat
  /-- IN1_LINE. -/
  in1 : Nat
  /-- IN1_STEP. -/
  step1 : Nat
  /-- OUT_LINE. -/
  out : Nat
  /-- OUT_STEP. -/
  stepOut : Nat
  /-- IN0 is enabled. -/
  use0 : Bool
  /-- IN1 is enabled. -/
  use1 : Bool
  /-- OUT is enabled. -/
  useOut : Bool

/-- The fields of a RILL command, read from its bytes (R71). -/
def rillOf (c : Bytes) : RillCmd :=
  { count := fld (byteAt c 3) 0 6 + 1, bundles := lineAt c 4, iters := le c 6 2 + 1
    in0 := lineAt c 8, step0 := le c 10 2, in1 := lineAt c 12, step1 := le c 14 2, out := lineAt c 16, stepOut := le c 18 2
    use0 := fld (byteAt c 20) 0 2 != 0, use1 := fld (byteAt c 20) 2 2 != 0, useOut := fld (byteAt c 20) 4 2 != 0 }

/-- The regions of Pool lines that one stream reaches. -/
def streamRegions (use : Bool) (line step iters : Nat) : List (Nat × Nat) :=
  if use then (List.range iters).map fun i => (line + i * step, 4) else []

/-- The bundle list of a RILL command. -/
def RillCmd.list (q : RillCmd) : Nat × Nat := (q.bundles, (q.count + 7) / 8)
/-- The regions that the input streams of a RILL command read. -/
def RillCmd.inputs (q : RillCmd) : List (Nat × Nat) :=
  streamRegions q.use0 q.in0 q.step0 q.iters ++ streamRegions q.use1 q.in1 q.step1 q.iters
/-- The regions that its output stream writes. -/
def RillCmd.output (q : RillCmd) : List (Nat × Nat) := streamRegions q.useOut q.out q.stepOut q.iters
/-- The regions of Pool lines that a RILL command reaches (R71). -/
def RillCmd.regions (q : RillCmd) : List (Nat × Nat) := q.list :: q.inputs ++ q.output

/-- One iteration of a RILL command (R81). -/
def RillCmd.iter (q : RillCmd) (n : Nat) (bs : List Bundle) (s : State) (i : Nat) : State :=
  let s := if q.use0 then s.loadVec n (q.in0 + i * q.step0) 0 else s
  let s := if q.use1 then s.loadVec n (q.in1 + i * q.step1) 1 else s
  let s := bs.foldl (fun s b => s.bundleStep n b) s
  if q.useOut then s.storeVec n (q.out + i * q.stepOut) 2 else s

/-- The bundles of a RILL command, 8 bytes each. -/
def RillCmd.raw (q : RillCmd) (n : Nat) (s : State) : List Nat :=
  (List.range q.count).map fun i => s.rdLe (poolAddr n q.bundles + 8 * i) 8

/-- RILL (R72, R81): every bundle is checked before the first iteration, and before any stream is asked for. -/
def RillCmd.run (q : RillCmd) (n : Nat) (s : State) : CmdResult :=
  if q.iters * max q.count 4 > 65536 || !(regionsFit q.regions) then (2, s)
  else
    let r := s.askLines n [q.list] []
    if r.1 ≠ 0 then r
    else if !((q.raw n r.2).all bundleOk) then (1, r.2)
    else
      let p := r.2.askLines n q.inputs q.output
      if p.1 ≠ 0 then p
      else (0, (List.range q.iters).foldl (q.iter n ((q.raw n p.2).map bundleOf)) p.2)

/-- RILL (R81). -/
def execRill (basin : Nat) (s : State) : Out :=
  act s fun s =>
    s.runCmd basin 0x20
      [0, 0x3F, 0xFF, 0x7F, 0xFF, 0xFF, 0xFF, 0x7F, 0xFF, 0xFF, 0xFF, 0x7F, 0xFF, 0xFF, 0xFF, 0x7F, 0xFF, 0xFF, 0x3F]
      fun cmd s => (rillOf cmd).run basin s

/-- The Pool line and byte in it of byte `i` of a block whose rows are `w` bytes long (R72): the reading of the pitch
is open. -/
def blockByte (line pitch block w i : Nat) : Nat × Nat :=
  if Config.transposeRowPitch then (line + i / w * pitch + (block * w + i % w) / 64, (block * w + i % w) % 64)
  else (line + block * pitch + i / 64, i % 64)

/-- One block transposed (R72): elements of `e` bytes, 64 rows of 64 bytes. -/
def State.transposeBlock (s : State) (n e inLine inPitch outLine outPitch block : Nat) : State :=
  let src := (List.range 4096).map fun i =>
    let p := blockByte inLine inPitch block 64 i
    memGet s.mem (poolAddr n p.1 + p.2)
  (List.range 4096).foldl (fun s i =>
    let c := i / (64 * e)
    let r := i % (64 * e) / e
    let p := blockByte outLine outPitch block (64 * e) i
    { s with mem := memWrite s.mem (poolAddr n p.1 + p.2) [src.getD (r * 64 + c * e + i % e) 0] }) s

/-- The regions of Pool lines that the blocks of one side of a TRANSPOSE reach (R71). -/
def transposeRegions (line pitch blocks w : Nat) : List (Nat × Nat) :=
  (List.range blocks).map fun b =>
    let last := (blockByte line pitch b w 4095).1
    let first := (blockByte line pitch b w 0).1
    (min first last, max first last + 1 - min first last)

/-- Operand bytes of TRANSPOSE (R71). -/
def transposeMask : List Nat := [0, 0x03, 0xFF, 0x7F, 0xFF, 0x7F, 0xFF, 0xFF, 0xFF, 0xFF, 0xFF, 0xFF]

/-- A TRANSPOSE goes on by `k` blocks from its recorded progress, 0 for all that remain (R70, R72). -/
def transposeRun (n k : Nat) (q : QCmd) (s : State) : CmdResult :=
  let c := q.cmd
  let e := 2 ^ fld (byteAt c 3) 0 2
  let blocks := le c 8 2
  let reads := transposeRegions (lineAt c 4) (le c 10 2) blocks 64
  let writes := transposeRegions (lineAt c 6) (le c 12 2) blocks (64 * e)
  if e = 8 then (1, s)
  else if blocks = 0 || !(regionsFit (reads ++ writes)) then (2, s)
  else
    let r := s.askLines n (reads.drop q.done) (writes.drop q.done)
    if r.1 ≠ 0 then r
    else
      let todo := if k = 0 then blocks - q.done else min k (blocks - q.done)
      let t := (List.range todo).foldl (fun s b =>
        s.transposeBlock n e (lineAt c 4) (le c 10 2) (lineAt c 6) (le c 12 2) (q.done + b)) r.2
      if q.done + todo = blocks then (0, t)
      else (waits, t.modQ n q.idx fun x => { x with started := true, done := q.done + todo })

/-- TRANSPOSE (R72): the transposer takes the blocks of the visit of its command. -/
def execTranspose (visit : UnitVisit) (s : State) : Out :=
  act s fun s => s.runQueued visit.basin 0x21 transposeMask fun q s => transposeRun visit.basin visit.most q s

/-! ### The Jet (R84) -/

/-- One element of a JET command: f(PRE_A × x + PRE_B), with its output format (R84). -/
def jetElem (func preA preB x : Nat) (outBf16 : Bool) : Nat :=
  let y := jetFn func (fma32 preA x preB)
  if outBf16 then enc16 false (dec32 y) else y

/-- JET (R84). -/
def execJet (basin : Nat) (s : State) : Out :=
  act s fun s =>
    s.runCmd basin 0x28
      ([0x03, 0x07, 0xFF, 0x7F, 0xFF, 0x7F] ++ List.replicate 12 0xFF) fun c s =>
      let func := fld (byteAt c 3) 0 3
      let inB := bit (byteAt c 2) 0
      let outB := bit (byteAt c 2) 1
      let count := le c 8 4
      let bytes := fun b : Bool => count * (if b then 2 else 4)
      let src := (lineAt c 4, (bytes inB + 63) / 64)
      let dst := (lineAt c 6, (bytes outB + 63) / 64)
      if func ≥ 6 then (1, s)
      else if count % 16 ≠ 0 || count > 1048576 || !(regionsFit [src, dst]) then (2, s)
      else
        let r := s.askLines basin [src] [dst]
        if r.1 ≠ 0 then r
        else
          let src := poolAddr basin (lineAt c 4)
          let ys := (List.range count).map fun i =>
            let x := if inB then widen16 false (r.2.rdLe (src + 2 * i) 2) else r.2.rdLe (src + 4 * i) 4
            jetElem func (le c 12 4) (le c 16 4) x outB
          let s1 := r.2.wr (poolAddr basin (lineAt c 6)) (ys.map (leBytes (if outB then 2 else 4))).flatten
          (0, s1.modBasin basin fun b =>
            { b with nanSeen := b.nanSeen || ys.any fun y => if outB then dec16 false y == .nan else dec32 y == .nan })

/-! ### Halo signals (R73) -/

/-- HALO_SIGNAL (R73): once every earlier DMA of the sender has been acknowledged, the signal is on its way. -/
def execHaloSignal (basin : Nat) (s : State) : Out :=
  act s fun s =>
    s.runSeq basin 0x31 [0, 0, 0x3F, 0xFF, 0xFF] fun c s =>
      if (s.basin basin).outstanding 0 ≠ 0 then (waits, s)
      else
        (0, s.modBasin basin fun b =>
          { b with signals := b.signals ++ [(fld (byteAt c 4) 0 6, le c 5 2, b.context, b.generation)] })

/-- A halo signal of Basin `n` is dropped and counted in its HALO_DROPPED event (R73, R88). -/
def State.dropHalo (s : State) (n : Nat) : State :=
  (s.modBasin n fun b => { b with haloDropped := b.haloDropped + 1 }).pmuEvent n 0x32

/-- A signal (target Basin, bits, context, generation) of sender `n` meets its target (R73, R157). -/
def State.haloArrive (s : State) (n : Nat) (e : Nat × Nat × Nat × Nat) : State :=
  match s.translate n e.1 with
  | none => s.dropHalo n
  | some p =>
    let b := s.basin p
    if b.bound && b.context == e.2.2.1 && b.generation == e.2.2.2 then
      s.modBasin p fun b => { b with scoreboard := b.scoreboard ||| e.2.1 }
    else s.dropHalo n

/-- HALO_SIGNAL_DELIVER (R73, R157): the oldest signal of a sender reaches its target, or is dropped and counted. -/
def execHaloSignalDeliver (basin : Nat) (s : State) : Out :=
  act s fun s =>
    match (s.basin basin).signals with
    | [] => s
    | e :: rest => (s.modBasin basin fun b => { b with signals := rest }).haloArrive basin e

/-- Every signal that a Basin has sent is delivered or dropped: a signal sent before a stop reaches its target before
that context is saved (R73, R195). -/
def State.haloFlush (s : State) (n : Nat) : State :=
  (s.basin n).signals.foldl (fun s e => s.haloArrive n e) (s.modBasin n fun b => { b with signals := [] })

/-- HALO_WAIT (R72): with all the named bits set it clears them and goes on; otherwise it waits. -/
def execHaloWait (basin : Nat) (s : State) : Out :=
  act s fun s =>
    s.runSeq basin 0x32 [0, 0, 0xFF, 0xFF, 0xFF, 0xFF] fun c s =>
      let bits := le c 4 2
      if le c 6 2 = 0 then (1, s)
      else if (s.basin basin).scoreboard &&& bits = bits then
        (0, s.modBasin basin fun b => { b with scoreboard := b.scoreboard ^^^ bits, haloWaiting := false })
      else (waits, s.modBasin basin fun b => { b with haloWaiting := true })

/-- HALO_TIMEOUT (R72): a HALO_WAIT that waits ends the list. -/
def execHaloTimeout (basin : Nat) (s : State) : Out :=
  act s fun s =>
    if s.runsList basin && (s.basin basin).haloWaiting then s.basinFail basin (s.basin basin).listPos 5 else s

/-! ### Tap records and the end of a list -/

/-- TAP_FLUSH (R85): a flush marker. -/
def execTapFlush (basin : Nat) (s : State) : Out :=
  act s fun s => s.runCmd basin 0x38 [0, 0] fun _ s => (0, s.sendMarker basin)

/-- END (R68): with every unit idle, a flush marker, and the list has ended (the marker waits for the units, so that it
counts every record: DESIGN CHOICE, log entry 23). -/
def execEndList (basin : Nat) (s : State) : Out :=
  act s fun s => s.runSeq basin 0x3F [0, 0] fun _ s =>
    if (s.basin basin).queue ≠ [] then (waits, s)
    else (0, (s.sendMarker basin).modBasin basin fun b => { b with list := .ended })

/-- The counters of a monitor that counts have gone on by free amounts since they were last looked at (R88): no clock and
no condition of a cycle is modelled, and a wrap is its own command. A Basin counter whose events the model counts itself
stands. -/
def Pmu.countOn (p : Pmu) (i : Nat) (basin : Bool) : Pmu :=
  { p with
    cycle := (p.cycle + (Config.freeWord i 0).toNat + 2 ^ 32 * (Config.freeWord i 1).toNat) % 2 ^ 64
    cnt := (List.range 4).foldl (fun t k =>
      let c := tget 0 p.cnt k
      let d := (Config.freeWord i (2 * k + 2)).toNat + 2 ^ 32 * (Config.freeWord i (2 * k + 3)).toNat
      if fld (tget 0 p.evsel k) 0 6 = 0 ∨ (basin && exactEvsel (tget 0 p.evsel k)) then t else tset t k (c + d % (2 ^ 48 - c))) p.cnt }

/-- Monitor `m` is looked at or stopped: where it counts, its counters stand at new values. -/
def State.countOn (s : State) (m : Nat) : State :=
  if (s.monitor m).en && !(s.monitor m).frozen then s.draw.2.modMonitor m fun p => p.countOn s.freeCtr (m < 64) else s

/-- PERF_MARK (R73): a 64-byte snapshot record of the counters. -/
def execPerfMark (basin : Nat) (s : State) : Out :=
  act s fun s => s.runSeq basin 0x3C [0, 0, 0xFF, 0xFF, 0xFF, 0x7F] fun c s =>
    let r := s.askLines basin [] [(lineAt c 6, 1)]
    if r.1 ≠ 0 then r
    else
      let s := r.2.countOn basin
      let p := (s.basin basin).pmu
      (0, s.wr (poolAddr basin (lineAt c 6))
        (leBytes 2 (le c 4 2) ++ zeros 6 ++ leBytes 8 p.cycle
          ++ ((List.range 4).map fun i => leBytes 8 (tget 0 p.cnt i)).flatten ++ zeros 16))

/-- TAP_TIMEOUT (R70): a tap record stayed unacknowledged for 10 µs; the index reported is the list position (DESIGN CHOICE,
log entry 112). -/
def execTapTimeout (basin : Nat) (s : State) : Out :=
  act s fun s =>
    let b := s.basin basin
    if b.tapsOpen && b.list.open then s.basinFail basin b.listPos 8 else s

/-- A rank of a context is marked. -/
def State.markRank (s : State) (c n : Nat) (f : Rank → Rank) : State :=
  s.modCtx c fun x => { x with ranks := x.ranks.map fun r => if r.basin = n && !r.done then f r else r }

/-- ACC_OVF, NAN_SEEN and SAT_HIT as a completion report carries them (R69). -/
def Basin.flagBits (b : Basin) : Nat := b2n b.accOvf + 2 * b2n b.nanSeen + 4 * b2n b.satHit

/-- A rank's report: its flags, and its measured share of R167's B. -/
def State.rankReport (s : State) (n blamedNs : Nat) (f : Rank → Rank) : State :=
  let b := s.basin n
  (s.markRank b.context n fun r => f { r with flags := b.flagBits }).modCtx b.context fun x =>
    { x with blamedNs := max x.blamedNs blamedNs }

/-- LIST_COMPLETE (R68): with every unit idle and every tap record acknowledged, the list is reported complete; `blamedNs`
is the rank's measured share of R167's B. -/
def execListComplete (basin blamedNs : Nat) (s : State) : Out :=
  act s fun s =>
    let b := s.basin basin
    if b.list = .ended ∧ !b.tapsOpen ∧ b.queue = [] then
      (s.rankReport basin blamedNs fun r => { r with done := true }).modBasin basin fun b => { b with list := .idle }
    else s

/-- STOP_REQUEST (R70): the sequencer stops issuing; a HALO_WAIT stops at once. -/
def execStopRequest (basin : Nat) (s : State) : Out :=
  act s fun s =>
    if s.runsList basin then s.modBasin basin fun b => { b with list := .stopping, haloWaiting := false, walkerWaits := false } else s

/-- Lines up to the next 4 KiB of a DMA, at most those that remain (R70). -/
def dmaStopLines (d : DmaCmd) (done : Nat) : Nat := min ((64 - done % 64) % 64) (d.total - done)

/-- A started DMA moves on to its next 4 KiB boundary (R70), counted in the data moved (DESIGN CHOICE, log entry 23). -/
def State.stopDma (s : State) (n : Nat) : State :=
  match s.unitHead n 1 with
  | none => s
  | some q =>
    let d := dmaOf q.cmd
    if q.opcode ≠ 0x01 || !q.started || q.whole || dmaStopLines d q.done = 0 then s
    else
      let r := d.run n (dmaStopLines d q.done) q s
      if r.1 = waits then r.2 else if r.1 ≠ 0 then r.2.listFails n q.idx r.1 else r.2.dropQ n q.idx

/-- Every started command stands at a stop point: no access of a command is outstanding, and a DMA stands at 4 KiB. The tap
records that the stop sends are acknowledged before the rank leaves its Basin (R23; DEDUCED, log entry 128). -/
def Basin.atStop (b : Basin) : Bool :=
  !b.tapsOpen && b.queue.all fun q =>
    !q.started || (q.left == 0 && (q.opcode != 0x01 || (q.done % 64 == 0 && !q.whole)))

/-- The list position rewinds to the first command that has not started; started ones keep their progress (R70). -/
def Basin.rewind (b : Basin) : Basin :=
  { b with
    list := .stopped
    listPos := ((b.queue.filter fun q => !q.started).map (·.idx)).foldl min b.listPos
    queue := b.queue.filter (·.started) }

/-- RANK_STOPPED (R70): every started command has reached its stop point. -/
def execRankStopped (basin blamedNs : Nat) (s : State) : Out :=
  act s fun s =>
    if (s.basin basin).list = .stopping then
      let s := (s.stopDma basin).haloFlush basin
      let b := s.basin basin
      if b.list = .stopping && b.atStop then
        (s.rankReport basin blamedNs fun r => { r with stopped := true }).modBasin basin Basin.rewind
      else s
    else s

/-! ### Performance monitors (R88, R89, R489) -/

/-- PMU_CLEAR (R88): CLEAR zeroes all counters of a monitor. -/
def execPmuClear (monitor : Nat) (s : State) : Out :=
  act s fun s => s.modMonitor monitor fun p => { p with cycle := 0, cnt := [] }

/-- PMU_OVERFLOW (R88, R89, R489): an enabled counter that counts an event wraps. -/
def execPmuOverflow (monitor counter listIndex unit : Nat) (exact : Bool) (s : State) : Out :=
  act s fun s =>
    let p := s.monitor monitor
    let ev := tget 0 p.evsel counter
    if p.en && !p.frozen && fld ev 0 6 != 0 && !(monitor < 64 && exactEvsel ev) then
      let s := (s.countOn monitor).modMonitor monitor fun p => p.wrap counter listIndex unit exact (monitor < 64)
      if 64 ≤ monitor && bit (tget 0 p.evsel counter) 8 then s.msi s.monTag p.msiAddr p.msiData else s
    else s

end Sys2Proof.Machine
end

