-- ==== Sys2Proof/Machine/SignalBox.lean ====
section
/-! DEFINITION. The Signal box: rings, admission, release, completion, tokens (chapter Signal Box). -/

namespace Sys2Proof.Machine

/-! ### Fields of a node record (R128) and of a graph header (R125) -/

/-- KERNEL_PTR. -/
def Node.kernelPtr (n : Node) : Nat := fld (le n.bytes 0x00 8) 0 48
/-- TYPE. -/
def Node.type (n : Node) : Nat := byteAt n.bytes 0x14
/-- A bit of NFLAGS: 0 SAFETY, 1 RESULT, 2 RUN_IF_MISSING, 3 DROP_IF_LATE. -/
def Node.flag (n : Node) (i : Nat) : Bool := bit (byteAt n.bytes 0x15) i
/-- SHARE_GROUP. -/
def Node.shareGroup (n : Node) : Nat := le n.bytes 0x16 2
/-- UNITS. -/
def Node.units (n : Node) : Nat := byteAt n.bytes 0x18
/-- TERRACE_MASK. -/
def Node.terraces (n : Node) : Nat := byteAt n.bytes 0x19
/-- BANK_MASK. -/
def Node.bankMask (n : Node) : Nat := le n.bytes 0x1A 2
/-- LIST_STRIDE. -/
def Node.listStride (n : Node) : Nat := le n.bytes 0x1C 2
/-- RTS_BUDGET_US. -/
def Node.rtsBudget (n : Node) : Nat := le n.bytes 0x1E 2
/-- DEADLINE. -/
def Node.deadline (n : Node) : Nat := le n.bytes 0x20 4
/-- NODE_CLASS. -/
def Node.cls (n : Node) : Nat := le n.bytes 0x24 2
/-- HEADWAY_CLASS. -/
def Node.headwayClass (n : Node) : Nat := le n.bytes 0x26 2
/-- RELEASE. -/
def Node.release (n : Node) : Nat := le n.bytes 0x28 8
/-- RESULT_PTR. -/
def Node.resultPtr (n : Node) : Nat := fld (le n.bytes 0x30 8) 0 48

/-- COMPL_PTR. -/
def Graph.complPtr (g : Graph) : Nat := fld (le g.hdr 0x10 8) 0 48
/-- ORDERED. -/
def Graph.ordered (g : Graph) : Bool := bit (le g.hdr 0x02 2) 0
/-- TOKEN_VALUE. -/
def Graph.tokenValue (g : Graph) : Nat := le g.hdr 0x2C 4
/-- NODE_COUNT. -/
def Graph.nodeCount (g : Graph) : Nat := le g.hdr 0x04 4
/-- EDGE_COUNT. -/
def Graph.edgeCount (g : Graph) : Nat := le g.hdr 0x30 4

/-! ### Statuses (R149) -/

/-- The missing class. -/
def missingClass (st : Nat) : Bool := 0x20 ≤ st && st ≤ 0x24
/-- An input of the node has not arrived: the record's INPUT_MISSING (R149's example sets it for a device that cannot be
reached and for a release timeout: DEDUCED, log entry 115). -/
def inputMissing (st : Nat) : Bool := 0x20 ≤ st && st ≤ 0x22
/-- The failure class. -/
def failureClass (st : Nat) : Bool := (1 ≤ st && st ≤ 0x10) || st == 0x30 || st == 0x31

/-! ### Rings -/

/-- The Consist of a ring: that of OWNER_TAG for general rings, 0 for rings 0 to 15 (R126). -/
def State.ringConsist (s : State) (n : Nat) : Nat := if n < 16 then 0 else consistOf (s.ring n).ownerTag

/-- The generation under which a ring's graphs are admitted: 1 for rings 0 to 15, else its Consist's (R142). -/
def State.ringGen (s : State) (n : Nat) : Nat := if n < 16 then 1 else (s.consist (s.ringConsist n)).generation

/-- The rings whose configuration lies where the tail-watch filter sees them (R122). -/
def State.ringConfigOk (s : State) (n : Nat) : Bool :=
  let r := s.ring n
  6 ≤ r.log2Size && r.log2Size ≤ 16 && r.base + 64 * r.size ≤ s.dramSize
    && r.tailAddr + 8 ≤ s.dramSize && r.tailAddr + 72 ≤ s.dramSize

/-- Rings of a Consist that are armed, other than `n` (R174). -/
def State.armedRings (s : State) (c n : Nat) : Nat :=
  (s.sbx.rings.filter fun e => e.1 ≥ 16 && e.1 != n && e.2.armed && consistOf e.2.ownerTag == c).length

/-- A bad configuration refuses ARM (R121, R122, R174). -/
def State.armRefused (s : State) (n : Nat) : Bool :=
  !(s.ringConfigOk n)
    || (n ≥ 16 && s.ringConsist n != 0 && s.armedRings (s.ringConsist n) n ≥ le (s.consist (s.ringConsist n)).tpl 0x06 2)

/-- ARM of a ring, from the privileged view or from a window (R121). A ring whose captured tail is not valid is not armed
until HEAD is rewritten (R124; which error it shows: DEDUCED, log entry 114). -/
def State.armRing (s : State) (n : Nat) (window : Bool) : State :=
  if window && (n < 16 || (s.ring n).gated) then s
  else if s.armRefused n then s.ringError n 3
  else if !((s.ring n).tailOk (s.ring n).tail) then s.ringError n 1
  else s.modRing n fun r =>
    { r with error := 0, armed := true, gated := if window then r.gated else false }

/-- ARM (R121). -/
def execArm (ring : Nat) (window : Bool) (s : State) : Out := act s fun s => s.armRing ring window

/-- TAIL_WRITE (R123): a submitter's write of a tail word, which the Sluice judges and the tail-watch filter sees. -/
def execTailWrite (requester : Requester) (addr len value : Nat) (entryOk : Bool) (s : State) : Out :=
  act s fun s => s.requesterWrite requester addr len value entryOk

/-- HEAD_WRITE_ERROR (R150). -/
def execHeadWriteError (ring : Nat) (s : State) : Out :=
  act s fun s => if (s.ring ring).armed then s.ringError ring 2 else s

/-! ### Release conditions (R130 to R133) -/

/-- What a release condition comes to. -/
inductive Cond where
  | holds
  | waits
  | ends (status : Nat)
  deriving DecidableEq, Repr

/-- A camera condition (R132): line `line` of frame `f` of a port. -/
def State.camCond (s : State) (port line f : Nat) : Cond :=
  match tget [] s.sbx.cams port with
  | [] => .waits
  | cur :: past =>
    if f = cur.frame then
      if line < cur.lines then .holds else if cur.final then .ends 0x20 else .waits
    else if subMod f cur.frame < 2 ^ 31 then .waits
    else
      match past.find? fun h => h.frame == f with
      | some h => if line < h.lines then .holds else if h.final then .ends 0x20 else .waits
      | none => .ends 0x20

/-- A node's release condition as it stands now. -/
def State.cond (s : State) (n : Node) : Cond :=
  let r := n.release
  let value := fld r 32 32
  match fld r 0 4 with
  | 0 => .holds
  | 1 =>
    let id := fld r 8 16
    if !(s.eventPresent id) then .ends 0x30
    else if bit r 4 then (if s.eventCount id ≠ n.nextFrom then .holds else .waits)
    else if ge32 (s.eventCount id) value then .holds else .waits
  | 2 => s.camCond (fld r 4 4) (fld r 8 16) value
  | 3 => if ge32 (s.arrivalCount (fld r 8 12)) value then .holds else .waits
  | _ =>
    let t := s.token (fld r 8 16)
    if !t.valid || t.stale || !(s.deviceReachable t.srcDevice) then .ends 0x22
    else if ge32 t.value value then .holds else .waits

/-- The instant of a node's deadline; none where it has none (R133). -/
def State.deadlineNs (s : State) (n : Node) : Option Nat :=
  if n.deadline = 0 then none else some ((s.graph n.graph).originNs + 64 * n.deadline)

/-- A node's deadline has passed. -/
def State.pastDeadline (s : State) (n : Node) : Bool :=
  n.lateAt || (match s.deadlineNs n with | some d => decide (d < s.now) | none => false)

/-! ### Tokens (R145 to R147) -/

/-- A node sends the tokens of its successor list (R145). -/
def State.sendTokens (s : State) (n : Node) : State :=
  let g := s.graph n.graph
  let tag := (s.ring g.ring).ownerTag
  (n.succs.filter fun e => fld e 30 2 == 1).foldl (fun s e =>
    let dev := fld e 16 6
    if dev = s.ownDevice then s.tokenReceive (fld e 0 16) g.tokenValue dev tag g.generation
    else if s.deviceReachable dev then
      s.mwlSend dev true (fun fl => mwlHeader 0x10 fl dev s.ownDevice 0 0 0 tag 0 0 0 (fld e 0 16) g.generation g.tokenValue) []
    else s.modMwl fun m => { m with dropped := sat16 m.dropped }) s

/-! ### Completion of graphs (R141) -/

/-- Nodes of a graph that satisfy a test. -/
def State.countNodes (s : State) (g : Graph) (p : Node → Bool) : Nat := (g.nodes.filter fun k => p (s.node k)).length

/-- STATUS of a graph's completion record (R149). -/
def State.graphStatus (s : State) (g : Graph) : Nat :=
  if g.endStatus ≠ 0 then g.endStatus
  else if s.countNodes g (fun n => missingClass n.status || n.marked) ≠ 0 then 1 else 0

/-- The completion record of a graph (R149). -/
def State.graphRecord (s : State) (g : Graph) : Bytes :=
  let missing := s.countNodes g fun n => !n.notRun && (missingClass n.status || n.marked)
  let age := if g.originNs ≥ s.now then 0 else min ((s.now - g.originNs + 63) / 64) 0xFFFFFFFF
  slice g.hdr 0x18 8 ++ leBytes 4 g.ringIndex ++ leBytes 2 g.generation
    ++ leBytes 1 (s.graphStatus g) ++ leBytes 1 g.detail
    ++ leBytes 4 (s.countNodes g fun n => n.state == .complete && !n.notRun && n.status == 0 && !n.marked)
    ++ leBytes 4 missing ++ leBytes 4 (s.countNodes g fun n => n.notRun)
    ++ leBytes 2 (if g.failValid then g.failNode else 0) ++ leBytes 2 (if g.failValid then g.failCmd else 0)
    ++ leBytes 4 age ++ leBytes 4 (min (g.basinNs / 1000) 0xFFFFFFFF)
    ++ leBytes 8 (s.now / 1000000000) ++ leBytes 4 (s.now % 1000000000)
    ++ leBytes 1 (b2n g.late + 2 * b2n g.preempted
        + 4 * b2n (s.countNodes g (fun n => inputMissing n.status) != 0) + 8 * b2n g.failValid)
    ++ zeros 11

/-- The graph that an ORDERED graph follows has its record written, or has completed where its record is lost or not wanted
(R140); a graph whose interrupt has been raised is past both. -/
def State.prevDone (s : State) (g : Graph) : Bool :=
  match g.prev with
  | none => true
  | some p =>
    match tfind s.sbx.graphs p with
    | none => true
    | some x => x.interruptDue && x.record != .writing

/-- The record of a complete graph is sent (R141): a held write takes effect later, with its answer. -/
def State.writeRecord (s : State) (g : Nat) (badPtr : Bool) (rec64 : Bytes) : State :=
  let x := s.graph g
  if badPtr then s.recordDone g false
  else if x.complPtr = 0 then s
  else
    (s.modGraph g fun x => { x with record := .writing }).devAccess (.record g) (s.ring x.ring).ownerTag x.complPtr 64 true rec64

/-- The record of a complete graph is written, its nodes freed, and its completion interrupt becomes due (R141). -/
def State.finishGraph (s : State) (g : Nat) (badPtr : Bool) : State :=
  let x := s.graph g
  let rec64 := s.graphRecord x
  let s := { s with sbx := { s.sbx with nodes := s.sbx.nodes.filter fun e => !(x.nodes.contains e.1) } }
  (s.modGraph g fun x => { x with interruptDue := true, nodes := [] }).writeRecord g badPtr rec64

/-- Every node of the graph has completed or is NOT_RUN. -/
def State.graphDone (s : State) (g : Graph) : Bool :=
  g.nodes.all fun k => (s.node k).state == .complete || (s.node k).notRun

/-- A graph is still in flight: its record is not yet due. -/
def Graph.inFlight (g : Graph) : Bool := !g.interruptDue

/-- A graph ends early with a status: what has not started is NOT_RUN (R143, R144). -/
def State.endGraph (s : State) (g status : Nat) : State :=
  let x := s.graph g
  let s := x.nodes.foldl (fun s k => s.modNode k fun n =>
    match n.state with
    | .waiting => { n with notRun := true }
    | .release => { n with notRun := true }
    | .ready => { n with notRun := true }
    | _ => n) s
  s.modGraph g fun x => { x with endStatus := if x.endStatus = 0 then status else x.endStatus }

/-- COMPLETION_INTERRUPT (R141): the interrupt of a graph whose record is acknowledged, lost or not wanted; the graph is
then gone. -/
def execCompletionInterrupt (graph : Nat) (s : State) : Out :=
  act s fun s =>
    let x := s.graph graph
    if x.interruptDue && x.record != .writing then
      let s := if x.ring < 16 then s.msi s.sbxTag (s.ring x.ring).msiAddr (s.ring x.ring).msiData
        else s.msi s.sbxTag (s.consist x.consist).complMsiAddr (s.consist x.consist).complMsiData
      { s with sbx := { s.sbx with graphs := tdel s.sbx.graphs graph } }
    else s

/-! ### Completion of nodes (R134, R137, R139, R143) -/

/-- The first failure of a graph is kept for its record (R143, R149). -/
def State.noteFailure (s : State) (g : Nat) (n : Node) (status failCmd : Nat) : State :=
  if (s.graph g).endStatus ≠ 0 then s
  else
    (s.endGraph g 2).modGraph g fun x =>
      { x with detail := status, failValid := true, failNode := n.index, failCmd := failCmd }

/-- A node counts as complete: its successors, its tokens and its graph see it (R137, R139). -/
def State.finishNode (s : State) (slot : Nat) : State :=
  let s := s.modNode slot fun n => { n with state := .complete }
  let n := s.node slot
  let g := s.graph n.graph
  let mark := n.marked || missingClass n.status
  let s :=
    if g.endStatus ≠ 0 then s
    else
      let s := (n.succs.filter fun e => fld e 30 2 == 0).foldl (fun s e =>
        s.modNode (g.nodes.getD (fld e 0 16) 0) fun m => { m with preds := m.preds - 1, marked := m.marked || mark }) s
      if n.status = 0 && !n.marked then s.sendTokens n else s
  if s.graphDone (s.graph n.graph) && (s.graph n.graph).inFlight then s.finishGraph n.graph false else s

/-- A node completes with a status (R137): a RESULT node is first handed to the Interlocking. -/
def State.completeNode (s : State) (slot status failCmd : Nat) : State :=
  let s := s.modNode slot fun n => { n with status := status, state := if n.flag 1 then .handed else .complete }
  let n := s.node slot
  let s := if failureClass status then s.noteFailure n.graph n status failCmd else s
  if n.flag 1 then
    let g := s.graph n.graph
    { s with ilk := { s.ilk with toHand := s.ilk.toHand ++
      [{ slot := slot, status := status, marked := n.marked, context := n.context, generation := g.generation
         resultPtr := n.resultPtr, headwayClass := n.headwayClass, ring := g.ring, consist := g.consist
         originNs := g.originNs, planStatus := if n.type = 1 then (s.ctx n.context).planStatus else 0
         pflags := if n.type = 1 then (s.ctx n.context).pflags else 0 }] } }
  else s.finishNode slot

/-! ### Readiness and virtual time (R160) -/

/-- V = usage × 1,024 / weight (R160). -/
def virtualTime (usage weight : Nat) : Nat := usage * 1024 / max weight 1

/-- V_c of a Consist (R160). -/
def Consist.vtime (c : Consist) : Nat := virtualTime c.usage c.weight + c.raised
/-- V_g of a share group (R160). -/
def ShareGroup.vtime (g : ShareGroup) : Nat := virtualTime g.usage g.weight + g.raised

/-- SHARE_GROUPS. -/
def Consist.shareGroups (c : Consist) : Nat := le c.tpl 0x16 2

/-- The device share-group entry that a node of a Consist charges, and whether the charge folds to group 0 (R159). -/
def State.groupOf (s : State) (c : Nat) (n : Node) : Nat × Bool :=
  let x := s.consist c
  if n.shareGroup < x.shareGroups then (x.firstGroup + n.shareGroup, false) else (x.firstGroup, true)

/-- The least virtual time of a pool's running Consists; none where none runs (R160). -/
def State.vtimeFloor (s : State) (pool : Nat) : Option Nat :=
  ((s.ttb.ctxs.filter fun e =>
      (e.2.state == .running || e.2.state == .stopping) && e.2.rts.isNone && e.2.consist != 0
        && (s.consist e.2.consist).pool == pool).map fun e => (s.consist e.2.consist).vtime).foldl
    (fun m v => match m with | none => some v | some x => some (min x v)) none

/-- What a virtual time `v` is raised by, with a weight, when its Consist or group becomes ready after being idle (R160). -/
def State.raiseBy (s : State) (pool v weight : Nat) : Nat :=
  match s.vtimeFloor pool with
  | none => 0
  | some m => m - s.quantumNs pool * 8 * 1024 / max weight 1 - v

/-- A BASIN node of a Consist, other than `slot`, is ready or runs; in group `g`, where one is given. -/
def State.engaged (s : State) (slot c : Nat) (g : Option Nat) : Bool :=
  s.sbx.nodes.any fun e =>
    e.1 != slot && e.2.type == 0 && (e.2.state == .ready || e.2.state == .running) && !e.2.notRun
      && (s.graph e.2.graph).consist == c
      && (match g with | some k => (s.groupOf c e.2).1 == k | none => true)

/-- A Consist, and the share group of a node, become ready: one that was idle is raised (R160). -/
def State.raiseIdle (s : State) (slot : Nat) : State :=
  let n := s.node slot
  let c := (s.graph n.graph).consist
  if n.type ≠ 0 ∨ c = 0 then s
  else
    let pool := (s.consist c).pool
    let k := (s.groupOf c n).1
    let dc := if s.engaged slot c none then 0 else s.raiseBy pool (s.consist c).vtime (s.consist c).weight
    let e := tget ({} : ShareGroup) s.ttb.groups k
    let dg := if s.engaged slot c (some k) then 0 else s.raiseBy pool e.vtime e.weight
    let s := s.modConsist c fun x => { x with raised := x.raised + dc }
    { s with ttb := { s.ttb with groups := tmod {} s.ttb.groups k fun e => { e with raised := e.raised + dg } } }

/-- A node becomes ready. -/
def State.makeReady (s : State) (slot : Nat) (late : Bool) : State :=
  (s.raiseIdle slot).modNode slot fun n => { n with state := .ready, readyAt := s.now, releasedLate := late }

/-- A node is released: JOIN completes, other work becomes ready (R133, R137). -/
def State.releaseNode (s : State) (slot : Nat) : State :=
  let n := s.node slot
  let late := s.pastDeadline n
  if late && n.flag 3 then s.completeNode slot 0x23 0
  else
    let s := if late then s.modGraph n.graph fun g => { g with late := true } else s
    if n.type = 2 then s.completeNode slot 0 0 else s.makeReady slot late

/-- A node of a live graph with no predecessor outstanding comes to its evaluation (R131, R133, R134). -/
def State.evaluate (s : State) (slot : Nat) : State :=
  let n := s.node slot
  if n.state = .waiting then
    if n.marked && !n.flag 2 then s.completeNode slot 0x24 0
    else
      let s := s.modNode slot fun n => { n with state := .release, nextFrom := s.eventCount (fld n.release 8 16) }
      match s.cond (s.node slot) with
      | .holds => s.releaseNode slot
      | .ends st => s.completeNode slot st 0
      | .waits => if s.pastDeadline n then s.completeNode slot 0x21 0 else s
  else if s.pastDeadline n then s.completeNode slot 0x21 0
  else
    match s.cond n with
    | .holds => s.releaseNode slot
    | .ends st => s.completeNode slot st 0
    | .waits => s

/-- A node that the next evaluation would move. -/
def State.movable (s : State) (n : Node) : Bool :=
  let g := s.graph n.graph
  !n.notRun && g.endStatus == 0 && s.prevDone g && g.inFlight
    && match n.state with
       | .waiting => n.preds == 0
       | .release => s.cond n != .waits || s.pastDeadline n
       | _ => false

/-- Evaluate nodes until none moves; `fuel` bounds the number of evaluations. -/
def State.settleN : Nat → State → State
  | 0, s => s
  | k + 1, s =>
    match s.sbx.nodes.find? fun e => s.movable e.2 with
    | some e => State.settleN k (s.evaluate e.1)
    | none => s

/-- What answered accesses have set going: the interrupts of mailbox responses (R399), and the Signal box evaluates every node
that can move (R131), each at most twice. -/
def State.settle (s : State) : State := State.settleN (2 * s.sbx.nodes.length) s.sendReplies

/-- NODE_DEADLINE (R133): time has come to a node's deadline; a condition under evaluation that has not held ends the node.
While the counter stands still no deadline passes. -/
def execNodeDeadline (slot : Nat) (s : State) : Out :=
  act s fun s =>
    match s.deadlineNs (s.node slot) with
    | none => s
    | some d =>
      let t := s.reach d
      if t.now < d then s else (t.modNode slot fun n => { n with lateAt := true }).settle

/-! ### Admission (R126) -/

/-- Bytes that a block fetches line by line: it ends with the first line that is denied, fails or must wait. -/
def State.fetchBytes (s : State) (tag a n : Nat) : State × Fetch :=
  (List.range ((n + 63) / 64)).foldl (fun (r : State × Fetch) i =>
    match r.2 with
    | .got bs =>
      let q := r.1.fetchAt tag (a + 64 * i) (min 64 (n - 64 * i))
      match q.2 with
      | .got b => (q.1, .got (bs ++ b))
      | f => (q.1, f)
    | _ => r) (s, .got [])

/-- What admission fetches of a graph. -/
structure Fetched where
  /-- The header. -/
  hdr : Bytes
  /-- The node records. -/
  recs : List Bytes
  /-- The successor entries of each node. -/
  succs : List (List Nat)
  deriving DecidableEq, Repr

/-- The 4-byte entries of a successor list. -/
def entries4 (bs : Bytes) (n : Nat) : List Nat := (List.range n).map fun i => le bs (4 * i) 4

/-- What the fetch of a node record or of a whole graph comes to. -/
inductive GraphFetch (α : Type) where
  /-- What was fetched. -/
  | got (value : α)
  /-- A fetch was denied or failed. -/
  | failed
  /-- An access is held: admission goes on later. -/
  | waits
  deriving DecidableEq, Repr

/-- Fetch one node record's successor list. -/
def State.fetchSuccs (s : State) (tag : Nat) (rec1 : Bytes) : State × GraphFetch (List Nat) :=
  let n := le rec1 0x10 2
  let p := fld (le rec1 0x08 8) 0 48
  if n = 0 ∨ n > 4096 ∨ p % 4 ≠ 0 then (s, .got [])
  else
    let r := s.fetchBytes tag p (4 * n)
    (r.1, match r.2 with | .got bs => .got (entries4 bs n) | .failed => .failed | .waits => .waits)

/-- Fetch one node record and its successor list. -/
def State.fetchNode (s : State) (tag a : Nat) : State × GraphFetch (Bytes × List Nat) :=
  let q := s.fetchBytes tag a 64
  match q.2 with
  | .got rec1 =>
    let p := q.1.fetchSuccs tag rec1
    (p.1, match p.2 with | .got l => .got (rec1, l) | .failed => .failed | .waits => .waits)
  | .failed => (q.1, .failed)
  | .waits => (q.1, .waits)

/-- Fetch the node records and successor lists that the header names (R126). -/
def State.fetchGraph (s : State) (tag : Nat) (hdr : Bytes) : State × GraphFetch Fetched :=
  let count := le hdr 0x04 4
  let ptr := fld (le hdr 0x08 8) 0 48
  if count = 0 ∨ count > 65536 ∨ ptr % 64 ≠ 0 then (s, .got { hdr := hdr, recs := [], succs := [] })
  else
    (List.range count).foldl (fun (r : State × GraphFetch Fetched) i =>
      match r.2 with
      | .got f =>
        let q := r.1.fetchNode tag (ptr + 64 * i)
        (q.1, match q.2 with
          | .got x => .got { f with recs := f.recs ++ [x.1], succs := f.succs ++ [x.2] }
          | .failed => .failed
          | .waits => .waits)
      | _ => r) (s, .got { hdr := hdr, recs := [], succs := [] })

/-- Reserved encodings of a RELEASE field (R130). -/
def releaseReserved (r : Nat) : Bool :=
  let t := fld r 0 4
  t > 4 || fld r 30 2 != 0
    || (t != 4 && fld r 24 6 != 0)
    || (t == 0 && r != 0)
    || (t == 1 && (fld r 5 3 != 0 || (bit r 4 && fld r 32 32 != 0)))
    || (t == 3 && (fld r 4 4 != 0 || fld r 20 4 != 0))
    || (t == 4 && fld r 4 4 != 0)

/-- Reserved encodings of a node record (R126, R128). -/
def nodeReserved (r : Bytes) : Bool :=
  let t := byteAt r 0x14
  let units := byteAt r 0x18
  t > 2 || fld (byteAt r 0x15) 4 4 != 0 || le r 0x06 2 != 0 || (le r 0x10 2 != 0 && le r 0x0E 2 != 0) || le r 0x36 2 != 0
    || (t == 0 && (units == 0 || units > 64))
    || (t == 1 && (fld units 0 2 == 0 || fld units 2 6 != 0))
    || (t == 2 && (units != 0 || le r 0x00 8 != 0))
    || (t != 0 && (byteAt r 0x19 != 0 || le r 0x1A 2 != 0))
    || (t != 1 && le r 0x1E 2 != 0)
    || (!(bit (byteAt r 0x15) 1) && (le r 0x26 2 != 0 || le r 0x30 8 != 0))
    || releaseReserved (le r 0x28 8)

/-- Reserved encodings of a successor entry (R129). -/
def succReserved (e : Nat) : Bool :=
  match fld e 30 2 with
  | 0 => fld e 16 14 != 0
  | 1 => fld e 22 8 != 0 || fld e 16 6 ≥ 48
  | _ => true

/-- The non-zero RES bits of COMPL_PTR or its misalignment: the graph's record is then never written (R141). -/
def complPtrBad (h : Bytes) : Bool := le h 0x16 2 != 0 || fld (le h 0x10 8) 0 48 % 64 != 0

/-- Reserved encodings of a graph header (R125). -/
def headerReserved (h : Bytes) : Bool :=
  le h 0x00 2 > 1 || fld (le h 0x02 2) 2 14 != 0 || le h 0x0E 2 != 0 || le h 0x16 2 != 0 || !(zeroAt h 0x34 12)

/-- A pointer of a node record is not aligned (R128). -/
def nodeMisaligned (r : Bytes) : Bool :=
  (byteAt r 0x14 == 0 && fld (le r 0 8) 0 48 % 32 != 0)
    || (byteAt r 0x14 == 1 && fld (le r 0 8) 0 48 % 64 != 0)
    || (le r 0x10 2 != 0 && fld (le r 0x08 8) 0 48 % 4 != 0)

/-- The local successor indexes of a node. -/
def localSuccs (l : List Nat) : List Nat := (l.filter fun e => fld e 30 2 == 0).map fun e => fld e 0 16

/-- One round of the topological pass: the nodes reached so far, and those whose predecessors are all reached. -/
def topoRound (succs : List (List Nat)) (n : Nat) (done : List Nat) : List Nat :=
  (List.range n).filter fun k =>
    (List.range n).all fun j => done.contains j || !((localSuccs (succs.getD j [])).contains k)

/-- The topological pass reaches every node (R126). -/
def acyclic (succs : List (List Nat)) (n : Nat) : Bool :=
  ((List.range n).foldl (fun done _ => topoRound succs n done) []).length == n

/-- The express Basins of a set of physical Terraces; mask 0 is any. -/
def State.expressBasins (s : State) (mask : Nat) : List Nat :=
  (List.range 64).filter fun b => s.basinRole b == 2 && (mask == 0 || bit mask (b / 8))

/-- The virtual Basins of a Consist in a set of virtual Terraces (R155). -/
def State.virtualBasins (s : State) (c mask : Nat) : List Nat :=
  (List.range (s.consist c).basinCap).filter fun v => mask == 0 || bit mask (v / 8)

/-- A resource request that can never be met (R135). -/
def State.unsatisfiable (s : State) (ring : Nat) (r : Bytes) : Bool :=
  let units := byteAt r 0x18
  match byteAt r 0x14 with
  | 0 =>
    if ring < 16 then units > (s.expressBasins (byteAt r 0x19)).length
    else units > (s.virtualBasins (s.ringConsist ring) (byteAt r 0x19)).length
  | 1 => !((bit units 0 && s.rtsOn 0) || (bit units 1 && s.rtsOn 1)) || le r 0x1E 2 == 0
  | _ => false

/-- A release condition that names nothing that can meet it (R126). -/
def State.badRelease (s : State) (ring r : Nat) : Bool :=
  match fld r 0 4 with
  | 1 => !(s.eventPresent (fld r 8 16))
  | 2 => !(s.camEnabled (fld r 4 4))
  | 3 => !(s.entryEnabled (fld r 8 12))
  | 4 =>
    let t := s.token (fld r 8 16)
    !t.valid || t.ownerConsist != s.ringConsist ring || t.srcDevice != fld r 24 6
  | _ => false

/-- The first failing check of a fetched graph, in R126's order; 0 for none. -/
def State.rejectCode (s : State) (ring : Nat) (f : Fetched) : Nat :=
  let h := f.hdr
  let n := le h 0x04 4
  let edges := le h 0x30 4
  let safety := decide (ring < 16)
  let tpl := (s.consist (s.ringConsist ring)).tpl
  let succCounts := f.recs.map fun r => le r 0x10 2
  if headerReserved h || f.recs.any nodeReserved || f.succs.any (·.any succReserved) then 0x01
  else if fld (le h 0x08 8) 0 48 % 64 != 0 || complPtrBad h || f.recs.any nodeMisaligned then 0x02
  else if n == 0 || n > 65536 || edges > 1048576 || succCounts.any (· > 4096) || succCounts.sum != edges
      || (!safety && (n > le tpl 0x08 4 || edges > le tpl 0x0C 4)) then 0x03
  else if f.succs.any (fun l => (localSuccs l).any (· ≥ n)) then 0x06
  else if (List.range n).any (fun k =>
      le (f.recs.getD k []) 0x12 2 != ((f.succs.map fun l => ((localSuccs l).filter (· == k)).length).sum)) then 0x04
  else if !(acyclic f.succs n) then 0x05
  else if f.recs.any (s.unsatisfiable ring) then 0x07
  else if bit (le h 0x02 2) 1 != safety || f.recs.any (fun r => bit (byteAt r 0x15) 0 != safety) then 0x08
  else if f.recs.any (fun r => s.badRelease ring (le r 0x28 8)) then 0x09
  else 0

/-- Node slots in use, of all graphs or of those of one Consist. -/
def State.nodesOf (s : State) (p : Graph → Bool) : Nat :=
  ((s.sbx.graphs.filter fun e => p e.2).map fun e => e.2.nodes.length).sum

/-- Edge entries in use. -/
def State.edgesOf (s : State) (p : Graph → Bool) : Nat :=
  ((s.sbx.graphs.filter fun e => p e.2 && e.2.inFlight).map fun e => e.2.edgeCount).sum

/-- The device has room for a graph (R148). -/
def State.roomFor (s : State) (ring n e : Nat) : Bool :=
  let general := fun g : Graph => decide (g.ring ≥ 16)
  s.nodesOf (fun _ => true) + n ≤ 262144 && s.edgesOf (fun _ => true) + e ≤ 1048576
    && (ring < 16 || (s.nodesOf general + n ≤ 245760 && s.edgesOf general + e ≤ 983040))

/-- The Consist's quotas have room for a graph (R126). -/
def State.quotaFor (s : State) (ring n e : Nat) : Bool :=
  let c := s.ringConsist ring
  let own := fun g : Graph => decide (g.ring ≥ 16) && g.consist == c
  ring < 16 || (s.nodesOf own + n ≤ le (s.consist c).tpl 0x08 4 && s.edgesOf own + e ≤ le (s.consist c).tpl 0x0C 4)

/-- The lowest free node slots. -/
def State.freeSlots (s : State) (n : Nat) : List Nat :=
  let used := s.sbx.nodes.map (·.1)
  ((List.range (used.length + n)).filter fun k => !(used.contains k)).take n

/-- HEAD moves on and the head word is written; an error response, now or for a held write later, disarms the ring (R122,
R150). -/
def State.advanceHead (s : State) (ring : Nat) : State :=
  let s := s.modRing ring fun r => { r with head := wrapInc 32 r.head, waitSlots := false, waitQuota := false }
  let r := s.ring ring
  s.devAccess (.head ring) r.ownerTag (r.tailAddr + 64) 8 true (leBytes 8 r.head)

/-- A graph with a reject code: only its record is written (R126). -/
def State.rejectGraph (s : State) (ring : Nat) (hdr : Bytes) (code : Nat) : State :=
  let g := s.sbx.nextGraph
  let s := { s with sbx := { s.sbx with nextGraph := g + 1 } }
  let s := s.modGraph g fun x =>
    { x with
      ring := ring, ringIndex := (s.ring ring).head, hdr := hdr, consist := s.ringConsist ring
      generation := s.ringGen ring, endStatus := 5, detail := code
      originNs := if le hdr 0x20 8 = 0 ∧ le hdr 0x28 4 = 0 then s.now else le hdr 0x20 8 * 1000000000 + le hdr 0x28 4 }
  ((s.modRing ring fun r => { r with lastGraph := some g }).finishGraph g (complPtrBad hdr)).advanceHead ring

/-- A graph without a reject code and with room is admitted whole (R126). -/
def State.admitGraph (s : State) (ring : Nat) (f : Fetched) : State :=
  let g := s.sbx.nextGraph
  let slots := s.freeSlots f.recs.length
  let hdr := f.hdr
  let prev := if bit (le hdr 0x02 2) 0 then (s.ring ring).lastGraph else none
  let s := { s with sbx := { s.sbx with nextGraph := g + 1 } }
  let s := s.modGraph g fun x =>
    { x with
      ring := ring, ringIndex := (s.ring ring).head, hdr := hdr, consist := s.ringConsist ring
      generation := s.ringGen ring, nodes := slots, prev := prev
      originNs := if le hdr 0x20 8 = 0 ∧ le hdr 0x28 4 = 0 then s.now else le hdr 0x20 8 * 1000000000 + le hdr 0x28 4 }
  let s := (List.range f.recs.length).foldl (fun s i =>
    s.modNode (slots.getD i 0) fun _ =>
      { bytes := f.recs.getD i [], succs := f.succs.getD i [], graph := g, index := i
        preds := le (f.recs.getD i []) 0x12 2 }) s
  let s := s.modRing ring fun r => { r with lastGraph := some g }
  (s.advanceHead ring).settle

/-- A ring has entries that its admission engine may take (R54, R124, R125). -/
def State.ringHasWork (s : State) (n : Nat) : Bool :=
  let r := s.ring n
  r.armed && r.head != r.tail && r.tailOk r.tail && s.boot.phase != .failed
    && (s.boot.phase == .ready || s.boot.phase == .safe)

/-- How far a ring stands behind the one its engine served last, in round-robin order (R125): 0 is its turn. -/
def State.ringTurn (s : State) (n : Nat) : Nat :=
  if n < 16 then (n + 31 - s.sbx.lastSafety) % 16 else (n + 2 * 1008 - 1 - s.sbx.lastGeneral) % 1008

/-- It is a ring's turn: no other ring of its engine with entries waiting comes first (R125). -/
def State.ringNext (s : State) (n : Nat) : Bool :=
  s.ringHasWork n && !(s.sbx.rings.any fun e =>
    decide (e.1 < 16) == decide (n < 16) && s.ringHasWork e.1 && s.ringTurn e.1 < s.ringTurn n)

/-- The engine has served a ring (R125). -/
def State.ringServed (s : State) (n : Nat) : State :=
  if n < 16 then { s with sbx := { s.sbx with lastSafety := n } } else { s with sbx := { s.sbx with lastGeneral := n } }

/-- An entry with its header fetched: skipped, rejected, left waiting or admitted (R125, R126); none where a fetch must
wait. -/
def State.admitEntry (s : State) (ring : Nat) (hdr : Bytes) : State :=
  if le hdr 0x00 2 = 0 then (s.ringServed ring).advanceHead ring
  else
    let p := s.fetchGraph (s.ring ring).ownerTag hdr
    match p.2 with
    | .waits => p.1
    | .failed => (p.1.ringServed ring).rejectGraph ring hdr 0x0A
    | .got f =>
      let s := p.1.ringServed ring
      let code := s.rejectCode ring f
      if code ≠ 0 then s.rejectGraph ring hdr code
      else if !(s.quotaFor ring f.recs.length (le hdr 0x30 4)) then
        s.modRing ring fun r => { r with waitQuota := true, waitSlots := false }
      else if !(s.roomFor ring f.recs.length (le hdr 0x30 4)) then
        s.modRing ring fun r => { r with waitSlots := true, waitQuota := false }
      else s.admitGraph ring f

/-- GRAPH_ADMIT (R125, R126, R150): in its turn, the graph at the head of an armed ring is fetched, checked and admitted,
rejected, or left waiting. -/
def State.graphAdmit (s : State) (ring : Nat) : State :=
  if !(s.ringNext ring) then s
  else
    let r := s.ring ring
    let q := s.fetchBytes r.ownerTag (r.base + 64 * (r.head % r.size)) 64
    match q.2 with
    | .waits => q.1
    | .failed => (q.1.ringServed ring).ringError ring 4
    | .got hdr => q.1.admitEntry ring hdr

/-- GRAPH_ADMIT (R126). -/
def execGraphAdmit (ring : Nat) (s : State) : Out := act s fun s => s.graphAdmit ring

/-! ### Cancellation, disarming and the generation advance (R142, R144) -/

/-- The graphs in flight that satisfy a test. -/
def State.graphsWhere (s : State) (p : Graph → Bool) : List Nat :=
  (s.sbx.graphs.filter fun e => e.2.inFlight && p e.2).map (·.1)

/-- A graph whose remaining nodes are all done gets its record. -/
def State.closeGraph (s : State) (g : Nat) : State :=
  if s.graphDone (s.graph g) && (s.graph g).inFlight then s.finishGraph g false else s

/-- CANCEL of a ring (R144), the Routesetter's part left to its own block. -/
def State.cancelRing (s : State) (ring : Nat) : State :=
  let s := (s.graphsWhere fun g => g.ring == ring).foldl (fun s g => (s.endGraph g 3).closeGraph g) s
  s.modRing ring fun r => { r with armed := false, waitSlots := false, waitQuota := false }

/-- DISARM of a ring, from the privileged view (R121). -/
def State.disarmRing (s : State) (ring : Nat) : State :=
  s.modRing ring fun r => { r with armed := false, gated := true, waitSlots := false, waitQuota := false }

/-- DISARM (R121). -/
def execDisarm (ring : Nat) (s : State) : Out := act s fun s => s.disarmRing ring

/-- The Signal box accepts a generation advance of a Consist (R142): its graphs end ABORTED unless they had failed, and
its rings are disarmed and gated. -/
def State.generationAdvance (s : State) (c : Nat) : State :=
  let s := (s.graphsWhere fun g => g.ring ≥ 16 && g.consist == c).foldl (fun s g =>
    let s := s.endGraph g 4
    let s := (s.graph g).nodes.foldl (fun s k => s.modNode k fun n =>
      if n.state = .complete then n else { n with notRun := true }) s
    s.finishGraph g false) s
  let rings := tmap s.sbx.rings fun k r =>
    if k ≥ 16 && consistOf r.ownerTag == c then
      { r with armed := false, gated := true, waitSlots := false, waitQuota := false }
    else r
  { s with sbx := { s.sbx with rings := rings } }

/-! ### Token registers (R146, R147) -/

/-- The token that a path's selector shows. -/
def State.tokenShown (s : State) (path : Nat) : Nat := tget 0 s.sbx.tokenSel path

/-- TOKEN_CFG_WRITE (R147): clearing VALID completes the nodes that wait on the token. -/
def execTokenCfgWrite (path value : Nat) (s : State) : Out :=
  act s fun s =>
    (s.modToken (s.tokenShown path) fun t =>
      { t with
        ownerConsist := fld value 0 8, srcDevice := fld value 8 6, srcTag := fld value 14 12, valid := bit value 26 }).settle

/-- TOKEN_GEN_WRITE (R147): the accepted sender generation; it clears STALE. -/
def execTokenGenWrite (path value : Nat) (s : State) : Out :=
  act s fun s => (s.modToken (s.tokenShown path) fun t => { t with expectGen := fld value 0 16, stale := false }).settle

/-- TOKEN_VALUE_WRITE (R146): the value is replaced, which may release waiting nodes. -/
def execTokenValueWrite (path value : Nat) (s : State) : Out :=
  act s fun s => (s.modToken (s.tokenShown path) fun t => { t with value := fld value 0 32 }).settle

end Sys2Proof.Machine
end

