-- ==== Sys2Proof/Machine/Kvc.lean ====
section
/-! DEFINITION. The KV cache manager: spaces, sequences, pages, the prefix tree, epochs and pins (R215 to R229). -/

namespace Sys2Proof.Machine

/-! ### Entries -/

/-- KV space `n`. -/
def State.kvSpace (s : State) (n : Nat) : KvSpace := tget {} s.kvc.spaces n
/-- Sequence slot `n`. -/
def State.kvSeq (s : State) (n : Nat) : KvSeq := tget {} s.kvc.seqs n
/-- Page record `n`. -/
def State.kvPage (s : State) (n : Nat) : KvPage := tget {} s.kvc.pages n
/-- Change the KVC. -/
def State.modKvc (s : State) (f : Kvc → Kvc) : State := { s with kvc := f s.kvc }
/-- Change KV space `n`. -/
def State.modKvSpace (s : State) (n : Nat) (f : KvSpace → KvSpace) : State :=
  s.modKvc fun k => { k with spaces := tmod {} k.spaces n f }
/-- Change sequence slot `n`. -/
def State.modKvSeq (s : State) (n : Nat) (f : KvSeq → KvSeq) : State :=
  s.modKvc fun k => { k with seqs := tmod {} k.seqs n f }
/-- Change page record `n`. -/
def State.modKvPage (s : State) (n : Nat) (f : KvPage → KvPage) : State :=
  s.modKvc fun k => { k with pages := tmod {} k.pages n f }
/-- The request slot and queue of a Consist. -/
def State.kvQueue (s : State) (c : Nat) : KvQueue := tget {} s.kvc.queues c

/-- The accesses that the KVC makes in its metadata area for one step of its work, whose format is internal: each reads or
writes one line of the 84 MiB under KVC_TAG (R216). -/
def State.kvMeta (s : State) : State :=
  if s.kvc.metaBase = 0 then s
  else
    let (i, s) := s.draw
    (Config.kvcMeta i).foldl (fun s a =>
      let addr := s.kvc.metaBase + 64 * (a.1 % 1376256)
      match a.2 with
      | none => s.devRead s.kvcTag addr 64
      | some d => s.devWrite s.kvcTag addr (slice d 0 64)) s

/-! ### Fields of a space record (R215) -/

/-- VALID. -/
def KvSpace.valid (p : KvSpace) : Bool := bit (byteAt p.record 0) 0
/-- FMT. -/
def KvSpace.fmt (p : KvSpace) : Nat := byteAt p.record 1
/-- OWNER_TAG. -/
def KvSpace.ownerTag (p : KvSpace) : Nat := fld (le p.record 2 2) 0 12
/-- LAYERS. -/
def KvSpace.layers (p : KvSpace) : Nat := byteAt p.record 4
/-- KV_HEADS. -/
def KvSpace.heads (p : KvSpace) : Nat := byteAt p.record 5
/-- HEAD_DIM. -/
def KvSpace.headDim (p : KvSpace) : Nat := 16 * (fld (byteAt p.record 6) 0 4 + 1)
/-- PAGE_BASE. -/
def KvSpace.pageBase (p : KvSpace) : Nat := fld (le p.record 0x08 8) 0 48
/-- FIRST_PAGE. -/
def KvSpace.firstPage (p : KvSpace) : Nat := le p.record 0x10 4
/-- PAGE_COUNT. -/
def KvSpace.pageCount (p : KvSpace) : Nat := le p.record 0x14 4
/-- TABLE_BASE. -/
def KvSpace.tableBase (p : KvSpace) : Nat := fld (le p.record 0x18 8) 0 48
/-- FIRST_SEQ. -/
def KvSpace.firstSeq (p : KvSpace) : Nat := le p.record 0x20 2
/-- SEQ_QUOTA. -/
def KvSpace.seqQuota (p : KvSpace) : Nat := le p.record 0x22 2 + 1
/-- TREE_QUOTA. -/
def KvSpace.treeQuota (p : KvSpace) : Nat := le p.record 0x24 4
/-- LOW_WATER. -/
def KvSpace.lowWater (p : KvSpace) : Nat := le p.record 0x28 4

/-- Bytes of one element of a KV format. -/
def kvElem (fmt : Nat) : Nat := if fmt = 8 ∨ fmt = 9 then 2 else 1
/-- PAGE_BYTES (R217). -/
def pageBytes (layers heads headDim e : Nat) : Nat := layers * heads * 2 * 64 * headDim * e
/-- PAGE_STRIDE (R217). -/
def pageStride (bytes : Nat) : Nat := (bytes + 4095) / 4096 * 4096
/-- PAGE_BYTES of a space. -/
def KvSpace.bytes (p : KvSpace) : Nat := pageBytes p.layers p.heads p.headDim (kvElem p.fmt)
/-- The first byte of a page of a space (R217). -/
def KvSpace.pageAddr (p : KvSpace) (n : Nat) : Nat :=
  ((p.pageBase + n * pageStride p.bytes : Nat) + 2 ^ 96 - p.firstPage * pageStride p.bytes) % 2 ^ 48
/-- The first byte of the block-table copy of a sequence slot (R218). -/
def KvSpace.tableAddr (p : KvSpace) (slot : Nat) : Nat := p.tableBase + (slot - p.firstSeq) * 0x4000

/-- The page records of a space. -/
def KvSpace.pages (p : KvSpace) : List Nat := (List.range p.pageCount).map (p.firstPage + ·)
/-- The sequence slots of a space. -/
def KvSpace.slots (p : KvSpace) : List Nat := (List.range p.seqQuota).map (p.firstSeq + ·)

/-- Two ranges overlap. -/
def rangesMeet (a n b m : Nat) : Bool := a < b + m && b < a + n

/-- A record that VALID is set in fails its check (R216). -/
def State.kvRecordBad (s : State) (n : Nat) (p : KvSpace) : Bool :=
  let r := p.record
  let c := consistOf p.ownerTag
  !([4, 5, 8, 9].contains p.fmt) || c == 0
    || p.layers == 0 || p.layers > 64 || p.heads == 0 || p.heads > 64 || fld (byteAt r 6) 4 4 != 0
    || p.pageBase % 4096 != 0 || p.pageCount == 0 || p.firstPage + p.pageCount > 1048576
    || p.tableBase % 4096 != 0 || p.firstSeq + p.seqQuota > 65536 || p.treeQuota > 1048576
    || p.bytes > 0x200000
    || (s.kvc.spaces.any fun e => e.1 != n && e.2.valid
        && (rangesMeet p.firstPage p.pageCount e.2.firstPage e.2.pageCount
            || rangesMeet p.firstSeq p.seqQuota e.2.firstSeq e.2.seqQuota))
    || (s.consist c).state != .active || (s.consist c).world != worldOf p.ownerTag

/-- The 64 bytes of a record. -/
def KvSpace.bytes64 (p : KvSpace) : Bytes := slice p.record 0 64

/-- A record with its RES fields 0 (R5, R215). -/
def kvFields (r : Bytes) : Bytes :=
  leBytes 1 (byteAt r 0 % 2) ++ slice r 1 1 ++ leBytes 2 (le r 2 2 % 4096) ++ slice r 4 3 ++ zeros 1 ++ slice r 8 6 ++ zeros 2
    ++ slice r 0x10 14 ++ zeros 2 ++ slice r 0x20 12 ++ zeros 20

/-- Bytes of a record are written; its RES fields ignore what is written to them (R5). -/
def KvSpace.put (p : KvSpace) (off : Nat) (bs : Bytes) : KvSpace := { p with record := kvFields (patch p.bytes64 off bs) }

/-- Everything that belongs to a space is dropped: its sequences, tree nodes and page records (R228). -/
def State.kvDropSpace (s : State) (n : Nat) : State :=
  let p := s.kvSpace n
  State.kvMeta <| s.modKvc fun k =>
    { k with
      seqs := tmap k.seqs fun i q =>
        if p.firstSeq ≤ i && i < p.firstSeq + p.seqQuota && q.life != .free then
          { reuse := wrapInc 16 q.reuse } else q
      pages := k.pages.filter fun e => !(p.firstPage ≤ e.1 && e.1 < p.firstPage + p.pageCount)
      nodes := k.nodes.filter fun e => e.2.space != n
      spaces := tmod {} k.spaces n fun x => x.put 0 (zeros 1) }

/-- KV_SPACE_VALID (R216): the record is checked when VALID is set; a write to a valid record is ignored. -/
def State.kvSetValid (s : State) (n value : Nat) : State :=
  if (s.kvSpace n).valid then s
  else
    let p := (s.kvSpace n).put 0 (leBytes 4 value)
    if !s.kvc.en || s.kvRecordBad n p then
      s.modKvSpace n fun x => { (x.put 0 (leBytes 4 (value - value % 2))) with cfgRejected := true }
    else (s.modKvSpace n fun _ => p).kvMeta

/-- KV_SPACE_VALID (R216). -/
def execKvSpaceValid (space value : Nat) (s : State) : Out := act s fun s => s.kvSetValid space value

/-- KV_SPACE_INVALIDATE (R216): accepted only while the owner Consist holds no pin; a record that is not valid takes the
write. -/
def State.kvClearValid (s : State) (n value : Nat) : State :=
  let p := s.kvSpace n
  if !p.valid then s.modKvSpace n fun x => x.put 0 (leBytes 4 value)
  else if s.kvc.pins.any fun e => e.2.consist == consistOf p.ownerTag then
    s.modKvSpace n fun x => { x with cfgRejected := true }
  else s.kvDropSpace n

/-- KV_SPACE_INVALIDATE (R216). -/
def execKvSpaceInvalidate (space value : Nat) (s : State) : Out := act s fun s => s.kvClearValid space value

/-- KVC_ENABLE (R229): EN is set only with META_BASE set, and cleared only with no space valid. -/
def execKvcEnable (value : Nat) (s : State) : Out :=
  act s fun s =>
    if bit value 0 then (if s.kvc.metaBase = 0 then s else s.modKvc fun k => { k with en := true })
    else if s.kvc.spaces.any fun e => e.2.valid then s
    else s.modKvc fun k => { k with en := false }

/-! ### References, retirement and reclaim (R222, R225, R226) -/

/-- KVC_SAFE_EPOCH: the smallest pin epoch held; E where none is (R229). -/
def Kvc.safeEpoch (k : Kvc) : Nat := k.pins.foldl (fun m e => min m e.2.epoch) k.epoch

/-- What retired at an epoch may be reclaimed: every held pin is younger (R226). -/
def Kvc.reclaimable (k : Kvc) (epoch : Nat) : Bool := k.pins.all fun e => e.2.epoch > epoch

/-- Everything that may be reclaimed becomes FREE (R226). -/
def State.kvReclaim (s : State) : State :=
  s.modKvc fun k =>
    { k with
      pages := k.pages.filter fun e => !(e.2.life == .retired && k.reclaimable e.2.retireEpoch)
      seqs := tmap k.seqs fun _ q =>
        if q.life = .retired && k.reclaimable q.retireEpoch then { reuse := wrapInc 16 q.reuse } else q }

/-- PAGE_RECLAIM (R226). -/
def execPageReclaim (s : State) : Out := act s fun s => s.kvReclaim.kvMeta

/-- One reference more to a page. -/
def State.kvAddRef (s : State) (p : Nat) : State :=
  s.modKvPage p fun x => { x with life := .live, refs := x.refs + 1 }

/-- One reference less to a page, which retires at epoch E when none is left (R222, R225). -/
def State.kvDropRef (s : State) (p : Nat) : State :=
  let e := s.kvc.epoch
  s.modKvPage p fun x =>
    if x.refs ≤ 1 then { x with refs := 0, life := .retired, retireEpoch := e } else { x with refs := x.refs - 1 }

/-- The epoch advances if something retired at it (R225). -/
def State.kvAdvanceEpoch (s : State) : State :=
  let e := s.kvc.epoch
  if (s.kvc.pages.any fun x => x.2.life == .retired && x.2.retireEpoch == e)
      || (s.kvc.seqs.any fun x => x.2.life == .retired && x.2.retireEpoch == e) then
    s.modKvc fun k => { k with epoch := k.epoch + 1 }
  else s

/-- The FREE pages of a space, in ascending order. -/
def State.kvFreePages (s : State) (p : KvSpace) : List Nat := p.pages.filter fun n => (s.kvPage n).life == .free

/-- A node of the prefix tree is eligible for eviction: no children, and its page's count is 1 (R224). -/
def State.kvEligible (s : State) (space : Nat) (e : Nat × KvNode) : Bool :=
  e.2.space == space && (s.kvPage e.2.page).refs == 1 && !(s.kvc.nodes.any fun c => c.2.parent == e.1)

/-- The eligible node of a space that was matched least recently. -/
def State.kvOldest (s : State) (space : Nat) : Option (Nat × KvNode) :=
  (s.kvc.nodes.filter (s.kvEligible space)).foldl (fun m e =>
    match m with
    | none => some e
    | some x => if e.2.matched < x.2.matched then some e else m) none

/-- A node of the prefix tree holds a page. -/
def State.kvHeld (s : State) (page : Nat) : Bool := s.kvc.nodes.any fun e => e.2.page == page

/-- Evict one node: it leaves the tree, and its page retires unless another node holds it (R222, R224). -/
def State.kvEvictOne (s : State) (space : Nat) (e : Nat × KvNode) : State :=
  let s := (s.modKvc fun k => { k with nodes := tdel k.nodes e.1 }).modKvSpace space fun x =>
    { x with evictions := sat16 x.evictions }
  if s.kvHeld e.2.page then s
  else (s.modKvPage e.2.page fun x => { x with published := false }).kvDropRef e.2.page

/-- Evict up to `n` nodes, least recently matched first; the count of those evicted. -/
def State.kvEvictN : Nat → State → Nat → State × Nat
  | 0, s, _ => (s, 0)
  | n + 1, s, space =>
    match s.kvOldest space with
    | none => (s, 0)
    | some e =>
      let r := State.kvEvictN n (s.kvEvictOne space e) space
      (r.1, r.2 + 1)

/-- Evict until `need` pages have retired or no node is eligible. -/
def State.kvEvictPages : Nat → State → Nat → Nat → State
  | 0, s, _, _ => s
  | fuel + 1, s, space, need =>
    if need = 0 then s
    else
      match s.kvOldest space with
      | none => s
      | some e =>
        let t := s.kvEvictOne space e
        State.kvEvictPages fuel t space (need - b2n ((t.kvPage e.2.page).life == .retired))

/-- An eviction pass that retires `need` pages if it can, with its own epoch (R225). -/
def State.kvPagePass (s : State) (need space : Nat) : State :=
  (State.kvEvictPages s.kvc.nodes.length s space need).kvAdvanceEpoch

/-- An eviction pass of up to `n` nodes, with its own epoch (R225). -/
def State.kvEvictPass (s : State) (n space : Nat) : State := ((State.kvEvictN n s space).1).kvAdvanceEpoch

/-! ### Block tables (R218) -/

/-- A block-table entry (R218). -/
def State.kvEntry (s : State) (page : Nat) : Nat :=
  let p := s.kvPage page
  page % 2 ^ 20 + b2n p.published * 2 ^ 29 + b2n (p.refs == 1 && !p.published) * 2 ^ 30 + 2 ^ 31

/-- The copies of the entries that a request changed are written under OWNER_TAG (R218): those whose value differs from
the one they had in `old`. -/
def State.kvCopy (s old : State) : State :=
  s.kvc.seqs.foldl (fun s e =>
    if e.2.life = .live then
      let p := s.kvSpace e.2.space
      e.2.blocks.foldl (fun s b =>
        let now := s.kvEntry b.2
        let q := old.kvSeq e.1
        let same := q.life == .live && q.reuse == e.2.reuse && tfind q.blocks b.1 == some b.2 && old.kvEntry b.2 == now
        if same then s else s.devWrite p.ownerTag (p.tableAddr e.1 + 4 * b.1) (leBytes 4 now)) s
    else s) s

/-! ### Requests (R219, R220) -/

/-- OP of a request. -/
def kvOp (r : Bytes) : Nat := byteAt r 0
/-- SPACE of a request. -/
def kvSp (r : Bytes) : Nat := byteAt r 1
/-- SEQ of a request. -/
def kvHandle (r : Bytes) : Nat := le r 4 4
/-- ARG0 of a request. -/
def kvArg0 (r : Bytes) : Nat := le r 8 4
/-- ARG1 of a request. -/
def kvArg1 (r : Bytes) : Nat := le r 0x10 8

/-- A handle is live in a space (R220). -/
def State.kvLive (s : State) (space handle : Nat) : Bool :=
  let q := s.kvSeq (handle % 65536)
  q.life == .live && q.space == space && q.reuse == handle / 65536

/-- The handle of a sequence slot. -/
def State.kvHandleOf (s : State) (slot : Nat) : Nat := slot + (s.kvSeq slot).reuse * 65536

/-- KVC_REQ_TAKE (R219): a write covers bytes 0x38 to 0x3F of the slot; a full queue discards the request. -/
def State.kvcTake (s : State) (c : Nat) (data : Bytes) : State :=
  let q := s.kvQueue c
  let slot := patch (slice q.slot 0 64) 0x38 (slice data 0 8)
  let q := { q with slot := slot }
  let q := if q.queue.length ≥ 16 then { q with drops := sat16 q.drops } else { q with queue := q.queue ++ [slot] }
  s.modKvc fun k => { k with queues := tset k.queues c q }

/-- KVC_REQ_TAKE (R219). -/
def execKvcReqTake (consist : Nat) (data : Bytes) (s : State) : Out := act s fun s => s.kvcTake consist data

/-- What a request comes to: its status, the handle, COUNT and pin of its response, and the state. -/
structure KvDone where
  /-- STATUS. -/
  status : Nat := 0
  /-- SEQ of the response. -/
  seq : Nat := 0
  /-- COUNT. -/
  count : Nat := 0
  /-- The pin slot. -/
  pin : Nat := 0xFFFF
  /-- An access of it is held: the request stays at the head of its queue. -/
  waits : Bool := false
  /-- The state. -/
  st : State

/-- The response line of a request, and then, once it is acknowledged, its token (R219). -/
def State.kvAnswer (s : State) (c : Nat) (r : Bytes) (d : KvDone) : State :=
  let s := s.kvMeta
  let tag := s.consistTag c
  let len := if s.kvLive (kvSp r) d.seq then (s.kvSeq (d.seq % 65536)).length else 0
  let epoch := if d.pin = 0xFFFF then s.kvc.epoch else (tget {} s.kvc.pins d.pin).epoch
  let line := leBytes 1 d.status ++ leBytes 1 (kvOp r) ++ zeros 2 ++ leBytes 4 d.seq ++ leBytes 4 len ++ leBytes 4 d.count
    ++ leBytes 8 epoch ++ leBytes 2 d.pin ++ zeros 6 ++ slice r 0x20 8 ++ zeros 24
  let addr := fld (le r 0x18 8) 0 48
  let o := if le r 0x28 2 = 0xFFFF then Origin.other
    else .kvc (le r 0x28 2) (le r 0x2C 4) tag (s.consist c).generation
  (if addr = 0 then s.answerData o [] else s.devAccess o tag addr 64 true line).settle

/-- A malformed request (R219, R220): a reserved OP, a non-zero reserved field, a SEQ where the operation has none. -/
def kvReserved (r : Bytes) : Bool :=
  let op := kvOp r
  op == 0 || op > 0x0A || le r 2 2 != 0 || le r 0x0C 4 != 0 || le r 0x1E 2 != 0 || fld (le r 0x18 8) 0 6 != 0
    || le r 0x2A 2 != 0 || !(zeroAt r 0x30 16)
    || ((op == 1 || op == 7 || op == 9) && kvHandle r != 0)
    || (op == 1 && (le r 0x16 2 != 0 || kvArg1 r % 8 != 0))

/-- The status with which a request ends before its operation; 0 where it goes on. -/
def State.kvCheck (s : State) (c : Nat) (r : Bytes) : Nat :=
  let op := kvOp r
  let p := s.kvSpace (kvSp r)
  if kvReserved r then 1
  else if !p.valid || p.ownerTag != s.consistTag c then 2
  else if (op == 2 || op == 3 || op == 4 || op == 5 || op == 6 || op == 0x0A || (op == 8 && kvHandle r != 0))
      && !(s.kvLive (kvSp r) (kvHandle r)) then 3
  else 0

/-- The Consist whose request is served next: round-robin from the one served last (R219). -/
def State.kvNext (s : State) : Option Nat :=
  ((List.range 256).map fun i => (s.kvc.lastServed + 1 + i) % 256).find? fun c => !(s.kvQueue c).queue.isEmpty

/-- The request of a Consist leaves its queue. -/
def State.kvPop (s : State) (c : Nat) : State :=
  s.modKvc fun k =>
    { k with queues := tmod {} k.queues c fun q => { q with queue := q.queue.drop 1 }, lastServed := c }

/-- Free pages below LOW_WATER start an eviction pass after a request (R224): it goes on until as many pages as are lacking
can be freed. While a pin is held none of them is, and the pass ends when no node is eligible. -/
def State.kvLowWater (s : State) (n : Nat) : State :=
  let p := s.kvSpace n
  let free := (s.kvFreePages p).length
  if p.valid && decide (free < p.lowWater) then
    (s.kvReclaim.kvPagePass (if s.kvc.pins.isEmpty then p.lowWater - (s.kvReclaim.kvFreePages p).length
      else s.kvc.nodes.length) n).kvReclaim
  else s

/-- Requests that no operation takes are answered, up to the first that one does. -/
def State.kvDrainN : Nat → State → State
  | 0, s => s
  | n + 1, s =>
    match s.kvNext with
    | none => s
    | some c =>
      let r := (s.kvQueue c).queue.headD []
      let st := s.kvCheck c r
      if st = 0 then s
      else
        let s := s.kvPop c
        State.kvDrainN n ((s.kvAnswer c r { status := st, seq := kvHandle r, st := s }).kvLowWater (kvSp r))

/-- How many requests wait. -/
def State.kvWaiting (s : State) : Nat := (s.kvc.queues.map fun e => e.2.queue.length).sum

/-- Serve the request that is next, if it is of operation `op` (R219): it completes with OK, or it changes nothing. -/
def State.kvServe (s : State) (op : Nat) (f : State → Nat → Bytes → KvDone) : State :=
  if !s.kvc.en then s
  else
    let s := State.kvDrainN s.kvWaiting s
    match s.kvNext with
    | none => s
    | some c =>
      let r := (s.kvQueue c).queue.headD []
      if kvOp r ≠ op ∨ s.kvCheck c r ≠ 0 then s
      else
        let t := s.kvPop c
        let d := f t c r
        let s1 := d.st.kvAdvanceEpoch
        if d.waits then s1.modKvc fun k => { k with queues := s.kvc.queues, lastServed := s.kvc.lastServed }
        else
          let s1 := if d.status = 0 then s1.kvCopy t else s1
          (s1.kvAnswer c r d).kvLowWater (kvSp r)

/-! ### The operations -/

/-- The child of a node under a hash. -/
def State.kvChild (s : State) (space parent hash : Nat) : Option (Nat × KvNode) :=
  s.kvc.nodes.find? fun e => e.2.space == space && e.2.parent == parent && e.2.hash == hash

/-- The nodes that a list of hashes matches, from the root. -/
def State.kvMatch (s : State) (space : Nat) : Nat → List Nat → List (Nat × KvNode)
  | _, [] => []
  | parent, h :: r =>
    match s.kvChild space parent h with
    | some e => e :: s.kvMatch space e.1 r
    | none => []

/-- A free sequence slot of a space: the lowest. -/
def State.kvFreeSlot (s : State) (p : KvSpace) : Option Nat := p.slots.find? fun n => (s.kvSeq n).life == .free

/-- One more reference would exceed 65,535 on some page. -/
def State.kvRefLimit (s : State) (pages : List Nat) : Bool := pages.any fun p => (s.kvPage p).refs ≥ 65535

/-- CREATE (R220): a new sequence of the blocks that the prefix tree matches. -/
def State.kvCreate (s : State) (c : Nat) (r : Bytes) : KvDone :=
  let sp := kvSp r
  let n := kvArg0 r
  if n > 4096 then { status := 6, st := s }
  else
    match s.kvFreeSlot (s.kvSpace sp) with
    | none => { status := 5, st := s }
    | some slot =>
      let q := s.fetchBytes (s.consistTag c) (kvArg1 r) (8 * n)
      match q.2 with
      | .failed => { status := 0x0E, st := q.1 }
      | .waits => { waits := true, st := q.1 }
      | .got bs =>
        let path := q.1.kvMatch sp 0 ((List.range n).map fun i => le bs (8 * i) 8)
        if q.1.kvRefLimit (path.map (·.2.page)) then { status := 0x0B, st := q.1 }
        else
          let s := path.foldl (fun s e =>
            (s.kvAddRef e.2.page).modKvc fun k =>
              { k with nodes := tmod {} k.nodes e.1 fun x => { x with matched := k.matchCount }, matchCount := k.matchCount + 1 }) q.1
          let s := s.modKvSeq slot fun x =>
            { x with
              life := .live, space := sp, length := 64 * path.length, path := path.map (·.1)
              blocks := (List.range path.length).zip (path.map (·.2.page)) }
          { seq := s.kvHandleOf slot, count := path.length, st := s }

/-- KVC_CREATE (R220). -/
def execKvcCreate (s : State) : Out := act s fun s => s.kvServe 1 State.kvCreate

/-- FORK (R220): a new sequence with the table and length of SEQ. -/
def State.kvFork (s : State) (_ : Nat) (r : Bytes) : KvDone :=
  let q := s.kvSeq (kvHandle r % 65536)
  match s.kvFreeSlot (s.kvSpace (kvSp r)) with
  | none => { status := 5, seq := kvHandle r, st := s }
  | some slot =>
    if s.kvRefLimit (q.blocks.map (·.2)) then { status := 0x0B, seq := kvHandle r, st := s }
    else
      let s := q.blocks.foldl (fun s b => s.kvAddRef b.2) s
      let s := s.modKvSeq slot fun x => { q with reuse := x.reuse }
      { seq := s.kvHandleOf slot, st := s }

/-- KVC_FORK (R220). -/
def execKvcFork (s : State) : Out := act s fun s => s.kvServe 2 State.kvFork

/-- What the KVC has read of a page is written to line `i` of its copy (R223). -/
def KvSpace.putLine (p : KvSpace) (dst i : Nat) : State × Fetch → State × Fetch
  | (s, .got bs) =>
    let s := s.devWrite p.ownerTag (p.pageAddr dst + 64 * i) bs
    (s, if s.refused then .failed else .got [])
  | r => r

/-- The KVC copies line `i` of a page under OWNER_TAG (R223). -/
def State.kvCopyLine (s : State) (p : KvSpace) (src dst i : Nat) : State × Fetch :=
  p.putLine dst i (s.fetchAt p.ownerTag (p.pageAddr src + 64 * i) (min 64 (p.bytes - 64 * i)))

/-- The KVC copies a page under OWNER_TAG (R223): the state, and whether every access was taken. A copy whose read is held
is made again from its start. -/
def State.kvCopyPage (s : State) (p : KvSpace) (src dst : Nat) : State × Fetch :=
  (List.range ((p.bytes + 63) / 64)).foldl (fun (r : State × Fetch) i =>
    match r.2 with
    | .got _ => r.1.kvCopyLine p src dst i
    | _ => r) (s, .got [])

/-- Pages for an APPEND that needs `n` (R224): it reclaims, then evicts. -/
def State.kvFindPages (s : State) (space n : Nat) : State :=
  let p := s.kvSpace space
  if (s.kvFreePages p).length ≥ n then s
  else
    let s := s.kvReclaim
    let free := (s.kvFreePages p).length
    if free ≥ n then s else (s.kvPagePass (n - free) space).kvReclaim

/-- The blocks of an APPEND's sequence with the pages that it takes: a shared last page is copied (R223). -/
def State.kvExtend (s : State) (r : Bytes) (slot : Nat) (cow : Option Nat) (pages : List Nat) : State :=
  let q := s.kvSeq slot
  let b0 := (q.length + 63) / 64
  let s := pages.foldl State.kvAddRef s
  let news := (match cow with | some _ => [q.length / 64] | none => [])
    ++ (List.range ((kvArg0 r + 63) / 64 - b0)).map (b0 + ·)
  let s := s.modKvSeq slot fun x =>
    { x with length := kvArg0 r, blocks := (news.zip pages).foldl (fun t e => tset t e.1 e.2) x.blocks }
  match cow with
  | some old => s.kvDropRef old
  | none => s

/-- APPEND (R220, R223, R224). -/
def State.kvAppend (s : State) (_ : Nat) (r : Bytes) : KvDone :=
  let slot := kvHandle r % 65536
  let q := s.kvSeq slot
  let done (st : Nat) (s : State) : KvDone := { status := st, seq := kvHandle r, st := s }
  if kvArg0 r > 262144 then done 6 s
  else if kvArg0 r < q.length then done 0x0D s
  else
    let last := tget 0 q.blocks (q.length / 64)
    let cow := if q.length % 64 ≠ 0 && (s.kvPage last).refs > 1 then some last else none
    let need := (kvArg0 r + 63) / 64 - (q.length + 63) / 64 + b2n cow.isSome
    let s := s.kvFindPages (kvSp r) need
    let p := s.kvSpace (kvSp r)
    let pages := (s.kvFreePages p).take need
    if pages.length < need then
      done 4 (s.modKvSpace (kvSp r) fun x => { x with noPages := sat16 x.noPages })
    else
      let w := match cow with
        | some old => s.kvCopyPage p old (pages.headD 0)
        | none => (s, .got [])
      match w.2 with
      | .failed => done 0x0E w.1
      | .waits => { done 0 w.1 with waits := true }
      | .got _ => done 0 (w.1.kvExtend r slot cow pages)

/-- KVC_APPEND (R223). -/
def execKvcAppend (s : State) : Out := act s fun s => s.kvServe 3 State.kvAppend

/-- TRUNCATE (R220). -/
def State.kvTruncate (s : State) (_ : Nat) (r : Bytes) : KvDone :=
  let slot := kvHandle r % 65536
  let q := s.kvSeq slot
  if kvArg0 r > q.length then { status := 0x0D, seq := kvHandle r, st := s }
  else
    let keep := (kvArg0 r + 63) / 64
    let s := (q.blocks.filter fun b => b.1 ≥ keep).foldl (fun s b => s.kvDropRef b.2) s
    let s := s.modKvSeq slot fun x =>
      { x with
        length := kvArg0 r, blocks := x.blocks.filter fun b => b.1 < keep, path := x.path.take (kvArg0 r / 64) }
    { seq := kvHandle r, st := s }

/-- KVC_TRUNCATE (R220). -/
def execKvcTruncate (s : State) : Out := act s fun s => s.kvServe 4 State.kvTruncate

/-- A node number that is not in use, from 1. -/
def State.kvFreeNode (s : State) : Nat :=
  ((List.range (s.kvc.nodes.length + 1)).find? fun k => (tfind s.kvc.nodes (k + 1)).isNone).getD 0 + 1

/-- PUBLISH (R220, R224): block ARG0 becomes a node under the sequence's path. -/
def State.kvPublish (s : State) (_ : Nat) (r : Bytes) : KvDone :=
  let sp := kvSp r
  let slot := kvHandle r % 65536
  let q := s.kvSeq slot
  let b := kvArg0 r
  let done (st : Nat) (s : State) : KvDone := { status := st, seq := kvHandle r, st := s }
  let parent := q.path.getLastD 0
  let page := tget 0 q.blocks b
  if b ≥ q.length / 64 then done 7 s
  else if b ≠ q.path.length then done 8 s
  else if (s.kvChild sp parent (kvArg1 r)).isSome then done 9 s
  else if !(s.kvHeld page) && s.kvRefLimit [page] then done 0x0B s
  else
    let full (s : State) : Bool :=
      (s.kvc.nodes.filter fun e => e.2.space == sp).length ≥ (s.kvSpace sp).treeQuota || s.kvc.nodes.length ≥ 1048576
    let s := if full s then s.kvEvictPass 1 sp else s
    if full s then done 0x0A s
    else
      let k := s.kvFreeNode
      let s := if s.kvHeld page then s else (s.kvAddRef page).modKvPage page fun x => { x with published := true }
      let s := s.modKvc fun v =>
        { v with
          nodes := tset v.nodes k { space := sp, parent := parent, hash := kvArg1 r, page := page, matched := v.matchCount }
          matchCount := v.matchCount + 1 }
      done 0 (s.modKvSeq slot fun x => { x with path := x.path ++ [k] })

/-- KVC_PUBLISH (R224). -/
def execKvcPublish (s : State) : Out := act s fun s => s.kvServe 5 State.kvPublish

/-- FREE (R220): every reference is dropped and the slot retires. -/
def State.kvFree (s : State) (_ : Nat) (r : Bytes) : KvDone :=
  let slot := kvHandle r % 65536
  let s := (s.kvSeq slot).blocks.foldl (fun s b => s.kvDropRef b.2) s
  let e := s.kvc.epoch
  { seq := kvHandle r
    st := s.modKvSeq slot fun x => { x with life := .retired, length := 0, blocks := [], path := [], retireEpoch := e } }

/-- KVC_FREE (R220). -/
def execKvcFree (s : State) : Out := act s fun s => s.kvServe 6 State.kvFree

/-- A pin slot that is free: the lowest of the 4,096. -/
def State.kvFreePin (s : State) : Option Nat := (List.range 4096).find? fun n => (tfind s.kvc.pins n).isNone

/-- A pin is granted at the current epoch (R225). -/
def State.kvGrant (s : State) (slot c : Nat) (basin : Option Nat) : State :=
  s.modKvc fun k => { k with pins := tset k.pins slot { epoch := k.epoch, consist := c, basin := basin } }

/-- PIN (R220, R225). -/
def State.kvPin (s : State) (c : Nat) (_ : Bytes) : KvDone :=
  match s.kvFreePin with
  | none => { status := 0x0C, st := s }
  | some n => { pin := n, st := s.kvGrant n c none }

/-- KVC_PIN (R225). -/
def execKvcPin (s : State) : Out := act s fun s => s.kvServe 7 State.kvPin

/-- UNPIN (R220): the Consist's own pin ARG0 is released. -/
def State.kvUnpin (s : State) (c : Nat) (r : Bytes) : KvDone :=
  let n := kvArg0 r
  let mine := match tfind s.kvc.pins n with
    | some p => p.consist == c && p.basin.isNone
    | none => false
  { seq := kvHandle r, st := if mine then s.modKvc fun k => { k with pins := tdel k.pins n } else s }

/-- KVC_UNPIN (R225). -/
def execKvcUnpin (s : State) : Out := act s fun s => s.kvServe 8 State.kvUnpin

/-- EVICT (R224): up to ARG0 eligible leaves. -/
def State.kvEvict (s : State) (_ : Nat) (r : Bytes) : KvDone :=
  let q := State.kvEvictN (min (kvArg0 r) s.kvc.nodes.length) s (kvSp r)
  { count := q.2, st := q.1 }

/-- KVC_EVICT (R224). -/
def execKvcEvict (s : State) : Out := act s fun s => s.kvServe 9 State.kvEvict

/-- QUERY (R220): LENGTH and the tree-path length. -/
def State.kvQuery (s : State) (_ : Nat) (r : Bytes) : KvDone :=
  { seq := kvHandle r, count := (s.kvSeq (kvHandle r % 65536)).path.length, st := s }

/-- KVC_QUERY (R220). -/
def execKvcQuery (s : State) : Out := act s fun s => s.kvServe 0x0A State.kvQuery

/-! ### The ATTN walker's pins (R225) and the generation advance (R228) -/

/-- The Consist of the context that a Basin runs. -/
def State.basinConsist (s : State) (n : Nat) : Nat := consistOf (s.basin n).tag

/-- The walker takes a pin, or waits for one; each wait is counted once (R225). -/
def State.walkerPin (s : State) (n : Nat) : State :=
  let b := s.basin n
  if b.walkerPin.isSome then s
  else
    match s.kvFreePin with
    | some k => (s.kvGrant k (s.basinConsist n) (some n)).modBasin n fun b => { b with walkerPin := some k, walkerWaits := false }
    | none =>
      if b.walkerWaits then s
      else (s.modBasin n fun b => { b with walkerWaits := true }).modKvc fun k => { k with pinWaits := sat16 k.pinWaits }

/-- WALKER_PIN_GRANT (R225): a waiting walker obtains a slot. -/
def execWalkerPinGrant (basin : Nat) (s : State) : Out :=
  act s fun s => if (s.basin basin).walkerWaits then s.walkerPin basin else s

/-- The KVC at a Consist's generation advance (R228): its pins are released and its queued requests discarded. -/
def State.kvcGenDrop (s : State) (c : Nat) : State :=
  let n := (s.kvQueue c).queue.length
  let s := { s with basins := tmap s.basins fun _ b =>
    match b.walkerPin with
    | some k => if (tget ({} : KvPin) s.kvc.pins k).consist = c then { b with walkerPin := none } else b
    | none => b }
  s.modKvc fun k =>
    { k with
      pins := k.pins.filter fun e => e.2.consist != c
      queues := tmod {} k.queues c fun q => { q with queue := [] }
      genDrops := satAdd 16 k.genDrops n }

/-- The KVC at a DESTROY (R228): every space of the Consist is cleared, its contents untouched. -/
def State.kvcDestroy (s : State) (c : Nat) : State :=
  ((s.kvc.spaces.filter fun e => e.2.valid && consistOf e.2.ownerTag == c).map (·.1)).foldl State.kvDropSpace s

end Sys2Proof.Machine
end

