-- ==== Sys2Proof/Machine/Attn.lean ====
section
/-! DEFINITION. The ATTN command: its checks, key selection, the walker, deferred normalisation and the appended rows
(R200 to R214). -/

namespace Sys2Proof.Machine

/-! ### The command, its descriptor and its batch (R200 to R202) -/

/-- The fields of an ATTN command (R200). -/
structure AttnCmd where
  /-- APPEND. -/
  append : Bool
  /-- SAT. -/
  sat : Bool
  /-- FMT_Q. -/
  fq : Nat
  /-- FMT_KV. -/
  fkv : Nat
  /-- FMT_OUT. -/
  fo : Nat
  /-- Batch entries. -/
  entries : Nat
  /-- DESC_LINE. -/
  desc : Nat
  /-- BATCH_LINE. -/
  batch : Nat
  /-- Q_LINE. -/
  q : Nat
  /-- Q_STRIDE. -/
  qStride : Nat
  /-- O_LINE. -/
  o : Nat
  /-- O_STRIDE. -/
  oStride : Nat
  /-- O_PITCH. -/
  pitch : Nat
  /-- NEWKV_LINE. -/
  newKv : Nat
  /-- NEWKV_STRIDE. -/
  newStride : Nat
  /-- LSE_LINE. -/
  lse : Nat
  /-- WORK_LINE. -/
  work : Nat

/-- The fields of an ATTN command, read from its bytes. -/
def attnOf (c : Bytes) : AttnCmd :=
  { append := bit (byteAt c 2) 0, sat := bit (byteAt c 2) 1, fq := fld (byteAt c 3) 0 4, fkv := fld (byteAt c 3) 4 4
    fo := fld (byteAt c 4) 0 4, entries := fld (byteAt c 5) 0 6 + 1, desc := lineAt c 6, batch := lineAt c 8
    q := lineAt c 10, qStride := lineAt c 12, o := lineAt c 14, oStride := lineAt c 16, pitch := fld (le c 18 2) 0 11
    newKv := lineAt c 20, newStride := lineAt c 22, lse := lineAt c 24, work := lineAt c 26 }

/-- Operand bytes of ATTN: the bits that are not RES (R200). -/
def attnMask : List Nat :=
  [0xFF, 0xFF, 0x03, 0xFF, 0x0F, 0x3F, 0xFF, 0x7F, 0xFF, 0x7F, 0xFF, 0x7F, 0xFF, 0x7F, 0xFF, 0x7F, 0xFF, 0x7F, 0xFF, 0x07,
   0xFF, 0x7F, 0xFF, 0x7F, 0xFF, 0x7F, 0xFF, 0x7F]

/-- The attention descriptor (R201). -/
structure AttnDesc where
  /-- MODE. -/
  mode : Nat
  /-- HEAD_DIM. -/
  headDim : Nat
  /-- GQA. -/
  gqa : Nat
  /-- KV_HEAD. -/
  head : Nat
  /-- LAYER. -/
  layer : Nat
  /-- SPACE. -/
  space : Nat
  /-- GLOBAL_LINE. -/
  globalLine : Nat
  /-- SCALE. -/
  scale : Nat
  /-- WINDOW. -/
  window : Nat
  /-- KV_ADDR. -/
  addr : Nat
  /-- GLOBAL_COUNT. -/
  globals : Nat
  /-- The RES bits are zero. -/
  resZero : Bool

/-- The descriptor, read from its line. -/
def attnDescOf (b : Bytes) : AttnDesc :=
  { mode := byteAt b 0, headDim := 16 * (fld (byteAt b 1) 0 4 + 1), gqa := byteAt b 2, head := byteAt b 3
    layer := byteAt b 4, space := byteAt b 5, globalLine := fld (le b 6 2) 0 15, scale := le b 8 4, window := le b 0x0C 4
    addr := fld (le b 0x10 8) 0 48, globals := byteAt b 0x18
    resZero := fld (byteAt b 0) 5 3 == 0 && fld (byteAt b 1) 4 4 == 0 && fld (le b 6 2) 15 1 == 0 && le b 0x16 2 == 0
      && zeroAt b 0x19 39 }

/-- SOURCE is paged. -/
def AttnDesc.paged (d : AttnDesc) : Bool := fld d.mode 0 2 == 0
/-- CAUSAL. -/
def AttnDesc.causal (d : AttnDesc) : Bool := bit d.mode 2
/-- SPARSE. -/
def AttnDesc.sparse (d : AttnDesc) : Bool := bit d.mode 3
/-- LSE. -/
def AttnDesc.lse (d : AttnDesc) : Bool := bit d.mode 4

/-- A batch entry (R202). -/
structure AttnEntry where
  /-- SEQ. -/
  seq : Nat
  /-- Q_START. -/
  qStart : Nat
  /-- Query rows. -/
  rows : Nat
  /-- NEW_COUNT. -/
  new : Nat
  /-- KV_LEN. -/
  kvLen : Nat
  /-- The RES bits are zero. -/
  resZero : Bool

/-- A batch entry, read from its 16 bytes. -/
def attnEntryOf (b : Bytes) : AttnEntry :=
  { seq := le b 0 4, qStart := le b 4 4, rows := fld (byteAt b 8) 0 7 + 1, new := byteAt b 9, kvLen := le b 0x0C 4
    resZero := !(bit (byteAt b 8) 7) && le b 0x0A 2 == 0 }

/-- What an ATTN works with. -/
structure AttnEnv where
  /-- The Basin. -/
  n : Nat
  /-- The command. -/
  c : AttnCmd
  /-- The descriptor. -/
  d : AttnDesc
  /-- The class of the operands. -/
  cls : FmtClass
  /-- The space, in paged mode. -/
  p : KvSpace
  /-- The global ranges. -/
  g : List (Nat × Nat)

/-! ### Checks (R203) -/

/-- DETAIL 0x01: reserved formats and flags. -/
def AttnCmd.reserved (q : AttnCmd) (raw : Bytes) : Bool :=
  let ok (c : Option FmtClass) : Bool := c == some .fp8 || c == some .fp16
  !(ok (fmtClass q.fq)) || fmtClass q.fkv != fmtClass q.fq || !([4, 5, 8, 9, 10].contains q.fo) || !(resOk raw attnMask)

/-- DETAIL 0x02: the descriptor. -/
def AttnDesc.bad (d : AttnDesc) : Bool :=
  fld d.mode 0 2 > 1 || !d.resZero || d.gqa == 0 || d.gqa > 16
    || bit d.scale 31 || fld d.scale 0 31 == 0 || !(fpFinite (dec32 d.scale))
    || (d.window != 0 && (d.window < 64 || d.window > 16384 || d.window % 64 != 0))
    || (d.sparse && d.window == 0 && d.globals == 0)
    || (if d.paged then d.addr != 0 else d.addr % 4096 != 0 || d.space != 0)

/-- DETAIL 0x03: the space. -/
def State.attnSpaceBad (s : State) (n : Nat) (q : AttnCmd) (d : AttnDesc) : Bool :=
  let p := s.kvSpace d.space
  let b := s.basin n
  d.paged && (!p.valid || p.ownerTag != b.tag || p.headDim != d.headDim || p.fmt != q.fkv || d.layer ≥ p.layers
    || d.head ≥ p.heads || b.context < 1024)

/-- DETAIL 0x08: the global ranges. -/
def globalsBad (d : AttnDesc) (g : List (Nat × Nat)) : Bool :=
  d.globals > 16 || (!d.sparse && d.globals != 0) || g.any (fun r => r.1 ≥ r.2 || r.2 > 262144)
    || (List.range (g.length - 1)).any (fun i => (g.getD i (0, 0)).2 > (g.getD (i + 1) (0, 0)).1)
    || (g.map fun r => r.2 - r.1).sum > 16384

/-- Lines of one output row. -/
def AttnEnv.rowLines (v : AttnEnv) : Nat := (v.d.headDim * fmtOutBits v.c.fo / 8 + 63) / 64
/-- Bytes of one element of the operand class. -/
def AttnEnv.elem (v : AttnEnv) : Nat := if v.cls = .fp16 then 2 else 1
/-- Lines of one Q panel. -/
def AttnEnv.panel (v : AttnEnv) : Nat := panelLines v.cls v.d.headDim
/-- Lines of one appended row. -/
def AttnEnv.newLines (v : AttnEnv) : Nat := (v.d.headDim * v.elem + 63) / 64

/-- The regions of Pool lines that an entry reads: Q and the appended rows. -/
def AttnEnv.reads (v : AttnEnv) (i : Nat) (e : AttnEntry) : List (Nat × Nat) :=
  (v.c.q + i * v.c.qStride, v.panel * ((e.rows + 63) / 64))
    :: (if v.c.append && e.new != 0 then [(v.c.newKv + i * v.c.newStride, 2 * e.new * v.newLines)] else [])

/-- The regions that an entry writes: the work banks, its outputs and LSE. -/
def AttnEnv.writes (v : AttnEnv) (i : Nat) (e : AttnEntry) : List (Nat × Nat) :=
  (v.c.work, 8192) :: ((List.range e.rows).map fun r => (v.c.o + i * v.c.oStride + r * v.c.pitch, v.rowLines))
    ++ (if v.d.lse then [(v.c.lse + 8 * i, 8)] else [])

/-- The regions of Pool lines that an entry reaches. -/
def AttnEnv.regions (v : AttnEnv) (i : Nat) (e : AttnEntry) : List (Nat × Nat) := v.reads i e ++ v.writes i e

/-- DETAIL 0x02 of a batch entry: its reserved bits. -/
def AttnEnv.entryReserved (v : AttnEnv) (e : AttnEntry) : Bool := !e.resZero || (!v.d.paged && e.seq != 0)

/-- DETAIL 0x05: KV_LEN. -/
def State.attnLenBad (s : State) (v : AttnEnv) (e : AttnEntry) : Bool :=
  e.kvLen > 262144 || (!v.d.sparse && e.kvLen > 32768)
    || (v.d.paged && e.kvLen > (s.kvSeq (e.seq % 65536)).length)

/-- DETAIL 0x06: the entry's shape. -/
def AttnEnv.shapeBad (v : AttnEnv) (i : Nat) (e : AttnEntry) : Bool :=
  e.rows % v.d.gqa != 0 || e.new > e.rows / v.d.gqa || e.new > e.kvLen || (!v.c.append && e.new != 0)
    || e.qStart > 262143 || v.c.pitch < v.rowLines || v.c.work % 0x800 != 0 || v.c.work > 0x6000
    || !(regionsFit (v.regions i e))

/-! ### Which keys a row sees (R204, R205) -/

/-- Key `j` is valid for the row at query position `q`. -/
def AttnEnv.valid (v : AttnEnv) (e : AttnEntry) (q j : Nat) : Bool :=
  j < e.kvLen && (!v.d.causal || j ≤ q)
    && (!v.d.sparse
      || (v.d.window > 0 && (if v.d.causal then q < j + v.d.window else (if q ≥ j then q - j else j - q) < v.d.window))
      || v.g.any fun r => r.1 ≤ j && j < r.2)

/-- Row `r`'s query position. -/
def AttnEnv.pos (v : AttnEnv) (e : AttnEntry) (r : Nat) : Nat := e.qStart + r / v.d.gqa

/-- A key block has a valid pair (R205). -/
def AttnEnv.blockRuns (v : AttnEnv) (e : AttnEntry) (b : Nat) : Bool :=
  (List.range e.rows).any fun r => (List.range 128).any fun t => v.valid e (v.pos e r) (128 * b + t)

/-! ### The walker -/

/-- What a walker's access comes to: a hold, or SLUICE_DENIED for an error response (R203). -/
def walkStatus (st : Nat) : Nat := if st = 0 ∨ st = waits then st else 4

/-- Read a byte string of the walker's, line by line: the status, the state and the bytes. -/
def State.walkRead (s : State) (n a len : Nat) : Nat × State × Bytes :=
  (List.range ((len + 63) / 64)).foldl (fun (r : Nat × State × Bytes) i =>
    if r.1 ≠ 0 then r
    else
      let k := min 64 (len - 64 * i)
      let q := r.2.1.basinIo n (a + 64 * i) k false []
      (walkStatus q.1, q.2, r.2.2 ++ slice q.2.resp.bytes 0 k)) (0, s, [])

/-- The block-table entry of block `i` of a sequence, as its copy in memory says (R218). -/
def State.walkEntry (s : State) (v : AttnEnv) (e : AttnEntry) (i : Nat) : Nat × State × Nat :=
  let q := s.walkRead v.n (v.p.tableAddr (e.seq % 65536) + 4 * i) 4
  (q.1, q.2.1, leNat q.2.2)

/-- Bytes of one K or V block of a page (R217). -/
def AttnEnv.half (v : AttnEnv) : Nat := 64 * v.d.headDim * v.elem

/-- The first byte of the K block of page `i` of an entry: the status, the state and the address. -/
def State.walkPage (s : State) (v : AttnEnv) (e : AttnEntry) (i : Nat) : Nat × State × Nat :=
  if v.d.paged then
    let q := s.walkEntry v e i
    (q.1, q.2.1, v.p.pageAddr (fld q.2.2 0 20) + (v.d.layer * v.p.heads + v.d.head) * 2 * v.half)
  else (0, s, v.d.addr + i * pageStride (2 * v.half))

/-- The K and V blocks of page `i` of an entry, the V rows as far as KV_LEN goes. -/
def State.walkKv (s : State) (v : AttnEnv) (e : AttnEntry) (i : Nat) : Nat × State × Bytes × Bytes :=
  if 64 * i ≥ e.kvLen then (0, s, [], [])
  else
    let p := s.walkPage v e i
    if p.1 ≠ 0 then (p.1, p.2.1, [], [])
    else
      let k := p.2.1.walkRead v.n p.2.2 v.half
      if k.1 ≠ 0 then (k.1, k.2.1, [], [])
      else
        let w := k.2.1.walkRead v.n (p.2.2 + v.half) (min 64 (e.kvLen - 64 * i) * v.d.headDim * v.elem)
        (w.1, w.2.1, k.2.2, w.2.2)

/-- The K and V of one key block. -/
structure KvBlock where
  /-- The K blocks of its two pages. -/
  k : List Bytes
  /-- The V blocks of its two pages. -/
  v : List Bytes

/-- K(t, d) of a key block; a key at or beyond KV_LEN is not read. -/
def AttnEnv.kAt (v : AttnEnv) (x : KvBlock) (len b t d : Nat) : Fp :=
  if 128 * b + t ≥ len then .num false 0 0
  else floatElem v.c.fkv (le (x.k.getD (t / 64) []) ((d * 64 + t % 64) * v.elem) v.elem)

/-- V(t, d) of a key block. -/
def AttnEnv.vAt (v : AttnEnv) (x : KvBlock) (len b t d : Nat) : Fp :=
  if 128 * b + t ≥ len ∨ d ≥ v.d.headDim then .num false 0 0
  else floatElem v.c.fkv (le (x.v.getD (t / 64) []) ((t % 64 * v.d.headDim + d) * v.elem) v.elem)

/-- Q(r, d) of entry `i`: two panels, 64 rows each (R200). -/
def State.attnQ (s : State) (v : AttnEnv) (i : Nat) (e : AttnEntry) (r d : Nat) : Fp :=
  if r ≥ e.rows then .num false 0 0
  else floatElem v.c.fq (s.denseElem v.n v.cls (v.c.q + i * v.c.qStride + r / 64 * v.panel) (r % 64) d)

/-! ### Appended rows (R214) -/

/-- The positions that an entry appends. -/
def AttnEntry.newPos (e : AttnEntry) : List Nat := (List.range e.new).map (e.kvLen - e.new + ·)

/-- Every page that an entry appends to is WRITABLE; the status and the state. -/
def State.attnWritable (s : State) (v : AttnEnv) (e : AttnEntry) : Nat × State × Bool :=
  e.newPos.foldl (fun (r : Nat × State × Bool) j =>
    if r.1 ≠ 0 || !r.2.2 then r
    else
      let q := r.2.1.walkEntry v e (j / 64)
      (q.1, q.2.1, bit q.2.2 30)) (0, s, true)

/-- One element of an appended row is written. -/
def State.attnPut (s : State) (v : AttnEnv) (a line off : Nat) : CmdResult :=
  let r := s.basinIo v.n a v.elem true (s.rd (poolAddr v.n line + off) v.elem)
  (walkStatus r.1, r.2)

/-- The K and V rows of one appended position, the `i`-th of its entry (R200, R214). -/
def State.attnAppendRow (s : State) (v : AttnEnv) (i : Nat) (e : AttnEntry) (x : Nat) : CmdResult :=
  let j := e.kvLen - e.new + x
  let p := s.walkPage v e (j / 64)
  if p.1 ≠ 0 then (p.1, p.2.1)
  else
    let base := v.c.newKv + i * v.c.newStride
    (List.range v.d.headDim).foldl (fun (r : CmdResult) d =>
      if r.1 ≠ 0 then r
      else
        let off := d * v.elem
        let w := r.2.attnPut v (p.2.2 + (d * 64 + j % 64) * v.elem) (base + x * v.newLines) off
        if w.1 ≠ 0 then w
        else w.2.attnPut v (p.2.2 + v.half + (j % 64 * v.d.headDim + d) * v.elem) (base + (e.new + x) * v.newLines) off)
      (0, p.2.1)

/-! ### Deferred normalisation (R208 to R210) -/

/-- −∞ in FP32. -/
def negInf32 : Nat := 0xFF800000

/-- The state of one row: its running maximum, its sum and its output. -/
structure RowState where
  /-- m. -/
  m : Nat := 0xFF800000
  /-- l. -/
  l : Nat := 0
  /-- o. -/
  o : List Nat

/-- What one block does to a row: the factor, the new maximum, the weights and their sum. -/
structure RowStep where
  /-- alpha. -/
  alpha : Nat
  /-- mn. -/
  mn : Nat
  /-- The weights, as bits of the P format. -/
  p : List Nat
  /-- r. -/
  r : Nat

/-- The P format (R208). -/
def AttnEnv.pFmt (v : AttnEnv) : Nat := if v.cls = .fp16 then v.c.fkv else 4

/-- One weight as an FP32 value. -/
def AttnEnv.pVal (v : AttnEnv) (bits : Nat) : Nat := enc32 (floatElem v.pFmt bits)

/-- The first half of R208 for one row: `sc` holds the score of each key, none where the key is not valid. -/
def AttnEnv.rowStep (v : AttnEnv) (m : Nat) (sc : List (Option Nat)) : Option RowStep :=
  let bmax := sc.foldl (fun b x => match x with | some y => max32 b y | none => b) negInf32
  if bmax = negInf32 then none
  else
    let mn := max32 m (mul32 v.d.scale bmax)
    let alpha :=
      if fpEq (dec32 mn) (dec32 m) then 0x3F800000
      else if m = negInf32 then 0
      else jetFn 0 (sub32 m mn)
    let neg := mn ^^^ 0x80000000
    let p := sc.map fun x =>
      match x with
      | some y => (convert v.pFmt false none (dec32 (jetFn 0 (fma32 y v.d.scale neg)))).bits
      | none => 0
    some { alpha := alpha, mn := mn, p := p, r := p.foldl (fun r b => add32 r (v.pVal b)) 0 }

/-- The second half of R208 for one row. -/
def RowState.apply (x : RowState) (q : RowStep) (pv : Nat → Nat) : RowState :=
  { m := q.mn, l := fma32 q.alpha x.l q.r
    o := (List.range x.o.length).map fun d => fma32 q.alpha (x.o.getD d 0) (pv d) }

/-- One Cascade tile of ATTN: it is accumulated from zero, and its internal EMIT sends one residue record (R211). -/
def State.attnTile (s : State) (n : Nat) (t : FloatTile) : State × AccSet :=
  let a := (t.into {} s.freeCtr).1
  ((s.draw.2.modBasin n fun b => { b with nanSeen := b.nanSeen || (t.into {} 0).2 }).sendResidue n a, a)

/-- The tiles of a list, in order. -/
def State.attnTiles (s : State) (n : Nat) (ts : List FloatTile) : State × List AccSet :=
  ts.foldl (fun (r : State × List AccSet) t =>
    let q := r.1.attnTile n t
    (q.1, r.2 ++ [q.2])) (s, [])

/-- The four score tiles: keys as rows, queries as columns (R211). -/
def State.scoreTiles (s : State) (v : AttnEnv) (i : Nat) (e : AttnEntry) (b : Nat) (x : KvBlock) : List FloatTile :=
  (List.range 4).map fun t =>
    { k := v.d.headDim, pairs := false
      a := fun m k => v.kAt x e.kvLen b (64 * (t / 2) + m) k
      b := fun k c => s.attnQ v i e (64 * (t % 2) + c) k }

/-- The score of key `t` of the block for row `r`. -/
def scoreAt (ts : List AccSet) (t r : Nat) : Nat := (ts.getD (2 * (t / 64) + r / 64) {}).at (t % 64) (r % 64)

/-- The value tiles: P as the A panel, 128 keys (R211). -/
def AttnEnv.valueTiles (v : AttnEnv) (e : AttnEntry) (b : Nat) (x : KvBlock) (ps : List (Option RowStep)) : List FloatTile :=
  let cols := (v.d.headDim + 63) / 64
  (List.range (2 * cols)).map fun t =>
    { k := 128, pairs := false
      a := fun m k =>
        match ps.getD (64 * (t / cols) + m) none with
        | some q => floatElem v.pFmt (q.p.getD k 0)
        | none => .num false 0 0
      b := fun k c => v.vAt x e.kvLen b k (64 * (t % cols) + c) }

/-- One processed block (R208): the state and the rows. -/
def State.attnBlock (s : State) (v : AttnEnv) (i : Nat) (e : AttnEntry) (b : Nat) (x : KvBlock) (rows : List RowState) :
    State × List RowState :=
  let sc := s.attnTiles v.n (s.scoreTiles v i e b x)
  let ps := (List.range e.rows).map fun r =>
    v.rowStep (rows.getD r { o := [] }).m ((List.range 128).map fun t =>
      if v.valid e (v.pos e r) (128 * b + t) then some (scoreAt sc.2 t r) else none)
  let cols := (v.d.headDim + 63) / 64
  let pv := sc.1.attnTiles v.n (v.valueTiles e b x ps)
  let out := (List.range e.rows).map fun r =>
    let y := rows.getD r { o := [] }
    match ps.getD r none with
    | some q => y.apply q fun d => (pv.2.getD (cols * (r / 64) + d / 64) {}).at (r % 64) (d % 64)
    | none => y
  (pv.1.modBasin v.n fun y => { y with atnDone := wrapInc 32 y.atnDone }, out)

/-- The output of a row (R210): its elements converted. -/
def AttnEnv.rowOut (v : AttnEnv) (y : RowState) : List Conv :=
  let zero := match dec32 y.l with | .num _ m _ => m == 0 | _ => false
  y.o.map fun o => if zero then { bits := 0 } else convert v.c.fo v.c.sat none (dec32 (mul32 o (jetFn 1 y.l)))

/-- LSE of a row (R210). -/
def rowLse (y : RowState) : Nat :=
  match dec32 y.l with
  | .num _ 0 _ => negInf32
  | _ => fma32 (jetFn 3 y.l) 0x3F317218 y.m

/-- The outputs of an entry are written (R200, R210). -/
def State.attnOut (s : State) (v : AttnEnv) (i : Nat) (rows : List RowState) : State :=
  let outs := (List.range rows.length).map fun r => (r, v.rowOut (rows.getD r { o := [] }))
  let s := outs.foldl (fun s r =>
    s.wr (poolAddr v.n (v.c.o + i * v.c.oStride + r.1 * v.c.pitch)) (packRow v.c.fo [] (r.2.map (·.bits)))) s
  let s := if v.d.lse then s.wr (poolAddr v.n (v.c.lse + 8 * i)) (rows.map fun y => leBytes 4 (rowLse y)).flatten else s
  s.modBasin v.n fun b =>
    { b with nanSeen := b.nanSeen || outs.any fun r => r.2.any (·.nan), satHit := b.satHit || outs.any fun r => r.2.any (·.sat) }

/-! ### The command -/

/-- Byte of the work banks at which row `r`'s output starts: bank +0 (R200; DESIGN CHOICE, log entry 113). -/
def AttnEnv.rowO (v : AttnEnv) (r : Nat) : Nat := poolAddr v.n v.c.work + 1024 * r
/-- Byte of the work banks at which row `r`'s m and l stand: bank +3 (R200; DESIGN CHOICE, log entry 113). -/
def AttnEnv.rowMl (v : AttnEnv) (r : Nat) : Nat := poolAddr v.n v.c.work + 0x60000 + 8 * r

/-- The row state of the entry in progress is put into the work banks (R213). -/
def State.storeRows (s : State) (v : AttnEnv) (rows : List RowState) : State :=
  (List.range rows.length).foldl (fun s r =>
    let y := rows.getD r { o := [] }
    (s.wr (v.rowO r) (y.o.map (leBytes 4)).flatten).wr (v.rowMl r) (leBytes 4 y.m ++ leBytes 4 y.l)) s

/-- The row state as the work banks hold it (R213). -/
def State.loadRows (s : State) (v : AttnEnv) (n : Nat) : List RowState :=
  (List.range n).map fun r =>
    { m := s.rdLe (v.rowMl r) 4, l := s.rdLe (v.rowMl r + 4) 4
      o := (List.range v.d.headDim).map fun d => s.rdLe (v.rowO r + 4 * d) 4 }

/-- The progress of an ATTN: the entry, and whether it is open with its next key block (R213). -/
def attnMark (entry : Nat) (next : Option Nat) : Nat := 4096 * entry + (match next with | none => 0 | some b => b + 1)

/-- How far an ATTN has come: a status and its DETAIL, the key block reached, whether a block was processed, the state. -/
structure AttnAt where
  /-- The command's status; 0 it goes on. -/
  status : Nat := 0
  /-- DETAIL. -/
  detail : Nat := 0
  /-- ENTRY. -/
  entry : Nat := 0
  /-- KEY_BLOCK. -/
  block : Nat := 0
  /-- A block was processed, so that the work banks and the accumulators have changed. -/
  used : Bool := false
  /-- The rows of the entry in progress. -/
  rows : List RowState := []
  /-- Its progress, as the rank state keeps it. -/
  mark : Nat := 0
  /-- How many more key blocks this step processes. -/
  left : Nat := 0
  /-- The state. -/
  st : State

/-- A walker status with its DETAIL; where an access must wait, the walker stays where it was. -/
def AttnAt.walked (x : AttnAt) (status : Nat) (s : State) : AttnAt :=
  if status = waits then { x with status := waits }
  else { x with status := status, detail := if status = 4 then 9 else 0, st := s }

/-- One key block of an entry: skipped, or read and processed (R205, R208). -/
def AttnAt.step (v : AttnEnv) (i : Nat) (e : AttnEntry) (x : AttnAt) (b : Nat) : AttnAt :=
  if x.status ≠ 0 then x
  else if !(v.blockRuns e b) then
    { x with mark := attnMark i (some (b + 1)), st := x.st.modBasin v.n fun y => { y with atnSkipped := wrapInc 32 y.atnSkipped } }
  else if x.left = 0 then { x with status := waits }
  else
    let x := { x with block := b }
    let k0 := x.st.walkKv v e (2 * b)
    if k0.1 ≠ 0 then x.walked k0.1 k0.2.1
    else
      let k1 := k0.2.1.walkKv v e (2 * b + 1)
      if k1.1 ≠ 0 then x.walked k1.1 k1.2.1
      else
        let kv : KvBlock := { k := [k0.2.2.1, k1.2.2.1], v := [k0.2.2.2, k1.2.2.2] }
        let q := k1.2.1.attnBlock v i e b kv x.rows
        { x with used := true, rows := q.2, mark := attnMark i (some (b + 1)), left := x.left - 1, st := q.1 }

/-- The appended rows of an entry (R214). -/
def AttnAt.appendRows (v : AttnEnv) (i : Nat) (e : AttnEntry) (x : AttnAt) : AttnAt :=
  if !v.c.append || e.new = 0 then x
  else
    let w := x.st.attnWritable v e
    if w.1 ≠ 0 then x.walked w.1 w.2.1
    else if !w.2.2 then { x with status := 9, detail := 7, st := w.2.1 }
    else
      let r := (List.range e.new).foldl (fun (r : CmdResult) k =>
        if r.1 ≠ 0 then r else r.2.attnAppendRow v i e k) (0, w.2.1)
      x.walked r.1 r.2

/-- The walker's checks of an entry that it reaches (R203). -/
def AttnAt.check (v : AttnEnv) (x : AttnAt) (i : Nat) (e : AttnEntry) : AttnAt :=
  if v.entryReserved e then { x with status := 9, detail := 2 }
  else if v.d.paged && !(x.st.kvLive v.d.space e.seq) then { x with status := 9, detail := 4 }
  else if x.st.attnLenBad v e then { x with status := 2, detail := 5 }
  else if v.shapeBad i e then { x with status := 2, detail := 6 }
  else x

/-- An entry is opened: its appended rows are written and its rows start (R208, R214). -/
def AttnAt.openEntry (v : AttnEnv) (x : AttnAt) (i : Nat) (e : AttnEntry) : AttnAt :=
  let x := AttnAt.appendRows v i e x
  if x.status ≠ 0 then x
  else
    { x with
      mark := attnMark i (some 0)
      rows := (List.range e.rows).map fun _ => { o := List.replicate v.d.headDim 0 } }

/-- One entry of the batch, from key block `next` where it is open: the walker's checks, the appended rows, the blocks and
the outputs (R203, R207, R213). -/
def AttnAt.entryStep (v : AttnEnv) (next : Option Nat) (x : AttnAt) (i : Nat) : AttnAt :=
  if x.status ≠ 0 then x
  else
    let e := attnEntryOf (x.st.rd (poolAddr v.n v.c.batch + 16 * i) 16)
    let x := { x with entry := i, block := next.getD 0 }
    let x := if next.isNone then x.check v i e else x
    if x.status ≠ 0 then x
    else
      let a := x.st.askLines v.n (v.reads i e) (v.writes i e)
      if a.1 ≠ 0 then { x with status := a.1, st := a.2 }
      else
        let x := { x with st := a.2 }
        let x := if next.isNone then x.openEntry v i e else { x with rows := x.st.loadRows v e.rows }
        let b0 := next.getD 0
        let x := ((List.range ((e.kvLen + 127) / 128 - b0)).map (b0 + ·)).foldl (AttnAt.step v i e) x
        if x.status ≠ 0 then x else { x with mark := attnMark (i + 1) none, rows := [], st := x.st.attnOut v i x.rows }

/-- The accumulator sets after an ATTN: unspecified contents, type float (R75). -/
def freeAcc (k : Nat) : AccSet :=
  { type := .float
    c := (List.range 4096).map fun i => (i, (Config.freeWord k i).toNat)
    p := (List.range 64).map fun i => (i, (Config.freeWord k (4096 + i)).toNat)
    q := (List.range 64).map fun i => (i, (Config.freeWord k (4160 + i)).toNat)
    kT := (Config.freeWord k 4224).toNat, t := ((Config.freeWord k 4225).toNat, 0)
    nonfinite := (Config.freeWord k 4226).toNat.testBit 0 }

/-- The Rill registers after internal EMITs have drained into them: unspecified contents (R211). -/
def freeRill (k : Nat) : Table Nat := (List.range (31 * 64)).map fun i => (i, (Config.freeWord k i).toNat)

/-- What an ATTN leaves in the accumulator sets and the Rill registers, whose contents the spec leaves open (R75, R211). -/
def State.attnUnits (s : State) (n : Nat) : State :=
  let (k2, s) := s.draw
  let (k3, s) := s.draw
  let (k4, s) := s.draw
  ((s.setAcc n 0 (freeAcc k2)).setAcc n 1 (freeAcc k3)).modBasin n fun b => { b with rill := freeRill k4 }

/-- The contents of the work banks are open once a block was processed (R200). -/
def AttnAt.work (v : AttnEnv) (x : AttnAt) : State :=
  if x.used then x.st.draw.2.scramble (poolAddr v.n v.c.work) 0x80000 x.st.freeCtr else x.st

/-- An ATTN that goes on later: the entry, the next key block and, in the work banks, the row state stay (R213). -/
def AttnAt.pause (v : AttnEnv) (idx : Nat) (x : AttnAt) : CmdResult :=
  if x.mark = 0 then (waits, x.st)
  else
    let s := if x.used then (x.work v).attnUnits v.n else x.st
    (waits, (s.storeRows v x.rows).modQ v.n idx fun q => { q with started := true, done := x.mark })

/-- The end of an ATTN (R75, R200, R225, R230): the capture, the walker's pin, and the work banks, the accumulator sets
and the Rill registers, whose contents the spec leaves open. -/
def AttnAt.finish (v : AttnEnv) (x : AttnAt) : CmdResult :=
  (x.status, ((x.work v).attnUnits v.n).dropWalkerPin v.n)

/-- ATN_FAULT captures the first failure (R230). -/
def State.attnCapture (s : State) (n detail entry block : Nat) : State :=
  if detail = 0 then s
  else s.modBasin n fun b =>
    if b.atnValid then b
    else { b with atnEntry := entry % 64, atnKeyBlock := block % 2048, atnDetail := detail, atnValid := true }

/-- What an ATTN leaves after a step: it goes on later, or it ends with what ATN_FAULT captures (R213, R230). -/
def AttnEnv.close (v : AttnEnv) (idx : Nat) (x : AttnAt) : CmdResult :=
  if x.status = waits then x.pause v idx
  else
    let r := x.finish v
    (r.1, r.2.attnCapture v.n x.detail x.entry x.block)

/-- The batch of an ATTN from its recorded progress, up to `k` key blocks, 0 for all that remain (R207, R213). -/
def AttnEnv.run (v : AttnEnv) (k : Nat) (q : QCmd) (s : State) : CmdResult :=
  let i := q.done / 4096
  let next := if q.done % 4096 = 0 then none else some (q.done % 4096 - 1)
  let x := AttnAt.entryStep v next { st := s, mark := q.done, left := if k = 0 then 2 ^ 18 else k } i
  v.close q.idx (((List.range (v.c.entries - (i + 1))).map (i + 1 + ·)).foldl (AttnAt.entryStep v none) x)

/-- The global ranges of a descriptor (R201). -/
def State.attnGlobals (s : State) (n : Nat) (d : AttnDesc) : List (Nat × Nat) :=
  let a := poolAddr n d.globalLine
  (List.range (min d.globals 16)).map fun i => (s.rdLe (a + 8 * i) 4, s.rdLe (a + 8 * i + 4) 4)

/-- Lines of the global-range table (R201). -/
def AttnDesc.globalLines (d : AttnDesc) : Nat := (min d.globals 16 + 7) / 8

/-- ATTN with its descriptor read. -/
def AttnCmd.withDesc (q : AttnCmd) (n k : Nat) (cls : FmtClass) (d : AttnDesc) (qc : QCmd) (s : State) : CmdResult :=
  let fail (st detail : Nat) (s : State) : CmdResult := (st, s.attnCapture n detail 0 0)
  if d.bad then fail 9 2 s
  else if s.attnSpaceBad n q d then fail 9 3 s
  else
    let rs := (if d.globals = 0 then [] else [(d.globalLine, d.globalLines)]) ++ [(q.batch, (q.entries + 3) / 4)]
    if !(regionsFit rs) then fail 2 6 s
    else
      let a := s.askLines n rs []
      if a.1 ≠ 0 then a
      else
        let g := a.2.attnGlobals n d
        if globalsBad d g then fail 9 8 a.2
        else
          let s1 := if d.paged then a.2.walkerPin n else a.2
          if d.paged && (s1.basin n).walkerPin.isNone then (waits, s1)
          else
            let v : AttnEnv := { n := n, c := q, d := d, cls := cls, p := s1.kvSpace d.space, g := g }
            v.run k qc s1

/-- ATTN (R200 to R214): up to `k` key blocks of it, 0 for all that remain. -/
def AttnCmd.run (q : AttnCmd) (n k : Nat) (qc : QCmd) (s : State) : CmdResult :=
  let fail (st detail : Nat) (s : State) : CmdResult := (st, s.attnCapture n detail 0 0)
  if q.reserved qc.cmd then fail 1 1 s
  else
    let a := s.askLines n [(q.desc, 1)] []
    if a.1 ≠ 0 then a
    else
      let d := attnDescOf (a.2.rd (poolAddr n q.desc) 64)
      if q.append && fld d.mode 0 2 == 1 then fail 1 1 a.2
      else q.withDesc n k ((fmtClass q.fq).getD .fp8) d qc a.2

/-- ATTN (R208, R213): batched attention over the key blocks of the visit. -/
def execAttn (visit : UnitVisit) (s : State) : Out :=
  act s fun s => s.runQueued visit.basin 0x12 (List.replicate 30 0xFF) fun q s =>
    (attnOf q.cmd).run visit.basin visit.most q s

end Sys2Proof.Machine
end

