-- ==== Sys2Proof/Machine/Safe.lean ====
section
/-! DEFINITION. The Interlocking's shared operations: ISLAND and HEADWAY as it reads them, frames and disagreement, alerts,
and the safe-state latch (R45, R275, R283, R284, R289 to R292). -/

namespace Sys2Proof.Machine

/-! ### ISLAND and HEADWAY -/

/-- ILK_MODE split (R47). -/
def State.ilkSplit (s : State) : Bool := byteAt (s.sec secIsland) 0 == 1
/-- A real-time pair that ISLAND splits (R45). -/
def State.rtcSplit (s : State) (pair : Nat) : Bool := bit (byteAt (s.sec secIsland) 1) pair
/-- DISAGREE_LIMIT (R45). -/
def State.disagreeLimit (s : State) : Nat := if s.sec secIsland = [] then 3 else byteAt (s.sec secIsland) 2
/-- DISAGREE_WINDOW (R45). -/
def State.disagreeWindow (s : State) : Nat := if s.sec secIsland = [] then 16 else byteAt (s.sec secIsland) 3

/-- A field of the HEADWAY header (R275). -/
def State.hdwField (s : State) (off n : Nat) : Nat := le (s.sec secHeadway) off n
/-- CLASS_COUNT (R275). -/
def State.classCount (s : State) : Nat := s.hdwField 4 1
/-- A field of a class entry (R275). -/
def State.classField (s : State) (c off n : Nat) : Nat := le (s.sec secHeadway) (0x40 + 64 * (c - 1) + off) n
/-- A class has an entry (R275). -/
def State.classKnown (s : State) (c : Nat) : Bool := 1 ≤ c && c ≤ s.classCount
/-- CFLAGS SAFETY of a class. -/
def State.classSafety (s : State) (c : Nat) : Bool := bit (s.classField c 0 1) 0
/-- CFLAGS PLAN_PAYLOAD of a class. -/
def State.classPlan (s : State) (c : Nat) : Bool := bit (s.classField c 0 1) 1
/-- DEADLINE of a class, in 64 ns units. -/
def State.classDeadline (s : State) (c : Nat) : Nat := s.classField c 8 4

/-- The Headway state of a class. -/
def State.hdw (s : State) (c : Nat) : HdwClass := tget {} s.ilk.classes c
/-- Change the Headway state of a class. -/
def State.modHdw (s : State) (c : Nat) (f : HdwClass → HdwClass) : State :=
  { s with ilk := { s.ilk with classes := tmod {} s.ilk.classes c f } }

/-- The safe state is latched (R290). -/
def State.latched (s : State) : Bool := s.ilk.safeCause != 0

/-! ### Frames (R283, R284) -/

/-- The frame of a capture stamp: FRAME_EVENT occurrences at it. -/
def State.frameAt (s : State) (stamp : Nat) : Nat :=
  match s.ilk.frameHist.find? fun e => e.1 ≤ stamp with
  | some e => e.2
  | none => 0

/-- A frame lies in the window. -/
def State.inWindow (s : State) (f : Nat) : Bool := (s.ilk.frame + 2 ^ 32 - f % 2 ^ 32) % 2 ^ 32 < s.disagreeWindow

/-- DFRAMES: the disagreement frames in the window. -/
def State.dframes (s : State) : Nat := (s.ilk.marked.filter fun f => s.inWindow f).length

/-- The marks of frames that have left the window are dropped: they count no more (R284). -/
def State.dropMarks (s : State) : State :=
  { s with ilk := { s.ilk with marked := s.ilk.marked.filter fun f => s.inWindow f } }

/-! ### The safe-state latch (R290, R291 steps 1 and 2) -/

/-- A safe-state cause is detected: the first is latched with its stamp, later ones are counted. -/
def State.latch (s : State) (cause sub : Nat) : State :=
  if s.latched then
    { s with ilk := { s.ilk with
      causeCount := sat8 s.ilk.causeCount
      secondCause := if s.ilk.secondCause = 0 then cause else s.ilk.secondCause } }
  else
    { s with ilk := { s.ilk with
      safeCause := cause, safeSub := sub % 65536, detectNs := s.now
      detectPhaseSafe := s.boot.phase == .safe, detectDframes := s.dframes, detectState := s.boot.ilkState
      detectLockstep := s.ilk.lockstep, detectRuleset := s.reload.rulesVersion
      headers := s.ilk.headers.map fun h => { h with beforeLatch := true } } }

/-! ### Alerts (R289) -/

/-- The alert kinds. -/
def alertResultFail : Nat := 1
/-- HEADWAY_EXPIRED. -/
def alertHeadwayExpired : Nat := 2
/-- GOLDEN_FAIL. -/
def alertGoldenFail : Nat := 3
/-- GOLDEN_DEFERRED. -/
def alertGoldenDeferred : Nat := 4
/-- TAP_QM. -/
def alertTapQm : Nat := 5
/-- INPUT_MISSING. -/
def alertInputMissing : Nat := 6
/-- PLAN_FLAGGED. -/
def alertPlanFlagged : Nat := 7
/-- LATE. -/
def alertLate : Nat := 8

/-- An alert record is written to the ring, ALERT_PENDING is set and the alert interrupt is sent. -/
def State.alert (s : State) (kind cause cls basin rule seq frame : Nat) : State :=
  let no := s.ilk.nextAlert
  let line := leBytes 1 kind ++ leBytes 1 cause ++ leBytes 1 cls ++ leBytes 1 basin ++ leBytes 2 rule
    ++ leBytes 1 s.dframes ++ zeros 1 ++ leBytes 4 seq ++ leBytes 4 frame ++ leBytes 8 (s.now / 1000000000)
    ++ leBytes 4 (s.now % 1000000000) ++ leBytes 4 no
  let s := { s with ilk := { s.ilk with
    alerts := tset s.ilk.alerts (no % 64) line, nextAlert := wrapInc 32 no, alertPending := true } }
  s.msi s.ilkTag (fld (s.hdwField 0x28 8) 0 48) (s.hdwField 0x24 4)

/-! ### Reactions (R283, R284, R498) -/

/-- A frame is marked; with DISAGREE_LIMIT frames in the window this is the cause ESCALATION. -/
def State.markFrame (s : State) (frame sub : Nat) : State :=
  if s.boot.ilkState != .checking || s.ilk.marked.contains frame || !(s.inWindow frame) then s
  else
    let s := { s with ilk := { s.ilk with marked := frame :: s.ilk.marked } }
    if s.dframes ≥ s.disagreeLimit then s.latch 3 sub else s

/-! ### SAFE_N and the status frame (R291, R292) -/

/-- The commanded level of SAFE_N changes. -/
def State.driveSafeN (s : State) (level : Bool) : State :=
  if s.pins.safeNCmd = level then s
  else { s with pins := { s.pins with safeNCmd := level }, ilk := { s.ilk with readbackSkip := true } }

/-- The code of ILK_STATE (R55). -/
def ilkStateCode : IlkState → Nat
  | .rom => 0 | .verify => 1 | .selftest => 2 | .golden => 3 | .waitTime => 4 | .checking => 5 | .split => 6 | .failed => 7

/-- The device identity digest: SHA-384 of the PUF public key (R35). -/
def State.identity (_ : State) : Bytes := Config.sha384 Config.pufPublicKey

/-- The safe-state status frame (R292). -/
def State.safeFrame (s : State) : Bytes :=
  let i := s.ilk
  let body := leBytes 1 0x5F ++ leBytes 1 i.safeCause ++ leBytes 2 i.safeSub ++ leBytes 1 (ilkStateCode i.detectState)
    ++ leBytes 1 (b2n i.writesPending + 2 * b2n i.detectLockstep + 4 * b2n s.boot.debugProfile + 8 * b2n i.detectPhaseSafe)
    ++ leBytes 1 i.detectDframes ++ leBytes 1 i.secondCause ++ leBytes 8 (i.detectNs / 1000000000)
    ++ leBytes 4 (i.detectNs % 1000000000) ++ leBytes 4 i.safeNNs ++ leBytes 4 (i.nextAlert + 2 ^ 32 - 1)
    ++ leBytes 4 i.frame ++ leBytes 1 i.causeCount ++ zeros 3 ++ leBytes 4 i.detectRuleset
    ++ slice s.identity 0 8 ++ zeros 12
  body ++ leBytes 4 (crc32c body)

/-- SAFE_N_ASSERT (R291 steps 4 and 5): once the headers issued before the latch are acknowledged, or 6 µs have passed,
the pull-downs turn on. -/
def execSafeNAssert (s : State) : Out :=
  act s fun s =>
    let waiting := s.ilk.headers.any (·.beforeLatch)
    if !s.latched || s.ilk.asserted || (waiting && s.now < s.ilk.detectNs + 6000) then s
    else
      { s with ilk := { s.ilk with
        asserted := true, writesPending := waiting, safeNNs := min (s.now - s.ilk.detectNs) 0xFFFFFFFF } }.driveSafeN false

/-! ### The island's own monitors (R261, R264, R265, R288) -/

/-- LOCKSTEP_MISMATCH (R261); the comparators are off once debug has broken lock-step or in a split boot (R264, R47). -/
def execLockstepMismatch (s : State) : Out :=
  act s fun s =>
    if s.ilk.debugBroken || s.ilkSplit then s
    else ({ s with ilk := { s.ilk with lockstep := false } }).latch 1 0

/-- CHECKER_MISMATCH (R261). -/
def execCheckerMismatch (unit : Nat) (s : State) : Out := act s fun s => s.latch 2 unit

/-- ISLAND_ECC (R261). -/
def execIslandEcc (memory : Nat) (s : State) : Out := act s fun s => s.latch 0x0C memory

/-- RTC_MISMATCH (R265): of a pair that ISLAND does not split, and whose comparators debug has not disabled (R264). -/
def execRtcMismatch (pair : Nat) (s : State) : Out :=
  act s fun s => if s.rtcSplit pair || s.ilk.rtcBroken.contains pair then s else s.latch 0x0E pair

/-- Invasive debug breaks the Interlocking's lock-step until reset (R264); a split boot has none to break (R47). -/
def State.breakLockstep (s : State) : State :=
  if s.ilkSplit then s
  else
    let s := { s with ilk := { s.ilk with lockstep := false, debugBroken := true } }
    if s.boot.debugProfile then s else s.latch 0x0A 0

/-- Invasive debug breaks the lock-step of a real-time pair, with the consequences of R264 (R387). -/
def State.breakPair (s : State) (pair : Nat) : State :=
  if s.rtcSplit pair then s
  else
    let s := { s with ilk := { s.ilk with
      debugBroken := true, rtcBroken := insertNat pair s.ilk.rtcBroken } }
    if s.boot.debugProfile then s else s.latch 0x0A (1 + pair)

/-- DEBUG_INVASIVE (R264, R387): where the SAFETY world's INV enable allows it, lock-step breaks until reset. -/
def execDebugInvasive (s : State) : Out :=
  act s fun s => if bit s.slc.dbgInv 1 then s.breakLockstep else s

/-- SELFTEST_SLICE_START (R288): slice (window number mod 10), once start-up step 10 has passed. -/
def execSelftestSliceStart (s : State) : Out :=
  act s fun s =>
    if !s.boot.selftestPassed || s.ilk.testing.isSome then s
    else { s with ilk := { s.ilk with testing := some (s.ilk.window % 10), window := s.ilk.window + 1 } }

/-- SELFTEST_SLICE_END (R288): a failure is the cause SELFTEST_FAIL. -/
def execSelftestSliceEnd (pass : Bool) (s : State) : Out :=
  act s fun s =>
    match s.ilk.testing with
    | none => s
    | some k =>
      let s := { s with ilk := { s.ilk with
        testing := none, lastSlice := k
        rotations := if k = 9 then wrapInc 16 s.ilk.rotations else s.ilk.rotations } }
      if pass then s else s.latch 6 k

/-- SAFE_N_READBACK (R288): the ball's level against the commanded level; the receiver reads low without VDD_IO, and the
first sample after a change of the command is not judged. -/
def execSafeNReadback (level : Bool) (s : State) : Out :=
  act s fun s =>
    if s.ilk.readbackSkip then { s with ilk := { s.ilk with readbackSkip := false } }
    else if (level && s.pins.vddIo) == s.pins.safeNCmd then s
    else s.latch 0x0F 0

end Sys2Proof.Machine
end

