-- ==== Sys2Proof/Machine/Taps.lean ====
section
/-! DEFINITION. The tap receiver: records, their checks and the running counts (R21, R23, R276, R278). -/

namespace Sys2Proof.Machine

/-- The 16 bytes of a tap record (R86). -/
def TapRecord.bytes (r : TapRecord) : Bytes :=
  if r.marker then
    leBytes 2 (2 + 4 * r.basin) ++ leBytes 2 r.seq ++ leBytes 4 (r.context + r.node * 2 ^ 14)
      ++ leBytes 2 r.generation ++ leBytes 2 r.recordCount ++ zeros 4
  else
    leBytes 2 (1 + 4 * r.basin + 256 * b2n r.isFloat + 512 * b2n r.nonfinite) ++ leBytes 2 r.seq
      ++ leBytes 4 r.rowRes ++ leBytes 4 r.colRes ++ leBytes 4 r.bound

/-- The counts of a concentrator port. -/
def State.tap (s : State) (p : Nat) : TapCount := tget {} s.ilk.taps p
/-- Change the counts of a concentrator port. -/
def State.modTap (s : State) (p : Nat) (f : TapCount → TapCount) : State :=
  { s with ilk := { s.ilk with taps := tmod {} s.ilk.taps p f } }

/-- A failing record of a Basin: counted for express or pool Basins; a pool Basin's raises at most one TAP_QM alert per
frame (R278). -/
def State.tapFailed (s : State) (p : Nat) : State :=
  let s := { s with ilk := { s.ilk with lastFailBasin := p } }
  if s.basinRole p = 2 then { s with ilk := { s.ilk with tapFailsExpress := sat16 s.ilk.tapFailsExpress } }
  else
    let s := { s with ilk := { s.ilk with tapFailsQm := sat16 s.ilk.tapFailsQm } }
    if s.ilk.qmFrame = some s.ilk.frame then s
    else { s with ilk := { s.ilk with qmFrame := some s.ilk.frame } }.alert alertTapQm 0 0 p 0xFFFF 0 s.ilk.frame

/-- One loss failure. -/
def State.tapLoss (s : State) (p : Nat) : State :=
  (s.modTap p fun t => { t with lossFails := wrapInc 32 t.lossFails }).tapFailed p

/-- A residue record's residues fail: not zero for integers, beyond BOUND or NaN for floats. -/
def residueFails (data : Bytes) : Bool :=
  let row := le data 4 4
  let col := le data 8 4
  if bit (byteAt data 1) 0 then
    let b := dec32 (le data 12 4)
    let bad (v : Nat) : Bool := dec32 v == .nan || fpLt b (fpAbs (dec32 v))
    bad row || bad col
  else row != 0 || col != 0

/-- A record is used for its counts: it passed its CRC, TYPE and BASIN checks. -/
def State.tapUse (s : State) (p : Nat) (data : Bytes) : State :=
  let seq := le data 2 2
  let s := if seq = (s.tap p).nextSeq then s else s.tapLoss p
  let s := s.modTap p fun t => { t with nextSeq := wrapInc 16 seq }
  if fld (byteAt data 0) 0 2 = 2 then
    let s := if le data 10 2 = (s.tap p).sinceMarker then s else s.tapLoss p
    s.modTap p fun t => { t with sinceMarker := 0 }
  else
    let s := s.modTap p fun t =>
      { t with
        sinceMarker := wrapInc 16 t.sinceMarker, records := wrapInc 32 t.records
        nonfinite := if bit (byteAt data 1) 1 then wrapInc 32 t.nonfinite else t.nonfinite }
    if residueFails data then
      (s.modTap p fun t => { t with residueFails := wrapInc 32 t.residueFails }).tapFailed p
    else s

/-- The concentrator acknowledges the oldest outstanding record of a Basin; an acknowledgement that carries an old generation
of a Consist is counted (R142, R177). -/
def State.tapAck (s : State) (n : Nat) (r : TapRecord) : State :=
  let s := s.modBasin n fun b => { b with unacked := b.unacked.drop 1 }
  let c := consistOf r.senderTag
  if c ≠ 0 && s.consistTag c == r.senderTag && (s.consist c).generation != r.senderGen then
    { s with sbx := { s.sbx with genDiscards := sat16 s.sbx.genDiscards } }
  else s

/-- A record and its CRC reach the receiver on a concentrator port. -/
def State.tapReceive (s : State) (p : Nat) (data : Bytes) (crc : Nat) : State :=
  let type := fld (byteAt data 0) 0 2
  if crc16 data ≠ crc then s.tapLoss p
  else if fld (byteAt data 0) 2 6 ≠ p ∨ type = 0 ∨ type = 3 then s.tapLoss p
  else s.tapUse p data

/-- A byte string with bits flipped. -/
def flipBits : Bytes → Bytes → Bytes
  | a :: l, b :: m => (a ^^^ b) :: flipBits l m
  | l, _ => l

/-- TAP_RECORD_RECEIVE (R21, R276): the oldest record that Basin of the link has sent arrives on its concentrator port, with the CRC
that its tap port has formed; `flips` and `crcFlips` are the bits that it lost on the way. -/
def execTapRecordReceive (link : TapLink) (flips : Bytes) (crcFlips : Nat) (s : State) : Out :=
  act s fun s =>
    match (s.basin link.basin).unacked with
    | [] => s
    | r :: _ => (s.tapAck link.basin r).tapReceive link.port (flipBits r.bytes flips) (crc16 r.bytes ^^^ crcFlips)

/-- The sums of a count over the Basins of a mask (R276). -/
def State.tapSum (s : State) (mask : Nat) (f : TapCount → Nat) : Nat :=
  ((maskBits mask 64).map fun p => f (s.tap p)).sum % 2 ^ 32

end Sys2Proof.Machine
end

