-- ==== Sys2Proof/Machine/Rules.lean ====
section
/-! DEFINITION. The plausibility rules: TAP, RANGE, RATE, CROSS and PLAN (R276 to R282). -/

namespace Sys2Proof.Machine

/-! ### Rule sets (R279, R281, R61) -/

/-- The rules of a RULES payload, in order. -/
def rulesOf (t : Bytes) : List Bytes := (List.range (le t 4 2)).map fun n => slice t (0x40 + 64 * n) 64

/-- RULE_ID of a rule. -/
def ruleId (r : Bytes) : Nat := le r 0 2
/-- KIND of a rule. -/
def ruleKind (r : Bytes) : Nat := byteAt r 2
/-- REACTION of a rule. -/
def ruleReaction (r : Bytes) : Nat := byteAt r 3
/-- CLASS of a rule. -/
def ruleClass (r : Bytes) : Nat := byteAt r 4

/-- A result with this capture stamp is judged by the old rule set (R61). -/
def State.usesOldRules (s : State) (stamp : Nat) : Bool := s.reload.oldRules.isSome && stamp < s.reload.swapNs

/-- The rule set that judges a capture stamp. -/
def State.ruleSet (s : State) (stamp : Nat) : Bytes :=
  if s.usesOldRules stamp then s.reload.oldRules.getD [] else s.sec secRules

/-- The rules of a class, in ascending order. -/
def classRules (t : Bytes) (cls : Nat) : List Bytes := (rulesOf t).filter fun r => ruleClass r == cls

/-- BASIN_MASK of a class's TAP rule; 0 where it has none. -/
def tapMask (t : Bytes) (cls : Nat) : Nat :=
  match (classRules t cls).find? fun r => ruleKind r == 1 with
  | some r => le r 0x10 8
  | none => 0

/-! ### Elements -/

/-- Bytes of one element of a rule's format. -/
def ruleElemBytes (f : Nat) : Nat := if f ≥ 10 then 4 else if f ≥ 8 then 2 else 1

/-- The value of an element of a rule's format (R74). -/
def ruleElem (f v : Nat) : Fp :=
  if f = 10 then dec32 v
  else if f = 11 then fpOfInt (toSigned 32 v)
  else if f < 4 then fpOfInt (intElem f v)
  else floatElem f v

/-- The raw elements that a rule names: format, offset, stride, count. -/
def elemsAt (p : Bytes) (f off stride count : Nat) : List Nat :=
  (List.range count).map fun i => le p (off + i * stride) (ruleElemBytes f)

/-- The elements of a rule in the payload. -/
def ruleElems (r p : Bytes) : List Nat := elemsAt p (byteAt r 5) (le r 8 4) (le r 6 2) (le r 12 4)

/-- Elements converted to FP32 with round-to-nearest-even (R279). -/
def elems32 (f : Nat) (l : List Nat) : List Nat := l.map fun v => enc32 (ruleElem f v)

/-- A ratio of naturals rounded once to FP32. -/
def ratio32 (n d : Nat) : Nat :=
  let q := n * 2 ^ 96 / d
  enc32 (.num false (2 * q + b2n (n * 2 ^ 96 % d != 0)) (-97))

/-! ### The kinds -/

/-- The TAP rule against the snapshots of an expectation: 0 or the cause (R276). -/
def State.tapRule (s : State) (r : Bytes) (snap : Capture) : Nat :=
  let mask := le r 0x10 8
  let grown (f : TapCount → Nat) (old : Nat) : Nat := subMod (s.tapSum mask f) old
  if grown (·.residueFails) snap.residueFails ≠ 0 then 1
  else if grown (·.lossFails) snap.lossFails ≠ 0 then 3
  else if grown (·.nonfinite) snap.nonfinite ≠ 0 ∧ !(bit (byteAt r 0x1C) 0) then 4
  else if grown (·.records) snap.records < le r 0x18 4 then 2
  else 0

/-- The RANGE rule: 0 or 0x05 (R279). -/
def rangeRule (r p : Bytes) : Nat :=
  let f := byteAt r 5
  let ok (v : Nat) : Bool :=
    if f = 11 then
      toSigned 32 (le r 0x10 4) ≤ toSigned 32 v && toSigned 32 v ≤ toSigned 32 (le r 0x14 4)
    else fpLe (dec32 (le r 0x10 4)) (ruleElem f v) && fpLe (ruleElem f v) (dec32 (le r 0x14 4))
  if (ruleElems r p).all ok then 0 else 5

/-- The RATE rule: 0 or 0x06 (R279). -/
def State.rateRule (s : State) (r p : Bytes) (stamp : Nat) : Nat :=
  match tfind s.ilk.rate (ruleId r) with
  | none => 0
  | some h =>
    if stamp > h.stamp + le r 0x18 4 * 64 then 0
    else if stamp ≤ h.stamp then 6
    else
      let dt := ratio32 (stamp - h.stamp) 1000000000
      let lim := add32 (le r 0x14 4) (mul32 (le r 0x10 4) dt)
      let ok (e : Nat × Nat) : Bool := fpLe (fpAbs (dec32 (sub32 e.1 e.2))) (dec32 lim)
      if ((elems32 (byteAt r 5) (ruleElems r p)).zip h.elems).all ok then 0 else 6

/-- The CROSS rule: 0, 0x07 or 0x08 (R279). -/
def State.crossRule (s : State) (r p : Bytes) (stamp : Nat) : Nat :=
  let missing := if bit (byteAt r 0x28) 0 then 8 else 0
  match tfind s.ilk.cross (ruleId r) with
  | none => missing
  | some h =>
    if max stamp h.stamp - min stamp h.stamp > le r 0x24 4 * 64 then missing
    else
      let ok (e : Nat × Nat) : Bool :=
        let pred := fma32 (le r 0x18 4) e.2 (le r 0x1C 4)
        fpLe (fpAbs (dec32 (sub32 e.1 pred))) (dec32 (le r 0x20 4))
      if ((elems32 (byteAt r 5) (ruleElems r p)).zip h.elems).all ok then 0 else 7

/-! ### Planner feasibility (R282) -/

/-- A finite value in units of 2⁻¹⁴⁹; other values count as 0, after their own check. -/
def fx : Fp → Int
  | .num neg m e =>
    let v : Int := (m * 2 ^ (e + 149).toNat : Nat)
    if neg then -v else v
  | _ => 0

/-- One unit of `fx`. -/
def unit149 : Int := 2 ^ 149

/-- A pose of a plan record. -/
structure Pose where
  /-- x, in units of 2⁻¹⁴⁹ m. -/
  x : Int
  /-- y. -/
  y : Int
  /-- Heading, in units of 2⁻¹⁴⁹ rad. -/
  h : Int
  /-- Time, in units of 2⁻¹⁴⁹ s. -/
  t : Int
  deriving DecidableEq, Repr

/-- Pose `i` of the DRIVE trajectory. -/
def poseAt (p : Bytes) (i : Nat) : Pose :=
  let g (k : Nat) : Int := fx (dec32 (le p (0x40 + 16 * i + 4 * k) 4))
  { x := g 0, y := g 1, h := g 2, t := g 3 }

/-- √a ≤ b for integers with a ≥ 0. -/
def sqrtLe (a b : Int) : Bool := 0 ≤ b && a ≤ b * b

/-- |√p − √q| ≤ c for integers with p, q ≥ 0. -/
def sqrtDiffLe (p q c : Int) : Bool :=
  0 ≤ c && (p + q ≤ c * c || (p + q - c * c) * (p + q - c * c) ≤ 4 * p * q)

/-- l ≤ k × √a for integers with a ≥ 0. -/
def leTimesSqrt (l k a : Int) : Bool :=
  if 0 ≤ k then l ≤ 0 || l * l ≤ k * k * a else l ≤ 0 && k * k * a ≤ l * l

/-- The squared distance of adjacent poses. -/
def segSq (a b : Pose) : Int := (b.x - a.x) * (b.x - a.x) + (b.y - a.y) * (b.y - a.y)

/-- The checks of one segment, with the segment before it if there is one (R282 step 2). -/
def segmentOk (r : Bytes) (prev : Option (Pose × Pose)) (a b : Pose) : Bool :=
  let par (off : Nat) : Int := fx (dec32 (le r off 4))
  let dt := b.t - a.t
  let sq := segSq a b
  0 < dt && sqrtLe sq (2 * par 0x14)
    && sqrtLe (sq * (unit149 * unit149)) (par 0x20 * dt)
    && (match prev with
        | none => true
        | some (a0, b0) =>
          let t0 := b0.t - a0.t
          sqrtDiffLe (sq * t0 * t0 * unit149 ^ 4) (segSq a0 b0 * dt * dt * unit149 ^ 4) (par 0x24 * dt * dt * t0))
    && leTimesSqrt (((b.h - a.h).natAbs - par 0x1C) * unit149) (par 0x18) sq

/-- PLAN_KINEMATIC (R282 step 2). -/
def planKinematicOk (r p : Bytes) : Bool :=
  let n := le p 0x10 2
  let finite := (List.range (4 * n)).all fun i => fpFinite (dec32 (le p (0x40 + 4 * i) 4))
  1 ≤ n && n ≤ 512 && finite && (List.range (n - 1)).all fun i =>
    segmentOk r (if i = 0 then none else some (poseAt p (i - 1), poseAt p i)) (poseAt p i) (poseAt p (i + 1))

/-- A pose keeps its distance from a disc (R282 step 4): `d` is plan capture − obstacle capture in ns, `reach` the sum
EGO_RADIUS + MARGIN. -/
def discOk (reach : Int) (d : Int) (disc : Bytes) (q : Pose) : Bool :=
  let vals := [dec32 (le disc 0 4), dec32 (le disc 4 4), dec32 (le disc 8 4), dec16 true (le disc 12 2), dec16 true (le disc 14 2)]
  let g (k : Nat) : Int := fx (vals.getD k .nan)
  let ns : Int := 1000000000
  let tau := q.t * ns + d * unit149
  let nx := (q.x - g 0) * unit149 * ns - g 3 * tau
  let ny := (q.y - g 1) * unit149 * ns - g 4 * tau
  let rr := (reach + g 2) * unit149 * ns
  vals.all fpFinite && (rr ≤ 0 || rr * rr ≤ nx * nx + ny * ny)

/-- PLAN_COLLISION (R282 step 4). -/
def planClear (r p : Bytes) (stamp : Nat) (o : ObstSnapshot) : Bool :=
  let n := min (le o.list 0 4) (le r 0x2A 2)
  let reach := fx (dec32 (le r 0x10 4)) + fx (dec32 (le r 0x14 4))
  let d : Int := (stamp : Int) - o.stamp
  (List.range (le p 0x10 2)).all fun i =>
    (List.range n).all fun k => discOk reach d (slice o.list (4 + 16 * k) 16) (poseAt p i)

/-- PLAN_STATUS (R282 step 1). -/
def planStatusOk (r p : Bytes) (h : ResultHandover) : Bool :=
  le p 0 4 == 0x01504C4E && byteAt p 4 == h.planStatus && le p 6 2 == h.pflags && bit (le p 6 2) 0
    && (!(bit (le p 6 2) 1) || bit (byteAt r 0x29) 0)

/-- The PLAN rule: 0 or the first failure (R282). -/
def State.planRule (s : State) (r p : Bytes) (stamp : Nat) (h : ResultHandover) : Nat :=
  if !(planStatusOk r p h) then 0x0B
  else if !(planKinematicOk r p) then 0x0A
  else
    match tfind s.ilk.obst (ruleId r) with
    | none => 0x0C
    | some o =>
      if max stamp o.stamp - min stamp o.stamp > le r 0x30 4 * 64 then 0x0C
      else if planClear r p stamp o then 0 else 9

/-! ### Evaluation and histories (R279, R280) -/

/-- The cause of one rule, 0 where it passes. -/
def State.ruleCause (s : State) (r p : Bytes) (stamp : Nat) (h : ResultHandover) (snap : Capture) : Nat :=
  match ruleKind r with
  | 1 => s.tapRule r snap
  | 2 => rangeRule r p
  | 3 => s.rateRule r p stamp
  | 4 => s.crossRule r p stamp
  | _ => s.planRule r p stamp h

/-- A failed check: its cause, RULE_ID and reaction. -/
structure Failed where
  /-- Cause code (R268). -/
  cause : Nat
  /-- RULE_ID; 0xFFFF where no rule failed. -/
  rule : Nat := 0xFFFF
  /-- Reaction: 0 MARK, 1 DISAGREE, 2 SAFE_STATE. -/
  reaction : Nat := 0
  deriving DecidableEq, Repr

/-- The failing rules of a class, in ascending order; a failing rule does not stop the ones after it. -/
def State.failingRules (s : State) (t p : Bytes) (cls stamp : Nat) (h : ResultHandover) (snap : Capture) : List Failed :=
  (classRules t cls).filterMap fun r =>
    let c := s.ruleCause r p stamp h snap
    if c = 0 then none else some { cause := c, rule := ruleId r, reaction := ruleReaction r }

/-- What one rule keeps of a record that passed every check (R280). -/
def State.commitRule (p : Bytes) (cls stamp : Nat) (s : State) (r : Bytes) : State :=
  match ruleKind r with
  | 3 =>
    if ruleClass r = cls then
      { s with ilk := { s.ilk with
        rate := tset s.ilk.rate (ruleId r) { stamp := stamp, elems := elems32 (byteAt r 5) (ruleElems r p) } } }
    else s
  | 4 =>
    if byteAt r 0x10 = cls then
      let f := byteAt r 0x11
      { s with ilk := { s.ilk with
        cross := tset s.ilk.cross (ruleId r)
          { stamp := stamp, elems := elems32 f (elemsAt p f (le r 0x14 4) (le r 0x12 2) (le r 12 4)) } } }
    else s
  | 5 =>
    if byteAt r 0x28 = cls then
      { s with ilk := { s.ilk with
        obst := tset s.ilk.obst (ruleId r) { stamp := stamp, list := slice p (le r 0x2C 4) (4 + 16 * le r 0x2A 2) } } }
    else s
  | _ => s

/-- Histories and snapshots after a record that passed every check, for every rule set held. -/
def State.commitRecord (s : State) (p : Bytes) (cls stamp : Nat) : State :=
  let all := rulesOf (s.reload.oldRules.getD []) ++ rulesOf (s.sec secRules)
  all.foldl (State.commitRule p cls stamp) s

end Sys2Proof.Machine
end

