-- ==== Sys2Proof/Machine/Interlocking.lean ====
section
/-! DEFINITION. The Interlocking's result path: the Headway monitor, hand-overs, judgement and release of results, and the
golden inputs (R266 to R274, R283 to R287). -/

namespace Sys2Proof.Machine

/-! ### Headway (R271, R272) -/

/-- A capture as it stands when it is taken: its stamp and the tap sums of the class's TAP rule. -/
def State.captureNow (s : State) (cls stamp : Nat) : Capture :=
  let m := tapMask (s.ruleSet stamp) cls
  { stamp := stamp, records := s.tapSum m (·.records), residueFails := s.tapSum m (·.residueFails)
    lossFails := s.tapSum m (·.lossFails), nonfinite := s.tapSum m (·.nonfinite) }

/-- The classes that a capture source feeds. -/
def State.classesOf (s : State) (type id : Nat) : List Nat :=
  ((List.range s.classCount).map (· + 1)).filter fun c =>
    s.classSafety c && s.classField c 1 1 == type && s.classField c 2 2 == id

/-- A capture of a source reaches one class. -/
def State.captureClass (stamp number : Nat) (s : State) (c : Nat) : State :=
  let x := s.hdw c
  let e := s.captureNow c stamp
  if number % max 1 (s.classField c 4 1) ≠ 0 then
    s.modHdw c fun x => { x with past := (e :: x.past).take 16 }
  else if x.opened.length ≥ 16 then
    s.modHdw c fun x => { x with past := (e :: x.past).take 16, expired := sat16 x.expired }
  else
    s.modHdw c fun x =>
      { x with past := ({ e with state := .isOpen } :: x.past).take 16, opened := x.opened ++ [{ e with state := .isOpen }] }

/-- A capture of a source: type 1 camera frame start, 2 capture input, 3 Timetable event (R271). HEADWAY is applied once
the Interlocking has verified the image. -/
def State.capture (s : State) (type id stamp number : Nat) : State :=
  if !s.boot.ilkVerified then s else (s.classesOf type id).foldl (State.captureClass stamp number) s

/-- What became of a capture stamp is noted among the last captures. -/
def HdwClass.note (x : HdwClass) (stamp : Nat) (st : CaptureState) : HdwClass :=
  { x with
    opened := x.opened.filter fun e => e.stamp != stamp
    past := x.past.map fun e => if e.stamp = stamp then { e with state := st } else e }

/-- Reactions act only while ILK_STATE is CHECKING (R498). -/
def State.react (s : State) (reaction frame cls safeCode safeSub : Nat) (counts : Bool) : State :=
  if s.boot.ilkState != .checking then s
  else if reaction = 2 then s.latch safeCode safeSub
  else if reaction = 1 && counts then s.markFrame frame cls
  else s

/-- An expectation expires (R272). -/
def State.expire (s : State) (c stamp : Nat) : State :=
  let s := s.modHdw c fun x => { x.note stamp .expired with expired := sat16 x.expired }
  let f := s.frameAt stamp
  let s := s.react (s.classField c 5 1) f c 4 c true
  s.alert alertHeadwayExpired 0 c s.ilk.lastFailBasin 0xFFFF 0 f

/-- t − capture ≤ DEADLINE × 64 ns. -/
def State.inTime (s : State) (c stamp : Nat) : Bool := s.now ≤ stamp + 64 * s.classDeadline c

/-- HEADWAY_EXPIRE (R272): the oldest expectation of the class that is past its deadline expires. -/
def execHeadwayExpire (cls : Nat) (s : State) : Out :=
  act s fun s =>
    match (s.hdw cls).opened.find? fun e => !(s.inTime cls e.stamp) with
    | some e => s.expire cls e.stamp
    | none => s

/-- The capture that a hand-over's origin matches. -/
def State.matchCapture (s : State) (c origin : Nat) : Option Capture :=
  match (s.hdw c).opened.find? fun e => e.stamp == origin with
  | some e => some e
  | none => (s.hdw c).past.find? fun e => e.stamp == origin

/-- The Headway comparison at release (R271, R272): 0 and an open expectation, or the cause. -/
def State.headwayJudge (s : State) (c origin : Nat) : State × Nat :=
  match s.matchCapture c origin with
  | none => (s.modHdw c fun x => { x with originUnknown := sat16 x.originUnknown }, 0x17)
  | some e =>
    match e.state with
    | .isOpen =>
      if s.inTime c origin then (s, 0)
      else ((s.expire c origin).modHdw c fun x => { x with late := sat16 x.late }, 0x10)
    | .expired => (s.modHdw c fun x => { x with late := sat16 x.late }, 0x10)
    | .closed => (s.modHdw c fun x => { x with duplicate := sat16 x.duplicate }, 0x18)
    | .noExpectation => (s.modHdw c fun x => { x with originUnknown := sat16 x.originUnknown }, 0x17)

/-! ### Hand-overs (R266, R269) -/

/-- RESULT_HANDOVER (R269): the oldest completed RESULT node enters its lane, or waits while the lane is full. -/
def execResultHandover (s : State) : Out :=
  act s fun s =>
    match s.ilk.toHand with
    | [] => s
    | h :: r =>
      if s.classKnown h.headwayClass && !(s.classSafety h.headwayClass) then
        if s.ilk.laneQm.length ≥ 256 then s
        else { s with ilk := { s.ilk with toHand := r, laneQm := s.ilk.laneQm ++ [h] } }
      else if s.ilk.laneSafety.length ≥ 256 then s
      else { s with ilk := { s.ilk with toHand := r, laneSafety := s.ilk.laneSafety ++ [h] } }

/-! ### The record (R266 to R268) -/

/-- The cause codes in check order (R268). -/
def causeOrder : List Nat :=
  [0x16, 0x17, 0x18, 0x10, 0x0F, 0x0E, 0x0D, 0x01, 0x02, 0x03, 0x04, 0x05, 0x06, 0x07, 0x08, 0x0B, 0x0A, 0x09, 0x0C, 0x15]

/-- The first failure in the order of the cause table. -/
def firstFailed (l : List Failed) : Option Failed :=
  causeOrder.findSome? fun c => l.find? fun f => f.cause == c

/-- VALIDITY without the latch and the split (R268 items 3 to 9). -/
def State.baseValidity (s : State) (l : List Failed) (degraded : Bool) : Nat :=
  if l.any fun f => f.cause == 0x16 || f.cause == 0x17 || f.cause == 0x18 then 0x11
  else if l.any fun f => f.cause == 0x10 then 0x13
  else if l.any fun f => f.cause == 0x0F then 0x12
  else if l != [] then 0x11
  else if s.boot.phase != .safe || s.ilk.debugBroken then 0x14
  else if degraded then 0xA6 else 0xA5

/-- VALIDITY of a safety-class record (R268). -/
def State.validity (s : State) (l : List Failed) (degraded : Bool) : Nat :=
  if s.latched then 0x16 else if s.ilkSplit then 0x15 else s.baseValidity l degraded

/-- CAUSE of a record with no failing check: the mark that decided VALIDITY (R268). -/
def State.markCause (s : State) (validity : Nat) : Nat :=
  if validity = 0x16 then 0x14
  else if validity = 0x15 then 0x13
  else if validity = 0x14 then (if s.boot.phase != .safe then 0x11 else 0x12)
  else 0

/-- What goes into a record header beside the hand-over and the class. -/
structure Verdicts where
  /-- VALIDITY. -/
  validity : Nat
  /-- CAUSE. -/
  cause : Nat
  /-- RULE_ID. -/
  rule : Nat
  /-- RFLAGS. -/
  rflags : Nat
  /-- PAYLOAD_CRC. -/
  crc : Nat
  /-- PLAN_STATUS of a plan class. -/
  planStatus : Nat
  /-- PFLAGS of a plan class. -/
  pflags : Nat
  /-- RULESET. -/
  ruleset : Nat
  deriving DecidableEq, Repr

/-- ⌈(release − capture) / 64 ns⌉, saturating. -/
def ageUnits (now origin : Nat) : Nat := min ((now - origin + 63) / 64) 0xFFFFFFFF

/-- The 64-byte result record header (R266). -/
def State.recordHeader (s : State) (h : ResultHandover) (v : Verdicts) : Bytes :=
  let c := h.headwayClass
  let known := s.classKnown c
  let body := leBytes 4 0x01525354 ++ leBytes 1 v.validity ++ leBytes 1 v.cause ++ leBytes 1 c ++ leBytes 1 v.rflags
    ++ leBytes 4 ((s.hdw c).seq + 1) ++ leBytes 2 h.generation ++ leBytes 2 v.rule
    ++ leBytes 8 (h.originNs / 1000000000) ++ leBytes 4 (h.originNs % 1000000000) ++ leBytes 4 (ageUnits s.now h.originNs)
    ++ leBytes 4 (if known then s.classDeadline c else 0) ++ leBytes 4 (if known then s.classField c 0x0C 4 else 0)
    ++ leBytes 4 v.crc ++ leBytes 4 v.ruleset ++ leBytes 1 h.status ++ leBytes 1 v.planStatus ++ leBytes 2 v.pflags
    ++ zeros 8
  body ++ leBytes 4 (crc32c body)

/-- The header goes out as one line, under the Interlocking's tag; what waits for its acknowledgement stands in `headers`. -/
def State.sendHeader (s : State) (h : ResultHandover) (v : Verdicts) : State :=
  let w : HeaderWrite :=
    { slot := h.slot, waiting := true, beforeLatch := !s.latched, consist := h.consist, generation := h.generation }
  State.devAccess { s with ilk := { s.ilk with headers := s.ilk.headers ++ [w] } } (.header h.slot) s.ilkTag h.resultPtr 64 true
    (s.recordHeader h v)

/-- The header is issued; a denied write is counted and leaves the expectation open (R269). -/
def State.issueHeader (s : State) (h : ResultHandover) (v : Verdicts) (safety closes : Bool) : State :=
  let c := h.headwayClass
  let s := s.sendHeader h v
  if s.refused then s
  else
    let good := v.validity = 0xA5 ∨ v.validity = 0xA6
    let s := s.modHdw c fun x =>
      let x := if closes then x.note h.originNs .closed else x
      { x with seq := wrapInc 32 x.seq, maxAge := max x.maxAge (ageUnits s.now h.originNs) }
    if !safety then s
    else { s with ilk := { s.ilk with
      valid := if good then wrapInc 32 s.ilk.valid else s.ilk.valid
      notValid := if good then s.ilk.notValid else wrapInc 32 s.ilk.notValid } }

/-- The Interlocking acknowledges a hand-over, which completes its node (R137); an acknowledgement of an old generation of a
Consist is discarded (R142, R177). -/
def State.finishHanded (s : State) (slot consist generation : Nat) : State :=
  if consist ≠ 0 && (s.consist consist).generation != generation then
    { s with sbx := { s.sbx with genDiscards := sat16 s.sbx.genDiscards } }
  else (s.finishNode slot).settle

/-- RESULT_HEADER_ACK (R269): the oldest header is acknowledged, and then its hand-over (R137); one that is still held is
not. -/
def execResultHeaderAck (s : State) : Out :=
  act s fun s =>
    match s.ilk.headers with
    | [] => s
    | w :: r =>
      if w.waiting then s
      else State.finishHanded { s with ilk := { s.ilk with headers := r } } w.slot w.consist w.generation

/-! ### Judgement -/

/-- The ring may submit for the class (R268, CLASS_INVALID). -/
def State.classRingOk (s : State) (h : ResultHandover) : Bool :=
  s.classKnown h.headwayClass && h.ring < 16 && bit (s.classField h.headwayClass 6 2) h.ring

/-- A Basin of the class's TAP rule stands in a quarantined Terrace (R286). -/
def State.quarantined (s : State) (mask : Nat) : Bool :=
  (maskBits mask 64).any fun b => s.basinRole b == 2 && bit s.ilk.quarantine (b / 8)

/-- The reactions of the failed checks of a record (R283): LATE, INPUT_MISSING and QUARANTINE records mark no frame. -/
def State.reactAll (s : State) (l : List Failed) (cls frame base first : Nat) : State :=
  let counts := base != 0x13 && base != 0x12 && first != 0x15
  l.foldl (fun s f => s.react f.reaction frame cls 5 (if f.rule = 0xFFFF then cls else f.rule) counts) s

/-- The alerts of a released record (R289). -/
def State.recordAlerts (s : State) (base cause cls rule seq frame : Nat) (flagged : Bool) : State :=
  let s :=
    if base = 0x11 then s.alert alertResultFail cause cls s.ilk.lastFailBasin rule seq frame
    else if base = 0x12 then s.alert alertInputMissing cause cls s.ilk.lastFailBasin rule seq frame
    else if base = 0x13 then s.alert alertLate cause cls s.ilk.lastFailBasin rule seq frame
    else s
  if flagged then s.alert alertPlanFlagged cause cls s.ilk.lastFailBasin rule seq frame else s

/-- A result of a class beyond CLASS_COUNT, or of class 0 from a ring other than ring 15: no payload is read and nothing
else is judged (R268). -/
def State.judgeInvalidClass (s : State) (h : ResultHandover) : State :=
  let l : List Failed := [{ cause := 0x16 }]
  let old := s.usesOldRules h.originNs
  let v : Verdicts :=
    { validity := s.validity l false, cause := 0x16, rule := 0xFFFF, rflags := 2 * b2n h.marked + 8 * b2n old, crc := 0
      planStatus := 0, pflags := 0, ruleset := if old then s.reload.oldRulesVersion else s.reload.rulesVersion }
  let s := s.issueHeader h v true false
  s.recordAlerts 0x11 0x16 (h.headwayClass % 256) 0xFFFF (s.hdw h.headwayClass).seq (s.frameAt h.originNs) false

/-- Read the payload under ILK_TAG; it fails on an error response or an uncorrectable word. -/
def State.readPayload (s : State) (h : ResultHandover) (len : Nat) (payloadError : Bool) : State × Fetch :=
  if payloadError then (s, .failed) else s.fetchBytes s.ilkTag (h.resultPtr + 64) len

/-- A hand-over whose memory is held stays the oldest of its lane (R100, R104, R373). -/
def State.laneBack (s : State) (h : ResultHandover) : State :=
  { s with ilk := { s.ilk with laneSafety := h :: s.ilk.laneSafety } }

/-- A safety-class result whose payload has been read, or could not be, is judged and released (R266 to R274, R279 to
R284); `snap` is the capture of its origin. Every check runs, of a ring that may not use the class as well (R268); the
record of such a ring, where `ringOk` is false, carries no CRC (R266). -/
def State.judgePayload (s : State) (h : ResultHandover) (ringOk : Bool) (snap : Capture) (payload : Option Bytes) :
    State :=
  let c := h.headwayClass
  let stamp := h.originNs
  let set := s.ruleSet stamp
  let old := s.usesOldRules stamp
  let node := s.classField c 0x10 1
  let fromRules := match payload with
    | none => [({ cause := 0x0D, reaction := node } : Failed)]
    | some p => s.failingRules set p c stamp h snap
  let s := match payload with
    | none => s
    | some _ => { s with ilk := { s.ilk with ruleFails := satAdd 16 s.ilk.ruleFails fromRules.length } }
  let w := s.headwayJudge c stamp
  let s := w.1
  let l := (if ringOk then [] else [({ cause := 0x16 } : Failed)]) ++ (if w.2 = 0 then [] else [({ cause := w.2 } : Failed)])
    ++ (if h.marked || missingClass h.status then [({ cause := 0x0F } : Failed)] else [])
    ++ (if failureClass h.status then [({ cause := 0x0E, reaction := node } : Failed)] else [])
    ++ fromRules
    ++ (if s.quarantined (tapMask set c) then [({ cause := 0x15 } : Failed)] else [])
  let bytes := payload.getD []
  let plan := s.classPlan c
  let hasPlanRule := (classRules set c).any fun r => ruleKind r == 5
  let degraded := plan && hasPlanRule && bit (le bytes 6 2) 1
  let flagged := hasPlanRule && (h.planStatus == 1 || h.planStatus == 2 || h.planStatus == 3)
  let base := s.baseValidity l degraded
  let f := s.frameAt stamp
  let s := s.reactAll l c f base ((firstFailed l).map (·.cause) |>.getD 0)
  let validity := s.validity l degraded
  let v : Verdicts :=
    { validity := validity
      cause := match firstFailed l with | some x => x.cause | none => s.markCause validity
      rule := match l.find? fun x => x.rule != 0xFFFF && some x.cause == (firstFailed l).map (·.cause) with
        | some x => x.rule
        | none => 0xFFFF
      rflags := b2n (degraded && l == []) + 2 * b2n (h.marked || missingClass h.status) + 4 * b2n flagged + 8 * b2n old
      crc := match payload with | some p => if ringOk then crc32c p else 0 | none => 0
      planStatus := if plan then (if payload.isSome then byteAt bytes 4 else h.planStatus) else 0
      pflags := if plan then (if payload.isSome then fld (le bytes 6 2) 0 9 else h.pflags) else 0
      ruleset := if old then s.reload.oldRulesVersion else s.reload.rulesVersion }
  let s := s.issueHeader h v true (w.2 == 0)
  let s := s.recordAlerts base v.cause c v.rule (s.hdw c).seq f flagged
  match l, payload with
  | [], some p => s.commitRecord p c stamp
  | _, _ => s

/-- A safety-class result: its payload is read, and then judged; while a read is held it waits. -/
def State.judgeSafety (s : State) (h : ResultHandover) (payloadError : Bool) : State :=
  let c := h.headwayClass
  let snap := (s.matchCapture c h.originNs).getD (s.captureNow c h.originNs)
  let q := s.readPayload h (s.classField c 0x0C 4) payloadError
  if q.2 = .waits then q.1.laneBack h else q.1.judgePayload h (s.classRingOk h) snap q.2.bytes

/-- A QM-class result is released: no payload is read and nothing is judged (R269). -/
def State.judgeQm (s : State) (h : ResultHandover) : State :=
  let plan := s.classPlan h.headwayClass
  let old := s.usesOldRules h.originNs
  let v : Verdicts :=
    { validity := 0x20, cause := 0, rule := 0xFFFF
      rflags := 2 * b2n (h.marked || missingClass h.status) + 8 * b2n old, crc := 0
      planStatus := if plan then h.planStatus else 0, pflags := if plan then h.pflags else 0
      ruleset := if old then s.reload.oldRulesVersion else s.reload.rulesVersion }
  s.issueHeader h v false false

/-! ### Golden inputs (R285 to R287) -/

/-- The Terraces that hold express Basins. -/
def State.goldenTerraces (s : State) : List Nat :=
  (List.range 8).filter fun t => (List.range 8).any fun i => s.basinRole (8 * t + i) == 2

/-- The express Basins of a Terrace, as a mask. -/
def State.terraceMask (s : State) (t : Nat) : Nat :=
  (((List.range 8).filter fun i => s.basinRole (8 * t + i) == 2).map fun i => 2 ^ (8 * t + i)).sum

/-- The Terrace after `t` in ascending order, cyclically. -/
def State.nextTerrace (s : State) (t : Nat) : Nat :=
  match s.goldenTerraces.find? fun u => t < u with
  | some u => u
  | none => s.goldenTerraces.headD t

/-- The failing residues and losses of a Terrace so far. -/
def State.terraceFails (s : State) (t : Nat) : Nat :=
  (s.tapSum (s.terraceMask t) (·.residueFails) + s.tapSum (s.terraceMask t) (·.lossFails)) % 2 ^ 32

/-- The golden graph's node record (R285), with its RELEASE. -/
def State.goldenNode (s : State) (release : Nat) : Bytes :=
  let t := s.ilk.goldenTerrace
  leBytes 8 (fld (s.hdwField 0x10 8) 0 48) ++ zeros 8 ++ zeros 4 ++ leBytes 1 0 ++ leBytes 1 3 ++ zeros 2
    ++ leBytes 1 (maskBits (s.terraceMask t) 64).length ++ leBytes 1 (2 ^ t) ++ leBytes 2 (s.hdwField 0x1E 2)
    ++ leBytes 2 (s.hdwField 0x0A 2) ++ zeros 2 ++ leBytes 4 (s.hdwField 0x0C 4) ++ zeros 4
    ++ leBytes 8 release ++ zeros 16

/-- The golden graph's header: one SAFETY node whose origin is the slot. -/
def goldenHeader (nodes slot : Nat) : Bytes :=
  leBytes 2 1 ++ leBytes 2 2 ++ leBytes 4 1 ++ leBytes 8 nodes ++ zeros 16 ++ leBytes 8 (slot / 1000000000)
    ++ leBytes 4 (slot % 1000000000) ++ zeros 20

/-- Where the Interlocking places a golden graph in the memory of ring 15: the entry of the tail, and the node record half a
ring further on (DESIGN CHOICE, log entry 120: the spec does not say where the record lies). -/
def Ring.goldenPlaces (r : Ring) : Nat × Nat :=
  (r.base + 64 * (r.tail % r.size), r.base + 64 * ((r.tail + r.size / 2) % r.size))

/-- The Interlocking submits a golden graph on ring 15 like any other submitter (R17, R285): it rewrites the blob, writes
the node record and the header, and then the tail word, all under its own tag. -/
def State.goldenSubmit (s : State) (instant : Nat) (release : Nat) : State :=
  let addr := fld (s.hdwField 0x10 8) 0 48
  let blob := slice (s.sec secHeadway) 0x2000 (s.hdwField 0x18 2)
  let r := s.ring 15
  let p := r.goldenPlaces
  let s := { s with ilk := { s.ilk with
    goldenPending := true, goldenDeferrals := 0, goldenSnap := s.terraceFails s.ilk.goldenTerrace
    goldenFrame := s.frameAt instant } }
  (linesOf addr blob ++ [(p.2, s.goldenNode release), (p.1, goldenHeader p.2 instant),
    (r.tailAddr, leBytes 4 (wrapInc 32 r.tail))]).foldl (fun s w => s.devWrite s.ilkTag w.1 w.2) s

/-- Start-up step 11 submits the golden graph of the next Terrace (R285). No occurrence of GOLDEN_EVENT stands behind it: it is
released at once (DESIGN CHOICE, log entry 126). -/
def State.startupGolden (s : State) : State :=
  if s.goldenTerraces = [] then s else s.goldenSubmit s.now 0

/-- A golden graph has passed in start-up step 11: that of the next Terrace in ascending order follows (R285). -/
def State.startupNext (s : State) (t : Nat) : State :=
  if s.boot.ilkState == .golden && t < s.ilk.goldenTerrace then s.startupGolden else s

/-- An occurrence of GOLDEN_EVENT (R285, R287). -/
def State.goldenSlot (s : State) (instant count : Nat) : State :=
  if s.boot.ilkState != .checking || s.goldenTerraces = [] then s
  else if s.ilk.goldenPending then
    let n := s.ilk.goldenDeferrals + 1
    let s := { s with ilk := { s.ilk with goldenDeferrals := min n 3 } }
    let s := s.alert alertGoldenDeferred 0 0 0xFF 0xFFFF 0 s.ilk.frame
    if n = 3 then s.latch 7 s.ilk.goldenTerrace else s
  else s.goldenSubmit instant (1 + s.hdwField 0x08 2 * 256 + count * 2 ^ 32)

/-- The outputs of the ranks of the golden graph equal GOLDEN_CRC (R286); none while a read is held. -/
def State.goldenOutputs (s : State) (payloadError : Bool) : State × Option Bool :=
  let n := (maskBits (s.terraceMask s.ilk.goldenTerrace) 64).length
  let len := s.hdwField 0x1C 2
  let base := fld (s.hdwField 0x10 8) 0 48 + s.hdwField 0x1A 2
  (List.range n).foldl (fun (r : State × Option Bool) k =>
    let q := r.1.fetchBytes r.1.ilkTag (base + k * len) len
    (q.1, match q.2 with
      | .got b => r.2.map (· && crc32c b == s.hdwField 0x20 4)
      | .failed => r.2.map fun _ => false
      | .waits => none)) (s, some !payloadError)

/-- The judgement of a golden hand-over whose outputs were right or not (R286). -/
def State.judgeGoldenDone (s : State) (h : ResultHandover) (right : Bool) : State :=
  let t := s.ilk.goldenTerrace
  let pass := right && s.terraceFails t == s.ilk.goldenSnap && h.status == 0 && !h.marked
  let s := { s with ilk := { s.ilk with goldenPending := false, goldenDeferrals := 0 } }
  let s :=
    if pass then
      State.startupNext { s with ilk := { s.ilk with
        goldenPasses := wrapInc 16 s.ilk.goldenPasses
        quarantine := setFld s.ilk.quarantine t 1 0, goldenTerrace := s.nextTerrace t } } t
    else
      let s := { s with ilk := { s.ilk with
        goldenFails := sat8 s.ilk.goldenFails, quarantine := setFld s.ilk.quarantine t 1 1 } }
      let s := s.markFrame s.ilk.goldenFrame 0
      s.alert alertGoldenFail 0 0 s.ilk.lastFailBasin 0xFFFF 0 s.ilk.goldenFrame
  s.finishHanded h.slot h.consist h.generation

/-- The judgement of a golden hand-over (R286), once its outputs can be read. -/
def State.judgeGolden (s : State) (h : ResultHandover) (payloadError : Bool) : State :=
  let q := s.goldenOutputs payloadError
  match q.2 with
  | none => q.1.laneBack h
  | some right => q.1.judgeGoldenDone h right

/-! ### Release -/

/-- The work that a slice under test holds (R288): slices 2 to 7 hold the SAFETY lane, slice 7 both lanes. -/
def State.laneHeld (s : State) (safetyLane : Bool) : Bool :=
  match s.ilk.testing with
  | some k => k == 7 || (safetyLane && 2 ≤ k && k ≤ 7)
  | none => false

/-- The hand-over at the head of a lane is judged and its record released (R266 to R269). -/
def State.judgeHandover (s : State) (h : ResultHandover) (payloadError : Bool) : State :=
  if h.headwayClass = 0 ∧ h.ring = 15 then s.judgeGolden h payloadError
  else if h.resultPtr % 64 ≠ 0 then
    let s : State := { s with ilk := { s.ilk with badPtr := sat16 s.ilk.badPtr } }
    s.finishHanded h.slot h.consist h.generation
  else if s.classKnown h.headwayClass && !(s.classSafety h.headwayClass) then s.judgeQm h
  else if !(s.classKnown h.headwayClass) then s.judgeInvalidClass h
  else s.judgeSafety h payloadError

/-- RESULT_RELEASE (R269): the oldest hand-over of a lane. -/
def execResultRelease (safetyLane payloadError : Bool) (s : State) : Out :=
  act s fun s =>
    if s.laneHeld safetyLane then s
    else if safetyLane then
      match s.ilk.laneSafety with
      | [] => s
      | h :: r => State.judgeHandover { s with ilk := { s.ilk with laneSafety := r } } h payloadError
    else
      match s.ilk.laneQm with
      | [] => s
      | h :: r => State.judgeHandover { s with ilk := { s.ilk with laneQm := r } } h payloadError

/-- An occurrence of a Timetable event as the Interlocking sees it: frames, captures and the golden slot. -/
def State.ilkEvent (s : State) (id count instant : Nat) : State :=
  if !s.boot.ilkVerified then s
  else
    let s := if id = s.hdwField 6 2 then
        State.dropMarks { s with ilk := { s.ilk with
          frame := count % 2 ^ 32, frameHist := (instant, count % 2 ^ 32) :: s.ilk.frameHist } }
      else s
    let s := s.capture 3 id instant count
    if id = s.hdwField 8 2 then s.goldenSlot instant count else s

end Sys2Proof.Machine
end

