-- ==== Sys2Proof/Machine/Timetable.lean ====
section
/-! DEFINITION. The Timetable: the time counter and its discipline, the event schedule, trigger outputs, capture inputs
and the freeze (R313 to R336). -/

namespace Sys2Proof.Machine

/-! ### The section TTSCHED as it reads (R324) -/

/-- A field of TTSCHED. -/
def State.ttField (s : State) (off n : Nat) : Nat := le (s.sec secTtsched) off n

/-- TIME_MODE in force (R315): NONE without a schedule. -/
def State.timeMode (s : State) : Nat := s.ttField 0x0C 1

/-- A signed byte of TTSCHED. -/
def State.ttSigned (s : State) (off : Nat) : Int :=
  if s.ttField off 1 < 128 then s.ttField off 1 else (s.ttField off 1 : Int) - 256

/-- LOST_OFFSET_NS. -/
def State.lostOffset (s : State) : Nat := s.ttField 0x18 4

/-- An event entry of a schedule (R324). -/
structure TtEvent where
  /-- EVENT_ID. -/
  id : Nat := 0
  /-- KIND: 1 PERIODIC, 2 FRAME, 3 CAPTURE, 4 ONCE. -/
  kind : Nat := 0
  /-- EFLAGS FREEZE. -/
  freeze : Bool := false
  /-- SRC. -/
  src : Nat := 0
  /-- DIV. -/
  div : Nat := 1
  /-- START, in nanoseconds. -/
  start : Nat := 0
  /-- PERIOD_NS. -/
  period : Nat := 0
  /-- OFFSET_NS. -/
  offset : Nat := 0
  deriving DecidableEq, Repr

/-- Event entry `k` of a schedule. -/
def ttEventAt (b : Bytes) (k : Nat) : TtEvent :=
  let o := 0x100 + 32 * k
  { id := le b o 2, kind := le b (o + 2) 1, freeze := bit (le b (o + 3) 1) 0, src := le b (o + 4) 1
    div := le b (o + 5) 1, start := le b (o + 8) 8 * 1000000000 + le b (o + 0x10) 4
    period := le b (o + 0x14) 4, offset := le b (o + 0x18) 4 }

/-- The events of a schedule. -/
def ttEvents (b : Bytes) : List TtEvent := (List.range (le b 4 2)).map (ttEventAt b)

/-- The events in force. -/
def State.events (s : State) : List TtEvent := ttEvents (s.sec secTtsched)

/-- A field of trigger entry `n`: 0 EVENT_ID, 2 TFLAGS, 4 WIDTH_NS, 8 DELAY_NS. -/
def State.trigField (s : State) (n off len : Nat) : Nat := s.ttField (0x20100 + 16 * n + off) len

/-- A field of capture entry `n`: 0 CFLAGS, 2 DEADTIME_US. -/
def State.capField (s : State) (n off len : Nat) : Nat := s.ttField (0x20300 + 8 * n + off) len

/-! ### The counter (R314) -/

/-- One reference cycle of the counter: 1 ns + RATE × 2⁻³² ns; it stands still under PORST_N and in a freeze. -/
def State.tick (s : State) : State :=
  if s.pins.porstN && s.tmt.freeze == .running then
    let v := ((s.tmt.nowFrac : Int) + 2 ^ 32 + s.tmt.rate).toNat
    s.modTmt fun t => { t with nowNs := t.nowNs + v / 2 ^ 32, nowFrac := v % 2 ^ 32 }
  else s

/-- The one step of the counter by `d` ns (R317, R319). The dead times, pulses and line timeouts in progress run on. -/
def State.stepTime (s : State) (d : Int) : State :=
  s.modTmt fun t =>
    let now := ((t.nowNs : Int) + d).toNat
    { t with
      nowNs := now, stepped := true, rate := 0, integ := 0, schedFrom := now, evFrom := []
      caps := tmap t.caps fun _ c => { c with last := c.last.map (· + d) }
      triggers := tmap t.triggers fun _ o => { o with pulseEnd := o.pulseEnd.map fun e => ((e : Int) + d).toNat }
      cams := tmap t.cams fun _ c => { c with lineBase := ((c.lineBase : Int) + d).toNat } }

/-! ### Validity (R318 to R320) -/

/-- Time becomes valid, unless it was withdrawn or a freeze has occurred since the last reset (R318, R335). -/
def State.grantTime (s : State) : State :=
  if s.tmt.lost || s.tmt.froze then s else s.modTmt fun t => { t with valid := true }

/-- A withdrawal of validity that had been granted: the cause TIME_LOST (R318). -/
def State.withdrawTime (s : State) : State :=
  if s.tmt.valid then (s.modTmt fun t => { t with valid := false, lost := true }).latch 0x0B 0 else s

/-- The limit of RATE and integ, 500 ppm (R314). -/
def rateLimit : Int := 2147483

/-- A value held within ±L. -/
def clampRate (v : Int) : Int := max (-rateLimit) (min rateLimit v)

/-- The servo of R317, with dt in ns; a division by 0 has no stated result and takes a free value, as does the first
accepted Sync after a warm reset with STEPPED set, which has no previous one (R320): its dt stands as 0. -/
def servo (integ off dt : Int) (free : Nat) : Int × Int :=
  if dt = 0 then
    (clampRate (Config.freeWord free 0).toInt, clampRate (Config.freeWord free 1).toInt)
  else
    let i := clampRate (integ - Int.tdiv (off * 2 ^ 28) dt)
    (i, clampRate (i - Int.tdiv (off * 2 ^ 31) dt))

/-- `off` as the register OFF holds it, saturated to 32 bits. -/
def satOff (off : Int) : Int := max (-(2 ^ 31)) (min (2 ^ 31 - 1) off)

/-- An accepted Sync with its `off` (R317, R318, R320): the first one steps the time, the others adjust RATE. -/
def State.syncApply (s : State) (off : Int) : State :=
  let s :=
    if !s.tmt.stepped then (s.stepTime (-off)).grantTime
    else
      let dt := match s.tmt.lastSync with | some l => (s.now : Int) - l | none => 0
      let d := s.draw
      let r := servo s.tmt.integ off dt d.1
      let s := (if dt = 0 then d.2 else s).modTmt fun t => { t with integ := r.1, rate := r.2 }
      if off.natAbs ≤ s.lostOffset then s.grantTime else s
  let run := if off.natAbs > s.lostOffset then min (s.tmt.lostRun + 1) 4 else 0
  let s := s.modTmt fun t =>
    { t with
      offset := satOff off, syncAccepted := wrapInc 16 t.syncAccepted, holdover := false
      lastSync := some t.nowNs, lostRun := run % 4 }
  if run = 4 then s.withdrawTime else s

/-! ### gPTP (R316, R317) -/

/-- The PTP engine runs on an Ethernet MAC in a domain. -/
def State.ptpOn (s : State) (mac dom : Nat) : Bool :=
  (s.timeMode == 1 || s.timeMode == 2) && s.ttField 0x0D 1 == mac && s.ttField 0x0E 1 == dom

/-- GPTP_SYNC (R316, R317): a Sync, complete with its origin time and correctionField (2⁻¹⁶ ns), at its ingress. -/
def execGptpSync (mac ptpDomain identity originNs : Nat) (correction : Int) (wellFormed : Bool) (instant : Nat)
    (s : State) : Out :=
  act s fun s =>
    let s := s.reach instant
    if s.timeMode ≠ 1 ∨ s.ttField 0x0D 1 ≠ mac then s
    else if !wellFormed || s.ttField 0x0E 1 != ptpDomain
        || (s.ttField 0x20 8 != 0 && s.ttField 0x20 8 != identity) then
      s.modTmt fun t => { t with syncRejected := sat16 t.syncRejected }
    else if !s.tmt.pdelay.done then s
    else s.syncApply ((s.now : Int) - (originNs + Int.tdiv correction 65536 + s.tmt.pdelay.meanDelay))

/-- An event message leaves the PTP engine. -/
def State.ptpSend (s : State) (kind seq : Nat) : State :=
  s.modTmt fun t => { t with ptpSent := t.ptpSent ++
    [{ kind := kind, mac := s.ttField 0x0D 1, seq := seq, timeNs := t.nowNs }] }

/-- PDELAY_REQ (R316): answered as peer-delay responder. -/
def execPdelayReq (mac ptpDomain seq instant : Nat) (s : State) : Out :=
  act s fun s =>
    let s := s.reach instant
    if s.ptpOn mac ptpDomain then s.ptpSend 3 seq else s

/-- The mean link delay of one exchange: ((t4 − t1) × r − (t3 − t2)) / 2, with the neighbour rate ratio r from the last two
responses (IEEE 802.1AS-2020, which R316 names). PRESUMED. -/
def linkDelay (p : Pdelay) (t2 t3 t4 : Nat) : Int :=
  let num : Int := if p.done && t4 != p.lastT4 then (t3 : Int) - p.lastT3 else 1
  let den : Int := if p.done && t4 != p.lastT4 then (t4 : Int) - p.lastT4 else 1
  Int.tdiv (Int.tdiv (((t4 : Int) - p.t1) * num) den - ((t3 : Int) - t2)) 2

/-- PDELAY_RESP (R316): completes the exchange in progress. -/
def execPdelayResp (mac ptpDomain seq t2 t3 instant : Nat) (s : State) : Out :=
  act s fun s =>
    let s := s.reach instant
    if s.ptpOn mac ptpDomain && s.tmt.pdelay.awaiting && s.tmt.pdelay.reqSeq == seq then
      s.modTmt fun t => { t with pdelay := { t.pdelay with
        awaiting := false, done := true, meanDelay := linkDelay t.pdelay t2 t3 t.nowNs, lastT3 := t3, lastT4 := t.nowNs } }
    else s

/-- PDELAY_INTERVAL (R316): a Pdelay_Req is sent. -/
def execPdelayInterval (instant : Nat) (s : State) : Out :=
  act s fun s =>
    let s := s.reach instant
    if s.timeMode = 1 ∨ s.timeMode = 2 then
      let seq := wrapInc 16 s.tmt.pdelay.reqSeq
      (s.ptpSend 2 seq).modTmt fun t => { t with pdelay := { t.pdelay with
        reqSeq := seq, t1 := t.nowNs, awaiting := true } }
    else s

/-- SYNC_INTERVAL (R316): in GM mode a one-step Sync is sent. -/
def execSyncInterval (instant : Nat) (s : State) : Out :=
  act s fun s =>
    let s := s.reach instant
    if s.timeMode = 2 then
      let seq := wrapInc 16 s.tmt.syncSeq
      (s.ptpSend 0 seq).modTmt fun t => { t with syncSeq := seq }
    else s

/-- The time is disciplined by Syncs: GPTP_SLAVE or MAWYN (R315, R443). -/
def State.syncMode (s : State) : Bool := s.timeMode == 1 || s.timeMode == 3

/-- SYNC_TIMEOUT (R318): SYNC_TIMEOUT_MS after the last accepted Sync the Timetable enters holdover. -/
def execSyncTimeout (s : State) : Out :=
  act s fun s =>
    match s.tmt.lastSync with
    | some l =>
      if s.syncMode && !s.tmt.holdover then
        (s.reach (l + s.ttField 0x12 2 * 1000000).toNat).modTmt fun t => { t with holdover := true, rate := t.integ }
      else s
    | none => s

/-- HOLDOVER_TIMEOUT (R318): HOLDOVER_MS later validity is withdrawn. -/
def execHoldoverTimeout (s : State) : Out :=
  act s fun s =>
    match s.tmt.lastSync with
    | some l =>
      if s.syncMode && s.tmt.holdover then
        (s.reach (l + (s.ttField 0x12 2 + s.ttField 0x14 2) * 1000000).toNat).withdrawTime
      else s
    | none => s

/-- The time-set command takes effect (R319, R458): the one step of GM mode, against the stamp it is set at. -/
def State.timeSet (s : State) (valueNs stamp : Nat) : State :=
  ((s.stepTime ((valueNs : Int) - stamp)).grantTime).modTmt fun t => { t with armedSet := none }

/-- TIME_SET_LAPSE (R458): an armed time-set with no accepted edge lapses after 2 s. -/
def execTimeSetLapse (s : State) : Out :=
  act s fun s =>
    match s.tmt.armedSet with
    | some a => (s.reach a.lapseNs).modTmt fun t => { t with armedSet := none }
    | none => s

/-! ### Freeze (R331 to R335) -/

/-- A freeze starts: the latch forces SAFE_N low and the triggers inactive, and the counter stops. A second source
changes nothing. -/
def State.startFreeze (s : State) (byEvent : Bool) (atNs : Nat) : State :=
  if s.tmt.freeze != .running then s
  else
    (s.draw.2.modTmt fun t =>
      { t with
        freeze := .latched, freezeNs := atNs, freezeByEvent := byEvent, freezeValid := true, froze := true
        validAtFreeze := t.valid
        triggers := tmap t.triggers fun _ o => { o with asserted := false, pulseEnd := none } }).driveSafeN false

/-- FREEZE (R331, R332): FREEZE_N goes low. -/
def execFreeze (s : State) : Out :=
  let t := { s with pins := { s.pins with freezeN := false } }
  .next (if s.pins.porstN && s.pins.resetN then t.startFreeze false t.now else t)

/-- FREEZE_GATED (R332 steps 4 and 5): the controller groups enter self-refresh and every running domain is gated. -/
def execFreezeGated (s : State) : Out :=
  act s fun s =>
    if s.tmt.freeze = .latched then
      let s := s.modTmt fun t => { t with freeze := .frozen }
      { s with
        dram := tmap s.dram fun _ d => if d.state = .on then { d with state := .selfRefresh } else d
        clocks := tmap s.clocks fun _ c => if c.state = .on then { c with state := .frozen } else c }
    else s

/-- A freeze is released (R335): the domains restart, the counter resumes with STEPPED cleared, and validity that stood
at the freeze is lost. -/
def State.releaseFreeze (s : State) : State :=
  if s.tmt.freeze = .running then s
  else
    let s := s.modTmt fun t => { t with freeze := .running, stepped := false }
    let s : State :=
      { s with
        dram := tmap s.dram fun _ d => if d.state = .selfRefresh then { d with state := .on } else d
        clocks := tmap s.clocks fun _ c => if c.state = .frozen then { c with state := .on, stepInWindow := true } else c }
    s.withdrawTime

/-- FREEZE_RELEASE (R335): FREEZE_N has been high for 1 µs; a freeze that it started ends. -/
def execFreezeRelease (s : State) : Out :=
  let t := { s with pins := { s.pins with freezeN := true } }
  .next (if s.tmt.freeze != .running && !s.tmt.freezeByEvent then t.releaseFreeze else t)

/-! ### Events (R325 to R327) -/

/-- The instant at which an event occurs next, with the frame that caused it. -/
def State.nextOf (s : State) (e : TtEvent) : Option PendingEvent :=
  match e.kind with
  | 1 =>
    if !s.tmt.stepped then none
    else
      let f := max s.tmt.schedFrom (tget 0 s.tmt.evFrom e.id)
      let k := if f ≤ e.start then 0 else (f - e.start + e.period - 1) / max 1 e.period
      some { id := e.id, instant := e.start + k * e.period }
  | 4 =>
    if !s.tmt.stepped || e.start < s.tmt.schedFrom || s.tmt.onceDone.contains (e.id, e.start) then none
    else some { id := e.id, instant := e.start }
  | _ => none

/-- An occurrence comes before another: earlier, or at one instant with the lower identifier (R327). -/
def PendingEvent.before (a b : PendingEvent) : Bool := a.instant < b.instant || (a.instant == b.instant && a.id < b.id)

/-- The first of a list of occurrences. -/
def firstEvent : List PendingEvent → Option PendingEvent
  | [] => none
  | e :: r =>
    match firstEvent r with
    | some f => if f.before e then some f else some e
    | none => some e

/-- The occurrence that comes next. -/
def State.nextEvent (s : State) : Option PendingEvent :=
  firstEvent (s.events.filterMap s.nextOf ++ s.tmt.pendingEv)

/-- Change trigger output `n`. -/
def State.modTrig (s : State) (n : Nat) (f : TrigOut → TrigOut) : State :=
  s.modTmt fun t => { t with triggers := tmod {} t.triggers n f }

/-- The trigger outputs that an event drives take their edges (R329): DELAY_NS after the occurrence, or 100 ns after the
source stamp where OFFSET_NS + DELAY_NS is shorter. -/
def State.armTriggers (s : State) (e : TtEvent) (instant : Nat) : State :=
  ((List.range 32).filter fun n => s.trigField n 0 2 == e.id).foldl (fun s n =>
    let d := s.trigField n 8 4
    let edge := if (e.kind == 2 || e.kind == 3) && e.offset + d < 100 then instant - e.offset + 100 else instant + d
    s.modTrig n fun o => { o with due := o.due ++ [edge] }) s

/-- An event occurs (R325 to R327): its count advances, the Interlocking and the Signal box see it, its triggers are
armed, and EFLAGS FREEZE starts a freeze. -/
def State.occur (s : State) (e : TtEvent) (p : PendingEvent) : State :=
  let count := if e.kind = 2 then p.frame else wrapInc 32 (s.eventCount e.id)
  let s := s.modTmt fun t =>
    { t with
      evCount := tset t.evCount e.id count, evLast := tset t.evLast e.id p.instant
      evFrom := if e.kind = 1 then tset t.evFrom e.id (p.instant + 1) else t.evFrom
      onceDone := if e.kind = 4 then t.onceDone ++ [(e.id, e.start)] else t.onceDone
      pendingEv := t.pendingEv.erase p }
  let s := (s.ilkEvent e.id count p.instant).settle
  let s := s.armTriggers e p.instant
  if e.freeze then s.startFreeze true p.instant else s

/-- TIMETABLE_EVENT (R325): the occurrence that comes next. -/
def execTimetableEvent (s : State) : Out :=
  act s fun s =>
    if s.tmt.freeze != .running then s
    else
      match s.nextEvent with
      | none => s
      | some p =>
        let s := s.reach p.instant
        match s.events.find? fun e => e.id == p.id with
        | some e => s.occur e p
        | none => s.modTmt fun t => { t with pendingEv := t.pendingEv.erase p }

/-- The occurrences of FRAME or CAPTURE events that a stamp of their source causes (R325). -/
def SourceStamp.causes (x : SourceStamp) (events : List TtEvent) : List PendingEvent :=
  (events.filter fun e => e.kind == x.kind && e.src == x.src && x.number % max 1 e.div == 0).map fun e =>
    { id := e.id, instant := x.stamp + e.offset, frame := if x.kind = 2 then x.number else 0 }

/-- A source of FRAME or CAPTURE events takes a stamp (R325). -/
def State.sourceEvents (s : State) (kind src stamp number : Nat) : State :=
  let x : SourceStamp := { kind := kind, src := src, stamp := stamp, number := number }
  s.modTmt fun t =>
    { t with
      pendingEv := t.pendingEv ++ x.causes s.events
      stamps := (t.stamps.filter fun y => stamp < y.stamp + 1000000000) ++ [x] }

/-! ### Trigger outputs (R329) -/

/-- Trigger output `n`. -/
def State.trig (s : State) (n : Nat) : TrigOut := tget {} s.tmt.triggers n

/-- The level of TRIG[n] (R329): inactive without a schedule and in a freeze; an unused output is low. -/
def State.trigLevel (s : State) (n : Nat) : Bool :=
  let low := s.trigField n 0 2 != 0 && bit (s.trigField n 2 1) 0
  ((s.trig n).asserted && s.tmt.freeze == .running) != low

/-- TRIGGER_EDGE (R329): the next edge of an output lands. -/
def execTriggerEdge (output : Nat) (s : State) : Out :=
  act s fun s =>
    match (s.trig output).due with
    | [] => s
    | t :: r =>
      if s.tmt.freeze != .running then s
      else
        let s := (s.reach t).modTrig output fun o => { o with due := r }
        if s.trigField output 0 2 = 0 then s
        else if bit (s.trigField output 2 1) 1 then s.modTrig output fun o => { o with asserted := !o.asserted }
        else
          let inPulse := match (s.trig output).pulseEnd with | some e => decide (t < e) | none => false
          let s := if inPulse then s.modTmt fun t => { t with trigOverlap := sat16 t.trigOverlap } else s
          s.modTrig output fun o =>
            { o with asserted := true, pulseEnd := some (t + s.trigField output 4 4) }

/-- TRIGGER_PULSE_END (R329): the pulse in progress ends. -/
def execTriggerPulseEnd (output : Nat) (s : State) : Out :=
  act s fun s =>
    match (s.trig output).pulseEnd with
    | some e =>
      if s.tmt.freeze != .running then s
      else (s.reach e).modTrig output fun o => { o with asserted := false, pulseEnd := none }
    | none => s

/-! ### Capture inputs (R330) -/

/-- Capture input `n`. -/
def State.cap (s : State) (n : Nat) : CapInput := tget {} s.tmt.caps n
/-- Change capture input `n`. -/
def State.modCap (s : State) (n : Nat) (f : CapInput → CapInput) : State :=
  s.modTmt fun t => { t with caps := tmod {} t.caps n f }

/-- An input's entry selects an edge of a polarity. -/
def State.capSelects (s : State) (n : Nat) (falling : Bool) : Bool :=
  let f := s.capField n 0 1
  bit f 0 && (bit f 2 || bit f 1 == falling)

/-- The dead time of an input still runs at a stamp. -/
def State.capDead (s : State) (n stamp : Nat) : Bool :=
  match (s.cap n).last with
  | some l => l ≤ stamp && (stamp : Int) < l + 1000 * s.capField n 2 2
  | none => false

/-- An edge is accepted: numbered, put into the FIFO, and given to Headway and the CAPTURE events. -/
def State.acceptEdge (s : State) (n stamp : Nat) (falling : Bool) : State :=
  let no := wrapInc 32 (s.cap n).edgeNo
  let s := s.modCap n fun c =>
    if c.fifo.length ≥ 16 then { c with last := some stamp, edgeNo := no, overflow := sat8 c.overflow }
    else { c with last := some stamp, edgeNo := no, fifo := c.fifo ++ [(stamp, falling)] }
  (s.capture 2 n stamp no).sourceEvents 3 n stamp no

/-- CAPTURE_EDGE (R330): an edge of CAP[n] whose level held for `heldNs`; an armed time-set of the input takes place at
its stamp (R458). -/
def execCaptureEdge (input : Nat) (falling : Bool) (heldNs instant : Nat) (s : State) : Out :=
  act s fun s =>
    let s := s.reach instant
    if s.tmt.freeze != .running || heldNs < 20 || !(s.capSelects input falling) then s
    else if s.capDead input instant then s.modCap input fun c => { c with ignored := sat8 c.ignored }
    else
      match s.tmt.armedSet with
      | some a =>
        if a.src = input + 1 then (s.timeSet a.valueNs instant).acceptEdge input a.valueNs falling
        else s.acceptEdge input instant falling
      | none => s.acceptEdge input instant falling

/-! ### Reads with an effect (R336) -/

/-- TMT_NOW_READ (R336): the read of TMT_NOW_SEC over a path answers SEC and latches NS and FRAC. -/
def execTmtNowRead (path : Nat) (s : State) : Out :=
  act s fun s =>
    let s := s.modTmt fun t =>
      { t with nowLatch := tset t.nowLatch path (t.nowNs % 1000000000, t.nowFrac / 65536) }
    { s with resp := { kind := .data, bytes := leBytes 8 (s.now / 1000000000) } }

/-- CAP_FIFO_POP (R336): the read of TMT_CAP_NS answers the head of the FIFO and pops it. -/
def execCapFifoPop (input : Nat) (s : State) : Out :=
  act s fun s =>
    match (s.cap input).fifo with
    | [] => { s with resp := { kind := .data, bytes := leBytes 4 0 } }
    | (t, f) :: r =>
      { (s.modCap input fun c => { c with fifo := r }) with
        resp := { kind := .data, bytes := leBytes 4 (t % 1000000000 + 2 ^ 30 * b2n f + 2 ^ 31) } }

/-! ### A schedule takes effect (R314, R326, R328) -/

/-- TTSCHED is applied at start-up (R314, R326, R330): counts and edge numbers start over, and with NONE or GPTP_GM RATE
and integ are zeroed. -/
def State.scheduleStart (s : State) : State :=
  s.modTmt fun t =>
    let free := s.timeMode == 0 || s.timeMode == 2
    { t with
      evCount := s.events.map (fun e => (e.id, 0)) |>.foldl (fun m e => tset m e.1 e.2) []
      evLast := [], evFrom := [], onceDone := [], pendingEv := [], stamps := [], schedFrom := t.nowNs
      caps := tmap t.caps fun _ c => { c with edgeNo := 0 }
      rate := if free then 0 else t.rate, integ := if free then 0 else t.integ }

/-- A reloaded TTSCHED takes effect at the instant `due` (R59, R328): kept identifiers keep their counts, and instants
that have passed never occur. Occurrences due before the swap come from the old schedule, and those due at or after it from
the new one, also where their frame start or edge came before it. -/
def State.scheduleSwap (s : State) (new : Bytes) (due : Nat) : State :=
  let s := { s with sections := tset s.sections secTtsched new }
  s.modTmt fun t =>
    { t with
      evCount := s.events.foldl (fun m e => tset m e.id (tget 0 t.evCount e.id)) []
      evLast := t.evLast.filter fun e => s.events.any fun x => x.id == e.1
      evFrom := (t.evLast.filter fun e => due ≤ e.2).map fun e => (e.1, e.2 + 1)
      onceDone := t.onceDone.filter fun e => due ≤ e.2
      schedFrom := due
      pendingEv := (t.pendingEv.filter fun p => p.instant < due && s.events.any fun x => x.id == p.id)
        ++ (t.stamps.flatMap fun x => x.causes s.events).filter fun p => due ≤ p.instant }

end Sys2Proof.Machine
end

