-- ==== Sys2Proof/Machine/Camera.lean ====
section
/-! DEFINITION. The camera receiver ports: frames, lines, their writes and acknowledgements, truncation and RESYNC
(R322, R323, R464). -/

namespace Sys2Proof.Machine

/-- Camera port `p`. -/
def State.cam (s : State) (p : Nat) : CamPort := tget {} s.tmt.cams p
/-- Change camera port `p`. -/
def State.modCam (s : State) (p : Nat) (f : CamPort → CamPort) : State :=
  s.modTmt fun t => { t with cams := tmod {} t.cams p f }

/-- A field of the port's IOPLAN entry (R467). -/
def State.camField (s : State) (p off n : Nat) : Nat := le (s.sec secIoplan) (0x40 + 64 * p + off) n

/-- The port's current frame. -/
def CamPort.cur (c : CamPort) : Option CamFrame := c.frames.head?

/-- A frame is open on the port. -/
def CamPort.isOpen (c : CamPort) : Bool := match c.frames with | f :: _ => f.isOpen | [] => false

/-- Change the current frame. -/
def CamPort.modCur (c : CamPort) (f : CamFrame → CamFrame) : CamPort :=
  match c.frames with
  | x :: r => { c with frames := f x :: r }
  | [] => c

/-- The lowest line of a frame whose write is not acknowledged. -/
def lowestWrite (frame : Nat) : List LineWrite → Option Nat
  | [] => none
  | w :: r =>
    match lowestWrite frame r with
    | some l => if w.frame = frame then some (min w.line l) else some l
    | none => if w.frame = frame then some w.line else none

/-- The acknowledged lines of a frame, in line order, and whether its final count is decided (R322). -/
def CamFrame.recount (f : CamFrame) (ws : List LineWrite) : CamFrame :=
  match lowestWrite f.frame ws with
  | some l => { f with lines := min l f.received }
  | none => { f with lines := f.received, final := !f.isOpen }

/-- The counts of the port's frames that are not decided follow its writes. -/
def CamPort.recount (c : CamPort) : CamPort :=
  { c with frames := c.frames.map fun f => if f.final then f else f.recount c.writes }

/-- The open frame is truncated (R323). -/
def CamPort.truncate (c : CamPort) : CamPort :=
  if c.isOpen then c.modCur fun f => { f with isOpen := false, truncated := true } else c

/-- What the Signal box holds of a port: the current frame and the 8 before it (R132); its camera conditions are then
evaluated. -/
def State.camSeen (s : State) (p : Nat) : State :=
  let s := s.modCam p CamPort.recount
  let l := ((s.cam p).frames.take 9).map fun f =>
    ({ frame := f.frame, lines := f.lines, final := f.final, truncated := f.truncated } : CamHist)
  State.settle { s with sbx := { s.sbx with cams := tset s.sbx.cams p l } }

/-- LINE_TIMEOUT_US and FS_COMP_NS of a port; without TTSCHED 1,000 and 0 (R315). -/
def State.camTiming (s : State) (p : Nat) : Nat × Nat :=
  if s.sec secTtsched = [] then (1000, 0) else (s.ttField (0x40 + 8 * p) 2, s.ttField (0x42 + 8 * p) 2)

/-- A packet belongs to the port: the port is enabled and the virtual channel is its own (R464). -/
def State.camTakes (s : State) (p vc : Nat) : Bool := s.camEnabled p && s.camField p 4 1 == vc

/-- FRAME_START (R322): the frame number advances, the stamp is taken, and an open frame is truncated. -/
def execFrameStart (port vc instant : Nat) (s : State) : Out :=
  act s fun s =>
    if !(s.camTakes port vc) || s.tmt.freeze != .running then s
    else
      let s := s.reach instant
      let no := wrapInc 32 (s.cam port).number
      let stamp := instant - (s.camTiming port).2
      let s := s.modCam port fun c =>
        let c := c.truncate
        { c with
          number := no, frames := ({ frame := no, stamp := stamp } :: c.frames).take 16
          resync := false, lineBase := instant, timeoutNs := (s.camTiming port).1 * 1000 }
      let s := s.camSeen port
      (s.capture 1 port stamp no).sourceEvents 2 port stamp no

/-- RAW10 and RAW12 pixels of a packet, each as a 16-bit word (R464): four pixels in five bytes, or two in three, the low
bits together in the last byte (MIPI CSI-2, which R463 names). PRESUMED. -/
def unpackPixels (per width : Nat) : Nat → Bytes → Bytes
  | 0, _ => []
  | k + 1, b =>
    if b.length ≤ per then []
    else
      (List.range per).flatMap (fun i =>
          leBytes 2 (byteAt b i * 2 ^ width + fld (byteAt b per) (width * i) width))
        ++ unpackPixels per width k (b.drop (per + 1))

/-- A line's bytes as the port writes them (R464). -/
def State.lineBytes (s : State) (p : Nat) (data : Bytes) : Bytes :=
  let out :=
    if !(bit (s.camField p 6 1) 0) then data
    else if s.camField p 5 1 = 0x2B then unpackPixels 4 2 data.length data
    else if s.camField p 5 1 = 0x2C then unpackPixels 2 4 data.length data
    else data
  out.take (s.camField p 0x18 4)

/-- A write in pieces that do not cross a page; it stops at the first piece that is denied. -/
def State.devWritePages (o : Origin) : Nat → Nat → Nat → Bytes → State → State
  | 0, _, _, _, s => s
  | k + 1, tag, a, bs, s =>
    if bs = [] then s
    else
      let n := 4096 - a % 4096
      let s := s.devAccess o tag a (bs.take n).length true (bs.take n)
      if s.resp.kind = .error then s else State.devWritePages o k tag (a + n) (bs.drop n) s

/-- LINE_PACKET (R464, R323). -/
def execLinePacket (port vc dt : Nat) (data : Bytes) (crcError : Bool) (instant : Nat) (s : State) : Out :=
  act s fun s =>
    if !(s.camTakes port vc) || s.camField port 5 1 != dt || s.tmt.freeze != .running then s
    else
      let s := s.reach instant
      let c := s.cam port
      if c.resync || !c.isOpen then s.modCam port fun c => { c with orphanLines := satAdd 14 c.orphanLines 1 }
      else
        let s := s.modCam port fun c => { c with lineBase := instant }
        match c.cur with
        | none => s
        | some f =>
          if f.received ≥ s.camField port 0x16 2 then
            s.modCam port fun c => { c with orphanLines := satAdd 14 c.orphanLines 1 }
          else
            let a := s.camField port 8 8 % 2 ^ 48 + f.frame % max 1 (s.camField port 0x14 2) * s.camField port 0x10 4
              + f.received * s.camField port 0x18 4
            let bs := s.lineBytes port data
            let s := State.devWritePages (.line port f.frame f.received) (bs.length / 4096 + 2) (s.camTag port) a bs s
            let denied := s.resp.kind == .error && bs != []
            s.modCam port fun c =>
              let c := c.modCur fun f => { f with received := f.received + 1 }
              { c with
                crcErrors := if crcError then sat16 c.crcErrors else c.crcErrors
                writes := c.writes ++ [{ frame := f.frame, line := f.received, denied := denied }] }

/-- LINE_ACK (R322): a line write is acknowledged, which one that is still held is not; lines count in line order. -/
def execLineAck (port frame line : Nat) (s : State) : Out :=
  act s fun s =>
    let w : LineWrite := { frame := frame, line := line }
    if (s.cam port).writes.contains w && !(s.awaits (.line port frame line)) then
      (s.modCam port fun c => { c with writes := c.writes.erase w }).camSeen port
    else s

/-- LINE_WRITE_DENIED (R464): the frame is truncated at the denied line, which with every later line does not count, and
the port enters RESYNC where the frame is its current one. -/
def execLineWriteDenied (port frame line : Nat) (s : State) : Out :=
  act s fun s =>
    let w : LineWrite := { frame := frame, line := line, denied := true }
    if (s.cam port).writes.contains w then
      (s.modCam port fun c =>
        { c with
          resync := c.resync || (match c.frames with | f :: _ => f.frame == frame && f.isOpen | [] => false)
          writes := c.writes.filter fun x => !(x.frame == frame && line ≤ x.line)
          frames := c.frames.map fun f =>
            if f.frame = frame then
              { f with isOpen := false, truncated := true, received := min f.received line }
            else f }).camSeen port
    else s

/-- FRAME_END (R322): the frame is closed. -/
def execFrameEnd (port vc : Nat) (s : State) : Out :=
  act s fun s =>
    if !(s.camTakes port vc) || (s.cam port).resync || !(s.cam port).isOpen then s
    else (s.modCam port fun c => c.modCur fun f => { f with isOpen := false }).camSeen port

/-- LINE_TIMEOUT (R323): the open frame is truncated and the port enters RESYNC. -/
def execLineTimeout (port : Nat) (s : State) : Out :=
  act s fun s =>
    if !(s.cam port).isOpen || s.tmt.freeze != .running then s
    else
      let s := s.reach ((s.cam port).lineBase + (s.cam port).timeoutNs)
      (s.modCam port fun c => { c.truncate with resync := true }).camSeen port

/-- UNCORRECTABLE_HEADER (R464): counted; the open frame is truncated at once and the port enters RESYNC. -/
def execUncorrectableHeader (port : Nat) (s : State) : Out :=
  act s fun s =>
    if !(s.camEnabled port) then s
    else
      (s.modCam port fun c => { c.truncate with resync := true, hdrErrors := sat16 c.hdrErrors }).camSeen port

end Sys2Proof.Machine
end

