-- ==== Sys2Proof/Machine/CoreCache.lean ====
section
/-! DEFINITION. The caches of the application cores (R12, R375): the three clusters are coherent with one another, so one set
of lines stands for them all; no other requester sees it. -/

namespace Sys2Proof.Machine

/-- Change the cached lines. -/
def State.setLines (s : State) (l : Table CoreLine) : State := { s with slc := { s.slc with coreLines := l } }

/-- An access under a tag may hit a line (R375): its tag is the line's; with ISOLATION clear only lines of the ENCLAVE world
are matched. -/
def State.lineMatches (s : State) (l : CoreLine) (tag : Nat) : Bool :=
  l.tag == tag || (!s.boot.isolation && worldClass (worldOf l.tag) != .enclave)

/-- A line is written back under its recorded tag where it is dirty (R375). -/
def State.writeBack (s : State) (n : Nat) : State :=
  match tfind s.slc.coreLines n with
  | none => s
  | some l =>
    if !l.dirty then s
    else
      let s := s.setLines (tset s.slc.coreLines n { l with dirty := false })
      match s.blockAccess l.tag (64 * n) 64 true l.data with
      | some acc => s.access { acc with fromCore := true }
      | none => s.answerError .other .denied

/-- A line leaves the caches. -/
def State.dropLine (s : State) (n : Nat) : State := s.setLines (tdel s.slc.coreLines n)

/-- A line that an access hits is read or written. -/
def State.hitLine (s : State) (n : Nat) (l : CoreLine) (off len : Nat) (write : Bool) (data : Bytes) : State :=
  if write then
    (s.setLines (tset s.slc.coreLines n { l with dirty := true, data := patch l.data off data })).answerData .other []
  else (s.setLines (tset s.slc.coreLines n l)).answerData .other (slice l.data off len)

/-- A cached access within one line (R375): on a mismatch the line is written back and leaves, and a miss refills it through
the Sluice under the hart's tag. -/
def State.lineAccess (s : State) (tag a len : Nat) (write : Bool) (data : Bytes) : State :=
  let n := a / 64
  let s := match tfind s.slc.coreLines n with
    | some l => if s.lineMatches l tag then s else (s.writeBack n).dropLine n
    | none => s
  match tfind s.slc.coreLines n with
  | some l => s.hitLine n l (a % 64) len write data
  | none =>
    let q := s.fetchAt tag (64 * n) 64
    match q.2 with
    | .got b => q.1.hitLine n { tag := tag, data := b } (a % 64) len write data
    | .failed => q.1
    | .waits => { q.1 with resp := { kind := .held } }

/-- The lines that the tags of some worlds own are written back and leave (R391). -/
def State.flushWorlds (s : State) (worlds : Nat → Bool) : State :=
  (s.slc.coreLines.filter fun e => worlds (worldOf e.2.tag)).foldl (fun s e => (s.writeBack e.1).dropLine e.1) s

/-- The pieces of an access, one for each line it covers: address and length. -/
def linePieces (a len : Nat) : List (Nat × Nat) :=
  (List.range ((a + len + 63) / 64 - a / 64)).map fun k =>
    let lo := max a (64 * (a / 64 + k))
    (lo, min (a + len) (64 * (a / 64 + k + 1)) - lo)

/-- A cached access, line by line; it ends with the first line that is not answered with data. -/
def State.cachedAccess (s : State) (tag a len : Nat) (write : Bool) (data : Bytes) : State :=
  (linePieces a len).foldl (fun s p =>
    if s.resp.kind ≠ .data then s
    else
      let t := s.lineAccess tag p.1 p.2 write (slice data (p.1 - a) p.2)
      if t.resp.kind = .data then { t with resp := { kind := .data, bytes := s.resp.bytes ++ t.resp.bytes } } else t)
    { s with resp := { kind := .data } }

/-- The lines that an access covers leave the caches, or are only cleaned. -/
def State.maintain (s : State) (a len : Nat) (back leave : Bool) : State :=
  (linePieces a len).foldl (fun s p =>
    let n := p.1 / 64
    let s := if back then s.writeBack n else s
    if leave then s.dropLine n else s) { s with resp := { kind := .data } }

/-- A tag loses an access to a page that it had under its old entry. -/
def State.losesPage (s : State) (old new : OwnerEntry) (tag : Nat) : Bool :=
  [true, false].any fun w => s.pagePass old tag w && !(s.pagePass new tag w)

/-- Step 3 of a change of page owners (R373): the cached lines of the pages whose tag loses access under the new entry are
discarded where the pages are scrubbed, else written back, and leave. The write-back belongs to the change, so the Sluice
does not judge it again (DEDUCED, log entry 121). -/
def State.revokeLines (s : State) (first count : Nat) (scrub : Bool) (new : Nat → OwnerEntry) : State :=
  (s.slc.coreLines.filter fun e =>
    let p := e.1 * 64 / 4096
    first ≤ p && p < first + count && s.losesPage (s.owner p) (new p) e.2.tag).foldl (fun s e =>
      let s := if e.2.dirty && !scrub then s.wr (64 * e.1) e.2.data else s
      s.dropLine e.1) s

end Sys2Proof.Machine
end

