-- ==== Sys2Proof/Machine/Isolation.lean ====
section
/-! DEFINITION. Isolation: probes, page owners, enclaves and the gateway instructions, debug enables, region entries, and the
SLUICE and TAGS sections (R363 to R397). -/

namespace Sys2Proof.Machine

/-- SLUICE_PROBE (R366): a wrong answer of either probe is the cause CHECKER_MISMATCH. -/
def execSluiceProbe (sluice : Nat) (grantAnswered denyAnswered : Bool) (s : State) : Out :=
  act s fun s => if grantAnswered && !denyAnswered then s else s.latch 2 (0x0200 + sluice)

/-! ### Page requests (R371 to R373) -/

/-- OP. -/
def PageReq.op (r : PageReq) : Nat := byteAt r.bytes 0
/-- COUNT. -/
def PageReq.count (r : PageReq) : Nat := le r.bytes 4 4
/-- PAGE. -/
def PageReq.page (r : PageReq) : Nat := le r.bytes 8 4
/-- NEW_OWNER. -/
def PageReq.newOwner (r : PageReq) : Nat := fld (le r.bytes 0x0C 2) 0 12
/-- SHARE_TAG. -/
def PageReq.shareTag (r : PageReq) : Nat := fld (le r.bytes 0x0E 2) 0 12
/-- MODE TRANSFER of an ASSIGN. -/
def PageReq.transfer (r : PageReq) : Bool := r.op == 1 && byteAt r.bytes 1 == 1

/-- A reserved encoding of a page request (R371). -/
def PageReq.reserved (r : PageReq) : Bool :=
  r.op == 0 || r.op > 3 || byteAt r.bytes 1 > 1 || (r.op != 1 && byteAt r.bytes 1 != 0) || le r.bytes 2 2 != 0
    || r.count == 0 || r.count > 65536 || le r.bytes 0x0C 2 ≥ 4096 || (r.op != 1 && le r.bytes 0x0C 2 != 0)
    || le r.bytes 0x0E 2 ≥ 4096 || byteAt r.bytes 0x10 ≥ 8 || !(zeroAt r.bytes 0x11 7)
    || le r.bytes 0x18 8 ≥ 2 ^ 48 || le r.bytes 0x18 8 % 64 != 0

/-- First page of the owner table, and its page count (R369). -/
def State.ownerTablePages (s : State) : Nat × Nat := (le (s.sec secSluice) 0x0C 8 / 4096, s.dramSize / 1024 / 4096)

/-- The owner of a page is in the SAFETY world, or the request makes it so (R372). -/
def State.safetyPage (s : State) (r : PageReq) (p : Nat) : Bool :=
  (!(s.owner p).free && worldClass (worldOf (s.owner p).owner) == .safety)
    || (r.op == 1 && worldClass (worldOf r.newOwner) == .safety)

/-- The authority items of R372 for one page, in the table's order: each the STATUS if it is not met. -/
def State.pageItems (s : State) (r : PageReq) : List (Nat → Option Nat) :=
  let w := worldOf r.tag
  let device := worldClass w == .device
  [ fun p =>
      if s.safetyPage r p then (if worldClass w == .safety then none else some 6)
      else if s.privileged r.tag then none else some 2,
    fun p =>
      let t := s.ownerTablePages
      if p < s.dramSize / 4096 && !(t.1 ≤ p && p < t.1 + t.2) then none else some 4,
    fun p =>
      let e := s.owner p
      if !e.free && worldClass (worldOf e.owner) == .enclave then some 7
      else if e.free then
        if device then none
        else
          match s.findRegion 0 (p * 4096) with
          | some g => if bit g.wWorlds w then none else some 3
          | none => some 3
      else if worldOf e.owner = w || device then none else some 3,
    fun _ =>
      if r.op != 1 then none
      else if worldClass (worldOf r.newOwner) == .enclave then some 7
      else if worldOf r.newOwner = w || device then none else some 3,
    fun p =>
      let e := s.owner p
      if !r.transfer then none
      else if !e.free && (r.newOwner == adminOf e.owner || e.owner == adminOf r.newOwner
          || s.transferPair e.owner r.newOwner 25) then none
      else some 5 ]

/-- The STATUS of a page request and its first failing page; STATUS 0 where it passes (R372). -/
def State.pageCheck (s : State) (r : PageReq) : Nat × Nat :=
  if r.reserved then (1, r.page)
  else
    let pages := (List.range r.count).map (r.page + ·)
    match (s.pageItems r).findSome? fun item => pages.findSome? fun p => (item p).map fun st => (st, p) with
    | some e => e
    | none => (0, 0)

/-- The response line of a page request, under the requester's tag (R371). -/
def State.pageAnswer (s : State) (r : PageReq) (status page : Nat) : State :=
  let line := leBytes 1 status ++ leBytes 1 r.op ++ zeros 2 ++ leBytes 4 page ++ leBytes 4 r.count ++ zeros 52
  s.devWrite r.tag (fld (le r.bytes 0x18 8) 6 42 * 64) line

/-- PAGE_REQ_TAKE (R371): a write of bytes 0x18 to 0x1F queues the request; a full queue refuses it. -/
def execPageReqTake (tag : Nat) (data : Bytes) (s : State) : Out :=
  act s fun s =>
    let req := slice s.slc.pageSlot 0 24 ++ slice data 0 8
    if s.slc.pageQueue.length ≥ 64 then
      { s with slc := { s.slc with refused := sat16 s.slc.refused }, resp := { kind := .error } }
    else
      { s with slc := { s.slc with pageSlot := req, pageQueue := s.slc.pageQueue ++ [{ tag := tag, bytes := req }] },
               resp := { kind := .data } }

/-- Requests at the head with a reserved OP are answered, in order. -/
def State.pageDrain : Nat → State → State
  | 0, s => s
  | k + 1, s =>
    match s.slc.pageQueue with
    | [] => s
    | r :: rest =>
      if s.slc.handover.isSome || (1 ≤ r.op && r.op ≤ 3) then s
      else State.pageDrain k (({ s with slc := { s.slc with pageQueue := rest } } : State).pageAnswer r 1 r.page)

/-- The entry that an accepted request brings into force (R372). -/
def PageReq.entry (r : PageReq) : OwnerEntry :=
  if r.op = 3 then {}
  else
    { owner := r.newOwner, shareTag := r.shareTag, shareR := bit (byteAt r.bytes 0x10) 0
      shareW := bit (byteAt r.bytes 0x10) 1, result := bit (byteAt r.bytes 0x10) 2, free := false }

/-- The request at the head of the queue is checked, and its handover starts or it is answered (R372, R373 step 1). -/
def State.pageStart (s : State) (op : Nat) : State :=
  let s := State.pageDrain s.slc.pageQueue.length s
  match s.slc.pageQueue with
  | [] => s
  | r :: rest =>
    if s.slc.handover.isSome || r.op != op then s
    else
      let s := { s with slc := { s.slc with pageQueue := rest } }
      let q := s.pageCheck r
      if q.1 ≠ 0 then s.pageAnswer r q.1 q.2
      else
        let h : PageHandover :=
          { req := r, first := r.page, count := r.count, scrub := r.op == 3 || (r.op == 1 && !r.transfer)
            newEntry := r.entry, keepOwner := r.op == 2 }
        { s with slc := { s.slc with handover := some h } }

/-- ASSIGN (R372). -/
def execAssign (s : State) : Out := act s fun s => s.pageStart 1
/-- SET_SHARE (R372). -/
def execSetShare (s : State) : Out := act s fun s => s.pageStart 2
/-- PAGE_FREE (R372). -/
def execPageFree (s : State) : Out := act s fun s => s.pageStart 3

/-- The accesses that waited for new entries meet the Sluice again, in their order (R14). -/
def State.meetHeld (s : State) : State :=
  let l := s.slc.held
  l.foldl State.access { s with slc := { s.slc with held := [] } }

/-- The page handover in progress ends (R373 steps 3 to 5): the cached lines of tags that lose access leave, the pages are
scrubbed where the mode says so, the new entries come into force, held accesses proceed, and the response is written. -/
def State.pageHandoverDone (s : State) : State :=
  match s.slc.handover with
  | none => s
  | some h =>
    let s := s.revokeLines h.first h.count h.scrub s.newOwner
    let s := if h.scrub then s.zeroDram (h.first * 4096) (h.count * 4096) else s
    let owners := (List.range h.count).foldl (fun t i => tset t (h.first + i) (s.newOwner (h.first + i))) s.slc.owners
    let s := { s with slc := { s.slc with owners := owners, handover := none } }
    let s := s.meetHeld
    (State.pageDrain s.slc.pageQueue.length (s.pageAnswer h.req 0 0)).settle

/-- PAGE_HANDOVER_DONE (R373). -/
def execPageHandoverDone (s : State) : Out := act s State.pageHandoverDone

/-! ### Enclaves (R381, R382) -/

/-- The tag of an enclave. -/
def enclaveTag (n : Nat) : Nat := 0xF00 + n

/-- An enclave operation ends with an error code, 0 for none. -/
def State.encDone (s : State) (code : Nat) : State := { s with slc := { s.slc with encError := code } }

/-- The tag is a privileged tag of a world that may create enclaves. -/
def State.mayCreate (s : State) (tag : Nat) : Bool :=
  s.privileged tag && (worldClass (worldOf tag) == .normal || worldClass (worldOf tag) == .secure)

/-- The tag is a privileged tag of the enclave's creator world. -/
def State.isCreator (s : State) (tag n : Nat) : Bool := s.privileged tag && worldOf tag == (s.enclave n).creator

/-- DEBUG_ALLOWED of the running certificate. -/
def State.debugAllowed (s : State) : Bool := bit s.boot.certFlags 0

/-- ENCLAVE_CREATE (R381). -/
def execEnclaveCreate (tag enclave : Nat) (debug : Bool) (s : State) : Out :=
  act s fun s =>
    if (s.enclave enclave).state ≠ .empty then s.encDone 1
    else if !(s.mayCreate tag) then s.encDone 2
    else if debug && !s.debugAllowed then s.encDone 5
    else
      (s.modEnclave enclave fun _ => { state := .building, creator := worldOf tag, debug := debug }).encDone 0

/-- The measurement, 48 bytes. -/
def Enclave.m (e : Enclave) : Bytes := slice e.measure 0 48

/-- A page handover in progress on one of the pages ends before another change of their owners (R371, R373; DEDUCED, log
entry 58). -/
def State.pagesSettled (s : State) (pages : List Nat) : State :=
  match s.slc.handover with
  | none => s
  | some h => if pages.any fun p => h.first ≤ p && p < h.first + h.count then s.pageHandoverDone else s

/-- Pages pass to one owner as a unit: the cached lines of tags that lose access leave first (R373 step 3). -/
def State.revokePages (s : State) (pages : List Nat) (scrub : Bool) (new : OwnerEntry) : State :=
  pages.foldl (fun s p => s.revokeLines p 1 scrub fun _ => new) s

/-- ENCLAVE_ADD (R381): the pages pass to the enclave by TRANSFER and are measured in order. -/
def execEnclaveAdd (tag enclave type page count : Nat) (s : State) : Out :=
  act s fun s =>
    let pages := (List.range count).map (page + ·)
    let admin := (s.enclave enclave).creator * 256
    if (s.enclave enclave).state ≠ .building then s.encDone 1
    else if !(s.isCreator tag enclave) then s.encDone 2
    else
      let s := s.pagesSettled pages
      if !(pages.all fun p => !(s.owner p).free && (s.owner p).owner == admin) then s.encDone 3
      else
        let s := s.revokePages pages false { owner := enclaveTag enclave, free := false }
        let s := pages.foldl (fun s p =>
          let e := s.enclave enclave
          let m := Config.sha384 (e.m ++ leBytes 1 type ++ leBytes 4 e.pages.length ++ s.rd (p * 4096) 4096)
          let s := s.modEnclave enclave fun e => { e with measure := m, pages := e.pages ++ [(type, p)] }
          s.modOwner p fun _ => { owner := enclaveTag enclave, free := false }) s
        s.encDone 0

/-- The ENTRY page of an enclave, where it has exactly one whose fields are in range (R382). -/
def State.entryPage (s : State) (n : Nat) : Option Nat :=
  match (s.enclave n).pages.filter fun e => e.1 == 2 with
  | [(_, p)] =>
    let count := s.rdLe (p * 4096) 4
    if 1 ≤ count && count ≤ 16 && s.rdLe (p * 4096 + 4) 4 == 0
        && (List.range count).all fun i => s.rdLe (p * 4096 + 8 + 8 * i) 8 % 4 == 0 then some p else none
  | _ => none

/-- ENCLAVE_SEAL (R382): M is finalised and the ENTRY page checked. -/
def execEnclaveSeal (tag enclave : Nat) (s : State) : Out :=
  act s fun s =>
    let e := s.enclave enclave
    if e.state ≠ .building then s.encDone 1
    else if !(s.isCreator tag enclave) then s.encDone 2
    else if (s.entryPage enclave).isNone then s.encDone 4
    else
      (s.modEnclave enclave fun e =>
        { e with state := .ready, measure := Config.sha384 (e.m ++ leBytes 1 0xFF ++ leBytes 1 (b2n e.debug)) }).encDone 0

/-! ### The gateway (R383 to R386) -/

/-- An integer register; x0 reads 0. -/
def regGet (r : HartRegs) (k : Nat) : Nat := if k = 0 then 0 else tget 0 r.x k

/-- The registers with one integer register written; a write of x0 is discarded. -/
def regSet (r : HartRegs) (k v : Nat) : HartRegs := if k = 0 then r else { r with x := tset r.x k v }

/-- The save slot of hart `h` lies inside the enclave's SAVE pages (R382). -/
def Enclave.slotCovered (e : Enclave) (h : Nat) : Bool := 4 * (h + 1) ≤ (e.pages.filter fun p => p.1 == 3).length

/-- The four SAVE pages of slot `h`. -/
def Enclave.slotPages (e : Enclave) (h : Nat) : List Nat :=
  (((e.pages.filter fun p => p.1 == 3).map (·.2)).drop (4 * h)).take 4

/-- The registers of an enclave are written to slot `h`; the slot's byte layout is open. -/
def State.saveSlot (s : State) (n h : Nat) (r : HartRegs) : State :=
  let (i, s) := s.draw
  let s := ((s.enclave n).slotPages h).foldl (fun s p => s.wr (p * 4096) ((List.range 4096).map (Config.freeByte (i + p)))) s
  s.modEnclave n fun e => { e with slots := tset e.slots h r }

/-- The world whose debug enables act on a hart (R387): the SAFETY world for the real-time pairs and the Interlocking,
the creator's world in a DEBUG enclave, else the current tag's. -/
def State.debugWorld (s : State) (h : Nat) : Nat :=
  let x := s.hart h
  if h ≥ 16 then 1
  else if x.enclave ≠ 0 && (s.enclave x.enclave).debug then (s.enclave x.enclave).creator
  else worldOf x.tag

/-- A halt request that was held while the hart was inside its enclave meets the enables at the exit (R387). -/
def State.releaseHalt (s : State) (h : Nat) : State :=
  if (s.hart h).haltHeld then
    let ok := bit s.slc.dbgInv (s.debugWorld h)
    s.modHart h fun x => { x with haltHeld := false, debugHalted := ok || x.debugHalted }
  else s

/-- An asynchronous exit (R386). -/
def State.asyncExit (s : State) (h : Nat) : State :=
  let x := s.hart h
  if x.enclave = 0 then s
  else
    let s := s.saveSlot x.enclave h x.regs
    (s.modHart h fun x =>
      { x with
        regs := { pc := (x.savedPc + (2 ^ 64 - 4)) % 2 ^ 64, x := tset (tset [] 1 x.savedRa) 2 x.savedSp }
        tag := x.savedTag, enclave := 0, aex := true, xepc := (x.savedPc + (2 ^ 64 - 4)) % 2 ^ 64, xtval := 0 }).releaseHalt h

/-- ASYNC_EXIT (R386): any trap or interrupt inside an enclave. -/
def execAsyncExit (hart cause : Nat) (regs : HartRegs) (s : State) : Out :=
  act s fun s =>
    if (s.hart hart).enclave = 0 then s
    else ((s.modHart hart fun x => { x with regs := regs }).asyncExit hart).modHart hart fun x => { x with xcause := cause }

/-- An instruction that the hart refuses with an illegal-instruction exception. -/
def State.illegal (s : State) (h : Nat) (regs : HartRegs) : State :=
  s.modHart h fun x => { x with regs := regs, xepc := regs.pc, xcause := 2 }

/-- GATE.MARK (R383): a no-op outside an entry. -/
def execGateMark (hart : Nat) (regs : HartRegs) (s : State) : Out :=
  act s fun s => s.modHart hart fun x => { x with regs := { regs with pc := (regs.pc + 4) % 2 ^ 64 } }

/-- The code with which GATE.ENTER fails, 0 where it goes on (R384); an index of 2⁶⁴ − 1 resumes. -/
def State.enterCode (s : State) (h n index : Nat) : Nat :=
  let e := s.enclave n
  let count := match s.entryPage n with | some p => s.rdLe (p * 4096) 4 | none => 0
  if n = 0 ∨ n > 63 ∨ e.state ≠ .ready then 1
  else if (if index = 2 ^ 64 - 1 then (tfind e.slots h).isNone else decide (index ≥ count)) then 2
  else if (s.hart h).enclave ≠ 0 then 3
  else if !(e.slotCovered h) then 4
  else 0

/-- GATE.ENTER on success: the internal gate state, the tag and gatestat (R384 steps 1 to 3). -/
def State.gateTake (s : State) (h n rd : Nat) (level : HartLevel) (regs : HartRegs) : State :=
  s.modHart h fun x =>
    { x with
      savedPc := (regs.pc + 4) % 2 ^ 64, savedSp := regGet regs 2, savedRa := regGet regs 1, savedTag := s.coreTag h level, savedRd := rd
      tag := enclaveTag n, enclave := n, aex := false, gateFault := false }

/-- The first instruction at the entry is GATE.MARK fetched from a page of the enclave (R384). -/
def State.entryMarked (s : State) (n phys : Nat) : Bool :=
  let e := s.owner (phys / 4096)
  !e.free && e.owner == enclaveTag n && phys < s.dramSize && s.rdLe phys 4 == 0x0000000B

/-- GATE.ENTER (R384). -/
def State.gateEnter (s : State) (h : Nat) (level : HartLevel) (rd rs1 rs2 phys : Nat) (regs : HartRegs) : State :=
  let n := regGet regs rs1
  let index := regGet regs rs2
  if level = .machine then s.illegal h regs
  else
    let code := s.enterCode h n index
    if code ≠ 0 then s.modHart h fun x => { x with regs := { (regSet regs rd code) with pc := (regs.pc + 4) % 2 ^ 64 } }
    else
      let old := s.coreTag h level
      let s := s.gateTake h n rd level regs
      if index = 2 ^ 64 - 1 then s.modHart h fun x => { x with regs := tget {} (s.enclave n).slots h }
      else
        let page := (s.entryPage n).getD 0
        if s.entryMarked n phys then
          s.modHart h fun x => { x with regs := { regs with pc := s.rdLe (page * 4096 + 8 + 8 * index) 8 } }
        else
          let (i, s) := s.draw
          s.modHart h fun x =>
            { x with
              regs := regs, tag := old, enclave := 0, gateFault := true, xepc := regs.pc, xcause := 1
              xtval := (Config.freeWord i 0).toNat + 2 ^ 32 * (Config.freeWord i 1).toNat }

/-- GATE_ENTER (R384). -/
def execGateEnter (hart : Nat) (level : HartLevel) (rd rs1 rs2 : Nat) (entryPhys : Nat) (regs : HartRegs)
    (s : State) : Out := act s fun s => s.gateEnter hart level rd rs1 rs2 entryPhys regs

/-- GATE.EXIT (R385). -/
def State.gateExit (s : State) (h : Nat) (regs : HartRegs) : State :=
  let x := s.hart h
  if x.enclave = 0 then s.illegal h regs
  else
    let args := (List.range 8).foldl (fun t i => tset t (10 + i) (regGet regs (10 + i))) []
    let kept : HartRegs := { pc := x.savedPc, x := tset (tset args 1 x.savedRa) 2 x.savedSp }
    (s.modHart h fun x => { x with regs := regSet kept x.savedRd 0, tag := x.savedTag, enclave := 0 }).releaseHalt h

/-- GATE_EXIT (R385). -/
def execGateExit (hart : Nat) (regs : HartRegs) (s : State) : Out := act s fun s => s.gateExit hart regs

/-- ENCLAVE_DESTROY (R381). -/
def execEnclaveDestroy (tag enclave : Nat) (s : State) : Out :=
  act s fun s =>
    let e := s.enclave enclave
    if e.state = .empty then s.encDone 1
    else if !(s.isCreator tag enclave) then s.encDone 2
    else
      let inside := (s.slc.harts.filter fun x => x.2.enclave == enclave).map (·.1)
      let s := inside.foldl State.asyncExit s
      let s := s.revokePages (e.pages.map (·.2)) true { owner := e.creator * 256, free := false }
      let s := e.pages.foldl (fun s p =>
        (s.zeroDram (p.2 * 4096) 4096).modOwner p.2 fun _ => { owner := e.creator * 256, free := false }) s
      ({ s with slc := { s.slc with enclaves := tdel s.slc.enclaves enclave } }).encDone 0

/-- ENCLAVE_SELECT (R382): the enclave shown on one access path. -/
def execEnclaveSelect (path _tag enclave : Nat) (s : State) : Out :=
  act s fun s => State.encDone { s with slc := { s.slc with selected := tset s.slc.selected path enclave } } 0

/-! ### Debug enables (R387) -/

/-- The enables after a write: `cur` and `want` are the present and the written bits, `allow` the allowance of SLUICE. -/
def State.dbgBits (s : State) (tag cur want allow : Nat) : Nat :=
  ((List.range 16).map fun w =>
    let c := bit cur w
    let v := bit want w
    let mine := (s.privileged tag && worldOf tag == w) || (worldClass (worldOf tag) == .safety && w == 1)
    let device := s.privileged tag && worldClass (worldOf tag) == .device
    let next :=
      if v && !c then mine && s.worldFlag w allow
      else if !v && c then !(mine || device)
      else c
    b2n next * 2 ^ w).sum

/-- DBG_EN_WRITE (R387). -/
def execDbgEnWrite (tag value : Nat) (s : State) : Out :=
  act s fun s =>
    { s with slc := { s.slc with
      dbgInv := s.dbgBits tag s.slc.dbgInv (fld value 0 16) 1
      dbgNonInv := s.dbgBits tag s.slc.dbgNonInv (fld value 16 16) 2 } }

/-! ### Region entries (R367) -/

/-- A region entry from its 32 bytes (R368). -/
def regionOf (b : Bytes) : Region :=
  let f := byteAt b 0x14
  { base := fld (le b 0 8) 12 36 * 4096, limit := fld (le b 8 8) 12 36 * 4096, rWorlds := le b 0x10 2, wWorlds := le b 0x12 2
    valid := bit f 0, paged := bit f 1, adminOnly := bit f 2, window := bit f 3, locked := bit f 4 }

/-- Exactly one valid WINDOW region stands in a table, and it spans the addresses of R484. -/
def windowOk (rs : List Region) : Bool :=
  match rs.filter fun e => e.valid && e.window with
  | [e] => e.base == windowBase && e.limit + 0x1000 == windowBase + 0x60000
  | _ => false

/-- REGION_ENTRY_WRITE (R367): from STM_TAG, unless the entry is locked or the write is refused whole. -/
def execRegionEntryWrite (tag table entry : Nat) (data : Bytes) (s : State) : Out :=
  act s fun s =>
    let e := regionOf data
    let after := (List.range 32).map fun r => if r = entry then e else s.region 22 r
    if tag ≠ s.stmTag || (s.region table entry).locked || (e.paged && table != 0) || (e.window && table != 22)
        || (table == 22 && !(windowOk after)) then s
    else { s with slc := { s.slc with regions := tset s.slc.regions (32 * table + entry) e } }

/-! ### The SLUICE section (R394, R395) -/

/-- The failing check of a list with the lowest field offset gives it: SUP_BOOT_DETAIL names the first field. -/
def firstFault (l : List (Nat × Bool)) : Option Nat := ((l.filter fun e => !e.2).map (·.1)).min?

/-- The fault of a world entry. -/
def worldEntryFault (t : Bytes) (w : Nat) : Option Nat :=
  let o := 0x40 + 16 * w
  let priv := bit (byteAt t o) 0
  firstFault
    [ (o, byteAt t o < 8 && (w != 0 || priv) && !((w == 1 || w == 14 || w == 15) && priv)),
      (o + 1, zeroAt t (o + 1) 3),
      (o + 8, le t (o + 8) 8 < 2 ^ 48 && le t (o + 8) 8 % 4 == 0) ]

/-- The fault of a transfer pair. -/
def pairFault (t : Bytes) (count i : Nat) : Option Nat :=
  let o := 0x140 + 4 * i
  let e := le t o 4
  if i < count then
    firstFault [(o, fld e 26 6 == 0 && fld e 8 4 != 0xF && fld e 20 4 != 0xF && fld e 24 2 != 0)]
  else firstFault [(o, e == 0)]

/-- The fault of a region entry of a table. -/
def regionFault (t : Bytes) (table r : Nat) : Option Nat :=
  let o := 0x540 + 0x400 * table + 32 * r
  let e := regionOf (slice t o 32)
  firstFault
    [ (o, e.base ≤ e.limit && fld (le t o 8) 0 12 == 0 && le t o 8 < 2 ^ 48),
      (o + 8, fld (le t (o + 8) 8) 0 12 == 0 && le t (o + 8) 8 < 2 ^ 48),
      (o + 0x14, byteAt t (o + 0x14) < 32 && (!e.paged || table == 0) && (!e.window || table == 22)),
      (o + 0x15, zeroAt t (o + 0x15) 11) ]

/-- The fault of a seed run: the window has `pages` pages, the owner table starts at page `tbl` and has `n`. -/
def seedFault (t : Bytes) (pages tbl n i : Nat) : Option Nat :=
  let o := 0x6D40 + 16 * i
  let first := le t o 4
  let count := le t (o + 4) 4
  let free := bit (byteAt t (o + 12)) 3
  let prevEnd := if i = 0 then 0 else le t (o - 16) 4 + le t (o - 12) 4
  firstFault
    [ (o, prevEnd ≤ first && first + count ≤ pages),
      (o + 8, le t (o + 8) 2 < 4096 && fld (le t (o + 8) 2) 8 4 != 0xF
        && (free || first + count ≤ tbl || tbl + n ≤ first)),
      (o + 10, le t (o + 10) 2 < 4096),
      (o + 12, byteAt t (o + 12) < 16),
      (o + 13, zeroAt t (o + 13) 3) ]

/-- The offset of the first field of a SLUICE payload that fails with 0x0D (R395, R484); `dram` is the usable capacity. -/
def sluiceFault (t : Bytes) (debugAllowed : Bool) (dram : Nat) : Option Nat :=
  let ptb := le t 0x0C 8
  let regions (k : Nat) : List Region := (List.range 32).map fun r => regionOf (slice t (0x540 + 0x400 * k + 32 * r) 32)
  let head := firstFault
    [ (0, le t 0 4 == 0x01434C53),
      (4, byteAt t 4 < 2 && (!(bit (byteAt t 4) 0) || debugAllowed)),
      (5, byteAt t 5 == 0),
      (6, le t 6 2 ≤ 256),
      (8, le t 8 4 ≤ 14636),
      (0x0C, ptb % 0x200000 == 0 && ptb + dram / 1024 ≤ dram
        && (regions 0).any fun e =>
          e.valid && e.rWorlds == 0 && e.wWorlds == 0 && e.base ≤ ptb && ptb + dram / 1024 ≤ e.limit + 0x1000),
      (0x14, zeroAt t 0x14 44) ]
  match head with
  | some o => some o
  | none =>
    match (List.range 16).findSome? (worldEntryFault t) with
    | some o => some o
    | none =>
      match (List.range 256).findSome? (pairFault t (le t 6 2)) with
      | some o => some o
      | none =>
        match (List.range (26 * 32)).findSome? fun k => regionFault t (k / 32) (k % 32) with
        | some o => some o
        | none =>
          if !(windowOk (regions 22)) then some (0x540 + 0x400 * 22)
          else (List.range (le t 8 4)).findSome? (seedFault t (dram / 4096) (ptb / 4096) (dram / 1024 / 4096))

/-- The region tables and the owner table from SLUICE (R394). -/
def State.applySluice (s : State) : State :=
  let t := s.sec secSluice
  let regions := (List.range (26 * 32)).foldl (fun m k => tset m k (regionOf (slice t (0x540 + 32 * k) 32))) []
  let owners := (List.range (le t 8 4)).foldl (fun m i =>
    let o := 0x6D40 + 16 * i
    let f := byteAt t (o + 12)
    let e : OwnerEntry :=
      { owner := le t (o + 8) 2, shareTag := le t (o + 10) 2, shareR := bit f 0, shareW := bit f 1, result := bit f 2
        free := bit f 3 }
    (List.range (le t (o + 4) 4)).foldl (fun m p => tset m (le t o 4 + p) e) m) []
  { s with slc := { s.slc with regions := regions, owners := owners } }

/-! ### The TAGS section (R396, R397) -/

/-- The fixed tag fields of TAGS: offset and the required world class; 0 DEVICE, 1 SAFETY, 2 SPLIT, 3 NORMAL or SECURE. -/
def tagFields : List (Nat × Nat) :=
  [(0x010, 0), (0x012, 1), (0x014, 0), (0x016, 0)] ++ ((List.range 16).map fun p => (0x018 + 2 * p, 0))
    ++ [(0x038, 1), (0x03A, 1), (0x03C, 2), (0x03E, 2), (0x040, 2), (0x042, 2), (0x044, 3), (0x046, 3), (0x048, 0),
        (0x04A, 0), (0x04C, 0)]

/-- The world of a tag is of the class that a field requires. -/
def tagClassOk (kind tag : Nat) : Bool :=
  match kind, worldClass (worldOf tag) with
  | 0, .device => true
  | 1, .safety => true
  | 2, .split => true
  | 3, .normal => true
  | 3, .secure => true
  | _, _ => false

/-- The fault of one tag field. -/
def tagFault (t : Bytes) (e : Nat × Nat) : Option Nat :=
  let v := le t e.1 2
  let others := tagFields.filter fun x => x.1 != e.1 && !(e.2 == 3 && x.2 == 3)
  firstFault
    [ (e.1, v < 4096 && tagClassOk e.2 v && (e.1 != 0x010 || v == 0) && v != bootTag && (e.2 != 3 || v != bulkTag)
        && others.all fun x => le t x.1 2 != v) ]

/-- The fault of a safety-ring entry. -/
def ringEntryFault (t : Bytes) (n : Nat) : Option Nat :=
  let o := 0x100 + 32 * n
  let owner := le t o 2
  let writer := le t (o + 2) 2
  let log := byteAt t (o + 4)
  let ilk := le t 0x012 2
  let used := log != 0
  firstFault
    [ (o, owner < 4096 && (!used || worldClass (worldOf owner) == .safety) && (n != 15 || owner == ilk)),
      (o + 2, writer < 4096 && (!used || writer == le t 0x038 2 || writer == le t 0x03A 2 || writer == ilk)
        && (n != 15 || writer == ilk)),
      (o + 4, (log == 0 && n != 15) || (6 ≤ log && log ≤ 16)),
      (o + 5, zeroAt t (o + 5) 3),
      (o + 8, le t (o + 8) 8 < 2 ^ 48 && le t (o + 8) 8 % 4096 == 0),
      (o + 0x10, le t (o + 0x10) 8 < 2 ^ 48 && le t (o + 0x10) 8 % 8 == 0),
      (o + 0x18, le t (o + 0x18) 6 % 4 == 0) ]

/-- The offset of the first field of a TAGS payload that fails with 0x0D (R397). -/
def tagsFault (t : Bytes) : Option Nat :=
  if le t 0 4 ≠ 0x01474154 then some 0
  else if !(zeroAt t 4 12) then some 4
  else
    match tagFields.findSome? (tagFault t) with
    | some o => some o
    | none =>
      if !(zeroAt t 0x4E 178) then some 0x4E
      else
        match (List.range 16).findSome? (ringEntryFault t) with
        | some o => some o
        | none => if zeroAt t 0x300 256 then none else some 0x300

/-- The tag that mstag of a hart is loaded with (R386). -/
def State.hartMtag (s : State) (h : Nat) : Nat :=
  if h < 8 then s.tagAt 0x044
  else if h < 16 then s.tagAt 0x046
  else
    let pair := (h - 16) % 2
    if s.rtcSplit pair then s.tagAt (0x03C + 4 * pair + 2 * ((h - 16) / 2)) else s.tagAt (0x038 + 2 * pair)

/-- The fixed tags come into force on the application harts. -/
def State.applyTags (s : State) : State :=
  (List.range 20).foldl (fun s h => s.modHart h fun x => { x with mstag := s.hartMtag h, tag := s.hartMtag h }) s

end Sys2Proof.Machine
end

