-- ==== Sys2Proof/Machine/Points.lean ====
section
/-! DEFINITION. Points: the routing table, its actions, memory queues and counters (R337 to R353, R362). -/

namespace Sys2Proof.Machine

/-- Change port `n`. -/
def State.modPort (s : State) (n : Nat) (f : PtsPort → PtsPort) : State :=
  s.modPts fun p => { p with ports := tmod {} p.ports n f }

/-- IOPLAN enables an Ethernet or CAN port (R467). -/
def State.portEnabled (s : State) (n : Nat) : Bool :=
  if n < 10 then bit (le (s.sec secIoplan) 6 2) n
  else 16 ≤ n && n < 32 && bit (le (s.sec secIoplan) 8 2) (n - 16)

/-- MODE of a CAN controller: 0 classical, 1 FD, 2 XL (R467). -/
def State.canMode (s : State) (c : Nat) : Nat := byteAt (s.sec secIoplan) (0x6C0 + 32 * c)

/-- Points runs. -/
def State.ptsOn (s : State) : Bool := (s.clock 69).state == .on

/-! ### Keys (R341, R342) -/

/-- A big-endian number, as network frames hold it. -/
def beNat (b : Bytes) : Nat := leNat b.reverse
/-- The `n` bytes of `v`, most significant byte first. -/
def beBytes (n v : Nat) : Bytes := (leBytes n v).reverse

/-- A frame carries an IEEE 802.1Q tag. -/
def frameTagged (f : NetFrame) : Bool := beNat (slice f.bytes 12 2) == 0x8100
/-- Where the EtherType after any tag stands. -/
def frameEtherAt (f : NetFrame) : Nat := if (frameTagged f) then 16 else 12
/-- The EtherType after any tag. -/
def frameEtherType (f : NetFrame) : Nat := beNat (slice f.bytes (frameEtherAt f) 2)

/-- KIND of the key. -/
def frameKeyKind (f : NetFrame) : Nat := if f.kind = 0 then 0 else if f.kind = 3 then 2 else 1

/-- Bits [87:0] of the key. -/
def frameKeyBody (f : NetFrame) : Nat :=
  if f.kind = 0 then
    beNat (slice f.bytes 0 6) + (if (frameTagged f) then fld (beNat (slice f.bytes 14 2)) 0 12 else 0) * 2 ^ 48
      + b2n (frameTagged f) * 2 ^ 60 + (frameEtherType f) * 2 ^ 61
  else if f.kind = 3 then
    fld f.canId 0 11 + f.vcid % 256 * 2 ^ 11 + f.sdt % 256 * 2 ^ 19 + f.af % 2 ^ 32 * 2 ^ 27
  else fld f.canId 0 30 + (if f.kind = 2 then 2 ^ 30 else 0)

/-- The key of a frame from an ingress port. -/
def frameKey (port : Nat) (f : NetFrame) : Nat := (frameKeyBody f) + (frameKeyKind f) * 2 ^ 88 + port % 64 * 2 ^ 90

/-- An entry matches a key. -/
def entryMatches (e : Bytes) (key : Nat) : Bool :=
  bit (byteAt e 0x22) 0 && ((key ^^^ le e 0 12) &&& le e 0x0C 12) == 0

/-- The matching entry with the lowest index. -/
def State.ptsLookup (s : State) (key : Nat) : Option Nat :=
  (s.pts.entries.find? fun e => entryMatches (slice e.2 0 64) key).map (·.1)

/-! ### Drops and egress (R349, R350) -/

/-- A drop counter: 0 NO_ROUTE, 1 Q_FULL, 2 EGRESS_FULL, 3 FORMAT. -/
def State.ptsCount (s : State) (kind : Nat) : State :=
  s.modPts fun p =>
    if kind = 0 then { p with noRoute := sat16 p.noRoute }
    else if kind = 1 then { p with qFull := sat16 p.qFull }
    else if kind = 2 then { p with egressFull := sat16 p.egressFull }
    else { p with formatDrops := sat16 p.formatDrops }

/-- A frame is dropped at an egress port. -/
def State.ptsDrop (s : State) (kind port : Nat) : State :=
  (s.ptsCount kind).modPort port fun p => { p with txDrops := sat16 p.txDrops }

/-- An egress port can carry a frame: a port of the frame's family that is enabled, in a mode that knows the format. -/
def State.carries (s : State) (port : Nat) (f : NetFrame) : Bool :=
  s.portEnabled port && (if port < 10 then f.kind == 0 else f.kind != 0 && f.kind ≤ s.canMode (port - 16) + 1)

/-- A frame is queued for an egress port; `full` names the ports whose share of the buffer is full. -/
def State.ptsSend (s : State) (full port tc : Nat) (f : NetFrame) : State :=
  if !(s.carries port f) then s.ptsDrop 3 port
  else if bit full port then s.ptsDrop 2 port
  else s.modPts fun p => { p with sent := p.sent ++ [{ port := port, tc := tc, frame := f }] }

/-- PTP_TC (R352): the residence time is added to correctionField of an event message with EtherType 0x88F7; how long the
frame stays is open. -/
def ptpResidence (free : Nat) (f : NetFrame) : NetFrame :=
  let h := (frameEtherAt f) + 2
  let v := beNat (slice f.bytes (h + 8) 8) + (Config.freeWord free 0).toNat
  { f with bytes := patch f.bytes (h + 8) (beBytes 8 v) }

/-- A PTP event message over Ethernet: Sync, Delay_Req, Pdelay_Req or Pdelay_Resp (R352). -/
def framePtpEvent (f : NetFrame) : Bool :=
  f.kind == 0 && (frameEtherType f) == 0x88F7 && fld (byteAt f.bytes ((frameEtherAt f) + 2)) 0 4 < 4

/-- FORWARD or TRANSLATE to one egress port, with PTP_TC on Ethernet ports. -/
def State.ptsForward (s : State) (full port : Nat) (e : Bytes) (f : NetFrame) : State :=
  if bit (byteAt e 0x22) 1 && (framePtpEvent f) && port < 10 then
    let d := s.draw
    d.2.ptsSend full port (fld (byteAt e 0x21) 0 3) (ptpResidence d.1 f)
  else s.ptsSend full port (fld (byteAt e 0x21) 0 3) f

/-! ### TRANSLATE (R341, R344) -/

/-- The frame with its identifier rewritten to NEW_ID. -/
def frameTranslate (f : NetFrame) (n : Nat) : NetFrame :=
  if f.kind = 0 then
    let tci := fld n 0 12 + fld n 12 3 * 2 ^ 13
    if (frameTagged f) then
      { f with bytes := patch f.bytes 14 (beBytes 2 (tci + (if bit (beNat (slice f.bytes 14 2)) 12 then 4096 else 0))) }
    else if bit n 15 then
      { f with bytes := f.bytes.take 12 ++ beBytes 2 0x8100 ++ beBytes 2 tci ++ f.bytes.drop 12 }
    else f
  else if f.kind = 3 then { f with canId := setFld f.canId 0 11 n, vcid := fld n 11 8 }
  else { f with canId := fld n 0 30 }

/-! ### IEEE 1722 (R344, R345). The formats are those of IEEE 1722-2016, which R344 names. PRESUMED. -/

/-- An ACF CAN message. -/
def acfMessage (bus stamp : Nat) (f : NetFrame) : Bytes :=
  let pad := (4 - f.bytes.length % 4) % 4
  let q := (16 + f.bytes.length + pad) / 4
  let flags := pad * 64 + 32 + b2n (bit f.canId 29) * 8 + b2n (bit f.canFlags 0) * 4 + b2n (f.kind == 2) * 2
    + b2n (bit f.canFlags 1)
  leBytes 1 (2 + q / 256) ++ leBytes 1 q ++ leBytes 1 flags ++ leBytes 1 bus ++ beBytes 8 stamp
    ++ beBytes 4 (fld f.canId 0 29) ++ f.bytes ++ zeros pad

/-- The Ethernet frame that carries ACF messages under a profile: an NTSCF frame for SUBTYPE 0x82, a TSCF frame for every
other value. R345 gives only 0x82 and 0x05; that a SUBTYPE it does not give builds a TSCF frame is the model's (DESIGN
CHOICE, log entry 122). -/
def acfFrame (profile : Bytes) (seq port : Nat) (msgs : List Bytes) : NetFrame :=
  let body := msgs.flatten
  let head :=
    if byteAt profile 1 = 0x82 then
      leBytes 1 0x82 ++ beBytes 2 (0x8000 + body.length % 2048) ++ leBytes 1 seq ++ slice profile 0x10 8
    else
      leBytes 1 0x05 ++ leBytes 1 0x80 ++ leBytes 1 seq ++ zeros 1 ++ slice profile 0x10 8 ++ zeros 8
        ++ beBytes 2 body.length ++ zeros 2
  let tag := if bit (byteAt profile 0) 1 then beBytes 2 0x8100
      ++ beBytes 2 (fld (le profile 8 2) 0 12 + fld (le profile 8 2) 12 3 * 2 ^ 13) else []
  let bytes := slice profile 2 6 ++ beBytes 6 (Config.macAddress port).toNat ++ tag ++ beBytes 2 0x22F0 ++ head ++ body
  { bytes := bytes ++ zeros (60 - bytes.length) }

/-- Profile `n`. -/
def State.profile (s : State) (n : Nat) : Bytes := slice (tget [] s.pts.profiles n) 0 32

/-- The ACF frame of an entry leaves for the Ethernet ports of EGRESS. -/
def State.flushAgg (s : State) (full entry : Nat) : State :=
  match tfind s.pts.aggs entry with
  | none => s
  | some a =>
    let p := byteAt a.entry 0x23
    let seq := tget 0 s.pts.encSeq p
    let s := s.modPts fun x => { x with aggs := tdel x.aggs entry, encSeq := tset x.encSeq p (wrapInc 8 seq) }
    (maskBits (le a.entry 0x18 8) 10).foldl (fun s port =>
      s.ptsSend full port (fld (byteAt a.entry 0x21) 0 3) (acfFrame (s.profile p) seq port a.msgs)) s

/-- ENCAP_1722: a CAN frame joins the entry's ACF frame, which leaves when it holds AGG_MAX messages. -/
def State.encapsulate (s : State) (full entry : Nat) (e : Bytes) (port stamp : Nat) (f : NetFrame) : State :=
  let s := match tfind s.pts.aggs entry with
    | some a => if a.entry = e then s else s.flushAgg full entry
    | none => s
  let a := (tfind s.pts.aggs entry).getD { entry := e, sinceNs := stamp }
  let a := { a with msgs := a.msgs ++ [acfMessage (port - 16) stamp f] }
  let s := s.modPts fun x => { x with aggs := tset x.aggs entry a }
  if a.msgs.length ≥ byteAt e 0x28 then s.flushAgg full entry else s

/-- The ACF messages of a body: each with its type and bytes. -/
def acfMessages : Nat → Bytes → List (Nat × Bytes)
  | 0, _ => []
  | k + 1, b =>
    let n := 4 * (byteAt b 0 % 2 * 256 + byteAt b 1)
    if b.length < 4 || n < 4 || b.length < n then []
    else (byteAt b 0 / 2, b.take n) :: acfMessages k (b.drop n)

/-- The ACF body of an IEEE 1722 frame; none where the frame is not NTSCF or TSCF. -/
def acfBody (f : NetFrame) : Option Bytes :=
  let h := (frameEtherAt f) + 2
  if (frameEtherType f) ≠ 0x22F0 then none
  else if byteAt f.bytes h = 0x82 then some (slice f.bytes (h + 12) (beNat (slice f.bytes (h + 1) 2) % 2048))
  else if byteAt f.bytes h = 0x05 then some (slice f.bytes (h + 24) (beNat (slice f.bytes (h + 20) 2)))
  else none

/-- The CAN frame of an ACF CAN (1) or ACF CAN Brief (2) message. -/
def acfFrameOf (type : Nat) (m : Bytes) : NetFrame :=
  let h := if type = 1 then 16 else 8
  let fl := byteAt m 2
  let body := m.drop h
  { kind := if bit fl 1 then 2 else 1
    bytes := body.take (body.length - fl / 64)
    canId := beNat (slice m (h - 4) 4) % 2 ^ 29 + (if bit fl 3 then 2 ^ 29 else 0)
    canFlags := b2n (bit fl 2) + 2 * b2n (bit fl 0), remote := bit fl 4 }

/-- DECAP_1722: each CAN message goes to CAN port 16 + bus_id. -/
def State.decapsulate (s : State) (full tc : Nat) (f : NetFrame) : State :=
  match acfBody f with
  | none => s.ptsCount 3
  | some b =>
    (acfMessages b.length b).foldl (fun s m =>
      if m.1 ≠ 1 ∧ m.1 ≠ 2 then s
      else
        let bus := byteAt m.2 3 % 32
        let c := acfFrameOf m.1 m.2
        if bus ≥ 16 || !(s.portEnabled (16 + bus)) || c.remote then s.ptsCount 3
        else s.ptsSend full (16 + bus) tc c) s

/-! ### Memory queues (R346 to R348) -/

/-- Bytes of a slot. -/
def PtsQueue.slotBytes (q : PtsQueue) : Nat := 2048 * 2 ^ q.slotSize
/-- The frame that a slot header announces fits its slot. -/
def PtsQueue.frameFits (q : PtsQueue) (h : Bytes) : Bool := byteAt h 3 < 4 && le h 0 2 + 64 ≤ q.slotBytes
/-- The address of the slot of an index. -/
def PtsQueue.slotAt (q : PtsQueue) (i : Nat) : Nat := q.base + i % q.slots * q.slotBytes
/-- FILL: slots in use. -/
def PtsQueue.fill (q : PtsQueue) : Nat := if q.tx then subMod q.captured q.index else subMod q.index q.captured

/-- The slot header of a received frame (R347). -/
def slotHeader (f : NetFrame) (port entry stamp seq : Nat) : Bytes :=
  leBytes 2 f.bytes.length ++ leBytes 1 port ++ leBytes 1 f.kind ++ leBytes 2 entry ++ zeros 2
    ++ leBytes 8 (stamp / 1000000000) ++ leBytes 4 (stamp % 1000000000) ++ leBytes 4 seq
    ++ (if f.kind = 0 then zeros 44
        else leBytes 4 f.canId ++ leBytes 1 f.vcid ++ leBytes 1 f.sdt ++ zeros 2 ++ leBytes 4 f.af
          ++ leBytes 1 f.canFlags ++ zeros 27)

/-- A frame is written to an RX queue's next slot, or dropped there; whether the queue took it. -/
def State.queueTake (s : State) (q id : Nat) (f : NetFrame) (port entry stamp : Nat) : State × Bool :=
  let x := s.ptsQueue q
  if !x.en || x.tx || x.fill ≥ x.slots then (s.ptsDrop 1 (32 + q), false)
  else if f.bytes.length + 64 > x.slotBytes then (s.ptsDrop 3 (32 + q), false)
  else
    let bs := slotHeader f port entry stamp x.seq ++ f.bytes
    let s := State.devWritePages (.slot q id) (bs.length / 4096 + 2) x.ownerTag (x.slotAt x.index) bs s
    if s.resp.kind = .error then (s.queueError q 2, false)
    else
      (s.modQueue q fun x =>
        { x with
          index := wrapInc 32 x.index, seq := wrapInc 32 x.seq
          slotWrites := x.slotWrites ++ [(id, wrapInc 32 x.index)] }, true)

/-- A frame goes to memory queues; the queues that took it are awaited for the arrival count (R348). -/
def State.queueFrame (s : State) (qs : List Nat) (f : NetFrame) (port entry stamp : Nat) : State :=
  let id := s.pts.nextFrame
  let r := qs.foldl (fun (r : State × Nat) q =>
    let t := r.1.queueTake q id f port entry stamp
    (t.1, if t.2 then r.2 + 1 else r.2)) (s, 0)
  if r.2 = 0 then r.1
  else r.1.modPts fun p =>
    { p with
      nextFrame := id + 1
      frames := if entry < 4096 then tset p.frames id { entry := entry, left := r.2 } else p.frames }

/-- One of a frame's queues is done with it, and release conditions are evaluated (R348). -/
def State.frameDone (s : State) (id : Nat) (acked : Bool) : State := (s.frameAnswered id acked).settle

/-! ### The decision (R342, R344) -/

/-- The action of the deciding entry. -/
def State.ptsDecide (s : State) (full entry : Nat) (e : Bytes) (port stamp : Nat) (f : NetFrame) : State :=
  let op := byteAt e 0x20
  let eg := le e 0x18 8
  let tc := fld (byteAt e 0x21) 0 3
  if op = 4 then s.ptsCount 0
  else
    let ports := maskBits eg 32
    let s :=
      if op = 0 then ports.foldl (fun s p => s.ptsForward full p e f) s
      else if op = 1 then ports.foldl (fun s p => s.ptsForward full p e (frameTranslate f (le e 0x24 4))) s
      else if op = 2 then
        let s := (ports.filter (· ≥ 10)).foldl (fun s p => s.ptsDrop 3 p) s
        if ports.all (· ≥ 10) then s
        else if f.kind = 1 ∨ f.kind = 2 then s.encapsulate full entry e port stamp f
        else (ports.filter (· < 10)).foldl (fun s p => s.ptsDrop 3 p) s
      else s.decapsulate full tc f
    s.queueFrame (maskBits (eg >>> 32) 32) f port entry stamp

/-- A frame from an ingress port is looked up and decided (R342). -/
def State.ptsFrame (s : State) (full port stamp : Nat) (f : NetFrame) : State :=
  match s.ptsLookup (frameKey port f) with
  | some i => s.ptsDecide full i (s.ptsEntry i) port stamp f
  | none =>
    let p := tget {} s.pts.ports port
    if p.defaultEn then s.queueFrame [p.defaultQ] f port 0xFFFF stamp else s.ptsCount 0

/-- A frame's length lies in its format's range (R338, R347; the CAN ranges are ISO 11898-1's, which R339 names). -/
def frameLenOk (f : NetFrame) : Bool :=
  let n := f.bytes.length
  if f.kind = 0 then 60 ≤ n && n ≤ 9212
  else if f.kind = 1 then n ≤ 8
  else if f.kind = 2 then n ≤ 8 || [12, 16, 20, 24, 32, 48, 64].contains n
  else 1 ≤ n && n ≤ 2048

/-- FRAME_RECEIVE (R342, R350): a frame arrives at an Ethernet or CAN port. -/
def execFrameReceive (port : Nat) (frame : NetFrame) (full instant : Nat) (s : State) : Out :=
  act s fun s =>
    if !s.ptsOn || !(s.portEnabled port) || (port ≥ 16 && s.pts.busOff.contains (port - 16)) then s
    else
      let s := s.reach instant
      if frame.bad || frame.remote || !(frameLenOk frame) then s.modPort port fun p => { p with rxErrors := sat16 p.rxErrors }
      else (s.modPort port fun p => { p with rxFrames := wrapInc 32 p.rxFrames }).ptsFrame full port instant frame

/-- AGG_TIMEOUT (R344): AGG_US after its first message a partly filled ACF frame leaves. -/
def execAggTimeout (entry full : Nat) (s : State) : Out :=
  act s fun s =>
    match tfind s.pts.aggs entry with
    | some a => if s.ptsOn then (s.reach (a.sinceNs + 1000 * le a.entry 0x2A 2)).flushAgg full entry else s
    | none => s

/-- QUEUE_SLOT_ACK (R348): the oldest slot write of a queue is acknowledged, which one that is still held is not, and the
index word is written. -/
def execQueueSlotAck (queue : Nat) (s : State) : Out :=
  act s fun s =>
    let x := s.ptsQueue queue
    match x.slotWrites with
    | [] => s
    | (id, i) :: r =>
      if s.awaits (.slot queue id) then s
      else
      let s := s.modQueue queue fun x => { x with slotWrites := r }
      let s := s.devAccess (.index queue (some id)) x.ownerTag (x.addr + 64) 8 true (leBytes 8 i)
      if s.resp.kind = .error then (s.queueError queue 2).frameDone id false
      else s.modQueue queue fun x => { x with indexWrites := x.indexWrites ++ [id] }

/-- QUEUE_INDEX_ACK (R348): the index word is acknowledged, the interrupt is sent and the arrival counts. -/
def execQueueIndexAck (queue : Nat) (s : State) : Out :=
  act s fun s =>
    let x := s.ptsQueue queue
    match x.indexWrites with
    | [] => s
    | id :: r =>
      if s.awaits (.index queue (some id)) then s
      else
      let s := s.modQueue queue fun x => { x with indexWrites := r }
      (s.msi x.ownerTag x.msiAddr x.msiData).frameDone id true

/-- TX_INDEX_WRITE (R346): software's write of a queue's index word, which the Sluice judges and the tail-watch filter
sees. -/
def execTxIndexWrite (requester : Requester) (addr len value : Nat) (entryOk : Bool) (s : State) : Out :=
  act s fun s => s.requesterWrite requester addr len value entryOk

/-- What the read of a TX slot comes to: its header, and its frame bytes where the frame fits the slot. -/
def State.readSlot (s : State) (x : PtsQueue) : State × Fetch × Bytes :=
  let a := x.slotAt x.index
  let h := s.fetchBytes x.ownerTag a 64
  match h.2 with
  | .got hd =>
    if x.frameFits hd && le hd 0 2 ≠ 0 then
      let d := h.1.fetchBytes x.ownerTag (a + 64) (le hd 0 2)
      (d.1, d.2, hd)
    else (h.1, .got [], hd)
  | f => (h.1, f, [])

/-- The frame of a TX slot. -/
def slotFrame (h data : Bytes) : NetFrame :=
  { kind := byteAt h 3, bytes := data, canId := le h 0x18 4, vcid := byteAt h 0x1C, sdt := byteAt h 0x1D
    af := le h 0x20 4, canFlags := byteAt h 0x24 }

/-- A slot of a TX queue has been read: its frame is looked up as arriving on port 32 + q, and the index is written back
(R347). A slot whose frame does not fit is dropped. -/
def State.txSlotTaken (s : State) (queue full instant : Nat) (x : PtsQueue) (fits : Bool) (f : NetFrame) : State :=
  let s := s.modQueue queue fun x => { x with index := wrapInc 32 x.index }
  let s :=
    if !fits || !(frameLenOk f) then s.ptsCount 3
    else (s.modPort (32 + queue) fun p => { p with rxFrames := wrapInc 32 p.rxFrames }).ptsFrame full (32 + queue) instant f
  s.devAccess (.index queue none) x.ownerTag (x.addr + 64) 8 true (leBytes 8 (wrapInc 32 x.index))

/-- TX_SLOT_READ (R347): the next slot of a TX queue is read; a read that is held is made again later. -/
def execTxSlotRead (queue full instant : Nat) (s : State) : Out :=
  act s fun s =>
    let x := s.ptsQueue queue
    if !s.ptsOn || !x.en || !x.tx || x.captured == x.index then s
    else
      let q := (s.reach instant).readSlot x
      match q.2.1 with
      | .waits => q.1
      | .failed => q.1.queueError queue 3
      | .got d => q.1.txSlotTaken queue full instant x (x.frameFits q.2.2) (slotFrame q.2.2 d)

/-! ### The entry commands (R343, R362) -/

/-- Fields of an entry that must be zero are zero. -/
def entryReserved (e : Bytes) : Bool :=
  let op := byteAt e 0x20
  let n := le e 0x24 4
  let kind := fld (le e 0 12) 88 2
  let newOk :=
    if op ≠ 1 then n == 0
    else if kind = 0 then fld n 16 16 == 0 else if kind = 2 then fld n 19 13 == 0 else fld n 30 2 == 0
  fld (byteAt e 0x21) 3 5 == 0 && fld (byteAt e 0x22) 2 6 == 0 && byteAt e 0x29 == 0 && zeroAt e 0x2C 20 && newOk
    && (op == 2 || byteAt e 0x23 == 0)

/-- AGG_MAX and AGG_US lie in range. -/
def entryAggOk (e : Bytes) : Bool :=
  let m := byteAt e 0x28
  let us := le e 0x2A 2
  if byteAt e 0x20 ≠ 2 then m == 0 && us == 0
  else 1 ≤ m && m ≤ 16 && (if m = 1 then us == 0 else 1 ≤ us && us ≤ 1000)

/-- EGRESS names a reserved port or a TX queue. -/
def State.entryEgressBad (s : State) (e : Bytes) : Bool :=
  let eg := le e 0x18 8
  fld eg 10 6 != 0 || (maskBits (eg >>> 32) 32).any fun q => (s.ptsQueue q).tx

/-- A commit is rejected (R343). -/
def State.entryBad (s : State) (e : Bytes) : Bool :=
  let op := byteAt e 0x20
  let kind := fld (le e 0 12) 88 2
  let eg := le e 0x18 8
  op > 4 || kind == 3 || !(entryReserved e) || !(entryAggOk e) || s.entryEgressBad e
    || (kind != 0 && fld eg 0 10 != 0 && op != 2) || (kind == 0 && fld eg 16 16 != 0 && op != 3)
    || (op == 2 && (kind == 2 || !(bit (byteAt (s.profile (byteAt e 0x23)) 0) 0)))

/-- COMMIT (R343): the path's ENTRY_DATA replaces the selected entry, or the commit is rejected. -/
def execCommit (path : Nat) (resetCount : Bool) (s : State) : Out :=
  act s fun s =>
    if !s.ptsOn then s
    else
      let i := tget 0 s.pts.entrySel path
      let e := slice (tget [] s.pts.entryData path) 0 64
      if s.entryBad e then s.modPts fun p => { p with rejected := true }
      else s.modPts fun p =>
        { p with
          entries := tset p.entries i e
          arrivals := if resetCount then tset p.arrivals i 0 else p.arrivals }

/-- ENTRY_READ (R343): the selected entry is copied into the path's ENTRY_DATA. -/
def execEntryRead (path : Nat) (s : State) : Out :=
  act s fun s =>
    if !s.ptsOn then s
    else s.modPts fun p => { p with entryData := tset p.entryData path (s.ptsEntry (tget 0 p.entrySel path)) }

/-- RESET_COUNT (R343): the selected entry's arrival count is zeroed. -/
def execResetCount (path : Nat) (s : State) : Out :=
  act s fun s =>
    if !s.ptsOn then s else s.modPts fun p => { p with arrivals := tset p.arrivals (tget 0 p.entrySel path) 0 }

/-- Q_ENABLE (R362): a write of Q_CFG with EN set while EN is 0. -/
def execQEnable (queue value : Nat) (s : State) : Out :=
  act s fun s =>
    if !s.ptsOn || (s.ptsQueue queue).en then s
    else
      let s := s.modQueue queue fun q =>
        { q with
          log2Slots := fld value 0 4, slotSize := fld value 4 2, tx := bit value 6
          ownerTag := fld value 8 12, writerTag := fld value 20 12 }
      if fld value 0 4 < 4 || fld value 0 4 > 14 then s.modQueue queue fun q => { q with error := 3 }
      else
        let old := (s.ptsQueue queue).slotWrites.map (·.1) ++ (s.ptsQueue queue).indexWrites
        (old.foldl (fun s id => s.frameDone id false) s).modQueue queue fun q =>
        { q with en := true, error := 0, index := 0, captured := 0, seq := 0, slotWrites := [], indexWrites := [] }

/-- Q_DISABLE (R362): a write that clears EN. -/
def execQDisable (queue : Nat) (s : State) : Out :=
  act s fun s => if s.ptsOn then s.modQueue queue fun q => { q with en := false } else s

/-- CAN_BUS_OFF_RECOVERY (R339): the controller takes part again; pending frames stay pending. -/
def execCanBusOffRecovery (controller : Nat) (s : State) : Out :=
  act s fun s => s.modPts fun p => { p with busOff := p.busOff.erase controller }

end Sys2Proof.Machine
end

