-- ==== Sys2Proof/Machine/Junction.lean ====
section
/-! DEFINITION. The Junction: outbound accesses and their split reads, inbound PCIe requests, the exclusive and atomic
sequences, and its errors (R354 to R362). -/

namespace Sys2Proof.Machine

/-- Change the Junction. -/
def State.modJct (s : State) (f : Jct → Jct) : State := { s with jct := f s.jct }
/-- Far side `x`. -/
def State.side (s : State) (x : Nat) : JctSide := tget {} s.jct.sides x
/-- Change far side `x`. -/
def State.modSide (s : State) (x : Nat) (f : JctSide → JctSide) : State :=
  s.modJct fun j => { j with sides := tmod {} j.sides x f }

/-- The far side of an address: 0 PCIe 0, 1 PCIe 1, 2 peripheral fabric (R479). -/
def State.sideOf (s : State) (a : Nat) : Option Nat :=
  match s.target a with
  | .fabric => some 2
  | .ecam p => some (p % 2)
  | .outbound p => some (p % 2)
  | _ => none

/-- The Junction runs. -/
def State.jctOn (s : State) : Bool := (s.clock 71).state == .on

/-! ### Errors (R360) -/

/-- A failed access: the first is captured until VALID is cleared, and all are counted. -/
def State.jctError (s : State) (x kind tag rdTag : Nat) (write inbound : Bool) (a : Nat) : State :=
  s.modSide x fun d =>
    let d := { d with errors := sat16 d.errors }
    if d.errValid then d
    else { d with
      errKind := kind, errTag := tag, errRdTag := rdTag, errWrite := write, errInbound := inbound, errValid := true
      errAddr := a % 2 ^ 48 }

/-! ### Pieces (R354) -/

/-- Max_Payload_Size of a PCIe port, at most 512 B. -/
def JctSide.payload (d : JctSide) : Nat := min 512 (128 * 2 ^ fld d.devCtl 5 3)
/-- Max_Read_Request_Size of a PCIe port, at most 4,096 B. -/
def JctSide.readRequest (d : JctSide) : Nat := min 4096 (128 * 2 ^ fld d.devCtl 12 3)

/-- The pieces of an access: none crosses a `bound` boundary, and none is longer than `most`. -/
def cutPieces (bound most : Nat) : Nat → Nat → Nat → List (Nat × Nat)
  | 0, _, _ => []
  | k + 1, a, n =>
    if n = 0 then []
    else
      let m := min n (min most (bound - a % bound))
      (a, m) :: cutPieces bound most k (a + m) (n - m)

/-- The pieces of an outbound access. -/
def State.pieces (s : State) (x a n : Nat) (write : Bool) : List (Nat × Nat) :=
  if x = 2 then cutPieces 64 64 n a n
  else cutPieces 4096 (if write then (s.side x).payload else (s.side x).readRequest) n a n

/-! ### Reservations (R359) -/

/-- A reservation has another holder. -/
def JctSlot.others (r : JctSlot) (src tag hart : Nat) : Bool := r.src != src || r.tag != tag || r.hart != hart

/-- A write by a holder breaks the reservations of others on the granules it covers. -/
def State.breakOthers (s : State) (src tag hart a n : Nat) : State :=
  s.modJct fun j => { j with slots := j.slots.filter fun r =>
    !(r.others src tag hart && a / 64 ≤ r.granule && r.granule ≤ (a + n - 1) / 64) }

/-! ### Outbound accesses (R354, R355, R357) -/

/-- The lowest free read tag. -/
def JctSide.freeTag (d : JctSide) : Option Nat := (List.range 256).find? fun t => (tfind d.tags t).isNone

/-- Waiting pieces of a read take free tags in order. -/
def issuePieces (now : Nat) (id : Nat) : List (Nat × Nat) → JctSide → JctSide
  | [], d => d
  | (a, _) :: r, d =>
    match d.freeTag with
    | none => d
    | some t =>
      issuePieces now id r { d with
        tags := tset d.tags t { read := id, addr := a, sinceNs := now }
        reads := tmod {} d.reads id fun x => { x with toIssue := x.toIssue.drop 1, outstanding := x.outstanding + 1 } }

/-- All waiting pieces of a far side, oldest read first. -/
def State.issueReads (s : State) (x : Nat) : State :=
  s.modSide x fun d => d.reads.foldl (fun d e => issuePieces s.now e.1 e.2.toIssue d) d

/-- The configuration space of a PCIe port itself: bus 0, device 0, function 0 of its ECAM window. -/
def State.ownConfig (s : State) (x a n : Nat) : Bool :=
  match s.target a with
  | .ecam p => p == x && (a - 0x003200000000) % 0x10000000 ≤ Config.deviceControlOffset x
      && Config.deviceControlOffset x + 2 ≤ (a - 0x003200000000) % 0x10000000 + n
  | _ => false

/-- A write is issued to a far side in pieces; a write of the port's Device Control register takes effect in it. -/
def State.issueWrite (s : State) (x tag a : Nat) (data : Bytes) : State :=
  let s := s.modSide x fun d => { d with
    issued := d.issued ++ (s.pieces x a data.length true).map fun p => (tag, p.1, slice data (p.1 - a) p.2) }
  if s.ownConfig x a data.length then
    s.modSide x fun d => { d with
      devCtl := le data (Config.deviceControlOffset x - (a - 0x003200000000) % 0x10000000) 2 }
  else s

/-- A read goes to a far side as split transactions. -/
def State.issueRead (s : State) (x src tag a n : Nat) : State :=
  let id := s.jct.nextRead
  let s := s.modSide x fun d => { d with
    reads := tset d.reads id { tag := tag, src := src, addr := a, len := n, toIssue := s.pieces x a n false } }
  (s.modJct fun j => { j with nextRead := id + 1 }).issueReads x

/-- JCT_OUTBOUND (R354): an access that its Sluice granted reaches the Junction. -/
def execJctOutbound (src tag addr len : Nat) (write : Bool) (data : Bytes) (s : State) : Out :=
  act s fun s =>
    if !s.jctOn then s
    else
      match s.sideOf addr with
      | none => s
      | some x =>
        if write then
          { (s.breakOthers src tag 32 addr len).issueWrite x tag addr (data.take len) with resp := { kind := .data } }
        else { s.issueRead x src tag addr len with resp := { kind := .held } }

/-- A read is answered: with its data, or with an error and none of it (R355). -/
def State.answerRead (s : State) (x id : Nat) (failed : Bool) : State :=
  match tfind (s.side x).reads id with
  | none => s
  | some r =>
    let d := memRead r.parts r.addr r.len
    let s := s.modSide x fun d => { d with reads := tdel d.reads id }
    let s := s.modJct fun j => { j with
      answers := j.answers ++ [(r.src, r.tag, r.addr, if failed then none else some d)] }
    { s with resp := if failed then { kind := .error } else { kind := .data, bytes := d } }

/-- A read whose pieces have all completed is answered. -/
def State.readDone (s : State) (x id : Nat) : State :=
  match tfind (s.side x).reads id with
  | some r => if r.toIssue = [] ∧ r.outstanding = 0 then s.answerRead x id r.failed else s
  | none => s

/-- A completion for a tag that is held: its data joins the read; the last one frees the tag. -/
def State.complete (s : State) (x t : Nat) (g : JctTag) (status : Nat) (data : Bytes) (last : Bool) : State :=
  let ends := last || status != 0
  let r := tget {} (s.side x).reads g.read
  let s := if status = 0 then s
    else s.jctError x (if status = 1 then 2 else if status = 2 then 3 else if status = 3 then 4 else 5) r.tag t false false g.addr
  let s := s.modSide x fun d => { d with
    tags := if ends then tdel d.tags t else tset d.tags t { g with addr := g.addr + data.length }
    reads :=
      match tfind d.reads g.read with
      | none => d.reads
      | some r => tset d.reads g.read { r with
          parts := if status = 0 then memWrite r.parts g.addr data else r.parts
          failed := r.failed || status != 0
          outstanding := if ends then r.outstanding - 1 else r.outstanding } }
  if ends then ((s.issueReads x).readDone x g.read) else s

/-- JCT_COMPLETION (R355): a completion from a far side; status 0 data, 1 UR, 2 CA, 3 poisoned, 4 a fabric error. One for
a free or quarantined tag is discarded (R356). -/
def execJctCompletion (side readTag status : Nat) (data : Bytes) (last : Bool) (s : State) : Out :=
  act s fun s =>
    if !s.jctOn then s
    else
      match tfind (s.side side).tags readTag with
      | some g =>
        if g.quarantined then s.modSide side fun d => { d with lateCpl := sat16 d.lateCpl }
        else s.complete side readTag g status data last
      | none => s.modSide side fun d => { d with lateCpl := sat16 d.lateCpl }

/-- CPL_TIMEOUT (R356): the piece's read ends with an error and its tag is quarantined. -/
def execCplTimeout (side readTag : Nat) (s : State) : Out :=
  act s fun s =>
    match tfind (s.side side).tags readTag with
    | none => s
    | some g =>
      if g.quarantined || !s.jctOn then s
      else
        let s := s.reach (g.sinceNs + 1000 * (s.side side).timeoutUs)
        let r := tget {} (s.side side).reads g.read
        let s := s.modSide side fun d => { d with
          tags := tset d.tags readTag { g with quarantined := true, sinceNs := s.now } }
        (s.jctError side 1 r.tag readTag false false g.addr).answerRead side g.read true

/-- TAG_QUARANTINE_END (R356): the tag is free again, and waiting pieces take it. -/
def execTagQuarantineEnd (side readTag : Nat) (s : State) : Out :=
  act s fun s =>
    match tfind (s.side side).tags readTag with
    | none => s
    | some g =>
      if !g.quarantined || !s.jctOn then s
      else
        let s := s.reach (g.sinceNs + 2000 * (s.side side).timeoutUs)
        (s.modSide side fun d => { d with tags := tdel d.tags readTag }).issueReads side

/-! ### Inbound requests (R358) -/

/-- The lowest window that matches a request. -/
def State.inWindowOf (s : State) (port rid a : Nat) : Option JctWindow :=
  let w := (s.side port).windows
  ((List.range 16).map (fun i => tget ({} : JctWindow) w i)).find? fun w =>
    w.en && w.base ≤ a && a ≤ w.limit + 0xFFF && (!w.ridMatch || w.rid == rid)

/-- The line pieces of an inbound request reach their targets; the first that is denied ends it. -/
def State.inboundPieces (s : State) (tag a : Nat) (write : Bool) (data : Bytes) : List (Nat × Nat) → State × Option Bytes
  | [] => (s, some [])
  | (p, n) :: r =>
    match s.blockAccess tag p n write (slice data (p - a) n) with
    | none => ({ s with resp := { kind := .error } }, none)
    | some acc =>
      let s := s.access { acc with fromCore := true }
      if s.resp.kind = .error then (s, none)
      else
        let d := s.resp.bytes
        let t := s.inboundPieces tag a write data r
        (t.1, t.2.map (d ++ ·))

/-- JCT_INBOUND (R358): a request from PCIe is matched to a window, translated and tagged. -/
def execJctInbound (port rid addr len : Nat) (write : Bool) (data : Bytes) (atomic : Bool) (s : State) : Out :=
  act s fun s =>
    if !s.jctOn then s
    else if atomic then { s with resp := { kind := .error } }
    else
      match s.inWindowOf port rid addr with
      | none => { s.jctError port 6 0 0 write true addr with resp := { kind := .error } }
      | some w =>
        let a := w.target + (addr - w.base)
        let r := s.inboundPieces w.streamTag a write (data.take len) (cutPieces 64 64 len a len)
        match r.2 with
        | none => { r.1.jctError port 7 w.streamTag 0 write true addr with resp := { kind := .error } }
        | some d => { r.1 with resp := { kind := .data, bytes := if write then [] else d } }

/-! ### Exclusive and atomic sequences (R359) -/

/-- LR (R359): the read, and a reservation slot; the oldest reservation gives way when all 16 are held. -/
def execLr (src tag hart addr len : Nat) (s : State) : Out :=
  act s fun s =>
    if !s.jctOn then s
    else
      match s.sideOf addr with
      | none => s
      | some x =>
        let g := addr / 64
        let s := s.modJct fun j =>
          let l := j.slots.filter fun r => r.granule != g
          let l := if l.length ≥ 16 then l.drop 1 else l
          { j with slots := l ++ [{ granule := g, src := src, tag := tag, hart := hart, sinceNs := s.now }] }
        { s.issueRead x src tag addr len with resp := { kind := .held } }

/-- SC (R359): writes only where the holder's reservation is intact; the answer is 0 for success and 1 for failure. -/
def execSc (src tag hart addr : Nat) (data : Bytes) (s : State) : Out :=
  act s fun s =>
    if !s.jctOn then s
    else
      match s.sideOf addr with
      | none => s
      | some x =>
        let mine (r : JctSlot) : Bool := r.granule == addr / 64 && !(r.others src tag hart)
        if s.jct.slots.any mine then
          let s := s.modJct fun j => { j with slots := j.slots.filter fun r => !(mine r) }
          { (s.breakOthers src tag hart addr data.length).issueWrite x tag addr data with
            resp := { kind := .data, bytes := leBytes data.length 0 } }
        else
          { s.modSide x (fun d => { d with scFailed := sat16 d.scFailed }) with
            resp := { kind := .data, bytes := leBytes data.length 1 } }

/-- What an AMO of the A extension stores: 0 swap, 1 add, 2 xor, 3 and, 4 or, 5 min, 6 max, 7 minu, 8 maxu. -/
def amoResult (w op a b : Nat) : Nat :=
  let sg (v : Nat) : Int := if v.testBit (w - 1) then (v : Int) - 2 ^ w else v
  match op with
  | 0 => b
  | 1 => (a + b) % 2 ^ w
  | 2 => a ^^^ b
  | 3 => a &&& b
  | 4 => a ||| b
  | 5 => if sg a ≤ sg b then a else b
  | 6 => if sg a ≤ sg b then b else a
  | 7 => min a b
  | _ => max a b

/-- AMO (R359): reads its granule (`old` is what the far side holds, `readOk` that the read succeeded), computes and writes,
atomically; every reservation on the granule breaks. An AMO whose read fails writes nothing. -/
def execAmo (src tag hart addr len op operand old : Nat) (readOk : Bool) (s : State) : Out :=
  act s fun s =>
    if !s.jctOn then s
    else
      match s.sideOf addr with
      | none => s
      | some x =>
        let s := s.modJct fun j =>
          let l := j.slots.filter fun r => r.granule != addr / 64
          { j with slots := if l.length ≥ 16 then l.drop 1 else l }
        if readOk then
          let v := amoResult (8 * len) op (old % 2 ^ (8 * len)) (operand % 2 ^ (8 * len))
          { (s.breakOthers src tag hart addr len).issueWrite x tag addr (leBytes len v) with
            resp := { kind := .data, bytes := leBytes len old } }
        else { s.jctError x (if x = 2 then 5 else 2) tag 0 false false addr with resp := { kind := .error } }

/-- RESERVATION_TIMEOUT (R359): the oldest reservation breaks 4 µs after its LR. -/
def execReservationTimeout (s : State) : Out :=
  act s fun s =>
    match s.jct.slots with
    | [] => s
    | r :: l => if s.jctOn then (s.reach (r.sinceNs + 4000)).modJct fun j => { j with slots := l } else s

/-- PCIE_LINK_UP (R361): a port's link comes up or goes down. -/
def execPcieLinkUp (port : Nat) (up : Bool) (s : State) : Out :=
  act s fun s => s.modSide port fun d => { d with up := up }

end Sys2Proof.Machine
end

