-- ==== Sys2Proof/Machine/Reach.lean ====
section
/-! DEFINITION. Reachability of the other devices of a system, and LINK_STATE (R147, R441). -/

namespace Sys2Proof.Machine

/-- A device has become unreachable (R147, R438): its token entries are STALE, those
that nothing has written among them where it is device 0, and the transactions to it end. -/
def State.deviceLost (s : State) (d : Nat) : State :=
  let s : State := { s with sbx := { s.sbx with
    tokens := tmap s.sbx.tokens fun _ t => if t.srcDevice = d then { t with stale := true } else t
    freshStale := s.sbx.freshStale || d == 0 } }
  let ids := (s.mwl.txns.filter fun e => e.2.dst == d).map (·.1)
  ids.foldl (fun s id => s.endTxn id none) s

/-- The routes and MWL_REACH are recomputed. -/
def State.recompute (s : State) : State :=
  let old := s.mwl.reach
  let new := (List.range 48).foldl (fun m d => if s.reachableNow d then m + 2 ^ d else m) 0
  let s := s.modMwl fun m => { m with reach := new }
  let s := ((List.range 48).filter fun d => bit old d && !(bit new d)).foldl State.deviceLost s
  s.retryWaiting.settle

/-- LINK_STATE goes to every other device that a usable route leads to, heard from or not (R441; log entry 125). -/
def State.announce (s : State) : State :=
  if !s.mawynOn then s
  else
    let seq := wrapInc 32 s.mwl.seq
    let s := s.modMwl fun m => { m with seq := seq }
    ((List.range 48).filter fun d => d != s.ownDevice && inTorus s.trays s.slots d && (s.routeTo d).isSome).foldl
      (fun s d => s.mwlSend d true (fun fl => mwlHeader 0x11 fl d s.ownDevice 0 0 0 s.ownPorts 0 seq 0 0 0 0) []) s

/-- A port has changed state: the routes follow, and the other devices hear of it (R441). -/
def State.portChanged (s : State) : State := s.recompute.announce

end Sys2Proof.Machine
end

