-- ==== Sys2Proof/Machine/Mailbox.lean ====
section
/-! DEFINITION. The Stationmaster's service mailbox: taking requests, the answers that need no service, and the response
line (R399, R400). -/

namespace Sys2Proof.Machine

/-- SERVICE. -/
def MboxReq.service (r : MboxReq) : Nat := byteAt r.bytes 0
/-- RESP_ADDR. -/
def MboxReq.respAddr (r : MboxReq) : Nat := fld (le r.bytes 0x08 8) 0 48
/-- MSI_ADDR. -/
def MboxReq.msiAddr (r : MboxReq) : Nat := fld (le r.bytes 0x18 8) 0 48
/-- BODY. -/
def MboxReq.body (r : MboxReq) : Bytes := slice r.bytes 0x40 64

/-- The response to a mailbox request: one line under the requester's tag, and its interrupt once the line is acknowledged
(R399). -/
def State.mboxAnswer (s : State) (r : MboxReq) (mstatus : Nat) (body : Bytes) : State :=
  let line := leBytes 1 r.service ++ leBytes 1 mstatus ++ zeros 6 ++ slice r.bytes 0x10 8 ++ slice body 0 32 ++ zeros 16
  if r.respAddr = 0 then s.msi r.tag r.msiAddr (le r.bytes 0x20 4)
  else
    (s.devAccess (.reply r.tag r.msiAddr (le r.bytes 0x20 4)) r.tag (r.respAddr / 64 * 64) 64 true line).sendReplies

/-- The request at the head of the queue leaves it. -/
def State.mboxPop (s : State) : State := { s with stm := { s.stm with queue := s.stm.queue.drop 1 } }

/-- Reserved encodings of a mailbox request (R399); a RESP_ADDR or MSI_ADDR that is not aligned is one (DEDUCED, log entry
57). -/
def MboxReq.reserved (r : MboxReq) : Bool :=
  r.service == 0 || r.service > 6 || !(zeroAt r.bytes 1 7) || le r.bytes 0x0E 2 != 0 || le r.bytes 0x1E 2 != 0
    || !(zeroAt r.bytes 0x24 28) || r.respAddr % 64 != 0 || r.msiAddr % 4 != 0

/-- A request is answered BUSY (R400): RELOAD during a firmware update, FW_UPDATE LOAD during a reload. -/
def State.mboxBusy (s : State) (r : MboxReq) : Bool :=
  (r.service == 6 && byteAt r.body 0 == 1 && s.reload.busy)
    || (r.service == 5 && 1 ≤ s.stm.fwState && s.stm.fwState ≤ 4)

/-- A request whose service answers it whatever the operation: a reserved OP of the Consist or power service, with
RESERVED_ENCODING, or of the firmware update, with the STATE as it is. -/
def State.reservedOp (s : State) (r : MboxReq) : Option Bytes :=
  let op := byteAt r.body 0
  if r.service = 2 ∧ (op = 0 ∨ op > 9) then some (leBytes 1 1 ++ leBytes 1 (byteAt r.body 2) ++ zeros 14)
  else if r.service = 3 ∧ (op = 0 ∨ op > 3) then some (leBytes 1 1)
  else if r.service = 6 ∧ (op = 0 ∨ op > 3) then some (leBytes 1 s.stm.fwState)
  else none

/-- The MSTATUS and body with which the Stationmaster answers a request that reaches no operation; none where one
serves it (R400). -/
def State.mboxTurnAway (s : State) (r : MboxReq) : Option (Nat × Bytes) :=
  if r.reserved then some (1, [])
  else if r.service != 1 && !(s.stm.handshakes.contains r.tag) then some (2, [])
  else if s.mboxBusy r then some (3, [])
  else (s.reservedOp r).map ((0, ·))

/-- The requests at the head that need no service are answered, in order. -/
def State.mboxDrainN : Nat → State → State
  | 0, s => s
  | k + 1, s =>
    match s.stm.queue with
    | [] => s
    | r :: _ =>
      match s.mboxTurnAway r with
      | none => s
      | some (st, body) => State.mboxDrainN k (s.mboxPop.mboxAnswer r st body)

/-- Answer the requests at the head that need no service. -/
def State.mboxDrain (s : State) : State := State.mboxDrainN s.stm.queue.length s

/-- The request at the head that a service row is to serve, once those before it are answered: its SERVICE and the first
byte of its body are the row's. -/
def State.mboxHead (s : State) (service op : Nat) : Option MboxReq :=
  match s.stm.queue with
  | [] => none
  | r :: _ => if (s.mboxTurnAway r).isNone && r.service == service && byteAt r.body 0 == op then some r else none

/-- Serve the request at the head: `f` gives the state and the response body, or no body where the response waits. -/
def State.serveLater (s : State) (service op : Nat) (f : State → MboxReq → State × Option Bytes) : State :=
  if !s.fwLoops then s else
  let s := s.mboxDrain
  match s.mboxHead service op with
  | none => s
  | some r =>
    let q := f s.mboxPop r
    match q.2 with
    | some body => (q.1.mboxAnswer r 0 body).mboxDrain
    | none => q.1.mboxDrain

/-- Serve the request at the head: `f` gives the state and the response body. -/
def State.serve (s : State) (service op : Nat) (f : State → MboxReq → State × Bytes) : State :=
  s.serveLater service op fun s r => ((f s r).1, some (f s r).2)

/-- MBOX_TAKE (R399): a write covers bytes 0x00 to 0x07 of STM_MBOX; a full queue refuses it with an error response, as
does a watchdog that has expired (R421). -/
def State.mboxTake (s : State) (tag : Nat) (data : Bytes) : State :=
  if s.stm.wdogExpired then { s with resp := { kind := .error } } else
  let slot := slice data 0 8 ++ slice (s.stm.mboxSlot.drop 8) 0 120
  let s := { s with stm := { s.stm with mboxSlot := slot } }
  if s.stm.queue.length ≥ 32 then
    { s with stm := { s.stm with mboxRefused := sat16 s.stm.mboxRefused }, resp := { kind := .error } }
  else { s with stm := { s.stm with queue := s.stm.queue ++ [{ tag := tag, bytes := slot }] }, resp := { kind := .data } }

/-- MBOX_TAKE (R399). -/
def execMboxTake (tag : Nat) (data : Bytes) (s : State) : Out := act s fun s => s.mboxTake tag data

end Sys2Proof.Machine
end

