-- ==== Sys2Proof/Machine/RtsOps.lean ====
section
/-! DEFINITION. The Routesetter's operations that other blocks use: cancellation and the scrub of its stores (R237,
R246). -/

namespace Sys2Proof.Machine

/-- The jobs of an instance, queued and running. -/
def Rts.jobs (x : Rts) : List RtsJob :=
  x.planQueue ++ x.loadQueue ++ (match x.run with | some r => [r.job] | none => [])
    ++ (match x.load with | some l => [l.job] | none => [])

/-- A job that is cancelled leaves its node NOT_RUN and frees its context; a graph that has ended with it is closed. -/
def State.dropRoute (s : State) (j : RtsJob) : State :=
  let g := (s.node j.slot).graph
  let s := (s.modNode j.slot fun n => { n with notRun := true }).modCtx j.ctx fun x => { x with state := .free }
  if (s.graph g).endStatus ≠ 0 then s.closeGraph g else s

/-- The jobs of the contexts that satisfy a test are cancelled (R246): they write nothing further and make no report;
a commit before its swap point leaves the world unchanged. -/
def State.cancelRoutes (s : State) (p : Ctx → Bool) : State :=
  [0, 1].foldl (fun s i =>
    let x := s.rtsAt i
    let hit (j : RtsJob) : Bool := p (s.ctx j.ctx)
    let gone := x.jobs.filter hit
    let s1 := s.modRts i fun x =>
      { x with
        planQueue := x.planQueue.filter fun j => !(hit j)
        loadQueue := x.loadQueue.filter fun j => !(hit j)
        run := x.run.filter fun r => !(hit r.job)
        load := x.load.filter fun l => !(hit l.job) }
    gone.foldl State.dropRoute s1) s

/-- The internal stores are scrubbed (R231, R237): the world and the vehicle file are gone. -/
def State.rtsScrub (s : State) (i : Nat) : State :=
  s.modRts i fun x =>
    { x with
      worldValid := false, staticValid := false, vehicleValid := false, lostDynamic := false, lostStatic := false
      banks := [], statics := [], vehicle := [], leaves := [], hier := [], triCache := [], nodes := [], closed := []
      field := [] }

/-- The instance is idle: both engines, both queues (R237, R259). -/
def Rts.idle (x : Rts) : Bool := x.run.isNone && x.load.isNone && x.planQueue.isEmpty && x.loadQueue.isEmpty

/-- The stores of the instances that a Consist owns are scrubbed when the Consist is released (R237). -/
def State.rtsRelease (s : State) (tag : Nat) : State :=
  [0, 1].foldl (fun s i => if !(s.rtsAt i).noOwner && (s.rtsAt i).owner == tag then s.rtsScrub i else s) s

/-- WORLD_OWNER_WRITE (R237): accepted only while the instance is idle. -/
def execWorldOwnerWrite (rtsNo value : Nat) (s : State) : Out :=
  act s fun s =>
    if (s.rtsAt rtsNo).idle then
      (s.rtsScrub rtsNo).modRts rtsNo fun x => { x with owner := fld value 0 12, noOwner := bit value 12 }
    else s.modRts rtsNo fun x => { x with ownerRejected := true }

/-- RTS_OVERRUN_CLEAR (R254): CLEAR zeroes MAX_NS. -/
def execRtsOverrunClear (rtsNo value : Nat) (s : State) : Out :=
  act s fun s => if bit value 31 then s.modRts rtsNo fun x => { x with maxNs := 0 } else s

end Sys2Proof.Machine
end

