-- ==== Sys2Proof/Machine/Siding.lean ====
section
/-! DEFINITION. The Siding as a store: the rank states in their slots, and the bank mover's transfers (R153, R154, R158,
R163, R166). -/

namespace Sys2Proof.Machine

/-! ### Fields of a Consist's template (R180) -/

/-- CONTEXTS. -/
def Consist.contexts (c : Consist) : Nat := le c.tpl 0x10 2
/-- STATE_SLOTS. -/
def Consist.stateSlots (c : Consist) : Nat := le c.tpl 0x12 2
/-- SLOW_ROWS. -/
def Consist.slowRows (c : Consist) : Nat := le c.tpl 0x18 2
/-- PMU_VIRT. -/
def Consist.pmuVirt (c : Consist) : Bool := bit (byteAt c.tpl 0x03) 1
/-- LOG_OK. -/
def Consist.logOk (c : Consist) : Bool := bit (byteAt c.tpl 0x03) 0

/-- The bank slot 16 v + b of a siding area (R153). -/
def Consist.bankSlot (c : Consist) (i : Nat) : Nat := c.sidingBase + 0x10000 + i * 0x20000
/-- State slot `i` of a siding area (R153). -/
def Consist.stateSlot (c : Consist) (i : Nat) : Nat := c.sidingBase + 0x10000 + c.basinCap * 0x200000 + i * 0xC000

/-! ### The 43,008 bytes of a rank state (R70, R153). The order of the items and the layout of the last 1 KiB are the
model's (DESIGN CHOICE, log entry 116). -/

/-- `n` entries of a table of words of `w` bytes. -/
def tableBytes (t : Table Nat) (n w : Nat) : Bytes := ((List.range n).map fun i => leBytes w (tget 0 t i)).flatten
/-- A table of `n` words of `w` bytes. -/
def tableOf (bs : Bytes) (off n w : Nat) : Table Nat := (List.range n).map fun i => (i, le bs (off + w * i) w)

/-- The code of an accumulation type. -/
def AccType.code : AccType → Nat
  | .none => 0
  | .int => 1
  | .float => 2
/-- The accumulation type of a code. -/
def accTypeOf (n : Nat) : AccType := if n = 1 then .int else if n = 2 then .float else .none

/-- A magnitude m × 2^e as a 160-byte fixed-point number in units of 2⁻⁶⁰⁰. -/
def magBytes (t : Nat × Int) : Bytes :=
  leBytes 160 (if 0 ≤ t.2 + 600 then t.1 * 2 ^ (t.2 + 600).toNat else t.1 / 2 ^ (-(t.2 + 600)).toNat)

/-- What an accumulator set keeps beside its elements and checksums, in 168 bytes. -/
def AccSet.infoBytes (a : AccSet) : Bytes :=
  leBytes 1 a.type.code ++ leBytes 1 a.tBad ++ leBytes 1 (b2n a.nonfinite) ++ zeros 1 ++ leBytes 4 a.kT ++ magBytes a.t

/-- An accumulator set: its elements at `c`, its checksums at `q` and the rest at `i`. -/
def accSetOf (bs : Bytes) (c q i : Nat) : AccSet :=
  { type := accTypeOf (byteAt bs i), c := tableOf bs c 4096 4, p := tableOf bs q 64 4, q := tableOf bs (q + 256) 64 4
    kT := le bs (i + 4) 4, t := (le bs (i + 8) 160, -600), tBad := byteAt bs (i + 1) % 3, nonfinite := bit (byteAt bs (i + 2)) 0 }

/-- A started command with its progress, in 40 bytes. -/
def QCmd.bytes (q : QCmd) : Bytes := leBytes 1 1 ++ leBytes 2 q.idx ++ leBytes 4 q.done ++ zeros 1 ++ slice q.cmd 0 32

/-- The started commands that a rank state holds: at most four. -/
def queueOf (bs : Bytes) (off : Nat) : List QCmd :=
  (List.range 4).filterMap fun i =>
    let o := off + 40 * i
    if byteAt bs o = 1 then
      some { idx := le bs (o + 1) 2, cmd := slice bs (o + 8) 32, started := true, done := le bs (o + 3) 4 }
    else none

/-- The last 1 KiB: list position, scoreboard, SETRND state, flags, virtualised counters, what the accumulator sets keep
beside their elements, and the started commands. -/
def Basin.restBytes (b : Basin) : Bytes :=
  slice (leBytes 4 b.listPos ++ leBytes 4 b.scoreboard ++ leBytes 8 b.rnd.seed ++ leBytes 8 b.rnd.row0 ++ leBytes 8 b.rnd.col0
    ++ leBytes 8 b.rnd.rowLen ++ leBytes 8 (b2n b.accOvf + 2 * b2n b.nanSeen + 4 * b2n b.satHit + 8 * b2n b.pmu.virt)
    ++ tableBytes b.pmu.cnt 4 8 ++ leBytes 8 b.pmu.cycle
    ++ (tget {} b.acc 0).infoBytes ++ (tget {} b.acc 1).infoBytes ++ (b.queue.take 4 |>.map QCmd.bytes).flatten) 0 1024

/-- The rank state that a stop saves. -/
def Basin.stateBytes (b : Basin) : Bytes :=
  tableBytes (tget {} b.acc 0).c 4096 4 ++ tableBytes (tget {} b.acc 1).c 4096 4
    ++ tableBytes (tget {} b.acc 0).p 64 4 ++ tableBytes (tget {} b.acc 0).q 64 4
    ++ tableBytes (tget {} b.acc 1).p 64 4 ++ tableBytes (tget {} b.acc 1).q 64 4
    ++ tableBytes b.rill 2048 4 ++ b.restBytes

/-- The length of a rank state. -/
def rankStateBytes : Nat := 43008

/-- A Basin with a rank state loaded. -/
def Basin.loadState (b : Basin) (bs : Bytes) : Basin :=
  let f := le bs 0xA428 8
  { b with
    acc := [(0, accSetOf bs 0 0x8000 0xA458), (1, accSetOf bs 0x4000 0x8200 0xA500)]
    rill := tableOf bs 0x8400 2048 4
    listPos := le bs 0xA400 4, scoreboard := le bs 0xA404 4 % 65536
    rnd := { seed := le bs 0xA408 8, row0 := le bs 0xA410 8, col0 := le bs 0xA418 8, rowLen := le bs 0xA420 8 }
    accOvf := bit f 0, nanSeen := bit f 1, satHit := bit f 2
    queue := queueOf bs 0xA5A8
    pmu := if b.pmu.virt && bit f 3 then { b.pmu with cnt := tableOf bs 0xA430 4 8, cycle := le bs 0xA450 8 } else b.pmu }

/-! ### Causes of a teardown that the mover finds -/

/-- What the mover's work comes to. -/
inductive MoveEnd where
  /-- It is done. -/
  | done
  /-- An access is held, and the work is done later. -/
  | waits
  /-- An access to the siding area of a Consist failed: SIDING_ERROR (R169). -/
  | siding
  /-- An uncorrectable word stood in a bank (R166). -/
  | uncorrectable
  deriving DecidableEq, Repr

/-- The mover writes bytes to a siding area under a tag, line by line; an error response ends it (R154). A held write takes
effect later. -/
def State.putLines (s : State) (tag a : Nat) (bs : Bytes) : State × MoveEnd :=
  (List.range ((bs.length + 63) / 64)).foldl (fun (r : State × MoveEnd) i =>
    if r.2 = .done then
      let t := r.1.devWrite tag (a + 64 * i) (slice bs (64 * i) (min 64 (bs.length - 64 * i)))
      (t, if t.refused then .siding else .done)
    else r) (s, .done)

/-- The mover reads bytes of a siding area under a tag (R154). -/
def State.getLines (s : State) (tag a n : Nat) : State × MoveEnd × Bytes :=
  let r := s.fetchBytes tag a n
  match r.2 with
  | .got bs => (r.1, .done, bs)
  | .failed => (r.1, .siding, [])
  | .waits => (r.1, .waits, [])

/-- What a Pool bank is in the middle of comes to its end before the mover moves it: a power transition, and a handover
whose HANDOVER_BUSY the mover waits for (R166). -/
def State.settleBank (s : State) (k : Nat) : State :=
  (((((s.finishPower k).finishPower k).finishHandover k).finishPower k).finishPower k).settle

/-- A bank passes to a tag by SCRUB and is on (R158, R163). -/
def State.giveBank (s : State) (k tag : Nat) : State := (s.handoverNow k (tag + 0x20000)).finishPower k

/-- The virtual Basin of a Consist that is bound to a physical Basin. -/
def Consist.vbasinOf (c : Consist) (b : Nat) : Option Nat := (c.binding.find? fun e => e.2 == b).map (·.1)

/-- A slot's VALID bit is set or cleared. -/
def State.setSlot (s : State) (c i : Nat) (v : Bool) : State :=
  s.modConsist c fun x => { x with validMap := setFld x.validMap i 1 (b2n v) }

/-- A bank is parked for the Consist that owns it: copied to its slot, with its VALID bit set (R158, R163); an off bank is
never parked, and its slot is marked empty. The mover stands behind the Terrace's Sluice, so the bank alone judges its read. -/
def State.parkBank (s : State) (k : Nat) : State × MoveEnd :=
  let tag := (s.bank k).curOwner
  let c := consistOf tag
  match (s.consist c).vbasinOf (k / 16) with
  | none => (s, .done)
  | some v =>
    let i := 16 * v + k % 16
    if (s.bank k).pwrState = .off then (s.setSlot c i false, .done)
    else
      let t := (s.wakeNow k tag).bankMeet k { tag := tag, off := 0, len := 0x20000 }
      match t.resp.kind with
      | .data =>
        let r := t.putLines tag ((s.consist c).bankSlot i) t.resp.bytes
        (if r.2 = .done then r.1.setSlot c i true else r.1, r.2)
      | .held => (s, .waits)
      | _ => (t, .uncorrectable)

/-- What the mover read from a slot is put into the bank; the slot is empty from then on. -/
def State.putBank (c i k : Nat) (r : State × MoveEnd × Bytes) : State × MoveEnd :=
  if r.2.1 = .done then
    ((r.1.bankMeet k { tag := r.1.consistTag c, write := true, off := 0, len := 0x20000, data := r.2.2 }).setSlot c i false, .done)
  else (r.1, r.2.1)

/-- A bank that its new owner has parked is restored from its slot (R158, R163). -/
def State.restoreBank (s : State) (c i k : Nat) : State × MoveEnd :=
  State.putBank c i k (s.getLines (s.consistTag c) ((s.consist c).bankSlot i) 0x20000)

/-- The state slots of a Consist that hold a rank state. -/
def State.slotsHeld (s : State) (c : Nat) : List Nat :=
  ((s.ttb.ctxs.filter fun e => e.2.consist == c && e.2.state != .free).map fun e => e.2.ranks.filterMap (·.slot)).flatten

/-- The lowest free state slot of a Consist. -/
def State.freeStateSlot (s : State) (c : Nat) : Nat :=
  ((List.range ((s.consist c).stateSlots + 1)).find? fun k => !((s.slotsHeld c).contains k)).getD 0

end Sys2Proof.Machine
end

