-- ==== Sys2Proof/Machine/Turntable.lean ====
section
/-! DEFINITION. The Turntable: binding, preemption, charging, slow-down, teardown and the lease (chapter Turntable,
Time-slicing and Consists). -/

namespace Sys2Proof.Machine

/-! ### Contexts -/

/-- Context numbers in use (TTB_STATUS CTX_USED). -/
def State.ctxUsed (s : State) : Nat := (s.ttb.ctxs.filter fun e => e.2.state != .free).length

/-- A free context number for a node: 0 to 1,023 for SAFETY nodes, the others for Consists within their quota (R152). -/
def State.freeCtx (s : State) (c : Nat) : Option Nat :=
  let lo := if c = 0 then 0 else 1024
  let hi := if c = 0 then 1024 else 16384
  let own := (s.ttb.ctxs.filter fun e => e.2.state != .free && e.2.consist == c && e.1 ≥ 1024).length
  let k := ((List.range (s.ttb.ctxs.length + 1)).map (lo + ·)).find? fun k => (s.ctx k).state == .free
  match k with
  | some k => if k < hi && (c == 0 || own < (s.consist c).contexts) then some k else none
  | none => none

/-- The dispatch of a node is delayed for want of a context number or of room in its Consist's quota; it is counted once
(R152). -/
def State.ctxDelayed (s : State) (slot : Nat) : State :=
  if (s.node slot).ctxWait then s
  else
    { (s.modNode slot fun n => { n with ctxWait := true }) with
      ttb := { s.ttb with ctxWaits := satAdd 15 s.ttb.ctxWaits 1 } }

/-- A physical Basin takes no new context for a node: one holds it, its Terrace is not on (R407), or a preemption has freed
it for another node (R163). -/
def State.basinTaken (s : State) (slot b : Nat) : Bool :=
  s.basinBusy b || !(s.terraceOn (b / 8)) || s.ttb.preemptions.any fun e => e.2.inNode != slot && e.2.basins.contains b

/-- The ready nodes of SAFETY graphs in R136's order, or of one Consist: deadline first, then admission. -/
def State.readyKey (s : State) (k : Nat) : Nat × Nat × Nat :=
  let n := s.node k
  ((s.deadlineNs n).getD (2 ^ 100), n.graph, n.index)

/-- Lexicographic order of keys. -/
def keyLt (a b : Nat × Nat × Nat) : Bool :=
  a.1 < b.1 || (a.1 == b.1 && (a.2.1 < b.2.1 || (a.2.1 == b.2.1 && a.2.2 < b.2.2)))

/-- The first of a list of slots in R136's order. -/
def State.firstInOrder (s : State) : List Nat → Option Nat
  | [] => none
  | k :: r =>
    match s.firstInOrder r with
    | none => some k
    | some j => if keyLt (s.readyKey j) (s.readyKey k) then some j else some k

/-- The ready BASIN nodes that satisfy a test; a node of a graph that has ended runs no more (R143). -/
def State.readyBasin (s : State) (p : Node → Bool) : List Nat :=
  (s.sbx.nodes.filter fun e => e.2.state == .ready && e.2.type == 0 && !e.2.notRun && p e.2).map (·.1)

/-- The context of a node's slot that waits parked, or whose restore has begun. -/
def State.parkedCtx (s : State) (slot : Nat) : Option Nat :=
  (s.ttb.ctxs.find? fun e => (e.2.state == .parked || e.2.state == .resuming) && e.2.node == slot).map (·.1)

/-! ### Charging and slow-down (R159, R167, R168) -/

/-- Engine time is charged to the node's share group, its Consist and its graph, or to SAFETY (R159). -/
def State.charge (s : State) (slot c ns : Nat) : State :=
  let n := s.node slot
  let s := s.modGraph n.graph fun g => { g with basinNs := g.basinNs + ns }
  if c = 0 then { s with ttb := { s.ttb with safetyUsage := satAdd 64 s.ttb.safetyUsage ns } }
  else
    let (g, fold) := s.groupOf c n
    let s := s.modConsist c fun x =>
      { x with
        usage := satAdd 64 x.usage ns
        groupFolds := if fold then sat16 x.groupFolds else x.groupFolds }
    { s with ttb := { s.ttb with groups := tmod {} s.ttb.groups g fun e =>
      { e with usage := satAdd 64 e.usage ns } } }

/-- A free instant between a given one and now, which the mover's work or a binding fell on: the spec gives these times as
bounds only (log entry 117). -/
def State.freeInstant (s : State) (from_ : Nat) : Nat × State :=
  (from_ + (Config.freeWord s.freeCtr 0).toNat % (s.now - from_ + 1), s.draw.2)

/-- What a preempted context has still to be charged: from the stop of its ranks until its banks were parked and its state
saved (R159). -/
def State.chargeRest (s : State) (ctx : Nat) : State :=
  match tfind s.ttb.preemptions ctx with
  | none => s
  | some p =>
    if !p.ranksStopped then s
    else
      let x := s.ctx ctx
      let q := s.freeInstant p.stoppedNs
      q.2.charge x.node x.consist ((s.node x.node).units * (q.1 - p.stoppedNs))

/-- A preemption is over; a restore that it had begun has not taken place. -/
def State.endPreemption (s : State) (ctx : Nat) : State :=
  match tfind s.ttb.preemptions ctx with
  | none => s
  | some p =>
    { s with ttb := { s.ttb with
        preemptions := tdel s.ttb.preemptions ctx
        ctxs := tmap s.ttb.ctxs fun _ x =>
          if x.state = .resuming && x.node == p.inNode then { x with state := .parked } else x } }

/-- The slow-down row of a node; none where it is not measured (R168). -/
def State.slowRowOf (s : State) (c : Nat) (n : Node) : Option Nat :=
  if c = 0 then some (min n.cls 255)
  else
    let x := s.consist c
    if x.slowRows = 0 then none else some (x.firstSlowRow + min n.cls (x.slowRows - 1))

/-- A completed BASIN node's figures are added to its row (R167, R168). -/
def State.addSlow (s : State) (slot : Nat) (x : Ctx) : State :=
  let n := s.node slot
  match s.slowRowOf x.consist n with
  | none => s
  | some k =>
    let a := s.now - n.readyAt
    let st := max (a - (x.queuedNs + x.preemptNs + x.blamedNs)) 1
    { s with ttb := { s.ttb with slow := tmod {} s.ttb.slow k fun r =>
      { nodes := satAdd 64 r.nodes 1
        achieved := satAdd 64 r.achieved a
        standalone := satAdd 64 r.standalone st
        queued := satAdd 64 r.queued x.queuedNs
        preempted := satAdd 64 r.preempted x.preemptNs
        blamed := satAdd 64 r.blamed x.blamedNs
        maxSlowdown := max r.maxSlowdown (min (a * 65536 / st) 0xFFFFFFFF) } } }

/-! ### Stopping (R70, R135, R163) -/

/-- A stop request goes to every rank of a context that runs in its Basin (R135). -/
def State.stopRanks (s : State) (ctx : Nat) : State :=
  (s.ctx ctx).ranks.foldl (fun s r =>
    if r.done || (s.basin r.basin).context != ctx then s
    else s.modBasin r.basin fun b =>
      if b.list = .running then { b with list := .stopping, haloWaiting := false, walkerWaits := false } else b) s

/-- A failed list has come to its end: what had started is done, and its tap records are acknowledged or given up
(R23, R69). -/
def Basin.failedAtRest (b : Basin) : Bool := b.list == .failed && b.queue == [] && (b.status == 8 || !b.tapsOpen)

/-- A rank of a context has come to rest: complete, stopped, failed, or gone from its Basin. -/
def State.rankAtRest (s : State) (ctx : Nat) (r : Rank) : Bool :=
  let b := s.basin r.basin
  r.done || b.context != ctx || b.list == .stopped || b.list == .idle || b.failedAtRest

/-- Every rank of a context has come to rest. -/
def State.ctxAtRest (s : State) (ctx : Nat) : Bool := (s.ctx ctx).ranks.all (s.rankAtRest ctx)

/-- The first rank of a context whose list has failed and come to its end. -/
def State.failedRank (s : State) (ctx : Nat) : Option Rank :=
  (s.ctx ctx).ranks.find? fun r => !r.done && (s.basin r.basin).context == ctx && (s.basin r.basin).failedAtRest

/-- The Basins of a rank list become free. -/
def State.unbindRanks (s : State) (rs : List Rank) : State :=
  rs.foldl (fun s r => s.modBasin r.basin fun b =>
    { b with bound := false, list := .idle, queue := [], haloWaiting := false, walkerPin := none, walkerWaits := false }) s

/-- A context number becomes free. -/
def State.freeContext (s : State) (c : Nat) : State :=
  s.modCtx c fun x => { x with state := .free, ranks := x.ranks.map fun r => { r with slot := none, pin := none } }

/-- A context leaves its Basins, its work charged and measured (R159, R167), and its number is free. -/
def State.leaveBasins (s : State) (ctx : Nat) : State :=
  let x := s.ctx ctx
  let s := if x.rts.isSome then s
    else (s.charge x.node x.consist ((s.node x.node).units * (s.now - x.boundAt))).addSlow x.node x
  ((s.unbindRanks (x.ranks.filter fun r => (s.basin r.basin).context == ctx)).freeContext ctx).endPreemption ctx

/-! ### Teardown (R169 to R172) -/

/-- The state that a cause's teardown ends in (R169). -/
def afterCause (cause : Nat) : ConsistState := if cause = 0x40 then .expired else if cause = 0x42 then .free else .active

/-- Two causes of one teardown: DESTROY stands over all, a lease expiry over the others (R172). -/
def mergeAfter (a b : ConsistState) : ConsistState :=
  if a = .free ∨ b = .free then .free else if a = .expired ∨ b = .expired then .expired else .active

/-- A cause of R169's table. -/
def teardownCause (c : Nat) : Bool := (1 ≤ c && c ≤ 9) || c == 0x31 || (0x40 ≤ c && c ≤ 0x43)

/-- The 16-byte response of the Consist service. -/
def State.consistReply (s : State) (status c : Nat) : Bytes :=
  let x := s.consist c
  leBytes 1 status ++ leBytes 1 c ++ leBytes 2 x.generation ++ leBytes 2 x.firstGroup ++ leBytes 2 x.firstSlowRow ++ zeros 8

/-- Responses that wait for a Consist's log sync or quiescence, and can no longer be met, are sent with BAD_STATE. -/
def State.failReplies (s : State) (c : Nat) : State :=
  let x := s.consist c
  let s := match x.logReply with
    | some r => s.mboxAnswer r 0 (s.consistReply 6 c)
    | none => s
  let s := match x.quiesceReply with
    | some r => s.mboxAnswer r 0 (s.consistReply 6 c)
    | none => s
  s.modConsist c fun x => { x with logReply := none, quiesceReply := none, flipBusy := false }

/-- Steps 1 and 2 of a teardown (R171). An ACTIVE Consist's lease runs on during it; another's starts anew (DEDUCED, log
entry 118). -/
def State.teardownStart (s : State) (c cause basin node : Nat) : State :=
  let s := s.failReplies c
  let s := s.modConsist c fun x =>
    { x with
      state := .teardown, afterTeardown := afterCause cause, tornStopped := false, teardowns := sat8 x.teardowns
      leaseKick := if x.state = .active then x.leaseKick else s.now
      causeCode := if x.causeValid then x.causeCode else cause
      causeBasin := if x.causeValid then x.causeBasin else basin
      causeGen := if x.causeValid then x.causeGen else x.generation
      causeNode := if x.causeValid then x.causeNode else node
      causeValid := true }
  let mine := s.ttb.ctxs.filter fun e => e.2.consist == c && e.2.state != .free && e.2.rts.isNone
  let s := mine.foldl (fun s e =>
    match e.2.state with
    | .parked => ((s.chargeRest e.1).freeContext e.1).endPreemption e.1
    | .resuming => s.freeContext e.1
    | _ => (s.stopRanks e.1).modCtx e.1 fun x => { x with state := .stopping }) s
  s.cancelRoutes fun x => x.consist == c

/-- A teardown cause reaches the Turntable (R169, R171, R172): it starts a teardown, or merges into one. -/
def State.teardown (s : State) (c cause basin node : Nat) : State :=
  if !(teardownCause cause) then s
  else
    match (s.consist c).state with
    | .free => s
    | .teardown => s.modConsist c fun x => { x with afterTeardown := mergeAfter x.afterTeardown (afterCause cause) }
    | .expired => if cause = 0x41 ∨ cause = 0x42 then s.teardownStart c cause basin node else s
    | _ => s.teardownStart c cause basin node

/-- TEARDOWN (R171). -/
def execTeardown (consist cause basin node : Nat) (s : State) : Out :=
  act s fun s => s.teardown consist cause basin node

/-! ### Binding (R155 to R158) -/

/-- What the mover finds in a Consist's banks or siding area tears that Consist down (R166, R169). -/
def State.moverFault (s : State) (c k : Nat) (e : MoveEnd) : State :=
  match e with
  | .siding => s.teardown c 0x43 (k / 16) 0
  | .uncorrectable => s.teardown c 0x31 (k / 16) 0
  | _ => s

/-- A Consist may have its nodes bound. -/
def State.binds (s : State) (c : Nat) : Bool := (s.consist c).state == .active || (s.consist c).state == .quiescing

/-- A bank of another party is parked for it, or lost with it where that fails (R166); it then passes to a Consist, and its
parked contents are restored (R158, R163). -/
def State.moveBank (s : State) (c i k : Nat) : State × MoveEnd :=
  let b := s.bank k
  let p := if b.curFree then (s, .done) else s.parkBank k
  if p.2 = .waits then p
  else
    let t := (p.1.moverFault (consistOf b.curOwner) k p.2).giveBank k (s.consistTag c)
    if bit (t.consist c).validMap i then t.restoreBank c i k else (t, .done)

/-- One bank of a rank is made ready for its Consist (R158): a bank that no Consist owns, and a fenced one, stay. -/
def State.takeBank (s : State) (c v k : Nat) : State × MoveEnd :=
  let tag := s.consistTag c
  if !(s.bank k).curFree && (s.bank k).curOwner == tag && (s.bank k).handover.isNone then (s, .done)
  else
    let s := s.settleBank k
    let b := s.bank k
    let o := consistOf b.curOwner
    if b.fenced || (!b.curFree && (b.curOwner == tag || (s.consist o).state == .free || b.curOwner != s.consistTag o)) then
      (s, .done)
    else s.moveBank c (16 * v + k % 16) k

/-- The mover's work on a list of things, until one must wait or fails. -/
def State.moveAll {α : Type} (s : State) (l : List α) (f : State → α → State × MoveEnd) : State × MoveEnd :=
  l.foldl (fun (r : State × MoveEnd) a => if r.2 = .done then f r.1 a else r) (s, .done)

/-- A Consist's binding leaves a physical Basin (R156): the banks that it owns there are parked and become FREE. -/
def State.leaveBasin (s : State) (c basin : Nat) : State × MoveEnd :=
  s.moveAll ((List.range 16).map (16 * basin + ·)) fun s k =>
    let s := s.settleBank k
    if !(s.bank k).curFree && (s.bank k).curOwner == s.consistTag c then
      let p := s.parkBank k
      if p.2 = .waits then p else ((p.1.moverFault c k p.2).scrubFree k, .done)
    else (s, .done)

/-- The bindings of a node's ranks are made and its banks are ready (R156, R158). -/
def State.prepare (s : State) (c mask : Nat) (rs : List Rank) : State × MoveEnd :=
  let p := s.moveAll rs fun s r =>
    match tfind (s.consist c).binding r.vbasin with
    | some b => if b = r.basin then (s, .done) else s.leaveBasin c b
    | none => (s, .done)
  if p.2 ≠ .done then p
  else
    let s := p.1.modConsist c fun x => { x with binding := rs.foldl (fun t r => tset t r.vbasin r.basin) x.binding }
    s.moveAll rs fun s r => s.moveAll (maskBits mask 16) fun s k => s.takeBank c r.vbasin (16 * r.basin + k)

/-- The pool Basins that a Consist may use: those of its whole Terraces in a strict pool (R156, R162). -/
def State.poolBasins (s : State) (c : Nat) : List Nat :=
  let x := s.consist c
  (List.range 64).filter fun b =>
    s.basinRole b == 1 && s.basinPool b == x.pool && (!(s.poolStrict x.pool) || bit x.terraces (b / 8))

/-- A virtual Basin of another Consist is bound to a physical one. -/
def State.boundElse (s : State) (c b : Nat) : Bool :=
  s.ttb.consists.any fun e => e.1 != c && e.2.state != .free && e.2.binding.any fun x => x.2 == b

/-- The physical Basins that a node's virtual Basins may newly take: not taken, and of no other virtual Basin of the
Consist. -/
def State.openBasins (s : State) (slot c : Nat) (chosen : List Rank) : List Nat :=
  (s.poolBasins c).filter fun b =>
    !(s.basinTaken slot b) && ((s.consist c).vbasinOf b).isNone && !(chosen.any fun r => r.basin == b)

/-- A physical Basin for a virtual one that needs one (R156): in the Terrace of its virtual Terrace's others, else in a
Terrace with room for all of them, else any; one that another Consist is bound to only where no other is free. -/
def State.placeOne (s : State) (slot c v : Nat) (chosen : List Rank) : Option Nat :=
  let all := s.openBasins slot c chosen
  let free := all.filter fun b => !(s.boundElse c b)
  let kept := ((s.consist c).binding.filter fun e => !(s.basinTaken slot e.2)).map fun e => ({ vbasin := e.1, basin := e.2 } : Rank)
  let mates := ((chosen ++ kept).filter fun r => r.vbasin / 8 == v / 8).map fun r => r.basin / 8
  let room (t : Nat) : Bool :=
    decide ((free.filter fun b => b / 8 == t).length ≥ min 8 ((s.consist c).basinCap - v / 8 * 8))
  (free.find? fun b => mates.contains (b / 8)).or <|
    (free.find? fun b => room (b / 8)).or <| free.head?.or <| (all.find? fun b => mates.contains (b / 8)).or all.head?

/-- A running context of the Consist, other than a node's own, holds a virtual Basin (R155). -/
def State.vbasinBusy (s : State) (slot c v : Nat) : Bool :=
  s.ttb.ctxs.any fun e =>
    (e.2.state == .running || e.2.state == .stopping) && e.2.consist == c && e.2.rts.isNone && e.2.node != slot
      && e.2.ranks.any fun r => r.vbasin == v

/-- Physical Basins for the virtual Basins of a node (R156): a binding stays unless its Basin is off or another party's;
none where one cannot be placed now. -/
def State.placeAll (s : State) (slot c : Nat) : List Nat → List Rank → Option (List Rank)
  | [], chosen => some chosen
  | v :: r, chosen =>
    if s.vbasinBusy slot c v then none
    else
      let b := match tfind (s.consist c).binding v with
        | some b => if s.basinTaken slot b then s.placeOne slot c v chosen else some b
        | none => s.placeOne slot c v chosen
      match b with
      | some b => s.placeAll slot c r (chosen ++ [{ vbasin := v, basin := b }])
      | none => none

/-- The virtual Basins that a node of a Consist names (R155). -/
def State.nodeBasins (s : State) (slot : Nat) : List Nat :=
  let n := s.node slot
  (s.virtualBasins (s.graph n.graph).consist n.terraces).take n.units

/-- The ranks of a node of a Consist, if it can be placed on free pool Basins now (R155, R160). -/
def State.placement (s : State) (slot : Nat) : Option (List Rank) :=
  s.placeAll slot (s.graph (s.node slot).graph).consist (s.nodeBasins slot) []

/-- The Basins of a context are bound under its tag, and every rank's list is sent to its sequencer in the same step
(R64, R128, R135, R151): rank r's starts at KERNEL_PTR + 32 × LIST_STRIDE × r. A rank whose list is complete starts
none. -/
def State.bindRanks (s : State) (ctx slot tag gen : Nat) (virt : Bool) (rs : List Rank) : State :=
  let n := s.node slot
  (List.range rs.length).foldl (fun s i =>
    let r := rs.getD i {}
    let s := s.modBasin r.basin fun b => { b with pmu := { b.pmu with virt := b.pmu.virt || virt } }
    if r.done then s.bindBasin r.basin ctx tag slot gen
    else s.startList r.basin (n.kernelPtr + 32 * n.listStride * i) ctx tag slot gen) s

/-- What was read of a saved rank is loaded into its Basin, whose walker holds the pin that parking kept (R213). -/
def State.loadRank (r : Rank) (q : State × MoveEnd × Bytes) : State × MoveEnd :=
  if q.2.1 ≠ .done then (q.1, q.2.1)
  else
    let s := match r.pin with
      | some p => { q.1 with kvc := { q.1.kvc with pins := tmod {} q.1.kvc.pins p fun e => { e with basin := some r.basin } } }
      | none => q.1
    (s.modBasin r.basin fun b => { b.loadState q.2.2 with walkerPin := r.pin, walkerWaits := false }, .done)

/-- A rank that was saved continues at its saved position (R163 step 5). -/
def State.restoreRank (s : State) (c : Nat) (r : Rank) : State × MoveEnd :=
  match r.slot with
  | none => (s, .done)
  | some k => State.loadRank r (s.getLines (s.consistTag c) ((s.consist c).stateSlot k) rankStateBytes)

/-- Bind a new context for a ready node of a Consist on the given ranks. -/
def State.bindNew (s : State) (slot ctx : Nat) (rs : List Rank) : State × MoveEnd :=
  let n := s.node slot
  let c := (s.graph n.graph).consist
  let gen := (s.graph n.graph).generation
  let p := s.prepare c n.bankMask rs
  if p.2 ≠ .done || !(p.1.binds c) then p
  else
    let s := p.1.bindRanks ctx slot (s.consistTag c) gen (s.consist c).pmuVirt rs
    let s := s.modNode slot fun n => { n with state := .running, context := ctx }
    (s.modCtx ctx fun _ =>
      { state := .running, node := slot, consist := c, generation := gen, ranks := rs
        boundAt := s.now, firstBound := s.now, queuedNs := s.now - n.readyAt }, .done)

/-- Bind a parked context again, its banks and ranks restored (R163 steps 4 to 6). -/
def State.bindParked (s : State) (ctx : Nat) (rs : List Rank) : State × MoveEnd :=
  let x := s.ctx ctx
  let n := s.node x.node
  let c := x.consist
  let rs := (rs.zip x.ranks).map fun e => { e.2 with vbasin := e.1.vbasin, basin := e.1.basin, stopped := false }
  let p := s.prepare c n.bankMask rs
  if p.2 ≠ .done || !(p.1.binds c) then p
  else
    let t := p.1.bindRanks ctx x.node (s.consistTag c) x.generation (s.consist c).pmuVirt rs
    let q := t.moveAll rs fun s r => s.restoreRank c r
    if q.2 ≠ .done then ((q.1.unbindRanks rs).modCtx ctx fun x => { x with state := .parked }, q.2)
    else
      (q.1.modCtx ctx fun x =>
        { x with
          state := .running, ranks := rs.map fun r => { r with slot := none, pin := none }
          boundAt := s.now, preemptNs := x.preemptNs + (s.now - x.preemptAt) }, .done)

/-- A context of a node is bound. -/
def State.nodeBound (s : State) (slot : Nat) : Bool :=
  s.ttb.ctxs.any fun e => e.2.state == .running && e.2.node == slot && e.2.rts.isNone

/-- Bind a picked node where it can be placed: a transfer that must wait leaves it for later, and an error on its
Consist's siding area tears that Consist down (R166). -/
def State.bindPicked (s : State) (slot : Nat) (rs : List Rank) : State :=
  let c := (s.graph (s.node slot).graph).consist
  let r := match s.parkedCtx slot with
    | some ctx => s.bindParked ctx rs
    | none =>
      match s.freeCtx c with
      | some ctx => s.bindNew slot ctx rs
      | none => (s.ctxDelayed slot, .done)
  match r.2 with
  | .done => r.1
  | .waits => s
  | e => r.1.moverFault c (16 * (rs.headD {}).basin) e

/-! ### Selection (R155, R160) -/

/-- The slots of a Consist's nodes that wait to run: ready, or parked; those that a preemption makes room for are out of
the selection (R163). -/
def State.waitingNodes (s : State) (c : Nat) : List Nat :=
  ((s.readyBasin fun n => (s.graph n.graph).consist == c)
    ++ ((s.ttb.ctxs.filter fun e => e.2.state == .parked && e.2.consist == c).map fun e => e.2.node)).filter
      fun k => !(s.ttb.preemptions.any fun e => e.2.inNode == k)

/-- Of two nodes with a common virtual Basin the one that became ready first runs first (R155): another of the list comes
before node `k`. -/
def State.heldBack (s : State) (l : List Nat) (k : Nat) : Bool :=
  l.any fun j =>
    j != k && keyLt ((s.node j).readyAt, (s.node j).graph, (s.node j).index) ((s.node k).readyAt, (s.node k).graph, (s.node k).index)
      && (s.nodeBasins j).any fun v => (s.nodeBasins k).contains v

/-- The slots of a Consist's nodes that may run next. -/
def State.wanting (s : State) (c : Nat) : List Nat :=
  let l := s.waitingNodes c
  l.filter fun k => !(s.heldBack l k)

/-- The Consists of a pool that have something to run. -/
def State.wantingConsists (s : State) (pool : Nat) : List Nat :=
  (s.ttb.consists.filter fun e => s.binds e.1 && e.2.pool == pool && s.wanting e.1 != []).map (·.1)

/-- The number with the least key; ties go to the lower number. -/
def leastBy (key : Nat → Nat) : List Nat → Option Nat
  | [] => none
  | k :: r =>
    match leastBy key r with
    | none => some k
    | some j => if key j < key k ∨ (key j = key k ∧ j < k) then some j else some k

/-- The node that R160's loop picks in a pool: the Consist with the least V_c, its group with the least V_g, and the
first in R136's order. -/
def State.pick (s : State) (pool : Nat) : Option Nat :=
  match leastBy (fun c => (s.consist c).vtime) (s.wantingConsists pool) with
  | none => none
  | some c =>
    let groups := (s.wanting c).map fun k => (s.groupOf c (s.node k)).1
    match leastBy (fun g => (tget {} s.ttb.groups g).vtime) groups with
    | none => none
    | some g => s.firstInOrder ((s.wanting c).filter fun k => (s.groupOf c (s.node k)).1 == g)

/-- CONTEXT_BIND (R160): the Turntable picks a node by virtual time and binds it to free Basins of the pool. -/
def execContextBind (pool : Nat) (s : State) : Out :=
  act s fun s =>
    match s.pick pool with
    | none => s
    | some slot =>
      match s.placement slot with
      | some rs => s.bindPicked slot rs
      | none => s

/-- SAFETY_DISPATCH (R136): the first ready SAFETY BASIN node in deadline order is dispatched when its express Basins
are idle. -/
def State.safetyDispatch (s : State) : State :=
  match s.firstInOrder (s.readyBasin fun n => n.flag 0) with
  | none => s
  | some slot =>
    let n := s.node slot
    let idle := (s.expressBasins n.terraces).filter fun b => !(s.basinTaken slot b)
    if idle.length < n.units then s
    else
      match s.freeCtx 0 with
      | none => s.ctxDelayed slot
      | some ctx =>
        let g := s.graph n.graph
        let rs := (idle.take n.units).map fun b => ({ vbasin := b, basin := b } : Rank)
        let t := s.bindRanks ctx slot (s.ring g.ring).ownerTag g.generation false rs
        (t.modNode slot fun n => { n with state := .running, context := ctx }).modCtx ctx fun _ =>
          { state := .running, node := slot, consist := 0, generation := g.generation, ranks := rs
            boundAt := s.now, firstBound := s.now, queuedNs := s.now - n.readyAt }

/-- SAFETY_DISPATCH (R136). -/
def execSafetyDispatch (s : State) : Out := act s fun s => s.safetyDispatch

/-! ### Completion of a node's work (R137, R142, R143, R169, R170) -/

/-- A completed context leaves its Basins and its node completes. -/
def State.finishContext (s : State) (ctx st cmd : Nat) : State :=
  (((s.leaveBasins ctx).completeNode (s.ctx ctx).node st cmd)).settle

/-- A node fails (R143): its graph ends; a Consist is torn down (R169), and a SAFETY context has its other ranks stopped
(R135, R170). -/
def State.failContext (s : State) (ctx st cmd basin : Nat) : State :=
  let x := s.ctx ctx
  let s := s.noteFailure (s.node x.node).graph (s.node x.node) st cmd
  if x.consist = 0 then (s.stopRanks ctx).modCtx ctx fun x => { x with state := .stopping }
  else s.teardown x.consist st basin x.node

/-- The status that a context's work has come to: none while it runs. -/
def Ctx.workStatus (x : Ctx) : Option Nat :=
  match x.rts with
  | some _ => x.routeStatus
  | none => if x.ranks.all (·.done) then some 0 else none

/-- NODE_COMPLETE (R137, R142): the work of a context is done, or has failed; a completion of an old generation is
discarded. -/
def State.nodeComplete (s : State) (ctx gen : Nat) : State :=
  let x := s.ctx ctx
  if x.state = .free ∨ x.generation ≠ gen then
    let s := { s with sbx := { s.sbx with genDiscards := sat16 s.sbx.genDiscards } }
    if x.consist = 0 then s else s.modConsist x.consist fun c => { c with lateCompletions := sat16 c.lateCompletions }
  else
    match s.failedRank ctx with
    | some r =>
      let b := s.basin r.basin
      if x.consist = 0 && s.ctxAtRest ctx then s.finishContext ctx b.status b.failIndex
      else s.failContext ctx b.status b.failIndex r.basin
    | none =>
      match x.workStatus with
      | none => s
      | some st => s.finishContext ctx st 0

/-- NODE_COMPLETE (R137). -/
def execNodeComplete (context generation : Nat) (s : State) : Out := act s fun s => s.nodeComplete context generation

/-! ### Preemption (R161, R163) -/

/-- State slots of a Consist that are held, or that contexts being stopped for a preemption will take. -/
def State.slotsUsed (s : State) (c : Nat) : Nat :=
  (s.slotsHeld c).length
    + ((s.ttb.preemptions.filter fun e => !e.2.ranksStopped && (s.ctx e.1).consist == c).map fun e =>
        (s.node (s.ctx e.1).node).units).sum

/-- A running context qualifies for preemption in favour of a node's Consist (R161). -/
def State.qualifies (s : State) (pool slot ctx : Nat) : Bool :=
  let x := s.ctx ctx
  let c := (s.graph (s.node slot).graph).consist
  let y := s.consist x.consist
  let gm := (tget {} s.ttb.groups (s.groupOf x.consist (s.node x.node)).1).vtime
  let gn := (tget {} s.ttb.groups (s.groupOf c (s.node slot)).1).vtime
  x.state == .running && x.rts.isNone && x.consist != 0 && y.pool == pool
    && s.now - x.boundAt ≥ s.quantumNs pool
    && (if x.consist = c then gm > gn else y.vtime > (s.consist c).vtime)
    && s.slotsUsed x.consist + (s.node x.node).units ≤ y.stateSlots

/-- The node could be placed if a context's Basins were free. -/
def State.placeableWithout (s : State) (slot ctx : Nat) : Bool :=
  ((s.modCtx ctx fun x => { x with state := .parked }).placement slot).isSome

/-- A context is preempted in favour of a node (R163 step 1). -/
def State.preempt (s : State) (ctx slot : Nat) : State :=
  let x := s.ctx ctx
  let p : Preemption :=
    { inNode := slot, start := s.now, terraces := (x.ranks.map fun r => 2 ^ (r.basin / 8)).foldl (· ||| ·) 0 }
  let t := (s.stopRanks ctx).modCtx ctx fun x => { x with state := .stopping, preemptAt := s.now }
  { t with ttb := { t.ttb with preemptions := tset t.ttb.preemptions ctx p } }

/-- R160's loop at a quantum tick: bind what can be placed, preempt for what qualifies, and stop at the first node for which
neither can be done. -/
def State.selectN : Nat → State → Nat → State
  | 0, s, _ => s
  | fuel + 1, s, pool =>
    match s.pick pool with
    | none => s
    | some slot =>
      match s.placement slot with
      | some rs =>
        let t := s.bindPicked slot rs
        if t.nodeBound slot then State.selectN fuel t pool else t
      | none =>
        match s.ttb.ctxs.find? fun e => s.qualifies pool slot e.1 && s.placeableWithout slot e.1 with
        | none => s
        | some (ctx, _) => State.selectN fuel (s.preempt ctx slot) pool

/-- QUANTUM_TICK (R161): the selection runs again, and may preempt running QM nodes. -/
def State.quantumTick (s : State) (pool : Nat) : State :=
  State.selectN (s.sbx.nodes.length + s.ttb.ctxs.length) s pool

/-- QUANTUM_TICK (R161). -/
def execQuantumTick (pool : Nat) (s : State) : Out := act s fun s => s.quantumTick pool

/-- The rank states of a stopped context are written to state slots of its Consist (R153, R163 step 3). -/
def State.saveRanks (s : State) (ctx : Nat) : State × MoveEnd :=
  let c := (s.ctx ctx).consist
  s.moveAll (s.ctx ctx).ranks fun s r =>
    if r.done then (s, .done)
    else
      let k := s.freeStateSlot c
      let q := (s.countOn r.basin).putLines (s.consistTag c) ((s.consist c).stateSlot k) (s.basin r.basin).stateBytes
      (q.1.markRank ctx r.basin fun y => { y with slot := some k, pin := (s.basin r.basin).walkerPin }, q.2)

/-- A context whose ranks have all stopped is parked (R163 steps 2 and 3): it is charged up to here, and leaves its
Basins. -/
def State.parkCtx (s : State) (ctx : Nat) : State × MoveEnd :=
  let x := s.ctx ctx
  let n := s.node x.node
  let p := s.saveRanks ctx
  if p.2 ≠ .done then p
  else
    let s := p.1.charge x.node x.consist (n.units * (s.now - x.boundAt))
    let s := s.unbindRanks (x.ranks.filter fun r => (s.basin r.basin).context == ctx)
    let s := s.modGraph n.graph fun g => { g with preempted := true }
    (s.modCtx ctx fun x => { x with state := .parked }, .done)

/-- Step 2 of a preemption is past: its Basins are kept for the incoming node, whose parked context starts to resume. -/
def State.holdBasins (s : State) (ctx : Nat) (p : Preemption) : State :=
  let q : Preemption :=
    { p with
      ranksStopped := true, stoppedNs := s.now
      basins := match s.placement p.inNode with
        | some rs => rs.map (·.basin)
        | none => [] }
  let s := { s with ttb := { s.ttb with preemptions := tset s.ttb.preemptions ctx q } }
  match s.parkedCtx p.inNode with
  | some i => s.modCtx i fun x => { x with state := .resuming }
  | none => s

/-- Steps 2 and 3 of a preemption (R163, R166): with every outgoing rank stopped its state is saved; if every rank
had completed, the stop is void. -/
def State.preemptStopped (s : State) (ctx : Nat) : State :=
  match tfind s.ttb.preemptions ctx with
  | none => s
  | some p =>
    let x := s.ctx ctx
    if p.ranksStopped then s
    else if x.state != .stopping then s.endPreemption ctx
    else if x.ranks.all (·.done) then (s.modCtx ctx fun x => { x with state := .running }).endPreemption ctx
    else if x.ranks.all fun r => r.done || r.stopped then
      let q := s.parkCtx ctx
      match q.2 with
      | .done => q.1.holdBasins ctx p
      | .waits => s
      | e => (q.1.endPreemption ctx).moverFault x.consist (16 * (x.ranks.headD {}).basin) e
    else s

/-- PREEMPT_RANKS_STOPPED (R163): each preemption whose outgoing ranks have all stopped goes on, one after another. -/
def execPreemptRanksStopped (s : State) : Out :=
  act s fun s => s.ttb.preemptions.foldl (fun s e => s.preemptStopped e.1) s

/-- A node still waits to be bound: ready, or with a parked context, and its Consist has its nodes bound. -/
def State.stillWanted (s : State) (slot : Nat) : Bool :=
  s.binds (s.graph (s.node slot).graph).consist && ((s.readyBasin fun _ => true).contains slot || (s.parkedCtx slot).isSome)

/-- The latency of a preemption is recorded (R165). -/
def State.noteLatency (s : State) (ns : Nat) : State :=
  { s with ttb := { s.ttb with
      maxNs := min (max s.ttb.maxNs ns) 0xFFFFFFFF
      overBound := if ns > 100000 then sat16 s.ttb.overBound else s.ttb.overBound } }

/-- The incoming node of a preemption is bound, at a free instant of the step (R159), and the latency recorded where it is
(R163 steps 4 to 6, R165). -/
def State.bindIncoming (s : State) (p : Preemption) : State :=
  match s.placement p.inNode with
  | none => s
  | some rs =>
    let t := s.bindPicked p.inNode rs
    if t.nodeBound p.inNode then
      let q := t.freeInstant p.stoppedNs
      (q.2.modCtx (t.node p.inNode).context fun x => { x with boundAt := q.1 }).noteLatency (s.now - p.start)
    else t

/-- PREEMPT_MOVES_DONE (R163 steps 4 to 6, R165, R166): the incoming context is bound. `badBanks` are banks in which the
copy-out meets an uncorrectable word; `badSlots` says that the copy-in met one. -/
def State.preemptMoved (s : State) (ctx : Nat) (badBanks : List Nat) (badSlots : Bool) : State :=
  match tfind s.ttb.preemptions ctx with
  | none => s
  | some p =>
    if !p.ranksStopped then s
    else
      let s := badBanks.foldl (fun s k => s.modBank k fun b => { b with poison := insertNat 0 b.poison }) s
      let s := (s.chargeRest ctx).endPreemption ctx
      let c := (s.graph (s.node p.inNode).graph).consist
      if !(s.stillWanted p.inNode) then s
      else if badSlots && ((s.parkedCtx p.inNode).isSome || (s.consist c).validMap != 0) then s.teardown c 0x43 0 p.inNode
      else s.bindIncoming p

/-- PREEMPT_MOVES_DONE (R163). -/
def execPreemptMovesDone (context : Nat) (bad : BadMoves) (s : State) : Out :=
  act s fun s => s.preemptMoved context bad.banks bad.slots

/-! ### The later steps of a teardown (R171, R175) -/

/-- A context of a Consist that is torn down goes (R171 step 3): a node that failed completes with its status, so that its
graph's record counts it (R143). -/
def State.dropContext (s : State) (ctx : Nat) : State :=
  let x := s.ctx ctx
  match s.failedRank ctx with
  | some r => (s.leaveBasins ctx).completeNode x.node (s.basin r.basin).status (s.basin r.basin).failIndex
  | none => s.leaveBasins ctx

/-- The banks that a tag owns, or that a handover is giving it. -/
def State.banksOf (s : State) (tag : Nat) : List Nat :=
  (s.banks.filter fun e =>
    (!e.2.curFree && e.2.curOwner == tag)
      || (match e.2.handover with | some h => !h.free && h.owner == tag | none => false)).map (·.1)

/-- The preemptions that bring a Consist's node in are abandoned (R166). -/
def State.dropIncoming (s : State) (c : Nat) : State :=
  (s.ttb.preemptions.filter fun e => (s.graph (s.node e.2.inNode).graph).consist == c).foldl (fun s e =>
    (s.chargeRest e.1).endPreemption e.1) s

/-- TEARDOWN_RANKS_STOPPED (R171 steps 3 to 5): with every rank at rest the contexts go, the generation advances, and the
banks are handed to FREE by SCRUB. -/
def State.teardownStopped (s : State) (c : Nat) : State :=
  let x := s.consist c
  let mine := (s.ttb.ctxs.filter fun e => e.2.consist == c && e.2.state != .free).map (·.1)
  if x.state != .teardown || x.tornStopped || !(mine.all s.ctxAtRest) then s
  else
    let s := mine.foldl State.dropContext (s.dropIncoming c)
    let s := (s.generationAdvance c).kvcGenDrop c
    let s := (s.banksOf (s.consistTag c)).foldl State.scrubFree s
    s.modConsist c fun x =>
      { x with generation := nextGen x.generation, validMap := 0, binding := [], tornStopped := true }

/-- TEARDOWN_RANKS_STOPPED (R171). -/
def execTeardownRanksStopped (consist : Nat) (s : State) : Out := act s fun s => s.teardownStopped consist

/-- The pages of a Consist's siding area return to its driver's ownership (R175). -/
def State.releaseSiding (s : State) (c tag : Nat) : State :=
  let x := s.consist c
  let bytes := 0x10000 + x.basinCap * 0x200000 + x.stateSlots * 0xC000
  (List.range ((bytes + 4095) / 4096)).foldl (fun s i =>
    s.modOwner (x.sidingBase / 4096 + i) fun e => { e with owner := tag, free := false }) s

/-- Everything a Consist holds is released (R175). -/
def State.releaseConsist (s : State) (c : Nat) : State :=
  let x := s.consist c
  let s := ((s.releaseSiding c x.driverTag).kvcDestroy c).rtsRelease (s.consistTag c)
  let groups := (List.range x.shareGroups).foldl (fun t i => tdel t (x.firstGroup + i)) s.ttb.groups
  let slow := (List.range x.slowRows).foldl (fun t i => tdel t (x.firstSlowRow + i)) s.ttb.slow
  { s with ttb := { s.ttb with groups := groups, slow := slow, consists := tdel s.ttb.consists c } }

/-- TEARDOWN_SCRUB_DONE (R171 step 6): STATE is set as the cause says and the teardown interrupt is sent. -/
def State.teardownDone (s : State) (c : Nat) : State :=
  let x := s.consist c
  if x.state != .teardown || !x.tornStopped then s
  else
    let s := s.msi s.sbxTag x.tearMsiAddr x.tearMsiData
    if x.afterTeardown = .free then s.releaseConsist c
    else s.modConsist c fun x => { x with state := x.afterTeardown, tornStopped := false }

/-- TEARDOWN_SCRUB_DONE (R171). -/
def execTeardownScrubDone (consist : Nat) (s : State) : Out := act s fun s => s.teardownDone consist

/-! ### The lease (R176) -/

/-- The lease of a Consist in ns. -/
def State.leaseNs (s : State) (c : Nat) : Nat := s.poolField (s.consist c).pool 8 4 * 1000000

/-- LEASE_CHECK (R172, R176): every ACTIVE Consist whose lease was not renewed in time is torn down with LEASE_EXPIRED; an
expiry during a teardown for another cause merges into it. -/
def State.leaseCheck (s : State) : State :=
  let due := (s.ttb.consists.filter fun e =>
    (e.2.state == .active || e.2.state == .teardown) && s.now ≥ e.2.leaseKick + s.leaseNs e.1).map (·.1)
  due.foldl (fun s c => s.teardown c 0x40 0 0) s

/-- LEASE_CHECK (R176). -/
def execLeaseCheck (s : State) : Out := act s fun s => s.leaseCheck

/-- KICK (R176): DRIVER_TAG renews the lease; a late one is counted, any other tag's ignored. -/
def execKick (consist tag : Nat) (s : State) : Out :=
  act s fun s =>
    let x := s.consist consist
    if x.state = .free ∨ tag ≠ x.driverTag then s
    else if x.state = .expired ∨ (x.state = .teardown ∧ x.afterTeardown = .expired) then
      s.modConsist consist fun x => { x with lateKicks := sat8 x.lateKicks }
    else s.modConsist consist fun x => { x with leaseKick := s.now }

/-! ### Registers of the block -/

/-- CST_BANK_PWR (R102, R158): the power state of a resident bank, through BANK_CTL as the Turntable writes it for the
bank's owner, or off for a parked one. -/
def execCstBankPwr (consist value : Nat) (s : State) : Out :=
  act s fun s =>
    let v := fld value 0 6
    let b := fld value 8 4
    let p := fld value 12 2
    let x := s.consist consist
    if p = 3 ∨ x.state = .free then s
    else
      let resident := match tfind x.binding v with
        | some phys =>
          let k := 16 * phys + b
          if !(s.bank k).curFree && (s.bank k).curOwner == s.consistTag consist then some k else none
        | none => none
      match resident with
      | some k => s.bankCtlWrite k ((s.bank k).ctlOwner + 0x10000 * p) .turntable none
      | none => if p = 0 then s.setSlot consist (16 * v + b) false else s

/-- TTB_SLOW_CLEAR (R168): COUNT rows from FIRST are zeroed; a COUNT of 0 has no effect. -/
def execTtbSlowClear (value : Nat) (s : State) : Out :=
  act s fun s =>
    let first := fld value 0 12
    let count := min (fld value 12 9) 256
    { s with ttb := { s.ttb with slow := s.ttb.slow.filter fun e => e.1 < first || first + count ≤ e.1 } }

/-- PREEMPT_CLEAR (R165): CLEAR zeroes TTB_PREEMPT. -/
def execPreemptClear (s : State) : Out :=
  act s fun s => { s with ttb := { s.ttb with maxNs := 0, overBound := 0, ctxWaits := 0 } }

/-- CANCEL (R144): the ring's graphs in flight stop with status CANCELLED and the ring is disarmed; their running planner
jobs stop (R246). -/
def execCancel (ring : Nat) (s : State) : Out :=
  act s fun s => (s.cancelRing ring).cancelRoutes fun x => (s.graph (s.node x.node).graph).ring == ring

/-- BANK_ACCESS (R91, R96): a Basin that is faulted ends its list, and an uncorrectable word that a Basin reads tears its
context down. -/
def State.bankAccess (s : State) (k : Nat) (r : BankReq) : State :=
  let t := s.bankMeet k r
  match r.origin with
  | .basin n =>
    let b := t.basin n
    let x := t.ctx b.context
    if (s.basin n).list.open && b.list = .failed && b.status = 0x31 && x.state != .free && x.ranks.any (fun q => q.basin == n) then
      t.failContext b.context 0x31 b.failIndex n
    else t
  | _ => t

/-- BANK_ACCESS (R96). -/
def execBankAccess (bank : Nat) (req : BankReq) (s : State) : Out := act s fun s => s.bankAccess bank req

end Sys2Proof.Machine
end

