-- ==== Sys2Proof/Machine/Power.lean ====
section
/-! DEFINITION. Power domains and the power service, the control loops, the clamp, the watchdog, the log ring and the
island supplies (R389 to R391, R404 to R416, R421 to R427). -/

namespace Sys2Proof.Machine

/-- Change the power state. -/
def State.modPwr (s : State) (f : Pwr → Pwr) : State := { s with pwr := f s.pwr }

/-! ### Domains (R404) -/

/-- The switchable domains. -/
inductive PwrKind where
  | terrace (t : Nat)
  | bank (k : Nat)
  | dram (c : Nat)
  | cluster (i : Nat)
  | rts (i : Nat)
  | fountain
  | camera (p : Nat)
  | display (n : Nat)
  | mawyn (p : Nat)
  | pcie (p : Nat)
  | ethernet (m : Nat)
  | can (c : Nat)
  deriving DecidableEq, Repr

/-- The domain of a number; none where it is reserved. -/
def pwrDomain (d : Nat) : Option PwrKind :=
  if d ≤ 7 then some (.terrace d)
  else if 0x100 ≤ d ∧ d ≤ 0x4FF then some (.bank (d - 0x100))
  else if 0x500 ≤ d ∧ d ≤ 0x5FF then some (.bank (1024 + (d - 0x500)))
  else if 0x600 ≤ d ∧ d ≤ 0x607 then some (.dram (d - 0x600))
  else if 0x610 ≤ d ∧ d ≤ 0x612 then some (.cluster (d - 0x610))
  else if 0x618 ≤ d ∧ d ≤ 0x619 then some (.rts (d - 0x618))
  else if d = 0x61C then some .fountain
  else if 0x620 ≤ d ∧ d ≤ 0x62F then some (.camera (d - 0x620))
  else if 0x630 ≤ d ∧ d ≤ 0x633 then some (.display (d - 0x630))
  else if 0x638 ≤ d ∧ d ≤ 0x63B then some (.mawyn (d - 0x638))
  else if 0x640 ≤ d ∧ d ≤ 0x641 then some (.pcie (d - 0x640))
  else if 0x648 ≤ d ∧ d ≤ 0x651 then some (.ethernet (d - 0x648))
  else if 0x658 ≤ d ∧ d ≤ 0x667 then some (.can (d - 0x658))
  else none

/-- The clock domain of a logic domain (the 72 clock domains, chapter Two Hierarchies). -/
def PwrKind.clock : PwrKind → Option Nat
  | .terrace t => some (t + 1)
  | .bank _ => none
  | .dram _ => none
  | .cluster i => some (63 + i)
  | .rts i => some (67 + i)
  | .fountain => some 70
  | .camera p => some (37 + p)
  | .display n => some (53 + n)
  | .mawyn p => some (57 + p)
  | .pcie p => some (24 + p)
  | .ethernet m => some (26 + m)
  | .can _ => none

/-- A domain has a state: 0 OFF, 1 RETENTION, 2 ON, 3 SELF_REFRESH, 4 CLOCK_STOP. -/
def PwrKind.supports : PwrKind → Nat → Bool
  | .bank _, st => st ≤ 2
  | .dram _, st => st == 0 || st == 2 || st == 3
  | _, st => st == 0 || st == 2 || st == 4

/-- The code of a clock domain's state. -/
def clockCode : ClockState → Nat
  | .off => 0 | .on => 2 | .clockStop => 4 | .transition => 5 | .frozen => 2

/-- The clock state of a code. -/
def clockOf (st : Nat) : ClockState := if st = 0 then .off else if st = 4 then .clockStop else .on

/-- STATE of a domain, with 5 in transition (PWR_DOM_STAT). -/
def State.domState (s : State) (d : Nat) : PwrKind → Nat
  | .bank k =>
    if (s.bank k).transition.isSome then 5
    else match (s.bank k).pwrState with | .off => 0 | .retention => 1 | .on => 2
  | .dram c =>
    if (tget ({} : PwrDom) s.pwr.doms d).target.isSome then 5
    else match (s.dramCtrl c).state with | .off => 0 | .on => 2 | .selfRefresh => 3
  | .can c => clockCode (tget .off s.pwr.can c)
  | k => match k.clock with | some n => clockCode (s.clock n).state | none => 0

/-- The transition entry of a domain. -/
def State.dom (s : State) (d : Nat) : PwrDom := tget {} s.pwr.doms d
/-- Change the transition entry of a domain. -/
def State.modDom (s : State) (d : Nat) (f : PwrDom → PwrDom) : State :=
  s.modPwr fun p => { p with doms := tmod {} p.doms d f }

/-- OUTCOME of a domain; for a bank PWR_ABORTED takes its place (R408). -/
def State.domOutcome (s : State) (d : Nat) : PwrKind → Nat
  | .bank k => if (s.bank k).pwrAborted then 2 else 0
  | _ => (s.dom d).outcome

/-! ### Secure use (R389, R390) -/

/-- A world is a SECURE world. -/
def secureWorld (w : Nat) : Bool := worldClass w == .secure

/-- The harts of a cluster: 0 cockpit, 1 drive, 2 real-time (R382). -/
def clusterHarts (i : Nat) : List Nat :=
  if i = 0 then List.range 8 else if i = 1 then (List.range 8).map (· + 8) else (List.range 4).map (· + 16)

/-- The worlds in whose secure use a domain is (R389). -/
def State.secureUsers (s : State) : PwrKind → List Nat
  | .bank k => [worldOf (s.bank k).curOwner].filter fun w => !(s.bank k).curFree && secureWorld w
  | .terrace t =>
    ((s.ttb.ctxs.filter fun e =>
      e.2.state != .free && e.2.ranks.any fun r => r.basin / 8 == t).map fun e =>
        (s.consist e.2.consist).world).filter secureWorld
  | .rts i => [worldOf (s.rtsAt i).owner].filter fun w => !(s.rtsAt i).noOwner && secureWorld w
  | .cluster i =>
    ((clusterHarts i).map fun h => worldOf (s.hart h).tag).filter fun w => secureWorld w || worldClass w == .enclave
  | .dram _ =>
    ((s.slc.owners.filter fun e => !e.2.free).map fun e => worldOf e.2.owner).filter fun w =>
      secureWorld w || worldClass w == .enclave
  | _ => []

/-- A privileged tag of a world that uses the domain. -/
def State.userAdmin (s : State) (tag : Nat) (users : List Nat) : Bool :=
  s.privileged tag && users.contains (worldOf tag)

/-! ### What a domain loses when it goes off, and what it does when it comes up (R407, R409) -/

/-- The state of a logic domain is lost with its power; a Terrace's Basins, a Routesetter's stores and a cluster's harts
then stand as after reset. -/
def State.domainLost (s : State) : PwrKind → State
  | .terrace t => { s with basins := s.basins.filter fun e => e.1 / 8 != t }
  | .rts i => { (s.modRts i fun x => { epoch := x.epoch }) with mons := tdel s.mons (83 + i) }
  | .cluster i => (clusterHarts i).foldl (fun s h =>
      { s with slc := { s.slc with harts := tset s.slc.harts h { mstag := s.hartMtag h, tag := s.hartMtag h } } }) s
  | .dram c => { s with mem := s.mem.filter fun e => s.target e.1 != .dram c }
  | .camera p =>
    s.modCam p fun c => { number := c.number }
  | .pcie p => s.modSide p fun d => { d with up := false, tags := [], reads := [] }
  | .fountain => { s with ftn := {} }
  | .display n => { s with ftn := { s.ftn with streams := tdel s.ftn.streams n } }
  | .mawyn p => State.portChanged { s with mwl := { s.mwl with ports := tdel s.mwl.ports p } }
  | .can c => s.modPts fun p => { p with busOff := p.busOff.erase c }
  | _ => s

/-- DOMAIN_EN lets the clock of a domain run this boot (R428). -/
def State.clockMayRun (s : State) (k : PwrKind) : Bool :=
  let may (n : Nat) : Bool := bit (le (s.sec secClockplan) 8 16) (n - 1)
  match k with
  | .bank _ => true
  | .dram c => may (16 + c)
  | .can _ => may 36
  | _ => match k.clock with | some n => may n | none => true

/-- The clock of a logic domain, or a controller group, takes a state. -/
def State.setDomain (s : State) (k : PwrKind) (st : Nat) : State :=
  match k with
  | .can c => s.modPwr fun p => { p with can := tset p.can c (clockOf st) }
  | .dram c =>
    State.clockStep { s with dram := tmod {} s.dram c fun d =>
      { d with state := if st = 0 then .off else if st = 3 then .selfRefresh else .on, trained := d.trained || st == 2 } } (16 + c)
  | _ => match k.clock with | some n => s.modClock n fun c => { c with state := clockOf st, stepInWindow := true } | none => s

/-- A logic domain or a group starts a transition. -/
def State.startDomain (s : State) (d : Nat) (k : PwrKind) (st : Nat) : State :=
  let s := s.modDom d fun x => { x with target := some st, latchedOn := false, cut := x.cut && st != 2 }
  match k with
  | .can c => s.modPwr fun p => { p with can := tset p.can c .transition }
  | .dram _ => s
  | _ => match k.clock with | some n => s.modClock n fun c => { c with state := .transition } | none => s

/-- A port or stream is enabled in its own block (R406). -/
def State.enabledInBlock (s : State) : PwrKind → Bool
  | .camera p => bit (le (s.sec secIoplan) 4 2) p
  | .ethernet m => bit (le (s.sec secIoplan) 6 2) m
  | .can c => bit (le (s.sec secIoplan) 8 2) c
  | .pcie p => bit (byteAt (s.sec secIoplan) 0x0B) p
  | .mawyn p => bit (byteAt (s.sec secMawyn) 8) p
  | .display n => (tget ({} : FtnStream) s.ftn.streams n).en
  | .fountain => (List.range 4).any fun n => (tget ({} : FtnStream) s.ftn.streams n).en
  | _ => false

/-- A domain may leave ON (R406): it is idle. `hartsStopped` says that every hart of a cluster is stopped. -/
def State.domIdle (s : State) (k : PwrKind) (st : Nat) (hartsStopped : Bool) : Bool :=
  match k with
  | .terrace t => !((List.range 8).any fun i =>
      s.basinBusy (8 * t + i) || s.ttb.preemptions.any fun e => e.2.basins.contains (8 * t + i))
  | .rts i => (s.rtsAt i).idle
  | .cluster _ => hartsStopped
  | .dram _ => st != 0 || s.slc.owners.all fun e => e.2.free
  | .bank _ => true
  | k => !(s.enabledInBlock k)

/-! ### SET_STATE (R405 to R408) -/

/-- A request lowers or removes the power or the clock of a domain (R390). -/
def lowers (st : Nat) : Bool := st != 2

/-- The Stationmaster writes PWR of a bank through its control register, which rejects the write of a fenced bank and one
that meets a handover (R98, R102). -/
def State.bankPower (s : State) (k st : Nat) (pastIsolation : Bool) : State :=
  let b := s.bank k
  s.bankCtlWrite k (b.ctlOwner + 0x1000 * b2n b.ctlFree + 0x10000 * st) .stationmaster (some pastIsolation)

/-- An accepted request takes effect, or is held; the PSTATUS (R406, R408, R415). -/
def State.applyPower (s : State) (d : Nat) (k : PwrKind) (st tag : Nat) (hartsStopped past released : Bool) : State × Nat :=
  let hold (s : State) : State × Nat :=
    (s.modPwr fun p => { p with holds := p.holds ++ [{ domain := d, state := st, tag := tag, released := released }] }, 6)
  let x := s.dom d
  if st = 2 && x.cut && s.pwr.clampState != 0 then hold s
  else
    match k with
    | .bank b => (((s.modDom d fun x => { x with cut := x.cut && st != 2 })).bankPower b st past, 0)
    | _ =>
      match x.target with
      | some t =>
        if st = t then (s, 0)
        else if st = 2 then
          if past then (s.modDom d fun x => { x with latchedOn := true }, 0)
          else ((s.modDom d fun x => { x with target := none, outcome := 2 }).setDomain k 2, 0)
        else hold s
      | none =>
        if s.domState d k = st then (s, 0)
        else if lowers st && s.domState d k == 2 && !(s.domIdle k st hartsStopped) then hold s
        else (s.startDomain d k st, 0)

/-- A Terrace with express Basins. -/
def State.expressTerrace (s : State) (t : Nat) : Bool := (List.range 8).any fun i => s.basinRole (8 * t + i) == 2

/-- PWR_ADMIN_WORLDS names a tag's world. -/
def State.powerAdmin (s : State) (tag : Nat) : Bool := bit (le (s.sec secPowerplan) 0x0E 2) (worldOf tag)

/-- The requester may not switch the domain (R405, rows 2 to 4). -/
def State.notUser (s : State) (k : PwrKind) (tag : Nat) : Bool :=
  match k with
  | .cluster i => if i = 2 then worldOf tag != 1 else !(s.powerAdmin tag)
  | .terrace t => if s.expressTerrace t then worldOf tag != 1 else !(s.powerAdmin tag)
  | .bank b => if (s.bank b).curFree then !(s.powerAdmin tag) else tag != adminOf (s.bank b).curOwner
  | _ => !(s.powerAdmin tag)

/-- A request held for secure use (R390). -/
def State.holdSecure (s : State) (d st tag : Nat) : State :=
  (s.modPwr fun p =>
    { p with holds := p.holds ++ [{ domain := d, state := st, tag := tag, secure := true }], secureHeld := sat16 p.secureHeld }).trace
    0x4001 [d, worldOf tag]

/-- SET_STATE as the power service judges it (R405): the PSTATUS. -/
def State.setPower (s : State) (d st tag : Nat) (hartsStopped past : Bool) : State × Nat :=
  if st > 4 then (s, 1)
  else
    match pwrDomain d with
    | none => (s, 2)
    | some k =>
      if !(k.supports st) || (st != 0 && !(s.clockMayRun k)) then (s, 4)
      else
        let users := s.secureUsers k
        if lowers st && !users.isEmpty && !(s.userAdmin tag users) then
          ((s.modPwr fun p => { p with holds := p.holds.filter fun h => h.domain != d }).holdSecure d st tag, 5)
        else if s.notUser k tag then (s, 3)
        else
          (s.modPwr fun p => { p with holds := p.holds.filter fun h => h.domain != d }).applyPower d k st tag hartsStopped past
            false

/-- The response body of the power service. -/
def State.powerBody (s : State) (status d : Nat) : Bytes :=
  match pwrDomain d with
  | some k => leBytes 1 status ++ leBytes 1 (s.domState d k) ++ leBytes 1 (s.domOutcome d k)
  | none => leBytes 1 status

/-- SET_STATE (R405); `past` says that the clock-stop or isolation point of a shutdown in progress has passed. -/
def execSetState (hartsStopped past : Bool) (s : State) : Out :=
  act s fun s =>
    s.serve 3 1 fun s r =>
      let d := le r.body 2 2
      let q := s.setPower d (byteAt r.body 1) r.tag hartsStopped past
      (q.1, q.1.powerBody q.2 d)

/-- POWER_QUERY (R404). -/
def execPowerQuery (s : State) : Out :=
  act s fun s =>
    s.serve 3 2 fun s r =>
      let d := le r.body 2 2
      (s, s.powerBody (if (pwrDomain d).isSome then 0 else 2) d)

/-- SET_PKG_LIMIT (R405). -/
def execSetPkgLimit (s : State) : Out :=
  act s fun s =>
    s.serve 3 3 fun s r =>
      let w := le r.body 4 2
      if s.powerAdmin r.tag && 90 ≤ w && w ≤ le (s.sec secPowerplan) 4 2 then
        (s.modPwr fun p => { p with pkgLimit := w }, leBytes 1 0)
      else (s, leBytes 1 7)

/-- The oldest held request of a domain. -/
def State.holdOf (s : State) (d : Nat) : Option PwrHold := s.pwr.holds.find? fun h => h.domain == d

/-- A request for a domain in secure use waits until the domain leaves it, unless it comes from a privileged tag of the using
world or that world has released it (R390). -/
def State.waitsSecure (s : State) (h : PwrHold) (k : PwrKind) : Bool :=
  let users := s.secureUsers k
  lowers h.state && !users.isEmpty && !(s.userAdmin h.tag users) && !h.released

/-- A request that waited for its domain to be idle is held for secure use from now on (R390). -/
def State.deferHold (s : State) (h : PwrHold) : State :=
  if h.secure then s
  else
    (s.modPwr fun p =>
      { p with
        holds := p.holds.map fun x => if x = h then { x with secure := true } else x
        secureHeld := sat16 p.secureHeld }).trace 0x4001 [h.domain, worldOf h.tag]

/-- A held request proceeds: it takes effect, or is held for idleness from now on. -/
def State.proceed (s : State) (h : PwrHold) (hartsStopped past : Bool) : State :=
  let s := s.modPwr fun p => { p with holds := p.holds.erase h }
  match pwrDomain h.domain with
  | some k => (s.applyPower h.domain k h.state h.tag hartsStopped past h.released).1
  | none => s

/-- POWER_HELD_PROCEED (R390, R406): the condition of a domain's held request holds. -/
def execPowerHeldProceed (domain : Nat) (hartsStopped : Bool) (s : State) : Out :=
  act s fun s =>
    match s.holdOf domain, pwrDomain domain with
    | some h, some k =>
      if s.waitsSecure h k then s.deferHold h else s.proceed h hartsStopped false
    | _, _ => s

/-- SECURE_REL (R390): a privileged tag of the using world releases a held request. -/
def execSecureRel (tag domain : Nat) (hartsStopped : Bool) (s : State) : Out :=
  act s fun s =>
    match s.holdOf domain, pwrDomain domain with
    | some h, some k =>
      if h.secure && s.userAdmin tag (s.secureUsers k) then
        (s.modPwr fun p => { p with holds := p.holds.map fun x => if x = h then { x with released := true } else x }).proceed
          { h with released := true } hartsStopped false
      else s
    | _, _ => s

/-- DOMAIN_SHUTDOWN_DONE (R407, R408): the domain reaches its target, and a latched ON powers it up again. -/
def execDomainShutdownDone (domain : Nat) (s : State) : Out :=
  act s fun s =>
    match pwrDomain domain, (s.dom domain).target with
    | some k, some t =>
      if t = 2 then s
      else
        let again := (s.dom domain).latchedOn
        let s := s.setDomain k t
        let s := if t = 0 then s.domainLost k else s
        let s := s.modDom domain fun x => { x with target := none, latchedOn := false, outcome := if again then 3 else 1 }
        if again then s.startDomain domain k 2 else s
    | _, _ => s

/-- DOMAIN_POWER_UP_DONE (R409): the domain reaches ON. -/
def execDomainPowerUpDone (domain : Nat) (s : State) : Out :=
  act s fun s =>
    match pwrDomain domain, (s.dom domain).target with
    | some k, some t =>
      if t ≠ 2 then s
      else
        let s := (s.setDomain k 2).modDom domain fun x => { x with target := none }
        match k with
        | .mawyn p => (s.modMport p fun x => { x with state := .training }).portChanged
        | _ => s
    | _, _ => s

/-! ### Control loops (R411 to R413) -/

/-- Points of CLOCKPLAN. -/
def State.points (s : State) : Nat := byteAt (s.sec secClockplan) 4
/-- A field of a DVFS point: 0 FREQ_MHZ, 2 VMIN_MV, 4 VMAX_MV (R428). -/
def State.pointField (s : State) (p off : Nat) : Nat := le (s.sec secClockplan) (0x40 + 8 * p + off) 2
/-- Terrace `t`. -/
def State.terr (s : State) (t : Nat) : Terr := tget {} s.pwr.terr t
/-- Change Terrace `t`. -/
def State.modTerr (s : State) (t : Nat) (f : Terr → Terr) : State :=
  s.modPwr fun p => { p with terr := tmod {} p.terr t f }
/-- SAFETY_FLOOR_PT. -/
def State.floorPoint (s : State) : Nat := byteAt (s.sec secPowerplan) 0x0A
/-- The slowest point that a loop takes a Terrace to. -/
def State.slowest (s : State) (t : Nat) : Nat := if s.expressTerrace t then s.floorPoint else s.points - 1

/-- A Terrace moves to a point, its voltage within that point's range (R411). -/
def State.setPoint (s : State) (t p : Nat) : State :=
  (s.modTerr t fun x =>
    { x with point := p, voltage := max (s.pointField p 2) (min (s.pointField p 4) x.voltage) }).modClock (t + 1) fun c =>
      { c with stepInWindow := true }

/-- The voltage step of a Terrace with slack `slack`, in ps. -/
def State.voltageStep (s : State) (t : Nat) (slack : Int) : State :=
  let p := (s.terr t).point
  let lo : Int := le (s.sec secClockplan) 0x18 2
  let hi : Int := le (s.sec secClockplan) 0x1A 2
  s.modTerr t fun x =>
    let v := if slack < lo then x.voltage + 5 else if slack > hi then x.voltage - 5 else x.voltage
    { x with voltage := max (s.pointField p 2) (min (s.pointField p 4) v) }

/-- DVFS_LOOP (R411): the slack (ps) and the temperature of each Terrace, as firmware reads them. -/
def execDvfsLoop (slacks : List Int) (tjs : List Nat) (s : State) : Out :=
  act s fun s =>
    if !s.fwLoops then s
    else (List.range 8).foldl (fun s t =>
      if s.terraceOn t then
        (s.voltageStep t (slacks.getD t 0)).modTerr t fun x => { x with tj := tjs.getD t 0 }
      else s) s

/-- The Terrace of a list that draws most power. -/
def hottest (powers : List Nat) : List Nat → Option Nat
  | [] => none
  | t :: r =>
    match hottest powers r with
    | some u => if powers.getD t 0 < powers.getD u 0 then some u else some t
    | none => some t

/-- PKG_POWER_LOOP (R412): the mean of the package power over the window in 0.1 W, and each Terrace's power. -/
def execPkgPowerLoop (mean : Nat) (powers : List Nat) (s : State) : Out :=
  act s fun s =>
    if !s.fwLoops then s
    else
      let s := s.modPwr fun p => { p with pkgPower := mean }
      if mean ≤ 10 * s.pwr.pkgLimit then s.modPwr fun p => { p with pkgLimited := false }
      else
        let can (express : Bool) := (List.range 8).filter fun t =>
          s.terraceOn t && s.expressTerrace t == express && (s.terr t).point < s.slowest t
        match (hottest powers (can false)).orElse fun _ => hottest powers (can true) with
        | some t => s.setPoint t ((s.terr t).point + 1)
        | none => (s.modPwr fun p => { p with pkgLimited := true }).trace 0x6001 [mean]

/-- THERMAL_STEP (R413): one Terrace's step, at its temperature in °C + 64. -/
def execThermalStep (terrace tj : Nat) (s : State) : Out :=
  act s fun s =>
    if !s.fwLoops || !(s.terraceOn terrace) then s
    else
      let target := byteAt (s.sec secPowerplan) 8 + 64
      let s := s.modTerr terrace fun x => { x with
        tj := tj, cooling := if tj > target then true else if tj + 2 ≤ target then false else x.cooling }
      let p := (s.terr terrace).point
      if (s.terr terrace).cooling then if p < s.slowest terrace then s.setPoint terrace (p + 1) else s
      else if tj < target && 0 < p && !s.pwr.pkgLimited && s.pwr.pkgPower ≤ 10 * s.pwr.pkgLimit then
        s.setPoint terrace (p - 1)
      else s

/-! ### The clamp (R391, R414 to R416) -/

/-- The power domains of a clamp segment: 0 to 7 Terrace logic, 8 to 15 a Terrace's Pools, 16 the Reservoir, 17 to 19 the
clusters, 20 and 21 the Routesetters. -/
def segDomains (g : Nat) : List Nat :=
  if g < 8 then [g]
  else if g < 16 then (List.range 128).map (0x100 + 128 * (g - 8) + ·)
  else if g = 16 then (List.range 256).map (0x500 + ·)
  else if g < 20 then [0x610 + (g - 17)]
  else [0x618 + (g - 20)]

/-- POWER_REVOKED (R391): captured, counted, and signalled to the world. -/
def State.revoke (s : State) (d w : Nat) : State :=
  let s : State := { s with slc := { s.slc with
    revokeDomain := if s.slc.revokeValid then s.slc.revokeDomain else d
    revokeWorld := if s.slc.revokeValid then s.slc.revokeWorld else w
    revokeValid := true, revokeCount := sat16 s.slc.revokeCount } }
  s.msi s.stmTag (fld (le (s.sec secSluice) (0x48 + 16 * w) 8) 0 48) (le (s.sec secSluice) (0x44 + 16 * w) 4)

/-- A SECURE-world bank is handed to FREE by SCRUB. -/
def State.scrubSecureBank (s : State) (k : Nat) : State :=
  if !(s.bank k).curFree && secureWorld (worldOf (s.bank k).curOwner) then s.scrubFree k else s

/-- The secure contents of a domain are scrubbed before it is cut (R391). -/
def State.emergencyScrub (s : State) : PwrKind → State
  | .bank k => s.scrubSecureBank k
  | .terrace t =>
    let s := (List.range 128).foldl (fun s i => s.scrubSecureBank (128 * t + i)) s
    (List.range 8).foldl (fun s i => s.modBasin (8 * t + i) fun b =>
      { b with acc := [], rill := [], scoreboard := 0, rnd := {}
               pmu := if b.pmu.virt then { b.pmu with cycle := 0, cnt := [] } else b.pmu }) s
  | .rts i => s.rtsScrub i
  | .cluster i =>
    ((clusterHarts i).foldl (fun s h =>
      if (s.hart h).enclave ≠ 0 then s.asyncExit h
      else if secureWorld (worldOf (s.hart h).tag) then s.modHart h fun x => { x with regs := {} }
      else s) s).flushWorlds fun w => secureWorld w || worldClass w == .enclave
  | _ => s

/-- A domain is cut: banks go off, logic to CLOCK_STOP; its held requests are complete. -/
def State.cutDomain (s : State) (d : Nat) : State :=
  match pwrDomain d with
  | none => s
  | some k =>
    let users := s.secureUsers k
    let s := if users.isEmpty then s else (users.eraseDups).foldl (fun s w => s.revoke d w) (s.emergencyScrub k)
    let s := s.modPwr fun p => { p with holds := p.holds.filter fun h => h.domain != d || h.state == 2 }
    let s := s.modDom d fun x => { x with cut := true, target := none, latchedOn := false }
    match k with
    | .bank b =>
      let s := (s.finishHandover b).zeroBank b
      ((s.modBank b fun x =>
        { x with transition := none, latchedPwr := none, pwrState := .off, ctlPwr := .off }).serveHeld b).settle
    | _ => s.setDomain k 4

/-- A domain that stands as the cut would leave it is not cut again. -/
def State.cutSegment (s : State) (g : Nat) : State :=
  let s := (segDomains g).foldl (fun s d =>
    match pwrDomain d with
    | some k => if s.domState d k = 0 then s else s.cutDomain d
    | none => s) s
  (s.modPwr fun p =>
    { p with clampState := 2, cutSegs := insertNat g p.cutSegs, cuts := sat16 p.cuts, clampSensor := 32 + g }).trace 0x7002
      [32 + g, s.pwr.tjMax]

/-- The clamp's thresholds: sensor readings in °C + 64, segments 0 at most 90 % of ICC_MAX, 1 above, 2 at ICC_MAX. -/
structure ClampReading where
  /-- A sensor or segment that is over its THROTTLE level: 0 to 31 sensor, 32 to 63 segment. -/
  trigger : Option Nat
  /-- Segments to cut for a sensor at 130 °C or more. -/
  hot : List Nat
  /-- Every sensor and segment is clear of its release level. -/
  clear : Bool

/-- The reading of one sample. -/
def State.clampRead (s : State) (temps currents : List Nat) : ClampReading :=
  let tj := byteAt (s.sec secPowerplan) 9 + 64
  let sensor := (List.range 32).find? fun i => temps.getD i 0 ≥ tj
  let segment := ((List.range 22).find? fun g => currents.getD g 0 ≥ 2).map (· + 32)
  { trigger := sensor.orElse fun _ => segment
    hot := ((List.range 32).filter fun i => temps.getD i 0 ≥ 130 + 64).map Config.sensorSegment
    clear := temps.all (fun t => t + 5 ≤ tj) && currents.all (· == 0) }

/-- An activation not yet swapped is deferred when the clamp leaves IDLE (R419). -/
def State.deferUpdate (s : State) : State :=
  if s.stm.fwState = 4 && !s.stm.fwSwapped then
    State.trace { s with stm := { s.stm with fwState := 3 } } 0x8002 []
  else s

/-- The clamp's divide or cap changes: the windows of the Terraces, clusters and Routesetters contain a step (R26, R414). -/
def State.clampStep (s : State) : State :=
  [1, 2, 3, 4, 5, 6, 7, 8, 63, 64, 65, 67, 68].foldl (fun s d => s.modClock d fun c => { c with stepInWindow := true }) s

/-- CLAMP_SAMPLE (R414, R415): every 1 µs the clamp reads its sensors and segment currents. -/
def execClampSample (temps currents : List Nat) (instant : Nat) (s : State) : Out :=
  act s fun s =>
    let s := s.reach instant
    let r := s.clampRead temps currents
    let s := s.modPwr fun p =>
      { p with
        tjMax := temps.foldl max 0
        clearNs := if r.clear then p.clearNs.orElse fun _ => some s.now else none }
    let s :=
      match r.trigger with
      | some t =>
        if s.pwr.clampState = 0 then
          State.deferUpdate (((s.modPwr fun p =>
            { p with clampState := 1, clampSensor := t, throttles := sat16 p.throttles, throttleNs := s.now }).clampStep).trace
              0x7001 [t, s.pwr.tjMax])
        else s
      | none => s
    if s.pwr.clampState = 0 then s
    else
      let late := (List.range 22).filter fun g => currents.getD g 0 ≥ 2 && s.now ≥ s.pwr.throttleNs + 20000
      ((r.hot ++ late).eraseDups.filter fun g => g < 22 && !(s.pwr.cutSegs.contains g)).foldl State.cutSegment s

/-- CLAMP_IDLE (R416): after 1 ms clear the clamp returns to IDLE and removes its limits. -/
def execClampIdle (s : State) : Out :=
  act s fun s =>
    match s.pwr.clearNs with
    | some t =>
      if s.pwr.clampState = 0 then s
      else (((s.reach (t + 1000000)).modPwr fun p => { p with clampState := 0, cutSegs := [] }).clampStep).trace 0x7003
        [s.pwr.clampSensor, s.pwr.tjMax]
    | none => s

/-- The frequency of a Terrace in MHz after any clamp divide (R411, R414). -/
def State.terraceMhz (s : State) (t : Nat) : Nat :=
  if s.pwr.clampState = 0 then s.pointField (s.terr t).point 0 else s.pointField (s.terr t).point 0 / 2

/-! ### The watchdog (R421) -/

/-- WATCHDOG_EXPIRE (R421): the Stationmaster halts and every Terrace is held at the lower of its point and
SAFETY_FLOOR_PT, at that point's VMAX_MV. -/
def execWatchdogExpire (s : State) : Out :=
  act s fun s =>
    if !s.stm.fwRunning || s.stm.wdogExpired then s
    else
      let s : State := { s with stm := { s.stm with wdogExpired := true, fwRunning := false } }
      (List.range 8).foldl (fun s t =>
        let p := max (s.terr t).point s.floorPoint
        (s.setPoint t p).modTerr t fun x => { x with voltage := s.pointField p 4 }) s

/-! ### Island supplies (R425 to R427) -/

/-- ISLAND_SUPPLY_SWITCH (R425): VDD_ISL leaves its window; the island stays on the backup supply until PORST_N. -/
def execIslandSupplySwitch (s : State) : Out :=
  act s fun s =>
    if s.pwr.onBackup then s else (s.modPwr fun p => { p with onBackup := true }).latch 9 0

/-- BACKUP_SUPPLY_LOW (R426): not a safe-state cause. -/
def execBackupSupplyLow (s : State) : Out :=
  act s fun s =>
    if s.pwr.onBackup then s
    else (s.modPwr fun p => { p with bkLow := true, bkLowEvents := sat16 p.bkLowEvents }).report 7 0 0

/-- ISLAND_SUPPLY_LOSS (R427): both island supplies fail, and the pad pulls SAFE_N low. -/
def execIslandSupplyLoss (s : State) : Out :=
  .next { s with
    pwr := { s.pwr with islandLost := true }
    pins := { s.pins with safeNCmd := false } }

end Sys2Proof.Machine
end

