-- ==== Sys2Proof/Machine/Clocks.lean ====
section
/-! DEFINITION. The clock monitor, and the loss of REF_CLK and of VDD_IO (R26, R29). -/

namespace Sys2Proof.Machine

/-- The clock of a domain in the table of clock domains, in kHz; 0 for a domain whose nominal is commanded (R26). -/
def tableKHz (d : Nat) : Nat :=
  if d = 9 ∨ d = 10 then 1800000
  else if d = 11 ∨ d = 66 then 1200000
  else if 12 ≤ d ∧ d ≤ 14 then 1000000
  else if d = 15 then 250000
  else if 16 ≤ d ∧ d ≤ 23 then 666667
  else if d = 24 ∨ d = 25 then 1000000
  else if 26 ≤ d ∧ d ≤ 33 then 156250
  else if d = 34 ∨ d = 35 then 390625
  else if d = 36 then 160000
  else if 57 ≤ d ∧ d ≤ 60 then 875000
  else if d = 61 then 200000
  else if d = 62 then 100000
  else if 63 ≤ d ∧ d ≤ 65 then 2800000
  else if d = 67 ∨ d = 68 then 2000000
  else if d = 69 then 480000
  else if d = 70 then 960000
  else if d = 71 then 600000
  else if d = 72 then 25000
  else 0

/-- The clock that a camera port's lane rate gives, in kHz: a byte a cycle on D-PHY, and on C-PHY the 7 symbols of a 16-bit
word. -/
def State.cameraKHz (s : State) (p : Nat) : Nat :=
  let e := s.sec secIoplan
  let o := 0x40 + 64 * p
  le e (o + 2) 2 * 1000 / (if byteAt e o = 1 then 7 else 8)

/-- The nominal of a domain in a window, in kHz (R26). -/
def State.nominalKHz (s : State) (pixelKHz : List Nat) (d : Nat) : Nat :=
  let half := s.pwr.clampState != 0
  if 1 ≤ d ∧ d ≤ 8 then s.terraceMhz (d - 1) * 1000
  else if 37 ≤ d ∧ d ≤ 52 then s.cameraKHz (d - 37)
  else if 53 ≤ d ∧ d ≤ 56 then pixelKHz.getD (d - 53) 0
  else if 63 ≤ d ∧ d ≤ 65 then (if half then 1400000 else 2800000)
  else if d = 67 ∨ d = 68 then (if half then 1000000 else 2000000)
  else if d = 72 ∧ s.pins.aonInternalOsc then 20000
  else tableKHz d

/-- The domain is a recovered clock (R26). -/
def recovered (d : Nat) : Bool := (37 ≤ d && d ≤ 52) || (57 ≤ d && d ≤ 60)

/-- The window of a domain is judged (R26): the domain has run throughout, no step lies in the window, and a recovered clock
is locked. -/
def State.judged (s : State) (d : Nat) : Bool :=
  let c := s.clock d
  let running :=
    if 16 ≤ d && d ≤ 23 then s.domState (0x600 + (d - 16)) (.dram (d - 16)) == 2 else c.state == .on
  running && !c.stepInWindow && (!(recovered d) || c.locked)

/-- The always-on domain reports these faults to the Interlocking alone (R26). -/
def islandDomain (d : Nat) : Bool := (12 ≤ d && d ≤ 15) || d == 61 || d == 72

/-- A clock fault of a domain (R26, R318). -/
def State.clockFault (s : State) (d : Nat) : State :=
  if islandDomain d then
    let s := s.latch 8 d
    if d = 14 ∨ d = 15 then s.withdrawTime else s
  else { s.report 1 d 0 with ilk := { s.ilk with clockFaults := s.ilk.clockFaults ++ [d] } }

/-- CLOCK_MONITOR_WINDOW (R26): the end of a 1 µs window. `counts` gives the frequency in kHz that a domain's count shows;
a domain that it does not name is in range. `locked` names the recovered clocks whose ports hold lock, and `pixelKHz` the
pixel clocks of the display modes. -/
def execClockMonitorWindow (counts : List (Nat × Nat)) (locked : List Nat) (pixelKHz : List Nat) (s : State) : Out :=
  act s fun s =>
    let s : State := { s with clocks := tmap s.clocks fun d c => { c with locked := recovered d && locked.contains d } }
    let bad := counts.filter fun e =>
      let n := s.nominalKHz pixelKHz e.1
      s.judged e.1 && n != 0 && (e.2 * 100 < n * 98 || n * 102 < e.2 * 100)
    let s := bad.foldl (fun s e => s.clockFault e.1) s
    let s : State := { s with clocks := tmap s.clocks fun _ c => { c with stepInWindow := false } }
    s.reach (s.now + 1000)

/-- REF_CLK_LOSS (R26): domain 72 runs from its internal oscillator, and the loss is a clock fault of domain 72. -/
def execRefClkLoss (s : State) : Out :=
  let t := { s with pins := { s.pins with refClk := false, aonInternalOsc := true } }
  .next (if s.live && s.pins.refClk then t.latch 8 72 else t)

/-- VDD_IO_LOSS (R29): the SAFE_N ball no longer drives high; the pad read-back sees the fall (SAFE_N_READBACK). -/
def execVddIoLoss (s : State) : Out :=
  .next { s with pins := { s.pins with vddIo := false, safeNDriven := false } }

end Sys2Proof.Machine
end

