-- ==== Sys2Proof/Machine/Consists.lean ====
section
/-! DEFINITION. The Consist service of the Stationmaster: creation, destruction, reset, weights, dirty logging and
quiescence (R173 to R180). -/

namespace Sys2Proof.Machine

/-! ### The request (R173) -/

/-- The template that a TPL_ID names in CONSISTTPL (R180). -/
def State.template (s : State) (id : Nat) : Option Bytes :=
  let t := s.sec secConsisttpl
  ((List.range (le t 4 2)).find? fun i => le t (16 + 64 * i) 2 == id).map fun i => slice t (16 + 64 * i) 64

/-- The length of a siding area (R153). -/
def sidingBytes (cap slots : Nat) : Nat := 0x10000 + cap * 0x200000 + slots * 0xC000

/-- Every 4 KiB page of a range of DRAM is owned by a tag. -/
def State.pagesOwned (s : State) (base bytes tag : Nat) : Bool :=
  base + bytes ≤ s.dramSize && (List.range ((bytes + 4095) / 4096)).all fun i =>
    let e := s.owner (base / 4096 + i)
    !e.free && e.owner == tag

/-- The first of `n` free adjacent numbers from `lo` below `hi`. -/
def freeRun (used : Nat → Bool) (lo hi n : Nat) : Option Nat :=
  (List.range (hi - lo + 1 - n)).map (lo + ·) |>.find? fun a => (List.range n).all fun i => !(used (a + i))

/-- Share-group entry `k` belongs to a Consist. -/
def State.groupUsed (s : State) (k : Nat) : Bool :=
  s.ttb.consists.any fun e =>
    e.2.state != .free && e.2.firstGroup ≤ k && k < e.2.firstGroup + le e.2.tpl 0x16 2

/-- Slow-down row `k` belongs to a Consist. -/
def State.slowUsed (s : State) (k : Nat) : Bool :=
  s.ttb.consists.any fun e =>
    e.2.state != .free && e.2.firstSlowRow ≤ k && k < e.2.firstSlowRow + le e.2.tpl 0x18 2

/-- The sum of a figure over the Consists that exist. -/
def State.consistSum (s : State) (f : Consist → Nat) : Nat :=
  ((s.ttb.consists.filter fun e => e.2.state != .free).map fun e => f e.2).sum

/-- The whole Terraces of a strict pool that no Consist holds (R162). -/
def State.freeTerraces (s : State) (pool : Nat) : List Nat :=
  (List.range 8).filter fun t =>
    ((List.range 8).all fun i => s.basinRole (8 * t + i) == 1 && s.basinPool (8 * t + i) == pool)
      && !(s.ttb.consists.any fun e => e.2.state != .free && bit e.2.terraces t)

/-- The mask of the first `n` numbers of a list. -/
def maskOf (l : List Nat) (n : Nat) : Nat := ((l.take n).map (2 ^ ·)).sum

/-- A CREATE request is malformed: a reserved field is set or an address is not aligned. -/
def createReserved (b : Bytes) : Bool :=
  byteAt b 1 ≥ 2 || byteAt b 2 != 0 || byteAt b 3 > 15 || le b 6 2 != 0 || le b 0x3C 4 != 0
    || le b 8 8 % 0x200000 != 0 || le b 0x28 8 ≥ 2 ^ 48 || le b 0x28 8 % 4 != 0
    || le b 0x30 8 ≥ 2 ^ 48 || le b 0x30 8 % 4 != 0

/-- The header that a RESTORE reads does not fit the template (R179). -/
def State.badRestore (s : State) (base : Nat) (tpl : Bytes) : Bool :=
  s.rdLe base 4 != 0x01534453 || s.rdLe (base + 4) 2 != le tpl 0 2 || s.rdLe (base + 6) 1 != byteAt tpl 4

/-- The STATUS with which a CREATE fails on its template's resources; 0 where they are free (R173, R364). -/
def State.createCheck (s : State) (tag : Nat) (b tpl : Bytes) : Nat :=
  let pool := byteAt tpl 2
  let cap := byteAt tpl 4
  if worldClass (byteAt b 3) != .normal && worldClass (byteAt b 3) != .secure then 3
  else if !(bit (s.poolField pool 4 2) (byteAt b 3)) then 3
  else if (s.ttb.consists.filter fun e => e.2.state != .free && e.2.pool == pool).length ≥ s.poolField pool 6 2 then 4
  else if s.consistSum (fun x => le x.tpl 0x10 2) + le tpl 0x10 2 > 15360 then 5
  else if (freeRun s.groupUsed 0 4096 (le tpl 0x16 2)).isNone then 5
  else if (freeRun s.slowUsed 256 4096 (le tpl 0x18 2)).isNone then 5
  else if s.poolStrict pool && (s.freeTerraces pool).length < cap / 8 then 5
  else if ((List.range 255).find? fun i => (s.consist (i + 1)).state == .free).isNone then 5
  else if !(s.pagesOwned (le b 8 8) (sidingBytes cap (le tpl 0x12 2)) (adminOf tag)) then 7
  else if bit (byteAt b 1) 0 && s.badRestore (le b 8 8) tpl then 8
  else 0

/-- CREATE carves the resources of a template (R173, R154, R179). -/
def State.carve (s : State) (tag : Nat) (b tpl : Bytes) : State × Nat :=
  let pool := byteAt tpl 2
  let cap := byteAt tpl 4
  let base := le b 8 8
  let c := (((List.range 255).find? fun i => (s.consist (i + 1)).state == .free).getD 0) + 1
  let group := (freeRun s.groupUsed 0 4096 (le tpl 0x16 2)).getD 0
  let row := (freeRun s.slowUsed 256 4096 (le tpl 0x18 2)).getD 256
  let restore := bit (byteAt b 1) 0
  let gen := if restore then nextGen (s.rdLe (base + 8) 2) else 1
  let x : Consist :=
    { state := .active, pool := pool, basinCap := cap, generation := gen, world := byteAt b 3, driverTag := tag
      tpl := tpl, firstGroup := group, firstSlowRow := row, weight := le tpl 0x14 2, leaseKick := s.now
      sidingBase := base, validMap := if restore then s.rdLe (base + 0x40) 128 else 0
      terraces := if s.poolStrict pool then maskOf (s.freeTerraces pool) (cap / 8) else 0
      complMsiAddr := le b 0x28 8, complMsiData := le b 0x24 4
      tearMsiAddr := le b 0x30 8, tearMsiData := le b 0x38 4 }
  let s := (List.range ((sidingBytes cap (le tpl 0x12 2) + 4095) / 4096)).foldl (fun s i =>
    s.modOwner (base / 4096 + i) fun e => { e with owner := byteAt b 3 * 256 + c, free := false }) s
  let groups := (List.range (le tpl 0x16 2)).foldl (fun t i =>
    tset t (group + i) { weight := 100, consist := c, valid := true }) s.ttb.groups
  let slow := (List.range (le tpl 0x18 2)).foldl (fun t i => tdel t (row + i)) s.ttb.slow
  ({ s with ttb := { s.ttb with consists := tset s.ttb.consists c x, groups := groups, slow := slow } }, c)

/-- CREATE (R173). -/
def State.consistCreate (s : State) (r : MboxReq) : State × Bytes :=
  let b := r.body
  if createReserved b then (s, s.consistReply 1 0)
  else if !(s.privileged r.tag) || consistOf r.tag != 0 then (s, s.consistReply 3 0)
  else
    match s.template (le b 4 2) with
    | none => (s, s.consistReply 2 0)
    | some tpl =>
      let st := s.createCheck r.tag b tpl
      if st ≠ 0 then (s, s.consistReply st 0)
      else
        let q := s.carve r.tag b tpl
        (q.1, q.1.consistReply 0 q.2)

/-- CONSIST_CREATE (R173). -/
def execConsistCreate (s : State) : Out := act s fun s => s.serve 2 1 State.consistCreate

/-- The STATUS with which a request for an existing Consist fails before its operation; 0 where it goes on (R173). -/
def State.driverCheck (s : State) (r : MboxReq) (orCreator : Bool) : Nat :=
  let b := r.body
  let x := s.consist (byteAt b 2)
  if byteAt b 1 != 0 || byteAt b 2 = 0 || le b 6 2 != 0 || le b 0x3C 4 != 0 then 1
  else if x.state = .free then 6
  else if r.tag = x.driverTag then 0
  else if orCreator && x.state == .expired && s.privileged r.tag && consistOf r.tag == 0
      && bit (s.poolField x.pool 4 2) x.world then 0
  else 9

/-- DESTROY and RESET: the Consist is torn down, an EXPIRED one after its DRIVER_TAG is rebound (R173, R175). -/
def State.consistTear (cause : Nat) (s : State) (r : MboxReq) : State × Bytes :=
  let c := byteAt r.body 2
  let st := s.driverCheck r true
  if st ≠ 0 then (s, s.consistReply st c)
  else
    let s := s.modConsist c fun x => { x with driverTag := r.tag }
    let s := s.teardown c cause 0 0
    (s, s.consistReply 0 c)

/-- CONSIST_DESTROY (R175). -/
def execConsistDestroy (s : State) : Out := act s fun s => s.serve 2 2 (State.consistTear 0x42)

/-- CONSIST_RESET (R173). -/
def execConsistReset (s : State) : Out := act s fun s => s.serve 2 3 (State.consistTear 0x41)

/-- SET_WEIGHT: the weight of a group of the Consist, or of the Consist itself (R160). -/
def State.setWeight (s : State) (r : MboxReq) : State × Bytes :=
  let c := byteAt r.body 2
  let g := le r.body 0x20 2
  let w := le r.body 0x22 2
  let st := s.driverCheck r false
  if st ≠ 0 then (s, s.consistReply st c)
  else if w = 0 ∨ w > 10000 ∨ (g ≠ 0xFFFF ∧ g ≥ (s.consist c).shareGroups) then (s, s.consistReply 1 c)
  else
    let s :=
      if g = 0xFFFF then s.modConsist c fun x => { x with weight := w }
      else { s with ttb := { s.ttb with
        groups := tmod {} s.ttb.groups ((s.consist c).firstGroup + g) fun e => { e with weight := w } } }
    (s, s.consistReply 0 c)

/-- SET_WEIGHT (R160). -/
def execSetWeight (s : State) : Out := act s fun s => s.serve 2 4 State.setWeight

/-! ### Dirty logging (R178) -/

/-- LOG_START: logging into buffer 0 of two buffers that DRIVER_TAG owns. -/
def State.logStart (s : State) (r : MboxReq) : State × Bytes :=
  let c := byteAt r.body 2
  let x := s.consist c
  let b0 := le r.body 0x10 8
  let b1 := le r.body 0x18 8
  let n := s.dramSize / 32768
  let st := s.driverCheck r false
  if st ≠ 0 then (s, s.consistReply st c)
  else if b0 % 4096 ≠ 0 ∨ b1 % 4096 ≠ 0 ∨ b0 ≥ 2 ^ 48 ∨ b1 ≥ 2 ^ 48 then (s, s.consistReply 1 c)
  else if x.logEn || !x.logOk || !(x.state == .active || x.state == .quiescing || x.state == .quiesced) then
    (s, s.consistReply 6 c)
  else if !(s.pagesOwned b0 n x.driverTag && s.pagesOwned b1 n x.driverTag) then (s, s.consistReply 7 c)
  else
    let s := s.modConsist c fun x => { x with logEn := true, activeBuf := 0, dirtyBase0 := b0, dirtyBase1 := b1 }
    (s, s.consistReply 0 c)

/-- LOG_START (R178). -/
def execLogStart (s : State) : Out := act s fun s => s.serve 2 5 State.logStart

/-- LOG_FLIP makes the other buffer active, LOG_STOP ends logging; each responds after the sync. -/
def State.logSync (stop : Bool) (s : State) (r : MboxReq) : State × Option Bytes :=
  let c := byteAt r.body 2
  let x := s.consist c
  let st := s.driverCheck r false
  if st ≠ 0 then (s, some (s.consistReply st c))
  else if !x.logEn || x.flipBusy then (s, some (s.consistReply 6 c))
  else
    (s.modConsist c fun x =>
      { x with
        activeBuf := if stop then x.activeBuf else 1 - x.activeBuf
        flipBusy := true, logStopping := stop, logReply := some r }, none)

/-- LOG_FLIP (R178). -/
def execLogFlip (s : State) : Out := act s fun s => s.serveLater 2 6 (State.logSync false)

/-- LOG_STOP (R178). -/
def execLogStop (s : State) : Out := act s fun s => s.serveLater 2 7 (State.logSync true)

/-- LOG_SYNC_DONE (R178): every write acknowledged before the request is logged; the response is sent. -/
def execLogSyncDone (consist : Nat) (s : State) : Out :=
  act s fun s =>
    match (s.consist consist).logReply with
    | none => s
    | some r =>
      let s := s.modConsist consist fun x =>
        { x with logReply := none, flipBusy := false, logEn := x.logEn && !x.logStopping, logStopping := false }
      s.mboxAnswer r 0 (s.consistReply 0 consist)

/-! ### Quiescence (R179) -/

/-- The rings of a Consist. -/
def State.consistRings (s : State) (c : Nat) : List Nat :=
  (s.sbx.rings.filter fun e => e.1 ≥ 16 && s.ringConsist e.1 == c).map (·.1)

/-- QUIESCE: every ring is disarmed; the response waits for the graphs in flight. -/
def State.quiesce (s : State) (r : MboxReq) : State × Option Bytes :=
  let c := byteAt r.body 2
  let st := s.driverCheck r false
  if st ≠ 0 then (s, some (s.consistReply st c))
  else if (s.consist c).state ≠ .active then (s, some (s.consistReply 6 c))
  else
    let s := (s.consistRings c).foldl State.disarmRing s
    (s.modConsist c fun x => { x with state := .quiescing, quiesceReply := some r }, none)

/-- QUIESCE (R179). -/
def execQuiesce (s : State) : Out := act s fun s => s.serveLater 2 8 State.quiesce

/-- The siding-area header (R153). -/
def Consist.header (x : Consist) : Bytes :=
  leBytes 4 0x01534453 ++ slice x.tpl 0 2 ++ leBytes 1 x.basinCap ++ zeros 1 ++ leBytes 2 x.generation ++ zeros 54
    ++ leBytes 128 x.validMap

/-- Steps 3 and 4 of QUIESCE (R179): every bank that has a slot is parked, and the header is written. A Reservoir bank, or a
Pool bank of a Basin that no virtual Basin is bound to, has no slot: it stays with the Consist (DESIGN CHOICE, log entry
119). -/
def State.parkAll (s : State) (c : Nat) : State × MoveEnd :=
  let p := s.moveAll ((s.consist c).binding.map (·.2)) fun s b => s.leaveBasin c b
  if p.2 ≠ .done then p
  else
    let x := p.1.consist c
    p.1.putLines (p.1.consistTag c) x.sidingBase (slice x.header 0 0x10000)

/-- QUIESCE_DONE (R179 steps 2 to 5): with no graph in flight every bank is parked, the header is written, and the
response is sent. -/
def State.quiesceDone (s : State) (c : Nat) : State :=
  let x := s.consist c
  if x.state != .quiescing || (s.sbx.graphs.any fun e => e.2.consist == c && e.2.inFlight) then s
  else
    let p := s.parkAll c
    if p.2 = .waits then s
    else if p.2 ≠ .done then p.1.moverFault c 0 p.2
    else if (p.1.consist c).state != .quiescing then p.1
    else
      let s := p.1.modConsist c fun y => { y with state := .quiesced, binding := [], quiesceReply := none }
      match x.quiesceReply with
      | some r => s.mboxAnswer r 0 (s.consistReply 0 c)
      | none => s

/-- QUIESCE_DONE (R179). -/
def execQuiesceDone (consist : Nat) (s : State) : Out := act s fun s => s.quiesceDone consist

/-- RESUME returns a quiesced Consist to ACTIVE. -/
def State.resume (s : State) (r : MboxReq) : State × Bytes :=
  let c := byteAt r.body 2
  let st := s.driverCheck r false
  if st ≠ 0 then (s, s.consistReply st c)
  else if (s.consist c).state ≠ .quiesced then (s, s.consistReply 6 c)
  else
    let s := s.modConsist c fun x => { x with state := .active, leaseKick := s.now }
    (s, s.consistReply 0 c)

/-- RESUME (R179). -/
def execResume (s : State) : Out := act s fun s => s.serve 2 9 State.resume

/-! ### The CONSISTTPL section (R180) -/

/-- How many shared Basins a BASINMAP gives a pool. -/
def poolShared (basinmap : Bytes) (pool : Nat) : Nat :=
  ((List.range 64).filter fun n => fld (byteAt basinmap n) 0 2 == 1 && fld (byteAt basinmap n) 2 4 == pool).length

/-- The offset of the first field of a template outside its range, counted in the section. -/
def templateFault (basinmap t : Bytes) (i : Nat) : Option Nat :=
  let o := 16 + 64 * i
  let pool := byteAt t (o + 2)
  let flags := byteAt basinmap (0x40 + 16 * pool)
  let inRange (off n lo hi : Nat) : Bool := lo ≤ le t (o + off) n && le t (o + off) n ≤ hi
  let checks : List (Nat × Bool) :=
    [ (0x00, inRange 0 2 1 0xFFFF && !((List.range i).any fun j => le t (16 + 64 * j) 2 == le t o 2)),
      (0x02, pool < 16 && bit flags 0),
      (0x03, byteAt t (o + 3) < 4),
      (0x04, inRange 4 1 1 (poolShared basinmap pool) && (!(bit flags 1) || byteAt t (o + 4) % 8 == 0)),
      (0x05, byteAt t (o + 5) == 0),
      (0x06, inRange 6 2 1 64),
      (0x08, inRange 8 4 1 245760),
      (0x0C, inRange 0x0C 4 0 983040),
      (0x10, inRange 0x10 2 1 15360),
      (0x12, inRange 0x12 2 0 4096),
      (0x14, inRange 0x14 2 1 10000),
      (0x16, inRange 0x16 2 1 64),
      (0x18, inRange 0x18 2 0 256),
      (0x1A, zeroAt t (o + 0x1A) 6),
      (0x30, zeroAt t (o + 0x30) 16) ]
  (checks.find? fun e => !e.2).map fun e => o + e.1

/-- The offset of the first field of a CONSISTTPL payload that fails with 0x0D (R180); none where it passes. -/
def consisttplFault (basinmap t : Bytes) : Option Nat :=
  if le t 0 4 ≠ 0x0154504C then some 0
  else if le t 4 2 = 0 ∨ le t 4 2 > 256 then some 4
  else if !(zeroAt t 6 10) then some 6
  else (List.range (le t 4 2)).findSome? (templateFault basinmap t)

end Sys2Proof.Machine
end

