-- ==== Sys2Proof/Machine/Conv.lean ====
section
/-! DEFINITION. The CONV command: its checks, the window walker and the channel-last drain (R182 to R191). -/

namespace Sys2Proof.Machine

/-! ### The command and its descriptor (R182, R183) -/

/-- Operand bytes of CONV (R182). -/
def convMask : List Nat :=
  [0x7F, 0xFF, 0x0F, 0x3F, 0x3F, 0xFF, 0xFF, 0x7F, 0xFF, 0x7F, 0xFF, 0x7F, 0xFF, 0x7F, 0xFF, 0x7F, 0xFF, 0xFF, 0xFF, 0xFF,
   0xFF, 0x7F, 0xFF, 0x07, 0xFF, 0x7F, 0xFF, 0xFF]

/-- The fields of a CONV command (R182). -/
structure ConvCmd where
  /-- FLAGS. -/
  flags : Nat
  /-- FMT_X. -/
  fx : Nat
  /-- FMT_W. -/
  fw : Nat
  /-- FMT_OUT. -/
  fo : Nat
  /-- Output channels in the tile. -/
  m : Nat
  /-- Output positions in the tile. -/
  n : Nat
  /-- M_BLOCK. -/
  mBlock : Nat
  /-- DESC_LINE. -/
  desc : Nat
  /-- W_LINE. -/
  wLine : Nat
  /-- X_LINE. -/
  xLine : Nat
  /-- C_LINE. -/
  cLine : Nat
  /-- META_LINE. -/
  metaLine : Nat
  /-- OY. -/
  oy : Nat
  /-- OX0. -/
  ox0 : Nat
  /-- QNT_LINE. -/
  qnt : Nat
  /-- C_PITCH. -/
  pitch : Nat
  /-- W2_LINE. -/
  w2 : Nat
  /-- GROUP. -/
  group : Nat

/-- The fields of a CONV command, read from its bytes. -/
def convOf (c : Bytes) : ConvCmd :=
  { flags := byteAt c 2, fx := fld (byteAt c 3) 0 4, fw := fld (byteAt c 3) 4 4, fo := fld (byteAt c 4) 0 4
    m := fld (byteAt c 5) 0 6 + 1, n := fld (byteAt c 6) 0 6 + 1, mBlock := byteAt c 7
    desc := lineAt c 8, wLine := lineAt c 10, xLine := lineAt c 12, cLine := lineAt c 14, metaLine := lineAt c 16
    oy := le c 18 2, ox0 := le c 20 2, qnt := lineAt c 22, pitch := fld (le c 24 2) 0 11, w2 := lineAt c 26, group := le c 28 2 }

/-- The layer descriptor's fields (R183). -/
structure ConvDesc where
  /-- LAYOUT. -/
  layout : Nat
  /-- PAD_MODE. -/
  padMode : Nat
  /-- R. -/
  r : Nat
  /-- S. -/
  s : Nat
  /-- STRIDE_Y. -/
  sy : Nat
  /-- STRIDE_X. -/
  sx : Nat
  /-- DIL_Y. -/
  dy : Nat
  /-- DIL_X. -/
  dx : Nat
  /-- PAD_TOP. -/
  top : Nat
  /-- PAD_BOTTOM. -/
  bottom : Nat
  /-- PAD_LEFT. -/
  left : Nat
  /-- PAD_RIGHT. -/
  right : Nat
  /-- G. -/
  g : Nat
  /-- C_IN. -/
  cIn : Nat
  /-- C_OUT. -/
  cOut : Nat
  /-- H_IN. -/
  h : Nat
  /-- W_IN. -/
  w : Nat
  /-- STRIPE_Y0. -/
  y0 : Nat
  /-- BUF_ROWS. -/
  rows : Nat
  /-- X_ROW_PITCH. -/
  rowPitch : Nat
  /-- X_PLANE_PITCH. -/
  planePitch : Nat
  /-- PAD_VALUE. -/
  pad : Nat
  /-- The RES fields are zero. -/
  resZero : Bool

/-- The descriptor, read from its line. -/
def convDescOf (b : Bytes) : ConvDesc :=
  { layout := byteAt b 0, padMode := byteAt b 1, r := byteAt b 2, s := byteAt b 3, sy := byteAt b 4, sx := byteAt b 5
    dy := byteAt b 6, dx := byteAt b 7, top := le b 8 2, bottom := le b 0x0A 2, left := le b 0x0C 2, right := le b 0x0E 2
    g := le b 0x10 2, cIn := le b 0x12 2, cOut := le b 0x14 2, h := le b 0x16 2, w := le b 0x18 2, y0 := le b 0x1A 2
    rows := le b 0x1C 2, rowPitch := le b 0x1E 2, planePitch := le b 0x20 2, pad := le b 0x24 4
    resZero := le b 0x22 2 == 0 && zeroAt b 0x28 24 }

/-- SPARSE_W. -/
def ConvCmd.sparse (q : ConvCmd) : Bool := bit q.flags 3
/-- EMIT. -/
def ConvCmd.emit (q : ConvCmd) : Bool := bit q.flags 1
/-- ACC_SEL. -/
def ConvCmd.sel (q : ConvCmd) : Nat := fld q.flags 2 1
/-- Cg_in. -/
def ConvDesc.cgIn (d : ConvDesc) : Nat := d.cIn / d.g
/-- Cg_out. -/
def ConvDesc.cgOut (d : ConvDesc) : Nat := d.cOut / d.g
/-- K. -/
def ConvDesc.k (d : ConvDesc) : Nat := d.cgIn * d.r * d.s
/-- An output dimension (R183); 0 where it is less than 1. -/
def outDim (size before after dil taps stride : Nat) : Nat :=
  if size + before + after < dil * (taps - 1) + 1 then 0 else (size + before + after - dil * (taps - 1) - 1) / stride + 1
/-- H_OUT. -/
def ConvDesc.hOut (d : ConvDesc) : Nat := outDim d.h d.top d.bottom d.dy d.r d.sy
/-- W_OUT. -/
def ConvDesc.wOut (d : ConvDesc) : Nat := outDim d.w d.left d.right d.dx d.s d.sx

/-! ### Taps and padding (R185 to R187) -/

/-- The reflected index inside 0 to `n` − 1 (R186). -/
def reflect (i : Int) (n : Nat) : Nat :=
  if n ≤ 1 then 0
  else
    let p : Int := 2 * (n - 1)
    let m := (i % p).toNat
    if m < n then m else p.toNat - m

/-- The index clamped to 0 to `n` − 1. -/
def clampIndex (i : Int) (n : Nat) : Nat := min i.toNat (n - 1)

/-- What one tap position reads: nothing, because it is masked; the padding value; or an image position. -/
inductive TapAt where
  | masked
  | padding
  | image (y x : Nat)
  deriving DecidableEq, Repr

/-- CONST with PAD_VALUE 0 is treated as ZERO (R187). -/
def ConvDesc.zeroMode (d : ConvDesc) : Bool := d.padMode == 0 || (d.padMode == 1 && d.pad == 0)

/-- What position `n` of the tile reads at tap (r, s) (R185 to R187): positions above N_VALID are masked. -/
def ConvCmd.tapAt (q : ConvCmd) (d : ConvDesc) (n r s : Nat) : TapAt :=
  let iy : Int := (q.oy * d.sy + r * d.dy : Nat) - (d.top : Int)
  let ix : Int := ((q.ox0 + n) * d.sx + s * d.dx : Nat) - (d.left : Int)
  if n ≥ q.n then .masked
  else if 0 ≤ iy ∧ iy < d.h ∧ 0 ≤ ix ∧ ix < d.w then .image iy.toNat ix.toNat
  else if d.zeroMode then .masked
  else if d.padMode = 1 then .padding
  else if d.padMode = 2 then .image (clampIndex iy d.h) (clampIndex ix d.w)
  else .image (reflect iy d.h) (reflect ix d.w)

/-- The taps of a layer as (r, s), in order. -/
def ConvDesc.taps (d : ConvDesc) : List (Nat × Nat) := (List.range (d.r * d.s)).map fun t => (t / d.s, t % d.s)

/-- A tap that is masked for all 64 positions of the tile is skipped (R187). -/
def ConvCmd.skipped (q : ConvCmd) (d : ConvDesc) (t : Nat × Nat) : Bool :=
  (List.range 64).all fun n => q.tapAt d n t.1 t.2 == .masked

/-- The tap and channel of index k (R185). -/
def ConvDesc.tapOf (d : ConvDesc) (k : Nat) : Nat × Nat := (k / d.cgIn / d.s, k / d.cgIn % d.s)

/-! ### Checks (R184) -/

/-- Bits of one element of an operand class. -/
def classBits (c : FmtClass) : Nat := if c.is4 then 4 else if c = .fp16 then 16 else 8

/-- PAD_VALUE is exactly representable in FMT_X (R184). -/
def padExact (f pad : Nat) : Bool :=
  match fmtClass f with
  | some c =>
    if c.isInt then
      let v := toSigned 32 pad
      (intRange f).1 ≤ v && v ≤ (intRange f).2
    else
      let v := dec32 pad
      let back := floatElem f (convert f false none v).bits
      v == .nan || fpEq back v
  | none => false

/-- Reserved encodings of a CONV command (R184). -/
def ConvCmd.reserved (q : ConvCmd) (c : FmtClass) : Bool :=
  fmtClass q.fw != some c || !(fmtOutOk q.fo) || (bit q.flags 5 && q.fo != 2 && q.fo != 3) || (q.sparse && c == .fp16)

/-- DESC_ERROR (R184). -/
def ConvCmd.descError (q : ConvCmd) (d : ConvDesc) (c : FmtClass) : Bool :=
  let inR (v lo hi : Nat) : Bool := lo ≤ v && v ≤ hi
  let filter := (inR d.r 1 15 && inR d.s 1 15) || (d.r == 1 && inR d.s 1 63) || (d.s == 1 && inR d.r 1 63)
  d.layout > 2 || d.padMode > 3 || !d.resZero || !filter
    || !(inR d.sy 1 8) || !(inR d.sx 1 8) || !(inR d.dy 1 64) || !(inR d.dx 1 64)
    || d.top > d.dy * (d.r - 1) || d.bottom > d.dy * (d.r - 1) || d.left > d.dx * (d.s - 1) || d.right > d.dx * (d.s - 1)
    || d.g == 0 || d.cIn % d.g != 0 || d.cOut % d.g != 0
    || d.h == 0 || d.w == 0 || d.rows == 0 || !(inR d.rowPitch 1 32767) || (d.layout != 2 && d.planePitch != 0)
    || d.hOut < 1 || d.wOut < 1
    || (d.padMode == 1 && !(padExact q.fx d.pad)) || (d.padMode != 1 && d.pad != 0) || c == .mxfp4

/-- Output lines of one position (R189). -/
def ConvCmd.outLines (q : ConvCmd) : Nat := if fmtOutBits q.fo ≤ 8 then 1 else if fmtOutBits q.fo = 16 then 2 else 4

/-- The image rows that the taps of the tile read. -/
def ConvCmd.rowsRead (q : ConvCmd) (d : ConvDesc) : List Nat :=
  (d.taps.map fun t => (List.range 64).filterMap fun n =>
    match q.tapAt d n t.1 t.2 with
    | .image y _ => some y
    | _ => none).flatten

/-- Elements per Pool line. -/
def lineElems (c : FmtClass) : Nat := 512 / classBits c

/-- The line and the element within it of channel `ch` of image position (y, x) (R191). -/
def ConvCmd.imagePlace (q : ConvCmd) (d : ConvDesc) (c : FmtClass) (ch y x : Nat) : Nat × Nat :=
  let e := lineElems c
  let row := q.xLine + (y - d.y0) * d.rowPitch
  match d.layout with
  | 0 => (row + ch / e * d.w + x, ch % e)
  | 1 => (row + (x * d.cIn + ch) / e, (x * d.cIn + ch) % e)
  | _ => (row + ch * d.planePitch + x / e, x % e)

/-- The image lines that the tile reads. -/
def ConvCmd.imageLines (q : ConvCmd) (d : ConvDesc) (c : FmtClass) : List Nat :=
  (d.taps.map fun t => ((List.range 64).map fun n =>
    match q.tapAt d n t.1 t.2 with
    | .image y x => (List.range d.cgIn).map fun ch => (q.imagePlace d c (q.group * d.cgIn + ch) y x).1
    | _ => []).flatten).flatten

/-- Lines of the stored weight panel. -/
def ConvCmd.panel (q : ConvCmd) (d : ConvDesc) (c : FmtClass) : Nat :=
  if q.sparse then panelLines c d.k / 2 else panelLines c (d.k + (if c.is4 then d.k % 2 else 0))

/-- The place of line `i` of a compressed weight panel, between W_LINE and W2_LINE (R182). -/
def ConvCmd.weightLine (q : ConvCmd) (d : ConvDesc) (c : FmtClass) (i : Nat) : Nat :=
  if !q.sparse then q.wLine + i
  else if Config.convWeightHalves then
    let half := (q.panel d c + 1) / 2
    if i < half then q.wLine + i else q.w2 + (i - half)
  else if i % 2 = 0 then q.wLine + i / 2 else q.w2 + i / 2

/-- The k of the taps that the tile does not skip (R187). -/
def ConvCmd.usedK (q : ConvCmd) (d : ConvDesc) : List Nat :=
  ((d.taps.filter fun t => !(q.skipped d t)).map fun t =>
    (List.range d.cgIn).map fun c => (t.1 * d.s + t.2) * d.cgIn + c).flatten

/-- The lines of the weight panel that hold the weights of index k. -/
def ConvCmd.panelLinesOf (q : ConvCmd) (c : FmtClass) (k : Nat) : List Nat :=
  if q.sparse then (if c.is4 then [k / 4] else [k / 4 * 2, k / 4 * 2 + 1])
  else if c.is4 then [k / 2]
  else if c = .fp16 then [2 * k, 2 * k + 1]
  else [k]

/-- The 2:4 groups of the taps that the tile does not skip. -/
def ConvCmd.usedGroups (q : ConvCmd) (d : ConvDesc) : List Nat :=
  ((q.usedK d).filter fun k => k % 4 = 0).map (· / 4)

/-- The regions of Pool lines that a CONV reads: a skipped tap reads no weight and no metadata (R71, R182, R187). -/
def ConvCmd.reads (q : ConvCmd) (d : ConvDesc) (c : FmtClass) : List (Nat × Nat) :=
  (((q.usedK d).map fun k => (q.panelLinesOf c k).map fun i => (q.weightLine d c i, 1)).flatten)
    ++ (if q.sparse then (q.usedGroups d).map fun g => (q.metaLine + g / 2, 1) else [])
    ++ ((q.imageLines d c).map fun l => (l, 1))
    ++ (if q.emit && bit q.flags 6 then [(q.qnt, 8)] else [])

/-- The regions of Pool lines that a CONV writes (R189). -/
def ConvCmd.writes (q : ConvCmd) : List (Nat × Nat) :=
  if q.emit then (List.range q.n).map fun i => (q.cLine + i * q.pitch, (q.m * fmtOutBits q.fo + 511) / 512) else []

/-- All regions of Pool lines that a CONV reaches (R71). -/
def ConvCmd.regions (q : ConvCmd) (d : ConvDesc) (c : FmtClass) : List (Nat × Nat) := q.reads d c ++ q.writes

/-- BAD_SHAPE (R184, R71). -/
def ConvCmd.badShape (q : ConvCmd) (d : ConvDesc) (c : FmtClass) : Bool :=
  let limit := if c.is4 then 131072 else if c = .fp16 then 16384 else 65536
  d.k > limit || (q.sparse && d.cgIn % (if c.is4 then 8 else 4) != 0) || q.group ≥ d.g
    || 64 * q.mBlock + (q.m - 1) ≥ d.cgOut || q.oy ≥ d.hOut || q.ox0 + (q.n - 1) ≥ d.wOut || q.pitch < q.outLines
    || !((q.rowsRead d).all fun y => d.y0 ≤ y && y < d.y0 + d.rows)
    || !(regionsFit (q.regions d c))

/-! ### The tile (R185) -/

/-- A raw element of a Pool line. -/
def State.lineElem (s : State) (n : Nat) (c : FmtClass) (line i : Nat) : Nat :=
  match classBits c with
  | 4 => fld (s.poolByte n line (i / 2)) (4 * (i % 2)) 4
  | 16 => s.rdLe (poolAddr n line + 2 * i) 2
  | _ => s.poolByte n line i

/-- Raw w(m, k); none stands for a dropped zero. -/
def ConvCmd.rawW (q : ConvCmd) (s : State) (n : Nat) (d : ConvDesc) (c : FmtClass) (m k : Nat) : Option Nat :=
  if !q.sparse then some (s.denseElem n c q.wLine m k)
  else
    let g := k / 4
    let nib := s.metaNibble n q.metaLine g m
    let at8 (i : Nat) : Nat := s.poolByte n (q.weightLine d c i) m
    if k % 4 = fld nib 0 2 then some (if c.is4 then fld (at8 g) 0 4 else at8 (2 * g))
    else if k % 4 = fld nib 2 2 then some (if c.is4 then fld (at8 g) 4 4 else at8 (2 * g + 1))
    else none

/-- The image operand at (k, j): none where it is masked, else an image element or the padding value. -/
def ConvCmd.imageAt (q : ConvCmd) (d : ConvDesc) (k j : Nat) : TapAt :=
  let t := d.tapOf k
  q.tapAt d j t.1 t.2

/-- The raw image element at (k, j). -/
def ConvCmd.rawX (q : ConvCmd) (s : State) (n : Nat) (d : ConvDesc) (c : FmtClass) (k y x : Nat) : Nat :=
  let p := q.imagePlace d c (q.group * d.cgIn + k % d.cgIn) y x
  s.lineElem n c p.1 p.2

/-- The integer tile. -/
def ConvCmd.intTile (q : ConvCmd) (s : State) (n : Nat) (d : ConvDesc) (c : FmtClass) : IntTile :=
  { k := d.k
    a := fun m k => match q.rawW s n d c m k with | some v => intElem q.fw v | none => 0
    b := fun k j =>
      match q.imageAt d k j with
      | .masked => 0
      | .padding => toSigned 32 d.pad
      | .image y x => intElem q.fx (q.rawX s n d c k y x) }

/-- The float tile; a tap skipped for the whole tile reads no weight. -/
def ConvCmd.floatTile (q : ConvCmd) (s : State) (n : Nat) (d : ConvDesc) (c : FmtClass) : FloatTile :=
  { k := d.k
    pairs := false
    a := fun m k =>
      if q.skipped d (d.tapOf k) then .num false 0 0
      else match q.rawW s n d c m k with | some v => floatElem q.fw v | none => .num false 0 0
    b := fun k j =>
      match q.imageAt d k j with
      | .masked => .num false 0 0
      | .padding => dec32 d.pad
      | .image y x => floatElem q.fx (q.rawX s n d c k y x)
    masked := fun k j => q.imageAt d k j == .masked }

/-- How CONV's drain converts: the scale and bias are those of row m (R185). -/
def ConvCmd.drainOf (q : ConvCmd) : Drain :=
  { fmt := q.fo, sat := bit q.flags 4, stoch := bit q.flags 5, qnt := bit q.flags 6, qntRow := true
    qntLine := q.qnt, line := q.cLine, pitch := q.pitch, rows := q.n, cols := q.m }

/-- The channel-last drain: output position j at C_LINE + j × C_PITCH holds the channels of the tile (R189). -/
def State.drainChannels (s : State) (n : Nat) (a : AccSet) (d : Drain) : State :=
  let rows := (List.range d.rows).map fun j => (j, (List.range d.cols).map fun i => s.emitElem n a d i j)
  let s1 := rows.foldl (fun s r =>
    let addr := poolAddr n (d.line + r.1 * d.pitch)
    s.wr addr (packRow d.fmt (s.rd addr d.rowBytes) (r.2.map (·.bits)))) s
  let s2 := s1.modBasin n fun b =>
    { b with
      nanSeen := b.nanSeen || rows.any fun r => r.2.any (·.nan)
      satHit := b.satHit || rows.any fun r => r.2.any (·.sat) }
  s2.sendResidue n a

/-- CONV once its banks serve: the metadata is checked, and the tile accumulated and drained. -/
def ConvCmd.compute (q : ConvCmd) (d : ConvDesc) (c : FmtClass) (n : Nat) (s : State) : CmdResult :=
  if q.sparse && !(s.metaOkAt n q.metaLine (q.usedGroups d)) then (2, s)
  else
    let tile : IntTile ⊕ FloatTile := if c.isInt then .inl (q.intTile s n d c) else .inr (q.floatTile s n d c)
    let r := s.tileAcc n q.sel (bit q.flags 0) tile
    (0, if q.emit then r.1.drainChannels n r.2 q.drainOf else r.1)

/-- CONV (R182 to R190). -/
def ConvCmd.run (q : ConvCmd) (n : Nat) (s : State) : CmdResult :=
  match fmtClass q.fx with
  | none => (1, s)
  | some c =>
    if q.reserved c || accMismatch (s.accStart n q.sel (bit q.flags 0)) c then (1, s)
    else
      let r := s.askLines n [(q.desc, 1)] []
      if r.1 ≠ 0 then r
      else
        let d := convDescOf (r.2.rd (poolAddr n q.desc) 64)
        if q.descError d c then (9, r.2)
        else if q.badShape d c then (2, r.2)
        else
          let r := r.2.askLines n (q.reads d c) q.writes
          if r.1 ≠ 0 then r else q.compute d c n r.2

/-- CONV (R182): one 64 × 64 output tile of a convolution. -/
def execConv (basin : Nat) (s : State) : Out :=
  act s fun s => s.runCmd basin 0x11 convMask fun cmd s => (convOf cmd).run basin s

end Sys2Proof.Machine
end

