-- ==== Sys2Proof/Machine/Sections.lean ====
section
/-! DEFINITION. The ranges of the image sections: for each section, the byte offset of the first field outside its
stated range, which fails with 0x0D (R41). A reserved byte of a section is a field whose range is zero. -/

namespace Sys2Proof.Machine

/-- A field of `n` bytes at `off` lies between two bounds. -/
def inRange (t : Bytes) (off n lo hi : Nat) : Bool := lo ≤ le t off n && le t off n ≤ hi

/-- All entries of a table from `lo` with `n` entries of `size` bytes pass a check; the first that does not gives its
offset. -/
def entriesFault (n lo size : Nat) (f : Nat → List (Nat × Bool)) : Option Nat :=
  (List.range n).findSome? fun i => (firstFault (f (lo + size * i)))

/-- Several checks in turn. -/
def firstOf : List (Option Nat) → Option Nat
  | [] => none
  | none :: r => firstOf r
  | some o :: _ => some o

/-! ### BASINMAP and ISLAND (R43 to R46) -/

/-- A pool with STRICT_PARTITION set shares no Terrace with a Basin of another pool (R44). -/
def strictOk (t : Bytes) (n : Nat) : Bool :=
  let pool (i : Nat) : Nat := fld (byteAt t i) 2 4
  let shared (i : Nat) : Bool := fld (byteAt t i) 0 2 == 1
  !(shared n && bit (byteAt t (0x40 + 16 * pool n)) 1)
    || (List.range 8).all fun i => !(shared (n / 8 * 8 + i)) || pool (n / 8 * 8 + i) == pool n

/-- BASINMAP (R43, R44). DESIGN CHOICE: QUANTUM_US, MAX_CONSISTS and LEASE_MS of a pool entry are judged only where its
VALID is 1, and where no Basin is express the field offset is 0; R43 and R44 say neither. -/
def basinmapFault (t island : Bytes) : Option Nat :=
  firstOf
    [ (List.range 64).findSome? fun n =>
        let b := byteAt t n
        firstFault [(n, b < 64 && fld b 0 2 != 3 && (fld b 0 2 == 1 || fld b 2 4 == 0)
          && (fld b 0 2 != 1 || bit (byteAt t (0x40 + 16 * fld b 2 4)) 0) && strictOk t n)],
      entriesFault 16 0x40 16 fun o =>
        let used := bit (byteAt t o) 0
        [(o, byteAt t o < 4), (o + 1, byteAt t (o + 1) == 0), (o + 2, !used || inRange t (o + 2) 2 50 10000),
         (o + 6, !used || inRange t (o + 6) 2 1 255), (o + 8, !used || inRange t (o + 8) 4 10 10000),
         (o + 12, zeroAt t (o + 12) 4)],
      if byteAt island 0 = 0 ∧ !((List.range 64).any fun n => fld (byteAt t n) 0 2 == 2) then some 0 else none ]

/-- ISLAND (R45, R46). -/
def islandFault (t : Bytes) (splitAllowed : Bool) : Option Nat :=
  firstFault
    [(0, byteAt t 0 ≤ 1 && (byteAt t 0 == 0 || splitAllowed)),
     (1, byteAt t 1 < 4 && (byteAt t 1 == 0 || splitAllowed)),
     (2, inRange t 2 1 1 15), (3, inRange t 3 1 2 64 && byteAt t 2 ≤ byteAt t 3), (4, zeroAt t 4 28)]

/-! ### CLOCKPLAN, POWERPLAN, MEMORY, BANKOWN and SMFW (R112, R120, R428 to R430) -/

/-- CLOCKPLAN (R428). -/
def clockplanFault (t : Bytes) : Option Nat :=
  let n := byteAt t 4
  let en := le t 8 16
  firstOf
    [ firstFault
        [(0, le t 0 4 == 0x01434C4B), (4, 2 ≤ n && n ≤ 8), (5, zeroAt t 5 3),
         (8, [9, 10, 11, 12, 13, 14, 15, 61, 66, 71, 72].all (fun d => bit en (d - 1)) && fld en 72 56 == 0),
         (0x18, inRange t 0x18 2 5 100 && le t 0x18 2 < le t 0x1A 2), (0x1A, inRange t 0x1A 2 5 100),
         (0x1C, zeroAt t 0x1C 36)],
      (List.range 8).findSome? fun p =>
        let o := 0x40 + 8 * p
        if p < n then
          firstFault
            [(o, 600 ≤ le t o 2 && (if p = 0 then le t o 2 == 2400 else le t o 2 < le t (o - 8) 2)),
             (o + 2, inRange t (o + 2) 2 550 850 && le t (o + 2) 2 ≤ le t (o + 4) 2), (o + 4, inRange t (o + 4) 2 550 850),
             (o + 6, zeroAt t (o + 6) 2)]
        else firstFault [(o, zeroAt t o 8)] ]

/-- A bring-up entry's domain may be listed: a logic domain or a controller group whose clock may run (R429). -/
def bringupOk (clockplan : Bytes) (d st : Nat) : Bool :=
  match pwrDomain d with
  | none => false
  | some (.bank _) => false
  | some (.dram c) => st == 2 && bit (le clockplan 8 16) (15 + c)
  | some (.can _) => (st == 2 || st == 4) && bit (le clockplan 8 16) 35
  | some k => (st == 2 || st == 4) && match k.clock with | some n => bit (le clockplan 8 16) (n - 1) | none => false

/-- POWERPLAN (R429). -/
def powerplanFault (t clockplan : Bytes) : Option Nat :=
  let n := le t 0x12 2
  firstOf
    [ firstFault
        [(0, le t 0 4 == 0x01505750), (4, inRange t 4 2 90 260), (6, inRange t 6 2 1 1000), (8, inRange t 8 1 70 120),
         (9, inRange t 9 1 100 125 && byteAt t 8 < byteAt t 9), (0x0A, byteAt t 0x0A < byteAt clockplan 4),
         (0x0B, byteAt t 0x0B < 2), (0x0C, inRange t 0x0C 2 1 1023),
         (0x0E, [0, 1, 14, 15].all fun w => !(bit (le t 0x0E 2) w)), (0x10, byteAt t 0x10 ≤ 2), (0x11, byteAt t 0x11 == 0),
         (0x12, n ≤ 1024), (0x14, zeroAt t 0x14 108)],
      (List.range n).findSome? fun i =>
        let o := 0x80 + 4 * i
        firstFault
          [(o, bringupOk clockplan (le t o 2) (byteAt t (o + 2))
              && !((List.range i).any fun j => le t (0x80 + 4 * j) 2 == le t o 2)),
           (o + 3, byteAt t (o + 3) == 0)] ]

/-- The fault of a controller's TRAIN block (R120): zero where it is not populated, and otherwise within ranges that the spec
names and does not give. -/
def trainFault (t : Bytes) (c : Nat) : Option Nat :=
  let o := 0x40 + 1024 * c
  if bit (byteAt t 0) c then (Config.trainFault (slice t o 1024)).map fun i => o + i.toNat
  else if zeroAt t o 1024 then none
  else some o

/-- MEMORY (R120). -/
def memoryFault (t : Bytes) : Option Nat :=
  (firstFault
    [(0, byteAt t 0 == 0xFF || byteAt t 0 == 0x66), (1, byteAt t 1 ≤ 3), (2, byteAt t 2 == 1 || byteAt t 2 == 2),
      (3, byteAt t 3 < 4), (4, [6400, 7500, 8533, 9600, 10667].contains (le t 4 2)), (6, zeroAt t 6 58)]).orElse
    fun _ => (List.range 8).findSome? (trainFault t)

/-- BANKOWN (R112). -/
def bankownFault (t tags : Bytes) : Option Nat :=
  (List.range 1280).findSome? fun k =>
    let e := le t (4 * k) 4
    let pwr := fld e 16 2
    firstFault [(4 * k, fld e 13 3 == 0 && fld e 18 14 == 0 && pwr != 3
      && (!(1024 ≤ k && k < 1054) || pwr == 2)
      && (!(k == 1054 || k == 1055) || (pwr == 2 && fld e 0 12 == le tags 0x010 2 && !(bit e 12))))]

/-- SMFW (R430); `fwVersion` is the image header's FW_VERSION. -/
def smfwFault (t : Bytes) (fwVersion : Nat) : Option Nat :=
  firstFault
    [(0, le t 0 4 == 0x01464D53), (4, le t 4 4 == fwVersion), (0x0C, le t 0x0C 4 % 64 == 0), (0x10, le t 0x10 4 % 64 == 0),
     (0x14, le t 0x14 4 < le t 0x0C 4), (0x1A, zeroAt t 0x1A 38)]

/-! ### IOPLAN (R463, R467, R338, R339) -/

/-- A CAN bit rate in bit/s from its prescaler and segments; 0 where the prescaler is 0. -/
def canRate (brp seg1 seg2 : Nat) : Nat := if brp = 0 then 0 else 160000000 / (brp * (1 + seg1 + seg2))

/-- A rate that has to lie at or below a limit and exist. -/
def rateTo (brp seg1 seg2 lo hi : Nat) : Bool := lo ≤ canRate brp seg1 seg2 && canRate brp seg1 seg2 ≤ hi && brp != 0

/-- A camera entry of IOPLAN. -/
def cameraEntry (t : Bytes) (o : Nat) : List (Nat × Bool) :=
  [(o, byteAt t o ≤ 1), (o + 1, [1, 2, 4].contains (byteAt t (o + 1))),
   (o + 2, inRange t (o + 2) 2 80 (if byteAt t o = 0 then 4500 else 3500)), (o + 4, byteAt t (o + 4) ≤ 15),
   (o + 5, [0x2A, 0x2B, 0x2C, 0x2E, 0x1E, 0x24].contains (byteAt t (o + 5))), (o + 6, byteAt t (o + 6) ≤ 1),
   (o + 7, byteAt t (o + 7) == 0), (o + 8, le t (o + 8) 8 % 4096 == 0),
   (o + 0x10, le t (o + 0x10) 4 % 4096 == 0 && le t (o + 0x16) 2 * le t (o + 0x18) 4 ≤ le t (o + 0x10) 4),
   (o + 0x14, inRange t (o + 0x14) 2 1 64), (o + 0x16, inRange t (o + 0x16) 2 1 65535),
   (o + 0x18, le t (o + 0x18) 4 % 64 == 0), (o + 0x1C, zeroAt t (o + 0x1C) 36)]

/-- The rate of an Ethernet port in kbit/s: MAC and MODE. -/
def macRate (m mode : Nat) : Nat :=
  if m ≥ 8 then 25000000 else [10000000, 5000000, 2500000, 1000000, 100000].getD mode 0

/-- An Ethernet entry of IOPLAN. -/
def ethernetEntry (t : Bytes) (m : Nat) : List (Nat × Bool) :=
  let o := 0x440 + 64 * m
  let slopes : List (Nat × Bool) :=
    (List.range 8).map fun c => (o + 0x10 + 4 * c, le t (o + 0x10 + 4 * c) 4 ≤ macRate m (byteAt t o))
  let rest : List (Nat × Bool) :=
    [(o, byteAt t o ≤ (if m < 8 then 4 else 0)), (o + 1, byteAt t (o + 1) ≤ (if m < 8 then 0 else 2)),
     (o + 2, zeroAt t (o + 2) 2), (o + 4, inRange t (o + 4) 2 64 9216), (o + 6, zeroAt t (o + 6) 2),
     (o + 9, zeroAt t (o + 9) 7), (o + 0x30, zeroAt t (o + 0x30) 16)]
  slopes ++ rest

/-- A CAN entry of IOPLAN. -/
def canEntry (t : Bytes) (o : Nat) : List (Nat × Bool) :=
  let mode := byteAt t o
  [(o, mode ≤ 2), (o + 1, byteAt t (o + 1) < 4),
   (o + 2, rateTo (le t (o + 2) 2) (byteAt t (o + 4)) (byteAt t (o + 5)) 125000 1000000), (o + 7, byteAt t (o + 7) == 0),
   (o + 8, mode == 0 || rateTo (le t (o + 8) 2) (byteAt t (o + 10)) (byteAt t (o + 11)) 0 8000000),
   (o + 0x0E, zeroAt t (o + 0x0E) 2),
   (o + 0x10, mode != 2 || rateTo (le t (o + 0x10) 2) (byteAt t (o + 0x12)) (byteAt t (o + 0x13)) 0 20000000),
   (o + 0x15, zeroAt t (o + 0x15) 11)]

/-- A PCIe entry of IOPLAN. -/
def pcieEntry (t : Bytes) (o : Nat) : List (Nat × Bool) :=
  [(o, byteAt t o ≤ 1), (o + 1, inRange t (o + 1) 1 1 5), (o + 2, [1, 2, 4, 8].contains (byteAt t (o + 2))),
   (o + 3, byteAt t (o + 3) ≤ 1), (o + 8, zeroAt t (o + 8) 8)]

/-- A display entry of IOPLAN. -/
def displayEntry (t : Bytes) (o : Nat) : List (Nat × Bool) :=
  [(o, byteAt t o ≤ 3), (o + 1, [1, 2, 4].contains (byteAt t (o + 1))), (o + 2, byteAt t (o + 2) ≤ 1),
   (o + 3, zeroAt t (o + 3) 29)]

/-- The bring-up list names a domain (R467). -/
def broughtUp (powerplan : Bytes) (d : Nat) : Bool :=
  (List.range (le powerplan 0x12 2)).any fun i => le powerplan (0x80 + 4 * i) 2 == d

/-- The domains of the enabled ports of a kind are in the bring-up list. -/
def portsListed (powerplan : Bytes) (mask n d : Nat) : Bool := (maskBits mask n).all fun i => broughtUp powerplan (d + i)

/-- The entries of a kind of port: those of enabled ports pass their checks, the others are zero. -/
def portEntries (t : Bytes) (mask n lo size : Nat) (f : Nat → List (Nat × Bool)) : Option Nat :=
  (List.range n).findSome? fun i =>
    firstFault (if bit mask i then f i else [(lo + size * i, zeroAt t (lo + size * i) size)])

/-- IOPLAN (R467). -/
def ioplanFault (t powerplan : Bytes) : Option Nat :=
  let cam := le t 4 2
  let eth := le t 6 2
  let can := le t 8 2
  let disp := byteAt t 0x0A
  let pcie := byteAt t 0x0B
  firstOf
    [ firstFault
        [(0, le t 0 4 == 0x01504F49), (4, portsListed powerplan cam 16 0x620),
         (6, eth < 1024 && portsListed powerplan eth 10 0x648), (8, portsListed powerplan can 16 0x658),
         (0x0A, disp < 16 && portsListed powerplan disp 4 0x630), (0x0B, pcie < 4 && portsListed powerplan pcie 2 0x640),
         (0x0C, zeroAt t 0x0C 52)],
      portEntries t cam 16 0x40 64 fun i => cameraEntry t (0x40 + 64 * i),
      portEntries t eth 10 0x440 64 (ethernetEntry t),
      portEntries t can 16 0x6C0 32 fun i => canEntry t (0x6C0 + 32 * i),
      portEntries t pcie 2 0x8C0 16 fun i => pcieEntry t (0x8C0 + 16 * i),
      portEntries t disp 4 0x8E0 32 fun i => displayEntry t (0x8E0 + 32 * i) ]

/-! ### TTSCHED (R324) -/

/-- A signed byte between two bounds. -/
def signedIn (t : Bytes) (o : Nat) (lo hi : Int) : Bool :=
  let v : Int := if byteAt t o < 128 then byteAt t o else (byteAt t o : Int) - 256
  lo ≤ v && v ≤ hi

/-- An event entry. -/
def eventEntry (t : Bytes) (i : Nat) : List (Nat × Bool) :=
  let o := 0x100 + 32 * i
  let kind := byteAt t (o + 2)
  let timed := kind == 1 || kind == 4
  let sourced := kind == 2 || kind == 3
  [(o, inRange t o 2 1 0xFFFE && !((List.range i).any fun j => le t (0x100 + 32 * j) 2 == le t o 2)),
   (o + 2, 1 ≤ kind && kind ≤ 4), (o + 3, byteAt t (o + 3) ≤ 1),
   (o + 4, if sourced then byteAt t (o + 4) ≤ 15 else byteAt t (o + 4) == 0),
   (o + 5, if sourced then 1 ≤ byteAt t (o + 5) else byteAt t (o + 5) == 1), (o + 6, zeroAt t (o + 6) 2),
   (o + 8, timed || zeroAt t (o + 8) 8),
   (o + 0x10, if timed then le t (o + 0x10) 4 < 1000000000 else zeroAt t (o + 0x10) 4),
   (o + 0x14, if kind = 1 then inRange t (o + 0x14) 4 10000 4000000000 else zeroAt t (o + 0x14) 4),
   (o + 0x18, if sourced then le t (o + 0x18) 4 ≤ 999999999 else zeroAt t (o + 0x18) 4),
   (o + 0x1C, zeroAt t (o + 0x1C) 4)]

/-- A trigger entry: an unused output binds no range. -/
def triggerEntry (t : Bytes) (ids : List Nat) (o : Nat) : List (Nat × Bool) :=
  let id := le t o 2
  let toggle := bit (byteAt t (o + 2)) 1
  [(o, id == 0 || ids.contains id), (o + 2, byteAt t (o + 2) < 4), (o + 3, byteAt t (o + 3) == 0),
   (o + 4, id == 0 || (if toggle then le t (o + 4) 4 == 0 else inRange t (o + 4) 4 10 999999999)),
   (o + 8, id == 0 || le t (o + 8) 4 ≤ 1000000), (o + 12, zeroAt t (o + 12) 4)]

/-- TTSCHED (R324); `ioplan` tells the enabled cameras and MACs. -/
def ttschedFault (t ioplan : Bytes) : Option Nat :=
  let n := le t 4 2
  let gptp := byteAt t 0x0C == 1 || byteAt t 0x0C == 2
  let ids := (List.range n).map fun i => le t (0x100 + 32 * i) 2
  firstOf
    [ firstFault
        [(0, le t 0 4 == 0x01545453), (4, n ≤ 4096), (6, zeroAt t 6 2), (8, inRange t 8 4 1000000 4000000000),
         (0x0C, byteAt t 0x0C ≤ 3),
         (0x0D, if gptp then byteAt t 0x0D ≤ 9 && bit (le ioplan 6 2) (byteAt t 0x0D) else byteAt t 0x0D == 0),
         (0x0E, byteAt t 0x0E ≤ 127), (0x0F, signedIn t 0x0F (-5) 0), (0x10, signedIn t 0x10 (-5) 3),
         (0x11, byteAt t 0x11 == 0), (0x12, inRange t 0x12 2 10 2000), (0x14, inRange t 0x14 2 0 10000),
         (0x16, zeroAt t 0x16 2), (0x18, inRange t 0x18 4 100 10000000), (0x1C, zeroAt t 0x1C 4),
         (0x28, zeroAt t 0x28 24)],
      (List.range 16).findSome? fun p =>
        let o := 0x40 + 8 * p
        firstFault [(o, !(bit (le ioplan 4 2) p) || le t o 2 != 0), (o + 4, zeroAt t (o + 4) 4)],
      firstFault [(0xC0, zeroAt t 0xC0 64)],
      (List.range 4096).findSome? fun i =>
        firstFault (if i < n then eventEntry t i else [(0x100 + 32 * i, zeroAt t (0x100 + 32 * i) 32)]),
      entriesFault 32 0x20100 16 (triggerEntry t ids),
      entriesFault 16 0x20300 8 fun o =>
        [(o, byteAt t o < 8), (o + 1, byteAt t (o + 1) == 0), (o + 2, !(bit (byteAt t o) 0) || 1 ≤ le t (o + 2) 2),
         (o + 4, zeroAt t (o + 4) 4)] ]

/-! ### HEADWAY and RULES (R275, R278 to R282) -/

/-- A class entry of HEADWAY. -/
def classEntry (t : Bytes) (o : Nat) : List (Nat × Bool) :=
  let safety := bit (byteAt t o) 0
  let src := byteAt t (o + 1)
  [(o, byteAt t o < 4), (o + 1, if safety then 1 ≤ src && src ≤ 3 else src == 0),
   (o + 2, src == 0 || src == 3 || le t (o + 2) 2 ≤ 15),
   (o + 4, if safety then 1 ≤ byteAt t (o + 4) else byteAt t (o + 4) == 0),
   (o + 5, byteAt t (o + 5) ≤ (if safety then 2 else 0)),
   (o + 6, if safety then le t (o + 6) 2 != 0 else le t (o + 6) 2 == 0), (o + 8, le t (o + 8) 4 != 0),
   (o + 0x0C, le t (o + 0x0C) 4 % 4 == 0 && le t (o + 0x0C) 4 ≤ 262144
      && (!(bit (byteAt t o) 1) || le t (o + 0x0C) 4 == 16448)),
   (o + 0x10, byteAt t (o + 0x10) ≤ 2), (o + 0x11, zeroAt t (o + 0x11) 15), (o + 0x30, zeroAt t (o + 0x30) 16)]

/-- HEADWAY (R275). -/
def headwayFault (t : Bytes) : Option Nat :=
  let n := byteAt t 4
  let len := le t 0x18 2
  firstOf
    [ firstFault
        [(0, le t 0 4 == 0x01484457), (4, 1 ≤ n && n ≤ 127), (5, byteAt t 5 == 0), (0x0A, inRange t 0x0A 2 2 256),
         (0x0C, inRange t 0x0C 4 1 15625), (0x10, le t 0x10 8 < 2 ^ 48 && le t 0x10 8 % 4096 == 0),
         (0x18, 64 ≤ len && len ≤ 8192), (0x1A, len ≤ le t 0x1A 2),
         (0x1C, inRange t 0x1C 2 64 4096 && le t 0x1C 2 % 64 == 0),
         (0x28, le t 0x28 8 < 2 ^ 48 && le t 0x28 8 % 4 == 0), (0x30, zeroAt t 0x30 16)],
      entriesFault n 0x40 64 (classEntry t),
      firstFault [(0x40 + 64 * n, zeroAt t (0x40 + 64 * n) (0x2000 - 0x40 - 64 * n)),
        (0x2000 + len, zeroAt t (0x2000 + len) (0x2000 - len))] ]

/-- The PAYLOAD_LEN of a class in a HEADWAY payload, and whether the class is a SAFETY class. -/
def classLen (hdw : Bytes) (c : Nat) : Nat := le hdw (0x40 + 64 * (c - 1) + 0x0C) 4
/-- A SAFETY class of a HEADWAY payload. -/
def classIsSafety (hdw : Bytes) (c : Nat) : Bool :=
  1 ≤ c && c ≤ byteAt hdw 4 && bit (byteAt hdw (0x40 + 64 * (c - 1))) 0

/-- The formats that a rule accepts (R279). -/
def ruleFormats : List Nat := [0x0, 0x1, 0x4, 0x5, 0x8, 0x9, 0xA, 0xB]

/-- Elements lie within a payload: format, offset, stride, count. -/
def elemsFit (len f off stride count : Nat) : Bool :=
  count == 0 || off + stride * (count - 1) + ruleElemBytes f ≤ len

/-- A positive FP32 number. -/
def positive32 (v : Nat) : Bool := match dec32 v with | .num false (_ + 1) _ => true | _ => false

/-- The rule's own parameters (R278, R279, R282). -/
def ruleParams (hdw basinmap r : Bytes) (o : Nat) : List (Nat × Bool) :=
  let cls := ruleClass r
  match ruleKind r with
  | 1 =>
    [(o + 5, zeroAt r 5 3), (o + 12, zeroAt r 12 4),
     (o + 0x10, (maskBits (le r 0x10 8) 64).all fun n => fld (byteAt basinmap n) 0 2 == 2)]
  | 4 =>
    [(o + 0x10, classIsSafety hdw (byteAt r 0x10)), (o + 0x11, ruleFormats.contains (byteAt r 0x11)),
     (o + 0x12, ruleElemBytes (byteAt r 0x11) ≤ le r 0x12 2),
     (o + 0x14, elemsFit (classLen hdw (byteAt r 0x10)) (byteAt r 0x11) (le r 0x14 4) (le r 0x12 2) (le r 12 4))]
  | 5 =>
    [(o + 5, zeroAt r 5 3), (o + 12, zeroAt r 12 4), (o + 0x10, positive32 (le r 0x10 4)),
     (o + 0x14, positive32 (le r 0x14 4)), (o + 0x28, classIsSafety hdw (byteAt r 0x28)), (o + 0x29, byteAt r 0x29 ≤ 1),
     (o + 0x2A, inRange r 0x2A 2 1 1024),
     (o + 0x2C, le r 0x2C 4 + 4 + 16 * le r 0x2A 2 ≤ classLen hdw (byteAt r 0x28)), (o + 0x34, zeroAt r 0x34 12),
     (o + 8, 16448 ≤ classLen hdw cls)]
  | _ => []

/-- One rule. -/
def ruleFault (t hdw basinmap : Bytes) (i : Nat) : Option Nat :=
  let o := 0x40 + 64 * i
  let r := slice t o 64
  let kind := ruleKind r
  let earlier := (List.range i).map fun j => slice t (0x40 + 64 * j) 64
  let elems := kind == 2 || kind == 3 || kind == 4
  firstFault
    ([(o, 1 ≤ ruleId r && ruleId r ≤ 0xFFFE && earlier.all fun e => ruleId e != ruleId r),
      (o + 2, 1 ≤ kind && kind ≤ 5
        && (elems || earlier.all fun e => !(ruleKind e == kind && ruleClass e == ruleClass r))),
      (o + 3, ruleReaction r ≤ 2), (o + 4, classIsSafety hdw (ruleClass r)),
      (o + 5, !elems || ruleFormats.contains (byteAt r 5)),
      (o + 6, !elems || ruleElemBytes (byteAt r 5) ≤ le r 6 2),
      (o + 8, !elems || elemsFit (classLen hdw (ruleClass r)) (byteAt r 5) (le r 8 4) (le r 6 2) (le r 12 4)),
      (o + 12, !elems || (1 ≤ le r 12 4 && (kind == 2 || le r 12 4 ≤ 256)))] ++ ruleParams hdw basinmap r o)

/-- The RATE and CROSS elements of the rules of a payload that a predicate picks. -/
def rateElements (t : Bytes) (p : Bytes → Bool) : Nat :=
  (((rulesOf t).filter fun r => (ruleKind r == 3 || ruleKind r == 4) && p r).map fun r => le r 12 4).sum

/-- Every SAFETY class is named by a RANGE or PLAN rule (R275). -/
def classesCovered (t hdw : Bytes) : Bool :=
  (List.range (byteAt hdw 4)).all fun i =>
    !(classIsSafety hdw (i + 1))
      || (rulesOf t).any fun r => (ruleKind r == 2 || ruleKind r == 5) && ruleClass r == i + 1

/-- RULES (R275, R278, R279). -/
def rulesFault (t hdw basinmap : Bytes) : Option Nat :=
  firstOf
    [ firstFault [(0, le t 0 4 == 0x0152554C), (4, le t 4 2 ≤ 1535), (6, zeroAt t 6 58)],
      (List.range (le t 4 2)).findSome? (ruleFault t hdw basinmap),
      firstFault [(4, rateElements t (fun _ => true) ≤ 8192), (4, classesCovered t hdw)] ]

/-- A new rule set beside the old one holds too many RATE and CROSS elements (R281). -/
def rulesTooLarge (new old : Bytes) : Bool :=
  rateElements new (fun r => (rulesOf old).all fun e => ruleId e != ruleId r) + rateElements old (fun _ => true) > 8192

/-! ### MAWYN (R431, R444) -/

/-- A device number of the torus. -/
def inTorusOf (t : Bytes) (d : Nat) : Bool := d / 8 < byteAt t 4 && d % 8 < byteAt t 5

/-- MAWYN (R444). -/
def mawynFault (t : Bytes) : Option Nat :=
  firstOf
    [ firstFault
        [(0, le t 0 4 == 0x014E5957), (4, inRange t 4 1 1 6), (5, inRange t 5 1 1 8), (6, inTorusOf t (byteAt t 6)),
         (7, inTorusOf t (byteAt t 7)),
         (8, byteAt t 8 < 16 && (byteAt t 5 != 1 || fld (byteAt t 8) 0 2 == 0)
            && (byteAt t 4 != 1 || fld (byteAt t 8) 2 2 == 0)),
         (9, byteAt t 9 == 4 || byteAt t 9 == 8), (0x0A, inRange t 0x0A 2 10 65535), (0x0C, inRange t 0x0C 2 100 10000),
         (0x0E, zeroAt t 0x0E 2), (0x18, zeroAt t 0x18 40)],
      entriesFault 64 0x40 32 fun o =>
        let valid := bit (byteAt t o) 0
        [(o, byteAt t o < 8), (o + 1, !valid || (inTorusOf t (byteAt t (o + 1)) && byteAt t (o + 1) != byteAt t 6)),
         (o + 2, byteAt t (o + 2) ≤ 31), (o + 3, byteAt t (o + 3) == 0),
         (o + 4, if valid then inRange t (o + 4) 4 1 (2 ^ 20) else le t (o + 4) 4 == 0),
         (o + 8, le t (o + 8) 8 % 4096 == 0), (o + 0x10, zeroAt t (o + 0x10) 16)],
      entriesFault 32 0x840 32 fun o =>
        let valid := bit (byteAt t o) 0
        let w := worldClass (worldOf (le t (o + 2) 2))
        [(o, byteAt t o < 16), (o + 2, le t (o + 2) 2 < 4096 && w != .enclave && w != .split),
         (o + 4, !valid || inRange t (o + 4) 4 1 (2 ^ 20)), (o + 8, le t (o + 8) 8 % 4096 == 0),
         (o + 0x10, zeroAt t (o + 0x10) 16)] ]

end Sys2Proof.Machine
end

