-- ==== Sys2Proof/Machine/Image.lean ====
section
/-! DEFINITION. The Rokel image: its header, certificate, descriptors and sections, and the checks of R34 to R46 that
both verifications make. -/

namespace Sys2Proof.Machine

/-- A failed check of an image: the code, the descriptor index and the field offset of SUP_BOOT_DETAIL (R55, R56). -/
structure ImageFault where
  /-- FAIL_CODE. -/
  code : Nat
  /-- SECTION. -/
  sect : Nat := 0xFF
  /-- FIELD_OFFSET. -/
  offset : Nat := 0xFFFF
  deriving DecidableEq, Repr

/-! ### Header, certificate and descriptors (R35 table, R38, R40) -/

/-- The longest image (R34). -/
def maxImage : Nat := 3932160

/-- IMAGE_LEN. -/
def imgLen (i : Bytes) : Nat := le i 8 4
/-- SECT_COUNT. -/
def imgCount (i : Bytes) : Nat := le i 0x0C 2
/-- A bit of FLAGS: 0 PARTIAL, 1 DEBUG_PROFILE, 2 ISOLATION. -/
def imgFlag (i : Bytes) (n : Nat) : Bool := bit (le i 0x0E 2) n
/-- IMAGE_VERSION. -/
def imgVersion (i : Bytes) : Nat := le i 0x18 4
/-- FW_VERSION. -/
def imgFwVersion (i : Bytes) : Nat := le i 0x1C 4
/-- BUILD_ID. -/
def imgBuildId (i : Bytes) : Bytes := slice i 0x20 16
/-- BASE_BUILD_ID. -/
def imgBaseBuildId (i : Bytes) : Bytes := slice i 0x78 16
/-- The activation time of a partial image in Timetable nanoseconds; 0 where ACTIVATE_SEC gives none (R38). -/
def imgActivateNs (i : Bytes) : Nat := if le i 0x88 8 = 0 then 0 else le i 0x88 8 * 1000000000 + le i 0x90 4
/-- Descriptor `n`. -/
def imgDesc (i : Bytes) (n : Nat) : Bytes := slice i (le i 0x30 4 + 64 * n) 64
/-- The descriptors. -/
def imgDescs (i : Bytes) : List Bytes := (List.range (imgCount i)).map (imgDesc i)
/-- TYPE of a descriptor. -/
def descType (d : Bytes) : Nat := le d 0 2
/-- OFFSET of a descriptor. -/
def descOffset (d : Bytes) : Nat := le d 4 4
/-- LENGTH of a descriptor. -/
def descLen (d : Bytes) : Nat := le d 8 4
/-- DEVICE_SEALED of a descriptor. -/
def descSealed (d : Bytes) : Bool := bit (byteAt d 3) 1
/-- The payload that a descriptor names. -/
def descPayload (i d : Bytes) : Bytes := slice i (descOffset d) (descLen d)
/-- The image carries a section. -/
def imgHas (i : Bytes) (type : Nat) : Bool := (imgDescs i).any fun d => descType d == type
/-- The payload of a section of the image; empty where it has none. -/
def imgPayload (i : Bytes) (type : Nat) : Bytes :=
  match (imgDescs i).find? fun d => descType d == type with
  | some d => descPayload i d
  | none => []
/-- The owner certificate. -/
def imgCert (i : Bytes) : Bytes := slice i (le i 0x38 4) (le i 0x3C 4)
/-- BIND_COUNT of a certificate. -/
def certBind (c : Bytes) : Nat := le c 6 2
/-- CERT_FLAGS of a certificate. -/
def certFlagsOf (c : Bytes) : Nat := le c 0x0C 4
/-- OWNER_PUBKEY of a certificate. -/
def certOwnerKey (c : Bytes) : Bytes := slice c 0x71 97

/-! ### The header checks (R34, R39) -/

/-- The regions of an image that may not overlap: header, descriptor table, certificate, signature and sections. -/
def imgRegions (i : Bytes) : List (Nat × Nat) :=
  [(0, 256), (le i 0x30 4, 64 * imgCount i), (le i 0x38 4, le i 0x3C 4), (le i 0x40 4, 96)]
    ++ (imgDescs i).map fun d => (descOffset d, descLen d)

/-- Regions that are not empty do not overlap one another. -/
def disjoint : List (Nat × Nat) → Bool
  | [] => true
  | r :: rest => rest.all (fun q => r.2 == 0 || q.2 == 0 || !(rangesMeet r.1 r.2 q.1 q.2)) && disjoint rest

/-- Every offset and length of the header and the descriptors (R39 step 4). DESIGN CHOICE: a SECT_COUNT outside 1 to 64
fails here too; R38 gives its range and R39 names no code for it. -/
def lengthsOk (i : Bytes) : Bool :=
  let bind := certBind (imgCert i)
  256 ≤ imgLen i && imgLen i ≤ maxImage && 1 ≤ imgCount i && imgCount i ≤ 64 && le i 0x30 4 % 64 == 0
    && le i 0x34 4 == 64 * imgCount i && le i 0x44 4 == 96
    && (bind == 0 || bind > 64 || le i 0x3C 4 == 0x100 + 48 * bind + 96)
    && (imgRegions i).all (fun r => r.1 + r.2 ≤ imgLen i) && disjoint (imgRegions i)
    && (imgDescs i).all fun d => descOffset d % 64 == 0

/-- The reserved bytes of the header and of the certificate, and what a full image leaves zero (R38, R39 step 5). -/
def reservedOk (i : Bytes) : Bool :=
  let c := imgCert i
  fld (le i 0x0E 2) 3 13 == 0 && zeroAt i 0x16 2 && zeroAt i 0x94 108 && (imgFlag i 0 || zeroAt i 0x78 24)
    && fld (certFlagsOf c) 2 30 == 0 && zeroAt c 0xD2 46

/-- The first header check that fails (R39 steps 1 to 5). -/
def headerFault (i : Bytes) : Option ImageFault :=
  if le i 0 4 ≠ 0x01494B52 then some { code := 0x02 }
  else if le i 4 2 ≠ 3 ∨ le i 6 2 ≠ 0x100 then some { code := 0x03 }
  else if le i 0x10 4 ≠ 0xB048 ∨ !(bit (le i 0x14 2) 3) then some { code := 0x04 }
  else if !(lengthsOk i) then some { code := 0x05 }
  else if !(reservedOk i) then some { code := 0x0B }
  else if le i 0x90 4 ≥ 1000000000 then some { code := 0x0D }
  else none

/-! ### The signature chain (R35) -/

/-- The certificate binds an identity (R35 step 3). -/
def certBinds (c identity : Bytes) : Bool :=
  (List.range (certBind c)).any fun n => slice c (0x100 + 48 * n) 48 == slice identity 0 48

/-- The first section whose digest differs from its descriptor's (R35 step 6). -/
def digestFault (i : Bytes) : Option Nat :=
  (List.range (imgCount i)).find? fun n =>
    let d := imgDesc i n
    !(descSealed d) && Config.sha384 (descPayload i d) != slice d 0x10 48

/-- The first check of the signature chain that fails (R35). -/
def chainFault (i identity : Bytes) : Option ImageFault :=
  let c := imgCert i
  let bind := certBind c
  let vendor := slice c 0x10 97
  if le c 0 4 ≠ 0x01434B4F ∨ le c 4 2 ≠ 1 ∨ bind = 0 ∨ bind > 64 then some { code := 0x06 }
  else if Config.sha384 vendor ≠ Config.vendorRootHash then some { code := 0x06 }
  else if !(Config.ecdsaVerify vendor (slice c 0 (0x100 + 48 * bind)) (slice c (0x100 + 48 * bind) 96)) then
    some { code := 0x06 }
  else if !(certBinds c identity) then some { code := 0x07 }
  else if !(Config.ecdsaVerify (certOwnerKey c) (slice i 0 0x100) (slice i (le i 0x40 4) 96)) then some { code := 0x08 }
  else if Config.sha384 (slice i (le i 0x30 4) (64 * imgCount i)) ≠ slice i 0x48 48 then some { code := 0x09 }
  else
    match digestFault i with
    | some n => some { code := 0x0A, sect := n }
    | none => if imgVersion i < le c 8 4 then some { code := 0x08 } else none

/-! ### The sections (R40 to R42) -/

/-- A row of the section table (R42). -/
structure SectionType where
  /-- TYPE. -/
  type : Nat
  /-- Required; RULES only in lock-step. -/
  required : Bool := true
  /-- RELOADABLE. -/
  reloadable : Bool := false
  /-- DEVICE_SEALED. -/
  isSealed : Bool := false
  /-- Max length. -/
  max : Nat
  deriving DecidableEq, Repr

/-- The section table (R42). -/
def sectionTypes : List SectionType :=
  [ { type := secSmfw, max := 786432 }, { type := secIlkfw, max := 229376 }, { type := secClockplan, max := 4096 },
    { type := secPowerplan, max := 8192 }, { type := secMemory, max := 16384 },
    { type := secIoplan, required := false, max := 8192 }, { type := secBasinmap, max := 320 },
    { type := secBankown, max := 8192 }, { type := secSluice, max := 262144 }, { type := secTags, max := 1024 },
    { type := secTtsched, required := false, reloadable := true, max := 262144 },
    { type := secConsisttpl, required := false, reloadable := true, max := 65536 },
    { type := secHeadway, max := 16384 }, { type := secRules, reloadable := true, max := 98304 },
    { type := secIsland, max := 32 }, { type := secMawyn, required := false, max := 4096 },
    { type := secRepair, required := false, isSealed := true, max := 16384 } ]

/-- The row of a type. -/
def sectionType (type : Nat) : Option SectionType := sectionTypes.find? fun r => r.type == type

/-- A descriptor's type, flags, schema and reserved bytes; `n` is its index (R40, R41). DESIGN CHOICE: an INSTANCE other
than 0 fails here (0x0B); R40 gives the value and no code for another. -/
def descOk (i : Bytes) (n : Nat) : Bool :=
  let d := imgDesc i n
  match sectionType (descType d) with
  | none => false
  | some r =>
    byteAt d 2 == 0 && byteAt d 3 == b2n r.reloadable + 2 * b2n r.isSealed && le d 0x0C 2 == 1 && zeroAt d 0x0E 2
      && (!r.isSealed || zeroAt d 0x10 48)
      && (List.range n).all fun k => descType (imgDesc i k) != descType d

/-- The length that a section's own layout gives it; none where it gives none. -/
def exactLength (type : Nat) (t : Bytes) : Option Nat :=
  if type = secSmfw then some (64 + le t 0x0C 4 + le t 0x10 4)
  else if type = secClockplan then some 1024
  else if type = secPowerplan then some (0x80 + 4 * le t 0x12 2)
  else if type = secMemory then some 8256
  else if type = secIoplan then some 2400
  else if type = secBasinmap then some 320
  else if type = secBankown then some 5120
  else if type = secSluice then some (0x6D40 + 16 * le t 8 4)
  else if type = secTags then some 1024
  else if type = secTtsched then some 131968
  else if type = secConsisttpl then some (16 + 64 * le t 4 2)
  else if type = secHeadway then some 16384
  else if type = secRules then some (64 + 64 * le t 4 2)
  else if type = secIsland then some 32
  else if type = secMawyn then some 3136
  else if type = secRepair then some 16384
  else none

/-- A descriptor's LENGTH is within the section's maximum and is the length of its layout (R41). -/
def descLenOk (i d : Bytes) : Bool :=
  match sectionType (descType d) with
  | none => false
  | some r => descLen d ≤ r.max && (exactLength r.type (descPayload i d)).all (· == descLen d)

/-- A required section is missing from a full image. -/
def sectionMissing (i : Bytes) : Bool :=
  sectionTypes.any fun r =>
    r.required && !(imgHas i r.type) && !(r.type == secRules && byteAt (imgPayload i secIsland) 0 != 0)

/-- The first structural check of the sections that fails (R40, R41). -/
def structureFault (i : Bytes) (whole : Bool) : Option ImageFault :=
  match (List.range (imgCount i)).find? fun n => !(descOk i n) with
  | some n => some { code := 0x0B, sect := n }
  | none =>
    if whole && sectionMissing i then some { code := 0x0C }
    else
      match (List.range (imgCount i)).find? fun n => !(descLenOk i (imgDesc i n)) with
      | some n => some { code := 0x05, sect := n }
      | none => none

/-- The first field of a section outside its range (R41): `ctx` gives the payloads of the boot that the section is
judged beside, and `flags` the certificate's CERT_FLAGS. -/
def sectionFault (ctx : Nat → Bytes) (flags fwVersion type : Nat) (t : Bytes) : Option Nat :=
  if type = secSmfw then smfwFault t fwVersion
  else if type = secClockplan then clockplanFault t
  else if type = secPowerplan then powerplanFault t (ctx secClockplan)
  else if type = secMemory then memoryFault t
  else if type = secIoplan then ioplanFault t (ctx secPowerplan)
  else if type = secBasinmap then basinmapFault t (ctx secIsland)
  else if type = secBankown then bankownFault t (ctx secTags)
  else if type = secSluice then sluiceFault t (bit flags 0) (memoryUsable (ctx secMemory))
  else if type = secTags then tagsFault t
  else if type = secTtsched then ttschedFault t (ctx secIoplan)
  else if type = secConsisttpl then consisttplFault (ctx secBasinmap) t
  else if type = secHeadway then headwayFault t
  else if type = secRules then rulesFault t (ctx secHeadway) (ctx secBasinmap)
  else if type = secIsland then islandFault t (bit flags 1)
  else if type = secMawyn then mawynFault t
  else none

/-- The first descriptor whose payload holds a field outside its range. -/
def fieldFault (i : Bytes) (ctx : Nat → Bytes) : Option ImageFault :=
  (List.range (imgCount i)).findSome? fun n =>
    let d := imgDesc i n
    (sectionFault ctx (certFlagsOf (imgCert i)) (imgFwVersion i) (descType d) (descPayload i d)).map fun o =>
      { code := 0x0D, sect := n, offset := o }

/-- The first of several checks that fails. -/
def firstImageFault : List (Option ImageFault) → Option ImageFault
  | [] => none
  | some f :: _ => some f
  | none :: r => firstImageFault r

/-- DEBUG_PROFILE needs DEBUG_ALLOWED (R46). -/
def debugFault (i : Bytes) : Option ImageFault :=
  if imgFlag i 1 && !(bit (certFlagsOf (imgCert i)) 0) then some { code := 0x0D } else none

/-- The first check of a full image that fails, in the order of R39, R35, R41 and R46. A partial image is not one that a
boot can run from (R58). -/
def imageFault (i identity : Bytes) : Option ImageFault :=
  firstImageFault
    [ headerFault i, chainFault i identity, structureFault i true, fieldFault i (imgPayload i), debugFault i,
      if imgFlag i 0 then some { code := 0x20 } else none ]

/-! ### A partial image against the running one (R58, R281, R328) -/

/-- The first section that is not reloadable (R58). -/
def nonReloadable (i : Bytes) : Option Nat :=
  (List.range (imgCount i)).find? fun n =>
    match sectionType (descType (imgDesc i n)) with | some r => !r.reloadable | none => false

/-- The first rejection of a partial image that depends on what runs (R58): its section list, its base build, its owner
key. -/
def State.partialFault (s : State) (i : Bytes) : Option Nat :=
  if !(imgFlag i 0) || (nonReloadable i).isSome then some 0x20
  else if imgBaseBuildId i ≠ s.boot.buildId then some 0x21
  else if certOwnerKey (imgCert i) ≠ s.boot.ownerPubkey then some 0x22
  else if imgActivateNs i ≠ 0 ∧ imgActivateNs i < s.now then some 0x25
  else none

/-- The payloads beside which a partial image's sections are judged: its own, and the running ones. -/
def State.reloadCtx (s : State) (i : Bytes) (type : Nat) : Bytes :=
  if imgHas i type then imgPayload i type else s.sec type

/-- A partial image whose TTSCHED header bytes 0x08 to 0x3F differ from the running schedule's (R328), or whose RULES are
too many beside the running rules (R281). -/
def State.reloadFieldFault (s : State) (i : Bytes) : Bool :=
  (imgHas i secTtsched && slice (imgPayload i secTtsched) 8 56 != slice (s.sec secTtsched) 8 56)
    || (imgHas i secRules && rulesTooLarge (imgPayload i secRules) (s.sec secRules))

/-- The code with which a partial image is rejected at verification; none where it passes (R58, R59). -/
def State.reloadCode (s : State) (i : Bytes) : Option Nat :=
  match firstImageFault [headerFault i, chainFault i s.identity, structureFault i false] with
  | some f => some f.code
  | none =>
    match s.partialFault i with
    | some c => some c
    | none =>
      if (fieldFault i (s.reloadCtx i)).isSome || s.reloadFieldFault i then some 0x0D
      else (debugFault i).map (·.code)

/-! ### REPAIR (R49, R111) -/

/-- The seal of a REPAIR payload holds (R49). DESIGN CHOICE: a MAP_VER other than 1 or an AUX_COUNT above 754 makes the
payload invalid as a wrong MAGIC does (R111 says so of MAGIC alone). -/
def repairSealOk (t : Bytes) : Bool :=
  t.length == 16384 && le t 0 4 == 0x01504552 && le t 4 2 == 1 && le t 6 2 ≤ 754
    && slice t 0x3FD0 48 == slice (Config.sealMac (slice t 0 0x3FD0)) 0 48

/-- The bank that a bank entry of the repair map describes. -/
def bankFromRepair (b : Bank) (e : Nat) : Bank :=
  { b with
    fenced := bit e 0, noSweep := b.noSweep || bit e 1
    spares := if fld e 2 55 = 0 then [] else (List.range 5).map fun i => (fld e (11 + 11 * i) 2, fld e (2 + 11 * i) 9) }

/-- A bank of Reservoir slice 0, a memory that start-up cannot do without (R50). -/
def bootCritical (k : Nat) : Bool := 1024 ≤ k && k < 1056

/-- A failing row takes a spare of its bank, unless one replaces it already; a row that no spare can repair fences a bank
outside slice 0 (R50). -/
def State.marchedRow (s : State) (e : Nat × Nat) : State :=
  if (s.bank e.1).spares.contains (1, e.2) then s
  else
    match takeSpare (s.bank e.1).spareList e.2 with
    | some t => s.modBank e.1 fun b => { b with spares := t }
    | none =>
      if bootCritical e.1 then s
      else { s.modBank e.1 (fun b => { b with fenced := true }) with boot := { s.boot with banksFenced := true } }

/-- The repair map in use starts with every spare free. -/
def State.startMap (s : State) : State := { s with repair := { s.repair with built := true } }

/-- A march in destroy mode has found defective spares, which are never used, and failing sweep rows (R110). -/
def State.marchedMarks (s : State) (badSpares : List (Nat × Nat)) (badSweepRows : List Nat) : State :=
  let s := badSpares.foldl (fun s e => s.modBank e.1 fun b => { b with spares := b.spareList.set e.2 (2, 0) }) s
  badSweepRows.foldl (fun s k => s.modBank k fun b => { b with noSweep := true }) s

/-- Every failing row of slice 0 has a spare in its place; otherwise start-up fails with 0x10 (R50). -/
def State.rowsRepaired (s : State) (rows : List (Nat × Nat)) : Bool :=
  rows.all fun e => !(bootCritical e.1) || (s.bank e.1).spares.contains (1, e.2)

/-- The spares of a bank as a sealed map gives them, without those that a march has found defective. -/
def mergeSpares (old new : List (Nat × Nat)) : List (Nat × Nat) :=
  if old.any fun x => x.1 == 2 then
    (List.range 5).map fun i => if (old.getD i (0, 0)).1 = 2 then (2, 0) else new.getD i (0, 0)
  else new

/-- The rows that the spares of a bank replace. -/
def Bank.replaced (b : Bank) : List Nat := (b.spares.filter fun x => x.1 == 1).map (·.2)

/-- The rows of the banks that a table of banks replaces. -/
def replacedRows (t : Table Bank) : List (Nat × Nat) := t.flatMap fun e => e.2.replaced.map fun r => (e.1, r)

/-- The banks of a sealed map: what `b` holds, with its entries. -/
def mapBanks (banks : Table Bank) (t : Bytes) : Table Bank :=
  (List.range 1280).foldl (fun m k =>
    let e := le t (0x40 + 8 * k) 8
    if e = 0 then m else tmod {} m k fun b => bankFromRepair b e) banks

/-- The repair map in use starts from a sealed payload; the rows that the boot ROM's march has found are repaired beside
it, and a spare that it has found defective is left for another (R50, R110, R111). -/
def State.applyRepair (s : State) (t : Bytes) : State :=
  let old := s.banks
  let map := mapBanks s.banks t
  let banks := tmap map fun k b =>
    { b with fenced := b.fenced && !(bootCritical k), spares := mergeSpares (tget ({} : Bank) old k).spares b.spares }
  let s : State := { s with
    banks := banks
    boot := { s.boot with banksFenced := s.boot.banksFenced || banks.any fun e => e.2.fenced }
    repair := { s.repair with
      built := true, updateSeq := le t 8 4, changed := false, aux := slice t 0x2840 6032, auxCount := le t 6 2, sealed := t } }
  (replacedRows map ++ replacedRows old).foldl State.marchedRow s

/-- Slice 0 can be used as a sealed map and the boot ROM's march describe it: the map fences none of its banks, and every
failing row has a spare (R50). `s` is the state before the map, `t` the map. -/
def State.slice0Whole (s : State) (t : Bytes) : Bool :=
  (List.range 32).all (fun i => !(bit (le t (0x40 + 8 * (1024 + i)) 8) 0))
    && (s.applyRepair t).rowsRepaired (replacedRows (mapBanks s.banks t) ++ replacedRows s.banks)

end Sys2Proof.Machine
end

