-- ==== Sys2Proof/Machine/Mawyn.lean ====
section
/-! DEFINITION. Mawyn links: training, blocks, routes and reachability, link windows, transactions and tokens (R431 to
R445). -/

namespace Sys2Proof.Machine

/-- A message arrives: malformed ones are dropped and counted, those for another device go on, and one of TYPE `type` for
this device has its effect. -/
def State.mwlArrive (s : State) (type : Nat) (f data : Bytes) (effect : State → State) : State :=
  if !s.mawynOn then s
  else if mwlMalformed f then s.modMwl fun m => { m with dropped := sat16 m.dropped }
  else if byteAt f 2 ≠ s.ownDevice then
    match s.nextPort f with
    | some p => s.enqueue p f data
    | none => s.modMwl fun m => { m with dropped := sat16 m.dropped }
  else if byteAt f 0 = type then effect s
  else s

/-! ### Local accesses to the aperture (R436, R438) -/

/-- APERTURE_ACCESS (R436): a local access to the aperture. -/
def execApertureAccess (src tag addr len : Nat) (write : Bool) (data : Bytes) (s : State) : Out :=
  act s fun s =>
    if addr < mawynBase then s else s.devAccess (.core src tag) tag addr len write data

/-- TXN_TIMEOUT (R438): no response has arrived within TXN_TIMEOUT_US. -/
def execTxnTimeout (txn : Nat) (s : State) : Out :=
  act s fun s =>
    match tfind s.mwl.txns txn with
    | none => s
    | some t =>
      let s := s.reach (t.sentNs + 1000 * s.mwField 0x0A 2)
      ((s.modMwl fun m => { m with timeouts := sat16 m.timeouts }).endTxn txn none).settle

/-- A response of this device's transaction, from its destination and of its kind. -/
def State.respFor (s : State) (f : Bytes) (write : Bool) : Bool :=
  match tfind s.mwl.txns (le f 4 2) with
  | some t => t.dst == byteAt f 3 && t.write == write
  | none => false

/-- WRITE_ACK (R438). -/
def execWriteAck (flit : Bytes) (s : State) : Out :=
  act s fun s => s.mwlArrive 3 flit [] fun s => if s.respFor flit true then (s.endTxn (le flit 4 2) (some [])).settle else s

/-- READ_DATA (R438). -/
def execReadData (flit data : Bytes) (s : State) : Out :=
  act s fun s => s.mwlArrive 4 flit data fun s =>
    match tfind s.mwl.txns (le flit 4 2) with
    | some t => if s.respFor flit false then (s.endTxn (le flit 4 2) (some (slice data 0 t.len))).settle else s
    | none => s

/-- ERROR (R438): the transaction ends with an error response. -/
def execError (flit : Bytes) (s : State) : Out :=
  act s fun s => s.mwlArrive 5 flit [] fun s =>
    let s := s.modMwl fun m => { m with remoteErrors := sat16 m.remoteErrors }
    match tfind s.mwl.txns (le flit 4 2) with
    | some t => if t.dst = byteAt flit 3 then (s.endTxn (le flit 4 2) none).settle else s
    | none => s

/-! ### Inbound accesses (R437) -/

/-- An inbound request meets no window that takes it. -/
def State.inRefused (s : State) (f : Bytes) (write : Bool) : Bool :=
  let w := fld (le f 8 2) 0 5
  let fl := s.inField w 0 1
  !(bit fl 0) || (!(bit fl 3) && s.inField w 1 1 != byteAt f 3) || !(bit fl (if write then 2 else 1))
    || le f 0x10 8 + le f 0x0A 2 > s.inField w 4 4 * 4096

/-- A WRITE or READ arrives at its destination and is issued under the window's tag; its answer goes back when the target
has given it (`State.settled`). -/
def State.inbound (s : State) (f data : Bytes) (write : Bool) : State :=
  if s.inRefused f write then
    (s.modMwl fun m => { m with noWindow := sat16 m.noWindow }).mwlRespond f 5 1 []
  else
    let w := fld (le f 8 2) 0 5
    let tag := fld (s.inField w 2 2) 0 12
    let n := le f 0x0A 2
    let a := fld (s.inField w 8 8) 0 48 + le f 0x10 8
    match s.blockAccess tag a n write (slice data 0 n) with
    | none => (s.modMwl fun m => { m with remoteErrors := sat16 m.remoteErrors }).mwlRespond f 5 3 []
    | some acc => s.access { acc with origin := .inbound f }

/-- WRITE (R437). -/
def execWrite (flit data : Bytes) (s : State) : Out :=
  act s fun s => s.mwlArrive 1 flit data fun s => s.inbound flit data true

/-- READ (R437). -/
def execRead (flit : Bytes) (s : State) : Out :=
  act s fun s => s.mwlArrive 2 flit [] fun s => s.inbound flit [] false

/-- TOKEN (R442, R146). -/
def execToken (flit : Bytes) (s : State) : Out :=
  act s fun s => s.mwlArrive 0x10 flit [] fun s =>
    (s.tokenReceive (le flit 0x18 2) (le flit 0x1C 4) (byteAt flit 3) (fld (le flit 8 2) 0 12) (le flit 0x1A 2)).settle

/-! ### Link state (R441) -/

/-- LINK_STATE (R441): the latest state of a device is kept, and the routes follow. -/
def execLinkState (flit : Bytes) (instant : Nat) (s : State) : Out :=
  act s fun s =>
    let s := s.reach instant
    s.mwlArrive 0x11 flit [] fun s =>
      let d := byteAt flit 3
      let p := tget ({} : MwlPeer) s.mwl.peers d
      if p.heard && !(ge32 (le flit 0x0C 4) p.seq && le flit 0x0C 4 != p.seq) then s
      else
        let q : MwlPeer := { ports := fld (le flit 8 2) 0 4, seq := le flit 0x0C 4, heard := true, heardNs := s.now }
        (s.modMwl fun m => { m with peers := tset m.peers d q }).recompute

/-- LINK_STATE_INTERVAL (R441): 1 ms has passed. -/
def execLinkStateInterval (s : State) : Out := act s State.announce

/-- LINK_STATE_TIMEOUT (R441): a device has been silent for 5 ms. -/
def execLinkStateTimeout (device : Nat) (s : State) : Out :=
  act s fun s =>
    let p := tget ({} : MwlPeer) s.mwl.peers device
    if p.heard then
      let s := s.reach (p.heardNs + 5000000)
      let q := { p with heard := false }
      (s.modMwl fun m => { m with peers := tset m.peers device q }).recompute
    else s

/-! ### Ports (R432, R433) -/

/-- A port drops to TRAINING. -/
def State.retrain (s : State) (p : Nat) : State :=
  (s.modMport p fun x => { x with
    state := .training, retrains := sat16 x.retrains, delays := [], timeValid := false, replayNs := [], nakDue := false }).portChanged

/-- Lanes 0 to 3 or 4 to 7 are good. -/
def halfGood (bad : Nat) : Bool := fld bad 0 4 == 0 || fld bad 4 4 == 0

/-- LINK_TRAINING_DONE (R432 steps 4 to 6). The buffers of the other end are empty then: their depths are the credits that
the port starts with (log entry 124). -/
def execLinkTrainingDone (port lanesBad peerSystem peerDevice peerPort : Nat) (s : State) : Out :=
  act s fun s =>
    if (s.mport port).state != .training || !(s.mportOn port) then s
    else
      let wrong := peerSystem != s.mwField 0x10 8 || peerDevice != neighbour s.trays s.slots s.ownDevice port
        || peerPort != oppositePort port
      let half := halfGood lanesBad && s.mwField 9 1 == 4
      let st : LinkState :=
        if lanesBad ≠ 0 && !half then .failed else if wrong then .wrongPeer else if lanesBad = 0 then .upX8 else .upX4
      (s.modMport port fun x => { x with
        state := st, lanesBad := lanesBad, rxExpect := 0, ackSeen := 0, prioRun := 0
        credits := (List.range 12).map fun c => (c, Config.initialCredits c)
        peerDevice := if st == .failed then x.peerDevice else peerDevice
        peerPort := if st == .failed then x.peerPort else peerPort }).portChanged.pump port

/-- LINK_RETRY (R432): a FAILED or WRONG_PEER port retrains. -/
def execLinkRetry (port : Nat) (s : State) : Out :=
  act s fun s =>
    if (s.mport port).state == .failed || (s.mport port).state == .wrongPeer then
      (s.modMport port fun x => { x with state := .training }).portChanged
    else s

/-- CONTROL_SLOT_TIMEOUT (R432): no valid control slot for 1 µs. -/
def execControlSlotTimeout (port : Nat) (s : State) : Out :=
  act s fun s => if (s.mport port).state.up then s.retrain port else s

/-- The link delay of a port: the mean of its samples (R443). -/
def MwlPort.delay (x : MwlPort) : Option Int :=
  if x.delays = [] then none else some (Int.tdiv x.delays.sum x.delays.length)

/-- Credits returned by a control slot are added to those held (R433, R434). -/
def MwlPort.credited (x : MwlPort) (c : Bytes) : MwlPort :=
  { x with credits := (List.range 12).map fun k => (k, tget 0 x.credits k + byteAt c (8 + k)) }

/-- A control slot in order: its acknowledgement, its credits, its time and its requests. -/
def State.controlSlot (s : State) (p : Nat) (c : Bytes) : State :=
  let fl := byteAt c 4
  let s := s.modMport p fun x =>
    { x with
      rxExpect := wrapInc 16 (le c 0 2), ackSeen := le c 2 2, nakDue := false
      txTime := le c 0x18 8, timeValid := bit fl 1, arrival := s.now
      delays := if le c 0x20 8 = 0 then x.delays
        else (Int.tdiv ((s.now : Int) - le c 0x20 8 - le c 0x28 4) 2 :: x.delays).take 16 }
  let s := if bit fl 0 then s.modMport p fun x => { x with
      replays := sat16 x.replays, replayNs := (s.now :: x.replayNs).take 65 } else s
  let burst := match (s.mport p).replayNs[64]? with | some t => s.now < t + 1000000 | none => false
  if bit fl 2 || burst then s.retrain p else (s.modMport p fun x => x.credited c).pump p

/-- BLOCK_RECEIVE (R433): a block that FEC cannot correct, whose CRC fails or that is not the one expected is discarded,
and a NAK goes back; any other is taken in order. -/
def execBlockReceive (port : Nat) (corrected good : Bool) (control : Bytes) (instant : Nat) (s : State) : Out :=
  act s fun s =>
    if !(s.mport port).state.up then s
    else
      let s := s.reach instant
      if !good then
        s.modMport port fun x => { x with uncorrectable := sat16 x.uncorrectable, nakDue := true }
      else
        let s := if corrected then s.modMport port fun x => { x with fecCorrected := sat16 x.fecCorrected } else s
        if le control 0 2 ≠ (s.mport port).rxExpect then s.modMport port fun x => { x with nakDue := true }
        else s.controlSlot port control

/-! ### Time (R443) -/

/-- The time parent: the first-hop port of the current route to the time master; none for the master itself. -/
def State.timeParent (s : State) : Option Nat :=
  if s.mwField 7 1 = s.ownDevice then none
  else (s.routeTo (s.mwField 7 1)).bind (s.firstHop (s.mwField 7 1))

/-- MAWYN_TIME_SYNC (R443): the parent's last block gives an offset, applied as an accepted Sync. -/
def execMawynTimeSync (instant : Nat) (s : State) : Out :=
  act s fun s =>
    let s := s.reach instant
    if s.timeMode ≠ 3 || !s.mawynOn then s
    else
      match s.timeParent with
      | none => s
      | some p =>
        let x := s.mport p
        match x.delay with
        | some d => if x.timeValid && x.state.up then s.syncApply ((x.arrival : Int) - (x.txTime + d)) else s
        | none => s

end Sys2Proof.Machine
end

