-- ==== Sys2Proof/Machine/Startup.lean ====
section
/-! DEFINITION. Resets and the start-up sequence: what a reset leaves, the boot source, both verifications, the application
of the sections, and the release of SAFE_N (R30 to R36, R42, R47 to R57, R113, R410). -/

namespace Sys2Proof.Machine

/-! ### Reset (R30, R314, R320, R425) -/

/-- What every reset starts from: each block at its reset values, with the pins, the commands that wait outside and the
count of free values as they stand. -/
def State.fresh (s : State) : State :=
  { pending := s.pending, freeCtr := s.freeCtr, pins := { s.pins with safeNCmd := false } }

/-- PORST_N_ASSERT (R30): every domain is reset, the island and the time counter included. -/
def execPorstNAssert (s : State) : Out :=
  .next { s.fresh with pins := { s.fresh.pins with porstN := false } }

/-- What the Timetable keeps over a warm reset (R30, R314, R320, R322): the counter, RATE, integ, STEPPED unless a freeze
stood, the cameras' frame numbers and the record of a freeze since PORST_N. -/
def Tmt.warm (t : Tmt) : Tmt :=
  { nowNs := t.nowNs, nowFrac := t.nowFrac, rate := t.rate, integ := t.integ
    stepped := t.stepped && t.freeze == .running
    cams := tmap t.cams fun _ c => { number := c.number }
    freezeNs := t.freezeNs, freezeByEvent := t.freezeByEvent, freezeValid := t.freezeValid }

/-- RESET_N_ASSERT (R30): every domain but the always-on domain and the time counter is reset; the island's supply state
belongs to the always-on domain (R425, R426). -/
def execResetNAssert (s : State) : Out :=
  if !s.pins.porstN then .next { s with pins := { s.pins with resetN := false } }
  else
    .next { s.fresh with
      pins := { s.fresh.pins with resetN := false }
      tmt := s.tmt.warm
      pwr := { onBackup := s.pwr.onBackup, bkLow := s.pwr.bkLow, bkLowEvents := s.pwr.bkLowEvents
               islandLost := s.pwr.islandLost } }

/-! ### Failure (R57) -/

/-- A failure code that a new image can cure; code 0x01 only where no slot was readable (R57). -/
def curable (code : Nat) : Bool := code != 0x0F && code != 0x10 && code != 0x11

/-- The logic domains that a failure leaves off: Terraces, application clusters and the ports (R57). -/
def failOff : List Nat :=
  List.range 8 ++ [0x610, 0x611, 0x612] ++ (List.range 16).map (0x620 + ·) ++ (List.range 4).map (0x630 + ·)
    ++ (List.range 4).map (0x638 + ·) ++ [0x640, 0x641] ++ (List.range 10).map (0x648 + ·)
    ++ (List.range 16).map (0x658 + ·)

/-- A domain goes off at once. -/
def State.forceOff (s : State) (d : Nat) : State :=
  match pwrDomain d with
  | some k => if s.domState d k = 0 then s else (s.setDomain k 0).domainLost k
  | none => s

/-- The staging area, banks 0 to 29 of slice 0, is scrubbed. -/
def State.scrubStaging (s : State) : State := (List.range 30).foldl (fun s i => s.zeroBank (1024 + i)) s

/-- Start-up fails (R57): PHASE FAILED, SAFE_N low, the staging area scrubbed, Terraces, clusters and ports off. -/
def State.bootFail (s : State) (f : ImageFault) (cure : Bool) : State :=
  let s := failOff.foldl State.forceOff s
  let s := s.scrubStaging.driveSafeN false
  { s with
    boot := { s.boot with
      phase := .failed, ilkState := .failed, failCode := f.code, detailSection := f.sect, fieldOffset := f.offset
      imageStaged := false, image := [], supLoad := cure }
    sup := { s.sup with image := none, lastChunk := none } }

/-! ### Steps 1 to 4 (R32, R49, R50, R52, R426) -/

/-- The clock domains that run before the image: the island, and once its PLL has locked the fabric (the power-domain
map). -/
def bootClocks (fabric : Bool) : Table ClockDomain :=
  ((if fabric then [9, 10, 11, 12, 13, 14, 15, 61, 62, 66, 71, 72] else [12, 13, 14, 15, 61, 72])).map fun d =>
    (d, { state := .on, stepInWindow := true })

/-- The boot ROM's banks: all of Reservoir slice 0, on and owned by tag 0x0FF (R113). -/
def bootBanks : Table Bank :=
  (List.range 32).map fun i =>
    (1024 + i, { ctlOwner := bootTag, ctlFree := false, ctlPwr := .on, curOwner := bootTag, curFree := false, pwrState := .on })

/-- The island runs from the backup supply for a check and returns (R426). -/
def State.backupCheck (s : State) (ok : Bool) : State :=
  if ok || s.pwr.onBackup then s else (s.modPwr fun p => { p with bkCheckFail := true }).latch 9 0

/-- Steps 1 to 4 of start-up (R52). -/
def State.runRom (s : State) (fabricLocked pufOk memoriesOk backupOk : Bool) (rows badSpares : List (Nat × Nat))
    (badSweepRows : List Nat) : State :=
  let s : State := { s with clocks := bootClocks false, boot := { s.boot with step := 2 } }
  if !fabricLocked then s.bootFail { code := 0x11 } false
  else
    let s : State := { s with clocks := bootClocks true, banks := bootBanks, boot := { s.boot with step := 3 } }
    let s := s.wr logBase (leBytes 4 0x01474F4C)
    if !pufOk then s.bootFail { code := 0x0F } false
    else
      let s := rows.foldl State.marchedRow (s.startMap.marchedMarks badSpares badSweepRows)
      if !memoriesOk || !(s.rowsRepaired rows) then s.bootFail { code := 0x10 } false
      else
        let s := s.backupCheck backupOk
        let s : State := { s with boot := { s.boot with
          step := 4, phase := .load, identityReadable := true, supLoad := s.pins.bootSel == 1 } }
        if s.pins.bootSel = 3 then s.bootFail { code := 0x01 } false else s

/-- RESET_RELEASE (R30, R32, R52): PORST_N or RESET_N goes high and BOOT_SEL is sampled; with both pins high, start-up
runs to the end of step 4. `march` is what the boot ROM's march of slice 0 finds failing. PORST_N goes high only with the supplies and REF_CLK in range (R475). -/
def execResetRelease (porst : Bool) (bootSel : Nat) (fabricLocked pufOk memoriesOk backupOk : Bool) (march : BootMarch)
    (s : State) : Out :=
  if (if porst then s.pins.porstN else s.pins.resetN) then .next s
  else
    let p := { s.pins with bootSel := bootSel }
    let s : State := { s with pins :=
      if porst then { p with porstN := true, vddIo := true, safeNDriven := true, refClk := true, aonInternalOsc := false }
      else { p with resetN := true } }
    .next (if s.pins.porstN && s.pins.resetN then 
        s.runRom fabricLocked pufOk memoriesOk backupOk march.rows march.badSpares march.badSweepRows
     
      else s)

/-! ### Steps 5 and 6 (R33, R34, R36) -/

/-- An image stands in staging: the bytes that its IMAGE_LEN names, or the header alone where that is too long (R34). -/
def State.stage (s : State) (content : Bytes) (src : BootSrc) : State :=
  let img := slice content 0 (if imgLen content ≤ maxImage then max 256 (imgLen content) else 256)
  let s := s.scrubStaging.wr rsvBase img
  { s with boot := { s.boot with imageStaged := true, image := img, bootSrc := src, ilkState := .verify } }

/-- A slot has failed (R32, R33, R55): slot B follows slot A, and after both the supervisor port or the failure. DESIGN
CHOICE: BOOT_SRC names also a slot that could not be read, and SECTION and FIELD_OFFSET of slot A stand while slot B is
tried; R55 says neither. -/
def State.slotFailed (s : State) (f : ImageFault) (readable : Bool) : State :=
  let s : State := { s with boot := { s.boot with imageStaged := false, image := [], ilkState := .rom } }
  if s.boot.slotAFailed then
    if s.pins.bootSel = 2 then s.scrubStaging |> fun s => { s with boot := { s.boot with supLoad := true } }
    else if !readable && s.boot.slotARead then
      s.bootFail { code := s.boot.slotACode, sect := s.boot.detailSection, offset := s.boot.fieldOffset } true
    else s.bootFail f true
  else
    { s with boot := { s.boot with
      slotAFailed := true, slotARead := readable, slotACode := f.code, detailSection := f.sect, fieldOffset := f.offset } }

/-- IMAGE_STAGED (R33, R52 step 5): the slot of the flash that comes next has been read, or cannot be. -/
def execImageStaged (readable : Bool) (content : Bytes) (s : State) : Out :=
  act s fun s =>
    let b := s.boot
    if b.phase != .load || b.imageStaged || b.supLoad || !(s.pins.bootSel == 0 || s.pins.bootSel == 2) then s
    else
      let src : BootSrc := if b.slotAFailed then .slotB else .slotA
      if readable then s.stage content src
      else State.slotFailed { s with boot := { b with bootSrc := src } } { code := 0x01 } false

/-- Sections of the image come into force. -/
def State.applySections (s : State) (types : List Nat) : State :=
  { s with sections := types.foldl (fun m t =>
      if imgHas s.boot.image t then tset m t (imgPayload s.boot.image t) else tdel m t) s.sections }

/-- CLOCKPLAN is applied (R428): the clocks without a power domain of their own run where DOMAIN_EN lets them. -/
def State.applyClockplan (s : State) : State :=
  [36, 62, 69].foldl (fun s d =>
    s.modClock d fun c => { c with state := if bit (le (s.sec secClockplan) 8 16) (d - 1) then .on else .off }) s

/-- Banks 30 and 31 of slice 0 pass to STM_TAG, as the verified image's TAGS gives it, when SMFW starts (R113). -/
def State.handLogBanks (s : State) : State :=
  let tag := fld (le (imgPayload s.boot.image secTags) 0x010 2) 0 12
  [1054, 1055].foldl (fun s k => s.modBank k fun b =>
    { b with ctlOwner := tag, curOwner := tag, prevOwner := some bootTag }) s

/-- The repair map of the REPAIR section where its seal holds, and otherwise none (R49). -/
def State.takeRepair (s : State) : State :=
  if repairSealOk (s.sec secRepair) then s.applyRepair (s.sec secRepair)
  else { s with boot := { s.boot with repairSealRejected := true } }

/-- A sealed map leaves slice 0 unusable (R50). -/
def State.slice0Lost (s : State) : Bool := repairSealOk (s.sec secRepair) && !(s.slice0Whole (s.sec secRepair))

/-- SMFW runs (R52 step 7): PHASE FIRMWARE. -/
def State.startFirmware (s : State) : State :=
  let s := s.takeRepair
  let s := (s.applyClockplan).handLogBanks
  let s := s.wr (logBase + 12) (leBytes 4 (imgFwVersion s.boot.image))
  { s with
    boot := { s.boot with phase := .firmware }
    stm := { s.stm with fwRunning := true } }

/-- What the running image's header and certificate set (R38, R46, R55). -/
def State.noteImage (s : State) : State :=
  let i := s.boot.image
  { s with boot := { s.boot with
    stmVerified := true, phase := .apply, buildId := imgBuildId i, imageVersion := imgVersion i
    descs := imgDescs i, ownerPubkey := certOwnerKey (imgCert i), certFlags := certFlagsOf (imgCert i), debugProfile := imgFlag i 1
    isolation := imgFlag i 2, rtcSplit := fld (byteAt (imgPayload i secIsland) 1) 0 2 != 0
    detailSection := 0xFF, fieldOffset := 0xFFFF, failCode := 0 } }

/-- STM_VERIFY_DONE (R35, R39, R41, R52 steps 6 and 7): the boot ROM's checks end; `locked` says that the PLLs lock on
CLOCKPLAN. -/
def execStmVerifyDone (locked : Bool) (s : State) : Out :=
  act s fun s =>
    if s.boot.phase != .load || !s.boot.imageStaged then s
    else
      match imageFault s.boot.image s.identity with
      | some f =>
        if s.boot.bootSrc == .supervisor then s.bootFail f true else s.slotFailed f true
      | none =>
        let s := (s.noteImage).applySections [secSmfw, secClockplan, secRepair]
        if !locked then s.bootFail { code := 0x11 } false
        else if s.slice0Lost then s.bootFail { code := 0x10 } false
        else s.startFirmware

/-! ### Step 8 (R42, R49, R112, R113, R121, R394, R396, R410) -/

/-- A bank takes the owner and the power state of its BANKOWN entry (R113); a fenced bank takes none. -/
def Bank.own (b : Bank) (e : Nat) : Bank :=
  if b.fenced then b
  else
    { b with
      ctlOwner := fld e 0 12, ctlFree := bit e 12, ctlPwr := bankPwrOf (fld e 16 2)
      curOwner := if bit e 12 then b.curOwner else fld e 0 12
      curFree := bit e 12, pwrState := bankPwrOf (fld e 16 2), prevOwner := none }

/-- BANKOWN is applied to banks by number, each scrubbed (R113). -/
def State.applyBankown (s : State) (ks : List Nat) : State :=
  ks.foldl (fun s k => (s.zeroBank k).modBank k fun b => b.own (le (s.sec secBankown) (4 * k) 4)) s

/-- The banks outside Reservoir slice 0. -/
def outerBanks : List Nat := List.range 1024 ++ (List.range 224).map (1056 + ·)

/-- A domain of the bring-up list comes up (R410). -/
def State.bringUp (s : State) (d st : Nat) : State :=
  match pwrDomain d with
  | some (.terrace t) =>
    if (List.range 8).all fun i => s.basinRole (8 * t + i) == 0 then s
    else (s.setDomain (.terrace t) st).modTerr t fun x => { x with voltage := s.pointField 0 4 }
  | some (.dram c) => if bit (byteAt (s.sec secMemory) 0) c then s.setDomain (.dram c) st else s
  | some (.mawyn p) =>
    let s := s.setDomain (.mawyn p) st
    if s.mportOn p then s.modMport p fun x => { x with state := .training } else s
  | some k => s.setDomain k st
  | none => s

/-- POWERPLAN is applied (R429): the limit, the sweepers and the bring-up list. -/
def State.applyPowerplan (s : State) : State :=
  let t := s.sec secPowerplan
  let s := s.modPwr fun p => { p with pkgLimit := le t 4 2 }
  let s := if bit (byteAt t 0x0B) 0 then
      (List.range 72).foldl (fun s k => s.modBlock k fun b => { b with sweepEn := true, sweepInterval := le t 0x0C 2 }) s
    else s
  (List.range (le t 0x12 2)).foldl (fun s i => s.bringUp (le t (0x80 + 4 * i) 2) (byteAt t (0x82 + 4 * i))) s

/-- A safety ring takes its TAGS entry, with HEAD 0, and is armed where it is used (R121). -/
def State.applyRing (s : State) (n : Nat) : State :=
  let o := 0x100 + 32 * n
  let t := s.sec secTags
  let s := s.modRing n fun _ =>
    { ownerTag := le t o 2, writerTag := le t (o + 2) 2, log2Size := byteAt t (o + 4), base := le t (o + 8) 8
      tailAddr := le t (o + 0x10) 8, msiAddr := le t (o + 0x18) 6, msiData := le t (o + 0x1E) 2, locked := true }
  if byteAt t (o + 4) = 0 then s else s.armRing n false

/-- The start-up march of R49 over the banks outside slice 0: defective spares and sweep rows are marked, and failing rows
are repaired (R110). -/
def State.startupMarch (s : State) (rows badSpares : List (Nat × Nat)) (badSweepRows : List Nat) : State :=
  let s := s.marchedMarks (badSpares.filter fun e => !(bootCritical e.1)) (badSweepRows.filter fun k => !(bootCritical k))
  (rows.filter fun e => !(bootCritical e.1)).foldl State.marchedRow s

/-- The sections that the Stationmaster applies in step 8 (R42). -/
def stationSections : List Nat :=
  [secPowerplan, secMemory, secIoplan, secBasinmap, secBankown, secSluice, secTags, secConsisttpl, secMawyn]

/-- The repair map in use differs from the stored payload: its seal was rejected, or a march has added to it (R51, R111). -/
def State.repairDiffers (s : State) : Bool :=
  s.boot.repairSealRejected || (List.range 1280).any fun k => (s.bank k).repairEntry != le (s.sec secRepair) (0x40 + 8 * k) 8

/-- Firmware notes a map that differs from the stored payload, where the image carries one. -/
def State.noteRepair (s : State) : State :=
  if s.sec secRepair != [] && s.repairDiffers then s.repairChange else s

/-- The Stationmaster's sections take effect and PHASE becomes READY (R52 step 8). -/
def State.becomeReady (s : State) : State :=
  let s := s.applySections stationSections
  let s := ((s.applyBankown outerBanks).applySluice).applyTags
  let s := (s.applyPowerplan).noteRepair
  let s := (List.range 16).foldl State.applyRing s
  let s := if s.mawynOn then s.recompute else s
  { s with boot := { s.boot with phase := .ready } }

/-! ### Step 9 (R36, R47, R52, R53, R395) -/

/-- Two tables read alike everywhere. -/
def sameTable {α : Type} [BEq α] (d : α) (t u : Table α) : Bool :=
  (t ++ u).all fun e => tget d t e.1 == tget d u e.1

/-- The bank's owner and power state are those of its BANKOWN entry. -/
def State.bankAsOwned (s : State) (k : Nat) : Bool :=
  let e := le (s.sec secBankown) (4 * k) 4
  let b := s.bank k
  b.fenced || (b.ctlFree == bit e 12 && (bit e 12 || b.curOwner == fld e 0 12) && b.ctlPwr == bankPwrOf (fld e 16 2))

/-- The safety ring is as TAGS configures it. -/
def State.ringAsTags (s : State) (n : Nat) : Bool :=
  let o := 0x100 + 32 * n
  let t := s.sec secTags
  let r := s.ring n
  r.ownerTag == le t o 2 && r.writerTag == le t (o + 2) 2 && r.log2Size == byteAt t (o + 4) && r.base == le t (o + 8) 8
    && r.tailAddr == le t (o + 0x10) 8 && r.msiAddr == le t (o + 0x18) 6 && r.msiData == le t (o + 0x1E) 2 && r.locked

/-- The Interlocking's read-back of SLUICE, TAGS and BANKOWN finds what the image holds (R52 step 9, R395). -/
def State.readBackOk (s : State) : Bool :=
  sameTable {} s.slc.regions (s.applySluice).slc.regions && sameTable {} s.slc.owners (s.applySluice).slc.owners
    && (outerBanks ++ [1054, 1055]).all s.bankAsOwned && (List.range 20).all (fun h => (s.hart h).mstag == s.hartMtag h)
    && (List.range 16).all s.ringAsTags

/-- Step 9 ends: the Interlocking's sections and the read-back (R42, R52). -/
def State.finishStep9 (s : State) : State :=
  let s := s.applySections [secIlkfw, secIsland, secTtsched, secHeadway, secRules]
  if !s.readBackOk then s.bootFail { code := 0x0E } true
  else
    let s := s.scheduleStart
    { s with
      boot := { s.boot with ilkVerified := true, ilkState := if s.ilkSplit then .split else .selftest }
      ilk := { s.ilk with lockstep := s.ilk.lockstep && !s.ilkSplit }
      reload := { s.reload with rulesVersion := s.boot.imageVersion } }

/-- MEMORY_TRAINING_DONE (R49, R52 step 8, R120): training ends; `march` and `badSweepRows` are what the destroy-mode
march of R49 finds where it runs. -/
def execMemoryTrainingDone (trained : Bool) (march : MarchRows) (badSweepRows : List Nat) (s : State) : Out :=
  act s fun s =>
    if s.boot.phase != .firmware then s
    else if !trained then s.bootFail { code := 0x12 } true
    else
      let s := if s.boot.repairSealRejected then s.startupMarch march.rows march.badSpares badSweepRows else s
      let s := s.becomeReady
      if s.boot.ilkReadBack then s.finishStep9 else s

/-- ILK_VERIFY_DONE (R36, R52 step 9): the Interlocking's own verification ends; `agrees` says that it has come to the
Stationmaster's result. The read-back waits for PHASE READY. -/
def execIlkVerifyDone (agrees : Bool) (s : State) : Out :=
  act s fun s =>
    if !s.boot.stmVerified || s.boot.ilkReadBack || s.boot.phase == .failed then s
    else if !agrees then s.bootFail { code := 0x0E } true
    else
      let s : State := { s with boot := { s.boot with ilkReadBack := true } }
      if s.boot.phase == .ready then s.finishStep9 else s

/-- SLICE0_HANDOFF (R113): banks 0 to 29 of slice 0 take their owners, scrubbed. -/
def execSlice0Handoff (s : State) : Out :=
  act s fun s =>
    if s.boot.slice0Handed || !s.boot.ilkVerified || !(s.boot.phase == .ready || s.boot.phase == .safe) then s
    else
      let s := s.applyBankown ((List.range 30).map (1024 + ·))
      { s with boot := { s.boot with slice0Handed := true, image := [] } }

/-! ### Steps 10 to 12 (R53, R54) -/

/-- STARTUP_SELFTEST_DONE (R53): a failing slice ends start-up with 0x13 and latches nothing. -/
def execStartupSelftestDone (failing : Option Nat) (s : State) : Out :=
  act s fun s =>
    if s.boot.ilkState != .selftest then s
    else
      match failing with
      | some k => s.bootFail { code := 0x13, offset := k } true
      | none =>
        State.startupGolden { s with
          boot := { s.boot with selftestPassed := true, ilkState := .golden }
          ilk := { s.ilk with goldenTerrace := s.goldenTerraces.headD 0 } }

/-- STARTUP_GOLDEN_DONE (R53): the golden graphs of step 11, one for each Terrace with express Basins, have been judged at
this instant; one that failed ends start-up with 0x14. -/
def execStartupGoldenDone (instant : Nat) (s : State) : Out :=
  act s fun s =>
    let s := s.reach instant
    if s.boot.ilkState != .golden || s.ilk.goldenPending then s
    else if s.ilk.quarantine = 0 then { s with boot := { s.boot with goldenPassed := true, ilkState := .waitTime } }
    else s.bootFail { code := 0x14 } true

/-- The conditions under which SAFE_N is released (R53, R290). -/
def State.mayRelease (s : State) : Bool :=
  s.boot.ilkState == .waitTime && s.boot.phase == .ready && !s.ilkSplit && s.ilk.lockstep && s.boot.ilkVerified
    && s.boot.selftestPassed && s.boot.goldenPassed && s.tmt.valid && !s.latched

/-- SAFE_N_RELEASE (R53): SAFE_N goes high, PHASE becomes SAFE and the Interlocking is CHECKING. -/
def execSafeNRelease (s : State) : Out :=
  act s fun s =>
    if !s.mayRelease then s
    else
      let s := s.driveSafeN true
      { s with boot := { s.boot with phase := .safe, ilkState := .checking } }

end Sys2Proof.Machine
end

