-- ==== Sys2Proof/Machine/Reload.lean ====
section
/-! DEFINITION. The partial reload: its verification, and the swap of each section at its quiescent point (R58 to R63,
R281, R328). -/

namespace Sys2Proof.Machine

/-- Change the reload. -/
def State.modReload (s : State) (f : Reload → Reload) : State := { s with reload := f s.reload }

/-- PHASE READY or SAFE. -/
def State.phaseUp (s : State) : Bool := s.boot.phase == .ready || s.boot.phase == .safe

/-- The next reload enters LOADING (R63): CODE and the bits [19:16] are cleared. -/
def State.reloadOpen (s : State) : State :=
  s.modReload fun r =>
    { r with
      state := .loading, code := 0, ttschedSwapped := false, consisttplSwapped := false, rulesSwapped := false
      rulesOldRetired := false, image := [] }

/-- A partial image is rejected (R59): the staging area is scrubbed, STATE reads REJECTED, and the running configuration stays
as it is. One that meets another reload in work (0x23) is rejected in the same way: a reload that is armed by then goes on
towards its quiescent points, and one whose image still stood in staging is lost with it (DEDUCED, log entry 127). -/
def State.reloadReject (s : State) (code : Nat) : State :=
  s.scrubStaging.modReload fun r => { r with state := .rejected, code := code, image := [] }

/-- The whole partial image stands in staging, and both verifications start (R456, R59). -/
def State.reloadStaged (s : State) (image : Bytes) : State :=
  s.modReload fun r => { r with state := .verifying, image := image }

/-- STATE reaches DONE once every section has swapped and, with RULES, the old set has retired (R63). -/
def State.reloadSettle (s : State) : State :=
  let r := s.reload
  if r.armed && r.armedSections == [] && (!(r.carried.contains secRules) || r.rulesOldRetired) then
    s.modReload fun r => { r with state := .done, armed := false }
  else s

/-- A verified partial image is armed (R59). -/
def State.reloadArm (s : State) : State :=
  let i := s.reload.image
  let types := (imgDescs i).map descType
  (s.modReload fun r =>
    { r with
      state := .armed, armed := true, image := [], carried := types
      armedSections := types.foldl (fun m t => tset m t (imgPayload i t)) []
      activateNs := imgActivateNs i, armedNs := s.now, version := imgVersion i }).reloadSettle

/-- RELOAD_VERIFY_DONE (R58, R59): both verifications of a partial image end; `agrees` says that the Interlocking has come
to the Stationmaster's result. -/
def execReloadVerifyDone (agrees : Bool) (s : State) : Out :=
  act s fun s =>
    if s.reload.state != .verifying then s
    else if !s.phaseUp then s.reloadReject 0x24
    else if !agrees then s.reloadReject 0x0E
    else
      match s.reloadCode s.reload.image with
      | some c => s.reloadReject c
      | none => s.reloadArm

/-- A section that waits for its quiescent point; none where none of that type waits. -/
def State.armedSection (s : State) (type : Nat) : Option Bytes :=
  if s.reload.armed then tfind s.reload.armedSections type else none

/-- The section has swapped. -/
def State.disarm (s : State) (type : Nat) : State :=
  s.modReload fun r => { r with armedSections := tdel r.armedSections type }

/-- The instant of the TTSCHED swap (R59): the activation time, or the next schedule-period boundary. -/
def State.ttschedDue (s : State) : Nat :=
  if s.reload.activateNs ≠ 0 then s.reload.activateNs
  else
    let p := max 1 (s.ttField 0x08 4)
    (s.reload.armedNs + p - 1) / p * p

/-- The nodes that wait on an event identifier that the schedule in force does not have (R60). -/
def State.orphans (s : State) : List Nat :=
  (s.sbx.nodes.filter fun e => e.2.state == .release && s.movable e.2 && s.cond e.2 == .ends 0x30).map (·.1)

/-- All of them complete with RELEASE_EVENT_REMOVED at the swap (R60): they are taken out of their wait together, so that the
failure of one makes none of the others NOT_RUN. -/
def State.removeOrphans (s : State) (l : List Nat) : State :=
  l.foldl (fun s k => s.completeNode k 0x30 0) (l.foldl (fun s k => s.modNode k fun n => { n with state := .handed }) s)

/-- TTSCHED_SWAP (R59, R60, R328): the new schedule takes effect, and nodes that wait on a removed identifier complete. -/
def execTtschedSwap (s : State) : Out :=
  act s fun s =>
    match s.armedSection secTtsched with
    | none => s
    | some t =>
      if s.tmt.freeze != .running then s
      else
        let due := s.ttschedDue
        let s := ((s.reach due).scheduleSwap t due).disarm secTtsched
        let l := s.orphans
        let s := s.modReload fun r =>
          { r with ttschedSwapped := true, eventsOrphaned := min 255 (r.eventsOrphaned + l.length) }
        (s.removeOrphans l).settle.reloadSettle

/-- CONSISTTPL_SWAP (R59): the new templates take effect between two creation requests. -/
def execConsisttplSwap (s : State) : Out :=
  act s fun s =>
    match s.armedSection secConsisttpl with
    | none => s
    | some t =>
      if s.tmt.freeze != .running then s
      else
        let s := (s.reach s.reload.activateNs).disarm secConsisttpl
        let s : State := { s with sections := tset s.sections secConsisttpl t }
        (s.modReload fun r => { r with consisttplSwapped := true }).reloadSettle

/-- T_s (R59, R61): the activation time, or the instant both verifications completed. -/
def State.rulesDue (s : State) : Nat := if s.reload.activateNs ≠ 0 then s.reload.activateNs else s.reload.armedNs

/-- RULES_SWAP (R61): the new rule set judges results stamped at or after T_s, and the old set is kept. -/
def execRulesSwap (s : State) : Out :=
  act s fun s =>
    match s.armedSection secRules with
    | none => s
    | some t =>
      if s.tmt.freeze != .running then s
      else
        let due := s.rulesDue
        let s := (s.reach due).disarm secRules
        let old := s.sec secRules
        let s : State := { s with sections := tset s.sections secRules t }
        s.modReload fun r =>
          { r with
            rulesSwapped := true, swapNs := due, oldRules := some old, oldRulesVersion := r.rulesVersion
            rulesVersion := r.version }

/-- A result stamped before T_s has neither been released nor passed its deadline (R61). -/
def State.oldResultsOpen (s : State) : Bool :=
  let before (c stamp : Nat) : Bool := stamp < s.reload.swapNs && s.classKnown c && s.inTime c stamp
  (s.ilk.classes.any fun e => e.2.opened.any fun x => before e.1 x.stamp)
    || (s.ilk.toHand ++ s.ilk.laneSafety ++ s.ilk.laneQm).any fun h => before h.headwayClass h.originNs

/-- The histories of rules that the set in force has (R61). -/
def State.keepHistories (s : State) : State :=
  let ids := (rulesOf (s.sec secRules)).map ruleId
  { s with ilk := { s.ilk with
    rate := s.ilk.rate.filter fun e => ids.contains e.1
    cross := s.ilk.cross.filter fun e => ids.contains e.1
    obst := s.ilk.obst.filter fun e => ids.contains e.1 } }

/-- RULES_RETIRE (R61): the old rule set is released once every result stamped before T_s has been released or has passed
its deadline. -/
def execRulesRetire (s : State) : Out :=
  act s fun s =>
    if s.reload.oldRules.isNone || s.oldResultsOpen then s
    else
      let s := s.modReload fun r => { r with oldRules := none, rulesOldRetired := true }
      s.keepHistories.reloadSettle

end Sys2Proof.Machine
end

