-- ==== Sys2Proof/Machine/Firmware.lean ====
section
/-! DEFINITION. The Stationmaster's version, memory, reload and firmware-update services, and the activation of an update
(R400 to R402, R417 to R420). -/

namespace Sys2Proof.Machine

/-- Change the Stationmaster. -/
def State.modStm (s : State) (f : Stm → Stm) : State := { s with stm := f s.stm }

/-- Serve the request at the head, whatever the first byte of its body. -/
def State.serveAny (s : State) (service : Nat) (f : State → MboxReq → State × Bytes) : State :=
  if !s.fwLoops then s
  else
    let s := s.mboxDrain
    match s.stm.queue with
    | [] => s
    | r :: _ => s.serve service (byteAt r.body 0) f

/-! ### VERSION and MEMORY (R400 to R402) -/

/-- FW_VERSION of the running firmware. -/
def State.fwVersion (s : State) : Nat := le (s.sec secSmfw) 4 4
/-- MATCH_VERSION: the SMFW DRV_VERSION. -/
def State.matchVersion (s : State) : Nat := le (s.sec secSmfw) 8 4

/-- VERSION (R401, R402): the requester's tag is kept while its version matches; a 65th displaces the oldest. -/
def execVersion (s : State) : Out :=
  act s fun s => s.serveAny 1 fun s r =>
    let ok := le r.body 0 4 / 65536 == s.matchVersion / 65536
    let rest := s.stm.handshakes.filter (· != r.tag)
    let rest := if ok && rest.length ≥ 64 then rest.drop 1 else rest
    (s.modStm fun m => { m with handshakes := if ok then rest ++ [r.tag] else rest },
      leBytes 4 s.fwVersion ++ leBytes 4 s.matchVersion ++ leBytes 1 (b2n ok))

/-- MEMORY (R400): CE and UE of each controller. -/
def execMemoryStatus (s : State) : Out :=
  act s fun s => s.serveAny 4 fun s _ =>
    (s, (List.range 8).flatMap fun c => leBytes 2 (min 0xFFFF (s.dramCtrl c).ce) ++ leBytes 2 (min 0xFFFF (s.dramCtrl c).ue))

/-! ### RELOAD (R400, R58) -/

/-- An image stands in staging for a partial reload, `len` bytes long by its sender. -/
def State.reloadFromStaging (s : State) (len : Nat) : State :=
  if !s.phaseUp then s.reloadReject 0x24
  else if s.reload.busy then s.reloadReject 0x23
  else
    let s := s.reloadOpen
    let img := s.rd rsvBase (min len maxImage)
    if maxImage < len ∨ len < 256 ∨ imgLen img ≠ len then s.reloadReject 0x05 else s.reloadStaged img

/-- RELOAD (R400): a partial reload of the image in the staging area starts. -/
def execReload (s : State) : Out :=
  act s fun s => s.serveAny 5 fun s r => (s.reloadFromStaging (le r.body 0 4), [])

/-! ### FW_UPDATE (R417 to R419) -/

/-- FSTATUS. -/
def State.fstatus (s : State) : Bytes := leBytes 1 s.stm.fwState

/-- An update is rejected (R417): the staging area is scrubbed. -/
def State.fwReject (s : State) (code : Nat) : State :=
  (s.scrubStaging.modStm fun m => { m with fwState := 6, fwCode := code, fwLen := 0, fwImage := [] }).trace 0x8004 [code]

/-- FW_LOAD (R417): verification of the full image in the staging area starts. While an update is between VERIFYING and
ACTIVATING the request is rejected with 0x43, and that update goes on. -/
def execFwLoad (s : State) : Out :=
  act s fun s => s.serve 6 1 fun s r =>
    if 1 ≤ s.stm.fwState ∧ s.stm.fwState ≤ 4 then
      ((s.modStm fun m => { m with fwCode := 0x43 }).trace 0x8004 [0x43], leBytes 1 6)
    else
      let len := le r.body 4 4
      let s := s.modStm fun m =>
        { m with fwState := 1, fwCode := 0, fwLen := len, fwImage := s.rd rsvBase (min len maxImage) }
      (s, s.fstatus)

/-- A descriptor whose type an update may change: SMFW and REPAIR (R417). -/
def updatable (d : Bytes) : Bool := descType d == secSmfw || descType d == secRepair

/-- TYPE, SFLAGS, LENGTH and DIGEST of a descriptor. -/
def descKey (d : Bytes) : Nat × Nat × Nat × Bytes := (descType d, byteAt d 3, descLen d, slice d 0x10 48)

/-- What the update may not change is as in the running image (R417). -/
def State.sameSections (s : State) (i : Bytes) : Bool :=
  let new := ((imgDescs i).filter fun d => !(updatable d)).map descKey
  let old := (s.boot.descs.filter fun d => !(updatable d)).map descKey
  !(imgFlag i 0) && imgFlag i 1 == s.boot.debugProfile && imgFlag i 2 == s.boot.isolation
    && new.all old.contains && old.all new.contains

/-- The payloads beside which the update's SMFW is judged; its REPAIR section is ignored. -/
def State.fwFault (s : State) (i : Bytes) (len : Nat) : Option Nat :=
  if imgLen i ≠ len then some 0x05
  else
    match firstImageFault [headerFault i, chainFault i s.identity, structureFault i (!(imgFlag i 0))] with
    | some f => some f.code
    | none =>
      if !(s.sameSections i) then some 0x40
      else if le (imgPayload i secSmfw) 0x18 2 ≠ le (s.sec secSmfw) 0x18 2 then some 0x41
      else if certOwnerKey (imgCert i) ≠ s.boot.ownerPubkey then some 0x42
      else (firstImageFault [fieldFault i (imgPayload i), debugFault i]).map (·.code)

/-- FW_VERIFY_DONE (R417): the verification, on the Stationmaster alone, ends with STAGED or a rejection. -/
def execFwVerifyDone (s : State) : Out :=
  act s fun s =>
    if s.stm.fwState ≠ 1 ∨ !s.fwLoops then s
    else
      match s.fwFault s.stm.fwImage s.stm.fwLen with
      | some c => s.fwReject c
      | none => (s.modStm fun m => { m with fwState := 2 }).trace 0x8001 []

/-- ACTIVATE (R418, R419): accepted only when an image is STAGED; deferred unless the clamp is IDLE. -/
def execActivate (s : State) : Out :=
  act s fun s => s.serve 6 2 fun s _ =>
    let s :=
      if s.stm.fwState ≠ 2 then s
      else if s.pwr.clampState = 0 then s.modStm fun m => { m with fwState := 4 }
      else (s.modStm fun m => { m with fwState := 3 }).trace 0x8002 []
    (s, s.fstatus)

/-- FW_ABORT (R419): a staged image, deferred or not, is discarded. -/
def execFwAbort (s : State) : Out :=
  act s fun s => s.serve 6 3 fun s _ =>
    let s :=
      if s.stm.fwState = 2 ∨ s.stm.fwState = 3 then
        s.scrubStaging.modStm fun m => { m with fwState := 7, fwLen := 0, fwImage := [] }
      else s
    (s, s.fstatus)

/-- FW_SWAP (R418, R419): at a loop boundary with the clamp IDLE the old firmware writes its handoff state, and the
hardware copy starts. -/
def execFwSwap (s : State) : Out :=
  act s fun s =>
    if (s.stm.fwState = 3 ∨ s.stm.fwState = 4) ∧ s.fwLoops ∧ s.pwr.clampState = 0 then
      s.modStm fun m => { m with fwState := 4, fwSwapped := true }
    else s

/-- FW_COPY_DONE (R402, R418): the new firmware runs. -/
def execFwCopyDone (s : State) : Out :=
  act s fun s =>
    if !s.stm.fwSwapped || s.stm.wdogExpired then s
    else
      let i := s.stm.fwImage
      let old := s.matchVersion
      let s : State := { s with
        sections := tset s.sections secSmfw (imgPayload i secSmfw)
        boot := { s.boot with buildId := imgBuildId i, imageVersion := imgVersion i } }
      let s := s.wr (logBase + 12) (leBytes 4 (imgFwVersion i))
      let s := s.modStm fun m =>
        { m with
          fwState := 5, fwCode := 0, fwSwapped := false, fwLen := 0, fwImage := []
          activations := wrapInc 16 m.activations
          handshakes := if s.matchVersion / 65536 = old / 65536 then m.handshakes else [] }
      s.trace 0x8003 []

end Sys2Proof.Machine
end

