-- ==== Sys2Proof/Machine/Fountain.lean ====
section
/-! DEFINITION. The Fountain: what each vertical blank does (R465, R466, R488). -/

namespace Sys2Proof.Machine

/-- A display stream. -/
def State.stream (s : State) (n : Nat) : FtnStream := tget {} s.ftn.streams n
/-- Change a display stream. -/
def State.modStream (s : State) (n : Nat) (f : FtnStream → FtnStream) : State :=
  { s with ftn := { s.ftn with streams := tmod {} s.ftn.streams n f } }

/-- The Fountain and a stream's domain are on. -/
def State.streamOn (s : State) (n : Nat) : Bool := (s.clock 70).state == .on && (s.clock (53 + n)).state == .on

/-- ENABLE of a layer descriptor. -/
def layerEnabled (d : Bytes) : Bool := bit (byteAt d 0) 0

/-- A layer descriptor with no reserved value, whose layer lies inside its stream (R465). -/
def layerOk (d : Bytes) (width height : Nat) : Bool :=
  let flags := byteAt d 0
  let srcW := le d 4 2
  let srcH := le d 6 2
  let dstW := le d 0x0C 2
  let dstH := le d 0x0E 2
  fld flags 3 5 == 0 && byteAt d 1 ≤ 3 && byteAt d 3 == 0
    && 1 ≤ srcW && srcW ≤ 3840 && 1 ≤ srcH && srcH ≤ 2160
    && srcW ≤ 4 * dstW && dstW ≤ 4 * srcW && srcH ≤ 4 * dstH && dstH ≤ 4 * srcH
    && le d 8 2 + dstW ≤ width && le d 0x0A 2 + dstH ≤ height
    && le d 0x10 8 % 64 == 0 && le d 0x16 2 == 0
    && le d 0x1E 2 == 0 && (byteAt d 1 == 3 || le d 0x18 8 == 0)
    && le d 0x20 4 % 64 == 0 && le d 0x24 4 % 64 == 0
    && le d 0x2E 2 == 0 && (bit flags 1 || le d 0x28 8 == 0) && zeroAt d 0x34 12

/-- The header of a result record lets a gated layer be shown at `t` (R466). -/
def headerFresh (h : Bytes) (t : Nat) : Bool :=
  le h 0 4 == 0x01525354 && le h 0x3C 4 == crc32c (slice h 0 0x3C)
    && [0xA5, 0xA6, 0x20].contains (byteAt h 4)
    && t ≤ le h 0x10 8 * 1000000000 + le h 0x18 4 + 64 * le h 0x20 4

/-- The age check of a gated layer (R466): the header is read under FTN_TAG. -/
def State.layerFresh (s : State) (d : Bytes) : Bool × State :=
  let s := s.devRead s.ftnTag (fld (le d 0x28 8) 0 48) 64
  (s.answered && s.tmt.valid && headerFresh s.resp.bytes s.now, s)

/-- One descriptor of the list is read and judged for the next frame. -/
def State.readLayer (s : State) (n k width height : Nat) : State :=
  let s := s.devRead s.ftnTag ((s.stream n).listBase + 64 * k) 64
  if !s.answered then s
  else
    let d := s.resp.bytes
    if !(layerEnabled d) then s
    else if !(layerOk d width height) then s.modStream n fun x => { x with badDesc := sat16 x.badDesc }
    else if bit (byteAt d 0) 1 then
      let r := s.layerFresh d
      if r.1 then r.2.modStream n fun x => { x with layers := x.layers ++ [(k, 0)] }
      else
        r.2.modStream n fun x =>
          { x with stale := sat16 x.stale, layers := x.layers ++ [(k, if bit (byteAt d 0) 2 then 2 else 1)] }
    else s.modStream n fun x => { x with layers := x.layers ++ [(k, 0)] }

/-- VERTICAL_BLANK (R465, R466, R488): the start of a stream's vertical blank. `width` and `height` are the stream's,
`underruns` counts the lines of the frame scanned out whose pixels arrived late, and `hpd` is the hot-plug detect. -/
def execVerticalBlank (stream width height underruns : Nat) (hpd : Bool) (instant : Nat) (s : State) : Out :=
  act s fun s =>
    let s := s.reach instant
    if !(s.streamOn stream) then s
    else
      let s := s.modStream stream fun x =>
        let x : FtnStream := if x.active then
            { x with frames := wrapInc 32 x.frames, underrun := min 0xFFFF (x.underrun + underruns) } else x
        { x with hpd := hpd, active := x.en, layers := [] }
      if !(s.stream stream).en then s
      else (List.range 8).foldl (fun s k => s.readLayer stream k width height) s

end Sys2Proof.Machine
end

