-- ==== Sys2Proof/Machine/Handovers.lean ====
section
/-! DEFINITION. The rows that end a bank's handover or power transition (R100, R102): what the accesses that the bank then
serves bring about in the Signal box follows at once. -/

namespace Sys2Proof.Machine

/-- HANDOVER_COMPLETE (R100 step 5). -/
def execHandoverComplete (bank : Nat) (s : State) : Out := act s fun s => (s.finishHandover bank).settle

/-- POWER_TRANSITION_DONE (R102). -/
def execPowerTransitionDone (bank : Nat) (s : State) : Out := act s fun s => (s.finishPower bank).settle

end Sys2Proof.Machine
end

