-- ==== Sys2Proof/Machine/RegMap.lean ====
section
/-! DEFINITION. The registers of the control-bus blocks, first part: SUP, ILK, HDW, TMT, PWR, STM, SBX and TTB (R55, R63,
R149, R168, R181, R293, R336, R404, R462, R487). -/

namespace Sys2Proof.Machine

/-- One register as an access meets it. -/
structure Reg where
  /-- Its offset in the block. -/
  base : Nat
  /-- Its bytes, 4 or 8. -/
  size : Nat := 4
  /-- What it reads. -/
  value : Nat := 0
  /-- The bits that a write of one half of a 64-bit register leaves in the other. -/
  rw : Nat := 0
  /-- The state after a write of a value; none where writes are ignored. -/
  write : Option (Nat → State) := none
  /-- The state after a read, where reading has an effect. -/
  after : Option State := none

/-- Who makes an access of the control bus: its path (R482), and its stream tag. -/
structure RegCtx where
  /-- The path: 0 supervisor port, 1 Stationmaster, 2 Interlocking, 3 gateway, 4 + c the window of Consist c. -/
  path : Nat
  /-- The stream tag. -/
  tag : Nat
  deriving DecidableEq, Repr

/-- A value from its fields, each at its lowest bit. -/
def pack (l : List (Nat × Nat)) : Nat := (l.map fun e => e.2 * 2 ^ e.1).sum

/-- All bits of a 64-bit register. -/
def all64 : Nat := 2 ^ 64 - 1

/-- The state that a command leaves. -/
def ran (o : Out) (s : State) : State :=
  match o with
  | .next t => t
  | _ => s

/-- A signed value in 32 bits. -/
def signed32 (v : Int) : Nat := (v % 2 ^ 32).toNat

/-- The 4-byte registers that show a string of bytes from an offset on. -/
def bytesReg (base : Nat) (bs : Bytes) (o : Nat) : List Reg :=
  if base ≤ o ∧ o < base + bs.length then [{ base := o / 4 * 4, value := le bs (o / 4 * 4 - base) 4 }] else []

/-- A time as a 64-bit register of seconds and a register of nanoseconds. -/
def timeRegs (sec ns t extra : Nat) : List Reg :=
  [{ base := sec, size := 8, value := t / 1000000000 }, { base := ns, value := t % 1000000000 + extra }]

/-! ### SUP (R55, R63, R462) -/

/-- The code of PHASE. -/
def phaseCode : Phase → Nat
  | .rom => 0 | .identity => 1 | .load => 2 | .apply => 3 | .firmware => 4 | .ready => 5 | .safe => 6 | .failed => 7
/-- The code of BOOT_SRC. -/
def bootSrcCode : BootSrc → Nat
  | .none => 0 | .slotA => 1 | .slotB => 2 | .supervisor => 3
/-- The code of a reload's STATE. -/
def reloadCodeOf : ReloadState → Nat
  | .idle => 0 | .loading => 1 | .verifying => 2 | .armed => 3 | .done => 4 | .rejected => 5

/-- SUP_BOOT_STATUS. -/
def State.bootStatus (s : State) : Nat :=
  let b := s.boot
  pack [(0, phaseCode b.phase), (4, ilkStateCode b.ilkState), (7, b2n (b.ilkState == .checking)), (8, b.failCode),
    (16, bootSrcCode b.bootSrc), (20, 3), (24, b2n b.repairUpdated), (25, b2n b.banksFenced),
    (26, b2n b.repairSealRejected), (27, b2n b.debugProfile), (28, b2n b.rtcSplit), (29, b2n s.reload.busy)]

/-- SUP_BOOT_DETAIL. -/
def State.bootDetail (s : State) : Nat :=
  pack [(0, s.boot.detailSection), (8, s.boot.slotACode), (16, s.boot.fieldOffset % 65536)]

/-- SUP_RELOAD_STATUS. -/
def State.reloadStatus (s : State) : Nat :=
  let r := s.reload
  pack [(0, reloadCodeOf r.state), (8, r.code), (16, b2n r.ttschedSwapped), (17, b2n r.consisttplSwapped),
    (18, b2n r.rulesSwapped), (19, b2n r.rulesOldRetired), (24, r.eventsOrphaned)]

/-- The SUP block. -/
def State.supRegs (s : State) : List Reg :=
  [{ base := 0x40, value := s.bootStatus }, { base := 0x44, value := s.bootDetail },
   { base := 0x48, value := s.reloadStatus },
   { base := 0x50, size := 8, value := pack [(0, s.sup.crcErrors), (16, s.sup.aborts), (32, s.sup.timeouts)]
     write := some fun v => { s with sup := { s.sup with
       crcErrors := onesClear s.sup.crcErrors v 0 16, aborts := onesClear s.sup.aborts v 16 16
       timeouts := onesClear s.sup.timeouts v 32 16 } } },
   { base := 0x58, value := s.sup.hbCount }]

/-! ### ILK and HDW (R293) -/

/-- ILK_STATUS. -/
def State.ilkStatus (s : State) : Nat :=
  pack [(0, ilkStateCode s.boot.ilkState), (3, b2n s.ilk.lockstep), (4, b2n s.ilk.debugBroken), (5, b2n s.latched),
    (6, b2n s.ilk.alertPending), (7, b2n s.reload.oldRules.isSome), (8, s.ilk.quarantine)]

/-- The ILK block; nothing in it is writable. -/
def State.ilkRegs (s : State) (o : Nat) : List Reg :=
  let i := s.ilk
  [{ base := 0x00, value := s.ilkStatus },
   { base := 0x08, value := pack [(0, i.safeCause), (8, i.safeSub), (24, i.causeCount)] },
   { base := 0x20, value := pack [(0, s.dframes), (8, s.disagreeLimit), (16, s.disagreeWindow)] },
   { base := 0x24, value := i.frame },
   { base := 0x28, size := 8
     value := pack [(0, i.tapFailsExpress), (16, i.tapFailsQm), (32, i.ruleFails), (48, i.agreeForced)] },
   { base := 0x30, size := 8, value := pack [(0, i.valid), (32, i.notValid)] },
   { base := 0x38, value := pack [(0, i.goldenTerrace), (3, b2n i.goldenPending), (4, i.goldenDeferrals),
       (8, i.goldenFails), (16, i.goldenPasses)] },
   { base := 0x3C, value := pack [(0, i.lastSlice), (16, i.rotations)] },
   { base := 0x40, value := i.nextAlert },
   { base := 0x44, value := pack [(0, i.writeDenied), (16, i.badPtr)] }]
    ++ timeRegs 0x10 0x18 i.detectNs 0
    ++ (if o < 0x800 then [] else bytesReg (o / 32 * 32) (slice (tget [] i.alerts ((o - 0x800) / 32)) 0 32) o)

/-- The class that a path's HDW_CLASS_SEL shows. -/
def State.classShown (s : State) (path : Nat) : Nat := tget 0 s.ilk.classSel path

/-- The HDW block: the selector alone is writable, by a privileged requester. -/
def State.hdwRegs (s : State) (c : RegCtx) : List Reg :=
  let x := s.hdw (s.classShown c.path)
  [{ base := 0x00, value := s.classShown c.path
     write := some fun v =>
       if c.path = 3 ∧ !(s.privileged c.tag) then s
       else { s with ilk := { s.ilk with classSel := tset s.ilk.classSel c.path (fld v 0 7) } } },
   { base := 0x08, size := 8, value := pack [(0, x.opened.length), (32, x.seq)] },
   { base := 0x10, size := 8
     value := pack [(0, x.expired), (16, x.late), (32, x.originUnknown), (48, x.duplicate)] },
   { base := 0x18, value := x.maxAge }]

/-! ### TMT (R336, R487) -/

/-- The event that a path's TMT_EVENT_SEL shows. -/
def State.eventShown (s : State) (path : Nat) : Nat := tget 0 s.tmt.eventSel path
/-- The port and the history position that a path's TMT_CAM_SEL shows. -/
def State.camShown (s : State) (path : Nat) : Nat × Nat :=
  (fld (tget 0 s.tmt.camSel path) 0 4, fld (tget 0 s.tmt.camSel path) 4 4)

/-- TMT_STATUS. -/
def State.tmtStatus (s : State) : Nat :=
  pack [(0, s.timeMode % 4), (2, b2n s.tmt.stepped), (3, b2n s.tmt.valid), (4, b2n s.tmt.holdover), (5, b2n s.tmt.lost),
    (6, b2n s.tmt.froze)]

/-- The camera registers that TMT_CAM_SEL selects. -/
def State.camRegs (s : State) (path : Nat) : List Reg :=
  let p := (s.camShown path).1
  let h := (s.camShown path).2
  let c := s.cam p
  let f := c.frames[h]?
  let g := f.getD {}
  [{ base := 0x4C, value := if f.isSome then g.frame else 0 },
   { base := 0x5C, value := pack [(0, if f.isSome then g.lines % 65536 else 0), (16, b2n (h == 0 && c.isOpen)),
       (17, b2n (h == 0 && c.resync)), (18, min c.orphanLines (2 ^ 14 - 1))] }]
    ++ timeRegs 0x50 0x58 (if f.isSome then g.stamp else 0) (2 ^ 30 * b2n (f.isSome && g.truncated) + 2 ^ 31 * b2n f.isSome)

/-- The registers of capture input `n`; a read of TMT_CAP_NS pops the FIFO. -/
def State.capRegs (s : State) (n : Nat) : List Reg :=
  let c := s.cap n
  let h := c.fifo.head?
  [{ base := 0x100 + 16 * n, size := 8, value := (h.getD (0, false)).1 / 1000000000 },
   { base := 0x108 + 16 * n
     value := match h with | some e => e.1 % 1000000000 + 2 ^ 30 * b2n e.2 + 2 ^ 31 | none => 0
     after := some (ran (execCapFifoPop n s) s) },
   { base := 0x10C + 16 * n, value := pack [(0, c.fifo.length), (16, c.overflow), (24, c.ignored)] }]

/-- The registers that every view of the TMT block shows. -/
def State.tmtShared (s : State) (c : RegCtx) : List Reg :=
  let l := tget (0, 0) s.tmt.nowLatch c.path
  [{ base := 0x00, value := s.tmtStatus },
   { base := 0x08, size := 8, value := s.now / 1000000000, after := some (ran (execTmtNowRead c.path s) s) },
   { base := 0x10, value := l.1 }, { base := 0x14, value := l.2 },
   { base := 0x48, value := tget 0 s.tmt.camSel c.path
     write := some fun v => s.modTmt fun t => { t with camSel := tset t.camSel c.path (fld v 0 8) } }]
    ++ s.camRegs c.path

/-- The TMT block; its selectors alone are writable. -/
def State.tmtRegs (s : State) (c : RegCtx) (o : Nat) : List Reg :=
  let t := s.tmt
  let e := s.eventShown c.path
  let cam := s.cam (s.camShown c.path).1
  s.tmtShared c
    ++ [{ base := 0x18, value := signed32 t.rate }, { base := 0x1C, value := signed32 t.offset },
      { base := 0x20, size := 8, value := pack [(0, t.syncAccepted), (16, t.syncRejected), (32, t.trigOverlap)] },
      { base := 0x30, value := e
        write := some fun v => s.modTmt fun t => { t with eventSel := tset t.eventSel c.path (fld v 0 16) } },
      { base := 0x34, value := s.eventCount e },
      { base := 0x60, value := pack [(0, cam.crcErrors), (16, cam.hdrErrors)] }]
    ++ timeRegs 0x38 0x40 (tget 0 t.evLast e) 0
    ++ timeRegs 0x200 0x208 t.freezeNs (2 ^ 30 * b2n t.freezeByEvent + 2 ^ 31 * b2n t.freezeValid)
    ++ (if 0x100 ≤ o ∧ o < 0x200 then s.capRegs ((o - 0x100) / 16) else [])

/-! ### PWR (R404 to R426) -/

/-- PWR_DOM_STAT of a domain. -/
def State.domStat (s : State) (d : Nat) : Nat :=
  match pwrDomain d with
  | none => 0
  | some k =>
    pack [(0, s.domState d k), (3, s.domOutcome d k), (5, b2n (s.holdOf d).isSome), (6, b2n (s.secureUsers k != [])),
      (7, b2n (s.dom d).cut)]

/-- The PWR block. -/
def State.pwrRegs (s : State) (c : RegCtx) (o : Nat) : List Reg :=
  let p := s.pwr
  let d := tget 0 p.domSel c.path
  let t := (o - 0x40) / 8
  [{ base := 0x00, size := 8
     value := pack [(0, p.clampState), (2, p.clampSensor), (8, p.tjMax), (16, p.throttles), (32, p.cuts)]
     write := some fun v => s.modPwr fun p =>
       { p with throttles := onesClear p.throttles v 16 16, cuts := onesClear p.cuts v 32 16 } },
   { base := 0x08, value := pack [(0, p.pkgPower), (12, p.pkgLimit % 512), (21, b2n p.pkgLimited)] },
   { base := 0x80, value := pack [(0, b2n p.onBackup), (1, b2n p.bkLow), (2, b2n p.bkCheckFail), (16, p.bkLowEvents)] },
   { base := 0x88, value := d
     write := some fun v => s.modPwr fun p => { p with domSel := tset p.domSel c.path (fld v 0 16) } },
   { base := 0x8C, value := s.domStat d }]
    ++ if 0x40 ≤ o ∧ o < 0x80 then
      [{ base := 0x40 + 8 * t, size := 8
         value := pack [(0, (s.terr t).point), (4, (s.terr t).voltage % 1024), (16, (s.terr t).tj),
           (32, s.terraceMhz t % 4096)] }] else []

/-! ### STM (R399, R401, R417, R421, R424) -/

/-- Bytes of the mailbox slot are written; a write of bytes 0x00 to 0x07 takes the request (R399). -/
def State.mboxWrite (s : State) (tag off : Nat) (bs : Bytes) : State :=
  if s.stm.wdogExpired then { s with resp := { kind := .error } }
  else
    let s := s.modStm fun m => { m with mboxSlot := patch (slice m.mboxSlot 0 128) off bs }
    if off = 0 ∧ bs.length = 8 then s.mboxTake tag bs else { s with resp := { kind := .data } }

/-- The STM block. -/
def State.stmRegs (s : State) (o : Nat) : List Reg :=
  let m := s.stm
  [{ base := 0x00, value := pack [(0, b2n m.fwRunning), (1, b2n m.wdogExpired)] },
   { base := 0x08, size := 8, value := pack [(0, s.fwVersion), (32, s.matchVersion)] },
   { base := 0x10, value := pack [(0, m.fwState), (8, m.fwCode), (16, m.activations)] },
   { base := 0x18, value := pack [(0, 32 - m.queue.length), (16, m.mboxRefused)]
     write := some fun v => s.modStm fun m => { m with mboxRefused := onesClear m.mboxRefused v 16 16 } },
   { base := 0x20, value := m.traceEn, write := some fun v => s.modStm fun m => { m with traceEn := fld v 0 16 } }]
    ++ bytesReg 0x100 (slice m.mboxSlot 0 128) o
    ++ if 0x10000 ≤ o ∧ o < 0x20000 then [{ base := o / 4 * 4, value := s.rdLe (logBase + (o / 4 * 4 - 0x10000)) 4 }] else []

/-! ### SBX (R121 to R124, R144 to R147) -/

/-- One write of SBX_RING_CTL: CANCEL, DISARM and ARM in this order. The window sets CANCEL and ARM only. -/
def State.ringCtl (s : State) (n v : Nat) (window : Bool) : State :=
  let s := if bit v 1 then ran (execCancel n s) s else s
  let s := if bit v 2 && !window then s.disarmRing n else s
  if bit v 0 then s.armRing n window else s

/-- The configuration of a ring is writable: it is disarmed and not LOCKED. -/
def Ring.free (r : Ring) : Bool := !r.armed && !r.locked

/-- The registers of ring `n`, from an offset. -/
def State.ringRegs (s : State) (n at0 : Nat) (window : Bool) : List Reg :=
  let r := s.ring n
  let cfg (f : Ring → Ring) : State := if r.free then s.modRing n f else s
  [{ base := at0, size := 8, value := r.base, rw := all64
     write := some fun v => cfg fun r => { r with base := fld v 12 36 * 4096 } },
   { base := at0 + 0x08, size := 8
     value := pack [(0, r.log2Size), (4, b2n (n < 16)), (5, b2n r.locked), (8, r.ownerTag), (20, r.writerTag)]
     rw := 0xFFFFFF0F
     write := some fun v => cfg fun r =>
       { r with log2Size := fld v 0 4, ownerTag := fld v 8 12, writerTag := fld v 20 12 } },
   { base := at0 + 0x10, size := 8, value := r.tailAddr, rw := all64
     write := some fun v => cfg fun r => { r with tailAddr := fld v 3 45 * 8 } },
   { base := at0 + 0x18, value := r.head
     write := if window then none else some fun v => if r.armed then s else s.modRing n fun r => { r with head := fld v 0 32 } },
   { base := at0 + 0x1C, write := some fun v => s.ringCtl n v window },
   { base := at0 + 0x20, value := pack [(0, r.error), (8, b2n r.armed), (9, b2n r.waitSlots), (10, b2n r.waitQuota),
       (12, b2n r.gated)] }]

/-- The SBX block. -/
def State.sbxRegs (s : State) (c : RegCtx) (o : Nat) : List Reg :=
  let x := s.sbx
  let t := s.token (s.tokenShown c.path)
  [{ base := 0x00, value := x.nodes.length },
   { base := 0x08, size := 8
     value := pack [(0, x.genDiscards), (16, x.tokenDrops), (32, x.tailIgnored), (48, x.recordLost)]
     write := some fun v => { s with sbx := { x with
       genDiscards := onesClear x.genDiscards v 0 16, tokenDrops := onesClear x.tokenDrops v 16 16
       tailIgnored := onesClear x.tailIgnored v 32 16, recordLost := onesClear x.recordLost v 48 16 } } },
   { base := 0x20, value := s.tokenShown c.path
     write := some fun v => { s with sbx := { x with tokenSel := tset x.tokenSel c.path (fld v 0 16) } } },
   { base := 0x24, value := pack [(0, t.ownerConsist), (8, t.srcDevice), (14, t.srcTag), (26, b2n t.valid), (27, b2n t.stale)]
     write := some fun v => ran (execTokenCfgWrite c.path v s) s },
   { base := 0x28, value := t.expectGen, write := some fun v => ran (execTokenGenWrite c.path v s) s },
   { base := 0x2C, value := t.value, write := some fun v => ran (execTokenValueWrite c.path v s) s }]
    ++ if 0x10000 ≤ o ∧ o < 0x20000 then s.ringRegs ((o - 0x10000) / 64) (o / 64 * 64) false else []

/-! ### TTB (R165, R168, R175 to R181) -/

/-- The code of a Consist's STATE. -/
def consistCode : ConsistState → Nat
  | .free => 0 | .active => 1 | .teardown => 2 | .quiescing => 3 | .quiesced => 4 | .expired => 5

/-- REMAIN_MS of a Consist's lease: the time left, in ms, rounded up. -/
def State.leaseRemain (s : State) (k : Nat) : Nat :=
  let x := s.consist k
  if x.state = .free ∨ x.state = .expired then 0
  else min (2 ^ 14 - 1) ((x.leaseKick + s.leaseNs k - s.now + 999999) / 1000000)

/-- The registers of a Consist's block that its window shows too, without CST_LEASE's KICK. -/
def State.cstShared (s : State) (k at0 : Nat) : List Reg :=
  let x := s.consist k
  [{ base := at0, value := pack [(0, consistCode x.state), (4, x.pool), (8, x.basinCap), (15, b2n x.logEn),
       (16, x.generation)] },
   { base := at0 + 0x10, size := 8, value := x.usage % 2 ^ 64 },
   { base := at0 + 0x1C, write := some fun v => ran (execCstBankPwr k v s) s }]

/-- CST_CAUSE, CST_COUNTS and CST_FOLDS; a window does not write them. -/
def State.cstCounts (s : State) (k at0 : Nat) (window : Bool) : List Reg :=
  let x := s.consist k
  let wr (f : Nat → Consist → Consist) : Option (Nat → State) :=
    if window then none else some fun v => s.modConsist k (f v)
  [{ base := at0 + 0x08, size := 8
     value := pack [(0, x.causeCode), (8, x.causeBasin), (16, x.causeGen), (32, x.causeNode), (50, b2n x.causeValid)]
     write := wr fun v x => { x with causeValid := x.causeValid && !(bit v 50) } },
   { base := at0 + 0x18, value := pack [(0, x.teardowns), (8, x.lateKicks), (16, x.lateCompletions)]
     write := wr fun v x =>
       { x with
         teardowns := onesClear x.teardowns v 0 8, lateKicks := onesClear x.lateKicks v 8 8
         lateCompletions := onesClear x.lateCompletions v 16 16 } },
   { base := at0 + 0x58, value := x.groupFolds
     write := wr fun v x => { x with groupFolds := onesClear x.groupFolds v 0 16 } }]

/-- The registers of a Consist's block that the privileged view alone shows. -/
def State.cstPriv (s : State) (c : RegCtx) (k at0 : Nat) : List Reg :=
  let x := s.consist k
  [{ base := at0 + 0x04, value := s.leaseRemain k * 65536
     write := some fun v => if bit v 0 then ran (execKick k c.tag s) s else s },
   { base := at0 + 0x20, size := 8, value := x.sidingBase },
   { base := at0 + 0x28, value := pack [(0, b2n x.logEn), (1, x.activeBuf), (2, b2n x.flipBusy)] },
   { base := at0 + 0x30, size := 8, value := x.dirtyBase0 }, { base := at0 + 0x38, size := 8, value := x.dirtyBase1 },
   { base := at0 + 0x40, size := 8, value := x.complMsiAddr }, { base := at0 + 0x48, value := x.complMsiData },
   { base := at0 + 0x4C, value := x.tearMsiData }, { base := at0 + 0x50, size := 8, value := x.tearMsiAddr }]

/-- The 64 bytes of slow-down row `n`. -/
def State.slowBytes (s : State) (n : Nat) : Bytes :=
  let r := tget {} s.ttb.slow n
  let sum (v : Nat) : Bytes := leBytes 8 (min v (2 ^ 64 - 1))
  sum r.nodes ++ sum r.achieved ++ sum r.standalone ++ sum r.queued ++ sum r.preempted ++ sum r.blamed
    ++ leBytes 4 (min r.maxSlowdown (2 ^ 32 - 1)) ++ zeros 12

/-- A share-group entry. -/
def State.groupAt (s : State) (g : Nat) : ShareGroup := tget {} s.ttb.groups g

/-- The TTB block. -/
def State.ttbRegs (s : State) (c : RegCtx) (o : Nat) : List Reg :=
  let t := s.ttb
  let g := tget 0 t.grpSel c.path
  let k := (o - 0x10000) / 0x80
  [{ base := 0x00, value := pack [(0, (t.ctxs.filter fun e => e.2.state != .free).length),
       (16, t.preemptions.foldl (fun m e => m ||| e.2.terraces) 0)] },
   { base := 0x08, size := 8, value := pack [(0, t.maxNs), (32, t.overBound), (48, t.ctxWaits)]
     write := some fun v => if bit v 63 then ran (execPreemptClear s) s else s },
   { base := 0x10, size := 8, value := t.safetyUsage % 2 ^ 64 },
   { base := 0x20, value := g
     write := some fun v => { s with ttb := { t with grpSel := tset t.grpSel c.path (fld v 0 12) } } },
   { base := 0x24, value := pack [(0, (s.groupAt g).weight), (14, (s.groupAt g).consist), (22, b2n (s.groupAt g).valid)] },
   { base := 0x28, size := 8, value := min (s.groupAt g).usage (2 ^ 64 - 1) },
   { base := 0x30, write := some fun v => ran (execTtbSlowClear v s) s }]
    ++ (if 0x10000 ≤ o ∧ 1 ≤ k ∧ k ≤ 255 then
        s.cstShared k (o / 0x80 * 0x80) ++ s.cstCounts k (o / 0x80 * 0x80) false ++ s.cstPriv c k (o / 0x80 * 0x80)
      else [])
    ++ if 0x40000 ≤ o ∧ o < 0x80000 then bytesReg (o / 64 * 64) (s.slowBytes ((o - 0x40000) / 64)) o else []

end Sys2Proof.Machine
end

