-- ==== Sys2Proof/Machine/RegMap2.lean ====
section
/-! DEFINITION. The registers of the control-bus blocks, second part: KVC, SLC, BSN, the block monitors, POOL and RSV, JCT,
MWL, RTS, FTN and PTS (R88, R114, R229, R230, R260, R362, R371, R387 to R391, R486 to R491). -/

namespace Sys2Proof.Machine

/-! ### KVC (R215, R216, R229) -/

/-- KVC_SPACE_STAT0 and KVC_SPACE_STAT1 of a space. -/
def State.kvStatRegs (s : State) (n at0 : Nat) (window : Bool) : List Reg :=
  let p := s.kvSpace n
  let life (l : KvLife) : Nat := (p.pages.filter fun k => (tget ({} : KvPage) s.kvc.pages k).life == l).length
  let valid := b2n p.valid
  [{ base := at0, size := 8
     value := pack [(0, valid * life .free), (21, valid * life .retired),
       (42, (s.kvc.nodes.filter fun e => e.2.space == n).length)] },
   { base := at0 + 8, size := 8
     value := pack [(0, (s.kvc.seqs.filter fun e => e.2.life == .live && e.2.space == n).length), (17, b2n p.cfgRejected),
       (32, p.noPages), (48, p.evictions)]
     write := if window then none else some fun v =>
       if bit v 17 then s.modKvSpace n fun x => { x with cfgRejected := false } else s }]

/-- KVC_REQ_STAT of a Consist. -/
def State.kvReqStat (s : State) (c : Nat) : Nat :=
  pack [(0, 16 - (s.kvQueue c).queue.length), (16, (s.kvQueue c).drops)]

/-- Bytes of a space record are written (R216): the bytes with VALID check or clear the record, and a valid record takes
no other write. -/
def State.kvRecordWrite (s : State) (n off : Nat) (bs : Bytes) : State :=
  let p := s.kvSpace n
  let rest (s : State) : State :=
    if (s.kvSpace n).valid || p.valid then s
    else s.modKvSpace n fun x => x.put off bs
  if off ≠ 0 then rest s
  else
    let v := le (patch p.bytes64 0 bs) 0 4
    let s := if p.valid then s else s.modKvSpace n fun x => x.put 4 (bs.drop 4)
    if bit v 0 then ran (execKvSpaceValid n v s) s else ran (execKvSpaceInvalidate n v s) s

/-- The KVC block. -/
def State.kvcRegs (s : State) (o : Nat) : List Reg :=
  let k := s.kvc
  [{ base := 0x00, value := b2n k.en, write := some fun v => ran (execKvcEnable v s) s },
   { base := 0x08, size := 8, value := k.metaBase, rw := all64
     write := some fun v => if k.en then s else s.modKvc fun k => { k with metaBase := fld v 21 27 * 0x200000 } },
   { base := 0x10, size := 8, value := k.epoch % 2 ^ 64 },
   { base := 0x18, size := 8, value := k.safeEpoch % 2 ^ 64 },
   { base := 0x20, size := 8, value := pack [(0, k.pins.length), (16, k.pinWaits), (32, k.genDrops)]
     write := some fun v => s.modKvc fun k =>
       { k with pinWaits := onesClear k.pinWaits v 16 16, genDrops := onesClear k.genDrops v 32 16 } }]
    ++ (if 0x10000 ≤ o ∧ o < 0x14000 then bytesReg (o / 64 * 64) (s.kvSpace ((o - 0x10000) / 64)).bytes64 o else [])
    ++ if 0x20000 ≤ o ∧ o < 0x21000 then s.kvStatRegs ((o - 0x20000) / 16) (o / 16 * 16) false else []

/-! ### SLC (R367, R371, R381, R382, R387, R390, R391) -/

/-- The code of an enclave's STATE. -/
def enclaveCode : EnclaveState → Nat
  | .empty => 0 | .building => 1 | .ready => 2

/-- A write of SLC_ENC_CMD (R381, R382); a reserved OP is refused, and so is an ENCLAVE outside 1 to 63, with no ERROR, since
the table gives none for it (DEDUCED, log entry 58). -/
def State.encCmd (s : State) (c : RegCtx) (v : Nat) : State :=
  let n := fld v 4 6
  if n = 0 then s
  else
  match fld v 0 4 with
  | 1 => ran (execEnclaveCreate c.tag n (bit v 12) s) s
  | 2 => ran (execEnclaveAdd c.tag n (fld v 10 2) (fld v 16 25) (fld v 41 16 + 1) s) s
  | 3 => ran (execEnclaveSeal c.tag n s) s
  | 4 => ran (execEnclaveDestroy c.tag n s) s
  | 5 => ran (execEnclaveSelect c.path c.tag n s) s
  | _ => s

/-- SLC_SECURE_HOLD: the oldest request held for secure use. -/
def State.secureHold (s : State) : Nat :=
  match s.pwr.holds.find? fun h => h.secure with
  | none => s.pwr.secureHeld * 2 ^ 32
  | some h =>
    let user := match pwrDomain h.domain with | some k => (s.secureUsers k).headD 0 | none => 0
    pack [(0, h.domain), (16, user), (20, worldOf h.tag), (24, 1), (32, s.pwr.secureHeld)]

/-- The 32 bytes of a region entry (R368). -/
def regionBytes (e : Region) : Bytes :=
  leBytes 8 e.base ++ leBytes 8 e.limit ++ leBytes 2 e.rWorlds ++ leBytes 2 e.wWorlds
    ++ leBytes 1 (pack [(0, b2n e.valid), (1, b2n e.paged), (2, b2n e.adminOnly), (3, b2n e.window), (4, b2n e.locked)])
    ++ zeros 11

/-- The SLC block; `hartsStopped` says what R406 asks of a cluster that a write of SLC_SECURE_REL lets go off. -/
def State.slcRegs (s : State) (c : RegCtx) (o : Nat) (hartsStopped : Bool) : List Reg :=
  let x := s.slc
  let n := tget 0 x.selected c.path
  let e := s.enclave n
  let f := (o - 0x1000) / 16
  let ft := tget {} x.faults f
  let r := (o - 0x20000) / 32
  [{ base := 0x20, value := pack [(0, 64 - x.pageQueue.length), (16, x.refused)]
     write := some fun v => { s with slc := { x with refused := onesClear x.refused v 16 16 } } },
   { base := 0x40, size := 8, write := some fun v => s.encCmd c v },
   { base := 0x48, size := 8
     value := pack [(0, n), (6, enclaveCode e.state), (8, e.creator), (12, b2n e.debug), (13, b2n e.busy),
       (14, x.encError), (32, e.pages.length)] },
   { base := 0xC0, value := pack [(0, x.dbgInv), (16, x.dbgNonInv)]
     write := some fun v => ran (execDbgEnWrite c.tag v s) s },
   { base := 0xC8, size := 8, value := s.secureHold },
   { base := 0xD0, write := some fun v => ran (execSecureRel c.tag (fld v 0 16) hartsStopped s) s },
   { base := 0xD8, size := 8
     value := pack [(0, x.revokeDomain), (16, x.revokeWorld), (20, b2n x.revokeValid), (32, x.revokeCount)]
     write := some fun v => { s with slc := { x with revokeValid := x.revokeValid && !(bit v 20) } } }]
    ++ bytesReg 0x80 e.m o
    ++ (if 0x1000 ≤ o ∧ f ≤ 32 then
        [{ base := o / 16 * 16, size := 8
           value := pack [(0, ft.tag), (12, ft.kind), (16, b2n ft.write), (32, ft.count), (48, b2n ft.valid)]
           write := some fun v =>
             if bit v 48 then { s with slc := { x with faults := tset x.faults f { ft with valid := false, count := 0 } } }
             else s },
         { base := o / 16 * 16 + 8, size := 8, value := ft.addr }] else [])
    ++ if 0x20000 ≤ o ∧ r < 26 * 32 then bytesReg (o / 32 * 32) (regionBytes (s.region (r / 32) (r % 32))) o else []

/-! ### Monitors (R88, R489, R490) -/

/-- The event codes of a Basin (R88). -/
def basinEvents : List Nat :=
  [0x01, 0x02, 0x03, 0x04, 0x08, 0x09, 0x0A, 0x0B, 0x10, 0x11, 0x18, 0x19, 0x20, 0x21, 0x22, 0x28, 0x30, 0x31, 0x32]

/-- The event codes of a block monitor (R490), and how many values its PORT takes. -/
def blockEvents (m : Nat) : List Nat × Nat :=
  if m < 80 then ([0x01, 0x02, 0x03, 0x04, 0x05, 0x10, 0x11, 0x12, 0x13, 0x18, 0x19], 7)
  else if m = 80 then ((List.range 12).map (· + 1), 0)
  else if m = 81 then ((List.range 8).map (· + 1), 0)
  else if m = 82 then ((List.range 9).map (· + 1), 0)
  else if m < 85 then ((List.range 9).map (· + 1), 0)
  else if m = 85 then ((List.range 7).map (· + 1), 0)
  else if m = 86 then ((List.range 6).map (· + 1), 3)
  else if m = 87 then ((List.range 8).map (· + 1), 4)
  else ((List.range 5).map (· + 1), 0)

/-- EVSEL as it is stored: a reserved code becomes 0, and so does a PORT that names nothing. -/
def evselStored (m v : Nat) : Nat :=
  if m < 64 then pack [(0, if basinEvents.contains (fld v 0 6) then fld v 0 6 else 0), (6, fld v 6 4)]
  else
    let e := blockEvents m
    pack [(0, if e.1.contains (fld v 0 6) then fld v 0 6 else 0), (6, fld v 6 3),
      (10, if fld v 10 3 < e.2 then fld v 10 3 else 0)]

/-- A write of PMU_CTL; `virt` says whether the write reaches VIRT. -/
def State.pmuCtl (s : State) (m v : Nat) (virt : Bool) : State :=
  let s := s.modMonitor m fun p =>
    { p with en := bit v 0, virt := if virt then bit v 1 else p.virt, freezeOnOvf := bit v 2, frozen := p.frozen && bit v 2 }
  if bit v 3 then ran (execPmuClear m s) s else s

/-- A monitor's registers from an offset: Basins 0 to 63, and then the blocks. A write of one half of a counter keeps the
other half. -/
def State.pmuRegs (s : State) (m at0 : Nat) (window : Bool) : List Reg :=
  let p := s.monitor m
  let basin := m < 64
  [{ base := at0, value := pack [(0, b2n p.en), (1, b2n p.virt), (2, b2n p.freezeOnOvf)]
     write := some fun v => s.pmuCtl m v (basin && !window) },
   { base := at0 + 0x08, size := 8, value := p.cycle % 2 ^ 64 },
   { base := at0 + 0x40, value := p.ovf
     write := some fun v => s.modMonitor m fun p => { p with ovf := (maskBits p.ovf 4).foldl (fun a i => if bit v i then a else a + 2 ^ i) 0 } }]
    ++ ((List.range 4).map fun i =>
      { base := at0 + 0x10 + 4 * i, value := tget 0 p.evsel i
        write := some fun v => s.modMonitor m fun p => { p with evsel := tset p.evsel i (evselStored m v) } })
    ++ ((List.range 4).map fun i =>
      { base := at0 + 0x20 + 8 * i, size := 8, value := tget 0 p.cnt i, rw := all64
        write := if window then none else some fun v => s.modMonitor m fun p => { p with cnt := tset p.cnt i (fld v 0 48) } })
    ++ if basin then
      [{ base := at0 + 0x48
         value := if window then 0 else pack [(0, p.sampleIndex), (16, p.sampleUnit), (19, p.sampleCounter),
           (21, b2n p.sampleExact), (22, b2n p.sampleValid)]
         write := if window then none else some fun v =>
           s.modMonitor m fun p => { p with sampleValid := p.sampleValid && !(bit v 22) } }]
    else
      [{ base := at0 + 0x48, size := 8, value := p.msiAddr, rw := all64
         write := some fun v => s.modMonitor m fun p => { p with msiAddr := fld v 2 46 * 4 } },
       { base := at0 + 0x50, value := p.msiData, write := some fun v => s.modMonitor m fun p => { p with msiData := fld v 0 32 } }]

/-- The monitor of a block, from 0x800 of its registers on. -/
def State.blockPmu (s : State) (m o : Nat) : List Reg := if 0x800 ≤ o ∧ o < 0x860 then s.pmuRegs m 0x800 false else []

/-! ### BSN (R88, R230, R486) -/

/-- The BSN block of Basin `n`. -/
def State.bsnRegs (s : State) (n : Nat) : List Reg :=
  let b := s.basin n
  [{ base := 0x000, size := 8
     value := pack [(0, b.context), (14, b2n b.bound), (15, b2n (s.basinRole n == 2)), (16, b.generation),
       (32, b.tag), (48, b.listPos % 65536)] },
   { base := 0x180, size := 8
     value := pack [(0, b.atnEntry), (8, b.atnKeyBlock), (24, b.atnDetail), (32, b2n b.atnValid)]
     write := some fun v => s.modBasin n fun b => { b with atnValid := b.atnValid && !(bit v 32) } },
   { base := 0x188, size := 8, value := pack [(0, b.atnDone), (32, b.atnSkipped)] }]
    ++ s.pmuRegs n 0x100 false

/-! ### POOL and RSV (R97 to R114) -/

/-- The banks of a block: 16 in a Pool, 32 in a Reservoir slice. -/
def bankCount (block : Nat) : Nat := if block < 64 then 16 else 32
/-- The code of a bank's PWR. -/
def bankPwrCode : BankPwr → Nat
  | .off => 0 | .retention => 1 | .on => 2

/-- BANK_STAT of a bank. -/
def State.bankStat (s : State) (k : Nat) : Nat :=
  let b := s.bank k
  pack [(0, b.curOwner), (12, b2n b.curFree), (13, b2n b.handover.isSome), (14, b2n b.handoverRejected),
    (15, if b.transition.isSome then 3 else bankPwrCode b.pwrState), (17, b2n b.fenced), (18, b2n b.degraded),
    (19, b2n b.noSweep), (20, if s.repair.built then (b.spareList.filter fun e => e.1 == 0).length else 0), (23, b2n b.pwrAborted),
    (24, b2n b.oldOwnerFault)]

/-- BANK_CTL and BANK_STAT of the bank that an offset names: path 1 is the Stationmaster, any other writer is software, which
switches no bank's power (R102). -/
def State.bankRegs (s : State) (c : RegCtx) (block o : Nat) : List Reg :=
  let n := bankCount block
  if o < 4 * n then
    let k := blockBank block (o / 4)
    let b := s.bank k
    [{ base := o / 4 * 4, value := pack [(0, b.ctlOwner), (12, b2n b.ctlFree), (16, bankPwrCode b.ctlPwr)]
       write := some fun v => s.bankCtlWrite k v (if c.path = 1 then .stationmaster else .software) none }]
  else if o < 8 * n then
    let k := blockBank block ((o - 4 * n) / 4)
    [{ base := o / 4 * 4, value := s.bankStat k
       write := some fun v => s.modBank k fun b =>
         { b with
           handoverRejected := b.handoverRejected && !(bit v 14), oldOwnerFault := b.oldOwnerFault && !(bit v 24) } }]
  else []

/-- A POOL or RSV block. -/
def State.bankBlockRegs (s : State) (c : RegCtx) (block o : Nat) : List Reg :=
  let e := 8 * bankCount block
  let b := s.block block
  s.bankRegs c block o
    ++ [{ base := e, value := pack [(0, b.ce), (16, b.ue)] },
      { base := e + 0x08, size := 8
        value := pack [(0, b.faultTag), (12, b.faultBank), (17, b.faultLine), (28, b2n b.faultWrite), (29, b.faultCause),
          (32, b.faultCount), (48, b2n b.faultValid)]
        write := some fun v =>
          if bit v 48 then s.modBlock block fun b => { b with faultValid := false, faultCount := 0 } else s },
      { base := e + 0x10, value := pack [(0, b2n b.sweepEn), (1, b.sweepInterval)]
        write := some fun v => s.modBlock block fun b =>
          { b with sweepEn := bit v 0, sweepInterval := if fld v 1 10 = 0 then b.sweepInterval else fld v 1 10 } },
      { base := e + 0x14, value := 2 * b2n b.marchPreserve, write := some fun v => ran (execMarchStart block v s) s },
      { base := e + 0x18, value := b.marchMask
        write := some fun v => s.modBlock block fun b => { b with marchMask := fld v 0 (bankCount block) } },
      { base := e + 0x1C
        value := pack [(0, b2n b.marchBusy), (1, b2n b.marchDone), (2, b2n b.marchRepaired),
          (3, b2n b.marchUnrepairable), (4, b2n b.marchRejected)]
        write := some fun v => s.modBlock block fun b =>
          { b with
            marchDone := b.marchDone && !(bit v 1), marchRepaired := b.marchRepaired && !(bit v 2)
            marchUnrepairable := b.marchUnrepairable && !(bit v 3), marchRejected := b.marchRejected && !(bit v 4) } }]
    ++ if 64 ≤ block then s.blockPmu (88 + (block - 64)) o else []

/-! ### JCT (R354 to R361) -/

/-- The registers of a far side. -/
def State.jctSideRegs (s : State) (x : Nat) : List Reg :=
  let at0 := 0x100 + 0x100 * x
  let d := s.side x
  [{ base := at0, value := d.timeoutUs
     write := some fun v => if fld v 0 16 < 50 then s else s.modSide x fun d => { d with timeoutUs := fld v 0 16 } },
   { base := at0 + 0x04, value := pack [(0, (d.tags.filter fun e => !e.2.quarantined).length),
       (9, (d.tags.filter fun e => e.2.quarantined).length)] },
   { base := at0 + 0x08, size := 8
     value := pack [(0, d.errKind), (4, d.errTag), (16, d.errRdTag), (24, b2n d.errWrite), (25, b2n d.errInbound),
       (26, b2n d.errValid)]
     write := some fun v => s.modSide x fun d => { d with errValid := d.errValid && !(bit v 26) } },
   { base := at0 + 0x10, size := 8, value := d.errAddr },
   { base := at0 + 0x18, size := 8, value := pack [(0, d.errors), (16, d.lateCpl), (32, d.scFailed)]
     write := some fun v => s.modSide x fun d =>
       { d with
         errors := onesClear d.errors v 0 16, lateCpl := onesClear d.lateCpl v 16 16
         scFailed := onesClear d.scFailed v 32 16 } }]

/-- The registers of an inbound window. -/
def State.jctWindowRegs (s : State) (x w at0 : Nat) : List Reg :=
  let e := tget {} (s.side x).windows w
  let wr (f : JctWindow → JctWindow) : State := s.modSide x fun d => { d with windows := tset d.windows w (f e) }
  [{ base := at0, size := 8, value := e.base, rw := all64
     write := some fun v => wr fun e => { e with base := fld v 12 52 * 4096 } },
   { base := at0 + 8, size := 8, value := e.limit, rw := all64
     write := some fun v => wr fun e => { e with limit := fld v 12 52 * 4096 } },
   { base := at0 + 0x10, size := 8, value := e.target, rw := all64
     write := some fun v => wr fun e => { e with target := fld v 12 36 * 4096 } },
   { base := at0 + 0x18
     value := pack [(0, b2n e.en), (1, b2n e.ordered), (2, b2n e.ridMatch), (3, e.streamTag), (16, e.rid)]
     write := some fun v => wr fun e =>
       { e with
         en := bit v 0, ordered := bit v 1, ridMatch := bit v 2, streamTag := fld v 3 12, rid := fld v 16 16 } }]

/-- The JCT block. -/
def State.jctRegs (s : State) (o : Nat) : List Reg :=
  [{ base := 0, value := pack [(0, b2n (s.side 0).up), (1, b2n (s.side 1).up), (2, s.jct.slots.length)] }]
    ++ (if 0x100 ≤ o ∧ o < 0x400 then s.jctSideRegs ((o - 0x100) / 0x100) else [])
    ++ (if 0x1000 ≤ o ∧ o < 0x1400 then s.jctWindowRegs ((o - 0x1000) / 0x200) ((o - 0x1000) % 0x200 / 32) (o / 32 * 32) else [])
    ++ s.blockPmu 86 o

/-! ### MWL (R431 to R444) -/

/-- The code of a port's STATE. -/
def linkCode : LinkState → Nat
  | .off => 0 | .training => 1 | .upX8 => 2 | .upX4 => 3 | .wrongPeer => 4 | .failed => 5

/-- The registers of a Mawyn port. -/
def State.mportRegs (s : State) (n : Nat) : List Reg :=
  let x := s.mport n
  let delay := match x.delay with | some d => min 4095 d.toNat | none => 0
  let wr (f : MwlPort → MwlPort) : State := s.modMport n f
  [{ base := 0x100 + 16 * n
     value := pack [(0, linkCode x.state), (4, x.lanesBad), (12, x.peerDevice), (18, x.peerPort), (20, delay)] },
   { base := 0x108 + 16 * n, size := 8
     value := pack [(0, x.replays), (16, x.fecCorrected), (32, x.uncorrectable), (48, x.retrains)]
     write := some fun v => wr fun x =>
       { x with
         replays := onesClear x.replays v 0 16, fecCorrected := onesClear x.fecCorrected v 16 16
         uncorrectable := onesClear x.uncorrectable v 32 16, retrains := onesClear x.retrains v 48 16 } }]

/-- The MWL block. -/
def State.mwlRegs (s : State) (o : Nat) : List Reg :=
  let m := s.mwl
  [{ base := 0, value := pack [(0, s.ownDevice), (6, b2n s.mawynOn), (7, s.timeParent.getD 4)] },
   { base := 8, size := 8, value := m.reach % 2 ^ 48 },
   { base := 0x10, size := 8, value := pack [(0, m.timeouts), (16, m.remoteErrors), (32, m.noWindow), (48, m.dropped)]
     write := some fun v => { s with mwl := { m with
       timeouts := onesClear m.timeouts v 0 16, remoteErrors := onesClear m.remoteErrors v 16 16
       noWindow := onesClear m.noWindow v 32 16, dropped := onesClear m.dropped v 48 16 } } }]
    ++ (if 0x100 ≤ o ∧ o < 0x140 then s.mportRegs ((o - 0x100) / 16) else [])
    ++ (if 0x1000 ≤ o ∧ o < 0x1C00 then bytesReg 0x1000 (slice (s.sec secMawyn) 0x40 0xC00) o else [])
    ++ s.blockPmu 87 o

/-! ### RTS (R237, R254, R260) -/

/-- RTS_WORLD_STAT and RTS_STAT. -/
def State.rtsShared (s : State) (i : Nat) (window : Bool) : List Reg :=
  let x := s.rtsAt i
  [{ base := 0x08, size := 8
     value := pack [(0, x.epoch), (32, b2n x.worldValid), (33, b2n x.staticValid), (34, b2n x.vehicleValid),
       (35, b2n x.ownerRejected), (36, (tget ({} : RtsBank) x.banks x.active).prims.length / 32)]
     write := if window then none else some fun v => s.modRts i fun x => { x with ownerRejected := x.ownerRejected && !(bit v 35) } },
   { base := 0x10
     value := pack [(0, b2n x.run.isSome), (1, b2n x.load.isSome), (2, x.planQueue.length), (7, x.loadQueue.length),
       (12, b2n (x.run.any fun r => r.job.safety)), (13, b2n x.bankWait)] }]

/-- The RTS block of instance `i`. -/
def State.rtsRegs (s : State) (i o : Nat) : List Reg :=
  let x := s.rtsAt i
  [{ base := 0x00, value := pack [(0, x.owner), (12, b2n x.noOwner)]
     write := some fun v => ran (execWorldOwnerWrite i v s) s },
   { base := 0x18, size := 8
     value := pack [(0, x.faultDetail), (8, x.faultCtx), (22, x.faultGen), (38, x.faultNode), (56, b2n x.faultValid)]
     write := some fun v => s.modRts i fun x => { x with faultValid := x.faultValid && !(bit v 56) } },
   { base := 0x20, size := 8, value := pack [(0, x.notFound), (16, x.degraded), (32, x.yields), (48, x.overruns)]
     write := some fun v => s.modRts i fun x =>
       { x with
         notFound := onesClear x.notFound v 0 16, degraded := onesClear x.degraded v 16 16
         yields := onesClear x.yields v 32 16, overruns := onesClear x.overruns v 48 16 } },
   { base := 0x28, value := min x.maxNs (2 ^ 31 - 1), write := some fun v => ran (execRtsOverrunClear i v s) s }]
    ++ s.rtsShared i false ++ s.blockPmu (83 + i) o

/-! ### FTN (R488) -/

/-- The FTN block. -/
def State.ftnRegs (s : State) (o : Nat) : List Reg :=
  let n := (o - 0x100) / 0x40
  let at0 := 0x100 + 0x40 * n
  let x := s.stream n
  let all (f : FtnStream → Bool) : Nat := pack ((List.range 4).map fun i => (i, b2n (f (s.stream i))))
  [{ base := 0, value := pack [(0, all (·.hpd)), (4, all (·.active))] }]
    ++ if 0x100 ≤ o ∧ n < 4 then
      [{ base := at0, size := 8, value := x.listBase, rw := all64
         write := some fun v => s.modStream n fun x => { x with listBase := fld v 6 42 * 64 } },
       { base := at0 + 0x08, value := b2n x.en, write := some fun v => s.modStream n fun x => { x with en := bit v 0 } },
       { base := at0 + 0x0C, value := x.frames },
       { base := at0 + 0x10, size := 8, value := pack [(0, x.stale), (16, x.badDesc), (32, x.underrun)]
         write := some fun v => s.modStream n fun x =>
           { x with
             stale := onesClear x.stale v 0 16, badDesc := onesClear x.badDesc v 16 16
             underrun := onesClear x.underrun v 32 16 } }] else []

/-! ### PTS (R340 to R350, R362) -/

/-- A write of PTS_Q_CFG (R362): while EN is 1, only one that clears EN and changes nothing else. -/
def State.queueCfg (s : State) (q v : Nat) : State :=
  let x := s.ptsQueue q
  let same := fld v 0 4 == x.log2Slots && fld v 4 2 == x.slotSize && bit v 6 == x.tx && fld v 8 12 == x.ownerTag
    && fld v 20 12 == x.writerTag
  if x.en then (if !(bit v 7) && same then ran (execQDisable q s) s else s)
  else if bit v 7 then ran (execQEnable q v s) s
  else
    s.modQueue q fun x =>
      { x with
        log2Slots := fld v 0 4, slotSize := fld v 4 2, tx := bit v 6, ownerTag := fld v 8 12, writerTag := fld v 20 12 }

/-- PTS_Q_STAT. -/
def State.queueStat (s : State) (q : Nat) : Nat :=
  let x := s.ptsQueue q
  pack [(0, x.fill % 2 ^ 15), (15, b2n x.en), (16, x.error)]

/-- The registers of queue `q`. -/
def State.queueRegs (s : State) (q at0 : Nat) : List Reg :=
  let x := s.ptsQueue q
  let cfg (f : PtsQueue → PtsQueue) : State := if x.en then s else s.modQueue q f
  [{ base := at0, size := 8, value := x.base, rw := all64
     write := some fun v => cfg fun x => { x with base := fld v 12 36 * 4096 } },
   { base := at0 + 0x08, size := 8
     value := pack [(0, x.log2Slots), (4, x.slotSize), (6, b2n x.tx), (7, b2n x.en), (8, x.ownerTag), (20, x.writerTag)]
     rw := 0xFFFFFFFF, write := some fun v => s.queueCfg q v },
   { base := at0 + 0x10, size := 8, value := x.addr, rw := all64
     write := some fun v => cfg fun x => { x with addr := fld v 3 45 * 8 } },
   { base := at0 + 0x18, value := s.queueStat q },
   { base := at0 + 0x20, size := 8, value := x.msiAddr, rw := all64
     write := some fun v => cfg fun x => { x with msiAddr := fld v 2 46 * 4 } },
   { base := at0 + 0x28, value := x.msiData, write := some fun v => cfg fun x => { x with msiData := fld v 0 32 } }]

/-- The registers of port `p`. -/
def State.portRegs (s : State) (p : Nat) : List Reg :=
  let x := tget {} s.pts.ports p
  [{ base := 0x3000 + 16 * p
     value := pack [(0, b2n (s.portEnabled p)), (1, b2n x.defaultEn), (2, x.defaultQ)]
     write := some fun v => s.modPort p fun x => { x with defaultEn := bit v 1, defaultQ := fld v 2 5 } },
   { base := 0x3008 + 16 * p, size := 8, value := pack [(0, x.rxFrames), (32, x.rxErrors), (48, x.txDrops)]
     write := some fun v => s.modPort p fun x =>
       { x with rxErrors := onesClear x.rxErrors v 32 16, txDrops := onesClear x.txDrops v 48 16 } }]

/-- A write of PTS_ENTRY_CMD (R343). -/
def State.entryCmd (s : State) (path v : Nat) : State :=
  let s := if bit v 0 then ran (execCommit path (bit v 2) s) s
    else if bit v 2 then ran (execResetCount path s) s else s
  if bit v 1 then ran (execEntryRead path s) s else s

/-- The PTS block. -/
def State.ptsRegs (s : State) (c : RegCtx) (o : Nat) : List Reg :=
  let p := s.pts
  let i := tget 0 p.entrySel c.path
  [{ base := 0x00, value := pack [(0, (p.entries.filter fun e => bit (byteAt e.2 0x22) 0).length), (14, b2n p.rejected)]
     write := some fun v => s.modPts fun p => { p with rejected := p.rejected && !(bit v 14) } },
   { base := 0x08, value := i
     write := some fun v => s.modPts fun p => { p with entrySel := tset p.entrySel c.path (fld v 0 12) } },
   { base := 0x0C, write := some fun v => s.entryCmd c.path v },
   { base := 0x10, value := s.arrivalCount i },
   { base := 0x18, size := 8, value := pack [(0, p.noRoute), (16, p.qFull), (32, p.egressFull), (48, p.formatDrops)]
     write := some fun v => s.modPts fun p =>
       { p with
         noRoute := onesClear p.noRoute v 0 16, qFull := onesClear p.qFull v 16 16
         egressFull := onesClear p.egressFull v 32 16, formatDrops := onesClear p.formatDrops v 48 16 } }]
    ++ bytesReg 0x40 (slice (tget [] p.entryData c.path) 0 64) o
    ++ (if 0x1000 ≤ o ∧ o < 0x3000 then bytesReg (o / 32 * 32) (s.profile ((o - 0x1000) / 32)) o else [])
    ++ (if 0x3000 ≤ o ∧ o < 0x3400 then s.portRegs ((o - 0x3000) / 16) else [])
    ++ (if 0x4000 ≤ o ∧ o < 0x4800 then s.queueRegs ((o - 0x4000) / 64) (o / 64 * 64) else [])
    ++ s.blockPmu 85 o

end Sys2Proof.Machine
end

