-- ==== Sys2Proof/Machine/Registers.lean ====
section
/-! DEFINITION. Accesses of the control bus: the block map, paths and selectors, the unprivileged window, and the gateway
(R293, R365, R366, R369, R380, R480 to R485). -/

namespace Sys2Proof.Machine

/-! ### The block map (R481) -/

/-- A block of the control bus. -/
inductive Blk where
  | sup | ilk | hdw | tmt | pwr
  | aqd (r : Nat)
  | stm | sbx | ttb | kvc | slc
  | bsn (n : Nat)
  | bank (block : Nat)
  | jct | mwl
  | rts (i : Nat)
  | ftn | pts
  deriving DecidableEq, Repr

/-- The block at an offset of the privileged view, and the offset in it; none where no block lies. -/
def blockAt (o : Nat) : Option (Blk × Nat) :=
  let p := o % 0x1000
  if o < 0x1000 then some (.sup, p)
  else if o < 0x2000 then some (.ilk, p)
  else if o < 0x3000 then some (.hdw, p)
  else if o < 0x4000 then some (.tmt, p)
  else if o < 0x5000 then some (.pwr, p)
  else if o < 0x10000 then none
  else if o < 0x20000 then some (.aqd ((o - 0x10000) / 0x1000), p)
  else if o < 0x40000 then some (.stm, o - 0x20000)
  else if o < 0x60000 then some (.sbx, o - 0x40000)
  else if o < 0x80000 then none
  else if o < 0x100000 then some (.ttb, o - 0x80000)
  else if o < 0x140000 then some (.kvc, o - 0x100000)
  else if o < 0x180000 then some (.slc, o - 0x140000)
  else if o < 0x1C0000 then some (.bsn ((o - 0x180000) / 0x1000), p)
  else if o < 0x200000 then some (.bank ((o - 0x1C0000) / 0x1000), p)
  else if o < 0x208000 then some (.bank (64 + (o - 0x200000) / 0x1000), p)
  else if o < 0x20A000 then some (.jct, o - 0x208000)
  else if o < 0x20C000 then some (.mwl, o - 0x20A000)
  else if o < 0x20E000 then some (.rts ((o - 0x20C000) / 0x1000), p)
  else if o < 0x20F000 then some (.ftn, p)
  else if 0x210000 ≤ o ∧ o < 0x218000 then some (.pts, o - 0x210000)
  else none

/-- The clock domain of a block that can be off while the control bus runs; none for the others. -/
def Blk.domain : Blk → Option Nat
  | .bsn n => some (n / 8 + 1)
  | .rts i => some (67 + i)
  | .ftn => some 70
  | .pts => some 69
  | _ => none

/-- A block whose domain is OFF or CLOCK_STOP does not answer for itself (R480). -/
def State.blockAnswers (s : State) (b : Blk) : Bool :=
  match b.domain with
  | some d => (s.clock d).state != .off && (s.clock d).state != .clockStop
  | none => true

/-- The registers of a block, at least those that an offset names. -/
def State.blockRegs (s : State) (c : RegCtx) (b : Blk) (o : Nat) (hartsStopped : Bool) : List Reg :=
  match b with
  | .sup => s.supRegs
  | .ilk => s.ilkRegs o
  | .hdw => s.hdwRegs c
  | .tmt => s.tmtRegs c o
  | .pwr => s.pwrRegs c o
  | .aqd r => s.blockPmu (64 + r) o
  | .stm => s.stmRegs o
  | .sbx => s.sbxRegs c o ++ s.blockPmu 80 o
  | .ttb => s.ttbRegs c o ++ s.blockPmu 81 o
  | .kvc => s.kvcRegs o ++ s.blockPmu 82 o
  | .slc => s.slcRegs c o hartsStopped
  | .bsn n => s.bsnRegs n
  | .bank k => s.bankBlockRegs c k o
  | .jct => s.jctRegs o
  | .mwl => s.mwlRegs o
  | .rts i => s.rtsRegs i o
  | .ftn => s.ftnRegs o
  | .pts => s.ptsRegs c o

/-- The register at an offset. -/
def regAt (l : List Reg) (o : Nat) : Option Reg := l.find? fun r => r.base ≤ o && o < r.base + r.size

/-- The monitor whose registers lie at an offset of a block (R88, R489). -/
def monitorAt (b : Blk) (o : Nat) : Option Nat :=
  let at800 (m : Nat) : Option Nat := if 0x800 ≤ o ∧ o < 0x860 then some m else none
  match b with
  | .aqd r => at800 (64 + r)
  | .sbx => at800 80
  | .ttb => at800 81
  | .kvc => at800 82
  | .rts i => at800 (83 + i)
  | .pts => at800 85
  | .jct => at800 86
  | .mwl => at800 87
  | .bank k => if 64 ≤ k then at800 (88 + (k - 64)) else none
  | .bsn n => if 0x100 ≤ o ∧ o < 0x160 then some n else none
  | _ => none

/-- An access to a monitor's registers finds its counters as far as they have gone. -/
def State.countAt (s : State) (m : Option Nat) : State :=
  match m with
  | some m => s.countOn m
  | none => s

/-! ### Byte strings that software writes (R215, R343, R344, R367, R371, R399) -/

/-- An encapsulation profile with its RES fields 0 (R5, R345). -/
def profileFields (p : Bytes) : Bytes :=
  leBytes 1 (byteAt p 0 % 4) ++ slice p 1 7 ++ leBytes 2 (le p 8 2 % 2 ^ 15) ++ zeros 6 ++ slice p 0x10 8 ++ zeros 8

/-- A write to a slot or record that the block keeps as bytes; none where the offset names no such bytes. -/
def State.slotWrite (s : State) (c : RegCtx) (b : Blk) (o : Nat) (bs : Bytes) : Option State :=
  match b with
  | .stm => if 0x100 ≤ o ∧ o < 0x180 then some (s.mboxWrite c.tag (o - 0x100) bs) else none
  | .slc =>
    if o < 0x20 then
      some (if o = 0x18 ∧ bs.length = 8 then ran (execPageReqTake c.tag bs s) s
        else { s with slc := { s.slc with pageSlot := patch (slice s.slc.pageSlot 0 32) o bs }, resp := { kind := .data } })
    else if 0x20000 ≤ o ∧ o < 0x20000 + 0x400 * 26 then
      let r := (o - 0x20000) / 32
      let e := patch (regionBytes (s.region (r / 32) (r % 32))) (o % 32) bs
      some { ran (execRegionEntryWrite c.tag (r / 32) (r % 32) e s) s with resp := { kind := .data } }
    else none
  | .kvc =>
    if 0x10000 ≤ o ∧ o < 0x14000 then
      some { s.kvRecordWrite ((o - 0x10000) / 64) (o % 64) bs with resp := { kind := .data } }
    else none
  | .pts =>
    if 0x40 ≤ o ∧ o < 0x80 then
      let d := patch (slice (tget [] s.pts.entryData c.path) 0 64) (o - 0x40) bs
      some { s.modPts fun p => { p with entryData := tset p.entryData c.path d } with resp := { kind := .data } }
    else if 0x1000 ≤ o ∧ o < 0x3000 then
      let n := (o - 0x1000) / 32
      some { s.modPts fun p => { p with profiles := tset p.profiles n (profileFields (patch (s.profile n) (o % 32) bs)) } with
        resp := { kind := .data } }
    else none
  | _ => none

/-! ### Reading and writing registers (R480) -/

/-- One register takes a write of `size` bytes at an offset within it. -/
def Reg.take (r : Reg) (o size v : Nat) (s : State) : State :=
  match r.write with
  | none => s
  | some f =>
    if r.size = 4 ∨ size = 8 then f v
    else if o = r.base then f ((r.value &&& r.rw) / 2 ^ 32 * 2 ^ 32 + v)
    else f ((r.value &&& r.rw) % 2 ^ 32 + v * 2 ^ 32)

/-- A 4-byte read over a path: the low half of a 64-bit register latches its high half, which the next read of the high
half over the path returns. -/
def State.readHalf (s : State) (l : List Reg) (path o : Nat) : Nat × State :=
  match regAt l o with
  | none => (0, s)
  | some r =>
    let t := r.after.getD s
    if r.size = 4 then (r.value, t)
    else if o = r.base then
      (r.value % 2 ^ 32, { t with highLatch := tset t.highLatch path (o + 4, r.value / 2 ^ 32 % 2 ^ 32) })
    else
      match tfind s.highLatch path with
      | some e =>
        if e.1 = o then (e.2, { s with highLatch := tdel s.highLatch path }) else (r.value / 2 ^ 32 % 2 ^ 32, s)
      | none => (r.value / 2 ^ 32 % 2 ^ 32, s)

/-- A read of 4 or 8 bytes; `regs` gives the registers at an offset in a state. -/
def State.readRegs (s : State) (regs : State → Nat → List Reg) (path o len : Nat) : Nat × State :=
  if len = 4 then s.readHalf (regs s o) path o
  else
    match regAt (regs s o) o with
    | some r =>
      if r.size = 8 then (r.value % 2 ^ 64, r.after.getD s)
      else
        let a := s.readHalf (regs s o) path o
        let b := a.2.readHalf (regs a.2 (o + 4)) path (o + 4)
        (a.1 + b.1 * 2 ^ 32, b.2)
    | none =>
      let b := s.readHalf (regs s (o + 4)) path (o + 4)
      (b.1 * 2 ^ 32, b.2)

/-- A write of 4 bytes to the register at an offset; an offset that names no register ignores it. -/
def State.writeHalf (s : State) (l : List Reg) (o size v : Nat) : State :=
  match regAt l o with
  | some r => r.take o size v s
  | none => s

/-- A write of 4 or 8 bytes: two 4-byte registers take their halves in ascending order. -/
def State.writeRegs (s : State) (regs : State → Nat → List Reg) (o len v : Nat) : State :=
  if len = 4 then s.writeHalf (regs s o) o 4 v
  else
    match regAt (regs s o) o with
    | some r =>
      if r.size = 8 then r.take o 8 v s
      else
        let t := r.take o 4 (v % 2 ^ 32) s
        t.writeHalf (regs t (o + 4)) (o + 4) 4 (v / 2 ^ 32)
    | none => s.writeHalf (regs s (o + 4)) (o + 4) 4 (v / 2 ^ 32)

/-- The access has a size and an alignment of the control bus (R480). -/
def busShape (o len : Nat) : Bool := (len == 4 || len == 8) && o % len == 0

/-- An error response. -/
def State.refuse (s : State) : State := { s with resp := { kind := .error } }
/-- A write acknowledged. -/
def State.acked (s : State) : State := { s with resp := { kind := .data } }

/-- Registers moved to another place. -/
def moveRegs (base : Nat) (l : List Reg) : List Reg := l.map fun r => { r with base := r.base + base }

/-- The registers of a block that answers. -/
def State.answeringRegs (s : State) (c : RegCtx) (b : Blk) (hartsStopped : Bool) (q : Nat) : List Reg :=
  if s.blockAnswers b then s.blockRegs c b q hartsStopped else []

/-- The offset lies in a selector register, or in what a path's own copy of one holds (R482). -/
def Blk.selector : Blk → Nat → Bool
  | .sbx, o => o / 8 == 4
  | .ttb, o => o / 8 == 4
  | .hdw, o => o / 8 == 0
  | .tmt, o => o / 8 == 6 || o / 8 == 9
  | .pts, o => o / 8 == 1 || o / 64 == 1
  | .pwr, o => o / 8 == 0x11
  | .slc, o => o / 8 == 8
  | _, _ => false

/-- A path may write at an offset of a block: the Interlocking has no write path to the configuration of any other block,
and writes only its own copies of the selectors (R16, R17, R482). -/
def RegCtx.mayWrite (c : RegCtx) (b : Blk) (o : Nat) : Bool := c.path != 2 || b.selector o

/-- A write in the privileged view: to a slot or record of the block, or else to its registers. -/
def State.privWrite (s : State) (c : RegCtx) (b : Blk) (p len : Nat) (bs : Bytes) (hartsStopped : Bool) : State :=
  (if s.blockAnswers b then s.slotWrite c b p bs else none).getD
    (s.writeRegs (fun t q => t.answeringRegs c b hartsStopped q) p len (leNat bs)).acked

/-- A read in the privileged view; `base` is where the block stands. -/
def State.privRead (s : State) (c : RegCtx) (b : Blk) (base p len : Nat) (hartsStopped : Bool) : State :=
  let r := s.readRegs (fun t q => moveRegs base (t.answeringRegs c b hartsStopped (q - base))) c.path (base + p) len
  { r.2 with resp := { kind := .data, bytes := leBytes len r.1 } }

/-- An access of the privileged view. -/
def State.privAccess (s : State) (c : RegCtx) (o len : Nat) (write : Bool) (data : Bytes) (hartsStopped : Bool) : State :=
  if !(busShape o len) then s.refuse
  else
    match blockAt o with
    | none => s.refuse
    | some (b, p) =>
      let s := s.countAt (monitorAt b p)
      if write then (if c.mayWrite b p then s.privWrite c b p len (slice data 0 len) hartsStopped else s.acked) else s.privRead c b (o - p) p len hartsStopped

/-! ### The unprivileged window (R483, R485) -/

/-- A register as the window shows it, at another offset, read-only unless `rw`. -/
def Reg.shown (r : Reg) (at0 : Nat) (rw : Bool) : Reg :=
  { r with base := at0, write := if rw then r.write else none }

/-- The registers of a list at chosen offsets, moved to a window's: (offset in the block, offset in the window). -/
def pickRegs (l : List Reg) (m : List (Nat × Nat)) : List Reg :=
  m.filterMap fun e => (l.find? fun r => r.base == e.1).map fun r => r.shown e.2 false

/-- The physical Basin behind a virtual Basin of a Consist while a rank of the Consist is bound to it and its template
sets PMU_VIRT (R485). -/
def State.virtualBasin (s : State) (k v : Nat) : Option Nat :=
  let x := s.consist k
  if v < x.basinCap && x.pmuVirt then
    match tfind x.binding v with
    | some n => if (s.basin n).bound && (s.ctx (s.basin n).context).consist == k then some n else none
    | none => none
  else none

/-- The TTB area of the window. -/
def State.windowTtb (s : State) (c : RegCtx) (k q : Nat) : List Reg :=
  let x := s.consist k
  let g := tget 0 s.ttb.grpSel c.path
  let n := (q - 0x800) / 64
  s.cstShared k 0 ++ s.cstCounts k 0 true
    ++ [{ base := 0x04, value := s.leaseRemain k * 65536 },
      { base := 0x100, value := g
        write := some fun v => { s with ttb := { s.ttb with grpSel := tset s.ttb.grpSel c.path (fld v 0 12) } } },
      { base := 0x108, size := 8
        value := if g < x.shareGroups then min (s.groupAt (x.firstGroup + g)).usage (2 ^ 64 - 1) else 0 }]
    ++ if 0x800 ≤ q ∧ n < x.slowRows then bytesReg (q / 64 * 64) (s.slowBytes (x.firstSlowRow + n)) q else []

/-- The KVC area of the window. -/
def State.windowKvc (s : State) (k q : Nat) : List Reg :=
  let n := (q - 0x100) / 16
  [{ base := 0x40, value := s.kvReqStat k }]
    ++ if 0x100 ≤ q ∧ n < 256 ∧ (s.kvSpace n).valid ∧ (s.kvSpace n).ownerTag = s.consistTag k then
      s.kvStatRegs n (q / 16 * 16) true else []

/-- The RTS area of the window: the instance that the Consist owns. -/
def State.windowRts (s : State) (k i : Nat) : List Reg :=
  if i < 2 && s.blockAnswers (.rts i) && !(s.rtsAt i).noOwner && (s.rtsAt i).owner == s.consistTag k then
    moveRegs (0x9000 + 0x100 * i) (s.rtsShared i true) else []

/-- The PTS area of the window: the queues that the Consist owns. -/
def State.windowPts (s : State) (k q : Nat) : List Reg :=
  if q < 32 && s.blockAnswers .pts && (s.ptsQueue q).ownerTag == s.consistTag k then
    [{ base := 0xA018 + 64 * q, value := s.queueStat q }] else []

/-- The SBX area of the window: the rings that the Consist owns. -/
def State.windowRing (s : State) (k n at0 : Nat) : List Reg :=
  if n ≥ 16 && (s.ring n).ownerTag == s.consistTag k then
    (s.ringRegs n at0 true).filter fun r => at0 + 0x18 ≤ r.base else []

/-- The Basin area of the window: the counters of the physical Basin behind a virtual one (R485). -/
def State.windowBasin (s : State) (k v : Nat) : List Reg :=
  match s.virtualBasin k v with
  | some n => if s.blockAnswers (.bsn n) then moveRegs (0x20000 + 0x1000 * v) (s.pmuRegs n 0x100 true) else []
  | none => []

/-- The registers of the window of Consist `k`, each at its offset in the window. -/
def State.windowRegs (s : State) (c : RegCtx) (k o : Nat) : List Reg :=
  if o < 0x1000 then s.tmtShared c
  else if o < 0x6000 then moveRegs 0x1000 (s.windowTtb c k (o - 0x1000))
  else if o < 0x8000 then moveRegs 0x6000 (s.windowKvc k (o - 0x6000))
  else if o < 0x9000 then pickRegs (s.mwlRegs 8) [(8, 0x8008)]
  else if o < 0xA000 then s.windowRts k ((o - 0x9000) / 0x100)
  else if o < 0xB000 then s.windowPts k ((o - 0xA000) / 64)
  else if o < 0x10000 then []
  else if o < 0x20000 then s.windowRing k ((o - 0x10000) / 64) (o / 64 * 64)
  else if o < 0x60000 then s.windowBasin k ((o - 0x20000) / 0x1000)
  else []

/-- The monitor that an offset of the window shows (R485). -/
def State.windowMonitor (s : State) (k o : Nat) : Option Nat :=
  if 0x20000 ≤ o ∧ o < 0x60000 then
    match s.virtualBasin k ((o - 0x20000) / 0x1000) with
    | some n => monitorAt (.bsn n) ((o - 0x20000) % 0x1000)
    | none => none
  else none

/-- An access of the window of Consist `k` (R483): KVC_REQ is a slot, everything else registers. -/
def State.windowAccess (s : State) (c : RegCtx) (k o len : Nat) (write : Bool) (data : Bytes) : State :=
  let bs := slice data 0 len
  if !(busShape o len) then s.refuse
  else if write then
    if 0x6000 ≤ o ∧ o < 0x6040 then
      (if o = 0x6038 ∧ len = 8 then ran (execKvcReqTake k bs s) s
        else
          let q := s.kvQueue k
          s.modKvc fun m => { m with queues := tset m.queues k { q with slot := patch (slice q.slot 0 64) (o - 0x6000) bs } }).acked
    else ((s.countAt (s.windowMonitor k o)).writeRegs (fun t q => t.windowRegs c k q) o len (leNat bs)).acked
  else
    let r := (s.countAt (s.windowMonitor k o)).readRegs (fun t q => t.windowRegs c k q) c.path o len
    { r.2 with resp := { kind := .data, bytes := leBytes len r.1 } }

/-! ### The gateway and the other paths (R365, R366, R369, R380, R482) -/

/-- An access that Sluice 29 has granted reaches the view that its target address names (R380). -/
def State.gateAccess (s : State) (acc : Access) (hartsStopped : Bool) : State :=
  if acc.addr < windowBase then
    s.privAccess { path := 3, tag := acc.tag } (acc.addr - ctlBase) acc.len acc.write acc.data hartsStopped
  else
    let k := consistOf acc.tag
    s.windowAccess { path := 4 + k, tag := acc.tag } k (acc.addr - windowBase) acc.len acc.write acc.data

/-- What a granted access does at its target: memory and banks take it, the control bus answers it, and an access to a
far side waits for the block that carries it. -/
def State.grantedAccess (s : State) (acc : Access) (hartsStopped : Bool) : State :=
  match s.target acc.addr with
  | .ctlPriv => s.gateAccess acc hartsStopped
  | .ctlWindow => s.gateAccess acc hartsStopped
  | .fabric => { s with resp := { kind := .held } }
  | .ecam _ => { s with resp := { kind := .held } }
  | .outbound _ => { s with resp := { kind := .held } }
  | .mawyn =>
    if s.windowLets (apertureOf acc.addr) acc.len acc.write && (s.windowPort (apertureOf acc.addr).1).isSome then s.aperture acc
    else s.answerError acc.origin .denied
  | _ => s.carry acc

/-- A Sluice meets an access (R365, R366, R369): a disagreement of its copies is the cause CHECKER_MISMATCH, and an owner
entry that cannot be read is reported. -/
def State.sluiceAccess (s : State) (acc : Access) (hartsStopped : Bool) : State :=
  match s.verdict acc with
  | .grant => s.grantedAccess acc hartsStopped
  | .deny 7 => (s.access acc).latch 2 (0x100 + acc.sluice)
  | .deny 5 => (s.access acc).report 5 acc.sluice (acc.addr / 4096)
  | _ => s.access acc

/-- An access of an application hart (R19, R375, R386): it carries the hart's own tag, and meets the caches where it is cached
and its target is memory. -/
def State.hartAccess (s : State) (u : CoreUse) (acc : Access) (hartsStopped : Bool) : State :=
  let tag := s.coreTag u.hart u.level
  let s := s.modHart u.hart fun x => { x with tag := tag }
  let memory := match s.target acc.addr with
    | .dram _ => true
    | .pool _ => true
    | .reservoir _ => true
    | _ => false
  let own := { acc with tag := tag, fromCore := true }
  match u.op with
  | .uncached => s.sluiceAccess own hartsStopped
  | .cached => if memory then s.cachedAccess tag acc.addr acc.len acc.write acc.data else s.sluiceAccess own hartsStopped
  | .clean => s.maintain acc.addr acc.len true false
  | .flush => s.maintain acc.addr acc.len true true
  | .inval => s.maintain acc.addr acc.len false true

/-- SLUICE_ACCESS (R365): of a requester with a tag of its own, or of an application hart. -/
def execSluiceAccess (acc : Access) (hartsStopped : Bool) (s : State) : Out :=
  act s fun s =>
    match acc.core with
    | some u => s.hartAccess u acc hartsStopped
    | none => s.sluiceAccess acc hartsStopped

/-- The stream tag of a path of its own: the supervisor port, the Stationmaster, the Interlocking (R482). -/
def State.pathTag (s : State) (path : Nat) : Nat := if path = 0 then bulkTag else if path = 1 then s.stmTag else s.ilkTag

/-- An access over a path of its own (R380, R482): it always sees the privileged view. -/
def State.pathAccess (s : State) (path addr len : Nat) (write : Bool) (data : Bytes) (hartsStopped : Bool) : State :=
  if addr < ctlBase ∨ ctlBase + 0x800000 ≤ addr then s.refuse
  else s.privAccess { path := path, tag := s.pathTag path } (addr - ctlBase) len write data hartsStopped

/-- A write of a custom CSR of a hart (R386): hstag from M alone, vstag from HS and M; the others are read-only. -/
def State.csrWrite (s : State) (hart number level value : Nat) : State :=
  if number = 0x7C1 ∧ level = 3 then s.modHart hart fun h => { h with hstag := fld value 0 12 }
  else if number = 0x6C0 ∧ (level = 1 ∨ level = 3) then s.modHart hart fun h => { h with vstag := fld value 0 12 }
  else s

/-- REGISTER_WRITE (R480, R482, R386): a write of the control bus over a path, or of a hart's CSR. -/
def execRegisterWrite (target : RegTarget) (s : State) : Out :=
  act s fun s =>
    match target with
    | .bus path requester addr size value hartsStopped =>
      let data := leBytes size value
      let acc : Access := { sluice := 29, addr := addr, len := size, write := true, data := data }
      if path < 3 then s.pathAccess path addr size true data hartsStopped
      else
        match requester with
        | .tag t => s.sluiceAccess { acc with tag := t } hartsStopped
        | .hart h level => s.hartAccess { hart := h, level := level } acc hartsStopped
    | .csr hart number level value => s.csrWrite hart number level value

end Sys2Proof.Machine
end

