-- ==== Sys2Proof/Machine/Geometry.lean ====
section
/-! DEFINITION. The Routesetter's collision test and wavefront field (R241, R247). The spec states no precision for the
test: it is decided exactly over the values of the formats, with cosine, sine and square root open. -/

namespace Sys2Proof.Machine

open Sys2Proof.Config (RouteInput RoutePose)

/-- A finite value as a rational; other values count as 0, after their own check. -/
def fpRat : Fp → Rat
  | .num neg m e =>
    let v : Rat := if 0 ≤ e then ((m * 2 ^ e.toNat : Nat) : Rat) else mkRat m (2 ^ (-e).toNat)
    if neg then -v else v
  | _ => 0

/-- An FP32 value as a rational. -/
def q32 (v : Nat) : Rat := fpRat (dec32 v)
/-- An FP16 value as a rational. -/
def q16 (v : Nat) : Rat := fpRat (dec16 true v)

/-- π, to 75 decimals. -/
def piRat : Rat :=
  mkRat 3141592653589793238462643383279502884197169399375105820974944592307816406286 (10 ^ 75)

/-- The heading index nearest to an angle (R233). -/
def headingIndex (h : Nat) : Nat := ((q32 h * 64 / (2 * piRat) + mkRat 1 2).floor % 64).toNat

/-- The larger of two rationals. -/
def maxRat (a b : Rat) : Rat := if a ≤ b then b else a
/-- The absolute value of a rational. -/
def absRat (a : Rat) : Rat := if a < 0 then -a else a

/-! ### Descriptor, vehicle file and cost map (R232, R242) -/

/-- Grid width. -/
def rtsW (d : Bytes) : Nat := fld (le d 0x44 2) 0 10 + 1
/-- Grid height. -/
def rtsH (d : Bytes) : Nat := fld (le d 0x46 2) 0 10 + 1
/-- COST_PLANES. -/
def rtsPlanes (d : Bytes) : Nat := byteAt d 0x48
/-- CELL_M. -/
def rtsCell (d : Bytes) : Rat := q32 (le d 0x40 4)
/-- A cost-map value as the job sees it: 255 is lethal (R242). -/
def mapCost (d map : Bytes) (plane x y : Nat) : Nat :=
  let v := byteAt map ((plane * rtsH d + y) * rtsW d + x)
  if v = 254 then (if bit (byteAt d 1) 1 then 255 else 253) else v

/-- The grid cell of a point; none outside the grid. -/
def rtsCellOf (d : Bytes) (x y : Nat) : Option (Nat × Nat) :=
  let cx := ((q32 x - q32 (le d 0x38 4)) / rtsCell d).floor
  let cy := ((q32 y - q32 (le d 0x3C 4)) / rtsCell d).floor
  if 0 ≤ cx ∧ cx < rtsW d ∧ 0 ≤ cy ∧ cy < rtsH d then some (cx.toNat, cy.toNat) else none

/-! ### The collision test (R241) -/

/-- A point of space. -/
structure Vec3 where
  /-- x. -/
  x : Rat
  /-- y. -/
  y : Rat
  /-- z. -/
  z : Rat

/-- Difference. -/
def Vec3.sub (a b : Vec3) : Vec3 := { x := a.x - b.x, y := a.y - b.y, z := a.z - b.z }
/-- Scalar product. -/
def Vec3.dot (a b : Vec3) : Rat := a.x * b.x + a.y * b.y + a.z * b.z
/-- a + t × b. -/
def Vec3.along (a b : Vec3) (t : Rat) : Vec3 := { x := a.x + t * b.x, y := a.y + t * b.y, z := a.z + t * b.z }

/-- The squared distance of a point from a segment. -/
def segDistSq (p a b : Vec3) : Rat :=
  let ab := b.sub a
  let n := ab.dot ab
  let t := if n = 0 then 0 else (p.sub a).dot ab / n
  let t := if t < 0 then 0 else if 1 < t then 1 else t
  let d := p.sub (a.along ab t)
  d.dot d

/-- The squared distance of a point from a triangle: that of its foot where it falls inside, else of the nearest edge. -/
def triDistSq (p a b c : Vec3) : Rat :=
  let u := b.sub a
  let v := c.sub a
  let w := p.sub a
  let den := u.dot u * v.dot v - u.dot v * u.dot v
  let s := if den = 0 then -1 else (v.dot v * w.dot u - u.dot v * w.dot v) / den
  let t := if den = 0 then -1 else (u.dot u * w.dot v - u.dot v * w.dot u) / den
  if 0 ≤ s ∧ 0 ≤ t ∧ s + t ≤ 1 then
    let d := p.sub ((a.along u s).along v t)
    d.dot d
  else
    let x := segDistSq p a b
    let y := segDistSq p b c
    let z := segDistSq p c a
    let m := if x ≤ y then x else y
    if m ≤ z then m else z

/-- An ego sphere: centre in the body frame, radius, and its bytes. -/
def egoSphere (vehicle : Bytes) (i : Nat) : Bytes := slice vehicle (64 + 16 * i) 16

/-- SPHERES of a vehicle file. -/
def vehSpheres (v : Bytes) : Nat := byteAt v 6

/-- The centre of an ego sphere at a pose. -/
def sphereAt (sp : Bytes) (q : RoutePose) : Vec3 :=
  let c := q32 (Config.cosine q.h).toNat
  let s := q32 (Config.sine q.h).toNat
  let x := q32 (le sp 0 4)
  let y := q32 (le sp 4 4)
  { x := q32 q.x + c * x - s * y, y := q32 q.y + s * x + c * y, z := q32 (le sp 8 4) }

/-- START_DT_NS × 10⁻⁹ + t (R241). -/
def planTime (d : Bytes) (q : RoutePose) : Rat :=
  mkRat (toSigned 32 (le d 0x1C 4)) 1000000000 + q32 q.t

/-- A sphere meets a dynamic primitive at its position at the pose's time. -/
def meetsPrim (d : Bytes) (q : RoutePose) (c : Vec3) (r : Rat) (p : Bytes) : Bool :=
  let t := planTime d q
  let o : Vec3 :=
    { x := q32 (le p 8 4) + q16 (le p 0x1C 2) * t, y := q32 (le p 0x0C 4) + q16 (le p 0x1E 2) * t, z := q32 (le p 0x10 4) }
  let e := c.sub o
  let hx := q16 (le p 0x14 2)
  if byteAt p 0 = 1 then decide (e.dot e ≤ (r + hx) * (r + hx))
  else
    let yaw := enc32 (dec16 true (le p 0x1A 2))
    let cs := q32 (Config.cosine yaw).toNat
    let sn := q32 (Config.sine yaw).toNat
    let out (v h : Rat) : Rat := maxRat (absRat v - h) 0
    let u : Vec3 :=
      { x := out (cs * e.x + sn * e.y) hx, y := out (cs * e.y - sn * e.x) (q16 (le p 0x16 2))
        z := out e.z (q16 (le p 0x18 2)) }
    decide (u.dot u ≤ r * r)

/-- A vertex of a triangle record. -/
def vertex (t : Bytes) (i : Nat) : Vec3 :=
  { x := q32 (le t (12 * i) 4), y := q32 (le t (12 * i + 4) 4), z := q32 (le t (12 * i + 8) 4) }

/-- A sphere meets a static triangle. -/
def meetsTri (c : Vec3) (r : Rat) (t : Bytes) : Bool :=
  decide (triDistSq c (vertex t 0) (vertex t 1) (vertex t 2) ≤ r * r)

/-- A sphere meets a lethal cell of the cost map, in the plane of the pose's heading. -/
def meetsCell (d map : Bytes) (q : RoutePose) (c : Vec3) (r : Rat) : Bool :=
  let plane := if rtsPlanes d = 64 then headingIndex q.h else 0
  let cell := rtsCell d
  map != [] && (List.range (rtsW d)).any fun x => (List.range (rtsH d)).any fun y =>
    mapCost d map plane x y == 255 &&
      let lo (o : Nat) (k : Nat) : Rat := q32 (le d o 4) + (k : Rat) * cell
      let out (v a : Rat) : Rat := if v < a then a - v else if a + cell < v then v - (a + cell) else 0
      let dx := out c.x (lo 0x38 x)
      let dy := out c.y (lo 0x3C y)
      decide (dx * dx + dy * dy ≤ r * r)

/-- A pose is collision-free (R241); `inflate` gives each ego sphere's inflation. -/
def poseFree (w : RouteInput) (q : RoutePose) (inflate : Bytes → Rat) : Bool :=
  (List.range (vehSpheres w.vehicle)).all fun i =>
    let sp := egoSphere w.vehicle i
    let c := sphereAt sp q
    let r := q32 (le sp 12 4) + inflate sp
    !((List.range (w.prims.length / 32)).any fun k => meetsPrim w.desc q c r (slice w.prims (32 * k) 32))
      && !((List.range (w.tris.length / 48)).any fun k => meetsTri c r (slice w.tris (48 * k) 48))
      && !(meetsCell w.desc w.map q c r)

/-- The distance between two poses, by the open square root. -/
def poseDist (a b : RoutePose) : Rat :=
  let dx := fpAdd (dec32 b.x) (fpNeg (dec32 a.x))
  let dy := fpAdd (dec32 b.y) (fpNeg (dec32 a.y))
  q32 (Config.root (enc32 (fpAdd (fpMul dx dx) (fpMul dy dy)))).toNat

/-- The heading change between two poses, at most π. -/
def headingGap (a b : RoutePose) : Rat :=
  let v := q32 b.h - q32 a.h
  absRat (v - 2 * piRat * ((v / (2 * piRat) + mkRat 1 2).floor : Rat))

/-- The inflation of a sphere for one pair of adjacent poses: (d + |c| × Δθ) / 2. -/
def inflation (a b : RoutePose) (sp : Bytes) : Rat :=
  let sq (o : Nat) : Fp := fpMul (dec32 (le sp o 4)) (dec32 (le sp o 4))
  let c := q32 (Config.root (enc32 (fpAdd (fpAdd (sq 0) (sq 4)) (sq 8)))).toNat
  (poseDist a b + c * headingGap a b) / 2

/-- The steps that a motion is checked in (R241): each at most CHECK_STEP long, and at most one heading index. -/
def motionSteps (d : Bytes) (a b : RoutePose) : Nat :=
  let dx := q32 b.x - q32 a.x
  let dy := q32 b.y - q32 a.y
  let step := q16 (le d 0x4A 2)
  let m := ((dx * dx + dy * dy) / (step * step)).ceil.toNat
  let byDist := if m = 0 then 0 else Nat.sqrt (m - 1) + 1
  max 1 (max byDist (headingGap a b * 64 / (2 * piRat)).ceil.toNat)

/-- The poses of a trajectory that are checked, each with the index of the given pose that it leads to. -/
def checkedPoses (d : Bytes) (ps : List RoutePose) : List (Nat × RoutePose) :=
  ((List.range ps.length).map fun i =>
    let q := ps.getD i {}
    let a := ps.getD (i - 1) {}
    let n := motionSteps d a q
    (if i = 0 then [] else (List.range (n - 1)).map fun k => (i, Config.motionPose a q n (k + 1))) ++ [(i, q)]).flatten

/-- Checked pose `k` is collision-free; each sphere is inflated for the longer of the two steps that the pose ends. -/
def checkedFree (w : RouteInput) (l : List (Nat × RoutePose)) (k : Nat) : Bool :=
  let at_ (i : Nat) : RoutePose := (l.getD i (0, {})).2
  let steps := (if k = 0 then [] else [(at_ (k - 1), at_ k)]) ++ (if k + 1 < l.length then [(at_ k, at_ (k + 1))] else [])
  poseFree w (at_ k) fun sp => (steps.map fun e => inflation e.1 e.2 sp).foldl maxRat 0

/-- The first pose of a trajectory that fails, or that a failing motion leads to; none where it is collision-free. -/
def trackFail (w : RouteInput) (ps : List RoutePose) : Option Nat :=
  let l := checkedPoses w.desc ps
  ((List.range l.length).find? fun k => !(checkedFree w l k)).map fun k => (l.getD k (0, {})).1

/-! ### The wavefront field (R247) -/

/-- cost(c): the minimum over the planes. -/
def waveCost (d map : Bytes) (k : Nat) : Nat :=
  ((List.range (rtsPlanes d)).map fun p => mapCost d map p (k % rtsW d) (k / rtsW d)).foldl min 255

/-- The neighbours of a cell, with a flag for the diagonal ones. -/
def waveNeighbours (w h k : Nat) : List (Nat × Bool) :=
  let x : Int := (k % w : Nat)
  let y : Int := (k / w : Nat)
  [(-1, -1), (0, -1), (1, -1), (-1, 0), (1, 0), (-1, 1), (0, 1), (1, 1)].filterMap fun (e : Int × Int) =>
    if 0 ≤ x + e.1 ∧ x + e.1 < w ∧ 0 ≤ y + e.2 ∧ y + e.2 < h then
      some ((y + e.2).toNat * w + (x + e.1).toNat, e.1 != 0 && e.2 != 0)
    else none

/-- The open cell with the least value, and among equals the least index. -/
def waveNext (field : Table Nat) (done : List Nat) : Option (Nat × Nat) :=
  field.foldl (fun m e =>
    if done.contains e.1 then m
    else
      match m with
      | none => some e
      | some x => if e.2 < x.2 then some e else m) none

/-- Expand up to `fuel` cells: the field and the cells in the order of their expansion, last first. -/
def waveGo (d map : Bytes) : Nat → Table Nat → List Nat → Table Nat × List Nat
  | 0, field, done => (field, done)
  | fuel + 1, field, done =>
    match waveNext field done with
    | none => (field, done)
    | some e =>
      let field := (waveNeighbours (rtsW d) (rtsH d) e.1).foldl (fun f n =>
        let c := waveCost d map n.1
        let v := e.2 + (if n.2 then 7 else 5) * (32 + c)
        if c = 255 || v ≥ tget 0xFFFFFFFF f n.1 then f else tset f n.1 v) field
      waveGo d map fuel field (e.1 :: done)

/-- The cost-to-go field of a plan job: an unreached cell holds 0xFFFF_FFFF. -/
def waveField (d map : Bytes) : Table Nat :=
  match rtsCellOf d (le d 0x20 4) (le d 0x24 4) with
  | none => []
  | some g => (waveGo d map (rtsW d * rtsH d) [(g.2 * rtsW d + g.1, 0)] []).1

/-- The start cell is reached in the field (R248). -/
def startReached (d : Bytes) (field : Table Nat) : Bool :=
  match rtsCellOf d (le d 0x10 4) (le d 0x14 4) with
  | none => false
  | some c => tget 0xFFFFFFFF field (c.2 * rtsW d + c.1) != 0xFFFFFFFF

end Sys2Proof.Machine
end

