-- ==== Sys2Proof/Machine/Search.lean ====
section
/-! DEFINITION. The Routesetter's searches (R247 to R251): the sampling searches, the lattice search and the local repair, as
functions of what R249 lets them depend on. Rounding, biarcs and times, of which the spec states no arithmetic, are open
functions of Config. -/

namespace Sys2Proof.Machine

open Sys2Proof.Config (RouteInput RoutePose RouteTrack RouteFound)

/-- The node store holds 131,072 nodes (R231). -/
def storeNodes : Nat := 131072

/-- An exact value as the planner holds it, FP32 bits. -/
def planNum (v : Rat) : Nat := (Config.planRound v).toNat
/-- An exact value as the planner compares it. -/
def planVal (v : Rat) : Rat := q32 (planNum v)
/-- The smaller of two rationals. -/
def minRat (a b : Rat) : Rat := if a ≤ b then a else b
/-- The sum of a list. -/
def sumRat (l : List Rat) : Rat := l.foldl (· + ·) 0
/-- The angle of a heading index (R233). -/
def headingAngle (h : Nat) : Rat := (h : Rat) * 2 * piRat / 64

/-- The first element of a list with the least value. -/
def argMin (f : Nat → Rat) (l : List Nat) : Option Nat :=
  (l.foldl (fun (m : Option (Nat × Rat)) k =>
    let v := f k
    match m with
    | none => some (k, v)
    | some x => if v < x.2 then some (k, v) else m) none).map (·.1)

/-! ### Motions and their costs (R247) -/

/-- A step of a motion: its length, and the pose that it ends in. -/
abbrev PlanStep : Type := Rat × RoutePose

/-- The cost of the cell of a pose, in the plane of its heading. -/
def poseCost (w : RouteInput) (q : RoutePose) : Nat :=
  match rtsCellOf w.desc q.x q.y with
  | some c => mapCost w.desc w.map (if rtsPlanes w.desc = 64 then headingIndex q.h else 0) c.1 c.2
  | none => (Config.offGridCost q).toNat

/-- The cost of a motion: Σ Δs × (1 + c / 32) over its check steps (R247). -/
def motionCost (w : RouteInput) (l : List PlanStep) : Rat :=
  sumRat (l.map fun e => e.1 * (1 + (poseCost w e.2 : Rat) / 32))

/-- The check steps of a motion given by poses (R241). -/
def stepsOf (d : Bytes) (ps : List RoutePose) : List PlanStep :=
  let l := (checkedPoses d ps).map (·.2)
  (l.zip (l.drop 1)).map fun e => (poseDist e.1 e.2, e.2)

/-- h of a pose: field(cell) × CELL_M / 160 metres (R247). -/
def planH (w : RouteInput) (field : Table Nat) (q : RoutePose) : Rat :=
  let v : Nat := match rtsCellOf w.desc q.x q.y with
    | some c => tget 0xFFFFFFFF field (c.2 * rtsW w.desc + c.1)
    | none => 0xFFFFFFFF
  planVal ((v : Rat) * rtsCell w.desc / 160)

/-- START_POSE. -/
def startPose (d : Bytes) : RoutePose := { x := le d 0x10 4, y := le d 0x14 4, h := le d 0x18 4 }
/-- GOAL_POSE. -/
def goalPose (d : Bytes) : RoutePose := { x := le d 0x20 4, y := le d 0x24 4, h := le d 0x28 4 }

/-- A pose is within GOAL_TOL_M and GOAL_TOL_RAD of the goal (R250). -/
def atGoal (d : Bytes) (q : RoutePose) : Bool :=
  decide (poseDist q (goalPose d) ≤ q16 (le d 0x2C 2)) && decide (headingGap q (goalPose d) ≤ q16 (le d 0x2E 2))

/-! ### The node store -/

/-- A search node. -/
structure PlanNode where
  /-- Its pose. -/
  pose : RoutePose := {}
  /-- Its speed level. -/
  speed : Nat := 0
  /-- Its parent's index; none for the start and for a road-map node that is not reached. -/
  parent : Option Nat := none
  /-- The motion from its parent. -/
  steps : List PlanStep := []
  /-- COST of a lattice primitive. -/
  extra : Rat := 0
  deriving DecidableEq, Repr, Inhabited

/-- The node of an index. -/
def nodeOf (ns : List PlanNode) (k : Nat) : PlanNode := ns.getD k {}
/-- The start, or a node with a parent. -/
def nodeReached (ns : List PlanNode) (k : Nat) : Bool := k == 0 || (nodeOf ns k).parent.isSome
/-- The cost of a node's own motion. -/
def PlanNode.stepCost (w : RouteInput) (n : PlanNode) : Rat := planVal (motionCost w n.steps + n.extra)

/-- The cost of a node: that of the path to it from the start, of at most `fuel` motions. -/
def costGo (w : RouteInput) (ns : List PlanNode) : Nat → Nat → Rat
  | 0, _ => 0
  | fuel + 1, k =>
    match (nodeOf ns k).parent with
    | none => 0
    | some p => planVal (costGo w ns fuel p + (nodeOf ns k).stepCost w)

/-- The cost of a node. -/
def nodeCost (w : RouteInput) (ns : List PlanNode) (k : Nat) : Rat := costGo w ns ns.length k

/-- The steps of the path from the start to a node, of at most `fuel` motions. -/
def pathGo (ns : List PlanNode) : Nat → Nat → List PlanStep
  | 0, _ => []
  | fuel + 1, k =>
    match (nodeOf ns k).parent with
    | none => []
    | some p => pathGo ns fuel p ++ (nodeOf ns k).steps

/-- The poses of a trajectory (R255): at the smallest multiple of CHECK_STEP that keeps it within 512 poses, and its end. -/
def outputPoses (w : RouteInput) (start : RoutePose) (l : List PlanStep) : List RoutePose :=
  let total := sumRat (l.map (·.1))
  let step := q16 (le w.desc 0x4A 2)
  let unit := step * ((max 1 (total / (511 * step)).ceil.toNat : Nat) : Rat)
  let n := (total / unit).ceil.toNat
  start :: (List.range n).map fun k =>
    if k + 1 = n then (l.getLastD (0, start)).2 else Config.pathPose start l (((k + 1 : Nat) : Rat) * unit)

/-- The trajectory to a node, with its cost. -/
def trackTo (w : RouteInput) (ns : List PlanNode) (k : Nat) : RouteTrack :=
  { poses := outputPoses w (nodeOf ns 0).pose (pathGo ns ns.length k), cost := planNum (nodeCost w ns k) }

/-- A list in ascending order of a value, equal ones in the order they had. -/
def orderBy (f : RouteTrack → Rat) (l : List RouteTrack) : List RouteTrack :=
  l.foldl (fun r t => r.takeWhile (fun x => decide (f x ≤ f t)) ++ t :: r.dropWhile (fun x => decide (f x ≤ f t))) []

/-- The candidates by cost (R250): the trajectories to the goal nodes, ties to the lower index, and the repaired one
(R251); at most CANDIDATES. -/
def ranked (w : RouteInput) (ns : List PlanNode) (goals : List Nat) (repaired : Option RouteTrack) : List RouteTrack :=
  (orderBy (fun t => q32 t.cost) (goals.map (trackTo w ns) ++ repaired.toList)).take (byteAt w.desc 2)

/-- The node of the best partial plan (R254): the least h, then the least cost, then the lower index. -/
def bestNode (w : RouteInput) (field : Table Nat) (ns : List PlanNode) : Nat :=
  let all := (List.range ns.length).filter (nodeReached ns)
  let h (k : Nat) : Rat := planH w field (nodeOf ns k).pose
  match argMin h all with
  | none => 0
  | some m => (argMin (nodeCost w ns) (all.filter fun k => h k == h m)).getD 0

/-- The bytes of a node of the map file (R250). -/
def nodeBytes (w : RouteInput) (ns : List PlanNode) (k : Nat) : Bytes :=
  let n := nodeOf ns k
  leBytes 4 n.pose.x ++ leBytes 4 n.pose.y ++ leBytes 4 n.pose.h
    ++ leBytes 4 (if nodeReached ns k then planNum (nodeCost w ns k) else Config.noCost.toNat)
    ++ leBytes 4 (n.parent.getD Config.noParent.toNat) ++ leBytes 4 n.pose.t ++ leBytes 1 n.speed ++ zeros 7

/-- What a search has come to, from its node store. -/
def foundOf (w : RouteInput) (field : Table Nat) (ns : List PlanNode) (goals : List Nat) (repaired : Option RouteTrack)
    (made : Nat) : RouteFound :=
  let b := bestNode w field ns
  { candidates := ranked w ns goals repaired, made := made, nodes := ns.length, exhausted := storeNodes ≤ ns.length
    best := trackTo w ns b, gap := planNum (planH w field (nodeOf ns b).pose)
    mapNodes := ((List.range ns.length).map (nodeBytes w ns)).flatten }

/-! ### The sampling searches (R249, R250) -/

/-- An edge: the motion along a biarc, and the speed level at its end. -/
structure PlanEdge where
  /-- Its check steps. -/
  steps : List PlanStep
  /-- Speed level. -/
  speed : Nat

/-- The pose that an edge ends in. -/
def PlanEdge.last (e : PlanEdge) (start : RoutePose) : RoutePose := (e.steps.getLastD (0, start)).2

/-- The edge from a node towards a pose, cut to a length: none where its curvature exceeds KAPPA_MAX or it is not
collision-free. -/
def edgeTo (w : RouteInput) (n : PlanNode) (target : RoutePose) (cut : Option Rat) : Option PlanEdge :=
  let b := Config.biarc n.pose target
  let kappa := q32 (le w.desc 0x4C 4)
  let len := match cut with
    | some m => minRat (2 * b.len) m
    | none => 2 * b.len
  let step := q16 (le w.desc 0x4A 2)
  let steps : List PlanStep := (List.range (len / step).ceil.toNat).map fun k =>
    let e := minRat (((k + 1 : Nat) : Rat) * step) len
    (e - (k : Rat) * step, Config.biarcPose n.pose n.speed b e)
  if kappa < absRat b.k1 || kappa < absRat b.k2 || (trackFail w (n.pose :: steps.map (·.2))).isSome then none
  else some { steps := steps, speed := (Config.biarcSpeed n.speed b).toNat }

/-- |dxy| + |dheading| / KAPPA_MAX. -/
def poseGap (w : RouteInput) (a b : RoutePose) : Rat :=
  planVal (poseDist a b + headingGap a b / q32 (le w.desc 0x4C 4))

/-- The target of iteration `i` (R248): the goal, or a point of a reached cell. -/
def sampleTarget (w : RouteInput) (order : List Nat) (i : Nat) : RoutePose :=
  let d := w.desc
  let seed := le d 4 4
  let a := mixWord seed (3 * i)
  let b := mixWord seed (3 * i + 1)
  let c := mixWord seed (3 * i + 2)
  if fld a 0 4 = 0 then goalPose d
  else
    let k := order.getD ((a >>> 4) % order.length) 0
    let at_ (o n frac : Nat) : Nat := planNum (q32 (le d o 4) + ((n : Rat) + (frac : Rat) / 65536) * rtsCell d)
    { x := at_ 0x38 (k % rtsW d) (fld b 0 16), y := at_ 0x3C (k / rtsW d) (fld b 16 16)
      h := planNum (headingAngle (fld c 0 6)) }

/-- The new pose of iteration `i`, the node whose edge leads to it, and that edge, cut to 16 × CELL_M. -/
def sampleEdge (w : RouteInput) (order : List Nat) (ns : List PlanNode) (i : Nat) : Option (Nat × PlanEdge) :=
  let t := sampleTarget w order i
  match argMin (fun k => poseGap w (nodeOf ns k).pose t) (List.range ns.length) with
  | none => none
  | some n => (edgeTo w (nodeOf ns n) t (some (16 * rtsCell w.desc))).map fun e => (n, e)

/-- rr: max(4, min(16, 32 × (ln N / N)^(1/3))) × CELL_M. -/
def treeRadius (d : Bytes) (n : Nat) : Rat := maxRat 4 (minRat 16 (Config.radiusTerm n)) * rtsCell d

/-- A node under a parent, by an edge. -/
def PlanNode.under (q : RoutePose) (start : PlanNode) (p : Nat) (e : PlanEdge) : PlanNode :=
  { pose := { q with t := (e.last start.pose).t }, speed := e.speed, parent := some p, steps := e.steps }

/-- Node `m` moves under node `k` if its path becomes cheaper. -/
def rewire (w : RouteInput) (k : Nat) (ns : List PlanNode) (m : Nat) : List PlanNode :=
  match edgeTo w (nodeOf ns k) (nodeOf ns m).pose none with
  | none => ns
  | some e =>
    if nodeCost w ns k + planVal (motionCost w e.steps) < nodeCost w ns m then
      ns.set m (PlanNode.under (nodeOf ns m).pose (nodeOf ns k) k e)
    else ns

/-- One iteration of PLAN_TREE. -/
def treeStep (w : RouteInput) (order : List Nat) (ns : List PlanNode) (i : Nat) : List PlanNode :=
  match sampleEdge w order ns i with
  | none => ns
  | some (n, e) =>
    let q := e.last (nodeOf ns n).pose
    let rr := treeRadius w.desc ns.length
    let near := (List.range ns.length).filter fun k => decide (poseDist (nodeOf ns k).pose q ≤ rr)
    let joins := near.filterMap fun k => (edgeTo w (nodeOf ns k) q none).map fun e => (k, e)
    let joins := if joins.isEmpty then [(n, e)] else joins
    let cost (j : Nat) : Rat :=
      match joins[j]? with
      | some (k, e) => nodeCost w ns k + planVal (motionCost w e.steps)
      | none => 0
    match joins[(argMin cost (List.range joins.length)).getD 0]? with
    | none => ns
    | some (p, e) =>
      near.foldl (rewire w ns.length) (ns ++ [PlanNode.under q (nodeOf ns p) p e])

/-- Iterations of a sampling search, from the store and the count of those made: a full store ends the search (R245). -/
def sampleRun (step : List PlanNode → Nat → List PlanNode) (n : Nat) (ns : List PlanNode) : List PlanNode × Nat :=
  (List.range n).foldl (fun r i => if storeNodes ≤ r.1.length then r else (step r.1 i, r.2 + 1)) (ns, 0)

/-- The start as a node. -/
def startNode (d : Bytes) : PlanNode := { pose := startPose d, speed := byteAt d 3 }

/-- The cells that the wavefront reached, in the order of their expansion (R247). -/
def waveOrder (w : RouteInput) : List Nat :=
  match rtsCellOf w.desc (le w.desc 0x20 4) (le w.desc 0x24 4) with
  | none => []
  | some g => (waveGo w.desc w.map (rtsW w.desc * rtsH w.desc) [(g.2 * rtsW w.desc + g.1, 0)] []).2.reverse

/-- The goal-reaching nodes (R250). -/
def goalNodes (d : Bytes) (ns : List PlanNode) : List Nat :=
  (List.range ns.length).filter fun k => nodeReached ns k && atGoal d (nodeOf ns k).pose

/-! ### The road map (R250) -/

/-- The nodes of MAP_IN. -/
def mapInNodes (b : Bytes) : List PlanNode :=
  (List.range (b.length / 32)).map fun k =>
    let r := slice b (32 * k) 32
    { pose := { x := le r 0 4, y := le r 4 4, h := le r 8 4, t := le r 20 4 }, speed := byteAt r 24 }

/-- One sample of PLAN_MAP: a node without a parent of its own. -/
def mapStep (w : RouteInput) (order : List Nat) (ns : List PlanNode) (i : Nat) : List PlanNode :=
  match sampleEdge w order ns i with
  | none => ns
  | some (n, e) => ns ++ [{ pose := e.last (nodeOf ns n).pose, speed := e.speed }]

/-- The first `k` nodes of a list by their distance from a pose, ties to the lower index. -/
def nearestGo (w : RouteInput) (ns : List PlanNode) (q : RoutePose) : Nat → List Nat → List Nat
  | 0, _ => []
  | k + 1, l =>
    match argMin (fun m => poseGap w (nodeOf ns m).pose q) l with
    | none => []
    | some m => m :: nearestGo w ns q k (l.filter (· != m))

/-- The 8 nodes nearest to a node. -/
def nearestEight (w : RouteInput) (ns : List PlanNode) (k : Nat) : List Nat :=
  nearestGo w ns (nodeOf ns k).pose 8 ((List.range ns.length).filter (· != k))

/-- The cheapest path to each node, by edges to the 8 nearest nodes: the reached nodes are settled by cost, ties to the
lower index. -/
def mapPaths (w : RouteInput) : Nat → List Nat → List PlanNode → List PlanNode
  | 0, _, ns => ns
  | fuel + 1, done, ns =>
    match argMin (nodeCost w ns) ((List.range ns.length).filter fun k => nodeReached ns k && !(done.contains k)) with
    | none => ns
    | some k =>
      let ns := (nearestEight w ns k).foldl (fun ns m =>
        if done.contains m then ns
        else if nodeReached ns m then rewire w k ns m
        else
          match edgeTo w (nodeOf ns k) (nodeOf ns m).pose none with
          | none => ns
          | some e => ns.set m (PlanNode.under (nodeOf ns m).pose (nodeOf ns k) k e)) ns
      mapPaths w fuel (k :: done) ns

/-! ### Local repair (R251) -/

/-- The DRIVE trajectory of a plan record. -/
def drivePoses (b : Bytes) : List RoutePose :=
  (List.range (le b 0x10 2)).map fun k =>
    let o := 0x40 + 16 * k
    { x := le b o 4, y := le b (o + 4) 4, h := le b (o + 8) 4, t := le b (o + 12) 4 }

/-- A pose lies ahead of the start pose. -/
def isAhead (d : Bytes) (q : RoutePose) : Bool :=
  let s := startPose d
  decide (0 < (q32 q.x - q32 s.x) * q32 (Config.cosine s.h).toNat + (q32 q.y - q32 s.y) * q32 (Config.sine s.h).toNat)

/-- The runs of blocked poses: first and last index of each. -/
def blockedRuns (blocked : List Bool) : List (Nat × Nat) :=
  ((List.range blocked.length).filter fun k =>
    blocked.getD k false && !(k != 0 && blocked.getD (k - 1) false)).map fun a =>
      (a, a + ((blocked.drop a).takeWhile id).length - 1)

/-- The box around poses, grown by 16 × CELL_M: least and greatest x, least and greatest y. -/
def growBox (d : Bytes) (ps : List RoutePose) : List Rat :=
  let m := 16 * rtsCell d
  let lo (f : RoutePose → Rat) : Rat := (ps.map f).foldl minRat (f (ps.headD {})) - m
  let hi (f : RoutePose → Rat) : Rat := (ps.map f).foldl maxRat (f (ps.headD {})) + m
  [lo (q32 ·.x), hi (q32 ·.x), lo (q32 ·.y), hi (q32 ·.y)]

/-- A blocked span is searched anew, from the last free pose before it to the first free pose after it: the poses between
them, none where it does not reconnect. -/
def joinSpan (w : RouteInput) (ps : List RoutePose) (r : Nat × Nat) : Option (List RoutePose) :=
  if r.1 = 0 ∨ ps.length ≤ r.2 + 1 then none
  else
    let a := ps.getD (r.1 - 1) {}
    let b := ps.getD (r.2 + 1) {}
    (Config.reconnect w a b (growBox w.desc ((ps.drop (r.1 - 1)).take (r.2 + 3 - r.1)))).filter fun l =>
      (trackFail w (a :: l ++ [b])).isNone

/-- The poses with each blocked span replaced; none where a span fails. -/
def repairSpans (w : RouteInput) (ps : List RoutePose) (runs : List (Nat × Nat)) : Option (List RoutePose) :=
  let r := runs.foldl (fun (r : Option (Nat × List RoutePose)) e =>
    match r, joinSpan w ps e with
    | some (at_, out), some l => some (e.2 + 1, out ++ (ps.drop at_).take (e.1 - at_) ++ l)
    | _, _ => none) (some (0, []))
  r.map fun e => e.2 ++ ps.drop e.1

/-- The repaired trajectory of the plan at SRC_ADDR, where every blocked span reconnects (R251). -/
def repairTrack (w : RouteInput) : Option RouteTrack :=
  let ps := drivePoses w.prev
  let s := startNode w.desc
  let ahead := (List.range ps.length).filter fun k => isAhead w.desc (ps.getD k {})
  match argMin (fun k => poseDist s.pose (ps.getD k {})) ahead with
  | none => none
  | some j =>
    let p := ps.getD j {}
    let b := Config.biarc s.pose p
    let kappa := q32 (le w.desc 0x4C 4)
    if kappa < absRat b.k1 || kappa < absRat b.k2 then none
    else
      let step := q16 (le w.desc 0x4A 2)
      let arc := (List.range (2 * b.len / step).ceil.toNat).map fun k =>
        Config.biarcPose s.pose s.speed b (minRat (((k + 1 : Nat) : Rat) * step) (2 * b.len))
      let join := arc.getLastD s.pose
      let whole := s.pose :: arc ++ (ps.drop (j + 1)).map fun q => { q with t := (Config.retime join p q).toNat }
      let l := checkedPoses w.desc whole
      let bad := ((List.range l.length).filter fun k => !(checkedFree w l k)).map fun k => (l.getD k (0, {})).1
      (repairSpans w whole (blockedRuns ((List.range whole.length).map fun k => bad.contains k))).map fun out =>
        let steps := stepsOf w.desc out
        { poses := outputPoses w s.pose steps, cost := planNum (motionCost w steps), repaired := true }

/-- A repair is asked for: REPAIR of PLAN_TREE or PLAN_MAP (R242, R251). -/
def repairOf (w : RouteInput) : Option RouteTrack := if bit (byteAt w.desc 1) 0 then repairTrack w else none

/-- PLAN_TREE (R249, R250). -/
def treeSearch (w : RouteInput) (field : Table Nat) : RouteFound :=
  let r := sampleRun (treeStep w (waveOrder w)) w.iterations [startNode w.desc]
  foundOf w field r.1 (goalNodes w.desc r.1) (repairOf w) r.2

/-- PLAN_MAP (R249, R250): the start and the nodes of MAP_IN, and those added. -/
def mapSearch (w : RouteInput) (field : Table Nat) : RouteFound :=
  let r := sampleRun (mapStep w (waveOrder w)) w.iterations ((startNode w.desc :: mapInNodes w.mapIn).take storeNodes)
  let ns := mapPaths w r.1.length [] r.1
  foundOf w field ns (goalNodes w.desc ns) (repairOf w) r.2

/-! ### The lattice search -/

/-- The index of a lattice state: cell, heading index, speed level. -/
def latKey (d : Bytes) (x y heading speed : Nat) : Nat := ((y * rtsW d + x) * 64 + heading) * 8 + speed

/-- The pose of a lattice state at a time: the centre of its cell. -/
def latPose (d : Bytes) (key t : Nat) : RoutePose :=
  let cell := key / 512
  let at_ (o n : Nat) : Nat := planNum (q32 (le d o 4) + ((n : Rat) + mkRat 1 2) * rtsCell d)
  { x := at_ 0x38 (cell % rtsW d), y := at_ 0x3C (cell / rtsW d), h := planNum (headingAngle (key / 8 % 64)), t := t }

/-- A lattice search in progress. -/
structure LatRun where
  /-- The node store. -/
  nodes : List PlanNode
  /-- The state of each node. -/
  keys : List Nat
  /-- The states expanded, last first. -/
  closed : List Nat := []
  /-- The goal states expanded, in order. -/
  goals : List Nat := []
  /-- Expansions made. -/
  made : Nat := 0

/-- The poses of a rotated lattice primitive placed at a state's pose (R232, R233): the offsets are those from the cell
centre, and the recorded headings turn with them. -/
def primPoses (a : RoutePose) (p : Bytes) : List RoutePose :=
  (List.range (byteAt p 7)).map fun i =>
    let o := 0x10 + 6 * i
    { x := planNum (q32 a.x + q16 (le p o 2)), y := planNum (q32 a.y + q16 (le p (o + 2) 2))
      h := planNum (q16 (le p (o + 4) 2) + headingAngle (byteAt p 0 / 16 * 16))
      t := planNum (q32 a.t + q32 (Config.primTime p i).toNat) }

/-- The state that a rotated primitive leads to from a state; none outside the grid. -/
def latNext (d : Bytes) (key : Nat) (p : Bytes) : Option Nat :=
  let x : Int := ((key / 512 % rtsW d : Nat) : Int) + toSigned 8 (byteAt p 4)
  let y : Int := ((key / 512 / rtsW d : Nat) : Int) + toSigned 8 (byteAt p 5)
  if 0 ≤ x ∧ x < rtsW d ∧ 0 ≤ y ∧ y < rtsH d then some (latKey d x.toNat y.toNat (byteAt p 2) (byteAt p 3)) else none

/-- One primitive of an expanded state: a state not yet expanded gains a node, or a cheaper path. -/
def latReach (w : RouteInput) (k key : Nat) (r : LatRun) (p : Bytes) : LatRun :=
  match latNext w.desc key p with
  | none => r
  | some key2 =>
    let a := (nodeOf r.nodes k).pose
    let ps := a :: primPoses a p
    if r.closed.contains key2 || (trackFail w ps).isSome then r
    else
      let n : PlanNode :=
        { pose := latPose w.desc key2 (planNum (q32 a.t + q32 (le p 0x0C 4))), speed := byteAt p 3, parent := some k
          steps := stepsOf w.desc ps, extra := q32 (le p 8 4) }
      match (List.range r.keys.length).find? fun j => r.keys.getD j 0 == key2 with
      | none => if storeNodes ≤ r.nodes.length then r else { r with nodes := r.nodes ++ [n], keys := r.keys ++ [key2] }
      | some j =>
        if planVal (nodeCost w r.nodes k + n.stepCost w) < nodeCost w r.nodes j then { r with nodes := r.nodes.set j n } else r

/-- The open node that is expanded next: the least g + h, then the lower state index. -/
def latPick (w : RouteInput) (field : Table Nat) (r : LatRun) : Option Nat :=
  let open_ := (List.range r.nodes.length).filter fun k => !(r.closed.contains (r.keys.getD k 0))
  let f (k : Nat) : Rat := planVal (nodeCost w r.nodes k + planH w field (nodeOf r.nodes k).pose)
  match argMin f open_ with
  | none => none
  | some m => argMin (fun k => ((r.keys.getD k 0 : Nat) : Rat)) (open_.filter fun k => f k == f m)

/-- Expand up to `fuel` states: the search ends when CANDIDATES goal states are expanded, the open set is empty or the node
store is full. -/
def latGo (w : RouteInput) (field : Table Nat) : Nat → LatRun → LatRun
  | 0, r => r
  | fuel + 1, r =>
    if byteAt w.desc 2 ≤ r.goals.length || storeNodes ≤ r.nodes.length then r
    else
      match latPick w field r with
      | none => r
      | some k =>
        let key := r.keys.getD k 0
        let r := { r with closed := key :: r.closed, made := r.made + 1,
                          goals := if atGoal w.desc (nodeOf r.nodes k).pose then r.goals ++ [k] else r.goals }
        let prims := (w.lattice.getD (key / 8 % 64) []).filter fun p => byteAt p 1 == key % 8
        latGo w field fuel (prims.foldl (latReach w k key) r)

/-- PLAN_LATTICE. -/
def latSearch (w : RouteInput) (field : Table Nat) : RouteFound :=
  let d := w.desc
  let c := (rtsCellOf d (le d 0x10 4) (le d 0x14 4)).getD (0, 0)
  let key := latKey d c.1 c.2 (headingIndex (le d 0x18 4)) (byteAt d 3)
  let r := latGo w field w.iterations { nodes := [{ pose := latPose d key 0, speed := byteAt d 3 }], keys := [key] }
  { foundOf w field r.nodes r.goals none r.made with openEmpty := (latPick w field r).isNone, closed := r.closed.reverse }

/-- The search of a plan job: a function of what R249 names, and of the iterations made. -/
def routeSearch (w : RouteInput) : RouteFound :=
  let field := waveField w.desc w.map
  match byteAt w.desc 0 with
  | 0 => treeSearch w field
  | 1 => mapSearch w field
  | _ => latSearch w field

/-- Pose `i` of a stop primitive at the start pose (R253): rotated by the start heading minus its class heading. -/
def stopPose (prim d : Bytes) (i : Nat) : RoutePose :=
  let s := startPose d
  let turn := planNum (q32 s.h - headingAngle (byteAt prim 0))
  let c := q32 (Config.cosine turn).toNat
  let n := q32 (Config.sine turn).toNat
  let o := 0x10 + 6 * i
  let x := q16 (le prim o 2)
  let y := q16 (le prim (o + 2) 2)
  { x := planNum (q32 s.x + c * x - n * y), y := planNum (q32 s.y + n * x + c * y)
    h := planNum (q16 (le prim (o + 4) 2) + q32 turn), t := (Config.primTime prim i).toNat }

end Sys2Proof.Machine
end

