-- ==== Sys2Proof/Machine/Routesetter.lean ====
section
/-! DEFINITION. The Routesetter: its queues, the loader's commits, the planner's jobs and their records (R231 to R259). -/

namespace Sys2Proof.Machine

open Sys2Proof.Config (RouteInput RoutePose RouteTrack RouteFound)

/-! ### The queues (R136, R243) -/

/-- MODE of a job; a job whose descriptor could not be read has none. -/
def RtsJob.mode (j : RtsJob) : Nat := byteAt (j.desc.getD []) 0

/-- A job of the loader queue: modes 4 to 6; everything else goes to the planner queue. -/
def RtsJob.loads (j : RtsJob) : Bool := j.desc.isSome && 4 ≤ j.mode && j.mode ≤ 6

/-- The ready ROUTE nodes that no queue holds yet, in R136's order; `fuel` bounds their number. -/
def State.routeOrder (s : State) : Nat → List Nat → List Nat
  | 0, _ => []
  | k + 1, l =>
    match s.firstInOrder l with
    | none => []
    | some a => a :: s.routeOrder k (l.filter (· != a))

/-- The ready ROUTE nodes. -/
def State.readyRoutes (s : State) : List Nat :=
  (s.sbx.nodes.filter fun e => e.2.state == .ready && e.2.type == 1 && !e.2.notRun).map (·.1)

/-- The instance that a job goes to: one that its node allows, that is on and whose queue has room; of two the one with the
shorter queue. -/
def State.routePick (s : State) (n : Node) (j : RtsJob) : Option Nat :=
  let len (i : Nat) : Nat := if j.loads then (s.rtsAt i).loadQueue.length else (s.rtsAt i).planQueue.length
  let ok (i : Nat) : Bool := bit n.units i && s.rtsOn i && len i < 16
  if ok 0 && ok 1 then some (if len 1 < len 0 then 1 else 0) else if ok 0 then some 0 else if ok 1 then some 1 else none

/-- A job enters the queue of an instance, in a context of its own (R152, R243). -/
def State.routeQueue (s : State) (i c : Nat) (j : RtsJob) : State :=
  let n := s.node j.slot
  let job := { j with ctx := c }
  let s := s.modRts i fun x =>
    if job.loads then { x with loadQueue := x.loadQueue ++ [job] } else { x with planQueue := x.planQueue ++ [job] }
  let s := s.modNode j.slot fun n => { n with state := .running, context := c }
  s.modCtx c fun _ =>
    { state := .running, node := j.slot, consist := (s.graph n.graph).consist, generation := j.generation, rts := some i
      boundAt := s.now, firstBound := s.now, queuedNs := s.now - n.readyAt }

/-- Offer one ROUTE node to an instance. A node of a Consist that takes no new context waits (R171, R178), and so does one
without a context number (R152). -/
def State.routePlace (s : State) (slot : Nat) : State :=
  let n := s.node slot
  let g := s.graph n.graph
  if g.consist ≠ 0 && !(s.binds g.consist) then s
  else
    let tag := if g.consist = 0 then (s.ring g.ring).ownerTag else s.consistTag g.consist
    let q := s.fetchBytes tag n.kernelPtr 128
    let job : RtsJob :=
      { slot := slot, generation := g.generation, tag := tag, safety := n.flag 0, budgetUs := n.rtsBudget, desc := q.2.bytes }
    match s.routePick n job with
    | none => s
    | some i =>
      match s.freeCtx g.consist with
      | none => s.ctxDelayed slot
      | some c => if q.2 = .waits then q.1 else q.1.routeQueue i c job

/-- The Signal box offers its ready ROUTE nodes in R136's order to the queues that have gained room (R136, R243). -/
def State.routeRefill (s : State) : State :=
  let l := s.readyRoutes
  (s.routeOrder l.length l).foldl State.routePlace s

/-- The release instants of a list of nodes, each once, ascending. -/
def State.releaseTimes (s : State) (l : List Nat) : List Nat :=
  l.foldl (fun ts k => insertNat (s.node k).readyAt ts) []

/-- The Signal box has offered its ROUTE nodes as they were released, so that jobs stand in a queue in release order; nodes
of one instant go in R136's order (R136, R239, R243). -/
def State.routeOffer (s : State) : State :=
  let l := s.readyRoutes
  (s.releaseTimes l).foldl (fun s t =>
    let at_ := l.filter fun k => (s.node k).readyAt == t
    (s.routeOrder at_.length at_).foldl State.routePlace s) s

/-! ### Checks of a job (R242, R258) -/

/-- Address field of a descriptor. -/
def rtsAddr (d : Bytes) (off : Nat) : Nat := fld (le d off 8) 0 48

/-- Reserved encodings of a descriptor. -/
def rtsReserved (d : Bytes) : Bool :=
  byteAt d 0 > 6 || fld (byteAt d 1) 2 6 != 0 || le d 0x0E 2 != 0 || fld (le d 0x44 2) 10 6 != 0
    || fld (le d 0x46 2) 10 6 != 0 || byteAt d 0x49 != 0 || !(zeroAt d 0x74 12)
    || [0x30, 0x50, 0x58, 0x60, 0x68].any fun o => le d (o + 6) 2 != 0

/-- A finite positive value. -/
def posFinite (x : Fp) : Bool := fpFinite x && fpLt (.num false 0 0) x

/-- The cost-map fields are in range. -/
def rtsMapOk (d : Bytes) : Bool :=
  let cell := dec32 (le d 0x40 4)
  rtsAddr d 0x30 % 64 == 0 && fpFinite cell && decide (mkRat 1 20 ≤ q32 (le d 0x40 4))
    && decide (q32 (le d 0x40 4) ≤ 10) && (rtsPlanes d == 1 || rtsPlanes d == 64)
    && fpFinite (dec32 (le d 0x38 4)) && fpFinite (dec32 (le d 0x3C 4))

/-- CHECK_STEP is in range. -/
def rtsStepOk (d : Bytes) : Bool :=
  fpFinite (dec16 true (le d 0x4A 2)) && decide (mkRat 1 100 ≤ q16 (le d 0x4A 2)) && decide (q16 (le d 0x4A 2) ≤ 2)

/-- A field out of range (R242). -/
def rtsBadField (d : Bytes) : Bool :=
  let mode := byteAt d 0
  let plan := decide (mode ≤ 2)
  let finite (o : Nat) : Bool := fpFinite (dec32 (le d o 4))
  (bit (byteAt d 1) 0 && mode > 1)
    || (if plan then byteAt d 2 == 0 || byteAt d 2 > 4 else byteAt d 2 != 0)
    || (if mode ≤ 3 then rtsAddr d 0x60 == 0 || rtsAddr d 0x60 % 64 != 0 else rtsAddr d 0x60 != 0)
    || (plan && !([0x10, 0x14, 0x18, 0x20, 0x24, 0x28].all finite))
    || (plan && !(posFinite (dec16 true (le d 0x2C 2)) && posFinite (dec16 true (le d 0x2E 2))))
    || (plan && !(posFinite (dec32 (le d 0x4C 4))))
    || (plan && rtsAddr d 0x30 == 0)
    || ((plan || (mode == 3 && rtsAddr d 0x30 != 0)) && !(rtsMapOk d))
    || (mode ≤ 3 && !(rtsStepOk d))
    || (mode == 3 && (le d 0x70 4 == 0 || le d 0x70 4 > 512))
    || (mode == 4 && le d 0x70 4 > 65536)
    || (mode == 5 && (le d 0x70 4 == 0 || le d 0x70 4 > 1048576))

/-- The first failing check of a job before it reads its sources; 0 for none. -/
def Rts.check (x : Rts) (j : RtsJob) : Nat :=
  match j.desc with
  | none => 8
  | some d =>
    let plan := byteAt d 0 ≤ 3
    if rtsReserved d then 1
    else if rtsBadField d then 2
    else if x.noOwner || x.owner != j.tag then 3
    else if plan && !x.worldValid then 4
    else if plan && !x.vehicleValid then 5
    else if byteAt d 0 ≤ 2 && byteAt d 3 ≥ byteAt x.vehicle 7 then 2
    else if byteAt d 0 = 2 && le d 0x40 4 != le x.vehicle 8 4 then 6
    else 0

/-- An uncorrectable error in an internal store; one in a world store withdraws WORLD_VALID (R258). -/
def State.rtsMemError (s : State) (i kind : Nat) : State :=
  if kind = 2 then s.modRts i fun x => { x with worldValid := false, lostDynamic := true, lostStatic := true } else s

/-! ### The loader (R234 to R240) -/

/-- A loader job ends with ROUTE_ERROR. -/
def State.loadFail (s : State) (i code : Nat) (j : RtsJob) : State :=
  (s.rtsCapture i code j).modRts i fun x =>
    { x with load := some { job := j, startNs := (x.load.map (·.startNs)).getD s.now, done := true, status := 0x10 } }

/-- The primitives of a dynamic source break no rule (R236). -/
def primOk (p : Bytes) : Bool :=
  let sphere := byteAt p 0 == 1
  let halves := [0x14, 0x16, 0x18].map fun o => dec16 true (le p o 2)
  byteAt p 0 ≤ 1 && zeroAt p 1 3
    && [8, 0x0C, 0x10].all (fun o => fpFinite (dec32 (le p o 4)))
    && [0x14, 0x16, 0x18, 0x1A, 0x1C, 0x1E].all (fun o => fpFinite (dec16 true (le p o 2)))
    && halves.all (fun h => !(fpLt h (.num false 0 0)))
    && (!sphere || (le p 0x16 2 == 0 && le p 0x18 2 == 0 && le p 0x1A 2 == 0))

/-- No identifier stands twice in a dynamic source. -/
def idsUnique : List Nat → Bool
  | [] => true
  | a :: r => !(r.contains a) && idsUnique r

/-- A dynamic source: its primitives and stamp, none where it breaks a rule (R236). -/
def dynSource (d h prims : Bytes) : Option (Bytes × Nat) :=
  let n := le h 4 4
  let ps := (List.range n).map fun k => slice prims (32 * k) 32
  if le h 0 4 = 0x01574C44 && n ≤ 65536 && n == le d 0x70 4 && le h 0x10 4 < 1000000000 && zeroAt h 0x14 44
      && ps.all primOk && idsUnique (ps.map fun p => le p 4 4) then
    some (prims, le h 8 8 * 1000000000 + le h 0x10 4)
  else none

/-- The header of a static source: fields of 4 bytes in the order of R235, TRI_ADDR at 0x10. -/
def staticHeaderOk (d h : Bytes) : Bool :=
  le h 0 4 == 0x01574C53 && 1 ≤ le h 4 4 && le h 4 4 ≤ 4096 && 1 ≤ le h 8 4 && le h 8 4 ≤ 1048576
    && le h 8 4 == le d 0x70 4 && le h 0x0C 4 == 0 && rtsAddr h 0x10 % 64 == 0 && le h 0x16 2 == 0 && zeroAt h 0x18 40

/-- The meshes and triangles of a static source break no rule (R236). -/
def staticOk (h meshes tris : Bytes) : Bool :=
  (List.range (le h 4 4)).all (fun k =>
    let m := slice meshes (16 * k) 16
    le m 0 4 + le m 4 4 ≤ le h 8 4 && zeroAt m 8 8)
  && (List.range (le h 8 4)).all fun k =>
    let t := slice tris (48 * k) 48
    (List.range 9).all (fun j => fpFinite (dec32 (le t (4 * j) 4))) && zeroAt t 36 12

/-- A lattice primitive record is in range (R232). -/
def vehPrimOk (speeds : Nat) (p : Bytes) : Bool :=
  let n := byteAt p 7
  byteAt p 0 < 16 && byteAt p 1 < speeds && byteAt p 2 < 64 && byteAt p 3 < speeds && fld (byteAt p 6) 2 6 == 0
    && 1 ≤ n && n ≤ 40
    && dec32 (le p 8 4) != .nan && !(fpLt (dec32 (le p 8 4)) (.num false 0 0))
    && dec32 (le p 0x0C 4) != .nan && fpLt (.num false 0 0) (dec32 (le p 0x0C 4))
    && (!(bit (byteAt p 6) 0) || byteAt p 3 == 0)
    && (List.range (3 * n)).all (fun k => dec16 true (le p (0x10 + 2 * k) 2) != .nan)
    && zeroAt p (0x10 + 6 * n) (240 - 6 * n)

/-- Record `k` of a vehicle file. -/
def vehPrim (v : Bytes) (k : Nat) : Bytes := slice v (64 + 256 + 256 * k) 256

/-- An FP16 value with its sign changed, in its bits. -/
def negate16 (v : Nat) : Nat := (v + 0x8000) % 0x10000

/-- A pair of offsets rotated by q × 90° (R233): swapped and negated, so exact. -/
def rotateOffset (q x y : Nat) : Nat × Nat :=
  match q % 4 with
  | 0 => (x, y)
  | 1 => (negate16 y, x)
  | 2 => (negate16 x, negate16 y)
  | _ => (y, negate16 x)

/-- An end cell offset rotated by q × 90°. -/
def rotateCell (q : Nat) (dx dy : Int) : Int × Int :=
  match q % 4 with
  | 0 => (dx, dy)
  | 1 => (-dy, dx)
  | 2 => (-dx, -dy)
  | _ => (dy, -dx)

/-- A lattice primitive rotated by q × 90° (R233): its heading indices advance by 16 q, and its cell and its offsets turn.
The headings of its poses stand as recorded; they turn where the primitive is placed (primPoses). -/
def rotatePrim (q : Nat) (p : Bytes) : Bytes :=
  let cell := rotateCell q (toSigned 8 (byteAt p 4)) (toSigned 8 (byteAt p 5))
  leBytes 1 ((byteAt p 0 + 16 * q) % 64) ++ leBytes 1 (byteAt p 1) ++ leBytes 1 ((byteAt p 2 + 16 * q) % 64)
    ++ leBytes 1 (byteAt p 3) ++ leBytes 1 (cell.1 % 256).toNat ++ leBytes 1 (cell.2 % 256).toNat ++ slice p 6 10
    ++ ((List.range (byteAt p 7)).map fun k =>
      let o := rotateOffset q (le p (0x10 + 6 * k) 2) (le p (0x12 + 6 * k) 2)
      leBytes 2 o.1 ++ leBytes 2 o.2 ++ slice p (0x14 + 6 * k) 2).flatten
    ++ zeros (240 - 6 * byteAt p 7)

/-- The primitives that a start heading 0 to 63 uses: those recorded for h mod 16, rotated (R233). -/
def classPrims (v : Bytes) (h : Nat) : List Bytes :=
  (((List.range (le v 4 2)).map (vehPrim v)).filter fun p => byteAt p 0 == h % 16).map (rotatePrim (h / 16))

/-- The STOP primitives of a class (R233). -/
def stopPrims (v : Bytes) (heading speed : Nat) : List Bytes :=
  ((List.range (le v 4 2)).map (vehPrim v)).filter fun p =>
    byteAt p 0 == heading && byteAt p 1 == speed && bit (byteAt p 6) 0

/-- A vehicle file breaks no rule (R232, R233). -/
def vehicleOk (v : Bytes) : Bool :=
  let n := le v 4 2
  let speeds := byteAt v 7
  le v 0 4 == 0x01564548 && 1 ≤ n && n ≤ 4096 && 1 ≤ byteAt v 6 && byteAt v 6 ≤ 16 && 1 ≤ speeds && speeds ≤ 8
    && dec32 (le v 8 4) != .nan
    && (List.range 8).all (fun k => dec16 true (le v (12 + 2 * k) 2) != .nan)
    && fpEq (dec16 true (le v 12 2)) (.num false 0 0) && zeroAt v 28 36
    && (List.range (4 * byteAt v 6)).all (fun k => dec32 (le v (64 + 4 * k) 4) != .nan)
    && (List.range n).all (fun k => vehPrimOk speeds (vehPrim v k))
    && (List.range 16).all fun h => (List.range speeds).all fun sp => (stopPrims v h sp).length == 1

/-- The corners of the box around vertices: least x, y, z, then greatest x, y, z. -/
def leafBox (ts : Bytes) : List Nat :=
  let axis (c : Nat) : List Nat :=
    (List.range (ts.length / 48)).flatMap fun k => (List.range 3).map fun v => le ts (48 * k + 12 * v + 4 * c) 4
  let best (f : Nat → Nat → Bool) (l : List Nat) : Nat := l.foldl (fun m v => if f v m then v else m) (l.headD 0)
  ((List.range 3).map fun c => best (fun v m => decide (q32 v < q32 m)) (axis c))
    ++ (List.range 3).map fun c => best (fun v m => decide (q32 m < q32 v)) (axis c)

/-- The leaves of a static layer (R235): each mesh in runs of 4 consecutive triangles, with a shorter last one. -/
def leavesOf (h meshes tris : Bytes) : List RtsLeaf :=
  (List.range (le h 4 4)).flatMap fun k =>
    let first := le meshes (16 * k) 4
    let count := le meshes (16 * k + 4) 4
    (List.range ((count + 3) / 4)).map fun j =>
      let n := min 4 (count - 4 * j)
      { addr := rtsAddr h 0x10 + 48 * (first + 4 * j), count := n, box := leafBox (slice tris (48 * (first + 4 * j)) (48 * n)) }

/-- Dynamic banks A and B hold 65,536 primitives each (R231). -/
def bankPrims : Nat := 65536
/-- The triangle cache holds 1 MiB of leaves of 192 bytes (R231, R241). -/
def cacheLeaves : Nat := 0x100000 / 192

/-- The loader builds a dynamic layer (R239). -/
def State.buildDynamic (s : State) (i : Nat) (j : RtsJob) : State :=
  let d := j.desc.getD []
  let a := rtsAddr d 0x68
  let h := s.fetchBytes j.tag a 64
  match h.2 with
  | .waits => h.1
  | .failed => h.1.loadFail i 8 j
  | .got hd =>
    let p := h.1.fetchBytes j.tag (a + 64) (32 * min (le hd 4 4) bankPrims)
    match p.2 with
    | .waits => p.1
    | .failed => p.1.loadFail i 8 j
    | .got prims =>
      match dynSource d hd prims with
      | none => p.1.loadFail i 7 j
      | some (ps, st) =>
        p.1.modRts i fun x =>
          { x with load := some { job := j, built := some ps, stamp := st, startNs := (x.load.map (·.startNs)).getD s.now } }

/-- The loader builds a static layer in place (R239). -/
def State.buildStatic (s : State) (i : Nat) (j : RtsJob) : State :=
  let d := j.desc.getD []
  let a := rtsAddr d 0x68
  let h := s.fetchBytes j.tag a 64
  match h.2 with
  | .waits => h.1
  | .failed => h.1.loadFail i 8 j
  | .got hd =>
    if !(staticHeaderOk d hd) then h.1.loadFail i 7 j
    else
      let m := h.1.fetchBytes j.tag (a + 64) (16 * le hd 4 4)
      let t := m.1.fetchBytes j.tag (rtsAddr hd 0x10) (48 * le hd 8 4)
      match m.2, t.2 with
      | .got meshes, .got tris =>
        if staticOk hd meshes tris then
          t.1.modRts i fun x =>
            let l : RtsLoad :=
              { job := j, built := some (hd ++ meshes), leaves := leavesOf hd meshes tris
                startNs := (x.load.map (·.startNs)).getD s.now }
            { x with load := some l }
        else t.1.loadFail i 7 j
      | .failed, _ => m.1.loadFail i 8 j
      | .waits, _ => m.1
      | _, .failed => t.1.loadFail i 8 j
      | _, .waits => t.1

/-- The loader loads and checks a vehicle file (R232 to R234). -/
def State.loadVehicle (s : State) (i : Nat) (j : RtsJob) : State :=
  let d := j.desc.getD []
  let a := rtsAddr d 0x68
  let h := s.fetchBytes j.tag a 64
  match h.2 with
  | .waits => h.1
  | .failed => h.1.loadFail i 8 j
  | .got hd =>
    let f := h.1.fetchBytes j.tag a (320 + 256 * min (le hd 4 2) 4096)
    match f.2 with
    | .waits => f.1
    | .failed => f.1.loadFail i 8 j
    | .got v =>
      if vehicleOk v then
        f.1.modRts i fun x =>
          { x with
            vehicle := v, vehicleValid := true
            load := some { job := j, startNs := (x.load.map (·.startNs)).getD s.now, done := true } }
      else f.1.loadFail i 7 j

/-- The bank that the next dynamic commit builds in is pinned (R239). -/
def Rts.targetPinned (x : Rts) : Bool :=
  match x.run with
  | some r => r.pinned && r.searchBank != x.active
  | none => false

/-- A row of the loader: the head of its queue is taken if it is of the row's mode, waits where it must, and is then
carried out (R234, R239). -/
def State.loadStart (s : State) (i mode memError : Nat) (f : State → Nat → RtsJob → State) : State :=
  let s := s.routeOffer
  let x := s.rtsAt i
  let job : Option RtsJob := match x.load with
    | some l => if l.built.isSome || l.done || l.job.mode != mode then none else some l.job
    | none => x.loadQueue.head?.filter fun j => j.mode == mode
  match job with
  | none => s
  | some j =>
    let s := if x.load.isSome then s
      else
        State.routeRefill (s.modRts i fun x =>
          { x with loadQueue := x.loadQueue.drop 1, load := some { job := j, startNs := s.now } })
    let code := x.check j
    if code ≠ 0 then s.loadFail i code j
    else if mode = 4 && x.targetPinned then s.modRts i fun x => { x with bankWait := true }
    else if mode ≠ 4 && x.run.isSome then s
    else
      let s := s.modRts i fun x => { x with bankWait := false }
      if memError ≠ 0 then (s.rtsMemError i memError).loadFail i 9 j else f s i j

/-- COMMIT_DYNAMIC (R239). -/
def execCommitDynamic (rtsNo memError : Nat) (s : State) : Out :=
  act s fun s => s.loadStart rtsNo 4 memError State.buildDynamic
/-- COMMIT_STATIC (R239). -/
def execCommitStatic (rtsNo memError : Nat) (s : State) : Out :=
  act s fun s => s.loadStart rtsNo 5 memError State.buildStatic
/-- LOAD_VEHICLE (R234). -/
def execLoadVehicle (rtsNo memError : Nat) (s : State) : Out :=
  act s fun s => s.loadStart rtsNo 6 memError State.loadVehicle

/-- COMMIT_SWAP (R238): the layer that is built takes effect and the world epoch advances. -/
def State.commitSwap (s : State) (i : Nat) : State :=
  s.modRts i fun x =>
    match x.load with
    | none => x
    | some l =>
      match l.built with
      | none => x
      | some b =>
        let x := { x with epoch := wrapInc 32 x.epoch, load := some { l with built := none, done := true } }
        if l.job.mode = 4 then
          { x with
            banks := tset x.banks (1 - x.active) { prims := b, stamp := l.stamp }, active := 1 - x.active
            hier := tset x.hier (1 - x.active) (Config.broadPhase b)
            worldValid := !x.lostStatic, lostDynamic := false }
        else
          { x with
            statics := b, leaves := l.leaves, hier := tset x.hier 2 (Config.broadPhase b), triCache := []
            staticValid := true, lostStatic := false
            worldValid := x.worldValid || (x.lostStatic && !x.lostDynamic) }

/-- COMMIT_SWAP (R238). -/
def execCommitSwap (rtsNo : Nat) (s : State) : Out := act s fun s => s.commitSwap rtsNo

/-! ### Plan records (R255) -/

/-- The bytes of a pose. -/
def poseBytes (p : RoutePose) : Bytes := leBytes 4 p.x ++ leBytes 4 p.y ++ leBytes 4 p.h ++ leBytes 4 p.t

/-- What goes into a plan record. -/
structure RoutePlan where
  /-- PLAN_STATUS. -/
  status : Nat
  /-- CAND_USED. -/
  used : Nat := 0xFF
  /-- PFLAGS. -/
  pflags : Nat
  /-- OUTPUT_EPOCH. -/
  outEpoch : Nat
  /-- DRIVE. -/
  drive : RouteTrack
  /-- PARTIAL. -/
  partial_ : List RoutePose := []
  /-- ITERATIONS. -/
  iterations : Nat := 0
  /-- TREE_NODES. -/
  nodes : Nat := 0
  /-- PARTIAL_GAP. -/
  gap : Nat := 0
  /-- CAND_FOUND. -/
  found : Nat := 0
  /-- CAND_FAILED. -/
  failed : Nat := 0

/-- The header of a plan record. -/
def RoutePlan.header (p : RoutePlan) (r : RtsRun) (now : Nat) : Bytes :=
  let d := r.job.desc.getD []
  let us := (now - r.startNs) / 1000
  leBytes 4 0x01504C4E ++ leBytes 1 p.status ++ leBytes 1 p.used ++ leBytes 2 p.pflags
    ++ leBytes 4 r.searchEpoch ++ leBytes 4 p.outEpoch ++ leBytes 2 (min p.drive.poses.length 512)
    ++ leBytes 2 (min p.partial_.length 512) ++ leBytes 4 p.iterations ++ leBytes 4 p.nodes ++ leBytes 4 p.drive.cost
    ++ leBytes 4 p.gap ++ leBytes 4 us ++ leBytes 4 us ++ slice d 4 4 ++ leBytes 1 p.found ++ leBytes 1 p.failed ++ zeros 14

/-- The writes of a job's output: the poses, MAP_OUT, and the header of the record (R250, R255). -/
def RoutePlan.writes (p : RoutePlan) (r : RtsRun) (now : Nat) (mapNodes : Option Bytes) : List (Nat × Bytes) :=
  let d := r.job.desc.getD []
  let a := rtsAddr d 0x60
  linesOf (a + 0x40) ((p.drive.poses.take 512).map poseBytes).flatten
    ++ linesOf (a + 0x2040) ((p.partial_.take 512).map poseBytes).flatten
    ++ (match mapNodes with
      | some m => linesOf (rtsAddr d 0x58) (leBytes 4 0x01545245 ++ leBytes 4 (m.length / 32) ++ zeros 56 ++ m)
      | none => [])
    ++ linesOf a (p.header r now)

/-- A job's output is written under its tag; the job writes nothing more once it has failed (R258). -/
def State.routeWrites (s : State) (i : Nat) (j : RtsJob) (ws : List (Nat × Bytes)) : State :=
  ws.foldl (fun s w =>
    if ((s.rtsAt i).run.map (·.status)) = some 0 then s.devAccess (.route i j.slot) j.tag w.1 w.2.length true w.2 else s) s

/-- The output of a planner job is written, and the job waits for the acknowledgements and its report (R245, R255). -/
def State.runWrite (s : State) (i : Nat) (r : RtsRun) (p : RoutePlan) (mapNodes : Option Bytes) : State :=
  let ws := p.writes r s.now mapNodes
  let r := { r with phase := .done, pinned := false, planStatus := p.status, pflags := p.pflags, left := ws.length }
  (s.modRts i fun x => { x with run := some r }).routeWrites i r.job ws

/-! ### The planner (R243 to R254) -/

/-- What a search or a check of a job looks at: the world of a dynamic bank, and what setup has read. -/
def Rts.input (x : Rts) (r : RtsRun) (bank iterations : Nat) : RouteInput :=
  let b := tget {} x.banks bank
  { desc := r.job.desc.getD [], prims := b.prims, stamp := b.stamp, statics := x.statics, tris := r.tris, vehicle := x.vehicle
    lattice := (List.range 64).map (classPrims x.vehicle), map := r.map, mapIn := r.mapIn, prev := r.prev, iterations := iterations }

/-- The stop primitive placed at the start pose (R253). -/
def stopTrack (w : RouteInput) : RouteTrack :=
  let prim := (stopPrims w.vehicle (headingIndex (le w.desc 0x18 4) % 16) (byteAt w.desc 3)).headD []
  let ps := (List.range (byteAt prim 7)).map (stopPose prim w.desc)
  { poses := ps, cost := planNum (motionCost w (stepsOf w.desc (startPose w.desc :: ps)) + q32 (le prim 8 4)) }

/-- The loader holds planner jobs: a static commit or a vehicle file is its job (R234, R239). -/
def Rts.holdsPlanner (x : Rts) : Bool :=
  match x.load with
  | some l => (l.job.mode == 5 || l.job.mode == 6) && !l.done
  | none => false

/-- The job that the planner takes next: a SAFETY job before a QM job (R243). -/
def Rts.nextPlan (x : Rts) : Option RtsJob :=
  match x.planQueue.find? (·.safety) with
  | some j => some j
  | none => x.planQueue.head?

/-- A byte string that a job reads in setup, where its address is not 0; none where a read fails. -/
def State.rtsRead (s : State) (tag a n : Nat) (want : Bool) : State × Fetch :=
  if want then s.fetchBytes tag a n else (s, .got [])

/-- The triangles of a leaf, through the triangle cache; a miss fetches the lines that hold the leaf (R235, R241). A full
cache keeps what it holds: its replacement is not architectural. -/
def State.readLeaf (s : State) (i tag : Nat) (l : RtsLeaf) : State × Fetch :=
  match tfind (s.rtsAt i).triCache l.addr with
  | some b => (s, .got b)
  | none =>
    let lo := l.addr / 64 * 64
    let q := s.fetchBytes tag lo ((l.addr + 48 * l.count + 63) / 64 * 64 - lo)
    match q.2 with
    | .got bs =>
      let b := slice bs (l.addr - lo) (48 * l.count)
      (q.1.modRts i fun x =>
        if x.triCache.length < cacheLeaves then { x with triCache := tset x.triCache l.addr b } else x, .got b)
    | f => (q.1, f)

/-- The triangles of all leaves. -/
def State.readLeaves (s : State) (i tag : Nat) (ls : List RtsLeaf) : State × Fetch :=
  ls.foldl (fun (r : State × Fetch) l =>
    match r.2 with
    | .got bs =>
      let q := r.1.readLeaf i tag l
      (q.1, match q.2 with | .got b => .got (bs ++ b) | f => f)
    | _ => r) (s, .got [])

/-- What setup comes to. -/
inductive RouteSetup where
  /-- All is read. -/
  | ready (run : RtsRun)
  /-- The job fails with a code of R258. -/
  | failed (code : Nat)
  /-- A read is held: setup goes on later. -/
  | waits
  deriving DecidableEq, Repr

/-- What setup reads: the cost map, MAP_IN, the plan to repair and the triangles (R245). -/
def State.rtsSetup (s : State) (i : Nat) (r : RtsRun) : State × RouteSetup :=
  let x := s.rtsAt i
  let d := r.job.desc.getD []
  let tag := r.job.tag
  let mode := byteAt d 0
  let m := s.rtsRead tag (rtsAddr d 0x30) (rtsPlanes d * rtsW d * rtsH d) (rtsAddr d 0x30 != 0)
  let hasIn := mode == 1 && rtsAddr d 0x50 != 0
  let h := m.1.rtsRead tag (rtsAddr d 0x50) 64 hasIn
  let n := h.1.rtsRead tag (rtsAddr d 0x50 + 64) (32 * min (le (h.2.bytes.getD []) 4 4) storeNodes) hasIn
  let repair := mode ≤ 1 && bit (byteAt d 1) 0
  let p := n.1.rtsRead tag (rtsAddr d 0x68) 0x2040 repair
  let t := p.1.readLeaves i tag x.leaves
  let all := [m.2, h.2, n.2, p.2, t.2]
  if all.contains .failed then (t.1, .failed 8)
  else if all.contains .waits then (t.1, .waits)
  else
    let got (f : Fetch) : Bytes := f.bytes.getD []
    let prev := got p.2
    if hasIn && le (got h.2) 0 4 != 0x01545245 then (t.1, .failed 7)
    else if repair && (le prev 0 4 != 0x01504C4E || le prev 0x10 2 == 0 || le prev 0x10 2 > 512) then (t.1, .failed 7)
    else (t.1, .ready { r with map := got m.2, mapIn := got n.2, prev := prev, tris := got t.2 })

/-- The flags of a record whose DRIVE is the stop primitive (R252, R253). -/
def stopFlags (r : RtsRun) (free : Bool) : Nat := r.pflags + b2n free + 2 + 4 * b2n (!free)

/-- The stop primitive's last check (R253): that of setup, or a check against the output epoch where it differs. -/
def Rts.stopFree (x : Rts) (r : RtsRun) : Bool :=
  if x.epoch = r.searchEpoch then r.stopFree
  else (trackFail (x.input r x.active 0) (stopTrack (x.input r x.active 0)).poses).isNone

/-- The output phase of a plan job (R252 to R255). -/
def State.planOutput (s : State) (i : Nat) (r : RtsRun) (found : RouteFound) (iterations tries : Nat) (noPath : Bool) : State :=
  let x := s.rtsAt i
  let d := r.job.desc.getD []
  let w := x.input r x.active iterations
  let cands := if noPath then [] else found.candidates.take (byteAt d 2)
  let tried := cands.take tries
  let r := { r with pflags := r.pflags + 32 * b2n found.exhausted }
  let free := x.stopFree r
  let base : RoutePlan :=
    { status := 0, pflags := stopFlags r free, outEpoch := x.epoch, drive := stopTrack w, iterations := found.made
      nodes := found.nodes, found := cands.length }
  let plan : RoutePlan :=
    if cands = [] then
      let np := noPath || (byteAt d 0 == 2 && found.openEmpty)
      let part := if bit r.pflags 7 then [] else found.best.poses
      { base with status := if np then 1 else 2, partial_ := part, gap := if bit r.pflags 7 then 0 else found.gap }
    else
      match (List.range tried.length).find? fun k => (trackFail w (tried.getD k {}).poses).isNone with
      | some k =>
        let c := tried.getD k {}
        { base with status := 0, used := k, pflags := r.pflags + 1 + 8 * b2n c.repaired, drive := c, failed := k }
      | none =>
        { base with
          status := 3, failed := tried.length
          pflags := stopFlags r free + 256 * b2n (tried.length < cands.length) }
  let mapOut := byteAt d 0 == 1 && rtsAddr d 0x58 != 0
  s.runWrite i r plan (if mapOut then some found.mapNodes else none)

/-- A plan job starts: setup, and the early end with NO_PATH (R245, R247, R248). -/
def State.planSetup (s : State) (i : Nat) (r : RtsRun) : State :=
  let x := s.rtsAt i
  let d := r.job.desc.getD []
  let w := x.input r r.searchBank 0
  let blocked := !(poseFree w (startPose d) fun _ => 0)
  let r := { r with phase := .search, stopFree := (trackFail w (stopTrack w).poses).isNone, pflags := 128 * b2n blocked }
  let field := waveField d r.map
  let s := s.modRts i fun x => { x with field := field }
  if blocked || !(startReached d field) then
    s.planOutput i { r with pinned := false } (routeSearch w) 0 0 true
  else s.modRts i fun x => { x with run := some r }

/-- A CHECK job (R256): the poses against the world of its start epoch, and the cost map if it has one. -/
def State.checkRun (s : State) (i : Nat) (r : RtsRun) : State :=
  let x := s.rtsAt i
  let d := r.job.desc.getD []
  let n := le d 0x70 4
  let q := s.fetchBytes r.job.tag (rtsAddr d 0x68) (16 * n)
  match q.2 with
  | .waits => q.1
  | .failed => q.1.runFail i 8 r
  | .got bs =>
    let ps := (List.range n).map fun k =>
      ({ x := le bs (16 * k) 4, y := le bs (16 * k + 4) 4, h := le bs (16 * k + 8) 4, t := le bs (16 * k + 12) 4 } : RoutePose)
    let fail := trackFail (x.input r r.searchBank 0) ps
    q.1.runWrite i r
      { status := if fail.isNone then 4 else 5, used := 0, pflags := b2n fail.isNone, outEpoch := r.searchEpoch
        drive := { poses := ps }, iterations := fail.getD 0xFFFFFFFF } none

/-- The setup of the planner's job (R245): its checks, its reads, and then the row's mode; it stays in setup while a read
is held. -/
def State.planSetUp (s : State) (i memError : Nat) (r : RtsRun) (f : State → Nat → RtsRun → State) : State :=
  let code := (s.rtsAt i).check r.job
  if code ≠ 0 then s.runFail i code r
  else
    let q := s.rtsSetup i r
    match q.2 with
    | .failed code => q.1.runFail i code r
    | .waits => q.1
    | .ready r => if memError ≠ 0 then (q.1.rtsMemError i memError).runFail i 9 r else f q.1 i r

/-- The planner takes a job from its queue (R243). -/
def State.planTake (s : State) (i : Nat) (r : RtsRun) : State :=
  State.routeRefill (s.modRts i fun x =>
    { x with planQueue := x.planQueue.filter fun k => k.slot != r.job.slot, run := some r })

/-- A row of the planner: the next job is taken if it is of the row's mode, or if it cannot be read at all (R243); a job in
setup goes on. -/
def State.planStart (s : State) (i mode memError : Nat) (f : State → Nat → RtsRun → State) : State :=
  let s := s.routeOffer
  let x := s.rtsAt i
  match x.run with
  | some r => if r.phase = .setup && r.job.mode == mode then s.planSetUp i memError r f else s
  | none =>
    match x.nextPlan with
    | none => s
    | some j =>
      if x.holdsPlanner || (j.desc.isSome && j.mode ≤ 6 && j.mode != mode) then s
      else
        let r : RtsRun :=
          { job := j, startNs := s.now, phase := .setup, searchEpoch := x.epoch, searchBank := x.active, pinned := true }
        (s.planTake i r).planSetUp i memError r f

/-- PLAN_TREE (R248). -/
def execPlanTree (rtsNo memError : Nat) (s : State) : Out := act s fun s => s.planStart rtsNo 0 memError State.planSetup
/-- PLAN_MAP (R250). -/
def execPlanMap (rtsNo memError : Nat) (s : State) : Out := act s fun s => s.planStart rtsNo 1 memError State.planSetup
/-- PLAN_LATTICE (R233). -/
def execPlanLattice (rtsNo memError : Nat) (s : State) : Out := act s fun s => s.planStart rtsNo 2 memError State.planSetup
/-- CHECK (R256). -/
def execCheck (rtsNo memError : Nat) (s : State) : Out := act s fun s => s.planStart rtsNo 3 memError State.checkRun

/-- The search of a running plan job ends and its output phase follows (R245, R252). -/
def State.endSearch (s : State) (i : Nat) (yielded : Bool) (iterations tries memError : Nat) : State :=
  let x := s.rtsAt i
  match x.run with
  | none => s
  | some r =>
    let limit := le (r.job.desc.getD []) 8 4
    if r.phase != .search || (limit != 0 && iterations > limit) then s
    else
      let r := { r with pinned := false, pflags := r.pflags + 16 * b2n yielded }
      if memError ≠ 0 then (s.rtsMemError i memError).runFail i 9 r
      else
        let found := routeSearch (x.input r r.searchBank iterations)
        (s.modRts i fun x => { x with nodes := found.mapNodes.take (32 * storeNodes), closed := found.closed }).planOutput i r
          found iterations tries false

/-- SEARCH_END (R245): `iterations` were made, and `tries` candidates could be started before the output deadline. -/
def execSearchEnd (rtsNo iterations tries memError : Nat) (s : State) : Out :=
  act s fun s => s.endSearch rtsNo false iterations tries memError

/-- YIELD (R244): a running QM plan job yields to a queued SAFETY job. -/
def execYield (rtsNo iterations tries memError : Nat) (s : State) : Out :=
  act s fun s =>
    let s := s.routeOffer
    let x := s.rtsAt rtsNo
    match x.run with
    | none => s
    | some r =>
      if r.job.safety || r.phase != .search || !(x.planQueue.any (·.safety)) then s
      else
        (s.modRts rtsNo fun x => { x with yields := sat16 x.yields }).endSearch rtsNo true iterations tries memError

/-- The report of a job: its context learns the status, and its time is charged (R245, R246, R257). -/
def State.rtsReport (s : State) (j : RtsJob) (startNs status planStatus pflags : Nat) : State :=
  let c := (s.ctx j.ctx).consist
  let s := s.charge j.slot c (8 * (s.now - startNs))
  s.modCtx j.ctx fun y => { y with routeStatus := some status, planStatus := planStatus, pflags := pflags % 512 }

/-- The planner's job reports done: TOTAL_US of its record becomes known (R255), and a report later than R254 allows sets
BUDGET_OVERRUN, in the record as well. -/
def State.runDone (s : State) (i : Nat) (r : RtsRun) (excess : Nat) : State :=
  let overran := excess ≠ 0 && r.status == 0 && r.planStatus ≤ 3
  let pflags := r.pflags + 64 * b2n overran
  let record := rtsAddr (r.job.desc.getD []) 0x60
  let s := if r.status = 0 then s.devWrite r.job.tag (record + 0x28) (leBytes 4 ((s.now - r.startNs) / 1000)) else s
  let s := if overran then s.devWrite r.job.tag (record + 6) (leBytes 2 pflags) else s
  let s := s.rtsReport r.job r.startNs r.status r.planStatus pflags
  s.modRts i fun x =>
    { x with
      run := none
      notFound := if r.status = 0 && (r.planStatus == 1 || r.planStatus == 2) then sat16 x.notFound else x.notFound
      degraded := if r.status = 0 && r.planStatus == 3 then sat16 x.degraded else x.degraded
      overruns := if overran then sat16 x.overruns else x.overruns
      maxNs := if overran then max x.maxNs (min excess (2 ^ 31 - 1)) else x.maxNs }

/-- ROUTE_JOB_DONE (R245): the job of the planner or of the loader reports; `excessNs` is the planner's time over BUDGET
where its report is later than R254 allows, else 0. -/
def execRouteJobDone (rtsNo : Nat) (loader : Bool) (excessNs : Nat) (s : State) : Out :=
  act s fun s =>
    let x := s.rtsAt rtsNo
    if loader then
      match x.load with
      | some l =>
        if l.done then
          (s.rtsReport l.job l.startNs l.status 0 0).modRts rtsNo fun x => { x with load := none }
        else s
      | none => s
    else
      match x.run with
      | some r => if r.phase = .done ∧ r.left = 0 then s.runDone rtsNo r excessNs else s
      | none => s

end Sys2Proof.Machine
end

