-- ==== Sys2Proof/Machine/Supervisor.lean ====
section
/-! DEFINITION. The supervisor port: command and response frames, status, identity, register and memory access, the image
and repair transfer, and the island commands (R446 to R462). -/

namespace Sys2Proof.Machine

/-! ### Frames (R449 to R452) -/

/-- The port answers (R447, R333): from start-up step 2, and not in a freeze. -/
def State.supAnswers (s : State) : Bool := s.live && 2 ≤ s.boot.step && s.tmt.freeze == .running

/-- The status word SW. -/
def State.statusWord (s : State) : Nat :=
  pack [(0, phaseCode s.boot.phase), (4, b2n (s.boot.ilkState == .checking)), (5, b2n s.latched),
    (6, b2n s.ilk.alertPending), (7, b2n s.tmt.valid), (8, b2n s.reload.busy), (9, b2n s.boot.repairUpdated)]

/-- SUP_INT_N (R455): low while an alert is pending, and from step 5 of a safe state's chain. -/
def State.supIntN (s : State) : Bool := !(s.ilk.alertPending || s.ilk.asserted)

/-- RSTATUS codes (R450). -/
def rsOk : Nat := 0
/-- BAD_CRC. -/
def rsBadCrc : Nat := 1
/-- RESERVED_ENCODING. -/
def rsReserved : Nat := 2
/-- BAD_LENGTH. -/
def rsBadLength : Nat := 3
/-- NOT_NOW. -/
def rsNotNow : Nat := 4
/-- TIMEOUT. -/
def rsTimeout : Nat := 5
/-- DENIED. -/
def rsDenied : Nat := 6
/-- SEQUENCE. -/
def rsSequence : Nat := 7
/-- REFUSED. -/
def rsRefused : Nat := 8

/-- Change the supervisor port. -/
def State.modSup (s : State) (f : Sup → Sup) : State := { s with sup := f s.sup }

/-- The response frame (R450, R451); its data are empty unless RSTATUS is OK. -/
def State.respond (s : State) (cmd : SupFrame) (status : Nat) (data : Bytes) : State :=
  let data := if status = rsOk then data else []
  let body := leBytes 1 status ++ leBytes 1 (cmd.seq % 16) ++ leBytes 2 s.statusWord ++ leBytes 4 data.length ++ data
  s.modSup fun x => { x with response := body ++ leBytes 4 (crc32c body) }

/-- The bytes of a command frame that its CRC covers (R451). -/
def frameBytes (op : Nat) (cmd : SupFrame) : Bytes :=
  leBytes 1 (cmd.opcode.getD op) ++ leBytes 1 cmd.seq ++ leBytes 1 cmd.cflags ++ leBytes 1 cmd.res ++ leBytes 4 cmd.length
    ++ leBytes 8 cmd.addr ++ cmd.payload

/-- An OPCODE outside the table, or a non-zero RES field of the header; LAST belongs to IMAGE_LOAD alone (R449, R452). -/
def frameReserved (op : Nat) (cmd : SupFrame) : Bool :=
  cmd.opcode.isSome || 16 ≤ cmd.seq || 2 ≤ cmd.cflags || (cmd.cflags == 1 && op != 0x10) || cmd.res != 0

/-- A command is checked and takes effect (R451, R452): its CRC, its OPCODE and reserved bits, its "Accepted" condition, its LENGTH
and alignment, and then `f`, which gives RSTATUS, the response data and the state. -/
def State.command (s : State) (op : Nat) (cmd : SupFrame) (accepted shape : Bool)
    (f : State → Nat × Bytes × State) : State :=
  if !s.supAnswers then s
  else if crc32c (frameBytes op cmd) ≠ cmd.crc then
    (s.modSup fun x => { x with crcErrors := sat16 x.crcErrors }).respond cmd rsBadCrc []
  else if frameReserved op cmd then s.respond cmd rsReserved []
  else if !accepted then s.respond cmd rsNotNow []
  else if !shape then s.respond cmd rsBadLength []
  else
    let r := f s
    r.2.2.respond cmd r.1 r.2.1

/-- A command that carries no payload and asks for no bytes. -/
def bare (cmd : SupFrame) : Bool := cmd.length == 0 && cmd.payload == []

/-- A command of the bulk path (R453): one that misses its bound is answered TIMEOUT, with or without its effect. -/
def State.bulk (s : State) (bound : SupBound) (f : State → Nat × Bytes × State) : Nat × Bytes × State :=
  let late (t : State) : Nat × Bytes × State := (rsTimeout, [], t.modSup fun x => { x with timeouts := sat16 x.timeouts })
  match bound with
  | .met =>
    let r := f s
    if r.1 = rsTimeout then late r.2.2 else r
  | .lateDone => late (f s).2.2
  | .lateLost => late s

/-! ### Status, heartbeat, identity (R454, R461) -/

/-- The normal status frame (R454). -/
def State.normalFrame (s : State) : Bytes :=
  let body := leBytes 1 0x5A ++ zeros 1 ++ leBytes 2 s.statusWord ++ leBytes 4 s.bootStatus ++ leBytes 4 s.reloadStatus
    ++ leBytes 4 s.ilkStatus ++ leBytes 4 s.tmtStatus ++ leBytes 1 s.dframes ++ zeros 3 ++ leBytes 4 s.ilk.nextAlert
    ++ leBytes 4 s.ilk.frame ++ leBytes 8 (s.now / 1000000000) ++ leBytes 4 (s.now % 1000000000)
    ++ leBytes 4 s.sup.hbCount ++ (if s.boot.identityReadable then slice s.identity 0 8 else zeros 8) ++ zeros 4
  body ++ leBytes 4 (crc32c body)

/-- STATUS_READ (R291 step 5, R454): the response clears ALERT_PENDING. -/
def execStatusRead (cmd : SupFrame) (s : State) : Out :=
  act s fun s =>
    let t := s.command 0x01 cmd true (bare cmd && cmd.addr == 0) fun s =>
      (rsOk, if s.ilk.asserted then s.safeFrame else s.normalFrame, s)
    if s.supAnswers && t.sup.response.head? == some 0 then { t with ilk := { t.ilk with alertPending := false } } else t

/-- HEARTBEAT (R461). -/
def execHeartbeat (cmd : SupFrame) (s : State) : Out :=
  act s fun s =>
    s.command 0x02 cmd true (cmd.length == 4 && cmd.payload.length == 4) fun s =>
      let n := wrapInc 32 s.sup.hbCount
      let data := leBytes 4 (crc32c (cmd.payload ++ leBytes 4 n)) ++ leBytes 4 n ++ leBytes 4 s.ilk.frame
        ++ leBytes 1 (pack [(0, ilkStateCode s.boot.ilkState), (3, b2n s.latched), (4, b2n s.ilk.lockstep)]) ++ zeros 3
      (rsOk, data, s.modSup fun x => { x with hbCount := n })

/-- IDENTITY_READ (R452): the identity digest and the PUF public key. -/
def execIdentityRead (cmd : SupFrame) (s : State) : Out :=
  act s fun s =>
    s.command 0x03 cmd s.boot.identityReadable (bare cmd) fun s =>
      (rsOk, slice s.identity 0 48 ++ slice Config.pufPublicKey 0 97, s)

/-! ### Registers and memory (R452, R453, R462) -/

/-- Every byte of the range lies in the SUP, ILK, HDW or TMT block. -/
def islandRange (cmd : SupFrame) : Bool := ctlBase ≤ cmd.addr && cmd.addr + cmd.length ≤ ctlBase + 0x4000

/-- The "Accepted" condition of REG_READ and REG_WRITE. -/
def State.regAccepted (s : State) (cmd : SupFrame) : Bool := islandRange cmd || 3 ≤ s.boot.step

/-- LENGTH and ADDR of REG_READ and REG_WRITE. -/
def regShape (cmd : SupFrame) : Bool := cmd.addr % 4 == 0 && 4 ≤ cmd.length && cmd.length ≤ 256 && cmd.length % 4 == 0

/-- The bytes of the next control-bus access of a transfer: 8 where the address and the rest allow it. -/
def busStep (a n : Nat) : Nat := if a % 8 = 0 ∧ 8 ≤ n then 8 else 4

/-- A register read over the supervisor port's path, access by access. -/
def State.regsRead : Nat → Nat → Nat → State → Option Bytes × State
  | 0, _, _, s => (some [], s)
  | fuel + 1, a, n, s =>
    if n = 0 then (some [], s)
    else
      let k := busStep a n
      let s := s.pathAccess 0 a k false [] false
      if s.answered then
        let r := State.regsRead fuel (a + k) (n - k) s
        (r.1.map (slice s.resp.bytes 0 k ++ ·), r.2)
      else (none, s)

/-- A register write over the supervisor port's path, access by access. -/
def State.regsWrite : Nat → Nat → Bytes → Bool → State → Bool × State
  | 0, _, _, _, s => (true, s)
  | fuel + 1, a, bs, h, s =>
    if bs = [] then (true, s)
    else
      let k := busStep a bs.length
      let s := s.pathAccess 0 a k true (bs.take k) h
      if s.answered then State.regsWrite fuel (a + k) (bs.drop k) h s else (false, s)

/-- The registers of the island blocks are served by the island, whatever the bulk path does (R453). -/
def boundOf (cmd : SupFrame) (bound : SupBound) : SupBound := if islandRange cmd then .met else bound

/-- REG_READ (R452). -/
def execRegRead (cmd : SupFrame) (bound : SupBound) (s : State) : Out :=
  act s fun s =>
    s.command 0x08 cmd (s.regAccepted cmd) (regShape cmd && cmd.payload == []) fun s =>
      s.bulk (boundOf cmd bound) fun s =>
        let r := State.regsRead 64 cmd.addr cmd.length s
        (if r.1.isSome then rsOk else rsDenied, r.1.getD [], r.2)

/-- REG_WRITE (R452); `hartsStopped` says what R406 asks of a cluster that a write of SLC_SECURE_REL lets go off. -/
def execRegWrite (cmd : SupFrame) (bound : SupBound) (hartsStopped : Bool) (s : State) : Out :=
  act s fun s =>
    s.command 0x09 cmd (s.regAccepted cmd) (regShape cmd && cmd.payload.length == cmd.length) fun s =>
      s.bulk (boundOf cmd bound) fun s =>
        let r := State.regsWrite 64 cmd.addr cmd.payload hartsStopped s
        (if r.1 then rsOk else rsDenied, [], r.2)

/-- LENGTH and ADDR of MEM_READ and MEM_WRITE. -/
def memShape (cmd : SupFrame) : Bool := cmd.addr % 64 == 0 && 64 ≤ cmd.length && cmd.length ≤ 4096 && cmd.length % 64 == 0

/-- RSTATUS after an access of the bulk path: one that is held does not end within its bound. -/
def State.bulkStatus (s : State) : Nat :=
  match s.resp.kind with
  | .data => rsOk
  | .held => rsTimeout
  | _ => rsDenied

/-- A memory read under tag 0x0FE (R462), line by line. -/
def State.linesRead : Nat → Nat → State → Nat × Bytes × State
  | 0, _, s => (rsOk, [], s)
  | n + 1, a, s =>
    let s := s.devRead bulkTag a 64
    if s.bulkStatus = rsOk then
      let r := State.linesRead n (a + 64) s
      (r.1, slice s.resp.bytes 0 64 ++ r.2.1, r.2.2)
    else (s.bulkStatus, [], s)

/-- A memory write under tag 0x0FE (R462), line by line. -/
def State.linesWrite : Nat → Nat → Bytes → State → Nat × State
  | 0, _, _, s => (rsOk, s)
  | n + 1, a, bs, s =>
    let s := s.devWrite bulkTag a (bs.take 64)
    if s.bulkStatus = rsOk then State.linesWrite n (a + 64) (bs.drop 64) s else (s.bulkStatus, s)

/-- MEM_READ (R452, R462). -/
def execMemRead (cmd : SupFrame) (bound : SupBound) (s : State) : Out :=
  act s fun s =>
    s.command 0x0A cmd s.phaseUp (memShape cmd && cmd.payload == []) fun s =>
      s.bulk bound fun s => State.linesRead (cmd.length / 64) cmd.addr s

/-- MEM_WRITE (R452, R462). -/
def execMemWrite (cmd : SupFrame) (bound : SupBound) (s : State) : Out :=
  act s fun s =>
    s.command 0x0B cmd s.phaseUp (memShape cmd && cmd.payload.length == cmd.length) fun s =>
      s.bulk bound fun s =>
        let r := State.linesWrite (cmd.length / 64) cmd.addr cmd.payload s
        (r.1, [], r.2)

/-! ### IMAGE_LOAD and REPAIR_READ (R456, R457) -/

/-- IMAGE_LOAD is accepted as a boot image. -/
def State.loadsBoot (s : State) : Bool := (s.boot.phase == .load || s.boot.phase == .failed) && s.boot.supLoad
/-- IMAGE_LOAD is accepted as a partial image. -/
def State.loadsPartial (s : State) : Bool := s.phaseUp && !(1 ≤ s.stm.fwState && s.stm.fwState ≤ 4)

/-- Start-up restarts at step 5 after a failure (R57, R456): the blocks are as after step 4; the island keeps its time, its
latch and its counters. -/
def State.restartLoad (s : State) : State :=
  let repaired := s.banks.filter fun e => e.2.fenced || e.2.spares != []
  let bare (b : Bank) : Bank := { fenced := b.fenced, noSweep := b.noSweep, spares := b.spares }
  let banks := repaired.foldl (fun m e =>
      tmod {} m e.1 fun b => { b with fenced := e.2.fenced, noSweep := e.2.noSweep, spares := e.2.spares })
    ((repaired.map fun e => (e.1, bare e.2)).filter (fun e => e.1 < 1024) ++ bootBanks
      ++ (repaired.map fun e => (e.1, bare e.2)).filter fun e => 1056 ≤ e.1)
  { s with
    boot := { phase := .load, step := 4, identityReadable := true, supLoad := true, banksFenced := s.boot.banksFenced
              slotACode := s.boot.slotACode, slotAFailed := s.boot.slotAFailed, slotARead := s.boot.slotARead }
    reload := {}, sections := [], basins := [], clocks := bootClocks true, banks := banks, blocks := [], dram := []
    repair := { built := s.repair.built }, slc := {}, sbx := {}, ttb := {}, stm := { logSeq := s.stm.logSeq, reports := s.stm.reports }
    ilk := { s.ilk with
      toHand := [], laneSafety := [], laneQm := [], headers := [], taps := [], classes := [], rate := [], cross := []
      obst := [], goldenPending := false, testing := none }
    kvc := {}, rts := [], pts := {}, jct := {}, mwl := {}, ftn := {}, mons := []
    pwr := { onBackup := s.pwr.onBackup, bkLow := s.pwr.bkLow, bkCheckFail := s.pwr.bkCheckFail
             bkLowEvents := s.pwr.bkLowEvents } }

/-- The whole image stands in staging: its verification starts (R456). -/
def State.loadEnds (s : State) (x : SupImage) : State :=
  let img := s.rd rsvBase x.len
  let s := s.modSup fun y => { y with image := none }
  if x.partialImage then s.reloadStaged img
  else { s with boot := { s.boot with imageStaged := true, image := img, bootSrc := .supervisor, ilkState := .verify } }

/-- A chunk that belongs to the open image is written to staging. -/
def State.loadChunk (s : State) (cmd : SupFrame) (x : SupImage) : State :=
  let s := s.wr (rsvBase + cmd.addr) cmd.payload
  let x := { x with next := cmd.addr + cmd.length }
  let s := s.modSup fun y => { y with image := some x, lastChunk := some (cmd.addr, cmd.length, cmd.crc) }
  if cmd.cflags = 1 then s.loadEnds x else s

/-- The image that is open is abandoned (R456). -/
def State.loadAbandon (s : State) : State :=
  match s.sup.image with
  | none => s
  | some x =>
    let s := s.scrubStaging.modSup fun y => { y with image := none, lastChunk := none }
    if x.partialImage then s.modReload fun r => { r with state := .idle } else s

/-- A chunk at ADDR 0 opens an image (R456): too long a one is rejected at once, and so is a partial image while another
reload is in work. -/
def State.loadOpen (s : State) (cmd : SupFrame) : State :=
  let s := s.modSup fun y => { y with lastChunk := some (cmd.addr, cmd.length, cmd.crc), image := none }
  let len := imgLen cmd.payload
  if s.phaseUp then
    if s.reload.state == .verifying || s.reload.armed then s.reloadReject 0x23
    else
      let s := s.reloadOpen
      if maxImage < len then s.reloadReject 0x05
      else s.scrubStaging.loadChunk cmd { partialImage := true, len := len }
  else
    let s := if s.boot.phase == .failed then s.restartLoad else s
    let s : State := { s with boot := { s.boot with imageStaged := false, image := [], bootSrc := .supervisor, ilkState := .rom } }
    if maxImage < len then s.bootFail { code := 0x05 } true
    else s.scrubStaging.loadChunk cmd { partialImage := false, len := len }

/-- The end of a chunk against IMAGE_LEN: it does not run past it, and LAST marks exactly the end. -/
def chunkFits (cmd : SupFrame) (len : Nat) : Bool :=
  cmd.addr + cmd.length ≤ len && (cmd.cflags != 1 || cmd.addr + cmd.length == len)

/-- The chunk rules of R456. -/
def State.imageChunk (s : State) (cmd : SupFrame) : Nat × State :=
  if s.sup.lastChunk = some (cmd.addr, cmd.length, cmd.crc) then (rsOk, s)
  else if cmd.length = 0 then
    if cmd.addr = 0 ∧ cmd.cflags = 0 then (rsOk, s.loadAbandon) else (rsBadLength, s)
  else if cmd.addr = 0 then
    if cmd.length < 256 then (rsBadLength, s)
    else if imgLen cmd.payload ≤ maxImage ∧ !(chunkFits cmd (imgLen cmd.payload)) then (rsBadLength, s)
    else (rsOk, s.loadOpen cmd)
  else
    match s.sup.image with
    | none => (rsSequence, s)
    | some x =>
      if cmd.addr ≠ x.next then (rsSequence, s)
      else if !(chunkFits cmd x.len) then (rsBadLength, s)
      else (rsOk, s.loadChunk cmd x)

/-- LENGTH of a chunk: 64 to 4,096 B in steps of 64, shorter with LAST, or 0 to abandon. -/
def chunkShape (cmd : SupFrame) : Bool :=
  cmd.payload.length == cmd.length && cmd.length ≤ 4096
    && (cmd.length == 0 || cmd.cflags == 1 || cmd.length % 64 == 0)

/-- IMAGE_LOAD (R456). -/
def execImageLoad (cmd : SupFrame) (bound : SupBound) (s : State) : Out :=
  act s fun s =>
    s.command 0x10 cmd (s.loadsBoot || s.loadsPartial) (chunkShape cmd) fun s =>
      s.bulk bound fun s =>
        let r := s.imageChunk cmd
        (r.1, [], r.2)

/-- REPAIR_READ (R457). -/
def execRepairRead (cmd : SupFrame) (bound : SupBound) (s : State) : Out :=
  act s fun s =>
    s.command 0x11 cmd s.boot.repairUpdated
      (memShape cmd && cmd.payload == [] && cmd.addr + cmd.length ≤ 16384) fun s =>
      s.bulk bound fun s => (rsOk, slice s.repair.sealed cmd.addr cmd.length, s)

/-! ### Island commands (R458 to R460) -/

/-- SAFE_REQUEST (R460): the cause SUPERVISOR_REQUEST; any other ADDR is reserved. -/
def execSafeRequest (cmd : SupFrame) (s : State) : Out :=
  act s fun s =>
    s.command 0x20 cmd true (bare cmd) fun s =>
      if cmd.addr = 0x5AFE000D then (rsOk, [], s.latch 0x0D 0) else (rsReserved, [], s)

/-- The W1C fields of an ILK, HDW or TMT register take a value (R459); none where ADDR names no such register. -/
def State.counterClear (s : State) (addr v : Nat) : Option State :=
  let o := addr - ctlBase
  let c := s.classShown 0
  let p := (s.camShown 0).1
  let i := s.ilk
  if addr < ctlBase then none
  else if o = 0x1028 then
    some { s with ilk := { i with
      tapFailsExpress := onesClear i.tapFailsExpress v 0 16, tapFailsQm := onesClear i.tapFailsQm v 16 16
      ruleFails := onesClear i.ruleFails v 32 16, agreeForced := onesClear i.agreeForced v 48 16 } }
  else if o = 0x1038 then some { s with ilk := { i with goldenFails := onesClear i.goldenFails v 8 8 } }
  else if o = 0x1044 then
    some { s with ilk := { i with
      writeDenied := onesClear i.writeDenied v 0 16, badPtr := onesClear i.badPtr v 16 16 } }
  else if o = 0x2010 then
    some (s.modHdw c fun x =>
      { x with
        expired := onesClear x.expired v 0 16, late := onesClear x.late v 16 16
        originUnknown := onesClear x.originUnknown v 32 16, duplicate := onesClear x.duplicate v 48 16 })
  else if o = 0x2018 then some (s.modHdw c fun x => { x with maxAge := onesClear x.maxAge v 0 32 })
  else if o = 0x3020 then
    some (s.modTmt fun t =>
      { t with syncRejected := onesClear t.syncRejected v 16 16, trigOverlap := onesClear t.trigOverlap v 32 16 })
  else if o = 0x305C then some (s.modCam p fun x => { x with orphanLines := onesClear x.orphanLines v 18 14 })
  else if o = 0x3060 then
    some (s.modCam p fun x =>
      { x with crcErrors := onesClear x.crcErrors v 0 16, hdrErrors := onesClear x.hdrErrors v 16 16 })
  else if 0x3100 ≤ o ∧ o < 0x3200 ∧ o % 16 = 12 then
    some (s.modCap ((o - 0x3100) / 16) fun x =>
      { x with overflow := onesClear x.overflow v 16 8, ignored := onesClear x.ignored v 24 8 })
  else none

/-- COUNTER_CLEAR (R459). -/
def execCounterClear (cmd : SupFrame) (s : State) : Out :=
  act s fun s =>
    s.command 0x21 cmd true (cmd.length == 8 && cmd.payload.length == 8) fun s =>
      let t := s.counterClear cmd.addr (leNat cmd.payload)
      (if t.isSome then rsOk else rsReserved, [], t.getD s)

/-- TIME_SET (R319, R458): at once, or armed for the next accepted edge of a capture input. -/
def execTimeSet (cmd : SupFrame) (instant : Nat) (s : State) : Out :=
  act s fun s =>
    let s := s.reach instant
    s.command 0x22 cmd true (cmd.length == 16 && cmd.payload.length == 16) fun s =>
      let ns := le cmd.payload 8 4
      let src := byteAt cmd.payload 12
      let v := le cmd.payload 0 8 * 1000000000 + ns
      if 1000000000 ≤ ns ∨ 16 < src ∨ !(zeroAt cmd.payload 13 3) then (rsReserved, [], s)
      else if s.timeMode ≠ 2 ∨ s.tmt.stepped then (rsRefused, [], s)
      else if src = 0 then (rsOk, [], s.timeSet v s.now)
      else (rsOk, [], s.modTmt fun t => { t with armedSet := some { src := src, valueNs := v, lapseNs := s.now + 2000000000 } })

/-- TRANSACTION_ABORT (R453): the host abandons the response of the last command. -/
def execTransactionAbort (s : State) : Out :=
  act s fun s =>
    if s.supAnswers then s.modSup fun x => { x with aborts := sat16 x.aborts, response := [] } else s

end Sys2Proof.Machine
end

