-- ==== Sys2Proof/Machine/Tap.lean ====
section
/-! DEFINITION. The test access port: the instructions, scan chains and memories of the read-out, and the debug module
under the debug enables (R387, R388, R492 to R497). -/

namespace Sys2Proof.Machine

/-- Change the test access port. -/
def State.modTapPort (s : State) (f : TapPort → TapPort) : State := { s with tapPort := f s.tapPort }

/-- An instruction is loaded, and nothing has been shifted through its data register yet. -/
def State.tapLoad (s : State) (code : Nat) : State := s.modTapPort fun t => { t with instr := code, out := (0, 0) }

/-- Step 5 of R332 is reached: FROZEN. -/
def State.frozen (s : State) : Bool := s.tmt.freeze == .frozen

/-- SLUICE sets TAP_READOUT (R388). -/
def State.tapReadout (s : State) : Bool := bit (byteAt (s.sec secSluice) 4) 0

/-- EXTEST, CLAMP or HIGHZ is in force (R493): both SAFE_N pull-downs are on then, and the boundary cells hold the other
outputs. At other times these instructions act as BYPASS. -/
def State.boundaryInForce (s : State) : Bool :=
  (s.tapPort.instr == 0x00 || s.tapPort.instr == 0x03 || s.tapPort.instr == 0x04) && (!s.pins.porstN || s.frozen)

/-- The SAFE_N ball is pulled low by the device: the command is low, the pad has no VDD_IO, or a boundary instruction is
in force (R29, R31, R493). -/
def State.safeNPulled (s : State) : Bool := !s.pins.safeNCmd || !s.pins.safeNDriven || s.boundaryInForce

/-! ### Instructions that select a register (R492, R493) -/

/-- EXTEST (R493). -/
def execExtest (s : State) : Out := .next (s.tapLoad 0x00)

/-- SAMPLE/PRELOAD (R492). -/
def execSamplePreload (s : State) : Out := .next (s.tapLoad 0x02)

/-- CLAMP (R493). -/
def execClamp (s : State) : Out := .next (s.tapLoad 0x03)

/-- HIGHZ (R493). -/
def execHighz (s : State) : Out := .next (s.tapLoad 0x04)

/-- IDCODE (R492): 32 bits, version 3, part 0xB048. -/
def execIdcode (s : State) : Out := .next ((s.tapLoad 0x01).modTapPort fun t => { t with out := (32, 0x3B048B4F) })

/-- BYPASS (R492): `count` bits shift through the one-bit register, which captures 0. -/
def execBypass (bits count : Nat) (s : State) : Out :=
  .next ((s.tapLoad 0xFF).modTapPort fun t => { t with out := (count, (2 * bits) % 2 ^ count) })

/-! ### The freeze and its release (R492, R495) -/

/-- Bits of a scan chain, stepping B1 (R494); chain 62 and numbers outside 1 to 72 have none. -/
def chainLength (c : Nat) : Nat :=
  if c = 0 then 0
  else if c ≤ 8 then 3211264 else if c = 9 then 1048576 else if c = 10 then 262144 else if c = 11 then 524288
  else if c ≤ 13 then 131072 else if c = 14 then 16384 else if c = 15 then 8192 else if c ≤ 23 then 98304
  else if c ≤ 25 then 65536 else if c ≤ 35 then 16384 else if c = 36 then 32768 else if c ≤ 52 then 8192
  else if c ≤ 56 then 16384 else if c ≤ 60 then 32768 else if c = 61 then 4096 else if c = 62 then 0
  else if c ≤ 64 then 2097152 else if c = 65 then 524288 else if c = 66 then 262144 else if c ≤ 68 then 393216
  else if c = 69 then 131072 else if c = 70 then 65536 else if c = 71 then 131072 else if c = 72 then 8192 else 0

/-- The bits shifted from the selected chain are not a whole multiple of its length (R495). -/
def State.rotationPending (s : State) : Bool := s.tapPort.shifted != 0

/-- FREEZE_STATUS (R492). -/
def execFreezeStatus (s : State) : Out :=
  .next ((s.tapLoad 0x10).modTapPort fun t =>
    { t with out := (8, pack [(0, b2n s.frozen), (1, b2n s.tmt.freezeByEvent), (2, b2n s.tapReadout),
      (3, b2n s.rotationPending)]) })

/-- SCAN_SELECT (R492, R495): while FROZEN, unless a rotation is pending. -/
def execScanSelect (chain : Nat) (s : State) : Out :=
  let t := s.tapLoad 0x11
  .next (if s.frozen && !s.rotationPending then t.modTapPort fun t => { t with chain := chain, shifted := 0 } else t)

/-- Bits in shifting order, the first least significant. -/
def bitsNat : List Bool → Nat
  | [] => 0
  | b :: r => b2n b + 2 * bitsNat r

/-- SCAN_READ (R494): `count` bits leave the tail and re-enter at the head; without TAP_READOUT they read 0 (R388). -/
def execScanRead (count : Nat) (s : State) : Out :=
  let t := s.tapLoad 0x12
  let c := s.tapPort.chain
  let n := chainLength c
  .next (t.modTapPort fun t =>
    if !s.frozen then { t with out := (count, 0) }
    else
      let value i := s.tapReadout && n != 0 && Config.scanBit s.freeCtr c ((s.tapPort.shifted + i) % n)
      { t with out := (count, bitsNat ((List.range count).map value)), shifted := (t.shifted + count) % n })

/-- RELEASE (R492, R495): ends an event freeze, unless a rotation is pending. -/
def execRelease (s : State) : Out :=
  let t := s.tapLoad 0x18
  .next (if s.frozen && s.tmt.freezeByEvent && !s.rotationPending then t.releaseFreeze else t)

/-! ### Memories (R496) -/

/-- MEM_SELECT (R492). -/
def execTapMemSelect (value : Nat) (s : State) : Out :=
  let t := s.tapLoad 0x13
  .next (if s.frozen then
    t.modTapPort fun t => { t with memId := fld value 0 16, memEcc := bit value 16, memWord := fld value 24 32 } else t)

/-- Words of a memory; a MEM_ID that names none has 0 (R496). -/
def memoryWords (id : Nat) : Nat :=
  if id = 0x0001 ∨ id = 0x0002 then 32768
  else if id = 0x0003 then 8192
  else if id = 0x0010 then 1572864
  else if id = 0x0011 then 524288
  else if id = 0x0012 then 98304
  else if id = 0x0018 then 262144
  else if id = 0x0020 then 131072
  else if 0x0100 ≤ id ∧ id < 0x0140 then 265216
  else if 0x0200 ≤ id ∧ id < 0x0208 then 530432
  else if id = 0x0300 ∨ id = 0x0301 then 3022880
  else if id = 0x0400 then 32768
  else if id = 0x0401 then 524288
  else if id = 0x0500 ∨ id = 0x0501 then 2228224
  else if id = 0x0502 then 147456
  else if id = 0x0503 then 163840
  else 0

/-- The address of a word of a Pool or of a Reservoir slice, where the word is not poisoned and stands in a row of a powered
bank that no spare and no sweep row stands in for: 2,048 lines of 8 words a bank, then its 24 spare-row lines (R496). -/
def State.storedWord (s : State) (id w : Nat) : Option Nat :=
  let i := w / 16576
  let j := w % 16576
  let k := if id < 0x0200 then 16 * (id - 0x0100) + i else 1024 + 32 * (id - 0x0200) + i
  let b := s.bank k
  if (0x0100 ≤ id ∧ id < 0x0140 ∨ 0x0200 ≤ id ∧ id < 0x0208) ∧ j < 16384 then
    if b.pwrState == .off || b.transition.isSome || b.spares.any (fun e => e.1 == 1 && e.2 == j / 32) || b.degraded
      || b.poison.contains j then none
    else some (bankBase k + 8 * j)
  else none

/-- The bits that a word shifts: as stored; what the model does not hold as bytes is a free value. -/
def State.tapWord (s : State) (id w : Nat) : Nat :=
  let x := (Config.tapWord s.freeCtr id w).toNat
  match s.storedWord id w with
  | some a => s.rdLe a 8 + 2 ^ 64 * (x / 2 ^ 64)
  | none => x

/-- Words packed `w` bits apart, the first least significant. -/
def packWords (w : Nat) : List Nat → Nat
  | [] => 0
  | v :: r => v % 2 ^ w + 2 ^ w * packWords w r

/-- MEM_READ (R496): `count` words, on from the word after the last one shifted; past the memory's end, and without
TAP_READOUT, zeros. -/
def execTapMemRead (count : Nat) (s : State) : Out :=
  let t := s.tapLoad 0x14
  let p := s.tapPort
  let width := if p.memEcc then 72 else 64
  .next (t.modTapPort fun t =>
    if !s.frozen then { t with out := (width * count, 0) }
    else
      let value i :=
        if s.tapReadout && p.memWord + i < memoryWords p.memId then s.tapWord p.memId (p.memWord + i) else 0
      { t with
        out := (width * count, packWords width ((List.range count).map value)), memWord := p.memWord + count })

/-! ### The debug module (R264, R387) -/

/-- A request reaches a hart that the enables allow it on. -/
def State.debugAct (s : State) (h request : Nat) : State :=
  let s := s.modTapPort fun t => { t with dmi := .done }
  let broken (s : State) : State :=
    if h ≥ 20 then s.breakLockstep else if h ≥ 16 then s.breakPair ((h - 16) % 2) else s
  match request with
  | 0 => broken (s.modHart h fun x => { x with debugHalted := true })
  | 3 =>
    let i := s.freeCtr
    s.draw.2.modTapPort fun t =>
      { t with out := (64, (Config.freeWord i 0).toNat + 2 ^ 32 * (Config.freeWord i 1).toNat) }
  | 4 => s.modHart h fun x => { x with debugHalted := false }
  | _ => broken s

/-- A debug-module request (R387): 0 halt, 1 step, 2 write, 3 read or trace, 4 resume; hart 20 or 21 is a core of the
Interlocking. A halt of a hart inside an enclave without DEBUG is held until the hart exits. -/
def State.debugRequest (s : State) (h request : Nat) : State :=
  let x := s.hart h
  let w := s.debugWorld h
  let enabled := bit s.slc.dbgInv w || (request == 3 && bit s.slc.dbgNonInv w)
  if x.enclave ≠ 0 && !(s.enclave x.enclave).debug then
    if request = 0 then
      (s.modHart h fun x => { x with haltHeld := true }).modTapPort fun t => { t with dmi := .held }
    else s.modTapPort fun t => { t with dmi := .unavailable }
  else if enabled then s.debugAct h request
  else s.modTapPort fun t => { t with dmi := .unavailable }

/-- DEBUG (R387, R492): the instruction is loaded and a request made; the harts answer while the device runs. -/
def execDebug (hart : Nat) (request : Nat) (s : State) : Out :=
  let t := s.tapLoad 0x1F
  .next (if s.live then t.debugRequest hart request else t.modTapPort fun t => { t with dmi := .unavailable })

end Sys2Proof.Machine
end

