-- ==== Sys2Proof/Machine/Dispatch.lean ====
section
/-! DEFINITION. One arm per row of the table of operations and events; each arm is one direct call of the meaning of its row. -/

namespace Sys2Proof.Machine

def exec (i : Instr) (s : State) : Host.Outcome State Fault Refusal :=
  match i with
  | .porstNAssert => Sys2Proof.Machine.execPorstNAssert s
  | .resetNAssert => Sys2Proof.Machine.execResetNAssert s
  | .resetRelease porst bootSel fabricLocked pufOk memoriesOk backupOk march => Sys2Proof.Machine.execResetRelease porst bootSel fabricLocked pufOk memoriesOk backupOk march s
  | .imageStaged readable content => Sys2Proof.Machine.execImageStaged readable content s
  | .stmVerifyDone locked => Sys2Proof.Machine.execStmVerifyDone locked s
  | .memoryTrainingDone trained march badSweepRows => Sys2Proof.Machine.execMemoryTrainingDone trained march badSweepRows s
  | .ilkVerifyDone agrees => Sys2Proof.Machine.execIlkVerifyDone agrees s
  | .slice0Handoff => Sys2Proof.Machine.execSlice0Handoff s
  | .startupSelftestDone failing => Sys2Proof.Machine.execStartupSelftestDone failing s
  | .startupGoldenDone instant => Sys2Proof.Machine.execStartupGoldenDone instant s
  | .safeNRelease => Sys2Proof.Machine.execSafeNRelease s
  | .repairWriteBack => Sys2Proof.Machine.execRepairWriteBack s
  | .reloadVerifyDone agrees => Sys2Proof.Machine.execReloadVerifyDone agrees s
  | .ttschedSwap => Sys2Proof.Machine.execTtschedSwap s
  | .consisttplSwap => Sys2Proof.Machine.execConsisttplSwap s
  | .rulesSwap => Sys2Proof.Machine.execRulesSwap s
  | .rulesRetire => Sys2Proof.Machine.execRulesRetire s
  | .clockMonitorWindow counts locked pixelKHz => Sys2Proof.Machine.execClockMonitorWindow counts locked pixelKHz s
  | .refClkLoss => Sys2Proof.Machine.execRefClkLoss s
  | .vddIoLoss => Sys2Proof.Machine.execVddIoLoss s
  | .sluiceAccess acc hartsStopped => Sys2Proof.Machine.execSluiceAccess acc hartsStopped s
  | .bankAccess bank req => Sys2Proof.Machine.execBankAccess bank req s
  | .tapRecordReceive link flips crcFlips => Sys2Proof.Machine.execTapRecordReceive link flips crcFlips s
  | .listStart basin kernelPtr context tag node generation => Sys2Proof.Machine.execListStart basin kernelPtr context tag node generation s
  | .nop basin => Sys2Proof.Machine.execNop basin s
  | .dma visit => Sys2Proof.Machine.execDma visit s
  | .matmul basin => Sys2Proof.Machine.execMatmul basin s
  | .conv basin => Sys2Proof.Machine.execConv basin s
  | .attn visit => Sys2Proof.Machine.execAttn visit s
  | .rill basin => Sys2Proof.Machine.execRill basin s
  | .transpose visit => Sys2Proof.Machine.execTranspose visit s
  | .jet basin => Sys2Proof.Machine.execJet basin s
  | .barrier basin => Sys2Proof.Machine.execBarrier basin s
  | .haloSignal basin => Sys2Proof.Machine.execHaloSignal basin s
  | .haloSignalDeliver basin => Sys2Proof.Machine.execHaloSignalDeliver basin s
  | .haloWait basin => Sys2Proof.Machine.execHaloWait basin s
  | .haloTimeout basin => Sys2Proof.Machine.execHaloTimeout basin s
  | .tapFlush basin => Sys2Proof.Machine.execTapFlush basin s
  | .perfMark basin => Sys2Proof.Machine.execPerfMark basin s
  | .setrnd basin => Sys2Proof.Machine.execSetrnd basin s
  | .endList basin => Sys2Proof.Machine.execEndList basin s
  | .tapTimeout basin => Sys2Proof.Machine.execTapTimeout basin s
  | .listComplete basin blamedNs => Sys2Proof.Machine.execListComplete basin blamedNs s
  | .stopRequest basin => Sys2Proof.Machine.execStopRequest basin s
  | .rankStopped basin blamedNs => Sys2Proof.Machine.execRankStopped basin blamedNs s
  | .pmuClear monitor => Sys2Proof.Machine.execPmuClear monitor s
  | .pmuOverflow monitor counter listIndex unit exact => Sys2Proof.Machine.execPmuOverflow monitor counter listIndex unit exact s
  | .bankScrubHandover bank write => Sys2Proof.Machine.execBankScrubHandover bank write s
  | .bankTransfer bank write => Sys2Proof.Machine.execBankTransfer bank write s
  | .bankPwrChange bank write pastIsolation => Sys2Proof.Machine.execBankPwrChange bank write pastIsolation s
  | .handoverComplete bank => Sys2Proof.Machine.execHandoverComplete bank s
  | .powerTransitionDone bank => Sys2Proof.Machine.execPowerTransitionDone bank s
  | .sweepRegionTest bank fails poisoned => Sys2Proof.Machine.execSweepRegionTest bank fails poisoned s
  | .marchStart block ctl => Sys2Proof.Machine.execMarchStart block ctl s
  | .marchDone block failing badSpares badSweepRows => Sys2Proof.Machine.execMarchDone block failing badSpares badSweepRows s
  | .dramRetrain ctrl => Sys2Proof.Machine.execDramRetrain ctrl s
  | .tailWrite requester addr len value entryOk => Sys2Proof.Machine.execTailWrite requester addr len value entryOk s
  | .graphAdmit ring => Sys2Proof.Machine.execGraphAdmit ring s
  | .headWriteError ring => Sys2Proof.Machine.execHeadWriteError ring s
  | .arm ring window => Sys2Proof.Machine.execArm ring window s
  | .cancel ring => Sys2Proof.Machine.execCancel ring s
  | .disarm ring => Sys2Proof.Machine.execDisarm ring s
  | .nodeComplete context generation => Sys2Proof.Machine.execNodeComplete context generation s
  | .completionInterrupt graph => Sys2Proof.Machine.execCompletionInterrupt graph s
  | .safetyDispatch => Sys2Proof.Machine.execSafetyDispatch s
  | .nodeDeadline slot => Sys2Proof.Machine.execNodeDeadline slot s
  | .tokenCfgWrite path value => Sys2Proof.Machine.execTokenCfgWrite path value s
  | .tokenGenWrite path value => Sys2Proof.Machine.execTokenGenWrite path value s
  | .tokenValueWrite path value => Sys2Proof.Machine.execTokenValueWrite path value s
  | .contextBind pool => Sys2Proof.Machine.execContextBind pool s
  | .quantumTick pool => Sys2Proof.Machine.execQuantumTick pool s
  | .preemptRanksStopped => Sys2Proof.Machine.execPreemptRanksStopped s
  | .preemptMovesDone context bad => Sys2Proof.Machine.execPreemptMovesDone context bad s
  | .teardown consist cause basin node => Sys2Proof.Machine.execTeardown consist cause basin node s
  | .teardownRanksStopped consist => Sys2Proof.Machine.execTeardownRanksStopped consist s
  | .teardownScrubDone consist => Sys2Proof.Machine.execTeardownScrubDone consist s
  | .leaseCheck => Sys2Proof.Machine.execLeaseCheck s
  | .kick consist tag => Sys2Proof.Machine.execKick consist tag s
  | .cstBankPwr consist value => Sys2Proof.Machine.execCstBankPwr consist value s
  | .ttbSlowClear value => Sys2Proof.Machine.execTtbSlowClear value s
  | .preemptClear => Sys2Proof.Machine.execPreemptClear s
  | .mboxTake tag data => Sys2Proof.Machine.execMboxTake tag data s
  | .version => Sys2Proof.Machine.execVersion s
  | .consistCreate => Sys2Proof.Machine.execConsistCreate s
  | .consistDestroy => Sys2Proof.Machine.execConsistDestroy s
  | .consistReset => Sys2Proof.Machine.execConsistReset s
  | .setWeight => Sys2Proof.Machine.execSetWeight s
  | .logStart => Sys2Proof.Machine.execLogStart s
  | .logFlip => Sys2Proof.Machine.execLogFlip s
  | .logStop => Sys2Proof.Machine.execLogStop s
  | .logSyncDone consist => Sys2Proof.Machine.execLogSyncDone consist s
  | .quiesce => Sys2Proof.Machine.execQuiesce s
  | .quiesceDone consist => Sys2Proof.Machine.execQuiesceDone consist s
  | .resume => Sys2Proof.Machine.execResume s
  | .kvcReqTake consist data => Sys2Proof.Machine.execKvcReqTake consist data s
  | .kvcCreate => Sys2Proof.Machine.execKvcCreate s
  | .kvcFork => Sys2Proof.Machine.execKvcFork s
  | .kvcAppend => Sys2Proof.Machine.execKvcAppend s
  | .kvcTruncate => Sys2Proof.Machine.execKvcTruncate s
  | .kvcPublish => Sys2Proof.Machine.execKvcPublish s
  | .kvcFree => Sys2Proof.Machine.execKvcFree s
  | .kvcPin => Sys2Proof.Machine.execKvcPin s
  | .kvcUnpin => Sys2Proof.Machine.execKvcUnpin s
  | .kvcEvict => Sys2Proof.Machine.execKvcEvict s
  | .kvcQuery => Sys2Proof.Machine.execKvcQuery s
  | .pageReclaim => Sys2Proof.Machine.execPageReclaim s
  | .walkerPinGrant basin => Sys2Proof.Machine.execWalkerPinGrant basin s
  | .kvSpaceValid space value => Sys2Proof.Machine.execKvSpaceValid space value s
  | .kvSpaceInvalidate space value => Sys2Proof.Machine.execKvSpaceInvalidate space value s
  | .kvcEnable value => Sys2Proof.Machine.execKvcEnable value s
  | .planTree rtsNo memError => Sys2Proof.Machine.execPlanTree rtsNo memError s
  | .planMap rtsNo memError => Sys2Proof.Machine.execPlanMap rtsNo memError s
  | .planLattice rtsNo memError => Sys2Proof.Machine.execPlanLattice rtsNo memError s
  | .check rtsNo memError => Sys2Proof.Machine.execCheck rtsNo memError s
  | .commitDynamic rtsNo memError => Sys2Proof.Machine.execCommitDynamic rtsNo memError s
  | .commitStatic rtsNo memError => Sys2Proof.Machine.execCommitStatic rtsNo memError s
  | .loadVehicle rtsNo memError => Sys2Proof.Machine.execLoadVehicle rtsNo memError s
  | .commitSwap rtsNo => Sys2Proof.Machine.execCommitSwap rtsNo s
  | .searchEnd rtsNo iterations tries memError => Sys2Proof.Machine.execSearchEnd rtsNo iterations tries memError s
  | .yield rtsNo iterations tries memError => Sys2Proof.Machine.execYield rtsNo iterations tries memError s
  | .routeJobDone rtsNo loader excessNs => Sys2Proof.Machine.execRouteJobDone rtsNo loader excessNs s
  | .worldOwnerWrite rtsNo value => Sys2Proof.Machine.execWorldOwnerWrite rtsNo value s
  | .rtsOverrunClear rtsNo value => Sys2Proof.Machine.execRtsOverrunClear rtsNo value s
  | .resultHandover => Sys2Proof.Machine.execResultHandover s
  | .resultRelease safetyLane payloadError => Sys2Proof.Machine.execResultRelease safetyLane payloadError s
  | .resultHeaderAck => Sys2Proof.Machine.execResultHeaderAck s
  | .headwayExpire cls => Sys2Proof.Machine.execHeadwayExpire cls s
  | .selftestSliceStart => Sys2Proof.Machine.execSelftestSliceStart s
  | .selftestSliceEnd pass => Sys2Proof.Machine.execSelftestSliceEnd pass s
  | .safeNReadback level => Sys2Proof.Machine.execSafeNReadback level s
  | .lockstepMismatch => Sys2Proof.Machine.execLockstepMismatch s
  | .checkerMismatch unit => Sys2Proof.Machine.execCheckerMismatch unit s
  | .islandEcc memory => Sys2Proof.Machine.execIslandEcc memory s
  | .rtcMismatch pair => Sys2Proof.Machine.execRtcMismatch pair s
  | .debugInvasive => Sys2Proof.Machine.execDebugInvasive s
  | .safeNAssert => Sys2Proof.Machine.execSafeNAssert s
  | .sluiceProbe sluice grantAnswered denyAnswered => Sys2Proof.Machine.execSluiceProbe sluice grantAnswered denyAnswered s
  | .gptpSync mac ptpDomain identity originNs correction wellFormed instant => Sys2Proof.Machine.execGptpSync mac ptpDomain identity originNs correction wellFormed instant s
  | .pdelayReq mac ptpDomain seq instant => Sys2Proof.Machine.execPdelayReq mac ptpDomain seq instant s
  | .pdelayResp mac ptpDomain seq t2 t3 instant => Sys2Proof.Machine.execPdelayResp mac ptpDomain seq t2 t3 instant s
  | .pdelayInterval instant => Sys2Proof.Machine.execPdelayInterval instant s
  | .syncInterval instant => Sys2Proof.Machine.execSyncInterval instant s
  | .syncTimeout => Sys2Proof.Machine.execSyncTimeout s
  | .holdoverTimeout => Sys2Proof.Machine.execHoldoverTimeout s
  | .mawynTimeSync instant => Sys2Proof.Machine.execMawynTimeSync instant s
  | .timetableEvent => Sys2Proof.Machine.execTimetableEvent s
  | .triggerEdge output => Sys2Proof.Machine.execTriggerEdge output s
  | .triggerPulseEnd output => Sys2Proof.Machine.execTriggerPulseEnd output s
  | .captureEdge input falling heldNs instant => Sys2Proof.Machine.execCaptureEdge input falling heldNs instant s
  | .frameStart port vc instant => Sys2Proof.Machine.execFrameStart port vc instant s
  | .linePacket port vc dt data crcError instant => Sys2Proof.Machine.execLinePacket port vc dt data crcError instant s
  | .frameEnd port vc => Sys2Proof.Machine.execFrameEnd port vc s
  | .lineAck port frame line => Sys2Proof.Machine.execLineAck port frame line s
  | .lineTimeout port => Sys2Proof.Machine.execLineTimeout port s
  | .lineWriteDenied port frame line => Sys2Proof.Machine.execLineWriteDenied port frame line s
  | .freeze => Sys2Proof.Machine.execFreeze s
  | .freezeGated => Sys2Proof.Machine.execFreezeGated s
  | .freezeRelease => Sys2Proof.Machine.execFreezeRelease s
  | .tmtNowRead path => Sys2Proof.Machine.execTmtNowRead path s
  | .capFifoPop input => Sys2Proof.Machine.execCapFifoPop input s
  | .frameReceive port frame full instant => Sys2Proof.Machine.execFrameReceive port frame full instant s
  | .aggTimeout entry full => Sys2Proof.Machine.execAggTimeout entry full s
  | .queueSlotAck queue => Sys2Proof.Machine.execQueueSlotAck queue s
  | .queueIndexAck queue => Sys2Proof.Machine.execQueueIndexAck queue s
  | .txIndexWrite requester addr len value entryOk => Sys2Proof.Machine.execTxIndexWrite requester addr len value entryOk s
  | .txSlotRead queue full instant => Sys2Proof.Machine.execTxSlotRead queue full instant s
  | .commit path resetCount => Sys2Proof.Machine.execCommit path resetCount s
  | .entryRead path => Sys2Proof.Machine.execEntryRead path s
  | .resetCount path => Sys2Proof.Machine.execResetCount path s
  | .qEnable queue value => Sys2Proof.Machine.execQEnable queue value s
  | .qDisable queue => Sys2Proof.Machine.execQDisable queue s
  | .canBusOffRecovery controller => Sys2Proof.Machine.execCanBusOffRecovery controller s
  | .jctOutbound src tag addr len write data => Sys2Proof.Machine.execJctOutbound src tag addr len write data s
  | .jctCompletion side readTag status data last => Sys2Proof.Machine.execJctCompletion side readTag status data last s
  | .cplTimeout side readTag => Sys2Proof.Machine.execCplTimeout side readTag s
  | .tagQuarantineEnd side readTag => Sys2Proof.Machine.execTagQuarantineEnd side readTag s
  | .jctInbound port rid addr len write data atomic => Sys2Proof.Machine.execJctInbound port rid addr len write data atomic s
  | .lr src tag hart addr len => Sys2Proof.Machine.execLr src tag hart addr len s
  | .sc src tag hart addr data => Sys2Proof.Machine.execSc src tag hart addr data s
  | .amo src tag hart addr len op operand old readOk => Sys2Proof.Machine.execAmo src tag hart addr len op operand old readOk s
  | .reservationTimeout => Sys2Proof.Machine.execReservationTimeout s
  | .pageReqTake tag data => Sys2Proof.Machine.execPageReqTake tag data s
  | .assign => Sys2Proof.Machine.execAssign s
  | .setShare => Sys2Proof.Machine.execSetShare s
  | .pageFree => Sys2Proof.Machine.execPageFree s
  | .pageHandoverDone => Sys2Proof.Machine.execPageHandoverDone s
  | .enclaveCreate tag enclave debug => Sys2Proof.Machine.execEnclaveCreate tag enclave debug s
  | .enclaveAdd tag enclave type page count => Sys2Proof.Machine.execEnclaveAdd tag enclave type page count s
  | .enclaveSeal tag enclave => Sys2Proof.Machine.execEnclaveSeal tag enclave s
  | .enclaveDestroy tag enclave => Sys2Proof.Machine.execEnclaveDestroy tag enclave s
  | .enclaveSelect path tag enclave => Sys2Proof.Machine.execEnclaveSelect path tag enclave s
  | .gateMark hart regs => Sys2Proof.Machine.execGateMark hart regs s
  | .gateEnter hart level rd rs1 rs2 entryPhys regs => Sys2Proof.Machine.execGateEnter hart level rd rs1 rs2 entryPhys regs s
  | .gateExit hart regs => Sys2Proof.Machine.execGateExit hart regs s
  | .asyncExit hart cause regs => Sys2Proof.Machine.execAsyncExit hart cause regs s
  | .dbgEnWrite tag value => Sys2Proof.Machine.execDbgEnWrite tag value s
  | .secureRel tag domain hartsStopped => Sys2Proof.Machine.execSecureRel tag domain hartsStopped s
  | .regionEntryWrite tag table entry data => Sys2Proof.Machine.execRegionEntryWrite tag table entry data s
  | .memoryStatus => Sys2Proof.Machine.execMemoryStatus s
  | .reload => Sys2Proof.Machine.execReload s
  | .setState hartsStopped past => Sys2Proof.Machine.execSetState hartsStopped past s
  | .powerQuery => Sys2Proof.Machine.execPowerQuery s
  | .setPkgLimit => Sys2Proof.Machine.execSetPkgLimit s
  | .powerHeldProceed domain hartsStopped => Sys2Proof.Machine.execPowerHeldProceed domain hartsStopped s
  | .domainShutdownDone domain => Sys2Proof.Machine.execDomainShutdownDone domain s
  | .domainPowerUpDone domain => Sys2Proof.Machine.execDomainPowerUpDone domain s
  | .dvfsLoop slacks tjs => Sys2Proof.Machine.execDvfsLoop slacks tjs s
  | .pkgPowerLoop mean powers => Sys2Proof.Machine.execPkgPowerLoop mean powers s
  | .thermalStep terrace tj => Sys2Proof.Machine.execThermalStep terrace tj s
  | .clampSample temps currents instant => Sys2Proof.Machine.execClampSample temps currents instant s
  | .clampIdle => Sys2Proof.Machine.execClampIdle s
  | .fwLoad => Sys2Proof.Machine.execFwLoad s
  | .fwVerifyDone => Sys2Proof.Machine.execFwVerifyDone s
  | .activate => Sys2Proof.Machine.execActivate s
  | .fwAbort => Sys2Proof.Machine.execFwAbort s
  | .fwSwap => Sys2Proof.Machine.execFwSwap s
  | .fwCopyDone => Sys2Proof.Machine.execFwCopyDone s
  | .watchdogExpire => Sys2Proof.Machine.execWatchdogExpire s
  | .islandSupplySwitch => Sys2Proof.Machine.execIslandSupplySwitch s
  | .backupSupplyLow => Sys2Proof.Machine.execBackupSupplyLow s
  | .islandSupplyLoss => Sys2Proof.Machine.execIslandSupplyLoss s
  | .linkTrainingDone port lanesBad peerSystem peerDevice peerPort => Sys2Proof.Machine.execLinkTrainingDone port lanesBad peerSystem peerDevice peerPort s
  | .linkRetry port => Sys2Proof.Machine.execLinkRetry port s
  | .controlSlotTimeout port => Sys2Proof.Machine.execControlSlotTimeout port s
  | .blockReceive port corrected good control instant => Sys2Proof.Machine.execBlockReceive port corrected good control instant s
  | .write flit data => Sys2Proof.Machine.execWrite flit data s
  | .read flit => Sys2Proof.Machine.execRead flit s
  | .writeAck flit => Sys2Proof.Machine.execWriteAck flit s
  | .readData flit data => Sys2Proof.Machine.execReadData flit data s
  | .error flit => Sys2Proof.Machine.execError flit s
  | .token flit => Sys2Proof.Machine.execToken flit s
  | .linkState flit instant => Sys2Proof.Machine.execLinkState flit instant s
  | .linkStateInterval => Sys2Proof.Machine.execLinkStateInterval s
  | .linkStateTimeout device => Sys2Proof.Machine.execLinkStateTimeout device s
  | .apertureAccess src tag addr len write data => Sys2Proof.Machine.execApertureAccess src tag addr len write data s
  | .txnTimeout txn => Sys2Proof.Machine.execTxnTimeout txn s
  | .statusRead cmd => Sys2Proof.Machine.execStatusRead cmd s
  | .heartbeat cmd => Sys2Proof.Machine.execHeartbeat cmd s
  | .identityRead cmd => Sys2Proof.Machine.execIdentityRead cmd s
  | .regRead cmd bound => Sys2Proof.Machine.execRegRead cmd bound s
  | .regWrite cmd bound hartsStopped => Sys2Proof.Machine.execRegWrite cmd bound hartsStopped s
  | .memRead cmd bound => Sys2Proof.Machine.execMemRead cmd bound s
  | .memWrite cmd bound => Sys2Proof.Machine.execMemWrite cmd bound s
  | .imageLoad cmd bound => Sys2Proof.Machine.execImageLoad cmd bound s
  | .repairRead cmd bound => Sys2Proof.Machine.execRepairRead cmd bound s
  | .safeRequest cmd => Sys2Proof.Machine.execSafeRequest cmd s
  | .counterClear cmd => Sys2Proof.Machine.execCounterClear cmd s
  | .timeSet cmd instant => Sys2Proof.Machine.execTimeSet cmd instant s
  | .timeSetLapse => Sys2Proof.Machine.execTimeSetLapse s
  | .transactionAbort => Sys2Proof.Machine.execTransactionAbort s
  | .verticalBlank stream width height underruns hpd instant => Sys2Proof.Machine.execVerticalBlank stream width height underruns hpd instant s
  | .extest => Sys2Proof.Machine.execExtest s
  | .idcode => Sys2Proof.Machine.execIdcode s
  | .samplePreload => Sys2Proof.Machine.execSamplePreload s
  | .clamp => Sys2Proof.Machine.execClamp s
  | .highz => Sys2Proof.Machine.execHighz s
  | .freezeStatus => Sys2Proof.Machine.execFreezeStatus s
  | .scanSelect chain => Sys2Proof.Machine.execScanSelect chain s
  | .scanRead count => Sys2Proof.Machine.execScanRead count s
  | .tapMemSelect value => Sys2Proof.Machine.execTapMemSelect value s
  | .tapMemRead count => Sys2Proof.Machine.execTapMemRead count s
  | .release => Sys2Proof.Machine.execRelease s
  | .debug hart request => Sys2Proof.Machine.execDebug hart request s
  | .bypass bits count => Sys2Proof.Machine.execBypass bits count s
  | .registerWrite target => Sys2Proof.Machine.execRegisterWrite target s
  | .uncorrectableHeader port => Sys2Proof.Machine.execUncorrectableHeader port s
  | .pcieLinkUp port up => Sys2Proof.Machine.execPcieLinkUp port up s

end Sys2Proof.Machine
end

