-- ==== Sys2Proof/Safety.lean ====
section
/-! DEFINITION. What claims call safe: the invariant of the machine, and the outputs of the island. -/

namespace Sys2Proof.Safety

open Sys2Proof.Machine

/-- The island has asserted its safe state only on a latched cause, and then SAFE_N is commanded low (R290, R291). -/
def safeHolds (s : State) : Prop :=
  s.ilk.asserted = true → s.latched = true ∧ s.pins.safeNCmd = false

/-- What every step keeps: memory in canonical form, the safe state held, and SAFE_N commanded low for as long as either
reset pin is low (R30, R31). -/
structure Inv (s : State) : Prop where
  /-- Memory lists rising addresses and no byte equal to what an unlisted address reads. -/
  memory : Memory.wf s.mem = true
  /-- The safe state, once asserted, holds SAFE_N low. -/
  safe : safeHolds s
  /-- A reset holds SAFE_N low. -/
  held : (s.pins.porstN = false ∨ s.pins.resetN = false) → s.pins.safeNCmd = false

/-- The sequencer of Basin `n`, whose list runs with no command outstanding, fetches the command `cmd` of opcode `op` (R64,
R69, R71); `r` is the state after the fetch. -/
structure Fetches (s : State) (n op : Nat) (cmd : Bytes) (r : State) : Prop where
  /-- The list runs. -/
  runs : s.runsList n = true
  /-- No command is outstanding. -/
  alone : (s.basin n).queue = [] ∧ (r.basin n).queue = []
  /-- The list has a command at this position. -/
  within : (s.basin n).listPos < 65536
  /-- The fetch succeeds. -/
  fetched : s.fetchCmd n = (0, r)
  /-- The fetch gives the command. -/
  command : slice r.resp.bytes 0 32 = cmd
  /-- Its opcode. -/
  opcode : byteAt cmd 0 = op
  /-- Its LAG is in range. -/
  lag : fld (byteAt cmd 1) 4 4 ≤ 8

/-- The sequencer of Basin `n` comes to the command `cmd` of its own, which may issue and has no reserved bit set (R64, R65,
R71); `r` is the state once what stands before it has issued. -/
structure Sequences (s : State) (n op : Nat) (mask : List Nat) (cmd : Bytes) (r : State) : Prop where
  /-- The device is up. -/
  up : s.live = true
  /-- The sequencer stands at the command. -/
  issued : s.issue n op = (r, some cmd)
  /-- Its reserved bits are zero. -/
  reserved : resOk cmd (hdrMask ++ mask) = true

/-- A unit of Basin `n` works on the command `q` of opcode `op`, the oldest in its queue, with no reserved bit set (R64, R65,
R71); `r` is the state once the sequencer has issued what it may. -/
structure Works (s : State) (n op : Nat) (mask : List Nat) (q : QCmd) (r : State) : Prop where
  /-- The device is up. -/
  up : s.live = true
  /-- The Basin's Terrace is on. -/
  on : s.terraceOn (n / 8) = true
  /-- The sequencer has issued what it may. -/
  issued : (s.issue n op).1 = r
  /-- The command is the oldest of its unit. -/
  head : r.unitHead n (unitsOf op) = some q
  /-- Its opcode. -/
  opcode : q.opcode = op
  /-- It still has work to do. -/
  left : q.whole = false
  /-- The list lets it run. -/
  runs : (r.basin n).mayRun q = true
  /-- Its reserved bits are zero. -/
  reserved : resOk q.cmd (hdrMask ++ mask) = true

/-- The Stationmaster, in its service loop, comes to a request `r` of a service whose body starts with the byte `op`; `w` is
the state with the request taken from the queue (R399, R400). -/
structure Serves (s : State) (service op : Nat) (r : MboxReq) (w : State) : Prop where
  /-- The device is up. -/
  up : s.live = true
  /-- The firmware serves. -/
  loops : s.fwLoops = true
  /-- The request stands at the head once those that need no service are answered. -/
  head : s.mboxDrain.mboxHead service op = some r
  /-- It leaves the queue. -/
  popped : w = s.mboxDrain.mboxPop

/-- The request `r` is answered with a body, and so are those behind it that need no service. -/
def reply (v : State) (r : MboxReq) (body : Bytes) : State := (v.mboxAnswer r 0 body).mboxDrain

/-- The KVC comes to a request `r` of Consist `c` for the operation `op`, which passes the checks before it; `w` is the
state with the request taken from its queue (R219, R220). -/
structure KvServes (s : State) (op c : Nat) (r : Bytes) (w : State) : Prop where
  /-- The device is up. -/
  up : s.live = true
  /-- The KVC is enabled. -/
  en : s.kvc.en = true
  /-- The Consist's queue is served next, once requests that fail their checks are answered. -/
  next : (State.kvDrainN s.kvWaiting s).kvNext = some c
  /-- The request stands at its head. -/
  head : ((State.kvDrainN s.kvWaiting s).kvQueue c).queue.headD [] = r
  /-- Its operation. -/
  opcode : kvOp r = op
  /-- It passes the checks. -/
  passes : (State.kvDrainN s.kvWaiting s).kvCheck c r = 0
  /-- It leaves the queue. -/
  popped : w = (State.kvDrainN s.kvWaiting s).kvPop c

/-- What follows the operation of a request taken in `w`: the epoch, the copies of the block tables after an OK, the
response and the low-water pass (R218, R219, R224, R225). -/
def kvReply (w : State) (c : Nat) (r : Bytes) (d : KvDone) : State :=
  let t := d.st.kvAdvanceEpoch
  ((if d.status = 0 then t.kvCopy w else t).kvAnswer c r d).kvLowWater (kvSp r)

/-- The run of a planner job as it starts: against the present world, whose bank it pins (R238, R239). -/
def planRun (s : State) (i : Nat) (j : RtsJob) : RtsRun :=
  { job := j, startNs := s.routeOffer.now, phase := .setup, searchEpoch := (s.routeOffer.rtsAt i).epoch
    searchBank := (s.routeOffer.rtsAt i).active, pinned := true }

/-- The planner of Routesetter `i` is free and takes the job `j` for the row of mode `mode`; `v` is the state with the job
taken from the queue (R243). -/
structure PlanTakes (s : State) (i mode : Nat) (j : RtsJob) (v : State) : Prop where
  /-- The device is up. -/
  up : s.live = true
  /-- The job is next, once the Signal box has offered its ready nodes. -/
  next : (s.routeOffer.rtsAt i).nextPlan = some j
  /-- No job runs. -/
  idle : (s.routeOffer.rtsAt i).run = none
  /-- The loader does not hold the planner. -/
  free : (s.routeOffer.rtsAt i).holdsPlanner = false
  /-- The job is of the row's mode, or its descriptor gives no mode. -/
  mode : (j.desc = none ∨ 6 < j.mode) ∨ j.mode = mode
  /-- It leaves the queue for the planner, and the Signal box refills the queue. -/
  popped : v = State.routeRefill (s.routeOffer.modRts i fun x =>
    { x with planQueue := x.planQueue.filter fun k => k.slot != j.slot, run := some (planRun s i j) })

/-- The planner of Routesetter `i` is in setup with the run `r` of the row of mode `mode`, in the state `v`: it takes the
job, or a setup that a held read had stopped goes on (R243, R245). -/
inductive PlanSetsUp (s : State) (i mode : Nat) (r : RtsRun) (v : State) : Prop where
  /-- The job is taken. -/
  | taken (j : RtsJob) (take : PlanTakes s i mode j v) (run : r = planRun s i j)
  /-- The job goes on. -/
  | goesOn (up : s.live = true) (offer : v = s.routeOffer) (run : (v.rtsAt i).run = some r) (phase : r.phase = .setup)
      (mode : r.job.mode = mode)

/-- The loader of Routesetter `i` comes to its next job `j`, of the row's mode, and nothing holds it; `v` is the state with
the job taken (R234, R239). -/
structure LoaderTakes (s : State) (i mode : Nat) (j : RtsJob) (v : State) : Prop where
  /-- The device is up. -/
  up : s.live = true
  /-- The loader has no job. -/
  idle : (s.routeOffer.rtsAt i).load = none
  /-- The job is next in its queue. -/
  next : (s.routeOffer.rtsAt i).loadQueue.head? = some j
  /-- The job is of the row's mode. -/
  mode : j.mode = mode
  /-- The job leaves the queue for the loader, and the Signal box refills the queue. -/
  popped : v = State.routeRefill (s.routeOffer.modRts i fun x =>
    { x with loadQueue := x.loadQueue.drop 1, load := some { job := j, startNs := s.routeOffer.now } })

/-- The loader of Routesetter `i` has the job `j` of the row's mode before it in the state `v`: it takes it, or it goes on
with a job that had to wait (R234, R239). -/
inductive LoaderHas (s : State) (i mode : Nat) (j : RtsJob) (v : State) : Prop where
  /-- The job is taken. -/
  | taken (take : LoaderTakes s i mode j v)
  /-- The job goes on. -/
  | goesOn (l : RtsLoad) (up : s.live = true) (offer : v = s.routeOffer) (load : (v.rtsAt i).load = some l)
      (job : j = l.job) (mode : j.mode = mode) (notBuilt : l.built = none) (notDone : l.done = false)

/-- A sound Mawyn message `f` of TYPE `type` arrives for this device (R435). -/
structure Arrives (s : State) (type : Nat) (f : Bytes) : Prop where
  /-- MAWYN is applied. -/
  on : s.mawynOn = true
  /-- The message has no reserved TYPE or field. -/
  sound : mwlMalformed f = false
  /-- It is for this device. -/
  here : byteAt f 2 = s.ownDevice
  /-- Its TYPE. -/
  type : byteAt f 0 = type

/-- The supervisor port answers, and hears a frame of opcode `op` with a good CRC and no reserved bit (R449, R451, R452). -/
structure Heard (s : State) (op : Nat) (cmd : SupFrame) : Prop where
  /-- The device is up. -/
  up : s.live = true
  /-- The port answers. -/
  answers : s.supAnswers = true
  /-- The CRC is good. -/
  crc : crc32c (frameBytes op cmd) = cmd.crc
  /-- No reserved field is set. -/
  sound : frameReserved op cmd = false

/-- The commands that act in every state: the reset pins, the supplies, the freeze and the test access port. Every other
command acts only while the device runs. -/
def alwaysActs : Instr → Bool
  | .porstNAssert | .resetNAssert | .resetRelease _ _ _ _ _ _ _ => true
  | .refClkLoss | .vddIoLoss | .islandSupplyLoss => true
  | .freeze | .freezeRelease => true
  | .extest | .idcode | .samplePreload | .clamp | .highz | .bypass _ _ | .freezeStatus => true
  | .scanSelect _ | .scanRead _ | .tapMemSelect _ | .tapMemRead _ | .release | .debug _ _ => true
  | _ => false

end Sys2Proof.Safety
end

