-- ==== Sys2Proof/Certificates/Slice0/Obligations.lean ====
section
/-! DEFINITION. The statements for the provers, family by family in the order of the opcode table. -/

open Sys2Proof Sys2Proof.Machine Sys2Proof.Safety

/-- PORST_N_ASSERT always completes: every block is at its reset values, PORST_N is low and SAFE_N commanded low; only the
waiting commands, the count of free values and the other pins stay (that the model's free-value counter and queue stay
is the model's, log entry 4). RESET_N_ASSERT with PORST_N high completes and keeps what a warm reset keeps: the time
counter, and the island's supply state; with PORST_N low it only moves its pin. REF_CLK_LOSS with the clock present
latches cause 8 with domain 72 and switches domain 72 to its internal oscillator; VDD_IO_LOSS only takes the pad's
drive away. (01_two_hierarchies.md R26, R29, 02_rokel_image_and_startup.md R30, R31, 15_firmware_power_supplies.md
R425) -/
def Obligations.ResetPinsAndSupplies : Prop :=
  (∀ s : State, exec .porstNAssert s = .next
      { pending := s.pending, freeCtr := s.freeCtr, pins := { s.pins with porstN := false, safeNCmd := false } }) ∧
  (∀ s : State, s.pins.porstN = true → ∃ t, exec .resetNAssert s = .next t ∧
      t.tmt.nowNs = s.tmt.nowNs ∧ t.tmt.nowFrac = s.tmt.nowFrac ∧ t.tmt.valid = false ∧
      t.tmt.cams = tmap s.tmt.cams (fun _ c => { number := c.number }) ∧
      t = { pending := s.pending, freeCtr := s.freeCtr, tmt := t.tmt
            pins := { s.pins with resetN := false, safeNCmd := false }
            pwr := { onBackup := s.pwr.onBackup, bkLow := s.pwr.bkLow, bkLowEvents := s.pwr.bkLowEvents
                     islandLost := s.pwr.islandLost } }) ∧
  (∀ s : State, s.pins.porstN = false →
      exec .resetNAssert s = .next { s with pins := { s.pins with resetN := false } }) ∧
  (∀ s : State, s.live = true → s.pins.refClk = true → s.latched = false →
      ∃ t, exec .refClkLoss s = .next t ∧ t.ilk.safeCause = 8 ∧ t.ilk.safeSub = 72 ∧ t.ilk.detectNs = s.now ∧
        t = { s with pins := { s.pins with refClk := false, aonInternalOsc := true }, ilk := t.ilk }) ∧
  (∀ s : State, exec .vddIoLoss s = .next { s with pins := { s.pins with vddIo := false, safeNDriven := false } })

/-- RESET_RELEASE of a pin that is low, with the other pin low, only raises that pin and samples BOOT_SEL. With the other
pin high and every self-check passing, BOOT_SEL not 3, the boot ROM runs steps 1 to 4: PHASE LOAD, step 4, the
identity readable, the supervisor port loading exactly for BOOT_SEL 1, SAFE_N's command unchanged; the repair map in
use is begun; only the pins, the start-up record, clocks, banks and memory change beside it. Where the fabric PLL does
not lock PHASE is FAILED with FAIL_CODE 0x11 and SAFE_N is commanded low. (02_rokel_image_and_startup.md R30, R32,
R52, R57) -/
def Obligations.StartUpBegins : Prop :=
  (∀ (s : State) (porst a b c d : Bool) (sel : Nat) (march : BootMarch),
      s.pins.porstN = false → s.pins.resetN = false →
      exec (.resetRelease porst sel a b c d march) s = .next { s with pins :=
        if porst then { s.pins with bootSel := sel, porstN := true, vddIo := true, safeNDriven := true, refClk := true,
                                    aonInternalOsc := false }
        else { s.pins with bootSel := sel, resetN := true } }) ∧
  (∀ (s : State) (porst : Bool) (sel : Nat),
      s.pins.porstN = !porst → s.pins.resetN = porst → sel < 3 → s.boot.banksFenced = false →
      ∃ t, exec (.resetRelease porst sel true true true true {}) s = .next t ∧
        t.pins.porstN = true ∧ t.pins.resetN = true ∧ t.pins.bootSel = sel ∧ t.pins.safeNCmd = s.pins.safeNCmd ∧
        t.boot = { s.boot with step := 4, phase := .load, identityReadable := true, supLoad := sel == 1 } ∧
        t = { s with pins := t.pins, boot := t.boot, clocks := t.clocks, banks := t.banks, mem := t.mem
                     repair := { s.repair with built := true } }) ∧
  (∀ (s : State) (porst b c d : Bool) (sel : Nat) (march : BootMarch),
      s.pins.porstN = !porst → s.pins.resetN = porst →
      ∃ t, exec (.resetRelease porst sel false b c d march) s = .next t ∧
        t.boot.phase = .failed ∧ t.boot.failCode = 0x11 ∧ t.pins.safeNCmd = false)

/-- In PHASE LOAD without an image, IMAGE_STAGED of a readable slot A puts the image into staging and the record, with
ILK_STATE VERIFY, and touches only memory, the staging banks' marks and the start-up record; slot A unreadable is
noted with code 0x01, and slot B is next. With an image staged STM_VERIFY_DONE completes: a fault of an image from the
supervisor port fails start-up with its code, section and offset; without a fault, with the PLLs locked and a sealed
map that leaves slice 0 usable, PHASE is FIRMWARE and the Stationmaster's firmware runs; a map that does not fails
with 0x10. ILK_VERIFY_DONE that disagrees fails with 0x0E; one that agrees before PHASE READY only notes the
verification; one that agrees at PHASE READY goes through the read-back, and with the read-back equal the
Interlocking's verification is complete, its self-test or a split boot next. (02_rokel_image_and_startup.md R33, R35,
R36, R39, R52, R55, R57) -/
def Obligations.StartUpVerification : Prop :=
  (∀ (s : State) (content : Bytes), s.live = true → s.boot.phase = .load → s.boot.imageStaged = false →
      s.boot.supLoad = false → (s.pins.bootSel = 0 ∨ s.pins.bootSel = 2) → s.boot.slotAFailed = false →
      (∃ t, exec (.imageStaged true content) s = .next t ∧
        t.boot.image = slice content 0 (if imgLen content ≤ maxImage then max 256 (imgLen content) else 256) ∧
        t.boot = { s.boot with imageStaged := true, bootSrc := .slotA, ilkState := .verify, image := t.boot.image } ∧
        (∀ i, i < (t.boot.image).length → memGet t.mem (rsvBase + i) = t.boot.image.getD i 0) ∧
        t = { s with mem := t.mem, banks := t.banks, boot := t.boot }) ∧
      exec (.imageStaged false content) s = .next { s with
        boot := { s.boot with
          bootSrc := .slotA, imageStaged := false, image := [], ilkState := .rom, slotAFailed := true, slotARead := false,
          slotACode := 1, detailSection := 0xFF, fieldOffset := 0xFFFF } }) ∧
  (∀ (s : State) (locked : Bool), s.live = true → s.boot.phase = .load → s.boot.imageStaged = true →
      ∃ t, exec (.stmVerifyDone locked) s = .next t ∧
        (∀ f, imageFault s.boot.image s.identity = some f → s.boot.bootSrc = .supervisor →
          t.boot.phase = .failed ∧ t.boot.failCode = f.code ∧ t.boot.detailSection = f.sect ∧
            t.boot.fieldOffset = f.offset) ∧
        (imageFault s.boot.image s.identity = none → locked = true →
          ∀ u : State, u = (s.noteImage).applySections [secSmfw, secClockplan, secRepair] →
            (u.slice0Lost = false → t.boot.phase = .firmware ∧ t.stm.fwRunning = true) ∧
            (u.slice0Lost = true → t.boot.phase = .failed ∧ t.boot.failCode = 0x10)) ∧
        (imageFault s.boot.image s.identity = none → locked = false →
          t.boot.phase = .failed ∧ t.boot.failCode = 0x11)) ∧
  (∀ (s : State), s.live = true → s.boot.stmVerified = true → s.boot.ilkReadBack = false → s.boot.phase ≠ .failed →
      (∃ t, exec (.ilkVerifyDone false) s = .next t ∧ t.boot.phase = .failed ∧ t.boot.failCode = 0x0E ∧
        t.pins.safeNCmd = false) ∧
      (s.boot.phase ≠ .ready →
        exec (.ilkVerifyDone true) s = .next { s with boot := { s.boot with ilkReadBack := true } }) ∧
      (s.boot.phase = .ready → ∀ r u : State, r = { s with boot := { s.boot with ilkReadBack := true } } →
        u = r.applySections [secIlkfw, secIsland, secTtsched, secHeadway, secRules] →
        exec (.ilkVerifyDone true) s = .next r.finishStep9 ∧
        (u.readBackOk = true → r.finishStep9.boot.ilkVerified = true ∧
          (r.finishStep9.boot.ilkState = .selftest ∨ r.finishStep9.boot.ilkState = .split)) ∧
        (u.readBackOk = false → r.finishStep9.boot.phase = .failed ∧ r.finishStep9.boot.failCode = 0x0E)))

/-- In PHASE FIRMWARE a failed training fails start-up with 0x12; a good one, before the Interlocking's verification, ends
in PHASE READY. A self-test that passes leads to the golden graphs, the first of which is submitted for the first
Terrace with express Basins; a failing slice k fails with 0x13 and offset k. STARTUP_GOLDEN_DONE does nothing while
one is pending; with none quarantined it leads to the wait for time, and otherwise start-up fails with 0x14.
SAFE_N_RELEASE under the release conditions commands SAFE_N high, with PHASE SAFE and ILK_STATE CHECKING, and changes
nothing else but the read-back's skip. REPAIR_WRITE_BACK of a changed map raises its sequence number, reseals it and
offers it. After SLICE0_HANDOFF the handover is done and the image is dropped. (02_rokel_image_and_startup.md R49,
R51, R52, R53, 04_pools_reservoir_dram.md R111, R113) -/
def Obligations.StartUpToSafeNRelease : Prop :=
  (∀ (s : State) (march : MarchRows) (sweep : List Nat), s.live = true → s.boot.phase = .firmware →
      (∃ t, exec (.memoryTrainingDone false march sweep) s = .next t ∧ t.boot.phase = .failed ∧
        t.boot.failCode = 0x12 ∧ t.pins.safeNCmd = false) ∧
      (s.boot.ilkReadBack = false → s.boot.repairSealRejected = false →
        (∃ t, exec (.memoryTrainingDone true march sweep) s = .next t ∧ t = s.becomeReady ∧ t.boot.phase = .ready))) ∧
  (∀ s : State, s.live = true → s.boot.ilkState = .selftest →
      exec (.startupSelftestDone none) s =
        .next (State.startupGolden { s with boot := { s.boot with selftestPassed := true, ilkState := .golden }
                                            ilk := { s.ilk with goldenTerrace := s.goldenTerraces.headD 0 } }) ∧
      (∀ k, ∃ t, exec (.startupSelftestDone (some k)) s = .next t ∧ t.boot.phase = .failed ∧ t.boot.failCode = 0x13 ∧
        t.boot.fieldOffset = k)) ∧
  (∀ (s r : State) (i : Nat), s.live = true → s.boot.ilkState = .golden → r = s.reach i →
      (s.ilk.goldenPending = true → exec (.startupGoldenDone i) s = .next r) ∧
      (s.ilk.goldenPending = false → s.ilk.quarantine = 0 → exec (.startupGoldenDone i) s =
        .next { r with boot := { s.boot with goldenPassed := true, ilkState := .waitTime } }) ∧
      (s.ilk.goldenPending = false → s.ilk.quarantine ≠ 0 →
        ∃ t, exec (.startupGoldenDone i) s = .next t ∧ t.boot.phase = .failed ∧ t.boot.failCode = 0x14)) ∧
  (∀ s : State, s.live = true → s.boot.ilkState = .waitTime → s.boot.phase = .ready → s.ilkSplit = false →
      s.ilk.lockstep = true → s.boot.ilkVerified = true → s.boot.selftestPassed = true → s.boot.goldenPassed = true →
      s.tmt.valid = true → s.ilk.safeCause = 0 →
      ∃ t, exec .safeNRelease s = .next t ∧ t.pins = { s.pins with safeNCmd := true } ∧
        t.boot = { s.boot with phase := .safe, ilkState := .checking } ∧
        t = { s with pins := t.pins, boot := t.boot, ilk := { s.ilk with readbackSkip := t.ilk.readbackSkip } }) ∧
  (∀ s : State, s.live = true → s.repair.changed = true →
      ∃ t, exec .repairWriteBack s = .next t ∧ t.repair.updateSeq = (s.repair.updateSeq + 1) % 2 ^ 32 ∧
        t.repair.changed = false ∧ t.boot = { s.boot with repairUpdated := true } ∧
        t.repair.sealed =
          State.repairPayload { s with repair := { s.repair with updateSeq := (s.repair.updateSeq + 1) % 2 ^ 32 } }) ∧
  (∀ s : State, s.live = true → s.boot.slice0Handed = false → s.boot.ilkVerified = true →
      (s.boot.phase = .ready ∨ s.boot.phase = .safe) →
      ∃ t, exec .slice0Handoff s = .next t ∧ t.boot.slice0Handed = true ∧ t.boot.image = [] ∧
        t = { s with boot := t.boot, banks := t.banks, mem := t.mem })

/-- In VERIFYING and PHASE READY or SAFE, RELOAD_VERIFY_DONE with disagreement rejects with 0x0E, scrubbing the staging
area and changing nothing else; with agreement and no fault of the partial image it arms the reload, CODE unchanged.
Armed sections swap while the clocks run: after TTSCHED_SWAP the armed schedule is in force from its due instant, and
the nodes that wait on removed identifiers are counted and complete with 0x30; CONSISTTPL_SWAP puts the new templates
in force at the activation time; RULES_SWAP puts the new rules in force from the due instant and keeps the old set;
RULES_RETIRE, with no earlier result open, releases it. (02_rokel_image_and_startup.md R58, R59, R60, R61, R63) -/
def Obligations.PartialReload : Prop :=
  (∀ s : State, s.live = true → s.reload.state = .verifying → (s.boot.phase = .ready ∨ s.boot.phase = .safe) →
      exec (.reloadVerifyDone false) s = .next { s.scrubStaging with
        reload := { s.reload with state := .rejected, code := 0x0E, image := [] } } ∧
      (∃ t, exec (.reloadVerifyDone true) s = .next t ∧
        (∀ c, s.reloadCode s.reload.image = some c → t.reload.state = .rejected ∧ t.reload.code = c) ∧
        (s.reloadCode s.reload.image = none → t = s.reloadArm ∧ t.reload.armedNs = s.now ∧
          t.reload.code = s.reload.code ∧ t = { s with reload := t.reload }))) ∧
  (∀ (s : State) (p : Bytes), s.live = true → s.armedSection secTtsched = some p → s.tmt.freeze = .running →
      ∃ r : State, r = ((s.reach s.ttschedDue).scheduleSwap p s.ttschedDue).disarm secTtsched ∧
        r.sec secTtsched = p ∧ r.tmt.schedFrom = s.ttschedDue ∧
        r.reload = { s.reload with armedSections := tdel s.reload.armedSections secTtsched } ∧
        exec .ttschedSwap s = .next ((State.removeOrphans { r with reload := { r.reload with
          ttschedSwapped := true, eventsOrphaned := min 255 (r.reload.eventsOrphaned + r.orphans.length) } }
          r.orphans).settle).reloadSettle) ∧
  (∀ (s : State) (p : Bytes), s.live = true → s.armedSection secConsisttpl = some p → s.tmt.freeze = .running →
      ∃ t, exec .consisttplSwap s = .next t ∧ t.sec secConsisttpl = p ∧ t.now = max s.now s.reload.activateNs ∧
        t.reload.consisttplSwapped = true ∧ t.reload.armedSections = tdel s.reload.armedSections secConsisttpl ∧
        t = { s with tmt := { s.tmt with nowNs := t.now }, sections := t.sections, reload := t.reload }) ∧
  (∀ (s : State) (p : Bytes), s.live = true → s.armedSection secRules = some p → s.tmt.freeze = .running →
      ∃ t, exec .rulesSwap s = .next t ∧ t.sec secRules = p ∧ t.now = max s.now s.rulesDue ∧
        t.reload = { s.reload with
          armedSections := tdel s.reload.armedSections secRules, rulesSwapped := true, swapNs := s.rulesDue,
          oldRules := some (s.sec secRules), oldRulesVersion := s.reload.rulesVersion,
          rulesVersion := s.reload.version } ∧
        t = { s with tmt := { s.tmt with nowNs := t.now }, sections := t.sections, reload := t.reload }) ∧
  (∀ s : State, s.live = true → s.reload.oldRules ≠ none → s.oldResultsOpen = false →
      ∃ t, exec .rulesRetire s = .next t ∧ t.reload.oldRules = none ∧ t.reload.rulesOldRetired = true ∧
        t = { s with reload := t.reload, ilk := { s.ilk with
          rate := t.ilk.rate, cross := t.ilk.cross, obst := t.ilk.obst } })

/-- On a Basin of a powered Terrace with a role and no list in work LIST_START binds the context, tag, node, generation
and kernel pointer and starts the list at command 0 with its status clear, clearing the register state exactly where
ISOLATION meets another tag. STOP_REQUEST stops the issue; RANK_STOPPED moves a started DMA on to its stop point and
delivers the signals, and once every started command stands at one it reports to the rank and rewinds the position;
LIST_COMPLETE, with every unit idle and no tap record of the list outstanding, reports the rank done. TAP_TIMEOUT and
HALO_TIMEOUT end the list with statuses 8 and 5 at its position. HALO_SIGNAL_DELIVER sets the bits at a target bound
to the same context and generation and otherwise counts a drop. PMU_CLEAR zeroes a monitor's counters; PMU_OVERFLOW
wraps one whose event the model does not count itself, the others having gone on by free amounts (log entry 79), and
sends a block monitor's interrupt where its selection asks for one. (01_two_hierarchies.md R23, 03_basin.md R64, R68,
R69, R70, R72, R73, R88, R89, 06_turntable_and_consists.md R157) -/
def Obligations.BasinListEvents : Prop :=
  (∀ (s : State) (n kernel c tag node gen : Nat), s.live = true → s.terraceOn (n / 8) = true →
      (s.basinRole n = 1 ∨ s.basinRole n = 2) → (s.basin n).list ≠ .running → (s.basin n).list ≠ .stopping →
      s.basinBusy n = false →
      ∃ t, exec (.listStart n kernel c tag node gen) s = .next t ∧ t = { s with basins := t.basins } ∧
        (∀ m, m ≠ n → t.basin m = s.basin m) ∧
        (t.basin n).list = .running ∧ (t.basin n).listPos = 0 ∧ (t.basin n).status = 0 ∧ (t.basin n).bound = true ∧
        (t.basin n).queue = [] ∧ (t.basin n).run = (s.basin n).run + 1 ∧
        (t.basin n).context = c ∧ (t.basin n).tag = tag ∧ (t.basin n).node = node ∧ (t.basin n).generation = gen ∧
        (t.basin n).kernelPtr = kernel ∧ (t.basin n).lastTag = some tag ∧
        (if s.boot.isolation = true ∧ (s.basin n).lastTag ≠ some tag then
          (t.basin n).acc = [] ∧ (t.basin n).rill = [] ∧ (t.basin n).scoreboard = 0 ∧ (t.basin n).rnd = {}
        else (t.basin n).acc = (s.basin n).acc ∧ (t.basin n).rill = (s.basin n).rill ∧
          (t.basin n).scoreboard = (s.basin n).scoreboard ∧ (t.basin n).rnd = (s.basin n).rnd)) ∧
  (∀ (s : State) (n : Nat), s.live = true → s.runsList n = true →
      exec (.stopRequest n) s = .next (s.modBasin n fun b =>
        { b with list := .stopping, haloWaiting := false, walkerWaits := false })) ∧
  (∀ (s u : State) (n blamed : Nat), s.live = true → (s.basin n).list = .stopping → u = (s.stopDma n).haloFlush n →
      ((u.basin n).list = .stopping → (u.basin n).atStop = true → exec (.rankStopped n blamed) s =
        .next ((u.rankReport n blamed fun r => { r with stopped := true }).modBasin n Basin.rewind)) ∧
      ((u.basin n).list ≠ .stopping ∨ (u.basin n).atStop = false → exec (.rankStopped n blamed) s = .next u)) ∧
  (∀ (s : State) (n blamed : Nat), s.live = true → (s.basin n).list = .ended → (s.basin n).tapsOpen = false →
      (s.basin n).queue = [] →
      exec (.listComplete n blamed) s = .next ((s.rankReport n blamed fun r => { r with done := true }).modBasin n
        fun b => { b with list := .idle })) ∧
  (∀ (s : State) (n : Nat), s.live = true → (s.basin n).tapsOpen = true → (s.basin n).list.open = true →
      (s.basin n).walkerPin = none →
      ∃ t, exec (.tapTimeout n) s = .next t ∧ t = { s with basins := t.basins } ∧ (t.basin n).list = .failed ∧
        (t.basin n).status = 8 ∧ (t.basin n).failIndex = (s.basin n).listPos % 65536) ∧
  (∀ (s : State) (n : Nat), s.live = true → s.runsList n = true → (s.basin n).haloWaiting = true →
      (s.basin n).walkerPin = none →
      ∃ t, exec (.haloTimeout n) s = .next t ∧ t = { s with basins := t.basins } ∧ (t.basin n).list = .failed ∧
        (t.basin n).status = 5 ∧ (t.basin n).failIndex = (s.basin n).listPos % 65536) ∧
  (∀ (s : State) (n p dest bits c gen : Nat) (rest : List (Nat × Nat × Nat × Nat)), s.live = true →
      (s.basin n).signals = (dest, bits, c, gen) :: rest →
      (s.modBasin n fun b => { b with signals := rest }).translate n dest = some p →
      ((s.basin p).bound = true → (s.basin p).context = c → (s.basin p).generation = gen →
        exec (.haloSignalDeliver n) s = .next ((s.modBasin n fun b => { b with signals := rest }).modBasin p fun b =>
          { b with scoreboard := b.scoreboard ||| bits })) ∧
      ((s.basin p).generation ≠ gen →
        exec (.haloSignalDeliver n) s = .next ((s.modBasin n fun b => { b with signals := rest }).dropHalo n))) ∧
  (∀ (s : State) (m : Nat), s.live = true →
      exec (.pmuClear m) s = .next (s.modMonitor m fun p => { p with cycle := 0, cnt := [] })) ∧
  (∀ (s : State) (m k i u : Nat) (exact : Bool), s.live = true → m < 64 → (s.monitor m).en = true →
      (s.monitor m).frozen = false → fld (tget 0 (s.monitor m).evsel k) 0 6 ≠ 0 →
      exactEvsel (tget 0 (s.monitor m).evsel k) = false →
      ∃ t, exec (.pmuOverflow m k i u exact) s = .next t ∧ t = { s with basins := t.basins, freeCtr := s.freeCtr + 1 } ∧
        tget 0 (t.monitor m).cnt k = 0 ∧ (t.monitor m).ovf = (s.monitor m).ovf ||| 2 ^ k ∧
        (t.monitor m).frozen = (s.monitor m).freezeOnOvf) ∧
  (∀ (s u : State) (m k i v : Nat) (exact : Bool), s.live = true → 64 ≤ m → (s.monitor m).en = true →
      (s.monitor m).frozen = false → fld (tget 0 (s.monitor m).evsel k) 0 6 ≠ 0 →
      u = (s.countOn m).modMonitor m (fun p => p.wrap k i v exact false) →
      exec (.pmuOverflow m k i v exact) s = .next (if bit (tget 0 (s.monitor m).evsel k) 8 then
        u.msi u.monTag (s.monitor m).msiAddr (s.monitor m).msiData else u))

/-- Where the sequencer stands at the command and no reserved bit is set, NOP only moves the list on; BARRIER moves it on
with no command outstanding, and waits otherwise; HALO_SIGNAL, with no DMA outstanding, queues its signal under the
Basin's context and generation; HALO_WAIT with every named bit set clears those bits and goes on, and with one missing
waits, changing nothing but the wait mark; END, with every unit idle, sends a flush marker and ends the list;
PERF_MARK, its bank serving, writes the counters' record to its Pool line. In their units, SETRND takes the seed and
the tile's position, and TAP_FLUSH sends a flush marker. (03_basin.md R64, R65, R68, R71, R72, R73, R78, R85, R86) -/
def Obligations.BasinSequencerCommands : Prop :=
  (∀ (s r : State) (n : Nat) (cmd : Bytes), Sequences s n 0x00 [0, 0] cmd r →
      exec (.nop n) s = .next (r.nextCmd n)) ∧
  (∀ (s r : State) (n : Nat) (cmd : Bytes), Sequences s n 0x30 [0, 0] cmd r →
      exec (.barrier n) s = .next (if (r.basin n).queue = [] then r.nextCmd n else r)) ∧
  (∀ (s r : State) (n : Nat) (cmd : Bytes), Sequences s n 0x31 [0, 0, 0x3F, 0xFF, 0xFF] cmd r →
      ((r.basin n).outstanding 0 = 0 → exec (.haloSignal n) s = .next ((r.modBasin n fun b => { b with
        signals := b.signals ++ [(fld (byteAt cmd 4) 0 6, le cmd 5 2, b.context, b.generation)] }).nextCmd n)) ∧
      ((r.basin n).outstanding 0 ≠ 0 → exec (.haloSignal n) s = .next r)) ∧
  (∀ (s r : State) (n : Nat) (cmd : Bytes), Sequences s n 0x32 [0, 0, 0xFF, 0xFF, 0xFF, 0xFF] cmd r → le cmd 6 2 ≠ 0 →
      ((r.basin n).scoreboard &&& le cmd 4 2 = le cmd 4 2 →
        exec (.haloWait n) s = .next ((r.modBasin n fun b =>
          { b with scoreboard := b.scoreboard ^^^ le cmd 4 2, haloWaiting := false }).nextCmd n)) ∧
      ((r.basin n).scoreboard &&& le cmd 4 2 ≠ le cmd 4 2 →
        exec (.haloWait n) s = .next (r.modBasin n fun b => { b with haloWaiting := true }))) ∧
  (∀ (s r : State) (n : Nat) (cmd : Bytes), Sequences s n 0x3F [0, 0] cmd r →
      ((r.basin n).queue = [] → exec (.endList n) s =
        .next (((r.sendMarker n).modBasin n fun b => { b with list := .ended }).nextCmd n)) ∧
      ((r.basin n).queue ≠ [] → exec (.endList n) s = .next r)) ∧
  (∀ (s r q v : State) (n : Nat) (cmd : Bytes), Sequences s n 0x3C [0, 0, 0xFF, 0xFF, 0xFF, 0x7F] cmd r →
      r.askLines n [] [(lineAt cmd 6, 1)] = (0, q) → v = q.countOn n →
      exec (.perfMark n) s = .next ((v.wr (poolAddr n (lineAt cmd 6))
        (leBytes 2 (le cmd 4 2) ++ zeros 6 ++ leBytes 8 (v.basin n).pmu.cycle ++
          ((List.range 4).map fun i => leBytes 8 (tget 0 (v.basin n).pmu.cnt i)).flatten ++ zeros 16)).nextCmd n)) ∧
  (∀ (s r : State) (n : Nat) (q : QCmd), Works s n 0x3E ([0, 0] ++ List.replicate 16 0xFF) q r →
      exec (.setrnd n) s = .next ((r.modBasin n fun b => { b with rnd :=
        { seed := le q.cmd 4 4, row0 := le q.cmd 8 4, col0 := le q.cmd 12 4, rowLen := le q.cmd 16 4 } }).dropQ n q.idx)) ∧
  (∀ (s r : State) (n : Nat) (q : QCmd), Works s n 0x38 [0, 0] q r →
      exec (.tapFlush n) s = .next ((r.sendMarker n).dropQ n q.idx))

/-- With no command outstanding, a fetched command of a unit issues to the queue, where its unit finds it, and the list
moves on; one of the sequencer's own stands at the list position; and a command whose opcode byte is none of the
table's ends the list with status 1, whichever engine command is taken. For DMA, MATMUL, CONV, ATTN, RILL and
TRANSPOSE, the oldest of their units with no reserved bit set: where the command's run is done it leaves the queue
with the state that it left; where it goes on later or must wait it stays; and where it fails the list has FAILED with
that status and the index of this command, unless it had ended before. (03_basin.md R64, R65, R69, R71, R72,
07_convolution.md R182, 08_attention_and_kv_cache.md R208, R213) -/
def Obligations.BasinCommandOutcome : Prop :=
  (∀ (s r : State) (n op : Nat) (cmd : Bytes), Fetches s n op cmd r → knownOpcode op = true →
      (unitsOf op = 0 → s.issue n op = (r, some cmd)) ∧
      (unitsOf op ≠ 0 → s.issue n op = (r.issueCmd n cmd, none) ∧ ((r.issueCmd n cmd).basin n).listPos = (r.basin n).listPos + 1 ∧
        (r.issueCmd n cmd).unitHead n (unitsOf op) = some { idx := (r.basin n).listPos, cmd := cmd })) ∧
  (∀ (s r : State) (n op : Nat) (cmd : Bytes) (i : Instr), s.live = true → Fetches s n op cmd r → knownOpcode op = false →
      (∃ k, i = .dma { basin := n, most := k } ∨ i = .matmul n ∨ i = .conv n ∨ i = .attn { basin := n, most := k } ∨
        i = .rill n ∨ i = .jet n ∨ i = .transpose { basin := n, most := k }) →
      exec i s = .next (r.basinFail n (s.basin n).listPos 1)) ∧
  (∀ (s r t : State) (n k st op : Nat) (q : QCmd) (i : Instr) (mask : List Nat),
      (i = .dma { basin := n, most := k } ∧ op = 0x01 ∧ mask = dmaMask ∧ (dmaOf q.cmd).run n k q r = (st, t) ∨
        i = .matmul n ∧ op = 0x10 ∧ mask = matmulMask ∧ (matmulOf q.cmd).run n r = (st, t) ∨
        i = .conv n ∧ op = 0x11 ∧ mask = convMask ∧ (convOf q.cmd).run n r = (st, t) ∨
        i = .attn { basin := n, most := k } ∧ op = 0x12 ∧ mask = List.replicate 30 0xFF ∧ (attnOf q.cmd).run n k q r = (st, t) ∨
        i = .rill n ∧ op = 0x20 ∧ mask = [0, 0x3F, 0xFF, 0x7F, 0xFF, 0xFF, 0xFF, 0x7F, 0xFF, 0xFF, 0xFF, 0x7F, 0xFF, 0xFF,
            0xFF, 0x7F, 0xFF, 0xFF, 0x3F] ∧ (rillOf q.cmd).run n r = (st, t) ∨
        i = .transpose { basin := n, most := k } ∧ op = 0x21 ∧ mask = transposeMask ∧ transposeRun n k q r = (st, t)) →
      Works s n op mask q r →
      (st = 0 → exec i s = .next (t.dropQ n q.idx)) ∧
      (st = waits → exec i s = .next t) ∧
      (st ≠ 0 → st ≠ waits → exec i s = .next (t.listFails n q.idx st)))

/-- The oldest command of its units, with no reserved bit set, completes and leaves the queue where the spec's checks pass
and the banks of the lines that it reaches serve: a DMA of one zero-filled line writes 64 zero bytes to its Pool line;
a MATMUL and a CONV accumulate their tile and drain it where EMIT says so; a RILL whose bundles are all valid runs
every iteration; a TRANSPOSE moves all its remaining blocks; a JET writes its function of every element; an ATTN in
direct mode with a batch that comes out clean ends with the state that its batch leaves. (03_basin.md R71, R72, R75,
R80, R81, R84, 07_convolution.md R182, R184, 08_attention_and_kv_cache.md R200, R201, R203) -/
def Obligations.BasinEnginesComplete : Prop :=
  (∀ (s r u t : State) (n k : Nat) (q : QCmd), Works s n 0x01 dmaMask q r → q.done = 0 →
      (dmaOf q.cmd).zero = true → (dmaOf q.cmd).lines = 1 → (dmaOf q.cmd).rows = 1 → (dmaOf q.cmd).pitch ≠ 0 →
      u = r.modQ n q.idx (fun x => { x with started := true }) →
      u.basinIo n (poolAddr n (dmaOf q.cmd).line) 64 true (zeros 64) = (0, t) →
      (∀ x ∈ (t.basin n).queue, x.idx = q.idx → x.left = 0) →
      exec (.dma { basin := n, most := k }) s = .next (((t.modQ n q.idx fun x => { x with done := 1 }).modQ n q.idx
        fun x => { x with whole := true }).dropQ n q.idx)) ∧
  (∀ (s r t : State) (n : Nat) (q : QCmd) (c : FmtClass) (m : Matmul), Works s n 0x10 matmulMask q r →
      m = matmulOf q.cmd → fmtClass m.fa = some c → m.reserved c = false →
      accMismatch (r.accStart n m.sel (bit m.flags 0)) c = false → m.badShape c = false →
      r.askLines n (m.reads c) m.writes = (0, t) → (m.sparse = true → t.metaOk n m.metaLine (m.k c) = true) →
      exec (.matmul n) s = .next ((t.tileInto n m.sel (bit m.flags 0)
        (if c.isInt then .inl (m.intTile t n c) else .inr (m.floatTile t n c)) m.emit m.drain).dropQ n q.idx)) ∧
  (∀ (s r t1 t2 : State) (n : Nat) (q : QCmd) (c : FmtClass) (m : ConvCmd) (d : ConvDesc),
      Works s n 0x11 convMask q r → m = convOf q.cmd → fmtClass m.fx = some c → m.reserved c = false →
      accMismatch (r.accStart n m.sel (bit m.flags 0)) c = false → r.askLines n [(m.desc, 1)] [] = (0, t1) →
      d = convDescOf (t1.rd (poolAddr n m.desc) 64) → m.descError d c = false → m.badShape d c = false →
      t1.askLines n (m.reads d c) m.writes = (0, t2) →
      (m.sparse = true → t2.metaOkAt n m.metaLine (m.usedGroups d) = true) →
      ∃ w : State × AccSet, w = t2.tileAcc n m.sel (bit m.flags 0)
          (if c.isInt then .inl (m.intTile t2 n d c) else .inr (m.floatTile t2 n d c)) ∧
        exec (.conv n) s = .next ((if m.emit then w.1.drainChannels n w.2 m.drainOf else w.1).dropQ n q.idx)) ∧
  (∀ (s r t1 t2 t : State) (n k : Nat) (q : QCmd) (m : AttnCmd) (d : AttnDesc) (g : List (Nat × Nat)),
      Works s n 0x12 (List.replicate 30 0xFF) q r → m = attnOf q.cmd → m.reserved q.cmd = false →
      r.askLines n [(m.desc, 1)] [] = (0, t1) → d = attnDescOf (t1.rd (poolAddr n m.desc) 64) →
      d.paged = false → m.append = false → d.bad = false → d.globals = 0 →
      regionsFit [(m.batch, (m.entries + 3) / 4)] = true →
      t1.askLines n [(m.batch, (m.entries + 3) / 4)] [] = (0, t2) → g = t2.attnGlobals n d → globalsBad d g = false →
      AttnEnv.run { n := n, c := m, d := d, cls := (fmtClass m.fq).getD .fp8, p := t2.kvSpace d.space, g := g } k q t2 =
        (0, t) →
      exec (.attn { basin := n, most := k }) s = .next (t.dropQ n q.idx)) ∧
  (∀ (s r t1 t2 : State) (n : Nat) (q : QCmd) (m : RillCmd), Works s n 0x20 [0, 0x3F, 0xFF, 0x7F, 0xFF, 0xFF,
        0xFF, 0x7F, 0xFF, 0xFF, 0xFF, 0x7F, 0xFF, 0xFF, 0xFF, 0x7F, 0xFF, 0xFF, 0x3F] q r → m = rillOf q.cmd →
      m.iters * max m.count 4 ≤ 65536 → regionsFit m.regions = true → r.askLines n [m.list] [] = (0, t1) →
      (m.raw n t1).all bundleOk = true → t1.askLines n m.inputs m.output = (0, t2) →
      exec (.rill n) s =
        .next (((List.range m.iters).foldl (m.iter n ((m.raw n t2).map bundleOf)) t2).dropQ n q.idx)) ∧
  (∀ (s r t : State) (n e blocks : Nat) (q : QCmd) (ri wi : List (Nat × Nat)), Works s n 0x21 transposeMask q r →
      e = 2 ^ fld (byteAt q.cmd 3) 0 2 → e ≠ 8 → blocks = le q.cmd 8 2 → blocks ≠ 0 → q.done ≤ blocks →
      ri = transposeRegions (lineAt q.cmd 4) (le q.cmd 10 2) blocks 64 →
      wi = transposeRegions (lineAt q.cmd 6) (le q.cmd 12 2) blocks (64 * e) →
      regionsFit (ri ++ wi) = true → r.askLines n (ri.drop q.done) (wi.drop q.done) = (0, t) →
      exec (.transpose { basin := n }) s = .next (((List.range (blocks - q.done)).foldl (fun s b =>
        s.transposeBlock n e (lineAt q.cmd 4) (le q.cmd 10 2) (lineAt q.cmd 6) (le q.cmd 12 2) (q.done + b)) t).dropQ n
          q.idx)) ∧
  (∀ (s r t : State) (n func count : Nat) (q : QCmd) (src dst : Nat × Nat),
      Works s n 0x28 ([0x03, 0x07, 0xFF, 0x7F, 0xFF, 0x7F] ++ List.replicate 12 0xFF) q r →
      func = fld (byteAt q.cmd 3) 0 3 → func < 6 → count = le q.cmd 8 4 → count % 16 = 0 → count ≤ 1048576 →
      byteAt q.cmd 2 = 0 → src = (lineAt q.cmd 4, (count * 4 + 63) / 64) → dst = (lineAt q.cmd 6, (count * 4 + 63) / 64) →
      regionsFit [src, dst] = true → r.askLines n [src] [dst] = (0, t) →
      ∃ u ys, exec (.jet n) s = .next u ∧
        ys = (List.range count).map (fun i =>
          jetElem func (le q.cmd 12 4) (le q.cmd 16 4) (t.rdLe (poolAddr n (lineAt q.cmd 4) + 4 * i) 4) false) ∧
        u.mem = memWrite t.mem (poolAddr n (lineAt q.cmd 6)) (ys.map (leBytes 4)).flatten ∧
        u = { t with mem := u.mem, basins := u.basins } ∧
        (u.basin n).queue = (t.basin n).queue.filter (fun x => x.idx != q.idx) ∧
        (u.basin n).nanSeen = ((t.basin n).nanSeen || ys.any fun y => dec32 y == .nan))

/-- For each of the three bank control writes and every writer: one that the spec rejects sets HANDOVER_REJECTED and
changes nothing else, in particular a write to a fenced bank, one during a handover, one with a reserved MODE or PWR,
a TRANSFER to FREE and a TRANSFER without a transfer pair. An accepted write that changes the owner starts a handover
to the written owner, scrubbing exactly in SCRUB mode, with the current owner still in place and what the bank held
going into its drain; one that changes only PWR, by a writer that may switch the bank, starts the transition of a bank
at rest, and while an on to off transition is short of its isolation point a write of on aborts it. That the PWR of a
writer that may not switch the bank counts as unchanged is the model's (log entry 109). (04_pools_reservoir_dram.md
R97, R98, R100, R102, R105, R114) -/
def Obligations.BankControlWrites : Prop :=
  (∀ (s : State) (i : Instr) (k v : Nat) (w : BankWriter) (past : Bool), s.live = true →
      (i = .bankScrubHandover k ⟨v, w⟩ ∨ i = .bankTransfer k ⟨v, w⟩ ∨ i = .bankPwrChange k ⟨v, w⟩ past) →
      ((s.bank k).fenced = true ∨ (s.bank k).handover ≠ none ∨ fld v 13 2 ≥ 2 ∨ fld v 16 2 = 3 ∨
        (fld v 13 2 = 1 ∧ bit v 12 = true) ∨
        (fld v 13 2 = 1 ∧ (s.bank k).changesOwner v = true ∧
          s.transferPair (s.bank k).curOwner (fld v 0 12) 24 = false)) →
      exec i s = .next (s.modBank k fun b => { b with handoverRejected := true })) ∧
  (∀ (s : State) (k v : Nat) (w : BankWriter) (p : BankPwr), s.live = true → s.bankRejects k v = false →
      (s.bank k).changesOwner v = true → p = (if mayPower k w then bankPwrOf (fld v 16 2) else (s.bank k).ctlPwr) →
      (fld v 13 2 = 0 → exec (.bankScrubHandover k ⟨v, w⟩) s = .next (s.modBank k fun b => { b with
        ctlOwner := if bit v 12 then b.ctlOwner else fld v 0 12, ctlFree := bit v 12, ctlPwr := p, held := [],
        handover := some { owner := fld v 0 12, free := bit v 12, scrub := true, pwr := p, drain := b.held
                           wake := b.pwrState = .retention && b.transition.isNone } })) ∧
      (fld v 13 2 = 1 → exec (.bankTransfer k ⟨v, w⟩) s = .next (s.modBank k fun b => { b with
        ctlOwner := fld v 0 12, ctlFree := false, ctlPwr := p, held := [],
        handover := some { owner := fld v 0 12, scrub := false, pwr := p, drain := b.held
                           wake := b.pwrState = .retention && b.transition.isNone } }))) ∧
  (∀ (s : State) (k v : Nat) (w : BankWriter) (past : Bool), s.live = true → s.bankRejects k v = false →
      (s.bank k).changesOwner v = false → mayPower k w = false → exec (.bankPwrChange k ⟨v, w⟩ past) s = .next s) ∧
  (∀ (s : State) (k v : Nat) (w : BankWriter) (past : Bool), s.live = true → s.bankRejects k v = false →
      (s.bank k).changesOwner v = false → mayPower k w = true → (s.bank k).ctlPwr ≠ bankPwrOf (fld v 16 2) →
      ((s.bank k).transition = none → (s.bank k).pwrState ≠ bankPwrOf (fld v 16 2) →
        exec (.bankPwrChange k ⟨v, w⟩ past) s = .next (s.modBank k fun b => { b with
          ctlPwr := bankPwrOf (fld v 16 2),
          transition := some { src := b.pwrState, dst := bankPwrOf (fld v 16 2) } })) ∧
      ((s.bank k).transition = some { src := .on, dst := .off } → bankPwrOf (fld v 16 2) = .on →
        exec (.bankPwrChange k ⟨v, w⟩ past) s = .next (s.modBank k fun b =>
          if past then { b with ctlPwr := .on, latchedPwr := some .on, pwrAborted := false }
          else { b with
            ctlPwr := .on, transition := none, latchedPwr := none, pwrState := .on, pwrAborted := true })))

/-- HANDOVER_COMPLETE of a bank in handover (nothing held or draining, no wake, firmware not looping, no power change
asked) leaves the new owner, or FREE, in place with the handover over; every byte of the bank reads 0 where the mode
is SCRUB and is unchanged where it is TRANSFER, and every byte outside the bank is unchanged. POWER_TRANSITION_DONE
(nothing held, draining or latched) leaves the target state; every byte of the bank reads 0 where the transition is
from or to off and is unchanged otherwise, and every byte outside is unchanged. No other bank changes. What waits in
the Signal box for such an end is settled after it. (04_pools_reservoir_dram.md R97, R99, R100, R101, R102, R105) -/
def Obligations.BankTransitionsEnd : Prop :=
  (∀ (s : State) (k : Nat) (h : BankHandover), s.live = true → (s.bank k).handover = some h → h.wake = false →
      h.drain = [] → (s.bank k).held = [] → (s.bank k).transition = none → (s.bank k).pwrState = h.pwr → s.fwLoops = false →
      ∃ t : State, exec (.handoverComplete k) s = .next t.settle ∧ (t.bank k).handover = none ∧ (t.bank k).curFree = h.free ∧
        (h.free = false → (t.bank k).curOwner = h.owner) ∧ (t.bank k).pwrState = (s.bank k).pwrState ∧
        (∀ j, j ≠ k → t.bank j = s.bank j) ∧
        (∀ a, (a < bankBase k ∨ bankBase k + 0x20000 ≤ a) → memGet t.mem a = memGet s.mem a) ∧
        (∀ a, bankBase k ≤ a → a < bankBase k + 0x20000 →
          memGet t.mem a = if h.scrub then 0 else memGet s.mem a) ∧
        t = { s with banks := t.banks, mem := t.mem }) ∧
  (∀ (s : State) (k : Nat) (x : BankTransition), s.live = true → (s.bank k).transition = some x →
      (s.bank k).latchedPwr = none → (s.bank k).held = [] → (s.bank k).handover = none →
      ∃ t : State, exec (.powerTransitionDone k) s = .next t.settle ∧ (t.bank k).transition = none ∧ (t.bank k).pwrState = x.dst ∧
        (∀ j, j ≠ k → t.bank j = s.bank j) ∧
        (∀ a, (a < bankBase k ∨ bankBase k + 0x20000 ≤ a) → memGet t.mem a = memGet s.mem a) ∧
        (∀ a, bankBase k ≤ a → a < bankBase k + 0x20000 →
          memGet t.mem a = if x.src = .off ∨ x.dst = .off then 0 else memGet s.mem a) ∧
        t = { s with banks := t.banks, mem := t.mem })

/-- BANK_ACCESS completes, for a requester that itself waits for the answer: served, a write stores exactly its bytes,
clears the poison of the words that it covers and is acknowledged, and a read without an uncorrectable word returns
the bytes; faulted, the access is answered with an error, and no byte of memory and no bank's owner, power or contents
change; a faulted access of a Basin ends its open list with BANK_FAULT (3); held, the request waits at the bank and
memory is unchanged. An access under another tag than the owner's, to a FREE bank, to a fenced bank or to a bank that
is off faults. (01_two_hierarchies.md R28, 04_pools_reservoir_dram.md R91, R96, R103, R104) -/
def Obligations.BankAccesses : Prop :=
  (∀ (s : State) (k : Nat) (r : BankReq), s.live = true → s.bankJudge k r = .serve → r.origin = .other → r.write = true →
      exec (.bankAccess k r) s = .next { s with
        mem := memWrite s.mem (bankBase k + r.off) (r.data.take r.len)
        banks := tmod {} s.banks k fun b => { b with poison := b.poison.filter fun w => !(wordIn r.off r.len w) }
        resp := { kind := .data } }) ∧
  (∀ (s : State) (k : Nat) (r : BankReq), s.live = true → s.bankJudge k r = .serve → r.origin = .other → r.write = false →
      (s.bankEcc k r = 0 → exec (.bankAccess k r) s = .next { s with
        blocks := if r.ecc = 1 then tmod {} s.blocks (blockOf k) fun b => { b with ce := sat16 b.ce } else s.blocks
        resp := { kind := .data, bytes := memRead s.mem (bankBase k + r.off) r.len } }) ∧
      (s.bankEcc k r = 2 → ∃ t, exec (.bankAccess k r) s = .next t ∧ t.resp = { kind := .error } ∧
        t = { s with blocks := t.blocks, banks := t.banks, resp := t.resp })) ∧
  (∀ (s : State) (k c : Nat) (r : BankReq), s.live = true → s.bankJudge k r = .fault c →
      (r.origin = .other → ∃ t, exec (.bankAccess k r) s = .next t ∧ t.resp = { kind := .error } ∧
        (t.block (blockOf k)).faultCount = min ((s.block (blockOf k)).faultCount + 1) 0xFFFF ∧
        (t.bank k = { s.bank k with oldOwnerFault := (t.bank k).oldOwnerFault }) ∧
        t = { s with blocks := t.blocks, banks := t.banks, resp := t.resp }) ∧
      (∀ n, r.origin = .basin n → (s.basin n).walkerPin = none → (s.basin n).list.open = true →
        ∃ t, exec (.bankAccess k r) s = .next t ∧ (t.basin n).list = .failed ∧ (t.basin n).status = 3 ∧
          t.mem = s.mem)) ∧
  (∀ (s : State) (k : Nat) (r : BankReq), s.live = true → s.bankJudge k r = .hold →
      ∃ t, exec (.bankAccess k r) s = .next t ∧ t.resp = { kind := .held } ∧ (t.bank k).held = (s.bank k).held ++ [r] ∧
        t = { s with banks := t.banks, resp := t.resp }) ∧
  (∀ (s : State) (k : Nat) (r : BankReq), (s.bank k).fenced = true → s.bankJudge k r = .fault 3) ∧
  (∀ (s : State) (k : Nat) (r : BankReq), (s.bank k).fenced = false → (s.bank k).handover = none →
      (s.bank k).curFree = true → s.bankJudge k r = .fault 1) ∧
  (∀ (s : State) (k : Nat) (r : BankReq), (s.bank k).fenced = false → (s.bank k).handover = none →
      (s.bank k).curFree = false → r.tag ≠ (s.bank k).curOwner → k < 1024 → s.bankJudge k r = .fault 0) ∧
  (∀ (s : State) (k : Nat) (r : BankReq), (s.bank k).fenced = false → (s.bank k).handover = none →
      (s.bank k).curFree = false → r.tag = (s.bank k).curOwner → (s.bank k).transition = none →
      s.bankJudge k r = match (s.bank k).pwrState with
        | .on => .serve
        | .retention => .hold
        | .off => .fault 2) ∧
  (∀ (m : List Host.Cell) (a x n k : Nat) (d : Bytes),
      (a ≤ x → x < a + d.length → memGet (memWrite m a d) x = d.getD (x - a) 0) ∧
      (x < a ∨ a + d.length ≤ x → memGet (memWrite m a d) x = memGet m x) ∧
      (memRead m a n).length = n ∧ (k < n → (memRead m a n)[k]? = some (memGet m (a + k))))

/-- SWEEP_REGION_TEST of a sweepable bank moves to the next region and changes nothing else where the region passes; a
failing region takes the first free spare, is reported, and the repair map is marked changed, and with no spare free
the bank is DEGRADED and NO_SWEEP. A word that the save step finds uncorrectable stays poisoned and is reported with
its bank, its word and the owner's tag. MARCH_START of an acceptable set starts the run and otherwise sets REJECTED;
MARCH_DONE of a run that found nothing in preserve mode only ends it. DRAM_RETRAIN of a trained controller that is on
counts one retraining and changes nothing else. (04_pools_reservoir_dram.md R106, R108, R109, R110, R111, R118) -/
def Obligations.BankMaintenance : Prop :=
  (∀ (s : State) (k : Nat), s.live = true → s.sweepable k = true →
      ((s.bank k).foundBad (s.bank k).sweepPos [] = [] →
        exec (.sweepRegionTest k false []) s = .next (s.modBank k fun b => { b with sweepPos := (b.sweepPos + 1) % 512 }) ∧
        (∀ sp, takeSpare (s.bank k).spareList (s.bank k).sweepPos = some sp →
          ∃ t, exec (.sweepRegionTest k true []) s = .next t ∧ (t.bank k).spares = sp ∧ t.repair.changed = true ∧
            t.boot = { s.boot with repairUpdated := true } ∧
            t.stm.reports = s.stm.reports ++ [(2, k, (s.bank k).sweepPos)] ∧ t.mem = s.mem) ∧
        (takeSpare (s.bank k).spareList (s.bank k).sweepPos = none →
          ∃ t, exec (.sweepRegionTest k true []) s = .next t ∧ (t.bank k).degraded = true ∧
            (t.bank k).noSweep = true ∧ t.stm.reports = s.stm.reports ++ [(3, k, (s.bank k).sweepPos)] ∧ t.mem = s.mem)) ∧
      (∀ w l, (s.bank k).foundBad (s.bank k).sweepPos l = [w] →
        ∃ t, exec (.sweepRegionTest k false l) s = .next t ∧ (t.bank k).poison = insertNat w (s.bank k).poison ∧
          t.stm.reports = s.stm.reports ++ [(4, 16384 * k + w, (s.bank k).curOwner)] ∧ t.mem = s.mem)) ∧
  (∀ (s : State) (b ctl : Nat), s.live = true → bit ctl 0 = true →
      ((s.block b).marchBusy = false → s.marchAccepts b (s.block b).marchMask (bit ctl 1) = true →
        ∃ t, exec (.marchStart b ctl) s = .next t ∧ t = { s with blocks := t.blocks } ∧
          t.block b = { s.block b with marchPreserve := bit ctl 1, marchBusy := true, marchSet := (s.block b).marchMask
                                       marchSetPreserve := bit ctl 1 }) ∧
      ((s.block b).marchBusy = true →
        ∃ t, exec (.marchStart b ctl) s = .next t ∧ t = { s with blocks := t.blocks } ∧
          t.block b = { s.block b with marchPreserve := bit ctl 1, marchRejected := true })) ∧
  (∀ (s : State) (b : Nat) (spares : List (Nat × Nat)) (sweep : List Nat), s.live = true →
      (s.block b).marchBusy = true → (s.block b).marchSetPreserve = true →
      exec (.marchDone b [] spares sweep) s =
        .next (s.modBlock b fun b => { b with marchBusy := false, marchDone := true })) ∧
  (∀ (s : State) (c : Nat), s.live = true → (s.dramCtrl c).trained = true → (s.dramCtrl c).state = .on →
      ∃ t, exec (.dramRetrain c) s = .next t ∧ t = { s with dram := t.dram } ∧
        t.dramCtrl c = { s.dramCtrl c with retrains := (s.dramCtrl c).retrains + 1 } ∧
        (∀ d, d ≠ c → t.dramCtrl d = s.dramCtrl d))

/-- With the device running, an instant that a command names brings the counter to that instant, or leaves it where it is
already further. As a gPTP slave a malformed Sync, one of another domain or of another identity is counted and changes
nothing else of the time; the first accepted Sync after a reset, with a measured link delay, steps the counter once by
minus its offset, with RATE and integ 0, and makes time valid unless validity was lost or a freeze occurred; a later
one leaves the counter in place and keeps RATE within 500 ppm. A Pdelay_Req is answered; a Pdelay_Resp to the open
exchange completes it; each interval sends its message; SYNC_TIMEOUT enters holdover with RATE = integ;
HOLDOVER_TIMEOUT withdraws granted validity with the cause TIME_LOST; a Mawyn block with a measured delay acts as an
accepted Sync. (12_timetable.md R314, R315, R316, R317, R318, R320, 16_mawyn_links.md R443) -/
def Obligations.TimeDiscipline : Prop :=
  (∀ (s : State) (i : Nat), s.live = true → s.tmt.freeze = .running →
      s.reach i = { s with tmt := { s.tmt with nowNs := max s.tmt.nowNs i } }) ∧
  (∀ (s r : State) (mac dom id origin i : Nat) (c : Int) (ok : Bool), s.live = true → r = s.reach i → r.timeMode = 1 →
      r.ttField 0x0D 1 = mac →
      (ok = false ∨ r.ttField 0x0E 1 ≠ dom ∨ (r.ttField 0x20 8 ≠ 0 ∧ r.ttField 0x20 8 ≠ id)) →
      exec (.gptpSync mac dom id origin c ok i) s =
        .next { r with tmt := { r.tmt with syncRejected := min (r.tmt.syncRejected + 1) 0xFFFF } }) ∧
  (∀ (s r : State) (mac dom id origin i : Nat) (c off : Int), s.live = true → r = s.reach i → r.timeMode = 1 →
      r.ttField 0x0D 1 = mac → r.ttField 0x0E 1 = dom → (r.ttField 0x20 8 = 0 ∨ r.ttField 0x20 8 = id) →
      r.tmt.pdelay.done = true → off = (r.now : Int) - (origin + Int.tdiv c 65536 + r.tmt.pdelay.meanDelay) →
      (r.tmt.stepped = false → r.tmt.lost = false → r.tmt.froze = false → r.tmt.lostRun < 3 →
        ∃ t, exec (.gptpSync mac dom id origin c true i) s = .next t ∧ t.now = ((r.now : Int) - off).toNat ∧
          t.tmt.stepped = true ∧ t.tmt.valid = true ∧ t.tmt.rate = 0 ∧ t.tmt.integ = 0 ∧ t.tmt.holdover = false ∧
          t.tmt.lastSync = some (t.now : Int) ∧ t.tmt.syncAccepted = (r.tmt.syncAccepted + 1) % 2 ^ 16 ∧
          t = { s with tmt := t.tmt }) ∧
      (r.tmt.stepped = true →
        ∃ t, exec (.gptpSync mac dom id origin c true i) s = .next t ∧ t.now = r.now ∧
          -rateLimit ≤ t.tmt.rate ∧ t.tmt.rate ≤ rateLimit ∧ t.tmt.holdover = false ∧
          t.tmt.lastSync = some (r.now : Int))) ∧
  (∀ (s r : State) (mac dom seq i : Nat), s.live = true → r = s.reach i → r.ptpOn mac dom = true →
      exec (.pdelayReq mac dom seq i) s = .next { r with tmt := { r.tmt with ptpSent :=
        r.tmt.ptpSent ++ [{ kind := 3, mac := r.ttField 0x0D 1, seq := seq, timeNs := r.now }] } } ∧
      (∀ t2 t3, r.tmt.pdelay.awaiting = true → r.tmt.pdelay.reqSeq = seq →
        exec (.pdelayResp mac dom seq t2 t3 i) s = .next { r with tmt := { r.tmt with pdelay := { r.tmt.pdelay with
          awaiting := false, done := true, meanDelay := linkDelay r.tmt.pdelay t2 t3 r.now, lastT3 := t3,
          lastT4 := r.now } } })) ∧
  (∀ (s r : State) (i : Nat), s.live = true → r = s.reach i →
      (r.timeMode = 1 ∨ r.timeMode = 2 → ∃ t, exec (.pdelayInterval i) s = .next t ∧
        t.tmt.pdelay = { r.tmt.pdelay with
          reqSeq := (r.tmt.pdelay.reqSeq + 1) % 2 ^ 16, t1 := r.now, awaiting := true } ∧
        t = { r with tmt := { r.tmt with pdelay := t.tmt.pdelay, ptpSent := t.tmt.ptpSent } }) ∧
      (r.timeMode = 2 → ∃ t, exec (.syncInterval i) s = .next t ∧
        t = { r with tmt := { r.tmt with syncSeq := (r.tmt.syncSeq + 1) % 2 ^ 16, ptpSent := r.tmt.ptpSent ++
          [{ kind := 0, mac := r.ttField 0x0D 1, seq := (r.tmt.syncSeq + 1) % 2 ^ 16, timeNs := r.now }] } })) ∧
  (∀ (s : State) (l : Int), s.live = true → s.tmt.lastSync = some l → s.syncMode = true →
      (s.tmt.holdover = false → ∃ r, r = s.reach (l + s.ttField 0x12 2 * 1000000).toNat ∧
        exec .syncTimeout s = .next { r with tmt := { r.tmt with holdover := true, rate := r.tmt.integ } }) ∧
      (s.tmt.holdover = true → s.tmt.valid = true → s.latched = false → ∃ t, exec .holdoverTimeout s = .next t ∧
        t.tmt.valid = false ∧ t.tmt.lost = true ∧ t.ilk.safeCause = 0x0B ∧
        t = { s with tmt := { s.tmt with nowNs := t.now, valid := false, lost := true }, ilk := t.ilk })) ∧
  (∀ (s r : State) (i p : Nat) (d : Int), s.live = true → r = s.reach i → r.timeMode = 3 → r.mawynOn = true →
      r.timeParent = some p → (r.mport p).delay = some d → (r.mport p).timeValid = true → (r.mport p).state.up = true →
      exec (.mawynTimeSync i) s = .next (r.syncApply (((r.mport p).arrival : Int) - ((r.mport p).txTime + d))))

/-- FREEZE with the device out of reset and no freeze standing latches the freeze by FREEZE_N at the present time, with
SAFE_N commanded low and every trigger output inactive. FREEZE_GATED ends the device's running: every running domain
is frozen and every controller that is on is in self-refresh. FREEZE_RELEASE of a freeze that FREEZE_N started
restarts them, lets the counter resume with STEPPED cleared and, where time was valid, withdraws its validity with the
cause TIME_LOST. TIME_SET_LAPSE drops an armed time-set. (01_two_hierarchies.md R27, 12_timetable.md R331, R332, R335,
17_external_interfaces_electrical.md R458) -/
def Obligations.FreezeAndRelease : Prop :=
  (∀ s : State, s.pins.porstN = true → s.pins.resetN = true → s.tmt.freeze = .running →
      ∃ t, exec .freeze s = .next t ∧ t.tmt.freeze = .latched ∧ t.tmt.freezeNs = s.now ∧ t.tmt.freezeByEvent = false ∧
        t.tmt.froze = true ∧ t.pins = { s.pins with freezeN := false, safeNCmd := false } ∧
        t.tmt.triggers = tmap s.tmt.triggers (fun _ o => { o with asserted := false, pulseEnd := none }) ∧
        t = { s with freeCtr := s.freeCtr + 1, tmt := t.tmt, pins := t.pins
                     ilk := { s.ilk with readbackSkip := t.ilk.readbackSkip } }) ∧
  (∀ s : State, s.live = true → s.tmt.freeze = .latched →
      exec .freezeGated s = .next { s with
        tmt := { s.tmt with freeze := .frozen }
        dram := tmap s.dram fun _ d => if d.state = .on then { d with state := .selfRefresh } else d
        clocks := tmap s.clocks fun _ c => if c.state = .on then { c with state := .frozen } else c }) ∧
  (∀ s : State, s.tmt.freeze = .frozen → s.tmt.freezeByEvent = false → s.latched = false →
      ∃ t, exec .freezeRelease s = .next t ∧ t.tmt.freeze = .running ∧ t.tmt.stepped = false ∧ t.tmt.valid = false ∧
        (s.tmt.valid = true → t.tmt.lost = true ∧ t.ilk.safeCause = 0x0B) ∧ (s.tmt.valid = false → t.ilk = s.ilk) ∧
        t.now = s.now ∧ t.pins = { s.pins with freezeN := true } ∧
        t.clocks = tmap s.clocks (fun _ c => if c.state = .frozen then { c with state := .on, stepInWindow := true } else c) ∧
        t = { s with tmt := t.tmt, pins := t.pins, clocks := t.clocks, dram := t.dram, ilk := t.ilk }) ∧
  (∀ (s : State) (a : ArmedSet), s.live = true → s.tmt.freeze = .running → s.tmt.armedSet = some a →
      exec .timeSetLapse s =
        .next { s with tmt := { s.tmt with nowNs := max s.tmt.nowNs a.lapseNs, armedSet := none } })

/-- With the device running, TIMETABLE_EVENT takes the occurrence that comes next: its count (the frame number for a FRAME
event) and its instant are recorded before the Interlocking and the Signal box see it, its triggers are armed, and
EFLAGS FREEZE starts a freeze at its instant. A toggling output inverts at its edge; a pulsing one goes active and
holds for WIDTH_NS from it, an edge inside a pulse being counted; TRIGGER_PULSE_END makes it inactive. A capture edge
that held less than 20 ns or is of an unselected polarity only passes time; one in the dead time is counted as
ignored; any other is numbered, stamped, put into a FIFO of 16 (counted as overflow when full) and given to Headway
and the CAPTURE events. TMT_NOW_READ answers the seconds and latches the rest for its path; CAP_FIFO_POP answers the
head and pops it, and reads zero from an empty FIFO. (12_timetable.md R325, R326, R327, R329, R330, R336,
17_external_interfaces_electrical.md R458) -/
def Obligations.TimetableOccurrences : Prop :=
  (∀ (s u : State) (p : PendingEvent) (e : TtEvent), s.live = true → s.tmt.freeze = .running → s.nextEvent = some p →
      u = s.reach p.instant → (u.events.find? fun x => x.id == p.id) = some e →
      exec .timetableEvent s =
        (let n := if e.kind = 2 then p.frame else (u.eventCount e.id + 1) % 2 ^ 32
         let v : State := { u with tmt := { u.tmt with
           evCount := tset u.tmt.evCount e.id n
           evLast := tset u.tmt.evLast e.id p.instant
           evFrom := if e.kind = 1 then tset u.tmt.evFrom e.id (p.instant + 1) else u.tmt.evFrom
           onceDone := if e.kind = 4 then u.tmt.onceDone ++ [(e.id, e.start)] else u.tmt.onceDone
           pendingEv := u.tmt.pendingEv.erase p } }
         let w := ((v.ilkEvent e.id n p.instant).settle).armTriggers e p.instant
         .next (if e.freeze then w.startFreeze true p.instant else w))) ∧
  (∀ (s u : State) (n d : Nat) (r : List Nat), s.live = true → s.tmt.freeze = .running → (s.trig n).due = d :: r →
      u = s.reach d → u.trigField n 0 2 ≠ 0 →
      (bit (u.trigField n 2 1) 1 = true → exec (.triggerEdge n) s =
        .next (u.modTrig n fun o => { o with due := r, asserted := !o.asserted })) ∧
      (bit (u.trigField n 2 1) 1 = false → ∀ x, x = (match (s.trig n).pulseEnd with | some e => decide (d < e) | none => false) →
        exec (.triggerEdge n) s =
        .next ({ u with tmt := { u.tmt with
            trigOverlap := if x then min (u.tmt.trigOverlap + 1) 0xFFFF else u.tmt.trigOverlap } }.modTrig n
          fun o => { o with due := r, asserted := true, pulseEnd := some (d + u.trigField n 4 4) }))) ∧
  (∀ (s : State) (n e : Nat), s.live = true → s.tmt.freeze = .running → (s.trig n).pulseEnd = some e →
      exec (.triggerPulseEnd n) s =
        .next ((s.reach e).modTrig n fun o => { o with asserted := false, pulseEnd := none })) ∧
  (∀ (s u : State) (n held i : Nat) (falling : Bool), s.live = true → s.tmt.freeze = .running → u = s.reach i →
      (held < 20 ∨ u.capSelects n falling = false → exec (.captureEdge n falling held i) s = .next u) ∧
      (20 ≤ held → u.capSelects n falling = true → u.capDead n i = true → exec (.captureEdge n falling held i) s =
        .next (u.modCap n fun c => { c with ignored := min (c.ignored + 1) 0xFF })) ∧
      (20 ≤ held → u.capSelects n falling = true → u.capDead n i = false →
        (∀ a, u.tmt.armedSet = some a → a.src ≠ n + 1) → exec (.captureEdge n falling held i) s =
        (let no := ((u.cap n).edgeNo + 1) % 2 ^ 32
         let v := u.modCap n fun c =>
           { c with
             last := some i, edgeNo := no
             fifo := if c.fifo.length < 16 then c.fifo ++ [(i, falling)] else c.fifo
             overflow := if c.fifo.length < 16 then c.overflow else min (c.overflow + 1) 0xFF }
         .next ((v.capture 2 n i no).sourceEvents 3 n i no)))) ∧
  (∀ (s : State) (path : Nat), s.live = true → exec (.tmtNowRead path) s =
      .next { s with
        tmt := { s.tmt with nowLatch := tset s.tmt.nowLatch path (s.now % 1000000000, s.tmt.nowFrac / 65536) }
        resp := { kind := .data, bytes := leBytes 8 (s.now / 1000000000) } }) ∧
  (∀ (s : State) (n : Nat), s.live = true →
      ((s.cap n).fifo = [] → exec (.capFifoPop n) s =
        .next { s with resp := { kind := .data, bytes := leBytes 4 0 } }) ∧
      (∀ t f r, (s.cap n).fifo = (t, f) :: r → exec (.capFifoPop n) s =
        .next { s.modCap n (fun c => { c with fifo := r }) with
          resp := { kind := .data, bytes := leBytes 4 (t % 1000000000 + 2 ^ 30 * b2n f + 2 ^ 31) } }))

/-- CLOCK_MONITOR_WINDOW with no judged count outside 2 % records the locks, opens every domain's next window and brings
the counter 1 microsecond on, changing nothing else. One judged count outside 2 % is a clock fault of its domain: a
fault of an island domain latches SAFE_N's cause ISLAND_CLOCK with the domain when no cause stands, domains 14 and 15
withdrawing granted validity; any other domain's fault is reported with kind 1 and noted for the Interlocking.
(01_two_hierarchies.md R26, 12_timetable.md R318, 18_registers_and_counters.md R480) -/
def Obligations.ClockMonitorWindow : Prop :=
  (∀ (s u : State) (counts : List (Nat × Nat)) (locked pixel : List Nat), s.live = true →
      u = { s with clocks := tmap s.clocks fun d c => { c with locked := recovered d && locked.contains d } } →
      (∀ e ∈ counts, u.judged e.1 = true → u.nominalKHz pixel e.1 ≠ 0 →
        u.nominalKHz pixel e.1 * 98 ≤ e.2 * 100 ∧ e.2 * 100 ≤ u.nominalKHz pixel e.1 * 102) →
      exec (.clockMonitorWindow counts locked pixel) s =
        .next ({ u with clocks := tmap u.clocks fun _ c => { c with stepInWindow := false } }.reach (s.now + 1000))) ∧
  (∀ (s u : State) (d f : Nat) (locked pixel : List Nat), s.live = true →
      u = { s with clocks := tmap s.clocks fun d c => { c with locked := recovered d && locked.contains d } } →
      u.judged d = true → u.nominalKHz pixel d ≠ 0 →
      (f * 100 < u.nominalKHz pixel d * 98 ∨ u.nominalKHz pixel d * 102 < f * 100) →
      ∃ t, exec (.clockMonitorWindow [(d, f)] locked pixel) s = .next t ∧
        (islandDomain d = true → s.latched = false → d < 65536 →
          t.ilk.safeCause = 8 ∧ t.ilk.safeSub = d ∧ t.ilk.detectNs = s.now) ∧
        ((d = 14 ∨ d = 15) → t.tmt.valid = false) ∧
        (islandDomain d = false → t.ilk.clockFaults = s.ilk.clockFaults ++ [d] ∧ t.ilk.safeCause = s.ilk.safeCause))

/-- On an enabled port whose packet is of its virtual channel, FRAME_START numbers and stamps a frame (the stamp being the
arrival less FS_COMP), truncates one still open, ends RESYNC, and is given to Headway and the FRAME events.
LINE_PACKET of the port's data type inside a frame writes the next line at its place in the ring of frames under the
camera's tag, restarts the line timeout and queues the write for its acknowledgement; a line in RESYNC, with no open
frame or beyond MAX_LINES is counted as an orphan. LINE_ACK retires a queued write that is not held; LINE_WRITE_DENIED
truncates the frame at the denied line; FRAME_END closes the frame; LINE_TIMEOUT and UNCORRECTABLE_HEADER truncate the
open frame and enter RESYNC. A packet of another virtual channel changes nothing. In a running device.
(05_signal_box.md R132, 12_timetable.md R322, R323, 17_external_interfaces_electrical.md R464, R467) -/
def Obligations.CameraFrames : Prop :=
  (∀ (s : State) (p vc dt i : Nat) (data : Bytes) (crc : Bool), s.live = true → s.camTakes p vc = false →
      exec (.frameStart p vc i) s = .next s ∧ exec (.linePacket p vc dt data crc i) s = .next s ∧
      exec (.frameEnd p vc) s = .next s) ∧
  (∀ (s u : State) (p vc i : Nat), s.live = true → s.tmt.freeze = .running → s.camTakes p vc = true → u = s.reach i →
      exec (.frameStart p vc i) s =
        (let no := ((s.cam p).number + 1) % 2 ^ 32
         let stamp := i - (u.camTiming p).2
         let v := (u.modCam p fun c => { c.truncate with
           number := no
           frames := ({ frame := no, stamp := stamp } :: c.truncate.frames).take 16
           resync := false
           lineBase := i
           timeoutNs := (u.camTiming p).1 * 1000 }).camSeen p
         .next ((v.capture 1 p stamp no).sourceEvents 2 p stamp no))) ∧
  (∀ (s u : State) (p vc i : Nat) (data : Bytes) (crc : Bool), s.live = true → s.tmt.freeze = .running →
      s.camTakes p vc = true → u = s.reach i →
      (((u.cam p).resync = true ∨ (u.cam p).isOpen = false) →
        exec (.linePacket p vc (s.camField p 5 1) data crc i) s =
          .next (u.modCam p fun c => { c with orphanLines := min (c.orphanLines + 1) 0x3FFF })) ∧
      (∀ f bs w, (u.cam p).resync = false → (u.cam p).isOpen = true → (u.cam p).cur = some f →
        f.received < u.camField p 0x16 2 → bs = u.lineBytes p data →
        w = State.devWritePages (.line p f.frame f.received) (bs.length / 4096 + 2) (u.camTag p)
          (u.camField p 8 8 % 2 ^ 48 + f.frame % max 1 (u.camField p 0x14 2) * u.camField p 0x10 4
            + f.received * u.camField p 0x18 4) bs (u.modCam p fun c => { c with lineBase := i }) →
        exec (.linePacket p vc (s.camField p 5 1) data crc i) s =
          .next (w.modCam p fun c =>
            { c.modCur fun f => { f with received := f.received + 1 } with
              crcErrors := if crc then min ((c.modCur fun f => { f with received := f.received + 1 }).crcErrors + 1) 0xFFFF
                else (c.modCur fun f => { f with received := f.received + 1 }).crcErrors
              writes := (c.modCur fun f => { f with received := f.received + 1 }).writes ++
                [{ frame := f.frame, line := f.received, denied := w.resp.kind == .error && bs != [] }] }))) ∧
  (∀ (s : State) (p frame line : Nat), s.live = true → { frame := frame, line := line } ∈ (s.cam p).writes →
      (s.awaits (.line p frame line) = true → exec (.lineAck p frame line) s = .next s) ∧
      (s.awaits (.line p frame line) = false → exec (.lineAck p frame line) s = .next ((s.modCam p fun c =>
        { c with writes := c.writes.erase { frame := frame, line := line } }).camSeen p))) ∧
  (∀ (s : State) (p frame line : Nat), s.live = true →
      { frame := frame, line := line, denied := true } ∈ (s.cam p).writes →
      exec (.lineWriteDenied p frame line) s = .next ((s.modCam p fun c =>
        { c with
          resync := c.resync || (c.isOpen && (c.frames.head?.map CamFrame.frame == some frame))
          writes := c.writes.filter fun x => x.frame ≠ frame ∨ x.line < line
          frames := c.frames.map fun f =>
            if f.frame = frame then { f with isOpen := false, truncated := true, received := min f.received line }
            else f }).camSeen p)) ∧
  (∀ (s : State) (p vc : Nat), s.live = true → s.camTakes p vc = true → (s.cam p).resync = false →
      (s.cam p).isOpen = true → exec (.frameEnd p vc) s =
        .next ((s.modCam p fun c => c.modCur fun f => { f with isOpen := false }).camSeen p)) ∧
  (∀ (s : State) (p : Nat), s.live = true →
      ((s.cam p).isOpen = true → s.tmt.freeze = .running → exec (.lineTimeout p) s =
        .next (((s.reach ((s.cam p).lineBase + (s.cam p).timeoutNs)).modCam p fun c =>
          { c.truncate with resync := true }).camSeen p)) ∧
      (s.camEnabled p = true → exec (.uncorrectableHeader p) s = .next ((s.modCam p fun c =>
        { c.truncate with resync := true, hdrErrors := min (c.hdrErrors + 1) 0xFFFF }).camSeen p))) ∧
  (∀ (c : CamPort) (f : CamFrame) (r : List CamFrame), c.frames = f :: r → f.isOpen = true →
      c.truncate = { c with frames := { f with isOpen := false, truncated := true } :: r })

/-- A granted DRAM write under the ring's writer tag that covers the low four bytes of its tail word stores its bytes (and
sets the dirty bit of a logged page), sets the ring's tail, and disarms an armed ring with TAIL_INVALID where (T -
HEAD) mod 2^32 exceeds 2^LOG2_SIZE; one under another tag stores them and is counted in TAIL_IGNORED; a denied one
only leaves its denial. ARM from the privileged view of a ring whose configuration lies where it must and whose
captured tail is valid arms it and clears its error and GATED, else it records BAD_CONFIG or (the model's choice, log
entry 114) TAIL_INVALID; from a window it arms only a general ring that is not gated. DISARM disarms and gates; CANCEL
ends the ring's graphs and disarms it. GRAPH_ADMIT of a ring whose turn it is not changes nothing; a held fetch waits;
an unreadable header disarms it with RING_FETCH_ERROR; a type-0 entry only moves HEAD; a graph with a reject code only
leaves its record; one without room waits; any other is admitted. An armed ring with a head-write error is disarmed.
In a running device. (05_signal_box.md R121, R122, R123, R124, R125, R126, R144, R150, 09_routesetter.md R246) -/
def Obligations.SignalBoxRings : Prop :=
  (∀ (s : State) (n tag addr len value c : Nat) (ok : Bool) (r : Ring) (acc : Access), s.live = true → s.sbx.rings = [(n, r)] →
      r.log2Size ≠ 0 → addr ≤ r.tailAddr → r.tailAddr + 4 ≤ addr + len → s.target addr = .dram c →
      (s.blockAccess tag addr len true (leBytes len value)).map (fun a => { a with entryOk := ok }) = some acc →
      (∀ k, s.verdict acc = .deny k →
        exec (.tailWrite (.tag tag) addr len value ok) s = .next ((s.noteDenial acc k).answerError .other .denied)) ∧
      (s.verdict acc = .grant → (s.dramCtrl c).state ≠ .off →
        (tag = r.writerTag → ∀ x, x = le (leBytes len value) (r.tailAddr - addr) 4 → ∃ t,
          exec (.tailWrite (.tag tag) addr len value ok) s = .next t ∧
          t.mem = ((s.wr addr ((leBytes len value).take len)).logWrite addr len).mem ∧ t.sbx = { s.sbx with rings := [(n,
          if r.armed = true ∧ 2 ^ r.log2Size < subMod x r.head then
            { r with tail := x, error := 1, armed := false, gated := true, waitSlots := false, waitQuota := false }
          else { r with tail := x })] }) ∧
        (tag ≠ r.writerTag → ∃ t, exec (.tailWrite (.tag tag) addr len value ok) s = .next t ∧
          t.mem = ((s.wr addr ((leBytes len value).take len)).logWrite addr len).mem ∧
          t.sbx = { s.sbx with tailIgnored := min (s.sbx.tailIgnored + 1) 0xFFFF }))) ∧
  (∀ (s : State) (n : Nat), s.live = true → s.armRefused n = false → (s.ring n).tailOk (s.ring n).tail = true →
      exec (.arm n false) s =
        .next (s.modRing n fun r => { r with error := 0, armed := true, gated := false }) ∧
      (16 ≤ n → (s.ring n).gated = false →
        exec (.arm n true) s = .next (s.modRing n fun r => { r with error := 0, armed := true })) ∧
      ((n < 16 ∨ (s.ring n).gated = true) → exec (.arm n true) s = .next s)) ∧
  (∀ (s : State) (n : Nat), s.live = true → (s.armRefused n = true ∨ (s.ring n).tailOk (s.ring n).tail = false) →
      exec (.arm n false) s = .next (s.modRing n fun r =>
        { r with error := if s.armRefused n then 3 else 1, armed := false, gated := true, waitSlots := false
                 waitQuota := false })) ∧
  (∀ (s : State) (n : Nat), s.live = true →
      exec (.disarm n) s = .next (s.modRing n fun r =>
        { r with armed := false, gated := true, waitSlots := false, waitQuota := false }) ∧
      ((s.ring n).armed = true → exec (.headWriteError n) s = .next (s.modRing n fun r =>
        { r with error := 2, armed := false, gated := true, waitSlots := false, waitQuota := false })) ∧
      exec (.cancel n) s = .next ((((s.graphsWhere fun g => g.ring == n).foldl
          (fun s g => (s.endGraph g 3).closeGraph g) s).modRing n fun r =>
            { r with armed := false, waitSlots := false, waitQuota := false }).cancelRoutes
        fun x => (s.graph (s.node x.node).graph).ring == n)) ∧
  (∀ (s : State) (n : Nat), s.live = true → s.ringNext n = false → exec (.graphAdmit n) s = .next s) ∧
  (∀ (s u v w x : State) (n : Nat) (h : Bytes) (f : Fetched) (z : Fetch), s.live = true → s.ringNext n = true →
      s.fetchBytes (s.ring n).ownerTag ((s.ring n).base + 64 * ((s.ring n).head % (s.ring n).size)) 64 = (u, z) →
      (z = .waits → exec (.graphAdmit n) s = .next u) ∧
      (z = .failed → exec (.graphAdmit n) s = .next ((u.ringServed n).ringError n 4)) ∧
      (z = .got h →
        (le h 0 2 = 0 → exec (.graphAdmit n) s = .next ((u.ringServed n).advanceHead n)) ∧
        (le h 0 2 ≠ 0 → u.fetchGraph (u.ring n).ownerTag h = (v, .waits) → exec (.graphAdmit n) s = .next v) ∧
        (le h 0 2 ≠ 0 → u.fetchGraph (u.ring n).ownerTag h = (v, .failed) →
          exec (.graphAdmit n) s = .next ((v.ringServed n).rejectGraph n h 0x0A)) ∧
        (le h 0 2 ≠ 0 → u.fetchGraph (u.ring n).ownerTag h = (w, .got f) → x = w.ringServed n →
          (x.rejectCode n f ≠ 0 → exec (.graphAdmit n) s = .next (x.rejectGraph n h (x.rejectCode n f))) ∧
          (x.rejectCode n f = 0 → x.quotaFor n f.recs.length (le h 0x30 4) = false →
            exec (.graphAdmit n) s = .next (x.modRing n fun r => { r with waitQuota := true, waitSlots := false })) ∧
          (x.rejectCode n f = 0 → x.quotaFor n f.recs.length (le h 0x30 4) = true →
            x.roomFor n f.recs.length (le h 0x30 4) = false →
            exec (.graphAdmit n) s = .next (x.modRing n fun r => { r with waitSlots := true, waitQuota := false })) ∧
          (x.rejectCode n f = 0 → x.quotaFor n f.recs.length (le h 0x30 4) = true →
            x.roomFor n f.recs.length (le h 0x30 4) = true → exec (.graphAdmit n) s = .next (x.admitGraph n f)))))

/-- NODE_COMPLETE for a free context or another generation is counted as discarded and, for a Consist, as late; for a
context whose work is done it charges the time, frees the ranks and the context, and completes the node with the
work's status; for one whose rank has failed it ends a SAFETY context once its ranks are at rest, stops them where
they are not, and tears a Consist down with the rank's status. COMPLETION_INTERRUPT of a graph whose interrupt is due,
and whose record write has been answered, removes the graph and changes only what the interrupt's write changes.
SAFETY_DISPATCH binds the first ready SAFETY node in order to idle express Basins under its ring's owner tag, or
counts once the lack of a context. NODE_DEADLINE does nothing before the deadline; at it, it marks the node, which
ends with RELEASE_TIMEOUT at its evaluation where its condition has not held. A token configuration, generation or
value write sets the shown token's fields and the Signal box then evaluates its nodes. In a running device.
(05_signal_box.md R133, R136, R137, R141, R142, R146, R147, 06_turntable_and_consists.md R159) -/
def Obligations.SignalBoxNodes : Prop :=
  (∀ (s : State) (c g : Nat), s.live = true →
      ((s.ctx c).state = .free ∨ (s.ctx c).generation ≠ g) → exec (.nodeComplete c g) s =
        (let u : State := { s with sbx := { s.sbx with genDiscards := min (s.sbx.genDiscards + 1) 0xFFFF } }
         .next (if (s.ctx c).consist = 0 then u
           else u.modConsist (s.ctx c).consist fun x => { x with lateCompletions := min (x.lateCompletions + 1) 0xFFFF }))) ∧
  (∀ (s u : State) (c g st : Nat) (x : Ctx), s.live = true → x = s.ctx c → x.state ≠ .free → x.generation = g →
      (u = (if x.rts.isSome then s
          else (s.charge x.node x.consist ((s.node x.node).units * (s.now - x.boundAt))).addSlow x.node x) →
        s.leaveBasins c =
          ((u.unbindRanks (x.ranks.filter fun r => (u.basin r.basin).context == c)).freeContext c).endPreemption c) ∧
      (s.failedRank c = none → x.workStatus = some st →
        exec (.nodeComplete c g) s = .next (((s.leaveBasins c).completeNode x.node st 0).settle)) ∧
      (s.failedRank c = none → x.workStatus = none → exec (.nodeComplete c g) s = .next s)) ∧
  (∀ (s v : State) (c g : Nat) (x : Ctx) (r : Rank) (b : Basin), s.live = true → x = s.ctx c → x.state ≠ .free →
      x.generation = g → s.failedRank c = some r → b = s.basin r.basin →
      v = s.noteFailure (s.node x.node).graph (s.node x.node) b.status b.failIndex →
      (x.consist = 0 → s.ctxAtRest c = true →
        exec (.nodeComplete c g) s = .next (((s.leaveBasins c).completeNode x.node b.status b.failIndex).settle)) ∧
      (x.consist = 0 → s.ctxAtRest c = false →
        exec (.nodeComplete c g) s = .next ((v.stopRanks c).modCtx c fun y => { y with state := .stopping })) ∧
      (x.consist ≠ 0 → exec (.nodeComplete c g) s = .next (v.teardown x.consist b.status r.basin x.node))) ∧
  (∀ (s : State) (g : Nat), s.live = true → (s.graph g).interruptDue = true → (s.graph g).record ≠ .writing →
      ∃ u, exec (.completionInterrupt g) s = .next { u with sbx := { u.sbx with graphs := tdel u.sbx.graphs g } } ∧
        ((s.graph g).ring < 16 → u = s.msi s.sbxTag (s.ring (s.graph g).ring).msiAddr (s.ring (s.graph g).ring).msiData) ∧
        (16 ≤ (s.graph g).ring → u = s.msi s.sbxTag (s.consist (s.graph g).consist).complMsiAddr
          (s.consist (s.graph g).consist).complMsiData)) ∧
  (∀ (s : State) (k : Nat) (n : Node) (idle : List Nat), s.live = true →
      s.firstInOrder (s.readyBasin fun n => n.flag 0) = some k → n = s.node k →
      idle = ((s.expressBasins n.terraces).filter fun b => s.basinTaken k b = false) → n.units ≤ idle.length →
      (s.freeCtx 0 = none → n.ctxWait = true → exec .safetyDispatch s = .next s) ∧
      (s.freeCtx 0 = none → n.ctxWait = false → exec .safetyDispatch s = .next { (s.modNode k fun n =>
          { n with ctxWait := true }) with ttb := { s.ttb with ctxWaits := min (s.ttb.ctxWaits + 1) 0x7FFF } }) ∧
      (∀ c, s.freeCtx 0 = some c → exec .safetyDispatch s =
        (let rs := (idle.take n.units).map fun b => ({ vbasin := b, basin := b } : Rank)
         .next (((s.bindRanks c k (s.ring (s.graph n.graph).ring).ownerTag (s.graph n.graph).generation false rs).modNode k
           fun n => { n with state := .running, context := c }).modCtx c fun _ =>
             { state := .running, node := k, consist := 0, generation := (s.graph n.graph).generation, ranks := rs
               boundAt := s.now, firstBound := s.now, queuedNs := s.now - n.readyAt })))) ∧
  (∀ (s : State) (k : Nat), s.live = true →
      ((s.node k).deadline = 0 → exec (.nodeDeadline k) s = .next s) ∧
      ∀ t, (s.node k).deadline ≠ 0 → t = s.reach ((s.graph (s.node k).graph).originNs + 64 * (s.node k).deadline) →
        (t.now < (s.graph (s.node k).graph).originNs + 64 * (s.node k).deadline → exec (.nodeDeadline k) s = .next s) ∧
        ((s.graph (s.node k).graph).originNs + 64 * (s.node k).deadline ≤ t.now →
          exec (.nodeDeadline k) s = .next ((t.modNode k fun n => { n with lateAt := true }).settle))) ∧
  (∀ (s : State) (k : Nat), (s.node k).state = .release → (s.node k).lateAt = true →
      s.evaluate k = s.completeNode k 0x21 0) ∧
  (∀ (s : State) (p v : Nat), s.live = true →
      exec (.tokenCfgWrite p v) s = .next ((s.modToken (s.tokenShown p) fun t =>
        { t with ownerConsist := v % 256, srcDevice := v / 2 ^ 8 % 64, srcTag := v / 2 ^ 14 % 4096
                 valid := v.testBit 26 }).settle) ∧
      exec (.tokenGenWrite p v) s = .next ((s.modToken (s.tokenShown p) fun t =>
        { t with expectGen := v % 2 ^ 16, stale := false }).settle) ∧
      exec (.tokenValueWrite p v) s =
        .next ((s.modToken (s.tokenShown p) fun t => { t with value := v % 2 ^ 32 }).settle)) ∧
  (∀ s : State, s.sbx.nodes = [] → s.stm.replies = [] → s.settle = s)

/-- CONTEXT_BIND binds the node that R160's loop picks in a pool to the Basins that it can be placed on; with nothing to
pick or no place it changes nothing. QUANTUM_TICK binds likewise and goes on with the selection while a node gets
bound; a node without a place preempts the first running context that qualifies and without which it would have one,
and the selection goes on; otherwise it ends. A preemption stops the context's ranks and records its incoming node,
its start and its Terraces, beside any other. PREEMPT_RANKS_STOPPED of a stopping context with every rank done voids
the stop; with every rank done or stopped it parks the context, or waits for a held transfer, or ends in the Consist's
teardown for an error. PREEMPT_MOVES_DONE of a preemption past its step 2, without an error, ends it: where the
incoming node is still wanted and gets bound, its latency is kept in the maximum and in the count over 100
microseconds, and else no latency is recorded. In a running device. (06_turntable_and_consists.md R160, R161, R163,
R165, R166) -/
def Obligations.TurntableBinding : Prop :=
  (∀ (s : State) (p : Nat), s.live = true →
      ((s.pick p = none ∨ ∃ k, s.pick p = some k ∧ s.placement k = none) → exec (.contextBind p) s = .next s) ∧
      (∀ k rs, s.pick p = some k → s.placement k = some rs → exec (.contextBind p) s = .next (s.bindPicked k rs)) ∧
      (s.pick p = none → exec (.quantumTick p) s = .next s) ∧
      ∀ f, s.sbx.nodes.length + s.ttb.ctxs.length = f + 1 →
        (∀ k rs t, s.pick p = some k → s.placement k = some rs → t = s.bindPicked k rs →
          exec (.quantumTick p) s = .next (if t.nodeBound k then State.selectN f t p else t)) ∧
        (∀ k, s.pick p = some k → s.placement k = none →
          (s.ttb.ctxs.find? fun e => s.qualifies p k e.1 && s.placeableWithout k e.1) = none →
          exec (.quantumTick p) s = .next s) ∧
        (∀ k c x, s.pick p = some k → s.placement k = none →
          (s.ttb.ctxs.find? fun e => s.qualifies p k e.1 && s.placeableWithout k e.1) = some (c, x) →
          exec (.quantumTick p) s = .next (State.selectN f (s.preempt c k) p))) ∧
  (∀ (s t : State) (c k : Nat), t = s.preempt c k →
      t = { s with basins := t.basins, ttb := t.ttb } ∧ (t.ctx c).state = .stopping ∧ (t.ctx c).preemptAt = s.now ∧
      t.ttb.preemptions = tset s.ttb.preemptions c
        { inNode := k, start := s.now, terraces := ((s.ctx c).ranks.map fun r => 2 ^ (r.basin / 8)).foldl (· ||| ·) 0 }) ∧
  (∀ s : State, s.live = true → exec .preemptRanksStopped s =
      .next (s.ttb.preemptions.foldl (fun s e => s.preemptStopped e.1) s)) ∧
  (∀ (s : State) (c : Nat) (p : Preemption), tfind s.ttb.preemptions c = some p → p.ranksStopped = false →
      (s.ctx c).state = .stopping →
      ((∃ r ∈ (s.ctx c).ranks, r.done = false ∧ r.stopped = false) → s.preemptStopped c = s) ∧
      ((∀ r ∈ (s.ctx c).ranks, r.done = true) → s.preemptStopped c =
        (s.modCtx c fun x => { x with state := .running }).endPreemption c) ∧
      ((∃ r ∈ (s.ctx c).ranks, r.done = false) → (∀ r ∈ (s.ctx c).ranks, r.done = true ∨ r.stopped = true) →
        ∀ u e, s.parkCtx c = (u, e) → s.preemptStopped c = (match (e : MoveEnd) with
          | .done => u.holdBasins c p
          | .waits => s
          | e => (u.endPreemption c).moverFault (s.ctx c).consist (16 * ((s.ctx c).ranks.headD {}).basin) e))) ∧
  (∀ (s u : State) (c : Nat) (p : Preemption), s.live = true → tfind s.ttb.preemptions c = some p → p.ranksStopped = true →
      u = (s.chargeRest c).endPreemption c →
      ((u.stillWanted p.inNode = false ∨ u.placement p.inNode = none) →
        exec (.preemptMovesDone c {}) s = .next u) ∧
      ∀ rs t, u.stillWanted p.inNode = true → u.placement p.inNode = some rs → t = u.bindPicked p.inNode rs →
        (t.nodeBound p.inNode = false → exec (.preemptMovesDone c {}) s = .next t) ∧
        (t.nodeBound p.inNode = true → ∃ v, exec (.preemptMovesDone c {}) s = .next v ∧
          v.ttb.maxNs = min (max t.ttb.maxNs (u.now - p.start)) 0xFFFFFFFF ∧
          v.ttb.overBound = (if u.now - p.start > 100000 then min (t.ttb.overBound + 1) 0xFFFF else t.ttb.overBound) ∧
          v = { t with freeCtr := v.freeCtr, ttb := v.ttb }))

/-- In a running device: TEARDOWN with a cause outside R169's table, or of a FREE Consist, changes nothing; of one in
TEARDOWN it merges the state it ends in; of an ACTIVE, QUIESCING or QUIESCED one, and for RESET and DESTROY of an
EXPIRED one, it starts: the Consist is in TEARDOWN, will end as the cause says, counts it and keeps the first valid
cause with its Basin, node and generation (that an ACTIVE Consist's lease runs on is the model's choice, log entry
118), and a running context of it is stopping with its rank's list. TEARDOWN_RANKS_STOPPED changes nothing while a
context of the Consist is not at rest; else it drops the contexts, ends the generation's graphs, drops its KVC work,
hands its banks to FREE by SCRUB, advances the generation, and leaves no binding and no valid slot.
TEARDOWN_SCRUB_DONE sends the interrupt, then releases the Consist or sets the state that the cause gives. LEASE_CHECK
tears down with LEASE_EXPIRED every ACTIVE Consist, and every one in TEARDOWN, that is past its lease. A KICK by the
driver's tag renews the lease, or is counted as late once the Consist has expired; any other tag's changes nothing.
CST_BANK_PWR writes a resident bank's power control, or is rejected as every such write is, or empties a parked bank's
slot. TTB_SLOW_CLEAR zeroes COUNT rows and PREEMPT_CLEAR the preemption figures. (06_turntable_and_consists.md R158,
R165, R168, R169, R171, R172, R175, R176) -/
def Obligations.TurntableTeardown : Prop :=
  (∀ (s : State) (c k b n : Nat), s.live = true →
      (teardownCause k = false ∨ (s.consist c).state = .free → exec (.teardown c k b n) s = .next s) ∧
      (teardownCause k = true → (s.consist c).state = .teardown → exec (.teardown c k b n) s =
        .next (s.modConsist c fun x => { x with afterTeardown := mergeAfter x.afterTeardown (afterCause k) })) ∧
      (teardownCause k = true → ((s.consist c).state = .active ∨ (s.consist c).state = .quiescing ∨
          (s.consist c).state = .quiesced) →
        exec (.teardown c k b n) s = .next (s.teardownStart c k b n)) ∧
      (teardownCause k = true → (s.consist c).state = .expired →
        exec (.teardown c k b n) s = .next (if k = 0x41 ∨ k = 0x42 then s.teardownStart c k b n else s))) ∧
  (∀ (s t : State) (c k b n : Nat), (s.consist c).logReply = none → (s.consist c).quiesceReply = none →
      (s.rtsAt 0).jobs = [] → (s.rtsAt 1).jobs = [] → t = s.teardownStart c k b n →
      ((∀ e ∈ s.ttb.ctxs, e.2.consist ≠ c) → t.consist c = { s.consist c with
        flipBusy := false
        state := .teardown
        afterTeardown := afterCause k
        tornStopped := false
        leaseKick := if (s.consist c).state = .active then (s.consist c).leaseKick else s.now
        teardowns := min ((s.consist c).teardowns + 1) 0xFF
        causeCode := if (s.consist c).causeValid then (s.consist c).causeCode else k
        causeBasin := if (s.consist c).causeValid then (s.consist c).causeBasin else b
        causeGen := if (s.consist c).causeValid then (s.consist c).causeGen else (s.consist c).generation
        causeNode := if (s.consist c).causeValid then (s.consist c).causeNode else n
        causeValid := true }) ∧
      ∀ i x r, s.ttb.ctxs = [(i, x)] → x.consist = c → x.state = .running → x.rts = none → x.ranks = [r] →
        r.done = false → (s.basin r.basin).context = i → (s.basin r.basin).list = .running →
        (t.ctx i).state = .stopping ∧ (t.basin r.basin).list = .stopping) ∧
  (∀ (s u v : State) (c : Nat), s.live = true → (s.consist c).state = .teardown → (s.consist c).tornStopped = false →
      ((∃ e ∈ s.ttb.ctxs, e.2.consist = c ∧ e.2.state ≠ .free ∧ s.ctxAtRest e.1 = false) →
        exec (.teardownRanksStopped c) s = .next s) ∧
      ((∀ e ∈ s.ttb.ctxs, e.2.consist = c → e.2.state ≠ .free → s.ctxAtRest e.1 = true) →
        u = (((s.ttb.ctxs.filter fun e => e.2.consist == c && e.2.state != .free).map (·.1)).foldl State.dropContext
          (s.dropIncoming c)) →
        v = ((u.generationAdvance c).kvcGenDrop c) →
        exec (.teardownRanksStopped c) s =
          .next (((v.banksOf (v.consistTag c)).foldl State.scrubFree v).modConsist c fun x =>
            { x with generation := nextGen x.generation, validMap := 0, binding := [], tornStopped := true }))) ∧
  (∀ (s u : State) (c : Nat), s.live = true → (s.consist c).state = .teardown → (s.consist c).tornStopped = true →
      u = s.msi s.sbxTag (s.consist c).tearMsiAddr (s.consist c).tearMsiData →
      ((s.consist c).afterTeardown = .free → exec (.teardownScrubDone c) s = .next (u.releaseConsist c)) ∧
      ((s.consist c).afterTeardown ≠ .free → exec (.teardownScrubDone c) s = .next (u.modConsist c fun x =>
        { x with state := x.afterTeardown, tornStopped := false }))) ∧
  (∀ s : State, s.live = true → exec .leaseCheck s = .next (((s.ttb.consists.filter fun e =>
      (e.2.state == .active || e.2.state == .teardown) && s.now ≥ e.2.leaseKick + s.leaseNs e.1).map (·.1)).foldl
        (fun s c => s.teardown c 0x40 0 0) s)) ∧
  (∀ (s : State) (c tag : Nat), s.live = true →
      ((s.consist c).state = .free ∨ tag ≠ (s.consist c).driverTag → exec (.kick c tag) s = .next s) ∧
      (tag = (s.consist c).driverTag → ((s.consist c).state = .active ∨ (s.consist c).state = .quiescing ∨
          (s.consist c).state = .quiesced ∨ ((s.consist c).state = .teardown ∧ (s.consist c).afterTeardown ≠ .expired)) →
        exec (.kick c tag) s = .next (s.modConsist c fun x => { x with leaseKick := s.now })) ∧
      (tag = (s.consist c).driverTag → ((s.consist c).state = .expired ∨
          ((s.consist c).state = .teardown ∧ (s.consist c).afterTeardown = .expired)) → exec (.kick c tag) s =
        .next (s.modConsist c fun x => { x with lateKicks := min (x.lateKicks + 1) 0xFF }))) ∧
  (∀ (s : State) (c v b p phys k : Nat), s.live = true → p < 3 → (s.consist c).state ≠ .free → v < 64 → b < 16 →
      tfind (s.consist c).binding v = some phys → k = 16 * phys + b → k < 1024 → (s.bank k).curFree = false →
      (s.bank k).curOwner = s.consistTag c →
      (((s.bank k).fenced = true ∨ (s.bank k).handover.isSome = true) → exec (.cstBankPwr c (v + 2 ^ 8 * b + 2 ^ 12 * p)) s =
        .next (s.modBank k fun x => { x with handoverRejected := true })) ∧
      ((s.bank k).fenced = false → (s.bank k).handover = none → (s.bank k).transition = none → (s.bank k).ctlFree = false →
        (s.bank k).ctlOwner < 4096 →
        ((s.bank k).ctlPwr = bankPwrOf p → exec (.cstBankPwr c (v + 2 ^ 8 * b + 2 ^ 12 * p)) s = .next s) ∧
        ((s.bank k).ctlPwr ≠ bankPwrOf p → ∃ t, exec (.cstBankPwr c (v + 2 ^ 8 * b + 2 ^ 12 * p)) s = .next t ∧
          t = { s with freeCtr := t.freeCtr, banks := t.banks } ∧
          t.bank k = (if (s.bank k).pwrState = bankPwrOf p then { s.bank k with ctlPwr := bankPwrOf p }
            else { s.bank k with
              ctlPwr := bankPwrOf p, transition := some { src := (s.bank k).pwrState, dst := bankPwrOf p } }) ∧
          ∀ j, j ≠ k → t.bank j = s.bank j))) ∧
  (∀ (s : State) (c v b : Nat), s.live = true → (s.consist c).state ≠ .free → v < 64 → b < 16 →
      tfind (s.consist c).binding v = none → exec (.cstBankPwr c (v + 2 ^ 8 * b)) s =
        .next (s.modConsist c fun x => { x with validMap := setFld x.validMap (16 * v + b) 1 0 })) ∧
  (∀ (s : State) (first count : Nat), s.live = true → first < 4096 → count ≤ 256 →
      exec (.ttbSlowClear (first + 2 ^ 12 * count)) s = .next { s with ttb := { s.ttb with
        slow := s.ttb.slow.filter fun e => e.1 < first || first + count ≤ e.1 } } ∧
      exec .preemptClear s = .next { s with ttb := { s.ttb with maxNs := 0, overBound := 0, ctxWaits := 0 } })

/-- MBOX_TAKE puts the written 8 bytes over the slot and appends the request under the writer's tag; with 32 requests
waiting it is refused, counted and answered with an error, and after the watchdog has expired it is refused without
effect. VERSION answers FW_VERSION, MATCH_VERSION and MATCH; MATCH 1 puts the tag last in the list of valid
handshakes, a list of 64 losing its oldest, and MATCH 0 removes it. A request at the head is answered and leaves the
queue. In a live device whose firmware is in its service loop. (15_firmware_power_supplies.md R399, R400, R401, R402,
R421) -/
def Obligations.MailboxTakesAndVersion : Prop :=
  (∀ (s : State) (tag : Nat) (d : Bytes), s.live = true →
      (s.stm.wdogExpired = true → exec (.mboxTake tag d) s = .next { s with resp := { kind := .error } }) ∧
      (s.stm.wdogExpired = false → s.stm.queue.length < 32 →
        exec (.mboxTake tag d) s = .next { s with
          stm := { s.stm with
            mboxSlot := slice d 0 8 ++ slice (s.stm.mboxSlot.drop 8) 0 120
            queue := s.stm.queue ++ [{ tag := tag, bytes := slice d 0 8 ++ slice (s.stm.mboxSlot.drop 8) 0 120 }] }
          resp := { kind := .data } }) ∧
      (s.stm.wdogExpired = false → 32 ≤ s.stm.queue.length →
        exec (.mboxTake tag d) s = .next { s with
          stm := { s.stm with
            mboxSlot := slice d 0 8 ++ slice (s.stm.mboxSlot.drop 8) 0 120
            mboxRefused := min (s.stm.mboxRefused + 1) 0xFFFF }
          resp := { kind := .error } })) ∧
  (∀ (s w : State) (op : Nat) (r : MboxReq), Serves s 1 op r w →
      (le r.body 0 4 / 65536 = w.matchVersion / 65536 →
        ∃ l, l = w.stm.handshakes.filter (· != r.tag) ∧ exec .version s =
          .next (reply { w with stm := { w.stm with handshakes := (if l.length < 64 then l else l.drop 1) ++ [r.tag] } } r
            (leBytes 4 w.fwVersion ++ leBytes 4 w.matchVersion ++ [1]))) ∧
      (le r.body 0 4 / 65536 ≠ w.matchVersion / 65536 → exec .version s =
        .next (reply { w with stm := { w.stm with handshakes := w.stm.handshakes.filter (· != r.tag) } } r
          (leBytes 4 w.fwVersion ++ leBytes 4 w.matchVersion ++ [0]))))

/-- A CREATE that is well formed, comes from a privileged tag, names a template and finds its resources carves the Consist
and answers OK with its number; each failure answers its status and changes nothing else. DESTROY and RESET by the
driver, or by the pool's privileged tag for an EXPIRED Consist, rebind the driver and tear the Consist down with their
cause. SET_WEIGHT writes the weight of the Consist, or of one of its groups, within 1 to 10,000. RESUME returns a
quiesced Consist to ACTIVE with its lease renewed. Each answers the request with its status.
(06_turntable_and_consists.md R160, R173, R175, R179, R180, 14_isolation_and_security.md R364) -/
def Obligations.ConsistLifetime : Prop :=
  (∀ (s w : State) (r : MboxReq), Serves s 2 1 r w →
      (createReserved r.body = true → exec .consistCreate s = .next (reply w r (w.consistReply 1 0))) ∧
      (createReserved r.body = false → (w.privileged r.tag = false ∨ consistOf r.tag ≠ 0) →
        exec .consistCreate s = .next (reply w r (w.consistReply 3 0))) ∧
      (createReserved r.body = false → w.privileged r.tag = true → consistOf r.tag = 0 →
        (w.template (le r.body 4 2) = none → exec .consistCreate s = .next (reply w r (w.consistReply 2 0))) ∧
        (∀ t, w.template (le r.body 4 2) = some t →
          (w.createCheck r.tag r.body t ≠ 0 → exec .consistCreate s =
            .next (reply w r (w.consistReply (w.createCheck r.tag r.body t) 0))) ∧
          (w.createCheck r.tag r.body t = 0 → ∀ v c, w.carve r.tag r.body t = (v, c) →
            exec .consistCreate s = .next (reply v r (v.consistReply 0 c)) ∧ (v.consist c).state = .active ∧
            (v.consist c).driverTag = r.tag ∧ (v.consist c).world = byteAt r.body 3 ∧
            (v.consist c).sidingBase = le r.body 8 8 ∧ (v.consist c).leaseKick = w.now)))) ∧
  (∀ (s w : State) (r : MboxReq), Serves s 2 2 r w →
      (w.driverCheck r true ≠ 0 → exec .consistDestroy s =
        .next (reply w r (w.consistReply (w.driverCheck r true) (byteAt r.body 2)))) ∧
      (w.driverCheck r true = 0 → ∃ v, v = (w.modConsist (byteAt r.body 2) fun x => { x with driverTag := r.tag }).teardown
          (byteAt r.body 2) 0x42 0 0 ∧
        exec .consistDestroy s = .next (reply v r (v.consistReply 0 (byteAt r.body 2))))) ∧
  (∀ (s w : State) (r : MboxReq), Serves s 2 3 r w →
      (w.driverCheck r true ≠ 0 → exec .consistReset s =
        .next (reply w r (w.consistReply (w.driverCheck r true) (byteAt r.body 2)))) ∧
      (w.driverCheck r true = 0 → ∃ v, v = (w.modConsist (byteAt r.body 2) fun x => { x with driverTag := r.tag }).teardown
          (byteAt r.body 2) 0x41 0 0 ∧
        exec .consistReset s = .next (reply v r (v.consistReply 0 (byteAt r.body 2))))) ∧
  (∀ (s w : State) (r : MboxReq) (c g k : Nat), Serves s 2 4 r w → c = byteAt r.body 2 → g = le r.body 0x20 2 →
      k = le r.body 0x22 2 →
      (w.driverCheck r false ≠ 0 → exec .setWeight s = .next (reply w r (w.consistReply (w.driverCheck r false) c))) ∧
      (w.driverCheck r false = 0 → (k = 0 ∨ k > 10000) → exec .setWeight s = .next (reply w r (w.consistReply 1 c))) ∧
      (w.driverCheck r false = 0 → 1 ≤ k → k ≤ 10000 →
        (g = 0xFFFF → ∃ v, v = w.modConsist c (fun x => { x with weight := k }) ∧
          exec .setWeight s = .next (reply v r (v.consistReply 0 c))) ∧
        (g ≠ 0xFFFF → g < (w.consist c).shareGroups → ∃ v : State, v = { w with ttb := { w.ttb with
            groups := tmod {} w.ttb.groups ((w.consist c).firstGroup + g) fun e => { e with weight := k } } } ∧
          exec .setWeight s = .next (reply v r (v.consistReply 0 c))) ∧
        (g ≠ 0xFFFF → (w.consist c).shareGroups ≤ g → exec .setWeight s = .next (reply w r (w.consistReply 1 c))))) ∧
  (∀ (s w : State) (r : MboxReq) (c : Nat), Serves s 2 9 r w → c = byteAt r.body 2 →
      (w.driverCheck r false ≠ 0 → exec .resume s = .next (reply w r (w.consistReply (w.driverCheck r false) c))) ∧
      (w.driverCheck r false = 0 → (w.consist c).state ≠ .quiesced →
        exec .resume s = .next (reply w r (w.consistReply 6 c))) ∧
      (w.driverCheck r false = 0 → (w.consist c).state = .quiesced →
        ∃ v, v = w.modConsist c (fun x => { x with state := .active, leaseKick := w.now }) ∧
          exec .resume s = .next (reply v r (v.consistReply 0 c))))

/-- LOG_START of a Consist that may log, has no log and owns two aligned buffers starts logging in buffer 0 and answers;
LOG_FLIP makes the other buffer active and LOG_STOP ends the log, each marking FLIP_BUSY and keeping its answer until
LOG_SYNC_DONE sends it; with no log or a flip under way they answer BAD_STATE. QUIESCE of an ACTIVE Consist disarms
its rings and keeps its answer; QUIESCE_DONE waits for graphs in flight, else parks what the Consist's bound Basins
hold (which banks those are is the model's choice, log entry 119) and then writes the siding header: a held transfer
leaves it for later, an error tears the Consist down with SIDING_ERROR or MEM_UNCORRECTABLE, and where all is written
the Consist is QUIESCED with nothing bound and its answer is sent. A request that is not the driver's is answered with
its status and changes nothing else. (06_turntable_and_consists.md R153, R178, R179) -/
def Obligations.ConsistLogAndQuiesce : Prop :=
  (∀ (s w : State) (r : MboxReq) (c b0 b1 : Nat), Serves s 2 5 r w → c = byteAt r.body 2 → b0 = le r.body 0x10 8 →
      b1 = le r.body 0x18 8 →
      (w.driverCheck r false ≠ 0 → exec .logStart s = .next (reply w r (w.consistReply (w.driverCheck r false) c))) ∧
      (w.driverCheck r false = 0 → (b0 % 4096 ≠ 0 ∨ b1 % 4096 ≠ 0 ∨ 2 ^ 48 ≤ b0 ∨ 2 ^ 48 ≤ b1) →
        exec .logStart s = .next (reply w r (w.consistReply 1 c))) ∧
      (w.driverCheck r false = 0 → b0 % 4096 = 0 → b1 % 4096 = 0 → b0 < 2 ^ 48 → b1 < 2 ^ 48 →
        ((w.consist c).logEn = true ∨ (w.consist c).logOk = false →
          exec .logStart s = .next (reply w r (w.consistReply 6 c))) ∧
        ((w.consist c).logEn = false → (w.consist c).logOk = true →
          ((w.consist c).state = .active ∨ (w.consist c).state = .quiescing ∨ (w.consist c).state = .quiesced) →
          (w.pagesOwned b0 (w.dramSize / 32768) (w.consist c).driverTag = false → exec .logStart s =
            .next (reply w r (w.consistReply 7 c))) ∧
          (w.pagesOwned b0 (w.dramSize / 32768) (w.consist c).driverTag = true →
            w.pagesOwned b1 (w.dramSize / 32768) (w.consist c).driverTag = true →
            ∃ v, v = w.modConsist c (fun x => { x with logEn := true, activeBuf := 0, dirtyBase0 := b0, dirtyBase1 := b1 }) ∧
              exec .logStart s = .next (reply v r (v.consistReply 0 c)))))) ∧
  (∀ (s w : State) (r : MboxReq) (c op : Nat) (k : Instr), Serves s 2 op r w → c = byteAt r.body 2 →
      (op = 6 ∧ k = .logFlip ∨ op = 7 ∧ k = .logStop) →
      (w.driverCheck r false ≠ 0 → exec k s = .next (reply w r (w.consistReply (w.driverCheck r false) c))) ∧
      (w.driverCheck r false = 0 → ((w.consist c).logEn = false ∨ (w.consist c).flipBusy = true) →
        exec k s = .next (reply w r (w.consistReply 6 c))) ∧
      (w.driverCheck r false = 0 → (w.consist c).logEn = true → (w.consist c).flipBusy = false → exec k s =
        .next (w.modConsist c fun x =>
          { x with
            activeBuf := if op = 6 then 1 - x.activeBuf else x.activeBuf
            flipBusy := true
            logStopping := op == 7
            logReply := some r }).mboxDrain)) ∧
  (∀ (s v : State) (c : Nat) (r : MboxReq), s.live = true → (s.consist c).logReply = some r →
      v = s.modConsist c (fun x =>
        { x with logReply := none, flipBusy := false, logEn := x.logEn && !x.logStopping, logStopping := false }) →
      exec (.logSyncDone c) s = .next (v.mboxAnswer r 0 (v.consistReply 0 c))) ∧
  (∀ (s w : State) (r : MboxReq) (c : Nat), Serves s 2 8 r w → c = byteAt r.body 2 →
      (w.driverCheck r false ≠ 0 → exec .quiesce s = .next (reply w r (w.consistReply (w.driverCheck r false) c))) ∧
      (w.driverCheck r false = 0 → (w.consist c).state ≠ .active →
        exec .quiesce s = .next (reply w r (w.consistReply 6 c))) ∧
      (w.driverCheck r false = 0 → (w.consist c).state = .active → exec .quiesce s =
        .next ((((w.consistRings c).foldl State.disarmRing w).modConsist c fun x =>
          { x with state := .quiescing, quiesceReply := some r }).mboxDrain))) ∧
  (∀ (s u v : State) (c : Nat) (r : MboxReq), s.live = true → (s.consist c).state = .quiescing →
      (s.consist c).quiesceReply = some r →
      ((∃ e ∈ s.sbx.graphs, e.2.consist = c ∧ e.2.inFlight = true) → exec (.quiesceDone c) s = .next s) ∧
      ((∀ e ∈ s.sbx.graphs, e.2.consist = c → e.2.inFlight = false) → ∀ e, s.parkAll c = (u, e) →
        (e = .waits → exec (.quiesceDone c) s = .next s) ∧
        (e = .siding ∨ e = .uncorrectable → exec (.quiesceDone c) s = .next (u.moverFault c 0 e)) ∧
        (e = .done → (u.consist c).state = .quiescing →
          v = u.modConsist c (fun y => { y with state := .quiesced, binding := [], quiesceReply := none }) →
          exec (.quiesceDone c) s = .next (v.mboxAnswer r 0 (v.consistReply 0 c))))) ∧
  (∀ (s : State) (c : Nat), (s.consist c).binding = [] → s.parkAll c =
      s.putLines (s.consistTag c) (s.consist c).sidingBase (slice (s.consist c).header 0 0x10000))

/-- Setting VALID takes a record that passes its check while EN is set and otherwise clears VALID and sets CFG_REJECTED; a
valid record ignores the write. A write to a record that is not valid is taken; clearing VALID of a valid one is
refused while its owner holds a pin, else the space is dropped. EN is set only with META_BASE set and cleared only
with no valid space. A request written past the slot's last word joins its Consist's queue of 16, or is counted as
dropped. PAGE_RECLAIM frees every retired page and slot that every pin is younger than. WALKER_PIN_GRANT gives a
waiting walker the lowest free pin at the current epoch. What the KVC then reads and writes of its own metadata is
left free (the model's choice, log entry 92). In a running device. (08_attention_and_kv_cache.md R216, R219, R225,
R226, R228, R229) -/
def Obligations.KvcRecordsAndQueues : Prop :=
  (∀ (s : State) (n v : Nat), s.live = true →
      ((s.kvSpace n).valid = true → exec (.kvSpaceValid n v) s = .next s) ∧
      ((s.kvSpace n).valid = false → s.kvc.en = true →
        s.kvRecordBad n ((s.kvSpace n).put 0 (leBytes 4 v)) = false →
        exec (.kvSpaceValid n v) s = .next (s.modKvSpace n fun _ => (s.kvSpace n).put 0 (leBytes 4 v)).kvMeta) ∧
      ((s.kvSpace n).valid = false → (s.kvc.en = false ∨ s.kvRecordBad n ((s.kvSpace n).put 0 (leBytes 4 v)) = true) →
        exec (.kvSpaceValid n v) s = .next (s.modKvSpace n fun x =>
          { x.put 0 (leBytes 4 (v - v % 2)) with cfgRejected := true }))) ∧
  (∀ (s : State) (n v : Nat), s.live = true →
      ((s.kvSpace n).valid = false → exec (.kvSpaceInvalidate n v) s =
        .next (s.modKvSpace n fun x => x.put 0 (leBytes 4 v))) ∧
      ((s.kvSpace n).valid = true → (∃ e ∈ s.kvc.pins, e.2.consist = consistOf (s.kvSpace n).ownerTag) →
        exec (.kvSpaceInvalidate n v) s = .next (s.modKvSpace n fun x => { x with cfgRejected := true })) ∧
      ((s.kvSpace n).valid = true → (∀ e ∈ s.kvc.pins, e.2.consist ≠ consistOf (s.kvSpace n).ownerTag) →
        exec (.kvSpaceInvalidate n v) s = .next (s.kvDropSpace n))) ∧
  (∀ (s : State) (v : Nat), s.live = true →
      (v % 2 = 1 → exec (.kvcEnable v) s =
        .next (if s.kvc.metaBase = 0 then s else { s with kvc := { s.kvc with en := true } })) ∧
      (v % 2 = 0 → (∃ e ∈ s.kvc.spaces, e.2.valid = true) → exec (.kvcEnable v) s = .next s) ∧
      (v % 2 = 0 → (∀ e ∈ s.kvc.spaces, e.2.valid = false) →
        exec (.kvcEnable v) s = .next { s with kvc := { s.kvc with en := false } })) ∧
  (∀ (s : State) (c : Nat) (d x : Bytes), s.live = true → x = patch (slice (s.kvQueue c).slot 0 64) 0x38 (slice d 0 8) →
      ((s.kvQueue c).queue.length < 16 → exec (.kvcReqTake c d) s = .next { s with kvc := { s.kvc with
        queues := tset s.kvc.queues c { s.kvQueue c with slot := x, queue := (s.kvQueue c).queue ++ [x] } } }) ∧
      (16 ≤ (s.kvQueue c).queue.length → exec (.kvcReqTake c d) s = .next { s with kvc := { s.kvc with
        queues := tset s.kvc.queues c { s.kvQueue c with slot := x, drops := min ((s.kvQueue c).drops + 1) 0xFFFF } } })) ∧
  (∀ s : State, s.live = true → exec .pageReclaim s = .next (State.kvMeta { s with kvc := { s.kvc with
      pages := s.kvc.pages.filter fun e => !(e.2.life == .retired && s.kvc.pins.all fun p => p.2.epoch > e.2.retireEpoch)
      seqs := tmap s.kvc.seqs fun _ q =>
        if q.life = .retired && s.kvc.pins.all fun p => p.2.epoch > q.retireEpoch then
          { reuse := (q.reuse + 1) % 2 ^ 16 } else q } })) ∧
  (∀ (s : State) (n k : Nat), s.live = true → (s.basin n).walkerWaits = true → (s.basin n).walkerPin = none →
      s.kvFreePin = some k → exec (.walkerPinGrant n) s =
        .next (State.modBasin
          { s with
            kvc :=
              { s.kvc with
                pins := tset s.kvc.pins k { epoch := s.kvc.epoch, consist := s.basinConsist n, basin := some n } } } n fun b =>
          { b with walkerPin := some k, walkerWaits := false }))

/-- Of the request that is served next: CREATE of more than 4,096 hashes is TOO_LONG, without a free slot NO_SEQ, with an
unreadable list READ_ERROR, with a held one it stays at the head of its queue, and otherwise makes a live sequence of
the matched blocks, 64 tokens each, with a reference to each page. FORK gives a new sequence SEQ's table, length and
path, with references. APPEND beyond 262,144 tokens is TOO_LONG and below LENGTH BAD_LENGTH; with the pages it needs
it extends the sequence, copying a shared last page first, and without them it is NO_PAGES and counted. TRUNCATE
beyond LENGTH is BAD_LENGTH, else it drops the references of the blocks past the new length. FREE drops every
reference and retires the slot. QUERY answers the path length and changes nothing of the KVC's state itself. Every
request is answered and the block tables' changed entries are copied after an OK. (08_attention_and_kv_cache.md R218,
R219, R220, R222, R223, R224) -/
def Obligations.KvcSequenceRequests : Prop :=
  (∀ (s w : State) (c : Nat) (r : Bytes), KvServes s 1 c r w →
      (4096 < kvArg0 r → exec .kvcCreate s = .next (kvReply w c r { status := 6, st := w })) ∧
      (kvArg0 r ≤ 4096 → w.kvFreeSlot (w.kvSpace (kvSp r)) = none →
        exec .kvcCreate s = .next (kvReply w c r { status := 5, st := w })) ∧
      (∀ slot u, kvArg0 r ≤ 4096 → w.kvFreeSlot (w.kvSpace (kvSp r)) = some slot →
        (w.fetchBytes (w.consistTag c) (kvArg1 r) (8 * kvArg0 r) = (u, .failed) →
          exec .kvcCreate s = .next (kvReply w c r { status := 0x0E, st := u })) ∧
        (w.fetchBytes (w.consistTag c) (kvArg1 r) (8 * kvArg0 r) = (u, .waits) → ∀ d, d = State.kvDrainN s.kvWaiting s →
          exec .kvcCreate s = .next (u.kvAdvanceEpoch.modKvc fun k =>
            { k with queues := d.kvc.queues, lastServed := d.kvc.lastServed })) ∧
        (∀ bs path, w.fetchBytes (w.consistTag c) (kvArg1 r) (8 * kvArg0 r) = (u, .got bs) →
          path = u.kvMatch (kvSp r) 0 ((List.range (kvArg0 r)).map fun i => le bs (8 * i) 8) →
          (u.kvRefLimit (path.map (·.2.page)) = true →
            exec .kvcCreate s = .next (kvReply w c r { status := 0x0B, st := u })) ∧
          (u.kvRefLimit (path.map (·.2.page)) = false → ∃ v : State,
            exec .kvcCreate s = .next (kvReply w c r
              { seq := v.kvHandleOf slot, count := path.length, st := v }) ∧
            (v.kvSeq slot).life = .live ∧ (v.kvSeq slot).space = kvSp r ∧ (v.kvSeq slot).length = 64 * path.length ∧
            (v.kvSeq slot).path = path.map (·.1) ∧
            (v.kvSeq slot).blocks = (List.range path.length).zip (path.map (·.2.page)) ∧
            v = { u with kvc := v.kvc })))) ∧
  (∀ (s w : State) (c : Nat) (r : Bytes), KvServes s 2 c r w →
      (w.kvFreeSlot (w.kvSpace (kvSp r)) = none →
        exec .kvcFork s = .next (kvReply w c r { status := 5, seq := kvHandle r, st := w })) ∧
      (∀ slot q, w.kvFreeSlot (w.kvSpace (kvSp r)) = some slot → q = w.kvSeq (kvHandle r % 65536) →
        (w.kvRefLimit (q.blocks.map (·.2)) = true →
          exec .kvcFork s = .next (kvReply w c r { status := 0x0B, seq := kvHandle r, st := w })) ∧
        (w.kvRefLimit (q.blocks.map (·.2)) = false →
          ∃ v, v = (q.blocks.foldl (fun s b => s.kvAddRef b.2) w).modKvSeq slot (fun x => { q with reuse := x.reuse }) ∧
            exec .kvcFork s = .next (kvReply w c r { seq := v.kvHandleOf slot, st := v })))) ∧
  (∀ (s w : State) (c n : Nat) (r : Bytes) (q : KvSeq), KvServes s 3 c r w → n = kvArg0 r →
      q = w.kvSeq (kvHandle r % 65536) →
      (262144 < n → exec .kvcAppend s = .next (kvReply w c r { status := 6, seq := kvHandle r, st := w })) ∧
      (n ≤ 262144 → n < q.length →
        exec .kvcAppend s = .next (kvReply w c r { status := 0x0D, seq := kvHandle r, st := w })) ∧
      (n ≤ 262144 → q.length ≤ n → ∀ u need pages,
        (q.length % 64 = 0 ∨ (w.kvPage (tget 0 q.blocks (q.length / 64))).refs ≤ 1 →
          need = (n + 63) / 64 - (q.length + 63) / 64 → u = w.kvFindPages (kvSp r) need →
          pages = (u.kvFreePages (u.kvSpace (kvSp r))).take need →
          (pages.length < need →
            ∃ v, v = u.modKvSpace (kvSp r) (fun x => { x with noPages := min (x.noPages + 1) 0xFFFF }) ∧
              exec .kvcAppend s = .next (kvReply w c r { status := 4, seq := kvHandle r, st := v })) ∧
          (need ≤ pages.length → exec .kvcAppend s = .next (kvReply w c r
            { seq := kvHandle r, st := u.kvExtend r (kvHandle r % 65536) none pages }))) ∧
        (∀ old, q.length % 64 ≠ 0 → old = tget 0 q.blocks (q.length / 64) → 1 < (w.kvPage old).refs →
          need = (n + 63) / 64 - (q.length + 63) / 64 + 1 → u = w.kvFindPages (kvSp r) need →
          pages = (u.kvFreePages (u.kvSpace (kvSp r))).take need → need ≤ pages.length → ∀ x ok,
          u.kvCopyPage (u.kvSpace (kvSp r)) old (pages.headD 0) = (x, ok) →
          (ok = .failed → exec .kvcAppend s = .next (kvReply w c r { status := 0x0E, seq := kvHandle r, st := x })) ∧
          (∀ bs, ok = .got bs → exec .kvcAppend s = .next (kvReply w c r
            { seq := kvHandle r, st := x.kvExtend r (kvHandle r % 65536) (some old) pages }))))) ∧
  (∀ (s w : State) (c : Nat) (r : Bytes) (q : KvSeq), KvServes s 4 c r w → q = w.kvSeq (kvHandle r % 65536) →
      (q.length < kvArg0 r →
        exec .kvcTruncate s = .next (kvReply w c r { status := 0x0D, seq := kvHandle r, st := w })) ∧
      (kvArg0 r ≤ q.length →
        ∃ v, v = ((q.blocks.filter fun b => b.1 ≥ (kvArg0 r + 63) / 64).foldl (fun s b => s.kvDropRef b.2) w).modKvSeq
            (kvHandle r % 65536) (fun x =>
              { x with
                length := kvArg0 r
                blocks := x.blocks.filter fun b => b.1 < (kvArg0 r + 63) / 64
                path := x.path.take (kvArg0 r / 64) }) ∧
          exec .kvcTruncate s = .next (kvReply w c r { seq := kvHandle r, st := v }))) ∧
  (∀ (s w : State) (c : Nat) (r : Bytes), KvServes s 6 c r w →
      ∃ u v, u = (w.kvSeq (kvHandle r % 65536)).blocks.foldl (fun s b => s.kvDropRef b.2) w ∧
        v = u.modKvSeq (kvHandle r % 65536) (fun x =>
          { x with life := .retired, length := 0, blocks := [], path := [], retireEpoch := u.kvc.epoch }) ∧
        exec .kvcFree s = .next (kvReply w c r { seq := kvHandle r, st := v })) ∧
  (∀ (s w : State) (c : Nat) (r : Bytes), KvServes s 0x0A c r w →
      exec .kvcQuery s = .next (kvReply w c r
        { seq := kvHandle r, count := (w.kvSeq (kvHandle r % 65536)).path.length, st := w }))

/-- Of the request that is served next: PUBLISH of a block that is not full is NOT_FULL, of one that does not follow the
path OUT_OF_ORDER, of a known hash under the same parent EXISTS, of a page with 65,535 references that no node holds
REF_LIMIT; at the tree quota it first evicts one node; without room it is TREE_FULL; otherwise it adds a node under
the path's end; a page that no node held has one reference more and is marked published. EVICT removes up to ARG0
eligible nodes and answers their count. PIN takes the lowest free pin at the present epoch, or is PIN_FULL. UNPIN
releases the Consist's own pin and any other pin stays. (08_attention_and_kv_cache.md R220, R222, R224, R225) -/
def Obligations.KvcTreeAndPinRequests : Prop :=
  (∀ (s w : State) (c b page : Nat) (r : Bytes) (q : KvSeq), KvServes s 5 c r w → q = w.kvSeq (kvHandle r % 65536) →
      b = kvArg0 r → page = tget 0 q.blocks b →
      (q.length / 64 ≤ b → exec .kvcPublish s = .next (kvReply w c r { status := 7, seq := kvHandle r, st := w })) ∧
      (b < q.length / 64 → b ≠ q.path.length →
        exec .kvcPublish s = .next (kvReply w c r { status := 8, seq := kvHandle r, st := w })) ∧
      (b < q.length / 64 → b = q.path.length →
        (w.kvChild (kvSp r) (q.path.getLastD 0) (kvArg1 r) ≠ none →
          exec .kvcPublish s = .next (kvReply w c r { status := 9, seq := kvHandle r, st := w })) ∧
        (w.kvChild (kvSp r) (q.path.getLastD 0) (kvArg1 r) = none → w.kvHeld page = false → 65535 ≤ (w.kvPage page).refs →
          exec .kvcPublish s = .next (kvReply w c r { status := 0x0B, seq := kvHandle r, st := w })) ∧
        (w.kvChild (kvSp r) (q.path.getLastD 0) (kvArg1 r) = none → (w.kvHeld page = true ∨ (w.kvPage page).refs < 65535) →
          ∀ u : State,
          u = (if (w.kvSpace (kvSp r)).treeQuota ≤ (w.kvc.nodes.filter fun e => e.2.space == kvSp r).length
            ∨ 1048576 ≤ w.kvc.nodes.length then w.kvEvictPass 1 (kvSp r) else w) →
          (((u.kvSpace (kvSp r)).treeQuota ≤ (u.kvc.nodes.filter fun e => e.2.space == kvSp r).length
            ∨ 1048576 ≤ u.kvc.nodes.length) →
            exec .kvcPublish s = .next (kvReply w c r { status := 0x0A, seq := kvHandle r, st := u })) ∧
          ((u.kvc.nodes.filter fun e => e.2.space == kvSp r).length < (u.kvSpace (kvSp r)).treeQuota →
            u.kvc.nodes.length < 1048576 → ∃ v : State,
            exec .kvcPublish s = .next (kvReply w c r { seq := kvHandle r, st := v }) ∧
            (u.kvHeld page = true → v.kvPage page = u.kvPage page) ∧
            (u.kvHeld page = false → (v.kvPage page).published = true ∧ (v.kvPage page).life = .live ∧
              (v.kvPage page).refs = (u.kvPage page).refs + 1) ∧
            tfind v.kvc.nodes u.kvFreeNode = some
              { space := kvSp r, parent := q.path.getLastD 0, hash := kvArg1 r, page := page, matched := u.kvc.matchCount } ∧
            (v.kvSeq (kvHandle r % 65536)).path = (u.kvSeq (kvHandle r % 65536)).path ++ [u.kvFreeNode] ∧
            v = { u with kvc := v.kvc })))) ∧
  (∀ (s w v : State) (c n : Nat) (r : Bytes), KvServes s 9 c r w →
      State.kvEvictN (min (kvArg0 r) w.kvc.nodes.length) w (kvSp r) = (v, n) →
      exec .kvcEvict s = .next (kvReply w c r { count := n, st := v })) ∧
  (∀ (s w : State) (c : Nat) (r : Bytes), KvServes s 7 c r w →
      (w.kvFreePin = none → exec .kvcPin s = .next (kvReply w c r { status := 0x0C, st := w })) ∧
      (∀ n, w.kvFreePin = some n → ∃ v : State,
        v = { w with kvc := { w.kvc with pins := tset w.kvc.pins n { epoch := w.kvc.epoch, consist := c } } } ∧
        exec .kvcPin s = .next (kvReply w c r { pin := n, st := v }))) ∧
  (∀ (s w : State) (c : Nat) (r : Bytes), KvServes s 8 c r w →
      (∀ p, tfind w.kvc.pins (kvArg0 r) = some p → p.consist = c → p.basin = none → ∃ v : State,
        v = { w with kvc := { w.kvc with pins := tdel w.kvc.pins (kvArg0 r) } } ∧
        exec .kvcUnpin s = .next (kvReply w c r { seq := kvHandle r, st := v })) ∧
      ((∀ p, tfind w.kvc.pins (kvArg0 r) = some p → p.consist ≠ c ∨ p.basin ≠ none) →
        exec .kvcUnpin s = .next (kvReply w c r { seq := kvHandle r, st := w })))

/-- A planner row takes the next job when the planner is free and the job is of its mode, and goes on with one whose setup
a held read had stopped: a job that fails its checks or its setup ends with ROUTE_ERROR and the first failing code
captured; a memory error met ends it with code 9; otherwise a plan job starts its search against the pinned world, or
goes to its output at once where its start is blocked or not reached, and a CHECK job judges its poses. SEARCH_END
within the iteration limit unpins the world and writes the output from the search's result; YIELD does the same for a
running QM job while a SAFETY job waits, and counts it. ROUTE_JOB_DONE reports the status of a finished job, whose
writes are all answered, to its context, writes TOTAL_US into its record, charges its time, counts what its status
says, and frees the planner. The arithmetic of the search is left open by the spec: log entry 39. (09_routesetter.md
R243, R244, R245, R252, R254, R256, R257, R258) -/
def Obligations.RoutePlannerJobs : Prop :=
  (∀ (s v : State) (i m mode : Nat) (r : RtsRun) (k : Instr) (f : State → Nat → RtsRun → State),
      PlanSetsUp s i mode r v →
      (mode = 0 ∧ k = .planTree i m ∧ f = State.planSetup ∨ mode = 1 ∧ k = .planMap i m ∧ f = State.planSetup ∨
        mode = 2 ∧ k = .planLattice i m ∧ f = State.planSetup ∨ mode = 3 ∧ k = .check i m ∧ f = State.checkRun) →
      ((v.rtsAt i).check r.job ≠ 0 → exec k s = .next (v.runFail i ((v.rtsAt i).check r.job) r)) ∧
      ((v.rtsAt i).check r.job = 0 → ∀ u x, v.rtsSetup i r = (u, x) →
        (∀ c, x = .failed c → exec k s = .next (u.runFail i c r)) ∧
        (x = .waits → exec k s = .next u) ∧
        (∀ q, x = .ready q → (m ≠ 0 → exec k s = .next ((u.rtsMemError i m).runFail i 9 q)) ∧
          (m = 0 → exec k s = .next (f u i q))))) ∧
  (∀ (s : State) (i n tries m : Nat) (r : RtsRun), s.live = true → (s.rtsAt i).run = some r → r.phase = .search →
      (le (r.job.desc.getD []) 8 4 = 0 ∨ n ≤ le (r.job.desc.getD []) 8 4) →
      (m ≠ 0 → exec (.searchEnd i n tries m) s = .next ((s.rtsMemError i m).runFail i 9 { r with pinned := false })) ∧
      (m = 0 → ∀ f u, f = routeSearch ((s.rtsAt i).input { r with pinned := false } r.searchBank n) →
        u = s.modRts i (fun x => { x with nodes := f.mapNodes.take (32 * 131072), closed := f.closed }) →
        exec (.searchEnd i n tries m) s = .next (u.planOutput i { r with pinned := false } f n tries false))) ∧
  (∀ (s u : State) (i n tries : Nat) (r : RtsRun), s.live = true → u = s.routeOffer → (u.rtsAt i).run = some r →
      r.phase = .search → r.job.safety = false → (∃ j ∈ (u.rtsAt i).planQueue, j.safety = true) →
      (le (r.job.desc.getD []) 8 4 = 0 ∨ n ≤ le (r.job.desc.getD []) 8 4) →
      ∃ v w f x, v = u.modRts i (fun x => { x with yields := min (x.yields + 1) 0xFFFF }) ∧
        w = { r with pinned := false, pflags := r.pflags + 16 } ∧
        f = routeSearch ((v.rtsAt i).input w r.searchBank n) ∧
        x = v.modRts i (fun x => { x with nodes := f.mapNodes.take (32 * 131072), closed := f.closed }) ∧
        exec (.yield i n tries 0) s = .next (x.planOutput i w f n tries false)) ∧
  (∀ (s : State) (i ex : Nat) (l : RtsLoad), s.live = true → (s.rtsAt i).load = some l → l.done = true →
      exec (.routeJobDone i true ex) s = .next (((s.charge l.job.slot (s.ctx l.job.ctx).consist
        (8 * (s.now - l.startNs))).modCtx l.job.ctx fun y =>
          { y with routeStatus := some l.status, planStatus := 0, pflags := 0 }).modRts i fun x => { x with load := none })) ∧
  (∀ (s : State) (i : Nat) (r : RtsRun), s.live = true → (s.rtsAt i).run = some r → r.phase = .done → r.left = 0 →
      ∀ u, u = (if r.status = 0 then s.devWrite r.job.tag (rtsAddr (r.job.desc.getD []) 0x60 + 0x28)
        (leBytes 4 ((s.now - r.startNs) / 1000)) else s) →
      exec (.routeJobDone i false 0) s = .next (((u.charge r.job.slot (u.ctx r.job.ctx).consist
        (8 * (u.now - r.startNs))).modCtx r.job.ctx fun y =>
          { y with routeStatus := some r.status, planStatus := r.planStatus, pflags := r.pflags % 512 }).modRts i fun x =>
            { x with
              run := none
              notFound := if r.status = 0 ∧ (r.planStatus = 1 ∨ r.planStatus = 2) then min (x.notFound + 1) 0xFFFF
                else x.notFound
              degraded := if r.status = 0 ∧ r.planStatus = 3 then min (x.degraded + 1) 0xFFFF else x.degraded }))

/-- A loader row takes the next job of its mode, or goes on with one that had to wait: one that fails its checks ends with
ROUTE_ERROR and the code captured; a dynamic commit whose target bank a search pins waits and says so; a static commit
or vehicle file waits for a running planner job; a memory error ends it with code 9; otherwise the dynamic layer, the
static layer or the vehicle file is built. COMMIT_SWAP of a built layer advances the epoch and makes the layer the
world: the other dynamic bank becomes active, or the statics are replaced, and WORLD_VALID follows. WORLD_OWNER_WRITE
of an idle instance scrubs its stores and sets the owner, else marks OWNER_REJECTED; a set CLEAR zeroes MAX_NS.
(09_routesetter.md R232, R234, R235, R236, R237, R238, R239, R254, R258) -/
def Obligations.RouteLoaderJobs : Prop :=
  (∀ (s v : State) (i m mode : Nat) (j : RtsJob) (k : Instr) (f : State → Nat → RtsJob → State), LoaderHas s i mode j v →
      (mode = 4 ∧ k = .commitDynamic i m ∧ f = State.buildDynamic ∨ mode = 5 ∧ k = .commitStatic i m ∧ f = State.buildStatic ∨
        mode = 6 ∧ k = .loadVehicle i m ∧ f = State.loadVehicle) →
      ((s.routeOffer.rtsAt i).check j ≠ 0 →
        exec k s = .next (v.loadFail i ((s.routeOffer.rtsAt i).check j) j)) ∧
      ((s.routeOffer.rtsAt i).check j = 0 → mode = 4 → (s.routeOffer.rtsAt i).targetPinned = true →
        exec k s = .next (v.modRts i fun x => { x with bankWait := true })) ∧
      ((s.routeOffer.rtsAt i).check j = 0 → mode ≠ 4 → (s.routeOffer.rtsAt i).run ≠ none → exec k s = .next v) ∧
      ((s.routeOffer.rtsAt i).check j = 0 →
        (mode = 4 ∧ (s.routeOffer.rtsAt i).targetPinned = false ∨ mode ≠ 4 ∧ (s.routeOffer.rtsAt i).run = none) →
        ∃ w, w = v.modRts i (fun x => { x with bankWait := false }) ∧
          (m ≠ 0 → exec k s = .next ((w.rtsMemError i m).loadFail i 9 j)) ∧ (m = 0 → exec k s = .next (f w i j)))) ∧
  (∀ (s : State) (i : Nat) (l : RtsLoad) (b : Bytes), s.live = true → (s.rtsAt i).load = some l → l.built = some b →
      ∃ t, exec (.commitSwap i) s = .next t ∧ (t.rtsAt i).epoch = ((s.rtsAt i).epoch + 1) % 2 ^ 32 ∧
        (t.rtsAt i).load = some { l with built := none, done := true } ∧
        (l.job.mode = 4 → (t.rtsAt i).active = 1 - (s.rtsAt i).active ∧
          tget {} (t.rtsAt i).banks (1 - (s.rtsAt i).active) = { prims := b, stamp := l.stamp } ∧
          (t.rtsAt i).worldValid = !(s.rtsAt i).lostStatic ∧ (t.rtsAt i).statics = (s.rtsAt i).statics) ∧
        (l.job.mode ≠ 4 → (t.rtsAt i).statics = b ∧ (t.rtsAt i).leaves = l.leaves ∧ (t.rtsAt i).staticValid = true ∧
          (t.rtsAt i).banks = (s.rtsAt i).banks ∧ (t.rtsAt i).active = (s.rtsAt i).active) ∧
        t = { s with rts := t.rts } ∧ ∀ n, n ≠ i → t.rtsAt n = s.rtsAt n) ∧
  (∀ (s : State) (i v : Nat), s.live = true →
      ((s.rtsAt i).idle = true → ∃ t, exec (.worldOwnerWrite i v) s = .next t ∧
        t.rtsAt i = { s.rtsAt i with
          worldValid := false, staticValid := false, vehicleValid := false, lostDynamic := false, lostStatic := false
          banks := [], statics := [], vehicle := [], leaves := [], hier := [], triCache := [], nodes := [], closed := []
          field := [], owner := v % 4096, noOwner := v.testBit 12 } ∧
        t = { s with rts := t.rts }) ∧
      ((s.rtsAt i).idle = false →
        exec (.worldOwnerWrite i v) s = .next (s.modRts i fun x => { x with ownerRejected := true })) ∧
      exec (.rtsOverrunClear i v) s = .next (if v.testBit 31 then s.modRts i fun x => { x with maxNs := 0 } else s))

/-- A first safe-state cause is latched with its code, its sub-code and its instant; a later one is only counted, and the
second code kept. With the device running: LOCKSTEP_MISMATCH latches cause 1 and clears LOCKSTEP unless the boot is
split or debug broke the lock-step; CHECKER_MISMATCH latches 2 and ISLAND_ECC 0x0C with the unit; RTC_MISMATCH latches
0x0E for a pair that is neither split nor broken by debug. DEBUG_INVASIVE, where the SAFETY world's INV enable is set
and the boot is not split, breaks lock-step, and without DEBUG_PROFILE latches 0x0A. Once start-up's self-test has
passed, a slice starts with the window's number mod 10 and ends with its number kept; a failure latches 6. A SAFE_N
sample that differs from the commanded level latches 0x0F; without VDD_IO it reads low, and the first sample after a
change is skipped. SAFE_N_ASSERT commands SAFE_N low once no header issued before the latch waits for its
acknowledgement or 6 us have passed, and records the time taken. (02_rokel_image_and_startup.md R47,
10_interlocking.md R261, R264, R265, R288, R290, R291, R292, 14_isolation_and_security.md R387) -/
def Obligations.SafeStateCauses : Prop :=
  (∀ (s : State) (c n : Nat),
      (s.ilk.safeCause = 0 → s.latch c n = { s with ilk := { s.ilk with
        safeCause := c, safeSub := n % 65536, detectNs := s.now
        detectPhaseSafe := s.boot.phase == .safe, detectDframes := s.dframes, detectState := s.boot.ilkState
        detectLockstep := s.ilk.lockstep, detectRuleset := s.reload.rulesVersion
        headers := s.ilk.headers.map fun h => { h with beforeLatch := true } } }) ∧
      (s.ilk.safeCause ≠ 0 → s.latch c n = { s with ilk := { s.ilk with
        causeCount := min (s.ilk.causeCount + 1) 255
        secondCause := if s.ilk.secondCause = 0 then c else s.ilk.secondCause } })) ∧
  (∀ s : State, s.live = true →
      (byteAt (s.sec secIsland) 0 ≠ 1 → s.ilk.debugBroken = false →
        exec .lockstepMismatch s = .next (State.latch { s with ilk := { s.ilk with lockstep := false } } 1 0)) ∧
      (byteAt (s.sec secIsland) 0 = 1 ∨ s.ilk.debugBroken = true → exec .lockstepMismatch s = .next s)) ∧
  (∀ (s : State) (n : Nat), s.live = true → exec (.checkerMismatch n) s = .next (s.latch 2 n) ∧
      exec (.islandEcc n) s = .next (s.latch 0x0C n)) ∧
  (∀ (s : State) (p : Nat), s.live = true →
      (s.rtcSplit p = false → p ∉ s.ilk.rtcBroken → exec (.rtcMismatch p) s = .next (s.latch 0x0E p)) ∧
      (s.rtcSplit p = true ∨ p ∈ s.ilk.rtcBroken → exec (.rtcMismatch p) s = .next s)) ∧
  (∀ s v : State, s.live = true → v = { s with ilk := { s.ilk with lockstep := false, debugBroken := true } } →
      (bit s.slc.dbgInv 1 = true → byteAt (s.sec secIsland) 0 ≠ 1 →
        exec .debugInvasive s = .next (if s.boot.debugProfile then v else v.latch 0x0A 0)) ∧
      (bit s.slc.dbgInv 1 = false ∨ byteAt (s.sec secIsland) 0 = 1 → exec .debugInvasive s = .next s)) ∧
  (∀ s : State, s.live = true →
      (s.boot.selftestPassed = true → s.ilk.testing = none → exec .selftestSliceStart s =
        .next { s with ilk := { s.ilk with testing := some (s.ilk.window % 10), window := s.ilk.window + 1 } }) ∧
      (s.boot.selftestPassed = false ∨ s.ilk.testing ≠ none → exec .selftestSliceStart s = .next s)) ∧
  (∀ (s v : State) (k : Nat) (pass : Bool), s.live = true →
      (s.ilk.testing = none → exec (.selftestSliceEnd pass) s = .next s) ∧
      (s.ilk.testing = some k → v = { s with ilk := { s.ilk with
          testing := none, lastSlice := k
          rotations := if k = 9 then (s.ilk.rotations + 1) % 2 ^ 16 else s.ilk.rotations } } →
        exec (.selftestSliceEnd pass) s = .next (if pass then v else v.latch 6 k))) ∧
  (∀ (s : State) (l : Bool), s.live = true →
      (s.ilk.readbackSkip = true →
        exec (.safeNReadback l) s = .next { s with ilk := { s.ilk with readbackSkip := false } }) ∧
      (s.ilk.readbackSkip = false → (l && s.pins.vddIo) = s.pins.safeNCmd → exec (.safeNReadback l) s = .next s) ∧
      (s.ilk.readbackSkip = false → (l && s.pins.vddIo) ≠ s.pins.safeNCmd →
        exec (.safeNReadback l) s = .next (s.latch 0x0F 0))) ∧
  (∀ (s : State) (b : Bool), s.live = true → b = s.ilk.headers.any (·.beforeLatch) →
      (s.latched = true → s.ilk.asserted = false → (b = false ∨ s.ilk.detectNs + 6000 ≤ s.now) →
        exec .safeNAssert s = .next { s with
          pins := { s.pins with safeNCmd := false }
          ilk := { s.ilk with
            asserted := true, writesPending := b, safeNNs := min (s.now - s.ilk.detectNs) 0xFFFFFFFF
            readbackSkip := s.ilk.readbackSkip || s.pins.safeNCmd } }) ∧
      (s.latched = false ∨ s.ilk.asserted = true ∨ (b = true ∧ s.now < s.ilk.detectNs + 6000) →
        exec .safeNAssert s = .next s))

/-- With the device running, a completed RESULT node's hand-over enters the QM lane of a known QM class or else the SAFETY
lane, and waits while that lane holds 256. A lane that the self-test slice holds, or that is empty, releases nothing.
The oldest hand-over: of class 0 and ring 15 is the golden judgement, which passes its Terrace on or quarantines it;
with a pointer off a 64 B line it is counted, acknowledged and writes nothing; of a QM class it issues a header QM
with no cause; of an unknown class, INVALID with CLASS_INVALID and nothing else judged; of a SAFETY class that its
ring may not use, the same with every check run and no CRC; of a SAFETY class whose payload is read and whose every
check passes, SAFE_STATE, UNCHECKED, NOT_SAFETY_VALID, VALID_DEGRADED or VALID, the first that applies, with the cause
of the mark. While a read of it is held a hand-over stays the oldest of its lane. A header is one write under the
Interlocking's tag; denied it leaves SEQ, else SEQ advances and the expectation closes. An acknowledged header
completes its node unless the Consist's generation has moved on, which is counted. HEADWAY_EXPIRE expires the oldest
expectation past its deadline. (10_interlocking.md R266, R268, R269, R271, R272, R286, R288, R289) -/
def Obligations.ResultPath : Prop :=
  (∀ (s : State) (h : ResultHandover) (r : List ResultHandover), s.live = true →
      (s.ilk.toHand = [] → exec .resultHandover s = .next s) ∧
      (s.ilk.toHand = h :: r →
        ((s.classKnown h.headwayClass = true ∧ s.classSafety h.headwayClass = false) →
          exec .resultHandover s = .next (if s.ilk.laneQm.length ≥ 256 then s
            else { s with ilk := { s.ilk with toHand := r, laneQm := s.ilk.laneQm ++ [h] } })) ∧
        ((s.classKnown h.headwayClass = false ∨ s.classSafety h.headwayClass = true) →
          exec .resultHandover s = .next (if s.ilk.laneSafety.length ≥ 256 then s
            else { s with ilk := { s.ilk with toHand := r, laneSafety := s.ilk.laneSafety ++ [h] } })))) ∧
  (∀ (s : State) (lane err : Bool) (k : Nat), s.live = true →
      (s.ilk.testing = some k → (k = 7 ∨ lane = true ∧ 2 ≤ k ∧ k ≤ 7) → exec (.resultRelease lane err) s = .next s) ∧
      ((if lane then s.ilk.laneSafety else s.ilk.laneQm) = [] → exec (.resultRelease lane err) s = .next s)) ∧
  (∀ (s u : State) (lane err : Bool) (h : ResultHandover) (r : List ResultHandover), s.live = true →
      s.laneHeld lane = false → (if lane then s.ilk.laneSafety else s.ilk.laneQm) = h :: r →
      u = (if lane then { s with ilk := { s.ilk with laneSafety := r } }
        else { s with ilk := { s.ilk with laneQm := r } }) →
      (h.headwayClass = 0 → h.ring = 15 → ∀ (t : State) (n : Nat), n = t.ilk.goldenTerrace →
        ((t, none) = u.goldenOutputs err → exec (.resultRelease lane err) s = .next (t.laneBack h)) ∧
        ((t, some true) = u.goldenOutputs err → t.terraceFails n = t.ilk.goldenSnap → h.status = 0 → h.marked = false →
          ∃ v : State, v = { t with ilk := { t.ilk with
              goldenPending := false, goldenDeferrals := 0, goldenPasses := (t.ilk.goldenPasses + 1) % 2 ^ 16
              quarantine := setFld t.ilk.quarantine n 1 0, goldenTerrace := t.nextTerrace n } } ∧
            exec (.resultRelease lane err) s = .next ((v.startupNext n).finishHanded h.slot h.consist h.generation)) ∧
        (∀ ok, (t, some ok) = u.goldenOutputs err →
          ok = false ∨ t.terraceFails n ≠ t.ilk.goldenSnap ∨ h.status ≠ 0 ∨ h.marked = true →
          ∃ v : State, v = { t with ilk := { t.ilk with
              goldenPending := false, goldenDeferrals := 0, goldenFails := min (t.ilk.goldenFails + 1) 255
              quarantine := setFld t.ilk.quarantine n 1 1 } } ∧
            exec (.resultRelease lane err) s = .next (State.finishHanded
              ((v.markFrame v.ilk.goldenFrame 0).alert 3 0 0 (v.markFrame v.ilk.goldenFrame 0).ilk.lastFailBasin 0xFFFF 0
                (v.markFrame v.ilk.goldenFrame 0).ilk.goldenFrame) h.slot h.consist h.generation))) ∧
      ((h.headwayClass ≠ 0 ∨ h.ring ≠ 15) →
        (h.resultPtr % 64 ≠ 0 → ∃ v : State, v = { u with ilk := { u.ilk with badPtr := min (u.ilk.badPtr + 1) 0xFFFF } } ∧
          exec (.resultRelease lane err) s = .next (v.finishHanded h.slot h.consist h.generation)) ∧
        (∀ t f, h.resultPtr % 64 = 0 → u.classKnown h.headwayClass = true → u.classSafety h.headwayClass = true →
          (t, f) = u.readPayload h (u.classField h.headwayClass 0x0C 4) err →
          exec (.resultRelease lane err) s = .next (if f = .waits then t.laneBack h
            else t.judgePayload h (u.classRingOk h) ((u.matchCapture h.headwayClass h.originNs).getD (u.captureNow h.headwayClass h.originNs))
              f.bytes)) ∧
        (h.resultPtr % 64 = 0 → u.classKnown h.headwayClass = true → u.classSafety h.headwayClass = false →
          ∃ v : Verdicts, v.validity = 0x20 ∧ v.cause = 0 ∧ v.rule = 0xFFFF ∧ v.crc = 0 ∧
            exec (.resultRelease lane err) s = .next (u.issueHeader h v false false)) ∧
        (16 ≤ h.ring ∨ bit (u.classField h.headwayClass 6 2) h.ring = false → u.classRingOk h = false) ∧
        (∀ (x : State) (snap : Capture) (p : Option Bytes),
          ∃ (v : Verdicts) (w : State) (closes flagged : Bool) (f : Nat),
            v.validity = (if w.latched then 0x16 else if w.ilkSplit then 0x15 else 0x11) ∧ v.cause = 0x16 ∧ v.crc = 0 ∧
            x.judgePayload h false snap p = (w.issueHeader h v true closes).recordAlerts 0x11 0x16 h.headwayClass v.rule
              ((w.issueHeader h v true closes).hdw h.headwayClass).seq f flagged) ∧
        (h.resultPtr % 64 = 0 → u.classKnown h.headwayClass = false →
          ∃ (v : Verdicts) (w : State), v.validity = (if u.latched then 0x16 else if u.ilkSplit then 0x15 else 0x11) ∧
            v.cause = 0x16 ∧ v.crc = 0 ∧ w = u.issueHeader h v true false ∧ exec (.resultRelease lane err) s =
              .next (w.alert 1 0x16 (h.headwayClass % 256) w.ilk.lastFailBasin 0xFFFF (w.hdw h.headwayClass).seq
                (w.frameAt h.originNs))))) ∧
  (∀ (s u t w : State) (h : ResultHandover) (r : List ResultHandover) (err : Bool) (p : Bytes) (set : Bytes) (deg : Bool),
      s.live = true → s.laneHeld true = false → s.ilk.laneSafety = h :: r →
      u = { s with ilk := { s.ilk with laneSafety := r } } → h.resultPtr % 64 = 0 →
      u.classKnown h.headwayClass = true → u.classSafety h.headwayClass = true → h.ring < 16 →
      bit (u.classField h.headwayClass 6 2) h.ring = true → set = t.ruleSet h.originNs →
      (t, .got p) = u.readPayload h (u.classField h.headwayClass 0x0C 4) err →
      t.failingRules set p h.headwayClass h.originNs h
        ((u.matchCapture h.headwayClass h.originNs).getD (u.captureNow h.headwayClass h.originNs)) = [] →
      (w, 0) = State.headwayJudge { t with ilk := { t.ilk with ruleFails := satAdd 16 t.ilk.ruleFails 0 } }
        h.headwayClass h.originNs →
      h.marked = false → missingClass h.status = false → failureClass h.status = false →
      w.quarantined (tapMask set h.headwayClass) = false →
      deg = (w.classPlan h.headwayClass && ((classRules set h.headwayClass).any fun x => ruleKind x == 5)
        && bit (le p 6 2) 1) →
      ∃ (v : Verdicts) (x y : State), v.validity = (if w.latched then 0x16 else if w.ilkSplit then 0x15
          else if w.boot.phase ≠ .safe ∨ w.ilk.debugBroken = true then 0x14 else if deg then 0xA6 else 0xA5) ∧
        v.cause = (if w.latched then 0x14 else if w.ilkSplit then 0x13 else if w.boot.phase ≠ .safe then 0x11
          else if w.ilk.debugBroken then 0x12 else 0) ∧
        v.rule = 0xFFFF ∧ v.crc = crc32c p ∧ x = w.issueHeader h v true true ∧
        y = (if ((classRules set h.headwayClass).any fun x => ruleKind x == 5) = true ∧ 1 ≤ h.planStatus ∧ h.planStatus ≤ 3
          then x.alert 7 v.cause h.headwayClass x.ilk.lastFailBasin 0xFFFF (x.hdw h.headwayClass).seq (w.frameAt h.originNs)
          else x) ∧
        exec (.resultRelease true err) s = .next (y.commitRecord p h.headwayClass h.originNs)) ∧
  (∀ (s t : State) (h : ResultHandover) (v : Verdicts) (safety closes : Bool),
      t = State.devAccess { s with ilk := { s.ilk with headers := s.ilk.headers ++
        [{ slot := h.slot, waiting := true, beforeLatch := !s.latched, consist := h.consist, generation := h.generation }] } }
        (.header h.slot) s.ilkTag h.resultPtr 64 true (s.recordHeader h v) →
      (t.resp.kind = .error → s.issueHeader h v safety closes = t) ∧
      (t.resp.kind ≠ .error → ((s.issueHeader h v safety closes).hdw h.headwayClass).seq =
        ((t.hdw h.headwayClass).seq + 1) % 2 ^ 32)) ∧
  (∀ (s : State) (w : HeaderWrite) (r : List HeaderWrite), s.live = true →
      (s.ilk.headers = [] → exec .resultHeaderAck s = .next s) ∧
      (s.ilk.headers = w :: r → w.waiting = true → exec .resultHeaderAck s = .next s) ∧
      (s.ilk.headers = w :: r → w.waiting = false → ∃ v : State, v = { s with ilk := { s.ilk with headers := r } } ∧
        (w.consist = 0 ∨ (v.consist w.consist).generation = w.generation →
          exec .resultHeaderAck s = .next (v.finishNode w.slot).settle) ∧
        (w.consist ≠ 0 → (v.consist w.consist).generation ≠ w.generation → exec .resultHeaderAck s =
          .next { v with sbx := { v.sbx with genDiscards := min (v.sbx.genDiscards + 1) 0xFFFF } }))) ∧
  (∀ (s v w : State) (c : Nat) (e : Capture), s.live = true →
      ((∀ x ∈ (s.hdw c).opened, s.now ≤ x.stamp + 64 * s.classDeadline c) →
        exec (.headwayExpire c) s = .next s) ∧
      (((s.hdw c).opened.find? fun x => s.now > x.stamp + 64 * s.classDeadline c) = some e →
        v = s.modHdw c (fun x => { x.note e.stamp .expired with expired := min (x.expired + 1) 0xFFFF }) →
        w = v.react (v.classField c 5 1) (v.frameAt e.stamp) c 4 c true →
        exec (.headwayExpire c) s = .next (w.alert 2 0 c w.ilk.lastFailBasin 0xFFFF 0 (v.frameAt e.stamp))))

/-- With the device running, TAP_RECORD_RECEIVE takes the oldest record that a Basin has sent and that is not
acknowledged, with the CRC formed over it at the tap port, as it arrives on a port with the bits flipped that its
operands say; with none outstanding nothing changes. The record is acknowledged, and an acknowledgement of an old
generation of its Consist is counted. A record whose CRC, TYPE or BASIN field is wrong adds one to LOSS_FAILS of the
port it arrived on and to no other count of it, and the sequence expected next is unchanged. Any other record is used:
TAP_SEQ other than the expected one adds one to LOSS_FAILS; a residue record adds one to RECORDS, to NONFINITE where
it is set, and to RESIDUE_FAILS where a residue fails; a flush marker adds one to LOSS_FAILS where RECORD_COUNT is not
the residue records since the previous marker. An integer residue fails where it is not zero, a float one where its
magnitude exceeds BOUND or it is NaN. A failing record of an express Basin counts in TAP_FAILS_EXPRESS, any other in
TAP_FAILS_QM, with no second alert in one frame. (01_two_hierarchies.md R21, 10_interlocking.md R276, R278) -/
def Obligations.TapReceiver : Prop :=
  (∀ (s u : State) (n p crc x : Nat) (d f : Bytes) (r : TapRecord) (l : List TapRecord), s.live = true →
      ((s.basin n).unacked = [] → exec (.tapRecordReceive ⟨n, p⟩ f x) s = .next s) ∧
      ((s.basin n).unacked = r :: l → u = s.tapAck n r → d = flipBits r.bytes f → crc = crc16 r.bytes ^^^ x →
      (crc16 d ≠ crc ∨ fld (byteAt d 0) 2 6 ≠ p ∨ fld (byteAt d 0) 0 2 = 0 ∨ fld (byteAt d 0) 0 2 = 3 →
        exec (.tapRecordReceive ⟨n, p⟩ f x) s =
          .next ((u.modTap p fun t => { t with lossFails := (t.lossFails + 1) % 2 ^ 32 }).tapFailed p)) ∧
      (crc16 d = crc → fld (byteAt d 0) 2 6 = p → (fld (byteAt d 0) 0 2 = 1 ∨ fld (byteAt d 0) 0 2 = 2) →
        ∃ v w, v = (if le d 2 2 = (u.tap p).nextSeq then u
            else (u.modTap p fun t => { t with lossFails := (t.lossFails + 1) % 2 ^ 32 }).tapFailed p) ∧
          w = v.modTap p (fun t => { t with nextSeq := (le d 2 2 + 1) % 2 ^ 16 }) ∧
          exec (.tapRecordReceive ⟨n, p⟩ f x) s = .next (
            if fld (byteAt d 0) 0 2 = 2 then
              (if le d 10 2 = (u.tap p).sinceMarker then w
                else (w.modTap p fun t => { t with lossFails := (t.lossFails + 1) % 2 ^ 32 }).tapFailed p).modTap p
                fun t => { t with sinceMarker := 0 }
            else if residueFails d then
              ((w.modTap p fun t => { t with
                  sinceMarker := (t.sinceMarker + 1) % 2 ^ 16, records := (t.records + 1) % 2 ^ 32
                  nonfinite := if bit (byteAt d 1) 1 then (t.nonfinite + 1) % 2 ^ 32 else t.nonfinite }).modTap p
                fun t => { t with residueFails := (t.residueFails + 1) % 2 ^ 32 }).tapFailed p
            else w.modTap p fun t => { t with
              sinceMarker := (t.sinceMarker + 1) % 2 ^ 16, records := (t.records + 1) % 2 ^ 32
              nonfinite := if bit (byteAt d 1) 1 then (t.nonfinite + 1) % 2 ^ 32 else t.nonfinite })))) ∧
  (∀ (s t : State) (n c : Nat) (r : TapRecord), t = s.modBasin n (fun b => { b with unacked := b.unacked.drop 1 }) →
      c = consistOf r.senderTag →
      (c ≠ 0 → t.consistTag c = r.senderTag → (t.consist c).generation ≠ r.senderGen → s.tapAck n r =
        { t with sbx := { t.sbx with genDiscards := min (t.sbx.genDiscards + 1) 0xFFFF } }) ∧
      (c = 0 ∨ t.consistTag c ≠ r.senderTag ∨ (t.consist c).generation = r.senderGen → s.tapAck n r = t)) ∧
  (∀ (d : Bytes), (bit (byteAt d 1) 0 = false → (residueFails d = true ↔ le d 4 4 ≠ 0 ∨ le d 8 4 ≠ 0)) ∧
      (bit (byteAt d 1) 0 = true → (residueFails d = true ↔ ∃ o, (o = 4 ∨ o = 8) ∧
        (dec32 (le d o 4) = .nan ∨ fpLt (dec32 (le d 12 4)) (fpAbs (dec32 (le d o 4))) = true)))) ∧
  (∀ (s : State) (p : Nat),
      (s.basinRole p = 2 → s.tapFailed p = { s with ilk := { s.ilk with
        lastFailBasin := p, tapFailsExpress := min (s.ilk.tapFailsExpress + 1) 0xFFFF } }) ∧
      (s.basinRole p ≠ 2 → (s.tapFailed p).ilk.tapFailsQm = min (s.ilk.tapFailsQm + 1) 0xFFFF ∧
        (s.tapFailed p).ilk.tapFailsExpress = s.ilk.tapFailsExpress ∧ (s.tapFailed p).ilk.taps = s.ilk.taps ∧
        (s.ilk.qmFrame = some s.ilk.frame → s.tapFailed p = { s with ilk := { s.ilk with
          lastFailBasin := p, tapFailsQm := min (s.ilk.tapFailsQm + 1) 0xFFFF } })))

/-- With the device running, an access that its Sluice denies is answered with an error, is counted and captured at that
Sluice, and leaves every target as it was; where the two copies of the check logic disagree the Interlocking also
latches CHECKER_MISMATCH, and where the owner entry cannot be read a report is made. An access that a page handover in
progress concerns is held, and so is one behind a held access of its tag to its line. A granted access to DRAM whose
controller is not off wakes it and reads its bytes or writes them, its ECC events are counted, and a write that no
application core made is dirty-logged; every write meets the watch filters of the rings' tails and the queues'
indices. With the controller off it is answered with an error. One to a Pool or Reservoir bank meets the bank, one to
the control bus its registers, one to the Mawyn aperture a window that lets it through or an error, one to an
interrupt file is sent on (its read data is open), and one to a far side is answered as held. An access of an
application hart carries the tag of its level: an uncached one meets the Sluice, a cached one of memory goes line by
line through the cores' caches, where it hits a line of its own tag (with ISOLATION clear, of any tag but an
enclave's) and a line of another tag is first written back under that tag and leaves; the maintenance operations
clean, clean and drop, or drop the lines. SLUICE_PROBE latches CHECKER_MISMATCH unless the access to be granted was
answered and the one to be denied was not. (01_two_hierarchies.md R15, 06_turntable_and_consists.md R178,
14_isolation_and_security.md R365, R366, R369, R373, R375, 18_registers_and_counters.md R479, R480) -/
def Obligations.SluiceAccesses : Prop :=
  (∀ (s u : State) (a : Access) (h : Bool) (k : Nat), s.live = true → a.core = none → s.verdict a = .deny k →
      u = (s.noteDenial a k).answerError a.origin .denied →
      exec (.sluiceAccess a h) s = .next (if k = 7 then u.latch 2 (0x100 + a.sluice)
        else if k = 5 then u.report 5 a.sluice (a.addr / 4096) else u) ∧
      (a.origin = .other → u = { s with slc := { s.slc with faults := u.slc.faults }, resp := { kind := .error } })) ∧
  (∀ (s : State) (a : Access) (h : Bool), s.live = true → a.core = none → s.verdict a = .hold → exec (.sluiceAccess a h) s =
      .next { s with slc := { s.slc with held := s.slc.held ++ [a] }, resp := { kind := .held } }) ∧
  (∀ (s v w : State) (a : Access) (h bad : Bool) (c : Nat), s.live = true → a.core = none → s.verdict a = .grant →
      s.target a.addr = .dram c →
      ((s.dramCtrl c).state = .off → exec (.sluiceAccess a h) s = .next (s.answerError a.origin .memory)) ∧
      ((s.dramCtrl c).state ≠ .off → v = s.wakeDram c →
        (a.write = false → bad = (a.ecc == 2 || v.repair.badLines.any (lineMet a.addr a.len)) →
          (bad = true → ∃ l, l = (if a.ecc = 2 then insertNat (a.addr / 64) v.repair.badLines else v.repair.badLines) ∧
            exec (.sluiceAccess a h) s = .next (((v.modDram c fun d => { d with ue := (d.ue + 1) % 2 ^ 32 }).setBadLines
              l).answerError a.origin .memory)) ∧
          (bad = false → w = (if a.ecc = 1 then v.modDram c fun d => { d with ce := (d.ce + 1) % 2 ^ 32 } else v) →
            exec (.sluiceAccess a h) s = .next (w.answerData a.origin (v.rd a.addr a.len)))) ∧
        (a.write = true → w = (v.wr a.addr (a.data.take a.len)).setBadLines
            (v.repair.badLines.filter fun l => !(lineIn a.addr a.len l)) →
          exec (.sluiceAccess a h) s = .next ((((if a.fromCore then w else w.logWrite a.addr a.len).tailWatch a.tag a.addr
            a.len a.data).indexWatch a.tag a.addr a.len a.data).answerData a.origin [])))) ∧
  (∀ (s : State) (a : Access) (h : Bool) (n : Nat), s.live = true → a.core = none → s.verdict a = .grant →
      (s.target a.addr = .pool n ∨ s.target a.addr = .reservoir n → exec (.sluiceAccess a h) s =
        .next (s.bankMeet (bankOf a.addr).1
          { tag := a.tag, write := a.write, off := (bankOf a.addr).2, len := a.len, data := a.data, ecc := a.ecc
            origin := a.origin })) ∧
      (s.target a.addr = .ctlPriv ∨ s.target a.addr = .ctlWindow →
        exec (.sluiceAccess a h) s = .next (s.gateAccess a h)) ∧
      (s.target a.addr = .fabric ∨ s.target a.addr = .ecam n ∨ s.target a.addr = .outbound n →
        exec (.sluiceAccess a h) s = .next { s with resp := { kind := .held } }) ∧
      (s.target a.addr = .mawyn → exec (.sluiceAccess a h) s = .next (
        if s.windowLets (apertureOf a.addr) a.len a.write = true ∧ s.windowPort (apertureOf a.addr).1 ≠ none then s.aperture a
        else s.answerError a.origin .denied)) ∧
      (s.target a.addr = .interruptFile n → a.write = true → ∃ v : State,
        v = { s with sent := s.sent ++ [(a.tag, a.addr, a.data.take a.len)] } ∧
        exec (.sluiceAccess a h) s = .next (v.answerData a.origin [])) ∧
      (s.target a.addr = .interruptFile n → a.write = false → ∃ (v : State) (b : Bytes), b.length = a.len ∧
        v = { s with freeCtr := s.freeCtr + 1 } ∧ exec (.sluiceAccess a h) s = .next (v.answerData a.origin b)) ∧
      (s.target a.addr = .hole → exec (.sluiceAccess a h) s = .next (s.answerError a.origin .denied))) ∧
  (∀ (s v : State) (a b : Access) (h : Bool) (u : CoreUse), s.live = true → a.core = some u → u.op = .uncached →
      v = s.modHart u.hart (fun x => { x with tag := s.coreTag u.hart u.level }) →
      b = { a with tag := s.coreTag u.hart u.level, fromCore := true } →
      exec (.sluiceAccess a h) s = .next (v.sluiceAccess b h)) ∧
  (∀ (s v : State) (a : Access) (h : Bool) (u : CoreUse) (n : Nat), s.live = true → a.core = some u →
      v = s.modHart u.hart (fun x => { x with tag := s.coreTag u.hart u.level }) →
      (u.op = .cached → s.target a.addr = .dram n ∨ s.target a.addr = .pool n ∨ s.target a.addr = .reservoir n →
        exec (.sluiceAccess a h) s = .next (v.cachedAccess (s.coreTag u.hart u.level) a.addr a.len a.write a.data)) ∧
      (u.op = .clean → exec (.sluiceAccess a h) s = .next (v.maintain a.addr a.len true false)) ∧
      (u.op = .flush → exec (.sluiceAccess a h) s = .next (v.maintain a.addr a.len true true)) ∧
      (u.op = .inval → exec (.sluiceAccess a h) s = .next (v.maintain a.addr a.len false true))) ∧
  (∀ (s : State) (tag a n : Nat) (w : Bool) (d : Bytes) (l : CoreLine), tfind s.slc.coreLines (a / 64) = some l →
      (l.tag = tag ∨ (s.boot.isolation = false ∧ worldClass (worldOf l.tag) ≠ .enclave) →
        s.lineAccess tag a n w d = s.hitLine (a / 64) l (a % 64) n w d) ∧
      (l.tag ≠ tag → s.boot.isolation = true ∨ worldClass (worldOf l.tag) = .enclave → ∀ t,
        t = (s.writeBack (a / 64)).dropLine (a / 64) → tfind t.slc.coreLines (a / 64) = none →
        s.lineAccess tag a n w d = t.lineAccess tag a n w d)) ∧
  (∀ (s : State) (k : Nat), s.live = true → exec (.sluiceProbe k true false) s = .next s ∧
      exec (.sluiceProbe k false false) s = .next (s.latch 2 (0x200 + k)) ∧
      exec (.sluiceProbe k false true) s = .next (s.latch 2 (0x200 + k)) ∧
      exec (.sluiceProbe k true true) s = .next (s.latch 2 (0x200 + k)))

/-- With the device running, a write of bytes 0x18 to 0x1F of the request slot queues the request for its tag and is
acknowledged; with 64 queued it is answered with an error, queues nothing and is counted in REFUSED. ASSIGN, SET_SHARE
and PAGE_FREE act on a request of their own OP at the head of the queue while no handover runs: one that fails a check
is answered with the check's status and page and changes no owner entry; one that passes leaves the queue and its
handover starts, scrubbing for a FREE and for an ASSIGN in SCRUB mode. PAGE_HANDOVER_DONE takes the core-cached lines
of tags that lose access away, zeroes the pages of a scrubbing handover, brings the new entries into force on every
page together, lets the held accesses meet their Sluices again and answers OK. With no request, with one of another OP
at the head, or with no handover to end, nothing changes. (14_isolation_and_security.md R371, R372, R373) -/
def Obligations.PageRequests : Prop :=
  (∀ (s : State) (tag : Nat) (d q : Bytes), s.live = true → q = slice s.slc.pageSlot 0 24 ++ slice d 0 8 →
      (s.slc.pageQueue.length < 64 → exec (.pageReqTake tag d) s = .next { s with
        slc := { s.slc with pageSlot := q, pageQueue := s.slc.pageQueue ++ [{ tag := tag, bytes := q }] }
        resp := { kind := .data } }) ∧
      (64 ≤ s.slc.pageQueue.length → exec (.pageReqTake tag d) s = .next { s with
        slc := { s.slc with refused := min (s.slc.refused + 1) 0xFFFF }, resp := { kind := .error } })) ∧
  (∀ (s u : State) (c : Instr) (op : Nat) (r : PageReq) (l : List PageReq), s.live = true →
      (op = 1 ∧ c = .assign ∨ op = 2 ∧ c = .setShare ∨ op = 3 ∧ c = .pageFree) →
      (s.slc.pageQueue = [] → exec c s = .next s) ∧
      (s.slc.pageQueue = r :: l → 1 ≤ byteAt r.bytes 0 → byteAt r.bytes 0 ≤ 3 →
        (byteAt r.bytes 0 ≠ op ∨ s.slc.handover ≠ none) → exec c s = .next s) ∧
      (s.slc.pageQueue = r :: l → s.slc.handover = none → byteAt r.bytes 0 = op →
        u = { s with slc := { s.slc with pageQueue := l } } →
        ((s.pageCheck r).1 ≠ 0 → exec c s = .next (u.pageAnswer r (s.pageCheck r).1 (s.pageCheck r).2)) ∧
        ((s.pageCheck r).1 = 0 → ∃ h : PageHandover, h =
            { req := r, first := le r.bytes 8 4, count := le r.bytes 4 4
              scrub := op == 3 || (op == 1 && byteAt r.bytes 1 != 1), newEntry := r.entry, keepOwner := op == 2 } ∧
          exec c s = .next { u with slc := { u.slc with handover := some h } }))) ∧
  (∀ (s u v w : State) (h : PageHandover), s.live = true →
      (s.slc.handover = none → exec .pageHandoverDone s = .next s) ∧
      (s.slc.handover = some h → u = (if h.scrub then (s.revokeLines h.first h.count h.scrub s.newOwner).zeroDram (h.first * 4096) (h.count * 4096) else s.revokeLines h.first h.count h.scrub s.newOwner) →
        v = { u with slc := { u.slc with
          owners := (List.range h.count).foldl (fun t i => tset t (h.first + i) (u.newOwner (h.first + i))) u.slc.owners
          handover := none, held := [] } } →
        w = u.slc.held.foldl State.access v →
        exec .pageHandoverDone s = .next (State.pageDrain w.slc.pageQueue.length (w.pageAnswer h.req 0 0)).settle))

/-- With the device running: CREATE of an EMPTY enclave by a privileged tag of a NORMAL or SECURE world makes it BUILDING
with M zero; ADD, after a page handover in progress on its pages, measures and passes each page of the creator's admin
in order, once the cached lines of the old owner have left; SEAL with a sound ENTRY page makes it READY with the final
M; DESTROY forces every hart out, discards the cached lines, scrubs each page, returns it to the creator's admin and
leaves EMPTY. Each refusal sets its error and changes nothing else: 1 state, 2 creator, 3 page, 4 entry page, 5 debug.
SELECT shows an enclave on its path. GATE.MARK only advances. GATE.ENTER is illegal in M-mode; it writes its code to
rd where it fails; else the hart saves pc + 4, sp, ra, tag and rd, takes the enclave's tag, and goes on at the marked
entry or with its saved slot, or, at an unmarked entry, faults with its tag back. GATE.EXIT is illegal outside; else
it keeps a0 to a7, restores sp, ra and the tag, clears the rest, writes 0 to rd and continues at the saved pc. An
asynchronous exit saves the registers in the hart's slot, zeroes them, and traps at the GATE.ENTER with AEX set.
(14_isolation_and_security.md R381, R382, R383, R384, R385, R386) -/
def Obligations.Enclaves : Prop :=
  (∀ (s : State) (tag n : Nat) (d : Bool), s.live = true →
      ((s.enclave n).state ≠ .empty → exec (.enclaveCreate tag n d) s = .next (s.encDone 1)) ∧
      ((s.enclave n).state = .empty → s.mayCreate tag = false → exec (.enclaveCreate tag n d) s = .next (s.encDone 2)) ∧
      ((s.enclave n).state = .empty → s.mayCreate tag = true → d = true → s.debugAllowed = false →
        exec (.enclaveCreate tag n d) s = .next (s.encDone 5)) ∧
      ((s.enclave n).state = .empty → s.mayCreate tag = true → (d = false ∨ s.debugAllowed = true) →
        exec (.enclaveCreate tag n d) s = .next (State.encDone
          (s.modEnclave n fun _ => { state := .building, creator := worldOf tag, debug := d }) 0))) ∧
  (∀ (s : State) (tag n ty p k : Nat), s.live = true →
      ((s.enclave n).state ≠ .building → exec (.enclaveAdd tag n ty p k) s = .next (s.encDone 1) ∧
        exec (.enclaveSeal tag n) s = .next (s.encDone 1)) ∧
      ((s.enclave n).state = .building → s.isCreator tag n = false →
        exec (.enclaveAdd tag n ty p k) s = .next (s.encDone 2) ∧ exec (.enclaveSeal tag n) s = .next (s.encDone 2)) ∧
      ((s.enclave n).state = .building → s.isCreator tag n = true →
        (∀ u, u = (if s.slc.handover.any (fun h => ((List.range k).map (p + ·)).any fun q =>
            h.first ≤ q && q < h.first + h.count) then s.pageHandoverDone else s) →
          ((∃ i < k, (u.owner (p + i)).free = true ∨ (u.owner (p + i)).owner ≠ (s.enclave n).creator * 256) →
            exec (.enclaveAdd tag n ty p k) s = .next (u.encDone 3)) ∧
          ((∀ i < k, (u.owner (p + i)).free = false ∧ (u.owner (p + i)).owner = (s.enclave n).creator * 256) →
            ∃ v t, v = ((List.range k).map (p + ·)).foldl
                (fun w q => w.revokeLines q 1 false fun _ => { owner := 0xF00 + n, free := false }) u ∧
              exec (.enclaveAdd tag n ty p k) s = .next t ∧ t.slc.encError = 0 ∧
              t = { v with slc := t.slc } ∧ (t.enclave n).state = (v.enclave n).state ∧
              (t.enclave n).pages = (v.enclave n).pages ++ (List.range k).map (fun i => (ty, p + i)) ∧
              (t.enclave n).measure = (List.range k).foldl (fun m i => Config.sha384 (slice m 0 48 ++ leBytes 1 ty
                ++ leBytes 4 ((v.enclave n).pages.length + i) ++ v.rd ((p + i) * 4096) 4096)) (v.enclave n).measure ∧
              (∀ q, t.owner q = if p ≤ q ∧ q < p + k then { owner := 0xF00 + n, free := false } else v.owner q))) ∧
        (s.entryPage n = none → exec (.enclaveSeal tag n) s = .next (s.encDone 4)) ∧
        (s.entryPage n ≠ none → exec (.enclaveSeal tag n) s = .next (State.encDone (s.modEnclave n fun e =>
          { e with
            state := .ready
            measure := Config.sha384 (slice e.measure 0 48 ++ leBytes 1 0xFF ++ leBytes 1 (b2n e.debug)) }) 0)))) ∧
  (∀ (s : State) (tag n : Nat), s.live = true →
      ((s.enclave n).state = .empty → exec (.enclaveDestroy tag n) s = .next (s.encDone 1)) ∧
      ((s.enclave n).state ≠ .empty → s.isCreator tag n = false → exec (.enclaveDestroy tag n) s = .next (s.encDone 2)) ∧
      ((s.enclave n).state ≠ .empty → s.isCreator tag n = true →
        ∃ u w v, u = ((s.slc.harts.filter fun x => x.2.enclave == n).map (·.1)).foldl State.asyncExit s ∧
          w = ((s.enclave n).pages.map (·.2)).foldl
            (fun x q => x.revokeLines q 1 true fun _ => { owner := (s.enclave n).creator * 256, free := false }) u ∧
          v = (s.enclave n).pages.foldl (fun w p => (w.zeroDram (p.2 * 4096) 4096).modOwner p.2 fun _ =>
            { owner := (s.enclave n).creator * 256, free := false }) w ∧
          exec (.enclaveDestroy tag n) s = .next { v with slc := { v.slc with
            enclaves := tdel v.slc.enclaves n, encError := 0 } })) ∧
  (∀ (s : State) (path tag n : Nat), s.live = true → exec (.enclaveSelect path tag n) s = .next { s with
      slc := { s.slc with selected := tset s.slc.selected path n, encError := 0 } }) ∧
  (∀ (s : State) (h : Nat) (r : HartRegs), s.live = true →
      exec (.gateMark h r) s =
        .next (s.modHart h fun x => { x with regs := { r with pc := (r.pc + 4) % 2 ^ 64 } }) ∧
      ((s.hart h).enclave = 0 → exec (.gateExit h r) s =
        .next (s.modHart h fun x => { x with regs := r, xepc := r.pc, xcause := 2 })) ∧
      ((s.hart h).enclave ≠ 0 → (s.hart h).haltHeld = false → ∃ t k, exec (.gateExit h r) s = .next t ∧
        t = s.modHart h (fun x => { x with regs := k, tag := (s.hart h).savedTag, enclave := 0 }) ∧
        k.pc = (s.hart h).savedPc ∧ k.f = [] ∧ k.v = [] ∧ k.fcsr = 0 ∧ k.vcsr = [] ∧
        ∀ i, 0 < i → regGet k i = if i = (s.hart h).savedRd then 0 else if i = 1 then (s.hart h).savedRa
          else if i = 2 then (s.hart h).savedSp else if 10 ≤ i ∧ i ≤ 17 then regGet r i else 0)) ∧
  (∀ (s : State) (h rd r1 r2 ph : Nat) (r : HartRegs) (l : HartLevel), s.live = true →
      exec (.gateEnter h .machine rd r1 r2 ph r) s =
        .next (s.modHart h fun x => { x with regs := r, xepc := r.pc, xcause := 2 }) ∧
      (l ≠ .machine → s.enterCode h (regGet r r1) (regGet r r2) ≠ 0 → exec (.gateEnter h l rd r1 r2 ph r) s =
        .next (s.modHart h fun x => { x with
          regs := { (regSet r rd (s.enterCode h (regGet r r1) (regGet r r2))) with pc := (r.pc + 4) % 2 ^ 64 } })) ∧
      (l ≠ .machine → s.enterCode h (regGet r r1) (regGet r r2) = 0 →
        ∃ (t : State) (y : Hart), exec (.gateEnter h l rd r1 r2 ph r) s = .next t ∧ y = t.hart h ∧
          t = { s with slc := { s.slc with harts := t.slc.harts }, freeCtr := t.freeCtr } ∧
          (∀ j, j ≠ h → t.hart j = s.hart j) ∧
          y.savedPc = (r.pc + 4) % 2 ^ 64 ∧ y.savedSp = regGet r 2 ∧ y.savedRa = regGet r 1 ∧ y.savedTag = s.coreTag h l ∧
          y.savedRd = rd ∧
          (regGet r r2 = 2 ^ 64 - 1 → y.tag = 0xF00 + regGet r r1 ∧ y.enclave = regGet r r1 ∧
            y.regs = tget {} (s.enclave (regGet r r1)).slots h) ∧
          (regGet r r2 ≠ 2 ^ 64 - 1 → s.entryMarked (regGet r r1) ph = true →
            y.tag = 0xF00 + regGet r r1 ∧ y.enclave = regGet r r1 ∧ ∃ pg, s.entryPage (regGet r r1) = some pg ∧
              y.regs = { r with pc := s.rdLe (pg * 4096 + 8 + 8 * regGet r r2) 8 }) ∧
          (regGet r r2 ≠ 2 ^ 64 - 1 → s.entryMarked (regGet r r1) ph = false →
            y.tag = s.coreTag h l ∧ y.enclave = 0 ∧ y.gateFault = true ∧ y.regs = r ∧ y.xepc = r.pc ∧ y.xcause = 1))) ∧
  (∀ (s : State) (h c : Nat) (r : HartRegs), s.live = true →
      ((s.hart h).enclave = 0 → exec (.asyncExit h c r) s = .next s) ∧
      ((s.hart h).enclave ≠ 0 → ∃ (t : State) (y : Hart), exec (.asyncExit h c r) s = .next t ∧ y = t.hart h ∧
        y.enclave = 0 ∧ y.aex = true ∧ y.tag = (s.hart h).savedTag ∧ y.xepc = ((s.hart h).savedPc + (2 ^ 64 - 4)) % 2 ^ 64 ∧ y.xtval = 0 ∧
        y.xcause = c ∧ y.regs = { pc := ((s.hart h).savedPc + (2 ^ 64 - 4)) % 2 ^ 64, x := tset (tset [] 1 (s.hart h).savedRa) 2 (s.hart h).savedSp } ∧
        tget {} (t.enclave (s.hart h).enclave).slots h = r ∧ (∀ j, j ≠ h → t.hart j = s.hart j) ∧
        t = { s with mem := t.mem, freeCtr := t.freeCtr, slc := t.slc }))

/-- With the device running, DBG_EN_WRITE leaves each world's INV and NONINV bit as it was except that a privileged tag of
the world, or a SAFETY tag for the SAFETY world, sets it where SLUICE allows and clears it at any time, and the
privileged DEVICE tag clears it. REGION_ENTRY_WRITE changes one entry, and changes nothing from a tag other than the
Stationmaster's, for a locked entry, for PAGED outside table 0, for WINDOW outside table 22, or where table 22 would
be left without exactly one right WINDOW region. REGISTER_WRITE over a path of its own reaches the control bus with
that path's tag and is refused elsewhere; over the gateway it is an access at Sluice 29 under its requester's tag, a
hart's being that of its level. Of a hart's CSRs, hstag is written from M, vstag from HS and M, any other is
unchanged. (14_isolation_and_security.md R367, R386, R387, 18_registers_and_counters.md R482) -/
def Obligations.DebugEnablesAndRegions : Prop :=
  (∀ (s : State) (tag val w : Nat), s.live = true → w < 16 → ∃ t, exec (.dbgEnWrite tag val) s = .next t ∧
      t = { s with slc := { s.slc with dbgInv := t.slc.dbgInv, dbgNonInv := t.slc.dbgNonInv } } ∧
      ∀ (mine dev : Bool), mine = ((s.privileged tag && worldOf tag == w)
          || (worldClass (worldOf tag) == .safety && w == 1)) →
        dev = (s.privileged tag && worldClass (worldOf tag) == .device) →
        bit t.slc.dbgInv w = (if bit val w && !bit s.slc.dbgInv w then mine && s.worldFlag w 1
          else if !bit val w && bit s.slc.dbgInv w then !(mine || dev) else bit s.slc.dbgInv w) ∧
        bit t.slc.dbgNonInv w = (if bit val (16 + w) && !bit s.slc.dbgNonInv w then mine && s.worldFlag w 2
          else if !bit val (16 + w) && bit s.slc.dbgNonInv w then !(mine || dev) else bit s.slc.dbgNonInv w)) ∧
  (∀ (s : State) (tag tbl n : Nat) (d : Bytes) (l : List Region), s.live = true →
      l = ((List.range 32).map fun r => if r = n then regionOf d else s.region 22 r) →
      ((tag ≠ s.stmTag ∨ (s.region tbl n).locked = true ∨ ((regionOf d).paged = true ∧ tbl ≠ 0) ∨
          ((regionOf d).window = true ∧ tbl ≠ 22) ∨ (tbl = 22 ∧ windowOk l = false)) →
        exec (.regionEntryWrite tag tbl n d) s = .next s) ∧
      (tag = s.stmTag → (s.region tbl n).locked = false → ((regionOf d).paged = true → tbl = 0) →
        ((regionOf d).window = true → tbl = 22) → (tbl = 22 → windowOk l = true) →
        exec (.regionEntryWrite tag tbl n d) s =
          .next { s with slc := { s.slc with regions := tset s.slc.regions (32 * tbl + n) (regionOf d) } })) ∧
  (∀ (s : State) (h v : Nat), s.live = true →
      exec (.registerWrite (.csr h 0x7C1 3 v)) s = .next (s.modHart h fun x => { x with hstag := v % 4096 }) ∧
      exec (.registerWrite (.csr h 0x6C0 3 v)) s = .next (s.modHart h fun x => { x with vstag := v % 4096 }) ∧
      exec (.registerWrite (.csr h 0x6C0 1 v)) s = .next (s.modHart h fun x => { x with vstag := v % 4096 }) ∧
      (∀ n l, ¬(n = 0x7C1 ∧ l = 3) → ¬(n = 0x6C0 ∧ (l = 1 ∨ l = 3)) →
        exec (.registerWrite (.csr h n l v)) s = .next s)) ∧
  (∀ (s : State) (path a n v : Nat) (q : Requester) (b : Bool), s.live = true → path < 3 →
      (a < ctlBase ∨ ctlBase + 0x800000 ≤ a → exec (.registerWrite (.bus path q a n v b)) s = .next s.refuse) ∧
      (ctlBase ≤ a → a < ctlBase + 0x800000 → exec (.registerWrite (.bus path q a n v b)) s = .next (s.privAccess
        { path := path, tag := s.pathTag path } (a - ctlBase) n true (leBytes n v) b))) ∧
  (∀ (s : State) (path a n v : Nat) (b : Bool), s.live = true → 3 ≤ path →
      (∀ tag, exec (.registerWrite (.bus path (.tag tag) a n v b)) s = .next (s.sluiceAccess
        { sluice := 29, tag := tag, addr := a, len := n, write := true, data := leBytes n v } b)) ∧
      (∀ h l, ∃ u : State, u = s.modHart h (fun x => { x with tag := s.coreTag h l }) ∧
        exec (.registerWrite (.bus path (.hart h l) a n v b)) s = .next (u.sluiceAccess
          { sluice := 29, tag := s.coreTag h l, addr := a, len := n, write := true, data := leBytes n v, fromCore := true } b)))

/-- With the device running and Points on, FRAME_RECEIVE at an enabled port (and no bus-off controller's) brings the time
to its instant. A bad, remote or wrongly sized frame counts in RX_ERRORS and is dropped; any other counts in RX_FRAMES
and is looked up. The matching entry of the lowest index decides: DROP counts in NO_ROUTE; FORWARD and TRANSLATE send
to each egress port, ENCAP of a CAN frame joins the entry's IEEE 1722 frame, DECAP sends each CAN message to its CAN
port, and then the frame goes to each memory queue of EGRESS. With no match it goes to the port's default queue, or is
counted in NO_ROUTE. At an egress port the frame is queued, or dropped and counted where the port cannot carry it or
its share of the buffer is full. AGG_TIMEOUT lets a partly filled frame leave. At a disabled port, or with Points off,
nothing happens. (13_gateway_and_junction.md R342, R344, R345, R347, R348, R349, R350, R362) -/
def Obligations.PointsFrames : Prop :=
  (∀ (s r : State) (p full i : Nat) (f : NetFrame), s.live = true → r = s.reach i →
      ((s.clock 69).state ≠ .on ∨ s.portEnabled p = false ∨ (16 ≤ p ∧ p - 16 ∈ s.pts.busOff) →
        exec (.frameReceive p f full i) s = .next s) ∧
      ((s.clock 69).state = .on → s.portEnabled p = true → (p < 16 ∨ p - 16 ∉ s.pts.busOff) →
        ((f.bad = true ∨ f.remote = true ∨ frameLenOk f = false) → exec (.frameReceive p f full i) s =
          .next (r.modPort p fun q => { q with rxErrors := min (q.rxErrors + 1) 0xFFFF })) ∧
        (f.bad = false → f.remote = false → frameLenOk f = true → ∃ u,
          u = r.modPort p (fun q => { q with rxFrames := (q.rxFrames + 1) % 2 ^ 32 }) ∧
          (∀ n, u.ptsLookup (frameKey p f) = some n →
            exec (.frameReceive p f full i) s = .next (u.ptsDecide full n (u.ptsEntry n) p i f)) ∧
          (u.ptsLookup (frameKey p f) = none → exec (.frameReceive p f full i) s =
            .next (if (tget {} u.pts.ports p).defaultEn then
              u.queueFrame [(tget {} u.pts.ports p).defaultQ] f p 0xFFFF i else u.ptsCount 0))))) ∧
  (∀ (s : State) (full n p i : Nat) (e : Bytes) (f : NetFrame) (l q : List Nat), l = maskBits (le e 0x18 8) 32 →
      q = maskBits (le e 0x18 8 >>> 32) 32 →
      (byteAt e 0x20 = 4 → s.ptsDecide full n e p i f = s.ptsCount 0) ∧
      (byteAt e 0x20 = 0 → s.ptsDecide full n e p i f =
        (l.foldl (fun s p => s.ptsForward full p e f) s).queueFrame q f p n i) ∧
      (byteAt e 0x20 = 1 → s.ptsDecide full n e p i f =
        (l.foldl (fun s p => s.ptsForward full p e (frameTranslate f (le e 0x24 4))) s).queueFrame q f p n i) ∧
      (byteAt e 0x20 = 2 → l ≠ [] → (∀ x ∈ l, x < 10) → (f.kind = 1 ∨ f.kind = 2) → s.ptsDecide full n e p i f =
        (s.encapsulate full n e p i f).queueFrame q f p n i) ∧
      (byteAt e 0x20 = 3 → s.ptsDecide full n e p i f =
        (s.decapsulate full (fld (byteAt e 0x21) 0 3) f).queueFrame q f p n i)) ∧
  (∀ (s : State) (full p tc : Nat) (f : NetFrame),
      (s.carries p f = false → s.ptsSend full p tc f = s.ptsDrop 3 p) ∧
      (s.carries p f = true → bit full p = true → s.ptsSend full p tc f = s.ptsDrop 2 p) ∧
      (s.carries p f = true → bit full p = false → s.ptsSend full p tc f =
        { s with pts := { s.pts with sent := s.pts.sent ++ [{ port := p, tc := tc, frame := f }] } })) ∧
  (∀ (s : State) (n full : Nat) (a : PtsAgg), s.live = true →
      (tfind s.pts.aggs n = some a → (s.clock 69).state = .on → exec (.aggTimeout n full) s =
        .next ((s.reach (a.sinceNs + 1000 * le a.entry 0x2A 2)).flushAgg full n)) ∧
      ((tfind s.pts.aggs n = none ∨ (s.clock 69).state ≠ .on) → exec (.aggTimeout n full) s = .next s))

/-- With the device running: a slot or index write that is still held is not acknowledged; QUEUE_SLOT_ACK takes the oldest
slot write of the queue and writes the index word, a refused write disabling the queue with error 2; QUEUE_INDEX_ACK
takes the oldest index write, sends the interrupt and lets the frame arrive; TX_INDEX_WRITE is a write that its Sluice
judges: denied it only leaves the denial; granted it stores its bytes in DRAM and captures the index of an enabled
queue whose word it covers with its WRITER_TAG, an invalid index disabling the queue with error 1; TX_SLOT_READ, for
an enabled TX queue with a slot left, reads the slot, a failed read disables the queue with error 3, and a held one
waits. With Points on: COMMIT replaces the path's selected entry, clearing its arrivals where asked, or only sets
REJECTED; ENTRY_READ copies it out; RESET_COUNT clears its arrivals; Q_ENABLE configures a disabled queue and enables
it empty, with error 3 for LOG2_SLOTS out of 4 to 14; Q_DISABLE clears EN. CAN_BUS_OFF_RECOVERY lets the controller
take part again. (13_gateway_and_junction.md R339, R343, R346, R347, R348, R362) -/
def Obligations.PointsQueuesAndEntries : Prop :=
  (∀ (s : State) (q id i : Nat) (l : List (Nat × Nat)), s.live = true →
      ((s.ptsQueue q).slotWrites = [] → exec (.queueSlotAck q) s = .next s) ∧
      ((s.ptsQueue q).slotWrites = (id, i) :: l → s.awaits (.slot q id) = true → exec (.queueSlotAck q) s = .next s) ∧
      ((s.ptsQueue q).slotWrites = (id, i) :: l → s.awaits (.slot q id) = false →
        ∃ u, u = (s.modQueue q fun x => { x with slotWrites := l }).devAccess (.index q (some id))
          (s.ptsQueue q).ownerTag ((s.ptsQueue q).addr + 64) 8 true (leBytes 8 i) ∧
        (u.resp.kind = .error → exec (.queueSlotAck q) s =
          .next ((u.modQueue q fun x => { x with en := false, error := 2 }).frameDone id false)) ∧
        (u.resp.kind ≠ .error → exec (.queueSlotAck q) s =
          .next (u.modQueue q fun x => { x with indexWrites := x.indexWrites ++ [id] })))) ∧
  (∀ (s : State) (q id : Nat) (l : List Nat), s.live = true →
      ((s.ptsQueue q).indexWrites = [] → exec (.queueIndexAck q) s = .next s) ∧
      ((s.ptsQueue q).indexWrites = id :: l → s.awaits (.index q (some id)) = true → exec (.queueIndexAck q) s = .next s) ∧
      ((s.ptsQueue q).indexWrites = id :: l → s.awaits (.index q (some id)) = false → exec (.queueIndexAck q) s =
        .next (((s.modQueue q fun x => { x with indexWrites := l }).msi (s.ptsQueue q).ownerTag (s.ptsQueue q).msiAddr
          (s.ptsQueue q).msiData).frameDone id true))) ∧
  (∀ (s : State) (tag a n v q c t : Nat) (ok : Bool) (x : PtsQueue) (acc : Access), s.live = true → s.pts.queues = [(q, x)] →
      s.target a = .dram c → (s.blockAccess tag a n true (leBytes n v)).map (fun b => { b with entryOk := ok }) = some acc →
      t = le (leBytes n v) (x.addr - a) 4 →
      (∀ k, s.verdict acc = .deny k →
        exec (.txIndexWrite (.tag tag) a n v ok) s = .next ((s.noteDenial acc k).answerError .other .denied)) ∧
      (s.verdict acc = .grant → (s.dramCtrl c).state ≠ .off → ∃ u, exec (.txIndexWrite (.tag tag) a n v ok) s = .next u ∧
        u.mem = ((s.wr a ((leBytes n v).take n)).logWrite a n).mem ∧
        (x.en = true → a ≤ x.addr → x.addr + 4 ≤ a + n → x.writerTag = tag →
          (x.indexOk t = true → u.pts = { s.pts with queues := [(q, { x with captured := t })] }) ∧
          (x.indexOk t = false → u.pts = { s.pts with queues := [(q, { x with en := false, error := 1 })] })) ∧
        (x.en = false ∨ x.addr < a ∨ a + n < x.addr + 4 ∨ x.writerTag ≠ tag → u.pts = s.pts))) ∧
  (∀ (s u : State) (q full i : Nat) (x : PtsQueue) (h : Bytes) (z : Fetch), s.live = true → x = s.ptsQueue q →
      ((s.clock 69).state ≠ .on ∨ x.en = false ∨ x.tx = false ∨ x.captured = x.index →
        exec (.txSlotRead q full i) s = .next s) ∧
      ((s.clock 69).state = .on → x.en = true → x.tx = true → x.captured ≠ x.index →
        (s.reach i).fetchBytes x.ownerTag (x.slotAt x.index) 64 = (u, z) →
        (z = .failed → exec (.txSlotRead q full i) s = .next (u.modQueue q fun y => { y with en := false, error := 3 })) ∧
        (z = .waits → exec (.txSlotRead q full i) s = .next u) ∧
        (z = .got h → (4 ≤ byteAt h 3 ∨ x.slotBytes < le h 0 2 + 64) → exec (.txSlotRead q full i) s =
          .next (u.txSlotTaken q full i x false (slotFrame h []))) ∧
        (z = .got h → byteAt h 3 < 4 → le h 0 2 = 0 → 64 ≤ x.slotBytes → exec (.txSlotRead q full i) s =
          .next (u.txSlotTaken q full i x true (slotFrame h []))) ∧
        (z = .got h → byteAt h 3 < 4 → le h 0 2 ≠ 0 → le h 0 2 + 64 ≤ x.slotBytes → ∀ (w : State) (o : Fetch),
          (w, o) = u.fetchBytes x.ownerTag (x.slotAt x.index + 64) (le h 0 2) →
          (o = .failed → exec (.txSlotRead q full i) s = .next (w.modQueue q fun y => { y with en := false, error := 3 })) ∧
          (o = .waits → exec (.txSlotRead q full i) s = .next w) ∧
          (∀ d, o = .got d → exec (.txSlotRead q full i) s =
            .next (w.txSlotTaken q full i x true (slotFrame h d)))))) ∧
  (∀ (s : State) (p n : Nat) (e : Bytes) (b : Bool), s.live = true → (s.clock 69).state = .on →
      n = tget 0 s.pts.entrySel p → e = slice (tget [] s.pts.entryData p) 0 64 →
      (s.entryBad e = true → exec (.commit p b) s = .next { s with pts := { s.pts with rejected := true } }) ∧
      (s.entryBad e = false → exec (.commit p b) s = .next { s with pts := { s.pts with
        entries := tset s.pts.entries n e, arrivals := if b then tset s.pts.arrivals n 0 else s.pts.arrivals } }) ∧
      exec (.entryRead p) s = .next { s with pts := { s.pts with entryData := tset s.pts.entryData p (s.ptsEntry n) } } ∧
      exec (.resetCount p) s = .next { s with pts := { s.pts with arrivals := tset s.pts.arrivals n 0 } }) ∧
  (∀ (s u : State) (q v : Nat), s.live = true → (s.clock 69).state = .on →
      exec (.qDisable q) s = .next (s.modQueue q fun x => { x with en := false }) ∧
      ((s.ptsQueue q).en = true → exec (.qEnable q v) s = .next s) ∧
      ((s.ptsQueue q).en = false → u = s.modQueue q (fun x => { x with
          log2Slots := v % 16, slotSize := fld v 4 2, tx := bit v 6, ownerTag := fld v 8 12, writerTag := fld v 20 12 }) →
        ((v % 16 < 4 ∨ 14 < v % 16) → exec (.qEnable q v) s = .next (u.modQueue q fun x => { x with error := 3 })) ∧
        (4 ≤ v % 16 → v % 16 ≤ 14 → (s.ptsQueue q).slotWrites = [] → (s.ptsQueue q).indexWrites = [] →
          exec (.qEnable q v) s = .next (u.modQueue q fun x => { x with
            en := true, error := 0, index := 0, captured := 0, seq := 0, slotWrites := [], indexWrites := [] })))) ∧
  (∀ (s : State) (c : Nat), s.live = true →
      exec (.canBusOffRecovery c) s = .next { s with pts := { s.pts with busOff := s.pts.busOff.erase c } })

/-- With the device running and the Junction on, JCT_OUTBOUND to a far side issues a write in pieces, none crossing the
side's boundary, breaks others' reservations on its granules and acknowledges it; a read is held and its pieces take
free tags. A completion for a tag that is held and not quarantined adds its data to the read, or marks it failed and
records the error; the last one frees the tag, lets waiting pieces issue and answers the read once no piece is left.
One for a free or quarantined tag only counts in LATE_CPL. CPL_TIMEOUT quarantines the tag, records the error and
answers the read with an error; TAG_QUARANTINE_END frees the tag. PCIE_LINK_UP sets the port's link. With the Junction
off, or for no such tag, nothing changes. (13_gateway_and_junction.md R354, R355, R356, R360, R361) -/
def Obligations.JunctionReadsAndWrites : Prop :=
  (∀ (s : State) (src tag a n x : Nat) (w : Bool) (d : Bytes), s.live = true →
      ((s.clock 71).state ≠ .on ∨ s.sideOf a = none → exec (.jctOutbound src tag a n w d) s = .next s) ∧
      ((s.clock 71).state = .on → s.sideOf a = some x →
        exec (.jctOutbound src tag a n true d) s =
          .next { (s.breakOthers src tag 32 a n).issueWrite x tag a (d.take n) with resp := { kind := .data } } ∧
        exec (.jctOutbound src tag a n false d) s =
          .next { s.issueRead x src tag a n with resp := { kind := .held } })) ∧
  (∀ (s : State) (src tag h a n : Nat) (r : JctSlot), r ∈ (s.breakOthers src tag h a n).jct.slots ↔ r ∈ s.jct.slots ∧
      ¬((r.src ≠ src ∨ r.tag ≠ tag ∨ r.hart ≠ h) ∧ a / 64 ≤ r.granule ∧ r.granule ≤ (a + n - 1) / 64)) ∧
  (∀ (bound most k a n : Nat), 0 < bound → 0 < most → n ≤ k →
      ((cutPieces bound most k a n).map (·.2)).sum = n ∧
      ∀ p ∈ cutPieces bound most k a n, 0 < p.2 ∧ p.2 ≤ most ∧ a ≤ p.1 ∧ p.1 + p.2 ≤ a + n ∧
        p.1 / bound = (p.1 + p.2 - 1) / bound) ∧
  (∀ (s : State) (x t st : Nat) (d : Bytes) (l : Bool) (g : JctTag), s.live = true → (s.clock 71).state = .on →
      ((tfind (s.side x).tags t = none ∨ tfind (s.side x).tags t = some g ∧ g.quarantined = true) →
        exec (.jctCompletion x t st d l) s =
          .next (s.modSide x fun y => { y with lateCpl := min (y.lateCpl + 1) 0xFFFF })) ∧
      (tfind (s.side x).tags t = some g → g.quarantined = false →
        ∀ r, tfind (s.side x).reads g.read = some r →
        (st = 0 → l = false → ∃ u, exec (.jctCompletion x t st d l) s = .next u ∧
          u = s.modSide x fun y => { y with
            tags := tset y.tags t { g with addr := g.addr + d.length }
            reads := tset y.reads g.read { r with parts := memWrite r.parts g.addr d } }) ∧
        (st = 0 → l = true → ∃ v : State, v = (s.modSide x fun y => { y with
              tags := tdel y.tags t
              reads := tset y.reads g.read { r with
                parts := memWrite r.parts g.addr d, outstanding := r.outstanding - 1 } }) ∧
          exec (.jctCompletion x t st d l) s = .next ((v.issueReads x).readDone x g.read)) ∧
        (1 ≤ st → st ≤ 3 → ∃ v : State, v = ((s.jctError x (st + 1) r.tag t false false g.addr).modSide x fun y => { y with
              tags := tdel y.tags t
              reads := tset y.reads g.read { r with failed := true, outstanding := r.outstanding - 1 } }) ∧
          exec (.jctCompletion x t st d l) s = .next ((v.issueReads x).readDone x g.read)))) ∧
  (∀ (s r : State) (x t : Nat) (g : JctTag), s.live = true → (s.clock 71).state = .on →
      (tfind (s.side x).tags t = none → exec (.cplTimeout x t) s = .next s ∧ exec (.tagQuarantineEnd x t) s = .next s) ∧
      (tfind (s.side x).tags t = some g → g.quarantined = false →
        r = s.reach (g.sinceNs + 1000 * (s.side x).timeoutUs) →
        exec (.tagQuarantineEnd x t) s = .next s ∧
        exec (.cplTimeout x t) s = .next (((r.modSide x fun y => { y with
            tags := tset y.tags t { g with quarantined := true, sinceNs := r.now } }).jctError x 1
          (tget {} (r.side x).reads g.read).tag t false false g.addr).answerRead x g.read true)) ∧
      (tfind (s.side x).tags t = some g → g.quarantined = true →
        exec (.cplTimeout x t) s = .next s ∧
        exec (.tagQuarantineEnd x t) s = .next (((s.reach (g.sinceNs + 2000 * (s.side x).timeoutUs)).modSide x fun y =>
          { y with tags := tdel y.tags t }).issueReads x))) ∧
  (∀ (s : State) (p : Nat) (b : Bool), s.live = true →
      exec (.pcieLinkUp p b) s = .next (s.modSide p fun d => { d with up := b }))

/-- With the device running and the Junction on: an inbound atomic is answered with an error; a request that matches no
window, or whose access is denied, is answered with an error and recorded; one that matches the lowest window is
translated, carries its stream tag and is answered by its targets. LR takes the reservation of its granule, the oldest
giving way when 16 are held, and issues the read. SC with its holder's reservation on the granule spends it, breaks
others' on the bytes, writes and answers 0; else it counts in SC_FAILED, writes nothing and answers 1. AMO breaks
every reservation on its granule; with its read done it writes the operation's result and answers the old value, else
it writes nothing and answers with an error. RESERVATION_TIMEOUT breaks the oldest reservation. With the Junction off,
or for no far side, nothing changes. (13_gateway_and_junction.md R354, R358, R359, R360) -/
def Obligations.JunctionInboundAndAtomics : Prop :=
  (∀ (s : State) (p rid a n : Nat) (w : Bool) (d : Bytes) (b : Bool), s.live = true →
      ((s.clock 71).state ≠ .on → exec (.jctInbound p rid a n w d b) s = .next s) ∧
      ((s.clock 71).state = .on →
        exec (.jctInbound p rid a n w d true) s = .next { s with resp := { kind := .error } } ∧
        (s.inWindowOf p rid a = none → exec (.jctInbound p rid a n w d false) s =
          .next { s.jctError p 6 0 0 w true a with resp := { kind := .error } }) ∧
        (∀ x, s.inWindowOf p rid a = some x → ∀ (u : State) (o : Option Bytes), (u, o) = s.inboundPieces x.streamTag
            (x.target + (a - x.base)) w (d.take n) (cutPieces 64 64 n (x.target + (a - x.base)) n) →
          (o = none → exec (.jctInbound p rid a n w d false) s = .next
            { u.jctError p 7 x.streamTag 0 w true a with resp := { kind := .error } }) ∧
          (∀ r, o = some r → exec (.jctInbound p rid a n w d false) s =
            .next { u with resp := { kind := .data, bytes := if w then [] else r } })))) ∧
  (∀ (s : State) (src tag h a n op v old : Nat) (d : Bytes) (ok : Bool), s.live = true →
      ((s.clock 71).state ≠ .on ∨ s.sideOf a = none → exec (.lr src tag h a n) s = .next s ∧
        exec (.sc src tag h a d) s = .next s ∧ exec (.amo src tag h a n op v old ok) s = .next s)) ∧
  (∀ (s : State) (src tag h a n x : Nat) (l : List JctSlot), s.live = true → (s.clock 71).state = .on →
      s.sideOf a = some x → l = s.jct.slots.filter (fun r => r.granule != a / 64) →
      ∃ u : State, u = { s with jct := { s.jct with slots := (if l.length ≥ 16 then l.drop 1 else l)
          ++ [{ granule := a / 64, src := src, tag := tag, hart := h, sinceNs := s.now }] } } ∧
        exec (.lr src tag h a n) s = .next { u.issueRead x src tag a n with resp := { kind := .held } }) ∧
  (∀ (s : State) (src tag h a x : Nat) (d : Bytes), s.live = true → (s.clock 71).state = .on → s.sideOf a = some x →
      ((∃ r ∈ s.jct.slots, r.granule = a / 64 ∧ r.src = src ∧ r.tag = tag ∧ r.hart = h) →
        ∃ u : State, u = { s with jct := { s.jct with slots := s.jct.slots.filter fun r =>
            !(r.granule == a / 64 && !(r.others src tag h)) } } ∧
          exec (.sc src tag h a d) s = .next { (u.breakOthers src tag h a d.length).issueWrite x tag a d with
            resp := { kind := .data, bytes := leBytes d.length 0 } }) ∧
      ((∀ r ∈ s.jct.slots, ¬(r.granule = a / 64 ∧ r.src = src ∧ r.tag = tag ∧ r.hart = h)) →
        exec (.sc src tag h a d) s = .next { (s.modSide x fun y => { y with scFailed := min (y.scFailed + 1) 0xFFFF }) with
          resp := { kind := .data, bytes := leBytes d.length 1 } })) ∧
  (∀ (s : State) (src tag h a n op v old x : Nat), s.live = true → (s.clock 71).state = .on → s.sideOf a = some x →
      ∃ u : State, u = { s with jct := { s.jct with slots := u.jct.slots } } ∧
        (∀ r ∈ u.jct.slots, r.granule ≠ a / 64 ∧ r ∈ s.jct.slots) ∧
        exec (.amo src tag h a n op v old true) s = .next { ((u.breakOthers src tag h a n).issueWrite x tag a
            (leBytes n (amoResult (8 * n) op (old % 2 ^ (8 * n)) (v % 2 ^ (8 * n))))) with
          resp := { kind := .data, bytes := leBytes n old } } ∧
        exec (.amo src tag h a n op v old false) s = .next
          { u.jctError x (if x = 2 then 5 else 2) tag 0 false false a with resp := { kind := .error } }) ∧
  (∀ (s : State) (r : JctSlot) (l : List JctSlot), s.live = true →
      (s.jct.slots = [] → exec .reservationTimeout s = .next s) ∧
      (s.jct.slots = r :: l → (s.clock 71).state = .on → exec .reservationTimeout s =
        .next ((s.reach (r.sinceNs + 4000)).modJct fun j => { j with slots := l })))

/-- SET_STATE answers 1 for a reserved state, 2 for a reserved domain, 4 for a state the domain lacks or whose clock
DOMAIN_EN excludes, 5 and holds a lowering of a domain in secure use unless a privileged tag of a using world asks, 3
from a tag that may not switch it, and else replaces any held request of the domain and applies the request: a domain
already there answers OK; one that must be idle and is not is held with 6; else the transition starts. A request for
ON against a shutdown in progress turns it back with outcome 2, or past its point is latched; one for ON of a domain
the clamp cut is held while the clamp is not IDLE. A bank takes the request as a write of its PWR. POWER_QUERY answers
state and outcome; SET_PKG_LIMIT takes 90 W up to the plan's limit from an admin world. A held request proceeds when
its condition holds or a user's admin releases it; a transition's end brings the domain to its target, and a latched
ON then powers it up again; a Mawyn port that comes up trains, and what its change asks of the links follows.
(14_isolation_and_security.md R389, R390, 15_firmware_power_supplies.md R404, R405, R406, R407, R408, R409) -/
def Obligations.PowerRequests : Prop :=
  (∀ (s w u : State) (r : MboxReq) (st d : Nat) (h p : Bool), Serves s 3 1 r w → st = byteAt r.body 1 → d = le r.body 2 2 →
      u = { w with pwr := { w.pwr with holds := w.pwr.holds.filter fun x => x.domain != d } } →
      (4 < st → exec (.setState h p) s = .next (reply w r (w.powerBody 1 d))) ∧
      (st ≤ 4 → pwrDomain d = none → exec (.setState h p) s = .next (reply w r [2])) ∧
      (st ≤ 4 → ∀ k, pwrDomain d = some k →
        ((k.supports st = false ∨ (st ≠ 0 ∧ w.clockMayRun k = false)) →
          exec (.setState h p) s = .next (reply w r (w.powerBody 4 d))) ∧
        (k.supports st = true → (st = 0 ∨ w.clockMayRun k = true) →
          (st ≠ 2 → w.secureUsers k ≠ [] → w.userAdmin r.tag (w.secureUsers k) = false → ∃ v, v = State.trace { u with
              pwr := { u.pwr with
                holds := u.pwr.holds ++ [{ domain := d, state := st, tag := r.tag, secure := true }]
                secureHeld := min (u.pwr.secureHeld + 1) 0xFFFF } } 0x4001 [d, worldOf r.tag] ∧
            exec (.setState h p) s = .next (reply v r (v.powerBody 5 d))) ∧
          ((st = 2 ∨ w.secureUsers k = [] ∨ w.userAdmin r.tag (w.secureUsers k) = true) →
            (w.notUser k r.tag = true → exec (.setState h p) s = .next (reply w r (w.powerBody 3 d))) ∧
            (w.notUser k r.tag = false → ∀ v x, (v, x) = u.applyPower d k st r.tag h p false →
              exec (.setState h p) s = .next (reply v r (v.powerBody x d))))))) ∧
  (∀ (s : State) (d st tag : Nat) (k : PwrKind) (h p rel : Bool) (hold : State), hold = { s with pwr := { s.pwr with
      holds := s.pwr.holds ++ [{ domain := d, state := st, tag := tag, released := rel }] } } →
      (st = 2 → (s.dom d).cut = true → s.pwr.clampState ≠ 0 → s.applyPower d k st tag h p rel = (hold, 6)) ∧
      ((st ≠ 2 ∨ (s.dom d).cut = false ∨ s.pwr.clampState = 0) → (∀ b, k ≠ .bank b) →
        ((s.dom d).target = none → s.domState d k = st → s.applyPower d k st tag h p rel = (s, 0)) ∧
        ((s.dom d).target = none → s.domState d k ≠ st → (st = 2 ∨ s.domState d k ≠ 2 ∨ s.domIdle k st h = true) →
          s.applyPower d k st tag h p rel = (s.startDomain d k st, 0)) ∧
        ((s.dom d).target = none → s.domState d k = 2 → st ≠ 2 → s.domIdle k st h = false →
          s.applyPower d k st tag h p rel = (hold, 6)) ∧
        (∀ t, (s.dom d).target = some t →
          (st = t → s.applyPower d k st tag h p rel = (s, 0)) ∧
          (st ≠ t → st ≠ 2 → s.applyPower d k st tag h p rel = (hold, 6)) ∧
          (st ≠ t → st = 2 → s.applyPower d k st tag h p rel = (if p then s.modDom d fun x => { x with latchedOn := true }
            else (s.modDom d fun x => { x with target := none, outcome := 2 }).setDomain k 2, 0)))) ∧
      ((st ≠ 2 ∨ (s.dom d).cut = false ∨ s.pwr.clampState = 0) → ∀ b, k = .bank b → s.applyPower d k st tag h p rel =
        ((s.modDom d fun x => { x with cut := x.cut && st != 2 }).bankPower b st p, 0))) ∧
  (∀ (s w : State) (r : MboxReq) (d : Nat), Serves s 3 2 r w → d = le r.body 2 2 → exec .powerQuery s =
      .next (reply w r (w.powerBody (if (pwrDomain d).isSome then 0 else 2) d))) ∧
  (∀ (s w : State) (r : MboxReq) (x : Nat), Serves s 3 3 r w → x = le r.body 4 2 →
      (w.powerAdmin r.tag = true → 90 ≤ x → x ≤ le (w.sec secPowerplan) 4 2 → exec .setPkgLimit s =
        .next (reply { w with pwr := { w.pwr with pkgLimit := x } } r [0])) ∧
      (w.powerAdmin r.tag = false ∨ x < 90 ∨ le (w.sec secPowerplan) 4 2 < x →
        exec .setPkgLimit s = .next (reply w r [7]))) ∧
  (∀ (s : State) (d tag : Nat) (h : Bool) (x : PwrHold) (k : PwrKind), s.live = true → pwrDomain d = some k →
      (s.holdOf d = none → exec (.powerHeldProceed d h) s = .next s ∧ exec (.secureRel tag d h) s = .next s) ∧
      (s.holdOf d = some x →
        (x.state ≠ 2 → s.secureUsers k ≠ [] → s.userAdmin x.tag (s.secureUsers k) = false → x.released = false →
          exec (.powerHeldProceed d h) s = .next (if x.secure then s else State.trace { s with pwr := { s.pwr with
            holds := s.pwr.holds.map fun y => if y = x then { y with secure := true } else y
            secureHeld := min (s.pwr.secureHeld + 1) 0xFFFF } } 0x4001 [x.domain, worldOf x.tag])) ∧
        (x.state = 2 ∨ s.secureUsers k = [] ∨ s.userAdmin x.tag (s.secureUsers k) = true ∨ x.released = true →
          exec (.powerHeldProceed d h) s = .next (s.proceed x h false)) ∧
        (x.secure = false ∨ s.userAdmin tag (s.secureUsers k) = false → exec (.secureRel tag d h) s = .next s) ∧
        (x.secure = true → s.userAdmin tag (s.secureUsers k) = true →
          exec (.secureRel tag d h) s = .next (State.proceed { s with pwr := { s.pwr with
            holds := s.pwr.holds.map fun y => if y = x then { y with released := true } else y } }
            { x with released := true } h false)))) ∧
  (∀ (s : State) (d t : Nat) (k : PwrKind), s.live = true → pwrDomain d = some k →
      ((s.dom d).target = none → exec (.domainShutdownDone d) s = .next s ∧ exec (.domainPowerUpDone d) s = .next s) ∧
      ((s.dom d).target = some t → t ≠ 2 → exec (.domainPowerUpDone d) s = .next s ∧
        ∃ v, v = (if t = 0 then (s.setDomain k t).domainLost k else s.setDomain k t).modDom d (fun x =>
            { x with target := none, latchedOn := false, outcome := if (s.dom d).latchedOn then 3 else 1 }) ∧
          exec (.domainShutdownDone d) s = .next (if (s.dom d).latchedOn then v.startDomain d k 2 else v)) ∧
      ((s.dom d).target = some 2 → (∀ p, k ≠ .mawyn p) → exec (.domainShutdownDone d) s = .next s ∧
        exec (.domainPowerUpDone d) s = .next ((s.setDomain k 2).modDom d fun x => { x with target := none })) ∧
      ((s.dom d).target = some 2 → ∀ p, k = .mawyn p → exec (.domainShutdownDone d) s = .next s ∧
        ∃ v, v = (s.setDomain k 2).modDom d (fun x => { x with target := none }) ∧
          exec (.domainPowerUpDone d) s = .next (State.portChanged { v with mwl := { v.mwl with
            ports := tmod {} v.mwl.ports p fun x => { x with state := .training } } })))

/-- With the device up: while the firmware serves, DVFS_LOOP moves each running Terrace's voltage by 5 mV by its slack,
inside its point's range; PKG_POWER_LOOP over the limit takes one point from the hottest Terrace that may give one,
Terraces without express Basins first, and with none notes that the limit cannot be met; THERMAL_STEP takes a Terrace
above its target one point down, and below it, not cooling and with the package in its limit, one up. CLAMP_SAMPLE at
a first level throttles and defers an activation not swapped; at 130 C, or a current at its maximum 20 us after
throttling, it cuts the segment. CLAMP_IDLE 1 ms after all is clear removes the limits. WATCHDOG_EXPIRE halts the
firmware and holds each Terrace at the lower of its point and the floor at VMAX. ISLAND_SUPPLY_SWITCH latches cause 9
once; BACKUP_SUPPLY_LOW is counted and reported; ISLAND_SUPPLY_LOSS commands SAFE_N low and ends the device's life.
(14_isolation_and_security.md R391, 15_firmware_power_supplies.md R411, R412, R413, R414, R415, R416, R421, R425,
R426, R427) -/
def Obligations.PowerLoopsAndClamp : Prop :=
  (∀ (s : State) (l : List Int) (j : List Nat), s.live = true →
      (s.fwLoops = false → exec (.dvfsLoop l j) s = .next s) ∧
      (s.fwLoops = true → exec (.dvfsLoop l j) s = .next ((List.range 8).foldl (fun s t => if s.terraceOn t then
        (s.voltageStep t (l.getD t 0)).modTerr t fun x => { x with tj := j.getD t 0 } else s) s))) ∧
  (∀ (s : State) (t : Nat) (d : Int) (p : Nat), p = (s.terr t).point → s.pointField p 2 ≤ s.pointField p 4 →
      ∃ k, s.voltageStep t d = s.modTerr t (fun x => { x with voltage := k }) ∧
        (s.pointField p 2 : Int) ≤ k ∧ k ≤ s.pointField p 4) ∧
  (∀ (s u : State) (m : Nat) (ps : List Nat), s.live = true → u = { s with pwr := { s.pwr with pkgPower := m } } →
      (s.fwLoops = false → exec (.pkgPowerLoop m ps) s = .next s) ∧
      (s.fwLoops = true → m ≤ 10 * s.pwr.pkgLimit → exec (.pkgPowerLoop m ps) s =
        .next { u with pwr := { u.pwr with pkgLimited := false } }) ∧
      (s.fwLoops = true → 10 * s.pwr.pkgLimit < m → ∀ a b,
        a = (List.range 8).filter (fun t => s.terraceOn t && s.expressTerrace t == false && (s.terr t).point < s.slowest t) →
        b = (List.range 8).filter (fun t => s.terraceOn t && s.expressTerrace t == true && (s.terr t).point < s.slowest t) →
        (∀ t, hottest ps (if a = [] then b else a) = some t →
          exec (.pkgPowerLoop m ps) s = .next (u.setPoint t ((s.terr t).point + 1))) ∧
        (a = [] → b = [] → exec (.pkgPowerLoop m ps) s =
          .next (State.trace { u with pwr := { u.pwr with pkgLimited := true } } 0x6001 [m])))) ∧
  (∀ (ps l : List Nat) (t : Nat), hottest ps l = some t → t ∈ l ∧ ∀ u ∈ l, ps.getD u 0 ≤ ps.getD t 0) ∧
  (∀ (s u : State) (t j p : Nat) (x : Terr), s.live = true → p = (s.terr t).point →
      x = { s.terr t with tj := j, cooling := if j > byteAt (s.sec secPowerplan) 8 + 64 then true
        else if j + 2 ≤ byteAt (s.sec secPowerplan) 8 + 64 then false else (s.terr t).cooling } →
      u = s.modTerr t (fun _ => x) →
      (s.fwLoops = false ∨ s.terraceOn t = false → exec (.thermalStep t j) s = .next s) ∧
      (s.fwLoops = true → s.terraceOn t = true → x.cooling = true → exec (.thermalStep t j) s =
        .next (if p < s.slowest t then u.setPoint t (p + 1) else u)) ∧
      (s.fwLoops = true → s.terraceOn t = true → x.cooling = false → exec (.thermalStep t j) s =
        .next (if j < byteAt (s.sec secPowerplan) 8 + 64 ∧ 0 < p ∧ s.pwr.pkgLimited = false ∧
          s.pwr.pkgPower ≤ 10 * s.pwr.pkgLimit then u.setPoint t (p - 1) else u))) ∧
  (∀ (s r u : State) (ts cs : List Nat) (i : Nat) (c : ClampReading), s.live = true → r = s.reach i →
      c = r.clampRead ts cs → u = { r with pwr := { r.pwr with
        tjMax := ts.foldl max 0
        clearNs := if c.clear then r.pwr.clearNs.orElse fun _ => some r.now else none } } →
      (c.trigger = none → r.pwr.clampState = 0 → exec (.clampSample ts cs i) s = .next u) ∧
      (∀ t, c.trigger = some t → r.pwr.clampState = 0 → ∃ v : State, v = { u with pwr := { u.pwr with
          clampState := 1, clampSensor := t, throttles := min (u.pwr.throttles + 1) 0xFFFF, throttleNs := r.now } } ∧
        exec (.clampSample ts cs i) s = .next ((c.hot.eraseDups.filter fun g =>
          g < 22 && !(r.pwr.cutSegs.contains g)).foldl State.cutSegment
          (State.deferUpdate (v.clampStep.trace 0x7001 [t, ts.foldl max 0])))) ∧
      (r.pwr.clampState ≠ 0 → exec (.clampSample ts cs i) s = .next
        (((c.hot ++ (List.range 22).filter fun g => cs.getD g 0 ≥ 2 && r.now ≥ r.pwr.throttleNs + 20000).eraseDups.filter
          fun g => g < 22 && !(r.pwr.cutSegs.contains g)).foldl State.cutSegment u))) ∧
  (∀ (s : State) (t : Nat), s.live = true →
      (s.pwr.clearNs = none ∨ s.pwr.clampState = 0 → exec .clampIdle s = .next s) ∧
      (s.pwr.clearNs = some t → s.pwr.clampState ≠ 0 → ∃ u v : State, u = s.reach (t + 1000000) ∧
        v = { u with pwr := { u.pwr with clampState := 0, cutSegs := [] } } ∧
        exec .clampIdle s = .next (v.clampStep.trace 0x7003 [s.pwr.clampSensor, s.pwr.tjMax]))) ∧
  (∀ s : State, s.live = true →
      (s.stm.fwRunning = false ∨ s.stm.wdogExpired = true → exec .watchdogExpire s = .next s) ∧
      (s.stm.fwRunning = true → s.stm.wdogExpired = false → ∃ t, exec .watchdogExpire s = .next t ∧
        t.stm = { s.stm with wdogExpired := true, fwRunning := false } ∧
        t = { s with stm := t.stm, pwr := { s.pwr with terr := t.pwr.terr }, clocks := t.clocks } ∧
        ∀ k < 8, (t.terr k).point = max (s.terr k).point s.floorPoint ∧
          (t.terr k).voltage = s.pointField (max (s.terr k).point s.floorPoint) 4)) ∧
  (∀ s : State, s.live = true →
      (s.pwr.onBackup = true → exec .islandSupplySwitch s = .next s ∧ exec .backupSupplyLow s = .next s) ∧
      (s.pwr.onBackup = false →
        exec .islandSupplySwitch s = .next (State.latch { s with pwr := { s.pwr with onBackup := true } } 9 0) ∧
        exec .backupSupplyLow s = .next (State.report { s with pwr := { s.pwr with
          bkLow := true, bkLowEvents := min (s.pwr.bkLowEvents + 1) 0xFFFF } } 7 0 0))) ∧
  (∀ s : State, exec .islandSupplyLoss s = .next { s with
      pwr := { s.pwr with islandLost := true }, pins := { s.pins with safeNCmd := false } } ∧
    (s.pwr.islandLost = true → s.live = false))

/-- MEMORY answers CE and UE of the eight controllers. RELOAD outside READY and SAFE is rejected with 0x24; with a reload
in work with 0x23; else it opens, and a length that is not the header's, or out of range, is rejected with 0x05, any
other image enters verification; the answer is empty. FW_LOAD between VERIFYING and ACTIVATING is answered REJECTED
with 0x43 and changes no update; else it enters VERIFYING with the staged image. FW_VERIFY_DONE rejects with the first
fault's code, or leaves the image STAGED. ACTIVATE of a STAGED image makes it ACTIVATING with the clamp IDLE, else
DEFERRED. FW_ABORT discards a staged or deferred image. FW_SWAP with the clamp IDLE starts the copy. FW_COPY_DONE
makes the new SMFW run, counts the activation and keeps the handshakes while the major version matches.
(02_rokel_image_and_startup.md R58, 15_firmware_power_supplies.md R400, R402, R417, R418, R419) -/
def Obligations.FirmwareServices : Prop :=
  (∀ (s w : State) (r : MboxReq), Serves s 4 (byteAt r.body 0) r w → exec .memoryStatus s =
      .next (reply w r ((List.range 8).flatMap fun c =>
        leBytes 2 (min 0xFFFF (w.dramCtrl c).ce) ++ leBytes 2 (min 0xFFFF (w.dramCtrl c).ue)))) ∧
  (∀ (s w : State) (r : MboxReq) (n : Nat), Serves s 5 (byteAt r.body 0) r w → n = le r.body 0 4 →
      (w.boot.phase ≠ .ready → w.boot.phase ≠ .safe → exec .reload s = .next (reply (w.reloadReject 0x24) r [])) ∧
      ((w.boot.phase = .ready ∨ w.boot.phase = .safe) →
        (w.reload.busy = true → exec .reload s = .next (reply (w.reloadReject 0x23) r [])) ∧
        (w.reload.busy = false → ∀ u i, u = w.reloadOpen → i = u.rd rsvBase (min n maxImage) →
          (maxImage < n ∨ n < 256 ∨ imgLen i ≠ n → exec .reload s = .next (reply (u.reloadReject 0x05) r [])) ∧
          (n ≤ maxImage → 256 ≤ n → imgLen i = n → exec .reload s =
            .next (reply { u with reload := { u.reload with state := .verifying, image := i } } r []))))) ∧
  (∀ (s w : State) (r : MboxReq), Serves s 6 1 r w →
      (1 ≤ w.stm.fwState → w.stm.fwState ≤ 4 → exec .fwLoad s =
        .next (reply (State.trace { w with stm := { w.stm with fwCode := 0x43 } } 0x8004 [0x43]) r [6])) ∧
      (w.stm.fwState = 0 ∨ 4 < w.stm.fwState → exec .fwLoad s =
        .next (reply { w with stm := { w.stm with
          fwState := 1, fwCode := 0, fwLen := le r.body 4 4
          fwImage := w.rd rsvBase (min (le r.body 4 4) maxImage) } } r [1]))) ∧
  (∀ s : State, s.live = true →
      (s.stm.fwState ≠ 1 ∨ s.fwLoops = false → exec .fwVerifyDone s = .next s) ∧
      (s.stm.fwState = 1 → s.fwLoops = true →
        (∀ c, s.fwFault s.stm.fwImage s.stm.fwLen = some c → exec .fwVerifyDone s = .next (s.fwReject c)) ∧
        (s.fwFault s.stm.fwImage s.stm.fwLen = none → exec .fwVerifyDone s =
          .next (State.trace { s with stm := { s.stm with fwState := 2 } } 0x8001 [])))) ∧
  (∀ (s w : State) (r : MboxReq), Serves s 6 2 r w →
      (w.stm.fwState ≠ 2 → exec .activate s = .next (reply w r (leBytes 1 w.stm.fwState))) ∧
      (w.stm.fwState = 2 → w.pwr.clampState = 0 →
        exec .activate s = .next (reply { w with stm := { w.stm with fwState := 4 } } r [4])) ∧
      (w.stm.fwState = 2 → w.pwr.clampState ≠ 0 → exec .activate s =
        .next (reply (State.trace { w with stm := { w.stm with fwState := 3 } } 0x8002 []) r [3]))) ∧
  (∀ (s w : State) (r : MboxReq), Serves s 6 3 r w →
      (w.stm.fwState = 2 ∨ w.stm.fwState = 3 → ∃ v, v = w.scrubStaging ∧ exec .fwAbort s =
        .next (reply { v with stm := { v.stm with fwState := 7, fwLen := 0, fwImage := [] } } r [7])) ∧
      (w.stm.fwState ≠ 2 → w.stm.fwState ≠ 3 → exec .fwAbort s = .next (reply w r (leBytes 1 w.stm.fwState)))) ∧
  (∀ s : State, s.live = true →
      ((s.stm.fwState = 3 ∨ s.stm.fwState = 4) → s.fwLoops = true → s.pwr.clampState = 0 → exec .fwSwap s =
        .next { s with stm := { s.stm with fwState := 4, fwSwapped := true } }) ∧
      ((s.stm.fwState ≠ 3 ∧ s.stm.fwState ≠ 4) ∨ s.fwLoops = false ∨ s.pwr.clampState ≠ 0 →
        exec .fwSwap s = .next s)) ∧
  (∀ s : State, s.live = true →
      (s.stm.fwSwapped = false ∨ s.stm.wdogExpired = true → exec .fwCopyDone s = .next s) ∧
      (s.stm.fwSwapped = true → s.stm.wdogExpired = false → ∃ u v : State, u = State.wr { s with
          sections := tset s.sections secSmfw (imgPayload s.stm.fwImage secSmfw)
          boot := { s.boot with buildId := imgBuildId s.stm.fwImage, imageVersion := imgVersion s.stm.fwImage } }
            (logBase + 12) (leBytes 4 (imgFwVersion s.stm.fwImage)) ∧
        v = { u with stm := { u.stm with
          fwState := 5, fwCode := 0, fwSwapped := false, fwLen := 0, fwImage := []
          activations := (u.stm.activations + 1) % 2 ^ 16
          handshakes := if u.matchVersion / 65536 = s.matchVersion / 65536 then u.stm.handshakes else [] } } ∧
        exec .fwCopyDone s = .next (v.trace 0x8003 [])))

/-- With the device running: the end of training of a TRAINING port that is on leaves it FAILED with bad lanes unless one
half is good and MAWYN allows x4, else WRONG_PEER where the peer is not the one wired, else UP x8 or x4 with the
credits of the peer's empty buffers (the model's choice, log entry 124), routes and LINK_STATE follow, and waiting
messages go; LINK_RETRY takes a FAILED or WRONG_PEER port back to TRAINING, and LINK_STATE follows;
CONTROL_SLOT_TIMEOUT retrains an UP port. A block at an UP port: uncorrectable, it is counted and a NAK is due;
corrected, it is counted; out of order, a NAK is due; in order, its acknowledgement, time and delay sample are taken,
and it retrains where it asks so or 65 replays fall in 1 ms; else its credits are added and waiting messages go. An
output sends only a waiting message whose class has credits for all its flits, and of such messages one with PRIO,
unless its flits would make more than seven in a row before a normal one. A LINK_STATE newer than the last one heard
of the device is kept and routes follow; each interval sends one to every other device with a route and changes
nothing but the Mawyn layer; 5 ms of silence ends a device's being heard. A device whose route is lost has its tokens
STALE, unwritten entries (SRC_DEVICE 0) with device 0's, and the transactions to it ended. (16_mawyn_links.md R432,
R433, R434, R441, R443) -/
def Obligations.MawynLinks : Prop :=
  (∀ (s : State) (p bad sys dev pp : Nat) (st : LinkState), s.live = true →
      ((s.mport p).state ≠ .training ∨ s.mportOn p = false → exec (.linkTrainingDone p bad sys dev pp) s = .next s) ∧
      ((s.mport p).state = .training → s.mportOn p = true →
        st = (if bad ≠ 0 ∧ (halfGood bad = false ∨ s.mwField 9 1 ≠ 4) then .failed
          else if sys ≠ s.mwField 0x10 8 ∨ dev ≠ neighbour s.trays s.slots s.ownDevice p ∨ pp ≠ oppositePort p then .wrongPeer
          else if bad = 0 then .upX8 else .upX4) →
        exec (.linkTrainingDone p bad sys dev pp) s = .next ((s.modMport p fun x => { x with
          state := st, lanesBad := bad, rxExpect := 0, ackSeen := 0, prioRun := 0
          credits := (List.range 12).map fun c => (c, Config.initialCredits c)
          peerDevice := if st = .failed then x.peerDevice else dev
          peerPort := if st = .failed then x.peerPort else pp }).portChanged.pump p))) ∧
  (∀ (s : State) (p : Nat), s.live = true →
      ((s.mport p).state = .failed ∨ (s.mport p).state = .wrongPeer → exec (.linkRetry p) s =
        .next (s.modMport p fun x => { x with state := .training }).portChanged) ∧
      ((s.mport p).state ≠ .failed → (s.mport p).state ≠ .wrongPeer → exec (.linkRetry p) s = .next s) ∧
      ((s.mport p).state.up = false → exec (.controlSlotTimeout p) s = .next s) ∧
      ((s.mport p).state.up = true → exec (.controlSlotTimeout p) s = .next (s.modMport p fun x => { x with
        state := .training, retrains := min (x.retrains + 1) 0xFFFF, delays := [], timeValid := false, replayNs := []
        nakDue := false }).portChanged)) ∧
  (∀ (s r u : State) (p i : Nat) (b : Bool) (c : Bytes), s.live = true → r = s.reach i →
      u = (if b then r.modMport p fun x => { x with fecCorrected := min (x.fecCorrected + 1) 0xFFFF } else r) →
      ((s.mport p).state.up = false → exec (.blockReceive p b true c i) s = .next s ∧
        exec (.blockReceive p b false c i) s = .next s) ∧
      ((s.mport p).state.up = true →
        exec (.blockReceive p b false c i) s = .next (r.modMport p fun x =>
          { x with uncorrectable := min (x.uncorrectable + 1) 0xFFFF, nakDue := true }) ∧
        (le c 0 2 ≠ (s.mport p).rxExpect → exec (.blockReceive p b true c i) s =
          .next (u.modMport p fun x => { x with nakDue := true })) ∧
        (le c 0 2 = (s.mport p).rxExpect → ∀ (w v : State) (q : List Nat),
          q = (if bit (byteAt c 4) 0 then (r.now :: (s.mport p).replayNs).take 65 else (s.mport p).replayNs) →
          w = (u.modMport p fun x => { x with
            rxExpect := (le c 0 2 + 1) % 2 ^ 16, ackSeen := le c 2 2, nakDue := false
            txTime := le c 0x18 8, timeValid := bit (byteAt c 4) 1, arrival := r.now
            delays := if le c 0x20 8 = 0 then x.delays
              else (Int.tdiv ((r.now : Int) - le c 0x20 8 - le c 0x28 4) 2 :: x.delays).take 16 }) →
          v = (if bit (byteAt c 4) 0 then w.modMport p fun x => { x with
            replays := min (x.replays + 1) 0xFFFF, replayNs := q } else w) →
          ((bit (byteAt c 4) 2 = true ∨ ∃ t, q[64]? = some t ∧ r.now < t + 1000000) →
            exec (.blockReceive p b true c i) s = .next (v.modMport p fun x => { x with
              state := .training, retrains := min (x.retrains + 1) 0xFFFF, delays := [], timeValid := false
              replayNs := [], nakDue := false }).portChanged) ∧
          (bit (byteAt c 4) 2 = false → (∀ t, q[64]? = some t → t + 1000000 ≤ r.now) →
            exec (.blockReceive p b true c i) s = .next ((v.modMport p fun x => { x with
              credits := (List.range 12).map fun k => (k, tget 0 x.credits k + byteAt c (8 + k)) }).pump p))))) ∧
  (∀ (x : MwlPort) (m : MwlMsg), x.nextMsg = some m →
      m ∈ x.queue ∧ m.flits ≤ tget 0 x.credits m.cls ∧
      (m.prio = true → ∀ n ∈ x.candidates, n.prio = false → x.prioRun + m.flits ≤ 7) ∧
      (m.prio = false → ∀ n ∈ x.candidates, n.prio = true → ∃ k ∈ x.candidates, k.prio = true ∧ 7 < x.prioRun + k.flits)) ∧
  (∀ (s r : State) (f : Bytes) (i d : Nat) (p : MwlPeer), s.live = true → r = s.reach i → Arrives r 0x11 f →
      d = byteAt f 3 → p = tget {} s.mwl.peers d →
      (p.heard = true → (ge32 (le f 0x0C 4) p.seq = false ∨ le f 0x0C 4 = p.seq) →
        exec (.linkState f i) s = .next r) ∧
      ((p.heard = false ∨ (ge32 (le f 0x0C 4) p.seq = true ∧ le f 0x0C 4 ≠ p.seq)) → ∃ q : MwlPeer,
        q = { ports := fld (le f 8 2) 0 4, seq := le f 0x0C 4, heard := true, heardNs := r.now } ∧
        exec (.linkState f i) s = .next (r.modMwl fun m => { m with peers := tset m.peers d q }).recompute)) ∧
  (∀ s : State, s.live = true →
      (s.mawynOn = false → exec .linkStateInterval s = .next s) ∧
      (s.mawynOn = true → ∀ (q : Nat) (t : State), q = (s.mwl.seq + 1) % 2 ^ 32 →
        t = ((List.range 48).filter fun d =>
            d != s.ownDevice && inTorus s.trays s.slots d && (s.routeTo d).isSome).foldl
          (fun s d => s.mwlSend d true (fun fl => mwlHeader 0x11 fl d s.ownDevice 0 0 0 s.ownPorts 0 q 0 0 0 0) [])
          { s with mwl := { s.mwl with seq := q } } →
        exec .linkStateInterval s = .next t ∧ t.mwl.seq = q ∧
        t = { s with mwl := { s.mwl with
          seq := q, sent := t.mwl.sent, dropped := t.mwl.dropped, ports := t.mwl.ports } } ∧
        ∃ l : List MwlMsg, t.mwl.sent = s.mwl.sent ++ l)) ∧
  (∀ (s : State) (d : Nat) (p : MwlPeer), s.live = true → p = tget {} s.mwl.peers d →
      (p.heard = false → exec (.linkStateTimeout d) s = .next s) ∧
      (p.heard = true → exec (.linkStateTimeout d) s = .next ((s.reach (p.heardNs + 5000000)).modMwl fun m =>
        { m with peers := tset m.peers d { p with heard := false } }).recompute)) ∧
  (∀ (s : State) (d : Nat), ∃ l, l = tmap s.sbx.tokens (fun _ t => if t.srcDevice = d then { t with stale := true } else t) ∧
    ∃ u : State, u = { s with sbx := { s.sbx with tokens := l, freshStale := s.sbx.freshStale || d == 0 } } ∧
    s.deviceLost d = ((s.mwl.txns.filter fun e => e.2.dst == d).map (·.1)).foldl (fun s id => s.endTxn id none) u)

/-- With the device running and MAWYN applied, a malformed message is dropped and counted; one for another device enters
the queue of the output that its own route bits name, or is dropped. For this device: a WRITE or READ that its window
refuses is answered ERROR 1 and counted, one whose address no target or link takes ERROR 3; else it is made under the
window's tag, and once its target has answered goes back its data or acknowledgement, ERROR 2 where it was denied or
ERROR 3 where it failed (counted). WRITE_ACK and READ_DATA of a transaction of this device, from its destination and
of its kind, end it and answer its requester; an ERROR is counted and ends it with an error; a TOKEN enters the token
table. APERTURE_ACCESS below the aperture does nothing; one that no window and no route takes is answered with an
error, as is one that the Sluice of its first hop denies; one that the Sluice holds, or that an earlier access of its
tag to its line precedes, waits there; else it is held and goes out as a transaction. TXN_TIMEOUT counts and ends the
transaction with an error. (16_mawyn_links.md R435, R436, R437, R438, R440, R442) -/
def Obligations.MawynTransactions : Prop :=
  (∀ (s : State) (t : Nat) (f d : Bytes) (e : State → State),
      (s.mawynOn = false → s.mwlArrive t f d e = s) ∧
      (s.mawynOn = true → mwlMalformed f = true →
        s.mwlArrive t f d e = { s with mwl := { s.mwl with dropped := min (s.mwl.dropped + 1) 0xFFFF } }) ∧
      (s.mawynOn = true → mwlMalformed f = false → byteAt f 2 ≠ s.ownDevice →
        (s.nextPort f = none →
          s.mwlArrive t f d e = { s with mwl := { s.mwl with dropped := min (s.mwl.dropped + 1) 0xFFFF } }) ∧
        (∀ p, s.nextPort f = some p → s.mwlArrive t f d e = (s.modMport p fun x =>
          { x with queue := x.queue ++ [{ port := p, flit := f, data := d, cls := s.bufferClass f p }] }).pump p)) ∧
      (Arrives s t f → s.mwlArrive t f d e = e s)) ∧
  (∀ (s : State) (f d : Bytes), s.live = true →
      exec (.write f d) s = .next (s.mwlArrive 1 f d fun s => s.inbound f d true) ∧
      exec (.read f) s = .next (s.mwlArrive 2 f [] fun s => s.inbound f [] false)) ∧
  (∀ (s : State) (f d : Bytes) (w : Bool) (n x : Nat), n = le f 0x0A 2 → x = fld (le f 8 2) 0 5 →
      (s.inRefused f w = true → s.inbound f d w =
        State.mwlRespond { s with mwl := { s.mwl with noWindow := min (s.mwl.noWindow + 1) 0xFFFF } } f 5 1 []) ∧
      (s.inRefused f w = false → ∀ o, o = s.blockAccess (fld (s.inField x 2 2) 0 12)
          (fld (s.inField x 8 8) 0 48 + le f 0x10 8) n w (slice d 0 n) →
        (o = none → s.inbound f d w = State.mwlRespond
          { s with mwl := { s.mwl with remoteErrors := min (s.mwl.remoteErrors + 1) 0xFFFF } } f 5 3 []) ∧
        (∀ acc, o = some acc → s.inbound f d w = s.access { acc with origin := .inbound f }))) ∧
  (∀ (s : State) (f : Bytes) (e : AccessError),
      (s.resp.kind = .held → s.settled (.inbound f) e = s) ∧
      (s.resp.kind = .data → s.settled (.inbound f) e =
        if byteAt f 0 = 1 then s.mwlRespond f 3 0 [] else s.mwlRespond f 4 0 s.resp.bytes) ∧
      (s.resp.kind = .error → s.settled (.inbound f) e = State.mwlRespond
        { s with mwl := { s.mwl with remoteErrors := min (s.mwl.remoteErrors + 1) 0xFFFF } } f 5
        (if e = .denied ∨ e = .owner then 2 else 3) [])) ∧
  (∀ (s : State) (f d : Bytes) (t : MwlTxn), s.live = true →
      (Arrives s 3 f → tfind s.mwl.txns (le f 4 2) = some t → t.dst = byteAt f 3 → t.write = true →
        exec (.writeAck f) s = .next (s.endTxn (le f 4 2) (some [])).settle) ∧
      (Arrives s 3 f → (tfind s.mwl.txns (le f 4 2) = none ∨
          tfind s.mwl.txns (le f 4 2) = some t ∧ (t.dst ≠ byteAt f 3 ∨ t.write = false)) →
        exec (.writeAck f) s = .next s) ∧
      (Arrives s 4 f → tfind s.mwl.txns (le f 4 2) = some t → t.dst = byteAt f 3 → t.write = false →
        exec (.readData f d) s = .next (s.endTxn (le f 4 2) (some (slice d 0 t.len))).settle) ∧
      (Arrives s 4 f → (tfind s.mwl.txns (le f 4 2) = none ∨
          tfind s.mwl.txns (le f 4 2) = some t ∧ (t.dst ≠ byteAt f 3 ∨ t.write = true)) →
        exec (.readData f d) s = .next s) ∧
      (Arrives s 5 f → ∃ u : State, u = { s with mwl := { s.mwl with remoteErrors := min (s.mwl.remoteErrors + 1) 0xFFFF } } ∧
        (tfind s.mwl.txns (le f 4 2) = some t → t.dst = byteAt f 3 →
          exec (.error f) s = .next (u.endTxn (le f 4 2) none).settle) ∧
        (tfind s.mwl.txns (le f 4 2) = none → exec (.error f) s = .next u)) ∧
      (Arrives s 0x10 f → exec (.token f) s = .next (s.tokenReceive (le f 0x18 2) (le f 0x1C 4) (byteAt f 3)
        (fld (le f 8 2) 0 12) (le f 0x1A 2)).settle)) ∧
  (∀ (s : State) (src tag a n : Nat) (w : Bool) (d : Bytes) (x : Nat × Nat), s.live = true →
      (a < mawynBase → exec (.apertureAccess src tag a n w d) s = .next s) ∧
      (mawynBase ≤ a → s.target a = .hole → exec (.apertureAccess src tag a n w d) s =
        .next (s.answerError (.core src tag) .denied)) ∧
      (s.target a = .mawyn → x = ((a - mawynBase) / 2 ^ 32, (a - mawynBase) % 2 ^ 32) →
        (s.windowLets x n w = false → exec (.apertureAccess src tag a n w d) s =
          .next (s.answerError (.core src tag) .denied)) ∧
        (s.windowLets x n w = true → ∀ o, o = (s.routeTo (s.outField x.1 1 1)).bind (s.firstHop (s.outField x.1 1 1)) →
          (o = none → exec (.apertureAccess src tag a n w d) s = .next (s.answerError (.core src tag) .denied)) ∧
          (∀ p acc, o = some p → acc = ({
              sluice := 25 + p, tag := tag, addr := a, len := n, write := w, data := d
              origin := .core src tag } : Access) →
            (∀ k, s.judge acc = .deny k → exec (.apertureAccess src tag a n w d) s =
              .next ((s.noteDenial acc k).answerError (.core src tag) .denied)) ∧
            (s.judge acc = .hold ∨ s.judge acc = .grant ∧ s.behindHeld acc = true →
              exec (.apertureAccess src tag a n w d) s =
                .next { s with slc := { s.slc with held := s.slc.held ++ [acc] }, resp := { kind := .held } }) ∧
            (s.judge acc = .grant → s.behindHeld acc = false → exec (.apertureAccess src tag a n w d) s =
              .next (State.tryTxn { s with resp := { kind := .held } }
                { origin := .core src tag, tag := tag, window := x.1, offset := x.2, len := n, write := w, data := d })))))) ∧
  (∀ (s : State) (src tag : Nat) (r : Option Bytes), s.answerTxn (.core src tag) r =
      { s with
        resp := { kind := if r = none then .error else .data, bytes := r.getD [] }
        mwl := { s.mwl with answers := s.mwl.answers ++ [(src, tag, r)] } }) ∧
  (∀ (s : State) (n : Nat) (t : MwlTxn), s.live = true →
      (tfind s.mwl.txns n = none → exec (.txnTimeout n) s = .next s) ∧
      (tfind s.mwl.txns n = some t → ∃ u v : State, u = s.reach (t.sentNs + 1000 * s.mwField 0x0A 2) ∧
        v = { u with mwl := { u.mwl with timeouts := min (u.mwl.timeouts + 1) 0xFFFF } } ∧
        exec (.txnTimeout n) s = .next (v.endTxn n none).settle))

/-- For each command of the supervisor port and the running device: before start-up step 2 and in a freeze the port
answers nothing and nothing changes; a frame whose CRC fails is counted in CRC_ERRORS and answered BAD_CRC; one with
an OPCODE that no row has, a non-zero reserved field, or LAST outside IMAGE_LOAD is answered RESERVED_ENCODING; one
outside its "Accepted" condition NOT_NOW; one whose LENGTH or alignment is out of range BAD_LENGTH; and in each of
these nothing but the port's response and counters changes. The response carries RSTATUS, SEQ, SW, LENGTH 0 and its
CRC-32C. The order of the checks after the CRC is the model's choice (log entry 73).
(17_external_interfaces_electrical.md R447, R449, R450, R451, R452, R456, R457, R462) -/
def Obligations.SupervisorFrames : Prop :=
  (∀ (s : State) (cmd : SupFrame) (b : SupBound) (h : Bool) (i op : Nat) (c : Instr) (accepted shape : Bool) (r : State),
      s.live = true →
      (op, c, accepted, shape, r) ∈
        [(0x01, Instr.statusRead cmd, true, bare cmd && cmd.addr == 0, s),
         (0x02, .heartbeat cmd, true, cmd.length == 4 && cmd.payload.length == 4, s),
         (0x03, .identityRead cmd, s.boot.identityReadable, bare cmd, s),
         (0x08, .regRead cmd b, islandRange cmd || 3 ≤ s.boot.step, regShape cmd && cmd.payload == [], s),
         (0x09, .regWrite cmd b h, islandRange cmd || 3 ≤ s.boot.step, regShape cmd && cmd.payload.length == cmd.length, s),
         (0x0A, .memRead cmd b, s.phaseUp, memShape cmd && cmd.payload == [], s),
         (0x0B, .memWrite cmd b, s.phaseUp, memShape cmd && cmd.payload.length == cmd.length, s),
         (0x10, .imageLoad cmd b, s.loadsBoot || s.loadsPartial, chunkShape cmd, s),
         (0x11, .repairRead cmd b, s.boot.repairUpdated,
           memShape cmd && cmd.payload == [] && cmd.addr + cmd.length ≤ 16384, s),
         (0x20, .safeRequest cmd, true, bare cmd, s),
         (0x21, .counterClear cmd, true, cmd.length == 8 && cmd.payload.length == 8, s),
         (0x22, .timeSet cmd i, true, cmd.length == 16 && cmd.payload.length == 16, s.reach i)] →
      (s.supAnswers = false → exec c s = .next r) ∧
      (s.supAnswers = true → crc32c (frameBytes op cmd) ≠ cmd.crc → exec c s = .next
        ((r.modSup fun x => { x with crcErrors := min (x.crcErrors + 1) 0xFFFF }).respond cmd 1 [])) ∧
      (s.supAnswers = true → crc32c (frameBytes op cmd) = cmd.crc →
        (cmd.opcode ≠ none ∨ 16 ≤ cmd.seq ∨ 2 ≤ cmd.cflags ∨ (cmd.cflags = 1 ∧ op ≠ 0x10) ∨ cmd.res ≠ 0) →
        exec c s = .next (r.respond cmd 2 [])) ∧
      (s.supAnswers = true → crc32c (frameBytes op cmd) = cmd.crc → frameReserved op cmd = false →
        (accepted = false → exec c s = .next (r.respond cmd 4 [])) ∧
        (accepted = true → shape = false → exec c s = .next (r.respond cmd 3 [])))) ∧
  (∀ (s : State) (cmd : SupFrame) (st : Nat) (d e : Bytes), e = (if st = 0 then d else []) →
      ∃ b : Bytes, b = leBytes 1 st ++ leBytes 1 (cmd.seq % 16) ++ leBytes 2 s.statusWord ++ leBytes 4 e.length ++ e ∧
      s.respond cmd st d = { s with sup := { s.sup with response := b ++ leBytes 4 (crc32c b) } })

/-- At start-up step 2 or later, a sound and accepted frame: STATUS_READ answers the normal frame, or the safe-state frame
once the safe state is asserted, and clears ALERT_PENDING; HEARTBEAT answers the CRC-32C of NONCE and HB_COUNT, the
advanced HB_COUNT, FRAME and the island's state; IDENTITY_READ answers the digest and the PUF key; COUNTER_CLEAR
clears a field of a counter register written with all ones, and only it, and answers RESERVED_ENCODING to an ADDR that
names none; TIME_SET answers RESERVED_ENCODING to NS of 10^9 or more, SRC above 16 or non-zero reserved bytes, REFUSED
where TIME_MODE is not GPTP_GM or the time has been stepped, sets the time at once with SRC 0, and else arms it for 2
s. TRANSACTION_ABORT drops the response and is counted. That malformed payloads are answered before REFUSED is the
model's choice (log entry 73). (10_interlocking.md R289, R291, 12_timetable.md R319,
17_external_interfaces_electrical.md R451, R453, R454, R458, R459, R461) -/
def Obligations.SupervisorIslandCommands : Prop :=
  (∀ (s : State) (cmd : SupFrame), Heard s 0x01 cmd → bare cmd = true → cmd.addr = 0 →
      ∃ t : State, t = s.respond cmd 0 (if s.ilk.asserted then s.safeFrame else s.normalFrame) ∧
        exec (.statusRead cmd) s = .next { t with ilk := { t.ilk with alertPending := false } }) ∧
  (∀ (s : State) (cmd : SupFrame) (n : Nat), Heard s 0x02 cmd → cmd.length = 4 → cmd.payload.length = 4 →
      n = (s.sup.hbCount + 1) % 2 ^ 32 →
      exec (.heartbeat cmd) s = .next ((s.modSup fun x => { x with hbCount := n }).respond cmd 0
        (leBytes 4 (crc32c (cmd.payload ++ leBytes 4 n)) ++ leBytes 4 n ++ leBytes 4 s.ilk.frame
          ++ leBytes 1 (pack [(0, ilkStateCode s.boot.ilkState), (3, b2n s.latched), (4, b2n s.ilk.lockstep)]) ++ [0, 0, 0]))) ∧
  (∀ (s : State) (cmd : SupFrame), Heard s 0x03 cmd → bare cmd = true → s.boot.identityReadable = true →
      exec (.identityRead cmd) s = .next (s.respond cmd 0 (slice s.identity 0 48 ++ slice Config.pufPublicKey 0 97))) ∧
  (∀ (s : State) (cmd : SupFrame) (v o : Nat), Heard s 0x21 cmd → cmd.length = 8 → cmd.payload.length = 8 →
      v = leNat cmd.payload → ctlBase ≤ cmd.addr → o = cmd.addr - ctlBase →
      (o = 0x1028 → exec (.counterClear cmd) s = .next (State.respond { s with ilk := { s.ilk with
        tapFailsExpress := if v % 2 ^ 16 = 0xFFFF then 0 else s.ilk.tapFailsExpress
        tapFailsQm := if v / 2 ^ 16 % 2 ^ 16 = 0xFFFF then 0 else s.ilk.tapFailsQm
        ruleFails := if v / 2 ^ 32 % 2 ^ 16 = 0xFFFF then 0 else s.ilk.ruleFails
        agreeForced := if v / 2 ^ 48 % 2 ^ 16 = 0xFFFF then 0 else s.ilk.agreeForced } } cmd 0 [])) ∧
      (o = 0x1038 → exec (.counterClear cmd) s = .next (State.respond { s with ilk := { s.ilk with
        goldenFails := if v / 2 ^ 8 % 2 ^ 8 = 0xFF then 0 else s.ilk.goldenFails } } cmd 0 [])) ∧
      (o = 0x2018 → exec (.counterClear cmd) s = .next ((s.modHdw (s.classShown 0) fun x =>
        { x with maxAge := if v % 2 ^ 32 = 0xFFFFFFFF then 0 else x.maxAge }).respond cmd 0 [])) ∧
      (s.counterClear cmd.addr v = none → exec (.counterClear cmd) s = .next (s.respond cmd 2 []))) ∧
  (∀ (s : State) (a v : Nat), (a < ctlBase ∨ ctlBase + 0x4000 ≤ a) → s.counterClear a v = none) ∧
  (∀ (s r : State) (cmd : SupFrame) (i ns src v : Nat), Heard s 0x22 cmd → cmd.length = 16 → cmd.payload.length = 16 →
      r = s.reach i → ns = le cmd.payload 8 4 → src = byteAt cmd.payload 12 → v = le cmd.payload 0 8 * 1000000000 + ns →
      (1000000000 ≤ ns ∨ 16 < src ∨ zeroAt cmd.payload 13 3 = false →
        exec (.timeSet cmd i) s = .next (r.respond cmd 2 [])) ∧
      (ns < 1000000000 → src ≤ 16 → zeroAt cmd.payload 13 3 = true →
        (r.timeMode ≠ 2 ∨ r.tmt.stepped = true → exec (.timeSet cmd i) s = .next (r.respond cmd 8 [])) ∧
        (r.timeMode = 2 → r.tmt.stepped = false → src = 0 → exec (.timeSet cmd i) s =
          .next ((r.timeSet v r.now).respond cmd 0 [])) ∧
        (r.timeMode = 2 → r.tmt.stepped = false → src ≠ 0 → exec (.timeSet cmd i) s = .next
          ((r.modTmt fun t => { t with
            armedSet := some { src := src, valueNs := v, lapseNs := r.now + 2000000000 } }).respond cmd 0 [])))) ∧
  (∀ s : State, s.live = true →
      (s.supAnswers = false → exec .transactionAbort s = .next s) ∧
      (s.supAnswers = true → exec .transactionAbort s = .next (s.modSup fun x =>
        { x with aborts := min (x.aborts + 1) 0xFFFF, response := [] })))

/-- A sound, accepted frame of the right shape: REG_READ and REG_WRITE make one control-bus access after another over the
port's own path, of 8 B where address and rest allow it and else of 4 B, and end at the first that is not answered;
MEM_READ and MEM_WRITE go line by line under tag 0x0FE; REPAIR_READ gives bytes of the sealed REPAIR payload. One
denied is answered DENIED, else OK with the data. Of the bulk path (not the island's registers), a command that misses
its bound is answered TIMEOUT and counted, with its whole effect or none. The sizes of the accesses and an access held
up by its target being answered TIMEOUT are the model's choice (log entry 74). (17_external_interfaces_electrical.md
R451, R452, R453, R457, R462, 18_registers_and_counters.md R482) -/
def Obligations.SupervisorTransfers : Prop :=
  (∀ (s : State) (cmd : SupFrame) (b : SupBound), Heard s 0x08 cmd → (islandRange cmd = true ∨ 3 ≤ s.boot.step) →
      regShape cmd = true → cmd.payload = [] →
      ∃ r, r = State.regsRead 64 cmd.addr cmd.length s ∧
      (islandRange cmd = true ∨ b = .met →
        (∀ d, r.1 = some d → exec (.regRead cmd b) s = .next (r.2.respond cmd 0 d)) ∧
        (r.1 = none → exec (.regRead cmd b) s = .next (r.2.respond cmd 6 []))) ∧
      (islandRange cmd = false → b = .lateDone → exec (.regRead cmd b) s = .next
        ((r.2.modSup fun x => { x with timeouts := min (x.timeouts + 1) 0xFFFF }).respond cmd 5 [])) ∧
      (islandRange cmd = false → b = .lateLost → exec (.regRead cmd b) s = .next
        ((s.modSup fun x => { x with timeouts := min (x.timeouts + 1) 0xFFFF }).respond cmd 5 []))) ∧
  (∀ (s : State) (cmd : SupFrame) (b : SupBound) (h : Bool), Heard s 0x09 cmd → (islandRange cmd = true ∨ 3 ≤ s.boot.step) →
      regShape cmd = true → cmd.payload.length = cmd.length →
      ∃ r, r = State.regsWrite 64 cmd.addr cmd.payload h s ∧
      (islandRange cmd = true ∨ b = .met →
        exec (.regWrite cmd b h) s = .next (r.2.respond cmd (if r.1 then 0 else 6) [])) ∧
      (islandRange cmd = false → b = .lateDone → exec (.regWrite cmd b h) s = .next
        ((r.2.modSup fun x => { x with timeouts := min (x.timeouts + 1) 0xFFFF }).respond cmd 5 [])) ∧
      (islandRange cmd = false → b = .lateLost → exec (.regWrite cmd b h) s = .next
        ((s.modSup fun x => { x with timeouts := min (x.timeouts + 1) 0xFFFF }).respond cmd 5 []))) ∧
  (∀ (s u : State) (f a n k : Nat) (d : Bytes) (h : Bool), k = (if a % 8 = 0 ∧ 8 ≤ n then 8 else 4) →
      (n ≠ 0 → u = s.pathAccess 0 a k false [] false →
        (u.answered = false → State.regsRead (f + 1) a n s = (none, u)) ∧
        (u.answered = true → State.regsRead (f + 1) a n s =
          (((State.regsRead f (a + k) (n - k) u).1.map (slice u.resp.bytes 0 k ++ ·)),
            (State.regsRead f (a + k) (n - k) u).2))) ∧
      (d ≠ [] → n = d.length → u = s.pathAccess 0 a k true (d.take k) h →
        (u.answered = false → State.regsWrite (f + 1) a d h s = (false, u)) ∧
        (u.answered = true → State.regsWrite (f + 1) a d h s = State.regsWrite f (a + k) (d.drop k) h u)) ∧
      State.regsRead (f + 1) a 0 s = (some [], s) ∧ State.regsWrite (f + 1) a [] h s = (true, s)) ∧
  (∀ (s : State) (cmd : SupFrame) (b : SupBound), Heard s 0x0A cmd → s.phaseUp = true → memShape cmd = true →
      cmd.payload = [] → ∃ r, r = State.linesRead (cmd.length / 64) cmd.addr s ∧
      (b = .met → r.1 ≠ 5 → exec (.memRead cmd b) s = .next (r.2.2.respond cmd r.1 r.2.1)) ∧
      (b = .lateDone ∨ (b = .met ∧ r.1 = 5) → exec (.memRead cmd b) s = .next
        ((r.2.2.modSup fun x => { x with timeouts := min (x.timeouts + 1) 0xFFFF }).respond cmd 5 [])) ∧
      (b = .lateLost → exec (.memRead cmd b) s = .next
        ((s.modSup fun x => { x with timeouts := min (x.timeouts + 1) 0xFFFF }).respond cmd 5 []))) ∧
  (∀ (s : State) (cmd : SupFrame) (b : SupBound), Heard s 0x0B cmd → s.phaseUp = true → memShape cmd = true →
      cmd.payload.length = cmd.length → ∃ r, r = State.linesWrite (cmd.length / 64) cmd.addr cmd.payload s ∧
      (b = .met → r.1 ≠ 5 → exec (.memWrite cmd b) s = .next (r.2.respond cmd r.1 [])) ∧
      (b = .lateDone ∨ (b = .met ∧ r.1 = 5) → exec (.memWrite cmd b) s = .next
        ((r.2.modSup fun x => { x with timeouts := min (x.timeouts + 1) 0xFFFF }).respond cmd 5 [])) ∧
      (b = .lateLost → exec (.memWrite cmd b) s = .next
        ((s.modSup fun x => { x with timeouts := min (x.timeouts + 1) 0xFFFF }).respond cmd 5 []))) ∧
  (∀ (s u : State) (n a c : Nat) (d : Bytes),
      (u = s.devRead 0x0FE a 64 → c = (if u.resp.kind = .data then 0 else if u.resp.kind = .held then 5 else 6) →
        State.linesRead (n + 1) a s = if c = 0 then
          ((State.linesRead n (a + 64) u).1, slice u.resp.bytes 0 64 ++ (State.linesRead n (a + 64) u).2.1,
            (State.linesRead n (a + 64) u).2.2) else (c, [], u)) ∧
      (u = s.devWrite 0x0FE a (d.take 64) →
        c = (if u.resp.kind = .data then 0 else if u.resp.kind = .held then 5 else 6) →
        State.linesWrite (n + 1) a d s = if c = 0 then State.linesWrite n (a + 64) (d.drop 64) u else (c, u))) ∧
  (∀ (s : State) (cmd : SupFrame) (b : SupBound), Heard s 0x11 cmd → s.boot.repairUpdated = true → memShape cmd = true →
      cmd.payload = [] → cmd.addr + cmd.length ≤ 16384 →
      (b = .met → exec (.repairRead cmd b) s = .next (s.respond cmd 0 (slice s.repair.sealed cmd.addr cmd.length))) ∧
      (b ≠ .met → exec (.repairRead cmd b) s = .next
        ((s.modSup fun x => { x with timeouts := min (x.timeouts + 1) 0xFFFF }).respond cmd 5 [])))

/-- A sound IMAGE_LOAD frame while a boot or partial image is accepted, completed within its bound: a chunk that repeats
ADDR, LENGTH and CRC of the last is answered OK and nothing else changes; LENGTH 0 at ADDR 0 abandons an open image
and scrubs staging, and elsewhere is BAD_LENGTH; a start shorter than the header, or a chunk past IMAGE_LEN or with
LAST not at the end, is BAD_LENGTH; an ADDR that is not the sum of the earlier lengths, or no open image, is SEQUENCE;
a chunk in order is written to staging and the open image goes on, and with LAST the verification starts: of a boot
image its bytes are staged, of a partial image the reload's. A start longer than the limit is answered OK and rejects
the image with 0x05; so does a partial image's start with 0x23 while another reload is verified or armed. In every
case the command completes; past its bound it is answered TIMEOUT with its whole effect or none.
(02_rokel_image_and_startup.md R34, R59, 17_external_interfaces_electrical.md R451, R452, R453, R456) -/
def Obligations.ImageLoadChunks : Prop :=
  (∀ (s : State) (cmd : SupFrame) (b : SupBound), Heard s 0x10 cmd → (s.loadsBoot = true ∨ s.loadsPartial = true) →
      chunkShape cmd = true → ∃ r, r = s.imageChunk cmd ∧
      (b = .met → exec (.imageLoad cmd b) s = .next (r.2.respond cmd r.1 [])) ∧
      (b = .lateDone → exec (.imageLoad cmd b) s = .next
        ((r.2.modSup fun x => { x with timeouts := min (x.timeouts + 1) 0xFFFF }).respond cmd 5 [])) ∧
      (b = .lateLost → exec (.imageLoad cmd b) s = .next
        ((s.modSup fun x => { x with timeouts := min (x.timeouts + 1) 0xFFFF }).respond cmd 5 []))) ∧
  (∀ (s : State) (cmd : SupFrame),
      (s.sup.lastChunk = some (cmd.addr, cmd.length, cmd.crc) → s.imageChunk cmd = (0, s)) ∧
      (s.sup.lastChunk ≠ some (cmd.addr, cmd.length, cmd.crc) →
        (cmd.length = 0 → cmd.addr = 0 → cmd.cflags = 0 → s.imageChunk cmd = (0, s.loadAbandon)) ∧
        (cmd.length = 0 → (cmd.addr ≠ 0 ∨ cmd.cflags ≠ 0) → s.imageChunk cmd = (3, s)) ∧
        (cmd.addr = 0 → 0 < cmd.length → cmd.length < 256 → s.imageChunk cmd = (3, s)) ∧
        (cmd.addr = 0 → 256 ≤ cmd.length →
          (maxImage < imgLen cmd.payload → s.imageChunk cmd = (0, s.loadOpen cmd)) ∧
          (imgLen cmd.payload ≤ maxImage → chunkFits cmd (imgLen cmd.payload) = false → s.imageChunk cmd = (3, s)) ∧
          (chunkFits cmd (imgLen cmd.payload) = true → s.imageChunk cmd = (0, s.loadOpen cmd))) ∧
        (cmd.addr ≠ 0 → 0 < cmd.length →
          ((∀ x, s.sup.image = some x → cmd.addr ≠ x.next) → s.imageChunk cmd = (7, s)) ∧
          (∀ x, s.sup.image = some x → cmd.addr = x.next →
            (chunkFits cmd x.len = false → s.imageChunk cmd = (3, s)) ∧
            (chunkFits cmd x.len = true → s.imageChunk cmd = (0, s.loadChunk cmd x)))))) ∧
  (∀ (cmd : SupFrame) (n : Nat), chunkFits cmd n = true ↔
      cmd.addr + cmd.length ≤ n ∧ (cmd.cflags = 1 → cmd.addr + cmd.length = n)) ∧
  (∀ (s u v : State) (cmd : SupFrame) (x y : SupImage), y = { x with next := cmd.addr + cmd.length } →
      u = (s.wr (rsvBase + cmd.addr) cmd.payload).modSup (fun z => { z with
        image := some y, lastChunk := some (cmd.addr, cmd.length, cmd.crc) }) →
      v = u.modSup (fun z => { z with image := none }) →
      (cmd.cflags ≠ 1 → s.loadChunk cmd x = u) ∧
      (cmd.cflags = 1 → x.partialImage = true → s.loadChunk cmd x = v.reloadStaged (u.rd rsvBase x.len)) ∧
      (cmd.cflags = 1 → x.partialImage = false → s.loadChunk cmd x = { v with boot := { v.boot with
        imageStaged := true, image := u.rd rsvBase x.len, bootSrc := .supervisor, ilkState := .verify } })) ∧
  (∀ (s u : State) (cmd : SupFrame), u = s.modSup (fun y => { y with
        lastChunk := some (cmd.addr, cmd.length, cmd.crc), image := none }) →
      (u.phaseUp = true → u.reload.state ≠ .verifying → u.reload.armed = false →
        (maxImage < imgLen cmd.payload → s.loadOpen cmd = u.reloadOpen.reloadReject 0x05) ∧
        (imgLen cmd.payload ≤ maxImage → s.loadOpen cmd =
          u.reloadOpen.scrubStaging.loadChunk cmd { partialImage := true, len := imgLen cmd.payload })) ∧
      (u.phaseUp = true → (u.reload.state = .verifying ∨ u.reload.armed = true) → s.loadOpen cmd = u.reloadReject 0x23) ∧
      (u.phaseUp = false → ∃ w : State, w = (if u.boot.phase = .failed then u.restartLoad else u) ∧
        ∃ z : State, z = { w with boot := { w.boot with
          imageStaged := false, image := [], bootSrc := .supervisor, ilkState := .rom } } ∧
        (imgLen cmd.payload ≤ maxImage → s.loadOpen cmd =
          z.scrubStaging.loadChunk cmd { partialImage := false, len := imgLen cmd.payload }) ∧
        (maxImage < imgLen cmd.payload → s.loadOpen cmd = z.bootFail { code := 0x05 } true))) ∧
  (∀ s : State, (s.sup.image = none → s.loadAbandon = s) ∧
      (∀ (x : SupImage) (u : State), s.sup.image = some x →
        u = s.scrubStaging.modSup (fun y => { y with image := none, lastChunk := none }) →
        s.loadAbandon = if x.partialImage then u.modReload fun r => { r with state := .idle } else u))

/-- A SAFE_REQUEST frame that the port hears, of ADDR 0x5AFE_000D: where no cause is latched, the cause SUPERVISOR_REQUEST
(0x0D) with SUBCAUSE 0 is latched at this instant, with the response OK, and SAFE_N_ASSERT, the last step of R291's
chain, then runs as soon as no header write is still pending; a later cause leaves the first. Any other ADDR is
answered RESERVED_ENCODING and changes nothing but the response. (17_external_interfaces_electrical.md R460) -/
def Obligations.SafeRequest : Prop :=
  ∀ (s : State) (cmd : SupFrame), Heard s 0x20 cmd → cmd.length = 0 → cmd.payload = [] →
    (cmd.addr = 0x5AFE000D → ∃ t, exec (.safeRequest cmd) s = .next t ∧
      t = (s.latch 0x0D 0).respond cmd 0 [] ∧ t.latched = true ∧
      (s.ilk.safeCause = 0 → t.ilk.safeCause = 0x0D ∧ t.ilk.safeSub = 0 ∧ t.ilk.detectNs = s.now) ∧
      (s.ilk.safeCause ≠ 0 → t.ilk.safeCause = s.ilk.safeCause ∧ t.ilk.safeSub = s.ilk.safeSub ∧
        t.ilk.detectNs = s.ilk.detectNs) ∧
      (s.ilk.asserted = false → s.ilk.headers = [] →
        ∃ u, exec .safeNAssert t = .next u ∧ u.ilk.asserted = true ∧ u.pins.safeNCmd = false)) ∧
    (cmd.addr ≠ 0x5AFE000D → exec (.safeRequest cmd) s = .next (s.respond cmd 2 []))

/-- In every state: EXTEST, SAMPLE/PRELOAD, CLAMP and HIGHZ load their code; EXTEST, CLAMP and HIGHZ are in force, and
SAFE_N pulled low, only while PORST_N is low or the device is FROZEN. IDCODE shifts 0x3B048B4F; BYPASS shifts its
input one bit late after a 0; FREEZE_STATUS shifts FROZEN, SOURCE, READOUT_ENABLED and ROTATION_PENDING. While not
FROZEN the scan, memory and release instructions change nothing but the loaded instruction and shift zeros. While
FROZEN: SCAN_SELECT selects a chain unless a rotation is pending; SCAN_READ shifts a multiple of the chain's length
for no rotation to be pending; MEM_SELECT takes MEM_ID, ECC and START_WORD; MEM_READ shifts 64 or 72 bits a word and
zeros past the end; RELEASE ends an event freeze unless a rotation is pending. Without TAP_READOUT every chain and
memory shifts zeros. That MEM_READ goes on from the word after the last is the model's reading (log entry 63).
(12_timetable.md R335, 14_isolation_and_security.md R388, 18_registers_and_counters.md R492, R493, R494, R495, R496) -/
def Obligations.TapInstructions : Prop :=
  (∀ (s : State) (c : Instr) (code : Nat), (c, code) ∈
        [(Instr.extest, 0x00), (.samplePreload, 0x02), (.clamp, 0x03), (.highz, 0x04)] →
      exec c s = .next (s.modTapPort fun t => { t with instr := code, out := (0, 0) })) ∧
  (∀ s : State, (s.boundaryInForce = true ↔ s.tapPort.instr ∈ [0x00, 0x03, 0x04] ∧
        (s.pins.porstN = false ∨ s.tmt.freeze = .frozen)) ∧
      (s.boundaryInForce = true → s.safeNPulled = true)) ∧
  (∀ (s : State) (bits count : Nat),
      exec .idcode s = .next (s.modTapPort fun t => { t with instr := 0x01, out := (32, 0x3B048B4F) }) ∧
      exec (.bypass bits count) s = .next (s.modTapPort fun t =>
        { t with instr := 0xFF, out := (count, 2 * bits % 2 ^ count) }) ∧
      exec .freezeStatus s = .next (s.modTapPort fun t => { t with
        instr := 0x10
        out := (8, pack [(0, b2n s.frozen), (1, b2n s.tmt.freezeByEvent), (2, b2n s.tapReadout),
          (3, b2n (s.tapPort.shifted != 0))]) })) ∧
  (∀ (s : State) (n : Nat), s.tmt.freeze ≠ .frozen →
      exec (.scanSelect n) s = .next (s.tapLoad 0x11) ∧ exec (.tapMemSelect n) s = .next (s.tapLoad 0x13) ∧
      exec .release s = .next (s.tapLoad 0x18) ∧
      exec (.scanRead n) s = .next ((s.tapLoad 0x12).modTapPort fun t => { t with out := (n, 0) }) ∧
      exec (.tapMemRead n) s = .next ((s.tapLoad 0x14).modTapPort fun t =>
        { t with out := ((if s.tapPort.memEcc then 72 else 64) * n, 0) })) ∧
  (∀ (s : State) (n c l : Nat), s.tmt.freeze = .frozen → c = s.tapPort.chain → l = chainLength c →
      (s.tapPort.shifted = 0 → exec (.scanSelect n) s = .next ((s.tapLoad 0x11).modTapPort fun t => { t with chain := n })) ∧
      (s.tapPort.shifted ≠ 0 → exec (.scanSelect n) s = .next (s.tapLoad 0x11) ∧
        exec .release s = .next (s.tapLoad 0x18)) ∧
      (∃ v, exec (.scanRead n) s = .next ((s.tapLoad 0x12).modTapPort fun t =>
          { t with out := (n, v), shifted := (s.tapPort.shifted + n) % l }) ∧
        (s.tapReadout = false → v = 0) ∧
        (∀ k < n, v.testBit k = (s.tapReadout && l != 0 && Config.scanBit s.freeCtr c ((s.tapPort.shifted + k) % l)))) ∧
      exec (.tapMemSelect n) s = .next ((s.tapLoad 0x13).modTapPort fun t =>
        { t with memId := n % 2 ^ 16, memEcc := bit n 16, memWord := n / 2 ^ 24 % 2 ^ 32 }) ∧
      (∃ v w : Nat, w = (if s.tapPort.memEcc then 72 else 64) ∧
        exec (.tapMemRead n) s = .next ((s.tapLoad 0x14).modTapPort fun t =>
          { t with out := (w * n, v), memWord := s.tapPort.memWord + n }) ∧
        (∀ k < n, v / 2 ^ (w * k) % 2 ^ w =
          (if s.tapReadout && s.tapPort.memWord + k < memoryWords s.tapPort.memId then
            s.tapWord s.tapPort.memId (s.tapPort.memWord + k) % 2 ^ w else 0))) ∧
      (s.tapPort.shifted = 0 → s.tmt.freezeByEvent = true → exec .release s = .next (s.tapLoad 0x18).releaseFreeze) ∧
      (s.tmt.freezeByEvent = false → exec .release s = .next (s.tapLoad 0x18))) ∧
  (∀ (s : State) (id w a : Nat), s.storedWord id w = some a → s.tapWord id w % 2 ^ 64 = s.rdLe a 8) ∧
  chainLength 1 = 3211264 ∧ chainLength 12 = 131072 ∧ chainLength 62 = 0 ∧ chainLength 72 = 8192 ∧
  memoryWords 0x0100 = 265216 ∧ memoryWords 0x0207 = 530432 ∧ memoryWords 0x0208 = 0

/-- DEBUG loads its instruction in every state; while the device does not run the harts give no answer. Otherwise a
request to a hart inside an enclave without DEBUG is held, if a halt, until the hart exits, and else finds it
unavailable; a request whose world's enable is clear finds the hart unavailable (reads and trace need INV or NON_INV,
the others INV); one that is allowed is done: a halt halts the hart, a resume lets it run, a read answers with a free
value, and every halt, step or write breaks the lock-step of the hart's pair: of a real-time hart its pair, of a hart
of the Interlocking its cores. Which requests the debug module makes and the answers to a hart inside an enclave are
the model's reading (log entry 60). (10_interlocking.md R264, R265, 14_isolation_and_security.md R387,
18_registers_and_counters.md R492) -/
def Obligations.DebugRequests : Prop :=
  (∀ (s t : State) (h q : Nat), t = s.tapLoad 0x1F →
      (s.live = false → exec (.debug h q) s = .next (t.modTapPort fun p => { p with dmi := .unavailable })) ∧
      (s.live = true → (s.hart h).enclave ≠ 0 → (s.enclave (s.hart h).enclave).debug = false →
        (q = 0 → exec (.debug h q) s = .next ((t.modHart h fun x => { x with haltHeld := true }).modTapPort fun p =>
          { p with dmi := .held })) ∧
        (q ≠ 0 → exec (.debug h q) s = .next (t.modTapPort fun p => { p with dmi := .unavailable }))) ∧
      (s.live = true → ((s.hart h).enclave = 0 ∨ (s.enclave (s.hart h).enclave).debug = true) →
        (bit s.slc.dbgInv (s.debugWorld h) = false → (q ≠ 3 ∨ bit s.slc.dbgNonInv (s.debugWorld h) = false) →
          exec (.debug h q) s = .next (t.modTapPort fun p => { p with dmi := .unavailable })) ∧
        ((bit s.slc.dbgInv (s.debugWorld h) = true ∨ (q = 3 ∧ bit s.slc.dbgNonInv (s.debugWorld h) = true)) →
          exec (.debug h q) s = .next (t.debugAct h q)))) ∧
  (∀ (s u : State) (h : Nat), u = s.modTapPort (fun p => { p with dmi := .done }) →
      (h < 16 → s.debugAct h 0 = u.modHart h (fun x => { x with debugHalted := true }) ∧
        s.debugAct h 1 = u ∧ s.debugAct h 2 = u) ∧
      (16 ≤ h → h < 20 → s.debugAct h 1 = u.breakPair ((h - 16) % 2) ∧ s.debugAct h 2 = u.breakPair ((h - 16) % 2) ∧
        s.debugAct h 0 = (u.modHart h fun x => { x with debugHalted := true }).breakPair ((h - 16) % 2)) ∧
      (20 ≤ h → s.debugAct h 1 = u.breakLockstep ∧ s.debugAct h 2 = u.breakLockstep ∧
        s.debugAct h 0 = (u.modHart h fun x => { x with debugHalted := true }).breakLockstep) ∧
      s.debugAct h 4 = u.modHart h (fun x => { x with debugHalted := false }) ∧
      (∃ v, s.debugAct h 3 = { u with freeCtr := s.freeCtr + 1, tapPort := { u.tapPort with out := (64, v) } }))

/-- With the device running, VERTICAL_BLANK of a stream whose domain or the Fountain's is off changes only the time.
Otherwise the frame scanned out is counted, with its underruns, where the stream was active; EN takes effect, the
hot-plug level is kept, and where EN is set the eight descriptors of the list are read in order under FTN_TAG. A
descriptor not read, or without ENABLE, shows no layer; one with a reserved value or outside its stream is counted in
BAD_DESC and shows none; one without AGE_CHECK is shown; one with it is shown only if its header is readable, has the
magic, its CRC and a status that allows it, and the time is valid and not past the header's age, and else is counted
stale and replaced as its flag says. (17_external_interfaces_electrical.md R464, R465, R466,
18_registers_and_counters.md R488) -/
def Obligations.DisplayBlanks : Prop :=
  (∀ (s r : State) (n w h u i : Nat) (p : Bool), s.live = true → r = s.reach i →
      (s.streamOn n = false → exec (.verticalBlank n w h u p i) s = .next r) ∧
      (s.streamOn n = true → ∃ v : State, v = r.modStream n (fun x => { x with
          frames := if x.active then (x.frames + 1) % 2 ^ 32 else x.frames
          underrun := if x.active then min 0xFFFF (x.underrun + u) else x.underrun
          hpd := p, active := x.en, layers := [] }) ∧
        ((s.stream n).en = false → exec (.verticalBlank n w h u p i) s = .next v) ∧
        ((s.stream n).en = true → exec (.verticalBlank n w h u p i) s = .next
          ((((((((v.readLayer n 0 w h).readLayer n 1 w h).readLayer n 2 w h).readLayer n 3 w h).readLayer n 4 w h).readLayer
            n 5 w h).readLayer n 6 w h).readLayer n 7 w h)))) ∧
  (∀ (s v : State) (n k w h : Nat) (d : Bytes), v = s.devRead s.ftnTag ((s.stream n).listBase + 64 * k) 64 →
      d = v.resp.bytes →
      (v.answered = false → s.readLayer n k w h = v) ∧
      (v.answered = true → bit (byteAt d 0) 0 = false → s.readLayer n k w h = v) ∧
      (v.answered = true → bit (byteAt d 0) 0 = true → layerOk d w h = false →
        s.readLayer n k w h = v.modStream n fun x => { x with badDesc := min (x.badDesc + 1) 0xFFFF }) ∧
      (v.answered = true → bit (byteAt d 0) 0 = true → layerOk d w h = true →
        (bit (byteAt d 0) 1 = false → s.readLayer n k w h = v.modStream n fun x =>
          { x with layers := x.layers ++ [(k, 0)] }) ∧
        (bit (byteAt d 0) 1 = true → ∃ z : State, z = v.devRead v.ftnTag (le d 0x28 8 % 2 ^ 48) 64 ∧
          ∃ b : Bytes, b = z.resp.bytes ∧
          (z.answered = true → z.tmt.valid = true → le b 0 4 = 0x01525354 → le b 0x3C 4 = crc32c (slice b 0 0x3C) →
            byteAt b 4 ∈ [0xA5, 0xA6, 0x20] → z.now ≤ le b 0x10 8 * 1000000000 + le b 0x18 4 + 64 * le b 0x20 4 →
            s.readLayer n k w h = z.modStream n fun x => { x with layers := x.layers ++ [(k, 0)] }) ∧
          (z.answered = false ∨ z.tmt.valid = false ∨ le b 0 4 ≠ 0x01525354 ∨
              le b 0x3C 4 ≠ crc32c (slice b 0 0x3C) ∨ byteAt b 4 ∉ [0xA5, 0xA6, 0x20] ∨
              le b 0x10 8 * 1000000000 + le b 0x18 4 + 64 * le b 0x20 4 < z.now →
            s.readLayer n k w h = z.modStream n fun x => { x with
              stale := min (x.stale + 1) 0xFFFF
              layers := x.layers ++ [(k, if bit (byteAt d 0) 2 then 2 else 1)] }))))

/-- For every command c, state s and rest of the queue: a step of s with c at the front is exec of c on s with the rest.
With an empty queue one reference cycle of the Timetable passes: while the counter runs NOW advances by 1 ns + RATE x
2^-32 ns, and nothing else changes; under PORST_N or in a freeze nothing changes. That a step on an empty queue is one
cycle of the reference is the model's choice (log entry 1). (12_timetable.md R314, R315, R321) -/
def Obligations.StepRunsFrontCommand : Prop :=
  (∀ (c : Instr) (s : State) (rest : List Instr),
      step { s with pending := c :: rest } = exec c { s with pending := rest }) ∧
  (∀ (s : State) (v : Nat), s.pending = [] → s.pins.porstN = true → s.tmt.freeze = .running →
      (v : Int) = max 0 ((s.tmt.nowFrac : Int) + 2 ^ 32 + s.tmt.rate) →
      step s = .next { s with tmt := { s.tmt with nowNs := s.tmt.nowNs + v / 2 ^ 32, nowFrac := v % 2 ^ 32 } }) ∧
  (∀ s : State, s.pending = [] → (s.pins.porstN = false ∨ s.tmt.freeze ≠ .running) → step s = .next s)

/-- For every command and every state: exec answers a next state, with the queue as it was and no index of a free value
used again. Unless the command pulls a reset pin low, a latched safe-state cause keeps its code, its SUBCAUSE and its
instant (R290), and an asserted safe state stays asserted. The queue is the model's own. (10_interlocking.md R290) -/
def Obligations.EveryCommandCompletes : Prop :=
  ∀ (c : Instr) (s : State), ∃ t, exec c s = .next t ∧ t.pending = s.pending ∧ s.freeCtr ≤ t.freeCtr ∧
    (c ≠ .porstNAssert → c ≠ .resetNAssert →
      (s.ilk.safeCause ≠ 0 → t.ilk.safeCause = s.ilk.safeCause ∧ t.ilk.safeSub = s.ilk.safeSub ∧
        t.ilk.detectNs = s.ilk.detectNs) ∧
      (s.ilk.asserted = true → t.ilk.asserted = true))

/-- In a state with a reset pin low, FROZEN, or with both island supplies lost, every command but the reset pins, the
supply and reference-clock events, FREEZE_N and the test access port leaves the whole state as it is. A state with
both reset pins high, not FROZEN and with a supply is one that runs. (02_rokel_image_and_startup.md R30,
12_timetable.md R332, R334, 15_firmware_power_supplies.md R424) -/
def Obligations.NothingActsWhileStopped : Prop :=
  (∀ (c : Instr) (s : State),
      (s.pins.porstN = false ∨ s.pins.resetN = false ∨ s.tmt.freeze = .frozen ∨ s.pwr.islandLost = true) →
      alwaysActs c = false → exec c s = .next s) ∧
  (∀ s : State, s.live = true ↔ s.pins.porstN = true ∧ s.pins.resetN = true ∧ s.tmt.freeze ≠ .frozen ∧
      s.pwr.islandLost = false)

/-- A step from a state that keeps the invariant, before which SAFE_N is commanded low and after which it is commanded
high, runs SAFE_N_RELEASE, and before it the device ran, PHASE was READY, ILK_STATE WAIT_TIME, the Interlocking
verified and in lock-step (not split), its self-test and golden start-up passed, the time valid and no cause latched.
Hence through start-up, before PHASE READY, no step drives SAFE_N high. After a step that leaves a reset pin low
SAFE_N is commanded low. (02_rokel_image_and_startup.md R31) -/
def Obligations.OnlyTheInterlockingReleasesSafeN : Prop :=
  (∀ s t : State, Inv s → step s = .next t → s.pins.safeNCmd = false → t.pins.safeNCmd = true →
      s.pending.head? = some .safeNRelease ∧ s.live = true ∧ s.boot.phase = .ready ∧ s.boot.ilkState = .waitTime ∧
      s.boot.ilkVerified = true ∧ byteAt (s.sec secIsland) 0 ≠ 1 ∧ s.ilk.lockstep = true ∧ s.boot.selftestPassed = true ∧
      s.boot.goldenPassed = true ∧ s.tmt.valid = true ∧ s.ilk.safeCause = 0) ∧
  (∀ s t : State, Inv s → step s = .next t → s.pins.safeNCmd = false → s.boot.phase ≠ .ready → t.pins.safeNCmd = false) ∧
  (∀ s t : State, Inv s → step s = .next t → (t.pins.porstN = false ∨ t.pins.resetN = false) → t.pins.safeNCmd = false)

/-- At State.reset PORST_N is low, the queue is empty, memory lists nothing (its contents are the model's choice, log
entry 2), SAFE_N is commanded low, no cause is latched, and the invariant holds: memory in canonical form, an asserted
safe state only on a latched cause with SAFE_N low, and SAFE_N low while either reset pin is low.
(01_two_hierarchies.md R29, 02_rokel_image_and_startup.md R30, R31) -/
def Obligations.InvAtReset : Prop :=
  Inv State.reset ∧ State.reset.pins.porstN = false ∧ State.reset.pending = [] ∧ State.reset.mem = [] ∧
  State.reset.pins.safeNCmd = false ∧ State.reset.ilk.safeCause = 0

/-- From every state that keeps the invariant, whichever of the device's commands stands at the front of its queue and
whatever its operands, and on an empty queue: the state after the step keeps it. The invariant says that memory lists
rising addresses and no byte equal to what an unlisted address reads; that the safe state is asserted only on a
latched cause and with SAFE_N commanded low; and that SAFE_N is commanded low while either reset pin is low.
(01_two_hierarchies.md R29, 02_rokel_image_and_startup.md R30, R31, 10_interlocking.md R290, R291, 12_timetable.md
R332, 15_firmware_power_supplies.md R424) -/
def Obligations.EveryStepKeepsInv : Prop :=
  ∀ s t : State, Inv s → step s = .next t → Inv t
end

