-- ==== Sys2Proof/Laws/Memory.lean ====
section
/-! SUPPORT. Memory: every operation keeps the canonical form, a byte written reads back, and every other byte stays. -/

namespace Sys2Proof.Laws

open Sys2Proof.Machine

/-! ### The canonical form -/

theorem memWfFrom_mono {lo lo' : Nat} (h : lo' ≤ lo) : ∀ {m : List Host.Cell}, memWfFrom lo m = true → memWfFrom lo' m = true
  | [], _ => rfl
  | (a, b) :: r, w => by
    simp only [memWfFrom, Bool.and_eq_true, decide_eq_true_eq, bne_iff_ne] at w ⊢
    exact ⟨⟨Nat.le_trans h w.1.1, w.1.2⟩, w.2⟩

theorem memWfFrom_filter (p : Host.Cell → Bool) : ∀ {m : List Host.Cell} {lo : Nat},
    memWfFrom lo m = true → memWfFrom lo (m.filter p) = true
  | [], _, _ => rfl
  | (a, b) :: r, lo, w => by
    simp only [memWfFrom, Bool.and_eq_true, decide_eq_true_eq, bne_iff_ne] at w
    have ih := memWfFrom_filter p w.2
    by_cases hp : p (a, b) = true
    · simp only [List.filter_cons_of_pos hp, memWfFrom, Bool.and_eq_true, decide_eq_true_eq, bne_iff_ne]
      exact ⟨w.1, ih⟩
    · rw [List.filter_cons_of_neg (by simpa using hp)]
      exact memWfFrom_mono (by omega) ih

/-- A string of canonical cells below `hi`, followed by canonical cells from `hi`. -/
theorem memWfFrom_append {hi : Nat} : ∀ {m₁ m₂ : List Host.Cell} {lo : Nat}, lo ≤ hi →
    memWfFrom lo m₁ = true → (∀ c ∈ m₁, c.1 < hi) → memWfFrom hi m₂ = true → memWfFrom lo (m₁ ++ m₂) = true
  | [], _, _, hl, _, _, h₂ => memWfFrom_mono hl h₂
  | (a, b) :: r, m₂, lo, hl, h₁, hb, h₂ => by
    simp only [memWfFrom, List.cons_append, Bool.and_eq_true, decide_eq_true_eq, bne_iff_ne] at h₁ ⊢
    have ha : a < hi := hb (a, b) (by simp)
    exact ⟨h₁.1, memWfFrom_append ha h₁.2 (fun c hc => hb c (by simp [hc])) h₂⟩

theorem cellsFrom_wf : ∀ (bs : Bytes) (a : Nat), memWfFrom a (cellsFrom a bs) = true
  | [], _ => rfl
  | b :: r, a => by
    unfold cellsFrom
    split
    · exact memWfFrom_mono (Nat.le_succ a) (cellsFrom_wf r (a + 1))
    · simp only [memWfFrom, Nat.le_refl, decide_true, Bool.true_and, Bool.and_eq_true, bne_iff_ne]
      exact ⟨by assumption, cellsFrom_wf r (a + 1)⟩

theorem cellsFrom_bounds : ∀ (bs : Bytes) (a : Nat), ∀ c ∈ cellsFrom a bs, a ≤ c.1 ∧ c.1 < a + bs.length
  | [], _, _, hc => by simp [cellsFrom] at hc
  | b :: r, a, c, hc => by
    unfold cellsFrom at hc
    split at hc
    · have := cellsFrom_bounds r (a + 1) c hc
      simp only [List.length_cons]; omega
    · rcases List.mem_cons.mp hc with h | h
      · subst h; simp
      · have := cellsFrom_bounds r (a + 1) c h
        simp only [List.length_cons]; omega

theorem memWfFrom_raise : ∀ {m : List Host.Cell} {lo hi : Nat}, memWfFrom lo m = true → (∀ c ∈ m, hi ≤ c.1) →
    memWfFrom hi m = true
  | [], _, _, _, _ => rfl
  | (a, b) :: r, lo, hi, w, hb => by
    simp only [memWfFrom, Bool.and_eq_true, decide_eq_true_eq, bne_iff_ne] at w ⊢
    exact ⟨⟨hb (a, b) (by simp), w.1.2⟩, w.2⟩

/-- A write keeps the canonical form. -/
theorem memWrite_wf {m : List Host.Cell} (a : Nat) (bs : Bytes) (w : Memory.wf m = true) :
    Memory.wf (memWrite m a bs) = true := by
  unfold memWrite Memory.wf at *
  rw [List.append_assoc]
  refine memWfFrom_append (Nat.zero_le a) (memWfFrom_filter _ w) (fun c hc => by simpa using (List.mem_filter.mp hc).2) ?_
  refine memWfFrom_append (Nat.le_add_right a bs.length) (cellsFrom_wf bs a) (fun c hc => (cellsFrom_bounds bs a c hc).2) ?_
  exact memWfFrom_raise (memWfFrom_filter _ w) fun c hc => by simpa using (List.mem_filter.mp hc).2

/-- Zeroing keeps the canonical form. -/
theorem memZero_wf {m : List Host.Cell} (a n : Nat) (w : Memory.wf m = true) : Memory.wf (memZero m a n) = true :=
  memWfFrom_filter _ w

/-! ### What a read finds -/

theorem tget_append_of_not_mem {α : Type} (d : α) : ∀ (t u : Table α) (k : Nat), (∀ e ∈ t, e.1 ≠ k) →
    tget d (t ++ u) k = tget d u k
  | [], _, _, _ => rfl
  | (j, a) :: r, u, k, h => by
    have hj : j ≠ k := h (j, a) (by simp)
    simp only [List.cons_append, tget, if_neg hj]
    exact tget_append_of_not_mem d r u k fun e he => h e (by simp [he])

theorem tget_filter_of_pos {α : Type} (d : α) (p : Nat × α → Bool) (k : Nat) (hp : ∀ a, p (k, a) = true) :
    ∀ t : Table α, tget d (t.filter p) k = tget d t k
  | [] => rfl
  | (j, a) :: r => by
    have ih := tget_filter_of_pos d p k hp r
    by_cases hj : j = k
    · subst hj
      rw [List.filter_cons_of_pos (hp a)]
      simp [tget]
    · by_cases hpj : p (j, a) = true
      · rw [List.filter_cons_of_pos hpj]
        simp only [tget, if_neg hj, ih]
      · rw [List.filter_cons_of_neg (by simpa using hpj)]
        simp only [tget, if_neg hj, ih]

theorem tget_of_not_mem {α : Type} (d : α) : ∀ (t : Table α) (k : Nat), (∀ e ∈ t, e.1 ≠ k) → tget d t k = d
  | [], _, _ => rfl
  | (j, a) :: r, k, h => by
    have hj : j ≠ k := h (j, a) (by simp)
    simp only [tget, if_neg hj]
    exact tget_of_not_mem d r k fun e he => h e (by simp [he])

theorem tget_append_left {α : Type} (d : α) (u : Table α) (k : Nat) (hu : ∀ e ∈ u, e.1 ≠ k) :
    ∀ t : Table α, tget d (t ++ u) k = tget d t k
  | [] => by simpa [tget] using tget_of_not_mem d u k hu
  | (j, a) :: r => by
    simp only [List.cons_append, tget]
    split
    · rfl
    · exact tget_append_left d u k hu r

theorem memGet_cellsFrom : ∀ (bs : Bytes) (a x : Nat), a ≤ x → x < a + bs.length →
    memGet (cellsFrom a bs) x = bs.getD (x - a) 0
  | [], a, x, h₁, h₂ => by simp at h₂; omega
  | b :: r, a, x, h₁, h₂ => by
    have hlen : x < (a + 1) + r.length := by simp only [List.length_cons] at h₂; omega
    by_cases hx : x = a
    · subst hx
      unfold cellsFrom
      split
      · have hn : ∀ e ∈ cellsFrom (x + 1) r, e.1 ≠ x := fun e he => by
          have := (cellsFrom_bounds r (x + 1) e he).1; omega
        simp only [memGet, tget_of_not_mem 0 _ x hn, Nat.sub_self, List.getD_cons_zero]
        exact Eq.symm (by assumption)
      · simp [memGet, tget]
    · have ih := memGet_cellsFrom r (a + 1) x (by omega) hlen
      have hs : x - a = (x - (a + 1)) + 1 := by omega
      unfold cellsFrom
      split
      · rw [ih, hs, List.getD_cons_succ]
      · have : ¬a = x := fun h => hx h.symm
        simp only [memGet, tget, if_neg this] at ih ⊢
        rw [ih, hs, List.getD_cons_succ]

/-- A byte that was written reads back. -/
theorem memGet_memWrite_in (m : List Host.Cell) (a : Nat) (bs : Bytes) (x : Nat) (h₁ : a ≤ x) (h₂ : x < a + bs.length) :
    memGet (memWrite m a bs) x = bs.getD (x - a) 0 := by
  unfold memWrite memGet
  rw [List.append_assoc, tget_append_of_not_mem, tget_append_left]
  · exact memGet_cellsFrom bs a x h₁ h₂
  · intro e he
    have := (List.mem_filter.mp he).2
    simp at this; omega
  · intro e he
    have := (List.mem_filter.mp he).2
    simp at this; omega

/-- Every other byte stays. -/
theorem memGet_memWrite_out (m : List Host.Cell) (a : Nat) (bs : Bytes) (x : Nat) (h : x < a ∨ a + bs.length ≤ x) :
    memGet (memWrite m a bs) x = memGet m x := by
  unfold memWrite memGet
  rw [List.append_assoc]
  have hc : ∀ e ∈ cellsFrom a bs, e.1 ≠ x := fun e he => by have := cellsFrom_bounds bs a e he; omega
  rcases h with h | h
  · rw [tget_append_left, tget_filter_of_pos]
    · intro b; simpa using h
    · intro e he
      rcases List.mem_append.mp he with he | he
      · exact hc e he
      · have := (List.mem_filter.mp he).2
        simp at this; omega
  · rw [tget_append_of_not_mem, tget_append_of_not_mem _ _ _ _ hc, tget_filter_of_pos]
    · intro b; simpa using h
    · intro e he
      have := (List.mem_filter.mp he).2
      simp at this; omega

/-- A zeroed byte reads 0. -/
theorem memGet_memZero_in (m : List Host.Cell) (a n x : Nat) (h₁ : a ≤ x) (h₂ : x < a + n) :
    memGet (memZero m a n) x = 0 := by
  refine tget_of_not_mem 0 _ x fun e he => ?_
  have := (List.mem_filter.mp he).2
  simp at this; omega

/-- Every other byte stays. -/
theorem memGet_memZero_out (m : List Host.Cell) (a n x : Nat) (h : x < a ∨ a + n ≤ x) :
    memGet (memZero m a n) x = memGet m x := by
  refine tget_filter_of_pos 0 _ x (fun b => ?_) m
  simp; omega

theorem length_memRead (m : List Host.Cell) : ∀ (n a : Nat), (memRead m a n).length = n
  | 0, _ => rfl
  | n + 1, a => by simp [memRead, length_memRead m n (a + 1)]

/-! ### Tables -/

theorem tget_tset_same {α : Type} (d : α) (k : Nat) (a : α) : ∀ t : Table α, tget d (tset t k a) k = a
  | [] => by simp [tset, tget]
  | (j, b) :: r => by
    unfold tset
    split
    · simp [tget]
    · split
      · simp [tget]
      · have : ¬j = k := fun h => by omega
        simp only [tget, if_neg this, tget_tset_same d k a r]

theorem tget_tset_other {α : Type} (d : α) (k j : Nat) (a : α) (h : j ≠ k) : ∀ t : Table α,
    tget d (tset t k a) j = tget d t j
  | [] => by simp [tset, tget, Ne.symm h]
  | (i, b) :: r => by
    unfold tset
    split
    · simp only [tget, if_neg (Ne.symm h)]
    · split
      · rename_i h₂
        subst h₂
        simp only [tget, if_neg (Ne.symm h)]
      · simp only [tget, tget_tset_other d k j a h r]

@[simp] theorem tget_tmod_same {α : Type} (d : α) (t : Table α) (k : Nat) (f : α → α) :
    tget d (tmod d t k f) k = f (tget d t k) := tget_tset_same d k _ t

theorem tget_tmod_other {α : Type} (d : α) (t : Table α) (k j : Nat) (f : α → α) (h : j ≠ k) :
    tget d (tmod d t k f) j = tget d t j := tget_tset_other d k j _ h t

end Sys2Proof.Laws
end

