-- ==== Sys2Proof/Laws/State.lean ====
section
/-! SUPPORT. The named updates of the state: what each leaves unchanged, and what it reads back. -/

namespace Sys2Proof.Machine

open Sys2Proof.Laws

/-- `modBasin` at its own entry. -/
@[simp] theorem State.modBasin_same (s : State) (n : Nat) (f : Basin → Basin) : (s.modBasin n f).basin n = f (s.basin n) :=
  tget_tmod_same _ _ _ _
/-- `modBasin` at any other entry. -/
@[simp] theorem State.modBasin_other (s : State) (n k : Nat) (f : Basin → Basin) (h : k ≠ n) :
    (s.modBasin n f).basin k = s.basin k := tget_tmod_other _ _ _ _ _ h
/-- `modBasin` changes no other part of the state. -/
@[simp] theorem State.modBasin_frame (s : State) (n : Nat) (f : Basin → Basin) :
    (s.modBasin n f).pending = s.pending ∧ (s.modBasin n f).freeCtr = s.freeCtr ∧ (s.modBasin n f).mem = s.mem ∧
    (s.modBasin n f).clocks = s.clocks ∧ (s.modBasin n f).pins = s.pins ∧ (s.modBasin n f).boot = s.boot ∧
    (s.modBasin n f).reload = s.reload ∧ (s.modBasin n f).sections = s.sections ∧
    (s.modBasin n f).banks = s.banks ∧ (s.modBasin n f).blocks = s.blocks ∧ (s.modBasin n f).dram = s.dram ∧
    (s.modBasin n f).repair = s.repair ∧ (s.modBasin n f).slc = s.slc ∧ (s.modBasin n f).sbx = s.sbx ∧
    (s.modBasin n f).ttb = s.ttb ∧ (s.modBasin n f).sent = s.sent ∧ (s.modBasin n f).tmt = s.tmt ∧
    (s.modBasin n f).resp = s.resp ∧ (s.modBasin n f).stm = s.stm ∧ (s.modBasin n f).mons = s.mons ∧
    (s.modBasin n f).ilk = s.ilk ∧ (s.modBasin n f).kvc = s.kvc ∧ (s.modBasin n f).rts = s.rts ∧
    (s.modBasin n f).pts = s.pts ∧ (s.modBasin n f).jct = s.jct ∧ (s.modBasin n f).pwr = s.pwr ∧
    (s.modBasin n f).mwl = s.mwl ∧ (s.modBasin n f).ftn = s.ftn ∧ (s.modBasin n f).sup = s.sup ∧
    (s.modBasin n f).tapPort = s.tapPort ∧ (s.modBasin n f).highLatch = s.highLatch :=
  ⟨rfl, rfl, rfl, rfl, rfl, rfl, rfl, rfl, rfl, rfl, rfl, rfl, rfl, rfl, rfl, rfl, rfl, rfl, rfl, rfl, rfl, rfl,
   rfl, rfl, rfl, rfl, rfl, rfl, rfl, rfl, rfl⟩

/-- `modBank` at its own entry. -/
@[simp] theorem State.modBank_same (s : State) (n : Nat) (f : Bank → Bank) : (s.modBank n f).bank n = f (s.bank n) :=
  tget_tmod_same _ _ _ _
/-- `modBank` at any other entry. -/
@[simp] theorem State.modBank_other (s : State) (n k : Nat) (f : Bank → Bank) (h : k ≠ n) :
    (s.modBank n f).bank k = s.bank k := tget_tmod_other _ _ _ _ _ h
/-- `modBank` changes no other part of the state. -/
@[simp] theorem State.modBank_frame (s : State) (n : Nat) (f : Bank → Bank) :
    (s.modBank n f).pending = s.pending ∧ (s.modBank n f).freeCtr = s.freeCtr ∧ (s.modBank n f).mem = s.mem ∧
    (s.modBank n f).clocks = s.clocks ∧ (s.modBank n f).pins = s.pins ∧ (s.modBank n f).boot = s.boot ∧
    (s.modBank n f).reload = s.reload ∧ (s.modBank n f).sections = s.sections ∧ (s.modBank n f).basins = s.basins ∧
    (s.modBank n f).blocks = s.blocks ∧ (s.modBank n f).dram = s.dram ∧ (s.modBank n f).repair = s.repair ∧
    (s.modBank n f).slc = s.slc ∧ (s.modBank n f).sbx = s.sbx ∧ (s.modBank n f).ttb = s.ttb ∧
    (s.modBank n f).sent = s.sent ∧ (s.modBank n f).tmt = s.tmt ∧ (s.modBank n f).resp = s.resp ∧
    (s.modBank n f).stm = s.stm ∧ (s.modBank n f).mons = s.mons ∧ (s.modBank n f).ilk = s.ilk ∧
    (s.modBank n f).kvc = s.kvc ∧ (s.modBank n f).rts = s.rts ∧ (s.modBank n f).pts = s.pts ∧
    (s.modBank n f).jct = s.jct ∧ (s.modBank n f).pwr = s.pwr ∧ (s.modBank n f).mwl = s.mwl ∧
    (s.modBank n f).ftn = s.ftn ∧ (s.modBank n f).sup = s.sup ∧ (s.modBank n f).tapPort = s.tapPort ∧
    (s.modBank n f).highLatch = s.highLatch :=
  ⟨rfl, rfl, rfl, rfl, rfl, rfl, rfl, rfl, rfl, rfl, rfl, rfl, rfl, rfl, rfl, rfl, rfl, rfl, rfl, rfl, rfl, rfl,
   rfl, rfl, rfl, rfl, rfl, rfl, rfl, rfl, rfl⟩

/-- `modBlock` at its own entry. -/
@[simp] theorem State.modBlock_same (s : State) (n : Nat) (f : BankBlock → BankBlock) : (s.modBlock n f).block n = f (s.block n) :=
  tget_tmod_same _ _ _ _
/-- `modBlock` at any other entry. -/
@[simp] theorem State.modBlock_other (s : State) (n k : Nat) (f : BankBlock → BankBlock) (h : k ≠ n) :
    (s.modBlock n f).block k = s.block k := tget_tmod_other _ _ _ _ _ h
/-- `modBlock` changes no other part of the state. -/
@[simp] theorem State.modBlock_frame (s : State) (n : Nat) (f : BankBlock → BankBlock) :
    (s.modBlock n f).pending = s.pending ∧ (s.modBlock n f).freeCtr = s.freeCtr ∧ (s.modBlock n f).mem = s.mem ∧
    (s.modBlock n f).clocks = s.clocks ∧ (s.modBlock n f).pins = s.pins ∧ (s.modBlock n f).boot = s.boot ∧
    (s.modBlock n f).reload = s.reload ∧ (s.modBlock n f).sections = s.sections ∧
    (s.modBlock n f).basins = s.basins ∧ (s.modBlock n f).banks = s.banks ∧ (s.modBlock n f).dram = s.dram ∧
    (s.modBlock n f).repair = s.repair ∧ (s.modBlock n f).slc = s.slc ∧ (s.modBlock n f).sbx = s.sbx ∧
    (s.modBlock n f).ttb = s.ttb ∧ (s.modBlock n f).sent = s.sent ∧ (s.modBlock n f).tmt = s.tmt ∧
    (s.modBlock n f).resp = s.resp ∧ (s.modBlock n f).stm = s.stm ∧ (s.modBlock n f).mons = s.mons ∧
    (s.modBlock n f).ilk = s.ilk ∧ (s.modBlock n f).kvc = s.kvc ∧ (s.modBlock n f).rts = s.rts ∧
    (s.modBlock n f).pts = s.pts ∧ (s.modBlock n f).jct = s.jct ∧ (s.modBlock n f).pwr = s.pwr ∧
    (s.modBlock n f).mwl = s.mwl ∧ (s.modBlock n f).ftn = s.ftn ∧ (s.modBlock n f).sup = s.sup ∧
    (s.modBlock n f).tapPort = s.tapPort ∧ (s.modBlock n f).highLatch = s.highLatch :=
  ⟨rfl, rfl, rfl, rfl, rfl, rfl, rfl, rfl, rfl, rfl, rfl, rfl, rfl, rfl, rfl, rfl, rfl, rfl, rfl, rfl, rfl, rfl,
   rfl, rfl, rfl, rfl, rfl, rfl, rfl, rfl, rfl⟩

/-- `modClock` at its own entry. -/
@[simp] theorem State.modClock_same (s : State) (n : Nat) (f : ClockDomain → ClockDomain) : (s.modClock n f).clock n = f (s.clock n) :=
  tget_tmod_same _ _ _ _
/-- `modClock` at any other entry. -/
@[simp] theorem State.modClock_other (s : State) (n k : Nat) (f : ClockDomain → ClockDomain) (h : k ≠ n) :
    (s.modClock n f).clock k = s.clock k := tget_tmod_other _ _ _ _ _ h
/-- `modClock` changes no other part of the state. -/
@[simp] theorem State.modClock_frame (s : State) (n : Nat) (f : ClockDomain → ClockDomain) :
    (s.modClock n f).pending = s.pending ∧ (s.modClock n f).freeCtr = s.freeCtr ∧ (s.modClock n f).mem = s.mem ∧
    (s.modClock n f).pins = s.pins ∧ (s.modClock n f).boot = s.boot ∧ (s.modClock n f).reload = s.reload ∧
    (s.modClock n f).sections = s.sections ∧ (s.modClock n f).basins = s.basins ∧
    (s.modClock n f).banks = s.banks ∧ (s.modClock n f).blocks = s.blocks ∧ (s.modClock n f).dram = s.dram ∧
    (s.modClock n f).repair = s.repair ∧ (s.modClock n f).slc = s.slc ∧ (s.modClock n f).sbx = s.sbx ∧
    (s.modClock n f).ttb = s.ttb ∧ (s.modClock n f).sent = s.sent ∧ (s.modClock n f).tmt = s.tmt ∧
    (s.modClock n f).resp = s.resp ∧ (s.modClock n f).stm = s.stm ∧ (s.modClock n f).mons = s.mons ∧
    (s.modClock n f).ilk = s.ilk ∧ (s.modClock n f).kvc = s.kvc ∧ (s.modClock n f).rts = s.rts ∧
    (s.modClock n f).pts = s.pts ∧ (s.modClock n f).jct = s.jct ∧ (s.modClock n f).pwr = s.pwr ∧
    (s.modClock n f).mwl = s.mwl ∧ (s.modClock n f).ftn = s.ftn ∧ (s.modClock n f).sup = s.sup ∧
    (s.modClock n f).tapPort = s.tapPort ∧ (s.modClock n f).highLatch = s.highLatch :=
  ⟨rfl, rfl, rfl, rfl, rfl, rfl, rfl, rfl, rfl, rfl, rfl, rfl, rfl, rfl, rfl, rfl, rfl, rfl, rfl, rfl, rfl, rfl,
   rfl, rfl, rfl, rfl, rfl, rfl, rfl, rfl, rfl⟩

/-- `modRing` at its own entry. -/
@[simp] theorem State.modRing_same (s : State) (n : Nat) (f : Ring → Ring) : (s.modRing n f).ring n = f (s.ring n) :=
  tget_tmod_same _ _ _ _
/-- `modRing` at any other entry. -/
@[simp] theorem State.modRing_other (s : State) (n k : Nat) (f : Ring → Ring) (h : k ≠ n) :
    (s.modRing n f).ring k = s.ring k := tget_tmod_other _ _ _ _ _ h
/-- `modRing` changes no other part of the state. -/
@[simp] theorem State.modRing_frame (s : State) (n : Nat) (f : Ring → Ring) :
    (s.modRing n f).pending = s.pending ∧ (s.modRing n f).freeCtr = s.freeCtr ∧ (s.modRing n f).mem = s.mem ∧
    (s.modRing n f).clocks = s.clocks ∧ (s.modRing n f).pins = s.pins ∧ (s.modRing n f).boot = s.boot ∧
    (s.modRing n f).reload = s.reload ∧ (s.modRing n f).sections = s.sections ∧ (s.modRing n f).basins = s.basins ∧
    (s.modRing n f).banks = s.banks ∧ (s.modRing n f).blocks = s.blocks ∧ (s.modRing n f).dram = s.dram ∧
    (s.modRing n f).repair = s.repair ∧ (s.modRing n f).slc = s.slc ∧ (s.modRing n f).ttb = s.ttb ∧
    (s.modRing n f).sent = s.sent ∧ (s.modRing n f).tmt = s.tmt ∧ (s.modRing n f).resp = s.resp ∧
    (s.modRing n f).stm = s.stm ∧ (s.modRing n f).mons = s.mons ∧ (s.modRing n f).ilk = s.ilk ∧
    (s.modRing n f).kvc = s.kvc ∧ (s.modRing n f).rts = s.rts ∧ (s.modRing n f).pts = s.pts ∧
    (s.modRing n f).jct = s.jct ∧ (s.modRing n f).pwr = s.pwr ∧ (s.modRing n f).mwl = s.mwl ∧
    (s.modRing n f).ftn = s.ftn ∧ (s.modRing n f).sup = s.sup ∧ (s.modRing n f).tapPort = s.tapPort ∧
    (s.modRing n f).highLatch = s.highLatch :=
  ⟨rfl, rfl, rfl, rfl, rfl, rfl, rfl, rfl, rfl, rfl, rfl, rfl, rfl, rfl, rfl, rfl, rfl, rfl, rfl, rfl, rfl, rfl,
   rfl, rfl, rfl, rfl, rfl, rfl, rfl, rfl, rfl⟩

/-- `modToken` at its own entry. -/
@[simp] theorem State.modToken_same (s : State) (n : Nat) (f : Token → Token) : (s.modToken n f).token n = f (s.token n) :=
  tget_tmod_same _ _ _ _
/-- `modToken` at any other entry. -/
@[simp] theorem State.modToken_other (s : State) (n k : Nat) (f : Token → Token) (h : k ≠ n) :
    (s.modToken n f).token k = s.token k := tget_tmod_other _ _ _ _ _ h
/-- `modToken` changes no other part of the state. -/
@[simp] theorem State.modToken_frame (s : State) (n : Nat) (f : Token → Token) :
    (s.modToken n f).pending = s.pending ∧ (s.modToken n f).freeCtr = s.freeCtr ∧ (s.modToken n f).mem = s.mem ∧
    (s.modToken n f).clocks = s.clocks ∧ (s.modToken n f).pins = s.pins ∧ (s.modToken n f).boot = s.boot ∧
    (s.modToken n f).reload = s.reload ∧ (s.modToken n f).sections = s.sections ∧
    (s.modToken n f).basins = s.basins ∧ (s.modToken n f).banks = s.banks ∧ (s.modToken n f).blocks = s.blocks ∧
    (s.modToken n f).dram = s.dram ∧ (s.modToken n f).repair = s.repair ∧ (s.modToken n f).slc = s.slc ∧
    (s.modToken n f).ttb = s.ttb ∧ (s.modToken n f).sent = s.sent ∧ (s.modToken n f).tmt = s.tmt ∧
    (s.modToken n f).resp = s.resp ∧ (s.modToken n f).stm = s.stm ∧ (s.modToken n f).mons = s.mons ∧
    (s.modToken n f).ilk = s.ilk ∧ (s.modToken n f).kvc = s.kvc ∧ (s.modToken n f).rts = s.rts ∧
    (s.modToken n f).pts = s.pts ∧ (s.modToken n f).jct = s.jct ∧ (s.modToken n f).pwr = s.pwr ∧
    (s.modToken n f).mwl = s.mwl ∧ (s.modToken n f).ftn = s.ftn ∧ (s.modToken n f).sup = s.sup ∧
    (s.modToken n f).tapPort = s.tapPort ∧ (s.modToken n f).highLatch = s.highLatch :=
  ⟨rfl, rfl, rfl, rfl, rfl, rfl, rfl, rfl, rfl, rfl, rfl, rfl, rfl, rfl, rfl, rfl, rfl, rfl, rfl, rfl, rfl, rfl,
   rfl, rfl, rfl, rfl, rfl, rfl, rfl, rfl, rfl⟩

/-- `modNode` at its own entry. -/
@[simp] theorem State.modNode_same (s : State) (n : Nat) (f : Node → Node) : (s.modNode n f).node n = f (s.node n) :=
  tget_tmod_same _ _ _ _
/-- `modNode` at any other entry. -/
@[simp] theorem State.modNode_other (s : State) (n k : Nat) (f : Node → Node) (h : k ≠ n) :
    (s.modNode n f).node k = s.node k := tget_tmod_other _ _ _ _ _ h
/-- `modNode` changes no other part of the state. -/
@[simp] theorem State.modNode_frame (s : State) (n : Nat) (f : Node → Node) :
    (s.modNode n f).pending = s.pending ∧ (s.modNode n f).freeCtr = s.freeCtr ∧ (s.modNode n f).mem = s.mem ∧
    (s.modNode n f).clocks = s.clocks ∧ (s.modNode n f).pins = s.pins ∧ (s.modNode n f).boot = s.boot ∧
    (s.modNode n f).reload = s.reload ∧ (s.modNode n f).sections = s.sections ∧ (s.modNode n f).basins = s.basins ∧
    (s.modNode n f).banks = s.banks ∧ (s.modNode n f).blocks = s.blocks ∧ (s.modNode n f).dram = s.dram ∧
    (s.modNode n f).repair = s.repair ∧ (s.modNode n f).slc = s.slc ∧ (s.modNode n f).ttb = s.ttb ∧
    (s.modNode n f).sent = s.sent ∧ (s.modNode n f).tmt = s.tmt ∧ (s.modNode n f).resp = s.resp ∧
    (s.modNode n f).stm = s.stm ∧ (s.modNode n f).mons = s.mons ∧ (s.modNode n f).ilk = s.ilk ∧
    (s.modNode n f).kvc = s.kvc ∧ (s.modNode n f).rts = s.rts ∧ (s.modNode n f).pts = s.pts ∧
    (s.modNode n f).jct = s.jct ∧ (s.modNode n f).pwr = s.pwr ∧ (s.modNode n f).mwl = s.mwl ∧
    (s.modNode n f).ftn = s.ftn ∧ (s.modNode n f).sup = s.sup ∧ (s.modNode n f).tapPort = s.tapPort ∧
    (s.modNode n f).highLatch = s.highLatch :=
  ⟨rfl, rfl, rfl, rfl, rfl, rfl, rfl, rfl, rfl, rfl, rfl, rfl, rfl, rfl, rfl, rfl, rfl, rfl, rfl, rfl, rfl, rfl,
   rfl, rfl, rfl, rfl, rfl, rfl, rfl, rfl, rfl⟩

/-- `modGraph` at its own entry. -/
@[simp] theorem State.modGraph_same (s : State) (n : Nat) (f : Graph → Graph) : (s.modGraph n f).graph n = f (s.graph n) :=
  tget_tmod_same _ _ _ _
/-- `modGraph` at any other entry. -/
@[simp] theorem State.modGraph_other (s : State) (n k : Nat) (f : Graph → Graph) (h : k ≠ n) :
    (s.modGraph n f).graph k = s.graph k := tget_tmod_other _ _ _ _ _ h
/-- `modGraph` changes no other part of the state. -/
@[simp] theorem State.modGraph_frame (s : State) (n : Nat) (f : Graph → Graph) :
    (s.modGraph n f).pending = s.pending ∧ (s.modGraph n f).freeCtr = s.freeCtr ∧ (s.modGraph n f).mem = s.mem ∧
    (s.modGraph n f).clocks = s.clocks ∧ (s.modGraph n f).pins = s.pins ∧ (s.modGraph n f).boot = s.boot ∧
    (s.modGraph n f).reload = s.reload ∧ (s.modGraph n f).sections = s.sections ∧
    (s.modGraph n f).basins = s.basins ∧ (s.modGraph n f).banks = s.banks ∧ (s.modGraph n f).blocks = s.blocks ∧
    (s.modGraph n f).dram = s.dram ∧ (s.modGraph n f).repair = s.repair ∧ (s.modGraph n f).slc = s.slc ∧
    (s.modGraph n f).ttb = s.ttb ∧ (s.modGraph n f).sent = s.sent ∧ (s.modGraph n f).tmt = s.tmt ∧
    (s.modGraph n f).resp = s.resp ∧ (s.modGraph n f).stm = s.stm ∧ (s.modGraph n f).mons = s.mons ∧
    (s.modGraph n f).ilk = s.ilk ∧ (s.modGraph n f).kvc = s.kvc ∧ (s.modGraph n f).rts = s.rts ∧
    (s.modGraph n f).pts = s.pts ∧ (s.modGraph n f).jct = s.jct ∧ (s.modGraph n f).pwr = s.pwr ∧
    (s.modGraph n f).mwl = s.mwl ∧ (s.modGraph n f).ftn = s.ftn ∧ (s.modGraph n f).sup = s.sup ∧
    (s.modGraph n f).tapPort = s.tapPort ∧ (s.modGraph n f).highLatch = s.highLatch :=
  ⟨rfl, rfl, rfl, rfl, rfl, rfl, rfl, rfl, rfl, rfl, rfl, rfl, rfl, rfl, rfl, rfl, rfl, rfl, rfl, rfl, rfl, rfl,
   rfl, rfl, rfl, rfl, rfl, rfl, rfl, rfl, rfl⟩

/-- `modCtx` at its own entry. -/
@[simp] theorem State.modCtx_same (s : State) (n : Nat) (f : Ctx → Ctx) : (s.modCtx n f).ctx n = f (s.ctx n) :=
  tget_tmod_same _ _ _ _
/-- `modCtx` at any other entry. -/
@[simp] theorem State.modCtx_other (s : State) (n k : Nat) (f : Ctx → Ctx) (h : k ≠ n) :
    (s.modCtx n f).ctx k = s.ctx k := tget_tmod_other _ _ _ _ _ h
/-- `modCtx` changes no other part of the state. -/
@[simp] theorem State.modCtx_frame (s : State) (n : Nat) (f : Ctx → Ctx) :
    (s.modCtx n f).pending = s.pending ∧ (s.modCtx n f).freeCtr = s.freeCtr ∧ (s.modCtx n f).mem = s.mem ∧
    (s.modCtx n f).clocks = s.clocks ∧ (s.modCtx n f).pins = s.pins ∧ (s.modCtx n f).boot = s.boot ∧
    (s.modCtx n f).reload = s.reload ∧ (s.modCtx n f).sections = s.sections ∧ (s.modCtx n f).basins = s.basins ∧
    (s.modCtx n f).banks = s.banks ∧ (s.modCtx n f).blocks = s.blocks ∧ (s.modCtx n f).dram = s.dram ∧
    (s.modCtx n f).repair = s.repair ∧ (s.modCtx n f).slc = s.slc ∧ (s.modCtx n f).sbx = s.sbx ∧
    (s.modCtx n f).sent = s.sent ∧ (s.modCtx n f).tmt = s.tmt ∧ (s.modCtx n f).resp = s.resp ∧
    (s.modCtx n f).stm = s.stm ∧ (s.modCtx n f).mons = s.mons ∧ (s.modCtx n f).ilk = s.ilk ∧
    (s.modCtx n f).kvc = s.kvc ∧ (s.modCtx n f).rts = s.rts ∧ (s.modCtx n f).pts = s.pts ∧
    (s.modCtx n f).jct = s.jct ∧ (s.modCtx n f).pwr = s.pwr ∧ (s.modCtx n f).mwl = s.mwl ∧
    (s.modCtx n f).ftn = s.ftn ∧ (s.modCtx n f).sup = s.sup ∧ (s.modCtx n f).tapPort = s.tapPort ∧
    (s.modCtx n f).highLatch = s.highLatch :=
  ⟨rfl, rfl, rfl, rfl, rfl, rfl, rfl, rfl, rfl, rfl, rfl, rfl, rfl, rfl, rfl, rfl, rfl, rfl, rfl, rfl, rfl, rfl,
   rfl, rfl, rfl, rfl, rfl, rfl, rfl, rfl, rfl⟩

/-- `modConsist` at its own entry. -/
@[simp] theorem State.modConsist_same (s : State) (n : Nat) (f : Consist → Consist) : (s.modConsist n f).consist n = f (s.consist n) :=
  tget_tmod_same _ _ _ _
/-- `modConsist` at any other entry. -/
@[simp] theorem State.modConsist_other (s : State) (n k : Nat) (f : Consist → Consist) (h : k ≠ n) :
    (s.modConsist n f).consist k = s.consist k := tget_tmod_other _ _ _ _ _ h
/-- `modConsist` changes no other part of the state. -/
@[simp] theorem State.modConsist_frame (s : State) (n : Nat) (f : Consist → Consist) :
    (s.modConsist n f).pending = s.pending ∧ (s.modConsist n f).freeCtr = s.freeCtr ∧
    (s.modConsist n f).mem = s.mem ∧ (s.modConsist n f).clocks = s.clocks ∧ (s.modConsist n f).pins = s.pins ∧
    (s.modConsist n f).boot = s.boot ∧ (s.modConsist n f).reload = s.reload ∧
    (s.modConsist n f).sections = s.sections ∧ (s.modConsist n f).basins = s.basins ∧
    (s.modConsist n f).banks = s.banks ∧ (s.modConsist n f).blocks = s.blocks ∧ (s.modConsist n f).dram = s.dram ∧
    (s.modConsist n f).repair = s.repair ∧ (s.modConsist n f).slc = s.slc ∧ (s.modConsist n f).sbx = s.sbx ∧
    (s.modConsist n f).sent = s.sent ∧ (s.modConsist n f).tmt = s.tmt ∧ (s.modConsist n f).resp = s.resp ∧
    (s.modConsist n f).stm = s.stm ∧ (s.modConsist n f).mons = s.mons ∧ (s.modConsist n f).ilk = s.ilk ∧
    (s.modConsist n f).kvc = s.kvc ∧ (s.modConsist n f).rts = s.rts ∧ (s.modConsist n f).pts = s.pts ∧
    (s.modConsist n f).jct = s.jct ∧ (s.modConsist n f).pwr = s.pwr ∧ (s.modConsist n f).mwl = s.mwl ∧
    (s.modConsist n f).ftn = s.ftn ∧ (s.modConsist n f).sup = s.sup ∧ (s.modConsist n f).tapPort = s.tapPort ∧
    (s.modConsist n f).highLatch = s.highLatch :=
  ⟨rfl, rfl, rfl, rfl, rfl, rfl, rfl, rfl, rfl, rfl, rfl, rfl, rfl, rfl, rfl, rfl, rfl, rfl, rfl, rfl, rfl, rfl,
   rfl, rfl, rfl, rfl, rfl, rfl, rfl, rfl, rfl⟩

/-- `modOwner` at its own entry. -/
@[simp] theorem State.modOwner_same (s : State) (n : Nat) (f : OwnerEntry → OwnerEntry) : (s.modOwner n f).owner n = f (s.owner n) :=
  tget_tmod_same _ _ _ _
/-- `modOwner` at any other entry. -/
@[simp] theorem State.modOwner_other (s : State) (n k : Nat) (f : OwnerEntry → OwnerEntry) (h : k ≠ n) :
    (s.modOwner n f).owner k = s.owner k := tget_tmod_other _ _ _ _ _ h
/-- `modOwner` changes no other part of the state. -/
@[simp] theorem State.modOwner_frame (s : State) (n : Nat) (f : OwnerEntry → OwnerEntry) :
    (s.modOwner n f).pending = s.pending ∧ (s.modOwner n f).freeCtr = s.freeCtr ∧ (s.modOwner n f).mem = s.mem ∧
    (s.modOwner n f).clocks = s.clocks ∧ (s.modOwner n f).pins = s.pins ∧ (s.modOwner n f).boot = s.boot ∧
    (s.modOwner n f).reload = s.reload ∧ (s.modOwner n f).sections = s.sections ∧
    (s.modOwner n f).basins = s.basins ∧ (s.modOwner n f).banks = s.banks ∧ (s.modOwner n f).blocks = s.blocks ∧
    (s.modOwner n f).dram = s.dram ∧ (s.modOwner n f).repair = s.repair ∧ (s.modOwner n f).sbx = s.sbx ∧
    (s.modOwner n f).ttb = s.ttb ∧ (s.modOwner n f).sent = s.sent ∧ (s.modOwner n f).tmt = s.tmt ∧
    (s.modOwner n f).resp = s.resp ∧ (s.modOwner n f).stm = s.stm ∧ (s.modOwner n f).mons = s.mons ∧
    (s.modOwner n f).ilk = s.ilk ∧ (s.modOwner n f).kvc = s.kvc ∧ (s.modOwner n f).rts = s.rts ∧
    (s.modOwner n f).pts = s.pts ∧ (s.modOwner n f).jct = s.jct ∧ (s.modOwner n f).pwr = s.pwr ∧
    (s.modOwner n f).mwl = s.mwl ∧ (s.modOwner n f).ftn = s.ftn ∧ (s.modOwner n f).sup = s.sup ∧
    (s.modOwner n f).tapPort = s.tapPort ∧ (s.modOwner n f).highLatch = s.highLatch :=
  ⟨rfl, rfl, rfl, rfl, rfl, rfl, rfl, rfl, rfl, rfl, rfl, rfl, rfl, rfl, rfl, rfl, rfl, rfl, rfl, rfl, rfl, rfl,
   rfl, rfl, rfl, rfl, rfl, rfl, rfl, rfl, rfl⟩

/-- `modEnclave` at its own entry. -/
@[simp] theorem State.modEnclave_same (s : State) (n : Nat) (f : Enclave → Enclave) : (s.modEnclave n f).enclave n = f (s.enclave n) :=
  tget_tmod_same _ _ _ _
/-- `modEnclave` at any other entry. -/
@[simp] theorem State.modEnclave_other (s : State) (n k : Nat) (f : Enclave → Enclave) (h : k ≠ n) :
    (s.modEnclave n f).enclave k = s.enclave k := tget_tmod_other _ _ _ _ _ h
/-- `modEnclave` changes no other part of the state. -/
@[simp] theorem State.modEnclave_frame (s : State) (n : Nat) (f : Enclave → Enclave) :
    (s.modEnclave n f).pending = s.pending ∧ (s.modEnclave n f).freeCtr = s.freeCtr ∧
    (s.modEnclave n f).mem = s.mem ∧ (s.modEnclave n f).clocks = s.clocks ∧ (s.modEnclave n f).pins = s.pins ∧
    (s.modEnclave n f).boot = s.boot ∧ (s.modEnclave n f).reload = s.reload ∧
    (s.modEnclave n f).sections = s.sections ∧ (s.modEnclave n f).basins = s.basins ∧
    (s.modEnclave n f).banks = s.banks ∧ (s.modEnclave n f).blocks = s.blocks ∧ (s.modEnclave n f).dram = s.dram ∧
    (s.modEnclave n f).repair = s.repair ∧ (s.modEnclave n f).sbx = s.sbx ∧ (s.modEnclave n f).ttb = s.ttb ∧
    (s.modEnclave n f).sent = s.sent ∧ (s.modEnclave n f).tmt = s.tmt ∧ (s.modEnclave n f).resp = s.resp ∧
    (s.modEnclave n f).stm = s.stm ∧ (s.modEnclave n f).mons = s.mons ∧ (s.modEnclave n f).ilk = s.ilk ∧
    (s.modEnclave n f).kvc = s.kvc ∧ (s.modEnclave n f).rts = s.rts ∧ (s.modEnclave n f).pts = s.pts ∧
    (s.modEnclave n f).jct = s.jct ∧ (s.modEnclave n f).pwr = s.pwr ∧ (s.modEnclave n f).mwl = s.mwl ∧
    (s.modEnclave n f).ftn = s.ftn ∧ (s.modEnclave n f).sup = s.sup ∧ (s.modEnclave n f).tapPort = s.tapPort ∧
    (s.modEnclave n f).highLatch = s.highLatch :=
  ⟨rfl, rfl, rfl, rfl, rfl, rfl, rfl, rfl, rfl, rfl, rfl, rfl, rfl, rfl, rfl, rfl, rfl, rfl, rfl, rfl, rfl, rfl,
   rfl, rfl, rfl, rfl, rfl, rfl, rfl, rfl, rfl⟩

/-- `modHart` at its own entry. -/
@[simp] theorem State.modHart_same (s : State) (n : Nat) (f : Hart → Hart) : (s.modHart n f).hart n = f (s.hart n) :=
  tget_tmod_same _ _ _ _
/-- `modHart` at any other entry. -/
@[simp] theorem State.modHart_other (s : State) (n k : Nat) (f : Hart → Hart) (h : k ≠ n) :
    (s.modHart n f).hart k = s.hart k := tget_tmod_other _ _ _ _ _ h
/-- `modHart` changes no other part of the state. -/
@[simp] theorem State.modHart_frame (s : State) (n : Nat) (f : Hart → Hart) :
    (s.modHart n f).pending = s.pending ∧ (s.modHart n f).freeCtr = s.freeCtr ∧ (s.modHart n f).mem = s.mem ∧
    (s.modHart n f).clocks = s.clocks ∧ (s.modHart n f).pins = s.pins ∧ (s.modHart n f).boot = s.boot ∧
    (s.modHart n f).reload = s.reload ∧ (s.modHart n f).sections = s.sections ∧ (s.modHart n f).basins = s.basins ∧
    (s.modHart n f).banks = s.banks ∧ (s.modHart n f).blocks = s.blocks ∧ (s.modHart n f).dram = s.dram ∧
    (s.modHart n f).repair = s.repair ∧ (s.modHart n f).sbx = s.sbx ∧ (s.modHart n f).ttb = s.ttb ∧
    (s.modHart n f).sent = s.sent ∧ (s.modHart n f).tmt = s.tmt ∧ (s.modHart n f).resp = s.resp ∧
    (s.modHart n f).stm = s.stm ∧ (s.modHart n f).mons = s.mons ∧ (s.modHart n f).ilk = s.ilk ∧
    (s.modHart n f).kvc = s.kvc ∧ (s.modHart n f).rts = s.rts ∧ (s.modHart n f).pts = s.pts ∧
    (s.modHart n f).jct = s.jct ∧ (s.modHart n f).pwr = s.pwr ∧ (s.modHart n f).mwl = s.mwl ∧
    (s.modHart n f).ftn = s.ftn ∧ (s.modHart n f).sup = s.sup ∧ (s.modHart n f).tapPort = s.tapPort ∧
    (s.modHart n f).highLatch = s.highLatch :=
  ⟨rfl, rfl, rfl, rfl, rfl, rfl, rfl, rfl, rfl, rfl, rfl, rfl, rfl, rfl, rfl, rfl, rfl, rfl, rfl, rfl, rfl, rfl,
   rfl, rfl, rfl, rfl, rfl, rfl, rfl, rfl, rfl⟩

/-- `modHdw` at its own entry. -/
@[simp] theorem State.modHdw_same (s : State) (n : Nat) (f : HdwClass → HdwClass) : (s.modHdw n f).hdw n = f (s.hdw n) :=
  tget_tmod_same _ _ _ _
/-- `modHdw` at any other entry. -/
@[simp] theorem State.modHdw_other (s : State) (n k : Nat) (f : HdwClass → HdwClass) (h : k ≠ n) :
    (s.modHdw n f).hdw k = s.hdw k := tget_tmod_other _ _ _ _ _ h
/-- `modHdw` changes no other part of the state. -/
@[simp] theorem State.modHdw_frame (s : State) (n : Nat) (f : HdwClass → HdwClass) :
    (s.modHdw n f).pending = s.pending ∧ (s.modHdw n f).freeCtr = s.freeCtr ∧ (s.modHdw n f).mem = s.mem ∧
    (s.modHdw n f).clocks = s.clocks ∧ (s.modHdw n f).pins = s.pins ∧ (s.modHdw n f).boot = s.boot ∧
    (s.modHdw n f).reload = s.reload ∧ (s.modHdw n f).sections = s.sections ∧ (s.modHdw n f).basins = s.basins ∧
    (s.modHdw n f).banks = s.banks ∧ (s.modHdw n f).blocks = s.blocks ∧ (s.modHdw n f).dram = s.dram ∧
    (s.modHdw n f).repair = s.repair ∧ (s.modHdw n f).slc = s.slc ∧ (s.modHdw n f).sbx = s.sbx ∧
    (s.modHdw n f).ttb = s.ttb ∧ (s.modHdw n f).sent = s.sent ∧ (s.modHdw n f).tmt = s.tmt ∧
    (s.modHdw n f).resp = s.resp ∧ (s.modHdw n f).stm = s.stm ∧ (s.modHdw n f).mons = s.mons ∧
    (s.modHdw n f).kvc = s.kvc ∧ (s.modHdw n f).rts = s.rts ∧ (s.modHdw n f).pts = s.pts ∧
    (s.modHdw n f).jct = s.jct ∧ (s.modHdw n f).pwr = s.pwr ∧ (s.modHdw n f).mwl = s.mwl ∧
    (s.modHdw n f).ftn = s.ftn ∧ (s.modHdw n f).sup = s.sup ∧ (s.modHdw n f).tapPort = s.tapPort ∧
    (s.modHdw n f).highLatch = s.highLatch :=
  ⟨rfl, rfl, rfl, rfl, rfl, rfl, rfl, rfl, rfl, rfl, rfl, rfl, rfl, rfl, rfl, rfl, rfl, rfl, rfl, rfl, rfl, rfl,
   rfl, rfl, rfl, rfl, rfl, rfl, rfl, rfl, rfl⟩

/-- `modCam` at its own entry. -/
@[simp] theorem State.modCam_same (s : State) (n : Nat) (f : CamPort → CamPort) : (s.modCam n f).cam n = f (s.cam n) :=
  tget_tmod_same _ _ _ _
/-- `modCam` at any other entry. -/
@[simp] theorem State.modCam_other (s : State) (n k : Nat) (f : CamPort → CamPort) (h : k ≠ n) :
    (s.modCam n f).cam k = s.cam k := tget_tmod_other _ _ _ _ _ h
/-- `modCam` changes no other part of the state. -/
@[simp] theorem State.modCam_frame (s : State) (n : Nat) (f : CamPort → CamPort) :
    (s.modCam n f).pending = s.pending ∧ (s.modCam n f).freeCtr = s.freeCtr ∧ (s.modCam n f).mem = s.mem ∧
    (s.modCam n f).clocks = s.clocks ∧ (s.modCam n f).pins = s.pins ∧ (s.modCam n f).boot = s.boot ∧
    (s.modCam n f).reload = s.reload ∧ (s.modCam n f).sections = s.sections ∧ (s.modCam n f).basins = s.basins ∧
    (s.modCam n f).banks = s.banks ∧ (s.modCam n f).blocks = s.blocks ∧ (s.modCam n f).dram = s.dram ∧
    (s.modCam n f).repair = s.repair ∧ (s.modCam n f).slc = s.slc ∧ (s.modCam n f).sbx = s.sbx ∧
    (s.modCam n f).ttb = s.ttb ∧ (s.modCam n f).sent = s.sent ∧ (s.modCam n f).resp = s.resp ∧
    (s.modCam n f).stm = s.stm ∧ (s.modCam n f).mons = s.mons ∧ (s.modCam n f).ilk = s.ilk ∧
    (s.modCam n f).kvc = s.kvc ∧ (s.modCam n f).rts = s.rts ∧ (s.modCam n f).pts = s.pts ∧
    (s.modCam n f).jct = s.jct ∧ (s.modCam n f).pwr = s.pwr ∧ (s.modCam n f).mwl = s.mwl ∧
    (s.modCam n f).ftn = s.ftn ∧ (s.modCam n f).sup = s.sup ∧ (s.modCam n f).tapPort = s.tapPort ∧
    (s.modCam n f).highLatch = s.highLatch :=
  ⟨rfl, rfl, rfl, rfl, rfl, rfl, rfl, rfl, rfl, rfl, rfl, rfl, rfl, rfl, rfl, rfl, rfl, rfl, rfl, rfl, rfl, rfl,
   rfl, rfl, rfl, rfl, rfl, rfl, rfl, rfl, rfl⟩

/-- `modTrig` at its own entry. -/
@[simp] theorem State.modTrig_same (s : State) (n : Nat) (f : TrigOut → TrigOut) : (s.modTrig n f).trig n = f (s.trig n) :=
  tget_tmod_same _ _ _ _
/-- `modTrig` at any other entry. -/
@[simp] theorem State.modTrig_other (s : State) (n k : Nat) (f : TrigOut → TrigOut) (h : k ≠ n) :
    (s.modTrig n f).trig k = s.trig k := tget_tmod_other _ _ _ _ _ h
/-- `modTrig` changes no other part of the state. -/
@[simp] theorem State.modTrig_frame (s : State) (n : Nat) (f : TrigOut → TrigOut) :
    (s.modTrig n f).pending = s.pending ∧ (s.modTrig n f).freeCtr = s.freeCtr ∧ (s.modTrig n f).mem = s.mem ∧
    (s.modTrig n f).clocks = s.clocks ∧ (s.modTrig n f).pins = s.pins ∧ (s.modTrig n f).boot = s.boot ∧
    (s.modTrig n f).reload = s.reload ∧ (s.modTrig n f).sections = s.sections ∧ (s.modTrig n f).basins = s.basins ∧
    (s.modTrig n f).banks = s.banks ∧ (s.modTrig n f).blocks = s.blocks ∧ (s.modTrig n f).dram = s.dram ∧
    (s.modTrig n f).repair = s.repair ∧ (s.modTrig n f).slc = s.slc ∧ (s.modTrig n f).sbx = s.sbx ∧
    (s.modTrig n f).ttb = s.ttb ∧ (s.modTrig n f).sent = s.sent ∧ (s.modTrig n f).resp = s.resp ∧
    (s.modTrig n f).stm = s.stm ∧ (s.modTrig n f).mons = s.mons ∧ (s.modTrig n f).ilk = s.ilk ∧
    (s.modTrig n f).kvc = s.kvc ∧ (s.modTrig n f).rts = s.rts ∧ (s.modTrig n f).pts = s.pts ∧
    (s.modTrig n f).jct = s.jct ∧ (s.modTrig n f).pwr = s.pwr ∧ (s.modTrig n f).mwl = s.mwl ∧
    (s.modTrig n f).ftn = s.ftn ∧ (s.modTrig n f).sup = s.sup ∧ (s.modTrig n f).tapPort = s.tapPort ∧
    (s.modTrig n f).highLatch = s.highLatch :=
  ⟨rfl, rfl, rfl, rfl, rfl, rfl, rfl, rfl, rfl, rfl, rfl, rfl, rfl, rfl, rfl, rfl, rfl, rfl, rfl, rfl, rfl, rfl,
   rfl, rfl, rfl, rfl, rfl, rfl, rfl, rfl, rfl⟩

/-- `modCap` at its own entry. -/
@[simp] theorem State.modCap_same (s : State) (n : Nat) (f : CapInput → CapInput) : (s.modCap n f).cap n = f (s.cap n) :=
  tget_tmod_same _ _ _ _
/-- `modCap` at any other entry. -/
@[simp] theorem State.modCap_other (s : State) (n k : Nat) (f : CapInput → CapInput) (h : k ≠ n) :
    (s.modCap n f).cap k = s.cap k := tget_tmod_other _ _ _ _ _ h
/-- `modCap` changes no other part of the state. -/
@[simp] theorem State.modCap_frame (s : State) (n : Nat) (f : CapInput → CapInput) :
    (s.modCap n f).pending = s.pending ∧ (s.modCap n f).freeCtr = s.freeCtr ∧ (s.modCap n f).mem = s.mem ∧
    (s.modCap n f).clocks = s.clocks ∧ (s.modCap n f).pins = s.pins ∧ (s.modCap n f).boot = s.boot ∧
    (s.modCap n f).reload = s.reload ∧ (s.modCap n f).sections = s.sections ∧ (s.modCap n f).basins = s.basins ∧
    (s.modCap n f).banks = s.banks ∧ (s.modCap n f).blocks = s.blocks ∧ (s.modCap n f).dram = s.dram ∧
    (s.modCap n f).repair = s.repair ∧ (s.modCap n f).slc = s.slc ∧ (s.modCap n f).sbx = s.sbx ∧
    (s.modCap n f).ttb = s.ttb ∧ (s.modCap n f).sent = s.sent ∧ (s.modCap n f).resp = s.resp ∧
    (s.modCap n f).stm = s.stm ∧ (s.modCap n f).mons = s.mons ∧ (s.modCap n f).ilk = s.ilk ∧
    (s.modCap n f).kvc = s.kvc ∧ (s.modCap n f).rts = s.rts ∧ (s.modCap n f).pts = s.pts ∧
    (s.modCap n f).jct = s.jct ∧ (s.modCap n f).pwr = s.pwr ∧ (s.modCap n f).mwl = s.mwl ∧
    (s.modCap n f).ftn = s.ftn ∧ (s.modCap n f).sup = s.sup ∧ (s.modCap n f).tapPort = s.tapPort ∧
    (s.modCap n f).highLatch = s.highLatch :=
  ⟨rfl, rfl, rfl, rfl, rfl, rfl, rfl, rfl, rfl, rfl, rfl, rfl, rfl, rfl, rfl, rfl, rfl, rfl, rfl, rfl, rfl, rfl,
   rfl, rfl, rfl, rfl, rfl, rfl, rfl, rfl, rfl⟩

/-- `modStream` at its own entry. -/
@[simp] theorem State.modStream_same (s : State) (n : Nat) (f : FtnStream → FtnStream) : (s.modStream n f).stream n = f (s.stream n) :=
  tget_tmod_same _ _ _ _
/-- `modStream` at any other entry. -/
@[simp] theorem State.modStream_other (s : State) (n k : Nat) (f : FtnStream → FtnStream) (h : k ≠ n) :
    (s.modStream n f).stream k = s.stream k := tget_tmod_other _ _ _ _ _ h
/-- `modStream` changes no other part of the state. -/
@[simp] theorem State.modStream_frame (s : State) (n : Nat) (f : FtnStream → FtnStream) :
    (s.modStream n f).pending = s.pending ∧ (s.modStream n f).freeCtr = s.freeCtr ∧ (s.modStream n f).mem = s.mem ∧
    (s.modStream n f).clocks = s.clocks ∧ (s.modStream n f).pins = s.pins ∧ (s.modStream n f).boot = s.boot ∧
    (s.modStream n f).reload = s.reload ∧ (s.modStream n f).sections = s.sections ∧
    (s.modStream n f).basins = s.basins ∧ (s.modStream n f).banks = s.banks ∧ (s.modStream n f).blocks = s.blocks ∧
    (s.modStream n f).dram = s.dram ∧ (s.modStream n f).repair = s.repair ∧ (s.modStream n f).slc = s.slc ∧
    (s.modStream n f).sbx = s.sbx ∧ (s.modStream n f).ttb = s.ttb ∧ (s.modStream n f).sent = s.sent ∧
    (s.modStream n f).tmt = s.tmt ∧ (s.modStream n f).resp = s.resp ∧ (s.modStream n f).stm = s.stm ∧
    (s.modStream n f).mons = s.mons ∧ (s.modStream n f).ilk = s.ilk ∧ (s.modStream n f).kvc = s.kvc ∧
    (s.modStream n f).rts = s.rts ∧ (s.modStream n f).pts = s.pts ∧ (s.modStream n f).jct = s.jct ∧
    (s.modStream n f).pwr = s.pwr ∧ (s.modStream n f).mwl = s.mwl ∧ (s.modStream n f).sup = s.sup ∧
    (s.modStream n f).tapPort = s.tapPort ∧ (s.modStream n f).highLatch = s.highLatch :=
  ⟨rfl, rfl, rfl, rfl, rfl, rfl, rfl, rfl, rfl, rfl, rfl, rfl, rfl, rfl, rfl, rfl, rfl, rfl, rfl, rfl, rfl, rfl,
   rfl, rfl, rfl, rfl, rfl, rfl, rfl, rfl, rfl⟩

/-- `modSide` at its own entry. -/
@[simp] theorem State.modSide_same (s : State) (n : Nat) (f : JctSide → JctSide) : (s.modSide n f).side n = f (s.side n) :=
  tget_tmod_same _ _ _ _
/-- `modSide` at any other entry. -/
@[simp] theorem State.modSide_other (s : State) (n k : Nat) (f : JctSide → JctSide) (h : k ≠ n) :
    (s.modSide n f).side k = s.side k := tget_tmod_other _ _ _ _ _ h
/-- `modSide` changes no other part of the state. -/
@[simp] theorem State.modSide_frame (s : State) (n : Nat) (f : JctSide → JctSide) :
    (s.modSide n f).pending = s.pending ∧ (s.modSide n f).freeCtr = s.freeCtr ∧ (s.modSide n f).mem = s.mem ∧
    (s.modSide n f).clocks = s.clocks ∧ (s.modSide n f).pins = s.pins ∧ (s.modSide n f).boot = s.boot ∧
    (s.modSide n f).reload = s.reload ∧ (s.modSide n f).sections = s.sections ∧ (s.modSide n f).basins = s.basins ∧
    (s.modSide n f).banks = s.banks ∧ (s.modSide n f).blocks = s.blocks ∧ (s.modSide n f).dram = s.dram ∧
    (s.modSide n f).repair = s.repair ∧ (s.modSide n f).slc = s.slc ∧ (s.modSide n f).sbx = s.sbx ∧
    (s.modSide n f).ttb = s.ttb ∧ (s.modSide n f).sent = s.sent ∧ (s.modSide n f).tmt = s.tmt ∧
    (s.modSide n f).resp = s.resp ∧ (s.modSide n f).stm = s.stm ∧ (s.modSide n f).mons = s.mons ∧
    (s.modSide n f).ilk = s.ilk ∧ (s.modSide n f).kvc = s.kvc ∧ (s.modSide n f).rts = s.rts ∧
    (s.modSide n f).pts = s.pts ∧ (s.modSide n f).pwr = s.pwr ∧ (s.modSide n f).mwl = s.mwl ∧
    (s.modSide n f).ftn = s.ftn ∧ (s.modSide n f).sup = s.sup ∧ (s.modSide n f).tapPort = s.tapPort ∧
    (s.modSide n f).highLatch = s.highLatch :=
  ⟨rfl, rfl, rfl, rfl, rfl, rfl, rfl, rfl, rfl, rfl, rfl, rfl, rfl, rfl, rfl, rfl, rfl, rfl, rfl, rfl, rfl, rfl,
   rfl, rfl, rfl, rfl, rfl, rfl, rfl, rfl, rfl⟩

/-- `modKvSpace` at its own entry. -/
@[simp] theorem State.modKvSpace_same (s : State) (n : Nat) (f : KvSpace → KvSpace) : (s.modKvSpace n f).kvSpace n = f (s.kvSpace n) :=
  tget_tmod_same _ _ _ _
/-- `modKvSpace` at any other entry. -/
@[simp] theorem State.modKvSpace_other (s : State) (n k : Nat) (f : KvSpace → KvSpace) (h : k ≠ n) :
    (s.modKvSpace n f).kvSpace k = s.kvSpace k := tget_tmod_other _ _ _ _ _ h
/-- `modKvSpace` changes no other part of the state. -/
@[simp] theorem State.modKvSpace_frame (s : State) (n : Nat) (f : KvSpace → KvSpace) :
    (s.modKvSpace n f).pending = s.pending ∧ (s.modKvSpace n f).freeCtr = s.freeCtr ∧
    (s.modKvSpace n f).mem = s.mem ∧ (s.modKvSpace n f).clocks = s.clocks ∧ (s.modKvSpace n f).pins = s.pins ∧
    (s.modKvSpace n f).boot = s.boot ∧ (s.modKvSpace n f).reload = s.reload ∧
    (s.modKvSpace n f).sections = s.sections ∧ (s.modKvSpace n f).basins = s.basins ∧
    (s.modKvSpace n f).banks = s.banks ∧ (s.modKvSpace n f).blocks = s.blocks ∧ (s.modKvSpace n f).dram = s.dram ∧
    (s.modKvSpace n f).repair = s.repair ∧ (s.modKvSpace n f).slc = s.slc ∧ (s.modKvSpace n f).sbx = s.sbx ∧
    (s.modKvSpace n f).ttb = s.ttb ∧ (s.modKvSpace n f).sent = s.sent ∧ (s.modKvSpace n f).tmt = s.tmt ∧
    (s.modKvSpace n f).resp = s.resp ∧ (s.modKvSpace n f).stm = s.stm ∧ (s.modKvSpace n f).mons = s.mons ∧
    (s.modKvSpace n f).ilk = s.ilk ∧ (s.modKvSpace n f).rts = s.rts ∧ (s.modKvSpace n f).pts = s.pts ∧
    (s.modKvSpace n f).jct = s.jct ∧ (s.modKvSpace n f).pwr = s.pwr ∧ (s.modKvSpace n f).mwl = s.mwl ∧
    (s.modKvSpace n f).ftn = s.ftn ∧ (s.modKvSpace n f).sup = s.sup ∧ (s.modKvSpace n f).tapPort = s.tapPort ∧
    (s.modKvSpace n f).highLatch = s.highLatch :=
  ⟨rfl, rfl, rfl, rfl, rfl, rfl, rfl, rfl, rfl, rfl, rfl, rfl, rfl, rfl, rfl, rfl, rfl, rfl, rfl, rfl, rfl, rfl,
   rfl, rfl, rfl, rfl, rfl, rfl, rfl, rfl, rfl⟩

/-- `modKvSeq` at its own entry. -/
@[simp] theorem State.modKvSeq_same (s : State) (n : Nat) (f : KvSeq → KvSeq) : (s.modKvSeq n f).kvSeq n = f (s.kvSeq n) :=
  tget_tmod_same _ _ _ _
/-- `modKvSeq` at any other entry. -/
@[simp] theorem State.modKvSeq_other (s : State) (n k : Nat) (f : KvSeq → KvSeq) (h : k ≠ n) :
    (s.modKvSeq n f).kvSeq k = s.kvSeq k := tget_tmod_other _ _ _ _ _ h
/-- `modKvSeq` changes no other part of the state. -/
@[simp] theorem State.modKvSeq_frame (s : State) (n : Nat) (f : KvSeq → KvSeq) :
    (s.modKvSeq n f).pending = s.pending ∧ (s.modKvSeq n f).freeCtr = s.freeCtr ∧ (s.modKvSeq n f).mem = s.mem ∧
    (s.modKvSeq n f).clocks = s.clocks ∧ (s.modKvSeq n f).pins = s.pins ∧ (s.modKvSeq n f).boot = s.boot ∧
    (s.modKvSeq n f).reload = s.reload ∧ (s.modKvSeq n f).sections = s.sections ∧
    (s.modKvSeq n f).basins = s.basins ∧ (s.modKvSeq n f).banks = s.banks ∧ (s.modKvSeq n f).blocks = s.blocks ∧
    (s.modKvSeq n f).dram = s.dram ∧ (s.modKvSeq n f).repair = s.repair ∧ (s.modKvSeq n f).slc = s.slc ∧
    (s.modKvSeq n f).sbx = s.sbx ∧ (s.modKvSeq n f).ttb = s.ttb ∧ (s.modKvSeq n f).sent = s.sent ∧
    (s.modKvSeq n f).tmt = s.tmt ∧ (s.modKvSeq n f).resp = s.resp ∧ (s.modKvSeq n f).stm = s.stm ∧
    (s.modKvSeq n f).mons = s.mons ∧ (s.modKvSeq n f).ilk = s.ilk ∧ (s.modKvSeq n f).rts = s.rts ∧
    (s.modKvSeq n f).pts = s.pts ∧ (s.modKvSeq n f).jct = s.jct ∧ (s.modKvSeq n f).pwr = s.pwr ∧
    (s.modKvSeq n f).mwl = s.mwl ∧ (s.modKvSeq n f).ftn = s.ftn ∧ (s.modKvSeq n f).sup = s.sup ∧
    (s.modKvSeq n f).tapPort = s.tapPort ∧ (s.modKvSeq n f).highLatch = s.highLatch :=
  ⟨rfl, rfl, rfl, rfl, rfl, rfl, rfl, rfl, rfl, rfl, rfl, rfl, rfl, rfl, rfl, rfl, rfl, rfl, rfl, rfl, rfl, rfl,
   rfl, rfl, rfl, rfl, rfl, rfl, rfl, rfl, rfl⟩

/-- `modKvPage` at its own entry. -/
@[simp] theorem State.modKvPage_same (s : State) (n : Nat) (f : KvPage → KvPage) : (s.modKvPage n f).kvPage n = f (s.kvPage n) :=
  tget_tmod_same _ _ _ _
/-- `modKvPage` at any other entry. -/
@[simp] theorem State.modKvPage_other (s : State) (n k : Nat) (f : KvPage → KvPage) (h : k ≠ n) :
    (s.modKvPage n f).kvPage k = s.kvPage k := tget_tmod_other _ _ _ _ _ h
/-- `modKvPage` changes no other part of the state. -/
@[simp] theorem State.modKvPage_frame (s : State) (n : Nat) (f : KvPage → KvPage) :
    (s.modKvPage n f).pending = s.pending ∧ (s.modKvPage n f).freeCtr = s.freeCtr ∧ (s.modKvPage n f).mem = s.mem ∧
    (s.modKvPage n f).clocks = s.clocks ∧ (s.modKvPage n f).pins = s.pins ∧ (s.modKvPage n f).boot = s.boot ∧
    (s.modKvPage n f).reload = s.reload ∧ (s.modKvPage n f).sections = s.sections ∧
    (s.modKvPage n f).basins = s.basins ∧ (s.modKvPage n f).banks = s.banks ∧ (s.modKvPage n f).blocks = s.blocks ∧
    (s.modKvPage n f).dram = s.dram ∧ (s.modKvPage n f).repair = s.repair ∧ (s.modKvPage n f).slc = s.slc ∧
    (s.modKvPage n f).sbx = s.sbx ∧ (s.modKvPage n f).ttb = s.ttb ∧ (s.modKvPage n f).sent = s.sent ∧
    (s.modKvPage n f).tmt = s.tmt ∧ (s.modKvPage n f).resp = s.resp ∧ (s.modKvPage n f).stm = s.stm ∧
    (s.modKvPage n f).mons = s.mons ∧ (s.modKvPage n f).ilk = s.ilk ∧ (s.modKvPage n f).rts = s.rts ∧
    (s.modKvPage n f).pts = s.pts ∧ (s.modKvPage n f).jct = s.jct ∧ (s.modKvPage n f).pwr = s.pwr ∧
    (s.modKvPage n f).mwl = s.mwl ∧ (s.modKvPage n f).ftn = s.ftn ∧ (s.modKvPage n f).sup = s.sup ∧
    (s.modKvPage n f).tapPort = s.tapPort ∧ (s.modKvPage n f).highLatch = s.highLatch :=
  ⟨rfl, rfl, rfl, rfl, rfl, rfl, rfl, rfl, rfl, rfl, rfl, rfl, rfl, rfl, rfl, rfl, rfl, rfl, rfl, rfl, rfl, rfl,
   rfl, rfl, rfl, rfl, rfl, rfl, rfl, rfl, rfl⟩

/-- `modMport` at its own entry. -/
@[simp] theorem State.modMport_same (s : State) (n : Nat) (f : MwlPort → MwlPort) : (s.modMport n f).mport n = f (s.mport n) :=
  tget_tmod_same _ _ _ _
/-- `modMport` at any other entry. -/
@[simp] theorem State.modMport_other (s : State) (n k : Nat) (f : MwlPort → MwlPort) (h : k ≠ n) :
    (s.modMport n f).mport k = s.mport k := tget_tmod_other _ _ _ _ _ h
/-- `modMport` changes no other part of the state. -/
@[simp] theorem State.modMport_frame (s : State) (n : Nat) (f : MwlPort → MwlPort) :
    (s.modMport n f).pending = s.pending ∧ (s.modMport n f).freeCtr = s.freeCtr ∧ (s.modMport n f).mem = s.mem ∧
    (s.modMport n f).clocks = s.clocks ∧ (s.modMport n f).pins = s.pins ∧ (s.modMport n f).boot = s.boot ∧
    (s.modMport n f).reload = s.reload ∧ (s.modMport n f).sections = s.sections ∧
    (s.modMport n f).basins = s.basins ∧ (s.modMport n f).banks = s.banks ∧ (s.modMport n f).blocks = s.blocks ∧
    (s.modMport n f).dram = s.dram ∧ (s.modMport n f).repair = s.repair ∧ (s.modMport n f).slc = s.slc ∧
    (s.modMport n f).sbx = s.sbx ∧ (s.modMport n f).ttb = s.ttb ∧ (s.modMport n f).sent = s.sent ∧
    (s.modMport n f).tmt = s.tmt ∧ (s.modMport n f).resp = s.resp ∧ (s.modMport n f).stm = s.stm ∧
    (s.modMport n f).mons = s.mons ∧ (s.modMport n f).ilk = s.ilk ∧ (s.modMport n f).kvc = s.kvc ∧
    (s.modMport n f).rts = s.rts ∧ (s.modMport n f).pts = s.pts ∧ (s.modMport n f).jct = s.jct ∧
    (s.modMport n f).pwr = s.pwr ∧ (s.modMport n f).ftn = s.ftn ∧ (s.modMport n f).sup = s.sup ∧
    (s.modMport n f).tapPort = s.tapPort ∧ (s.modMport n f).highLatch = s.highLatch :=
  ⟨rfl, rfl, rfl, rfl, rfl, rfl, rfl, rfl, rfl, rfl, rfl, rfl, rfl, rfl, rfl, rfl, rfl, rfl, rfl, rfl, rfl, rfl,
   rfl, rfl, rfl, rfl, rfl, rfl, rfl, rfl, rfl⟩

/-- `modQueue` at its own entry. -/
@[simp] theorem State.modQueue_same (s : State) (n : Nat) (f : PtsQueue → PtsQueue) : (s.modQueue n f).ptsQueue n = f (s.ptsQueue n) :=
  tget_tmod_same _ _ _ _
/-- `modQueue` at any other entry. -/
@[simp] theorem State.modQueue_other (s : State) (n k : Nat) (f : PtsQueue → PtsQueue) (h : k ≠ n) :
    (s.modQueue n f).ptsQueue k = s.ptsQueue k := tget_tmod_other _ _ _ _ _ h
/-- `modQueue` changes no other part of the state. -/
@[simp] theorem State.modQueue_frame (s : State) (n : Nat) (f : PtsQueue → PtsQueue) :
    (s.modQueue n f).pending = s.pending ∧ (s.modQueue n f).freeCtr = s.freeCtr ∧ (s.modQueue n f).mem = s.mem ∧
    (s.modQueue n f).clocks = s.clocks ∧ (s.modQueue n f).pins = s.pins ∧ (s.modQueue n f).boot = s.boot ∧
    (s.modQueue n f).reload = s.reload ∧ (s.modQueue n f).sections = s.sections ∧
    (s.modQueue n f).basins = s.basins ∧ (s.modQueue n f).banks = s.banks ∧ (s.modQueue n f).blocks = s.blocks ∧
    (s.modQueue n f).dram = s.dram ∧ (s.modQueue n f).repair = s.repair ∧ (s.modQueue n f).slc = s.slc ∧
    (s.modQueue n f).sbx = s.sbx ∧ (s.modQueue n f).ttb = s.ttb ∧ (s.modQueue n f).sent = s.sent ∧
    (s.modQueue n f).tmt = s.tmt ∧ (s.modQueue n f).resp = s.resp ∧ (s.modQueue n f).stm = s.stm ∧
    (s.modQueue n f).mons = s.mons ∧ (s.modQueue n f).ilk = s.ilk ∧ (s.modQueue n f).kvc = s.kvc ∧
    (s.modQueue n f).rts = s.rts ∧ (s.modQueue n f).jct = s.jct ∧ (s.modQueue n f).pwr = s.pwr ∧
    (s.modQueue n f).mwl = s.mwl ∧ (s.modQueue n f).ftn = s.ftn ∧ (s.modQueue n f).sup = s.sup ∧
    (s.modQueue n f).tapPort = s.tapPort ∧ (s.modQueue n f).highLatch = s.highLatch :=
  ⟨rfl, rfl, rfl, rfl, rfl, rfl, rfl, rfl, rfl, rfl, rfl, rfl, rfl, rfl, rfl, rfl, rfl, rfl, rfl, rfl, rfl, rfl,
   rfl, rfl, rfl, rfl, rfl, rfl, rfl, rfl, rfl⟩

/-- `modDom` at its own entry. -/
@[simp] theorem State.modDom_same (s : State) (n : Nat) (f : PwrDom → PwrDom) : (s.modDom n f).dom n = f (s.dom n) :=
  tget_tmod_same _ _ _ _
/-- `modDom` at any other entry. -/
@[simp] theorem State.modDom_other (s : State) (n k : Nat) (f : PwrDom → PwrDom) (h : k ≠ n) :
    (s.modDom n f).dom k = s.dom k := tget_tmod_other _ _ _ _ _ h
/-- `modDom` changes no other part of the state. -/
@[simp] theorem State.modDom_frame (s : State) (n : Nat) (f : PwrDom → PwrDom) :
    (s.modDom n f).pending = s.pending ∧ (s.modDom n f).freeCtr = s.freeCtr ∧ (s.modDom n f).mem = s.mem ∧
    (s.modDom n f).clocks = s.clocks ∧ (s.modDom n f).pins = s.pins ∧ (s.modDom n f).boot = s.boot ∧
    (s.modDom n f).reload = s.reload ∧ (s.modDom n f).sections = s.sections ∧ (s.modDom n f).basins = s.basins ∧
    (s.modDom n f).banks = s.banks ∧ (s.modDom n f).blocks = s.blocks ∧ (s.modDom n f).dram = s.dram ∧
    (s.modDom n f).repair = s.repair ∧ (s.modDom n f).slc = s.slc ∧ (s.modDom n f).sbx = s.sbx ∧
    (s.modDom n f).ttb = s.ttb ∧ (s.modDom n f).sent = s.sent ∧ (s.modDom n f).tmt = s.tmt ∧
    (s.modDom n f).resp = s.resp ∧ (s.modDom n f).stm = s.stm ∧ (s.modDom n f).mons = s.mons ∧
    (s.modDom n f).ilk = s.ilk ∧ (s.modDom n f).kvc = s.kvc ∧ (s.modDom n f).rts = s.rts ∧
    (s.modDom n f).pts = s.pts ∧ (s.modDom n f).jct = s.jct ∧ (s.modDom n f).mwl = s.mwl ∧
    (s.modDom n f).ftn = s.ftn ∧ (s.modDom n f).sup = s.sup ∧ (s.modDom n f).tapPort = s.tapPort ∧
    (s.modDom n f).highLatch = s.highLatch :=
  ⟨rfl, rfl, rfl, rfl, rfl, rfl, rfl, rfl, rfl, rfl, rfl, rfl, rfl, rfl, rfl, rfl, rfl, rfl, rfl, rfl, rfl, rfl,
   rfl, rfl, rfl, rfl, rfl, rfl, rfl, rfl, rfl⟩

/-- `modTerr` at its own entry. -/
@[simp] theorem State.modTerr_same (s : State) (n : Nat) (f : Terr → Terr) : (s.modTerr n f).terr n = f (s.terr n) :=
  tget_tmod_same _ _ _ _
/-- `modTerr` at any other entry. -/
@[simp] theorem State.modTerr_other (s : State) (n k : Nat) (f : Terr → Terr) (h : k ≠ n) :
    (s.modTerr n f).terr k = s.terr k := tget_tmod_other _ _ _ _ _ h
/-- `modTerr` changes no other part of the state. -/
@[simp] theorem State.modTerr_frame (s : State) (n : Nat) (f : Terr → Terr) :
    (s.modTerr n f).pending = s.pending ∧ (s.modTerr n f).freeCtr = s.freeCtr ∧ (s.modTerr n f).mem = s.mem ∧
    (s.modTerr n f).clocks = s.clocks ∧ (s.modTerr n f).pins = s.pins ∧ (s.modTerr n f).boot = s.boot ∧
    (s.modTerr n f).reload = s.reload ∧ (s.modTerr n f).sections = s.sections ∧ (s.modTerr n f).basins = s.basins ∧
    (s.modTerr n f).banks = s.banks ∧ (s.modTerr n f).blocks = s.blocks ∧ (s.modTerr n f).dram = s.dram ∧
    (s.modTerr n f).repair = s.repair ∧ (s.modTerr n f).slc = s.slc ∧ (s.modTerr n f).sbx = s.sbx ∧
    (s.modTerr n f).ttb = s.ttb ∧ (s.modTerr n f).sent = s.sent ∧ (s.modTerr n f).tmt = s.tmt ∧
    (s.modTerr n f).resp = s.resp ∧ (s.modTerr n f).stm = s.stm ∧ (s.modTerr n f).mons = s.mons ∧
    (s.modTerr n f).ilk = s.ilk ∧ (s.modTerr n f).kvc = s.kvc ∧ (s.modTerr n f).rts = s.rts ∧
    (s.modTerr n f).pts = s.pts ∧ (s.modTerr n f).jct = s.jct ∧ (s.modTerr n f).mwl = s.mwl ∧
    (s.modTerr n f).ftn = s.ftn ∧ (s.modTerr n f).sup = s.sup ∧ (s.modTerr n f).tapPort = s.tapPort ∧
    (s.modTerr n f).highLatch = s.highLatch :=
  ⟨rfl, rfl, rfl, rfl, rfl, rfl, rfl, rfl, rfl, rfl, rfl, rfl, rfl, rfl, rfl, rfl, rfl, rfl, rfl, rfl, rfl, rfl,
   rfl, rfl, rfl, rfl, rfl, rfl, rfl, rfl, rfl⟩

/-- `modRts` at its own entry. -/
@[simp] theorem State.modRts_same (s : State) (n : Nat) (f : Rts → Rts) : (s.modRts n f).rtsAt n = f (s.rtsAt n) :=
  tget_tmod_same _ _ _ _
/-- `modRts` at any other entry. -/
@[simp] theorem State.modRts_other (s : State) (n k : Nat) (f : Rts → Rts) (h : k ≠ n) :
    (s.modRts n f).rtsAt k = s.rtsAt k := tget_tmod_other _ _ _ _ _ h
/-- `modRts` changes no other part of the state. -/
@[simp] theorem State.modRts_frame (s : State) (n : Nat) (f : Rts → Rts) :
    (s.modRts n f).pending = s.pending ∧ (s.modRts n f).freeCtr = s.freeCtr ∧ (s.modRts n f).mem = s.mem ∧
    (s.modRts n f).clocks = s.clocks ∧ (s.modRts n f).pins = s.pins ∧ (s.modRts n f).boot = s.boot ∧
    (s.modRts n f).reload = s.reload ∧ (s.modRts n f).sections = s.sections ∧ (s.modRts n f).basins = s.basins ∧
    (s.modRts n f).banks = s.banks ∧ (s.modRts n f).blocks = s.blocks ∧ (s.modRts n f).dram = s.dram ∧
    (s.modRts n f).repair = s.repair ∧ (s.modRts n f).slc = s.slc ∧ (s.modRts n f).sbx = s.sbx ∧
    (s.modRts n f).ttb = s.ttb ∧ (s.modRts n f).sent = s.sent ∧ (s.modRts n f).tmt = s.tmt ∧
    (s.modRts n f).resp = s.resp ∧ (s.modRts n f).stm = s.stm ∧ (s.modRts n f).mons = s.mons ∧
    (s.modRts n f).ilk = s.ilk ∧ (s.modRts n f).kvc = s.kvc ∧ (s.modRts n f).pts = s.pts ∧
    (s.modRts n f).jct = s.jct ∧ (s.modRts n f).pwr = s.pwr ∧ (s.modRts n f).mwl = s.mwl ∧
    (s.modRts n f).ftn = s.ftn ∧ (s.modRts n f).sup = s.sup ∧ (s.modRts n f).tapPort = s.tapPort ∧
    (s.modRts n f).highLatch = s.highLatch :=
  ⟨rfl, rfl, rfl, rfl, rfl, rfl, rfl, rfl, rfl, rfl, rfl, rfl, rfl, rfl, rfl, rfl, rfl, rfl, rfl, rfl, rfl, rfl,
   rfl, rfl, rfl, rfl, rfl, rfl, rfl, rfl, rfl⟩

/-- `modPort` changes no other part of the state. -/
@[simp] theorem State.modPort_frame (s : State) (n : Nat) (f : PtsPort → PtsPort) :
    (s.modPort n f).pending = s.pending ∧ (s.modPort n f).freeCtr = s.freeCtr ∧ (s.modPort n f).mem = s.mem ∧
    (s.modPort n f).clocks = s.clocks ∧ (s.modPort n f).pins = s.pins ∧ (s.modPort n f).boot = s.boot ∧
    (s.modPort n f).reload = s.reload ∧ (s.modPort n f).sections = s.sections ∧ (s.modPort n f).basins = s.basins ∧
    (s.modPort n f).banks = s.banks ∧ (s.modPort n f).blocks = s.blocks ∧ (s.modPort n f).dram = s.dram ∧
    (s.modPort n f).repair = s.repair ∧ (s.modPort n f).slc = s.slc ∧ (s.modPort n f).sbx = s.sbx ∧
    (s.modPort n f).ttb = s.ttb ∧ (s.modPort n f).sent = s.sent ∧ (s.modPort n f).tmt = s.tmt ∧
    (s.modPort n f).resp = s.resp ∧ (s.modPort n f).stm = s.stm ∧ (s.modPort n f).mons = s.mons ∧
    (s.modPort n f).ilk = s.ilk ∧ (s.modPort n f).kvc = s.kvc ∧ (s.modPort n f).rts = s.rts ∧
    (s.modPort n f).jct = s.jct ∧ (s.modPort n f).pwr = s.pwr ∧ (s.modPort n f).mwl = s.mwl ∧
    (s.modPort n f).ftn = s.ftn ∧ (s.modPort n f).sup = s.sup ∧ (s.modPort n f).tapPort = s.tapPort ∧
    (s.modPort n f).highLatch = s.highLatch :=
  ⟨rfl, rfl, rfl, rfl, rfl, rfl, rfl, rfl, rfl, rfl, rfl, rfl, rfl, rfl, rfl, rfl, rfl, rfl, rfl, rfl, rfl, rfl,
   rfl, rfl, rfl, rfl, rfl, rfl, rfl, rfl, rfl⟩

/-- `modTap` changes no other part of the state. -/
@[simp] theorem State.modTap_frame (s : State) (n : Nat) (f : TapCount → TapCount) :
    (s.modTap n f).pending = s.pending ∧ (s.modTap n f).freeCtr = s.freeCtr ∧ (s.modTap n f).mem = s.mem ∧
    (s.modTap n f).clocks = s.clocks ∧ (s.modTap n f).pins = s.pins ∧ (s.modTap n f).boot = s.boot ∧
    (s.modTap n f).reload = s.reload ∧ (s.modTap n f).sections = s.sections ∧ (s.modTap n f).basins = s.basins ∧
    (s.modTap n f).banks = s.banks ∧ (s.modTap n f).blocks = s.blocks ∧ (s.modTap n f).dram = s.dram ∧
    (s.modTap n f).repair = s.repair ∧ (s.modTap n f).slc = s.slc ∧ (s.modTap n f).sbx = s.sbx ∧
    (s.modTap n f).ttb = s.ttb ∧ (s.modTap n f).sent = s.sent ∧ (s.modTap n f).tmt = s.tmt ∧
    (s.modTap n f).resp = s.resp ∧ (s.modTap n f).stm = s.stm ∧ (s.modTap n f).mons = s.mons ∧
    (s.modTap n f).kvc = s.kvc ∧ (s.modTap n f).rts = s.rts ∧ (s.modTap n f).pts = s.pts ∧
    (s.modTap n f).jct = s.jct ∧ (s.modTap n f).pwr = s.pwr ∧ (s.modTap n f).mwl = s.mwl ∧
    (s.modTap n f).ftn = s.ftn ∧ (s.modTap n f).sup = s.sup ∧ (s.modTap n f).tapPort = s.tapPort ∧
    (s.modTap n f).highLatch = s.highLatch :=
  ⟨rfl, rfl, rfl, rfl, rfl, rfl, rfl, rfl, rfl, rfl, rfl, rfl, rfl, rfl, rfl, rfl, rfl, rfl, rfl, rfl, rfl, rfl,
   rfl, rfl, rfl, rfl, rfl, rfl, rfl, rfl, rfl⟩

/-- `modStm` at its own part. -/
@[simp] theorem State.modStm_stm (s : State) (f : Stm → Stm) : (s.modStm f).stm = f s.stm := rfl
/-- `modStm` changes no other part of the state. -/
@[simp] theorem State.modStm_frame (s : State) (f : Stm → Stm) :
    (s.modStm f).pending = s.pending ∧ (s.modStm f).freeCtr = s.freeCtr ∧ (s.modStm f).mem = s.mem ∧
    (s.modStm f).clocks = s.clocks ∧ (s.modStm f).pins = s.pins ∧ (s.modStm f).boot = s.boot ∧
    (s.modStm f).reload = s.reload ∧ (s.modStm f).sections = s.sections ∧ (s.modStm f).basins = s.basins ∧
    (s.modStm f).banks = s.banks ∧ (s.modStm f).blocks = s.blocks ∧ (s.modStm f).dram = s.dram ∧
    (s.modStm f).repair = s.repair ∧ (s.modStm f).slc = s.slc ∧ (s.modStm f).sbx = s.sbx ∧
    (s.modStm f).ttb = s.ttb ∧ (s.modStm f).sent = s.sent ∧ (s.modStm f).tmt = s.tmt ∧ (s.modStm f).resp = s.resp ∧
    (s.modStm f).mons = s.mons ∧ (s.modStm f).ilk = s.ilk ∧ (s.modStm f).kvc = s.kvc ∧ (s.modStm f).rts = s.rts ∧
    (s.modStm f).pts = s.pts ∧ (s.modStm f).jct = s.jct ∧ (s.modStm f).pwr = s.pwr ∧ (s.modStm f).mwl = s.mwl ∧
    (s.modStm f).ftn = s.ftn ∧ (s.modStm f).sup = s.sup ∧ (s.modStm f).tapPort = s.tapPort ∧
    (s.modStm f).highLatch = s.highLatch :=
  ⟨rfl, rfl, rfl, rfl, rfl, rfl, rfl, rfl, rfl, rfl, rfl, rfl, rfl, rfl, rfl, rfl, rfl, rfl, rfl, rfl, rfl, rfl,
   rfl, rfl, rfl, rfl, rfl, rfl, rfl, rfl, rfl⟩

/-- `modJct` at its own part. -/
@[simp] theorem State.modJct_jct (s : State) (f : Jct → Jct) : (s.modJct f).jct = f s.jct := rfl
/-- `modJct` changes no other part of the state. -/
@[simp] theorem State.modJct_frame (s : State) (f : Jct → Jct) :
    (s.modJct f).pending = s.pending ∧ (s.modJct f).freeCtr = s.freeCtr ∧ (s.modJct f).mem = s.mem ∧
    (s.modJct f).clocks = s.clocks ∧ (s.modJct f).pins = s.pins ∧ (s.modJct f).boot = s.boot ∧
    (s.modJct f).reload = s.reload ∧ (s.modJct f).sections = s.sections ∧ (s.modJct f).basins = s.basins ∧
    (s.modJct f).banks = s.banks ∧ (s.modJct f).blocks = s.blocks ∧ (s.modJct f).dram = s.dram ∧
    (s.modJct f).repair = s.repair ∧ (s.modJct f).slc = s.slc ∧ (s.modJct f).sbx = s.sbx ∧
    (s.modJct f).ttb = s.ttb ∧ (s.modJct f).sent = s.sent ∧ (s.modJct f).tmt = s.tmt ∧ (s.modJct f).resp = s.resp ∧
    (s.modJct f).stm = s.stm ∧ (s.modJct f).mons = s.mons ∧ (s.modJct f).ilk = s.ilk ∧ (s.modJct f).kvc = s.kvc ∧
    (s.modJct f).rts = s.rts ∧ (s.modJct f).pts = s.pts ∧ (s.modJct f).pwr = s.pwr ∧ (s.modJct f).mwl = s.mwl ∧
    (s.modJct f).ftn = s.ftn ∧ (s.modJct f).sup = s.sup ∧ (s.modJct f).tapPort = s.tapPort ∧
    (s.modJct f).highLatch = s.highLatch :=
  ⟨rfl, rfl, rfl, rfl, rfl, rfl, rfl, rfl, rfl, rfl, rfl, rfl, rfl, rfl, rfl, rfl, rfl, rfl, rfl, rfl, rfl, rfl,
   rfl, rfl, rfl, rfl, rfl, rfl, rfl, rfl, rfl⟩

/-- `modKvc` at its own part. -/
@[simp] theorem State.modKvc_kvc (s : State) (f : Kvc → Kvc) : (s.modKvc f).kvc = f s.kvc := rfl
/-- `modKvc` changes no other part of the state. -/
@[simp] theorem State.modKvc_frame (s : State) (f : Kvc → Kvc) :
    (s.modKvc f).pending = s.pending ∧ (s.modKvc f).freeCtr = s.freeCtr ∧ (s.modKvc f).mem = s.mem ∧
    (s.modKvc f).clocks = s.clocks ∧ (s.modKvc f).pins = s.pins ∧ (s.modKvc f).boot = s.boot ∧
    (s.modKvc f).reload = s.reload ∧ (s.modKvc f).sections = s.sections ∧ (s.modKvc f).basins = s.basins ∧
    (s.modKvc f).banks = s.banks ∧ (s.modKvc f).blocks = s.blocks ∧ (s.modKvc f).dram = s.dram ∧
    (s.modKvc f).repair = s.repair ∧ (s.modKvc f).slc = s.slc ∧ (s.modKvc f).sbx = s.sbx ∧
    (s.modKvc f).ttb = s.ttb ∧ (s.modKvc f).sent = s.sent ∧ (s.modKvc f).tmt = s.tmt ∧ (s.modKvc f).resp = s.resp ∧
    (s.modKvc f).stm = s.stm ∧ (s.modKvc f).mons = s.mons ∧ (s.modKvc f).ilk = s.ilk ∧ (s.modKvc f).rts = s.rts ∧
    (s.modKvc f).pts = s.pts ∧ (s.modKvc f).jct = s.jct ∧ (s.modKvc f).pwr = s.pwr ∧ (s.modKvc f).mwl = s.mwl ∧
    (s.modKvc f).ftn = s.ftn ∧ (s.modKvc f).sup = s.sup ∧ (s.modKvc f).tapPort = s.tapPort ∧
    (s.modKvc f).highLatch = s.highLatch :=
  ⟨rfl, rfl, rfl, rfl, rfl, rfl, rfl, rfl, rfl, rfl, rfl, rfl, rfl, rfl, rfl, rfl, rfl, rfl, rfl, rfl, rfl, rfl,
   rfl, rfl, rfl, rfl, rfl, rfl, rfl, rfl, rfl⟩

/-- `modMwl` at its own part. -/
@[simp] theorem State.modMwl_mwl (s : State) (f : Mwl → Mwl) : (s.modMwl f).mwl = f s.mwl := rfl
/-- `modMwl` changes no other part of the state. -/
@[simp] theorem State.modMwl_frame (s : State) (f : Mwl → Mwl) :
    (s.modMwl f).pending = s.pending ∧ (s.modMwl f).freeCtr = s.freeCtr ∧ (s.modMwl f).mem = s.mem ∧
    (s.modMwl f).clocks = s.clocks ∧ (s.modMwl f).pins = s.pins ∧ (s.modMwl f).boot = s.boot ∧
    (s.modMwl f).reload = s.reload ∧ (s.modMwl f).sections = s.sections ∧ (s.modMwl f).basins = s.basins ∧
    (s.modMwl f).banks = s.banks ∧ (s.modMwl f).blocks = s.blocks ∧ (s.modMwl f).dram = s.dram ∧
    (s.modMwl f).repair = s.repair ∧ (s.modMwl f).slc = s.slc ∧ (s.modMwl f).sbx = s.sbx ∧
    (s.modMwl f).ttb = s.ttb ∧ (s.modMwl f).sent = s.sent ∧ (s.modMwl f).tmt = s.tmt ∧ (s.modMwl f).resp = s.resp ∧
    (s.modMwl f).stm = s.stm ∧ (s.modMwl f).mons = s.mons ∧ (s.modMwl f).ilk = s.ilk ∧ (s.modMwl f).kvc = s.kvc ∧
    (s.modMwl f).rts = s.rts ∧ (s.modMwl f).pts = s.pts ∧ (s.modMwl f).jct = s.jct ∧ (s.modMwl f).pwr = s.pwr ∧
    (s.modMwl f).ftn = s.ftn ∧ (s.modMwl f).sup = s.sup ∧ (s.modMwl f).tapPort = s.tapPort ∧
    (s.modMwl f).highLatch = s.highLatch :=
  ⟨rfl, rfl, rfl, rfl, rfl, rfl, rfl, rfl, rfl, rfl, rfl, rfl, rfl, rfl, rfl, rfl, rfl, rfl, rfl, rfl, rfl, rfl,
   rfl, rfl, rfl, rfl, rfl, rfl, rfl, rfl, rfl⟩

/-- `modPts` at its own part. -/
@[simp] theorem State.modPts_pts (s : State) (f : Pts → Pts) : (s.modPts f).pts = f s.pts := rfl
/-- `modPts` changes no other part of the state. -/
@[simp] theorem State.modPts_frame (s : State) (f : Pts → Pts) :
    (s.modPts f).pending = s.pending ∧ (s.modPts f).freeCtr = s.freeCtr ∧ (s.modPts f).mem = s.mem ∧
    (s.modPts f).clocks = s.clocks ∧ (s.modPts f).pins = s.pins ∧ (s.modPts f).boot = s.boot ∧
    (s.modPts f).reload = s.reload ∧ (s.modPts f).sections = s.sections ∧ (s.modPts f).basins = s.basins ∧
    (s.modPts f).banks = s.banks ∧ (s.modPts f).blocks = s.blocks ∧ (s.modPts f).dram = s.dram ∧
    (s.modPts f).repair = s.repair ∧ (s.modPts f).slc = s.slc ∧ (s.modPts f).sbx = s.sbx ∧
    (s.modPts f).ttb = s.ttb ∧ (s.modPts f).sent = s.sent ∧ (s.modPts f).tmt = s.tmt ∧ (s.modPts f).resp = s.resp ∧
    (s.modPts f).stm = s.stm ∧ (s.modPts f).mons = s.mons ∧ (s.modPts f).ilk = s.ilk ∧ (s.modPts f).kvc = s.kvc ∧
    (s.modPts f).rts = s.rts ∧ (s.modPts f).jct = s.jct ∧ (s.modPts f).pwr = s.pwr ∧ (s.modPts f).mwl = s.mwl ∧
    (s.modPts f).ftn = s.ftn ∧ (s.modPts f).sup = s.sup ∧ (s.modPts f).tapPort = s.tapPort ∧
    (s.modPts f).highLatch = s.highLatch :=
  ⟨rfl, rfl, rfl, rfl, rfl, rfl, rfl, rfl, rfl, rfl, rfl, rfl, rfl, rfl, rfl, rfl, rfl, rfl, rfl, rfl, rfl, rfl,
   rfl, rfl, rfl, rfl, rfl, rfl, rfl, rfl, rfl⟩

/-- `modPwr` at its own part. -/
@[simp] theorem State.modPwr_pwr (s : State) (f : Pwr → Pwr) : (s.modPwr f).pwr = f s.pwr := rfl
/-- `modPwr` changes no other part of the state. -/
@[simp] theorem State.modPwr_frame (s : State) (f : Pwr → Pwr) :
    (s.modPwr f).pending = s.pending ∧ (s.modPwr f).freeCtr = s.freeCtr ∧ (s.modPwr f).mem = s.mem ∧
    (s.modPwr f).clocks = s.clocks ∧ (s.modPwr f).pins = s.pins ∧ (s.modPwr f).boot = s.boot ∧
    (s.modPwr f).reload = s.reload ∧ (s.modPwr f).sections = s.sections ∧ (s.modPwr f).basins = s.basins ∧
    (s.modPwr f).banks = s.banks ∧ (s.modPwr f).blocks = s.blocks ∧ (s.modPwr f).dram = s.dram ∧
    (s.modPwr f).repair = s.repair ∧ (s.modPwr f).slc = s.slc ∧ (s.modPwr f).sbx = s.sbx ∧
    (s.modPwr f).ttb = s.ttb ∧ (s.modPwr f).sent = s.sent ∧ (s.modPwr f).tmt = s.tmt ∧ (s.modPwr f).resp = s.resp ∧
    (s.modPwr f).stm = s.stm ∧ (s.modPwr f).mons = s.mons ∧ (s.modPwr f).ilk = s.ilk ∧ (s.modPwr f).kvc = s.kvc ∧
    (s.modPwr f).rts = s.rts ∧ (s.modPwr f).pts = s.pts ∧ (s.modPwr f).jct = s.jct ∧ (s.modPwr f).mwl = s.mwl ∧
    (s.modPwr f).ftn = s.ftn ∧ (s.modPwr f).sup = s.sup ∧ (s.modPwr f).tapPort = s.tapPort ∧
    (s.modPwr f).highLatch = s.highLatch :=
  ⟨rfl, rfl, rfl, rfl, rfl, rfl, rfl, rfl, rfl, rfl, rfl, rfl, rfl, rfl, rfl, rfl, rfl, rfl, rfl, rfl, rfl, rfl,
   rfl, rfl, rfl, rfl, rfl, rfl, rfl, rfl, rfl⟩

/-- `modReload` at its own part. -/
@[simp] theorem State.modReload_reload (s : State) (f : Reload → Reload) : (s.modReload f).reload = f s.reload := rfl
/-- `modReload` changes no other part of the state. -/
@[simp] theorem State.modReload_frame (s : State) (f : Reload → Reload) :
    (s.modReload f).pending = s.pending ∧ (s.modReload f).freeCtr = s.freeCtr ∧ (s.modReload f).mem = s.mem ∧
    (s.modReload f).clocks = s.clocks ∧ (s.modReload f).pins = s.pins ∧ (s.modReload f).boot = s.boot ∧
    (s.modReload f).sections = s.sections ∧ (s.modReload f).basins = s.basins ∧ (s.modReload f).banks = s.banks ∧
    (s.modReload f).blocks = s.blocks ∧ (s.modReload f).dram = s.dram ∧ (s.modReload f).repair = s.repair ∧
    (s.modReload f).slc = s.slc ∧ (s.modReload f).sbx = s.sbx ∧ (s.modReload f).ttb = s.ttb ∧
    (s.modReload f).sent = s.sent ∧ (s.modReload f).tmt = s.tmt ∧ (s.modReload f).resp = s.resp ∧
    (s.modReload f).stm = s.stm ∧ (s.modReload f).mons = s.mons ∧ (s.modReload f).ilk = s.ilk ∧
    (s.modReload f).kvc = s.kvc ∧ (s.modReload f).rts = s.rts ∧ (s.modReload f).pts = s.pts ∧
    (s.modReload f).jct = s.jct ∧ (s.modReload f).pwr = s.pwr ∧ (s.modReload f).mwl = s.mwl ∧
    (s.modReload f).ftn = s.ftn ∧ (s.modReload f).sup = s.sup ∧ (s.modReload f).tapPort = s.tapPort ∧
    (s.modReload f).highLatch = s.highLatch :=
  ⟨rfl, rfl, rfl, rfl, rfl, rfl, rfl, rfl, rfl, rfl, rfl, rfl, rfl, rfl, rfl, rfl, rfl, rfl, rfl, rfl, rfl, rfl,
   rfl, rfl, rfl, rfl, rfl, rfl, rfl, rfl, rfl⟩

/-- `modSup` at its own part. -/
@[simp] theorem State.modSup_sup (s : State) (f : Sup → Sup) : (s.modSup f).sup = f s.sup := rfl
/-- `modSup` changes no other part of the state. -/
@[simp] theorem State.modSup_frame (s : State) (f : Sup → Sup) :
    (s.modSup f).pending = s.pending ∧ (s.modSup f).freeCtr = s.freeCtr ∧ (s.modSup f).mem = s.mem ∧
    (s.modSup f).clocks = s.clocks ∧ (s.modSup f).pins = s.pins ∧ (s.modSup f).boot = s.boot ∧
    (s.modSup f).reload = s.reload ∧ (s.modSup f).sections = s.sections ∧ (s.modSup f).basins = s.basins ∧
    (s.modSup f).banks = s.banks ∧ (s.modSup f).blocks = s.blocks ∧ (s.modSup f).dram = s.dram ∧
    (s.modSup f).repair = s.repair ∧ (s.modSup f).slc = s.slc ∧ (s.modSup f).sbx = s.sbx ∧
    (s.modSup f).ttb = s.ttb ∧ (s.modSup f).sent = s.sent ∧ (s.modSup f).tmt = s.tmt ∧ (s.modSup f).resp = s.resp ∧
    (s.modSup f).stm = s.stm ∧ (s.modSup f).mons = s.mons ∧ (s.modSup f).ilk = s.ilk ∧ (s.modSup f).kvc = s.kvc ∧
    (s.modSup f).rts = s.rts ∧ (s.modSup f).pts = s.pts ∧ (s.modSup f).jct = s.jct ∧ (s.modSup f).pwr = s.pwr ∧
    (s.modSup f).mwl = s.mwl ∧ (s.modSup f).ftn = s.ftn ∧ (s.modSup f).tapPort = s.tapPort ∧
    (s.modSup f).highLatch = s.highLatch :=
  ⟨rfl, rfl, rfl, rfl, rfl, rfl, rfl, rfl, rfl, rfl, rfl, rfl, rfl, rfl, rfl, rfl, rfl, rfl, rfl, rfl, rfl, rfl,
   rfl, rfl, rfl, rfl, rfl, rfl, rfl, rfl, rfl⟩

/-- `modTapPort` at its own part. -/
@[simp] theorem State.modTapPort_tapPort (s : State) (f : TapPort → TapPort) : (s.modTapPort f).tapPort = f s.tapPort := rfl
/-- `modTapPort` changes no other part of the state. -/
@[simp] theorem State.modTapPort_frame (s : State) (f : TapPort → TapPort) :
    (s.modTapPort f).pending = s.pending ∧ (s.modTapPort f).freeCtr = s.freeCtr ∧ (s.modTapPort f).mem = s.mem ∧
    (s.modTapPort f).clocks = s.clocks ∧ (s.modTapPort f).pins = s.pins ∧ (s.modTapPort f).boot = s.boot ∧
    (s.modTapPort f).reload = s.reload ∧ (s.modTapPort f).sections = s.sections ∧
    (s.modTapPort f).basins = s.basins ∧ (s.modTapPort f).banks = s.banks ∧ (s.modTapPort f).blocks = s.blocks ∧
    (s.modTapPort f).dram = s.dram ∧ (s.modTapPort f).repair = s.repair ∧ (s.modTapPort f).slc = s.slc ∧
    (s.modTapPort f).sbx = s.sbx ∧ (s.modTapPort f).ttb = s.ttb ∧ (s.modTapPort f).sent = s.sent ∧
    (s.modTapPort f).tmt = s.tmt ∧ (s.modTapPort f).resp = s.resp ∧ (s.modTapPort f).stm = s.stm ∧
    (s.modTapPort f).mons = s.mons ∧ (s.modTapPort f).ilk = s.ilk ∧ (s.modTapPort f).kvc = s.kvc ∧
    (s.modTapPort f).rts = s.rts ∧ (s.modTapPort f).pts = s.pts ∧ (s.modTapPort f).jct = s.jct ∧
    (s.modTapPort f).pwr = s.pwr ∧ (s.modTapPort f).mwl = s.mwl ∧ (s.modTapPort f).ftn = s.ftn ∧
    (s.modTapPort f).sup = s.sup ∧ (s.modTapPort f).highLatch = s.highLatch :=
  ⟨rfl, rfl, rfl, rfl, rfl, rfl, rfl, rfl, rfl, rfl, rfl, rfl, rfl, rfl, rfl, rfl, rfl, rfl, rfl, rfl, rfl, rfl,
   rfl, rfl, rfl, rfl, rfl, rfl, rfl, rfl, rfl⟩

/-- `modTmt` at its own part. -/
@[simp] theorem State.modTmt_tmt (s : State) (f : Tmt → Tmt) : (s.modTmt f).tmt = f s.tmt := rfl
/-- `modTmt` changes no other part of the state. -/
@[simp] theorem State.modTmt_frame (s : State) (f : Tmt → Tmt) :
    (s.modTmt f).pending = s.pending ∧ (s.modTmt f).freeCtr = s.freeCtr ∧ (s.modTmt f).mem = s.mem ∧
    (s.modTmt f).clocks = s.clocks ∧ (s.modTmt f).pins = s.pins ∧ (s.modTmt f).boot = s.boot ∧
    (s.modTmt f).reload = s.reload ∧ (s.modTmt f).sections = s.sections ∧ (s.modTmt f).basins = s.basins ∧
    (s.modTmt f).banks = s.banks ∧ (s.modTmt f).blocks = s.blocks ∧ (s.modTmt f).dram = s.dram ∧
    (s.modTmt f).repair = s.repair ∧ (s.modTmt f).slc = s.slc ∧ (s.modTmt f).sbx = s.sbx ∧
    (s.modTmt f).ttb = s.ttb ∧ (s.modTmt f).sent = s.sent ∧ (s.modTmt f).resp = s.resp ∧ (s.modTmt f).stm = s.stm ∧
    (s.modTmt f).mons = s.mons ∧ (s.modTmt f).ilk = s.ilk ∧ (s.modTmt f).kvc = s.kvc ∧ (s.modTmt f).rts = s.rts ∧
    (s.modTmt f).pts = s.pts ∧ (s.modTmt f).jct = s.jct ∧ (s.modTmt f).pwr = s.pwr ∧ (s.modTmt f).mwl = s.mwl ∧
    (s.modTmt f).ftn = s.ftn ∧ (s.modTmt f).sup = s.sup ∧ (s.modTmt f).tapPort = s.tapPort ∧
    (s.modTmt f).highLatch = s.highLatch :=
  ⟨rfl, rfl, rfl, rfl, rfl, rfl, rfl, rfl, rfl, rfl, rfl, rfl, rfl, rfl, rfl, rfl, rfl, rfl, rfl, rfl, rfl, rfl,
   rfl, rfl, rfl, rfl, rfl, rfl, rfl, rfl, rfl⟩

/-- `wr` changes no other part of the state. -/
@[simp] theorem State.wr_frame (s : State) (a : Nat) (bs : Bytes) :
    (s.wr a bs).pending = s.pending ∧ (s.wr a bs).freeCtr = s.freeCtr ∧ (s.wr a bs).clocks = s.clocks ∧
    (s.wr a bs).pins = s.pins ∧ (s.wr a bs).boot = s.boot ∧ (s.wr a bs).reload = s.reload ∧
    (s.wr a bs).sections = s.sections ∧ (s.wr a bs).basins = s.basins ∧ (s.wr a bs).banks = s.banks ∧
    (s.wr a bs).blocks = s.blocks ∧ (s.wr a bs).dram = s.dram ∧ (s.wr a bs).repair = s.repair ∧
    (s.wr a bs).slc = s.slc ∧ (s.wr a bs).sbx = s.sbx ∧ (s.wr a bs).ttb = s.ttb ∧ (s.wr a bs).sent = s.sent ∧
    (s.wr a bs).tmt = s.tmt ∧ (s.wr a bs).resp = s.resp ∧ (s.wr a bs).stm = s.stm ∧ (s.wr a bs).mons = s.mons ∧
    (s.wr a bs).ilk = s.ilk ∧ (s.wr a bs).kvc = s.kvc ∧ (s.wr a bs).rts = s.rts ∧ (s.wr a bs).pts = s.pts ∧
    (s.wr a bs).jct = s.jct ∧ (s.wr a bs).pwr = s.pwr ∧ (s.wr a bs).mwl = s.mwl ∧ (s.wr a bs).ftn = s.ftn ∧
    (s.wr a bs).sup = s.sup ∧ (s.wr a bs).tapPort = s.tapPort ∧ (s.wr a bs).highLatch = s.highLatch :=
  ⟨rfl, rfl, rfl, rfl, rfl, rfl, rfl, rfl, rfl, rfl, rfl, rfl, rfl, rfl, rfl, rfl, rfl, rfl, rfl, rfl, rfl, rfl,
   rfl, rfl, rfl, rfl, rfl, rfl, rfl, rfl, rfl⟩

/-- `zero` changes no other part of the state. -/
@[simp] theorem State.zero_frame (s : State) (a n : Nat) :
    (s.zero a n).pending = s.pending ∧ (s.zero a n).freeCtr = s.freeCtr ∧ (s.zero a n).clocks = s.clocks ∧
    (s.zero a n).pins = s.pins ∧ (s.zero a n).boot = s.boot ∧ (s.zero a n).reload = s.reload ∧
    (s.zero a n).sections = s.sections ∧ (s.zero a n).basins = s.basins ∧ (s.zero a n).banks = s.banks ∧
    (s.zero a n).blocks = s.blocks ∧ (s.zero a n).dram = s.dram ∧ (s.zero a n).repair = s.repair ∧
    (s.zero a n).slc = s.slc ∧ (s.zero a n).sbx = s.sbx ∧ (s.zero a n).ttb = s.ttb ∧ (s.zero a n).sent = s.sent ∧
    (s.zero a n).tmt = s.tmt ∧ (s.zero a n).resp = s.resp ∧ (s.zero a n).stm = s.stm ∧ (s.zero a n).mons = s.mons ∧
    (s.zero a n).ilk = s.ilk ∧ (s.zero a n).kvc = s.kvc ∧ (s.zero a n).rts = s.rts ∧ (s.zero a n).pts = s.pts ∧
    (s.zero a n).jct = s.jct ∧ (s.zero a n).pwr = s.pwr ∧ (s.zero a n).mwl = s.mwl ∧ (s.zero a n).ftn = s.ftn ∧
    (s.zero a n).sup = s.sup ∧ (s.zero a n).tapPort = s.tapPort ∧ (s.zero a n).highLatch = s.highLatch :=
  ⟨rfl, rfl, rfl, rfl, rfl, rfl, rfl, rfl, rfl, rfl, rfl, rfl, rfl, rfl, rfl, rfl, rfl, rfl, rfl, rfl, rfl, rfl,
   rfl, rfl, rfl, rfl, rfl, rfl, rfl, rfl, rfl⟩

/-- `report` changes no other part of the state. -/
@[simp] theorem State.report_frame (s : State) (k a b : Nat) :
    (s.report k a b).pending = s.pending ∧ (s.report k a b).freeCtr = s.freeCtr ∧ (s.report k a b).mem = s.mem ∧
    (s.report k a b).clocks = s.clocks ∧ (s.report k a b).pins = s.pins ∧ (s.report k a b).boot = s.boot ∧
    (s.report k a b).reload = s.reload ∧ (s.report k a b).sections = s.sections ∧
    (s.report k a b).basins = s.basins ∧ (s.report k a b).banks = s.banks ∧ (s.report k a b).blocks = s.blocks ∧
    (s.report k a b).dram = s.dram ∧ (s.report k a b).repair = s.repair ∧ (s.report k a b).slc = s.slc ∧
    (s.report k a b).sbx = s.sbx ∧ (s.report k a b).ttb = s.ttb ∧ (s.report k a b).sent = s.sent ∧
    (s.report k a b).tmt = s.tmt ∧ (s.report k a b).resp = s.resp ∧ (s.report k a b).mons = s.mons ∧
    (s.report k a b).ilk = s.ilk ∧ (s.report k a b).kvc = s.kvc ∧ (s.report k a b).rts = s.rts ∧
    (s.report k a b).pts = s.pts ∧ (s.report k a b).jct = s.jct ∧ (s.report k a b).pwr = s.pwr ∧
    (s.report k a b).mwl = s.mwl ∧ (s.report k a b).ftn = s.ftn ∧ (s.report k a b).sup = s.sup ∧
    (s.report k a b).tapPort = s.tapPort ∧ (s.report k a b).highLatch = s.highLatch :=
  ⟨rfl, rfl, rfl, rfl, rfl, rfl, rfl, rfl, rfl, rfl, rfl, rfl, rfl, rfl, rfl, rfl, rfl, rfl, rfl, rfl, rfl, rfl,
   rfl, rfl, rfl, rfl, rfl, rfl, rfl, rfl, rfl⟩

end Sys2Proof.Machine
end

