-- ==== Sys2Proof/Laws/Access.lean ====
section
/-! SUPPORT. What an access comes to: the one of three ways that its Sluice gives it (R365), what a bank does with it (R96),
and the answer, which stands in `resp` where nothing else waits for it. -/

namespace Sys2Proof.Machine

/-- Nothing but the requester waits for the answer. -/
@[simp] theorem State.settled_other (s : State) (e : AccessError) : State.settled s .other e = s := by
  unfold State.settled; dsimp only; split <;> rfl

@[simp] theorem State.answerData_other (s : State) (b : Bytes) :
    s.answerData .other b = { s with resp := { kind := .data, bytes := b } } := State.settled_other _ _

@[simp] theorem State.answerError_other (s : State) (e : AccessError) :
    s.answerError .other e = { s with resp := { kind := .error } } := State.settled_other _ _

/-- An access is granted and carried out, held, or denied with no effect on its target (R15, R365, R373). -/
theorem State.access_cases (s : State) (acc : Access) :
    (s.verdict acc = .grant ∧ s.access acc = s.carry acc) ∨
    (s.verdict acc = .hold ∧ s.access acc = s.holdAccess acc) ∨
    (∃ k, s.verdict acc = .deny k ∧ s.access acc = (s.noteDenial acc k).answerError acc.origin .denied) := by
  unfold State.access
  cases h : s.verdict acc with
  | grant => exact .inl ⟨rfl, rfl⟩
  | hold => exact .inr (.inl ⟨rfl, rfl⟩)
  | deny k => exact .inr (.inr ⟨k, rfl, rfl⟩)

/-- A bank serves an access, holds it in order and wakes for it, or faults it with no effect on its contents (R96, R104). -/
theorem State.bankMeet_cases (s : State) (k : Nat) (r : BankReq) :
    (s.bankJudge k r = .serve ∧ s.bankMeet k r = s.bankServe k r) ∨
    (s.bankJudge k r = .hold ∧
      (s.bankMeet k r).banks = tmod {} s.banks k (fun b => { (Bank.wake b) with held := b.held ++ [r] }) ∧
      (s.bankMeet k r).mem = s.mem) ∨
    (∃ c, s.bankJudge k r = .fault c ∧
      s.bankMeet k r = ((s.noteBankFault k r c).noteOldOwner k r.tag).answerError r.origin (bankError c)) := by
  unfold State.bankMeet
  cases h : s.bankJudge k r with
  | serve => exact .inl ⟨rfl, rfl⟩
  | hold => exact .inr (.inl ⟨rfl, rfl, rfl⟩)
  | fault c => exact .inr (.inr ⟨c, rfl, rfl⟩)

/-- An access whose bank fault nothing waits for leaves memory alone (R96). -/
theorem State.bankFault_mem (s : State) (k : Nat) (r : BankReq) (c : Nat) (h : s.bankJudge k r = .fault c)
    (ho : r.origin = .other) : (s.bankMeet k r).mem = s.mem := by
  unfold State.bankMeet
  rw [h, ho]; simp; rfl

end Sys2Proof.Machine
end

