-- ==== Sys2Proof/Laws/Keeps.lean ====
section
/-! SUPPORT. What every meaning but a few keeps: memory's canonical form, the queue, the reset pins, the first cause of
the safe state, and SAFE_N low once it is low. One lemma per operation says so, and later proofs cite it. -/

namespace Sys2Proof.Laws

open Sys2Proof.Machine

/-- What the command `r → s` keeps, in terms of the fields that it speaks of. -/
structure KeepsCore (r : State) (mem : List Host.Cell) (pending : List Instr) (pins : Pins) (ilk : Ilk) (free : Nat) :
    Prop where
  /-- Memory stays in canonical form. -/
  mem : Memory.wf r.mem = true → Memory.wf mem = true
  /-- The queue stays. -/
  pending : pending = r.pending
  /-- PORST_N stays. -/
  porst : pins.porstN = r.pins.porstN
  /-- RESET_N stays. -/
  reset : pins.resetN = r.pins.resetN
  /-- SAFE_N may fall and not rise. -/
  cmd : pins.safeNCmd = true → r.pins.safeNCmd = true
  /-- The asserted safe state stays. -/
  stays : r.ilk.asserted = true → ilk.asserted = true
  /-- It is asserted only on a latched cause, with SAFE_N low. -/
  asserts : ilk.asserted = true → r.ilk.asserted = true ∨ (ilk.safeCause ≠ 0 ∧ pins.safeNCmd = false)
  /-- The first cause stays. -/
  cause : r.ilk.safeCause ≠ 0 →
    ilk.safeCause = r.ilk.safeCause ∧ ilk.safeSub = r.ilk.safeSub ∧ ilk.detectNs = r.ilk.detectNs
  /-- Indexes of free values are never used again. -/
  free : r.freeCtr ≤ free

/-- What the command `r → s` keeps. -/
def Keeps (r s : State) : Prop := KeepsCore r s.mem s.pending s.pins s.ilk s.freeCtr

theorem Keeps.refl (s : State) : Keeps s s :=
  ⟨id, rfl, rfl, rfl, id, id, Or.inl, fun _ => ⟨rfl, rfl, rfl⟩, Nat.le_refl _⟩

theorem Keeps.trans {r s t : State} (h : Keeps r s) (k : Keeps s t) : Keeps r t where
  mem w := k.mem (h.mem w)
  pending := k.pending.trans h.pending
  porst := k.porst.trans h.porst
  reset := k.reset.trans h.reset
  cmd c := h.cmd (k.cmd c)
  stays a := k.stays (h.stays a)
  asserts a := by
    rcases k.asserts a with a | a
    · rcases h.asserts a with a | ⟨a, b⟩
      · exact Or.inl a
      · refine Or.inr ⟨?_, ?_⟩
        · rw [(k.cause a).1]; exact a
        · cases e : t.pins.safeNCmd
          · rfl
          · exact absurd (k.cmd e) (by simp [b])
    · exact Or.inr a
  cause c := by
    have c' : s.ilk.safeCause ≠ 0 := by rw [(h.cause c).1]; exact c
    obtain ⟨a₁, a₂, a₃⟩ := h.cause c
    obtain ⟨b₁, b₂, b₃⟩ := k.cause c'
    exact ⟨b₁.trans a₁, b₂.trans a₂, b₃.trans a₃⟩
  free := Nat.le_trans h.free k.free

/-- A state written out field by field. -/
theorem keeps_mk {r : State} {pending mem pins ilk free f3 f5 f6 f7 f8 f9 f10 f11 f12 f13 f14 f15 f16 f17 f18 f19 f20 f22 f23 f24 f25 f26 f27 f28 f29 f30 f31}
    (h : KeepsCore r mem pending pins ilk free) : Keeps r (State.mk pending free mem f3 pins f5 f6 f7 f8 f9 f10 f11 f12 f13 f14 f15 f16 f17 f18 f19 f20 ilk f22 f23 f24 f25 f26 f27 f28 f29 f30 f31) := h

theorem keeps_mk_iff {r : State} {pending mem pins ilk free f3 f5 f6 f7 f8 f9 f10 f11 f12 f13 f14 f15 f16 f17 f18 f19 f20 f22 f23 f24 f25 f26 f27 f28 f29 f30 f31} :
    Keeps r (State.mk pending free mem f3 pins f5 f6 f7 f8 f9 f10 f11 f12 f13 f14 f15 f16 f17 f18 f19 f20 ilk f22 f23 f24 f25 f26 f27 f28 f29 f30 f31) ↔ KeepsCore r mem pending pins ilk free := Iff.rfl

theorem Keeps.ite {r s t : State} {c : Prop} [Decidable c] (h : c → Keeps r s) (k : ¬c → Keeps r t) :
    Keeps r (if c then s else t) := by
  split
  · exact h (by assumption)
  · exact k (by assumption)

/-- The fields that it speaks of are those of a state that keeps them. -/
theorem KeepsCore.same {r s : State} (h : Keeps r s) : KeepsCore r s.mem s.pending s.pins s.ilk s.freeCtr := h

/-- The island's registers change, and neither its latch nor its assertion. -/
theorem KeepsCore.ilk {r s : State} {i : Ilk} (h : Keeps r s)
    (e : (i.asserted, i.safeCause, i.safeSub, i.detectNs) =
      (s.ilk.asserted, s.ilk.safeCause, s.ilk.safeSub, s.ilk.detectNs)) :
    KeepsCore r s.mem s.pending s.pins i s.freeCtr := by
  simp only [Prod.mk.injEq] at e
  obtain ⟨e₁, e₂, e₃, e₄⟩ := e
  exact ⟨h.mem, h.pending, h.porst, h.reset, h.cmd, e₁ ▸ h.stays, by rw [e₁, e₂]; exact h.asserts,
    by rw [e₂, e₃, e₄]; exact h.cause, h.free⟩

/-- The pins change, and neither the resets nor the commanded SAFE_N. -/
theorem KeepsCore.otherPins {r s : State} {p : Pins} (h : Keeps r s)
    (e : (p.porstN, p.resetN, p.safeNCmd) = (s.pins.porstN, s.pins.resetN, s.pins.safeNCmd)) :
    KeepsCore r s.mem s.pending p s.ilk s.freeCtr := by
  simp only [Prod.mk.injEq] at e
  obtain ⟨e₁, e₂, e₃⟩ := e
  exact ⟨h.mem, h.pending, by rw [e₁]; exact h.porst, by rw [e₂]; exact h.reset, by rw [e₃]; exact h.cmd, h.stays,
    by rw [e₃]; exact h.asserts, h.cause, h.free⟩

/-- SAFE_N falls, and the other pins that it speaks of stay. -/
theorem KeepsCore.lowered {r s : State} {p : Pins} (h : Keeps r s)
    (e : (p.porstN, p.resetN) = (s.pins.porstN, s.pins.resetN)) (e' : p.safeNCmd = false) :
    KeepsCore r s.mem s.pending p s.ilk s.freeCtr := by
  simp only [Prod.mk.injEq] at e
  exact ⟨h.mem, h.pending, by rw [e.1]; exact h.porst, by rw [e.2]; exact h.reset, by simp [e'], h.stays,
    fun a => (h.asserts a).imp_right fun x => ⟨x.1, e'⟩, h.cause, h.free⟩

/-- Memory changes, and stays canonical. -/
theorem KeepsCore.memory {r s : State} {m : List Host.Cell} (h : Keeps r s)
    (e : Memory.wf s.mem = true → Memory.wf m = true) : KeepsCore r m s.pending s.pins s.ilk s.freeCtr :=
  ⟨fun w => e (h.mem w), h.pending, h.porst, h.reset, h.cmd, h.stays, h.asserts, h.cause, h.free⟩

/-- A free value is used. -/
theorem KeepsCore.drawn {r s : State} {n : Nat} (h : Keeps r s) (e : s.freeCtr ≤ n) :
    KeepsCore r s.mem s.pending s.pins s.ilk n :=
  ⟨h.mem, h.pending, h.porst, h.reset, h.cmd, h.stays, h.asserts, h.cause, Nat.le_trans h.free e⟩

/-- A loop whose body keeps them. -/
theorem Keeps.foldl {α : Type} {r : State} {f : State → α → State} (hf : ∀ s a, Keeps r s → Keeps r (f s a)) :
    ∀ {l : List α} {s : State}, Keeps r s → Keeps r (l.foldl f s)
  | [], _, h => h
  | a :: l, s, h => Keeps.foldl (l := l) hf (hf s a h)

/-- A loop that carries a result beside the state. -/
theorem Keeps.foldl_fst {α β : Type} {r : State} {f : State × β → α → State × β}
    (hf : ∀ s b a, Keeps r s → Keeps r (f (s, b) a).1) :
    ∀ {l : List α} {p : State × β}, Keeps r p.1 → Keeps r (l.foldl f p).1
  | [], _, h => h
  | a :: l, p, h => Keeps.foldl_fst (l := l) hf (hf p.1 p.2 a h)

/-- A loop that carries a result before the state. -/
theorem Keeps.foldl_snd {α β : Type} {r : State} {f : β × State → α → β × State}
    (hf : ∀ b s a, Keeps r s → Keeps r (f (b, s) a).2) :
    ∀ {l : List α} {p : β × State}, Keeps r p.2 → Keeps r (l.foldl f p).2
  | [], _, h => h
  | a :: l, p, h => Keeps.foldl_snd (l := l) hf (hf p.1 p.2 a h)

/-- A loop that carries a result before the state and one after it. -/
theorem Keeps.foldl_mid {α β γ : Type} {r : State} {f : β × State × γ → α → β × State × γ}
    (hf : ∀ b s c a, Keeps r s → Keeps r (f (b, s, c) a).2.1) :
    ∀ {l : List α} {p : β × State × γ}, Keeps r p.2.1 → Keeps r (l.foldl f p).2.1
  | [], _, h => h
  | a :: l, p, h => Keeps.foldl_mid (l := l) hf (hf p.1 p.2.1 p.2.2 a h)

/-- A loop over something that holds the state. -/
theorem Keeps.foldl_by {α β : Type} (g : β → State) {r : State} {f : β → α → β}
    (hf : ∀ b a, Keeps r (g b) → Keeps r (g (f b a))) :
    ∀ {l : List α} {b : β}, Keeps r (g b) → Keeps r (g (l.foldl f b))
  | [], _, h => h
  | a :: l, b, h => Keeps.foldl_by g (l := l) hf (hf b a h)

/-- The outcome of a command that keeps them: a next state. -/
def KeepsOut (r : State) (o : Out) : Prop := ∃ t, o = .next t ∧ Keeps r t

theorem KeepsOut.next {r t : State} (h : Keeps r t) : KeepsOut r (.next t) := ⟨t, rfl, h⟩

theorem act_keeps {r s : State} {f : State → State} (h : Keeps r s) (hf : Keeps r (f s)) : KeepsOut r (act s f) := by
  unfold act
  refine KeepsOut.next ?_
  split
  · exact hf
  · exact h

/-- A state that may be absent. -/
def OptKeeps (r : State) (o : Option State) : Prop := ∀ t, o = some t → Keeps r t

theorem OptKeeps.none {r : State} : OptKeeps r none := fun _ e => by cases e

theorem OptKeeps.some {r s : State} (h : Keeps r s) : OptKeeps r (some s) := fun _ e => by cases e; exact h

theorem OptKeeps.ite {r : State} {o u : Option State} {c : Prop} [Decidable c] (h : c → OptKeeps r o)
    (k : ¬c → OptKeeps r u) : OptKeeps r (if c then o else u) := by
  split
  · exact h (by assumption)
  · exact k (by assumption)

/-- The first of two states that is there. -/
theorem OptKeeps.getD {r s : State} {o : Option State} (h : OptKeeps r o) (k : Keeps r s) : Keeps r (o.getD s) := by
  cases o with
  | none => exact k
  | some t => exact h t rfl

end Sys2Proof.Laws
end

