-- ==== Sys2Proof/Laws/KeepsOps.lean ====
section
/-! SUPPORT. What the operations of Machine/Ops.lean keep. -/

namespace Sys2Proof.Machine

open Sys2Proof.Laws

-- act_keeps stands in Laws/Keeps.lean

theorem State.wr_keeps {r₀ : State} (s : State) (a : Nat) (bs : Bytes) (hk : Keeps r₀ s) : Keeps r₀ (s.wr a bs) :=
  KeepsCore.memory (s := s) hk (memWrite_wf a bs)

theorem State.zero_keeps {r₀ : State} (s : State) (a n : Nat) (hk : Keeps r₀ s) : Keeps r₀ (s.zero a n) :=
  KeepsCore.memory (s := s) hk (memZero_wf a n)

theorem State.scramble_keeps {r₀ : State} (s : State) (a n k : Nat) (hk : Keeps r₀ s) :
    Keeps r₀ (State.scramble s a n k) := by
  unfold State.scramble
  repeat' first
    | with_reducible assumption | with_reducible apply State.wr_keeps
    | with_reducible refine Keeps.ite (fun _ => ?_) (fun _ => ?_) | with_reducible refine KeepsCore.same ?_
    | dsimp only | simp only [keeps_mk_iff] | split

theorem State.draw_keeps {r₀ : State} (s : State) (hk : Keeps r₀ s) : Keeps r₀ s.draw.2 :=
  KeepsCore.drawn (s := s) hk (Nat.le_succ _)

theorem State.modBasin_keeps {r₀ : State} (s : State) (n : Nat) (f : Basin → Basin) (hk : Keeps r₀ s) :
    Keeps r₀ (State.modBasin s n f) := by
  unfold State.modBasin
  repeat' first
    | with_reducible assumption | with_reducible refine Keeps.ite (fun _ => ?_) (fun _ => ?_)
    | with_reducible refine KeepsCore.same ?_ | dsimp only | simp only [keeps_mk_iff] | split

theorem State.modBank_keeps {r₀ : State} (s : State) (k : Nat) (f : Bank → Bank) (hk : Keeps r₀ s) :
    Keeps r₀ (State.modBank s k f) := by
  unfold State.modBank
  repeat' first
    | with_reducible assumption | with_reducible refine Keeps.ite (fun _ => ?_) (fun _ => ?_)
    | with_reducible refine KeepsCore.same ?_ | dsimp only | simp only [keeps_mk_iff] | split

theorem State.modBlock_keeps {r₀ : State} (s : State) (k : Nat) (f : BankBlock → BankBlock) (hk : Keeps r₀ s) :
    Keeps r₀ (State.modBlock s k f) := by
  unfold State.modBlock
  repeat' first
    | with_reducible assumption | with_reducible refine Keeps.ite (fun _ => ?_) (fun _ => ?_)
    | with_reducible refine KeepsCore.same ?_ | dsimp only | simp only [keeps_mk_iff] | split

theorem State.modClock_keeps {r₀ : State} (s : State) (d : Nat) (f : ClockDomain → ClockDomain) (hk : Keeps r₀ s) :
    Keeps r₀ (State.modClock s d f) := by
  unfold State.modClock
  repeat' first
    | with_reducible assumption | with_reducible refine Keeps.ite (fun _ => ?_) (fun _ => ?_)
    | with_reducible refine KeepsCore.same ?_ | dsimp only | simp only [keeps_mk_iff] | split

theorem State.clockStep_keeps {r₀ : State} (s : State) (d : Nat) (hk : Keeps r₀ s) :
    Keeps r₀ (State.clockStep s d) := by
  unfold State.clockStep
  repeat' first
    | with_reducible assumption | with_reducible apply State.modClock_keeps
    | with_reducible refine Keeps.ite (fun _ => ?_) (fun _ => ?_) | with_reducible refine KeepsCore.same ?_
    | dsimp only | simp only [keeps_mk_iff] | split

theorem State.modRing_keeps {r₀ : State} (s : State) (n : Nat) (f : Ring → Ring) (hk : Keeps r₀ s) :
    Keeps r₀ (State.modRing s n f) := by
  unfold State.modRing
  repeat' first
    | with_reducible assumption | with_reducible refine Keeps.ite (fun _ => ?_) (fun _ => ?_)
    | with_reducible refine KeepsCore.same ?_ | dsimp only | simp only [keeps_mk_iff] | split

theorem State.modToken_keeps {r₀ : State} (s : State) (n : Nat) (f : Token → Token) (hk : Keeps r₀ s) :
    Keeps r₀ (State.modToken s n f) := by
  unfold State.modToken
  repeat' first
    | with_reducible assumption | with_reducible refine Keeps.ite (fun _ => ?_) (fun _ => ?_)
    | with_reducible refine KeepsCore.same ?_ | dsimp only | simp only [keeps_mk_iff] | split

theorem State.modNode_keeps {r₀ : State} (s : State) (n : Nat) (f : Node → Node) (hk : Keeps r₀ s) :
    Keeps r₀ (State.modNode s n f) := by
  unfold State.modNode
  repeat' first
    | with_reducible assumption | with_reducible refine Keeps.ite (fun _ => ?_) (fun _ => ?_)
    | with_reducible refine KeepsCore.same ?_ | dsimp only | simp only [keeps_mk_iff] | split

theorem State.modGraph_keeps {r₀ : State} (s : State) (g : Nat) (f : Graph → Graph) (hk : Keeps r₀ s) :
    Keeps r₀ (State.modGraph s g f) := by
  unfold State.modGraph
  repeat' first
    | with_reducible assumption | with_reducible refine Keeps.ite (fun _ => ?_) (fun _ => ?_)
    | with_reducible refine KeepsCore.same ?_ | dsimp only | simp only [keeps_mk_iff] | split

theorem State.modCtx_keeps {r₀ : State} (s : State) (c : Nat) (f : Ctx → Ctx) (hk : Keeps r₀ s) :
    Keeps r₀ (State.modCtx s c f) := by
  unfold State.modCtx
  repeat' first
    | with_reducible assumption | with_reducible refine Keeps.ite (fun _ => ?_) (fun _ => ?_)
    | with_reducible refine KeepsCore.same ?_ | dsimp only | simp only [keeps_mk_iff] | split

theorem State.modConsist_keeps {r₀ : State} (s : State) (c : Nat) (f : Consist → Consist) (hk : Keeps r₀ s) :
    Keeps r₀ (State.modConsist s c f) := by
  unfold State.modConsist
  repeat' first
    | with_reducible assumption | with_reducible refine Keeps.ite (fun _ => ?_) (fun _ => ?_)
    | with_reducible refine KeepsCore.same ?_ | dsimp only | simp only [keeps_mk_iff] | split

theorem State.modOwner_keeps {r₀ : State} (s : State) (p : Nat) (f : OwnerEntry → OwnerEntry) (hk : Keeps r₀ s) :
    Keeps r₀ (State.modOwner s p f) := by
  unfold State.modOwner
  repeat' first
    | with_reducible assumption | with_reducible refine Keeps.ite (fun _ => ?_) (fun _ => ?_)
    | with_reducible refine KeepsCore.same ?_ | dsimp only | simp only [keeps_mk_iff] | split

theorem State.modEnclave_keeps {r₀ : State} (s : State) (n : Nat) (f : Enclave → Enclave) (hk : Keeps r₀ s) :
    Keeps r₀ (State.modEnclave s n f) := by
  unfold State.modEnclave
  repeat' first
    | with_reducible assumption | with_reducible refine Keeps.ite (fun _ => ?_) (fun _ => ?_)
    | with_reducible refine KeepsCore.same ?_ | dsimp only | simp only [keeps_mk_iff] | split

theorem State.modHart_keeps {r₀ : State} (s : State) (h : Nat) (f : Hart → Hart) (hk : Keeps r₀ s) :
    Keeps r₀ (State.modHart s h f) := by
  unfold State.modHart
  repeat' first
    | with_reducible assumption | with_reducible refine Keeps.ite (fun _ => ?_) (fun _ => ?_)
    | with_reducible refine KeepsCore.same ?_ | dsimp only | simp only [keeps_mk_iff] | split

theorem State.modTmt_keeps {r₀ : State} (s : State) (f : Tmt → Tmt) (hk : Keeps r₀ s) :
    Keeps r₀ (State.modTmt s f) := by
  unfold State.modTmt
  repeat' first
    | with_reducible assumption | with_reducible refine Keeps.ite (fun _ => ?_) (fun _ => ?_)
    | with_reducible refine KeepsCore.same ?_ | dsimp only | simp only [keeps_mk_iff] | split

theorem State.reach_keeps {r₀ : State} (s : State) (t : Nat) (hk : Keeps r₀ s) :
    Keeps r₀ (State.reach s t) := by
  unfold State.reach
  repeat' first
    | with_reducible assumption | with_reducible apply State.modTmt_keeps
    | with_reducible refine Keeps.ite (fun _ => ?_) (fun _ => ?_) | with_reducible refine KeepsCore.same ?_
    | with_reducible refine KeepsCore.otherPins ?_ rfl | dsimp only | simp only [keeps_mk_iff] | split

theorem State.report_keeps {r₀ : State} (s : State) (kind a b : Nat) (hk : Keeps r₀ s) :
    Keeps r₀ (State.report s kind a b) := by
  unfold State.report
  repeat' first
    | with_reducible assumption | with_reducible refine Keeps.ite (fun _ => ?_) (fun _ => ?_)
    | with_reducible refine KeepsCore.same ?_ | dsimp only | simp only [keeps_mk_iff] | split

theorem State.trace_keeps {r₀ : State} (s : State) (tp : Nat) (args : List Nat) (hk : Keeps r₀ s) :
    Keeps r₀ (State.trace s tp args) := by
  unfold State.trace
  repeat' first
    | with_reducible assumption | with_reducible apply State.wr_keeps
    | with_reducible refine Keeps.ite (fun _ => ?_) (fun _ => ?_) | with_reducible refine KeepsCore.same ?_
    | dsimp only | simp only [keeps_mk_iff] | split

theorem State.noteDenial_keeps {r₀ : State} (s : State) (acc : Access) (kind : Nat) (hk : Keeps r₀ s) :
    Keeps r₀ (State.noteDenial s acc kind) := by
  unfold State.noteDenial
  repeat' first
    | with_reducible assumption | with_reducible refine Keeps.ite (fun _ => ?_) (fun _ => ?_)
    | with_reducible refine KeepsCore.same ?_ | dsimp only | simp only [keeps_mk_iff] | split

theorem State.logPage_keeps {r₀ : State} (s : State) (page : Nat) (hk : Keeps r₀ s) :
    Keeps r₀ (State.logPage s page) := by
  unfold State.logPage
  repeat' first
    | with_reducible assumption | with_reducible apply State.wr_keeps
    | with_reducible refine Keeps.ite (fun _ => ?_) (fun _ => ?_) | with_reducible refine KeepsCore.same ?_
    | dsimp only | simp only [keeps_mk_iff] | split

theorem State.logWrite_keeps {r₀ : State} (s : State) (a n : Nat) (hk : Keeps r₀ s) :
    Keeps r₀ (State.logWrite s a n) := by
  unfold State.logWrite
  repeat' first
    | with_reducible assumption | with_reducible apply State.logPage_keeps
    | with_reducible refine Keeps.ite (fun _ => ?_) (fun _ => ?_) | with_reducible refine KeepsCore.same ?_
    | dsimp only | simp only [keeps_mk_iff] | split

end Sys2Proof.Machine
end

