-- ==== Sys2Proof/Laws/KeepsTorus.lean ====
section
/-! SUPPORT. What the operations of Machine/Torus.lean keep. -/

namespace Sys2Proof.Machine

open Sys2Proof.Laws

theorem State.modMwl_keeps {r₀ : State} (s : State) (f : Mwl → Mwl) (hk : Keeps r₀ s) :
    Keeps r₀ (State.modMwl s f) := by
  unfold State.modMwl
  repeat' first
    | with_reducible assumption | with_reducible refine Keeps.ite (fun _ => ?_) (fun _ => ?_)
    | with_reducible refine KeepsCore.same ?_ | dsimp only | simp only [keeps_mk_iff] | split

theorem State.modMport_keeps {r₀ : State} (s : State) (p : Nat) (f : MwlPort → MwlPort) (hk : Keeps r₀ s) :
    Keeps r₀ (State.modMport s p f) := by
  unfold State.modMport
  repeat' first
    | with_reducible assumption | with_reducible apply State.modMwl_keeps
    | with_reducible refine Keeps.ite (fun _ => ?_) (fun _ => ?_) | with_reducible refine KeepsCore.same ?_
    | dsimp only | simp only [keeps_mk_iff] | split

theorem State.pumpN_keeps {r₀ : State} (p : Nat) (x0 : Nat) (s : State) (hk : Keeps r₀ s) :
    Keeps r₀ (State.pumpN p x0 s) := by
  induction x0 generalizing p s with
  | zero => exact hk
  | succ n ih =>
    unfold State.pumpN
    repeat' first
      | with_reducible assumption | with_reducible apply ih | with_reducible apply State.modMport_keeps
      | with_reducible apply State.modMwl_keeps | with_reducible refine Keeps.ite (fun _ => ?_) (fun _ => ?_)
      | with_reducible refine KeepsCore.same ?_ | dsimp only | simp only [keeps_mk_iff] | split

theorem State.pump_keeps {r₀ : State} (s : State) (p : Nat) (hk : Keeps r₀ s) :
    Keeps r₀ (State.pump s p) := by
  unfold State.pump
  repeat' first
    | with_reducible assumption | with_reducible apply State.pumpN_keeps
    | with_reducible refine Keeps.ite (fun _ => ?_) (fun _ => ?_) | with_reducible refine KeepsCore.same ?_
    | dsimp only | simp only [keeps_mk_iff] | split

theorem State.enqueue_keeps {r₀ : State} (s : State) (p : Nat) (flit data : Bytes) (hk : Keeps r₀ s) :
    Keeps r₀ (State.enqueue s p flit data) := by
  unfold State.enqueue
  repeat' first
    | with_reducible assumption | with_reducible apply State.modMport_keeps | with_reducible apply State.pump_keeps
    | with_reducible refine Keeps.ite (fun _ => ?_) (fun _ => ?_) | with_reducible refine KeepsCore.same ?_
    | dsimp only | simp only [keeps_mk_iff] | split

theorem State.mwlSend_keeps {r₀ : State} (s : State) (dst : Nat) (prio : Bool) (flit : Nat → Bytes) (data : Bytes) (hk : Keeps r₀ s) :
    Keeps r₀ (State.mwlSend s dst prio flit data) := by
  unfold State.mwlSend
  repeat' first
    | with_reducible assumption | with_reducible apply State.enqueue_keeps | with_reducible apply State.modMwl_keeps
    | with_reducible refine Keeps.ite (fun _ => ?_) (fun _ => ?_) | with_reducible refine KeepsCore.same ?_
    | dsimp only | simp only [keeps_mk_iff] | split

end Sys2Proof.Machine
end

