-- ==== Sys2Proof/Laws/KeepsAccess.lean ====
section
/-! SUPPORT. What the operations of Machine/Access.lean keep. -/

namespace Sys2Proof.Machine

open Sys2Proof.Laws

theorem State.dropWalkerPin_keeps {r₀ : State} (s : State) (n : Nat) (hk : Keeps r₀ s) :
    Keeps r₀ (State.dropWalkerPin s n) := by
  unfold State.dropWalkerPin
  repeat' first
    | with_reducible assumption | with_reducible apply State.walkerPin_keeps
    | with_reducible apply State.modBasin_keeps | with_reducible refine Keeps.ite (fun _ => ?_) (fun _ => ?_)
    | with_reducible refine KeepsCore.same ?_ | with_reducible refine KeepsCore.otherPins ?_ rfl | dsimp only
    | simp only [keeps_mk_iff] | split

theorem State.basinFail_keeps {r₀ : State} (s : State) (n idx status : Nat) (hk : Keeps r₀ s) :
    Keeps r₀ (State.basinFail s n idx status) := by
  unfold State.basinFail
  repeat' first
    | with_reducible assumption | with_reducible apply State.dropWalkerPin_keeps
    | with_reducible apply State.modBasin_keeps | with_reducible refine Keeps.ite (fun _ => ?_) (fun _ => ?_)
    | with_reducible refine KeepsCore.same ?_ | dsimp only | simp only [keeps_mk_iff] | split

theorem State.listFails_keeps {r₀ : State} (s : State) (n idx status : Nat) (hk : Keeps r₀ s) :
    Keeps r₀ (State.listFails s n idx status) := by
  unfold State.listFails
  repeat' first
    | with_reducible assumption | with_reducible apply State.basinFail_keeps
    | with_reducible apply State.modBasin_keeps | with_reducible refine Keeps.ite (fun _ => ?_) (fun _ => ?_)
    | with_reducible refine KeepsCore.same ?_ | dsimp only | simp only [keeps_mk_iff] | split

theorem State.lineAnswered_keeps {r₀ : State} (s : State) (n idx : Nat) (hk : Keeps r₀ s) :
    Keeps r₀ (State.lineAnswered s n idx) := by
  unfold State.lineAnswered
  repeat' first
    | with_reducible assumption | with_reducible apply State.modBasin_keeps
    | with_reducible refine Keeps.ite (fun _ => ?_) (fun _ => ?_) | with_reducible refine KeepsCore.same ?_
    | dsimp only | simp only [keeps_mk_iff] | split

theorem State.ringError_keeps {r₀ : State} (s : State) (n code : Nat) (hk : Keeps r₀ s) :
    Keeps r₀ (State.ringError s n code) := by
  unfold State.ringError
  repeat' first
    | with_reducible assumption | with_reducible apply State.modRing_keeps
    | with_reducible refine Keeps.ite (fun _ => ?_) (fun _ => ?_) | with_reducible refine KeepsCore.same ?_
    | dsimp only | simp only [keeps_mk_iff] | split

theorem State.recordDone_keeps {r₀ : State} (s : State) (g : Nat) (ok : Bool) (hk : Keeps r₀ s) :
    Keeps r₀ (State.recordDone s g ok) := by
  unfold State.recordDone
  repeat' first
    | with_reducible assumption | with_reducible apply State.modGraph_keeps
    | with_reducible refine Keeps.ite (fun _ => ?_) (fun _ => ?_) | with_reducible refine KeepsCore.same ?_
    | dsimp only | simp only [keeps_mk_iff] | split

theorem State.tokenReceive_keeps {r₀ : State} (s : State) (token value device tag gen : Nat) (hk : Keeps r₀ s) :
    Keeps r₀ (State.tokenReceive s token value device tag gen) := by
  unfold State.tokenReceive
  repeat' first
    | with_reducible assumption | with_reducible apply State.modToken_keeps
    | with_reducible refine Keeps.ite (fun _ => ?_) (fun _ => ?_) | with_reducible refine KeepsCore.same ?_
    | dsimp only | simp only [keeps_mk_iff] | split

theorem State.mwlRespond_keeps {r₀ : State} (s : State) (f : Bytes) (type ecode : Nat) (data : Bytes) (hk : Keeps r₀ s) :
    Keeps r₀ (State.mwlRespond s f type ecode data) := by
  unfold State.mwlRespond
  repeat' first
    | with_reducible assumption | with_reducible apply State.mwlSend_keeps
    | with_reducible refine Keeps.ite (fun _ => ?_) (fun _ => ?_) | with_reducible refine KeepsCore.same ?_
    | dsimp only | simp only [keeps_mk_iff] | split

theorem State.modRts_keeps {r₀ : State} (s : State) (i : Nat) (f : Rts → Rts) (hk : Keeps r₀ s) :
    Keeps r₀ (State.modRts s i f) := by
  unfold State.modRts
  repeat' first
    | with_reducible assumption | with_reducible refine Keeps.ite (fun _ => ?_) (fun _ => ?_)
    | with_reducible refine KeepsCore.same ?_ | dsimp only | simp only [keeps_mk_iff] | split

theorem State.rtsCapture_keeps {r₀ : State} (s : State) (i code : Nat) (j : RtsJob) (hk : Keeps r₀ s) :
    Keeps r₀ (State.rtsCapture s i code j) := by
  unfold State.rtsCapture
  repeat' first
    | with_reducible assumption | with_reducible apply State.modRts_keeps
    | with_reducible refine Keeps.ite (fun _ => ?_) (fun _ => ?_) | with_reducible refine KeepsCore.same ?_
    | dsimp only | simp only [keeps_mk_iff] | split

theorem State.runFail_keeps {r₀ : State} (s : State) (i code : Nat) (r : RtsRun) (hk : Keeps r₀ s) :
    Keeps r₀ (State.runFail s i code r) := by
  unfold State.runFail
  repeat' first
    | with_reducible assumption | with_reducible apply State.rtsCapture_keeps
    | with_reducible apply State.modRts_keeps | with_reducible apply Matmul.run_keeps
    | with_reducible apply DmaCmd.run_keeps | with_reducible apply RillCmd.run_keeps
    | with_reducible apply AttnEnv.run_keeps | with_reducible apply AttnCmd.run_keeps
    | with_reducible apply ConvCmd.run_keeps | with_reducible refine Keeps.ite (fun _ => ?_) (fun _ => ?_)
    | with_reducible refine KeepsCore.same ?_ | dsimp only | simp only [keeps_mk_iff] | split

theorem State.routeWritten_keeps {r₀ : State} (s : State) (i slot : Nat) (ok : Bool) (hk : Keeps r₀ s) :
    Keeps r₀ (State.routeWritten s i slot ok) := by
  unfold State.routeWritten
  repeat' first
    | with_reducible assumption | with_reducible apply Matmul.run_keeps | with_reducible apply DmaCmd.run_keeps
    | with_reducible apply RillCmd.run_keeps | with_reducible apply AttnEnv.run_keeps
    | with_reducible apply AttnCmd.run_keeps | with_reducible apply ConvCmd.run_keeps
    | with_reducible apply State.modRts_keeps | with_reducible apply State.runFail_keeps
    | with_reducible refine Keeps.ite (fun _ => ?_) (fun _ => ?_) | with_reducible refine KeepsCore.same ?_
    | dsimp only | simp only [keeps_mk_iff] | split

theorem State.headerDone_keeps {r₀ : State} (s : State) (slot : Nat) (ok : Bool) (hk : Keeps r₀ s) :
    Keeps r₀ (State.headerDone s slot ok) := by
  unfold State.headerDone
  repeat' first
    | with_reducible assumption | with_reducible refine Keeps.ite (fun _ => ?_) (fun _ => ?_)
    | with_reducible refine KeepsCore.same ?_ | with_reducible refine KeepsCore.ilk ?_ rfl | dsimp only
    | simp only [keeps_mk_iff] | split

theorem State.modPts_keeps {r₀ : State} (s : State) (f : Pts → Pts) (hk : Keeps r₀ s) :
    Keeps r₀ (State.modPts s f) := by
  unfold State.modPts
  repeat' first
    | with_reducible assumption | with_reducible refine Keeps.ite (fun _ => ?_) (fun _ => ?_)
    | with_reducible refine KeepsCore.same ?_ | dsimp only | simp only [keeps_mk_iff] | split

theorem State.modQueue_keeps {r₀ : State} (s : State) (q : Nat) (f : PtsQueue → PtsQueue) (hk : Keeps r₀ s) :
    Keeps r₀ (State.modQueue s q f) := by
  unfold State.modQueue
  repeat' first
    | with_reducible assumption | with_reducible apply State.modPts_keeps
    | with_reducible refine Keeps.ite (fun _ => ?_) (fun _ => ?_) | with_reducible refine KeepsCore.same ?_
    | dsimp only | simp only [keeps_mk_iff] | split

theorem State.queueError_keeps {r₀ : State} (s : State) (q code : Nat) (hk : Keeps r₀ s) :
    Keeps r₀ (State.queueError s q code) := by
  unfold State.queueError
  repeat' first
    | with_reducible assumption | with_reducible apply State.modQueue_keeps
    | with_reducible refine Keeps.ite (fun _ => ?_) (fun _ => ?_) | with_reducible refine KeepsCore.same ?_
    | dsimp only | simp only [keeps_mk_iff] | split

theorem State.frameAnswered_keeps {r₀ : State} (s : State) (id : Nat) (acked : Bool) (hk : Keeps r₀ s) :
    Keeps r₀ (State.frameAnswered s id acked) := by
  unfold State.frameAnswered
  repeat' first
    | with_reducible assumption | with_reducible apply State.acked_keeps | with_reducible apply State.modPts_keeps
    | with_reducible refine Keeps.ite (fun _ => ?_) (fun _ => ?_) | with_reducible refine KeepsCore.same ?_
    | dsimp only | simp only [keeps_mk_iff] | split

theorem State.queueLost_keeps {r₀ : State} (s : State) (q : Nat) (id : Option Nat) (hk : Keeps r₀ s) :
    Keeps r₀ (State.queueLost s q id) := by
  unfold State.queueLost
  repeat' first
    | with_reducible assumption | with_reducible apply State.queueError_keeps
    | with_reducible apply State.modQueue_keeps | with_reducible apply State.frameAnswered_keeps
    | with_reducible refine Keeps.ite (fun _ => ?_) (fun _ => ?_) | with_reducible refine KeepsCore.same ?_
    | dsimp only | simp only [keeps_mk_iff] | split

theorem State.lineLost_keeps {r₀ : State} (s : State) (port frame line : Nat) (hk : Keeps r₀ s) :
    Keeps r₀ (State.lineLost s port frame line) := by
  unfold State.lineLost
  repeat' first
    | with_reducible assumption | with_reducible apply State.modTmt_keeps
    | with_reducible refine Keeps.ite (fun _ => ?_) (fun _ => ?_) | with_reducible refine KeepsCore.same ?_
    | dsimp only | simp only [keeps_mk_iff] | split

theorem State.settled_keeps {r₀ : State} (s : State) (o : Origin) (e : AccessError) (hk : Keeps r₀ s) :
    Keeps r₀ (State.settled s o e) := by
  unfold State.settled
  repeat' first
    | with_reducible assumption | with_reducible apply State.modMwl_keeps | with_reducible apply State.listFails_keeps
    | with_reducible apply Matmul.run_keeps | with_reducible apply DmaCmd.run_keeps
    | with_reducible apply RillCmd.run_keeps | with_reducible apply AttnEnv.run_keeps
    | with_reducible apply AttnCmd.run_keeps | with_reducible apply ConvCmd.run_keeps
    | with_reducible apply State.lineAnswered_keeps | with_reducible apply State.recordDone_keeps
    | with_reducible apply State.ringError_keeps | with_reducible apply State.routeWritten_keeps
    | with_reducible apply State.headerDone_keeps | with_reducible apply State.lineLost_keeps
    | with_reducible apply State.queueLost_keeps | with_reducible apply State.tokenReceive_keeps
    | with_reducible apply State.inbound_keeps | with_reducible apply State.mwlRespond_keeps
    | with_reducible refine Keeps.ite (fun _ => ?_) (fun _ => ?_) | with_reducible refine KeepsCore.same ?_
    | dsimp only | simp only [keeps_mk_iff] | split

theorem State.answerData_keeps {r₀ : State} (s : State) (o : Origin) (bytes : Bytes) (hk : Keeps r₀ s) :
    Keeps r₀ (State.answerData s o bytes) := by
  unfold State.answerData
  repeat' first
    | with_reducible assumption | with_reducible apply State.settled_keeps
    | with_reducible refine Keeps.ite (fun _ => ?_) (fun _ => ?_) | with_reducible refine KeepsCore.same ?_
    | dsimp only | simp only [keeps_mk_iff] | split

theorem State.answerError_keeps {r₀ : State} (s : State) (o : Origin) (e : AccessError) (hk : Keeps r₀ s) :
    Keeps r₀ (State.answerError s o e) := by
  unfold State.answerError
  repeat' first
    | with_reducible assumption | with_reducible apply State.settled_keeps
    | with_reducible refine Keeps.ite (fun _ => ?_) (fun _ => ?_) | with_reducible refine KeepsCore.same ?_
    | dsimp only | simp only [keeps_mk_iff] | split

theorem State.noteBankFault_keeps {r₀ : State} (s : State) (k : Nat) (r : BankReq) (cause : Nat) (hk : Keeps r₀ s) :
    Keeps r₀ (State.noteBankFault s k r cause) := by
  unfold State.noteBankFault
  repeat' first
    | with_reducible assumption | with_reducible apply State.modBlock_keeps
    | with_reducible refine Keeps.ite (fun _ => ?_) (fun _ => ?_) | with_reducible refine KeepsCore.same ?_
    | dsimp only | simp only [keeps_mk_iff] | split

theorem State.noteOldOwner_keeps {r₀ : State} (s : State) (k : Nat) (tag : Nat) (hk : Keeps r₀ s) :
    Keeps r₀ (State.noteOldOwner s k tag) := by
  unfold State.noteOldOwner
  repeat' first
    | with_reducible assumption | with_reducible apply State.modBank_keeps
    | with_reducible refine Keeps.ite (fun _ => ?_) (fun _ => ?_) | with_reducible refine KeepsCore.same ?_
    | dsimp only | simp only [keeps_mk_iff] | split

theorem State.noteUncorrectable_keeps {r₀ : State} (s : State) (k : Nat) (r : BankReq) (hk : Keeps r₀ s) :
    Keeps r₀ (State.noteUncorrectable s k r) := by
  unfold State.noteUncorrectable
  repeat' first
    | with_reducible assumption | with_reducible apply State.noteBankFault_keeps
    | with_reducible apply State.modBlock_keeps | with_reducible refine Keeps.ite (fun _ => ?_) (fun _ => ?_)
    | with_reducible refine KeepsCore.same ?_ | dsimp only | simp only [keeps_mk_iff] | split

theorem State.bankServe_keeps {r₀ : State} (s : State) (k : Nat) (r : BankReq) (hk : Keeps r₀ s) :
    Keeps r₀ (State.bankServe s k r) := by
  unfold State.bankServe
  repeat' first
    | with_reducible assumption | with_reducible apply State.wr_keeps | with_reducible apply Reg.take_keeps
    | with_reducible apply State.modBank_keeps | with_reducible apply State.answerData_keeps
    | with_reducible apply State.noteUncorrectable_keeps | with_reducible apply State.answerError_keeps
    | with_reducible apply State.modBlock_keeps | with_reducible refine Keeps.ite (fun _ => ?_) (fun _ => ?_)
    | with_reducible refine KeepsCore.same ?_ | dsimp only | simp only [keeps_mk_iff] | split

theorem State.bankMeet_keeps {r₀ : State} (s : State) (k : Nat) (r : BankReq) (hk : Keeps r₀ s) :
    Keeps r₀ (State.bankMeet s k r) := by
  unfold State.bankMeet
  repeat' first
    | with_reducible assumption | with_reducible apply State.serve_keeps | with_reducible apply State.bankServe_keeps
    | with_reducible apply State.modBank_keeps | with_reducible apply State.noteBankFault_keeps
    | with_reducible apply State.noteOldOwner_keeps | with_reducible apply State.answerError_keeps
    | with_reducible refine Keeps.ite (fun _ => ?_) (fun _ => ?_) | with_reducible refine KeepsCore.same ?_ | intro _
    | dsimp only | simp only [keeps_mk_iff] | split

theorem State.zeroBank_keeps {r₀ : State} (s : State) (k : Nat) (hk : Keeps r₀ s) :
    Keeps r₀ (State.zeroBank s k) := by
  unfold State.zeroBank
  repeat' first
    | with_reducible assumption | with_reducible apply State.zero_keeps | with_reducible apply State.modBank_keeps
    | with_reducible refine Keeps.ite (fun _ => ?_) (fun _ => ?_) | with_reducible refine KeepsCore.same ?_
    | dsimp only | simp only [keeps_mk_iff] | split

theorem State.holdAccess_keeps {r₀ : State} (s : State) (acc : Access) (hk : Keeps r₀ s) :
    Keeps r₀ (State.holdAccess s acc) := by
  unfold State.holdAccess
  repeat' first
    | with_reducible assumption | with_reducible refine Keeps.ite (fun _ => ?_) (fun _ => ?_)
    | with_reducible refine KeepsCore.same ?_ | dsimp only | simp only [keeps_mk_iff] | split

theorem State.poolDeliver_keeps {r₀ : State} (s : State) (n run idx line : Nat) (data : Bytes) (hk : Keeps r₀ s) :
    Keeps r₀ (State.poolDeliver s n run idx line data) := by
  unfold State.poolDeliver
  repeat' first
    | with_reducible assumption | with_reducible apply Matmul.run_keeps | with_reducible apply DmaCmd.run_keeps
    | with_reducible apply RillCmd.run_keeps | with_reducible apply AttnEnv.run_keeps
    | with_reducible apply AttnCmd.run_keeps | with_reducible apply ConvCmd.run_keeps
    | with_reducible apply State.bankMeet_keeps | with_reducible apply State.noteDenial_keeps
    | with_reducible apply State.answerError_keeps | with_reducible apply State.holdAccess_keeps
    | with_reducible refine Keeps.ite (fun _ => ?_) (fun _ => ?_) | with_reducible refine KeepsCore.same ?_
    | dsimp only | simp only [keeps_mk_iff] | split

theorem State.answerTxn_keeps {r₀ : State} (s : State) (o : Origin) (r : Option Bytes) (hk : Keeps r₀ s) :
    Keeps r₀ (State.answerTxn s o r) := by
  unfold State.answerTxn
  repeat' first
    | with_reducible assumption | with_reducible apply Matmul.run_keeps | with_reducible apply DmaCmd.run_keeps
    | with_reducible apply RillCmd.run_keeps | with_reducible apply AttnEnv.run_keeps
    | with_reducible apply AttnCmd.run_keeps | with_reducible apply ConvCmd.run_keeps
    | with_reducible apply State.poolDeliver_keeps | with_reducible apply State.answerData_keeps
    | with_reducible apply State.answerError_keeps | with_reducible refine Keeps.ite (fun _ => ?_) (fun _ => ?_)
    | with_reducible refine KeepsCore.same ?_ | dsimp only | simp only [keeps_mk_iff] | split

theorem State.issueTxn_keeps {r₀ : State} (s : State) (q : MwlReq) (c : Nat) (hk : Keeps r₀ s) :
    Keeps r₀ (State.issueTxn s q c) := by
  unfold State.issueTxn
  repeat' first
    | with_reducible assumption | with_reducible apply State.modMwl_keeps | with_reducible apply State.mwlSend_keeps
    | with_reducible apply Reg.take_keeps | with_reducible refine Keeps.ite (fun _ => ?_) (fun _ => ?_)
    | with_reducible refine KeepsCore.same ?_ | dsimp only | simp only [keeps_mk_iff] | split

theorem State.tryTxn_keeps {r₀ : State} (s : State) (q : MwlReq) (hk : Keeps r₀ s) :
    Keeps r₀ (State.tryTxn s q) := by
  unfold State.tryTxn
  repeat' first
    | with_reducible assumption | with_reducible apply State.answerTxn_keeps | with_reducible apply State.modMwl_keeps
    | with_reducible apply State.issueTxn_keeps | with_reducible refine Keeps.ite (fun _ => ?_) (fun _ => ?_)
    | with_reducible refine KeepsCore.same ?_ | dsimp only | simp only [keeps_mk_iff] | split

theorem State.retryWaiting_keeps {r₀ : State} (s : State) (hk : Keeps r₀ s) :
    Keeps r₀ (State.retryWaiting s) := by
  unfold State.retryWaiting
  repeat' first
    | with_reducible assumption | with_reducible apply State.tryTxn_keeps | with_reducible apply State.modMwl_keeps
    | with_reducible refine Keeps.foldl (fun s a hk => ?_) ?_
    | with_reducible refine Keeps.ite (fun _ => ?_) (fun _ => ?_) | with_reducible refine KeepsCore.same ?_
    | dsimp only | simp only [keeps_mk_iff] | split

theorem State.endTxn_keeps {r₀ : State} (s : State) (id : Nat) (r : Option Bytes) (hk : Keeps r₀ s) :
    Keeps r₀ (State.endTxn s id r) := by
  unfold State.endTxn
  repeat' first
    | with_reducible assumption | with_reducible apply State.modMwl_keeps | with_reducible apply State.answerTxn_keeps
    | with_reducible apply State.retryWaiting_keeps | with_reducible refine Keeps.ite (fun _ => ?_) (fun _ => ?_)
    | with_reducible refine KeepsCore.same ?_ | dsimp only | simp only [keeps_mk_iff] | split

theorem State.tailWatch_keeps {r₀ : State} (s : State) (tag addr len : Nat) (data : Bytes) (hk : Keeps r₀ s) :
    Keeps r₀ (State.tailWatch s tag addr len data) := by
  unfold State.tailWatch
  repeat' first
    | with_reducible assumption | with_reducible apply State.modRing_keeps
    | with_reducible apply State.ringError_keeps | with_reducible refine Keeps.foldl (fun s a hk => ?_) ?_
    | with_reducible refine Keeps.foldl_fst (fun s b a hk => ?_) ?_
    | with_reducible refine Keeps.foldl_snd (fun b s a hk => ?_) ?_
    | with_reducible refine Keeps.ite (fun _ => ?_) (fun _ => ?_) | with_reducible refine KeepsCore.same ?_
    | dsimp only | simp only [keeps_mk_iff] | split

theorem State.indexWatch_keeps {r₀ : State} (s : State) (tag addr len : Nat) (data : Bytes) (hk : Keeps r₀ s) :
    Keeps r₀ (State.indexWatch s tag addr len data) := by
  unfold State.indexWatch
  repeat' first
    | with_reducible assumption | with_reducible apply State.modQueue_keeps
    | with_reducible apply State.queueError_keeps | with_reducible refine Keeps.foldl (fun s a hk => ?_) ?_
    | with_reducible refine Keeps.foldl_fst (fun s b a hk => ?_) ?_
    | with_reducible refine Keeps.foldl_snd (fun b s a hk => ?_) ?_
    | with_reducible refine Keeps.ite (fun _ => ?_) (fun _ => ?_) | with_reducible refine KeepsCore.same ?_
    | dsimp only | simp only [keeps_mk_iff] | split

theorem State.modDram_keeps {r₀ : State} (s : State) (c : Nat) (f : DramCtrl → DramCtrl) (hk : Keeps r₀ s) :
    Keeps r₀ (State.modDram s c f) := by
  unfold State.modDram
  repeat' first
    | with_reducible assumption | with_reducible refine Keeps.ite (fun _ => ?_) (fun _ => ?_)
    | with_reducible refine KeepsCore.same ?_ | dsimp only | simp only [keeps_mk_iff] | split

theorem State.setBadLines_keeps {r₀ : State} (s : State) (l : List Nat) (hk : Keeps r₀ s) :
    Keeps r₀ (State.setBadLines s l) := by
  unfold State.setBadLines
  repeat' first
    | with_reducible assumption | with_reducible refine Keeps.ite (fun _ => ?_) (fun _ => ?_)
    | with_reducible refine KeepsCore.same ?_ | dsimp only | simp only [keeps_mk_iff] | split

theorem State.dramWrite_keeps {r₀ : State} (s : State) (acc : Access) (hk : Keeps r₀ s) :
    Keeps r₀ (State.dramWrite s acc) := by
  unfold State.dramWrite
  repeat' first
    | with_reducible assumption | with_reducible apply State.wr_keeps | with_reducible apply Reg.take_keeps
    | with_reducible apply State.setBadLines_keeps | with_reducible apply State.logWrite_keeps
    | with_reducible apply State.tailWatch_keeps | with_reducible apply State.indexWatch_keeps
    | with_reducible apply State.answerData_keeps | with_reducible refine Keeps.ite (fun _ => ?_) (fun _ => ?_)
    | with_reducible refine KeepsCore.same ?_ | dsimp only | simp only [keeps_mk_iff] | split

theorem State.zeroDram_keeps {r₀ : State} (s : State) (a n : Nat) (hk : Keeps r₀ s) :
    Keeps r₀ (State.zeroDram s a n) := by
  unfold State.zeroDram
  repeat' first
    | with_reducible assumption | with_reducible apply State.zero_keeps | with_reducible apply State.setBadLines_keeps
    | with_reducible refine Keeps.ite (fun _ => ?_) (fun _ => ?_) | with_reducible refine KeepsCore.same ?_
    | dsimp only | simp only [keeps_mk_iff] | split

theorem State.wakeDram_keeps {r₀ : State} (s : State) (c : Nat) (hk : Keeps r₀ s) :
    Keeps r₀ (State.wakeDram s c) := by
  unfold State.wakeDram
  repeat' first
    | with_reducible assumption | with_reducible apply State.modDram_keeps
    | with_reducible apply State.clockStep_keeps | with_reducible refine Keeps.ite (fun _ => ?_) (fun _ => ?_)
    | with_reducible refine KeepsCore.same ?_ | dsimp only | simp only [keeps_mk_iff] | split

theorem State.dramRead_keeps {r₀ : State} (s : State) (c : Nat) (acc : Access) (hk : Keeps r₀ s) :
    Keeps r₀ (State.dramRead s c acc) := by
  unfold State.dramRead
  repeat' first
    | with_reducible assumption | with_reducible apply State.modDram_keeps
    | with_reducible apply State.setBadLines_keeps | with_reducible apply State.answerError_keeps
    | with_reducible apply State.answerData_keeps | with_reducible refine Keeps.ite (fun _ => ?_) (fun _ => ?_)
    | with_reducible refine KeepsCore.same ?_ | dsimp only | simp only [keeps_mk_iff] | split

theorem State.freeAnswer_keeps {r₀ : State} (s : State) (n : Nat) (hk : Keeps r₀ s) :
    Keeps r₀ (State.freeAnswer s n) := by
  unfold State.freeAnswer
  repeat' first
    | with_reducible assumption | with_reducible apply State.draw_keeps
    | with_reducible refine Keeps.ite (fun _ => ?_) (fun _ => ?_) | with_reducible refine KeepsCore.same ?_
    | dsimp only | simp only [keeps_mk_iff] | split

theorem State.aperture_keeps {r₀ : State} (s : State) (acc : Access) (hk : Keeps r₀ s) :
    Keeps r₀ (State.aperture s acc) := by
  have ht := State.tryTxn_keeps (r₀ := r₀) { s with resp := { kind := .held } } (apertureReq acc) (KeepsCore.same hk)
  exact Keeps.ite (fun _ => State.freeAnswer_keeps _ acc.len ht) (fun _ => ht)

theorem State.carry_keeps {r₀ : State} (s : State) (acc : Access) (hk : Keeps r₀ s) :
    Keeps r₀ (State.carry s acc) := by
  unfold State.carry
  repeat' first
    | with_reducible assumption | with_reducible apply State.answerError_keeps
    | with_reducible apply State.wakeDram_keeps | with_reducible apply State.dramWrite_keeps
    | with_reducible apply State.dramRead_keeps | with_reducible apply State.bankMeet_keeps
    | with_reducible apply State.aperture_keeps | with_reducible apply Reg.take_keeps
    | with_reducible apply State.answerData_keeps | with_reducible apply State.draw_keeps
    | with_reducible refine Keeps.ite (fun _ => ?_) (fun _ => ?_) | with_reducible refine KeepsCore.same ?_
    | dsimp only | simp only [keeps_mk_iff] | split

theorem State.access_keeps {r₀ : State} (s : State) (acc : Access) (hk : Keeps r₀ s) :
    Keeps r₀ (State.access s acc) := by
  unfold State.access
  repeat' first
    | with_reducible assumption | with_reducible apply State.carry_keeps | with_reducible apply State.holdAccess_keeps
    | with_reducible apply State.noteDenial_keeps | with_reducible apply State.answerError_keeps
    | with_reducible refine Keeps.ite (fun _ => ?_) (fun _ => ?_) | with_reducible refine KeepsCore.same ?_
    | dsimp only | simp only [keeps_mk_iff] | split

theorem State.devAccess_keeps {r₀ : State} (s : State) (o : Origin) (tag a len : Nat) (write : Bool) (data : Bytes) (hk : Keeps r₀ s) :
    Keeps r₀ (State.devAccess s o tag a len write data) := by
  unfold State.devAccess
  repeat' first
    | with_reducible assumption | with_reducible apply State.access_keeps
    | with_reducible apply State.answerError_keeps | with_reducible refine Keeps.ite (fun _ => ?_) (fun _ => ?_)
    | with_reducible refine KeepsCore.same ?_ | dsimp only | simp only [keeps_mk_iff] | split

theorem State.devWrite_keeps {r₀ : State} (s : State) (tag a : Nat) (bs : Bytes) (hk : Keeps r₀ s) :
    Keeps r₀ (State.devWrite s tag a bs) := by
  unfold State.devWrite
  repeat' first
    | with_reducible assumption | with_reducible apply State.devAccess_keeps
    | with_reducible refine Keeps.ite (fun _ => ?_) (fun _ => ?_) | with_reducible refine KeepsCore.same ?_
    | dsimp only | simp only [keeps_mk_iff] | split

theorem State.devRead_keeps {r₀ : State} (s : State) (tag a n : Nat) (hk : Keeps r₀ s) :
    Keeps r₀ (State.devRead s tag a n) := by
  unfold State.devRead
  repeat' first
    | with_reducible assumption | with_reducible apply State.devAccess_keeps
    | with_reducible refine Keeps.ite (fun _ => ?_) (fun _ => ?_) | with_reducible refine KeepsCore.same ?_
    | dsimp only | simp only [keeps_mk_iff] | split

theorem State.fetchAt_keeps {r₀ : State} (s : State) (tag a n : Nat) (hk : Keeps r₀ s) :
    Keeps r₀ (State.fetchAt s tag a n).1 := by
  unfold State.fetchAt
  repeat' first
    | with_reducible assumption | with_reducible apply State.devRead_keeps | with_reducible apply State.modBank_keeps
    | with_reducible refine Keeps.ite (fun _ => ?_) (fun _ => ?_) | with_reducible refine KeepsCore.same ?_
    | dsimp only | simp only [keeps_mk_iff] | split

theorem State.requesterWrite_keeps {r₀ : State} (s : State) (r : Requester) (a len value : Nat) (entryOk : Bool) (hk : Keeps r₀ s) :
    Keeps r₀ (State.requesterWrite s r a len value entryOk) := by
  unfold State.requesterWrite
  repeat' first
    | with_reducible assumption | with_reducible apply State.modHart_keeps | with_reducible apply State.access_keeps
    | with_reducible apply State.answerError_keeps | with_reducible refine Keeps.ite (fun _ => ?_) (fun _ => ?_)
    | with_reducible refine KeepsCore.same ?_ | dsimp only | simp only [keeps_mk_iff] | split

theorem State.msi_keeps {r₀ : State} (s : State) (tag a data : Nat) (hk : Keeps r₀ s) :
    Keeps r₀ (State.msi s tag a data) := by
  unfold State.msi
  repeat' first
    | with_reducible assumption | with_reducible apply State.devWrite_keeps
    | with_reducible refine Keeps.ite (fun _ => ?_) (fun _ => ?_) | with_reducible refine KeepsCore.same ?_
    | dsimp only | simp only [keeps_mk_iff] | split

theorem State.sendReplies_keeps {r₀ : State} (s : State) (hk : Keeps r₀ s) :
    Keeps r₀ (State.sendReplies s) := by
  unfold State.sendReplies
  repeat' first
    | with_reducible assumption | with_reducible apply State.msi_keeps
    | with_reducible refine Keeps.foldl (fun s a hk => ?_) ?_
    | with_reducible refine Keeps.foldl_fst (fun s b a hk => ?_) ?_
    | with_reducible refine Keeps.foldl_snd (fun b s a hk => ?_) ?_
    | with_reducible refine Keeps.foldl_mid (fun b s c a hk => ?_) ?_
    | with_reducible refine Keeps.ite (fun _ => ?_) (fun _ => ?_) | with_reducible refine KeepsCore.same ?_
    | dsimp only | simp only [keeps_mk_iff] | split

end Sys2Proof.Machine
end

