-- ==== Sys2Proof/Laws/KeepsBanks.lean ====
section
/-! SUPPORT. What the operations of Machine/Banks.lean keep. -/

namespace Sys2Proof.Machine

open Sys2Proof.Laws

theorem State.bankPwr_keeps {r₀ : State} (s : State) (k : Nat) (dst : BankPwr) (past : Option Bool) (hk : Keeps r₀ s) :
    Keeps r₀ (State.bankPwr s k dst past) := by
  unfold State.bankPwr
  repeat' first
    | with_reducible assumption | with_reducible apply State.modBank_keeps | with_reducible apply State.draw_keeps
    | with_reducible refine Keeps.ite (fun _ => ?_) (fun _ => ?_) | with_reducible refine KeepsCore.same ?_
    | dsimp only | simp only [keeps_mk_iff] | split

theorem State.bankCtlWrite_keeps {r₀ : State} (s : State) (k value : Nat) (writer : BankWriter) (past : Option Bool) (hk : Keeps r₀ s) :
    Keeps r₀ (State.bankCtlWrite s k value writer past) := by
  unfold State.bankCtlWrite
  repeat' first
    | with_reducible assumption | with_reducible apply State.modBank_keeps | with_reducible apply State.bankPwr_keeps
    | with_reducible refine Keeps.ite (fun _ => ?_) (fun _ => ?_) | with_reducible refine KeepsCore.same ?_
    | dsimp only | simp only [keeps_mk_iff] | split

theorem State.serveHeld_keeps {r₀ : State} (s : State) (k : Nat) (hk : Keeps r₀ s) :
    Keeps r₀ (State.serveHeld s k) := by
  unfold State.serveHeld
  repeat' first
    | with_reducible assumption | with_reducible apply State.bankMeet_keeps | with_reducible apply State.modBank_keeps
    | with_reducible refine Keeps.foldl (fun s a hk => ?_) ?_
    | with_reducible refine Keeps.ite (fun _ => ?_) (fun _ => ?_) | with_reducible refine KeepsCore.same ?_
    | dsimp only | simp only [keeps_mk_iff] | split

theorem State.serveDrain_keeps {r₀ : State} (s : State) (k : Nat) (hk : Keeps r₀ s) :
    Keeps r₀ (State.serveDrain s k) := by
  unfold State.serveDrain
  repeat' first
    | with_reducible assumption | with_reducible apply State.drain_keeps | with_reducible apply State.bankServe_keeps
    | with_reducible apply State.noteBankFault_keeps | with_reducible apply State.answerError_keeps
    | with_reducible apply State.modBank_keeps | with_reducible refine Keeps.foldl (fun s a hk => ?_) ?_
    | with_reducible refine Keeps.ite (fun _ => ?_) (fun _ => ?_) | with_reducible refine KeepsCore.same ?_
    | dsimp only | simp only [keeps_mk_iff] | split

theorem State.drainHandover_keeps {r₀ : State} (s : State) (k : Nat) (wake : Bool) (hk : Keeps r₀ s) :
    Keeps r₀ (State.drainHandover s k wake) := by
  unfold State.drainHandover
  repeat' first
    | with_reducible assumption | with_reducible apply State.modBank_keeps
    | with_reducible apply State.serveDrain_keeps | with_reducible refine Keeps.ite (fun _ => ?_) (fun _ => ?_)
    | with_reducible refine KeepsCore.same ?_ | dsimp only | simp only [keeps_mk_iff] | split

theorem State.giveOwner_keeps {r₀ : State} (s : State) (k : Nat) (h : BankHandover) (hk : Keeps r₀ s) :
    Keeps r₀ (State.giveOwner s k h) := by
  unfold State.giveOwner
  repeat' first
    | with_reducible assumption | with_reducible apply State.zeroBank_keeps | with_reducible apply State.modBank_keeps
    | with_reducible refine Keeps.ite (fun _ => ?_) (fun _ => ?_) | with_reducible refine KeepsCore.same ?_
    | dsimp only | simp only [keeps_mk_iff] | split

theorem State.followPwr_keeps {r₀ : State} (s : State) (k : Nat) (pwr : BankPwr) (hk : Keeps r₀ s) :
    Keeps r₀ (State.followPwr s k pwr) := by
  unfold State.followPwr
  repeat' first
    | with_reducible assumption | with_reducible apply State.modBank_keeps | with_reducible apply State.bankPwr_keeps
    | with_reducible refine Keeps.ite (fun _ => ?_) (fun _ => ?_) | with_reducible refine KeepsCore.same ?_
    | dsimp only | simp only [keeps_mk_iff] | split

theorem State.finishHandover_keeps {r₀ : State} (s : State) (k : Nat) (hk : Keeps r₀ s) :
    Keeps r₀ (State.finishHandover s k) := by
  unfold State.finishHandover
  repeat' first
    | with_reducible assumption | with_reducible apply State.drainHandover_keeps
    | with_reducible apply State.giveOwner_keeps | with_reducible apply State.serveHeld_keeps
    | with_reducible apply State.followPwr_keeps | with_reducible apply State.bankPwr_keeps
    | with_reducible refine Keeps.ite (fun _ => ?_) (fun _ => ?_) | with_reducible refine KeepsCore.same ?_
    | dsimp only | simp only [keeps_mk_iff] | split

theorem State.handoverNow_keeps {r₀ : State} (s : State) (k value : Nat) (hk : Keeps r₀ s) :
    Keeps r₀ (State.handoverNow s k value) := by
  unfold State.handoverNow
  repeat' first
    | with_reducible assumption | with_reducible apply State.finishHandover_keeps
    | with_reducible apply State.bankCtlWrite_keeps | with_reducible refine Keeps.ite (fun _ => ?_) (fun _ => ?_)
    | with_reducible refine KeepsCore.same ?_ | dsimp only | simp only [keeps_mk_iff] | split

theorem State.scrubFree_keeps {r₀ : State} (s : State) (k : Nat) (hk : Keeps r₀ s) :
    Keeps r₀ (State.scrubFree s k) := by
  unfold State.scrubFree
  repeat' first
    | with_reducible assumption | with_reducible apply State.handoverNow_keeps
    | with_reducible refine Keeps.ite (fun _ => ?_) (fun _ => ?_) | with_reducible refine KeepsCore.same ?_
    | dsimp only | simp only [keeps_mk_iff] | split

theorem execBankScrubHandover_keeps {r₀ : State} (bank : Nat) (write : BankWrite) (s : State) (hk : Keeps r₀ s) :
    KeepsOut r₀ (execBankScrubHandover bank write s) := by
  unfold execBankScrubHandover
  refine act_keeps hk ?_
  repeat' first
    | with_reducible assumption | with_reducible apply act_keeps | with_reducible apply State.bankCtlWrite_keeps
    | with_reducible refine Keeps.ite (fun _ => ?_) (fun _ => ?_) | with_reducible refine KeepsCore.same ?_ | intro _
    | dsimp only | simp only [keeps_mk_iff] | split

theorem execBankTransfer_keeps {r₀ : State} (bank : Nat) (write : BankWrite) (s : State) (hk : Keeps r₀ s) :
    KeepsOut r₀ (execBankTransfer bank write s) := by
  unfold execBankTransfer
  refine act_keeps hk ?_
  repeat' first
    | with_reducible assumption | with_reducible apply act_keeps | with_reducible apply State.bankCtlWrite_keeps
    | with_reducible refine Keeps.ite (fun _ => ?_) (fun _ => ?_) | with_reducible refine KeepsCore.same ?_ | intro _
    | dsimp only | simp only [keeps_mk_iff] | split

theorem execBankPwrChange_keeps {r₀ : State} (bank : Nat) (write : BankWrite) (pastIsolation : Bool) (s : State) (hk : Keeps r₀ s) :
    KeepsOut r₀ (execBankPwrChange bank write pastIsolation s) := by
  unfold execBankPwrChange
  refine act_keeps hk ?_
  repeat' first
    | with_reducible assumption | with_reducible apply act_keeps | with_reducible apply State.bankCtlWrite_keeps
    | with_reducible refine Keeps.ite (fun _ => ?_) (fun _ => ?_) | with_reducible refine KeepsCore.same ?_ | intro _
    | dsimp only | simp only [keeps_mk_iff] | split

theorem State.finishPower_keeps {r₀ : State} (s : State) (k : Nat) (hk : Keeps r₀ s) :
    Keeps r₀ (State.finishPower s k) := by
  unfold State.finishPower
  repeat' first
    | with_reducible assumption | with_reducible apply State.zeroBank_keeps | with_reducible apply State.modBank_keeps
    | with_reducible apply State.serveDrain_keeps | with_reducible apply State.serveHeld_keeps
    | with_reducible refine Keeps.ite (fun _ => ?_) (fun _ => ?_) | with_reducible refine KeepsCore.same ?_
    | dsimp only | simp only [keeps_mk_iff] | split

theorem State.repairChange_keeps {r₀ : State} (s : State) (hk : Keeps r₀ s) :
    Keeps r₀ (State.repairChange s) := by
  unfold State.repairChange
  repeat' first
    | with_reducible assumption | with_reducible refine Keeps.ite (fun _ => ?_) (fun _ => ?_)
    | with_reducible refine KeepsCore.same ?_ | dsimp only | simp only [keeps_mk_iff] | split

theorem State.repairRegion_keeps {r₀ : State} (s : State) (k row : Nat) (hk : Keeps r₀ s) :
    Keeps r₀ (State.repairRegion s k row) := by
  unfold State.repairRegion
  repeat' first
    | with_reducible assumption | with_reducible apply State.modBank_keeps
    | with_reducible apply State.repairChange_keeps | with_reducible apply State.report_keeps
    | with_reducible refine Keeps.ite (fun _ => ?_) (fun _ => ?_) | with_reducible refine KeepsCore.same ?_
    | dsimp only | simp only [keeps_mk_iff] | split

theorem State.poisonWord_keeps {r₀ : State} (s : State) (k w : Nat) (hk : Keeps r₀ s) :
    Keeps r₀ (State.poisonWord s k w) := by
  unfold State.poisonWord
  repeat' first
    | with_reducible assumption | with_reducible apply State.modBank_keeps | with_reducible apply State.report_keeps
    | with_reducible refine Keeps.ite (fun _ => ?_) (fun _ => ?_) | with_reducible refine KeepsCore.same ?_
    | dsimp only | simp only [keeps_mk_iff] | split

theorem execSweepRegionTest_keeps {r₀ : State} (bank : Nat) (fails : Bool) (poisoned : List Nat) (s : State) (hk : Keeps r₀ s) :
    KeepsOut r₀ (execSweepRegionTest bank fails poisoned s) := by
  unfold execSweepRegionTest
  refine act_keeps hk ?_
  repeat' first
    | with_reducible assumption | with_reducible apply act_keeps | with_reducible apply State.modBank_keeps
    | with_reducible apply State.poisonWord_keeps | with_reducible apply State.repairRegion_keeps
    | with_reducible refine Keeps.foldl (fun s a hk => ?_) ?_
    | with_reducible refine Keeps.ite (fun _ => ?_) (fun _ => ?_) | with_reducible refine KeepsCore.same ?_ | intro _
    | dsimp only | simp only [keeps_mk_iff] | split

theorem execMarchStart_keeps {r₀ : State} (block ctl : Nat) (s : State) (hk : Keeps r₀ s) :
    KeepsOut r₀ (execMarchStart block ctl s) := by
  unfold execMarchStart
  refine act_keeps hk ?_
  repeat' first
    | with_reducible assumption | with_reducible apply act_keeps | with_reducible apply State.modBlock_keeps
    | with_reducible refine Keeps.ite (fun _ => ?_) (fun _ => ?_) | with_reducible refine KeepsCore.same ?_ | intro _
    | dsimp only | simp only [keeps_mk_iff] | split

theorem State.marchRow_keeps {r₀ : State} (s : State) (block i row : Nat) (hk : Keeps r₀ s) :
    Keeps r₀ (State.marchRow s block i row) := by
  unfold State.marchRow
  repeat' first
    | with_reducible assumption | with_reducible apply State.modBank_keeps
    | with_reducible apply State.repairChange_keeps | with_reducible apply State.modBlock_keeps
    | with_reducible refine Keeps.ite (fun _ => ?_) (fun _ => ?_) | with_reducible refine KeepsCore.same ?_
    | dsimp only | simp only [keeps_mk_iff] | split

theorem State.marchRowKeep_keeps {r₀ : State} (s : State) (block i row : Nat) (hk : Keeps r₀ s) :
    Keeps r₀ (State.marchRowKeep s block i row) := by
  unfold State.marchRowKeep
  repeat' first
    | with_reducible assumption | with_reducible apply State.repairRegion_keeps
    | with_reducible apply State.modBlock_keeps | with_reducible refine Keeps.ite (fun _ => ?_) (fun _ => ?_)
    | with_reducible refine KeepsCore.same ?_ | dsimp only | simp only [keeps_mk_iff] | split

theorem State.marksChange_keeps {r₀ : State} (s : State) (k i : Nat) (badSpares : List (Nat × Nat)) (badSweepRows : List Nat) (hk : Keeps r₀ s) :
    Keeps r₀ (State.marksChange s k i badSpares badSweepRows) := by
  unfold State.marksChange
  repeat' first
    | with_reducible assumption | with_reducible apply State.repairChange_keeps
    | with_reducible refine Keeps.ite (fun _ => ?_) (fun _ => ?_) | with_reducible refine KeepsCore.same ?_
    | dsimp only | simp only [keeps_mk_iff] | split

theorem State.marchFinish_keeps {r₀ : State} (s : State) (block : Nat) (set : List Nat) (preserve : Bool) (failing badSpares : List (Nat × Nat)) (badSweepRows : List Nat) (hk : Keeps r₀ s) :
    Keeps r₀ (State.marchFinish s block set preserve failing badSpares badSweepRows) := by
  unfold State.marchFinish
  repeat' first
    | with_reducible assumption | with_reducible apply State.marchRowKeep_keeps
    | with_reducible apply State.zeroBank_keeps | with_reducible apply State.marksChange_keeps
    | with_reducible apply State.modBank_keeps | with_reducible apply State.marchRow_keeps
    | with_reducible refine Keeps.foldl (fun s a hk => ?_) ?_
    | with_reducible refine Keeps.foldl_fst (fun s b a hk => ?_) ?_
    | with_reducible refine Keeps.foldl_snd (fun b s a hk => ?_) ?_
    | with_reducible refine Keeps.ite (fun _ => ?_) (fun _ => ?_) | with_reducible refine KeepsCore.same ?_
    | dsimp only | simp only [keeps_mk_iff] | split

theorem execMarchDone_keeps {r₀ : State} (block : Nat) (failing badSpares : List (Nat × Nat)) (badSweepRows : List Nat) (s : State) (hk : Keeps r₀ s) :
    KeepsOut r₀ (execMarchDone block failing badSpares badSweepRows s) := by
  unfold execMarchDone
  refine act_keeps hk ?_
  repeat' first
    | with_reducible assumption | with_reducible apply act_keeps | with_reducible apply State.marchFinish_keeps
    | with_reducible apply State.modBlock_keeps | with_reducible refine Keeps.ite (fun _ => ?_) (fun _ => ?_)
    | with_reducible refine KeepsCore.same ?_ | intro _ | dsimp only | simp only [keeps_mk_iff] | split

theorem execDramRetrain_keeps {r₀ : State} (ctrl : Nat) (s : State) (hk : Keeps r₀ s) :
    KeepsOut r₀ (execDramRetrain ctrl s) := by
  unfold execDramRetrain
  refine act_keeps hk ?_
  repeat' first
    | with_reducible assumption | with_reducible apply act_keeps
    | with_reducible refine Keeps.ite (fun _ => ?_) (fun _ => ?_) | with_reducible refine KeepsCore.same ?_ | intro _
    | dsimp only | simp only [keeps_mk_iff] | split

theorem execRepairWriteBack_keeps {r₀ : State} (s : State) (hk : Keeps r₀ s) :
    KeepsOut r₀ (execRepairWriteBack s) := by
  unfold execRepairWriteBack
  refine act_keeps hk ?_
  repeat' first
    | with_reducible assumption | with_reducible apply act_keeps | with_reducible apply State.trace_keeps
    | with_reducible refine Keeps.ite (fun _ => ?_) (fun _ => ?_) | with_reducible refine KeepsCore.same ?_ | intro _
    | dsimp only | simp only [keeps_mk_iff] | split

end Sys2Proof.Machine
end

