-- ==== Sys2Proof/Laws/KeepsBasinOps.lean ====
section
/-! SUPPORT. What the operations of Machine/BasinOps.lean keep. -/

namespace Sys2Proof.Machine

open Sys2Proof.Laws

theorem State.wakeNow_keeps {r₀ : State} (s : State) (k tag : Nat) (hk : Keeps r₀ s) :
    Keeps r₀ (State.wakeNow s k tag) := by
  unfold State.wakeNow
  repeat' first
    | with_reducible assumption | with_reducible apply State.modBank_keeps
    | with_reducible refine Keeps.ite (fun _ => ?_) (fun _ => ?_) | with_reducible refine KeepsCore.same ?_
    | dsimp only | simp only [keeps_mk_iff] | split

theorem State.askBanks_keeps {r₀ : State} (s : State) (n : Nat) (banks : List Nat) (hk : Keeps r₀ s) :
    Keeps r₀ (State.askBanks s n banks).2 := by
  unfold State.askBanks
  repeat' first
    | with_reducible assumption | with_reducible apply State.wakeNow_keeps | with_reducible apply State.serve_keeps
    | with_reducible apply State.noteBankFault_keeps | with_reducible apply State.noteOldOwner_keeps
    | with_reducible refine Keeps.foldl (fun s a hk => ?_) ?_
    | with_reducible refine Keeps.foldl_fst (fun s b a hk => ?_) ?_
    | with_reducible refine Keeps.foldl_snd (fun b s a hk => ?_) ?_
    | with_reducible refine Keeps.ite (fun _ => ?_) (fun _ => ?_) | with_reducible refine KeepsCore.same ?_ | intro _
    | dsimp only | simp only [keeps_mk_iff] | split

theorem State.askLines_keeps {r₀ : State} (s : State) (n : Nat) (reads writes : List (Nat × Nat)) (hk : Keeps r₀ s) :
    Keeps r₀ (State.askLines s n reads writes).2 := by
  unfold State.askLines
  repeat' first
    | with_reducible assumption | with_reducible apply State.askBanks_keeps
    | with_reducible apply State.noteUncorrectable_keeps | with_reducible refine Keeps.ite (fun _ => ?_) (fun _ => ?_)
    | with_reducible refine KeepsCore.same ?_ | dsimp only | simp only [keeps_mk_iff] | split

theorem State.basinIo_keeps {r₀ : State} (s : State) (n a len : Nat) (write : Bool) (data : Bytes) (hk : Keeps r₀ s) :
    Keeps r₀ (State.basinIo s n a len write data).2 := by
  unfold State.basinIo
  repeat' first
    | with_reducible assumption | with_reducible apply State.noteDenial_keeps
    | with_reducible apply State.wakeNow_keeps | with_reducible apply State.carry_keeps
    | with_reducible refine Keeps.ite (fun _ => ?_) (fun _ => ?_) | with_reducible refine KeepsCore.same ?_
    | dsimp only | simp only [keeps_mk_iff] | split

theorem State.modMonitor_keeps {r₀ : State} (s : State) (m : Nat) (f : Pmu → Pmu) (hk : Keeps r₀ s) :
    Keeps r₀ (State.modMonitor s m f) := by
  unfold State.modMonitor
  repeat' first
    | with_reducible assumption | with_reducible apply State.modBasin_keeps
    | with_reducible refine Keeps.ite (fun _ => ?_) (fun _ => ?_) | with_reducible refine KeepsCore.same ?_
    | dsimp only | simp only [keeps_mk_iff] | split

theorem State.pmuEvent_keeps {r₀ : State} (s : State) (n event : Nat) (hk : Keeps r₀ s) :
    Keeps r₀ (State.pmuEvent s n event) := by
  unfold State.pmuEvent
  repeat' first
    | with_reducible assumption | with_reducible apply State.draw_keeps | with_reducible apply State.modBasin_keeps
    | with_reducible refine Keeps.foldl (fun s a hk => ?_) ?_
    | with_reducible refine Keeps.ite (fun _ => ?_) (fun _ => ?_) | with_reducible refine KeepsCore.same ?_
    | dsimp only | simp only [keeps_mk_iff] | split

theorem State.modQ_keeps {r₀ : State} (s : State) (n idx : Nat) (f : QCmd → QCmd) (hk : Keeps r₀ s) :
    Keeps r₀ (State.modQ s n idx f) := by
  unfold State.modQ
  repeat' first
    | with_reducible assumption | with_reducible apply State.modBasin_keeps
    | with_reducible refine Keeps.ite (fun _ => ?_) (fun _ => ?_) | with_reducible refine KeepsCore.same ?_
    | dsimp only | simp only [keeps_mk_iff] | split

theorem State.dropQ_keeps {r₀ : State} (s : State) (n idx : Nat) (hk : Keeps r₀ s) :
    Keeps r₀ (State.dropQ s n idx) := by
  unfold State.dropQ
  repeat' first
    | with_reducible assumption | with_reducible apply State.modBasin_keeps
    | with_reducible refine Keeps.ite (fun _ => ?_) (fun _ => ?_) | with_reducible refine KeepsCore.same ?_
    | dsimp only | simp only [keeps_mk_iff] | split

theorem State.fetchCmd_keeps {r₀ : State} (s : State) (n : Nat) (hk : Keeps r₀ s) :
    Keeps r₀ (State.fetchCmd s n).2 := by
  unfold State.fetchCmd
  repeat' first
    | with_reducible assumption | with_reducible apply State.basinIo_keeps
    | with_reducible refine Keeps.ite (fun _ => ?_) (fun _ => ?_) | with_reducible refine KeepsCore.same ?_
    | dsimp only | simp only [keeps_mk_iff] | split

theorem State.nextCmd_keeps {r₀ : State} (s : State) (n : Nat) (hk : Keeps r₀ s) :
    Keeps r₀ (State.nextCmd s n) := by
  unfold State.nextCmd
  repeat' first
    | with_reducible assumption | with_reducible apply State.pmuEvent_keeps
    | with_reducible apply State.modBasin_keeps | with_reducible refine Keeps.ite (fun _ => ?_) (fun _ => ?_)
    | with_reducible refine KeepsCore.same ?_ | dsimp only | simp only [keeps_mk_iff] | split

theorem State.issueCmd_keeps {r₀ : State} (s : State) (n : Nat) (cmd : Bytes) (hk : Keeps r₀ s) :
    Keeps r₀ (State.issueCmd s n cmd) := by
  unfold State.issueCmd
  repeat' first
    | with_reducible assumption | with_reducible apply State.modBasin_keeps | with_reducible apply State.nextCmd_keeps
    | with_reducible refine Keeps.ite (fun _ => ?_) (fun _ => ?_) | with_reducible refine KeepsCore.same ?_
    | dsimp only | simp only [keeps_mk_iff] | split

theorem State.issueFor_keeps {r₀ : State} (n opcode : Nat) (x0 : Nat) (s : State) (hk : Keeps r₀ s) :
    Keeps r₀ (State.issueFor n opcode x0 s).1 := by
  induction x0 generalizing n opcode s with
  | zero => exact hk
  | succ n ih =>
    unfold State.issueFor
    repeat' first
      | with_reducible assumption | with_reducible apply ih | with_reducible apply State.basinFail_keeps
      | with_reducible apply State.fetchCmd_keeps | with_reducible apply State.issueCmd_keeps
      | with_reducible refine Keeps.ite (fun _ => ?_) (fun _ => ?_) | with_reducible refine KeepsCore.same ?_
      | dsimp only | simp only [keeps_mk_iff] | split

theorem State.runUnit_keeps {r₀ : State} (s : State) (n opcode : Nat) (mask : List Nat) (f : QCmd → State → CmdResult) (hk : Keeps r₀ s) (hkf : ∀ a0 s, Keeps r₀ s → Keeps r₀ (f a0 s).2) :
    Keeps r₀ (State.runUnit s n opcode mask f) := by
  unfold State.runUnit
  repeat' first
    | with_reducible assumption | with_reducible apply State.listFails_keeps | with_reducible apply State.dropQ_keeps
    | with_reducible apply hkf | with_reducible refine Keeps.ite (fun _ => ?_) (fun _ => ?_)
    | with_reducible refine KeepsCore.same ?_ | intro _ | dsimp only | simp only [keeps_mk_iff] | split

theorem State.runOwn_keeps {r₀ : State} (s : State) (n : Nat) (mask : List Nat) (cmd : Bytes) (f : Bytes → State → CmdResult) (hk : Keeps r₀ s) (hkf : ∀ a0 s, Keeps r₀ s → Keeps r₀ (f a0 s).2) :
    Keeps r₀ (State.runOwn s n mask cmd f) := by
  unfold State.runOwn
  repeat' first
    | with_reducible assumption | with_reducible apply State.basinFail_keeps
    | with_reducible apply State.nextCmd_keeps | with_reducible apply hkf
    | with_reducible refine Keeps.ite (fun _ => ?_) (fun _ => ?_) | with_reducible refine KeepsCore.same ?_ | intro _
    | dsimp only | simp only [keeps_mk_iff] | split

theorem State.issue_keeps {r₀ : State} (s : State) (n opcode : Nat) (hk : Keeps r₀ s) :
    Keeps r₀ (State.issue s n opcode).1 := by
  unfold State.issue
  repeat' first
    | with_reducible assumption | with_reducible apply State.issueFor_keeps
    | with_reducible refine Keeps.ite (fun _ => ?_) (fun _ => ?_) | with_reducible refine KeepsCore.same ?_
    | dsimp only | simp only [keeps_mk_iff] | split

theorem State.runSeq_keeps {r₀ : State} (s : State) (n opcode : Nat) (mask : List Nat) (f : Bytes → State → CmdResult)
    (hk : Keeps r₀ s) (hkf : ∀ a0 s, Keeps r₀ s → Keeps r₀ (f a0 s).2) :
    Keeps r₀ (State.runSeq s n opcode mask f) := by
  have hi := State.issue_keeps s n opcode hk
  unfold State.runSeq
  generalize s.issue n opcode = p at hi
  obtain ⟨t, _ | cmd⟩ := p
  · exact hi
  · exact State.runOwn_keeps _ _ _ _ _ hi hkf

theorem State.runQueued_keeps {r₀ : State} (s : State) (n opcode : Nat) (mask : List Nat) (f : QCmd → State → CmdResult) (hk : Keeps r₀ s) (hkf : ∀ a0 s, Keeps r₀ s → Keeps r₀ (f a0 s).2) :
    Keeps r₀ (State.runQueued s n opcode mask f) := by
  unfold State.runQueued
  repeat' first
    | with_reducible assumption | with_reducible apply State.issue_keeps | with_reducible apply State.runUnit_keeps
    | with_reducible apply hkf | with_reducible refine Keeps.ite (fun _ => ?_) (fun _ => ?_)
    | with_reducible refine KeepsCore.same ?_ | intro _ | dsimp only | simp only [keeps_mk_iff] | split

theorem State.runCmd_keeps {r₀ : State} (s : State) (n opcode : Nat) (mask : List Nat) (f : Bytes → State → CmdResult) (hk : Keeps r₀ s) (hkf : ∀ a0 s, Keeps r₀ s → Keeps r₀ (f a0 s).2) :
    Keeps r₀ (State.runCmd s n opcode mask f) := by
  unfold State.runCmd
  repeat' first
    | with_reducible assumption | with_reducible apply State.runQueued_keeps | with_reducible apply hkf
    | with_reducible refine Keeps.ite (fun _ => ?_) (fun _ => ?_) | with_reducible refine KeepsCore.same ?_ | intro _
    | dsimp only | simp only [keeps_mk_iff] | split

theorem State.sendTap_keeps {r₀ : State} (s : State) (n : Nat) (r : TapRecord) (hk : Keeps r₀ s) :
    Keeps r₀ (State.sendTap s n r) := by
  unfold State.sendTap
  repeat' first
    | with_reducible assumption | with_reducible apply State.pmuEvent_keeps
    | with_reducible apply State.modBasin_keeps | with_reducible apply Matmul.run_keeps
    | with_reducible apply DmaCmd.run_keeps | with_reducible apply RillCmd.run_keeps
    | with_reducible apply AttnEnv.run_keeps | with_reducible apply AttnCmd.run_keeps
    | with_reducible apply ConvCmd.run_keeps | with_reducible refine Keeps.ite (fun _ => ?_) (fun _ => ?_)
    | with_reducible refine KeepsCore.same ?_ | dsimp only | simp only [keeps_mk_iff] | split

theorem State.sendMarker_keeps {r₀ : State} (s : State) (n : Nat) (hk : Keeps r₀ s) :
    Keeps r₀ (State.sendMarker s n) := by
  unfold State.sendMarker
  repeat' first
    | with_reducible assumption | with_reducible apply State.sendTap_keeps
    | with_reducible refine Keeps.ite (fun _ => ?_) (fun _ => ?_) | with_reducible refine KeepsCore.same ?_
    | dsimp only | simp only [keeps_mk_iff] | split

theorem State.sendResidue_keeps {r₀ : State} (s : State) (n : Nat) (a : AccSet) (hk : Keeps r₀ s) :
    Keeps r₀ (State.sendResidue s n a) := by
  unfold State.sendResidue
  repeat' first
    | with_reducible assumption | with_reducible apply State.sendTap_keeps | with_reducible apply State.draw_keeps
    | with_reducible refine Keeps.ite (fun _ => ?_) (fun _ => ?_) | with_reducible refine KeepsCore.same ?_
    | dsimp only | simp only [keeps_mk_iff] | split

end Sys2Proof.Machine
end

