-- ==== Sys2Proof/Laws/KeepsCascade.lean ====
section
/-! SUPPORT. What the operations of Machine/Cascade.lean keep. -/

namespace Sys2Proof.Machine

open Sys2Proof.Laws

theorem State.drain_keeps {r₀ : State} (s : State) (n : Nat) (a : AccSet) (d : Drain) (hk : Keeps r₀ s) :
    Keeps r₀ (State.drain s n a d) := by
  unfold State.drain
  repeat' first
    | with_reducible assumption | with_reducible apply State.wr_keeps | with_reducible apply State.modBasin_keeps
    | with_reducible apply State.sendResidue_keeps | with_reducible refine Keeps.foldl (fun s a hk => ?_) ?_
    | with_reducible refine Keeps.foldl_fst (fun s b a hk => ?_) ?_
    | with_reducible refine Keeps.foldl_snd (fun b s a hk => ?_) ?_
    | with_reducible refine Keeps.ite (fun _ => ?_) (fun _ => ?_) | with_reducible refine KeepsCore.same ?_
    | dsimp only | simp only [keeps_mk_iff] | split

theorem State.setAcc_keeps {r₀ : State} (s : State) (n sel : Nat) (a : AccSet) (hk : Keeps r₀ s) :
    Keeps r₀ (State.setAcc s n sel a) := by
  unfold State.setAcc
  repeat' first
    | with_reducible assumption | with_reducible apply State.modBasin_keeps
    | with_reducible refine Keeps.ite (fun _ => ?_) (fun _ => ?_) | with_reducible refine KeepsCore.same ?_
    | dsimp only | simp only [keeps_mk_iff] | split

theorem State.tileAcc_keeps {r₀ : State} (s : State) (n sel : Nat) (zero : Bool) (tile : IntTile ⊕ FloatTile) (hk : Keeps r₀ s) :
    Keeps r₀ (State.tileAcc s n sel zero tile).1 := by
  unfold State.tileAcc
  repeat' first
    | with_reducible assumption | with_reducible apply State.zero_keeps | with_reducible apply State.draw_keeps
    | with_reducible apply State.setAcc_keeps | with_reducible apply State.modBasin_keeps
    | with_reducible refine Keeps.ite (fun _ => ?_) (fun _ => ?_) | with_reducible refine KeepsCore.same ?_
    | dsimp only | simp only [keeps_mk_iff] | split

theorem State.tileInto_keeps {r₀ : State} (s : State) (n sel : Nat) (zero : Bool) (tile : IntTile ⊕ FloatTile) (emit : Bool) (d : Drain) (hk : Keeps r₀ s) :
    Keeps r₀ (State.tileInto s n sel zero tile emit d) := by
  unfold State.tileInto
  repeat' first
    | with_reducible assumption | with_reducible apply State.tileAcc_keeps | with_reducible apply State.zero_keeps
    | with_reducible apply State.drain_keeps | with_reducible refine Keeps.ite (fun _ => ?_) (fun _ => ?_)
    | with_reducible refine KeepsCore.same ?_ | dsimp only | simp only [keeps_mk_iff] | split

theorem Matmul.run_keeps {r₀ : State} (q : Matmul) (n : Nat) (s : State) (hk : Keeps r₀ s) :
    Keeps r₀ (Matmul.run q n s).2 := by
  unfold Matmul.run
  repeat' first
    | with_reducible assumption | with_reducible apply State.askLines_keeps
    | with_reducible apply State.tileInto_keeps | with_reducible apply State.drain_keeps
    | with_reducible refine Keeps.ite (fun _ => ?_) (fun _ => ?_) | with_reducible refine KeepsCore.same ?_
    | dsimp only | simp only [keeps_mk_iff] | split

theorem execMatmul_keeps {r₀ : State} (basin : Nat) (s : State) (hk : Keeps r₀ s) :
    KeepsOut r₀ (execMatmul basin s) := by
  unfold execMatmul
  refine act_keeps hk ?_
  repeat' first
    | with_reducible assumption | with_reducible apply act_keeps | with_reducible apply State.runCmd_keeps
    | with_reducible apply Matmul.run_keeps | with_reducible apply DmaCmd.run_keeps
    | with_reducible apply RillCmd.run_keeps | with_reducible apply AttnEnv.run_keeps
    | with_reducible apply AttnCmd.run_keeps | with_reducible apply ConvCmd.run_keeps
    | with_reducible refine Keeps.ite (fun _ => ?_) (fun _ => ?_) | with_reducible refine KeepsCore.same ?_ | intro _
    | dsimp only | simp only [keeps_mk_iff] | split

theorem execSetrnd_keeps {r₀ : State} (basin : Nat) (s : State) (hk : Keeps r₀ s) :
    KeepsOut r₀ (execSetrnd basin s) := by
  unfold execSetrnd
  refine act_keeps hk ?_
  repeat' first
    | with_reducible assumption | with_reducible apply act_keeps | with_reducible apply State.runCmd_keeps
    | with_reducible apply State.modBasin_keeps | with_reducible refine Keeps.ite (fun _ => ?_) (fun _ => ?_)
    | with_reducible refine KeepsCore.same ?_ | intro _ | dsimp only | simp only [keeps_mk_iff] | split

end Sys2Proof.Machine
end

