-- ==== Sys2Proof/Laws/KeepsSequencer.lean ====
section
/-! SUPPORT. What the operations of Machine/Sequencer.lean keep. -/

namespace Sys2Proof.Machine

open Sys2Proof.Laws

theorem State.bindBasin_keeps {r₀ : State} (s : State) (basin context tag node generation : Nat) (hk : Keeps r₀ s) :
    Keeps r₀ (State.bindBasin s basin context tag node generation) := by
  unfold State.bindBasin
  repeat' first
    | with_reducible assumption | with_reducible apply State.modBasin_keeps
    | with_reducible refine Keeps.ite (fun _ => ?_) (fun _ => ?_) | with_reducible refine KeepsCore.same ?_
    | dsimp only | simp only [keeps_mk_iff] | split

theorem State.startList_keeps {r₀ : State} (s : State) (basin kernelPtr context tag node generation : Nat) (hk : Keeps r₀ s) :
    Keeps r₀ (State.startList s basin kernelPtr context tag node generation) := by
  unfold State.startList
  repeat' first
    | with_reducible assumption | with_reducible apply State.bindBasin_keeps
    | with_reducible apply State.modBasin_keeps | with_reducible apply Matmul.run_keeps
    | with_reducible apply DmaCmd.run_keeps | with_reducible apply RillCmd.run_keeps
    | with_reducible apply AttnEnv.run_keeps | with_reducible apply AttnCmd.run_keeps
    | with_reducible apply ConvCmd.run_keeps | with_reducible refine Keeps.ite (fun _ => ?_) (fun _ => ?_)
    | with_reducible refine KeepsCore.same ?_ | dsimp only | simp only [keeps_mk_iff] | split

theorem execListStart_keeps {r₀ : State} (basin kernelPtr context tag node generation : Nat) (s : State) (hk : Keeps r₀ s) :
    KeepsOut r₀ (execListStart basin kernelPtr context tag node generation s) := by
  unfold execListStart
  refine act_keeps hk ?_
  repeat' first
    | with_reducible assumption | with_reducible apply act_keeps | with_reducible apply State.startList_keeps
    | with_reducible refine Keeps.ite (fun _ => ?_) (fun _ => ?_) | with_reducible refine KeepsCore.same ?_ | intro _
    | dsimp only | simp only [keeps_mk_iff] | split

theorem execNop_keeps {r₀ : State} (basin : Nat) (s : State) (hk : Keeps r₀ s) :
    KeepsOut r₀ (execNop basin s) := by
  unfold execNop
  refine act_keeps hk ?_
  repeat' first
    | with_reducible assumption | with_reducible apply act_keeps | with_reducible apply State.runSeq_keeps
    | with_reducible refine Keeps.ite (fun _ => ?_) (fun _ => ?_) | with_reducible refine KeepsCore.same ?_ | intro _
    | dsimp only | simp only [keeps_mk_iff] | split

theorem execBarrier_keeps {r₀ : State} (basin : Nat) (s : State) (hk : Keeps r₀ s) :
    KeepsOut r₀ (execBarrier basin s) := by
  unfold execBarrier
  refine act_keeps hk ?_
  repeat' first
    | with_reducible assumption | with_reducible apply act_keeps | with_reducible apply State.runSeq_keeps
    | with_reducible refine Keeps.ite (fun _ => ?_) (fun _ => ?_) | with_reducible refine KeepsCore.same ?_ | intro _
    | dsimp only | simp only [keeps_mk_iff] | split

theorem State.dmaRemote_keeps {r₀ : State} (s : State) (n idx a : Nat) (write : Bool) (data : Bytes) (o : Origin) (hk : Keeps r₀ s) :
    Keeps r₀ (State.dmaRemote s n idx a write data o).2 := by
  unfold State.dmaRemote
  repeat' first
    | with_reducible assumption | with_reducible apply State.noteDenial_keeps | with_reducible apply State.modQ_keeps
    | with_reducible apply State.carry_keeps | with_reducible refine Keeps.ite (fun _ => ?_) (fun _ => ?_)
    | with_reducible refine KeepsCore.same ?_ | dsimp only | simp only [keeps_mk_iff] | split

theorem State.dmaLine_keeps {r₀ : State} (s : State) (n idx : Nat) (d : DmaCmd) (p e : Nat) (hk : Keeps r₀ s) :
    Keeps r₀ (State.dmaLine s n idx d p e).2 := by
  unfold State.dmaLine
  repeat' first
    | with_reducible assumption | with_reducible apply State.zero_keeps | with_reducible apply State.basinIo_keeps
    | with_reducible apply Matmul.run_keeps | with_reducible apply DmaCmd.run_keeps
    | with_reducible apply RillCmd.run_keeps | with_reducible apply AttnEnv.run_keeps
    | with_reducible apply AttnCmd.run_keeps | with_reducible apply ConvCmd.run_keeps
    | with_reducible apply State.dmaRemote_keeps | with_reducible refine Keeps.ite (fun _ => ?_) (fun _ => ?_)
    | with_reducible refine KeepsCore.same ?_ | dsimp only | simp only [keeps_mk_iff] | split

theorem State.dmaSteps_keeps {r₀ : State} (s : State) (n idx from_ k : Nat) (d : DmaCmd) (hk : Keeps r₀ s) :
    Keeps r₀ (State.dmaSteps s n idx from_ k d).2 := by
  unfold State.dmaSteps
  repeat' first
    | with_reducible assumption | with_reducible apply State.dmaLine_keeps | with_reducible apply State.modQ_keeps
    | with_reducible refine Keeps.foldl (fun s a hk => ?_) ?_
    | with_reducible refine Keeps.foldl_fst (fun s b a hk => ?_) ?_
    | with_reducible refine Keeps.foldl_snd (fun b s a hk => ?_) ?_
    | with_reducible refine Keeps.ite (fun _ => ?_) (fun _ => ?_) | with_reducible refine KeepsCore.same ?_
    | dsimp only | simp only [keeps_mk_iff] | split

theorem DmaCmd.run_keeps {r₀ : State} (d : DmaCmd) (n k : Nat) (q : QCmd) (s : State) (hk : Keeps r₀ s) :
    Keeps r₀ (DmaCmd.run d n k q s).2 := by
  unfold DmaCmd.run
  repeat' first
    | with_reducible assumption | with_reducible apply State.modQ_keeps | with_reducible apply State.dmaSteps_keeps
    | with_reducible refine Keeps.ite (fun _ => ?_) (fun _ => ?_) | with_reducible refine KeepsCore.same ?_
    | dsimp only | simp only [keeps_mk_iff] | split

theorem execDma_keeps {r₀ : State} (visit : UnitVisit) (s : State) (hk : Keeps r₀ s) :
    KeepsOut r₀ (execDma visit s) := by
  unfold execDma
  refine act_keeps hk ?_
  repeat' first
    | with_reducible assumption | with_reducible apply act_keeps | with_reducible apply State.runQueued_keeps
    | with_reducible apply Matmul.run_keeps | with_reducible apply DmaCmd.run_keeps
    | with_reducible apply RillCmd.run_keeps | with_reducible apply AttnEnv.run_keeps
    | with_reducible apply AttnCmd.run_keeps | with_reducible apply ConvCmd.run_keeps
    | with_reducible refine Keeps.ite (fun _ => ?_) (fun _ => ?_) | with_reducible refine KeepsCore.same ?_ | intro _
    | dsimp only | simp only [keeps_mk_iff] | split

theorem State.bundleStep_keeps {r₀ : State} (s : State) (n : Nat) (q : Bundle) (hk : Keeps r₀ s) :
    Keeps r₀ (State.bundleStep s n q) := by
  unfold State.bundleStep
  repeat' first
    | with_reducible assumption | with_reducible apply State.modBasin_keeps
    | with_reducible refine Keeps.foldl (fun s a hk => ?_) ?_
    | with_reducible refine Keeps.foldl_fst (fun s b a hk => ?_) ?_
    | with_reducible refine Keeps.foldl_snd (fun b s a hk => ?_) ?_
    | with_reducible refine Keeps.ite (fun _ => ?_) (fun _ => ?_) | with_reducible refine KeepsCore.same ?_
    | dsimp only | simp only [keeps_mk_iff] | split

theorem State.loadVec_keeps {r₀ : State} (s : State) (n line r : Nat) (hk : Keeps r₀ s) :
    Keeps r₀ (State.loadVec s n line r) := by
  unfold State.loadVec
  repeat' first
    | with_reducible assumption | with_reducible apply State.modBasin_keeps
    | with_reducible refine Keeps.foldl (fun s a hk => ?_) ?_
    | with_reducible refine Keeps.foldl_fst (fun s b a hk => ?_) ?_
    | with_reducible refine Keeps.foldl_snd (fun b s a hk => ?_) ?_
    | with_reducible refine Keeps.ite (fun _ => ?_) (fun _ => ?_) | with_reducible refine KeepsCore.same ?_
    | dsimp only | simp only [keeps_mk_iff] | split

theorem State.storeVec_keeps {r₀ : State} (s : State) (n line r : Nat) (hk : Keeps r₀ s) :
    Keeps r₀ (State.storeVec s n line r) := by
  unfold State.storeVec
  repeat' first
    | with_reducible assumption | with_reducible apply State.wr_keeps
    | with_reducible refine Keeps.ite (fun _ => ?_) (fun _ => ?_) | with_reducible refine KeepsCore.same ?_
    | dsimp only | simp only [keeps_mk_iff] | split

theorem RillCmd.iter_keeps {r₀ : State} (q : RillCmd) (n : Nat) (bs : List Bundle) (s : State) (i : Nat) (hk : Keeps r₀ s) :
    Keeps r₀ (RillCmd.iter q n bs s i) := by
  unfold RillCmd.iter
  repeat' first
    | with_reducible assumption | with_reducible apply State.loadVec_keeps
    | with_reducible apply State.bundleStep_keeps | with_reducible apply State.storeVec_keeps
    | with_reducible refine Keeps.foldl (fun s a hk => ?_) ?_
    | with_reducible refine Keeps.ite (fun _ => ?_) (fun _ => ?_) | with_reducible refine KeepsCore.same ?_
    | dsimp only | simp only [keeps_mk_iff] | split

theorem RillCmd.run_keeps {r₀ : State} (q : RillCmd) (n : Nat) (s : State) (hk : Keeps r₀ s) :
    Keeps r₀ (RillCmd.run q n s).2 := by
  unfold RillCmd.run
  repeat' first
    | with_reducible assumption | with_reducible apply State.askLines_keeps | with_reducible apply RillCmd.iter_keeps
    | with_reducible refine Keeps.foldl (fun s a hk => ?_) ?_
    | with_reducible refine Keeps.foldl_fst (fun s b a hk => ?_) ?_
    | with_reducible refine Keeps.foldl_snd (fun b s a hk => ?_) ?_
    | with_reducible refine Keeps.ite (fun _ => ?_) (fun _ => ?_) | with_reducible refine KeepsCore.same ?_
    | dsimp only | simp only [keeps_mk_iff] | split

theorem execRill_keeps {r₀ : State} (basin : Nat) (s : State) (hk : Keeps r₀ s) :
    KeepsOut r₀ (execRill basin s) := by
  unfold execRill
  refine act_keeps hk ?_
  repeat' first
    | with_reducible assumption | with_reducible apply act_keeps | with_reducible apply State.runCmd_keeps
    | with_reducible apply Matmul.run_keeps | with_reducible apply DmaCmd.run_keeps
    | with_reducible apply RillCmd.run_keeps | with_reducible apply AttnEnv.run_keeps
    | with_reducible apply AttnCmd.run_keeps | with_reducible apply ConvCmd.run_keeps
    | with_reducible refine Keeps.ite (fun _ => ?_) (fun _ => ?_) | with_reducible refine KeepsCore.same ?_ | intro _
    | dsimp only | simp only [keeps_mk_iff] | split

theorem State.transposeBlock_keeps {r₀ : State} (s : State) (n e inLine inPitch outLine outPitch block : Nat) (hk : Keeps r₀ s) :
    Keeps r₀ (State.transposeBlock s n e inLine inPitch outLine outPitch block) := by
  unfold State.transposeBlock
  repeat' first
    | with_reducible assumption | with_reducible refine Keeps.foldl (fun s a hk => ?_) ?_
    | with_reducible refine Keeps.foldl_fst (fun s b a hk => ?_) ?_
    | with_reducible refine Keeps.foldl_snd (fun b s a hk => ?_) ?_
    | with_reducible refine Keeps.ite (fun _ => ?_) (fun _ => ?_) | with_reducible refine KeepsCore.same ?_
    | with_reducible refine KeepsCore.memory ?_ (memWrite_wf _ _) | dsimp only | simp only [keeps_mk_iff] | split

theorem transposeRun_keeps {r₀ : State} (n k : Nat) (q : QCmd) (s : State) (hk : Keeps r₀ s) :
    Keeps r₀ (transposeRun n k q s).2 := by
  unfold transposeRun
  repeat' first
    | with_reducible assumption | with_reducible apply State.askLines_keeps
    | with_reducible apply State.transposeBlock_keeps | with_reducible apply State.modQ_keeps
    | with_reducible refine Keeps.foldl (fun s a hk => ?_) ?_
    | with_reducible refine Keeps.foldl_fst (fun s b a hk => ?_) ?_
    | with_reducible refine Keeps.foldl_snd (fun b s a hk => ?_) ?_
    | with_reducible refine Keeps.ite (fun _ => ?_) (fun _ => ?_) | with_reducible refine KeepsCore.same ?_
    | dsimp only | simp only [keeps_mk_iff] | split

theorem execTranspose_keeps {r₀ : State} (visit : UnitVisit) (s : State) (hk : Keeps r₀ s) :
    KeepsOut r₀ (execTranspose visit s) := by
  unfold execTranspose
  refine act_keeps hk ?_
  repeat' first
    | with_reducible assumption | with_reducible apply act_keeps | with_reducible apply State.runQueued_keeps
    | with_reducible apply transposeRun_keeps | with_reducible refine Keeps.ite (fun _ => ?_) (fun _ => ?_)
    | with_reducible refine KeepsCore.same ?_ | intro _ | dsimp only | simp only [keeps_mk_iff] | split

theorem execJet_keeps {r₀ : State} (basin : Nat) (s : State) (hk : Keeps r₀ s) :
    KeepsOut r₀ (execJet basin s) := by
  unfold execJet
  refine act_keeps hk ?_
  repeat' first
    | with_reducible assumption | with_reducible apply act_keeps | with_reducible apply State.runCmd_keeps
    | with_reducible apply State.askLines_keeps | with_reducible apply State.wr_keeps
    | with_reducible apply State.modBasin_keeps | with_reducible refine Keeps.ite (fun _ => ?_) (fun _ => ?_)
    | with_reducible refine KeepsCore.same ?_ | intro _ | dsimp only | simp only [keeps_mk_iff] | split

theorem execHaloSignal_keeps {r₀ : State} (basin : Nat) (s : State) (hk : Keeps r₀ s) :
    KeepsOut r₀ (execHaloSignal basin s) := by
  unfold execHaloSignal
  refine act_keeps hk ?_
  repeat' first
    | with_reducible assumption | with_reducible apply act_keeps | with_reducible apply State.runSeq_keeps
    | with_reducible apply State.modBasin_keeps | with_reducible refine Keeps.ite (fun _ => ?_) (fun _ => ?_)
    | with_reducible refine KeepsCore.same ?_ | intro _ | dsimp only | simp only [keeps_mk_iff] | split

theorem State.dropHalo_keeps {r₀ : State} (s : State) (n : Nat) (hk : Keeps r₀ s) :
    Keeps r₀ (State.dropHalo s n) := by
  unfold State.dropHalo
  repeat' first
    | with_reducible assumption | with_reducible apply State.modBasin_keeps
    | with_reducible apply State.pmuEvent_keeps | with_reducible refine Keeps.ite (fun _ => ?_) (fun _ => ?_)
    | with_reducible refine KeepsCore.same ?_ | dsimp only | simp only [keeps_mk_iff] | split

theorem State.haloArrive_keeps {r₀ : State} (s : State) (n : Nat) (e : Nat × Nat × Nat × Nat) (hk : Keeps r₀ s) :
    Keeps r₀ (State.haloArrive s n e) := by
  unfold State.haloArrive
  repeat' first
    | with_reducible assumption | with_reducible apply State.dropHalo_keeps
    | with_reducible apply State.modBasin_keeps | with_reducible refine Keeps.ite (fun _ => ?_) (fun _ => ?_)
    | with_reducible refine KeepsCore.same ?_ | dsimp only | simp only [keeps_mk_iff] | split

theorem execHaloSignalDeliver_keeps {r₀ : State} (basin : Nat) (s : State) (hk : Keeps r₀ s) :
    KeepsOut r₀ (execHaloSignalDeliver basin s) := by
  unfold execHaloSignalDeliver
  refine act_keeps hk ?_
  repeat' first
    | with_reducible assumption | with_reducible apply act_keeps | with_reducible apply State.modBasin_keeps
    | with_reducible apply State.haloArrive_keeps | with_reducible refine Keeps.ite (fun _ => ?_) (fun _ => ?_)
    | with_reducible refine KeepsCore.same ?_ | intro _ | dsimp only | simp only [keeps_mk_iff] | split

theorem State.haloFlush_keeps {r₀ : State} (s : State) (n : Nat) (hk : Keeps r₀ s) :
    Keeps r₀ (State.haloFlush s n) := by
  unfold State.haloFlush
  repeat' first
    | with_reducible assumption | with_reducible apply State.haloArrive_keeps
    | with_reducible apply State.modBasin_keeps | with_reducible refine Keeps.foldl (fun s a hk => ?_) ?_
    | with_reducible refine Keeps.ite (fun _ => ?_) (fun _ => ?_) | with_reducible refine KeepsCore.same ?_
    | dsimp only | simp only [keeps_mk_iff] | split

theorem execHaloWait_keeps {r₀ : State} (basin : Nat) (s : State) (hk : Keeps r₀ s) :
    KeepsOut r₀ (execHaloWait basin s) := by
  unfold execHaloWait
  refine act_keeps hk ?_
  repeat' first
    | with_reducible assumption | with_reducible apply act_keeps | with_reducible apply State.runSeq_keeps
    | with_reducible apply State.modBasin_keeps | with_reducible refine Keeps.ite (fun _ => ?_) (fun _ => ?_)
    | with_reducible refine KeepsCore.same ?_ | intro _ | dsimp only | simp only [keeps_mk_iff] | split

theorem execHaloTimeout_keeps {r₀ : State} (basin : Nat) (s : State) (hk : Keeps r₀ s) :
    KeepsOut r₀ (execHaloTimeout basin s) := by
  unfold execHaloTimeout
  refine act_keeps hk ?_
  repeat' first
    | with_reducible assumption | with_reducible apply act_keeps | with_reducible apply State.basinFail_keeps
    | with_reducible refine Keeps.ite (fun _ => ?_) (fun _ => ?_) | with_reducible refine KeepsCore.same ?_ | intro _
    | dsimp only | simp only [keeps_mk_iff] | split

theorem execTapFlush_keeps {r₀ : State} (basin : Nat) (s : State) (hk : Keeps r₀ s) :
    KeepsOut r₀ (execTapFlush basin s) := by
  unfold execTapFlush
  refine act_keeps hk ?_
  repeat' first
    | with_reducible assumption | with_reducible apply act_keeps | with_reducible apply State.runCmd_keeps
    | with_reducible apply State.sendMarker_keeps | with_reducible refine Keeps.ite (fun _ => ?_) (fun _ => ?_)
    | with_reducible refine KeepsCore.same ?_ | intro _ | dsimp only | simp only [keeps_mk_iff] | split

theorem execEndList_keeps {r₀ : State} (basin : Nat) (s : State) (hk : Keeps r₀ s) :
    KeepsOut r₀ (execEndList basin s) := by
  unfold execEndList
  refine act_keeps hk ?_
  repeat' first
    | with_reducible assumption | with_reducible apply act_keeps | with_reducible apply State.runSeq_keeps
    | with_reducible apply State.sendMarker_keeps | with_reducible apply State.modBasin_keeps
    | with_reducible refine Keeps.ite (fun _ => ?_) (fun _ => ?_) | with_reducible refine KeepsCore.same ?_ | intro _
    | dsimp only | simp only [keeps_mk_iff] | split

theorem State.countOn_keeps {r₀ : State} (s : State) (m : Nat) (hk : Keeps r₀ s) :
    Keeps r₀ (State.countOn s m) := by
  unfold State.countOn
  repeat' first
    | with_reducible assumption | with_reducible apply State.draw_keeps | with_reducible apply State.modMonitor_keeps
    | with_reducible refine Keeps.ite (fun _ => ?_) (fun _ => ?_) | with_reducible refine KeepsCore.same ?_
    | dsimp only | simp only [keeps_mk_iff] | split

theorem execPerfMark_keeps {r₀ : State} (basin : Nat) (s : State) (hk : Keeps r₀ s) :
    KeepsOut r₀ (execPerfMark basin s) := by
  unfold execPerfMark
  refine act_keeps hk ?_
  repeat' first
    | with_reducible assumption | with_reducible apply act_keeps | with_reducible apply State.runSeq_keeps
    | with_reducible apply State.askLines_keeps | with_reducible apply State.countOn_keeps
    | with_reducible apply State.wr_keeps | with_reducible refine Keeps.ite (fun _ => ?_) (fun _ => ?_)
    | with_reducible refine KeepsCore.same ?_ | intro _ | dsimp only | simp only [keeps_mk_iff] | split

theorem execTapTimeout_keeps {r₀ : State} (basin : Nat) (s : State) (hk : Keeps r₀ s) :
    KeepsOut r₀ (execTapTimeout basin s) := by
  unfold execTapTimeout
  refine act_keeps hk ?_
  repeat' first
    | with_reducible assumption | with_reducible apply act_keeps | with_reducible apply State.basinFail_keeps
    | with_reducible refine Keeps.ite (fun _ => ?_) (fun _ => ?_) | with_reducible refine KeepsCore.same ?_ | intro _
    | dsimp only | simp only [keeps_mk_iff] | split

theorem State.markRank_keeps {r₀ : State} (s : State) (c n : Nat) (f : Rank → Rank) (hk : Keeps r₀ s) :
    Keeps r₀ (State.markRank s c n f) := by
  unfold State.markRank
  repeat' first
    | with_reducible assumption | with_reducible apply State.modCtx_keeps
    | with_reducible refine Keeps.ite (fun _ => ?_) (fun _ => ?_) | with_reducible refine KeepsCore.same ?_
    | dsimp only | simp only [keeps_mk_iff] | split

theorem State.rankReport_keeps {r₀ : State} (s : State) (n blamedNs : Nat) (f : Rank → Rank) (hk : Keeps r₀ s) :
    Keeps r₀ (State.rankReport s n blamedNs f) := by
  unfold State.rankReport
  repeat' first
    | with_reducible assumption | with_reducible apply State.markRank_keeps | with_reducible apply State.modCtx_keeps
    | with_reducible refine Keeps.ite (fun _ => ?_) (fun _ => ?_) | with_reducible refine KeepsCore.same ?_
    | dsimp only | simp only [keeps_mk_iff] | split

theorem execListComplete_keeps {r₀ : State} (basin blamedNs : Nat) (s : State) (hk : Keeps r₀ s) :
    KeepsOut r₀ (execListComplete basin blamedNs s) := by
  unfold execListComplete
  refine act_keeps hk ?_
  repeat' first
    | with_reducible assumption | with_reducible apply act_keeps | with_reducible apply State.rankReport_keeps
    | with_reducible apply State.modBasin_keeps | with_reducible refine Keeps.ite (fun _ => ?_) (fun _ => ?_)
    | with_reducible refine KeepsCore.same ?_ | intro _ | dsimp only | simp only [keeps_mk_iff] | split

theorem execStopRequest_keeps {r₀ : State} (basin : Nat) (s : State) (hk : Keeps r₀ s) :
    KeepsOut r₀ (execStopRequest basin s) := by
  unfold execStopRequest
  refine act_keeps hk ?_
  repeat' first
    | with_reducible assumption | with_reducible apply act_keeps | with_reducible apply State.modBasin_keeps
    | with_reducible refine Keeps.ite (fun _ => ?_) (fun _ => ?_) | with_reducible refine KeepsCore.same ?_ | intro _
    | dsimp only | simp only [keeps_mk_iff] | split

theorem State.stopDma_keeps {r₀ : State} (s : State) (n : Nat) (hk : Keeps r₀ s) :
    Keeps r₀ (State.stopDma s n) := by
  unfold State.stopDma
  repeat' first
    | with_reducible assumption | with_reducible apply Matmul.run_keeps | with_reducible apply DmaCmd.run_keeps
    | with_reducible apply RillCmd.run_keeps | with_reducible apply AttnEnv.run_keeps
    | with_reducible apply AttnCmd.run_keeps | with_reducible apply ConvCmd.run_keeps
    | with_reducible apply State.listFails_keeps | with_reducible apply State.dropQ_keeps
    | with_reducible refine Keeps.ite (fun _ => ?_) (fun _ => ?_) | with_reducible refine KeepsCore.same ?_
    | dsimp only | simp only [keeps_mk_iff] | split

theorem execRankStopped_keeps {r₀ : State} (basin blamedNs : Nat) (s : State) (hk : Keeps r₀ s) :
    KeepsOut r₀ (execRankStopped basin blamedNs s) := by
  unfold execRankStopped
  refine act_keeps hk ?_
  repeat' first
    | with_reducible assumption | with_reducible apply act_keeps | with_reducible apply State.stopDma_keeps
    | with_reducible apply State.haloFlush_keeps | with_reducible apply State.rankReport_keeps
    | with_reducible apply State.modBasin_keeps | with_reducible refine Keeps.ite (fun _ => ?_) (fun _ => ?_)
    | with_reducible refine KeepsCore.same ?_ | intro _ | dsimp only | simp only [keeps_mk_iff] | split

theorem execPmuClear_keeps {r₀ : State} (monitor : Nat) (s : State) (hk : Keeps r₀ s) :
    KeepsOut r₀ (execPmuClear monitor s) := by
  unfold execPmuClear
  refine act_keeps hk ?_
  repeat' first
    | with_reducible assumption | with_reducible apply act_keeps | with_reducible apply State.modMonitor_keeps
    | with_reducible refine Keeps.ite (fun _ => ?_) (fun _ => ?_) | with_reducible refine KeepsCore.same ?_ | intro _
    | dsimp only | simp only [keeps_mk_iff] | split

theorem execPmuOverflow_keeps {r₀ : State} (monitor counter listIndex unit : Nat) (exact : Bool) (s : State) (hk : Keeps r₀ s) :
    KeepsOut r₀ (execPmuOverflow monitor counter listIndex unit exact s) := by
  unfold execPmuOverflow
  refine act_keeps hk ?_
  repeat' first
    | with_reducible assumption | with_reducible apply act_keeps | with_reducible apply State.countOn_keeps
    | with_reducible apply State.modMonitor_keeps | with_reducible apply State.msi_keeps
    | with_reducible refine Keeps.ite (fun _ => ?_) (fun _ => ?_) | with_reducible refine KeepsCore.same ?_ | intro _
    | dsimp only | simp only [keeps_mk_iff] | split

end Sys2Proof.Machine
end

