-- ==== Sys2Proof/Laws/KeepsSignalBox.lean ====
section
/-! SUPPORT. What the operations of Machine/SignalBox.lean keep. -/

namespace Sys2Proof.Machine

open Sys2Proof.Laws

theorem State.armRing_keeps {r₀ : State} (s : State) (n : Nat) (window : Bool) (hk : Keeps r₀ s) :
    Keeps r₀ (State.armRing s n window) := by
  unfold State.armRing
  repeat' first
    | with_reducible assumption | with_reducible apply State.ringError_keeps
    | with_reducible apply State.modRing_keeps | with_reducible refine Keeps.ite (fun _ => ?_) (fun _ => ?_)
    | with_reducible refine KeepsCore.same ?_ | dsimp only | simp only [keeps_mk_iff] | split

theorem execArm_keeps {r₀ : State} (ring : Nat) (window : Bool) (s : State) (hk : Keeps r₀ s) :
    KeepsOut r₀ (execArm ring window s) := by
  unfold execArm
  refine act_keeps hk ?_
  repeat' first
    | with_reducible assumption | with_reducible apply act_keeps | with_reducible apply State.armRing_keeps
    | with_reducible refine Keeps.ite (fun _ => ?_) (fun _ => ?_) | with_reducible refine KeepsCore.same ?_ | intro _
    | dsimp only | simp only [keeps_mk_iff] | split

theorem execTailWrite_keeps {r₀ : State} (requester : Requester) (addr len value : Nat) (entryOk : Bool) (s : State) (hk : Keeps r₀ s) :
    KeepsOut r₀ (execTailWrite requester addr len value entryOk s) := by
  unfold execTailWrite
  refine act_keeps hk ?_
  repeat' first
    | with_reducible assumption | with_reducible apply act_keeps | with_reducible apply State.requesterWrite_keeps
    | with_reducible refine Keeps.ite (fun _ => ?_) (fun _ => ?_) | with_reducible refine KeepsCore.same ?_ | intro _
    | dsimp only | simp only [keeps_mk_iff] | split

theorem execHeadWriteError_keeps {r₀ : State} (ring : Nat) (s : State) (hk : Keeps r₀ s) :
    KeepsOut r₀ (execHeadWriteError ring s) := by
  unfold execHeadWriteError
  refine act_keeps hk ?_
  repeat' first
    | with_reducible assumption | with_reducible apply act_keeps | with_reducible apply State.ringError_keeps
    | with_reducible refine Keeps.ite (fun _ => ?_) (fun _ => ?_) | with_reducible refine KeepsCore.same ?_ | intro _
    | dsimp only | simp only [keeps_mk_iff] | split

theorem State.sendTokens_keeps {r₀ : State} (s : State) (n : Node) (hk : Keeps r₀ s) :
    Keeps r₀ (State.sendTokens s n) := by
  unfold State.sendTokens
  repeat' first
    | with_reducible assumption | with_reducible apply State.tokenReceive_keeps
    | with_reducible apply State.mwlSend_keeps | with_reducible apply State.modMwl_keeps
    | with_reducible refine Keeps.foldl (fun s a hk => ?_) ?_
    | with_reducible refine Keeps.ite (fun _ => ?_) (fun _ => ?_) | with_reducible refine KeepsCore.same ?_
    | dsimp only | simp only [keeps_mk_iff] | split

theorem State.writeRecord_keeps {r₀ : State} (s : State) (g : Nat) (badPtr : Bool) (rec64 : Bytes) (hk : Keeps r₀ s) :
    Keeps r₀ (State.writeRecord s g badPtr rec64) := by
  unfold State.writeRecord
  repeat' first
    | with_reducible assumption | with_reducible apply State.recordDone_keeps
    | with_reducible apply State.modGraph_keeps | with_reducible apply State.devAccess_keeps
    | with_reducible refine Keeps.ite (fun _ => ?_) (fun _ => ?_) | with_reducible refine KeepsCore.same ?_
    | dsimp only | simp only [keeps_mk_iff] | split

theorem State.finishGraph_keeps {r₀ : State} (s : State) (g : Nat) (badPtr : Bool) (hk : Keeps r₀ s) :
    Keeps r₀ (State.finishGraph s g badPtr) := by
  unfold State.finishGraph
  repeat' first
    | with_reducible assumption | with_reducible apply State.modGraph_keeps
    | with_reducible apply State.writeRecord_keeps | with_reducible refine Keeps.ite (fun _ => ?_) (fun _ => ?_)
    | with_reducible refine KeepsCore.same ?_ | dsimp only | simp only [keeps_mk_iff] | split

theorem State.endGraph_keeps {r₀ : State} (s : State) (g status : Nat) (hk : Keeps r₀ s) :
    Keeps r₀ (State.endGraph s g status) := by
  unfold State.endGraph
  repeat' first
    | with_reducible assumption | with_reducible apply State.modNode_keeps | with_reducible apply State.modGraph_keeps
    | with_reducible refine Keeps.foldl (fun s a hk => ?_) ?_
    | with_reducible refine Keeps.ite (fun _ => ?_) (fun _ => ?_) | with_reducible refine KeepsCore.same ?_
    | dsimp only | simp only [keeps_mk_iff] | split

theorem execCompletionInterrupt_keeps {r₀ : State} (graph : Nat) (s : State) (hk : Keeps r₀ s) :
    KeepsOut r₀ (execCompletionInterrupt graph s) := by
  unfold execCompletionInterrupt
  refine act_keeps hk ?_
  repeat' first
    | with_reducible assumption | with_reducible apply act_keeps | with_reducible apply State.msi_keeps
    | with_reducible refine Keeps.ite (fun _ => ?_) (fun _ => ?_) | with_reducible refine KeepsCore.same ?_ | intro _
    | dsimp only | simp only [keeps_mk_iff] | split

theorem State.noteFailure_keeps {r₀ : State} (s : State) (g : Nat) (n : Node) (status failCmd : Nat) (hk : Keeps r₀ s) :
    Keeps r₀ (State.noteFailure s g n status failCmd) := by
  unfold State.noteFailure
  repeat' first
    | with_reducible assumption | with_reducible apply State.endGraph_keeps
    | with_reducible apply State.modGraph_keeps | with_reducible refine Keeps.ite (fun _ => ?_) (fun _ => ?_)
    | with_reducible refine KeepsCore.same ?_ | dsimp only | simp only [keeps_mk_iff] | split

theorem State.finishNode_keeps {r₀ : State} (s : State) (slot : Nat) (hk : Keeps r₀ s) :
    Keeps r₀ (State.finishNode s slot) := by
  unfold State.finishNode
  repeat' first
    | with_reducible assumption | with_reducible apply State.modNode_keeps | with_reducible apply State.complete_keeps
    | with_reducible apply State.sendTokens_keeps | with_reducible apply State.finishGraph_keeps
    | with_reducible refine Keeps.foldl (fun s a hk => ?_) ?_
    | with_reducible refine Keeps.ite (fun _ => ?_) (fun _ => ?_) | with_reducible refine KeepsCore.same ?_
    | dsimp only | simp only [keeps_mk_iff] | split

theorem State.completeNode_keeps {r₀ : State} (s : State) (slot status failCmd : Nat) (hk : Keeps r₀ s) :
    Keeps r₀ (State.completeNode s slot status failCmd) := by
  unfold State.completeNode
  repeat' first
    | with_reducible assumption | with_reducible apply State.modNode_keeps | with_reducible apply State.complete_keeps
    | with_reducible apply State.noteFailure_keeps | with_reducible apply State.finishNode_keeps
    | with_reducible refine Keeps.ite (fun _ => ?_) (fun _ => ?_) | with_reducible refine KeepsCore.same ?_
    | with_reducible refine KeepsCore.ilk ?_ rfl | dsimp only | simp only [keeps_mk_iff] | split

theorem State.raiseIdle_keeps {r₀ : State} (s : State) (slot : Nat) (hk : Keeps r₀ s) :
    Keeps r₀ (State.raiseIdle s slot) := by
  unfold State.raiseIdle
  repeat' first
    | with_reducible assumption | with_reducible apply State.modConsist_keeps
    | with_reducible refine Keeps.ite (fun _ => ?_) (fun _ => ?_) | with_reducible refine KeepsCore.same ?_
    | dsimp only | simp only [keeps_mk_iff] | split

theorem State.makeReady_keeps {r₀ : State} (s : State) (slot : Nat) (late : Bool) (hk : Keeps r₀ s) :
    Keeps r₀ (State.makeReady s slot late) := by
  unfold State.makeReady
  repeat' first
    | with_reducible assumption | with_reducible apply State.raiseIdle_keeps
    | with_reducible apply State.modNode_keeps | with_reducible refine Keeps.ite (fun _ => ?_) (fun _ => ?_)
    | with_reducible refine KeepsCore.same ?_ | dsimp only | simp only [keeps_mk_iff] | split

theorem State.releaseNode_keeps {r₀ : State} (s : State) (slot : Nat) (hk : Keeps r₀ s) :
    Keeps r₀ (State.releaseNode s slot) := by
  unfold State.releaseNode
  repeat' first
    | with_reducible assumption | with_reducible apply State.completeNode_keeps
    | with_reducible apply State.modGraph_keeps | with_reducible apply State.makeReady_keeps
    | with_reducible refine Keeps.ite (fun _ => ?_) (fun _ => ?_) | with_reducible refine KeepsCore.same ?_
    | dsimp only | simp only [keeps_mk_iff] | split

theorem State.evaluate_keeps {r₀ : State} (s : State) (slot : Nat) (hk : Keeps r₀ s) :
    Keeps r₀ (State.evaluate s slot) := by
  unfold State.evaluate
  repeat' first
    | with_reducible assumption | with_reducible apply State.completeNode_keeps
    | with_reducible apply State.modNode_keeps | with_reducible apply State.releaseNode_keeps
    | with_reducible refine Keeps.ite (fun _ => ?_) (fun _ => ?_) | with_reducible refine KeepsCore.same ?_
    | dsimp only | simp only [keeps_mk_iff] | split

theorem State.settleN_keeps {r₀ : State} (x0 : Nat) (s : State) (hk : Keeps r₀ s) :
    Keeps r₀ (State.settleN x0 s) := by
  induction x0 generalizing s with
  | zero => exact hk
  | succ n ih =>
    unfold State.settleN
    repeat' first
      | with_reducible assumption | with_reducible apply ih | with_reducible apply State.evaluate_keeps
      | with_reducible refine Keeps.ite (fun _ => ?_) (fun _ => ?_) | with_reducible refine KeepsCore.same ?_
      | dsimp only | simp only [keeps_mk_iff] | split

theorem State.settle_keeps {r₀ : State} (s : State) (hk : Keeps r₀ s) :
    Keeps r₀ (State.settle s) := by
  unfold State.settle
  repeat' first
    | with_reducible assumption | with_reducible apply State.settleN_keeps
    | with_reducible apply State.sendReplies_keeps | with_reducible refine Keeps.ite (fun _ => ?_) (fun _ => ?_)
    | with_reducible refine KeepsCore.same ?_ | dsimp only | simp only [keeps_mk_iff] | split

theorem execNodeDeadline_keeps {r₀ : State} (slot : Nat) (s : State) (hk : Keeps r₀ s) :
    KeepsOut r₀ (execNodeDeadline slot s) := by
  unfold execNodeDeadline
  refine act_keeps hk ?_
  repeat' first
    | with_reducible assumption | with_reducible apply act_keeps | with_reducible apply State.reach_keeps
    | with_reducible apply State.modNode_keeps | with_reducible apply State.settle_keeps
    | with_reducible refine Keeps.ite (fun _ => ?_) (fun _ => ?_) | with_reducible refine KeepsCore.same ?_ | intro _
    | dsimp only | simp only [keeps_mk_iff] | split

theorem State.fetchBytes_keeps {r₀ : State} (s : State) (tag a n : Nat) (hk : Keeps r₀ s) :
    Keeps r₀ (State.fetchBytes s tag a n).1 := by
  unfold State.fetchBytes
  repeat' first
    | with_reducible assumption | with_reducible apply State.fetchAt_keeps
    | with_reducible refine Keeps.foldl (fun s a hk => ?_) ?_
    | with_reducible refine Keeps.foldl_fst (fun s b a hk => ?_) ?_
    | with_reducible refine Keeps.foldl_snd (fun b s a hk => ?_) ?_
    | with_reducible refine Keeps.ite (fun _ => ?_) (fun _ => ?_) | with_reducible refine KeepsCore.same ?_
    | dsimp only | simp only [keeps_mk_iff] | split

theorem State.fetchSuccs_keeps {r₀ : State} (s : State) (tag : Nat) (rec1 : Bytes) (hk : Keeps r₀ s) :
    Keeps r₀ (State.fetchSuccs s tag rec1).1 := by
  unfold State.fetchSuccs
  repeat' first
    | with_reducible assumption | with_reducible apply State.fetchBytes_keeps
    | with_reducible refine Keeps.ite (fun _ => ?_) (fun _ => ?_) | with_reducible refine KeepsCore.same ?_
    | dsimp only | simp only [keeps_mk_iff] | split

theorem State.fetchNode_keeps {r₀ : State} (s : State) (tag a : Nat) (hk : Keeps r₀ s) :
    Keeps r₀ (State.fetchNode s tag a).1 := by
  unfold State.fetchNode
  repeat' first
    | with_reducible assumption | with_reducible apply State.fetchBytes_keeps
    | with_reducible apply State.fetchSuccs_keeps | with_reducible refine Keeps.ite (fun _ => ?_) (fun _ => ?_)
    | with_reducible refine KeepsCore.same ?_ | dsimp only | simp only [keeps_mk_iff] | split

theorem State.fetchGraph_keeps {r₀ : State} (s : State) (tag : Nat) (hdr : Bytes) (hk : Keeps r₀ s) :
    Keeps r₀ (State.fetchGraph s tag hdr).1 := by
  unfold State.fetchGraph
  repeat' first
    | with_reducible assumption | with_reducible apply State.fetchNode_keeps
    | with_reducible refine Keeps.foldl (fun s a hk => ?_) ?_
    | with_reducible refine Keeps.foldl_fst (fun s b a hk => ?_) ?_
    | with_reducible refine Keeps.foldl_snd (fun b s a hk => ?_) ?_
    | with_reducible refine Keeps.ite (fun _ => ?_) (fun _ => ?_) | with_reducible refine KeepsCore.same ?_
    | dsimp only | simp only [keeps_mk_iff] | split

theorem State.advanceHead_keeps {r₀ : State} (s : State) (ring : Nat) (hk : Keeps r₀ s) :
    Keeps r₀ (State.advanceHead s ring) := by
  unfold State.advanceHead
  repeat' first
    | with_reducible assumption | with_reducible apply State.modRing_keeps
    | with_reducible apply State.devAccess_keeps | with_reducible refine Keeps.ite (fun _ => ?_) (fun _ => ?_)
    | with_reducible refine KeepsCore.same ?_ | dsimp only | simp only [keeps_mk_iff] | split

theorem State.rejectGraph_keeps {r₀ : State} (s : State) (ring : Nat) (hdr : Bytes) (code : Nat) (hk : Keeps r₀ s) :
    Keeps r₀ (State.rejectGraph s ring hdr code) := by
  unfold State.rejectGraph
  repeat' first
    | with_reducible assumption | with_reducible apply State.modGraph_keeps | with_reducible apply State.modRing_keeps
    | with_reducible apply State.finishGraph_keeps | with_reducible apply State.advanceHead_keeps
    | with_reducible refine Keeps.ite (fun _ => ?_) (fun _ => ?_) | with_reducible refine KeepsCore.same ?_
    | dsimp only | simp only [keeps_mk_iff] | split

theorem State.admitGraph_keeps {r₀ : State} (s : State) (ring : Nat) (f : Fetched) (hk : Keeps r₀ s) :
    Keeps r₀ (State.admitGraph s ring f) := by
  unfold State.admitGraph
  repeat' first
    | with_reducible assumption | with_reducible apply State.modGraph_keeps | with_reducible apply State.modNode_keeps
    | with_reducible apply State.modRing_keeps | with_reducible apply State.advanceHead_keeps
    | with_reducible apply State.settle_keeps | with_reducible refine Keeps.foldl (fun s a hk => ?_) ?_
    | with_reducible refine Keeps.ite (fun _ => ?_) (fun _ => ?_) | with_reducible refine KeepsCore.same ?_
    | dsimp only | simp only [keeps_mk_iff] | split

theorem State.ringServed_keeps {r₀ : State} (s : State) (n : Nat) (hk : Keeps r₀ s) :
    Keeps r₀ (State.ringServed s n) := by
  unfold State.ringServed
  repeat' first
    | with_reducible assumption | with_reducible refine Keeps.ite (fun _ => ?_) (fun _ => ?_)
    | with_reducible refine KeepsCore.same ?_ | dsimp only | simp only [keeps_mk_iff] | split

theorem State.admitEntry_keeps {r₀ : State} (s : State) (ring : Nat) (hdr : Bytes) (hk : Keeps r₀ s) :
    Keeps r₀ (State.admitEntry s ring hdr) := by
  unfold State.admitEntry
  repeat' first
    | with_reducible assumption | with_reducible apply State.ringServed_keeps
    | with_reducible apply State.advanceHead_keeps | with_reducible apply State.fetchGraph_keeps
    | with_reducible apply State.rejectGraph_keeps | with_reducible apply State.modRing_keeps
    | with_reducible apply State.admitGraph_keeps | with_reducible refine Keeps.ite (fun _ => ?_) (fun _ => ?_)
    | with_reducible refine KeepsCore.same ?_ | dsimp only | simp only [keeps_mk_iff] | split

theorem State.graphAdmit_keeps {r₀ : State} (s : State) (ring : Nat) (hk : Keeps r₀ s) :
    Keeps r₀ (State.graphAdmit s ring) := by
  unfold State.graphAdmit
  repeat' first
    | with_reducible assumption | with_reducible apply State.fetchBytes_keeps
    | with_reducible apply State.ringServed_keeps | with_reducible apply State.ringError_keeps
    | with_reducible apply State.admitEntry_keeps | with_reducible refine Keeps.ite (fun _ => ?_) (fun _ => ?_)
    | with_reducible refine KeepsCore.same ?_ | dsimp only | simp only [keeps_mk_iff] | split

theorem execGraphAdmit_keeps {r₀ : State} (ring : Nat) (s : State) (hk : Keeps r₀ s) :
    KeepsOut r₀ (execGraphAdmit ring s) := by
  unfold execGraphAdmit
  refine act_keeps hk ?_
  repeat' first
    | with_reducible assumption | with_reducible apply act_keeps | with_reducible apply State.graphAdmit_keeps
    | with_reducible refine Keeps.ite (fun _ => ?_) (fun _ => ?_) | with_reducible refine KeepsCore.same ?_ | intro _
    | dsimp only | simp only [keeps_mk_iff] | split

theorem State.closeGraph_keeps {r₀ : State} (s : State) (g : Nat) (hk : Keeps r₀ s) :
    Keeps r₀ (State.closeGraph s g) := by
  unfold State.closeGraph
  repeat' first
    | with_reducible assumption | with_reducible apply State.finishGraph_keeps
    | with_reducible refine Keeps.ite (fun _ => ?_) (fun _ => ?_) | with_reducible refine KeepsCore.same ?_
    | dsimp only | simp only [keeps_mk_iff] | split

theorem State.cancelRing_keeps {r₀ : State} (s : State) (ring : Nat) (hk : Keeps r₀ s) :
    Keeps r₀ (State.cancelRing s ring) := by
  unfold State.cancelRing
  repeat' first
    | with_reducible assumption | with_reducible apply State.endGraph_keeps
    | with_reducible apply State.closeGraph_keeps | with_reducible apply State.modRing_keeps
    | with_reducible refine Keeps.foldl (fun s a hk => ?_) ?_
    | with_reducible refine Keeps.ite (fun _ => ?_) (fun _ => ?_) | with_reducible refine KeepsCore.same ?_
    | dsimp only | simp only [keeps_mk_iff] | split

theorem State.disarmRing_keeps {r₀ : State} (s : State) (ring : Nat) (hk : Keeps r₀ s) :
    Keeps r₀ (State.disarmRing s ring) := by
  unfold State.disarmRing
  repeat' first
    | with_reducible assumption | with_reducible apply State.modRing_keeps
    | with_reducible refine Keeps.ite (fun _ => ?_) (fun _ => ?_) | with_reducible refine KeepsCore.same ?_
    | dsimp only | simp only [keeps_mk_iff] | split

theorem execDisarm_keeps {r₀ : State} (ring : Nat) (s : State) (hk : Keeps r₀ s) :
    KeepsOut r₀ (execDisarm ring s) := by
  unfold execDisarm
  refine act_keeps hk ?_
  repeat' first
    | with_reducible assumption | with_reducible apply act_keeps | with_reducible apply State.disarmRing_keeps
    | with_reducible refine Keeps.ite (fun _ => ?_) (fun _ => ?_) | with_reducible refine KeepsCore.same ?_ | intro _
    | dsimp only | simp only [keeps_mk_iff] | split

theorem State.generationAdvance_keeps {r₀ : State} (s : State) (c : Nat) (hk : Keeps r₀ s) :
    Keeps r₀ (State.generationAdvance s c) := by
  unfold State.generationAdvance
  repeat' first
    | with_reducible assumption | with_reducible apply State.endGraph_keeps | with_reducible apply State.modNode_keeps
    | with_reducible apply State.complete_keeps | with_reducible apply State.finishGraph_keeps
    | with_reducible refine Keeps.foldl (fun s a hk => ?_) ?_
    | with_reducible refine Keeps.ite (fun _ => ?_) (fun _ => ?_) | with_reducible refine KeepsCore.same ?_
    | dsimp only | simp only [keeps_mk_iff] | split

theorem execTokenCfgWrite_keeps {r₀ : State} (path value : Nat) (s : State) (hk : Keeps r₀ s) :
    KeepsOut r₀ (execTokenCfgWrite path value s) := by
  unfold execTokenCfgWrite
  refine act_keeps hk ?_
  repeat' first
    | with_reducible assumption | with_reducible apply act_keeps | with_reducible apply State.modToken_keeps
    | with_reducible apply State.settle_keeps | with_reducible refine Keeps.ite (fun _ => ?_) (fun _ => ?_)
    | with_reducible refine KeepsCore.same ?_ | intro _ | dsimp only | simp only [keeps_mk_iff] | split

theorem execTokenGenWrite_keeps {r₀ : State} (path value : Nat) (s : State) (hk : Keeps r₀ s) :
    KeepsOut r₀ (execTokenGenWrite path value s) := by
  unfold execTokenGenWrite
  refine act_keeps hk ?_
  repeat' first
    | with_reducible assumption | with_reducible apply act_keeps | with_reducible apply State.modToken_keeps
    | with_reducible apply State.settle_keeps | with_reducible refine Keeps.ite (fun _ => ?_) (fun _ => ?_)
    | with_reducible refine KeepsCore.same ?_ | intro _ | dsimp only | simp only [keeps_mk_iff] | split

theorem execTokenValueWrite_keeps {r₀ : State} (path value : Nat) (s : State) (hk : Keeps r₀ s) :
    KeepsOut r₀ (execTokenValueWrite path value s) := by
  unfold execTokenValueWrite
  refine act_keeps hk ?_
  repeat' first
    | with_reducible assumption | with_reducible apply act_keeps | with_reducible apply State.modToken_keeps
    | with_reducible apply State.settle_keeps | with_reducible refine Keeps.ite (fun _ => ?_) (fun _ => ?_)
    | with_reducible refine KeepsCore.same ?_ | intro _ | dsimp only | simp only [keeps_mk_iff] | split

end Sys2Proof.Machine
end

