-- ==== Sys2Proof/Laws/KeepsKvc.lean ====
section
/-! SUPPORT. What the operations of Machine/Kvc.lean keep. -/

namespace Sys2Proof.Machine

open Sys2Proof.Laws

theorem State.modKvc_keeps {r₀ : State} (s : State) (f : Kvc → Kvc) (hk : Keeps r₀ s) :
    Keeps r₀ (State.modKvc s f) := by
  unfold State.modKvc
  repeat' first
    | with_reducible assumption | with_reducible refine Keeps.ite (fun _ => ?_) (fun _ => ?_)
    | with_reducible refine KeepsCore.same ?_ | dsimp only | simp only [keeps_mk_iff] | split

theorem State.modKvSpace_keeps {r₀ : State} (s : State) (n : Nat) (f : KvSpace → KvSpace) (hk : Keeps r₀ s) :
    Keeps r₀ (State.modKvSpace s n f) := by
  unfold State.modKvSpace
  repeat' first
    | with_reducible assumption | with_reducible apply State.modKvc_keeps
    | with_reducible refine Keeps.ite (fun _ => ?_) (fun _ => ?_) | with_reducible refine KeepsCore.same ?_
    | dsimp only | simp only [keeps_mk_iff] | split

theorem State.modKvSeq_keeps {r₀ : State} (s : State) (n : Nat) (f : KvSeq → KvSeq) (hk : Keeps r₀ s) :
    Keeps r₀ (State.modKvSeq s n f) := by
  unfold State.modKvSeq
  repeat' first
    | with_reducible assumption | with_reducible apply State.modKvc_keeps
    | with_reducible refine Keeps.ite (fun _ => ?_) (fun _ => ?_) | with_reducible refine KeepsCore.same ?_
    | dsimp only | simp only [keeps_mk_iff] | split

theorem State.modKvPage_keeps {r₀ : State} (s : State) (n : Nat) (f : KvPage → KvPage) (hk : Keeps r₀ s) :
    Keeps r₀ (State.modKvPage s n f) := by
  unfold State.modKvPage
  repeat' first
    | with_reducible assumption | with_reducible apply State.modKvc_keeps
    | with_reducible refine Keeps.ite (fun _ => ?_) (fun _ => ?_) | with_reducible refine KeepsCore.same ?_
    | dsimp only | simp only [keeps_mk_iff] | split

theorem State.kvMeta_keeps {r₀ : State} (s : State) (hk : Keeps r₀ s) :
    Keeps r₀ (State.kvMeta s) := by
  unfold State.kvMeta
  repeat' first
    | with_reducible assumption | with_reducible apply State.draw_keeps | with_reducible apply State.devRead_keeps
    | with_reducible apply State.devWrite_keeps | with_reducible refine Keeps.foldl (fun s a hk => ?_) ?_
    | with_reducible refine Keeps.foldl_fst (fun s b a hk => ?_) ?_
    | with_reducible refine Keeps.foldl_snd (fun b s a hk => ?_) ?_
    | with_reducible refine Keeps.ite (fun _ => ?_) (fun _ => ?_) | with_reducible refine KeepsCore.same ?_
    | dsimp only | simp only [keeps_mk_iff] | split

theorem State.kvDropSpace_keeps {r₀ : State} (s : State) (n : Nat) (hk : Keeps r₀ s) :
    Keeps r₀ (State.kvDropSpace s n) := by
  unfold State.kvDropSpace
  repeat' first
    | with_reducible assumption | with_reducible apply State.kvMeta_keeps | with_reducible apply State.modKvc_keeps
    | with_reducible refine Keeps.ite (fun _ => ?_) (fun _ => ?_) | with_reducible refine KeepsCore.same ?_
    | dsimp only | simp only [keeps_mk_iff] | split

theorem State.kvSetValid_keeps {r₀ : State} (s : State) (n value : Nat) (hk : Keeps r₀ s) :
    Keeps r₀ (State.kvSetValid s n value) := by
  unfold State.kvSetValid
  repeat' first
    | with_reducible assumption | with_reducible apply State.modKvSpace_keeps
    | with_reducible apply State.kvMeta_keeps | with_reducible refine Keeps.ite (fun _ => ?_) (fun _ => ?_)
    | with_reducible refine KeepsCore.same ?_ | dsimp only | simp only [keeps_mk_iff] | split

theorem execKvSpaceValid_keeps {r₀ : State} (space value : Nat) (s : State) (hk : Keeps r₀ s) :
    KeepsOut r₀ (execKvSpaceValid space value s) := by
  unfold execKvSpaceValid
  refine act_keeps hk ?_
  repeat' first
    | with_reducible assumption | with_reducible apply act_keeps | with_reducible apply State.kvSetValid_keeps
    | with_reducible refine Keeps.ite (fun _ => ?_) (fun _ => ?_) | with_reducible refine KeepsCore.same ?_ | intro _
    | dsimp only | simp only [keeps_mk_iff] | split

theorem State.kvClearValid_keeps {r₀ : State} (s : State) (n value : Nat) (hk : Keeps r₀ s) :
    Keeps r₀ (State.kvClearValid s n value) := by
  unfold State.kvClearValid
  repeat' first
    | with_reducible assumption | with_reducible apply State.modKvSpace_keeps
    | with_reducible apply State.kvDropSpace_keeps | with_reducible refine Keeps.ite (fun _ => ?_) (fun _ => ?_)
    | with_reducible refine KeepsCore.same ?_ | with_reducible refine KeepsCore.otherPins ?_ rfl | dsimp only
    | simp only [keeps_mk_iff] | split

theorem execKvSpaceInvalidate_keeps {r₀ : State} (space value : Nat) (s : State) (hk : Keeps r₀ s) :
    KeepsOut r₀ (execKvSpaceInvalidate space value s) := by
  unfold execKvSpaceInvalidate
  refine act_keeps hk ?_
  repeat' first
    | with_reducible assumption | with_reducible apply act_keeps | with_reducible apply State.kvClearValid_keeps
    | with_reducible refine Keeps.ite (fun _ => ?_) (fun _ => ?_) | with_reducible refine KeepsCore.same ?_ | intro _
    | dsimp only | simp only [keeps_mk_iff] | split

theorem execKvcEnable_keeps {r₀ : State} (value : Nat) (s : State) (hk : Keeps r₀ s) :
    KeepsOut r₀ (execKvcEnable value s) := by
  unfold execKvcEnable
  refine act_keeps hk ?_
  repeat' first
    | with_reducible assumption | with_reducible apply act_keeps | with_reducible apply State.modKvc_keeps
    | with_reducible refine Keeps.ite (fun _ => ?_) (fun _ => ?_) | with_reducible refine KeepsCore.same ?_ | intro _
    | dsimp only | simp only [keeps_mk_iff] | split

theorem State.kvReclaim_keeps {r₀ : State} (s : State) (hk : Keeps r₀ s) :
    Keeps r₀ (State.kvReclaim s) := by
  unfold State.kvReclaim
  repeat' first
    | with_reducible assumption | with_reducible apply State.modKvc_keeps
    | with_reducible refine Keeps.ite (fun _ => ?_) (fun _ => ?_) | with_reducible refine KeepsCore.same ?_
    | dsimp only | simp only [keeps_mk_iff] | split

theorem execPageReclaim_keeps {r₀ : State} (s : State) (hk : Keeps r₀ s) :
    KeepsOut r₀ (execPageReclaim s) := by
  unfold execPageReclaim
  refine act_keeps hk ?_
  repeat' first
    | with_reducible assumption | with_reducible apply act_keeps | with_reducible apply State.kvReclaim_keeps
    | with_reducible apply State.kvMeta_keeps | with_reducible refine Keeps.ite (fun _ => ?_) (fun _ => ?_)
    | with_reducible refine KeepsCore.same ?_ | intro _ | dsimp only | simp only [keeps_mk_iff] | split

theorem State.kvAddRef_keeps {r₀ : State} (s : State) (p : Nat) (hk : Keeps r₀ s) :
    Keeps r₀ (State.kvAddRef s p) := by
  unfold State.kvAddRef
  repeat' first
    | with_reducible assumption | with_reducible apply State.modKvPage_keeps
    | with_reducible refine Keeps.ite (fun _ => ?_) (fun _ => ?_) | with_reducible refine KeepsCore.same ?_
    | dsimp only | simp only [keeps_mk_iff] | split

theorem State.kvDropRef_keeps {r₀ : State} (s : State) (p : Nat) (hk : Keeps r₀ s) :
    Keeps r₀ (State.kvDropRef s p) := by
  unfold State.kvDropRef
  repeat' first
    | with_reducible assumption | with_reducible apply State.modKvPage_keeps
    | with_reducible refine Keeps.ite (fun _ => ?_) (fun _ => ?_) | with_reducible refine KeepsCore.same ?_
    | dsimp only | simp only [keeps_mk_iff] | split

theorem State.kvAdvanceEpoch_keeps {r₀ : State} (s : State) (hk : Keeps r₀ s) :
    Keeps r₀ (State.kvAdvanceEpoch s) := by
  unfold State.kvAdvanceEpoch
  repeat' first
    | with_reducible assumption | with_reducible apply State.modKvc_keeps
    | with_reducible refine Keeps.ite (fun _ => ?_) (fun _ => ?_) | with_reducible refine KeepsCore.same ?_
    | dsimp only | simp only [keeps_mk_iff] | split

theorem State.kvEvictOne_keeps {r₀ : State} (s : State) (space : Nat) (e : Nat × KvNode) (hk : Keeps r₀ s) :
    Keeps r₀ (State.kvEvictOne s space e) := by
  unfold State.kvEvictOne
  repeat' first
    | with_reducible assumption | with_reducible apply State.modKvc_keeps
    | with_reducible apply State.modKvSpace_keeps | with_reducible apply State.modKvPage_keeps
    | with_reducible apply State.kvDropRef_keeps | with_reducible refine Keeps.ite (fun _ => ?_) (fun _ => ?_)
    | with_reducible refine KeepsCore.same ?_ | dsimp only | simp only [keeps_mk_iff] | split

theorem State.kvEvictN_keeps {r₀ : State} (x0 : Nat) (s : State) (x2 : Nat) (hk : Keeps r₀ s) :
    Keeps r₀ (State.kvEvictN x0 s x2).1 := by
  induction x0 generalizing s x2 with
  | zero => exact hk
  | succ n ih =>
    unfold State.kvEvictN
    repeat' first
      | with_reducible assumption | with_reducible apply ih | with_reducible apply State.kvEvictOne_keeps
      | with_reducible refine Keeps.ite (fun _ => ?_) (fun _ => ?_) | with_reducible refine KeepsCore.same ?_
      | dsimp only | simp only [keeps_mk_iff] | split

theorem State.kvEvictPages_keeps {r₀ : State} (x0 : Nat) (s : State) (x2 : Nat) (x3 : Nat) (hk : Keeps r₀ s) :
    Keeps r₀ (State.kvEvictPages x0 s x2 x3) := by
  induction x0 generalizing s x2 x3 with
  | zero => exact hk
  | succ n ih =>
    unfold State.kvEvictPages
    repeat' first
      | with_reducible assumption | with_reducible apply ih | with_reducible apply State.kvEvictOne_keeps
      | with_reducible refine Keeps.ite (fun _ => ?_) (fun _ => ?_) | with_reducible refine KeepsCore.same ?_
      | dsimp only | simp only [keeps_mk_iff] | split

theorem State.kvPagePass_keeps {r₀ : State} (s : State) (need space : Nat) (hk : Keeps r₀ s) :
    Keeps r₀ (State.kvPagePass s need space) := by
  unfold State.kvPagePass
  repeat' first
    | with_reducible assumption | with_reducible apply State.kvEvictPages_keeps
    | with_reducible apply State.kvAdvanceEpoch_keeps | with_reducible refine Keeps.ite (fun _ => ?_) (fun _ => ?_)
    | with_reducible refine KeepsCore.same ?_ | dsimp only | simp only [keeps_mk_iff] | split

theorem State.kvEvictPass_keeps {r₀ : State} (s : State) (n space : Nat) (hk : Keeps r₀ s) :
    Keeps r₀ (State.kvEvictPass s n space) := by
  unfold State.kvEvictPass
  repeat' first
    | with_reducible assumption | with_reducible apply State.kvEvictN_keeps
    | with_reducible apply State.kvAdvanceEpoch_keeps | with_reducible refine Keeps.ite (fun _ => ?_) (fun _ => ?_)
    | with_reducible refine KeepsCore.same ?_ | dsimp only | simp only [keeps_mk_iff] | split

theorem State.kvCopy_keeps {r₀ : State} (s old : State) (hk : Keeps r₀ s) :
    Keeps r₀ (State.kvCopy s old) := by
  unfold State.kvCopy
  repeat' first
    | with_reducible assumption | with_reducible apply State.devWrite_keeps
    | with_reducible refine Keeps.foldl (fun s a hk => ?_) ?_
    | with_reducible refine Keeps.foldl_fst (fun s b a hk => ?_) ?_
    | with_reducible refine Keeps.foldl_snd (fun b s a hk => ?_) ?_
    | with_reducible refine Keeps.ite (fun _ => ?_) (fun _ => ?_) | with_reducible refine KeepsCore.same ?_
    | dsimp only | simp only [keeps_mk_iff] | split

theorem State.kvcTake_keeps {r₀ : State} (s : State) (c : Nat) (data : Bytes) (hk : Keeps r₀ s) :
    Keeps r₀ (State.kvcTake s c data) := by
  unfold State.kvcTake
  repeat' first
    | with_reducible assumption | with_reducible apply State.modKvc_keeps
    | with_reducible refine Keeps.ite (fun _ => ?_) (fun _ => ?_) | with_reducible refine KeepsCore.same ?_
    | dsimp only | simp only [keeps_mk_iff] | split

theorem execKvcReqTake_keeps {r₀ : State} (consist : Nat) (data : Bytes) (s : State) (hk : Keeps r₀ s) :
    KeepsOut r₀ (execKvcReqTake consist data s) := by
  unfold execKvcReqTake
  refine act_keeps hk ?_
  repeat' first
    | with_reducible assumption | with_reducible apply act_keeps | with_reducible apply State.kvcTake_keeps
    | with_reducible refine Keeps.ite (fun _ => ?_) (fun _ => ?_) | with_reducible refine KeepsCore.same ?_ | intro _
    | dsimp only | simp only [keeps_mk_iff] | split

theorem State.kvAnswer_keeps {r₀ : State} (s : State) (c : Nat) (r : Bytes) (d : KvDone) (hk : Keeps r₀ s) :
    Keeps r₀ (State.kvAnswer s c r d) := by
  unfold State.kvAnswer
  repeat' first
    | with_reducible assumption | with_reducible apply State.kvMeta_keeps
    | with_reducible apply State.answerData_keeps | with_reducible apply State.devAccess_keeps
    | with_reducible apply State.settle_keeps | with_reducible refine Keeps.ite (fun _ => ?_) (fun _ => ?_)
    | with_reducible refine KeepsCore.same ?_ | with_reducible refine KeepsCore.otherPins ?_ rfl | dsimp only
    | simp only [keeps_mk_iff] | split

theorem State.kvPop_keeps {r₀ : State} (s : State) (c : Nat) (hk : Keeps r₀ s) :
    Keeps r₀ (State.kvPop s c) := by
  unfold State.kvPop
  repeat' first
    | with_reducible assumption | with_reducible apply State.modKvc_keeps
    | with_reducible refine Keeps.ite (fun _ => ?_) (fun _ => ?_) | with_reducible refine KeepsCore.same ?_
    | dsimp only | simp only [keeps_mk_iff] | split

theorem State.kvLowWater_keeps {r₀ : State} (s : State) (n : Nat) (hk : Keeps r₀ s) :
    Keeps r₀ (State.kvLowWater s n) := by
  unfold State.kvLowWater
  repeat' first
    | with_reducible assumption | with_reducible apply State.kvReclaim_keeps
    | with_reducible apply State.kvPagePass_keeps | with_reducible refine Keeps.ite (fun _ => ?_) (fun _ => ?_)
    | with_reducible refine KeepsCore.same ?_ | with_reducible refine KeepsCore.otherPins ?_ rfl | dsimp only
    | simp only [keeps_mk_iff] | split

theorem State.kvDrainN_keeps {r₀ : State} (x0 : Nat) (s : State) (hk : Keeps r₀ s) :
    Keeps r₀ (State.kvDrainN x0 s) := by
  induction x0 generalizing s with
  | zero => exact hk
  | succ n ih =>
    unfold State.kvDrainN
    repeat' first
      | with_reducible assumption | with_reducible apply ih | with_reducible apply State.kvPop_keeps
      | with_reducible apply State.kvAnswer_keeps | with_reducible apply State.kvLowWater_keeps
      | with_reducible refine Keeps.ite (fun _ => ?_) (fun _ => ?_) | with_reducible refine KeepsCore.same ?_
      | dsimp only | simp only [keeps_mk_iff] | split

theorem State.kvServe_keeps {r₀ : State} (s : State) (op : Nat) (f : State → Nat → Bytes → KvDone) (hk : Keeps r₀ s) (hkf : ∀ s a1 a2, Keeps r₀ s → Keeps r₀ (f s a1 a2).st) :
    Keeps r₀ (State.kvServe s op f) := by
  unfold State.kvServe
  repeat' first
    | with_reducible assumption | with_reducible apply State.kvDrainN_keeps | with_reducible apply State.kvPop_keeps
    | with_reducible apply State.kvAdvanceEpoch_keeps | with_reducible apply State.modKvc_keeps
    | with_reducible apply State.kvCopy_keeps | with_reducible apply State.kvAnswer_keeps
    | with_reducible apply State.kvLowWater_keeps | with_reducible apply hkf
    | with_reducible refine Keeps.ite (fun _ => ?_) (fun _ => ?_) | with_reducible refine KeepsCore.same ?_ | intro _
    | dsimp only | simp only [keeps_mk_iff] | split

theorem State.kvCreate_keeps {r₀ : State} (s : State) (c : Nat) (r : Bytes) (hk : Keeps r₀ s) :
    Keeps r₀ (State.kvCreate s c r).st := by
  unfold State.kvCreate
  repeat' first
    | with_reducible assumption | with_reducible apply State.fetchBytes_keeps
    | with_reducible apply State.kvAddRef_keeps | with_reducible apply State.modKvc_keeps
    | with_reducible apply State.modKvSeq_keeps | with_reducible refine Keeps.foldl (fun s a hk => ?_) ?_
    | with_reducible refine Keeps.foldl_fst (fun s b a hk => ?_) ?_
    | with_reducible refine Keeps.foldl_snd (fun b s a hk => ?_) ?_
    | with_reducible refine Keeps.ite (fun _ => ?_) (fun _ => ?_) | with_reducible refine KeepsCore.same ?_
    | dsimp only | simp only [keeps_mk_iff] | split

theorem execKvcCreate_keeps {r₀ : State} (s : State) (hk : Keeps r₀ s) :
    KeepsOut r₀ (execKvcCreate s) := by
  unfold execKvcCreate
  refine act_keeps hk ?_
  repeat' first
    | with_reducible assumption | with_reducible apply act_keeps | with_reducible apply State.kvServe_keeps
    | with_reducible apply State.kvCreate_keeps | with_reducible refine Keeps.ite (fun _ => ?_) (fun _ => ?_)
    | with_reducible refine KeepsCore.same ?_ | intro _ | dsimp only | simp only [keeps_mk_iff] | split

theorem State.kvFork_keeps {r₀ : State} (s : State) (u0 : Nat) (r : Bytes) (hk : Keeps r₀ s) :
    Keeps r₀ (State.kvFork s u0 r).st := by
  unfold State.kvFork
  repeat' first
    | with_reducible assumption | with_reducible apply State.kvAddRef_keeps
    | with_reducible apply State.modKvSeq_keeps | with_reducible refine Keeps.foldl (fun s a hk => ?_) ?_
    | with_reducible refine Keeps.foldl_fst (fun s b a hk => ?_) ?_
    | with_reducible refine Keeps.foldl_snd (fun b s a hk => ?_) ?_
    | with_reducible refine Keeps.ite (fun _ => ?_) (fun _ => ?_) | with_reducible refine KeepsCore.same ?_
    | dsimp only | simp only [keeps_mk_iff] | split

theorem execKvcFork_keeps {r₀ : State} (s : State) (hk : Keeps r₀ s) :
    KeepsOut r₀ (execKvcFork s) := by
  unfold execKvcFork
  refine act_keeps hk ?_
  repeat' first
    | with_reducible assumption | with_reducible apply act_keeps | with_reducible apply State.kvServe_keeps
    | with_reducible apply State.kvFork_keeps | with_reducible refine Keeps.ite (fun _ => ?_) (fun _ => ?_)
    | with_reducible refine KeepsCore.same ?_ | intro _ | dsimp only | simp only [keeps_mk_iff] | split

theorem KvSpace.putLine_keeps {r₀ : State} (p : KvSpace) (dst i : Nat) (q : State × Fetch) (hk : Keeps r₀ q.1) :
    Keeps r₀ (p.putLine dst i q).1 := by
  obtain ⟨t, _ | _ | _⟩ := q
  · exact State.devWrite_keeps _ _ _ _ hk
  · exact hk
  · exact hk

theorem State.kvCopyLine_keeps {r₀ : State} (s : State) (p : KvSpace) (src dst i : Nat) (hk : Keeps r₀ s) :
    Keeps r₀ (State.kvCopyLine s p src dst i).1 :=
  KvSpace.putLine_keeps p dst i _ (State.fetchAt_keeps s _ _ _ hk)

theorem State.kvCopyPage_keeps {r₀ : State} (s : State) (p : KvSpace) (src dst : Nat) (hk : Keeps r₀ s) :
    Keeps r₀ (State.kvCopyPage s p src dst).1 := by
  refine Keeps.foldl_fst (fun s b a hk => ?_) hk
  cases b
  · exact State.kvCopyLine_keeps _ _ _ _ _ hk
  · exact hk
  · exact hk

theorem State.kvFindPages_keeps {r₀ : State} (s : State) (space n : Nat) (hk : Keeps r₀ s) :
    Keeps r₀ (State.kvFindPages s space n) := by
  unfold State.kvFindPages
  repeat' first
    | with_reducible assumption | with_reducible apply State.kvReclaim_keeps
    | with_reducible apply State.kvPagePass_keeps | with_reducible refine Keeps.ite (fun _ => ?_) (fun _ => ?_)
    | with_reducible refine KeepsCore.same ?_ | dsimp only | simp only [keeps_mk_iff] | split

theorem State.kvExtend_keeps {r₀ : State} (s : State) (r : Bytes) (slot : Nat) (cow : Option Nat) (pages : List Nat) (hk : Keeps r₀ s) :
    Keeps r₀ (State.kvExtend s r slot cow pages) := by
  unfold State.kvExtend
  repeat' first
    | with_reducible assumption | with_reducible apply State.kvAddRef_keeps
    | with_reducible apply State.modKvSeq_keeps | with_reducible apply State.kvDropRef_keeps
    | with_reducible refine Keeps.foldl (fun s a hk => ?_) ?_
    | with_reducible refine Keeps.foldl_fst (fun s b a hk => ?_) ?_
    | with_reducible refine Keeps.foldl_snd (fun b s a hk => ?_) ?_
    | with_reducible refine Keeps.ite (fun _ => ?_) (fun _ => ?_) | with_reducible refine KeepsCore.same ?_
    | dsimp only | simp only [keeps_mk_iff] | split

theorem State.kvAppend_keeps {r₀ : State} (s : State) (u0 : Nat) (r : Bytes) (hk : Keeps r₀ s) :
    Keeps r₀ (State.kvAppend s u0 r).st := by
  unfold State.kvAppend
  repeat' first
    | with_reducible assumption | with_reducible apply State.kvFindPages_keeps | with_reducible apply Reg.take_keeps
    | with_reducible apply State.modKvSpace_keeps | with_reducible apply State.kvCopyPage_keeps
    | with_reducible apply State.kvExtend_keeps | with_reducible refine Keeps.ite (fun _ => ?_) (fun _ => ?_)
    | with_reducible refine KeepsCore.same ?_ | dsimp only | simp only [keeps_mk_iff] | split

theorem execKvcAppend_keeps {r₀ : State} (s : State) (hk : Keeps r₀ s) :
    KeepsOut r₀ (execKvcAppend s) := by
  unfold execKvcAppend
  refine act_keeps hk ?_
  repeat' first
    | with_reducible assumption | with_reducible apply act_keeps | with_reducible apply State.kvServe_keeps
    | with_reducible apply State.kvAppend_keeps | with_reducible refine Keeps.ite (fun _ => ?_) (fun _ => ?_)
    | with_reducible refine KeepsCore.same ?_ | intro _ | dsimp only | simp only [keeps_mk_iff] | split

theorem State.kvTruncate_keeps {r₀ : State} (s : State) (u0 : Nat) (r : Bytes) (hk : Keeps r₀ s) :
    Keeps r₀ (State.kvTruncate s u0 r).st := by
  unfold State.kvTruncate
  repeat' first
    | with_reducible assumption | with_reducible apply State.kvDropRef_keeps
    | with_reducible apply State.modKvSeq_keeps | with_reducible apply Reg.take_keeps
    | with_reducible refine Keeps.foldl (fun s a hk => ?_) ?_
    | with_reducible refine Keeps.foldl_fst (fun s b a hk => ?_) ?_
    | with_reducible refine Keeps.foldl_snd (fun b s a hk => ?_) ?_
    | with_reducible refine Keeps.ite (fun _ => ?_) (fun _ => ?_) | with_reducible refine KeepsCore.same ?_
    | dsimp only | simp only [keeps_mk_iff] | split

theorem execKvcTruncate_keeps {r₀ : State} (s : State) (hk : Keeps r₀ s) :
    KeepsOut r₀ (execKvcTruncate s) := by
  unfold execKvcTruncate
  refine act_keeps hk ?_
  repeat' first
    | with_reducible assumption | with_reducible apply act_keeps | with_reducible apply State.kvServe_keeps
    | with_reducible apply State.kvTruncate_keeps | with_reducible refine Keeps.ite (fun _ => ?_) (fun _ => ?_)
    | with_reducible refine KeepsCore.same ?_ | intro _ | dsimp only | simp only [keeps_mk_iff] | split

theorem State.kvPublish_keeps {r₀ : State} (s : State) (u0 : Nat) (r : Bytes) (hk : Keeps r₀ s) :
    Keeps r₀ (State.kvPublish s u0 r).st := by
  unfold State.kvPublish
  repeat' first
    | with_reducible assumption | with_reducible apply State.kvEvictPass_keeps
    | with_reducible apply State.kvAddRef_keeps | with_reducible apply State.modKvPage_keeps
    | with_reducible apply State.modKvc_keeps | with_reducible apply State.modKvSeq_keeps
    | with_reducible refine Keeps.ite (fun _ => ?_) (fun _ => ?_) | with_reducible refine KeepsCore.same ?_
    | dsimp only | simp only [keeps_mk_iff] | split

theorem execKvcPublish_keeps {r₀ : State} (s : State) (hk : Keeps r₀ s) :
    KeepsOut r₀ (execKvcPublish s) := by
  unfold execKvcPublish
  refine act_keeps hk ?_
  repeat' first
    | with_reducible assumption | with_reducible apply act_keeps | with_reducible apply State.kvServe_keeps
    | with_reducible apply State.kvPublish_keeps | with_reducible refine Keeps.ite (fun _ => ?_) (fun _ => ?_)
    | with_reducible refine KeepsCore.same ?_ | intro _ | dsimp only | simp only [keeps_mk_iff] | split

theorem State.kvFree_keeps {r₀ : State} (s : State) (u0 : Nat) (r : Bytes) (hk : Keeps r₀ s) :
    Keeps r₀ (State.kvFree s u0 r).st := by
  unfold State.kvFree
  repeat' first
    | with_reducible assumption | with_reducible apply State.kvDropRef_keeps
    | with_reducible apply State.modKvSeq_keeps | with_reducible refine Keeps.foldl (fun s a hk => ?_) ?_
    | with_reducible refine Keeps.foldl_fst (fun s b a hk => ?_) ?_
    | with_reducible refine Keeps.foldl_snd (fun b s a hk => ?_) ?_
    | with_reducible refine Keeps.ite (fun _ => ?_) (fun _ => ?_) | with_reducible refine KeepsCore.same ?_
    | dsimp only | simp only [keeps_mk_iff] | split

theorem execKvcFree_keeps {r₀ : State} (s : State) (hk : Keeps r₀ s) :
    KeepsOut r₀ (execKvcFree s) := by
  unfold execKvcFree
  refine act_keeps hk ?_
  repeat' first
    | with_reducible assumption | with_reducible apply act_keeps | with_reducible apply State.kvServe_keeps
    | with_reducible apply State.kvFree_keeps | with_reducible refine Keeps.ite (fun _ => ?_) (fun _ => ?_)
    | with_reducible refine KeepsCore.same ?_ | intro _ | dsimp only | simp only [keeps_mk_iff] | split

theorem State.kvGrant_keeps {r₀ : State} (s : State) (slot c : Nat) (basin : Option Nat) (hk : Keeps r₀ s) :
    Keeps r₀ (State.kvGrant s slot c basin) := by
  unfold State.kvGrant
  repeat' first
    | with_reducible assumption | with_reducible apply State.modKvc_keeps
    | with_reducible refine Keeps.ite (fun _ => ?_) (fun _ => ?_) | with_reducible refine KeepsCore.same ?_
    | with_reducible refine KeepsCore.otherPins ?_ rfl | dsimp only | simp only [keeps_mk_iff] | split

theorem State.kvPin_keeps {r₀ : State} (s : State) (c : Nat) (u0 : Bytes) (hk : Keeps r₀ s) :
    Keeps r₀ (State.kvPin s c u0).st := by
  unfold State.kvPin
  repeat' first
    | with_reducible assumption | with_reducible apply State.kvGrant_keeps
    | with_reducible refine Keeps.ite (fun _ => ?_) (fun _ => ?_) | with_reducible refine KeepsCore.same ?_
    | dsimp only | simp only [keeps_mk_iff] | split

theorem execKvcPin_keeps {r₀ : State} (s : State) (hk : Keeps r₀ s) :
    KeepsOut r₀ (execKvcPin s) := by
  unfold execKvcPin
  refine act_keeps hk ?_
  repeat' first
    | with_reducible assumption | with_reducible apply act_keeps | with_reducible apply State.kvServe_keeps
    | with_reducible apply State.kvPin_keeps | with_reducible refine Keeps.ite (fun _ => ?_) (fun _ => ?_)
    | with_reducible refine KeepsCore.same ?_ | intro _ | dsimp only | simp only [keeps_mk_iff] | split

theorem State.kvUnpin_keeps {r₀ : State} (s : State) (c : Nat) (r : Bytes) (hk : Keeps r₀ s) :
    Keeps r₀ (State.kvUnpin s c r).st := by
  unfold State.kvUnpin
  repeat' first
    | with_reducible assumption | with_reducible apply State.modKvc_keeps
    | with_reducible refine Keeps.ite (fun _ => ?_) (fun _ => ?_) | with_reducible refine KeepsCore.same ?_
    | with_reducible refine KeepsCore.otherPins ?_ rfl | dsimp only | simp only [keeps_mk_iff] | split

theorem execKvcUnpin_keeps {r₀ : State} (s : State) (hk : Keeps r₀ s) :
    KeepsOut r₀ (execKvcUnpin s) := by
  unfold execKvcUnpin
  refine act_keeps hk ?_
  repeat' first
    | with_reducible assumption | with_reducible apply act_keeps | with_reducible apply State.kvServe_keeps
    | with_reducible apply State.kvUnpin_keeps | with_reducible refine Keeps.ite (fun _ => ?_) (fun _ => ?_)
    | with_reducible refine KeepsCore.same ?_ | intro _ | dsimp only | simp only [keeps_mk_iff] | split

theorem State.kvEvict_keeps {r₀ : State} (s : State) (u0 : Nat) (r : Bytes) (hk : Keeps r₀ s) :
    Keeps r₀ (State.kvEvict s u0 r).st := by
  unfold State.kvEvict
  repeat' first
    | with_reducible assumption | with_reducible apply State.kvEvictN_keeps
    | with_reducible refine Keeps.ite (fun _ => ?_) (fun _ => ?_) | with_reducible refine KeepsCore.same ?_
    | dsimp only | simp only [keeps_mk_iff] | split

theorem execKvcEvict_keeps {r₀ : State} (s : State) (hk : Keeps r₀ s) :
    KeepsOut r₀ (execKvcEvict s) := by
  unfold execKvcEvict
  refine act_keeps hk ?_
  repeat' first
    | with_reducible assumption | with_reducible apply act_keeps | with_reducible apply State.kvServe_keeps
    | with_reducible apply State.kvEvict_keeps | with_reducible refine Keeps.ite (fun _ => ?_) (fun _ => ?_)
    | with_reducible refine KeepsCore.same ?_ | intro _ | dsimp only | simp only [keeps_mk_iff] | split

theorem State.kvQuery_keeps {r₀ : State} (s : State) (u0 : Nat) (r : Bytes) (hk : Keeps r₀ s) :
    Keeps r₀ (State.kvQuery s u0 r).st := by
  unfold State.kvQuery
  repeat' first
    | with_reducible assumption | with_reducible refine Keeps.ite (fun _ => ?_) (fun _ => ?_)
    | with_reducible refine KeepsCore.same ?_ | dsimp only | simp only [keeps_mk_iff] | split

theorem execKvcQuery_keeps {r₀ : State} (s : State) (hk : Keeps r₀ s) :
    KeepsOut r₀ (execKvcQuery s) := by
  unfold execKvcQuery
  refine act_keeps hk ?_
  repeat' first
    | with_reducible assumption | with_reducible apply act_keeps | with_reducible apply State.kvServe_keeps
    | with_reducible apply State.kvQuery_keeps | with_reducible refine Keeps.ite (fun _ => ?_) (fun _ => ?_)
    | with_reducible refine KeepsCore.same ?_ | intro _ | dsimp only | simp only [keeps_mk_iff] | split

theorem State.walkerPin_keeps {r₀ : State} (s : State) (n : Nat) (hk : Keeps r₀ s) :
    Keeps r₀ (State.walkerPin s n) := by
  unfold State.walkerPin
  repeat' first
    | with_reducible assumption | with_reducible apply State.kvGrant_keeps | with_reducible apply State.modBasin_keeps
    | with_reducible apply State.modKvc_keeps | with_reducible refine Keeps.ite (fun _ => ?_) (fun _ => ?_)
    | with_reducible refine KeepsCore.same ?_ | dsimp only | simp only [keeps_mk_iff] | split

theorem execWalkerPinGrant_keeps {r₀ : State} (basin : Nat) (s : State) (hk : Keeps r₀ s) :
    KeepsOut r₀ (execWalkerPinGrant basin s) := by
  unfold execWalkerPinGrant
  refine act_keeps hk ?_
  repeat' first
    | with_reducible assumption | with_reducible apply act_keeps | with_reducible apply State.walkerPin_keeps
    | with_reducible refine Keeps.ite (fun _ => ?_) (fun _ => ?_) | with_reducible refine KeepsCore.same ?_ | intro _
    | dsimp only | simp only [keeps_mk_iff] | split

theorem State.kvcGenDrop_keeps {r₀ : State} (s : State) (c : Nat) (hk : Keeps r₀ s) :
    Keeps r₀ (State.kvcGenDrop s c) := by
  unfold State.kvcGenDrop
  repeat' first
    | with_reducible assumption | with_reducible apply State.walkerPin_keeps | with_reducible apply State.modKvc_keeps
    | with_reducible refine Keeps.ite (fun _ => ?_) (fun _ => ?_) | with_reducible refine KeepsCore.same ?_
    | with_reducible refine KeepsCore.otherPins ?_ rfl | dsimp only | simp only [keeps_mk_iff] | split

theorem State.kvcDestroy_keeps {r₀ : State} (s : State) (c : Nat) (hk : Keeps r₀ s) :
    Keeps r₀ (State.kvcDestroy s c) := by
  unfold State.kvcDestroy
  repeat' first
    | with_reducible assumption | with_reducible apply State.kvDropSpace_keeps
    | with_reducible refine Keeps.foldl (fun s a hk => ?_) ?_
    | with_reducible refine Keeps.foldl_fst (fun s b a hk => ?_) ?_
    | with_reducible refine Keeps.foldl_snd (fun b s a hk => ?_) ?_
    | with_reducible refine Keeps.ite (fun _ => ?_) (fun _ => ?_) | with_reducible refine KeepsCore.same ?_
    | dsimp only | simp only [keeps_mk_iff] | split

end Sys2Proof.Machine
end

