-- ==== Sys2Proof/Laws/KeepsAttn.lean ====
section
/-! SUPPORT. What the operations of Machine/Attn.lean keep. -/

namespace Sys2Proof.Machine

open Sys2Proof.Laws

theorem State.walkRead_keeps {r₀ : State} (s : State) (n a len : Nat) (hk : Keeps r₀ s) :
    Keeps r₀ (State.walkRead s n a len).2.1 := by
  unfold State.walkRead
  repeat' first
    | with_reducible assumption | with_reducible apply State.basinIo_keeps
    | with_reducible refine Keeps.foldl (fun s a hk => ?_) ?_
    | with_reducible refine Keeps.foldl_fst (fun s b a hk => ?_) ?_
    | with_reducible refine Keeps.foldl_snd (fun b s a hk => ?_) ?_
    | with_reducible refine Keeps.foldl_mid (fun b s c a hk => ?_) ?_
    | with_reducible refine Keeps.ite (fun _ => ?_) (fun _ => ?_) | with_reducible refine KeepsCore.same ?_
    | dsimp only | simp only [keeps_mk_iff] | split

theorem State.walkEntry_keeps {r₀ : State} (s : State) (v : AttnEnv) (e : AttnEntry) (i : Nat) (hk : Keeps r₀ s) :
    Keeps r₀ (State.walkEntry s v e i).2.1 := by
  unfold State.walkEntry
  repeat' first
    | with_reducible assumption | with_reducible apply State.walkRead_keeps
    | with_reducible refine Keeps.ite (fun _ => ?_) (fun _ => ?_) | with_reducible refine KeepsCore.same ?_
    | dsimp only | simp only [keeps_mk_iff] | split

theorem State.walkPage_keeps {r₀ : State} (s : State) (v : AttnEnv) (e : AttnEntry) (i : Nat) (hk : Keeps r₀ s) :
    Keeps r₀ (State.walkPage s v e i).2.1 := by
  unfold State.walkPage
  repeat' first
    | with_reducible assumption | with_reducible apply State.walkEntry_keeps
    | with_reducible refine Keeps.ite (fun _ => ?_) (fun _ => ?_) | with_reducible refine KeepsCore.same ?_
    | dsimp only | simp only [keeps_mk_iff] | split

theorem State.walkKv_keeps {r₀ : State} (s : State) (v : AttnEnv) (e : AttnEntry) (i : Nat) (hk : Keeps r₀ s) :
    Keeps r₀ (State.walkKv s v e i).2.1 := by
  unfold State.walkKv
  repeat' first
    | with_reducible assumption | with_reducible apply State.walkPage_keeps
    | with_reducible apply State.walkRead_keeps | with_reducible refine Keeps.ite (fun _ => ?_) (fun _ => ?_)
    | with_reducible refine KeepsCore.same ?_ | dsimp only | simp only [keeps_mk_iff] | split

theorem State.attnWritable_keeps {r₀ : State} (s : State) (v : AttnEnv) (e : AttnEntry) (hk : Keeps r₀ s) :
    Keeps r₀ (State.attnWritable s v e).2.1 := by
  unfold State.attnWritable
  repeat' first
    | with_reducible assumption | with_reducible apply State.walkEntry_keeps
    | with_reducible refine Keeps.foldl (fun s a hk => ?_) ?_
    | with_reducible refine Keeps.foldl_fst (fun s b a hk => ?_) ?_
    | with_reducible refine Keeps.foldl_snd (fun b s a hk => ?_) ?_
    | with_reducible refine Keeps.foldl_mid (fun b s c a hk => ?_) ?_
    | with_reducible refine Keeps.ite (fun _ => ?_) (fun _ => ?_) | with_reducible refine KeepsCore.same ?_
    | dsimp only | simp only [keeps_mk_iff] | split

theorem State.attnPut_keeps {r₀ : State} (s : State) (v : AttnEnv) (a line off : Nat) (hk : Keeps r₀ s) :
    Keeps r₀ (State.attnPut s v a line off).2 := by
  unfold State.attnPut
  repeat' first
    | with_reducible assumption | with_reducible apply State.basinIo_keeps
    | with_reducible refine Keeps.ite (fun _ => ?_) (fun _ => ?_) | with_reducible refine KeepsCore.same ?_
    | dsimp only | simp only [keeps_mk_iff] | split

theorem State.attnAppendRow_keeps {r₀ : State} (s : State) (v : AttnEnv) (i : Nat) (e : AttnEntry) (x : Nat) (hk : Keeps r₀ s) :
    Keeps r₀ (State.attnAppendRow s v i e x).2 := by
  unfold State.attnAppendRow
  repeat' first
    | with_reducible assumption | with_reducible apply State.walkPage_keeps | with_reducible apply State.attnPut_keeps
    | with_reducible refine Keeps.foldl (fun s a hk => ?_) ?_
    | with_reducible refine Keeps.foldl_fst (fun s b a hk => ?_) ?_
    | with_reducible refine Keeps.foldl_snd (fun b s a hk => ?_) ?_
    | with_reducible refine Keeps.foldl_mid (fun b s c a hk => ?_) ?_
    | with_reducible refine Keeps.ite (fun _ => ?_) (fun _ => ?_) | with_reducible refine KeepsCore.same ?_
    | dsimp only | simp only [keeps_mk_iff] | split

theorem State.attnTile_keeps {r₀ : State} (s : State) (n : Nat) (t : FloatTile) (hk : Keeps r₀ s) :
    Keeps r₀ (State.attnTile s n t).1 := by
  unfold State.attnTile
  repeat' first
    | with_reducible assumption | with_reducible apply State.draw_keeps | with_reducible apply State.modBasin_keeps
    | with_reducible apply State.sendResidue_keeps | with_reducible refine Keeps.ite (fun _ => ?_) (fun _ => ?_)
    | with_reducible refine KeepsCore.same ?_ | dsimp only | simp only [keeps_mk_iff] | split

theorem State.attnTiles_keeps {r₀ : State} (s : State) (n : Nat) (ts : List FloatTile) (hk : Keeps r₀ s) :
    Keeps r₀ (State.attnTiles s n ts).1 := by
  unfold State.attnTiles
  repeat' first
    | with_reducible assumption | with_reducible apply State.attnTile_keeps
    | with_reducible refine Keeps.foldl (fun s a hk => ?_) ?_
    | with_reducible refine Keeps.foldl_fst (fun s b a hk => ?_) ?_
    | with_reducible refine Keeps.foldl_snd (fun b s a hk => ?_) ?_
    | with_reducible refine Keeps.ite (fun _ => ?_) (fun _ => ?_) | with_reducible refine KeepsCore.same ?_
    | dsimp only | simp only [keeps_mk_iff] | split

theorem State.attnBlock_keeps {r₀ : State} (s : State) (v : AttnEnv) (i : Nat) (e : AttnEntry) (b : Nat) (x : KvBlock) (rows : List RowState) (hk : Keeps r₀ s) :
    Keeps r₀ (State.attnBlock s v i e b x rows).1 := by
  unfold State.attnBlock
  repeat' first
    | with_reducible assumption | with_reducible apply State.attnTiles_keeps
    | with_reducible apply State.modBasin_keeps | with_reducible refine Keeps.ite (fun _ => ?_) (fun _ => ?_)
    | with_reducible refine KeepsCore.same ?_ | dsimp only | simp only [keeps_mk_iff] | split

theorem State.attnOut_keeps {r₀ : State} (s : State) (v : AttnEnv) (i : Nat) (rows : List RowState) (hk : Keeps r₀ s) :
    Keeps r₀ (State.attnOut s v i rows) := by
  unfold State.attnOut
  repeat' first
    | with_reducible assumption | with_reducible apply State.wr_keeps | with_reducible apply State.modBasin_keeps
    | with_reducible refine Keeps.foldl (fun s a hk => ?_) ?_
    | with_reducible refine Keeps.foldl_fst (fun s b a hk => ?_) ?_
    | with_reducible refine Keeps.foldl_snd (fun b s a hk => ?_) ?_
    | with_reducible refine Keeps.ite (fun _ => ?_) (fun _ => ?_) | with_reducible refine KeepsCore.same ?_
    | dsimp only | simp only [keeps_mk_iff] | split

theorem State.storeRows_keeps {r₀ : State} (s : State) (v : AttnEnv) (rows : List RowState) (hk : Keeps r₀ s) :
    Keeps r₀ (State.storeRows s v rows) := by
  unfold State.storeRows
  repeat' first
    | with_reducible assumption | with_reducible apply State.wr_keeps
    | with_reducible refine Keeps.foldl (fun s a hk => ?_) ?_
    | with_reducible refine Keeps.ite (fun _ => ?_) (fun _ => ?_) | with_reducible refine KeepsCore.same ?_
    | dsimp only | simp only [keeps_mk_iff] | split

theorem AttnAt.walked_keeps {r₀ : State} (x : AttnAt) (status : Nat) (s : State) (hx : Keeps r₀ x.st) (hk : Keeps r₀ s) :
    Keeps r₀ (AttnAt.walked x status s).st := by
  unfold AttnAt.walked
  split
  · exact hx
  · exact hk

theorem AttnAt.step_keeps {r₀ : State} (v : AttnEnv) (i : Nat) (e : AttnEntry) (x : AttnAt) (b : Nat) (hk : Keeps r₀ x.st) :
    Keeps r₀ (AttnAt.step v i e x b).st := by
  unfold AttnAt.step
  repeat' first
    | with_reducible assumption | with_reducible apply State.modBasin_keeps | with_reducible apply State.walkKv_keeps
    | with_reducible apply AttnAt.walked_keeps | with_reducible apply State.attnBlock_keeps
    | with_reducible refine Keeps.foldl_snd (fun b s a hk => ?_) ?_
    | with_reducible refine Keeps.foldl_by AttnAt.st (fun x a hk => ?_) ?_
    | with_reducible refine Keeps.ite (fun _ => ?_) (fun _ => ?_) | with_reducible refine KeepsCore.same ?_
    | dsimp only | simp only [keeps_mk_iff] | split

theorem AttnAt.appendRows_keeps {r₀ : State} (v : AttnEnv) (i : Nat) (e : AttnEntry) (x : AttnAt) (hk : Keeps r₀ x.st) :
    Keeps r₀ (AttnAt.appendRows v i e x).st := by
  unfold AttnAt.appendRows
  repeat' first
    | with_reducible assumption | with_reducible apply State.attnWritable_keeps
    | with_reducible apply AttnAt.walked_keeps | with_reducible apply State.attnAppendRow_keeps
    | with_reducible refine Keeps.foldl_snd (fun b s a hk => ?_) ?_
    | with_reducible refine Keeps.foldl_by AttnAt.st (fun x a hk => ?_) ?_
    | with_reducible refine Keeps.ite (fun _ => ?_) (fun _ => ?_) | with_reducible refine KeepsCore.same ?_
    | dsimp only | simp only [keeps_mk_iff] | split

theorem AttnAt.check_keeps {r₀ : State} (v : AttnEnv) (x : AttnAt) (i : Nat) (e : AttnEntry) (hk : Keeps r₀ x.st) :
    Keeps r₀ (AttnAt.check v x i e).st := by
  unfold AttnAt.check
  repeat' first
    | with_reducible assumption | with_reducible refine Keeps.foldl_snd (fun b s a hk => ?_) ?_
    | with_reducible refine Keeps.foldl_by AttnAt.st (fun x a hk => ?_) ?_
    | with_reducible refine Keeps.ite (fun _ => ?_) (fun _ => ?_) | with_reducible refine KeepsCore.same ?_
    | dsimp only | simp only [keeps_mk_iff] | split

theorem AttnAt.openEntry_keeps {r₀ : State} (v : AttnEnv) (x : AttnAt) (i : Nat) (e : AttnEntry) (hk : Keeps r₀ x.st) :
    Keeps r₀ (AttnAt.openEntry v x i e).st := by
  unfold AttnAt.openEntry
  repeat' first
    | with_reducible assumption | with_reducible apply AttnAt.appendRows_keeps
    | with_reducible refine Keeps.foldl_snd (fun b s a hk => ?_) ?_
    | with_reducible refine Keeps.foldl_by AttnAt.st (fun x a hk => ?_) ?_
    | with_reducible refine Keeps.ite (fun _ => ?_) (fun _ => ?_) | with_reducible refine KeepsCore.same ?_
    | dsimp only | simp only [keeps_mk_iff] | split

theorem AttnAt.entryStep_keeps {r₀ : State} (v : AttnEnv) (next : Option Nat) (x : AttnAt) (i : Nat) (hk : Keeps r₀ x.st) :
    Keeps r₀ (AttnAt.entryStep v next x i).st := by
  unfold AttnAt.entryStep
  repeat' first
    | with_reducible assumption | with_reducible apply AttnAt.check_keeps | with_reducible apply State.askLines_keeps
    | with_reducible apply AttnAt.openEntry_keeps | with_reducible apply AttnAt.step_keeps
    | with_reducible apply State.attnOut_keeps | with_reducible refine Keeps.foldl_snd (fun b s a hk => ?_) ?_
    | with_reducible refine Keeps.foldl_by AttnAt.st (fun x a hk => ?_) ?_
    | with_reducible refine Keeps.ite (fun _ => ?_) (fun _ => ?_) | with_reducible refine KeepsCore.same ?_
    | dsimp only | simp only [keeps_mk_iff] | split

theorem State.attnUnits_keeps {r₀ : State} (s : State) (n : Nat) (hk : Keeps r₀ s) :
    Keeps r₀ (State.attnUnits s n) := by
  unfold State.attnUnits
  repeat' first
    | with_reducible assumption | with_reducible apply State.draw_keeps | with_reducible apply State.setAcc_keeps
    | with_reducible apply State.modBasin_keeps | with_reducible refine Keeps.ite (fun _ => ?_) (fun _ => ?_)
    | with_reducible refine KeepsCore.same ?_ | dsimp only | simp only [keeps_mk_iff] | split

theorem AttnAt.work_keeps {r₀ : State} (v : AttnEnv) (x : AttnAt) (hk : Keeps r₀ x.st) :
    Keeps r₀ (AttnAt.work v x) := by
  unfold AttnAt.work
  repeat' first
    | with_reducible assumption | with_reducible apply State.draw_keeps | with_reducible apply State.scramble_keeps
    | with_reducible refine Keeps.foldl_snd (fun b s a hk => ?_) ?_
    | with_reducible refine Keeps.foldl_by AttnAt.st (fun x a hk => ?_) ?_
    | with_reducible refine Keeps.ite (fun _ => ?_) (fun _ => ?_) | with_reducible refine KeepsCore.same ?_
    | dsimp only | simp only [keeps_mk_iff] | split

theorem AttnAt.pause_keeps {r₀ : State} (v : AttnEnv) (idx : Nat) (x : AttnAt) (hk : Keeps r₀ x.st) :
    Keeps r₀ (AttnAt.pause v idx x).2 := by
  unfold AttnAt.pause
  repeat' first
    | with_reducible assumption | with_reducible apply AttnAt.work_keeps | with_reducible apply State.attnUnits_keeps
    | with_reducible apply State.storeRows_keeps | with_reducible apply State.modQ_keeps
    | with_reducible refine Keeps.foldl_snd (fun b s a hk => ?_) ?_
    | with_reducible refine Keeps.foldl_by AttnAt.st (fun x a hk => ?_) ?_
    | with_reducible refine Keeps.ite (fun _ => ?_) (fun _ => ?_) | with_reducible refine KeepsCore.same ?_
    | dsimp only | simp only [keeps_mk_iff] | split

theorem AttnAt.finish_keeps {r₀ : State} (v : AttnEnv) (x : AttnAt) (hk : Keeps r₀ x.st) :
    Keeps r₀ (AttnAt.finish v x).2 := by
  unfold AttnAt.finish
  repeat' first
    | with_reducible assumption | with_reducible apply AttnAt.work_keeps | with_reducible apply State.attnUnits_keeps
    | with_reducible apply State.dropWalkerPin_keeps | with_reducible refine Keeps.foldl_snd (fun b s a hk => ?_) ?_
    | with_reducible refine Keeps.foldl_by AttnAt.st (fun x a hk => ?_) ?_
    | with_reducible refine Keeps.ite (fun _ => ?_) (fun _ => ?_) | with_reducible refine KeepsCore.same ?_
    | dsimp only | simp only [keeps_mk_iff] | split

theorem State.attnCapture_keeps {r₀ : State} (s : State) (n detail entry block : Nat) (hk : Keeps r₀ s) :
    Keeps r₀ (State.attnCapture s n detail entry block) := by
  unfold State.attnCapture
  repeat' first
    | with_reducible assumption | with_reducible apply State.modBasin_keeps
    | with_reducible refine Keeps.ite (fun _ => ?_) (fun _ => ?_) | with_reducible refine KeepsCore.same ?_
    | dsimp only | simp only [keeps_mk_iff] | split

theorem AttnEnv.close_keeps {r₀ : State} (v : AttnEnv) (idx : Nat) (x : AttnAt) (hk : Keeps r₀ x.st) :
    Keeps r₀ (AttnEnv.close v idx x).2 := by
  unfold AttnEnv.close
  repeat' first
    | with_reducible assumption | with_reducible apply AttnAt.pause_keeps | with_reducible apply AttnAt.finish_keeps
    | with_reducible apply State.attnCapture_keeps | with_reducible refine Keeps.ite (fun _ => ?_) (fun _ => ?_)
    | with_reducible refine KeepsCore.same ?_ | dsimp only | simp only [keeps_mk_iff] | split

theorem AttnEnv.run_keeps {r₀ : State} (v : AttnEnv) (k : Nat) (q : QCmd) (s : State) (hk : Keeps r₀ s) :
    Keeps r₀ (AttnEnv.run v k q s).2 :=
  AttnEnv.close_keeps v q.idx _ (Keeps.foldl_by AttnAt.st (fun x a h => AttnAt.entryStep_keeps v none x a h)
    (AttnAt.entryStep_keeps v _ _ _ hk))

theorem AttnCmd.withDesc_keeps {r₀ : State} (q : AttnCmd) (n k : Nat) (cls : FmtClass) (d : AttnDesc) (qc : QCmd) (s : State) (hk : Keeps r₀ s) :
    Keeps r₀ (AttnCmd.withDesc q n k cls d qc s).2 := by
  unfold AttnCmd.withDesc
  repeat' first
    | with_reducible assumption | with_reducible apply State.attnCapture_keeps
    | with_reducible apply State.askLines_keeps | with_reducible apply State.walkerPin_keeps
    | with_reducible apply Matmul.run_keeps | with_reducible apply DmaCmd.run_keeps
    | with_reducible apply RillCmd.run_keeps | with_reducible apply AttnEnv.run_keeps
    | with_reducible apply AttnCmd.run_keeps | with_reducible apply ConvCmd.run_keeps
    | with_reducible refine Keeps.ite (fun _ => ?_) (fun _ => ?_) | with_reducible refine KeepsCore.same ?_
    | dsimp only | simp only [keeps_mk_iff] | split

theorem AttnCmd.run_keeps {r₀ : State} (q : AttnCmd) (n k : Nat) (qc : QCmd) (s : State) (hk : Keeps r₀ s) :
    Keeps r₀ (AttnCmd.run q n k qc s).2 := by
  unfold AttnCmd.run
  repeat' first
    | with_reducible assumption | with_reducible apply State.attnCapture_keeps
    | with_reducible apply State.askLines_keeps | with_reducible apply AttnCmd.withDesc_keeps
    | with_reducible refine Keeps.ite (fun _ => ?_) (fun _ => ?_) | with_reducible refine KeepsCore.same ?_
    | dsimp only | simp only [keeps_mk_iff] | split

theorem execAttn_keeps {r₀ : State} (visit : UnitVisit) (s : State) (hk : Keeps r₀ s) :
    KeepsOut r₀ (execAttn visit s) := by
  unfold execAttn
  refine act_keeps hk ?_
  repeat' first
    | with_reducible assumption | with_reducible apply act_keeps | with_reducible apply State.runQueued_keeps
    | with_reducible apply Matmul.run_keeps | with_reducible apply DmaCmd.run_keeps
    | with_reducible apply RillCmd.run_keeps | with_reducible apply AttnEnv.run_keeps
    | with_reducible apply AttnCmd.run_keeps | with_reducible apply ConvCmd.run_keeps
    | with_reducible refine Keeps.ite (fun _ => ?_) (fun _ => ?_) | with_reducible refine KeepsCore.same ?_ | intro _
    | dsimp only | simp only [keeps_mk_iff] | split

end Sys2Proof.Machine
end

