-- ==== Sys2Proof/Laws/KeepsSafe.lean ====
section
/-! SUPPORT. What the operations of Machine/Safe.lean keep. -/

namespace Sys2Proof.Machine

open Sys2Proof.Laws

theorem State.modHdw_keeps {r₀ : State} (s : State) (c : Nat) (f : HdwClass → HdwClass) (hk : Keeps r₀ s) :
    Keeps r₀ (State.modHdw s c f) := by
  unfold State.modHdw
  repeat' first
    | with_reducible assumption | with_reducible refine Keeps.ite (fun _ => ?_) (fun _ => ?_)
    | with_reducible refine KeepsCore.same ?_ | with_reducible refine KeepsCore.ilk ?_ rfl | dsimp only
    | simp only [keeps_mk_iff] | split

theorem State.dropMarks_keeps {r₀ : State} (s : State) (hk : Keeps r₀ s) :
    Keeps r₀ (State.dropMarks s) := by
  unfold State.dropMarks
  repeat' first
    | with_reducible assumption | with_reducible refine Keeps.ite (fun _ => ?_) (fun _ => ?_)
    | with_reducible refine KeepsCore.same ?_ | with_reducible refine KeepsCore.ilk ?_ rfl | dsimp only
    | simp only [keeps_mk_iff] | split

theorem State.latch_keeps {r₀ : State} (s : State) (cause sub : Nat) (hk : Keeps r₀ s) (hc : cause ≠ 0) :
    Keeps r₀ (State.latch s cause sub) := by
  have hs : s.latched = true ↔ s.ilk.safeCause ≠ 0 := by simp [State.latched]
  unfold State.latch
  split
  · exact KeepsCore.ilk (s := s) hk rfl
  · rename_i hl
    have hz : s.ilk.safeCause = 0 := by by_cases h : s.ilk.safeCause = 0 <;> simp_all
    exact ⟨hk.mem, hk.pending, hk.porst, hk.reset, hk.cmd, hk.stays,
      fun a => (hk.asserts a).imp_right fun h => ⟨hc, h.2⟩,
      fun c => absurd ((hk.cause c).1 ▸ c) (by simp [hz]), hk.free⟩

theorem State.alert_keeps {r₀ : State} (s : State) (kind cause cls basin rule seq frame : Nat) (hk : Keeps r₀ s) :
    Keeps r₀ (State.alert s kind cause cls basin rule seq frame) := by
  unfold State.alert
  repeat' first
    | with_reducible assumption | with_reducible apply State.msi_keeps
    | with_reducible refine Keeps.ite (fun _ => ?_) (fun _ => ?_) | with_reducible refine KeepsCore.same ?_
    | with_reducible refine KeepsCore.ilk ?_ rfl | dsimp only | simp only [keeps_mk_iff] | split

theorem State.markFrame_keeps {r₀ : State} (s : State) (frame sub : Nat) (hk : Keeps r₀ s) :
    Keeps r₀ (State.markFrame s frame sub) := by
  unfold State.markFrame
  repeat' first
    | with_reducible assumption | with_reducible apply State.latch_keeps
    | with_reducible refine Keeps.ite (fun _ => ?_) (fun _ => ?_) | with_reducible refine KeepsCore.same ?_
    | with_reducible refine KeepsCore.ilk ?_ rfl | decide | dsimp only | simp only [keeps_mk_iff] | split

/-- SAFE_N driven low: the rise is SAFE_N_RELEASE's alone. -/
theorem State.driveSafeN_keeps {r₀ : State} (s : State) (hk : Keeps r₀ s) : Keeps r₀ (State.driveSafeN s false) := by
  unfold State.driveSafeN
  split
  · exact hk
  · exact ⟨hk.mem, hk.pending, hk.porst, hk.reset, fun h => absurd h (by simp), hk.stays,
      fun a => (hk.asserts a).imp_right fun h => ⟨h.1, rfl⟩, hk.cause, hk.free⟩

theorem execSafeNAssert_keeps {r₀ : State} (s : State) (hk : Keeps r₀ s) : KeepsOut r₀ (execSafeNAssert s) := by
  unfold execSafeNAssert
  refine act_keeps hk ?_
  dsimp only
  split
  · exact hk
  · rename_i h
    have hl : s.ilk.safeCause ≠ 0 := by
      intro hz; simp [State.latched, hz] at h
    unfold State.driveSafeN
    split
    · rename_i hp
      exact ⟨hk.mem, hk.pending, hk.porst, hk.reset, hk.cmd, fun _ => rfl, fun _ => Or.inr ⟨hl, hp⟩, hk.cause, hk.free⟩
    · exact ⟨hk.mem, hk.pending, hk.porst, hk.reset, fun h => absurd h (by simp), fun _ => rfl,
        fun _ => Or.inr ⟨hl, rfl⟩, hk.cause, hk.free⟩

theorem execLockstepMismatch_keeps {r₀ : State} (s : State) (hk : Keeps r₀ s) :
    KeepsOut r₀ (execLockstepMismatch s) := by
  unfold execLockstepMismatch
  refine act_keeps hk ?_
  repeat' first
    | with_reducible assumption | with_reducible apply act_keeps | with_reducible apply State.latch_keeps
    | with_reducible refine Keeps.ite (fun _ => ?_) (fun _ => ?_) | with_reducible refine KeepsCore.same ?_
    | with_reducible refine KeepsCore.ilk ?_ rfl | decide | intro _ | dsimp only | simp only [keeps_mk_iff] | split

theorem execCheckerMismatch_keeps {r₀ : State} (unit : Nat) (s : State) (hk : Keeps r₀ s) :
    KeepsOut r₀ (execCheckerMismatch unit s) := by
  unfold execCheckerMismatch
  refine act_keeps hk ?_
  repeat' first
    | with_reducible assumption | with_reducible apply act_keeps | with_reducible apply State.latch_keeps
    | with_reducible refine Keeps.ite (fun _ => ?_) (fun _ => ?_) | with_reducible refine KeepsCore.same ?_ | decide
    | intro _ | dsimp only | simp only [keeps_mk_iff] | split

theorem execIslandEcc_keeps {r₀ : State} (memory : Nat) (s : State) (hk : Keeps r₀ s) :
    KeepsOut r₀ (execIslandEcc memory s) := by
  unfold execIslandEcc
  refine act_keeps hk ?_
  repeat' first
    | with_reducible assumption | with_reducible apply act_keeps | with_reducible apply State.latch_keeps
    | with_reducible refine Keeps.ite (fun _ => ?_) (fun _ => ?_) | with_reducible refine KeepsCore.same ?_ | decide
    | intro _ | dsimp only | simp only [keeps_mk_iff] | split

theorem execRtcMismatch_keeps {r₀ : State} (pair : Nat) (s : State) (hk : Keeps r₀ s) :
    KeepsOut r₀ (execRtcMismatch pair s) := by
  unfold execRtcMismatch
  refine act_keeps hk ?_
  repeat' first
    | with_reducible assumption | with_reducible apply act_keeps | with_reducible apply State.latch_keeps
    | with_reducible refine Keeps.ite (fun _ => ?_) (fun _ => ?_) | with_reducible refine KeepsCore.same ?_
    | with_reducible refine KeepsCore.ilk ?_ rfl | decide | intro _ | dsimp only | simp only [keeps_mk_iff] | split

theorem State.breakLockstep_keeps {r₀ : State} (s : State) (hk : Keeps r₀ s) :
    Keeps r₀ (State.breakLockstep s) := by
  unfold State.breakLockstep
  repeat' first
    | with_reducible assumption | with_reducible apply State.latch_keeps
    | with_reducible refine Keeps.ite (fun _ => ?_) (fun _ => ?_) | with_reducible refine KeepsCore.same ?_
    | with_reducible refine KeepsCore.ilk ?_ rfl | decide | dsimp only | simp only [keeps_mk_iff] | split

theorem State.breakPair_keeps {r₀ : State} (s : State) (pair : Nat) (hk : Keeps r₀ s) :
    Keeps r₀ (State.breakPair s pair) := by
  unfold State.breakPair
  repeat' first
    | with_reducible assumption | with_reducible apply State.latch_keeps
    | with_reducible refine Keeps.ite (fun _ => ?_) (fun _ => ?_) | with_reducible refine KeepsCore.same ?_
    | with_reducible refine KeepsCore.ilk ?_ rfl | decide | dsimp only | simp only [keeps_mk_iff] | split

theorem execDebugInvasive_keeps {r₀ : State} (s : State) (hk : Keeps r₀ s) :
    KeepsOut r₀ (execDebugInvasive s) := by
  unfold execDebugInvasive
  refine act_keeps hk ?_
  repeat' first
    | with_reducible assumption | with_reducible apply act_keeps | with_reducible apply State.breakLockstep_keeps
    | with_reducible refine Keeps.ite (fun _ => ?_) (fun _ => ?_) | with_reducible refine KeepsCore.same ?_ | intro _
    | dsimp only | simp only [keeps_mk_iff] | split

theorem execSelftestSliceStart_keeps {r₀ : State} (s : State) (hk : Keeps r₀ s) :
    KeepsOut r₀ (execSelftestSliceStart s) := by
  unfold execSelftestSliceStart
  refine act_keeps hk ?_
  repeat' first
    | with_reducible assumption | with_reducible apply act_keeps
    | with_reducible refine Keeps.ite (fun _ => ?_) (fun _ => ?_) | with_reducible refine KeepsCore.same ?_
    | with_reducible refine KeepsCore.ilk ?_ rfl | intro _ | dsimp only | simp only [keeps_mk_iff] | split

theorem execSelftestSliceEnd_keeps {r₀ : State} (pass : Bool) (s : State) (hk : Keeps r₀ s) :
    KeepsOut r₀ (execSelftestSliceEnd pass s) := by
  unfold execSelftestSliceEnd
  refine act_keeps hk ?_
  repeat' first
    | with_reducible assumption | with_reducible apply act_keeps | with_reducible apply State.latch_keeps
    | with_reducible refine Keeps.ite (fun _ => ?_) (fun _ => ?_) | with_reducible refine KeepsCore.same ?_
    | with_reducible refine KeepsCore.ilk ?_ rfl | decide | intro _ | dsimp only | simp only [keeps_mk_iff] | split

theorem execSafeNReadback_keeps {r₀ : State} (level : Bool) (s : State) (hk : Keeps r₀ s) :
    KeepsOut r₀ (execSafeNReadback level s) := by
  unfold execSafeNReadback
  refine act_keeps hk ?_
  repeat' first
    | with_reducible assumption | with_reducible apply act_keeps | with_reducible apply State.latch_keeps
    | with_reducible refine Keeps.ite (fun _ => ?_) (fun _ => ?_) | with_reducible refine KeepsCore.same ?_
    | with_reducible refine KeepsCore.ilk ?_ rfl | with_reducible refine KeepsCore.otherPins ?_ rfl | decide | intro _
    | dsimp only | simp only [keeps_mk_iff] | split

end Sys2Proof.Machine
end

