-- ==== Sys2Proof/Laws/KeepsTaps.lean ====
section
/-! SUPPORT. What the operations of Machine/Taps.lean keep. -/

namespace Sys2Proof.Machine

open Sys2Proof.Laws

theorem State.modTap_keeps {r₀ : State} (s : State) (p : Nat) (f : TapCount → TapCount) (hk : Keeps r₀ s) :
    Keeps r₀ (State.modTap s p f) := by
  unfold State.modTap
  repeat' first
    | with_reducible assumption | with_reducible refine Keeps.ite (fun _ => ?_) (fun _ => ?_)
    | with_reducible refine KeepsCore.same ?_ | with_reducible refine KeepsCore.ilk ?_ rfl | dsimp only
    | simp only [keeps_mk_iff] | split

theorem State.tapFailed_keeps {r₀ : State} (s : State) (p : Nat) (hk : Keeps r₀ s) :
    Keeps r₀ (State.tapFailed s p) := by
  unfold State.tapFailed
  repeat' first
    | with_reducible assumption | with_reducible apply State.alert_keeps
    | with_reducible refine Keeps.ite (fun _ => ?_) (fun _ => ?_) | with_reducible refine KeepsCore.same ?_
    | with_reducible refine KeepsCore.ilk ?_ rfl | dsimp only | simp only [keeps_mk_iff] | split

theorem State.tapLoss_keeps {r₀ : State} (s : State) (p : Nat) (hk : Keeps r₀ s) :
    Keeps r₀ (State.tapLoss s p) := by
  unfold State.tapLoss
  repeat' first
    | with_reducible assumption | with_reducible apply State.modTap_keeps | with_reducible apply State.tapFailed_keeps
    | with_reducible refine Keeps.ite (fun _ => ?_) (fun _ => ?_) | with_reducible refine KeepsCore.same ?_
    | dsimp only | simp only [keeps_mk_iff] | split

theorem State.tapUse_keeps {r₀ : State} (s : State) (p : Nat) (data : Bytes) (hk : Keeps r₀ s) :
    Keeps r₀ (State.tapUse s p data) := by
  unfold State.tapUse
  repeat' first
    | with_reducible assumption | with_reducible apply State.tapLoss_keeps | with_reducible apply State.modTap_keeps
    | with_reducible apply State.tapFailed_keeps | with_reducible refine Keeps.ite (fun _ => ?_) (fun _ => ?_)
    | with_reducible refine KeepsCore.same ?_ | dsimp only | simp only [keeps_mk_iff] | split

theorem State.tapAck_keeps {r₀ : State} (s : State) (n : Nat) (r : TapRecord) (hk : Keeps r₀ s) :
    Keeps r₀ (State.tapAck s n r) := by
  unfold State.tapAck
  repeat' first
    | with_reducible assumption | with_reducible apply State.modBasin_keeps
    | with_reducible refine Keeps.ite (fun _ => ?_) (fun _ => ?_) | with_reducible refine KeepsCore.same ?_
    | dsimp only | simp only [keeps_mk_iff] | split

theorem State.tapReceive_keeps {r₀ : State} (s : State) (p : Nat) (data : Bytes) (crc : Nat) (hk : Keeps r₀ s) :
    Keeps r₀ (State.tapReceive s p data crc) := by
  unfold State.tapReceive
  repeat' first
    | with_reducible assumption | with_reducible apply State.tapLoss_keeps | with_reducible apply State.tapUse_keeps
    | with_reducible refine Keeps.ite (fun _ => ?_) (fun _ => ?_) | with_reducible refine KeepsCore.same ?_
    | dsimp only | simp only [keeps_mk_iff] | split

theorem execTapRecordReceive_keeps {r₀ : State} (link : TapLink) (flips : Bytes) (crcFlips : Nat) (s : State) (hk : Keeps r₀ s) :
    KeepsOut r₀ (execTapRecordReceive link flips crcFlips s) := by
  unfold execTapRecordReceive
  refine act_keeps hk ?_
  repeat' first
    | with_reducible assumption | with_reducible apply act_keeps | with_reducible apply State.tapAck_keeps
    | with_reducible apply State.tapReceive_keeps | with_reducible refine Keeps.ite (fun _ => ?_) (fun _ => ?_)
    | with_reducible refine KeepsCore.same ?_ | intro _ | dsimp only | simp only [keeps_mk_iff] | split

end Sys2Proof.Machine
end

