-- ==== Sys2Proof/Laws/KeepsRules.lean ====
section
/-! SUPPORT. What the operations of Machine/Rules.lean keep. -/

namespace Sys2Proof.Machine

open Sys2Proof.Laws

theorem State.commitRule_keeps {r₀ : State} (p : Bytes) (cls stamp : Nat) (s : State) (r : Bytes) (hk : Keeps r₀ s) :
    Keeps r₀ (State.commitRule p cls stamp s r) := by
  unfold State.commitRule
  repeat' first
    | with_reducible assumption | with_reducible refine Keeps.ite (fun _ => ?_) (fun _ => ?_)
    | with_reducible refine KeepsCore.same ?_ | with_reducible refine KeepsCore.ilk ?_ rfl | dsimp only
    | simp only [keeps_mk_iff] | split

theorem State.commitRecord_keeps {r₀ : State} (s : State) (p : Bytes) (cls stamp : Nat) (hk : Keeps r₀ s) :
    Keeps r₀ (State.commitRecord s p cls stamp) := by
  unfold State.commitRecord
  repeat' first
    | with_reducible assumption | with_reducible apply State.commitRule_keeps
    | with_reducible refine Keeps.foldl (fun s a hk => ?_) ?_
    | with_reducible refine Keeps.ite (fun _ => ?_) (fun _ => ?_) | with_reducible refine KeepsCore.same ?_
    | dsimp only | simp only [keeps_mk_iff] | split

end Sys2Proof.Machine
end

