-- ==== Sys2Proof/Laws/KeepsInterlocking.lean ====
section
/-! SUPPORT. What the operations of Machine/Interlocking.lean keep. -/

namespace Sys2Proof.Machine

open Sys2Proof.Laws

theorem State.captureClass_keeps {r₀ : State} (stamp number : Nat) (s : State) (c : Nat) (hk : Keeps r₀ s) :
    Keeps r₀ (State.captureClass stamp number s c) := by
  unfold State.captureClass
  repeat' first
    | with_reducible assumption | with_reducible apply State.modHdw_keeps | with_reducible apply Reg.take_keeps
    | with_reducible refine Keeps.ite (fun _ => ?_) (fun _ => ?_) | with_reducible refine KeepsCore.same ?_
    | dsimp only | simp only [keeps_mk_iff] | split

theorem State.capture_keeps {r₀ : State} (s : State) (type id stamp number : Nat) (hk : Keeps r₀ s) :
    Keeps r₀ (State.capture s type id stamp number) := by
  unfold State.capture
  repeat' first
    | with_reducible assumption | with_reducible apply State.captureClass_keeps
    | with_reducible refine Keeps.foldl (fun s a hk => ?_) ?_
    | with_reducible refine Keeps.ite (fun _ => ?_) (fun _ => ?_) | with_reducible refine KeepsCore.same ?_
    | with_reducible refine KeepsCore.ilk ?_ rfl | dsimp only | simp only [keeps_mk_iff] | split

theorem State.react_keeps {r₀ : State} (s : State) (reaction frame cls safeCode safeSub : Nat) (counts : Bool)
    (hk : Keeps r₀ s) (hc : safeCode ≠ 0) : Keeps r₀ (State.react s reaction frame cls safeCode safeSub counts) := by
  unfold State.react
  repeat' first
    | with_reducible assumption | with_reducible apply State.latch_keeps | with_reducible apply State.markFrame_keeps
    | with_reducible refine Keeps.ite (fun _ => ?_) (fun _ => ?_) | with_reducible refine KeepsCore.same ?_
    | dsimp only | simp only [keeps_mk_iff] | split

theorem State.expire_keeps {r₀ : State} (s : State) (c stamp : Nat) (hk : Keeps r₀ s) :
    Keeps r₀ (State.expire s c stamp) := by
  unfold State.expire
  repeat' first
    | with_reducible assumption | with_reducible apply State.modHdw_keeps | with_reducible apply State.react_keeps
    | with_reducible apply State.alert_keeps | with_reducible refine Keeps.ite (fun _ => ?_) (fun _ => ?_)
    | with_reducible refine KeepsCore.same ?_ | with_reducible refine KeepsCore.ilk ?_ rfl | decide | dsimp only
    | simp only [keeps_mk_iff] | split

theorem execHeadwayExpire_keeps {r₀ : State} (cls : Nat) (s : State) (hk : Keeps r₀ s) :
    KeepsOut r₀ (execHeadwayExpire cls s) := by
  unfold execHeadwayExpire
  refine act_keeps hk ?_
  repeat' first
    | with_reducible assumption | with_reducible apply act_keeps | with_reducible apply State.expire_keeps
    | with_reducible refine Keeps.ite (fun _ => ?_) (fun _ => ?_) | with_reducible refine KeepsCore.same ?_ | intro _
    | dsimp only | simp only [keeps_mk_iff] | split

theorem State.headwayJudge_keeps {r₀ : State} (s : State) (c origin : Nat) (hk : Keeps r₀ s) :
    Keeps r₀ (State.headwayJudge s c origin).1 := by
  unfold State.headwayJudge
  repeat' first
    | with_reducible assumption | with_reducible apply State.modHdw_keeps | with_reducible apply State.expire_keeps
    | with_reducible refine Keeps.ite (fun _ => ?_) (fun _ => ?_) | with_reducible refine KeepsCore.same ?_
    | dsimp only | simp only [keeps_mk_iff] | split

theorem execResultHandover_keeps {r₀ : State} (s : State) (hk : Keeps r₀ s) :
    KeepsOut r₀ (execResultHandover s) := by
  unfold execResultHandover
  refine act_keeps hk ?_
  repeat' first
    | with_reducible assumption | with_reducible apply act_keeps
    | with_reducible refine Keeps.ite (fun _ => ?_) (fun _ => ?_) | with_reducible refine KeepsCore.same ?_
    | with_reducible refine KeepsCore.ilk ?_ rfl | intro _ | dsimp only | simp only [keeps_mk_iff] | split

theorem State.sendHeader_keeps {r₀ : State} (s : State) (h : ResultHandover) (v : Verdicts) (hk : Keeps r₀ s) :
    Keeps r₀ (State.sendHeader s h v) := by
  unfold State.sendHeader
  repeat' first
    | with_reducible assumption | with_reducible apply State.devAccess_keeps
    | with_reducible refine Keeps.ite (fun _ => ?_) (fun _ => ?_) | with_reducible refine KeepsCore.same ?_
    | with_reducible refine KeepsCore.ilk ?_ rfl | dsimp only | simp only [keeps_mk_iff] | split

theorem State.issueHeader_keeps {r₀ : State} (s : State) (h : ResultHandover) (v : Verdicts) (safety closes : Bool) (hk : Keeps r₀ s) :
    Keeps r₀ (State.issueHeader s h v safety closes) := by
  unfold State.issueHeader
  repeat' first
    | with_reducible assumption | with_reducible apply State.sendHeader_keeps
    | with_reducible apply State.modHdw_keeps | with_reducible refine Keeps.ite (fun _ => ?_) (fun _ => ?_)
    | with_reducible refine KeepsCore.same ?_ | with_reducible refine KeepsCore.ilk ?_ rfl | dsimp only
    | simp only [keeps_mk_iff] | split

theorem State.finishHanded_keeps {r₀ : State} (s : State) (slot consist generation : Nat) (hk : Keeps r₀ s) :
    Keeps r₀ (State.finishHanded s slot consist generation) := by
  unfold State.finishHanded
  repeat' first
    | with_reducible assumption | with_reducible apply State.finishNode_keeps
    | with_reducible apply State.settle_keeps | with_reducible refine Keeps.ite (fun _ => ?_) (fun _ => ?_)
    | with_reducible refine KeepsCore.same ?_ | dsimp only | simp only [keeps_mk_iff] | split

theorem execResultHeaderAck_keeps {r₀ : State} (s : State) (hk : Keeps r₀ s) :
    KeepsOut r₀ (execResultHeaderAck s) := by
  unfold execResultHeaderAck
  refine act_keeps hk ?_
  repeat' first
    | with_reducible assumption | with_reducible apply act_keeps | with_reducible apply State.finishHanded_keeps
    | with_reducible refine Keeps.ite (fun _ => ?_) (fun _ => ?_) | with_reducible refine KeepsCore.same ?_
    | with_reducible refine KeepsCore.ilk ?_ rfl | intro _ | dsimp only | simp only [keeps_mk_iff] | split

theorem State.reactAll_keeps {r₀ : State} (s : State) (l : List Failed) (cls frame base first : Nat) (hk : Keeps r₀ s) :
    Keeps r₀ (State.reactAll s l cls frame base first) := by
  unfold State.reactAll
  repeat' first
    | with_reducible assumption | with_reducible apply State.react_keeps
    | with_reducible refine Keeps.foldl (fun s a hk => ?_) ?_
    | with_reducible refine Keeps.ite (fun _ => ?_) (fun _ => ?_) | with_reducible refine KeepsCore.same ?_ | decide
    | dsimp only | simp only [keeps_mk_iff] | split

theorem State.recordAlerts_keeps {r₀ : State} (s : State) (base cause cls rule seq frame : Nat) (flagged : Bool) (hk : Keeps r₀ s) :
    Keeps r₀ (State.recordAlerts s base cause cls rule seq frame flagged) := by
  unfold State.recordAlerts
  repeat' first
    | with_reducible assumption | with_reducible apply State.alert_keeps
    | with_reducible refine Keeps.ite (fun _ => ?_) (fun _ => ?_) | with_reducible refine KeepsCore.same ?_
    | with_reducible refine KeepsCore.ilk ?_ rfl | dsimp only | simp only [keeps_mk_iff] | split

theorem State.judgeInvalidClass_keeps {r₀ : State} (s : State) (h : ResultHandover) (hk : Keeps r₀ s) :
    Keeps r₀ (State.judgeInvalidClass s h) := by
  unfold State.judgeInvalidClass
  repeat' first
    | with_reducible assumption | with_reducible apply State.issueHeader_keeps
    | with_reducible apply State.recordAlerts_keeps | with_reducible refine Keeps.ite (fun _ => ?_) (fun _ => ?_)
    | with_reducible refine KeepsCore.same ?_ | dsimp only | simp only [keeps_mk_iff] | split

theorem State.readPayload_keeps {r₀ : State} (s : State) (h : ResultHandover) (len : Nat) (payloadError : Bool) (hk : Keeps r₀ s) :
    Keeps r₀ (State.readPayload s h len payloadError).1 := by
  unfold State.readPayload
  repeat' first
    | with_reducible assumption | with_reducible apply State.fetchBytes_keeps
    | with_reducible refine Keeps.ite (fun _ => ?_) (fun _ => ?_) | with_reducible refine KeepsCore.same ?_
    | with_reducible refine KeepsCore.ilk ?_ rfl | dsimp only | simp only [keeps_mk_iff] | split

theorem State.laneBack_keeps {r₀ : State} (s : State) (h : ResultHandover) (hk : Keeps r₀ s) :
    Keeps r₀ (State.laneBack s h) := by
  unfold State.laneBack
  repeat' first
    | with_reducible assumption | with_reducible refine Keeps.ite (fun _ => ?_) (fun _ => ?_)
    | with_reducible refine KeepsCore.same ?_ | with_reducible refine KeepsCore.ilk ?_ rfl | dsimp only
    | simp only [keeps_mk_iff] | split

theorem State.judgePayload_keeps {r₀ : State} (s : State) (h : ResultHandover) (ringOk : Bool) (snap : Capture) (payload : Option Bytes) (hk : Keeps r₀ s) :
    Keeps r₀ (State.judgePayload s h ringOk snap payload) := by
  unfold State.judgePayload
  repeat' first
    | with_reducible assumption | with_reducible apply State.headwayJudge_keeps
    | with_reducible apply State.reactAll_keeps | with_reducible apply State.issueHeader_keeps
    | with_reducible apply State.recordAlerts_keeps | with_reducible apply State.commitRecord_keeps
    | with_reducible refine Keeps.ite (fun _ => ?_) (fun _ => ?_) | with_reducible refine KeepsCore.same ?_
    | with_reducible refine KeepsCore.ilk ?_ rfl | dsimp only | simp only [keeps_mk_iff] | split

theorem State.judgeSafety_keeps {r₀ : State} (s : State) (h : ResultHandover) (payloadError : Bool) (hk : Keeps r₀ s) :
    Keeps r₀ (State.judgeSafety s h payloadError) := by
  unfold State.judgeSafety
  repeat' first
    | with_reducible assumption | with_reducible apply State.readPayload_keeps
    | with_reducible apply State.laneBack_keeps | with_reducible apply State.judgePayload_keeps
    | with_reducible refine Keeps.ite (fun _ => ?_) (fun _ => ?_) | with_reducible refine KeepsCore.same ?_
    | dsimp only | simp only [keeps_mk_iff] | split

theorem State.judgeQm_keeps {r₀ : State} (s : State) (h : ResultHandover) (hk : Keeps r₀ s) :
    Keeps r₀ (State.judgeQm s h) := by
  unfold State.judgeQm
  repeat' first
    | with_reducible assumption | with_reducible apply State.issueHeader_keeps
    | with_reducible refine Keeps.ite (fun _ => ?_) (fun _ => ?_) | with_reducible refine KeepsCore.same ?_
    | dsimp only | simp only [keeps_mk_iff] | split

theorem State.goldenSubmit_keeps {r₀ : State} (s : State) (instant : Nat) (release : Nat) (hk : Keeps r₀ s) :
    Keeps r₀ (State.goldenSubmit s instant release) := by
  unfold State.goldenSubmit
  repeat' first
    | with_reducible assumption | with_reducible apply State.devWrite_keeps
    | with_reducible refine Keeps.foldl (fun s a hk => ?_) ?_
    | with_reducible refine Keeps.foldl_fst (fun s b a hk => ?_) ?_
    | with_reducible refine Keeps.foldl_snd (fun b s a hk => ?_) ?_
    | with_reducible refine Keeps.ite (fun _ => ?_) (fun _ => ?_) | with_reducible refine KeepsCore.same ?_
    | with_reducible refine KeepsCore.ilk ?_ rfl | dsimp only | simp only [keeps_mk_iff] | split

theorem State.startupGolden_keeps {r₀ : State} (s : State) (hk : Keeps r₀ s) :
    Keeps r₀ (State.startupGolden s) := by
  unfold State.startupGolden
  repeat' first
    | with_reducible assumption | with_reducible apply State.goldenSubmit_keeps
    | with_reducible refine Keeps.ite (fun _ => ?_) (fun _ => ?_) | with_reducible refine KeepsCore.same ?_
    | dsimp only | simp only [keeps_mk_iff] | split

theorem State.startupNext_keeps {r₀ : State} (s : State) (t : Nat) (hk : Keeps r₀ s) :
    Keeps r₀ (State.startupNext s t) := by
  unfold State.startupNext
  repeat' first
    | with_reducible assumption | with_reducible apply State.startupGolden_keeps
    | with_reducible refine Keeps.ite (fun _ => ?_) (fun _ => ?_) | with_reducible refine KeepsCore.same ?_
    | with_reducible refine KeepsCore.ilk ?_ rfl | dsimp only | simp only [keeps_mk_iff] | split

theorem State.goldenSlot_keeps {r₀ : State} (s : State) (instant count : Nat) (hk : Keeps r₀ s) :
    Keeps r₀ (State.goldenSlot s instant count) := by
  unfold State.goldenSlot
  repeat' first
    | with_reducible assumption | with_reducible apply State.alert_keeps | with_reducible apply State.latch_keeps
    | with_reducible apply State.goldenSubmit_keeps | with_reducible refine Keeps.ite (fun _ => ?_) (fun _ => ?_)
    | with_reducible refine KeepsCore.same ?_ | with_reducible refine KeepsCore.ilk ?_ rfl | decide | dsimp only
    | simp only [keeps_mk_iff] | split

theorem State.goldenOutputs_keeps {r₀ : State} (s : State) (payloadError : Bool) (hk : Keeps r₀ s) :
    Keeps r₀ (State.goldenOutputs s payloadError).1 := by
  unfold State.goldenOutputs
  repeat' first
    | with_reducible assumption | with_reducible apply State.fetchBytes_keeps
    | with_reducible refine Keeps.foldl (fun s a hk => ?_) ?_
    | with_reducible refine Keeps.foldl_fst (fun s b a hk => ?_) ?_
    | with_reducible refine Keeps.foldl_snd (fun b s a hk => ?_) ?_
    | with_reducible refine Keeps.ite (fun _ => ?_) (fun _ => ?_) | with_reducible refine KeepsCore.same ?_
    | with_reducible refine KeepsCore.ilk ?_ rfl | dsimp only | simp only [keeps_mk_iff] | split

theorem State.judgeGoldenDone_keeps {r₀ : State} (s : State) (h : ResultHandover) (right : Bool) (hk : Keeps r₀ s) :
    Keeps r₀ (State.judgeGoldenDone s h right) := by
  unfold State.judgeGoldenDone
  repeat' first
    | with_reducible assumption | with_reducible apply State.startupNext_keeps
    | with_reducible apply State.markFrame_keeps | with_reducible apply State.alert_keeps
    | with_reducible apply State.finishHanded_keeps | with_reducible refine Keeps.ite (fun _ => ?_) (fun _ => ?_)
    | with_reducible refine KeepsCore.same ?_ | with_reducible refine KeepsCore.ilk ?_ rfl | dsimp only
    | simp only [keeps_mk_iff] | split

theorem State.judgeGolden_keeps {r₀ : State} (s : State) (h : ResultHandover) (payloadError : Bool) (hk : Keeps r₀ s) :
    Keeps r₀ (State.judgeGolden s h payloadError) := by
  unfold State.judgeGolden
  repeat' first
    | with_reducible assumption | with_reducible apply State.goldenOutputs_keeps
    | with_reducible apply State.laneBack_keeps | with_reducible apply State.judgeGoldenDone_keeps
    | with_reducible refine Keeps.ite (fun _ => ?_) (fun _ => ?_) | with_reducible refine KeepsCore.same ?_
    | dsimp only | simp only [keeps_mk_iff] | split

theorem State.judgeHandover_keeps {r₀ : State} (s : State) (h : ResultHandover) (payloadError : Bool) (hk : Keeps r₀ s) :
    Keeps r₀ (State.judgeHandover s h payloadError) := by
  unfold State.judgeHandover
  repeat' first
    | with_reducible assumption | with_reducible apply State.judgeGolden_keeps
    | with_reducible apply State.finishHanded_keeps | with_reducible apply State.judgeQm_keeps
    | with_reducible apply State.judgeInvalidClass_keeps | with_reducible apply State.judgeSafety_keeps
    | with_reducible refine Keeps.ite (fun _ => ?_) (fun _ => ?_) | with_reducible refine KeepsCore.same ?_
    | with_reducible refine KeepsCore.ilk ?_ rfl | dsimp only | simp only [keeps_mk_iff] | split

theorem execResultRelease_keeps {r₀ : State} (safetyLane payloadError : Bool) (s : State) (hk : Keeps r₀ s) :
    KeepsOut r₀ (execResultRelease safetyLane payloadError s) := by
  unfold execResultRelease
  refine act_keeps hk ?_
  repeat' first
    | with_reducible assumption | with_reducible apply act_keeps | with_reducible apply State.judgeHandover_keeps
    | with_reducible refine Keeps.ite (fun _ => ?_) (fun _ => ?_) | with_reducible refine KeepsCore.same ?_
    | with_reducible refine KeepsCore.ilk ?_ rfl | intro _ | dsimp only | simp only [keeps_mk_iff] | split

theorem State.ilkEvent_keeps {r₀ : State} (s : State) (id count instant : Nat) (hk : Keeps r₀ s) :
    Keeps r₀ (State.ilkEvent s id count instant) := by
  unfold State.ilkEvent
  repeat' first
    | with_reducible assumption | with_reducible apply State.dropMarks_keeps
    | with_reducible apply State.capture_keeps | with_reducible apply State.goldenSlot_keeps
    | with_reducible refine Keeps.ite (fun _ => ?_) (fun _ => ?_) | with_reducible refine KeepsCore.same ?_
    | with_reducible refine KeepsCore.ilk ?_ rfl | dsimp only | simp only [keeps_mk_iff] | split

end Sys2Proof.Machine
end

