-- ==== Sys2Proof/Laws/KeepsTimetable.lean ====
section
/-! SUPPORT. What the operations of Machine/Timetable.lean keep. -/

namespace Sys2Proof.Machine

open Sys2Proof.Laws

theorem State.tick_keeps {r₀ : State} (s : State) (hk : Keeps r₀ s) :
    Keeps r₀ (State.tick s) := by
  unfold State.tick
  repeat' first
    | with_reducible assumption | with_reducible apply State.modTmt_keeps
    | with_reducible refine Keeps.ite (fun _ => ?_) (fun _ => ?_) | with_reducible refine KeepsCore.same ?_
    | with_reducible refine KeepsCore.otherPins ?_ rfl | dsimp only | simp only [keeps_mk_iff] | split

theorem State.stepTime_keeps {r₀ : State} (s : State) (d : Int) (hk : Keeps r₀ s) :
    Keeps r₀ (State.stepTime s d) := by
  unfold State.stepTime
  repeat' first
    | with_reducible assumption | with_reducible apply State.modTmt_keeps
    | with_reducible refine Keeps.ite (fun _ => ?_) (fun _ => ?_) | with_reducible refine KeepsCore.same ?_
    | dsimp only | simp only [keeps_mk_iff] | split

theorem State.grantTime_keeps {r₀ : State} (s : State) (hk : Keeps r₀ s) :
    Keeps r₀ (State.grantTime s) := by
  unfold State.grantTime
  repeat' first
    | with_reducible assumption | with_reducible apply State.modTmt_keeps
    | with_reducible refine Keeps.ite (fun _ => ?_) (fun _ => ?_) | with_reducible refine KeepsCore.same ?_
    | dsimp only | simp only [keeps_mk_iff] | split

theorem State.withdrawTime_keeps {r₀ : State} (s : State) (hk : Keeps r₀ s) :
    Keeps r₀ (State.withdrawTime s) := by
  unfold State.withdrawTime
  repeat' first
    | with_reducible assumption | with_reducible apply State.modTmt_keeps | with_reducible apply State.latch_keeps
    | with_reducible refine Keeps.ite (fun _ => ?_) (fun _ => ?_) | with_reducible refine KeepsCore.same ?_ | decide
    | dsimp only | simp only [keeps_mk_iff] | split

theorem State.syncApply_keeps {r₀ : State} (s : State) (off : Int) (hk : Keeps r₀ s) :
    Keeps r₀ (State.syncApply s off) := by
  unfold State.syncApply
  repeat' first
    | with_reducible assumption | with_reducible apply State.stepTime_keeps
    | with_reducible apply State.grantTime_keeps | with_reducible apply State.draw_keeps
    | with_reducible apply State.modTmt_keeps | with_reducible apply Matmul.run_keeps
    | with_reducible apply DmaCmd.run_keeps | with_reducible apply RillCmd.run_keeps
    | with_reducible apply AttnEnv.run_keeps | with_reducible apply AttnCmd.run_keeps
    | with_reducible apply ConvCmd.run_keeps | with_reducible apply State.withdrawTime_keeps
    | with_reducible refine Keeps.ite (fun _ => ?_) (fun _ => ?_) | with_reducible refine KeepsCore.same ?_
    | dsimp only | simp only [keeps_mk_iff] | split

theorem execGptpSync_keeps {r₀ : State} (mac ptpDomain identity originNs : Nat) (correction : Int) (wellFormed : Bool) (instant : Nat) (s : State) (hk : Keeps r₀ s) :
    KeepsOut r₀ (execGptpSync mac ptpDomain identity originNs correction wellFormed instant s) := by
  unfold execGptpSync
  refine act_keeps hk ?_
  repeat' first
    | with_reducible assumption | with_reducible apply act_keeps | with_reducible apply State.reach_keeps
    | with_reducible apply State.modTmt_keeps | with_reducible apply State.syncApply_keeps
    | with_reducible refine Keeps.ite (fun _ => ?_) (fun _ => ?_) | with_reducible refine KeepsCore.same ?_ | intro _
    | dsimp only | simp only [keeps_mk_iff] | split

theorem State.ptpSend_keeps {r₀ : State} (s : State) (kind seq : Nat) (hk : Keeps r₀ s) :
    Keeps r₀ (State.ptpSend s kind seq) := by
  unfold State.ptpSend
  repeat' first
    | with_reducible assumption | with_reducible apply State.modTmt_keeps
    | with_reducible refine Keeps.ite (fun _ => ?_) (fun _ => ?_) | with_reducible refine KeepsCore.same ?_
    | dsimp only | simp only [keeps_mk_iff] | split

theorem execPdelayReq_keeps {r₀ : State} (mac ptpDomain seq instant : Nat) (s : State) (hk : Keeps r₀ s) :
    KeepsOut r₀ (execPdelayReq mac ptpDomain seq instant s) := by
  unfold execPdelayReq
  refine act_keeps hk ?_
  repeat' first
    | with_reducible assumption | with_reducible apply act_keeps | with_reducible apply State.reach_keeps
    | with_reducible apply State.ptpSend_keeps | with_reducible refine Keeps.ite (fun _ => ?_) (fun _ => ?_)
    | with_reducible refine KeepsCore.same ?_ | intro _ | dsimp only | simp only [keeps_mk_iff] | split

theorem execPdelayResp_keeps {r₀ : State} (mac ptpDomain seq t2 t3 instant : Nat) (s : State) (hk : Keeps r₀ s) :
    KeepsOut r₀ (execPdelayResp mac ptpDomain seq t2 t3 instant s) := by
  unfold execPdelayResp
  refine act_keeps hk ?_
  repeat' first
    | with_reducible assumption | with_reducible apply act_keeps | with_reducible apply State.reach_keeps
    | with_reducible apply State.modTmt_keeps | with_reducible refine Keeps.ite (fun _ => ?_) (fun _ => ?_)
    | with_reducible refine KeepsCore.same ?_ | intro _ | dsimp only | simp only [keeps_mk_iff] | split

theorem execPdelayInterval_keeps {r₀ : State} (instant : Nat) (s : State) (hk : Keeps r₀ s) :
    KeepsOut r₀ (execPdelayInterval instant s) := by
  unfold execPdelayInterval
  refine act_keeps hk ?_
  repeat' first
    | with_reducible assumption | with_reducible apply act_keeps | with_reducible apply State.reach_keeps
    | with_reducible apply State.ptpSend_keeps | with_reducible apply State.modTmt_keeps
    | with_reducible refine Keeps.ite (fun _ => ?_) (fun _ => ?_) | with_reducible refine KeepsCore.same ?_ | intro _
    | dsimp only | simp only [keeps_mk_iff] | split

theorem execSyncInterval_keeps {r₀ : State} (instant : Nat) (s : State) (hk : Keeps r₀ s) :
    KeepsOut r₀ (execSyncInterval instant s) := by
  unfold execSyncInterval
  refine act_keeps hk ?_
  repeat' first
    | with_reducible assumption | with_reducible apply act_keeps | with_reducible apply State.reach_keeps
    | with_reducible apply State.ptpSend_keeps | with_reducible apply State.modTmt_keeps
    | with_reducible refine Keeps.ite (fun _ => ?_) (fun _ => ?_) | with_reducible refine KeepsCore.same ?_ | intro _
    | dsimp only | simp only [keeps_mk_iff] | split

theorem execSyncTimeout_keeps {r₀ : State} (s : State) (hk : Keeps r₀ s) :
    KeepsOut r₀ (execSyncTimeout s) := by
  unfold execSyncTimeout
  refine act_keeps hk ?_
  repeat' first
    | with_reducible assumption | with_reducible apply act_keeps | with_reducible apply State.reach_keeps
    | with_reducible apply State.modTmt_keeps | with_reducible refine Keeps.ite (fun _ => ?_) (fun _ => ?_)
    | with_reducible refine KeepsCore.same ?_ | intro _ | dsimp only | simp only [keeps_mk_iff] | split

theorem execHoldoverTimeout_keeps {r₀ : State} (s : State) (hk : Keeps r₀ s) :
    KeepsOut r₀ (execHoldoverTimeout s) := by
  unfold execHoldoverTimeout
  refine act_keeps hk ?_
  repeat' first
    | with_reducible assumption | with_reducible apply act_keeps | with_reducible apply State.reach_keeps
    | with_reducible apply State.withdrawTime_keeps | with_reducible refine Keeps.ite (fun _ => ?_) (fun _ => ?_)
    | with_reducible refine KeepsCore.same ?_ | intro _ | dsimp only | simp only [keeps_mk_iff] | split

theorem State.timeSet_keeps {r₀ : State} (s : State) (valueNs stamp : Nat) (hk : Keeps r₀ s) :
    Keeps r₀ (State.timeSet s valueNs stamp) := by
  unfold State.timeSet
  repeat' first
    | with_reducible assumption | with_reducible apply State.stepTime_keeps
    | with_reducible apply State.grantTime_keeps | with_reducible apply State.modTmt_keeps
    | with_reducible refine Keeps.ite (fun _ => ?_) (fun _ => ?_) | with_reducible refine KeepsCore.same ?_
    | dsimp only | simp only [keeps_mk_iff] | split

theorem execTimeSetLapse_keeps {r₀ : State} (s : State) (hk : Keeps r₀ s) :
    KeepsOut r₀ (execTimeSetLapse s) := by
  unfold execTimeSetLapse
  refine act_keeps hk ?_
  repeat' first
    | with_reducible assumption | with_reducible apply act_keeps | with_reducible apply State.reach_keeps
    | with_reducible apply State.modTmt_keeps | with_reducible refine Keeps.ite (fun _ => ?_) (fun _ => ?_)
    | with_reducible refine KeepsCore.same ?_ | intro _ | dsimp only | simp only [keeps_mk_iff] | split

theorem State.startFreeze_keeps {r₀ : State} (s : State) (byEvent : Bool) (atNs : Nat) (hk : Keeps r₀ s) :
    Keeps r₀ (State.startFreeze s byEvent atNs) := by
  unfold State.startFreeze
  repeat' first
    | with_reducible assumption | with_reducible apply State.draw_keeps | with_reducible apply State.modTmt_keeps
    | with_reducible apply State.driveSafeN_keeps | with_reducible refine Keeps.ite (fun _ => ?_) (fun _ => ?_)
    | with_reducible refine KeepsCore.same ?_ | dsimp only | simp only [keeps_mk_iff] | split

theorem execFreeze_keeps {r₀ : State} (s : State) (hk : Keeps r₀ s) :
    KeepsOut r₀ (execFreeze s) := by
  unfold execFreeze
  refine KeepsOut.next ?_
  repeat' first
    | with_reducible assumption | with_reducible apply State.startFreeze_keeps
    | with_reducible refine Keeps.ite (fun _ => ?_) (fun _ => ?_) | with_reducible refine KeepsCore.same ?_
    | with_reducible refine KeepsCore.otherPins ?_ rfl | dsimp only | simp only [keeps_mk_iff] | split

theorem execFreezeGated_keeps {r₀ : State} (s : State) (hk : Keeps r₀ s) :
    KeepsOut r₀ (execFreezeGated s) := by
  unfold execFreezeGated
  refine act_keeps hk ?_
  repeat' first
    | with_reducible assumption | with_reducible apply act_keeps | with_reducible apply State.modTmt_keeps
    | with_reducible refine Keeps.ite (fun _ => ?_) (fun _ => ?_) | with_reducible refine KeepsCore.same ?_ | intro _
    | dsimp only | simp only [keeps_mk_iff] | split

theorem State.releaseFreeze_keeps {r₀ : State} (s : State) (hk : Keeps r₀ s) :
    Keeps r₀ (State.releaseFreeze s) := by
  unfold State.releaseFreeze
  repeat' first
    | with_reducible assumption | with_reducible apply State.modTmt_keeps
    | with_reducible apply State.withdrawTime_keeps | with_reducible refine Keeps.ite (fun _ => ?_) (fun _ => ?_)
    | with_reducible refine KeepsCore.same ?_ | dsimp only | simp only [keeps_mk_iff] | split

theorem execFreezeRelease_keeps {r₀ : State} (s : State) (hk : Keeps r₀ s) :
    KeepsOut r₀ (execFreezeRelease s) := by
  unfold execFreezeRelease
  refine KeepsOut.next ?_
  repeat' first
    | with_reducible assumption | with_reducible apply State.releaseFreeze_keeps
    | with_reducible refine Keeps.ite (fun _ => ?_) (fun _ => ?_) | with_reducible refine KeepsCore.same ?_
    | with_reducible refine KeepsCore.otherPins ?_ rfl | dsimp only | simp only [keeps_mk_iff] | split

theorem State.modTrig_keeps {r₀ : State} (s : State) (n : Nat) (f : TrigOut → TrigOut) (hk : Keeps r₀ s) :
    Keeps r₀ (State.modTrig s n f) := by
  unfold State.modTrig
  repeat' first
    | with_reducible assumption | with_reducible apply State.modTmt_keeps
    | with_reducible refine Keeps.ite (fun _ => ?_) (fun _ => ?_) | with_reducible refine KeepsCore.same ?_
    | dsimp only | simp only [keeps_mk_iff] | split

theorem State.armTriggers_keeps {r₀ : State} (s : State) (e : TtEvent) (instant : Nat) (hk : Keeps r₀ s) :
    Keeps r₀ (State.armTriggers s e instant) := by
  unfold State.armTriggers
  repeat' first
    | with_reducible assumption | with_reducible apply State.modTrig_keeps
    | with_reducible refine Keeps.foldl (fun s a hk => ?_) ?_
    | with_reducible refine Keeps.ite (fun _ => ?_) (fun _ => ?_) | with_reducible refine KeepsCore.same ?_
    | dsimp only | simp only [keeps_mk_iff] | split

theorem State.occur_keeps {r₀ : State} (s : State) (e : TtEvent) (p : PendingEvent) (hk : Keeps r₀ s) :
    Keeps r₀ (State.occur s e p) := by
  unfold State.occur
  repeat' first
    | with_reducible assumption | with_reducible apply State.modTmt_keeps | with_reducible apply State.ilkEvent_keeps
    | with_reducible apply State.settle_keeps | with_reducible apply State.armTriggers_keeps
    | with_reducible apply State.startFreeze_keeps | with_reducible refine Keeps.ite (fun _ => ?_) (fun _ => ?_)
    | with_reducible refine KeepsCore.same ?_ | with_reducible refine KeepsCore.ilk ?_ rfl | dsimp only
    | simp only [keeps_mk_iff] | split

theorem execTimetableEvent_keeps {r₀ : State} (s : State) (hk : Keeps r₀ s) :
    KeepsOut r₀ (execTimetableEvent s) := by
  unfold execTimetableEvent
  refine act_keeps hk ?_
  repeat' first
    | with_reducible assumption | with_reducible apply act_keeps | with_reducible apply State.reach_keeps
    | with_reducible apply State.occur_keeps | with_reducible apply State.modTmt_keeps
    | with_reducible refine Keeps.ite (fun _ => ?_) (fun _ => ?_) | with_reducible refine KeepsCore.same ?_ | intro _
    | dsimp only | simp only [keeps_mk_iff] | split

theorem State.sourceEvents_keeps {r₀ : State} (s : State) (kind src stamp number : Nat) (hk : Keeps r₀ s) :
    Keeps r₀ (State.sourceEvents s kind src stamp number) := by
  unfold State.sourceEvents
  repeat' first
    | with_reducible assumption | with_reducible apply State.modTmt_keeps
    | with_reducible refine Keeps.ite (fun _ => ?_) (fun _ => ?_) | with_reducible refine KeepsCore.same ?_
    | dsimp only | simp only [keeps_mk_iff] | split

theorem execTriggerEdge_keeps {r₀ : State} (output : Nat) (s : State) (hk : Keeps r₀ s) :
    KeepsOut r₀ (execTriggerEdge output s) := by
  unfold execTriggerEdge
  refine act_keeps hk ?_
  repeat' first
    | with_reducible assumption | with_reducible apply act_keeps | with_reducible apply State.reach_keeps
    | with_reducible apply State.modTrig_keeps | with_reducible apply State.modTmt_keeps
    | with_reducible refine Keeps.ite (fun _ => ?_) (fun _ => ?_) | with_reducible refine KeepsCore.same ?_ | intro _
    | dsimp only | simp only [keeps_mk_iff] | split

theorem execTriggerPulseEnd_keeps {r₀ : State} (output : Nat) (s : State) (hk : Keeps r₀ s) :
    KeepsOut r₀ (execTriggerPulseEnd output s) := by
  unfold execTriggerPulseEnd
  refine act_keeps hk ?_
  repeat' first
    | with_reducible assumption | with_reducible apply act_keeps | with_reducible apply State.reach_keeps
    | with_reducible apply State.modTrig_keeps | with_reducible refine Keeps.ite (fun _ => ?_) (fun _ => ?_)
    | with_reducible refine KeepsCore.same ?_ | intro _ | dsimp only | simp only [keeps_mk_iff] | split

theorem State.modCap_keeps {r₀ : State} (s : State) (n : Nat) (f : CapInput → CapInput) (hk : Keeps r₀ s) :
    Keeps r₀ (State.modCap s n f) := by
  unfold State.modCap
  repeat' first
    | with_reducible assumption | with_reducible apply State.modTmt_keeps
    | with_reducible refine Keeps.ite (fun _ => ?_) (fun _ => ?_) | with_reducible refine KeepsCore.same ?_
    | dsimp only | simp only [keeps_mk_iff] | split

theorem State.acceptEdge_keeps {r₀ : State} (s : State) (n stamp : Nat) (falling : Bool) (hk : Keeps r₀ s) :
    Keeps r₀ (State.acceptEdge s n stamp falling) := by
  unfold State.acceptEdge
  repeat' first
    | with_reducible assumption | with_reducible apply State.modCap_keeps | with_reducible apply State.capture_keeps
    | with_reducible apply State.sourceEvents_keeps | with_reducible refine Keeps.ite (fun _ => ?_) (fun _ => ?_)
    | with_reducible refine KeepsCore.same ?_ | dsimp only | simp only [keeps_mk_iff] | split

theorem execCaptureEdge_keeps {r₀ : State} (input : Nat) (falling : Bool) (heldNs instant : Nat) (s : State) (hk : Keeps r₀ s) :
    KeepsOut r₀ (execCaptureEdge input falling heldNs instant s) := by
  unfold execCaptureEdge
  refine act_keeps hk ?_
  repeat' first
    | with_reducible assumption | with_reducible apply act_keeps | with_reducible apply State.reach_keeps
    | with_reducible apply State.modCap_keeps | with_reducible apply State.timeSet_keeps
    | with_reducible apply State.acceptEdge_keeps | with_reducible refine Keeps.ite (fun _ => ?_) (fun _ => ?_)
    | with_reducible refine KeepsCore.same ?_ | intro _ | dsimp only | simp only [keeps_mk_iff] | split

theorem execTmtNowRead_keeps {r₀ : State} (path : Nat) (s : State) (hk : Keeps r₀ s) :
    KeepsOut r₀ (execTmtNowRead path s) := by
  unfold execTmtNowRead
  refine act_keeps hk ?_
  repeat' first
    | with_reducible assumption | with_reducible apply act_keeps | with_reducible apply State.modTmt_keeps
    | with_reducible refine Keeps.ite (fun _ => ?_) (fun _ => ?_) | with_reducible refine KeepsCore.same ?_ | intro _
    | dsimp only | simp only [keeps_mk_iff] | split

theorem execCapFifoPop_keeps {r₀ : State} (input : Nat) (s : State) (hk : Keeps r₀ s) :
    KeepsOut r₀ (execCapFifoPop input s) := by
  unfold execCapFifoPop
  refine act_keeps hk ?_
  repeat' first
    | with_reducible assumption | with_reducible apply act_keeps | with_reducible apply State.modCap_keeps
    | with_reducible refine Keeps.ite (fun _ => ?_) (fun _ => ?_) | with_reducible refine KeepsCore.same ?_ | intro _
    | dsimp only | simp only [keeps_mk_iff] | split

theorem State.scheduleStart_keeps {r₀ : State} (s : State) (hk : Keeps r₀ s) :
    Keeps r₀ (State.scheduleStart s) := by
  unfold State.scheduleStart
  repeat' first
    | with_reducible assumption | with_reducible apply State.modTmt_keeps
    | with_reducible refine Keeps.foldl (fun s a hk => ?_) ?_
    | with_reducible refine Keeps.foldl_fst (fun s b a hk => ?_) ?_
    | with_reducible refine Keeps.foldl_snd (fun b s a hk => ?_) ?_
    | with_reducible refine Keeps.ite (fun _ => ?_) (fun _ => ?_) | with_reducible refine KeepsCore.same ?_
    | dsimp only | simp only [keeps_mk_iff] | split

theorem State.scheduleSwap_keeps {r₀ : State} (s : State) (new : Bytes) (due : Nat) (hk : Keeps r₀ s) :
    Keeps r₀ (State.scheduleSwap s new due) := by
  unfold State.scheduleSwap
  repeat' first
    | with_reducible assumption | with_reducible apply State.modTmt_keeps
    | with_reducible refine Keeps.foldl (fun s a hk => ?_) ?_
    | with_reducible refine Keeps.foldl_fst (fun s b a hk => ?_) ?_
    | with_reducible refine Keeps.foldl_snd (fun b s a hk => ?_) ?_
    | with_reducible refine Keeps.ite (fun _ => ?_) (fun _ => ?_) | with_reducible refine KeepsCore.same ?_
    | dsimp only | simp only [keeps_mk_iff] | split

end Sys2Proof.Machine
end

