-- ==== Sys2Proof/Laws/KeepsCamera.lean ====
section
/-! SUPPORT. What the operations of Machine/Camera.lean keep. -/

namespace Sys2Proof.Machine

open Sys2Proof.Laws

theorem State.modCam_keeps {r₀ : State} (s : State) (p : Nat) (f : CamPort → CamPort) (hk : Keeps r₀ s) :
    Keeps r₀ (State.modCam s p f) := by
  unfold State.modCam
  repeat' first
    | with_reducible assumption | with_reducible apply State.modTmt_keeps
    | with_reducible refine Keeps.ite (fun _ => ?_) (fun _ => ?_) | with_reducible refine KeepsCore.same ?_
    | dsimp only | simp only [keeps_mk_iff] | split

theorem State.camSeen_keeps {r₀ : State} (s : State) (p : Nat) (hk : Keeps r₀ s) :
    Keeps r₀ (State.camSeen s p) := by
  unfold State.camSeen
  repeat' first
    | with_reducible assumption | with_reducible apply State.modCam_keeps | with_reducible apply Reg.take_keeps
    | with_reducible apply State.settle_keeps | with_reducible refine Keeps.ite (fun _ => ?_) (fun _ => ?_)
    | with_reducible refine KeepsCore.same ?_ | dsimp only | simp only [keeps_mk_iff] | split

theorem execFrameStart_keeps {r₀ : State} (port vc instant : Nat) (s : State) (hk : Keeps r₀ s) :
    KeepsOut r₀ (execFrameStart port vc instant s) := by
  unfold execFrameStart
  refine act_keeps hk ?_
  repeat' first
    | with_reducible assumption | with_reducible apply act_keeps | with_reducible apply State.reach_keeps
    | with_reducible apply State.modCam_keeps | with_reducible apply Reg.take_keeps
    | with_reducible apply State.camSeen_keeps | with_reducible apply State.capture_keeps
    | with_reducible apply State.sourceEvents_keeps | with_reducible refine Keeps.ite (fun _ => ?_) (fun _ => ?_)
    | with_reducible refine KeepsCore.same ?_ | intro _ | dsimp only | simp only [keeps_mk_iff] | split

theorem State.devWritePages_keeps {r₀ : State} (o : Origin) (x0 : Nat) (x1 : Nat) (x2 : Nat) (x3 : Bytes) (s : State) (hk : Keeps r₀ s) :
    Keeps r₀ (State.devWritePages o x0 x1 x2 x3 s) := by
  induction x0 generalizing o x1 x2 x3 s with
  | zero => exact hk
  | succ n ih =>
    unfold State.devWritePages
    repeat' first
      | with_reducible assumption | with_reducible apply ih | with_reducible apply State.devAccess_keeps
      | with_reducible apply Reg.take_keeps | with_reducible refine Keeps.ite (fun _ => ?_) (fun _ => ?_)
      | with_reducible refine KeepsCore.same ?_ | dsimp only | simp only [keeps_mk_iff] | split

theorem execLinePacket_keeps {r₀ : State} (port vc dt : Nat) (data : Bytes) (crcError : Bool) (instant : Nat) (s : State) (hk : Keeps r₀ s) :
    KeepsOut r₀ (execLinePacket port vc dt data crcError instant s) := by
  unfold execLinePacket
  refine act_keeps hk ?_
  repeat' first
    | with_reducible assumption | with_reducible apply act_keeps | with_reducible apply State.reach_keeps
    | with_reducible apply State.modCam_keeps | with_reducible apply State.devWritePages_keeps
    | with_reducible refine Keeps.ite (fun _ => ?_) (fun _ => ?_) | with_reducible refine KeepsCore.same ?_ | intro _
    | dsimp only | simp only [keeps_mk_iff] | split

theorem execLineAck_keeps {r₀ : State} (port frame line : Nat) (s : State) (hk : Keeps r₀ s) :
    KeepsOut r₀ (execLineAck port frame line s) := by
  unfold execLineAck
  refine act_keeps hk ?_
  repeat' first
    | with_reducible assumption | with_reducible apply act_keeps | with_reducible apply State.modCam_keeps
    | with_reducible apply State.camSeen_keeps | with_reducible refine Keeps.ite (fun _ => ?_) (fun _ => ?_)
    | with_reducible refine KeepsCore.same ?_ | intro _ | dsimp only | simp only [keeps_mk_iff] | split

theorem execLineWriteDenied_keeps {r₀ : State} (port frame line : Nat) (s : State) (hk : Keeps r₀ s) :
    KeepsOut r₀ (execLineWriteDenied port frame line s) := by
  unfold execLineWriteDenied
  refine act_keeps hk ?_
  repeat' first
    | with_reducible assumption | with_reducible apply act_keeps | with_reducible apply State.modCam_keeps
    | with_reducible apply State.camSeen_keeps | with_reducible refine Keeps.ite (fun _ => ?_) (fun _ => ?_)
    | with_reducible refine KeepsCore.same ?_ | intro _ | dsimp only | simp only [keeps_mk_iff] | split

theorem execFrameEnd_keeps {r₀ : State} (port vc : Nat) (s : State) (hk : Keeps r₀ s) :
    KeepsOut r₀ (execFrameEnd port vc s) := by
  unfold execFrameEnd
  refine act_keeps hk ?_
  repeat' first
    | with_reducible assumption | with_reducible apply act_keeps | with_reducible apply State.modCam_keeps
    | with_reducible apply State.camSeen_keeps | with_reducible refine Keeps.ite (fun _ => ?_) (fun _ => ?_)
    | with_reducible refine KeepsCore.same ?_ | intro _ | dsimp only | simp only [keeps_mk_iff] | split

theorem execLineTimeout_keeps {r₀ : State} (port : Nat) (s : State) (hk : Keeps r₀ s) :
    KeepsOut r₀ (execLineTimeout port s) := by
  unfold execLineTimeout
  refine act_keeps hk ?_
  repeat' first
    | with_reducible assumption | with_reducible apply act_keeps | with_reducible apply State.reach_keeps
    | with_reducible apply State.modCam_keeps | with_reducible apply State.camSeen_keeps
    | with_reducible refine Keeps.ite (fun _ => ?_) (fun _ => ?_) | with_reducible refine KeepsCore.same ?_ | intro _
    | dsimp only | simp only [keeps_mk_iff] | split

theorem execUncorrectableHeader_keeps {r₀ : State} (port : Nat) (s : State) (hk : Keeps r₀ s) :
    KeepsOut r₀ (execUncorrectableHeader port s) := by
  unfold execUncorrectableHeader
  refine act_keeps hk ?_
  repeat' first
    | with_reducible assumption | with_reducible apply act_keeps | with_reducible apply State.modCam_keeps
    | with_reducible apply State.camSeen_keeps | with_reducible refine Keeps.ite (fun _ => ?_) (fun _ => ?_)
    | with_reducible refine KeepsCore.same ?_ | intro _ | dsimp only | simp only [keeps_mk_iff] | split

end Sys2Proof.Machine
end

