-- ==== Sys2Proof/Laws/KeepsCoreCache.lean ====
section
/-! SUPPORT. What the operations of Machine/CoreCache.lean keep. -/

namespace Sys2Proof.Machine

open Sys2Proof.Laws

theorem State.setLines_keeps {r₀ : State} (s : State) (l : Table CoreLine) (hk : Keeps r₀ s) :
    Keeps r₀ (State.setLines s l) := by
  unfold State.setLines
  repeat' first
    | with_reducible assumption | with_reducible refine Keeps.ite (fun _ => ?_) (fun _ => ?_)
    | with_reducible refine KeepsCore.same ?_ | dsimp only | simp only [keeps_mk_iff] | split

theorem State.writeBack_keeps {r₀ : State} (s : State) (n : Nat) (hk : Keeps r₀ s) :
    Keeps r₀ (State.writeBack s n) := by
  unfold State.writeBack
  repeat' first
    | with_reducible assumption | with_reducible apply State.setLines_keeps | with_reducible apply State.access_keeps
    | with_reducible apply State.answerError_keeps | with_reducible refine Keeps.ite (fun _ => ?_) (fun _ => ?_)
    | with_reducible refine KeepsCore.same ?_ | dsimp only | simp only [keeps_mk_iff] | split

theorem State.dropLine_keeps {r₀ : State} (s : State) (n : Nat) (hk : Keeps r₀ s) :
    Keeps r₀ (State.dropLine s n) := by
  unfold State.dropLine
  repeat' first
    | with_reducible assumption | with_reducible apply State.setLines_keeps
    | with_reducible refine Keeps.ite (fun _ => ?_) (fun _ => ?_) | with_reducible refine KeepsCore.same ?_
    | dsimp only | simp only [keeps_mk_iff] | split

theorem State.hitLine_keeps {r₀ : State} (s : State) (n : Nat) (l : CoreLine) (off len : Nat) (write : Bool) (data : Bytes) (hk : Keeps r₀ s) :
    Keeps r₀ (State.hitLine s n l off len write data) := by
  unfold State.hitLine
  repeat' first
    | with_reducible assumption | with_reducible apply State.setLines_keeps
    | with_reducible apply State.answerData_keeps | with_reducible refine Keeps.ite (fun _ => ?_) (fun _ => ?_)
    | with_reducible refine KeepsCore.same ?_ | dsimp only | simp only [keeps_mk_iff] | split

theorem State.lineAccess_keeps {r₀ : State} (s : State) (tag a len : Nat) (write : Bool) (data : Bytes) (hk : Keeps r₀ s) :
    Keeps r₀ (State.lineAccess s tag a len write data) := by
  unfold State.lineAccess
  repeat' first
    | with_reducible assumption | with_reducible apply State.writeBack_keeps
    | with_reducible apply State.dropLine_keeps | with_reducible apply State.hitLine_keeps
    | with_reducible apply State.fetchAt_keeps | with_reducible refine Keeps.ite (fun _ => ?_) (fun _ => ?_)
    | with_reducible refine KeepsCore.same ?_ | dsimp only | simp only [keeps_mk_iff] | split

theorem State.flushWorlds_keeps {r₀ : State} (s : State) (worlds : Nat → Bool) (hk : Keeps r₀ s) :
    Keeps r₀ (State.flushWorlds s worlds) := by
  unfold State.flushWorlds
  repeat' first
    | with_reducible assumption | with_reducible apply State.writeBack_keeps
    | with_reducible apply State.dropLine_keeps | with_reducible refine Keeps.foldl (fun s a hk => ?_) ?_
    | with_reducible refine Keeps.foldl_fst (fun s b a hk => ?_) ?_
    | with_reducible refine Keeps.foldl_snd (fun b s a hk => ?_) ?_
    | with_reducible refine Keeps.ite (fun _ => ?_) (fun _ => ?_) | with_reducible refine KeepsCore.same ?_
    | dsimp only | simp only [keeps_mk_iff] | split

theorem State.cachedAccess_keeps {r₀ : State} (s : State) (tag a len : Nat) (write : Bool) (data : Bytes) (hk : Keeps r₀ s) :
    Keeps r₀ (State.cachedAccess s tag a len write data) := by
  unfold State.cachedAccess
  repeat' first
    | with_reducible assumption | with_reducible apply State.lineAccess_keeps
    | with_reducible refine Keeps.foldl (fun s a hk => ?_) ?_
    | with_reducible refine Keeps.foldl_fst (fun s b a hk => ?_) ?_
    | with_reducible refine Keeps.foldl_snd (fun b s a hk => ?_) ?_
    | with_reducible refine Keeps.ite (fun _ => ?_) (fun _ => ?_) | with_reducible refine KeepsCore.same ?_
    | dsimp only | simp only [keeps_mk_iff] | split

theorem State.maintain_keeps {r₀ : State} (s : State) (a len : Nat) (back leave : Bool) (hk : Keeps r₀ s) :
    Keeps r₀ (State.maintain s a len back leave) := by
  unfold State.maintain
  repeat' first
    | with_reducible assumption | with_reducible apply State.writeBack_keeps
    | with_reducible apply State.dropLine_keeps | with_reducible refine Keeps.foldl (fun s a hk => ?_) ?_
    | with_reducible refine Keeps.foldl_fst (fun s b a hk => ?_) ?_
    | with_reducible refine Keeps.foldl_snd (fun b s a hk => ?_) ?_
    | with_reducible refine Keeps.ite (fun _ => ?_) (fun _ => ?_) | with_reducible refine KeepsCore.same ?_
    | dsimp only | simp only [keeps_mk_iff] | split

theorem State.revokeLines_keeps {r₀ : State} (s : State) (first count : Nat) (scrub : Bool) (new : Nat → OwnerEntry) (hk : Keeps r₀ s) :
    Keeps r₀ (State.revokeLines s first count scrub new) := by
  unfold State.revokeLines
  repeat' first
    | with_reducible assumption | with_reducible apply State.wr_keeps | with_reducible apply State.dropLine_keeps
    | with_reducible refine Keeps.foldl (fun s a hk => ?_) ?_
    | with_reducible refine Keeps.foldl_fst (fun s b a hk => ?_) ?_
    | with_reducible refine Keeps.foldl_snd (fun b s a hk => ?_) ?_
    | with_reducible refine Keeps.ite (fun _ => ?_) (fun _ => ?_) | with_reducible refine KeepsCore.same ?_
    | dsimp only | simp only [keeps_mk_iff] | split

end Sys2Proof.Machine
end

