-- ==== Sys2Proof/Laws/KeepsIsolation.lean ====
section
/-! SUPPORT. What the operations of Machine/Isolation.lean keep. -/

namespace Sys2Proof.Machine

open Sys2Proof.Laws

theorem execSluiceProbe_keeps {r₀ : State} (sluice : Nat) (grantAnswered denyAnswered : Bool) (s : State) (hk : Keeps r₀ s) :
    KeepsOut r₀ (execSluiceProbe sluice grantAnswered denyAnswered s) := by
  unfold execSluiceProbe
  refine act_keeps hk ?_
  repeat' first
    | with_reducible assumption | with_reducible apply act_keeps | with_reducible apply State.latch_keeps
    | with_reducible refine Keeps.ite (fun _ => ?_) (fun _ => ?_) | with_reducible refine KeepsCore.same ?_ | decide
    | intro _ | dsimp only | simp only [keeps_mk_iff] | split

theorem State.pageAnswer_keeps {r₀ : State} (s : State) (r : PageReq) (status page : Nat) (hk : Keeps r₀ s) :
    Keeps r₀ (State.pageAnswer s r status page) := by
  unfold State.pageAnswer
  repeat' first
    | with_reducible assumption | with_reducible apply State.devWrite_keeps
    | with_reducible refine Keeps.ite (fun _ => ?_) (fun _ => ?_) | with_reducible refine KeepsCore.same ?_
    | dsimp only | simp only [keeps_mk_iff] | split

theorem execPageReqTake_keeps {r₀ : State} (tag : Nat) (data : Bytes) (s : State) (hk : Keeps r₀ s) :
    KeepsOut r₀ (execPageReqTake tag data s) := by
  unfold execPageReqTake
  refine act_keeps hk ?_
  repeat' first
    | with_reducible assumption | with_reducible apply act_keeps
    | with_reducible refine Keeps.ite (fun _ => ?_) (fun _ => ?_) | with_reducible refine KeepsCore.same ?_ | intro _
    | dsimp only | simp only [keeps_mk_iff] | split

theorem State.pageDrain_keeps {r₀ : State} (x0 : Nat) (s : State) (hk : Keeps r₀ s) :
    Keeps r₀ (State.pageDrain x0 s) := by
  induction x0 generalizing s with
  | zero => exact hk
  | succ n ih =>
    unfold State.pageDrain
    repeat' first
      | with_reducible assumption | with_reducible apply ih | with_reducible apply State.pageAnswer_keeps
      | with_reducible refine Keeps.ite (fun _ => ?_) (fun _ => ?_) | with_reducible refine KeepsCore.same ?_
      | dsimp only | simp only [keeps_mk_iff] | split

theorem State.pageStart_keeps {r₀ : State} (s : State) (op : Nat) (hk : Keeps r₀ s) :
    Keeps r₀ (State.pageStart s op) := by
  unfold State.pageStart
  repeat' first
    | with_reducible assumption | with_reducible apply State.pageDrain_keeps
    | with_reducible apply State.pageAnswer_keeps | with_reducible refine Keeps.ite (fun _ => ?_) (fun _ => ?_)
    | with_reducible refine KeepsCore.same ?_ | dsimp only | simp only [keeps_mk_iff] | split

theorem execAssign_keeps {r₀ : State} (s : State) (hk : Keeps r₀ s) :
    KeepsOut r₀ (execAssign s) := by
  unfold execAssign
  refine act_keeps hk ?_
  repeat' first
    | with_reducible assumption | with_reducible apply act_keeps | with_reducible apply State.pageStart_keeps
    | with_reducible refine Keeps.ite (fun _ => ?_) (fun _ => ?_) | with_reducible refine KeepsCore.same ?_ | intro _
    | dsimp only | simp only [keeps_mk_iff] | split

theorem execSetShare_keeps {r₀ : State} (s : State) (hk : Keeps r₀ s) :
    KeepsOut r₀ (execSetShare s) := by
  unfold execSetShare
  refine act_keeps hk ?_
  repeat' first
    | with_reducible assumption | with_reducible apply act_keeps | with_reducible apply State.pageStart_keeps
    | with_reducible refine Keeps.ite (fun _ => ?_) (fun _ => ?_) | with_reducible refine KeepsCore.same ?_ | intro _
    | dsimp only | simp only [keeps_mk_iff] | split

theorem execPageFree_keeps {r₀ : State} (s : State) (hk : Keeps r₀ s) :
    KeepsOut r₀ (execPageFree s) := by
  unfold execPageFree
  refine act_keeps hk ?_
  repeat' first
    | with_reducible assumption | with_reducible apply act_keeps | with_reducible apply State.pageStart_keeps
    | with_reducible refine Keeps.ite (fun _ => ?_) (fun _ => ?_) | with_reducible refine KeepsCore.same ?_ | intro _
    | dsimp only | simp only [keeps_mk_iff] | split

theorem State.meetHeld_keeps {r₀ : State} (s : State) (hk : Keeps r₀ s) :
    Keeps r₀ (State.meetHeld s) := by
  unfold State.meetHeld
  repeat' first
    | with_reducible assumption | with_reducible apply State.access_keeps
    | with_reducible refine Keeps.foldl (fun s a hk => ?_) ?_
    | with_reducible refine Keeps.ite (fun _ => ?_) (fun _ => ?_) | with_reducible refine KeepsCore.same ?_
    | dsimp only | simp only [keeps_mk_iff] | split

theorem State.pageHandoverDone_keeps {r₀ : State} (s : State) (hk : Keeps r₀ s) :
    Keeps r₀ (State.pageHandoverDone s) := by
  unfold State.pageHandoverDone
  repeat' first
    | with_reducible assumption | with_reducible apply State.revokeLines_keeps
    | with_reducible apply State.zeroDram_keeps | with_reducible apply State.meetHeld_keeps
    | with_reducible apply State.pageDrain_keeps | with_reducible apply State.pageAnswer_keeps
    | with_reducible apply State.settle_keeps | with_reducible refine Keeps.foldl (fun s a hk => ?_) ?_
    | with_reducible refine Keeps.ite (fun _ => ?_) (fun _ => ?_) | with_reducible refine KeepsCore.same ?_
    | dsimp only | simp only [keeps_mk_iff] | split

theorem execPageHandoverDone_keeps {r₀ : State} (s : State) (hk : Keeps r₀ s) :
    KeepsOut r₀ (execPageHandoverDone s) := by
  unfold execPageHandoverDone
  refine KeepsOut.next ?_
  repeat' first
    | with_reducible assumption | with_reducible apply act_keeps | with_reducible apply State.pageHandoverDone_keeps
    | with_reducible refine Keeps.ite (fun _ => ?_) (fun _ => ?_) | with_reducible refine KeepsCore.same ?_ | intro _
    | dsimp only | simp only [keeps_mk_iff] | split

theorem State.encDone_keeps {r₀ : State} (s : State) (code : Nat) (hk : Keeps r₀ s) :
    Keeps r₀ (State.encDone s code) := by
  unfold State.encDone
  repeat' first
    | with_reducible assumption | with_reducible refine Keeps.ite (fun _ => ?_) (fun _ => ?_)
    | with_reducible refine KeepsCore.same ?_ | dsimp only | simp only [keeps_mk_iff] | split

theorem execEnclaveCreate_keeps {r₀ : State} (tag enclave : Nat) (debug : Bool) (s : State) (hk : Keeps r₀ s) :
    KeepsOut r₀ (execEnclaveCreate tag enclave debug s) := by
  unfold execEnclaveCreate
  refine act_keeps hk ?_
  repeat' first
    | with_reducible assumption | with_reducible apply act_keeps | with_reducible apply State.encDone_keeps
    | with_reducible apply State.modEnclave_keeps | with_reducible refine Keeps.ite (fun _ => ?_) (fun _ => ?_)
    | with_reducible refine KeepsCore.same ?_ | intro _ | dsimp only | simp only [keeps_mk_iff] | split

theorem State.pagesSettled_keeps {r₀ : State} (s : State) (pages : List Nat) (hk : Keeps r₀ s) :
    Keeps r₀ (State.pagesSettled s pages) := by
  unfold State.pagesSettled
  repeat' first
    | with_reducible assumption | with_reducible apply State.pageHandoverDone_keeps
    | with_reducible refine Keeps.ite (fun _ => ?_) (fun _ => ?_) | with_reducible refine KeepsCore.same ?_
    | dsimp only | simp only [keeps_mk_iff] | split

theorem State.revokePages_keeps {r₀ : State} (s : State) (pages : List Nat) (scrub : Bool) (new : OwnerEntry) (hk : Keeps r₀ s) :
    Keeps r₀ (State.revokePages s pages scrub new) := by
  unfold State.revokePages
  repeat' first
    | with_reducible assumption | with_reducible apply State.revokeLines_keeps
    | with_reducible refine Keeps.foldl (fun s a hk => ?_) ?_
    | with_reducible refine Keeps.ite (fun _ => ?_) (fun _ => ?_) | with_reducible refine KeepsCore.same ?_
    | dsimp only | simp only [keeps_mk_iff] | split

theorem execEnclaveAdd_keeps {r₀ : State} (tag enclave type page count : Nat) (s : State) (hk : Keeps r₀ s) :
    KeepsOut r₀ (execEnclaveAdd tag enclave type page count s) := by
  unfold execEnclaveAdd
  refine act_keeps hk ?_
  repeat' first
    | with_reducible assumption | with_reducible apply act_keeps | with_reducible apply State.encDone_keeps
    | with_reducible apply State.pagesSettled_keeps | with_reducible apply State.revokePages_keeps
    | with_reducible apply State.modEnclave_keeps | with_reducible apply State.modOwner_keeps
    | with_reducible refine Keeps.foldl (fun s a hk => ?_) ?_
    | with_reducible refine Keeps.ite (fun _ => ?_) (fun _ => ?_) | with_reducible refine KeepsCore.same ?_ | intro _
    | dsimp only | simp only [keeps_mk_iff] | split

theorem execEnclaveSeal_keeps {r₀ : State} (tag enclave : Nat) (s : State) (hk : Keeps r₀ s) :
    KeepsOut r₀ (execEnclaveSeal tag enclave s) := by
  unfold execEnclaveSeal
  refine act_keeps hk ?_
  repeat' first
    | with_reducible assumption | with_reducible apply act_keeps | with_reducible apply State.encDone_keeps
    | with_reducible apply State.modEnclave_keeps | with_reducible refine Keeps.ite (fun _ => ?_) (fun _ => ?_)
    | with_reducible refine KeepsCore.same ?_ | intro _ | dsimp only | simp only [keeps_mk_iff] | split

theorem State.saveSlot_keeps {r₀ : State} (s : State) (n h : Nat) (r : HartRegs) (hk : Keeps r₀ s) :
    Keeps r₀ (State.saveSlot s n h r) := by
  unfold State.saveSlot
  repeat' first
    | with_reducible assumption | with_reducible apply State.draw_keeps | with_reducible apply State.wr_keeps
    | with_reducible apply State.modEnclave_keeps | with_reducible refine Keeps.foldl (fun s a hk => ?_) ?_
    | with_reducible refine Keeps.ite (fun _ => ?_) (fun _ => ?_) | with_reducible refine KeepsCore.same ?_
    | dsimp only | simp only [keeps_mk_iff] | split

theorem State.releaseHalt_keeps {r₀ : State} (s : State) (h : Nat) (hk : Keeps r₀ s) :
    Keeps r₀ (State.releaseHalt s h) := by
  unfold State.releaseHalt
  repeat' first
    | with_reducible assumption | with_reducible apply State.modHart_keeps
    | with_reducible refine Keeps.ite (fun _ => ?_) (fun _ => ?_) | with_reducible refine KeepsCore.same ?_
    | dsimp only | simp only [keeps_mk_iff] | split

theorem State.asyncExit_keeps {r₀ : State} (s : State) (h : Nat) (hk : Keeps r₀ s) :
    Keeps r₀ (State.asyncExit s h) := by
  unfold State.asyncExit
  repeat' first
    | with_reducible assumption | with_reducible apply State.saveSlot_keeps | with_reducible apply State.modHart_keeps
    | with_reducible apply State.releaseHalt_keeps | with_reducible refine Keeps.ite (fun _ => ?_) (fun _ => ?_)
    | with_reducible refine KeepsCore.same ?_ | dsimp only | simp only [keeps_mk_iff] | split

theorem execAsyncExit_keeps {r₀ : State} (hart cause : Nat) (regs : HartRegs) (s : State) (hk : Keeps r₀ s) :
    KeepsOut r₀ (execAsyncExit hart cause regs s) := by
  unfold execAsyncExit
  refine act_keeps hk ?_
  repeat' first
    | with_reducible assumption | with_reducible apply act_keeps | with_reducible apply State.modHart_keeps
    | with_reducible apply State.asyncExit_keeps | with_reducible refine Keeps.ite (fun _ => ?_) (fun _ => ?_)
    | with_reducible refine KeepsCore.same ?_ | intro _ | dsimp only | simp only [keeps_mk_iff] | split

theorem State.illegal_keeps {r₀ : State} (s : State) (h : Nat) (regs : HartRegs) (hk : Keeps r₀ s) :
    Keeps r₀ (State.illegal s h regs) := by
  unfold State.illegal
  repeat' first
    | with_reducible assumption | with_reducible apply State.modHart_keeps
    | with_reducible refine Keeps.ite (fun _ => ?_) (fun _ => ?_) | with_reducible refine KeepsCore.same ?_
    | dsimp only | simp only [keeps_mk_iff] | split

theorem execGateMark_keeps {r₀ : State} (hart : Nat) (regs : HartRegs) (s : State) (hk : Keeps r₀ s) :
    KeepsOut r₀ (execGateMark hart regs s) := by
  unfold execGateMark
  refine act_keeps hk ?_
  repeat' first
    | with_reducible assumption | with_reducible apply act_keeps | with_reducible apply State.modHart_keeps
    | with_reducible refine Keeps.ite (fun _ => ?_) (fun _ => ?_) | with_reducible refine KeepsCore.same ?_ | intro _
    | dsimp only | simp only [keeps_mk_iff] | split

theorem State.gateTake_keeps {r₀ : State} (s : State) (h n rd : Nat) (level : HartLevel) (regs : HartRegs) (hk : Keeps r₀ s) :
    Keeps r₀ (State.gateTake s h n rd level regs) := by
  unfold State.gateTake
  repeat' first
    | with_reducible assumption | with_reducible apply State.modHart_keeps
    | with_reducible refine Keeps.ite (fun _ => ?_) (fun _ => ?_) | with_reducible refine KeepsCore.same ?_
    | dsimp only | simp only [keeps_mk_iff] | split

theorem State.gateEnter_keeps {r₀ : State} (s : State) (h : Nat) (level : HartLevel) (rd rs1 rs2 phys : Nat) (regs : HartRegs) (hk : Keeps r₀ s) :
    Keeps r₀ (State.gateEnter s h level rd rs1 rs2 phys regs) := by
  unfold State.gateEnter
  repeat' first
    | with_reducible assumption | with_reducible apply State.illegal_keeps | with_reducible apply State.modHart_keeps
    | with_reducible apply State.gateTake_keeps | with_reducible apply State.draw_keeps
    | with_reducible refine Keeps.ite (fun _ => ?_) (fun _ => ?_) | with_reducible refine KeepsCore.same ?_
    | dsimp only | simp only [keeps_mk_iff] | split

theorem execGateEnter_keeps {r₀ : State} (hart : Nat) (level : HartLevel) (rd rs1 rs2 : Nat) (entryPhys : Nat) (regs : HartRegs) (s : State) (hk : Keeps r₀ s) :
    KeepsOut r₀ (execGateEnter hart level rd rs1 rs2 entryPhys regs s) := by
  unfold execGateEnter
  refine act_keeps hk ?_
  repeat' first
    | with_reducible assumption | with_reducible apply act_keeps | with_reducible apply State.gateEnter_keeps
    | with_reducible refine Keeps.ite (fun _ => ?_) (fun _ => ?_) | with_reducible refine KeepsCore.same ?_ | intro _
    | dsimp only | simp only [keeps_mk_iff] | split

theorem State.gateExit_keeps {r₀ : State} (s : State) (h : Nat) (regs : HartRegs) (hk : Keeps r₀ s) :
    Keeps r₀ (State.gateExit s h regs) := by
  unfold State.gateExit
  repeat' first
    | with_reducible assumption | with_reducible apply State.illegal_keeps | with_reducible apply State.modHart_keeps
    | with_reducible apply State.releaseHalt_keeps | with_reducible refine Keeps.foldl (fun s a hk => ?_) ?_
    | with_reducible refine Keeps.ite (fun _ => ?_) (fun _ => ?_) | with_reducible refine KeepsCore.same ?_
    | dsimp only | simp only [keeps_mk_iff] | split

theorem execGateExit_keeps {r₀ : State} (hart : Nat) (regs : HartRegs) (s : State) (hk : Keeps r₀ s) :
    KeepsOut r₀ (execGateExit hart regs s) := by
  unfold execGateExit
  refine act_keeps hk ?_
  repeat' first
    | with_reducible assumption | with_reducible apply act_keeps | with_reducible apply State.gateExit_keeps
    | with_reducible refine Keeps.ite (fun _ => ?_) (fun _ => ?_) | with_reducible refine KeepsCore.same ?_ | intro _
    | dsimp only | simp only [keeps_mk_iff] | split

theorem execEnclaveDestroy_keeps {r₀ : State} (tag enclave : Nat) (s : State) (hk : Keeps r₀ s) :
    KeepsOut r₀ (execEnclaveDestroy tag enclave s) := by
  unfold execEnclaveDestroy
  refine act_keeps hk ?_
  repeat' first
    | with_reducible assumption | with_reducible apply act_keeps | with_reducible apply State.encDone_keeps
    | with_reducible apply State.asyncExit_keeps | with_reducible apply State.revokePages_keeps
    | with_reducible apply State.zeroDram_keeps | with_reducible apply State.modOwner_keeps
    | with_reducible refine Keeps.foldl (fun s a hk => ?_) ?_
    | with_reducible refine Keeps.foldl_fst (fun s b a hk => ?_) ?_
    | with_reducible refine Keeps.foldl_snd (fun b s a hk => ?_) ?_
    | with_reducible refine Keeps.ite (fun _ => ?_) (fun _ => ?_) | with_reducible refine KeepsCore.same ?_ | intro _
    | dsimp only | simp only [keeps_mk_iff] | split

theorem execEnclaveSelect_keeps {r₀ : State} (path u0 enclave : Nat) (s : State) (hk : Keeps r₀ s) :
    KeepsOut r₀ (execEnclaveSelect path u0 enclave s) := by
  unfold execEnclaveSelect
  refine act_keeps hk ?_
  repeat' first
    | with_reducible assumption | with_reducible apply act_keeps | with_reducible apply State.encDone_keeps
    | with_reducible refine Keeps.ite (fun _ => ?_) (fun _ => ?_) | with_reducible refine KeepsCore.same ?_ | intro _
    | dsimp only | simp only [keeps_mk_iff] | split

theorem execDbgEnWrite_keeps {r₀ : State} (tag value : Nat) (s : State) (hk : Keeps r₀ s) :
    KeepsOut r₀ (execDbgEnWrite tag value s) := by
  unfold execDbgEnWrite
  refine act_keeps hk ?_
  repeat' first
    | with_reducible assumption | with_reducible apply act_keeps
    | with_reducible refine Keeps.ite (fun _ => ?_) (fun _ => ?_) | with_reducible refine KeepsCore.same ?_ | intro _
    | dsimp only | simp only [keeps_mk_iff] | split

theorem execRegionEntryWrite_keeps {r₀ : State} (tag table entry : Nat) (data : Bytes) (s : State) (hk : Keeps r₀ s) :
    KeepsOut r₀ (execRegionEntryWrite tag table entry data s) := by
  unfold execRegionEntryWrite
  refine act_keeps hk ?_
  repeat' first
    | with_reducible assumption | with_reducible apply act_keeps
    | with_reducible refine Keeps.ite (fun _ => ?_) (fun _ => ?_) | with_reducible refine KeepsCore.same ?_ | intro _
    | dsimp only | simp only [keeps_mk_iff] | split

theorem State.applySluice_keeps {r₀ : State} (s : State) (hk : Keeps r₀ s) :
    Keeps r₀ (State.applySluice s) := by
  unfold State.applySluice
  repeat' first
    | with_reducible assumption | with_reducible refine Keeps.foldl (fun s a hk => ?_) ?_
    | with_reducible refine Keeps.ite (fun _ => ?_) (fun _ => ?_) | with_reducible refine KeepsCore.same ?_
    | dsimp only | simp only [keeps_mk_iff] | split

theorem State.applyTags_keeps {r₀ : State} (s : State) (hk : Keeps r₀ s) :
    Keeps r₀ (State.applyTags s) := by
  unfold State.applyTags
  repeat' first
    | with_reducible assumption | with_reducible apply State.modHart_keeps
    | with_reducible refine Keeps.foldl (fun s a hk => ?_) ?_
    | with_reducible refine Keeps.ite (fun _ => ?_) (fun _ => ?_) | with_reducible refine KeepsCore.same ?_
    | dsimp only | simp only [keeps_mk_iff] | split

end Sys2Proof.Machine
end

