-- ==== Sys2Proof/Laws/KeepsPoints.lean ====
section
/-! SUPPORT. What the operations of Machine/Points.lean keep. -/

namespace Sys2Proof.Machine

open Sys2Proof.Laws

theorem State.modPort_keeps {r₀ : State} (s : State) (n : Nat) (f : PtsPort → PtsPort) (hk : Keeps r₀ s) :
    Keeps r₀ (State.modPort s n f) := by
  unfold State.modPort
  repeat' first
    | with_reducible assumption | with_reducible apply State.modPts_keeps
    | with_reducible refine Keeps.ite (fun _ => ?_) (fun _ => ?_) | with_reducible refine KeepsCore.same ?_
    | dsimp only | simp only [keeps_mk_iff] | split

theorem State.ptsCount_keeps {r₀ : State} (s : State) (kind : Nat) (hk : Keeps r₀ s) :
    Keeps r₀ (State.ptsCount s kind) := by
  unfold State.ptsCount
  repeat' first
    | with_reducible assumption | with_reducible apply State.modPts_keeps
    | with_reducible refine Keeps.ite (fun _ => ?_) (fun _ => ?_) | with_reducible refine KeepsCore.same ?_
    | dsimp only | simp only [keeps_mk_iff] | split

theorem State.ptsDrop_keeps {r₀ : State} (s : State) (kind port : Nat) (hk : Keeps r₀ s) :
    Keeps r₀ (State.ptsDrop s kind port) := by
  unfold State.ptsDrop
  repeat' first
    | with_reducible assumption | with_reducible apply State.ptsCount_keeps | with_reducible apply State.modPort_keeps
    | with_reducible refine Keeps.ite (fun _ => ?_) (fun _ => ?_) | with_reducible refine KeepsCore.same ?_
    | dsimp only | simp only [keeps_mk_iff] | split

theorem State.ptsSend_keeps {r₀ : State} (s : State) (full port tc : Nat) (f : NetFrame) (hk : Keeps r₀ s) :
    Keeps r₀ (State.ptsSend s full port tc f) := by
  unfold State.ptsSend
  repeat' first
    | with_reducible assumption | with_reducible apply State.ptsDrop_keeps | with_reducible apply State.modPts_keeps
    | with_reducible refine Keeps.ite (fun _ => ?_) (fun _ => ?_) | with_reducible refine KeepsCore.same ?_
    | dsimp only | simp only [keeps_mk_iff] | split

theorem State.ptsForward_keeps {r₀ : State} (s : State) (full port : Nat) (e : Bytes) (f : NetFrame) (hk : Keeps r₀ s) :
    Keeps r₀ (State.ptsForward s full port e f) := by
  unfold State.ptsForward
  repeat' first
    | with_reducible assumption | with_reducible apply State.draw_keeps | with_reducible apply State.ptsSend_keeps
    | with_reducible refine Keeps.ite (fun _ => ?_) (fun _ => ?_) | with_reducible refine KeepsCore.same ?_
    | dsimp only | simp only [keeps_mk_iff] | split

theorem State.flushAgg_keeps {r₀ : State} (s : State) (full entry : Nat) (hk : Keeps r₀ s) :
    Keeps r₀ (State.flushAgg s full entry) := by
  unfold State.flushAgg
  repeat' first
    | with_reducible assumption | with_reducible apply State.modPts_keeps | with_reducible apply State.ptsSend_keeps
    | with_reducible refine Keeps.foldl (fun s a hk => ?_) ?_
    | with_reducible refine Keeps.ite (fun _ => ?_) (fun _ => ?_) | with_reducible refine KeepsCore.same ?_
    | dsimp only | simp only [keeps_mk_iff] | split

theorem State.encapsulate_keeps {r₀ : State} (s : State) (full entry : Nat) (e : Bytes) (port stamp : Nat) (f : NetFrame) (hk : Keeps r₀ s) :
    Keeps r₀ (State.encapsulate s full entry e port stamp f) := by
  unfold State.encapsulate
  repeat' first
    | with_reducible assumption | with_reducible apply State.flushAgg_keeps | with_reducible apply State.modPts_keeps
    | with_reducible refine Keeps.ite (fun _ => ?_) (fun _ => ?_) | with_reducible refine KeepsCore.same ?_
    | dsimp only | simp only [keeps_mk_iff] | split

theorem State.decapsulate_keeps {r₀ : State} (s : State) (full tc : Nat) (f : NetFrame) (hk : Keeps r₀ s) :
    Keeps r₀ (State.decapsulate s full tc f) := by
  unfold State.decapsulate
  repeat' first
    | with_reducible assumption | with_reducible apply State.ptsCount_keeps | with_reducible apply State.ptsSend_keeps
    | with_reducible refine Keeps.foldl (fun s a hk => ?_) ?_
    | with_reducible refine Keeps.foldl_fst (fun s b a hk => ?_) ?_
    | with_reducible refine Keeps.foldl_snd (fun b s a hk => ?_) ?_
    | with_reducible refine Keeps.ite (fun _ => ?_) (fun _ => ?_) | with_reducible refine KeepsCore.same ?_
    | dsimp only | simp only [keeps_mk_iff] | split

theorem State.queueTake_keeps {r₀ : State} (s : State) (q id : Nat) (f : NetFrame) (port entry stamp : Nat) (hk : Keeps r₀ s) :
    Keeps r₀ (State.queueTake s q id f port entry stamp).1 := by
  unfold State.queueTake
  repeat' first
    | with_reducible assumption | with_reducible apply State.ptsDrop_keeps
    | with_reducible apply State.devWritePages_keeps | with_reducible apply State.queueError_keeps
    | with_reducible apply State.modQueue_keeps | with_reducible refine Keeps.ite (fun _ => ?_) (fun _ => ?_)
    | with_reducible refine KeepsCore.same ?_ | dsimp only | simp only [keeps_mk_iff] | split

theorem State.queueFrame_keeps {r₀ : State} (s : State) (qs : List Nat) (f : NetFrame) (port entry stamp : Nat) (hk : Keeps r₀ s) :
    Keeps r₀ (State.queueFrame s qs f port entry stamp) := by
  unfold State.queueFrame
  repeat' first
    | with_reducible assumption | with_reducible apply State.queueTake_keeps | with_reducible apply State.modPts_keeps
    | with_reducible refine Keeps.foldl (fun s a hk => ?_) ?_
    | with_reducible refine Keeps.foldl_fst (fun s b a hk => ?_) ?_
    | with_reducible refine Keeps.foldl_snd (fun b s a hk => ?_) ?_
    | with_reducible refine Keeps.ite (fun _ => ?_) (fun _ => ?_) | with_reducible refine KeepsCore.same ?_
    | dsimp only | simp only [keeps_mk_iff] | split

theorem State.frameDone_keeps {r₀ : State} (s : State) (id : Nat) (acked : Bool) (hk : Keeps r₀ s) :
    Keeps r₀ (State.frameDone s id acked) := by
  unfold State.frameDone
  repeat' first
    | with_reducible assumption | with_reducible apply State.frameAnswered_keeps
    | with_reducible apply State.acked_keeps | with_reducible apply State.settle_keeps
    | with_reducible refine Keeps.ite (fun _ => ?_) (fun _ => ?_) | with_reducible refine KeepsCore.same ?_
    | dsimp only | simp only [keeps_mk_iff] | split

theorem State.ptsDecide_keeps {r₀ : State} (s : State) (full entry : Nat) (e : Bytes) (port stamp : Nat) (f : NetFrame) (hk : Keeps r₀ s) :
    Keeps r₀ (State.ptsDecide s full entry e port stamp f) := by
  unfold State.ptsDecide
  repeat' first
    | with_reducible assumption | with_reducible apply State.ptsCount_keeps
    | with_reducible apply State.ptsForward_keeps | with_reducible apply State.ptsDrop_keeps
    | with_reducible apply State.encapsulate_keeps | with_reducible apply State.decapsulate_keeps
    | with_reducible apply State.queueFrame_keeps | with_reducible refine Keeps.foldl (fun s a hk => ?_) ?_
    | with_reducible refine Keeps.ite (fun _ => ?_) (fun _ => ?_) | with_reducible refine KeepsCore.same ?_
    | dsimp only | simp only [keeps_mk_iff] | split

theorem State.ptsFrame_keeps {r₀ : State} (s : State) (full port stamp : Nat) (f : NetFrame) (hk : Keeps r₀ s) :
    Keeps r₀ (State.ptsFrame s full port stamp f) := by
  unfold State.ptsFrame
  repeat' first
    | with_reducible assumption | with_reducible apply State.ptsDecide_keeps
    | with_reducible apply State.queueFrame_keeps | with_reducible apply State.ptsCount_keeps
    | with_reducible refine Keeps.ite (fun _ => ?_) (fun _ => ?_) | with_reducible refine KeepsCore.same ?_
    | dsimp only | simp only [keeps_mk_iff] | split

theorem execFrameReceive_keeps {r₀ : State} (port : Nat) (frame : NetFrame) (full instant : Nat) (s : State) (hk : Keeps r₀ s) :
    KeepsOut r₀ (execFrameReceive port frame full instant s) := by
  unfold execFrameReceive
  refine act_keeps hk ?_
  repeat' first
    | with_reducible assumption | with_reducible apply act_keeps | with_reducible apply State.reach_keeps
    | with_reducible apply State.modPort_keeps | with_reducible apply State.ptsFrame_keeps
    | with_reducible refine Keeps.ite (fun _ => ?_) (fun _ => ?_) | with_reducible refine KeepsCore.same ?_ | intro _
    | dsimp only | simp only [keeps_mk_iff] | split

theorem execAggTimeout_keeps {r₀ : State} (entry full : Nat) (s : State) (hk : Keeps r₀ s) :
    KeepsOut r₀ (execAggTimeout entry full s) := by
  unfold execAggTimeout
  refine act_keeps hk ?_
  repeat' first
    | with_reducible assumption | with_reducible apply act_keeps | with_reducible apply State.reach_keeps
    | with_reducible apply State.flushAgg_keeps | with_reducible refine Keeps.ite (fun _ => ?_) (fun _ => ?_)
    | with_reducible refine KeepsCore.same ?_ | intro _ | dsimp only | simp only [keeps_mk_iff] | split

theorem execQueueSlotAck_keeps {r₀ : State} (queue : Nat) (s : State) (hk : Keeps r₀ s) :
    KeepsOut r₀ (execQueueSlotAck queue s) := by
  unfold execQueueSlotAck
  refine act_keeps hk ?_
  repeat' first
    | with_reducible assumption | with_reducible apply act_keeps | with_reducible apply State.modQueue_keeps
    | with_reducible apply State.devAccess_keeps | with_reducible apply State.queueError_keeps
    | with_reducible apply State.frameDone_keeps | with_reducible refine Keeps.ite (fun _ => ?_) (fun _ => ?_)
    | with_reducible refine KeepsCore.same ?_ | intro _ | dsimp only | simp only [keeps_mk_iff] | split

theorem execQueueIndexAck_keeps {r₀ : State} (queue : Nat) (s : State) (hk : Keeps r₀ s) :
    KeepsOut r₀ (execQueueIndexAck queue s) := by
  unfold execQueueIndexAck
  refine act_keeps hk ?_
  repeat' first
    | with_reducible assumption | with_reducible apply act_keeps | with_reducible apply State.modQueue_keeps
    | with_reducible apply State.msi_keeps | with_reducible apply State.frameDone_keeps
    | with_reducible refine Keeps.ite (fun _ => ?_) (fun _ => ?_) | with_reducible refine KeepsCore.same ?_ | intro _
    | dsimp only | simp only [keeps_mk_iff] | split

theorem execTxIndexWrite_keeps {r₀ : State} (requester : Requester) (addr len value : Nat) (entryOk : Bool) (s : State) (hk : Keeps r₀ s) :
    KeepsOut r₀ (execTxIndexWrite requester addr len value entryOk s) := by
  unfold execTxIndexWrite
  refine act_keeps hk ?_
  repeat' first
    | with_reducible assumption | with_reducible apply act_keeps | with_reducible apply State.requesterWrite_keeps
    | with_reducible refine Keeps.ite (fun _ => ?_) (fun _ => ?_) | with_reducible refine KeepsCore.same ?_ | intro _
    | dsimp only | simp only [keeps_mk_iff] | split

theorem State.readSlot_keeps {r₀ : State} (s : State) (x : PtsQueue) (hk : Keeps r₀ s) :
    Keeps r₀ (State.readSlot s x).1 := by
  unfold State.readSlot
  repeat' first
    | with_reducible assumption | with_reducible apply State.fetchBytes_keeps
    | with_reducible refine Keeps.ite (fun _ => ?_) (fun _ => ?_) | with_reducible refine KeepsCore.same ?_
    | dsimp only | simp only [keeps_mk_iff] | split

theorem State.txSlotTaken_keeps {r₀ : State} (s : State) (queue full instant : Nat) (x : PtsQueue) (fits : Bool) (f : NetFrame) (hk : Keeps r₀ s) :
    Keeps r₀ (State.txSlotTaken s queue full instant x fits f) := by
  unfold State.txSlotTaken
  repeat' first
    | with_reducible assumption | with_reducible apply State.modQueue_keeps
    | with_reducible apply State.ptsCount_keeps | with_reducible apply State.modPort_keeps
    | with_reducible apply State.ptsFrame_keeps | with_reducible apply State.devAccess_keeps
    | with_reducible refine Keeps.ite (fun _ => ?_) (fun _ => ?_) | with_reducible refine KeepsCore.same ?_
    | dsimp only | simp only [keeps_mk_iff] | split

theorem execTxSlotRead_keeps {r₀ : State} (queue full instant : Nat) (s : State) (hk : Keeps r₀ s) :
    KeepsOut r₀ (execTxSlotRead queue full instant s) := by
  unfold execTxSlotRead
  refine act_keeps hk ?_
  repeat' first
    | with_reducible assumption | with_reducible apply act_keeps | with_reducible apply State.reach_keeps
    | with_reducible apply State.readSlot_keeps | with_reducible apply State.queueError_keeps
    | with_reducible apply State.txSlotTaken_keeps | with_reducible refine Keeps.ite (fun _ => ?_) (fun _ => ?_)
    | with_reducible refine KeepsCore.same ?_ | intro _ | dsimp only | simp only [keeps_mk_iff] | split

theorem execCommit_keeps {r₀ : State} (path : Nat) (resetCount : Bool) (s : State) (hk : Keeps r₀ s) :
    KeepsOut r₀ (execCommit path resetCount s) := by
  unfold execCommit
  refine act_keeps hk ?_
  repeat' first
    | with_reducible assumption | with_reducible apply act_keeps | with_reducible apply State.modPts_keeps
    | with_reducible refine Keeps.ite (fun _ => ?_) (fun _ => ?_) | with_reducible refine KeepsCore.same ?_ | intro _
    | dsimp only | simp only [keeps_mk_iff] | split

theorem execEntryRead_keeps {r₀ : State} (path : Nat) (s : State) (hk : Keeps r₀ s) :
    KeepsOut r₀ (execEntryRead path s) := by
  unfold execEntryRead
  refine act_keeps hk ?_
  repeat' first
    | with_reducible assumption | with_reducible apply act_keeps | with_reducible apply State.modPts_keeps
    | with_reducible refine Keeps.ite (fun _ => ?_) (fun _ => ?_) | with_reducible refine KeepsCore.same ?_ | intro _
    | dsimp only | simp only [keeps_mk_iff] | split

theorem execResetCount_keeps {r₀ : State} (path : Nat) (s : State) (hk : Keeps r₀ s) :
    KeepsOut r₀ (execResetCount path s) := by
  unfold execResetCount
  refine act_keeps hk ?_
  repeat' first
    | with_reducible assumption | with_reducible apply act_keeps | with_reducible apply State.modPts_keeps
    | with_reducible refine Keeps.ite (fun _ => ?_) (fun _ => ?_) | with_reducible refine KeepsCore.same ?_ | intro _
    | dsimp only | simp only [keeps_mk_iff] | split

theorem execQEnable_keeps {r₀ : State} (queue value : Nat) (s : State) (hk : Keeps r₀ s) :
    KeepsOut r₀ (execQEnable queue value s) := by
  unfold execQEnable
  refine act_keeps hk ?_
  repeat' first
    | with_reducible assumption | with_reducible apply act_keeps | with_reducible apply State.modQueue_keeps
    | with_reducible apply State.frameDone_keeps | with_reducible refine Keeps.foldl (fun s a hk => ?_) ?_
    | with_reducible refine Keeps.foldl_fst (fun s b a hk => ?_) ?_
    | with_reducible refine Keeps.foldl_snd (fun b s a hk => ?_) ?_
    | with_reducible refine Keeps.ite (fun _ => ?_) (fun _ => ?_) | with_reducible refine KeepsCore.same ?_ | intro _
    | dsimp only | simp only [keeps_mk_iff] | split

theorem execQDisable_keeps {r₀ : State} (queue : Nat) (s : State) (hk : Keeps r₀ s) :
    KeepsOut r₀ (execQDisable queue s) := by
  unfold execQDisable
  refine act_keeps hk ?_
  repeat' first
    | with_reducible assumption | with_reducible apply act_keeps | with_reducible apply State.modQueue_keeps
    | with_reducible refine Keeps.ite (fun _ => ?_) (fun _ => ?_) | with_reducible refine KeepsCore.same ?_ | intro _
    | dsimp only | simp only [keeps_mk_iff] | split

theorem execCanBusOffRecovery_keeps {r₀ : State} (controller : Nat) (s : State) (hk : Keeps r₀ s) :
    KeepsOut r₀ (execCanBusOffRecovery controller s) := by
  unfold execCanBusOffRecovery
  refine act_keeps hk ?_
  repeat' first
    | with_reducible assumption | with_reducible apply act_keeps | with_reducible apply State.modPts_keeps
    | with_reducible refine Keeps.ite (fun _ => ?_) (fun _ => ?_) | with_reducible refine KeepsCore.same ?_ | intro _
    | dsimp only | simp only [keeps_mk_iff] | split

end Sys2Proof.Machine
end

