-- ==== Sys2Proof/Laws/KeepsJunction.lean ====
section
/-! SUPPORT. What the operations of Machine/Junction.lean keep. -/

namespace Sys2Proof.Machine

open Sys2Proof.Laws

theorem State.modJct_keeps {r₀ : State} (s : State) (f : Jct → Jct) (hk : Keeps r₀ s) :
    Keeps r₀ (State.modJct s f) := by
  unfold State.modJct
  repeat' first
    | with_reducible assumption | with_reducible refine Keeps.ite (fun _ => ?_) (fun _ => ?_)
    | with_reducible refine KeepsCore.same ?_ | dsimp only | simp only [keeps_mk_iff] | split

theorem State.modSide_keeps {r₀ : State} (s : State) (x : Nat) (f : JctSide → JctSide) (hk : Keeps r₀ s) :
    Keeps r₀ (State.modSide s x f) := by
  unfold State.modSide
  repeat' first
    | with_reducible assumption | with_reducible apply State.modJct_keeps
    | with_reducible refine Keeps.ite (fun _ => ?_) (fun _ => ?_) | with_reducible refine KeepsCore.same ?_
    | dsimp only | simp only [keeps_mk_iff] | split

theorem State.jctError_keeps {r₀ : State} (s : State) (x kind tag rdTag : Nat) (write inbound : Bool) (a : Nat) (hk : Keeps r₀ s) :
    Keeps r₀ (State.jctError s x kind tag rdTag write inbound a) := by
  unfold State.jctError
  repeat' first
    | with_reducible assumption | with_reducible apply State.modSide_keeps | with_reducible apply State.inbound_keeps
    | with_reducible refine Keeps.ite (fun _ => ?_) (fun _ => ?_) | with_reducible refine KeepsCore.same ?_
    | dsimp only | simp only [keeps_mk_iff] | split

theorem State.breakOthers_keeps {r₀ : State} (s : State) (src tag hart a n : Nat) (hk : Keeps r₀ s) :
    Keeps r₀ (State.breakOthers s src tag hart a n) := by
  unfold State.breakOthers
  repeat' first
    | with_reducible assumption | with_reducible apply State.modJct_keeps
    | with_reducible refine Keeps.ite (fun _ => ?_) (fun _ => ?_) | with_reducible refine KeepsCore.same ?_
    | dsimp only | simp only [keeps_mk_iff] | split

theorem State.issueReads_keeps {r₀ : State} (s : State) (x : Nat) (hk : Keeps r₀ s) :
    Keeps r₀ (State.issueReads s x) := by
  unfold State.issueReads
  repeat' first
    | with_reducible assumption | with_reducible apply State.modSide_keeps
    | with_reducible refine Keeps.foldl (fun s a hk => ?_) ?_
    | with_reducible refine Keeps.foldl_fst (fun s b a hk => ?_) ?_
    | with_reducible refine Keeps.foldl_snd (fun b s a hk => ?_) ?_
    | with_reducible refine Keeps.ite (fun _ => ?_) (fun _ => ?_) | with_reducible refine KeepsCore.same ?_
    | dsimp only | simp only [keeps_mk_iff] | split

theorem State.issueWrite_keeps {r₀ : State} (s : State) (x tag a : Nat) (data : Bytes) (hk : Keeps r₀ s) :
    Keeps r₀ (State.issueWrite s x tag a data) := by
  unfold State.issueWrite
  repeat' first
    | with_reducible assumption | with_reducible apply State.modSide_keeps
    | with_reducible refine Keeps.ite (fun _ => ?_) (fun _ => ?_) | with_reducible refine KeepsCore.same ?_
    | dsimp only | simp only [keeps_mk_iff] | split

theorem State.issueRead_keeps {r₀ : State} (s : State) (x src tag a n : Nat) (hk : Keeps r₀ s) :
    Keeps r₀ (State.issueRead s x src tag a n) := by
  unfold State.issueRead
  repeat' first
    | with_reducible assumption | with_reducible apply State.modSide_keeps | with_reducible apply State.modJct_keeps
    | with_reducible apply State.issueReads_keeps | with_reducible refine Keeps.ite (fun _ => ?_) (fun _ => ?_)
    | with_reducible refine KeepsCore.same ?_ | dsimp only | simp only [keeps_mk_iff] | split

theorem execJctOutbound_keeps {r₀ : State} (src tag addr len : Nat) (write : Bool) (data : Bytes) (s : State) (hk : Keeps r₀ s) :
    KeepsOut r₀ (execJctOutbound src tag addr len write data s) := by
  unfold execJctOutbound
  refine act_keeps hk ?_
  repeat' first
    | with_reducible assumption | with_reducible apply act_keeps | with_reducible apply State.breakOthers_keeps
    | with_reducible apply State.issueWrite_keeps | with_reducible apply Reg.take_keeps
    | with_reducible apply State.issueRead_keeps | with_reducible refine Keeps.ite (fun _ => ?_) (fun _ => ?_)
    | with_reducible refine KeepsCore.same ?_ | intro _ | dsimp only | simp only [keeps_mk_iff] | split

theorem State.answerRead_keeps {r₀ : State} (s : State) (x id : Nat) (failed : Bool) (hk : Keeps r₀ s) :
    Keeps r₀ (State.answerRead s x id failed) := by
  unfold State.answerRead
  repeat' first
    | with_reducible assumption | with_reducible apply State.modSide_keeps | with_reducible apply State.modJct_keeps
    | with_reducible refine Keeps.ite (fun _ => ?_) (fun _ => ?_) | with_reducible refine KeepsCore.same ?_
    | dsimp only | simp only [keeps_mk_iff] | split

theorem State.readDone_keeps {r₀ : State} (s : State) (x id : Nat) (hk : Keeps r₀ s) :
    Keeps r₀ (State.readDone s x id) := by
  unfold State.readDone
  repeat' first
    | with_reducible assumption | with_reducible apply State.answerRead_keeps
    | with_reducible refine Keeps.ite (fun _ => ?_) (fun _ => ?_) | with_reducible refine KeepsCore.same ?_
    | dsimp only | simp only [keeps_mk_iff] | split

theorem State.complete_keeps {r₀ : State} (s : State) (x t : Nat) (g : JctTag) (status : Nat) (data : Bytes) (last : Bool) (hk : Keeps r₀ s) :
    Keeps r₀ (State.complete s x t g status data last) := by
  unfold State.complete
  repeat' first
    | with_reducible assumption | with_reducible apply State.jctError_keeps | with_reducible apply State.modSide_keeps
    | with_reducible apply State.issueReads_keeps | with_reducible apply State.readDone_keeps
    | with_reducible refine Keeps.ite (fun _ => ?_) (fun _ => ?_) | with_reducible refine KeepsCore.same ?_
    | with_reducible refine KeepsCore.memory ?_ (memWrite_wf _ _) | dsimp only | simp only [keeps_mk_iff] | split

theorem execJctCompletion_keeps {r₀ : State} (side readTag status : Nat) (data : Bytes) (last : Bool) (s : State) (hk : Keeps r₀ s) :
    KeepsOut r₀ (execJctCompletion side readTag status data last s) := by
  unfold execJctCompletion
  refine act_keeps hk ?_
  repeat' first
    | with_reducible assumption | with_reducible apply act_keeps | with_reducible apply State.modSide_keeps
    | with_reducible apply State.complete_keeps | with_reducible refine Keeps.ite (fun _ => ?_) (fun _ => ?_)
    | with_reducible refine KeepsCore.same ?_ | intro _ | dsimp only | simp only [keeps_mk_iff] | split

theorem execCplTimeout_keeps {r₀ : State} (side readTag : Nat) (s : State) (hk : Keeps r₀ s) :
    KeepsOut r₀ (execCplTimeout side readTag s) := by
  unfold execCplTimeout
  refine act_keeps hk ?_
  repeat' first
    | with_reducible assumption | with_reducible apply act_keeps | with_reducible apply State.reach_keeps
    | with_reducible apply State.modSide_keeps | with_reducible apply State.jctError_keeps
    | with_reducible apply State.answerRead_keeps | with_reducible refine Keeps.ite (fun _ => ?_) (fun _ => ?_)
    | with_reducible refine KeepsCore.same ?_ | intro _ | dsimp only | simp only [keeps_mk_iff] | split

theorem execTagQuarantineEnd_keeps {r₀ : State} (side readTag : Nat) (s : State) (hk : Keeps r₀ s) :
    KeepsOut r₀ (execTagQuarantineEnd side readTag s) := by
  unfold execTagQuarantineEnd
  refine act_keeps hk ?_
  repeat' first
    | with_reducible assumption | with_reducible apply act_keeps | with_reducible apply State.reach_keeps
    | with_reducible apply State.modSide_keeps | with_reducible apply State.issueReads_keeps
    | with_reducible refine Keeps.ite (fun _ => ?_) (fun _ => ?_) | with_reducible refine KeepsCore.same ?_ | intro _
    | dsimp only | simp only [keeps_mk_iff] | split

theorem State.inboundPieces_keeps {r₀ : State} (s : State) (tag a : Nat) (write : Bool) (data : Bytes) (x0 : List (Nat × Nat)) (hk : Keeps r₀ s) :
    Keeps r₀ (State.inboundPieces s tag a write data x0).1 := by
  induction x0 generalizing s tag a write data with
  | nil => exact hk
  | cons e l ih =>
    unfold State.inboundPieces
    repeat' first
      | with_reducible assumption | with_reducible apply ih | with_reducible apply State.access_keeps
      | with_reducible refine Keeps.ite (fun _ => ?_) (fun _ => ?_) | with_reducible refine KeepsCore.same ?_
      | dsimp only | simp only [keeps_mk_iff] | split

theorem execJctInbound_keeps {r₀ : State} (port rid addr len : Nat) (write : Bool) (data : Bytes) (atomic : Bool) (s : State) (hk : Keeps r₀ s) :
    KeepsOut r₀ (execJctInbound port rid addr len write data atomic s) := by
  unfold execJctInbound
  refine act_keeps hk ?_
  repeat' first
    | with_reducible assumption | with_reducible apply act_keeps | with_reducible apply State.jctError_keeps
    | with_reducible apply State.inboundPieces_keeps | with_reducible apply Reg.take_keeps
    | with_reducible refine Keeps.ite (fun _ => ?_) (fun _ => ?_) | with_reducible refine KeepsCore.same ?_ | intro _
    | dsimp only | simp only [keeps_mk_iff] | split

theorem execLr_keeps {r₀ : State} (src tag hart addr len : Nat) (s : State) (hk : Keeps r₀ s) :
    KeepsOut r₀ (execLr src tag hart addr len s) := by
  unfold execLr
  refine act_keeps hk ?_
  repeat' first
    | with_reducible assumption | with_reducible apply act_keeps | with_reducible apply State.modJct_keeps
    | with_reducible apply State.issueRead_keeps | with_reducible refine Keeps.ite (fun _ => ?_) (fun _ => ?_)
    | with_reducible refine KeepsCore.same ?_ | intro _ | dsimp only | simp only [keeps_mk_iff] | split

theorem execSc_keeps {r₀ : State} (src tag hart addr : Nat) (data : Bytes) (s : State) (hk : Keeps r₀ s) :
    KeepsOut r₀ (execSc src tag hart addr data s) := by
  unfold execSc
  refine act_keeps hk ?_
  repeat' first
    | with_reducible assumption | with_reducible apply act_keeps | with_reducible apply State.modJct_keeps
    | with_reducible apply State.breakOthers_keeps | with_reducible apply State.issueWrite_keeps
    | with_reducible apply State.modSide_keeps | with_reducible refine Keeps.ite (fun _ => ?_) (fun _ => ?_)
    | with_reducible refine KeepsCore.same ?_ | intro _ | dsimp only | simp only [keeps_mk_iff] | split

theorem execAmo_keeps {r₀ : State} (src tag hart addr len op operand old : Nat) (readOk : Bool) (s : State) (hk : Keeps r₀ s) :
    KeepsOut r₀ (execAmo src tag hart addr len op operand old readOk s) := by
  unfold execAmo
  refine act_keeps hk ?_
  repeat' first
    | with_reducible assumption | with_reducible apply act_keeps | with_reducible apply State.modJct_keeps
    | with_reducible apply State.breakOthers_keeps | with_reducible apply State.issueWrite_keeps
    | with_reducible apply State.jctError_keeps | with_reducible refine Keeps.ite (fun _ => ?_) (fun _ => ?_)
    | with_reducible refine KeepsCore.same ?_ | intro _ | dsimp only | simp only [keeps_mk_iff] | split

theorem execReservationTimeout_keeps {r₀ : State} (s : State) (hk : Keeps r₀ s) :
    KeepsOut r₀ (execReservationTimeout s) := by
  unfold execReservationTimeout
  refine act_keeps hk ?_
  repeat' first
    | with_reducible assumption | with_reducible apply act_keeps | with_reducible apply State.reach_keeps
    | with_reducible apply State.modJct_keeps | with_reducible refine Keeps.ite (fun _ => ?_) (fun _ => ?_)
    | with_reducible refine KeepsCore.same ?_ | intro _ | dsimp only | simp only [keeps_mk_iff] | split

theorem execPcieLinkUp_keeps {r₀ : State} (port : Nat) (up : Bool) (s : State) (hk : Keeps r₀ s) :
    KeepsOut r₀ (execPcieLinkUp port up s) := by
  unfold execPcieLinkUp
  refine act_keeps hk ?_
  repeat' first
    | with_reducible assumption | with_reducible apply act_keeps | with_reducible apply State.modSide_keeps
    | with_reducible refine Keeps.ite (fun _ => ?_) (fun _ => ?_) | with_reducible refine KeepsCore.same ?_ | intro _
    | dsimp only | simp only [keeps_mk_iff] | split

end Sys2Proof.Machine
end

