-- ==== Sys2Proof/Laws/KeepsReach.lean ====
section
/-! SUPPORT. What the operations of Machine/Reach.lean keep. -/

namespace Sys2Proof.Machine

open Sys2Proof.Laws

theorem State.deviceLost_keeps {r₀ : State} (s : State) (d : Nat) (hk : Keeps r₀ s) :
    Keeps r₀ (State.deviceLost s d) := by
  unfold State.deviceLost
  repeat' first
    | with_reducible assumption | with_reducible apply State.endTxn_keeps
    | with_reducible refine Keeps.foldl (fun s a hk => ?_) ?_
    | with_reducible refine Keeps.foldl_fst (fun s b a hk => ?_) ?_
    | with_reducible refine Keeps.foldl_snd (fun b s a hk => ?_) ?_
    | with_reducible refine Keeps.ite (fun _ => ?_) (fun _ => ?_) | with_reducible refine KeepsCore.same ?_
    | dsimp only | simp only [keeps_mk_iff] | split

theorem State.recompute_keeps {r₀ : State} (s : State) (hk : Keeps r₀ s) :
    Keeps r₀ (State.recompute s) := by
  unfold State.recompute
  repeat' first
    | with_reducible assumption | with_reducible apply State.reach_keeps | with_reducible apply State.modMwl_keeps
    | with_reducible apply State.deviceLost_keeps | with_reducible apply State.retryWaiting_keeps
    | with_reducible apply State.settle_keeps | with_reducible refine Keeps.foldl (fun s a hk => ?_) ?_
    | with_reducible refine Keeps.ite (fun _ => ?_) (fun _ => ?_) | with_reducible refine KeepsCore.same ?_
    | dsimp only | simp only [keeps_mk_iff] | split

theorem State.announce_keeps {r₀ : State} (s : State) (hk : Keeps r₀ s) :
    Keeps r₀ (State.announce s) := by
  unfold State.announce
  repeat' first
    | with_reducible assumption | with_reducible apply State.modMwl_keeps | with_reducible apply State.mwlSend_keeps
    | with_reducible refine Keeps.foldl (fun s a hk => ?_) ?_
    | with_reducible refine Keeps.ite (fun _ => ?_) (fun _ => ?_) | with_reducible refine KeepsCore.same ?_
    | dsimp only | simp only [keeps_mk_iff] | split

theorem State.portChanged_keeps {r₀ : State} (s : State) (hk : Keeps r₀ s) :
    Keeps r₀ (State.portChanged s) := by
  unfold State.portChanged
  repeat' first
    | with_reducible assumption | with_reducible apply State.recompute_keeps
    | with_reducible apply State.announce_keeps | with_reducible refine Keeps.ite (fun _ => ?_) (fun _ => ?_)
    | with_reducible refine KeepsCore.same ?_ | dsimp only | simp only [keeps_mk_iff] | split

end Sys2Proof.Machine
end

