-- ==== Sys2Proof/Laws/KeepsMailbox.lean ====
section
/-! SUPPORT. What the operations of Machine/Mailbox.lean keep. -/

namespace Sys2Proof.Machine

open Sys2Proof.Laws

theorem State.mboxAnswer_keeps {r₀ : State} (s : State) (r : MboxReq) (mstatus : Nat) (body : Bytes) (hk : Keeps r₀ s) :
    Keeps r₀ (State.mboxAnswer s r mstatus body) := by
  unfold State.mboxAnswer
  repeat' first
    | with_reducible assumption | with_reducible apply State.msi_keeps | with_reducible apply State.devAccess_keeps
    | with_reducible apply State.sendReplies_keeps | with_reducible refine Keeps.ite (fun _ => ?_) (fun _ => ?_)
    | with_reducible refine KeepsCore.same ?_ | dsimp only | simp only [keeps_mk_iff] | split

theorem State.mboxPop_keeps {r₀ : State} (s : State) (hk : Keeps r₀ s) :
    Keeps r₀ (State.mboxPop s) := by
  unfold State.mboxPop
  repeat' first
    | with_reducible assumption | with_reducible refine Keeps.ite (fun _ => ?_) (fun _ => ?_)
    | with_reducible refine KeepsCore.same ?_ | dsimp only | simp only [keeps_mk_iff] | split

theorem State.mboxDrainN_keeps {r₀ : State} (x0 : Nat) (s : State) (hk : Keeps r₀ s) :
    Keeps r₀ (State.mboxDrainN x0 s) := by
  induction x0 generalizing s with
  | zero => exact hk
  | succ n ih =>
    unfold State.mboxDrainN
    repeat' first
      | with_reducible assumption | with_reducible apply ih | with_reducible apply State.mboxPop_keeps
      | with_reducible apply State.mboxAnswer_keeps | with_reducible refine Keeps.ite (fun _ => ?_) (fun _ => ?_)
      | with_reducible refine KeepsCore.same ?_ | dsimp only | simp only [keeps_mk_iff] | split

theorem State.mboxDrain_keeps {r₀ : State} (s : State) (hk : Keeps r₀ s) :
    Keeps r₀ (State.mboxDrain s) := by
  unfold State.mboxDrain
  repeat' first
    | with_reducible assumption | with_reducible apply State.mboxDrainN_keeps
    | with_reducible refine Keeps.ite (fun _ => ?_) (fun _ => ?_) | with_reducible refine KeepsCore.same ?_
    | dsimp only | simp only [keeps_mk_iff] | split

theorem State.serveLater_keeps {r₀ : State} (s : State) (service op : Nat) (f : State → MboxReq → State × Option Bytes) (hk : Keeps r₀ s) (hkf : ∀ s a1, Keeps r₀ s → Keeps r₀ (f s a1).1) :
    Keeps r₀ (State.serveLater s service op f) := by
  unfold State.serveLater
  repeat' first
    | with_reducible assumption | with_reducible apply State.mboxDrain_keeps
    | with_reducible apply State.mboxPop_keeps | with_reducible apply State.mboxAnswer_keeps
    | with_reducible apply hkf | with_reducible refine Keeps.ite (fun _ => ?_) (fun _ => ?_)
    | with_reducible refine KeepsCore.same ?_ | intro _ | dsimp only | simp only [keeps_mk_iff] | split

theorem State.serve_keeps {r₀ : State} (s : State) (service op : Nat) (f : State → MboxReq → State × Bytes) (hk : Keeps r₀ s) (hkf : ∀ s a1, Keeps r₀ s → Keeps r₀ (f s a1).1) :
    Keeps r₀ (State.serve s service op f) := by
  unfold State.serve
  repeat' first
    | with_reducible assumption | with_reducible apply State.serveLater_keeps | with_reducible apply hkf
    | with_reducible refine Keeps.ite (fun _ => ?_) (fun _ => ?_) | with_reducible refine KeepsCore.same ?_ | intro _
    | dsimp only | simp only [keeps_mk_iff] | split

theorem State.mboxTake_keeps {r₀ : State} (s : State) (tag : Nat) (data : Bytes) (hk : Keeps r₀ s) :
    Keeps r₀ (State.mboxTake s tag data) := by
  unfold State.mboxTake
  repeat' first
    | with_reducible assumption | with_reducible refine Keeps.ite (fun _ => ?_) (fun _ => ?_)
    | with_reducible refine KeepsCore.same ?_ | dsimp only | simp only [keeps_mk_iff] | split

theorem execMboxTake_keeps {r₀ : State} (tag : Nat) (data : Bytes) (s : State) (hk : Keeps r₀ s) :
    KeepsOut r₀ (execMboxTake tag data s) := by
  unfold execMboxTake
  refine act_keeps hk ?_
  repeat' first
    | with_reducible assumption | with_reducible apply act_keeps | with_reducible apply State.mboxTake_keeps
    | with_reducible refine Keeps.ite (fun _ => ?_) (fun _ => ?_) | with_reducible refine KeepsCore.same ?_ | intro _
    | dsimp only | simp only [keeps_mk_iff] | split

end Sys2Proof.Machine
end

