-- ==== Sys2Proof/Laws/KeepsRtsOps.lean ====
section
/-! SUPPORT. What the operations of Machine/RtsOps.lean keep. -/

namespace Sys2Proof.Machine

open Sys2Proof.Laws

theorem State.dropRoute_keeps {r₀ : State} (s : State) (j : RtsJob) (hk : Keeps r₀ s) :
    Keeps r₀ (State.dropRoute s j) := by
  unfold State.dropRoute
  repeat' first
    | with_reducible assumption | with_reducible apply State.modNode_keeps | with_reducible apply State.modCtx_keeps
    | with_reducible apply State.closeGraph_keeps | with_reducible refine Keeps.ite (fun _ => ?_) (fun _ => ?_)
    | with_reducible refine KeepsCore.same ?_ | dsimp only | simp only [keeps_mk_iff] | split

theorem State.cancelRoutes_keeps {r₀ : State} (s : State) (p : Ctx → Bool) (hk : Keeps r₀ s) :
    Keeps r₀ (State.cancelRoutes s p) := by
  unfold State.cancelRoutes
  repeat' first
    | with_reducible assumption | with_reducible apply State.modRts_keeps | with_reducible apply Matmul.run_keeps
    | with_reducible apply DmaCmd.run_keeps | with_reducible apply RillCmd.run_keeps
    | with_reducible apply AttnEnv.run_keeps | with_reducible apply AttnCmd.run_keeps
    | with_reducible apply ConvCmd.run_keeps | with_reducible apply State.dropRoute_keeps
    | with_reducible refine Keeps.foldl (fun s a hk => ?_) ?_
    | with_reducible refine Keeps.ite (fun _ => ?_) (fun _ => ?_) | with_reducible refine KeepsCore.same ?_
    | dsimp only | simp only [keeps_mk_iff] | split

theorem State.rtsScrub_keeps {r₀ : State} (s : State) (i : Nat) (hk : Keeps r₀ s) :
    Keeps r₀ (State.rtsScrub s i) := by
  unfold State.rtsScrub
  repeat' first
    | with_reducible assumption | with_reducible apply State.modRts_keeps
    | with_reducible refine Keeps.ite (fun _ => ?_) (fun _ => ?_) | with_reducible refine KeepsCore.same ?_
    | dsimp only | simp only [keeps_mk_iff] | split

theorem State.rtsRelease_keeps {r₀ : State} (s : State) (tag : Nat) (hk : Keeps r₀ s) :
    Keeps r₀ (State.rtsRelease s tag) := by
  unfold State.rtsRelease
  repeat' first
    | with_reducible assumption | with_reducible apply State.rtsScrub_keeps
    | with_reducible refine Keeps.foldl (fun s a hk => ?_) ?_
    | with_reducible refine Keeps.ite (fun _ => ?_) (fun _ => ?_) | with_reducible refine KeepsCore.same ?_
    | dsimp only | simp only [keeps_mk_iff] | split

theorem execWorldOwnerWrite_keeps {r₀ : State} (rtsNo value : Nat) (s : State) (hk : Keeps r₀ s) :
    KeepsOut r₀ (execWorldOwnerWrite rtsNo value s) := by
  unfold execWorldOwnerWrite
  refine act_keeps hk ?_
  repeat' first
    | with_reducible assumption | with_reducible apply act_keeps | with_reducible apply State.rtsScrub_keeps
    | with_reducible apply State.modRts_keeps | with_reducible refine Keeps.ite (fun _ => ?_) (fun _ => ?_)
    | with_reducible refine KeepsCore.same ?_ | intro _ | dsimp only | simp only [keeps_mk_iff] | split

theorem execRtsOverrunClear_keeps {r₀ : State} (rtsNo value : Nat) (s : State) (hk : Keeps r₀ s) :
    KeepsOut r₀ (execRtsOverrunClear rtsNo value s) := by
  unfold execRtsOverrunClear
  refine act_keeps hk ?_
  repeat' first
    | with_reducible assumption | with_reducible apply act_keeps | with_reducible apply State.modRts_keeps
    | with_reducible refine Keeps.ite (fun _ => ?_) (fun _ => ?_) | with_reducible refine KeepsCore.same ?_ | intro _
    | dsimp only | simp only [keeps_mk_iff] | split

end Sys2Proof.Machine
end

