-- ==== Sys2Proof/Laws/KeepsSiding.lean ====
section
/-! SUPPORT. What the operations of Machine/Siding.lean keep. -/

namespace Sys2Proof.Machine

open Sys2Proof.Laws

theorem State.putLines_keeps {r₀ : State} (s : State) (tag a : Nat) (bs : Bytes) (hk : Keeps r₀ s) :
    Keeps r₀ (State.putLines s tag a bs).1 := by
  unfold State.putLines
  repeat' first
    | with_reducible assumption | with_reducible apply State.devWrite_keeps
    | with_reducible refine Keeps.foldl (fun s a hk => ?_) ?_
    | with_reducible refine Keeps.foldl_fst (fun s b a hk => ?_) ?_
    | with_reducible refine Keeps.foldl_snd (fun b s a hk => ?_) ?_
    | with_reducible refine Keeps.ite (fun _ => ?_) (fun _ => ?_) | with_reducible refine KeepsCore.same ?_
    | dsimp only | simp only [keeps_mk_iff] | split

theorem State.getLines_keeps {r₀ : State} (s : State) (tag a n : Nat) (hk : Keeps r₀ s) :
    Keeps r₀ (State.getLines s tag a n).1 := by
  unfold State.getLines
  repeat' first
    | with_reducible assumption | with_reducible apply State.fetchBytes_keeps
    | with_reducible refine Keeps.ite (fun _ => ?_) (fun _ => ?_) | with_reducible refine KeepsCore.same ?_
    | dsimp only | simp only [keeps_mk_iff] | split

theorem State.settleBank_keeps {r₀ : State} (s : State) (k : Nat) (hk : Keeps r₀ s) :
    Keeps r₀ (State.settleBank s k) := by
  unfold State.settleBank
  repeat' first
    | with_reducible assumption | with_reducible apply State.finishPower_keeps
    | with_reducible apply State.finishHandover_keeps | with_reducible apply State.settle_keeps
    | with_reducible refine Keeps.ite (fun _ => ?_) (fun _ => ?_) | with_reducible refine KeepsCore.same ?_
    | dsimp only | simp only [keeps_mk_iff] | split

theorem State.giveBank_keeps {r₀ : State} (s : State) (k tag : Nat) (hk : Keeps r₀ s) :
    Keeps r₀ (State.giveBank s k tag) := by
  unfold State.giveBank
  repeat' first
    | with_reducible assumption | with_reducible apply State.handoverNow_keeps
    | with_reducible apply State.finishPower_keeps | with_reducible refine Keeps.ite (fun _ => ?_) (fun _ => ?_)
    | with_reducible refine KeepsCore.same ?_ | dsimp only | simp only [keeps_mk_iff] | split

theorem State.setSlot_keeps {r₀ : State} (s : State) (c i : Nat) (v : Bool) (hk : Keeps r₀ s) :
    Keeps r₀ (State.setSlot s c i v) := by
  unfold State.setSlot
  repeat' first
    | with_reducible assumption | with_reducible apply State.modConsist_keeps
    | with_reducible refine Keeps.ite (fun _ => ?_) (fun _ => ?_) | with_reducible refine KeepsCore.same ?_
    | dsimp only | simp only [keeps_mk_iff] | split

theorem State.parkBank_keeps {r₀ : State} (s : State) (k : Nat) (hk : Keeps r₀ s) :
    Keeps r₀ (State.parkBank s k).1 := by
  unfold State.parkBank
  repeat' first
    | with_reducible assumption | with_reducible apply State.setSlot_keeps | with_reducible apply State.wakeNow_keeps
    | with_reducible apply State.bankMeet_keeps | with_reducible apply State.putLines_keeps
    | with_reducible refine Keeps.ite (fun _ => ?_) (fun _ => ?_) | with_reducible refine KeepsCore.same ?_
    | dsimp only | simp only [keeps_mk_iff] | split

theorem State.putBank_keeps {r₀ : State} (c i k : Nat) (r : State × MoveEnd × Bytes) (hk : Keeps r₀ r.1) :
    Keeps r₀ (State.putBank c i k r).1 := by
  unfold State.putBank
  split
  · exact State.setSlot_keeps _ _ _ _ (State.bankMeet_keeps _ _ _ hk)
  · exact hk

theorem State.restoreBank_keeps {r₀ : State} (s : State) (c i k : Nat) (hk : Keeps r₀ s) :
    Keeps r₀ (State.restoreBank s c i k).1 :=
  State.putBank_keeps c i k _ (State.getLines_keeps _ _ _ _ hk)

end Sys2Proof.Machine
end

