-- ==== Sys2Proof/Laws/KeepsTurntable.lean ====
section
/-! SUPPORT. What the operations of Machine/Turntable.lean keep. -/

namespace Sys2Proof.Machine

open Sys2Proof.Laws

theorem State.ctxDelayed_keeps {r₀ : State} (s : State) (slot : Nat) (hk : Keeps r₀ s) :
    Keeps r₀ (State.ctxDelayed s slot) := by
  unfold State.ctxDelayed
  repeat' first
    | with_reducible assumption | with_reducible apply State.modNode_keeps
    | with_reducible refine Keeps.ite (fun _ => ?_) (fun _ => ?_) | with_reducible refine KeepsCore.same ?_
    | dsimp only | simp only [keeps_mk_iff] | split

theorem State.charge_keeps {r₀ : State} (s : State) (slot c ns : Nat) (hk : Keeps r₀ s) :
    Keeps r₀ (State.charge s slot c ns) := by
  unfold State.charge
  repeat' first
    | with_reducible assumption | with_reducible apply State.modGraph_keeps
    | with_reducible apply State.modConsist_keeps | with_reducible refine Keeps.ite (fun _ => ?_) (fun _ => ?_)
    | with_reducible refine KeepsCore.same ?_ | dsimp only | simp only [keeps_mk_iff] | split

theorem State.freeInstant_keeps {r₀ : State} (s : State) (from_ : Nat) (hk : Keeps r₀ s) :
    Keeps r₀ (State.freeInstant s from_).2 := by
  unfold State.freeInstant
  repeat' first
    | with_reducible assumption | with_reducible apply State.draw_keeps
    | with_reducible refine Keeps.ite (fun _ => ?_) (fun _ => ?_) | with_reducible refine KeepsCore.same ?_
    | dsimp only | simp only [keeps_mk_iff] | split

theorem State.chargeRest_keeps {r₀ : State} (s : State) (ctx : Nat) (hk : Keeps r₀ s) :
    Keeps r₀ (State.chargeRest s ctx) := by
  unfold State.chargeRest
  repeat' first
    | with_reducible assumption | with_reducible apply State.freeInstant_keeps
    | with_reducible apply State.charge_keeps | with_reducible refine Keeps.ite (fun _ => ?_) (fun _ => ?_)
    | with_reducible refine KeepsCore.same ?_ | dsimp only | simp only [keeps_mk_iff] | split

theorem State.endPreemption_keeps {r₀ : State} (s : State) (ctx : Nat) (hk : Keeps r₀ s) :
    Keeps r₀ (State.endPreemption s ctx) := by
  unfold State.endPreemption
  repeat' first
    | with_reducible assumption | with_reducible refine Keeps.ite (fun _ => ?_) (fun _ => ?_)
    | with_reducible refine KeepsCore.same ?_ | dsimp only | simp only [keeps_mk_iff] | split

theorem State.addSlow_keeps {r₀ : State} (s : State) (slot : Nat) (x : Ctx) (hk : Keeps r₀ s) :
    Keeps r₀ (State.addSlow s slot x) := by
  unfold State.addSlow
  repeat' first
    | with_reducible assumption | with_reducible refine Keeps.ite (fun _ => ?_) (fun _ => ?_)
    | with_reducible refine KeepsCore.same ?_ | dsimp only | simp only [keeps_mk_iff] | split

theorem State.stopRanks_keeps {r₀ : State} (s : State) (ctx : Nat) (hk : Keeps r₀ s) :
    Keeps r₀ (State.stopRanks s ctx) := by
  unfold State.stopRanks
  repeat' first
    | with_reducible assumption | with_reducible apply State.modBasin_keeps
    | with_reducible refine Keeps.foldl (fun s a hk => ?_) ?_
    | with_reducible refine Keeps.ite (fun _ => ?_) (fun _ => ?_) | with_reducible refine KeepsCore.same ?_
    | dsimp only | simp only [keeps_mk_iff] | split

theorem State.unbindRanks_keeps {r₀ : State} (s : State) (rs : List Rank) (hk : Keeps r₀ s) :
    Keeps r₀ (State.unbindRanks s rs) := by
  unfold State.unbindRanks
  repeat' first
    | with_reducible assumption | with_reducible apply State.modBasin_keeps
    | with_reducible apply State.walkerPin_keeps | with_reducible refine Keeps.foldl (fun s a hk => ?_) ?_
    | with_reducible refine Keeps.ite (fun _ => ?_) (fun _ => ?_) | with_reducible refine KeepsCore.same ?_
    | dsimp only | simp only [keeps_mk_iff] | split

theorem State.freeContext_keeps {r₀ : State} (s : State) (c : Nat) (hk : Keeps r₀ s) :
    Keeps r₀ (State.freeContext s c) := by
  unfold State.freeContext
  repeat' first
    | with_reducible assumption | with_reducible apply State.modCtx_keeps
    | with_reducible refine Keeps.ite (fun _ => ?_) (fun _ => ?_) | with_reducible refine KeepsCore.same ?_
    | dsimp only | simp only [keeps_mk_iff] | split

theorem State.leaveBasins_keeps {r₀ : State} (s : State) (ctx : Nat) (hk : Keeps r₀ s) :
    Keeps r₀ (State.leaveBasins s ctx) := by
  unfold State.leaveBasins
  repeat' first
    | with_reducible assumption | with_reducible apply State.charge_keeps | with_reducible apply State.addSlow_keeps
    | with_reducible apply State.unbindRanks_keeps | with_reducible apply State.freeContext_keeps
    | with_reducible apply State.endPreemption_keeps | with_reducible refine Keeps.ite (fun _ => ?_) (fun _ => ?_)
    | with_reducible refine KeepsCore.same ?_ | dsimp only | simp only [keeps_mk_iff] | split

theorem State.failReplies_keeps {r₀ : State} (s : State) (c : Nat) (hk : Keeps r₀ s) :
    Keeps r₀ (State.failReplies s c) := by
  unfold State.failReplies
  repeat' first
    | with_reducible assumption | with_reducible apply State.mboxAnswer_keeps
    | with_reducible apply State.modConsist_keeps | with_reducible refine Keeps.ite (fun _ => ?_) (fun _ => ?_)
    | with_reducible refine KeepsCore.same ?_ | dsimp only | simp only [keeps_mk_iff] | split

theorem State.teardownStart_keeps {r₀ : State} (s : State) (c cause basin node : Nat) (hk : Keeps r₀ s) :
    Keeps r₀ (State.teardownStart s c cause basin node) := by
  unfold State.teardownStart
  repeat' first
    | with_reducible assumption | with_reducible apply State.failReplies_keeps
    | with_reducible apply State.modConsist_keeps | with_reducible apply State.teardown_keeps
    | with_reducible apply State.chargeRest_keeps | with_reducible apply State.freeContext_keeps
    | with_reducible apply State.endPreemption_keeps | with_reducible apply State.stopRanks_keeps
    | with_reducible apply State.modCtx_keeps | with_reducible apply State.cancelRoutes_keeps
    | with_reducible refine Keeps.foldl (fun s a hk => ?_) ?_
    | with_reducible refine Keeps.foldl_fst (fun s b a hk => ?_) ?_
    | with_reducible refine Keeps.foldl_snd (fun b s a hk => ?_) ?_
    | with_reducible refine Keeps.ite (fun _ => ?_) (fun _ => ?_) | with_reducible refine KeepsCore.same ?_
    | dsimp only | simp only [keeps_mk_iff] | split

theorem State.teardown_keeps {r₀ : State} (s : State) (c cause basin node : Nat) (hk : Keeps r₀ s) :
    Keeps r₀ (State.teardown s c cause basin node) := by
  unfold State.teardown
  repeat' first
    | with_reducible assumption | with_reducible apply State.modConsist_keeps
    | with_reducible apply State.teardownStart_keeps | with_reducible refine Keeps.ite (fun _ => ?_) (fun _ => ?_)
    | with_reducible refine KeepsCore.same ?_ | dsimp only | simp only [keeps_mk_iff] | split

theorem execTeardown_keeps {r₀ : State} (consist cause basin node : Nat) (s : State) (hk : Keeps r₀ s) :
    KeepsOut r₀ (execTeardown consist cause basin node s) := by
  unfold execTeardown
  refine act_keeps hk ?_
  repeat' first
    | with_reducible assumption | with_reducible apply act_keeps | with_reducible apply State.teardown_keeps
    | with_reducible refine Keeps.ite (fun _ => ?_) (fun _ => ?_) | with_reducible refine KeepsCore.same ?_ | intro _
    | dsimp only | simp only [keeps_mk_iff] | split

theorem State.moverFault_keeps {r₀ : State} (s : State) (c k : Nat) (e : MoveEnd) (hk : Keeps r₀ s) :
    Keeps r₀ (State.moverFault s c k e) := by
  unfold State.moverFault
  repeat' first
    | with_reducible assumption | with_reducible apply State.teardown_keeps
    | with_reducible refine Keeps.ite (fun _ => ?_) (fun _ => ?_) | with_reducible refine KeepsCore.same ?_
    | dsimp only | simp only [keeps_mk_iff] | split

theorem State.moveBank_keeps {r₀ : State} (s : State) (c i k : Nat) (hk : Keeps r₀ s) :
    Keeps r₀ (State.moveBank s c i k).1 := by
  unfold State.moveBank
  repeat' first
    | with_reducible assumption | with_reducible apply State.parkBank_keeps
    | with_reducible apply State.moverFault_keeps | with_reducible apply State.giveBank_keeps
    | with_reducible apply State.restoreBank_keeps | with_reducible refine Keeps.ite (fun _ => ?_) (fun _ => ?_)
    | with_reducible refine KeepsCore.same ?_ | dsimp only | simp only [keeps_mk_iff] | split

theorem State.takeBank_keeps {r₀ : State} (s : State) (c v k : Nat) (hk : Keeps r₀ s) :
    Keeps r₀ (State.takeBank s c v k).1 := by
  unfold State.takeBank
  repeat' first
    | with_reducible assumption | with_reducible apply State.settleBank_keeps
    | with_reducible apply State.moveBank_keeps | with_reducible refine Keeps.ite (fun _ => ?_) (fun _ => ?_)
    | with_reducible refine KeepsCore.same ?_ | dsimp only | simp only [keeps_mk_iff] | split

theorem State.moveAll_keeps {r₀ : State} {α : Type} (s : State) (l : List α) (f : State → α → State × MoveEnd) (hk : Keeps r₀ s) (hkf : ∀ s a1, Keeps r₀ s → Keeps r₀ (f s a1).1) :
    Keeps r₀ (State.moveAll s l f).1 := by
  unfold State.moveAll
  repeat' first
    | with_reducible assumption | with_reducible apply hkf | with_reducible refine Keeps.foldl (fun s a hk => ?_) ?_
    | with_reducible refine Keeps.foldl_fst (fun s b a hk => ?_) ?_
    | with_reducible refine Keeps.foldl_snd (fun b s a hk => ?_) ?_
    | with_reducible refine Keeps.ite (fun _ => ?_) (fun _ => ?_) | with_reducible refine KeepsCore.same ?_ | intro _
    | dsimp only | simp only [keeps_mk_iff] | split

theorem State.leaveBasin_keeps {r₀ : State} (s : State) (c basin : Nat) (hk : Keeps r₀ s) :
    Keeps r₀ (State.leaveBasin s c basin).1 := by
  unfold State.leaveBasin
  repeat' first
    | with_reducible assumption | with_reducible apply State.moveAll_keeps
    | with_reducible apply State.settleBank_keeps | with_reducible apply State.parkBank_keeps
    | with_reducible apply State.moverFault_keeps | with_reducible apply State.scrubFree_keeps
    | with_reducible refine Keeps.ite (fun _ => ?_) (fun _ => ?_) | with_reducible refine KeepsCore.same ?_ | intro _
    | dsimp only | simp only [keeps_mk_iff] | split

theorem State.prepare_keeps {r₀ : State} (s : State) (c mask : Nat) (rs : List Rank) (hk : Keeps r₀ s) :
    Keeps r₀ (State.prepare s c mask rs).1 := by
  unfold State.prepare
  repeat' first
    | with_reducible assumption | with_reducible apply State.moveAll_keeps
    | with_reducible apply State.leaveBasin_keeps | with_reducible apply State.modConsist_keeps
    | with_reducible apply State.takeBank_keeps | with_reducible refine Keeps.foldl (fun s a hk => ?_) ?_
    | with_reducible refine Keeps.foldl_fst (fun s b a hk => ?_) ?_
    | with_reducible refine Keeps.foldl_snd (fun b s a hk => ?_) ?_
    | with_reducible refine Keeps.ite (fun _ => ?_) (fun _ => ?_) | with_reducible refine KeepsCore.same ?_ | intro _
    | dsimp only | simp only [keeps_mk_iff] | split

theorem State.bindRanks_keeps {r₀ : State} (s : State) (ctx slot tag gen : Nat) (virt : Bool) (rs : List Rank) (hk : Keeps r₀ s) :
    Keeps r₀ (State.bindRanks s ctx slot tag gen virt rs) := by
  unfold State.bindRanks
  repeat' first
    | with_reducible assumption | with_reducible apply State.modBasin_keeps
    | with_reducible apply State.bindBasin_keeps | with_reducible apply State.startList_keeps
    | with_reducible refine Keeps.foldl (fun s a hk => ?_) ?_
    | with_reducible refine Keeps.ite (fun _ => ?_) (fun _ => ?_) | with_reducible refine KeepsCore.same ?_
    | dsimp only | simp only [keeps_mk_iff] | split

theorem State.loadRank_keeps {r₀ : State} (r : Rank) (q : State × MoveEnd × Bytes) (hk : Keeps r₀ q.1) :
    Keeps r₀ (State.loadRank r q).1 := by
  unfold State.loadRank
  split
  · exact hk
  · refine State.modBasin_keeps _ _ _ ?_
    split
    · exact KeepsCore.otherPins hk rfl
    · exact hk

theorem State.restoreRank_keeps {r₀ : State} (s : State) (c : Nat) (r : Rank) (hk : Keeps r₀ s) :
    Keeps r₀ (State.restoreRank s c r).1 := by
  unfold State.restoreRank
  split
  · exact hk
  · exact State.loadRank_keeps _ _ (State.getLines_keeps _ _ _ _ hk)

theorem State.bindNew_keeps {r₀ : State} (s : State) (slot ctx : Nat) (rs : List Rank) (hk : Keeps r₀ s) :
    Keeps r₀ (State.bindNew s slot ctx rs).1 := by
  unfold State.bindNew
  repeat' first
    | with_reducible assumption | with_reducible apply State.prepare_keeps
    | with_reducible apply State.bindRanks_keeps | with_reducible apply State.modNode_keeps
    | with_reducible apply State.modCtx_keeps | with_reducible refine Keeps.ite (fun _ => ?_) (fun _ => ?_)
    | with_reducible refine KeepsCore.same ?_ | dsimp only | simp only [keeps_mk_iff] | split

theorem State.bindParked_keeps {r₀ : State} (s : State) (ctx : Nat) (rs : List Rank) (hk : Keeps r₀ s) :
    Keeps r₀ (State.bindParked s ctx rs).1 := by
  unfold State.bindParked
  repeat' first
    | with_reducible assumption | with_reducible apply State.prepare_keeps
    | with_reducible apply State.bindRanks_keeps | with_reducible apply State.moveAll_keeps
    | with_reducible apply State.restoreRank_keeps | with_reducible apply State.unbindRanks_keeps
    | with_reducible apply State.modCtx_keeps | with_reducible refine Keeps.ite (fun _ => ?_) (fun _ => ?_)
    | with_reducible refine KeepsCore.same ?_ | intro _ | dsimp only | simp only [keeps_mk_iff] | split

theorem State.bindPicked_keeps {r₀ : State} (s : State) (slot : Nat) (rs : List Rank) (hk : Keeps r₀ s) :
    Keeps r₀ (State.bindPicked s slot rs) := by
  unfold State.bindPicked
  repeat' first
    | with_reducible assumption | with_reducible apply State.bindParked_keeps
    | with_reducible apply State.bindNew_keeps | with_reducible apply State.ctxDelayed_keeps
    | with_reducible apply State.moverFault_keeps | with_reducible refine Keeps.ite (fun _ => ?_) (fun _ => ?_)
    | with_reducible refine KeepsCore.same ?_ | dsimp only | simp only [keeps_mk_iff] | split

theorem execContextBind_keeps {r₀ : State} (pool : Nat) (s : State) (hk : Keeps r₀ s) :
    KeepsOut r₀ (execContextBind pool s) := by
  unfold execContextBind
  refine act_keeps hk ?_
  repeat' first
    | with_reducible assumption | with_reducible apply act_keeps | with_reducible apply State.bindPicked_keeps
    | with_reducible refine Keeps.ite (fun _ => ?_) (fun _ => ?_) | with_reducible refine KeepsCore.same ?_ | intro _
    | dsimp only | simp only [keeps_mk_iff] | split

theorem State.safetyDispatch_keeps {r₀ : State} (s : State) (hk : Keeps r₀ s) :
    Keeps r₀ (State.safetyDispatch s) := by
  unfold State.safetyDispatch
  repeat' first
    | with_reducible assumption | with_reducible apply State.ctxDelayed_keeps | with_reducible apply Reg.take_keeps
    | with_reducible apply State.bindRanks_keeps | with_reducible apply State.modNode_keeps
    | with_reducible apply State.modCtx_keeps | with_reducible refine Keeps.ite (fun _ => ?_) (fun _ => ?_)
    | with_reducible refine KeepsCore.same ?_ | dsimp only | simp only [keeps_mk_iff] | split

theorem execSafetyDispatch_keeps {r₀ : State} (s : State) (hk : Keeps r₀ s) :
    KeepsOut r₀ (execSafetyDispatch s) := by
  unfold execSafetyDispatch
  refine act_keeps hk ?_
  repeat' first
    | with_reducible assumption | with_reducible apply act_keeps | with_reducible apply State.safetyDispatch_keeps
    | with_reducible refine Keeps.ite (fun _ => ?_) (fun _ => ?_) | with_reducible refine KeepsCore.same ?_ | intro _
    | dsimp only | simp only [keeps_mk_iff] | split

theorem State.finishContext_keeps {r₀ : State} (s : State) (ctx st cmd : Nat) (hk : Keeps r₀ s) :
    Keeps r₀ (State.finishContext s ctx st cmd) := by
  unfold State.finishContext
  repeat' first
    | with_reducible assumption | with_reducible apply State.leaveBasins_keeps
    | with_reducible apply State.completeNode_keeps | with_reducible apply State.settle_keeps
    | with_reducible refine Keeps.ite (fun _ => ?_) (fun _ => ?_) | with_reducible refine KeepsCore.same ?_
    | dsimp only | simp only [keeps_mk_iff] | split

theorem State.failContext_keeps {r₀ : State} (s : State) (ctx st cmd basin : Nat) (hk : Keeps r₀ s) :
    Keeps r₀ (State.failContext s ctx st cmd basin) := by
  unfold State.failContext
  repeat' first
    | with_reducible assumption | with_reducible apply State.noteFailure_keeps
    | with_reducible apply State.stopRanks_keeps | with_reducible apply State.modCtx_keeps
    | with_reducible apply State.teardown_keeps | with_reducible refine Keeps.ite (fun _ => ?_) (fun _ => ?_)
    | with_reducible refine KeepsCore.same ?_ | dsimp only | simp only [keeps_mk_iff] | split

theorem State.nodeComplete_keeps {r₀ : State} (s : State) (ctx gen : Nat) (hk : Keeps r₀ s) :
    Keeps r₀ (State.nodeComplete s ctx gen) := by
  unfold State.nodeComplete
  repeat' first
    | with_reducible assumption | with_reducible apply State.modConsist_keeps
    | with_reducible apply State.finishContext_keeps | with_reducible apply State.failContext_keeps
    | with_reducible refine Keeps.ite (fun _ => ?_) (fun _ => ?_) | with_reducible refine KeepsCore.same ?_
    | dsimp only | simp only [keeps_mk_iff] | split

theorem execNodeComplete_keeps {r₀ : State} (context generation : Nat) (s : State) (hk : Keeps r₀ s) :
    KeepsOut r₀ (execNodeComplete context generation s) := by
  unfold execNodeComplete
  refine act_keeps hk ?_
  repeat' first
    | with_reducible assumption | with_reducible apply act_keeps | with_reducible apply State.nodeComplete_keeps
    | with_reducible refine Keeps.ite (fun _ => ?_) (fun _ => ?_) | with_reducible refine KeepsCore.same ?_ | intro _
    | dsimp only | simp only [keeps_mk_iff] | split

theorem State.preempt_keeps {r₀ : State} (s : State) (ctx slot : Nat) (hk : Keeps r₀ s) :
    Keeps r₀ (State.preempt s ctx slot) := by
  unfold State.preempt
  repeat' first
    | with_reducible assumption | with_reducible apply State.stopRanks_keeps | with_reducible apply State.modCtx_keeps
    | with_reducible refine Keeps.foldl (fun s a hk => ?_) ?_
    | with_reducible refine Keeps.ite (fun _ => ?_) (fun _ => ?_) | with_reducible refine KeepsCore.same ?_
    | dsimp only | simp only [keeps_mk_iff] | split

theorem State.selectN_keeps {r₀ : State} (x0 : Nat) (s : State) (x2 : Nat) (hk : Keeps r₀ s) :
    Keeps r₀ (State.selectN x0 s x2) := by
  induction x0 generalizing s x2 with
  | zero => exact hk
  | succ n ih =>
    unfold State.selectN
    repeat' first
      | with_reducible assumption | with_reducible apply ih | with_reducible apply State.bindPicked_keeps
      | with_reducible apply State.preempt_keeps | with_reducible refine Keeps.ite (fun _ => ?_) (fun _ => ?_)
      | with_reducible refine KeepsCore.same ?_ | dsimp only | simp only [keeps_mk_iff] | split

theorem State.quantumTick_keeps {r₀ : State} (s : State) (pool : Nat) (hk : Keeps r₀ s) :
    Keeps r₀ (State.quantumTick s pool) := by
  unfold State.quantumTick
  repeat' first
    | with_reducible assumption | with_reducible apply State.selectN_keeps
    | with_reducible refine Keeps.ite (fun _ => ?_) (fun _ => ?_) | with_reducible refine KeepsCore.same ?_
    | dsimp only | simp only [keeps_mk_iff] | split

theorem execQuantumTick_keeps {r₀ : State} (pool : Nat) (s : State) (hk : Keeps r₀ s) :
    KeepsOut r₀ (execQuantumTick pool s) := by
  unfold execQuantumTick
  refine act_keeps hk ?_
  repeat' first
    | with_reducible assumption | with_reducible apply act_keeps | with_reducible apply State.quantumTick_keeps
    | with_reducible refine Keeps.ite (fun _ => ?_) (fun _ => ?_) | with_reducible refine KeepsCore.same ?_ | intro _
    | dsimp only | simp only [keeps_mk_iff] | split

theorem State.saveRanks_keeps {r₀ : State} (s : State) (ctx : Nat) (hk : Keeps r₀ s) :
    Keeps r₀ (State.saveRanks s ctx).1 := by
  unfold State.saveRanks
  repeat' first
    | with_reducible assumption | with_reducible apply State.moveAll_keeps | with_reducible apply State.countOn_keeps
    | with_reducible apply State.putLines_keeps | with_reducible apply State.markRank_keeps
    | with_reducible apply State.walkerPin_keeps | with_reducible refine Keeps.ite (fun _ => ?_) (fun _ => ?_)
    | with_reducible refine KeepsCore.same ?_ | intro _ | dsimp only | simp only [keeps_mk_iff] | split

theorem State.parkCtx_keeps {r₀ : State} (s : State) (ctx : Nat) (hk : Keeps r₀ s) :
    Keeps r₀ (State.parkCtx s ctx).1 := by
  unfold State.parkCtx
  repeat' first
    | with_reducible assumption | with_reducible apply State.saveRanks_keeps | with_reducible apply State.charge_keeps
    | with_reducible apply State.unbindRanks_keeps | with_reducible apply State.modGraph_keeps
    | with_reducible apply State.modCtx_keeps | with_reducible refine Keeps.ite (fun _ => ?_) (fun _ => ?_)
    | with_reducible refine KeepsCore.same ?_ | dsimp only | simp only [keeps_mk_iff] | split

theorem State.holdBasins_keeps {r₀ : State} (s : State) (ctx : Nat) (p : Preemption) (hk : Keeps r₀ s) :
    Keeps r₀ (State.holdBasins s ctx p) := by
  unfold State.holdBasins
  repeat' first
    | with_reducible assumption | with_reducible apply State.modCtx_keeps
    | with_reducible refine Keeps.ite (fun _ => ?_) (fun _ => ?_) | with_reducible refine KeepsCore.same ?_
    | dsimp only | simp only [keeps_mk_iff] | split

theorem State.preemptStopped_keeps {r₀ : State} (s : State) (ctx : Nat) (hk : Keeps r₀ s) :
    Keeps r₀ (State.preemptStopped s ctx) := by
  unfold State.preemptStopped
  repeat' first
    | with_reducible assumption | with_reducible apply State.endPreemption_keeps
    | with_reducible apply State.modCtx_keeps | with_reducible apply State.parkCtx_keeps
    | with_reducible apply State.holdBasins_keeps | with_reducible apply State.moverFault_keeps
    | with_reducible refine Keeps.ite (fun _ => ?_) (fun _ => ?_) | with_reducible refine KeepsCore.same ?_
    | dsimp only | simp only [keeps_mk_iff] | split

theorem execPreemptRanksStopped_keeps {r₀ : State} (s : State) (hk : Keeps r₀ s) :
    KeepsOut r₀ (execPreemptRanksStopped s) := by
  unfold execPreemptRanksStopped
  refine act_keeps hk ?_
  repeat' first
    | with_reducible assumption | with_reducible apply act_keeps | with_reducible apply State.preemptStopped_keeps
    | with_reducible refine Keeps.foldl (fun s a hk => ?_) ?_
    | with_reducible refine Keeps.foldl_fst (fun s b a hk => ?_) ?_
    | with_reducible refine Keeps.foldl_snd (fun b s a hk => ?_) ?_
    | with_reducible refine Keeps.ite (fun _ => ?_) (fun _ => ?_) | with_reducible refine KeepsCore.same ?_ | intro _
    | dsimp only | simp only [keeps_mk_iff] | split

theorem State.noteLatency_keeps {r₀ : State} (s : State) (ns : Nat) (hk : Keeps r₀ s) :
    Keeps r₀ (State.noteLatency s ns) := by
  unfold State.noteLatency
  repeat' first
    | with_reducible assumption | with_reducible refine Keeps.ite (fun _ => ?_) (fun _ => ?_)
    | with_reducible refine KeepsCore.same ?_ | dsimp only | simp only [keeps_mk_iff] | split

theorem State.bindIncoming_keeps {r₀ : State} (s : State) (p : Preemption) (hk : Keeps r₀ s) :
    Keeps r₀ (State.bindIncoming s p) := by
  unfold State.bindIncoming
  repeat' first
    | with_reducible assumption | with_reducible apply State.bindPicked_keeps
    | with_reducible apply State.freeInstant_keeps | with_reducible apply State.modCtx_keeps
    | with_reducible apply State.noteLatency_keeps | with_reducible refine Keeps.ite (fun _ => ?_) (fun _ => ?_)
    | with_reducible refine KeepsCore.same ?_ | dsimp only | simp only [keeps_mk_iff] | split

theorem State.preemptMoved_keeps {r₀ : State} (s : State) (ctx : Nat) (badBanks : List Nat) (badSlots : Bool) (hk : Keeps r₀ s) :
    Keeps r₀ (State.preemptMoved s ctx badBanks badSlots) := by
  unfold State.preemptMoved
  repeat' first
    | with_reducible assumption | with_reducible apply State.modBank_keeps
    | with_reducible apply State.chargeRest_keeps | with_reducible apply State.endPreemption_keeps
    | with_reducible apply State.teardown_keeps | with_reducible apply State.bindIncoming_keeps
    | with_reducible refine Keeps.foldl (fun s a hk => ?_) ?_
    | with_reducible refine Keeps.ite (fun _ => ?_) (fun _ => ?_) | with_reducible refine KeepsCore.same ?_
    | dsimp only | simp only [keeps_mk_iff] | split

theorem execPreemptMovesDone_keeps {r₀ : State} (context : Nat) (bad : BadMoves) (s : State) (hk : Keeps r₀ s) :
    KeepsOut r₀ (execPreemptMovesDone context bad s) := by
  unfold execPreemptMovesDone
  refine act_keeps hk ?_
  repeat' first
    | with_reducible assumption | with_reducible apply act_keeps | with_reducible apply State.preemptMoved_keeps
    | with_reducible refine Keeps.ite (fun _ => ?_) (fun _ => ?_) | with_reducible refine KeepsCore.same ?_ | intro _
    | dsimp only | simp only [keeps_mk_iff] | split

theorem State.dropContext_keeps {r₀ : State} (s : State) (ctx : Nat) (hk : Keeps r₀ s) :
    Keeps r₀ (State.dropContext s ctx) := by
  unfold State.dropContext
  repeat' first
    | with_reducible assumption | with_reducible apply State.leaveBasins_keeps
    | with_reducible apply State.completeNode_keeps | with_reducible refine Keeps.ite (fun _ => ?_) (fun _ => ?_)
    | with_reducible refine KeepsCore.same ?_ | dsimp only | simp only [keeps_mk_iff] | split

theorem State.dropIncoming_keeps {r₀ : State} (s : State) (c : Nat) (hk : Keeps r₀ s) :
    Keeps r₀ (State.dropIncoming s c) := by
  unfold State.dropIncoming
  repeat' first
    | with_reducible assumption | with_reducible apply State.chargeRest_keeps
    | with_reducible apply State.endPreemption_keeps | with_reducible refine Keeps.foldl (fun s a hk => ?_) ?_
    | with_reducible refine Keeps.foldl_fst (fun s b a hk => ?_) ?_
    | with_reducible refine Keeps.foldl_snd (fun b s a hk => ?_) ?_
    | with_reducible refine Keeps.ite (fun _ => ?_) (fun _ => ?_) | with_reducible refine KeepsCore.same ?_
    | dsimp only | simp only [keeps_mk_iff] | split

theorem State.teardownStopped_keeps {r₀ : State} (s : State) (c : Nat) (hk : Keeps r₀ s) :
    Keeps r₀ (State.teardownStopped s c) := by
  unfold State.teardownStopped
  repeat' first
    | with_reducible assumption | with_reducible apply State.teardown_keeps
    | with_reducible apply State.dropContext_keeps | with_reducible apply State.dropIncoming_keeps
    | with_reducible apply State.generationAdvance_keeps | with_reducible apply State.kvcGenDrop_keeps
    | with_reducible apply State.scrubFree_keeps | with_reducible apply State.modConsist_keeps
    | with_reducible refine Keeps.foldl (fun s a hk => ?_) ?_
    | with_reducible refine Keeps.foldl_fst (fun s b a hk => ?_) ?_
    | with_reducible refine Keeps.foldl_snd (fun b s a hk => ?_) ?_
    | with_reducible refine Keeps.ite (fun _ => ?_) (fun _ => ?_) | with_reducible refine KeepsCore.same ?_
    | dsimp only | simp only [keeps_mk_iff] | split

theorem execTeardownRanksStopped_keeps {r₀ : State} (consist : Nat) (s : State) (hk : Keeps r₀ s) :
    KeepsOut r₀ (execTeardownRanksStopped consist s) := by
  unfold execTeardownRanksStopped
  refine act_keeps hk ?_
  repeat' first
    | with_reducible assumption | with_reducible apply act_keeps | with_reducible apply State.teardownStopped_keeps
    | with_reducible refine Keeps.ite (fun _ => ?_) (fun _ => ?_) | with_reducible refine KeepsCore.same ?_ | intro _
    | dsimp only | simp only [keeps_mk_iff] | split

theorem State.releaseSiding_keeps {r₀ : State} (s : State) (c tag : Nat) (hk : Keeps r₀ s) :
    Keeps r₀ (State.releaseSiding s c tag) := by
  unfold State.releaseSiding
  repeat' first
    | with_reducible assumption | with_reducible apply State.modOwner_keeps
    | with_reducible refine Keeps.foldl (fun s a hk => ?_) ?_
    | with_reducible refine Keeps.ite (fun _ => ?_) (fun _ => ?_) | with_reducible refine KeepsCore.same ?_
    | dsimp only | simp only [keeps_mk_iff] | split

theorem State.releaseConsist_keeps {r₀ : State} (s : State) (c : Nat) (hk : Keeps r₀ s) :
    Keeps r₀ (State.releaseConsist s c) := by
  unfold State.releaseConsist
  repeat' first
    | with_reducible assumption | with_reducible apply State.releaseSiding_keeps
    | with_reducible apply State.kvcDestroy_keeps | with_reducible apply State.rtsRelease_keeps
    | with_reducible refine Keeps.foldl (fun s a hk => ?_) ?_
    | with_reducible refine Keeps.ite (fun _ => ?_) (fun _ => ?_) | with_reducible refine KeepsCore.same ?_
    | dsimp only | simp only [keeps_mk_iff] | split

theorem State.teardownDone_keeps {r₀ : State} (s : State) (c : Nat) (hk : Keeps r₀ s) :
    Keeps r₀ (State.teardownDone s c) := by
  unfold State.teardownDone
  repeat' first
    | with_reducible assumption | with_reducible apply State.teardown_keeps | with_reducible apply State.msi_keeps
    | with_reducible apply State.releaseConsist_keeps | with_reducible apply State.modConsist_keeps
    | with_reducible refine Keeps.ite (fun _ => ?_) (fun _ => ?_) | with_reducible refine KeepsCore.same ?_
    | dsimp only | simp only [keeps_mk_iff] | split

theorem execTeardownScrubDone_keeps {r₀ : State} (consist : Nat) (s : State) (hk : Keeps r₀ s) :
    KeepsOut r₀ (execTeardownScrubDone consist s) := by
  unfold execTeardownScrubDone
  refine act_keeps hk ?_
  repeat' first
    | with_reducible assumption | with_reducible apply act_keeps | with_reducible apply State.teardownDone_keeps
    | with_reducible refine Keeps.ite (fun _ => ?_) (fun _ => ?_) | with_reducible refine KeepsCore.same ?_ | intro _
    | dsimp only | simp only [keeps_mk_iff] | split

theorem State.leaseCheck_keeps {r₀ : State} (s : State) (hk : Keeps r₀ s) :
    Keeps r₀ (State.leaseCheck s) := by
  unfold State.leaseCheck
  repeat' first
    | with_reducible assumption | with_reducible apply State.teardown_keeps
    | with_reducible refine Keeps.foldl (fun s a hk => ?_) ?_
    | with_reducible refine Keeps.foldl_fst (fun s b a hk => ?_) ?_
    | with_reducible refine Keeps.foldl_snd (fun b s a hk => ?_) ?_
    | with_reducible refine Keeps.ite (fun _ => ?_) (fun _ => ?_) | with_reducible refine KeepsCore.same ?_
    | dsimp only | simp only [keeps_mk_iff] | split

theorem execLeaseCheck_keeps {r₀ : State} (s : State) (hk : Keeps r₀ s) :
    KeepsOut r₀ (execLeaseCheck s) := by
  unfold execLeaseCheck
  refine act_keeps hk ?_
  repeat' first
    | with_reducible assumption | with_reducible apply act_keeps | with_reducible apply State.leaseCheck_keeps
    | with_reducible refine Keeps.ite (fun _ => ?_) (fun _ => ?_) | with_reducible refine KeepsCore.same ?_ | intro _
    | dsimp only | simp only [keeps_mk_iff] | split

theorem execKick_keeps {r₀ : State} (consist tag : Nat) (s : State) (hk : Keeps r₀ s) :
    KeepsOut r₀ (execKick consist tag s) := by
  unfold execKick
  refine act_keeps hk ?_
  repeat' first
    | with_reducible assumption | with_reducible apply act_keeps | with_reducible apply State.teardown_keeps
    | with_reducible apply State.modConsist_keeps | with_reducible refine Keeps.ite (fun _ => ?_) (fun _ => ?_)
    | with_reducible refine KeepsCore.same ?_ | intro _ | dsimp only | simp only [keeps_mk_iff] | split

theorem execCstBankPwr_keeps {r₀ : State} (consist value : Nat) (s : State) (hk : Keeps r₀ s) :
    KeepsOut r₀ (execCstBankPwr consist value s) := by
  unfold execCstBankPwr
  refine act_keeps hk ?_
  repeat' first
    | with_reducible assumption | with_reducible apply act_keeps | with_reducible apply State.bankCtlWrite_keeps
    | with_reducible apply State.setSlot_keeps | with_reducible refine Keeps.ite (fun _ => ?_) (fun _ => ?_)
    | with_reducible refine KeepsCore.same ?_ | intro _ | dsimp only | simp only [keeps_mk_iff] | split

theorem execTtbSlowClear_keeps {r₀ : State} (value : Nat) (s : State) (hk : Keeps r₀ s) :
    KeepsOut r₀ (execTtbSlowClear value s) := by
  unfold execTtbSlowClear
  refine act_keeps hk ?_
  repeat' first
    | with_reducible assumption | with_reducible apply act_keeps
    | with_reducible refine Keeps.ite (fun _ => ?_) (fun _ => ?_) | with_reducible refine KeepsCore.same ?_ | intro _
    | dsimp only | simp only [keeps_mk_iff] | split

theorem execPreemptClear_keeps {r₀ : State} (s : State) (hk : Keeps r₀ s) :
    KeepsOut r₀ (execPreemptClear s) := by
  unfold execPreemptClear
  refine act_keeps hk ?_
  repeat' first
    | with_reducible assumption | with_reducible apply act_keeps
    | with_reducible refine Keeps.ite (fun _ => ?_) (fun _ => ?_) | with_reducible refine KeepsCore.same ?_ | intro _
    | dsimp only | simp only [keeps_mk_iff] | split

theorem execCancel_keeps {r₀ : State} (ring : Nat) (s : State) (hk : Keeps r₀ s) :
    KeepsOut r₀ (execCancel ring s) := by
  unfold execCancel
  refine act_keeps hk ?_
  repeat' first
    | with_reducible assumption | with_reducible apply act_keeps | with_reducible apply State.cancelRing_keeps
    | with_reducible apply State.cancelRoutes_keeps | with_reducible refine Keeps.ite (fun _ => ?_) (fun _ => ?_)
    | with_reducible refine KeepsCore.same ?_ | intro _ | dsimp only | simp only [keeps_mk_iff] | split

theorem State.bankAccess_keeps {r₀ : State} (s : State) (k : Nat) (r : BankReq) (hk : Keeps r₀ s) :
    Keeps r₀ (State.bankAccess s k r) := by
  unfold State.bankAccess
  repeat' first
    | with_reducible assumption | with_reducible apply State.bankMeet_keeps
    | with_reducible apply State.failContext_keeps | with_reducible refine Keeps.ite (fun _ => ?_) (fun _ => ?_)
    | with_reducible refine KeepsCore.same ?_ | dsimp only | simp only [keeps_mk_iff] | split

theorem execBankAccess_keeps {r₀ : State} (bank : Nat) (req : BankReq) (s : State) (hk : Keeps r₀ s) :
    KeepsOut r₀ (execBankAccess bank req s) := by
  unfold execBankAccess
  refine act_keeps hk ?_
  repeat' first
    | with_reducible assumption | with_reducible apply act_keeps | with_reducible apply State.bankAccess_keeps
    | with_reducible refine Keeps.ite (fun _ => ?_) (fun _ => ?_) | with_reducible refine KeepsCore.same ?_ | intro _
    | dsimp only | simp only [keeps_mk_iff] | split

end Sys2Proof.Machine
end

