-- ==== Sys2Proof/Laws/KeepsPower.lean ====
section
/-! SUPPORT. What the operations of Machine/Power.lean keep. -/

namespace Sys2Proof.Machine

open Sys2Proof.Laws

theorem State.modPwr_keeps {r₀ : State} (s : State) (f : Pwr → Pwr) (hk : Keeps r₀ s) :
    Keeps r₀ (State.modPwr s f) := by
  unfold State.modPwr
  repeat' first
    | with_reducible assumption | with_reducible refine Keeps.ite (fun _ => ?_) (fun _ => ?_)
    | with_reducible refine KeepsCore.same ?_ | dsimp only | simp only [keeps_mk_iff] | split

theorem State.modDom_keeps {r₀ : State} (s : State) (d : Nat) (f : PwrDom → PwrDom) (hk : Keeps r₀ s) :
    Keeps r₀ (State.modDom s d f) := by
  unfold State.modDom
  repeat' first
    | with_reducible assumption | with_reducible apply State.modPwr_keeps
    | with_reducible refine Keeps.ite (fun _ => ?_) (fun _ => ?_) | with_reducible refine KeepsCore.same ?_
    | dsimp only | simp only [keeps_mk_iff] | split

theorem State.domainLost_keeps {r₀ : State} (s : State) (x0 : PwrKind) (hk : Keeps r₀ s) :
    Keeps r₀ (State.domainLost s x0) := by
  unfold State.domainLost
  repeat' first
    | with_reducible assumption | with_reducible apply State.modRts_keeps | with_reducible apply State.modCam_keeps
    | with_reducible apply State.modSide_keeps | with_reducible apply State.portChanged_keeps
    | with_reducible apply State.modPts_keeps | with_reducible refine Keeps.foldl (fun s a hk => ?_) ?_
    | with_reducible refine Keeps.foldl_fst (fun s b a hk => ?_) ?_
    | with_reducible refine Keeps.foldl_snd (fun b s a hk => ?_) ?_
    | with_reducible refine Keeps.ite (fun _ => ?_) (fun _ => ?_) | with_reducible refine KeepsCore.same ?_
    | refine KeepsCore.memory ?_ (memWfFrom_filter _) | dsimp only | simp only [keeps_mk_iff] | split

theorem State.setDomain_keeps {r₀ : State} (s : State) (k : PwrKind) (st : Nat) (hk : Keeps r₀ s) :
    Keeps r₀ (State.setDomain s k st) := by
  unfold State.setDomain
  repeat' first
    | with_reducible assumption | with_reducible apply State.modPwr_keeps | with_reducible apply State.clockStep_keeps
    | with_reducible apply State.modClock_keeps | with_reducible refine Keeps.ite (fun _ => ?_) (fun _ => ?_)
    | with_reducible refine KeepsCore.same ?_ | dsimp only | simp only [keeps_mk_iff] | split

theorem State.startDomain_keeps {r₀ : State} (s : State) (d : Nat) (k : PwrKind) (st : Nat) (hk : Keeps r₀ s) :
    Keeps r₀ (State.startDomain s d k st) := by
  unfold State.startDomain
  repeat' first
    | with_reducible assumption | with_reducible apply State.modDom_keeps | with_reducible apply State.modPwr_keeps
    | with_reducible apply State.modClock_keeps | with_reducible refine Keeps.ite (fun _ => ?_) (fun _ => ?_)
    | with_reducible refine KeepsCore.same ?_ | dsimp only | simp only [keeps_mk_iff] | split

theorem State.bankPower_keeps {r₀ : State} (s : State) (k st : Nat) (pastIsolation : Bool) (hk : Keeps r₀ s) :
    Keeps r₀ (State.bankPower s k st pastIsolation) := by
  unfold State.bankPower
  repeat' first
    | with_reducible assumption | with_reducible apply State.bankCtlWrite_keeps
    | with_reducible refine Keeps.ite (fun _ => ?_) (fun _ => ?_) | with_reducible refine KeepsCore.same ?_
    | dsimp only | simp only [keeps_mk_iff] | split

theorem State.applyPower_keeps {r₀ : State} (s : State) (d : Nat) (k : PwrKind) (st tag : Nat) (hartsStopped past released : Bool) (hk : Keeps r₀ s) :
    Keeps r₀ (State.applyPower s d k st tag hartsStopped past released).1 := by
  unfold State.applyPower
  repeat' first
    | with_reducible assumption | with_reducible apply State.modPwr_keeps | with_reducible apply State.modDom_keeps
    | with_reducible apply State.bankPower_keeps | with_reducible apply State.setDomain_keeps
    | with_reducible apply State.startDomain_keeps | with_reducible refine Keeps.ite (fun _ => ?_) (fun _ => ?_)
    | with_reducible refine KeepsCore.same ?_ | dsimp only | simp only [keeps_mk_iff] | split

theorem State.holdSecure_keeps {r₀ : State} (s : State) (d st tag : Nat) (hk : Keeps r₀ s) :
    Keeps r₀ (State.holdSecure s d st tag) := by
  unfold State.holdSecure
  repeat' first
    | with_reducible assumption | with_reducible apply State.modPwr_keeps | with_reducible apply State.trace_keeps
    | with_reducible refine Keeps.ite (fun _ => ?_) (fun _ => ?_) | with_reducible refine KeepsCore.same ?_
    | dsimp only | simp only [keeps_mk_iff] | split

theorem State.setPower_keeps {r₀ : State} (s : State) (d st tag : Nat) (hartsStopped past : Bool) (hk : Keeps r₀ s) :
    Keeps r₀ (State.setPower s d st tag hartsStopped past).1 := by
  unfold State.setPower
  repeat' first
    | with_reducible assumption | with_reducible apply State.modPwr_keeps
    | with_reducible apply State.holdSecure_keeps | with_reducible apply State.applyPower_keeps
    | with_reducible refine Keeps.ite (fun _ => ?_) (fun _ => ?_) | with_reducible refine KeepsCore.same ?_
    | dsimp only | simp only [keeps_mk_iff] | split

theorem execSetState_keeps {r₀ : State} (hartsStopped past : Bool) (s : State) (hk : Keeps r₀ s) :
    KeepsOut r₀ (execSetState hartsStopped past s) := by
  unfold execSetState
  refine act_keeps hk ?_
  repeat' first
    | with_reducible assumption | with_reducible apply act_keeps | with_reducible apply State.serve_keeps
    | with_reducible apply State.setPower_keeps | with_reducible refine Keeps.ite (fun _ => ?_) (fun _ => ?_)
    | with_reducible refine KeepsCore.same ?_ | intro _ | dsimp only | simp only [keeps_mk_iff] | split

theorem execPowerQuery_keeps {r₀ : State} (s : State) (hk : Keeps r₀ s) :
    KeepsOut r₀ (execPowerQuery s) := by
  unfold execPowerQuery
  refine act_keeps hk ?_
  repeat' first
    | with_reducible assumption | with_reducible apply act_keeps | with_reducible apply State.serve_keeps
    | with_reducible refine Keeps.ite (fun _ => ?_) (fun _ => ?_) | with_reducible refine KeepsCore.same ?_ | intro _
    | dsimp only | simp only [keeps_mk_iff] | split

theorem execSetPkgLimit_keeps {r₀ : State} (s : State) (hk : Keeps r₀ s) :
    KeepsOut r₀ (execSetPkgLimit s) := by
  unfold execSetPkgLimit
  refine act_keeps hk ?_
  repeat' first
    | with_reducible assumption | with_reducible apply act_keeps | with_reducible apply State.serve_keeps
    | with_reducible apply State.modPwr_keeps | with_reducible refine Keeps.ite (fun _ => ?_) (fun _ => ?_)
    | with_reducible refine KeepsCore.same ?_ | intro _ | dsimp only | simp only [keeps_mk_iff] | split

theorem State.deferHold_keeps {r₀ : State} (s : State) (h : PwrHold) (hk : Keeps r₀ s) :
    Keeps r₀ (State.deferHold s h) := by
  unfold State.deferHold
  repeat' first
    | with_reducible assumption | with_reducible apply State.modPwr_keeps | with_reducible apply State.trace_keeps
    | with_reducible refine Keeps.ite (fun _ => ?_) (fun _ => ?_) | with_reducible refine KeepsCore.same ?_
    | dsimp only | simp only [keeps_mk_iff] | split

theorem State.proceed_keeps {r₀ : State} (s : State) (h : PwrHold) (hartsStopped past : Bool) (hk : Keeps r₀ s) :
    Keeps r₀ (State.proceed s h hartsStopped past) := by
  unfold State.proceed
  repeat' first
    | with_reducible assumption | with_reducible apply State.modPwr_keeps
    | with_reducible apply State.applyPower_keeps | with_reducible refine Keeps.ite (fun _ => ?_) (fun _ => ?_)
    | with_reducible refine KeepsCore.same ?_ | dsimp only | simp only [keeps_mk_iff] | split

theorem execPowerHeldProceed_keeps {r₀ : State} (domain : Nat) (hartsStopped : Bool) (s : State) (hk : Keeps r₀ s) :
    KeepsOut r₀ (execPowerHeldProceed domain hartsStopped s) := by
  unfold execPowerHeldProceed
  refine act_keeps hk ?_
  repeat' first
    | with_reducible assumption | with_reducible apply act_keeps | with_reducible apply State.deferHold_keeps
    | with_reducible apply State.proceed_keeps | with_reducible refine Keeps.ite (fun _ => ?_) (fun _ => ?_)
    | with_reducible refine KeepsCore.same ?_ | intro _ | dsimp only | simp only [keeps_mk_iff] | split

theorem execSecureRel_keeps {r₀ : State} (tag domain : Nat) (hartsStopped : Bool) (s : State) (hk : Keeps r₀ s) :
    KeepsOut r₀ (execSecureRel tag domain hartsStopped s) := by
  unfold execSecureRel
  refine act_keeps hk ?_
  repeat' first
    | with_reducible assumption | with_reducible apply act_keeps | with_reducible apply State.modPwr_keeps
    | with_reducible apply State.proceed_keeps | with_reducible refine Keeps.ite (fun _ => ?_) (fun _ => ?_)
    | with_reducible refine KeepsCore.same ?_ | intro _ | dsimp only | simp only [keeps_mk_iff] | split

theorem execDomainShutdownDone_keeps {r₀ : State} (domain : Nat) (s : State) (hk : Keeps r₀ s) :
    KeepsOut r₀ (execDomainShutdownDone domain s) := by
  unfold execDomainShutdownDone
  refine act_keeps hk ?_
  repeat' first
    | with_reducible assumption | with_reducible apply act_keeps | with_reducible apply State.setDomain_keeps
    | with_reducible apply State.domainLost_keeps | with_reducible apply State.modDom_keeps
    | with_reducible apply State.startDomain_keeps | with_reducible refine Keeps.ite (fun _ => ?_) (fun _ => ?_)
    | with_reducible refine KeepsCore.same ?_ | intro _ | dsimp only | simp only [keeps_mk_iff] | split

theorem execDomainPowerUpDone_keeps {r₀ : State} (domain : Nat) (s : State) (hk : Keeps r₀ s) :
    KeepsOut r₀ (execDomainPowerUpDone domain s) := by
  unfold execDomainPowerUpDone
  refine act_keeps hk ?_
  repeat' first
    | with_reducible assumption | with_reducible apply act_keeps | with_reducible apply State.setDomain_keeps
    | with_reducible apply State.modDom_keeps | with_reducible apply State.modMport_keeps
    | with_reducible apply State.portChanged_keeps | with_reducible refine Keeps.ite (fun _ => ?_) (fun _ => ?_)
    | with_reducible refine KeepsCore.same ?_ | intro _ | dsimp only | simp only [keeps_mk_iff] | split

theorem State.modTerr_keeps {r₀ : State} (s : State) (t : Nat) (f : Terr → Terr) (hk : Keeps r₀ s) :
    Keeps r₀ (State.modTerr s t f) := by
  unfold State.modTerr
  repeat' first
    | with_reducible assumption | with_reducible apply State.modPwr_keeps
    | with_reducible refine Keeps.ite (fun _ => ?_) (fun _ => ?_) | with_reducible refine KeepsCore.same ?_
    | dsimp only | simp only [keeps_mk_iff] | split

theorem State.setPoint_keeps {r₀ : State} (s : State) (t p : Nat) (hk : Keeps r₀ s) :
    Keeps r₀ (State.setPoint s t p) := by
  unfold State.setPoint
  repeat' first
    | with_reducible assumption | with_reducible apply State.modTerr_keeps | with_reducible apply State.modClock_keeps
    | with_reducible refine Keeps.ite (fun _ => ?_) (fun _ => ?_) | with_reducible refine KeepsCore.same ?_
    | dsimp only | simp only [keeps_mk_iff] | split

theorem State.voltageStep_keeps {r₀ : State} (s : State) (t : Nat) (slack : Int) (hk : Keeps r₀ s) :
    Keeps r₀ (State.voltageStep s t slack) := by
  unfold State.voltageStep
  repeat' first
    | with_reducible assumption | with_reducible apply State.modTerr_keeps
    | with_reducible refine Keeps.ite (fun _ => ?_) (fun _ => ?_) | with_reducible refine KeepsCore.same ?_
    | dsimp only | simp only [keeps_mk_iff] | split

theorem execDvfsLoop_keeps {r₀ : State} (slacks : List Int) (tjs : List Nat) (s : State) (hk : Keeps r₀ s) :
    KeepsOut r₀ (execDvfsLoop slacks tjs s) := by
  unfold execDvfsLoop
  refine act_keeps hk ?_
  repeat' first
    | with_reducible assumption | with_reducible apply act_keeps | with_reducible apply State.voltageStep_keeps
    | with_reducible apply State.modTerr_keeps | with_reducible refine Keeps.foldl (fun s a hk => ?_) ?_
    | with_reducible refine Keeps.ite (fun _ => ?_) (fun _ => ?_) | with_reducible refine KeepsCore.same ?_ | intro _
    | dsimp only | simp only [keeps_mk_iff] | split

theorem execPkgPowerLoop_keeps {r₀ : State} (mean : Nat) (powers : List Nat) (s : State) (hk : Keeps r₀ s) :
    KeepsOut r₀ (execPkgPowerLoop mean powers s) := by
  unfold execPkgPowerLoop
  refine act_keeps hk ?_
  repeat' first
    | with_reducible assumption | with_reducible apply act_keeps | with_reducible apply State.modPwr_keeps
    | with_reducible apply State.setPoint_keeps | with_reducible apply State.trace_keeps
    | with_reducible refine Keeps.ite (fun _ => ?_) (fun _ => ?_) | with_reducible refine KeepsCore.same ?_ | intro _
    | dsimp only | simp only [keeps_mk_iff] | split

theorem execThermalStep_keeps {r₀ : State} (terrace tj : Nat) (s : State) (hk : Keeps r₀ s) :
    KeepsOut r₀ (execThermalStep terrace tj s) := by
  unfold execThermalStep
  refine act_keeps hk ?_
  repeat' first
    | with_reducible assumption | with_reducible apply act_keeps | with_reducible apply State.modTerr_keeps
    | with_reducible apply State.setPoint_keeps | with_reducible refine Keeps.ite (fun _ => ?_) (fun _ => ?_)
    | with_reducible refine KeepsCore.same ?_ | intro _ | dsimp only | simp only [keeps_mk_iff] | split

theorem State.revoke_keeps {r₀ : State} (s : State) (d w : Nat) (hk : Keeps r₀ s) :
    Keeps r₀ (State.revoke s d w) := by
  unfold State.revoke
  repeat' first
    | with_reducible assumption | with_reducible apply State.msi_keeps
    | with_reducible refine Keeps.ite (fun _ => ?_) (fun _ => ?_) | with_reducible refine KeepsCore.same ?_
    | dsimp only | simp only [keeps_mk_iff] | split

theorem State.scrubSecureBank_keeps {r₀ : State} (s : State) (k : Nat) (hk : Keeps r₀ s) :
    Keeps r₀ (State.scrubSecureBank s k) := by
  unfold State.scrubSecureBank
  repeat' first
    | with_reducible assumption | with_reducible apply State.scrubFree_keeps
    | with_reducible refine Keeps.ite (fun _ => ?_) (fun _ => ?_) | with_reducible refine KeepsCore.same ?_
    | dsimp only | simp only [keeps_mk_iff] | split

theorem State.emergencyScrub_keeps {r₀ : State} (s : State) (x0 : PwrKind) (hk : Keeps r₀ s) :
    Keeps r₀ (State.emergencyScrub s x0) := by
  unfold State.emergencyScrub
  repeat' first
    | with_reducible assumption | with_reducible apply State.scrubSecureBank_keeps
    | with_reducible apply State.modBasin_keeps | with_reducible apply State.rtsScrub_keeps
    | with_reducible apply State.asyncExit_keeps | with_reducible apply State.modHart_keeps
    | with_reducible apply State.flushWorlds_keeps | with_reducible refine Keeps.foldl (fun s a hk => ?_) ?_
    | with_reducible refine Keeps.ite (fun _ => ?_) (fun _ => ?_) | with_reducible refine KeepsCore.same ?_
    | dsimp only | simp only [keeps_mk_iff] | split

theorem State.cutDomain_keeps {r₀ : State} (s : State) (d : Nat) (hk : Keeps r₀ s) :
    Keeps r₀ (State.cutDomain s d) := by
  unfold State.cutDomain
  repeat' first
    | with_reducible assumption | with_reducible apply State.revoke_keeps
    | with_reducible apply State.emergencyScrub_keeps | with_reducible apply State.modPwr_keeps
    | with_reducible apply State.modDom_keeps | with_reducible apply State.finishHandover_keeps
    | with_reducible apply State.zeroBank_keeps | with_reducible apply State.modBank_keeps
    | with_reducible apply State.serveHeld_keeps | with_reducible apply State.settle_keeps
    | with_reducible apply State.setDomain_keeps | with_reducible refine Keeps.foldl (fun s a hk => ?_) ?_
    | with_reducible refine Keeps.ite (fun _ => ?_) (fun _ => ?_) | with_reducible refine KeepsCore.same ?_
    | dsimp only | simp only [keeps_mk_iff] | split

theorem State.cutSegment_keeps {r₀ : State} (s : State) (g : Nat) (hk : Keeps r₀ s) :
    Keeps r₀ (State.cutSegment s g) := by
  unfold State.cutSegment
  repeat' first
    | with_reducible assumption | with_reducible apply State.cutDomain_keeps | with_reducible apply State.modPwr_keeps
    | with_reducible apply State.trace_keeps | with_reducible refine Keeps.foldl (fun s a hk => ?_) ?_
    | with_reducible refine Keeps.ite (fun _ => ?_) (fun _ => ?_) | with_reducible refine KeepsCore.same ?_
    | dsimp only | simp only [keeps_mk_iff] | split

theorem State.deferUpdate_keeps {r₀ : State} (s : State) (hk : Keeps r₀ s) :
    Keeps r₀ (State.deferUpdate s) := by
  unfold State.deferUpdate
  repeat' first
    | with_reducible assumption | with_reducible apply State.trace_keeps
    | with_reducible refine Keeps.ite (fun _ => ?_) (fun _ => ?_) | with_reducible refine KeepsCore.same ?_
    | dsimp only | simp only [keeps_mk_iff] | split

theorem State.clampStep_keeps {r₀ : State} (s : State) (hk : Keeps r₀ s) :
    Keeps r₀ (State.clampStep s) := by
  unfold State.clampStep
  repeat' first
    | with_reducible assumption | with_reducible apply State.modClock_keeps
    | with_reducible refine Keeps.foldl (fun s a hk => ?_) ?_
    | with_reducible refine Keeps.ite (fun _ => ?_) (fun _ => ?_) | with_reducible refine KeepsCore.same ?_
    | dsimp only | simp only [keeps_mk_iff] | split

theorem execClampSample_keeps {r₀ : State} (temps currents : List Nat) (instant : Nat) (s : State) (hk : Keeps r₀ s) :
    KeepsOut r₀ (execClampSample temps currents instant s) := by
  unfold execClampSample
  refine act_keeps hk ?_
  repeat' first
    | with_reducible assumption | with_reducible apply act_keeps | with_reducible apply State.reach_keeps
    | with_reducible apply State.modPwr_keeps | with_reducible apply State.deferUpdate_keeps
    | with_reducible apply State.clampStep_keeps | with_reducible apply State.trace_keeps
    | with_reducible apply State.cutSegment_keeps | with_reducible refine Keeps.foldl (fun s a hk => ?_) ?_
    | with_reducible refine Keeps.ite (fun _ => ?_) (fun _ => ?_) | with_reducible refine KeepsCore.same ?_ | intro _
    | dsimp only | simp only [keeps_mk_iff] | split

theorem execClampIdle_keeps {r₀ : State} (s : State) (hk : Keeps r₀ s) :
    KeepsOut r₀ (execClampIdle s) := by
  unfold execClampIdle
  refine act_keeps hk ?_
  repeat' first
    | with_reducible assumption | with_reducible apply act_keeps | with_reducible apply State.reach_keeps
    | with_reducible apply State.modPwr_keeps | with_reducible apply State.clampStep_keeps
    | with_reducible apply State.trace_keeps | with_reducible refine Keeps.ite (fun _ => ?_) (fun _ => ?_)
    | with_reducible refine KeepsCore.same ?_ | intro _ | dsimp only | simp only [keeps_mk_iff] | split

theorem execWatchdogExpire_keeps {r₀ : State} (s : State) (hk : Keeps r₀ s) :
    KeepsOut r₀ (execWatchdogExpire s) := by
  unfold execWatchdogExpire
  refine act_keeps hk ?_
  repeat' first
    | with_reducible assumption | with_reducible apply act_keeps | with_reducible apply State.setPoint_keeps
    | with_reducible apply State.modTerr_keeps | with_reducible refine Keeps.foldl (fun s a hk => ?_) ?_
    | with_reducible refine Keeps.ite (fun _ => ?_) (fun _ => ?_) | with_reducible refine KeepsCore.same ?_ | intro _
    | dsimp only | simp only [keeps_mk_iff] | split

theorem execIslandSupplySwitch_keeps {r₀ : State} (s : State) (hk : Keeps r₀ s) :
    KeepsOut r₀ (execIslandSupplySwitch s) := by
  unfold execIslandSupplySwitch
  refine act_keeps hk ?_
  repeat' first
    | with_reducible assumption | with_reducible apply act_keeps | with_reducible apply State.modPwr_keeps
    | with_reducible apply State.latch_keeps | with_reducible refine Keeps.ite (fun _ => ?_) (fun _ => ?_)
    | with_reducible refine KeepsCore.same ?_ | decide | intro _ | dsimp only | simp only [keeps_mk_iff] | split

theorem execBackupSupplyLow_keeps {r₀ : State} (s : State) (hk : Keeps r₀ s) :
    KeepsOut r₀ (execBackupSupplyLow s) := by
  unfold execBackupSupplyLow
  refine act_keeps hk ?_
  repeat' first
    | with_reducible assumption | with_reducible apply act_keeps | with_reducible apply State.modPwr_keeps
    | with_reducible apply State.report_keeps | with_reducible refine Keeps.ite (fun _ => ?_) (fun _ => ?_)
    | with_reducible refine KeepsCore.same ?_ | intro _ | dsimp only | simp only [keeps_mk_iff] | split

theorem execIslandSupplyLoss_keeps {r₀ : State} (s : State) (hk : Keeps r₀ s) : KeepsOut r₀ (execIslandSupplyLoss s) :=
  KeepsOut.next (KeepsCore.lowered (s := s) hk rfl rfl)

end Sys2Proof.Machine
end

