-- ==== Sys2Proof/Laws/KeepsClocks.lean ====
section
/-! SUPPORT. What the operations of Machine/Clocks.lean keep. -/

namespace Sys2Proof.Machine

open Sys2Proof.Laws

theorem State.clockFault_keeps {r₀ : State} (s : State) (d : Nat) (hk : Keeps r₀ s) :
    Keeps r₀ (State.clockFault s d) := by
  unfold State.clockFault
  repeat' first
    | with_reducible assumption | with_reducible apply State.latch_keeps
    | with_reducible apply State.withdrawTime_keeps | with_reducible apply State.report_keeps
    | with_reducible refine Keeps.ite (fun _ => ?_) (fun _ => ?_) | with_reducible refine KeepsCore.same ?_
    | with_reducible refine KeepsCore.ilk ?_ rfl | decide | dsimp only | simp only [keeps_mk_iff] | split

theorem execClockMonitorWindow_keeps {r₀ : State} (counts : List (Nat × Nat)) (locked : List Nat) (pixelKHz : List Nat) (s : State) (hk : Keeps r₀ s) :
    KeepsOut r₀ (execClockMonitorWindow counts locked pixelKHz s) := by
  unfold execClockMonitorWindow
  refine act_keeps hk ?_
  repeat' first
    | with_reducible assumption | with_reducible apply act_keeps | with_reducible apply State.clockFault_keeps
    | with_reducible apply State.reach_keeps | with_reducible refine Keeps.foldl (fun s a hk => ?_) ?_
    | with_reducible refine Keeps.foldl_fst (fun s b a hk => ?_) ?_
    | with_reducible refine Keeps.foldl_snd (fun b s a hk => ?_) ?_
    | with_reducible refine Keeps.ite (fun _ => ?_) (fun _ => ?_) | with_reducible refine KeepsCore.same ?_ | intro _
    | dsimp only | simp only [keeps_mk_iff] | split

theorem execRefClkLoss_keeps {r₀ : State} (s : State) (hk : Keeps r₀ s) :
    KeepsOut r₀ (execRefClkLoss s) := by
  unfold execRefClkLoss
  refine KeepsOut.next ?_
  repeat' first
    | with_reducible assumption | with_reducible apply State.latch_keeps
    | with_reducible refine Keeps.ite (fun _ => ?_) (fun _ => ?_) | with_reducible refine KeepsCore.same ?_
    | with_reducible refine KeepsCore.otherPins ?_ rfl | decide | dsimp only | simp only [keeps_mk_iff] | split

theorem execVddIoLoss_keeps {r₀ : State} (s : State) (hk : Keeps r₀ s) :
    KeepsOut r₀ (execVddIoLoss s) := by
  unfold execVddIoLoss
  refine KeepsOut.next ?_
  repeat' first
    | with_reducible assumption | with_reducible refine Keeps.ite (fun _ => ?_) (fun _ => ?_)
    | with_reducible refine KeepsCore.same ?_ | with_reducible refine KeepsCore.otherPins ?_ rfl | dsimp only
    | simp only [keeps_mk_iff] | split

end Sys2Proof.Machine
end

