-- ==== Sys2Proof/Laws/KeepsConsists.lean ====
section
/-! SUPPORT. What the operations of Machine/Consists.lean keep. -/

namespace Sys2Proof.Machine

open Sys2Proof.Laws

theorem State.carve_keeps {r₀ : State} (s : State) (tag : Nat) (b tpl : Bytes) (hk : Keeps r₀ s) :
    Keeps r₀ (State.carve s tag b tpl).1 := by
  unfold State.carve
  repeat' first
    | with_reducible assumption | with_reducible apply State.modOwner_keeps
    | with_reducible refine Keeps.foldl (fun s a hk => ?_) ?_
    | with_reducible refine Keeps.foldl_fst (fun s b a hk => ?_) ?_
    | with_reducible refine Keeps.foldl_snd (fun b s a hk => ?_) ?_
    | with_reducible refine Keeps.ite (fun _ => ?_) (fun _ => ?_) | with_reducible refine KeepsCore.same ?_
    | dsimp only | simp only [keeps_mk_iff] | split

theorem State.consistCreate_keeps {r₀ : State} (s : State) (r : MboxReq) (hk : Keeps r₀ s) :
    Keeps r₀ (State.consistCreate s r).1 := by
  unfold State.consistCreate
  repeat' first
    | with_reducible assumption | with_reducible apply State.carve_keeps
    | with_reducible refine Keeps.ite (fun _ => ?_) (fun _ => ?_) | with_reducible refine KeepsCore.same ?_
    | dsimp only | simp only [keeps_mk_iff] | split

theorem execConsistCreate_keeps {r₀ : State} (s : State) (hk : Keeps r₀ s) :
    KeepsOut r₀ (execConsistCreate s) := by
  unfold execConsistCreate
  refine act_keeps hk ?_
  repeat' first
    | with_reducible assumption | with_reducible apply act_keeps | with_reducible apply State.serve_keeps
    | with_reducible apply State.consistCreate_keeps | with_reducible refine Keeps.ite (fun _ => ?_) (fun _ => ?_)
    | with_reducible refine KeepsCore.same ?_ | intro _ | dsimp only | simp only [keeps_mk_iff] | split

theorem State.consistTear_keeps {r₀ : State} (cause : Nat) (s : State) (r : MboxReq) (hk : Keeps r₀ s) :
    Keeps r₀ (State.consistTear cause s r).1 := by
  unfold State.consistTear
  repeat' first
    | with_reducible assumption | with_reducible apply State.modConsist_keeps
    | with_reducible apply State.teardown_keeps | with_reducible refine Keeps.ite (fun _ => ?_) (fun _ => ?_)
    | with_reducible refine KeepsCore.same ?_ | dsimp only | simp only [keeps_mk_iff] | split

theorem execConsistDestroy_keeps {r₀ : State} (s : State) (hk : Keeps r₀ s) :
    KeepsOut r₀ (execConsistDestroy s) := by
  unfold execConsistDestroy
  refine act_keeps hk ?_
  repeat' first
    | with_reducible assumption | with_reducible apply act_keeps | with_reducible apply State.serve_keeps
    | with_reducible apply State.consistTear_keeps | with_reducible refine Keeps.ite (fun _ => ?_) (fun _ => ?_)
    | with_reducible refine KeepsCore.same ?_ | intro _ | dsimp only | simp only [keeps_mk_iff] | split

theorem execConsistReset_keeps {r₀ : State} (s : State) (hk : Keeps r₀ s) :
    KeepsOut r₀ (execConsistReset s) := by
  unfold execConsistReset
  refine act_keeps hk ?_
  repeat' first
    | with_reducible assumption | with_reducible apply act_keeps | with_reducible apply State.serve_keeps
    | with_reducible apply State.consistTear_keeps | with_reducible refine Keeps.ite (fun _ => ?_) (fun _ => ?_)
    | with_reducible refine KeepsCore.same ?_ | intro _ | dsimp only | simp only [keeps_mk_iff] | split

theorem State.setWeight_keeps {r₀ : State} (s : State) (r : MboxReq) (hk : Keeps r₀ s) :
    Keeps r₀ (State.setWeight s r).1 := by
  unfold State.setWeight
  repeat' first
    | with_reducible assumption | with_reducible apply State.modConsist_keeps
    | with_reducible refine Keeps.ite (fun _ => ?_) (fun _ => ?_) | with_reducible refine KeepsCore.same ?_
    | dsimp only | simp only [keeps_mk_iff] | split

theorem execSetWeight_keeps {r₀ : State} (s : State) (hk : Keeps r₀ s) :
    KeepsOut r₀ (execSetWeight s) := by
  unfold execSetWeight
  refine act_keeps hk ?_
  repeat' first
    | with_reducible assumption | with_reducible apply act_keeps | with_reducible apply State.serve_keeps
    | with_reducible apply State.setWeight_keeps | with_reducible refine Keeps.ite (fun _ => ?_) (fun _ => ?_)
    | with_reducible refine KeepsCore.same ?_ | intro _ | dsimp only | simp only [keeps_mk_iff] | split

theorem State.logStart_keeps {r₀ : State} (s : State) (r : MboxReq) (hk : Keeps r₀ s) :
    Keeps r₀ (State.logStart s r).1 := by
  unfold State.logStart
  repeat' first
    | with_reducible assumption | with_reducible apply State.modConsist_keeps
    | with_reducible refine Keeps.ite (fun _ => ?_) (fun _ => ?_) | with_reducible refine KeepsCore.same ?_
    | dsimp only | simp only [keeps_mk_iff] | split

theorem execLogStart_keeps {r₀ : State} (s : State) (hk : Keeps r₀ s) :
    KeepsOut r₀ (execLogStart s) := by
  unfold execLogStart
  refine act_keeps hk ?_
  repeat' first
    | with_reducible assumption | with_reducible apply act_keeps | with_reducible apply State.serve_keeps
    | with_reducible apply State.logStart_keeps | with_reducible refine Keeps.ite (fun _ => ?_) (fun _ => ?_)
    | with_reducible refine KeepsCore.same ?_ | intro _ | dsimp only | simp only [keeps_mk_iff] | split

theorem State.logSync_keeps {r₀ : State} (stop : Bool) (s : State) (r : MboxReq) (hk : Keeps r₀ s) :
    Keeps r₀ (State.logSync stop s r).1 := by
  unfold State.logSync
  repeat' first
    | with_reducible assumption | with_reducible apply State.modConsist_keeps
    | with_reducible refine Keeps.ite (fun _ => ?_) (fun _ => ?_) | with_reducible refine KeepsCore.same ?_
    | dsimp only | simp only [keeps_mk_iff] | split

theorem execLogFlip_keeps {r₀ : State} (s : State) (hk : Keeps r₀ s) :
    KeepsOut r₀ (execLogFlip s) := by
  unfold execLogFlip
  refine act_keeps hk ?_
  repeat' first
    | with_reducible assumption | with_reducible apply act_keeps | with_reducible apply State.serveLater_keeps
    | with_reducible apply State.logSync_keeps | with_reducible refine Keeps.ite (fun _ => ?_) (fun _ => ?_)
    | with_reducible refine KeepsCore.same ?_ | intro _ | dsimp only | simp only [keeps_mk_iff] | split

theorem execLogStop_keeps {r₀ : State} (s : State) (hk : Keeps r₀ s) :
    KeepsOut r₀ (execLogStop s) := by
  unfold execLogStop
  refine act_keeps hk ?_
  repeat' first
    | with_reducible assumption | with_reducible apply act_keeps | with_reducible apply State.serveLater_keeps
    | with_reducible apply State.logSync_keeps | with_reducible refine Keeps.ite (fun _ => ?_) (fun _ => ?_)
    | with_reducible refine KeepsCore.same ?_ | intro _ | dsimp only | simp only [keeps_mk_iff] | split

theorem execLogSyncDone_keeps {r₀ : State} (consist : Nat) (s : State) (hk : Keeps r₀ s) :
    KeepsOut r₀ (execLogSyncDone consist s) := by
  unfold execLogSyncDone
  refine act_keeps hk ?_
  repeat' first
    | with_reducible assumption | with_reducible apply act_keeps | with_reducible apply State.modConsist_keeps
    | with_reducible apply State.mboxAnswer_keeps | with_reducible refine Keeps.ite (fun _ => ?_) (fun _ => ?_)
    | with_reducible refine KeepsCore.same ?_ | intro _ | dsimp only | simp only [keeps_mk_iff] | split

theorem State.quiesce_keeps {r₀ : State} (s : State) (r : MboxReq) (hk : Keeps r₀ s) :
    Keeps r₀ (State.quiesce s r).1 := by
  unfold State.quiesce
  repeat' first
    | with_reducible assumption | with_reducible apply State.disarmRing_keeps
    | with_reducible apply State.modConsist_keeps | with_reducible refine Keeps.foldl (fun s a hk => ?_) ?_
    | with_reducible refine Keeps.foldl_fst (fun s b a hk => ?_) ?_
    | with_reducible refine Keeps.foldl_snd (fun b s a hk => ?_) ?_
    | with_reducible refine Keeps.ite (fun _ => ?_) (fun _ => ?_) | with_reducible refine KeepsCore.same ?_
    | dsimp only | simp only [keeps_mk_iff] | split

theorem execQuiesce_keeps {r₀ : State} (s : State) (hk : Keeps r₀ s) :
    KeepsOut r₀ (execQuiesce s) := by
  unfold execQuiesce
  refine act_keeps hk ?_
  repeat' first
    | with_reducible assumption | with_reducible apply act_keeps | with_reducible apply State.serveLater_keeps
    | with_reducible apply State.quiesce_keeps | with_reducible refine Keeps.ite (fun _ => ?_) (fun _ => ?_)
    | with_reducible refine KeepsCore.same ?_ | intro _ | dsimp only | simp only [keeps_mk_iff] | split

theorem State.parkAll_keeps {r₀ : State} (s : State) (c : Nat) (hk : Keeps r₀ s) :
    Keeps r₀ (State.parkAll s c).1 := by
  unfold State.parkAll
  repeat' first
    | with_reducible assumption | with_reducible apply State.moveAll_keeps
    | with_reducible apply State.leaveBasin_keeps | with_reducible apply State.putLines_keeps
    | with_reducible refine Keeps.ite (fun _ => ?_) (fun _ => ?_) | with_reducible refine KeepsCore.same ?_ | intro _
    | dsimp only | simp only [keeps_mk_iff] | split

theorem State.quiesceDone_keeps {r₀ : State} (s : State) (c : Nat) (hk : Keeps r₀ s) :
    Keeps r₀ (State.quiesceDone s c) := by
  unfold State.quiesceDone
  repeat' first
    | with_reducible assumption | with_reducible apply State.parkAll_keeps
    | with_reducible apply State.moverFault_keeps | with_reducible apply State.modConsist_keeps
    | with_reducible apply State.mboxAnswer_keeps | with_reducible refine Keeps.ite (fun _ => ?_) (fun _ => ?_)
    | with_reducible refine KeepsCore.same ?_ | dsimp only | simp only [keeps_mk_iff] | split

theorem execQuiesceDone_keeps {r₀ : State} (consist : Nat) (s : State) (hk : Keeps r₀ s) :
    KeepsOut r₀ (execQuiesceDone consist s) := by
  unfold execQuiesceDone
  refine act_keeps hk ?_
  repeat' first
    | with_reducible assumption | with_reducible apply act_keeps | with_reducible apply State.quiesceDone_keeps
    | with_reducible refine Keeps.ite (fun _ => ?_) (fun _ => ?_) | with_reducible refine KeepsCore.same ?_ | intro _
    | dsimp only | simp only [keeps_mk_iff] | split

theorem State.resume_keeps {r₀ : State} (s : State) (r : MboxReq) (hk : Keeps r₀ s) :
    Keeps r₀ (State.resume s r).1 := by
  unfold State.resume
  repeat' first
    | with_reducible assumption | with_reducible apply State.modConsist_keeps
    | with_reducible refine Keeps.ite (fun _ => ?_) (fun _ => ?_) | with_reducible refine KeepsCore.same ?_
    | dsimp only | simp only [keeps_mk_iff] | split

theorem execResume_keeps {r₀ : State} (s : State) (hk : Keeps r₀ s) :
    KeepsOut r₀ (execResume s) := by
  unfold execResume
  refine act_keeps hk ?_
  repeat' first
    | with_reducible assumption | with_reducible apply act_keeps | with_reducible apply State.serve_keeps
    | with_reducible apply State.resume_keeps | with_reducible refine Keeps.ite (fun _ => ?_) (fun _ => ?_)
    | with_reducible refine KeepsCore.same ?_ | intro _ | dsimp only | simp only [keeps_mk_iff] | split

end Sys2Proof.Machine
end

