-- ==== Sys2Proof/Laws/KeepsConv.lean ====
section
/-! SUPPORT. What the operations of Machine/Conv.lean keep. -/

namespace Sys2Proof.Machine

open Sys2Proof.Laws

theorem State.drainChannels_keeps {r₀ : State} (s : State) (n : Nat) (a : AccSet) (d : Drain) (hk : Keeps r₀ s) :
    Keeps r₀ (State.drainChannels s n a d) := by
  unfold State.drainChannels
  repeat' first
    | with_reducible assumption | with_reducible apply State.wr_keeps | with_reducible apply State.modBasin_keeps
    | with_reducible apply State.sendResidue_keeps | with_reducible refine Keeps.foldl (fun s a hk => ?_) ?_
    | with_reducible refine Keeps.foldl_fst (fun s b a hk => ?_) ?_
    | with_reducible refine Keeps.foldl_snd (fun b s a hk => ?_) ?_
    | with_reducible refine Keeps.ite (fun _ => ?_) (fun _ => ?_) | with_reducible refine KeepsCore.same ?_
    | dsimp only | simp only [keeps_mk_iff] | split

theorem ConvCmd.compute_keeps {r₀ : State} (q : ConvCmd) (d : ConvDesc) (c : FmtClass) (n : Nat) (s : State) (hk : Keeps r₀ s) :
    Keeps r₀ (ConvCmd.compute q d c n s).2 := by
  unfold ConvCmd.compute
  repeat' first
    | with_reducible assumption | with_reducible apply State.tileAcc_keeps
    | with_reducible apply State.drainChannels_keeps | with_reducible refine Keeps.ite (fun _ => ?_) (fun _ => ?_)
    | with_reducible refine KeepsCore.same ?_ | dsimp only | simp only [keeps_mk_iff] | split

theorem ConvCmd.run_keeps {r₀ : State} (q : ConvCmd) (n : Nat) (s : State) (hk : Keeps r₀ s) :
    Keeps r₀ (ConvCmd.run q n s).2 := by
  unfold ConvCmd.run
  repeat' first
    | with_reducible assumption | with_reducible apply State.askLines_keeps
    | with_reducible apply ConvCmd.compute_keeps | with_reducible refine Keeps.ite (fun _ => ?_) (fun _ => ?_)
    | with_reducible refine KeepsCore.same ?_ | dsimp only | simp only [keeps_mk_iff] | split

theorem execConv_keeps {r₀ : State} (basin : Nat) (s : State) (hk : Keeps r₀ s) :
    KeepsOut r₀ (execConv basin s) := by
  unfold execConv
  refine act_keeps hk ?_
  repeat' first
    | with_reducible assumption | with_reducible apply act_keeps | with_reducible apply State.runCmd_keeps
    | with_reducible apply Matmul.run_keeps | with_reducible apply DmaCmd.run_keeps
    | with_reducible apply RillCmd.run_keeps | with_reducible apply AttnEnv.run_keeps
    | with_reducible apply AttnCmd.run_keeps | with_reducible apply ConvCmd.run_keeps
    | with_reducible refine Keeps.ite (fun _ => ?_) (fun _ => ?_) | with_reducible refine KeepsCore.same ?_ | intro _
    | dsimp only | simp only [keeps_mk_iff] | split

end Sys2Proof.Machine
end

