-- ==== Sys2Proof/Laws/KeepsImage.lean ====
section
/-! SUPPORT. What the operations of Machine/Image.lean keep. -/

namespace Sys2Proof.Machine

open Sys2Proof.Laws

theorem State.marchedRow_keeps {r₀ : State} (s : State) (e : Nat × Nat) (hk : Keeps r₀ s) :
    Keeps r₀ (State.marchedRow s e) := by
  unfold State.marchedRow
  repeat' first
    | with_reducible assumption | with_reducible apply State.modBank_keeps
    | with_reducible refine Keeps.ite (fun _ => ?_) (fun _ => ?_) | with_reducible refine KeepsCore.same ?_
    | dsimp only | simp only [keeps_mk_iff] | split

theorem State.startMap_keeps {r₀ : State} (s : State) (hk : Keeps r₀ s) :
    Keeps r₀ (State.startMap s) := by
  unfold State.startMap
  repeat' first
    | with_reducible assumption | with_reducible refine Keeps.ite (fun _ => ?_) (fun _ => ?_)
    | with_reducible refine KeepsCore.same ?_ | dsimp only | simp only [keeps_mk_iff] | split

theorem State.marchedMarks_keeps {r₀ : State} (s : State) (badSpares : List (Nat × Nat)) (badSweepRows : List Nat) (hk : Keeps r₀ s) :
    Keeps r₀ (State.marchedMarks s badSpares badSweepRows) := by
  unfold State.marchedMarks
  repeat' first
    | with_reducible assumption | with_reducible apply State.modBank_keeps
    | with_reducible refine Keeps.foldl (fun s a hk => ?_) ?_
    | with_reducible refine Keeps.foldl_fst (fun s b a hk => ?_) ?_
    | with_reducible refine Keeps.foldl_snd (fun b s a hk => ?_) ?_
    | with_reducible refine Keeps.ite (fun _ => ?_) (fun _ => ?_) | with_reducible refine KeepsCore.same ?_
    | dsimp only | simp only [keeps_mk_iff] | split

theorem State.applyRepair_keeps {r₀ : State} (s : State) (t : Bytes) (hk : Keeps r₀ s) :
    Keeps r₀ (State.applyRepair s t) := by
  unfold State.applyRepair
  repeat' first
    | with_reducible assumption | with_reducible apply State.marchedRow_keeps
    | with_reducible refine Keeps.foldl (fun s a hk => ?_) ?_
    | with_reducible refine Keeps.ite (fun _ => ?_) (fun _ => ?_) | with_reducible refine KeepsCore.same ?_
    | dsimp only | simp only [keeps_mk_iff] | split

end Sys2Proof.Machine
end

