-- ==== Sys2Proof/Laws/KeepsMawyn.lean ====
section
/-! SUPPORT. What the operations of Machine/Mawyn.lean keep. -/

namespace Sys2Proof.Machine

open Sys2Proof.Laws

theorem State.mwlArrive_keeps {r₀ : State} (s : State) (type : Nat) (f data : Bytes) (effect : State → State) (hk : Keeps r₀ s) (hkeffect : ∀ s, Keeps r₀ s → Keeps r₀ (effect s)) :
    Keeps r₀ (State.mwlArrive s type f data effect) := by
  unfold State.mwlArrive
  repeat' first
    | with_reducible assumption | with_reducible apply State.modMwl_keeps | with_reducible apply State.enqueue_keeps
    | with_reducible apply hkeffect | with_reducible refine Keeps.ite (fun _ => ?_) (fun _ => ?_)
    | with_reducible refine KeepsCore.same ?_ | intro _ | dsimp only | simp only [keeps_mk_iff] | split

theorem execApertureAccess_keeps {r₀ : State} (src tag addr len : Nat) (write : Bool) (data : Bytes) (s : State) (hk : Keeps r₀ s) :
    KeepsOut r₀ (execApertureAccess src tag addr len write data s) := by
  unfold execApertureAccess
  refine act_keeps hk ?_
  repeat' first
    | with_reducible assumption | with_reducible apply act_keeps | with_reducible apply State.devAccess_keeps
    | with_reducible refine Keeps.ite (fun _ => ?_) (fun _ => ?_) | with_reducible refine KeepsCore.same ?_ | intro _
    | dsimp only | simp only [keeps_mk_iff] | split

theorem execTxnTimeout_keeps {r₀ : State} (txn : Nat) (s : State) (hk : Keeps r₀ s) :
    KeepsOut r₀ (execTxnTimeout txn s) := by
  unfold execTxnTimeout
  refine act_keeps hk ?_
  repeat' first
    | with_reducible assumption | with_reducible apply act_keeps | with_reducible apply State.reach_keeps
    | with_reducible apply State.modMwl_keeps | with_reducible apply State.endTxn_keeps
    | with_reducible apply State.settle_keeps | with_reducible refine Keeps.ite (fun _ => ?_) (fun _ => ?_)
    | with_reducible refine KeepsCore.same ?_ | intro _ | dsimp only | simp only [keeps_mk_iff] | split

theorem execWriteAck_keeps {r₀ : State} (flit : Bytes) (s : State) (hk : Keeps r₀ s) :
    KeepsOut r₀ (execWriteAck flit s) := by
  unfold execWriteAck
  refine act_keeps hk ?_
  repeat' first
    | with_reducible assumption | with_reducible apply act_keeps | with_reducible apply State.mwlArrive_keeps
    | with_reducible apply State.endTxn_keeps | with_reducible apply State.settle_keeps
    | with_reducible refine Keeps.ite (fun _ => ?_) (fun _ => ?_) | with_reducible refine KeepsCore.same ?_ | intro _
    | dsimp only | simp only [keeps_mk_iff] | split

theorem execReadData_keeps {r₀ : State} (flit data : Bytes) (s : State) (hk : Keeps r₀ s) :
    KeepsOut r₀ (execReadData flit data s) := by
  unfold execReadData
  refine act_keeps hk ?_
  repeat' first
    | with_reducible assumption | with_reducible apply act_keeps | with_reducible apply State.mwlArrive_keeps
    | with_reducible apply State.endTxn_keeps | with_reducible apply State.settle_keeps
    | with_reducible refine Keeps.ite (fun _ => ?_) (fun _ => ?_) | with_reducible refine KeepsCore.same ?_ | intro _
    | dsimp only | simp only [keeps_mk_iff] | split

theorem execError_keeps {r₀ : State} (flit : Bytes) (s : State) (hk : Keeps r₀ s) :
    KeepsOut r₀ (execError flit s) := by
  unfold execError
  refine act_keeps hk ?_
  repeat' first
    | with_reducible assumption | with_reducible apply act_keeps | with_reducible apply State.mwlArrive_keeps
    | with_reducible apply State.modMwl_keeps | with_reducible apply State.endTxn_keeps
    | with_reducible apply State.settle_keeps | with_reducible refine Keeps.ite (fun _ => ?_) (fun _ => ?_)
    | with_reducible refine KeepsCore.same ?_ | intro _ | dsimp only | simp only [keeps_mk_iff] | split

theorem State.inbound_keeps {r₀ : State} (s : State) (f data : Bytes) (write : Bool) (hk : Keeps r₀ s) :
    Keeps r₀ (State.inbound s f data write) := by
  unfold State.inbound
  repeat' first
    | with_reducible assumption | with_reducible apply State.modMwl_keeps
    | with_reducible apply State.mwlRespond_keeps | with_reducible apply State.access_keeps
    | with_reducible refine Keeps.ite (fun _ => ?_) (fun _ => ?_) | with_reducible refine KeepsCore.same ?_
    | dsimp only | simp only [keeps_mk_iff] | split

theorem execWrite_keeps {r₀ : State} (flit data : Bytes) (s : State) (hk : Keeps r₀ s) :
    KeepsOut r₀ (execWrite flit data s) := by
  unfold execWrite
  refine act_keeps hk ?_
  repeat' first
    | with_reducible assumption | with_reducible apply act_keeps | with_reducible apply State.mwlArrive_keeps
    | with_reducible apply State.inbound_keeps | with_reducible refine Keeps.ite (fun _ => ?_) (fun _ => ?_)
    | with_reducible refine KeepsCore.same ?_ | intro _ | dsimp only | simp only [keeps_mk_iff] | split

theorem execRead_keeps {r₀ : State} (flit : Bytes) (s : State) (hk : Keeps r₀ s) :
    KeepsOut r₀ (execRead flit s) := by
  unfold execRead
  refine act_keeps hk ?_
  repeat' first
    | with_reducible assumption | with_reducible apply act_keeps | with_reducible apply State.mwlArrive_keeps
    | with_reducible apply State.inbound_keeps | with_reducible refine Keeps.ite (fun _ => ?_) (fun _ => ?_)
    | with_reducible refine KeepsCore.same ?_ | intro _ | dsimp only | simp only [keeps_mk_iff] | split

theorem execToken_keeps {r₀ : State} (flit : Bytes) (s : State) (hk : Keeps r₀ s) :
    KeepsOut r₀ (execToken flit s) := by
  unfold execToken
  refine act_keeps hk ?_
  repeat' first
    | with_reducible assumption | with_reducible apply act_keeps | with_reducible apply State.mwlArrive_keeps
    | with_reducible apply State.tokenReceive_keeps | with_reducible apply State.settle_keeps
    | with_reducible refine Keeps.ite (fun _ => ?_) (fun _ => ?_) | with_reducible refine KeepsCore.same ?_ | intro _
    | dsimp only | simp only [keeps_mk_iff] | split

theorem execLinkState_keeps {r₀ : State} (flit : Bytes) (instant : Nat) (s : State) (hk : Keeps r₀ s) :
    KeepsOut r₀ (execLinkState flit instant s) := by
  unfold execLinkState
  refine act_keeps hk ?_
  repeat' first
    | with_reducible assumption | with_reducible apply act_keeps | with_reducible apply State.reach_keeps
    | with_reducible apply State.mwlArrive_keeps | with_reducible apply State.modMwl_keeps
    | with_reducible apply State.recompute_keeps | with_reducible refine Keeps.ite (fun _ => ?_) (fun _ => ?_)
    | with_reducible refine KeepsCore.same ?_ | intro _ | dsimp only | simp only [keeps_mk_iff] | split

theorem execLinkStateInterval_keeps {r₀ : State} (s : State) (hk : Keeps r₀ s) :
    KeepsOut r₀ (execLinkStateInterval s) := by
  unfold execLinkStateInterval
  refine KeepsOut.next ?_
  repeat' first
    | with_reducible assumption | with_reducible apply act_keeps | with_reducible apply State.announce_keeps
    | with_reducible refine Keeps.ite (fun _ => ?_) (fun _ => ?_) | with_reducible refine KeepsCore.same ?_ | intro _
    | dsimp only | simp only [keeps_mk_iff] | split

theorem execLinkStateTimeout_keeps {r₀ : State} (device : Nat) (s : State) (hk : Keeps r₀ s) :
    KeepsOut r₀ (execLinkStateTimeout device s) := by
  unfold execLinkStateTimeout
  refine act_keeps hk ?_
  repeat' first
    | with_reducible assumption | with_reducible apply act_keeps | with_reducible apply State.reach_keeps
    | with_reducible apply State.modMwl_keeps | with_reducible apply State.recompute_keeps
    | with_reducible refine Keeps.ite (fun _ => ?_) (fun _ => ?_) | with_reducible refine KeepsCore.same ?_ | intro _
    | dsimp only | simp only [keeps_mk_iff] | split

theorem State.retrain_keeps {r₀ : State} (s : State) (p : Nat) (hk : Keeps r₀ s) :
    Keeps r₀ (State.retrain s p) := by
  unfold State.retrain
  repeat' first
    | with_reducible assumption | with_reducible apply State.modMport_keeps
    | with_reducible apply State.portChanged_keeps | with_reducible refine Keeps.ite (fun _ => ?_) (fun _ => ?_)
    | with_reducible refine KeepsCore.same ?_ | dsimp only | simp only [keeps_mk_iff] | split

theorem execLinkTrainingDone_keeps {r₀ : State} (port lanesBad peerSystem peerDevice peerPort : Nat) (s : State) (hk : Keeps r₀ s) :
    KeepsOut r₀ (execLinkTrainingDone port lanesBad peerSystem peerDevice peerPort s) := by
  unfold execLinkTrainingDone
  refine act_keeps hk ?_
  repeat' first
    | with_reducible assumption | with_reducible apply act_keeps | with_reducible apply State.modMport_keeps
    | with_reducible apply State.portChanged_keeps | with_reducible apply State.pump_keeps
    | with_reducible refine Keeps.ite (fun _ => ?_) (fun _ => ?_) | with_reducible refine KeepsCore.same ?_ | intro _
    | dsimp only | simp only [keeps_mk_iff] | split

theorem execLinkRetry_keeps {r₀ : State} (port : Nat) (s : State) (hk : Keeps r₀ s) :
    KeepsOut r₀ (execLinkRetry port s) := by
  unfold execLinkRetry
  refine act_keeps hk ?_
  repeat' first
    | with_reducible assumption | with_reducible apply act_keeps | with_reducible apply State.modMport_keeps
    | with_reducible apply State.portChanged_keeps | with_reducible refine Keeps.ite (fun _ => ?_) (fun _ => ?_)
    | with_reducible refine KeepsCore.same ?_ | intro _ | dsimp only | simp only [keeps_mk_iff] | split

theorem execControlSlotTimeout_keeps {r₀ : State} (port : Nat) (s : State) (hk : Keeps r₀ s) :
    KeepsOut r₀ (execControlSlotTimeout port s) := by
  unfold execControlSlotTimeout
  refine act_keeps hk ?_
  repeat' first
    | with_reducible assumption | with_reducible apply act_keeps | with_reducible apply State.retrain_keeps
    | with_reducible refine Keeps.ite (fun _ => ?_) (fun _ => ?_) | with_reducible refine KeepsCore.same ?_ | intro _
    | dsimp only | simp only [keeps_mk_iff] | split

theorem State.controlSlot_keeps {r₀ : State} (s : State) (p : Nat) (c : Bytes) (hk : Keeps r₀ s) :
    Keeps r₀ (State.controlSlot s p c) := by
  unfold State.controlSlot
  repeat' first
    | with_reducible assumption | with_reducible apply State.modMport_keeps | with_reducible apply Reg.take_keeps
    | with_reducible apply State.retrain_keeps | with_reducible apply State.pump_keeps
    | with_reducible refine Keeps.ite (fun _ => ?_) (fun _ => ?_) | with_reducible refine KeepsCore.same ?_
    | dsimp only | simp only [keeps_mk_iff] | split

theorem execBlockReceive_keeps {r₀ : State} (port : Nat) (corrected good : Bool) (control : Bytes) (instant : Nat) (s : State) (hk : Keeps r₀ s) :
    KeepsOut r₀ (execBlockReceive port corrected good control instant s) := by
  unfold execBlockReceive
  refine act_keeps hk ?_
  repeat' first
    | with_reducible assumption | with_reducible apply act_keeps | with_reducible apply State.reach_keeps
    | with_reducible apply State.modMport_keeps | with_reducible apply State.controlSlot_keeps
    | with_reducible refine Keeps.ite (fun _ => ?_) (fun _ => ?_) | with_reducible refine KeepsCore.same ?_ | intro _
    | dsimp only | simp only [keeps_mk_iff] | split

theorem execMawynTimeSync_keeps {r₀ : State} (instant : Nat) (s : State) (hk : Keeps r₀ s) :
    KeepsOut r₀ (execMawynTimeSync instant s) := by
  unfold execMawynTimeSync
  refine act_keeps hk ?_
  repeat' first
    | with_reducible assumption | with_reducible apply act_keeps | with_reducible apply State.reach_keeps
    | with_reducible apply State.syncApply_keeps | with_reducible refine Keeps.ite (fun _ => ?_) (fun _ => ?_)
    | with_reducible refine KeepsCore.same ?_ | intro _ | dsimp only | simp only [keeps_mk_iff] | split

end Sys2Proof.Machine
end

