-- ==== Sys2Proof/Laws/KeepsStartup.lean ====
section
/-! SUPPORT. What the operations of Machine/Startup.lean keep. -/

namespace Sys2Proof.Machine

open Sys2Proof.Laws

-- A reset keeps neither memory nor the latch: State.fresh, PORST_N_ASSERT, RESET_N_ASSERT and RESET_RELEASE have no such lemma,
-- nor has SAFE_N_RELEASE, the one command that raises SAFE_N.

theorem State.forceOff_keeps {r₀ : State} (s : State) (d : Nat) (hk : Keeps r₀ s) :
    Keeps r₀ (State.forceOff s d) := by
  unfold State.forceOff
  repeat' first
    | with_reducible assumption | with_reducible apply State.setDomain_keeps
    | with_reducible apply State.domainLost_keeps | with_reducible refine Keeps.ite (fun _ => ?_) (fun _ => ?_)
    | with_reducible refine KeepsCore.same ?_ | dsimp only | simp only [keeps_mk_iff] | split

theorem State.scrubStaging_keeps {r₀ : State} (s : State) (hk : Keeps r₀ s) :
    Keeps r₀ (State.scrubStaging s) := by
  unfold State.scrubStaging
  repeat' first
    | with_reducible assumption | with_reducible apply State.zeroBank_keeps
    | with_reducible refine Keeps.foldl (fun s a hk => ?_) ?_
    | with_reducible refine Keeps.ite (fun _ => ?_) (fun _ => ?_) | with_reducible refine KeepsCore.same ?_
    | dsimp only | simp only [keeps_mk_iff] | split

theorem State.bootFail_keeps {r₀ : State} (s : State) (f : ImageFault) (cure : Bool) (hk : Keeps r₀ s) :
    Keeps r₀ (State.bootFail s f cure) := by
  unfold State.bootFail
  repeat' first
    | with_reducible assumption | with_reducible apply State.forceOff_keeps
    | with_reducible apply State.scrubStaging_keeps | with_reducible apply State.driveSafeN_keeps
    | with_reducible refine Keeps.foldl (fun s a hk => ?_) ?_
    | with_reducible refine Keeps.ite (fun _ => ?_) (fun _ => ?_) | with_reducible refine KeepsCore.same ?_
    | with_reducible refine KeepsCore.ilk ?_ rfl | dsimp only | simp only [keeps_mk_iff] | split

theorem State.backupCheck_keeps {r₀ : State} (s : State) (ok : Bool) (hk : Keeps r₀ s) :
    Keeps r₀ (State.backupCheck s ok) := by
  unfold State.backupCheck
  repeat' first
    | with_reducible assumption | with_reducible apply State.modPwr_keeps | with_reducible apply State.latch_keeps
    | with_reducible refine Keeps.ite (fun _ => ?_) (fun _ => ?_) | with_reducible refine KeepsCore.same ?_ | decide
    | dsimp only | simp only [keeps_mk_iff] | split

theorem State.runRom_keeps {r₀ : State} (s : State) (fabricLocked pufOk memoriesOk backupOk : Bool) (rows badSpares : List (Nat × Nat)) (badSweepRows : List Nat) (hk : Keeps r₀ s) :
    Keeps r₀ (State.runRom s fabricLocked pufOk memoriesOk backupOk rows badSpares badSweepRows) := by
  unfold State.runRom
  repeat' first
    | with_reducible assumption | with_reducible apply AttnAt.step_keeps | with_reducible apply State.bootFail_keeps
    | with_reducible apply State.wr_keeps | with_reducible apply State.marchedRow_keeps
    | with_reducible apply State.startMap_keeps | with_reducible apply State.marchedMarks_keeps
    | with_reducible apply State.backupCheck_keeps | with_reducible refine Keeps.foldl (fun s a hk => ?_) ?_
    | with_reducible refine Keeps.ite (fun _ => ?_) (fun _ => ?_) | with_reducible refine KeepsCore.same ?_
    | with_reducible refine KeepsCore.otherPins ?_ rfl | dsimp only | simp only [keeps_mk_iff] | split

theorem State.stage_keeps {r₀ : State} (s : State) (content : Bytes) (src : BootSrc) (hk : Keeps r₀ s) :
    Keeps r₀ (State.stage s content src) := by
  unfold State.stage
  repeat' first
    | with_reducible assumption | with_reducible apply State.scrubStaging_keeps | with_reducible apply State.wr_keeps
    | with_reducible refine Keeps.ite (fun _ => ?_) (fun _ => ?_) | with_reducible refine KeepsCore.same ?_
    | with_reducible refine KeepsCore.ilk ?_ rfl | dsimp only | simp only [keeps_mk_iff] | split

theorem State.slotFailed_keeps {r₀ : State} (s : State) (f : ImageFault) (readable : Bool) (hk : Keeps r₀ s) :
    Keeps r₀ (State.slotFailed s f readable) := by
  unfold State.slotFailed
  repeat' first
    | with_reducible assumption | with_reducible apply State.scrubStaging_keeps
    | with_reducible apply State.bootFail_keeps | with_reducible refine Keeps.ite (fun _ => ?_) (fun _ => ?_)
    | with_reducible refine KeepsCore.same ?_ | with_reducible refine KeepsCore.ilk ?_ rfl
    | with_reducible refine KeepsCore.otherPins ?_ rfl | dsimp only | simp only [keeps_mk_iff] | split

theorem execImageStaged_keeps {r₀ : State} (readable : Bool) (content : Bytes) (s : State) (hk : Keeps r₀ s) :
    KeepsOut r₀ (execImageStaged readable content s) := by
  unfold execImageStaged
  refine act_keeps hk ?_
  repeat' first
    | with_reducible assumption | with_reducible apply act_keeps | with_reducible apply State.stage_keeps
    | with_reducible apply State.slotFailed_keeps | with_reducible refine Keeps.ite (fun _ => ?_) (fun _ => ?_)
    | with_reducible refine KeepsCore.same ?_ | with_reducible refine KeepsCore.otherPins ?_ rfl | intro _
    | dsimp only | simp only [keeps_mk_iff] | split

theorem State.applySections_keeps {r₀ : State} (s : State) (types : List Nat) (hk : Keeps r₀ s) :
    Keeps r₀ (State.applySections s types) := by
  unfold State.applySections
  repeat' first
    | with_reducible assumption | with_reducible refine Keeps.foldl (fun s a hk => ?_) ?_
    | with_reducible refine Keeps.ite (fun _ => ?_) (fun _ => ?_) | with_reducible refine KeepsCore.same ?_
    | dsimp only | simp only [keeps_mk_iff] | split

theorem State.applyClockplan_keeps {r₀ : State} (s : State) (hk : Keeps r₀ s) :
    Keeps r₀ (State.applyClockplan s) := by
  unfold State.applyClockplan
  repeat' first
    | with_reducible assumption | with_reducible apply State.modClock_keeps
    | with_reducible refine Keeps.foldl (fun s a hk => ?_) ?_
    | with_reducible refine Keeps.ite (fun _ => ?_) (fun _ => ?_) | with_reducible refine KeepsCore.same ?_
    | dsimp only | simp only [keeps_mk_iff] | split

theorem State.handLogBanks_keeps {r₀ : State} (s : State) (hk : Keeps r₀ s) :
    Keeps r₀ (State.handLogBanks s) := by
  unfold State.handLogBanks
  repeat' first
    | with_reducible assumption | with_reducible apply State.modBank_keeps
    | with_reducible refine Keeps.foldl (fun s a hk => ?_) ?_
    | with_reducible refine Keeps.ite (fun _ => ?_) (fun _ => ?_) | with_reducible refine KeepsCore.same ?_
    | dsimp only | simp only [keeps_mk_iff] | split

theorem State.takeRepair_keeps {r₀ : State} (s : State) (hk : Keeps r₀ s) :
    Keeps r₀ (State.takeRepair s) := by
  unfold State.takeRepair
  repeat' first
    | with_reducible assumption | with_reducible apply State.applyRepair_keeps
    | with_reducible refine Keeps.ite (fun _ => ?_) (fun _ => ?_) | with_reducible refine KeepsCore.same ?_
    | dsimp only | simp only [keeps_mk_iff] | split

theorem State.startFirmware_keeps {r₀ : State} (s : State) (hk : Keeps r₀ s) :
    Keeps r₀ (State.startFirmware s) := by
  unfold State.startFirmware
  repeat' first
    | with_reducible assumption | with_reducible apply State.takeRepair_keeps
    | with_reducible apply State.applyClockplan_keeps | with_reducible apply State.handLogBanks_keeps
    | with_reducible apply State.wr_keeps | with_reducible refine Keeps.ite (fun _ => ?_) (fun _ => ?_)
    | with_reducible refine KeepsCore.same ?_ | dsimp only | simp only [keeps_mk_iff] | split

theorem State.noteImage_keeps {r₀ : State} (s : State) (hk : Keeps r₀ s) :
    Keeps r₀ (State.noteImage s) := by
  unfold State.noteImage
  repeat' first
    | with_reducible assumption | with_reducible refine Keeps.ite (fun _ => ?_) (fun _ => ?_)
    | with_reducible refine KeepsCore.same ?_ | dsimp only | simp only [keeps_mk_iff] | split

theorem execStmVerifyDone_keeps {r₀ : State} (locked : Bool) (s : State) (hk : Keeps r₀ s) :
    KeepsOut r₀ (execStmVerifyDone locked s) := by
  unfold execStmVerifyDone
  refine act_keeps hk ?_
  repeat' first
    | with_reducible assumption | with_reducible apply act_keeps | with_reducible apply State.bootFail_keeps
    | with_reducible apply State.slotFailed_keeps | with_reducible apply State.noteImage_keeps
    | with_reducible apply State.applySections_keeps | with_reducible apply State.startFirmware_keeps
    | with_reducible refine Keeps.ite (fun _ => ?_) (fun _ => ?_) | with_reducible refine KeepsCore.same ?_ | intro _
    | dsimp only | simp only [keeps_mk_iff] | split

theorem State.applyBankown_keeps {r₀ : State} (s : State) (ks : List Nat) (hk : Keeps r₀ s) :
    Keeps r₀ (State.applyBankown s ks) := by
  unfold State.applyBankown
  repeat' first
    | with_reducible assumption | with_reducible apply State.zeroBank_keeps | with_reducible apply State.modBank_keeps
    | with_reducible refine Keeps.foldl (fun s a hk => ?_) ?_
    | with_reducible refine Keeps.ite (fun _ => ?_) (fun _ => ?_) | with_reducible refine KeepsCore.same ?_
    | dsimp only | simp only [keeps_mk_iff] | split

theorem State.bringUp_keeps {r₀ : State} (s : State) (d st : Nat) (hk : Keeps r₀ s) :
    Keeps r₀ (State.bringUp s d st) := by
  unfold State.bringUp
  repeat' first
    | with_reducible assumption | with_reducible apply State.setDomain_keeps
    | with_reducible apply State.modTerr_keeps | with_reducible apply State.modMport_keeps
    | with_reducible refine Keeps.ite (fun _ => ?_) (fun _ => ?_) | with_reducible refine KeepsCore.same ?_
    | dsimp only | simp only [keeps_mk_iff] | split

theorem State.applyPowerplan_keeps {r₀ : State} (s : State) (hk : Keeps r₀ s) :
    Keeps r₀ (State.applyPowerplan s) := by
  unfold State.applyPowerplan
  repeat' first
    | with_reducible assumption | with_reducible apply State.modPwr_keeps | with_reducible apply State.modBlock_keeps
    | with_reducible apply State.bringUp_keeps | with_reducible refine Keeps.foldl (fun s a hk => ?_) ?_
    | with_reducible refine Keeps.ite (fun _ => ?_) (fun _ => ?_) | with_reducible refine KeepsCore.same ?_
    | dsimp only | simp only [keeps_mk_iff] | split

theorem State.applyRing_keeps {r₀ : State} (s : State) (n : Nat) (hk : Keeps r₀ s) :
    Keeps r₀ (State.applyRing s n) := by
  unfold State.applyRing
  repeat' first
    | with_reducible assumption | with_reducible apply State.modRing_keeps | with_reducible apply State.armRing_keeps
    | with_reducible refine Keeps.ite (fun _ => ?_) (fun _ => ?_) | with_reducible refine KeepsCore.same ?_
    | dsimp only | simp only [keeps_mk_iff] | split

theorem State.startupMarch_keeps {r₀ : State} (s : State) (rows badSpares : List (Nat × Nat)) (badSweepRows : List Nat) (hk : Keeps r₀ s) :
    Keeps r₀ (State.startupMarch s rows badSpares badSweepRows) := by
  unfold State.startupMarch
  repeat' first
    | with_reducible assumption | with_reducible apply State.marchedMarks_keeps
    | with_reducible apply State.marchedRow_keeps | with_reducible refine Keeps.foldl (fun s a hk => ?_) ?_
    | with_reducible refine Keeps.foldl_fst (fun s b a hk => ?_) ?_
    | with_reducible refine Keeps.foldl_snd (fun b s a hk => ?_) ?_
    | with_reducible refine Keeps.ite (fun _ => ?_) (fun _ => ?_) | with_reducible refine KeepsCore.same ?_
    | dsimp only | simp only [keeps_mk_iff] | split

theorem State.noteRepair_keeps {r₀ : State} (s : State) (hk : Keeps r₀ s) :
    Keeps r₀ (State.noteRepair s) := by
  unfold State.noteRepair
  repeat' first
    | with_reducible assumption | with_reducible apply State.repairChange_keeps
    | with_reducible refine Keeps.ite (fun _ => ?_) (fun _ => ?_) | with_reducible refine KeepsCore.same ?_
    | dsimp only | simp only [keeps_mk_iff] | split

theorem State.becomeReady_keeps {r₀ : State} (s : State) (hk : Keeps r₀ s) :
    Keeps r₀ (State.becomeReady s) := by
  unfold State.becomeReady
  repeat' first
    | with_reducible assumption | with_reducible apply State.applySections_keeps
    | with_reducible apply State.applyBankown_keeps | with_reducible apply State.applySluice_keeps
    | with_reducible apply State.applyTags_keeps | with_reducible apply State.applyPowerplan_keeps
    | with_reducible apply State.noteRepair_keeps | with_reducible apply State.applyRing_keeps
    | with_reducible apply State.recompute_keeps | with_reducible refine Keeps.foldl (fun s a hk => ?_) ?_
    | with_reducible refine Keeps.ite (fun _ => ?_) (fun _ => ?_) | with_reducible refine KeepsCore.same ?_
    | dsimp only | simp only [keeps_mk_iff] | split

theorem State.finishStep9_keeps {r₀ : State} (s : State) (hk : Keeps r₀ s) :
    Keeps r₀ (State.finishStep9 s) := by
  unfold State.finishStep9
  repeat' first
    | with_reducible assumption | with_reducible apply State.applySections_keeps
    | with_reducible apply State.bootFail_keeps | with_reducible apply State.scheduleStart_keeps
    | with_reducible refine Keeps.ite (fun _ => ?_) (fun _ => ?_) | with_reducible refine KeepsCore.same ?_
    | with_reducible refine KeepsCore.ilk ?_ rfl | dsimp only | simp only [keeps_mk_iff] | split

theorem execMemoryTrainingDone_keeps {r₀ : State} (trained : Bool) (march : MarchRows) (badSweepRows : List Nat) (s : State) (hk : Keeps r₀ s) :
    KeepsOut r₀ (execMemoryTrainingDone trained march badSweepRows s) := by
  unfold execMemoryTrainingDone
  refine act_keeps hk ?_
  repeat' first
    | with_reducible assumption | with_reducible apply act_keeps | with_reducible apply State.bootFail_keeps
    | with_reducible apply State.startupMarch_keeps | with_reducible apply State.becomeReady_keeps
    | with_reducible apply State.finishStep9_keeps | with_reducible refine Keeps.ite (fun _ => ?_) (fun _ => ?_)
    | with_reducible refine KeepsCore.same ?_ | with_reducible refine KeepsCore.ilk ?_ rfl | intro _ | dsimp only
    | simp only [keeps_mk_iff] | split

theorem execIlkVerifyDone_keeps {r₀ : State} (agrees : Bool) (s : State) (hk : Keeps r₀ s) :
    KeepsOut r₀ (execIlkVerifyDone agrees s) := by
  unfold execIlkVerifyDone
  refine act_keeps hk ?_
  repeat' first
    | with_reducible assumption | with_reducible apply act_keeps | with_reducible apply State.bootFail_keeps
    | with_reducible apply State.finishStep9_keeps | with_reducible refine Keeps.ite (fun _ => ?_) (fun _ => ?_)
    | with_reducible refine KeepsCore.same ?_ | with_reducible refine KeepsCore.ilk ?_ rfl | intro _ | dsimp only
    | simp only [keeps_mk_iff] | split

theorem execSlice0Handoff_keeps {r₀ : State} (s : State) (hk : Keeps r₀ s) :
    KeepsOut r₀ (execSlice0Handoff s) := by
  unfold execSlice0Handoff
  refine act_keeps hk ?_
  repeat' first
    | with_reducible assumption | with_reducible apply act_keeps | with_reducible apply State.applyBankown_keeps
    | with_reducible refine Keeps.ite (fun _ => ?_) (fun _ => ?_) | with_reducible refine KeepsCore.same ?_
    | with_reducible refine KeepsCore.ilk ?_ rfl | intro _ | dsimp only | simp only [keeps_mk_iff] | split

theorem execStartupSelftestDone_keeps {r₀ : State} (failing : Option Nat) (s : State) (hk : Keeps r₀ s) :
    KeepsOut r₀ (execStartupSelftestDone failing s) := by
  unfold execStartupSelftestDone
  refine act_keeps hk ?_
  repeat' first
    | with_reducible assumption | with_reducible apply act_keeps | with_reducible apply State.bootFail_keeps
    | with_reducible apply State.startupGolden_keeps | with_reducible refine Keeps.ite (fun _ => ?_) (fun _ => ?_)
    | with_reducible refine KeepsCore.same ?_ | with_reducible refine KeepsCore.ilk ?_ rfl | intro _ | dsimp only
    | simp only [keeps_mk_iff] | split

theorem execStartupGoldenDone_keeps {r₀ : State} (instant : Nat) (s : State) (hk : Keeps r₀ s) :
    KeepsOut r₀ (execStartupGoldenDone instant s) := by
  unfold execStartupGoldenDone
  refine act_keeps hk ?_
  repeat' first
    | with_reducible assumption | with_reducible apply act_keeps | with_reducible apply State.reach_keeps
    | with_reducible apply State.bootFail_keeps | with_reducible refine Keeps.ite (fun _ => ?_) (fun _ => ?_)
    | with_reducible refine KeepsCore.same ?_ | with_reducible refine KeepsCore.ilk ?_ rfl | intro _ | dsimp only
    | simp only [keeps_mk_iff] | split

end Sys2Proof.Machine
end

