-- ==== Sys2Proof/Laws/KeepsReload.lean ====
section
/-! SUPPORT. What the operations of Machine/Reload.lean keep. -/

namespace Sys2Proof.Machine

open Sys2Proof.Laws

theorem State.modReload_keeps {r₀ : State} (s : State) (f : Reload → Reload) (hk : Keeps r₀ s) :
    Keeps r₀ (State.modReload s f) := by
  unfold State.modReload
  repeat' first
    | with_reducible assumption | with_reducible refine Keeps.ite (fun _ => ?_) (fun _ => ?_)
    | with_reducible refine KeepsCore.same ?_ | dsimp only | simp only [keeps_mk_iff] | split

theorem State.reloadOpen_keeps {r₀ : State} (s : State) (hk : Keeps r₀ s) :
    Keeps r₀ (State.reloadOpen s) := by
  unfold State.reloadOpen
  repeat' first
    | with_reducible assumption | with_reducible apply State.modReload_keeps
    | with_reducible refine Keeps.ite (fun _ => ?_) (fun _ => ?_) | with_reducible refine KeepsCore.same ?_
    | dsimp only | simp only [keeps_mk_iff] | split

theorem State.reloadReject_keeps {r₀ : State} (s : State) (code : Nat) (hk : Keeps r₀ s) :
    Keeps r₀ (State.reloadReject s code) := by
  unfold State.reloadReject
  repeat' first
    | with_reducible assumption | with_reducible apply State.scrubStaging_keeps
    | with_reducible apply State.modReload_keeps | with_reducible refine Keeps.ite (fun _ => ?_) (fun _ => ?_)
    | with_reducible refine KeepsCore.same ?_ | dsimp only | simp only [keeps_mk_iff] | split

theorem State.reloadStaged_keeps {r₀ : State} (s : State) (image : Bytes) (hk : Keeps r₀ s) :
    Keeps r₀ (State.reloadStaged s image) := by
  unfold State.reloadStaged
  repeat' first
    | with_reducible assumption | with_reducible apply State.modReload_keeps
    | with_reducible refine Keeps.ite (fun _ => ?_) (fun _ => ?_) | with_reducible refine KeepsCore.same ?_
    | dsimp only | simp only [keeps_mk_iff] | split

theorem State.reloadSettle_keeps {r₀ : State} (s : State) (hk : Keeps r₀ s) :
    Keeps r₀ (State.reloadSettle s) := by
  unfold State.reloadSettle
  repeat' first
    | with_reducible assumption | with_reducible apply State.modReload_keeps
    | with_reducible refine Keeps.ite (fun _ => ?_) (fun _ => ?_) | with_reducible refine KeepsCore.same ?_
    | dsimp only | simp only [keeps_mk_iff] | split

theorem State.reloadArm_keeps {r₀ : State} (s : State) (hk : Keeps r₀ s) :
    Keeps r₀ (State.reloadArm s) := by
  unfold State.reloadArm
  repeat' first
    | with_reducible assumption | with_reducible apply State.modReload_keeps
    | with_reducible apply State.reloadSettle_keeps | with_reducible refine Keeps.foldl (fun s a hk => ?_) ?_
    | with_reducible refine Keeps.ite (fun _ => ?_) (fun _ => ?_) | with_reducible refine KeepsCore.same ?_
    | dsimp only | simp only [keeps_mk_iff] | split

theorem execReloadVerifyDone_keeps {r₀ : State} (agrees : Bool) (s : State) (hk : Keeps r₀ s) :
    KeepsOut r₀ (execReloadVerifyDone agrees s) := by
  unfold execReloadVerifyDone
  refine act_keeps hk ?_
  repeat' first
    | with_reducible assumption | with_reducible apply act_keeps | with_reducible apply State.reloadReject_keeps
    | with_reducible apply State.reloadArm_keeps | with_reducible refine Keeps.ite (fun _ => ?_) (fun _ => ?_)
    | with_reducible refine KeepsCore.same ?_ | intro _ | dsimp only | simp only [keeps_mk_iff] | split

theorem State.disarm_keeps {r₀ : State} (s : State) (type : Nat) (hk : Keeps r₀ s) :
    Keeps r₀ (State.disarm s type) := by
  unfold State.disarm
  repeat' first
    | with_reducible assumption | with_reducible apply State.modReload_keeps
    | with_reducible refine Keeps.ite (fun _ => ?_) (fun _ => ?_) | with_reducible refine KeepsCore.same ?_
    | dsimp only | simp only [keeps_mk_iff] | split

theorem State.removeOrphans_keeps {r₀ : State} (s : State) (l : List Nat) (hk : Keeps r₀ s) :
    Keeps r₀ (State.removeOrphans s l) := by
  unfold State.removeOrphans
  repeat' first
    | with_reducible assumption | with_reducible apply State.completeNode_keeps
    | with_reducible apply State.modNode_keeps | with_reducible refine Keeps.foldl (fun s a hk => ?_) ?_
    | with_reducible refine Keeps.ite (fun _ => ?_) (fun _ => ?_) | with_reducible refine KeepsCore.same ?_
    | dsimp only | simp only [keeps_mk_iff] | split

theorem execTtschedSwap_keeps {r₀ : State} (s : State) (hk : Keeps r₀ s) :
    KeepsOut r₀ (execTtschedSwap s) := by
  unfold execTtschedSwap
  refine act_keeps hk ?_
  repeat' first
    | with_reducible assumption | with_reducible apply act_keeps | with_reducible apply State.reach_keeps
    | with_reducible apply State.scheduleSwap_keeps | with_reducible apply State.disarm_keeps
    | with_reducible apply State.modReload_keeps | with_reducible apply State.removeOrphans_keeps
    | with_reducible apply State.settle_keeps | with_reducible apply State.reloadSettle_keeps
    | with_reducible refine Keeps.ite (fun _ => ?_) (fun _ => ?_) | with_reducible refine KeepsCore.same ?_ | intro _
    | dsimp only | simp only [keeps_mk_iff] | split

theorem execConsisttplSwap_keeps {r₀ : State} (s : State) (hk : Keeps r₀ s) :
    KeepsOut r₀ (execConsisttplSwap s) := by
  unfold execConsisttplSwap
  refine act_keeps hk ?_
  repeat' first
    | with_reducible assumption | with_reducible apply act_keeps | with_reducible apply State.reach_keeps
    | with_reducible apply State.disarm_keeps | with_reducible apply State.modReload_keeps
    | with_reducible apply State.reloadSettle_keeps | with_reducible refine Keeps.ite (fun _ => ?_) (fun _ => ?_)
    | with_reducible refine KeepsCore.same ?_ | intro _ | dsimp only | simp only [keeps_mk_iff] | split

theorem execRulesSwap_keeps {r₀ : State} (s : State) (hk : Keeps r₀ s) :
    KeepsOut r₀ (execRulesSwap s) := by
  unfold execRulesSwap
  refine act_keeps hk ?_
  repeat' first
    | with_reducible assumption | with_reducible apply act_keeps | with_reducible apply State.reach_keeps
    | with_reducible apply State.disarm_keeps | with_reducible apply State.modReload_keeps
    | with_reducible refine Keeps.ite (fun _ => ?_) (fun _ => ?_) | with_reducible refine KeepsCore.same ?_ | intro _
    | dsimp only | simp only [keeps_mk_iff] | split

theorem State.keepHistories_keeps {r₀ : State} (s : State) (hk : Keeps r₀ s) :
    Keeps r₀ (State.keepHistories s) := by
  unfold State.keepHistories
  repeat' first
    | with_reducible assumption | with_reducible refine Keeps.ite (fun _ => ?_) (fun _ => ?_)
    | with_reducible refine KeepsCore.same ?_ | with_reducible refine KeepsCore.ilk ?_ rfl | dsimp only
    | simp only [keeps_mk_iff] | split

theorem execRulesRetire_keeps {r₀ : State} (s : State) (hk : Keeps r₀ s) :
    KeepsOut r₀ (execRulesRetire s) := by
  unfold execRulesRetire
  refine act_keeps hk ?_
  repeat' first
    | with_reducible assumption | with_reducible apply act_keeps | with_reducible apply State.modReload_keeps
    | with_reducible apply State.keepHistories_keeps | with_reducible apply State.reloadSettle_keeps
    | with_reducible refine Keeps.ite (fun _ => ?_) (fun _ => ?_) | with_reducible refine KeepsCore.same ?_ | intro _
    | dsimp only | simp only [keeps_mk_iff] | split

end Sys2Proof.Machine
end

