-- ==== Sys2Proof/Laws/KeepsFirmware.lean ====
section
/-! SUPPORT. What the operations of Machine/Firmware.lean keep. -/

namespace Sys2Proof.Machine

open Sys2Proof.Laws

theorem State.modStm_keeps {r₀ : State} (s : State) (f : Stm → Stm) (hk : Keeps r₀ s) :
    Keeps r₀ (State.modStm s f) := by
  unfold State.modStm
  repeat' first
    | with_reducible assumption | with_reducible refine Keeps.ite (fun _ => ?_) (fun _ => ?_)
    | with_reducible refine KeepsCore.same ?_ | dsimp only | simp only [keeps_mk_iff] | split

theorem State.serveAny_keeps {r₀ : State} (s : State) (service : Nat) (f : State → MboxReq → State × Bytes) (hk : Keeps r₀ s) (hkf : ∀ s a1, Keeps r₀ s → Keeps r₀ (f s a1).1) :
    Keeps r₀ (State.serveAny s service f) := by
  unfold State.serveAny
  repeat' first
    | with_reducible assumption | with_reducible apply State.mboxDrain_keeps | with_reducible apply State.serve_keeps
    | with_reducible apply hkf | with_reducible refine Keeps.ite (fun _ => ?_) (fun _ => ?_)
    | with_reducible refine KeepsCore.same ?_ | intro _ | dsimp only | simp only [keeps_mk_iff] | split

theorem execVersion_keeps {r₀ : State} (s : State) (hk : Keeps r₀ s) :
    KeepsOut r₀ (execVersion s) := by
  unfold execVersion
  refine act_keeps hk ?_
  repeat' first
    | with_reducible assumption | with_reducible apply act_keeps | with_reducible apply State.serveAny_keeps
    | with_reducible apply State.modStm_keeps | with_reducible refine Keeps.ite (fun _ => ?_) (fun _ => ?_)
    | with_reducible refine KeepsCore.same ?_ | intro _ | dsimp only | simp only [keeps_mk_iff] | split

theorem execMemoryStatus_keeps {r₀ : State} (s : State) (hk : Keeps r₀ s) :
    KeepsOut r₀ (execMemoryStatus s) := by
  unfold execMemoryStatus
  refine act_keeps hk ?_
  repeat' first
    | with_reducible assumption | with_reducible apply act_keeps | with_reducible apply State.serveAny_keeps
    | with_reducible refine Keeps.ite (fun _ => ?_) (fun _ => ?_) | with_reducible refine KeepsCore.same ?_ | intro _
    | dsimp only | simp only [keeps_mk_iff] | split

theorem State.reloadFromStaging_keeps {r₀ : State} (s : State) (len : Nat) (hk : Keeps r₀ s) :
    Keeps r₀ (State.reloadFromStaging s len) := by
  unfold State.reloadFromStaging
  repeat' first
    | with_reducible assumption | with_reducible apply State.reloadReject_keeps
    | with_reducible apply State.reloadOpen_keeps | with_reducible apply State.reloadStaged_keeps
    | with_reducible refine Keeps.ite (fun _ => ?_) (fun _ => ?_) | with_reducible refine KeepsCore.same ?_
    | dsimp only | simp only [keeps_mk_iff] | split

theorem execReload_keeps {r₀ : State} (s : State) (hk : Keeps r₀ s) :
    KeepsOut r₀ (execReload s) := by
  unfold execReload
  refine act_keeps hk ?_
  repeat' first
    | with_reducible assumption | with_reducible apply act_keeps | with_reducible apply State.serveAny_keeps
    | with_reducible apply State.reloadFromStaging_keeps | with_reducible refine Keeps.ite (fun _ => ?_) (fun _ => ?_)
    | with_reducible refine KeepsCore.same ?_ | intro _ | dsimp only | simp only [keeps_mk_iff] | split

theorem State.fwReject_keeps {r₀ : State} (s : State) (code : Nat) (hk : Keeps r₀ s) :
    Keeps r₀ (State.fwReject s code) := by
  unfold State.fwReject
  repeat' first
    | with_reducible assumption | with_reducible apply State.scrubStaging_keeps
    | with_reducible apply State.modStm_keeps | with_reducible apply State.trace_keeps
    | with_reducible refine Keeps.ite (fun _ => ?_) (fun _ => ?_) | with_reducible refine KeepsCore.same ?_
    | dsimp only | simp only [keeps_mk_iff] | split

theorem execFwLoad_keeps {r₀ : State} (s : State) (hk : Keeps r₀ s) :
    KeepsOut r₀ (execFwLoad s) := by
  unfold execFwLoad
  refine act_keeps hk ?_
  repeat' first
    | with_reducible assumption | with_reducible apply act_keeps | with_reducible apply State.serve_keeps
    | with_reducible apply State.modStm_keeps | with_reducible apply State.trace_keeps
    | with_reducible refine Keeps.ite (fun _ => ?_) (fun _ => ?_) | with_reducible refine KeepsCore.same ?_ | intro _
    | dsimp only | simp only [keeps_mk_iff] | split

theorem execFwVerifyDone_keeps {r₀ : State} (s : State) (hk : Keeps r₀ s) :
    KeepsOut r₀ (execFwVerifyDone s) := by
  unfold execFwVerifyDone
  refine act_keeps hk ?_
  repeat' first
    | with_reducible assumption | with_reducible apply act_keeps | with_reducible apply State.fwReject_keeps
    | with_reducible apply State.modStm_keeps | with_reducible apply State.trace_keeps
    | with_reducible refine Keeps.ite (fun _ => ?_) (fun _ => ?_) | with_reducible refine KeepsCore.same ?_ | intro _
    | dsimp only | simp only [keeps_mk_iff] | split

theorem execActivate_keeps {r₀ : State} (s : State) (hk : Keeps r₀ s) :
    KeepsOut r₀ (execActivate s) := by
  unfold execActivate
  refine act_keeps hk ?_
  repeat' first
    | with_reducible assumption | with_reducible apply act_keeps | with_reducible apply State.serve_keeps
    | with_reducible apply State.modStm_keeps | with_reducible apply State.trace_keeps
    | with_reducible refine Keeps.ite (fun _ => ?_) (fun _ => ?_) | with_reducible refine KeepsCore.same ?_ | intro _
    | dsimp only | simp only [keeps_mk_iff] | split

theorem execFwAbort_keeps {r₀ : State} (s : State) (hk : Keeps r₀ s) :
    KeepsOut r₀ (execFwAbort s) := by
  unfold execFwAbort
  refine act_keeps hk ?_
  repeat' first
    | with_reducible assumption | with_reducible apply act_keeps | with_reducible apply State.serve_keeps
    | with_reducible apply State.scrubStaging_keeps | with_reducible apply State.modStm_keeps
    | with_reducible refine Keeps.ite (fun _ => ?_) (fun _ => ?_) | with_reducible refine KeepsCore.same ?_ | intro _
    | dsimp only | simp only [keeps_mk_iff] | split

theorem execFwSwap_keeps {r₀ : State} (s : State) (hk : Keeps r₀ s) :
    KeepsOut r₀ (execFwSwap s) := by
  unfold execFwSwap
  refine act_keeps hk ?_
  repeat' first
    | with_reducible assumption | with_reducible apply act_keeps | with_reducible apply State.modStm_keeps
    | with_reducible refine Keeps.ite (fun _ => ?_) (fun _ => ?_) | with_reducible refine KeepsCore.same ?_ | intro _
    | dsimp only | simp only [keeps_mk_iff] | split

theorem execFwCopyDone_keeps {r₀ : State} (s : State) (hk : Keeps r₀ s) :
    KeepsOut r₀ (execFwCopyDone s) := by
  unfold execFwCopyDone
  refine act_keeps hk ?_
  repeat' first
    | with_reducible assumption | with_reducible apply act_keeps | with_reducible apply State.wr_keeps
    | with_reducible apply State.modStm_keeps | with_reducible apply State.trace_keeps
    | with_reducible refine Keeps.ite (fun _ => ?_) (fun _ => ?_) | with_reducible refine KeepsCore.same ?_ | intro _
    | dsimp only | simp only [keeps_mk_iff] | split

end Sys2Proof.Machine
end

