-- ==== Sys2Proof/Laws/KeepsFountain.lean ====
section
/-! SUPPORT. What the operations of Machine/Fountain.lean keep. -/

namespace Sys2Proof.Machine

open Sys2Proof.Laws

theorem State.modStream_keeps {r₀ : State} (s : State) (n : Nat) (f : FtnStream → FtnStream) (hk : Keeps r₀ s) :
    Keeps r₀ (State.modStream s n f) := by
  unfold State.modStream
  repeat' first
    | with_reducible assumption | with_reducible refine Keeps.ite (fun _ => ?_) (fun _ => ?_)
    | with_reducible refine KeepsCore.same ?_ | dsimp only | simp only [keeps_mk_iff] | split

theorem State.layerFresh_keeps {r₀ : State} (s : State) (d : Bytes) (hk : Keeps r₀ s) :
    Keeps r₀ (State.layerFresh s d).2 := by
  unfold State.layerFresh
  repeat' first
    | with_reducible assumption | with_reducible apply State.devRead_keeps
    | with_reducible refine Keeps.ite (fun _ => ?_) (fun _ => ?_) | with_reducible refine KeepsCore.same ?_
    | dsimp only | simp only [keeps_mk_iff] | split

theorem State.readLayer_keeps {r₀ : State} (s : State) (n k width height : Nat) (hk : Keeps r₀ s) :
    Keeps r₀ (State.readLayer s n k width height) := by
  unfold State.readLayer
  repeat' first
    | with_reducible assumption | with_reducible apply State.devRead_keeps
    | with_reducible apply State.modStream_keeps | with_reducible apply State.layerFresh_keeps
    | with_reducible refine Keeps.ite (fun _ => ?_) (fun _ => ?_) | with_reducible refine KeepsCore.same ?_
    | dsimp only | simp only [keeps_mk_iff] | split

theorem execVerticalBlank_keeps {r₀ : State} (stream width height underruns : Nat) (hpd : Bool) (instant : Nat) (s : State) (hk : Keeps r₀ s) :
    KeepsOut r₀ (execVerticalBlank stream width height underruns hpd instant s) := by
  unfold execVerticalBlank
  refine act_keeps hk ?_
  repeat' first
    | with_reducible assumption | with_reducible apply act_keeps | with_reducible apply State.reach_keeps
    | with_reducible apply State.modStream_keeps | with_reducible apply State.readLayer_keeps
    | with_reducible refine Keeps.foldl (fun s a hk => ?_) ?_
    | with_reducible refine Keeps.ite (fun _ => ?_) (fun _ => ?_) | with_reducible refine KeepsCore.same ?_ | intro _
    | dsimp only | simp only [keeps_mk_iff] | split

end Sys2Proof.Machine
end

