-- ==== Sys2Proof/Laws/KeepsHandovers.lean ====
section
/-! SUPPORT. What the operations of Machine/Handovers.lean keep. -/

namespace Sys2Proof.Machine

open Sys2Proof.Laws

theorem execHandoverComplete_keeps {r₀ : State} (bank : Nat) (s : State) (hk : Keeps r₀ s) :
    KeepsOut r₀ (execHandoverComplete bank s) := by
  unfold execHandoverComplete
  refine act_keeps hk ?_
  repeat' first
    | with_reducible assumption | with_reducible apply act_keeps | with_reducible apply State.finishHandover_keeps
    | with_reducible apply State.settle_keeps | with_reducible refine Keeps.ite (fun _ => ?_) (fun _ => ?_)
    | with_reducible refine KeepsCore.same ?_ | intro _ | dsimp only | simp only [keeps_mk_iff] | split

theorem execPowerTransitionDone_keeps {r₀ : State} (bank : Nat) (s : State) (hk : Keeps r₀ s) :
    KeepsOut r₀ (execPowerTransitionDone bank s) := by
  unfold execPowerTransitionDone
  refine act_keeps hk ?_
  repeat' first
    | with_reducible assumption | with_reducible apply act_keeps | with_reducible apply State.finishPower_keeps
    | with_reducible apply State.settle_keeps | with_reducible refine Keeps.ite (fun _ => ?_) (fun _ => ?_)
    | with_reducible refine KeepsCore.same ?_ | intro _ | dsimp only | simp only [keeps_mk_iff] | split

end Sys2Proof.Machine
end

