-- ==== Sys2Proof/Laws/KeepsRegMap.lean ====
section
/-! SUPPORT. What the operations of Machine/RegMap.lean keep. -/

namespace Sys2Proof.Machine

open Sys2Proof.Laws

/-- Writing or reading a register keeps them. -/
def RegKeeps (r : State) (g : Reg) : Prop :=
  (∀ f, g.write = some f → ∀ v, Keeps r (f v)) ∧ (∀ t, g.after = some t → Keeps r t)

/-- So does each register of a list. -/
def RegsKeep (r : State) (l : List Reg) : Prop := ∀ g ∈ l, RegKeeps r g

theorem RegKeeps.readOnly {r : State} {base size value rw : Nat} : RegKeeps r (Reg.mk base size value rw none none) :=
  ⟨fun _ e => (by cases e), fun _ e => (by cases e)⟩

theorem RegKeeps.write {r : State} {base size value rw : Nat} {f : Nat → State} (h : ∀ v, Keeps r (f v)) :
    RegKeeps r (Reg.mk base size value rw (some f) none) :=
  ⟨fun _ e v => (by cases e; exact h v), fun _ e => (by cases e)⟩

theorem RegKeeps.after {r t : State} {base size value rw : Nat} (h : Keeps r t) :
    RegKeeps r (Reg.mk base size value rw none (some t)) :=
  ⟨fun _ e => (by cases e), fun _ e => (by cases e; exact h)⟩

theorem RegsKeep.nil {r : State} : RegsKeep r [] := fun _ h => by cases h

theorem RegsKeep.cons {r : State} {g : Reg} {l : List Reg} (h : RegKeeps r g) (k : RegsKeep r l) : RegsKeep r (g :: l) :=
  fun x hx => by
    rcases List.mem_cons.mp hx with e | e
    · rw [e]; exact h
    · exact k x e

theorem RegsKeep.append {r : State} {l m : List Reg} (h : RegsKeep r l) (k : RegsKeep r m) : RegsKeep r (l ++ m) :=
  fun x hx => by
    rcases List.mem_append.mp hx with e | e
    · exact h x e
    · exact k x e

theorem RegsKeep.ite {r : State} {l m : List Reg} {c : Prop} [Decidable c] (h : c → RegsKeep r l) (k : ¬c → RegsKeep r m) :
    RegsKeep r (if c then l else m) := by
  split
  · exact h (by assumption)
  · exact k (by assumption)

theorem RegsKeep.map {α : Type} {r : State} {f : α → Reg} (h : ∀ a, RegKeeps r (f a)) {l : List α} :
    RegsKeep r (l.map f) := fun x hx => by
  obtain ⟨a, _, e⟩ := List.mem_map.mp hx
  rw [← e]; exact h a

theorem RegsKeep.filter {r : State} {l : List Reg} {p : Reg → Bool} (h : RegsKeep r l) : RegsKeep r (l.filter p) :=
  fun x hx => h x (List.mem_filter.mp hx).1

theorem ran_keeps {r s : State} {o : Out} (ho : KeepsOut r o) (_ : Keeps r s) : Keeps r (ran o s) := by
  obtain ⟨t, e, h⟩ := ho
  rw [e]; exact h

theorem bytesReg_keeps {r₀ : State} (base : Nat) (bs : Bytes) (o : Nat) : RegsKeep r₀ (bytesReg base bs o) := by
  unfold bytesReg
  split
  · exact RegsKeep.cons RegKeeps.readOnly RegsKeep.nil
  · exact RegsKeep.nil

theorem timeRegs_keeps {r₀ : State} (sec ns t extra : Nat) : RegsKeep r₀ (timeRegs sec ns t extra) := by
  unfold timeRegs
  exact RegsKeep.cons RegKeeps.readOnly (RegsKeep.cons RegKeeps.readOnly RegsKeep.nil)

theorem State.supRegs_keeps {r₀ : State} (s : State) (hk : Keeps r₀ s) :
    RegsKeep r₀ (State.supRegs s) := by
  unfold State.supRegs
  repeat' first
    | with_reducible assumption | with_reducible apply RegsKeep.nil | with_reducible apply RegsKeep.cons
    | with_reducible apply RegsKeep.append | with_reducible refine RegsKeep.ite (fun _ => ?_) (fun _ => ?_)
    | with_reducible refine RegsKeep.map (fun a => ?_) | with_reducible refine RegKeeps.write (fun v => ?_)
    | with_reducible apply RegKeeps.readOnly | with_reducible refine RegKeeps.after ?_
    | with_reducible refine ran_keeps ?_ ?_ | with_reducible refine Keeps.ite (fun _ => ?_) (fun _ => ?_)
    | with_reducible refine KeepsCore.same ?_ | dsimp only | simp only [keeps_mk_iff] | split

theorem State.ilkRegs_keeps {r₀ : State} (s : State) (o : Nat) (hk : Keeps r₀ s) :
    RegsKeep r₀ (State.ilkRegs s o) := by
  unfold State.ilkRegs
  repeat' first
    | with_reducible assumption | with_reducible apply timeRegs_keeps | with_reducible apply bytesReg_keeps
    | with_reducible apply RegsKeep.nil | with_reducible apply RegsKeep.cons | with_reducible apply RegsKeep.append
    | with_reducible refine RegsKeep.ite (fun _ => ?_) (fun _ => ?_)
    | with_reducible refine RegsKeep.map (fun a => ?_) | with_reducible refine RegKeeps.write (fun v => ?_)
    | with_reducible apply RegKeeps.readOnly | with_reducible refine RegKeeps.after ?_
    | with_reducible refine ran_keeps ?_ ?_ | with_reducible refine Keeps.ite (fun _ => ?_) (fun _ => ?_)
    | with_reducible refine KeepsCore.same ?_ | with_reducible refine KeepsCore.ilk ?_ rfl | dsimp only
    | simp only [keeps_mk_iff] | split

theorem State.hdwRegs_keeps {r₀ : State} (s : State) (c : RegCtx) (hk : Keeps r₀ s) :
    RegsKeep r₀ (State.hdwRegs s c) := by
  unfold State.hdwRegs
  repeat' first
    | with_reducible assumption | with_reducible apply RegsKeep.nil | with_reducible apply RegsKeep.cons
    | with_reducible apply RegsKeep.append | with_reducible refine RegsKeep.ite (fun _ => ?_) (fun _ => ?_)
    | with_reducible refine RegsKeep.map (fun a => ?_) | with_reducible refine RegKeeps.write (fun v => ?_)
    | with_reducible apply RegKeeps.readOnly | with_reducible refine RegKeeps.after ?_
    | with_reducible refine ran_keeps ?_ ?_ | with_reducible refine Keeps.ite (fun _ => ?_) (fun _ => ?_)
    | with_reducible refine KeepsCore.same ?_ | with_reducible refine KeepsCore.ilk ?_ rfl | dsimp only
    | simp only [keeps_mk_iff] | split

theorem State.camRegs_keeps {r₀ : State} (s : State) (path : Nat) (hk : Keeps r₀ s) :
    RegsKeep r₀ (State.camRegs s path) := by
  unfold State.camRegs
  repeat' first
    | with_reducible assumption | with_reducible apply timeRegs_keeps | with_reducible apply RegsKeep.nil
    | with_reducible apply RegsKeep.cons | with_reducible apply RegsKeep.append
    | with_reducible refine RegsKeep.ite (fun _ => ?_) (fun _ => ?_)
    | with_reducible refine RegsKeep.map (fun a => ?_) | with_reducible refine RegKeeps.write (fun v => ?_)
    | with_reducible apply RegKeeps.readOnly | with_reducible refine RegKeeps.after ?_
    | with_reducible refine ran_keeps ?_ ?_ | with_reducible refine Keeps.ite (fun _ => ?_) (fun _ => ?_)
    | with_reducible refine KeepsCore.same ?_ | dsimp only | simp only [keeps_mk_iff] | split

theorem State.capRegs_keeps {r₀ : State} (s : State) (n : Nat) (hk : Keeps r₀ s) :
    RegsKeep r₀ (State.capRegs s n) := by
  unfold State.capRegs
  repeat' first
    | with_reducible assumption | with_reducible apply ran_keeps | with_reducible apply RegsKeep.nil
    | with_reducible apply RegsKeep.cons | with_reducible apply RegsKeep.append
    | with_reducible refine RegsKeep.ite (fun _ => ?_) (fun _ => ?_)
    | with_reducible refine RegsKeep.map (fun a => ?_) | with_reducible refine RegKeeps.write (fun v => ?_)
    | with_reducible apply RegKeeps.readOnly | with_reducible refine RegKeeps.after ?_
    | with_reducible refine ran_keeps ?_ ?_ | with_reducible refine ran_keeps ?_ ?_
    | with_reducible apply execCapFifoPop_keeps | with_reducible refine Keeps.ite (fun _ => ?_) (fun _ => ?_)
    | with_reducible refine KeepsCore.same ?_ | dsimp only | simp only [keeps_mk_iff] | split

theorem State.tmtShared_keeps {r₀ : State} (s : State) (c : RegCtx) (hk : Keeps r₀ s) :
    RegsKeep r₀ (State.tmtShared s c) := by
  unfold State.tmtShared
  repeat' first
    | with_reducible assumption | with_reducible apply ran_keeps | with_reducible apply State.modTmt_keeps
    | with_reducible apply State.camRegs_keeps | with_reducible apply RegsKeep.nil
    | with_reducible apply RegsKeep.cons | with_reducible apply RegsKeep.append
    | with_reducible refine RegsKeep.ite (fun _ => ?_) (fun _ => ?_)
    | with_reducible refine RegsKeep.map (fun a => ?_) | with_reducible refine RegKeeps.write (fun v => ?_)
    | with_reducible apply RegKeeps.readOnly | with_reducible refine RegKeeps.after ?_
    | with_reducible refine ran_keeps ?_ ?_ | with_reducible refine ran_keeps ?_ ?_
    | with_reducible apply execTmtNowRead_keeps | with_reducible refine Keeps.ite (fun _ => ?_) (fun _ => ?_)
    | with_reducible refine KeepsCore.same ?_ | dsimp only | simp only [keeps_mk_iff] | split

theorem State.tmtRegs_keeps {r₀ : State} (s : State) (c : RegCtx) (o : Nat) (hk : Keeps r₀ s) :
    RegsKeep r₀ (State.tmtRegs s c o) := by
  unfold State.tmtRegs
  repeat' first
    | with_reducible assumption | with_reducible apply State.tmtShared_keeps | with_reducible apply State.modTmt_keeps
    | with_reducible apply timeRegs_keeps | with_reducible apply State.capRegs_keeps
    | with_reducible apply RegsKeep.nil | with_reducible apply RegsKeep.cons | with_reducible apply RegsKeep.append
    | with_reducible refine RegsKeep.ite (fun _ => ?_) (fun _ => ?_)
    | with_reducible refine RegsKeep.map (fun a => ?_) | with_reducible refine RegKeeps.write (fun v => ?_)
    | with_reducible apply RegKeeps.readOnly | with_reducible refine RegKeeps.after ?_
    | with_reducible refine ran_keeps ?_ ?_ | with_reducible refine Keeps.ite (fun _ => ?_) (fun _ => ?_)
    | with_reducible refine KeepsCore.same ?_ | dsimp only | simp only [keeps_mk_iff] | split

theorem State.pwrRegs_keeps {r₀ : State} (s : State) (c : RegCtx) (o : Nat) (hk : Keeps r₀ s) :
    RegsKeep r₀ (State.pwrRegs s c o) := by
  unfold State.pwrRegs
  repeat' first
    | with_reducible assumption | with_reducible apply State.modPwr_keeps | with_reducible apply RegsKeep.nil
    | with_reducible apply RegsKeep.cons | with_reducible apply RegsKeep.append
    | with_reducible refine RegsKeep.ite (fun _ => ?_) (fun _ => ?_)
    | with_reducible refine RegsKeep.map (fun a => ?_) | with_reducible refine RegKeeps.write (fun v => ?_)
    | with_reducible apply RegKeeps.readOnly | with_reducible refine RegKeeps.after ?_
    | with_reducible refine ran_keeps ?_ ?_ | with_reducible refine Keeps.ite (fun _ => ?_) (fun _ => ?_)
    | with_reducible refine KeepsCore.same ?_ | dsimp only | simp only [keeps_mk_iff] | split

theorem State.mboxWrite_keeps {r₀ : State} (s : State) (tag off : Nat) (bs : Bytes) (hk : Keeps r₀ s) :
    Keeps r₀ (State.mboxWrite s tag off bs) := by
  unfold State.mboxWrite
  repeat' first
    | with_reducible assumption | with_reducible apply State.modStm_keeps | with_reducible apply State.mboxTake_keeps
    | with_reducible refine Keeps.ite (fun _ => ?_) (fun _ => ?_) | with_reducible refine KeepsCore.same ?_
    | dsimp only | simp only [keeps_mk_iff] | split

theorem State.stmRegs_keeps {r₀ : State} (s : State) (o : Nat) (hk : Keeps r₀ s) :
    RegsKeep r₀ (State.stmRegs s o) := by
  unfold State.stmRegs
  repeat' first
    | with_reducible assumption | with_reducible apply State.modStm_keeps | with_reducible apply bytesReg_keeps
    | with_reducible apply RegsKeep.nil | with_reducible apply RegsKeep.cons | with_reducible apply RegsKeep.append
    | with_reducible refine RegsKeep.ite (fun _ => ?_) (fun _ => ?_)
    | with_reducible refine RegsKeep.map (fun a => ?_) | with_reducible refine RegKeeps.write (fun v => ?_)
    | with_reducible apply RegKeeps.readOnly | with_reducible refine RegKeeps.after ?_
    | with_reducible refine ran_keeps ?_ ?_ | with_reducible refine Keeps.ite (fun _ => ?_) (fun _ => ?_)
    | with_reducible refine KeepsCore.same ?_ | dsimp only | simp only [keeps_mk_iff] | split

theorem State.ringCtl_keeps {r₀ : State} (s : State) (n v : Nat) (window : Bool) (hk : Keeps r₀ s) :
    Keeps r₀ (State.ringCtl s n v window) := by
  unfold State.ringCtl
  repeat' first
    | with_reducible assumption | with_reducible apply ran_keeps | with_reducible apply State.disarmRing_keeps
    | with_reducible apply State.armRing_keeps | with_reducible refine ran_keeps ?_ ?_
    | with_reducible apply execCancel_keeps | with_reducible refine Keeps.ite (fun _ => ?_) (fun _ => ?_)
    | with_reducible refine KeepsCore.same ?_ | dsimp only | simp only [keeps_mk_iff] | split

theorem State.ringRegs_keeps {r₀ : State} (s : State) (n at0 : Nat) (window : Bool) (hk : Keeps r₀ s) :
    RegsKeep r₀ (State.ringRegs s n at0 window) := by
  unfold State.ringRegs
  repeat' first
    | with_reducible assumption | with_reducible apply State.modRing_keeps | with_reducible apply State.ringCtl_keeps
    | with_reducible apply RegsKeep.nil | with_reducible apply RegsKeep.cons | with_reducible apply RegsKeep.append
    | with_reducible refine RegsKeep.ite (fun _ => ?_) (fun _ => ?_)
    | with_reducible refine RegsKeep.map (fun a => ?_) | with_reducible refine RegKeeps.write (fun v => ?_)
    | with_reducible apply RegKeeps.readOnly | with_reducible refine RegKeeps.after ?_
    | with_reducible refine ran_keeps ?_ ?_ | with_reducible refine Keeps.ite (fun _ => ?_) (fun _ => ?_)
    | with_reducible refine KeepsCore.same ?_ | dsimp only | simp only [keeps_mk_iff] | split

theorem State.sbxRegs_keeps {r₀ : State} (s : State) (c : RegCtx) (o : Nat) (hk : Keeps r₀ s) :
    RegsKeep r₀ (State.sbxRegs s c o) := by
  unfold State.sbxRegs
  repeat' first
    | with_reducible assumption | with_reducible apply ran_keeps | with_reducible apply State.ringRegs_keeps
    | with_reducible apply RegsKeep.nil | with_reducible apply RegsKeep.cons | with_reducible apply RegsKeep.append
    | with_reducible refine RegsKeep.ite (fun _ => ?_) (fun _ => ?_)
    | with_reducible refine RegsKeep.map (fun a => ?_) | with_reducible refine RegKeeps.write (fun v => ?_)
    | with_reducible apply RegKeeps.readOnly | with_reducible refine RegKeeps.after ?_
    | with_reducible refine ran_keeps ?_ ?_ | with_reducible refine ran_keeps ?_ ?_
    | with_reducible apply execTokenCfgWrite_keeps | with_reducible apply execTokenGenWrite_keeps
    | with_reducible apply execTokenValueWrite_keeps | with_reducible refine Keeps.ite (fun _ => ?_) (fun _ => ?_)
    | with_reducible refine KeepsCore.same ?_ | dsimp only | simp only [keeps_mk_iff] | split

theorem State.cstShared_keeps {r₀ : State} (s : State) (k at0 : Nat) (hk : Keeps r₀ s) :
    RegsKeep r₀ (State.cstShared s k at0) := by
  unfold State.cstShared
  repeat' first
    | with_reducible assumption | with_reducible apply ran_keeps | with_reducible apply RegsKeep.nil
    | with_reducible apply RegsKeep.cons | with_reducible apply RegsKeep.append
    | with_reducible refine RegsKeep.ite (fun _ => ?_) (fun _ => ?_)
    | with_reducible refine RegsKeep.map (fun a => ?_) | with_reducible refine RegKeeps.write (fun v => ?_)
    | with_reducible apply RegKeeps.readOnly | with_reducible refine RegKeeps.after ?_
    | with_reducible refine ran_keeps ?_ ?_ | with_reducible refine ran_keeps ?_ ?_
    | with_reducible apply execCstBankPwr_keeps | with_reducible refine Keeps.ite (fun _ => ?_) (fun _ => ?_)
    | with_reducible refine KeepsCore.same ?_ | dsimp only | simp only [keeps_mk_iff] | split

theorem State.cstCounts_keeps {r₀ : State} (s : State) (k at0 : Nat) (window : Bool) (hk : Keeps r₀ s) :
    RegsKeep r₀ (State.cstCounts s k at0 window) := by
  unfold State.cstCounts
  repeat' first
    | with_reducible assumption | with_reducible apply State.wr_keeps | with_reducible apply State.modConsist_keeps
    | with_reducible apply RegsKeep.nil | with_reducible apply RegsKeep.cons | with_reducible apply RegsKeep.append
    | with_reducible refine RegsKeep.ite (fun _ => ?_) (fun _ => ?_)
    | with_reducible refine RegsKeep.map (fun a => ?_) | with_reducible refine RegKeeps.write (fun v => ?_)
    | with_reducible apply RegKeeps.readOnly | with_reducible refine RegKeeps.after ?_
    | with_reducible refine ran_keeps ?_ ?_ | with_reducible refine Keeps.ite (fun _ => ?_) (fun _ => ?_)
    | with_reducible refine KeepsCore.same ?_ | dsimp only | simp only [keeps_mk_iff] | split

theorem State.cstPriv_keeps {r₀ : State} (s : State) (c : RegCtx) (k at0 : Nat) (hk : Keeps r₀ s) :
    RegsKeep r₀ (State.cstPriv s c k at0) := by
  unfold State.cstPriv
  repeat' first
    | with_reducible assumption | with_reducible apply ran_keeps | with_reducible apply RegsKeep.nil
    | with_reducible apply RegsKeep.cons | with_reducible apply RegsKeep.append
    | with_reducible refine RegsKeep.ite (fun _ => ?_) (fun _ => ?_)
    | with_reducible refine RegsKeep.map (fun a => ?_) | with_reducible refine RegKeeps.write (fun v => ?_)
    | with_reducible apply RegKeeps.readOnly | with_reducible refine RegKeeps.after ?_
    | with_reducible refine ran_keeps ?_ ?_ | with_reducible refine ran_keeps ?_ ?_
    | with_reducible apply execKick_keeps | with_reducible refine Keeps.ite (fun _ => ?_) (fun _ => ?_)
    | with_reducible refine KeepsCore.same ?_ | dsimp only | simp only [keeps_mk_iff] | split

theorem State.ttbRegs_keeps {r₀ : State} (s : State) (c : RegCtx) (o : Nat) (hk : Keeps r₀ s) :
    RegsKeep r₀ (State.ttbRegs s c o) := by
  unfold State.ttbRegs
  repeat' first
    | with_reducible assumption | with_reducible apply ran_keeps | with_reducible apply State.cstShared_keeps
    | with_reducible apply State.cstCounts_keeps | with_reducible apply State.cstPriv_keeps
    | with_reducible apply bytesReg_keeps | with_reducible apply RegsKeep.nil | with_reducible apply RegsKeep.cons
    | with_reducible apply RegsKeep.append | with_reducible refine RegsKeep.ite (fun _ => ?_) (fun _ => ?_)
    | with_reducible refine RegsKeep.map (fun a => ?_) | with_reducible refine RegKeeps.write (fun v => ?_)
    | with_reducible apply RegKeeps.readOnly | with_reducible refine RegKeeps.after ?_
    | with_reducible refine ran_keeps ?_ ?_ | with_reducible refine ran_keeps ?_ ?_
    | with_reducible apply execPreemptClear_keeps | with_reducible apply execTtbSlowClear_keeps
    | with_reducible refine Keeps.foldl (fun s a hk => ?_) ?_
    | with_reducible refine Keeps.foldl_fst (fun s b a hk => ?_) ?_
    | with_reducible refine Keeps.foldl_snd (fun b s a hk => ?_) ?_
    | with_reducible refine Keeps.ite (fun _ => ?_) (fun _ => ?_) | with_reducible refine KeepsCore.same ?_
    | dsimp only | simp only [keeps_mk_iff] | split

end Sys2Proof.Machine
end

