-- ==== Sys2Proof/Laws/KeepsRegMap2.lean ====
section
/-! SUPPORT. What the operations of Machine/RegMap2.lean keep. -/

namespace Sys2Proof.Machine

open Sys2Proof.Laws

theorem State.kvStatRegs_keeps {r₀ : State} (s : State) (n at0 : Nat) (window : Bool) (hk : Keeps r₀ s) :
    RegsKeep r₀ (State.kvStatRegs s n at0 window) := by
  unfold State.kvStatRegs
  repeat' first
    | with_reducible assumption | with_reducible apply State.modKvSpace_keeps | with_reducible apply RegsKeep.nil
    | with_reducible apply RegsKeep.cons | with_reducible apply RegsKeep.append
    | with_reducible refine RegsKeep.ite (fun _ => ?_) (fun _ => ?_)
    | with_reducible refine RegsKeep.map (fun a => ?_) | with_reducible refine RegKeeps.write (fun v => ?_)
    | with_reducible apply RegKeeps.readOnly | with_reducible refine RegKeeps.after ?_
    | with_reducible refine ran_keeps ?_ ?_ | with_reducible refine Keeps.ite (fun _ => ?_) (fun _ => ?_)
    | with_reducible refine KeepsCore.same ?_ | dsimp only | simp only [keeps_mk_iff] | split

theorem State.kvRecordWrite_keeps {r₀ : State} (s : State) (n off : Nat) (bs : Bytes) (hk : Keeps r₀ s) :
    Keeps r₀ (State.kvRecordWrite s n off bs) := by
  unfold State.kvRecordWrite
  repeat' first
    | with_reducible assumption | with_reducible apply State.modKvSpace_keeps | with_reducible apply ran_keeps
    | with_reducible refine ran_keeps ?_ ?_ | with_reducible apply execKvSpaceValid_keeps
    | with_reducible apply execKvSpaceInvalidate_keeps | with_reducible refine Keeps.ite (fun _ => ?_) (fun _ => ?_)
    | with_reducible refine KeepsCore.same ?_ | dsimp only | simp only [keeps_mk_iff] | split

theorem State.kvcRegs_keeps {r₀ : State} (s : State) (o : Nat) (hk : Keeps r₀ s) :
    RegsKeep r₀ (State.kvcRegs s o) := by
  unfold State.kvcRegs
  repeat' first
    | with_reducible assumption | with_reducible apply ran_keeps | with_reducible apply State.modKvc_keeps
    | with_reducible apply bytesReg_keeps | with_reducible apply State.kvStatRegs_keeps
    | with_reducible apply RegsKeep.nil | with_reducible apply RegsKeep.cons | with_reducible apply RegsKeep.append
    | with_reducible refine RegsKeep.ite (fun _ => ?_) (fun _ => ?_)
    | with_reducible refine RegsKeep.map (fun a => ?_) | with_reducible refine RegKeeps.write (fun v => ?_)
    | with_reducible apply RegKeeps.readOnly | with_reducible refine RegKeeps.after ?_
    | with_reducible refine ran_keeps ?_ ?_ | with_reducible refine ran_keeps ?_ ?_
    | with_reducible apply execKvcEnable_keeps | with_reducible refine Keeps.ite (fun _ => ?_) (fun _ => ?_)
    | with_reducible refine KeepsCore.same ?_ | with_reducible refine KeepsCore.otherPins ?_ rfl | dsimp only
    | simp only [keeps_mk_iff] | split

theorem State.encCmd_keeps {r₀ : State} (s : State) (c : RegCtx) (v : Nat) (hk : Keeps r₀ s) :
    Keeps r₀ (State.encCmd s c v) := by
  unfold State.encCmd
  repeat' first
    | with_reducible assumption | with_reducible apply ran_keeps | with_reducible refine ran_keeps ?_ ?_
    | with_reducible apply execEnclaveCreate_keeps | with_reducible apply execEnclaveAdd_keeps
    | with_reducible apply execEnclaveSeal_keeps | with_reducible apply execEnclaveDestroy_keeps
    | with_reducible apply execEnclaveSelect_keeps | with_reducible refine Keeps.ite (fun _ => ?_) (fun _ => ?_)
    | with_reducible refine KeepsCore.same ?_ | dsimp only | simp only [keeps_mk_iff] | split

theorem State.slcRegs_keeps {r₀ : State} (s : State) (c : RegCtx) (o : Nat) (hartsStopped : Bool) (hk : Keeps r₀ s) :
    RegsKeep r₀ (State.slcRegs s c o hartsStopped) := by
  unfold State.slcRegs
  repeat' first
    | with_reducible assumption | with_reducible apply State.encCmd_keeps | with_reducible apply ran_keeps
    | with_reducible apply bytesReg_keeps | with_reducible apply RegsKeep.nil | with_reducible apply RegsKeep.cons
    | with_reducible apply RegsKeep.append | with_reducible refine RegsKeep.ite (fun _ => ?_) (fun _ => ?_)
    | with_reducible refine RegsKeep.map (fun a => ?_) | with_reducible refine RegKeeps.write (fun v => ?_)
    | with_reducible apply RegKeeps.readOnly | with_reducible refine RegKeeps.after ?_
    | with_reducible refine ran_keeps ?_ ?_ | with_reducible refine ran_keeps ?_ ?_
    | with_reducible apply execDbgEnWrite_keeps | with_reducible apply execSecureRel_keeps
    | with_reducible refine Keeps.ite (fun _ => ?_) (fun _ => ?_) | with_reducible refine KeepsCore.same ?_
    | dsimp only | simp only [keeps_mk_iff] | split

theorem State.pmuCtl_keeps {r₀ : State} (s : State) (m v : Nat) (virt : Bool) (hk : Keeps r₀ s) :
    Keeps r₀ (State.pmuCtl s m v virt) := by
  unfold State.pmuCtl
  repeat' first
    | with_reducible assumption | with_reducible apply State.modMonitor_keeps | with_reducible apply ran_keeps
    | with_reducible refine ran_keeps ?_ ?_ | with_reducible apply execPmuClear_keeps
    | with_reducible refine Keeps.ite (fun _ => ?_) (fun _ => ?_) | with_reducible refine KeepsCore.same ?_
    | dsimp only | simp only [keeps_mk_iff] | split

theorem State.pmuRegs_keeps {r₀ : State} (s : State) (m at0 : Nat) (window : Bool) (hk : Keeps r₀ s) :
    RegsKeep r₀ (State.pmuRegs s m at0 window) := by
  unfold State.pmuRegs
  repeat' first
    | with_reducible assumption | with_reducible apply State.pmuCtl_keeps
    | with_reducible apply State.modMonitor_keeps | with_reducible apply RegsKeep.nil
    | with_reducible apply RegsKeep.cons | with_reducible apply RegsKeep.append
    | with_reducible refine RegsKeep.ite (fun _ => ?_) (fun _ => ?_)
    | with_reducible refine RegsKeep.map (fun a => ?_) | with_reducible refine RegKeeps.write (fun v => ?_)
    | with_reducible apply RegKeeps.readOnly | with_reducible refine RegKeeps.after ?_
    | with_reducible refine ran_keeps ?_ ?_ | with_reducible refine Keeps.foldl (fun s a hk => ?_) ?_
    | with_reducible refine Keeps.foldl_fst (fun s b a hk => ?_) ?_
    | with_reducible refine Keeps.foldl_snd (fun b s a hk => ?_) ?_
    | with_reducible refine Keeps.ite (fun _ => ?_) (fun _ => ?_) | with_reducible refine KeepsCore.same ?_
    | dsimp only | simp only [keeps_mk_iff] | split

theorem State.blockPmu_keeps {r₀ : State} (s : State) (m o : Nat) (hk : Keeps r₀ s) :
    RegsKeep r₀ (State.blockPmu s m o) := by
  unfold State.blockPmu
  repeat' first
    | with_reducible assumption | with_reducible apply State.pmuRegs_keeps | with_reducible apply RegsKeep.nil
    | with_reducible apply RegsKeep.cons | with_reducible apply RegsKeep.append
    | with_reducible refine RegsKeep.ite (fun _ => ?_) (fun _ => ?_)
    | with_reducible refine RegsKeep.map (fun a => ?_) | with_reducible refine RegKeeps.write (fun v => ?_)
    | with_reducible apply RegKeeps.readOnly | with_reducible refine RegKeeps.after ?_
    | with_reducible refine ran_keeps ?_ ?_ | with_reducible refine Keeps.ite (fun _ => ?_) (fun _ => ?_)
    | with_reducible refine KeepsCore.same ?_ | dsimp only | simp only [keeps_mk_iff] | split

theorem State.bsnRegs_keeps {r₀ : State} (s : State) (n : Nat) (hk : Keeps r₀ s) :
    RegsKeep r₀ (State.bsnRegs s n) := by
  unfold State.bsnRegs
  repeat' first
    | with_reducible assumption | with_reducible apply State.modBasin_keeps | with_reducible apply State.pmuRegs_keeps
    | with_reducible apply RegsKeep.nil | with_reducible apply RegsKeep.cons | with_reducible apply RegsKeep.append
    | with_reducible refine RegsKeep.ite (fun _ => ?_) (fun _ => ?_)
    | with_reducible refine RegsKeep.map (fun a => ?_) | with_reducible refine RegKeeps.write (fun v => ?_)
    | with_reducible apply RegKeeps.readOnly | with_reducible refine RegKeeps.after ?_
    | with_reducible refine ran_keeps ?_ ?_ | with_reducible refine Keeps.ite (fun _ => ?_) (fun _ => ?_)
    | with_reducible refine KeepsCore.same ?_ | dsimp only | simp only [keeps_mk_iff] | split

theorem State.bankRegs_keeps {r₀ : State} (s : State) (c : RegCtx) (block o : Nat) (hk : Keeps r₀ s) :
    RegsKeep r₀ (State.bankRegs s c block o) := by
  unfold State.bankRegs
  repeat' first
    | with_reducible assumption | with_reducible apply State.bankCtlWrite_keeps
    | with_reducible apply State.modBank_keeps | with_reducible apply RegsKeep.nil
    | with_reducible apply RegsKeep.cons | with_reducible apply RegsKeep.append
    | with_reducible refine RegsKeep.ite (fun _ => ?_) (fun _ => ?_)
    | with_reducible refine RegsKeep.map (fun a => ?_) | with_reducible refine RegKeeps.write (fun v => ?_)
    | with_reducible apply RegKeeps.readOnly | with_reducible refine RegKeeps.after ?_
    | with_reducible refine ran_keeps ?_ ?_ | with_reducible refine Keeps.ite (fun _ => ?_) (fun _ => ?_)
    | with_reducible refine KeepsCore.same ?_ | dsimp only | simp only [keeps_mk_iff] | split

theorem State.bankBlockRegs_keeps {r₀ : State} (s : State) (c : RegCtx) (block o : Nat) (hk : Keeps r₀ s) :
    RegsKeep r₀ (State.bankBlockRegs s c block o) := by
  unfold State.bankBlockRegs
  repeat' first
    | with_reducible assumption | with_reducible apply State.bankRegs_keeps
    | with_reducible apply State.modBlock_keeps | with_reducible apply ran_keeps
    | with_reducible apply State.blockPmu_keeps | with_reducible apply RegsKeep.nil
    | with_reducible apply RegsKeep.cons | with_reducible apply RegsKeep.append
    | with_reducible refine RegsKeep.ite (fun _ => ?_) (fun _ => ?_)
    | with_reducible refine RegsKeep.map (fun a => ?_) | with_reducible refine RegKeeps.write (fun v => ?_)
    | with_reducible apply RegKeeps.readOnly | with_reducible refine RegKeeps.after ?_
    | with_reducible refine ran_keeps ?_ ?_ | with_reducible refine ran_keeps ?_ ?_
    | with_reducible apply execMarchStart_keeps | with_reducible refine Keeps.ite (fun _ => ?_) (fun _ => ?_)
    | with_reducible refine KeepsCore.same ?_ | dsimp only | simp only [keeps_mk_iff] | split

theorem State.jctSideRegs_keeps {r₀ : State} (s : State) (x : Nat) (hk : Keeps r₀ s) :
    RegsKeep r₀ (State.jctSideRegs s x) := by
  unfold State.jctSideRegs
  repeat' first
    | with_reducible assumption | with_reducible apply State.modSide_keeps | with_reducible apply RegsKeep.nil
    | with_reducible apply RegsKeep.cons | with_reducible apply RegsKeep.append
    | with_reducible refine RegsKeep.ite (fun _ => ?_) (fun _ => ?_)
    | with_reducible refine RegsKeep.map (fun a => ?_) | with_reducible refine RegKeeps.write (fun v => ?_)
    | with_reducible apply RegKeeps.readOnly | with_reducible refine RegKeeps.after ?_
    | with_reducible refine ran_keeps ?_ ?_ | with_reducible refine Keeps.ite (fun _ => ?_) (fun _ => ?_)
    | with_reducible refine KeepsCore.same ?_ | dsimp only | simp only [keeps_mk_iff] | split

theorem State.jctWindowRegs_keeps {r₀ : State} (s : State) (x w at0 : Nat) (hk : Keeps r₀ s) :
    RegsKeep r₀ (State.jctWindowRegs s x w at0) := by
  unfold State.jctWindowRegs
  repeat' first
    | with_reducible assumption | with_reducible apply State.wr_keeps | with_reducible apply State.modSide_keeps
    | with_reducible apply RegsKeep.nil | with_reducible apply RegsKeep.cons | with_reducible apply RegsKeep.append
    | with_reducible refine RegsKeep.ite (fun _ => ?_) (fun _ => ?_)
    | with_reducible refine RegsKeep.map (fun a => ?_) | with_reducible refine RegKeeps.write (fun v => ?_)
    | with_reducible apply RegKeeps.readOnly | with_reducible refine RegKeeps.after ?_
    | with_reducible refine ran_keeps ?_ ?_ | with_reducible refine Keeps.ite (fun _ => ?_) (fun _ => ?_)
    | with_reducible refine KeepsCore.same ?_ | dsimp only | simp only [keeps_mk_iff] | split

theorem State.jctRegs_keeps {r₀ : State} (s : State) (o : Nat) (hk : Keeps r₀ s) :
    RegsKeep r₀ (State.jctRegs s o) := by
  unfold State.jctRegs
  repeat' first
    | with_reducible assumption | with_reducible apply State.jctSideRegs_keeps
    | with_reducible apply State.jctWindowRegs_keeps | with_reducible apply State.blockPmu_keeps
    | with_reducible apply RegsKeep.nil | with_reducible apply RegsKeep.cons | with_reducible apply RegsKeep.append
    | with_reducible refine RegsKeep.ite (fun _ => ?_) (fun _ => ?_)
    | with_reducible refine RegsKeep.map (fun a => ?_) | with_reducible refine RegKeeps.write (fun v => ?_)
    | with_reducible apply RegKeeps.readOnly | with_reducible refine RegKeeps.after ?_
    | with_reducible refine ran_keeps ?_ ?_ | with_reducible refine Keeps.ite (fun _ => ?_) (fun _ => ?_)
    | with_reducible refine KeepsCore.same ?_ | dsimp only | simp only [keeps_mk_iff] | split

theorem State.mportRegs_keeps {r₀ : State} (s : State) (n : Nat) (hk : Keeps r₀ s) :
    RegsKeep r₀ (State.mportRegs s n) := by
  unfold State.mportRegs
  repeat' first
    | with_reducible assumption | with_reducible apply State.wr_keeps | with_reducible apply State.modMport_keeps
    | with_reducible apply RegsKeep.nil | with_reducible apply RegsKeep.cons | with_reducible apply RegsKeep.append
    | with_reducible refine RegsKeep.ite (fun _ => ?_) (fun _ => ?_)
    | with_reducible refine RegsKeep.map (fun a => ?_) | with_reducible refine RegKeeps.write (fun v => ?_)
    | with_reducible apply RegKeeps.readOnly | with_reducible refine RegKeeps.after ?_
    | with_reducible refine ran_keeps ?_ ?_ | with_reducible refine Keeps.ite (fun _ => ?_) (fun _ => ?_)
    | with_reducible refine KeepsCore.same ?_ | dsimp only | simp only [keeps_mk_iff] | split

theorem State.mwlRegs_keeps {r₀ : State} (s : State) (o : Nat) (hk : Keeps r₀ s) :
    RegsKeep r₀ (State.mwlRegs s o) := by
  unfold State.mwlRegs
  repeat' first
    | with_reducible assumption | with_reducible apply State.reach_keeps | with_reducible apply State.mportRegs_keeps
    | with_reducible apply bytesReg_keeps | with_reducible apply State.blockPmu_keeps
    | with_reducible apply RegsKeep.nil | with_reducible apply RegsKeep.cons | with_reducible apply RegsKeep.append
    | with_reducible refine RegsKeep.ite (fun _ => ?_) (fun _ => ?_)
    | with_reducible refine RegsKeep.map (fun a => ?_) | with_reducible refine RegKeeps.write (fun v => ?_)
    | with_reducible apply RegKeeps.readOnly | with_reducible refine RegKeeps.after ?_
    | with_reducible refine ran_keeps ?_ ?_ | with_reducible refine Keeps.ite (fun _ => ?_) (fun _ => ?_)
    | with_reducible refine KeepsCore.same ?_ | dsimp only | simp only [keeps_mk_iff] | split

theorem State.rtsShared_keeps {r₀ : State} (s : State) (i : Nat) (window : Bool) (hk : Keeps r₀ s) :
    RegsKeep r₀ (State.rtsShared s i window) := by
  unfold State.rtsShared
  repeat' first
    | with_reducible assumption | with_reducible apply State.modRts_keeps | with_reducible apply Matmul.run_keeps
    | with_reducible apply DmaCmd.run_keeps | with_reducible apply RillCmd.run_keeps
    | with_reducible apply AttnEnv.run_keeps | with_reducible apply AttnCmd.run_keeps
    | with_reducible apply ConvCmd.run_keeps | with_reducible apply RegsKeep.nil | with_reducible apply RegsKeep.cons
    | with_reducible apply RegsKeep.append | with_reducible refine RegsKeep.ite (fun _ => ?_) (fun _ => ?_)
    | with_reducible refine RegsKeep.map (fun a => ?_) | with_reducible refine RegKeeps.write (fun v => ?_)
    | with_reducible apply RegKeeps.readOnly | with_reducible refine RegKeeps.after ?_
    | with_reducible refine ran_keeps ?_ ?_ | with_reducible refine Keeps.ite (fun _ => ?_) (fun _ => ?_)
    | with_reducible refine KeepsCore.same ?_ | dsimp only | simp only [keeps_mk_iff] | split

theorem State.rtsRegs_keeps {r₀ : State} (s : State) (i o : Nat) (hk : Keeps r₀ s) :
    RegsKeep r₀ (State.rtsRegs s i o) := by
  unfold State.rtsRegs
  repeat' first
    | with_reducible assumption | with_reducible apply ran_keeps | with_reducible apply State.modRts_keeps
    | with_reducible apply State.rtsShared_keeps | with_reducible apply State.blockPmu_keeps
    | with_reducible apply RegsKeep.nil | with_reducible apply RegsKeep.cons | with_reducible apply RegsKeep.append
    | with_reducible refine RegsKeep.ite (fun _ => ?_) (fun _ => ?_)
    | with_reducible refine RegsKeep.map (fun a => ?_) | with_reducible refine RegKeeps.write (fun v => ?_)
    | with_reducible apply RegKeeps.readOnly | with_reducible refine RegKeeps.after ?_
    | with_reducible refine ran_keeps ?_ ?_ | with_reducible refine ran_keeps ?_ ?_
    | with_reducible apply execWorldOwnerWrite_keeps | with_reducible apply execRtsOverrunClear_keeps
    | with_reducible refine Keeps.ite (fun _ => ?_) (fun _ => ?_) | with_reducible refine KeepsCore.same ?_
    | dsimp only | simp only [keeps_mk_iff] | split

theorem State.ftnRegs_keeps {r₀ : State} (s : State) (o : Nat) (hk : Keeps r₀ s) :
    RegsKeep r₀ (State.ftnRegs s o) := by
  unfold State.ftnRegs
  repeat' first
    | with_reducible assumption | with_reducible apply State.modStream_keeps | with_reducible apply RegsKeep.nil
    | with_reducible apply RegsKeep.cons | with_reducible apply RegsKeep.append
    | with_reducible refine RegsKeep.ite (fun _ => ?_) (fun _ => ?_)
    | with_reducible refine RegsKeep.map (fun a => ?_) | with_reducible refine RegKeeps.write (fun v => ?_)
    | with_reducible apply RegKeeps.readOnly | with_reducible refine RegKeeps.after ?_
    | with_reducible refine ran_keeps ?_ ?_ | with_reducible refine Keeps.ite (fun _ => ?_) (fun _ => ?_)
    | with_reducible refine KeepsCore.same ?_ | dsimp only | simp only [keeps_mk_iff] | split

theorem State.queueCfg_keeps {r₀ : State} (s : State) (q v : Nat) (hk : Keeps r₀ s) :
    Keeps r₀ (State.queueCfg s q v) := by
  unfold State.queueCfg
  repeat' first
    | with_reducible assumption | with_reducible apply ran_keeps | with_reducible apply State.modQueue_keeps
    | with_reducible refine ran_keeps ?_ ?_ | with_reducible apply execQDisable_keeps
    | with_reducible apply execQEnable_keeps | with_reducible refine Keeps.ite (fun _ => ?_) (fun _ => ?_)
    | with_reducible refine KeepsCore.same ?_ | dsimp only | simp only [keeps_mk_iff] | split

theorem State.queueRegs_keeps {r₀ : State} (s : State) (q at0 : Nat) (hk : Keeps r₀ s) :
    RegsKeep r₀ (State.queueRegs s q at0) := by
  unfold State.queueRegs
  repeat' first
    | with_reducible assumption | with_reducible apply State.modQueue_keeps
    | with_reducible apply State.queueCfg_keeps | with_reducible apply RegsKeep.nil
    | with_reducible apply RegsKeep.cons | with_reducible apply RegsKeep.append
    | with_reducible refine RegsKeep.ite (fun _ => ?_) (fun _ => ?_)
    | with_reducible refine RegsKeep.map (fun a => ?_) | with_reducible refine RegKeeps.write (fun v => ?_)
    | with_reducible apply RegKeeps.readOnly | with_reducible refine RegKeeps.after ?_
    | with_reducible refine ran_keeps ?_ ?_ | with_reducible refine Keeps.ite (fun _ => ?_) (fun _ => ?_)
    | with_reducible refine KeepsCore.same ?_ | dsimp only | simp only [keeps_mk_iff] | split

theorem State.portRegs_keeps {r₀ : State} (s : State) (p : Nat) (hk : Keeps r₀ s) :
    RegsKeep r₀ (State.portRegs s p) := by
  unfold State.portRegs
  repeat' first
    | with_reducible assumption | with_reducible apply State.modPort_keeps | with_reducible apply RegsKeep.nil
    | with_reducible apply RegsKeep.cons | with_reducible apply RegsKeep.append
    | with_reducible refine RegsKeep.ite (fun _ => ?_) (fun _ => ?_)
    | with_reducible refine RegsKeep.map (fun a => ?_) | with_reducible refine RegKeeps.write (fun v => ?_)
    | with_reducible apply RegKeeps.readOnly | with_reducible refine RegKeeps.after ?_
    | with_reducible refine ran_keeps ?_ ?_ | with_reducible refine Keeps.ite (fun _ => ?_) (fun _ => ?_)
    | with_reducible refine KeepsCore.same ?_ | dsimp only | simp only [keeps_mk_iff] | split

theorem State.entryCmd_keeps {r₀ : State} (s : State) (path v : Nat) (hk : Keeps r₀ s) :
    Keeps r₀ (State.entryCmd s path v) := by
  unfold State.entryCmd
  repeat' first
    | with_reducible assumption | with_reducible apply ran_keeps | with_reducible refine ran_keeps ?_ ?_
    | with_reducible apply execCommit_keeps | with_reducible apply execResetCount_keeps
    | with_reducible apply execEntryRead_keeps | with_reducible refine Keeps.ite (fun _ => ?_) (fun _ => ?_)
    | with_reducible refine KeepsCore.same ?_ | dsimp only | simp only [keeps_mk_iff] | split

theorem State.ptsRegs_keeps {r₀ : State} (s : State) (c : RegCtx) (o : Nat) (hk : Keeps r₀ s) :
    RegsKeep r₀ (State.ptsRegs s c o) := by
  unfold State.ptsRegs
  repeat' first
    | with_reducible assumption | with_reducible apply State.modPts_keeps | with_reducible apply State.entryCmd_keeps
    | with_reducible apply bytesReg_keeps | with_reducible apply State.portRegs_keeps
    | with_reducible apply State.queueRegs_keeps | with_reducible apply State.blockPmu_keeps
    | with_reducible apply RegsKeep.nil | with_reducible apply RegsKeep.cons | with_reducible apply RegsKeep.append
    | with_reducible refine RegsKeep.ite (fun _ => ?_) (fun _ => ?_)
    | with_reducible refine RegsKeep.map (fun a => ?_) | with_reducible refine RegKeeps.write (fun v => ?_)
    | with_reducible apply RegKeeps.readOnly | with_reducible refine RegKeeps.after ?_
    | with_reducible refine ran_keeps ?_ ?_ | with_reducible refine Keeps.ite (fun _ => ?_) (fun _ => ?_)
    | with_reducible refine KeepsCore.same ?_ | dsimp only | simp only [keeps_mk_iff] | split

end Sys2Proof.Machine
end

