-- ==== Sys2Proof/Laws/KeepsRegisters.lean ====
section
/-! SUPPORT. What the operations of Machine/Registers.lean keep. -/

namespace Sys2Proof.Machine

open Sys2Proof.Laws

theorem regAt_mem {l : List Reg} {o : Nat} {g : Reg} (h : regAt l o = some g) : g ∈ l := List.mem_of_find?_eq_some h

theorem RegKeeps.getD {r s : State} {g : Reg} (h : RegKeeps r g) (hk : Keeps r s) : Keeps r (g.after.getD s) :=
  OptKeeps.getD h.2 hk

theorem moveRegs_keeps {r : State} {base : Nat} {l : List Reg} (h : RegsKeep r l) : RegsKeep r (moveRegs base l) :=
  fun x hx => by
    obtain ⟨g, hg, e⟩ := List.mem_map.mp hx
    rw [← e]; exact h g hg

theorem Reg.shown_keeps {r : State} {g : Reg} {at0 : Nat} {rw : Bool} (h : RegKeeps r g) : RegKeeps r (g.shown at0 rw) := by
  refine ⟨fun f e v => ?_, h.2⟩
  cases rw with
  | true => exact h.1 f e v
  | false => cases e

theorem pickRegs_keeps {r : State} {l : List Reg} {m : List (Nat × Nat)} (h : RegsKeep r l) : RegsKeep r (pickRegs l m) :=
  fun x hx => by
    obtain ⟨e, _, he⟩ := List.mem_filterMap.mp hx
    cases hf : l.find? (fun r => r.base == e.1) with
    | none => rw [hf] at he; cases he
    | some g =>
      rw [hf] at he
      cases he
      exact Reg.shown_keeps (h g (List.mem_of_find?_eq_some hf))

theorem State.blockRegs_keeps {r₀ : State} (s : State) (c : RegCtx) (b : Blk) (o : Nat) (hartsStopped : Bool) (hk : Keeps r₀ s) :
    RegsKeep r₀ (State.blockRegs s c b o hartsStopped) := by
  unfold State.blockRegs
  repeat' first
    | with_reducible assumption | with_reducible apply State.supRegs_keeps | with_reducible apply State.ilkRegs_keeps
    | with_reducible apply State.hdwRegs_keeps | with_reducible apply State.tmtRegs_keeps
    | with_reducible apply State.pwrRegs_keeps | with_reducible apply State.blockPmu_keeps
    | with_reducible apply State.stmRegs_keeps | with_reducible apply State.sbxRegs_keeps
    | with_reducible apply State.ttbRegs_keeps | with_reducible apply State.kvcRegs_keeps
    | with_reducible apply State.slcRegs_keeps | with_reducible apply State.bsnRegs_keeps
    | with_reducible apply State.bankBlockRegs_keeps | with_reducible apply State.jctRegs_keeps
    | with_reducible apply State.mwlRegs_keeps | with_reducible apply State.rtsRegs_keeps
    | with_reducible apply State.ftnRegs_keeps | with_reducible apply State.ptsRegs_keeps
    | with_reducible apply RegsKeep.nil | with_reducible apply RegsKeep.cons | with_reducible apply RegsKeep.append
    | with_reducible refine RegsKeep.ite (fun _ => ?_) (fun _ => ?_)
    | with_reducible refine RegsKeep.map (fun a => ?_) | with_reducible refine RegKeeps.write (fun v => ?_)
    | with_reducible apply RegKeeps.readOnly | with_reducible refine RegKeeps.after ?_
    | with_reducible refine ran_keeps ?_ ?_ | with_reducible refine Keeps.ite (fun _ => ?_) (fun _ => ?_)
    | with_reducible refine KeepsCore.same ?_ | with_reducible refine KeepsCore.ilk ?_ rfl | dsimp only
    | simp only [keeps_mk_iff] | split

theorem State.countAt_keeps {r₀ : State} (s : State) (m : Option Nat) (hk : Keeps r₀ s) :
    Keeps r₀ (State.countAt s m) := by
  unfold State.countAt
  repeat' first
    | with_reducible assumption | with_reducible apply State.countOn_keeps
    | with_reducible refine Keeps.ite (fun _ => ?_) (fun _ => ?_) | with_reducible refine KeepsCore.same ?_
    | dsimp only | simp only [keeps_mk_iff] | split

theorem State.slotWrite_keeps {r₀ : State} (s : State) (c : RegCtx) (b : Blk) (o : Nat) (bs : Bytes) (hk : Keeps r₀ s) :
    OptKeeps r₀ (State.slotWrite s c b o bs) := by
  unfold State.slotWrite
  repeat' first
    | with_reducible assumption | with_reducible apply State.mboxWrite_keeps | with_reducible apply ran_keeps
    | with_reducible apply State.kvRecordWrite_keeps | with_reducible apply State.modPts_keeps
    | with_reducible apply OptKeeps.none | with_reducible refine OptKeeps.some ?_
    | with_reducible refine OptKeeps.ite (fun _ => ?_) (fun _ => ?_) | with_reducible refine ran_keeps ?_ ?_
    | with_reducible apply execPageReqTake_keeps | with_reducible apply execRegionEntryWrite_keeps
    | with_reducible refine Keeps.ite (fun _ => ?_) (fun _ => ?_) | with_reducible refine KeepsCore.same ?_
    | dsimp only | simp only [keeps_mk_iff] | split

theorem Reg.take_keeps {r₀ : State} (r : Reg) (o size v : Nat) (s : State) (hk : Keeps r₀ s) (hr : RegKeeps r₀ r) :
    Keeps r₀ (Reg.take r o size v s) := by
  unfold Reg.take
  split
  · exact hk
  · rename_i f hf
    split
    · exact hr.1 f hf _
    · split
      · exact hr.1 f hf _
      · exact hr.1 f hf _

theorem State.readHalf_keeps {r₀ : State} (s : State) (l : List Reg) (path o : Nat) (hk : Keeps r₀ s) (hl : RegsKeep r₀ l) :
    Keeps r₀ (State.readHalf s l path o).2 := by
  unfold State.readHalf
  split
  · exact hk
  · rename_i g hg
    have ht : Keeps r₀ (g.after.getD s) := RegKeeps.getD (hl g (regAt_mem hg)) hk
    dsimp only
    repeat' first
      | with_reducible assumption | with_reducible refine KeepsCore.same ?_ | simp only [keeps_mk_iff] | split

theorem State.readRegs_keeps {r₀ : State} (s : State) (regs : State → Nat → List Reg) (path o len : Nat) (hk : Keeps r₀ s)
    (hr : ∀ s q, Keeps r₀ s → RegsKeep r₀ (regs s q)) : Keeps r₀ (State.readRegs s regs path o len).2 := by
  unfold State.readRegs
  split
  · exact State.readHalf_keeps _ _ _ _ hk (hr _ _ hk)
  · split
    · rename_i g hg
      split
      · exact RegKeeps.getD (hr _ _ hk g (regAt_mem hg)) hk
      · have ha := State.readHalf_keeps s (regs s o) path o hk (hr _ _ hk)
        exact State.readHalf_keeps _ _ _ _ ha (hr _ _ ha)
    · exact State.readHalf_keeps _ _ _ _ hk (hr _ _ hk)

theorem State.writeHalf_keeps {r₀ : State} (s : State) (l : List Reg) (o size v : Nat) (hk : Keeps r₀ s)
    (hl : RegsKeep r₀ l) : Keeps r₀ (State.writeHalf s l o size v) := by
  unfold State.writeHalf
  split
  · rename_i g hg
    exact Reg.take_keeps _ _ _ _ _ hk (hl g (regAt_mem hg))
  · exact hk

theorem State.writeRegs_keeps {r₀ : State} (s : State) (regs : State → Nat → List Reg) (o len v : Nat) (hk : Keeps r₀ s)
    (hr : ∀ s q, Keeps r₀ s → RegsKeep r₀ (regs s q)) : Keeps r₀ (State.writeRegs s regs o len v) := by
  unfold State.writeRegs
  split
  · exact State.writeHalf_keeps _ _ _ _ _ hk (hr _ _ hk)
  · split
    · rename_i g hg
      have hg' := hr _ _ hk g (regAt_mem hg)
      split
      · exact Reg.take_keeps _ _ _ _ _ hk hg'
      · have ha := Reg.take_keeps g o 4 (v % 2 ^ 32) s hk hg'
        exact State.writeHalf_keeps _ _ _ _ _ ha (hr _ _ ha)
    · exact State.writeHalf_keeps _ _ _ _ _ hk (hr _ _ hk)

theorem State.refuse_keeps {r₀ : State} (s : State) (hk : Keeps r₀ s) :
    Keeps r₀ (State.refuse s) := by
  unfold State.refuse
  repeat' first
    | with_reducible assumption | with_reducible refine Keeps.ite (fun _ => ?_) (fun _ => ?_)
    | with_reducible refine KeepsCore.same ?_ | dsimp only | simp only [keeps_mk_iff] | split

theorem State.acked_keeps {r₀ : State} (s : State) (hk : Keeps r₀ s) :
    Keeps r₀ (State.acked s) := by
  unfold State.acked
  repeat' first
    | with_reducible assumption | with_reducible refine Keeps.ite (fun _ => ?_) (fun _ => ?_)
    | with_reducible refine KeepsCore.same ?_ | dsimp only | simp only [keeps_mk_iff] | split

theorem State.answeringRegs_keeps {r₀ : State} (s : State) (c : RegCtx) (b : Blk) (hartsStopped : Bool) (q : Nat) (hk : Keeps r₀ s) :
    RegsKeep r₀ (State.answeringRegs s c b hartsStopped q) := by
  unfold State.answeringRegs
  repeat' first
    | with_reducible assumption | with_reducible apply State.blockRegs_keeps | with_reducible apply RegsKeep.nil
    | with_reducible apply RegsKeep.cons | with_reducible apply RegsKeep.append
    | with_reducible refine RegsKeep.ite (fun _ => ?_) (fun _ => ?_)
    | with_reducible refine RegsKeep.map (fun a => ?_) | with_reducible refine RegKeeps.write (fun v => ?_)
    | with_reducible apply RegKeeps.readOnly | with_reducible refine RegKeeps.after ?_
    | with_reducible refine ran_keeps ?_ ?_ | with_reducible refine Keeps.ite (fun _ => ?_) (fun _ => ?_)
    | with_reducible refine KeepsCore.same ?_ | dsimp only | simp only [keeps_mk_iff] | split

theorem State.privWrite_keeps {r₀ : State} (s : State) (c : RegCtx) (b : Blk) (p len : Nat) (bs : Bytes)
    (hartsStopped : Bool) (hk : Keeps r₀ s) : Keeps r₀ (State.privWrite s c b p len bs hartsStopped) := by
  unfold State.privWrite
  refine OptKeeps.getD (OptKeeps.ite (fun _ => State.slotWrite_keeps _ _ _ _ _ hk) fun _ => OptKeeps.none) ?_
  exact State.acked_keeps _ (State.writeRegs_keeps _ _ _ _ _ hk fun _ _ h => State.answeringRegs_keeps _ _ _ _ _ h)

theorem State.privRead_keeps {r₀ : State} (s : State) (c : RegCtx) (b : Blk) (base p len : Nat) (hartsStopped : Bool)
    (hk : Keeps r₀ s) : Keeps r₀ (State.privRead s c b base p len hartsStopped) :=
  State.readRegs_keeps _ _ _ _ _ hk fun _ _ h => moveRegs_keeps (State.answeringRegs_keeps _ _ _ _ _ h)

theorem State.privAccess_keeps {r₀ : State} (s : State) (c : RegCtx) (o len : Nat) (write : Bool) (data : Bytes) (hartsStopped : Bool) (hk : Keeps r₀ s) :
    Keeps r₀ (State.privAccess s c o len write data hartsStopped) := by
  unfold State.privAccess
  repeat' first
    | with_reducible assumption | with_reducible apply State.refuse_keeps | with_reducible apply State.countAt_keeps
    | with_reducible apply State.privWrite_keeps | with_reducible apply State.acked_keeps
    | with_reducible apply State.privRead_keeps | with_reducible refine Keeps.ite (fun _ => ?_) (fun _ => ?_)
    | with_reducible refine KeepsCore.same ?_ | dsimp only | simp only [keeps_mk_iff] | split

theorem State.windowTtb_keeps {r₀ : State} (s : State) (c : RegCtx) (k q : Nat) (hk : Keeps r₀ s) :
    RegsKeep r₀ (State.windowTtb s c k q) := by
  unfold State.windowTtb
  repeat' first
    | with_reducible assumption | with_reducible apply State.cstShared_keeps
    | with_reducible apply State.cstCounts_keeps | with_reducible apply bytesReg_keeps
    | with_reducible apply RegsKeep.nil | with_reducible apply RegsKeep.cons | with_reducible apply RegsKeep.append
    | with_reducible refine RegsKeep.ite (fun _ => ?_) (fun _ => ?_)
    | with_reducible refine RegsKeep.map (fun a => ?_) | with_reducible refine RegKeeps.write (fun v => ?_)
    | with_reducible apply RegKeeps.readOnly | with_reducible refine RegKeeps.after ?_
    | with_reducible refine ran_keeps ?_ ?_ | with_reducible refine Keeps.ite (fun _ => ?_) (fun _ => ?_)
    | with_reducible refine KeepsCore.same ?_ | dsimp only | simp only [keeps_mk_iff] | split

theorem State.windowKvc_keeps {r₀ : State} (s : State) (k q : Nat) (hk : Keeps r₀ s) :
    RegsKeep r₀ (State.windowKvc s k q) := by
  unfold State.windowKvc
  repeat' first
    | with_reducible assumption | with_reducible apply State.kvStatRegs_keeps | with_reducible apply RegsKeep.nil
    | with_reducible apply RegsKeep.cons | with_reducible apply RegsKeep.append
    | with_reducible refine RegsKeep.ite (fun _ => ?_) (fun _ => ?_)
    | with_reducible refine RegsKeep.map (fun a => ?_) | with_reducible refine RegKeeps.write (fun v => ?_)
    | with_reducible apply RegKeeps.readOnly | with_reducible refine RegKeeps.after ?_
    | with_reducible refine ran_keeps ?_ ?_ | with_reducible refine Keeps.ite (fun _ => ?_) (fun _ => ?_)
    | with_reducible refine KeepsCore.same ?_ | dsimp only | simp only [keeps_mk_iff] | split

theorem State.windowRts_keeps {r₀ : State} (s : State) (k i : Nat) (hk : Keeps r₀ s) :
    RegsKeep r₀ (State.windowRts s k i) := by
  unfold State.windowRts
  repeat' first
    | with_reducible assumption | with_reducible apply moveRegs_keeps | with_reducible apply State.rtsShared_keeps
    | with_reducible apply RegsKeep.nil | with_reducible apply RegsKeep.cons | with_reducible apply RegsKeep.append
    | with_reducible refine RegsKeep.ite (fun _ => ?_) (fun _ => ?_)
    | with_reducible refine RegsKeep.map (fun a => ?_) | with_reducible refine RegKeeps.write (fun v => ?_)
    | with_reducible apply RegKeeps.readOnly | with_reducible refine RegKeeps.after ?_
    | with_reducible refine ran_keeps ?_ ?_ | with_reducible refine Keeps.ite (fun _ => ?_) (fun _ => ?_)
    | with_reducible refine KeepsCore.same ?_ | dsimp only | simp only [keeps_mk_iff] | split

theorem State.windowPts_keeps {r₀ : State} (s : State) (k q : Nat) (hk : Keeps r₀ s) :
    RegsKeep r₀ (State.windowPts s k q) := by
  unfold State.windowPts
  repeat' first
    | with_reducible assumption | with_reducible apply RegsKeep.nil | with_reducible apply RegsKeep.cons
    | with_reducible apply RegsKeep.append | with_reducible refine RegsKeep.ite (fun _ => ?_) (fun _ => ?_)
    | with_reducible refine RegsKeep.map (fun a => ?_) | with_reducible refine RegKeeps.write (fun v => ?_)
    | with_reducible apply RegKeeps.readOnly | with_reducible refine RegKeeps.after ?_
    | with_reducible refine ran_keeps ?_ ?_ | with_reducible refine Keeps.ite (fun _ => ?_) (fun _ => ?_)
    | with_reducible refine KeepsCore.same ?_ | dsimp only | simp only [keeps_mk_iff] | split

theorem State.windowRing_keeps {r₀ : State} (s : State) (k n at0 : Nat) (hk : Keeps r₀ s) :
    RegsKeep r₀ (State.windowRing s k n at0) := by
  unfold State.windowRing
  exact RegsKeep.ite (fun _ => RegsKeep.filter (State.ringRegs_keeps _ _ _ _ hk)) fun _ => RegsKeep.nil

theorem State.windowBasin_keeps {r₀ : State} (s : State) (k v : Nat) (hk : Keeps r₀ s) :
    RegsKeep r₀ (State.windowBasin s k v) := by
  unfold State.windowBasin
  repeat' first
    | with_reducible assumption | with_reducible apply moveRegs_keeps | with_reducible apply State.pmuRegs_keeps
    | with_reducible apply RegsKeep.nil | with_reducible apply RegsKeep.cons | with_reducible apply RegsKeep.append
    | with_reducible refine RegsKeep.ite (fun _ => ?_) (fun _ => ?_)
    | with_reducible refine RegsKeep.map (fun a => ?_) | with_reducible refine RegKeeps.write (fun v => ?_)
    | with_reducible apply RegKeeps.readOnly | with_reducible refine RegKeeps.after ?_
    | with_reducible refine ran_keeps ?_ ?_ | with_reducible refine Keeps.ite (fun _ => ?_) (fun _ => ?_)
    | with_reducible refine KeepsCore.same ?_ | dsimp only | simp only [keeps_mk_iff] | split

theorem State.windowRegs_keeps {r₀ : State} (s : State) (c : RegCtx) (k o : Nat) (hk : Keeps r₀ s) :
    RegsKeep r₀ (State.windowRegs s c k o) := by
  unfold State.windowRegs
  repeat' first
    | with_reducible assumption | with_reducible apply State.tmtShared_keeps | with_reducible apply moveRegs_keeps
    | with_reducible apply State.windowTtb_keeps | with_reducible apply State.windowKvc_keeps
    | with_reducible apply pickRegs_keeps | with_reducible apply State.mwlRegs_keeps
    | with_reducible apply State.windowRts_keeps | with_reducible apply State.windowPts_keeps
    | with_reducible apply State.windowRing_keeps | with_reducible apply State.windowBasin_keeps
    | with_reducible apply RegsKeep.nil | with_reducible apply RegsKeep.cons | with_reducible apply RegsKeep.append
    | with_reducible refine RegsKeep.ite (fun _ => ?_) (fun _ => ?_)
    | with_reducible refine RegsKeep.map (fun a => ?_) | with_reducible refine RegKeeps.write (fun v => ?_)
    | with_reducible apply RegKeeps.readOnly | with_reducible refine RegKeeps.after ?_
    | with_reducible refine ran_keeps ?_ ?_ | with_reducible refine Keeps.ite (fun _ => ?_) (fun _ => ?_)
    | with_reducible refine KeepsCore.same ?_ | dsimp only | simp only [keeps_mk_iff] | split

theorem State.windowAccess_keeps {r₀ : State} (s : State) (c : RegCtx) (k o len : Nat) (write : Bool) (data : Bytes) (hk : Keeps r₀ s) :
    Keeps r₀ (State.windowAccess s c k o len write data) := by
  unfold State.windowAccess
  repeat' first
    | with_reducible assumption | with_reducible apply State.refuse_keeps | with_reducible apply ran_keeps
    | with_reducible apply State.modKvc_keeps | with_reducible apply State.acked_keeps
    | with_reducible apply State.countAt_keeps | with_reducible apply State.writeRegs_keeps
    | with_reducible apply State.windowRegs_keeps | with_reducible apply State.readRegs_keeps
    | with_reducible refine ran_keeps ?_ ?_ | with_reducible apply execKvcReqTake_keeps
    | with_reducible refine Keeps.ite (fun _ => ?_) (fun _ => ?_) | with_reducible refine KeepsCore.same ?_ | intro _
    | dsimp only | simp only [keeps_mk_iff] | split

theorem State.gateAccess_keeps {r₀ : State} (s : State) (acc : Access) (hartsStopped : Bool) (hk : Keeps r₀ s) :
    Keeps r₀ (State.gateAccess s acc hartsStopped) := by
  unfold State.gateAccess
  repeat' first
    | with_reducible assumption | with_reducible apply State.privAccess_keeps
    | with_reducible apply State.windowAccess_keeps | with_reducible refine Keeps.ite (fun _ => ?_) (fun _ => ?_)
    | with_reducible refine KeepsCore.same ?_ | dsimp only | simp only [keeps_mk_iff] | split

theorem State.grantedAccess_keeps {r₀ : State} (s : State) (acc : Access) (hartsStopped : Bool) (hk : Keeps r₀ s) :
    Keeps r₀ (State.grantedAccess s acc hartsStopped) := by
  unfold State.grantedAccess
  repeat' first
    | with_reducible assumption | with_reducible apply State.gateAccess_keeps
    | with_reducible apply State.aperture_keeps | with_reducible apply State.answerError_keeps
    | with_reducible apply State.carry_keeps | with_reducible refine Keeps.ite (fun _ => ?_) (fun _ => ?_)
    | with_reducible refine KeepsCore.same ?_ | dsimp only | simp only [keeps_mk_iff] | split

theorem State.sluiceAccess_keeps {r₀ : State} (s : State) (acc : Access) (hartsStopped : Bool) (hk : Keeps r₀ s) :
    Keeps r₀ (State.sluiceAccess s acc hartsStopped) := by
  unfold State.sluiceAccess
  repeat' first
    | with_reducible assumption | with_reducible apply State.grantedAccess_keeps
    | with_reducible apply State.access_keeps | with_reducible apply State.latch_keeps
    | with_reducible apply State.report_keeps | with_reducible refine Keeps.ite (fun _ => ?_) (fun _ => ?_)
    | with_reducible refine KeepsCore.same ?_ | decide | dsimp only | simp only [keeps_mk_iff] | split

theorem State.hartAccess_keeps {r₀ : State} (s : State) (u : CoreUse) (acc : Access) (hartsStopped : Bool) (hk : Keeps r₀ s) :
    Keeps r₀ (State.hartAccess s u acc hartsStopped) := by
  unfold State.hartAccess
  repeat' first
    | with_reducible assumption | with_reducible apply State.modHart_keeps
    | with_reducible apply State.sluiceAccess_keeps | with_reducible apply State.cachedAccess_keeps
    | with_reducible apply State.maintain_keeps | with_reducible refine Keeps.ite (fun _ => ?_) (fun _ => ?_)
    | with_reducible refine KeepsCore.same ?_ | dsimp only | simp only [keeps_mk_iff] | split

theorem execSluiceAccess_keeps {r₀ : State} (acc : Access) (hartsStopped : Bool) (s : State) (hk : Keeps r₀ s) :
    KeepsOut r₀ (execSluiceAccess acc hartsStopped s) := by
  unfold execSluiceAccess
  refine act_keeps hk ?_
  repeat' first
    | with_reducible assumption | with_reducible apply act_keeps | with_reducible apply State.hartAccess_keeps
    | with_reducible apply State.sluiceAccess_keeps | with_reducible refine Keeps.ite (fun _ => ?_) (fun _ => ?_)
    | with_reducible refine KeepsCore.same ?_ | intro _ | dsimp only | simp only [keeps_mk_iff] | split

theorem State.pathAccess_keeps {r₀ : State} (s : State) (path addr len : Nat) (write : Bool) (data : Bytes) (hartsStopped : Bool) (hk : Keeps r₀ s) :
    Keeps r₀ (State.pathAccess s path addr len write data hartsStopped) := by
  unfold State.pathAccess
  repeat' first
    | with_reducible assumption | with_reducible apply State.refuse_keeps
    | with_reducible apply State.privAccess_keeps | with_reducible refine Keeps.ite (fun _ => ?_) (fun _ => ?_)
    | with_reducible refine KeepsCore.same ?_ | dsimp only | simp only [keeps_mk_iff] | split

theorem State.csrWrite_keeps {r₀ : State} (s : State) (hart number level value : Nat) (hk : Keeps r₀ s) :
    Keeps r₀ (State.csrWrite s hart number level value) := by
  unfold State.csrWrite
  repeat' first
    | with_reducible assumption | with_reducible apply State.modHart_keeps
    | with_reducible refine Keeps.ite (fun _ => ?_) (fun _ => ?_) | with_reducible refine KeepsCore.same ?_
    | dsimp only | simp only [keeps_mk_iff] | split

theorem execRegisterWrite_keeps {r₀ : State} (target : RegTarget) (s : State) (hk : Keeps r₀ s) :
    KeepsOut r₀ (execRegisterWrite target s) := by
  unfold execRegisterWrite
  refine act_keeps hk ?_
  repeat' first
    | with_reducible assumption | with_reducible apply act_keeps | with_reducible apply State.pathAccess_keeps
    | with_reducible apply State.sluiceAccess_keeps | with_reducible apply State.hartAccess_keeps
    | with_reducible apply State.csrWrite_keeps | with_reducible refine Keeps.ite (fun _ => ?_) (fun _ => ?_)
    | with_reducible refine KeepsCore.same ?_ | intro _ | dsimp only | simp only [keeps_mk_iff] | split

end Sys2Proof.Machine
end

