-- ==== Sys2Proof/Laws/KeepsRoutesetter.lean ====
section
/-! SUPPORT. What the operations of Machine/Routesetter.lean keep. -/

namespace Sys2Proof.Machine

open Sys2Proof.Laws

open Sys2Proof.Config (RouteInput RoutePose RouteTrack RouteFound)

theorem State.routeQueue_keeps {r₀ : State} (s : State) (i c : Nat) (j : RtsJob) (hk : Keeps r₀ s) :
    Keeps r₀ (State.routeQueue s i c j) := by
  unfold State.routeQueue
  repeat' first
    | with_reducible assumption | with_reducible apply State.modRts_keeps | with_reducible apply State.modNode_keeps
    | with_reducible apply State.modCtx_keeps | with_reducible refine Keeps.ite (fun _ => ?_) (fun _ => ?_)
    | with_reducible refine KeepsCore.same ?_ | dsimp only | simp only [keeps_mk_iff] | split

theorem State.routePlace_keeps {r₀ : State} (s : State) (slot : Nat) (hk : Keeps r₀ s) :
    Keeps r₀ (State.routePlace s slot) := by
  unfold State.routePlace
  repeat' first
    | with_reducible assumption | with_reducible apply State.fetchBytes_keeps
    | with_reducible apply State.ctxDelayed_keeps | with_reducible apply State.routeQueue_keeps
    | with_reducible refine Keeps.ite (fun _ => ?_) (fun _ => ?_) | with_reducible refine KeepsCore.same ?_
    | dsimp only | simp only [keeps_mk_iff] | split

theorem State.routeRefill_keeps {r₀ : State} (s : State) (hk : Keeps r₀ s) :
    Keeps r₀ (State.routeRefill s) := by
  unfold State.routeRefill
  repeat' first
    | with_reducible assumption | with_reducible apply State.routePlace_keeps
    | with_reducible refine Keeps.foldl (fun s a hk => ?_) ?_
    | with_reducible refine Keeps.ite (fun _ => ?_) (fun _ => ?_) | with_reducible refine KeepsCore.same ?_
    | dsimp only | simp only [keeps_mk_iff] | split

theorem State.routeOffer_keeps {r₀ : State} (s : State) (hk : Keeps r₀ s) :
    Keeps r₀ (State.routeOffer s) := by
  unfold State.routeOffer
  repeat' first
    | with_reducible assumption | with_reducible apply State.routePlace_keeps
    | with_reducible refine Keeps.foldl (fun s a hk => ?_) ?_
    | with_reducible refine Keeps.ite (fun _ => ?_) (fun _ => ?_) | with_reducible refine KeepsCore.same ?_
    | dsimp only | simp only [keeps_mk_iff] | split

theorem State.rtsMemError_keeps {r₀ : State} (s : State) (i kind : Nat) (hk : Keeps r₀ s) :
    Keeps r₀ (State.rtsMemError s i kind) := by
  unfold State.rtsMemError
  repeat' first
    | with_reducible assumption | with_reducible apply State.modRts_keeps
    | with_reducible refine Keeps.ite (fun _ => ?_) (fun _ => ?_) | with_reducible refine KeepsCore.same ?_
    | dsimp only | simp only [keeps_mk_iff] | split

theorem State.loadFail_keeps {r₀ : State} (s : State) (i code : Nat) (j : RtsJob) (hk : Keeps r₀ s) :
    Keeps r₀ (State.loadFail s i code j) := by
  unfold State.loadFail
  repeat' first
    | with_reducible assumption | with_reducible apply State.rtsCapture_keeps
    | with_reducible apply State.modRts_keeps | with_reducible refine Keeps.ite (fun _ => ?_) (fun _ => ?_)
    | with_reducible refine KeepsCore.same ?_ | dsimp only | simp only [keeps_mk_iff] | split

theorem State.buildDynamic_keeps {r₀ : State} (s : State) (i : Nat) (j : RtsJob) (hk : Keeps r₀ s) :
    Keeps r₀ (State.buildDynamic s i j) := by
  unfold State.buildDynamic
  repeat' first
    | with_reducible assumption | with_reducible apply State.fetchBytes_keeps
    | with_reducible apply State.loadFail_keeps | with_reducible apply State.modRts_keeps
    | with_reducible refine Keeps.ite (fun _ => ?_) (fun _ => ?_) | with_reducible refine KeepsCore.same ?_
    | dsimp only | simp only [keeps_mk_iff] | split

theorem State.buildStatic_keeps {r₀ : State} (s : State) (i : Nat) (j : RtsJob) (hk : Keeps r₀ s) :
    Keeps r₀ (State.buildStatic s i j) := by
  unfold State.buildStatic
  repeat' first
    | with_reducible assumption | with_reducible apply State.fetchBytes_keeps
    | with_reducible apply State.loadFail_keeps | with_reducible apply State.modRts_keeps
    | with_reducible refine Keeps.ite (fun _ => ?_) (fun _ => ?_) | with_reducible refine KeepsCore.same ?_
    | dsimp only | simp only [keeps_mk_iff] | split

theorem State.loadVehicle_keeps {r₀ : State} (s : State) (i : Nat) (j : RtsJob) (hk : Keeps r₀ s) :
    Keeps r₀ (State.loadVehicle s i j) := by
  unfold State.loadVehicle
  repeat' first
    | with_reducible assumption | with_reducible apply State.fetchBytes_keeps
    | with_reducible apply State.loadFail_keeps | with_reducible apply State.modRts_keeps
    | with_reducible refine Keeps.ite (fun _ => ?_) (fun _ => ?_) | with_reducible refine KeepsCore.same ?_
    | dsimp only | simp only [keeps_mk_iff] | split

theorem State.loadStart_keeps {r₀ : State} (s : State) (i mode memError : Nat) (f : State → Nat → RtsJob → State) (hk : Keeps r₀ s) (hkf : ∀ s a1 a2, Keeps r₀ s → Keeps r₀ (f s a1 a2)) :
    Keeps r₀ (State.loadStart s i mode memError f) := by
  unfold State.loadStart
  repeat' first
    | with_reducible assumption | with_reducible apply State.routeOffer_keeps
    | with_reducible apply State.routeRefill_keeps | with_reducible apply State.modRts_keeps
    | with_reducible apply AttnAt.check_keeps | with_reducible apply State.loadFail_keeps
    | with_reducible apply Matmul.run_keeps | with_reducible apply DmaCmd.run_keeps
    | with_reducible apply RillCmd.run_keeps | with_reducible apply AttnEnv.run_keeps
    | with_reducible apply AttnCmd.run_keeps | with_reducible apply ConvCmd.run_keeps
    | with_reducible apply State.rtsMemError_keeps | with_reducible apply hkf
    | with_reducible refine Keeps.ite (fun _ => ?_) (fun _ => ?_) | with_reducible refine KeepsCore.same ?_ | intro _
    | dsimp only | simp only [keeps_mk_iff] | split

theorem execCommitDynamic_keeps {r₀ : State} (rtsNo memError : Nat) (s : State) (hk : Keeps r₀ s) :
    KeepsOut r₀ (execCommitDynamic rtsNo memError s) := by
  unfold execCommitDynamic
  refine act_keeps hk ?_
  repeat' first
    | with_reducible assumption | with_reducible apply act_keeps | with_reducible apply State.loadStart_keeps
    | with_reducible apply State.buildDynamic_keeps | with_reducible refine Keeps.ite (fun _ => ?_) (fun _ => ?_)
    | with_reducible refine KeepsCore.same ?_ | intro _ | dsimp only | simp only [keeps_mk_iff] | split

theorem execCommitStatic_keeps {r₀ : State} (rtsNo memError : Nat) (s : State) (hk : Keeps r₀ s) :
    KeepsOut r₀ (execCommitStatic rtsNo memError s) := by
  unfold execCommitStatic
  refine act_keeps hk ?_
  repeat' first
    | with_reducible assumption | with_reducible apply act_keeps | with_reducible apply State.loadStart_keeps
    | with_reducible apply State.buildStatic_keeps | with_reducible refine Keeps.ite (fun _ => ?_) (fun _ => ?_)
    | with_reducible refine KeepsCore.same ?_ | intro _ | dsimp only | simp only [keeps_mk_iff] | split

theorem execLoadVehicle_keeps {r₀ : State} (rtsNo memError : Nat) (s : State) (hk : Keeps r₀ s) :
    KeepsOut r₀ (execLoadVehicle rtsNo memError s) := by
  unfold execLoadVehicle
  refine act_keeps hk ?_
  repeat' first
    | with_reducible assumption | with_reducible apply act_keeps | with_reducible apply State.loadStart_keeps
    | with_reducible apply State.loadVehicle_keeps | with_reducible refine Keeps.ite (fun _ => ?_) (fun _ => ?_)
    | with_reducible refine KeepsCore.same ?_ | intro _ | dsimp only | simp only [keeps_mk_iff] | split

theorem State.commitSwap_keeps {r₀ : State} (s : State) (i : Nat) (hk : Keeps r₀ s) :
    Keeps r₀ (State.commitSwap s i) := by
  unfold State.commitSwap
  repeat' first
    | with_reducible assumption | with_reducible apply State.modRts_keeps
    | with_reducible refine Keeps.ite (fun _ => ?_) (fun _ => ?_) | with_reducible refine KeepsCore.same ?_
    | dsimp only | simp only [keeps_mk_iff] | split

theorem execCommitSwap_keeps {r₀ : State} (rtsNo : Nat) (s : State) (hk : Keeps r₀ s) :
    KeepsOut r₀ (execCommitSwap rtsNo s) := by
  unfold execCommitSwap
  refine act_keeps hk ?_
  repeat' first
    | with_reducible assumption | with_reducible apply act_keeps | with_reducible apply State.commitSwap_keeps
    | with_reducible refine Keeps.ite (fun _ => ?_) (fun _ => ?_) | with_reducible refine KeepsCore.same ?_ | intro _
    | dsimp only | simp only [keeps_mk_iff] | split

theorem State.routeWrites_keeps {r₀ : State} (s : State) (i : Nat) (j : RtsJob) (ws : List (Nat × Bytes)) (hk : Keeps r₀ s) :
    Keeps r₀ (State.routeWrites s i j ws) := by
  unfold State.routeWrites
  repeat' first
    | with_reducible assumption | with_reducible apply Matmul.run_keeps | with_reducible apply DmaCmd.run_keeps
    | with_reducible apply RillCmd.run_keeps | with_reducible apply AttnEnv.run_keeps
    | with_reducible apply AttnCmd.run_keeps | with_reducible apply ConvCmd.run_keeps
    | with_reducible apply State.devAccess_keeps | with_reducible refine Keeps.foldl (fun s a hk => ?_) ?_
    | with_reducible refine Keeps.foldl_fst (fun s b a hk => ?_) ?_
    | with_reducible refine Keeps.foldl_snd (fun b s a hk => ?_) ?_
    | with_reducible refine Keeps.ite (fun _ => ?_) (fun _ => ?_) | with_reducible refine KeepsCore.same ?_
    | dsimp only | simp only [keeps_mk_iff] | split

theorem State.runWrite_keeps {r₀ : State} (s : State) (i : Nat) (r : RtsRun) (p : RoutePlan) (mapNodes : Option Bytes) (hk : Keeps r₀ s) :
    Keeps r₀ (State.runWrite s i r p mapNodes) := by
  unfold State.runWrite
  repeat' first
    | with_reducible assumption | with_reducible apply State.modRts_keeps | with_reducible apply Matmul.run_keeps
    | with_reducible apply DmaCmd.run_keeps | with_reducible apply RillCmd.run_keeps
    | with_reducible apply AttnEnv.run_keeps | with_reducible apply AttnCmd.run_keeps
    | with_reducible apply ConvCmd.run_keeps | with_reducible apply State.routeWrites_keeps
    | with_reducible refine Keeps.ite (fun _ => ?_) (fun _ => ?_) | with_reducible refine KeepsCore.same ?_
    | dsimp only | simp only [keeps_mk_iff] | split

theorem State.rtsRead_keeps {r₀ : State} (s : State) (tag a n : Nat) (want : Bool) (hk : Keeps r₀ s) :
    Keeps r₀ (State.rtsRead s tag a n want).1 := by
  unfold State.rtsRead
  repeat' first
    | with_reducible assumption | with_reducible apply State.fetchBytes_keeps
    | with_reducible refine Keeps.ite (fun _ => ?_) (fun _ => ?_) | with_reducible refine KeepsCore.same ?_
    | dsimp only | simp only [keeps_mk_iff] | split

theorem State.readLeaf_keeps {r₀ : State} (s : State) (i tag : Nat) (l : RtsLeaf) (hk : Keeps r₀ s) :
    Keeps r₀ (State.readLeaf s i tag l).1 := by
  unfold State.readLeaf
  repeat' first
    | with_reducible assumption | with_reducible apply State.fetchBytes_keeps
    | with_reducible apply State.modRts_keeps | with_reducible refine Keeps.ite (fun _ => ?_) (fun _ => ?_)
    | with_reducible refine KeepsCore.same ?_ | dsimp only | simp only [keeps_mk_iff] | split

theorem State.readLeaves_keeps {r₀ : State} (s : State) (i tag : Nat) (ls : List RtsLeaf) (hk : Keeps r₀ s) :
    Keeps r₀ (State.readLeaves s i tag ls).1 := by
  unfold State.readLeaves
  repeat' first
    | with_reducible assumption | with_reducible apply State.readLeaf_keeps
    | with_reducible refine Keeps.foldl (fun s a hk => ?_) ?_
    | with_reducible refine Keeps.foldl_fst (fun s b a hk => ?_) ?_
    | with_reducible refine Keeps.foldl_snd (fun b s a hk => ?_) ?_
    | with_reducible refine Keeps.ite (fun _ => ?_) (fun _ => ?_) | with_reducible refine KeepsCore.same ?_
    | dsimp only | simp only [keeps_mk_iff] | split

theorem State.rtsSetup_keeps {r₀ : State} (s : State) (i : Nat) (r : RtsRun) (hk : Keeps r₀ s) :
    Keeps r₀ (State.rtsSetup s i r).1 := by
  unfold State.rtsSetup
  repeat' first
    | with_reducible assumption | with_reducible apply State.rtsRead_keeps
    | with_reducible apply State.readLeaves_keeps | with_reducible refine Keeps.ite (fun _ => ?_) (fun _ => ?_)
    | with_reducible refine KeepsCore.same ?_ | dsimp only | simp only [keeps_mk_iff] | split

theorem State.planOutput_keeps {r₀ : State} (s : State) (i : Nat) (r : RtsRun) (found : RouteFound) (iterations tries : Nat) (noPath : Bool) (hk : Keeps r₀ s) :
    Keeps r₀ (State.planOutput s i r found iterations tries noPath) := by
  unfold State.planOutput
  repeat' first
    | with_reducible assumption | with_reducible apply Reg.take_keeps | with_reducible apply State.runWrite_keeps
    | with_reducible refine Keeps.ite (fun _ => ?_) (fun _ => ?_) | with_reducible refine KeepsCore.same ?_
    | dsimp only | simp only [keeps_mk_iff] | split

theorem State.planSetup_keeps {r₀ : State} (s : State) (i : Nat) (r : RtsRun) (hk : Keeps r₀ s) :
    Keeps r₀ (State.planSetup s i r) := by
  unfold State.planSetup
  repeat' first
    | with_reducible assumption | with_reducible apply State.modRts_keeps
    | with_reducible apply State.planOutput_keeps | with_reducible apply Matmul.run_keeps
    | with_reducible apply DmaCmd.run_keeps | with_reducible apply RillCmd.run_keeps
    | with_reducible apply AttnEnv.run_keeps | with_reducible apply AttnCmd.run_keeps
    | with_reducible apply ConvCmd.run_keeps | with_reducible refine Keeps.ite (fun _ => ?_) (fun _ => ?_)
    | with_reducible refine KeepsCore.same ?_ | dsimp only | simp only [keeps_mk_iff] | split

theorem State.checkRun_keeps {r₀ : State} (s : State) (i : Nat) (r : RtsRun) (hk : Keeps r₀ s) :
    Keeps r₀ (State.checkRun s i r) := by
  unfold State.checkRun
  repeat' first
    | with_reducible assumption | with_reducible apply State.fetchBytes_keeps
    | with_reducible apply State.runFail_keeps | with_reducible apply State.runWrite_keeps
    | with_reducible refine Keeps.ite (fun _ => ?_) (fun _ => ?_) | with_reducible refine KeepsCore.same ?_
    | dsimp only | simp only [keeps_mk_iff] | split

theorem State.planSetUp_keeps {r₀ : State} (s : State) (i memError : Nat) (r : RtsRun) (f : State → Nat → RtsRun → State) (hk : Keeps r₀ s) (hkf : ∀ s a1 a2, Keeps r₀ s → Keeps r₀ (f s a1 a2)) :
    Keeps r₀ (State.planSetUp s i memError r f) := by
  unfold State.planSetUp
  repeat' first
    | with_reducible assumption | with_reducible apply AttnAt.check_keeps | with_reducible apply State.runFail_keeps
    | with_reducible apply State.rtsSetup_keeps | with_reducible apply State.rtsMemError_keeps
    | with_reducible apply hkf | with_reducible refine Keeps.ite (fun _ => ?_) (fun _ => ?_)
    | with_reducible refine KeepsCore.same ?_ | intro _ | dsimp only | simp only [keeps_mk_iff] | split

theorem State.planTake_keeps {r₀ : State} (s : State) (i : Nat) (r : RtsRun) (hk : Keeps r₀ s) :
    Keeps r₀ (State.planTake s i r) := by
  unfold State.planTake
  repeat' first
    | with_reducible assumption | with_reducible apply State.routeRefill_keeps
    | with_reducible apply State.modRts_keeps | with_reducible apply Matmul.run_keeps
    | with_reducible apply DmaCmd.run_keeps | with_reducible apply RillCmd.run_keeps
    | with_reducible apply AttnEnv.run_keeps | with_reducible apply AttnCmd.run_keeps
    | with_reducible apply ConvCmd.run_keeps | with_reducible refine Keeps.ite (fun _ => ?_) (fun _ => ?_)
    | with_reducible refine KeepsCore.same ?_ | dsimp only | simp only [keeps_mk_iff] | split

theorem State.planStart_keeps {r₀ : State} (s : State) (i mode memError : Nat) (f : State → Nat → RtsRun → State) (hk : Keeps r₀ s) (hkf : ∀ s a1 a2, Keeps r₀ s → Keeps r₀ (f s a1 a2)) :
    Keeps r₀ (State.planStart s i mode memError f) := by
  unfold State.planStart
  repeat' first
    | with_reducible assumption | with_reducible apply State.routeOffer_keeps | with_reducible apply Matmul.run_keeps
    | with_reducible apply DmaCmd.run_keeps | with_reducible apply RillCmd.run_keeps
    | with_reducible apply AttnEnv.run_keeps | with_reducible apply AttnCmd.run_keeps
    | with_reducible apply ConvCmd.run_keeps | with_reducible apply State.planSetUp_keeps
    | with_reducible apply State.planTake_keeps | with_reducible apply hkf
    | with_reducible refine Keeps.ite (fun _ => ?_) (fun _ => ?_) | with_reducible refine KeepsCore.same ?_ | intro _
    | dsimp only | simp only [keeps_mk_iff] | split

theorem execPlanTree_keeps {r₀ : State} (rtsNo memError : Nat) (s : State) (hk : Keeps r₀ s) :
    KeepsOut r₀ (execPlanTree rtsNo memError s) := by
  unfold execPlanTree
  refine act_keeps hk ?_
  repeat' first
    | with_reducible assumption | with_reducible apply act_keeps | with_reducible apply State.planStart_keeps
    | with_reducible apply State.planSetup_keeps | with_reducible refine Keeps.ite (fun _ => ?_) (fun _ => ?_)
    | with_reducible refine KeepsCore.same ?_ | intro _ | dsimp only | simp only [keeps_mk_iff] | split

theorem execPlanMap_keeps {r₀ : State} (rtsNo memError : Nat) (s : State) (hk : Keeps r₀ s) :
    KeepsOut r₀ (execPlanMap rtsNo memError s) := by
  unfold execPlanMap
  refine act_keeps hk ?_
  repeat' first
    | with_reducible assumption | with_reducible apply act_keeps | with_reducible apply State.planStart_keeps
    | with_reducible apply State.planSetup_keeps | with_reducible refine Keeps.ite (fun _ => ?_) (fun _ => ?_)
    | with_reducible refine KeepsCore.same ?_ | intro _ | dsimp only | simp only [keeps_mk_iff] | split

theorem execPlanLattice_keeps {r₀ : State} (rtsNo memError : Nat) (s : State) (hk : Keeps r₀ s) :
    KeepsOut r₀ (execPlanLattice rtsNo memError s) := by
  unfold execPlanLattice
  refine act_keeps hk ?_
  repeat' first
    | with_reducible assumption | with_reducible apply act_keeps | with_reducible apply State.planStart_keeps
    | with_reducible apply State.planSetup_keeps | with_reducible refine Keeps.ite (fun _ => ?_) (fun _ => ?_)
    | with_reducible refine KeepsCore.same ?_ | intro _ | dsimp only | simp only [keeps_mk_iff] | split

theorem execCheck_keeps {r₀ : State} (rtsNo memError : Nat) (s : State) (hk : Keeps r₀ s) :
    KeepsOut r₀ (execCheck rtsNo memError s) := by
  unfold execCheck
  refine act_keeps hk ?_
  repeat' first
    | with_reducible assumption | with_reducible apply act_keeps | with_reducible apply State.planStart_keeps
    | with_reducible apply State.checkRun_keeps | with_reducible refine Keeps.ite (fun _ => ?_) (fun _ => ?_)
    | with_reducible refine KeepsCore.same ?_ | intro _ | dsimp only | simp only [keeps_mk_iff] | split

theorem State.endSearch_keeps {r₀ : State} (s : State) (i : Nat) (yielded : Bool) (iterations tries memError : Nat) (hk : Keeps r₀ s) :
    Keeps r₀ (State.endSearch s i yielded iterations tries memError) := by
  unfold State.endSearch
  repeat' first
    | with_reducible assumption | with_reducible apply Matmul.run_keeps | with_reducible apply DmaCmd.run_keeps
    | with_reducible apply RillCmd.run_keeps | with_reducible apply AttnEnv.run_keeps
    | with_reducible apply AttnCmd.run_keeps | with_reducible apply ConvCmd.run_keeps
    | with_reducible apply State.rtsMemError_keeps | with_reducible apply State.runFail_keeps
    | with_reducible apply State.modRts_keeps | with_reducible apply Reg.take_keeps
    | with_reducible apply State.planOutput_keeps | with_reducible refine Keeps.ite (fun _ => ?_) (fun _ => ?_)
    | with_reducible refine KeepsCore.same ?_ | dsimp only | simp only [keeps_mk_iff] | split

theorem execSearchEnd_keeps {r₀ : State} (rtsNo iterations tries memError : Nat) (s : State) (hk : Keeps r₀ s) :
    KeepsOut r₀ (execSearchEnd rtsNo iterations tries memError s) := by
  unfold execSearchEnd
  refine act_keeps hk ?_
  repeat' first
    | with_reducible assumption | with_reducible apply act_keeps | with_reducible apply State.endSearch_keeps
    | with_reducible refine Keeps.ite (fun _ => ?_) (fun _ => ?_) | with_reducible refine KeepsCore.same ?_ | intro _
    | dsimp only | simp only [keeps_mk_iff] | split

theorem execYield_keeps {r₀ : State} (rtsNo iterations tries memError : Nat) (s : State) (hk : Keeps r₀ s) :
    KeepsOut r₀ (execYield rtsNo iterations tries memError s) := by
  unfold execYield
  refine act_keeps hk ?_
  repeat' first
    | with_reducible assumption | with_reducible apply act_keeps | with_reducible apply State.routeOffer_keeps
    | with_reducible apply Matmul.run_keeps | with_reducible apply DmaCmd.run_keeps
    | with_reducible apply RillCmd.run_keeps | with_reducible apply AttnEnv.run_keeps
    | with_reducible apply AttnCmd.run_keeps | with_reducible apply ConvCmd.run_keeps
    | with_reducible apply State.modRts_keeps | with_reducible apply State.endSearch_keeps
    | with_reducible refine Keeps.ite (fun _ => ?_) (fun _ => ?_) | with_reducible refine KeepsCore.same ?_ | intro _
    | dsimp only | simp only [keeps_mk_iff] | split

theorem State.rtsReport_keeps {r₀ : State} (s : State) (j : RtsJob) (startNs status planStatus pflags : Nat) (hk : Keeps r₀ s) :
    Keeps r₀ (State.rtsReport s j startNs status planStatus pflags) := by
  unfold State.rtsReport
  repeat' first
    | with_reducible assumption | with_reducible apply State.charge_keeps | with_reducible apply State.modCtx_keeps
    | with_reducible refine Keeps.ite (fun _ => ?_) (fun _ => ?_) | with_reducible refine KeepsCore.same ?_
    | dsimp only | simp only [keeps_mk_iff] | split

theorem State.runDone_keeps {r₀ : State} (s : State) (i : Nat) (r : RtsRun) (excess : Nat) (hk : Keeps r₀ s) :
    Keeps r₀ (State.runDone s i r excess) := by
  unfold State.runDone
  repeat' first
    | with_reducible assumption | with_reducible apply State.devWrite_keeps
    | with_reducible apply State.rtsReport_keeps | with_reducible apply State.modRts_keeps
    | with_reducible apply Matmul.run_keeps | with_reducible apply DmaCmd.run_keeps
    | with_reducible apply RillCmd.run_keeps | with_reducible apply AttnEnv.run_keeps
    | with_reducible apply AttnCmd.run_keeps | with_reducible apply ConvCmd.run_keeps
    | with_reducible refine Keeps.ite (fun _ => ?_) (fun _ => ?_) | with_reducible refine KeepsCore.same ?_
    | dsimp only | simp only [keeps_mk_iff] | split

theorem execRouteJobDone_keeps {r₀ : State} (rtsNo : Nat) (loader : Bool) (excessNs : Nat) (s : State) (hk : Keeps r₀ s) :
    KeepsOut r₀ (execRouteJobDone rtsNo loader excessNs s) := by
  unfold execRouteJobDone
  refine act_keeps hk ?_
  repeat' first
    | with_reducible assumption | with_reducible apply act_keeps | with_reducible apply State.rtsReport_keeps
    | with_reducible apply State.modRts_keeps | with_reducible apply Matmul.run_keeps
    | with_reducible apply DmaCmd.run_keeps | with_reducible apply RillCmd.run_keeps
    | with_reducible apply AttnEnv.run_keeps | with_reducible apply AttnCmd.run_keeps
    | with_reducible apply ConvCmd.run_keeps | with_reducible apply State.runDone_keeps
    | with_reducible refine Keeps.ite (fun _ => ?_) (fun _ => ?_) | with_reducible refine KeepsCore.same ?_ | intro _
    | dsimp only | simp only [keeps_mk_iff] | split

end Sys2Proof.Machine
end

