-- ==== Sys2Proof/Laws/KeepsSupervisor.lean ====
section
/-! SUPPORT. What the operations of Machine/Supervisor.lean keep. -/

namespace Sys2Proof.Machine

open Sys2Proof.Laws

theorem State.modSup_keeps {r₀ : State} (s : State) (f : Sup → Sup) (hk : Keeps r₀ s) :
    Keeps r₀ (State.modSup s f) := by
  unfold State.modSup
  repeat' first
    | with_reducible assumption | with_reducible refine Keeps.ite (fun _ => ?_) (fun _ => ?_)
    | with_reducible refine KeepsCore.same ?_ | dsimp only | simp only [keeps_mk_iff] | split

theorem State.respond_keeps {r₀ : State} (s : State) (cmd : SupFrame) (status : Nat) (data : Bytes) (hk : Keeps r₀ s) :
    Keeps r₀ (State.respond s cmd status data) := by
  unfold State.respond
  repeat' first
    | with_reducible assumption | with_reducible apply State.modSup_keeps
    | with_reducible refine Keeps.ite (fun _ => ?_) (fun _ => ?_) | with_reducible refine KeepsCore.same ?_
    | dsimp only | simp only [keeps_mk_iff] | split

theorem State.command_keeps {r₀ : State} (s : State) (op : Nat) (cmd : SupFrame) (accepted shape : Bool) (f : State → Nat × Bytes × State) (hk : Keeps r₀ s) (hkf : ∀ s, Keeps r₀ s → Keeps r₀ (f s).2.2) :
    Keeps r₀ (State.command s op cmd accepted shape f) := by
  unfold State.command
  repeat' first
    | with_reducible assumption | with_reducible apply State.modSup_keeps | with_reducible apply State.respond_keeps
    | with_reducible apply hkf | with_reducible refine Keeps.ite (fun _ => ?_) (fun _ => ?_)
    | with_reducible refine KeepsCore.same ?_ | intro _ | dsimp only | simp only [keeps_mk_iff] | split

theorem State.bulk_keeps {r₀ : State} (s : State) (bound : SupBound) (f : State → Nat × Bytes × State) (hk : Keeps r₀ s) (hkf : ∀ s, Keeps r₀ s → Keeps r₀ (f s).2.2) :
    Keeps r₀ (State.bulk s bound f).2.2 := by
  unfold State.bulk
  repeat' first
    | with_reducible assumption | with_reducible apply State.modSup_keeps | with_reducible apply hkf
    | with_reducible refine Keeps.ite (fun _ => ?_) (fun _ => ?_) | with_reducible refine KeepsCore.same ?_ | intro _
    | dsimp only | simp only [keeps_mk_iff] | split

theorem execStatusRead_keeps {r₀ : State} (cmd : SupFrame) (s : State) (hk : Keeps r₀ s) :
    KeepsOut r₀ (execStatusRead cmd s) := by
  unfold execStatusRead
  refine act_keeps hk ?_
  repeat' first
    | with_reducible assumption | with_reducible apply act_keeps | with_reducible apply State.command_keeps
    | with_reducible refine Keeps.ite (fun _ => ?_) (fun _ => ?_) | with_reducible refine KeepsCore.same ?_
    | with_reducible refine KeepsCore.ilk ?_ rfl | intro _ | dsimp only | simp only [keeps_mk_iff] | split

theorem execHeartbeat_keeps {r₀ : State} (cmd : SupFrame) (s : State) (hk : Keeps r₀ s) :
    KeepsOut r₀ (execHeartbeat cmd s) := by
  unfold execHeartbeat
  refine act_keeps hk ?_
  repeat' first
    | with_reducible assumption | with_reducible apply act_keeps | with_reducible apply State.command_keeps
    | with_reducible apply State.modSup_keeps | with_reducible refine Keeps.ite (fun _ => ?_) (fun _ => ?_)
    | with_reducible refine KeepsCore.same ?_ | with_reducible refine KeepsCore.ilk ?_ rfl | intro _ | dsimp only
    | simp only [keeps_mk_iff] | split

theorem execIdentityRead_keeps {r₀ : State} (cmd : SupFrame) (s : State) (hk : Keeps r₀ s) :
    KeepsOut r₀ (execIdentityRead cmd s) := by
  unfold execIdentityRead
  refine act_keeps hk ?_
  repeat' first
    | with_reducible assumption | with_reducible apply act_keeps | with_reducible apply State.command_keeps
    | with_reducible refine Keeps.ite (fun _ => ?_) (fun _ => ?_) | with_reducible refine KeepsCore.same ?_ | intro _
    | dsimp only | simp only [keeps_mk_iff] | split

theorem State.regsRead_keeps {r₀ : State} (x0 : Nat) (x1 : Nat) (x2 : Nat) (s : State) (hk : Keeps r₀ s) :
    Keeps r₀ (State.regsRead x0 x1 x2 s).2 := by
  induction x0 generalizing x1 x2 s with
  | zero => exact hk
  | succ n ih =>
    unfold State.regsRead
    repeat' first
      | with_reducible assumption | with_reducible apply ih | with_reducible apply State.pathAccess_keeps
      | with_reducible refine Keeps.ite (fun _ => ?_) (fun _ => ?_) | with_reducible refine KeepsCore.same ?_
      | dsimp only | simp only [keeps_mk_iff] | split

theorem State.regsWrite_keeps {r₀ : State} (x0 : Nat) (x1 : Nat) (x2 : Bytes) (x3 : Bool) (s : State) (hk : Keeps r₀ s) :
    Keeps r₀ (State.regsWrite x0 x1 x2 x3 s).2 := by
  induction x0 generalizing x1 x2 x3 s with
  | zero => exact hk
  | succ n ih =>
    unfold State.regsWrite
    repeat' first
      | with_reducible assumption | with_reducible apply ih | with_reducible apply State.pathAccess_keeps
      | with_reducible apply Reg.take_keeps | with_reducible refine Keeps.ite (fun _ => ?_) (fun _ => ?_)
      | with_reducible refine KeepsCore.same ?_ | dsimp only | simp only [keeps_mk_iff] | split

theorem execRegRead_keeps {r₀ : State} (cmd : SupFrame) (bound : SupBound) (s : State) (hk : Keeps r₀ s) :
    KeepsOut r₀ (execRegRead cmd bound s) := by
  unfold execRegRead
  refine act_keeps hk ?_
  repeat' first
    | with_reducible assumption | with_reducible apply act_keeps | with_reducible apply State.command_keeps
    | with_reducible apply State.bulk_keeps | with_reducible apply State.regsRead_keeps
    | with_reducible refine Keeps.ite (fun _ => ?_) (fun _ => ?_) | with_reducible refine KeepsCore.same ?_ | intro _
    | dsimp only | simp only [keeps_mk_iff] | split

theorem execRegWrite_keeps {r₀ : State} (cmd : SupFrame) (bound : SupBound) (hartsStopped : Bool) (s : State) (hk : Keeps r₀ s) :
    KeepsOut r₀ (execRegWrite cmd bound hartsStopped s) := by
  unfold execRegWrite
  refine act_keeps hk ?_
  repeat' first
    | with_reducible assumption | with_reducible apply act_keeps | with_reducible apply State.command_keeps
    | with_reducible apply State.bulk_keeps | with_reducible apply State.regsWrite_keeps
    | with_reducible refine Keeps.ite (fun _ => ?_) (fun _ => ?_) | with_reducible refine KeepsCore.same ?_ | intro _
    | dsimp only | simp only [keeps_mk_iff] | split

theorem State.linesRead_keeps {r₀ : State} (x0 : Nat) (x1 : Nat) (s : State) (hk : Keeps r₀ s) :
    Keeps r₀ (State.linesRead x0 x1 s).2.2 := by
  induction x0 generalizing x1 s with
  | zero => exact hk
  | succ n ih =>
    unfold State.linesRead
    repeat' first
      | with_reducible assumption | with_reducible apply ih | with_reducible apply State.devRead_keeps
      | with_reducible refine Keeps.ite (fun _ => ?_) (fun _ => ?_) | with_reducible refine KeepsCore.same ?_
      | dsimp only | simp only [keeps_mk_iff] | split

theorem State.linesWrite_keeps {r₀ : State} (x0 : Nat) (x1 : Nat) (x2 : Bytes) (s : State) (hk : Keeps r₀ s) :
    Keeps r₀ (State.linesWrite x0 x1 x2 s).2 := by
  induction x0 generalizing x1 x2 s with
  | zero => exact hk
  | succ n ih =>
    unfold State.linesWrite
    repeat' first
      | with_reducible assumption | with_reducible apply ih | with_reducible apply State.devWrite_keeps
      | with_reducible apply Reg.take_keeps | with_reducible refine Keeps.ite (fun _ => ?_) (fun _ => ?_)
      | with_reducible refine KeepsCore.same ?_ | dsimp only | simp only [keeps_mk_iff] | split

theorem execMemRead_keeps {r₀ : State} (cmd : SupFrame) (bound : SupBound) (s : State) (hk : Keeps r₀ s) :
    KeepsOut r₀ (execMemRead cmd bound s) := by
  unfold execMemRead
  refine act_keeps hk ?_
  repeat' first
    | with_reducible assumption | with_reducible apply act_keeps | with_reducible apply State.command_keeps
    | with_reducible apply State.bulk_keeps | with_reducible apply State.linesRead_keeps
    | with_reducible refine Keeps.ite (fun _ => ?_) (fun _ => ?_) | with_reducible refine KeepsCore.same ?_ | intro _
    | dsimp only | simp only [keeps_mk_iff] | split

theorem execMemWrite_keeps {r₀ : State} (cmd : SupFrame) (bound : SupBound) (s : State) (hk : Keeps r₀ s) :
    KeepsOut r₀ (execMemWrite cmd bound s) := by
  unfold execMemWrite
  refine act_keeps hk ?_
  repeat' first
    | with_reducible assumption | with_reducible apply act_keeps | with_reducible apply State.command_keeps
    | with_reducible apply State.bulk_keeps | with_reducible apply State.linesWrite_keeps
    | with_reducible refine Keeps.ite (fun _ => ?_) (fun _ => ?_) | with_reducible refine KeepsCore.same ?_ | intro _
    | dsimp only | simp only [keeps_mk_iff] | split

theorem State.restartLoad_keeps {r₀ : State} (s : State) (hk : Keeps r₀ s) :
    Keeps r₀ (State.restartLoad s) := by
  unfold State.restartLoad
  repeat' first
    | with_reducible assumption | with_reducible apply AttnAt.step_keeps
    | with_reducible refine Keeps.foldl (fun s a hk => ?_) ?_
    | with_reducible refine Keeps.foldl_fst (fun s b a hk => ?_) ?_
    | with_reducible refine Keeps.foldl_snd (fun b s a hk => ?_) ?_
    | with_reducible refine Keeps.ite (fun _ => ?_) (fun _ => ?_) | with_reducible refine KeepsCore.same ?_
    | with_reducible refine KeepsCore.ilk ?_ rfl | dsimp only | simp only [keeps_mk_iff] | split

theorem State.loadEnds_keeps {r₀ : State} (s : State) (x : SupImage) (hk : Keeps r₀ s) :
    Keeps r₀ (State.loadEnds s x) := by
  unfold State.loadEnds
  repeat' first
    | with_reducible assumption | with_reducible apply State.modSup_keeps
    | with_reducible apply State.reloadStaged_keeps | with_reducible refine Keeps.ite (fun _ => ?_) (fun _ => ?_)
    | with_reducible refine KeepsCore.same ?_ | with_reducible refine KeepsCore.ilk ?_ rfl | dsimp only
    | simp only [keeps_mk_iff] | split

theorem State.loadChunk_keeps {r₀ : State} (s : State) (cmd : SupFrame) (x : SupImage) (hk : Keeps r₀ s) :
    Keeps r₀ (State.loadChunk s cmd x) := by
  unfold State.loadChunk
  repeat' first
    | with_reducible assumption | with_reducible apply State.wr_keeps | with_reducible apply State.modSup_keeps
    | with_reducible apply State.loadEnds_keeps | with_reducible refine Keeps.ite (fun _ => ?_) (fun _ => ?_)
    | with_reducible refine KeepsCore.same ?_ | dsimp only | simp only [keeps_mk_iff] | split

theorem State.loadAbandon_keeps {r₀ : State} (s : State) (hk : Keeps r₀ s) :
    Keeps r₀ (State.loadAbandon s) := by
  unfold State.loadAbandon
  repeat' first
    | with_reducible assumption | with_reducible apply State.scrubStaging_keeps
    | with_reducible apply State.modSup_keeps | with_reducible apply State.modReload_keeps
    | with_reducible refine Keeps.ite (fun _ => ?_) (fun _ => ?_) | with_reducible refine KeepsCore.same ?_
    | dsimp only | simp only [keeps_mk_iff] | split

theorem State.loadOpen_keeps {r₀ : State} (s : State) (cmd : SupFrame) (hk : Keeps r₀ s) :
    Keeps r₀ (State.loadOpen s cmd) := by
  unfold State.loadOpen
  repeat' first
    | with_reducible assumption | with_reducible apply State.modSup_keeps
    | with_reducible apply State.reloadReject_keeps | with_reducible apply State.reloadOpen_keeps
    | with_reducible apply State.scrubStaging_keeps | with_reducible apply State.loadChunk_keeps
    | with_reducible apply State.restartLoad_keeps | with_reducible apply State.bootFail_keeps
    | with_reducible refine Keeps.ite (fun _ => ?_) (fun _ => ?_) | with_reducible refine KeepsCore.same ?_
    | with_reducible refine KeepsCore.ilk ?_ rfl | dsimp only | simp only [keeps_mk_iff] | split

theorem State.imageChunk_keeps {r₀ : State} (s : State) (cmd : SupFrame) (hk : Keeps r₀ s) :
    Keeps r₀ (State.imageChunk s cmd).2 := by
  unfold State.imageChunk
  repeat' first
    | with_reducible assumption | with_reducible apply State.loadAbandon_keeps
    | with_reducible apply State.loadOpen_keeps | with_reducible apply State.loadChunk_keeps
    | with_reducible refine Keeps.ite (fun _ => ?_) (fun _ => ?_) | with_reducible refine KeepsCore.same ?_
    | dsimp only | simp only [keeps_mk_iff] | split

theorem execImageLoad_keeps {r₀ : State} (cmd : SupFrame) (bound : SupBound) (s : State) (hk : Keeps r₀ s) :
    KeepsOut r₀ (execImageLoad cmd bound s) := by
  unfold execImageLoad
  refine act_keeps hk ?_
  repeat' first
    | with_reducible assumption | with_reducible apply act_keeps | with_reducible apply State.command_keeps
    | with_reducible apply State.bulk_keeps | with_reducible apply State.imageChunk_keeps
    | with_reducible refine Keeps.ite (fun _ => ?_) (fun _ => ?_) | with_reducible refine KeepsCore.same ?_ | intro _
    | dsimp only | simp only [keeps_mk_iff] | split

theorem execRepairRead_keeps {r₀ : State} (cmd : SupFrame) (bound : SupBound) (s : State) (hk : Keeps r₀ s) :
    KeepsOut r₀ (execRepairRead cmd bound s) := by
  unfold execRepairRead
  refine act_keeps hk ?_
  repeat' first
    | with_reducible assumption | with_reducible apply act_keeps | with_reducible apply State.command_keeps
    | with_reducible apply State.bulk_keeps | with_reducible refine Keeps.ite (fun _ => ?_) (fun _ => ?_)
    | with_reducible refine KeepsCore.same ?_ | intro _ | dsimp only | simp only [keeps_mk_iff] | split

theorem execSafeRequest_keeps {r₀ : State} (cmd : SupFrame) (s : State) (hk : Keeps r₀ s) :
    KeepsOut r₀ (execSafeRequest cmd s) := by
  unfold execSafeRequest
  refine act_keeps hk ?_
  repeat' first
    | with_reducible assumption | with_reducible apply act_keeps | with_reducible apply State.command_keeps
    | with_reducible apply State.latch_keeps | with_reducible refine Keeps.ite (fun _ => ?_) (fun _ => ?_)
    | with_reducible refine KeepsCore.same ?_ | decide | intro _ | dsimp only | simp only [keeps_mk_iff] | split

theorem State.counterClear_keeps {r₀ : State} (s : State) (addr v : Nat) (hk : Keeps r₀ s) :
    OptKeeps r₀ (State.counterClear s addr v) := by
  unfold State.counterClear
  repeat' first
    | with_reducible assumption | with_reducible apply State.modHdw_keeps | with_reducible apply State.modTmt_keeps
    | with_reducible apply State.modCam_keeps | with_reducible apply State.modCap_keeps
    | with_reducible apply OptKeeps.none | with_reducible refine OptKeeps.some ?_
    | with_reducible refine OptKeeps.ite (fun _ => ?_) (fun _ => ?_)
    | with_reducible refine Keeps.ite (fun _ => ?_) (fun _ => ?_) | with_reducible refine KeepsCore.same ?_
    | with_reducible refine KeepsCore.ilk ?_ rfl | dsimp only | simp only [keeps_mk_iff] | split

theorem execCounterClear_keeps {r₀ : State} (cmd : SupFrame) (s : State) (hk : Keeps r₀ s) :
    KeepsOut r₀ (execCounterClear cmd s) := by
  unfold execCounterClear
  refine act_keeps hk ?_
  repeat' first
    | with_reducible assumption | with_reducible apply act_keeps | with_reducible apply State.command_keeps
    | with_reducible apply State.counterClear_keeps | with_reducible refine Keeps.ite (fun _ => ?_) (fun _ => ?_)
    | with_reducible refine KeepsCore.same ?_ | with_reducible refine OptKeeps.getD ?_ ?_ | intro _ | dsimp only
    | simp only [keeps_mk_iff] | split

theorem execTimeSet_keeps {r₀ : State} (cmd : SupFrame) (instant : Nat) (s : State) (hk : Keeps r₀ s) :
    KeepsOut r₀ (execTimeSet cmd instant s) := by
  unfold execTimeSet
  refine act_keeps hk ?_
  repeat' first
    | with_reducible assumption | with_reducible apply act_keeps | with_reducible apply State.reach_keeps
    | with_reducible apply State.command_keeps | with_reducible apply State.timeSet_keeps
    | with_reducible apply State.modTmt_keeps | with_reducible refine Keeps.ite (fun _ => ?_) (fun _ => ?_)
    | with_reducible refine KeepsCore.same ?_ | intro _ | dsimp only | simp only [keeps_mk_iff] | split

theorem execTransactionAbort_keeps {r₀ : State} (s : State) (hk : Keeps r₀ s) :
    KeepsOut r₀ (execTransactionAbort s) := by
  unfold execTransactionAbort
  refine act_keeps hk ?_
  repeat' first
    | with_reducible assumption | with_reducible apply act_keeps | with_reducible apply State.modSup_keeps
    | with_reducible refine Keeps.ite (fun _ => ?_) (fun _ => ?_) | with_reducible refine KeepsCore.same ?_ | intro _
    | dsimp only | simp only [keeps_mk_iff] | split

end Sys2Proof.Machine
end

