-- ==== Sys2Proof/Laws/KeepsTap.lean ====
section
/-! SUPPORT. What the operations of Machine/Tap.lean keep. -/

namespace Sys2Proof.Machine

open Sys2Proof.Laws

theorem State.modTapPort_keeps {r₀ : State} (s : State) (f : TapPort → TapPort) (hk : Keeps r₀ s) :
    Keeps r₀ (State.modTapPort s f) := by
  unfold State.modTapPort
  repeat' first
    | with_reducible assumption | with_reducible refine Keeps.ite (fun _ => ?_) (fun _ => ?_)
    | with_reducible refine KeepsCore.same ?_ | dsimp only | simp only [keeps_mk_iff] | split

theorem State.tapLoad_keeps {r₀ : State} (s : State) (code : Nat) (hk : Keeps r₀ s) :
    Keeps r₀ (State.tapLoad s code) := by
  unfold State.tapLoad
  repeat' first
    | with_reducible assumption | with_reducible apply State.modTapPort_keeps
    | with_reducible refine Keeps.ite (fun _ => ?_) (fun _ => ?_) | with_reducible refine KeepsCore.same ?_
    | dsimp only | simp only [keeps_mk_iff] | split

theorem execExtest_keeps {r₀ : State} (s : State) (hk : Keeps r₀ s) :
    KeepsOut r₀ (execExtest s) := by
  unfold execExtest
  refine KeepsOut.next ?_
  repeat' first
    | with_reducible assumption | with_reducible apply State.tapLoad_keeps
    | with_reducible refine Keeps.ite (fun _ => ?_) (fun _ => ?_) | with_reducible refine KeepsCore.same ?_
    | dsimp only | simp only [keeps_mk_iff] | split

theorem execSamplePreload_keeps {r₀ : State} (s : State) (hk : Keeps r₀ s) :
    KeepsOut r₀ (execSamplePreload s) := by
  unfold execSamplePreload
  refine KeepsOut.next ?_
  repeat' first
    | with_reducible assumption | with_reducible apply State.tapLoad_keeps
    | with_reducible refine Keeps.ite (fun _ => ?_) (fun _ => ?_) | with_reducible refine KeepsCore.same ?_
    | dsimp only | simp only [keeps_mk_iff] | split

theorem execClamp_keeps {r₀ : State} (s : State) (hk : Keeps r₀ s) :
    KeepsOut r₀ (execClamp s) := by
  unfold execClamp
  refine KeepsOut.next ?_
  repeat' first
    | with_reducible assumption | with_reducible apply State.tapLoad_keeps
    | with_reducible refine Keeps.ite (fun _ => ?_) (fun _ => ?_) | with_reducible refine KeepsCore.same ?_
    | dsimp only | simp only [keeps_mk_iff] | split

theorem execHighz_keeps {r₀ : State} (s : State) (hk : Keeps r₀ s) :
    KeepsOut r₀ (execHighz s) := by
  unfold execHighz
  refine KeepsOut.next ?_
  repeat' first
    | with_reducible assumption | with_reducible apply State.tapLoad_keeps
    | with_reducible refine Keeps.ite (fun _ => ?_) (fun _ => ?_) | with_reducible refine KeepsCore.same ?_
    | dsimp only | simp only [keeps_mk_iff] | split

theorem execIdcode_keeps {r₀ : State} (s : State) (hk : Keeps r₀ s) :
    KeepsOut r₀ (execIdcode s) := by
  unfold execIdcode
  refine KeepsOut.next ?_
  repeat' first
    | with_reducible assumption | with_reducible apply State.tapLoad_keeps
    | with_reducible apply State.modTapPort_keeps | with_reducible refine Keeps.ite (fun _ => ?_) (fun _ => ?_)
    | with_reducible refine KeepsCore.same ?_ | dsimp only | simp only [keeps_mk_iff] | split

theorem execBypass_keeps {r₀ : State} (bits count : Nat) (s : State) (hk : Keeps r₀ s) :
    KeepsOut r₀ (execBypass bits count s) := by
  unfold execBypass
  refine KeepsOut.next ?_
  repeat' first
    | with_reducible assumption | with_reducible apply State.tapLoad_keeps
    | with_reducible apply State.modTapPort_keeps | with_reducible refine Keeps.ite (fun _ => ?_) (fun _ => ?_)
    | with_reducible refine KeepsCore.same ?_ | dsimp only | simp only [keeps_mk_iff] | split

theorem execFreezeStatus_keeps {r₀ : State} (s : State) (hk : Keeps r₀ s) :
    KeepsOut r₀ (execFreezeStatus s) := by
  unfold execFreezeStatus
  refine KeepsOut.next ?_
  repeat' first
    | with_reducible assumption | with_reducible apply State.tapLoad_keeps
    | with_reducible apply State.modTapPort_keeps | with_reducible refine Keeps.ite (fun _ => ?_) (fun _ => ?_)
    | with_reducible refine KeepsCore.same ?_ | dsimp only | simp only [keeps_mk_iff] | split

theorem execScanSelect_keeps {r₀ : State} (chain : Nat) (s : State) (hk : Keeps r₀ s) :
    KeepsOut r₀ (execScanSelect chain s) := by
  unfold execScanSelect
  refine KeepsOut.next ?_
  repeat' first
    | with_reducible assumption | with_reducible apply State.tapLoad_keeps
    | with_reducible apply State.modTapPort_keeps | with_reducible refine Keeps.ite (fun _ => ?_) (fun _ => ?_)
    | with_reducible refine KeepsCore.same ?_ | dsimp only | simp only [keeps_mk_iff] | split

theorem execScanRead_keeps {r₀ : State} (count : Nat) (s : State) (hk : Keeps r₀ s) :
    KeepsOut r₀ (execScanRead count s) := by
  unfold execScanRead
  refine KeepsOut.next ?_
  repeat' first
    | with_reducible assumption | with_reducible apply State.tapLoad_keeps
    | with_reducible apply State.modTapPort_keeps | with_reducible refine Keeps.ite (fun _ => ?_) (fun _ => ?_)
    | with_reducible refine KeepsCore.same ?_ | dsimp only | simp only [keeps_mk_iff] | split

theorem execRelease_keeps {r₀ : State} (s : State) (hk : Keeps r₀ s) :
    KeepsOut r₀ (execRelease s) := by
  unfold execRelease
  refine KeepsOut.next ?_
  repeat' first
    | with_reducible assumption | with_reducible apply State.tapLoad_keeps
    | with_reducible apply State.releaseFreeze_keeps | with_reducible refine Keeps.ite (fun _ => ?_) (fun _ => ?_)
    | with_reducible refine KeepsCore.same ?_ | dsimp only | simp only [keeps_mk_iff] | split

theorem execTapMemSelect_keeps {r₀ : State} (value : Nat) (s : State) (hk : Keeps r₀ s) :
    KeepsOut r₀ (execTapMemSelect value s) := by
  unfold execTapMemSelect
  refine KeepsOut.next ?_
  repeat' first
    | with_reducible assumption | with_reducible apply State.tapLoad_keeps
    | with_reducible apply State.modTapPort_keeps | with_reducible refine Keeps.ite (fun _ => ?_) (fun _ => ?_)
    | with_reducible refine KeepsCore.same ?_ | dsimp only | simp only [keeps_mk_iff] | split

theorem execTapMemRead_keeps {r₀ : State} (count : Nat) (s : State) (hk : Keeps r₀ s) :
    KeepsOut r₀ (execTapMemRead count s) := by
  unfold execTapMemRead
  refine KeepsOut.next ?_
  repeat' first
    | with_reducible assumption | with_reducible apply State.tapLoad_keeps
    | with_reducible apply State.modTapPort_keeps | with_reducible refine Keeps.ite (fun _ => ?_) (fun _ => ?_)
    | with_reducible refine KeepsCore.same ?_ | dsimp only | simp only [keeps_mk_iff] | split

theorem State.debugAct_keeps {r₀ : State} (s : State) (h request : Nat) (hk : Keeps r₀ s) :
    Keeps r₀ (State.debugAct s h request) := by
  unfold State.debugAct
  repeat' first
    | with_reducible assumption | with_reducible apply State.modTapPort_keeps
    | with_reducible apply State.breakLockstep_keeps | with_reducible apply State.breakPair_keeps
    | with_reducible apply State.modHart_keeps | with_reducible apply State.draw_keeps
    | with_reducible refine Keeps.ite (fun _ => ?_) (fun _ => ?_) | with_reducible refine KeepsCore.same ?_
    | dsimp only | simp only [keeps_mk_iff] | split

theorem State.debugRequest_keeps {r₀ : State} (s : State) (h request : Nat) (hk : Keeps r₀ s) :
    Keeps r₀ (State.debugRequest s h request) := by
  unfold State.debugRequest
  repeat' first
    | with_reducible assumption | with_reducible apply State.modHart_keeps
    | with_reducible apply State.modTapPort_keeps | with_reducible apply State.debugAct_keeps
    | with_reducible refine Keeps.ite (fun _ => ?_) (fun _ => ?_) | with_reducible refine KeepsCore.same ?_
    | dsimp only | simp only [keeps_mk_iff] | split

theorem execDebug_keeps {r₀ : State} (hart : Nat) (request : Nat) (s : State) (hk : Keeps r₀ s) :
    KeepsOut r₀ (execDebug hart request s) := by
  unfold execDebug
  refine KeepsOut.next ?_
  repeat' first
    | with_reducible assumption | with_reducible apply State.tapLoad_keeps
    | with_reducible apply State.debugRequest_keeps | with_reducible apply State.modTapPort_keeps
    | with_reducible refine Keeps.ite (fun _ => ?_) (fun _ => ?_) | with_reducible refine KeepsCore.same ?_
    | dsimp only | simp only [keeps_mk_iff] | split

end Sys2Proof.Machine
end

