-- ==== Sys2Proof/Laws/KeepsExec.lean ====
section
/-! SUPPORT. What every command keeps, but for the two resets, their release, and the release of SAFE_N. -/

namespace Sys2Proof.Laws

open Sys2Proof.Machine

/-- The commands that do not keep what `Keeps` says. -/
def breaks : Instr → Bool
  | .porstNAssert => true
  | .resetNAssert => true
  | .resetRelease _ _ _ _ _ _ _ => true
  | .safeNRelease => true
  | _ => false

/-- Every other command answers a next state and keeps it. -/
theorem exec_keeps {r₀ : State} (c : Instr) (s : State) (hk : Keeps r₀ s) (hc : breaks c = false) :
    KeepsOut r₀ (exec c s) := by
  cases c with
  | porstNAssert => simp [breaks] at hc
  | resetNAssert => simp [breaks] at hc
  | resetRelease porst bootSel fabricLocked pufOk memoriesOk backupOk march => simp [breaks] at hc
  | imageStaged readable content => exact execImageStaged_keeps readable content s hk
  | stmVerifyDone locked => exact execStmVerifyDone_keeps locked s hk
  | memoryTrainingDone trained march badSweepRows => exact execMemoryTrainingDone_keeps trained march badSweepRows s hk
  | ilkVerifyDone agrees => exact execIlkVerifyDone_keeps agrees s hk
  | slice0Handoff => exact execSlice0Handoff_keeps s hk
  | startupSelftestDone failing => exact execStartupSelftestDone_keeps failing s hk
  | startupGoldenDone instant => exact execStartupGoldenDone_keeps instant s hk
  | safeNRelease => simp [breaks] at hc
  | repairWriteBack => exact execRepairWriteBack_keeps s hk
  | reloadVerifyDone agrees => exact execReloadVerifyDone_keeps agrees s hk
  | ttschedSwap => exact execTtschedSwap_keeps s hk
  | consisttplSwap => exact execConsisttplSwap_keeps s hk
  | rulesSwap => exact execRulesSwap_keeps s hk
  | rulesRetire => exact execRulesRetire_keeps s hk
  | clockMonitorWindow counts locked pixelKHz => exact execClockMonitorWindow_keeps counts locked pixelKHz s hk
  | refClkLoss => exact execRefClkLoss_keeps s hk
  | vddIoLoss => exact execVddIoLoss_keeps s hk
  | sluiceAccess acc hartsStopped => exact execSluiceAccess_keeps acc hartsStopped s hk
  | bankAccess bank req => exact execBankAccess_keeps bank req s hk
  | tapRecordReceive link flips crcFlips => exact execTapRecordReceive_keeps link flips crcFlips s hk
  | listStart basin kernelPtr context tag node generation => exact execListStart_keeps basin kernelPtr context tag node generation s hk
  | nop basin => exact execNop_keeps basin s hk
  | dma visit => exact execDma_keeps visit s hk
  | matmul basin => exact execMatmul_keeps basin s hk
  | conv basin => exact execConv_keeps basin s hk
  | attn visit => exact execAttn_keeps visit s hk
  | rill basin => exact execRill_keeps basin s hk
  | transpose visit => exact execTranspose_keeps visit s hk
  | jet basin => exact execJet_keeps basin s hk
  | barrier basin => exact execBarrier_keeps basin s hk
  | haloSignal basin => exact execHaloSignal_keeps basin s hk
  | haloSignalDeliver basin => exact execHaloSignalDeliver_keeps basin s hk
  | haloWait basin => exact execHaloWait_keeps basin s hk
  | haloTimeout basin => exact execHaloTimeout_keeps basin s hk
  | tapFlush basin => exact execTapFlush_keeps basin s hk
  | perfMark basin => exact execPerfMark_keeps basin s hk
  | setrnd basin => exact execSetrnd_keeps basin s hk
  | endList basin => exact execEndList_keeps basin s hk
  | tapTimeout basin => exact execTapTimeout_keeps basin s hk
  | listComplete basin blamedNs => exact execListComplete_keeps basin blamedNs s hk
  | stopRequest basin => exact execStopRequest_keeps basin s hk
  | rankStopped basin blamedNs => exact execRankStopped_keeps basin blamedNs s hk
  | pmuClear monitor => exact execPmuClear_keeps monitor s hk
  | pmuOverflow monitor counter listIndex unit exact => exact execPmuOverflow_keeps monitor counter listIndex unit exact s hk
  | bankScrubHandover bank write => exact execBankScrubHandover_keeps bank write s hk
  | bankTransfer bank write => exact execBankTransfer_keeps bank write s hk
  | bankPwrChange bank write pastIsolation => exact execBankPwrChange_keeps bank write pastIsolation s hk
  | handoverComplete bank => exact execHandoverComplete_keeps bank s hk
  | powerTransitionDone bank => exact execPowerTransitionDone_keeps bank s hk
  | sweepRegionTest bank fails poisoned => exact execSweepRegionTest_keeps bank fails poisoned s hk
  | marchStart block ctl => exact execMarchStart_keeps block ctl s hk
  | marchDone block failing badSpares badSweepRows => exact execMarchDone_keeps block failing badSpares badSweepRows s hk
  | dramRetrain ctrl => exact execDramRetrain_keeps ctrl s hk
  | tailWrite requester addr len value entryOk => exact execTailWrite_keeps requester addr len value entryOk s hk
  | graphAdmit ring => exact execGraphAdmit_keeps ring s hk
  | headWriteError ring => exact execHeadWriteError_keeps ring s hk
  | arm ring window => exact execArm_keeps ring window s hk
  | cancel ring => exact execCancel_keeps ring s hk
  | disarm ring => exact execDisarm_keeps ring s hk
  | nodeComplete context generation => exact execNodeComplete_keeps context generation s hk
  | completionInterrupt graph => exact execCompletionInterrupt_keeps graph s hk
  | safetyDispatch => exact execSafetyDispatch_keeps s hk
  | nodeDeadline slot => exact execNodeDeadline_keeps slot s hk
  | tokenCfgWrite path value => exact execTokenCfgWrite_keeps path value s hk
  | tokenGenWrite path value => exact execTokenGenWrite_keeps path value s hk
  | tokenValueWrite path value => exact execTokenValueWrite_keeps path value s hk
  | contextBind pool => exact execContextBind_keeps pool s hk
  | quantumTick pool => exact execQuantumTick_keeps pool s hk
  | preemptRanksStopped => exact execPreemptRanksStopped_keeps s hk
  | preemptMovesDone context bad => exact execPreemptMovesDone_keeps context bad s hk
  | teardown consist cause basin node => exact execTeardown_keeps consist cause basin node s hk
  | teardownRanksStopped consist => exact execTeardownRanksStopped_keeps consist s hk
  | teardownScrubDone consist => exact execTeardownScrubDone_keeps consist s hk
  | leaseCheck => exact execLeaseCheck_keeps s hk
  | kick consist tag => exact execKick_keeps consist tag s hk
  | cstBankPwr consist value => exact execCstBankPwr_keeps consist value s hk
  | ttbSlowClear value => exact execTtbSlowClear_keeps value s hk
  | preemptClear => exact execPreemptClear_keeps s hk
  | mboxTake tag data => exact execMboxTake_keeps tag data s hk
  | version => exact execVersion_keeps s hk
  | consistCreate => exact execConsistCreate_keeps s hk
  | consistDestroy => exact execConsistDestroy_keeps s hk
  | consistReset => exact execConsistReset_keeps s hk
  | setWeight => exact execSetWeight_keeps s hk
  | logStart => exact execLogStart_keeps s hk
  | logFlip => exact execLogFlip_keeps s hk
  | logStop => exact execLogStop_keeps s hk
  | logSyncDone consist => exact execLogSyncDone_keeps consist s hk
  | quiesce => exact execQuiesce_keeps s hk
  | quiesceDone consist => exact execQuiesceDone_keeps consist s hk
  | resume => exact execResume_keeps s hk
  | kvcReqTake consist data => exact execKvcReqTake_keeps consist data s hk
  | kvcCreate => exact execKvcCreate_keeps s hk
  | kvcFork => exact execKvcFork_keeps s hk
  | kvcAppend => exact execKvcAppend_keeps s hk
  | kvcTruncate => exact execKvcTruncate_keeps s hk
  | kvcPublish => exact execKvcPublish_keeps s hk
  | kvcFree => exact execKvcFree_keeps s hk
  | kvcPin => exact execKvcPin_keeps s hk
  | kvcUnpin => exact execKvcUnpin_keeps s hk
  | kvcEvict => exact execKvcEvict_keeps s hk
  | kvcQuery => exact execKvcQuery_keeps s hk
  | pageReclaim => exact execPageReclaim_keeps s hk
  | walkerPinGrant basin => exact execWalkerPinGrant_keeps basin s hk
  | kvSpaceValid space value => exact execKvSpaceValid_keeps space value s hk
  | kvSpaceInvalidate space value => exact execKvSpaceInvalidate_keeps space value s hk
  | kvcEnable value => exact execKvcEnable_keeps value s hk
  | planTree rtsNo memError => exact execPlanTree_keeps rtsNo memError s hk
  | planMap rtsNo memError => exact execPlanMap_keeps rtsNo memError s hk
  | planLattice rtsNo memError => exact execPlanLattice_keeps rtsNo memError s hk
  | check rtsNo memError => exact execCheck_keeps rtsNo memError s hk
  | commitDynamic rtsNo memError => exact execCommitDynamic_keeps rtsNo memError s hk
  | commitStatic rtsNo memError => exact execCommitStatic_keeps rtsNo memError s hk
  | loadVehicle rtsNo memError => exact execLoadVehicle_keeps rtsNo memError s hk
  | commitSwap rtsNo => exact execCommitSwap_keeps rtsNo s hk
  | searchEnd rtsNo iterations tries memError => exact execSearchEnd_keeps rtsNo iterations tries memError s hk
  | yield rtsNo iterations tries memError => exact execYield_keeps rtsNo iterations tries memError s hk
  | routeJobDone rtsNo loader excessNs => exact execRouteJobDone_keeps rtsNo loader excessNs s hk
  | worldOwnerWrite rtsNo value => exact execWorldOwnerWrite_keeps rtsNo value s hk
  | rtsOverrunClear rtsNo value => exact execRtsOverrunClear_keeps rtsNo value s hk
  | resultHandover => exact execResultHandover_keeps s hk
  | resultRelease safetyLane payloadError => exact execResultRelease_keeps safetyLane payloadError s hk
  | resultHeaderAck => exact execResultHeaderAck_keeps s hk
  | headwayExpire cls => exact execHeadwayExpire_keeps cls s hk
  | selftestSliceStart => exact execSelftestSliceStart_keeps s hk
  | selftestSliceEnd pass => exact execSelftestSliceEnd_keeps pass s hk
  | safeNReadback level => exact execSafeNReadback_keeps level s hk
  | lockstepMismatch => exact execLockstepMismatch_keeps s hk
  | checkerMismatch unit => exact execCheckerMismatch_keeps unit s hk
  | islandEcc memory => exact execIslandEcc_keeps memory s hk
  | rtcMismatch pair => exact execRtcMismatch_keeps pair s hk
  | debugInvasive => exact execDebugInvasive_keeps s hk
  | safeNAssert => exact execSafeNAssert_keeps s hk
  | sluiceProbe sluice grantAnswered denyAnswered => exact execSluiceProbe_keeps sluice grantAnswered denyAnswered s hk
  | gptpSync mac ptpDomain identity originNs correction wellFormed instant => exact execGptpSync_keeps mac ptpDomain identity originNs correction wellFormed instant s hk
  | pdelayReq mac ptpDomain seq instant => exact execPdelayReq_keeps mac ptpDomain seq instant s hk
  | pdelayResp mac ptpDomain seq t2 t3 instant => exact execPdelayResp_keeps mac ptpDomain seq t2 t3 instant s hk
  | pdelayInterval instant => exact execPdelayInterval_keeps instant s hk
  | syncInterval instant => exact execSyncInterval_keeps instant s hk
  | syncTimeout => exact execSyncTimeout_keeps s hk
  | holdoverTimeout => exact execHoldoverTimeout_keeps s hk
  | mawynTimeSync instant => exact execMawynTimeSync_keeps instant s hk
  | timetableEvent => exact execTimetableEvent_keeps s hk
  | triggerEdge output => exact execTriggerEdge_keeps output s hk
  | triggerPulseEnd output => exact execTriggerPulseEnd_keeps output s hk
  | captureEdge input falling heldNs instant => exact execCaptureEdge_keeps input falling heldNs instant s hk
  | frameStart port vc instant => exact execFrameStart_keeps port vc instant s hk
  | linePacket port vc dt data crcError instant => exact execLinePacket_keeps port vc dt data crcError instant s hk
  | frameEnd port vc => exact execFrameEnd_keeps port vc s hk
  | lineAck port frame line => exact execLineAck_keeps port frame line s hk
  | lineTimeout port => exact execLineTimeout_keeps port s hk
  | lineWriteDenied port frame line => exact execLineWriteDenied_keeps port frame line s hk
  | freeze => exact execFreeze_keeps s hk
  | freezeGated => exact execFreezeGated_keeps s hk
  | freezeRelease => exact execFreezeRelease_keeps s hk
  | tmtNowRead path => exact execTmtNowRead_keeps path s hk
  | capFifoPop input => exact execCapFifoPop_keeps input s hk
  | frameReceive port frame full instant => exact execFrameReceive_keeps port frame full instant s hk
  | aggTimeout entry full => exact execAggTimeout_keeps entry full s hk
  | queueSlotAck queue => exact execQueueSlotAck_keeps queue s hk
  | queueIndexAck queue => exact execQueueIndexAck_keeps queue s hk
  | txIndexWrite requester addr len value entryOk => exact execTxIndexWrite_keeps requester addr len value entryOk s hk
  | txSlotRead queue full instant => exact execTxSlotRead_keeps queue full instant s hk
  | commit path resetCount => exact execCommit_keeps path resetCount s hk
  | entryRead path => exact execEntryRead_keeps path s hk
  | resetCount path => exact execResetCount_keeps path s hk
  | qEnable queue value => exact execQEnable_keeps queue value s hk
  | qDisable queue => exact execQDisable_keeps queue s hk
  | canBusOffRecovery controller => exact execCanBusOffRecovery_keeps controller s hk
  | jctOutbound src tag addr len write data => exact execJctOutbound_keeps src tag addr len write data s hk
  | jctCompletion side readTag status data last => exact execJctCompletion_keeps side readTag status data last s hk
  | cplTimeout side readTag => exact execCplTimeout_keeps side readTag s hk
  | tagQuarantineEnd side readTag => exact execTagQuarantineEnd_keeps side readTag s hk
  | jctInbound port rid addr len write data atomic => exact execJctInbound_keeps port rid addr len write data atomic s hk
  | lr src tag hart addr len => exact execLr_keeps src tag hart addr len s hk
  | sc src tag hart addr data => exact execSc_keeps src tag hart addr data s hk
  | amo src tag hart addr len op operand old readOk => exact execAmo_keeps src tag hart addr len op operand old readOk s hk
  | reservationTimeout => exact execReservationTimeout_keeps s hk
  | pageReqTake tag data => exact execPageReqTake_keeps tag data s hk
  | assign => exact execAssign_keeps s hk
  | setShare => exact execSetShare_keeps s hk
  | pageFree => exact execPageFree_keeps s hk
  | pageHandoverDone => exact execPageHandoverDone_keeps s hk
  | enclaveCreate tag enclave debug => exact execEnclaveCreate_keeps tag enclave debug s hk
  | enclaveAdd tag enclave type page count => exact execEnclaveAdd_keeps tag enclave type page count s hk
  | enclaveSeal tag enclave => exact execEnclaveSeal_keeps tag enclave s hk
  | enclaveDestroy tag enclave => exact execEnclaveDestroy_keeps tag enclave s hk
  | enclaveSelect path tag enclave => exact execEnclaveSelect_keeps path tag enclave s hk
  | gateMark hart regs => exact execGateMark_keeps hart regs s hk
  | gateEnter hart level rd rs1 rs2 entryPhys regs => exact execGateEnter_keeps hart level rd rs1 rs2 entryPhys regs s hk
  | gateExit hart regs => exact execGateExit_keeps hart regs s hk
  | asyncExit hart cause regs => exact execAsyncExit_keeps hart cause regs s hk
  | dbgEnWrite tag value => exact execDbgEnWrite_keeps tag value s hk
  | secureRel tag domain hartsStopped => exact execSecureRel_keeps tag domain hartsStopped s hk
  | regionEntryWrite tag table entry data => exact execRegionEntryWrite_keeps tag table entry data s hk
  | memoryStatus => exact execMemoryStatus_keeps s hk
  | reload => exact execReload_keeps s hk
  | setState hartsStopped past => exact execSetState_keeps hartsStopped past s hk
  | powerQuery => exact execPowerQuery_keeps s hk
  | setPkgLimit => exact execSetPkgLimit_keeps s hk
  | powerHeldProceed domain hartsStopped => exact execPowerHeldProceed_keeps domain hartsStopped s hk
  | domainShutdownDone domain => exact execDomainShutdownDone_keeps domain s hk
  | domainPowerUpDone domain => exact execDomainPowerUpDone_keeps domain s hk
  | dvfsLoop slacks tjs => exact execDvfsLoop_keeps slacks tjs s hk
  | pkgPowerLoop mean powers => exact execPkgPowerLoop_keeps mean powers s hk
  | thermalStep terrace tj => exact execThermalStep_keeps terrace tj s hk
  | clampSample temps currents instant => exact execClampSample_keeps temps currents instant s hk
  | clampIdle => exact execClampIdle_keeps s hk
  | fwLoad => exact execFwLoad_keeps s hk
  | fwVerifyDone => exact execFwVerifyDone_keeps s hk
  | activate => exact execActivate_keeps s hk
  | fwAbort => exact execFwAbort_keeps s hk
  | fwSwap => exact execFwSwap_keeps s hk
  | fwCopyDone => exact execFwCopyDone_keeps s hk
  | watchdogExpire => exact execWatchdogExpire_keeps s hk
  | islandSupplySwitch => exact execIslandSupplySwitch_keeps s hk
  | backupSupplyLow => exact execBackupSupplyLow_keeps s hk
  | islandSupplyLoss => exact execIslandSupplyLoss_keeps s hk
  | linkTrainingDone port lanesBad peerSystem peerDevice peerPort => exact execLinkTrainingDone_keeps port lanesBad peerSystem peerDevice peerPort s hk
  | linkRetry port => exact execLinkRetry_keeps port s hk
  | controlSlotTimeout port => exact execControlSlotTimeout_keeps port s hk
  | blockReceive port corrected good control instant => exact execBlockReceive_keeps port corrected good control instant s hk
  | write flit data => exact execWrite_keeps flit data s hk
  | read flit => exact execRead_keeps flit s hk
  | writeAck flit => exact execWriteAck_keeps flit s hk
  | readData flit data => exact execReadData_keeps flit data s hk
  | error flit => exact execError_keeps flit s hk
  | token flit => exact execToken_keeps flit s hk
  | linkState flit instant => exact execLinkState_keeps flit instant s hk
  | linkStateInterval => exact execLinkStateInterval_keeps s hk
  | linkStateTimeout device => exact execLinkStateTimeout_keeps device s hk
  | apertureAccess src tag addr len write data => exact execApertureAccess_keeps src tag addr len write data s hk
  | txnTimeout txn => exact execTxnTimeout_keeps txn s hk
  | statusRead cmd => exact execStatusRead_keeps cmd s hk
  | heartbeat cmd => exact execHeartbeat_keeps cmd s hk
  | identityRead cmd => exact execIdentityRead_keeps cmd s hk
  | regRead cmd bound => exact execRegRead_keeps cmd bound s hk
  | regWrite cmd bound hartsStopped => exact execRegWrite_keeps cmd bound hartsStopped s hk
  | memRead cmd bound => exact execMemRead_keeps cmd bound s hk
  | memWrite cmd bound => exact execMemWrite_keeps cmd bound s hk
  | imageLoad cmd bound => exact execImageLoad_keeps cmd bound s hk
  | repairRead cmd bound => exact execRepairRead_keeps cmd bound s hk
  | safeRequest cmd => exact execSafeRequest_keeps cmd s hk
  | counterClear cmd => exact execCounterClear_keeps cmd s hk
  | timeSet cmd instant => exact execTimeSet_keeps cmd instant s hk
  | timeSetLapse => exact execTimeSetLapse_keeps s hk
  | transactionAbort => exact execTransactionAbort_keeps s hk
  | verticalBlank stream width height underruns hpd instant => exact execVerticalBlank_keeps stream width height underruns hpd instant s hk
  | extest => exact execExtest_keeps s hk
  | idcode => exact execIdcode_keeps s hk
  | samplePreload => exact execSamplePreload_keeps s hk
  | clamp => exact execClamp_keeps s hk
  | highz => exact execHighz_keeps s hk
  | freezeStatus => exact execFreezeStatus_keeps s hk
  | scanSelect chain => exact execScanSelect_keeps chain s hk
  | scanRead count => exact execScanRead_keeps count s hk
  | tapMemSelect value => exact execTapMemSelect_keeps value s hk
  | tapMemRead count => exact execTapMemRead_keeps count s hk
  | release => exact execRelease_keeps s hk
  | debug hart request => exact execDebug_keeps hart request s hk
  | bypass bits count => exact execBypass_keeps bits count s hk
  | registerWrite target => exact execRegisterWrite_keeps target s hk
  | uncorrectableHeader port => exact execUncorrectableHeader_keeps port s hk
  | pcieLinkUp port up => exact execPcieLinkUp_keeps port up s hk

end Sys2Proof.Laws
end

