-- ==== Sys2Proof/WellFormed.lean ====
section
/-! DEFINITION. Which operands of a command are within the ranges that the spec gives the objects they name. -/

namespace Sys2Proof

/-- Byte payloads whose length the spec fixes. -/
def hasLength (bs : List Byte) (n : Nat) : Bool := bs.length == n

/-- The OPCODEs of the table of R452. -/
def supOpcodes : List Nat := [0x01, 0x02, 0x03, 0x08, 0x09, 0x0A, 0x0B, 0x10, 0x11, 0x20, 0x21, 0x22]

/-- The fields of a supervisor-port command frame are of their widths (R449). -/
def supWf (c : SupFrame) : Bool :=
  c.opcode.all (fun o => o < 256 && !(supOpcodes.contains o)) && c.seq < 256 && c.cflags < 256 && c.res < 256 && c.length < 2 ^ 32 && c.addr < 2 ^ 64 && c.crc < 2 ^ 32

/-- The operands of a register write are of their widths (R480, R386). -/
def requesterWf : Requester → Bool
  | .tag t => t < 4096
  | .hart h _ => h < 20

/-- The banks from `lo` below `hi` that a march reports, with rows and spares that a bank has. -/
def marchWf (lo hi : Nat) (m : MarchRows) : Bool :=
  m.rows.all (fun e => lo ≤ e.1 && e.1 < hi && e.2 < 512) && m.badSpares.all fun e => lo ≤ e.1 && e.1 < hi && e.2 < 5

/-- The target of a register write. -/
def regTargetWf : RegTarget → Bool
  | .bus _ who addr size value _ => requesterWf who && addr < 2 ^ 48 && (size == 4 || size == 8) && value < 2 ^ (8 * size)
  | .csr hart number level value => hart < 20 && number < 4096 && level < 4 && value < 2 ^ 64


/-- Every operand of the command is in its range. -/
def wellFormed : Instr → Bool
  | .porstNAssert => true
  | .resetNAssert => true
  | .resetRelease _ bootSel _ _ _ _ march => bootSel < 4 && marchWf 1024 1056 march.toMarchRows && march.badSweepRows.all fun k => 1024 ≤ k && k < 1056
  | .imageStaged _ _ => true
  | .stmVerifyDone _ => true
  | .memoryTrainingDone _ march badSweepRows => marchWf 0 1280 march && badSweepRows.all (· < 1280)
  | .ilkVerifyDone _ => true
  | .slice0Handoff => true
  | .startupSelftestDone failing => failing.all (· < 10)
  | .startupGoldenDone _ => true
  | .safeNRelease => true
  | .repairWriteBack => true
  | .reloadVerifyDone _ => true
  | .ttschedSwap => true
  | .consisttplSwap => true
  | .rulesSwap => true
  | .rulesRetire => true
  | .clockMonitorWindow counts locked pixelKHz => counts.all (fun e => 1 ≤ e.1 && e.1 ≤ 72) && locked.all (fun d => 37 ≤ d && d ≤ 60) && pixelKHz.length == 4
  | .refClkLoss => true
  | .vddIoLoss => true
  | .sluiceAccess acc _ => (acc.core.all fun u => u.hart < 20) && acc.sluice < 33 && acc.tag < 4096 && acc.addr < 2^48
  | .bankAccess bank req => bank < 1280 && req.tag < 4096 && req.off + req.len ≤ 131072
  | .tapRecordReceive link flips crcFlips => link.basin < 64 && link.port < 64 && hasLength flips 16 && crcFlips < 65536
  | .listStart basin kernelPtr context tag node generation => basin < 64 && kernelPtr < 2^48 && context < 2^14 && tag < 4096 && node < 2^18 && generation < 2^16
  | .nop basin => basin < 64
  | .dma visit => visit.basin < 64
  | .matmul basin => basin < 64
  | .conv basin => basin < 64
  | .attn visit => visit.basin < 64
  | .rill basin => basin < 64
  | .transpose visit => visit.basin < 64
  | .jet basin => basin < 64
  | .barrier basin => basin < 64
  | .haloSignal basin => basin < 64
  | .haloSignalDeliver basin => basin < 64
  | .haloWait basin => basin < 64
  | .haloTimeout basin => basin < 64
  | .tapFlush basin => basin < 64
  | .perfMark basin => basin < 64
  | .setrnd basin => basin < 64
  | .endList basin => basin < 64
  | .tapTimeout basin => basin < 64
  | .listComplete basin _ => basin < 64
  | .stopRequest basin => basin < 64
  | .rankStopped basin _ => basin < 64
  | .pmuClear monitor => monitor < 96
  | .pmuOverflow monitor counter listIndex unit _ => monitor < 96 && counter < 4 && listIndex < 65536 && unit < 5
  | .bankScrubHandover bank write => bank < 1280 && write.value < 2^32
  | .bankTransfer bank write => bank < 1280 && write.value < 2^32
  | .bankPwrChange bank write _ => bank < 1280 && write.value < 2^32
  | .handoverComplete bank => bank < 1280
  | .powerTransitionDone bank => bank < 1280
  | .sweepRegionTest bank _ poisoned => bank < 1280 && poisoned.all (· < 32)
  | .marchStart block ctl => block < 72 && ctl < 2^32
  | .marchDone block _ _ _ => block < 72
  | .dramRetrain ctrl => ctrl < 8
  | .tailWrite requester addr len _ _ => requesterWf requester && addr < 2^48 && 0 < len && len ≤ 256
  | .graphAdmit ring => ring < 1024
  | .headWriteError ring => ring < 1024
  | .arm ring _ => ring < 1024
  | .cancel ring => ring < 1024
  | .disarm ring => ring < 1024
  | .nodeComplete context generation => context < 2^14 && generation < 2^16
  | .completionInterrupt _ => true
  | .safetyDispatch => true
  | .nodeDeadline slot => slot < 2^18
  | .tokenCfgWrite path value => path < 260 && value < 2^32
  | .tokenGenWrite path value => path < 260 && value < 2^32
  | .tokenValueWrite path value => path < 260 && value < 2^32
  | .contextBind pool => pool < 16
  | .quantumTick pool => pool < 16
  | .preemptRanksStopped => true
  | .preemptMovesDone context _ => context < 2^14
  | .teardown consist _ basin node => 0 < consist && consist < 256 && basin < 64 && node < 2^18
  | .teardownRanksStopped consist => 0 < consist && consist < 256
  | .teardownScrubDone consist => 0 < consist && consist < 256
  | .leaseCheck => true
  | .kick consist tag => 0 < consist && consist < 256 && tag < 4096
  | .cstBankPwr consist value => 0 < consist && consist < 256 && value < 2^32
  | .ttbSlowClear value => value < 2^32
  | .preemptClear => true
  | .mboxTake tag data => tag < 4096 && hasLength data 8
  | .version => true
  | .consistCreate => true
  | .consistDestroy => true
  | .consistReset => true
  | .setWeight => true
  | .logStart => true
  | .logFlip => true
  | .logStop => true
  | .logSyncDone consist => 0 < consist && consist < 256
  | .quiesce => true
  | .quiesceDone consist => 0 < consist && consist < 256
  | .resume => true
  | .kvcReqTake consist data => 0 < consist && consist < 256 && hasLength data 8
  | .kvcCreate => true
  | .kvcFork => true
  | .kvcAppend => true
  | .kvcTruncate => true
  | .kvcPublish => true
  | .kvcFree => true
  | .kvcPin => true
  | .kvcUnpin => true
  | .kvcEvict => true
  | .kvcQuery => true
  | .pageReclaim => true
  | .walkerPinGrant basin => basin < 64
  | .kvSpaceValid space value => space < 256 && value < 2^32 && value % 2 = 1
  | .kvSpaceInvalidate space value => space < 256 && value < 2^32 && value % 2 = 0
  | .kvcEnable value => value < 2^32
  | .planTree rtsNo memError => rtsNo < 2 && memError < 3
  | .planMap rtsNo memError => rtsNo < 2 && memError < 3
  | .planLattice rtsNo memError => rtsNo < 2 && memError < 3
  | .check rtsNo memError => rtsNo < 2 && memError < 3
  | .commitDynamic rtsNo memError => rtsNo < 2 && memError < 3
  | .commitStatic rtsNo memError => rtsNo < 2 && memError < 3
  | .loadVehicle rtsNo memError => rtsNo < 2 && memError < 3
  | .commitSwap rtsNo => rtsNo < 2
  | .searchEnd rtsNo iterations tries memError => rtsNo < 2 && iterations < 2^32 && tries < 5 && memError < 3
  | .yield rtsNo iterations tries memError => rtsNo < 2 && iterations < 2^32 && tries < 5 && memError < 3
  | .routeJobDone rtsNo _ _ => rtsNo < 2
  | .worldOwnerWrite rtsNo value => rtsNo < 2 && value < 2^32
  | .rtsOverrunClear rtsNo value => rtsNo < 2 && value < 2^32
  | .resultHandover => true
  | .resultRelease _ _ => true
  | .resultHeaderAck => true
  | .headwayExpire cls => 0 < cls && cls < 128
  | .selftestSliceStart => true
  | .selftestSliceEnd _ => true
  | .safeNReadback _ => true
  | .lockstepMismatch => true
  | .checkerMismatch unit => unit < 65536
  | .islandEcc memory => memory < 65536
  | .rtcMismatch pair => pair < 2
  | .debugInvasive => true
  | .safeNAssert => true
  | .sluiceProbe sluice _ _ => sluice < 33
  | .gptpSync mac ptpDomain identity _ _ _ _ => mac < 10 && ptpDomain < 256 && identity < 2^64
  | .pdelayReq mac ptpDomain seq _ => mac < 10 && ptpDomain < 256 && seq < 65536
  | .pdelayResp mac ptpDomain seq t2 t3 _ => mac < 10 && ptpDomain < 256 && seq < 65536 && t2 ≤ t3
  | .pdelayInterval _ => true
  | .syncInterval _ => true
  | .syncTimeout => true
  | .holdoverTimeout => true
  | .mawynTimeSync _ => true
  | .timetableEvent => true
  | .triggerEdge output => output < 32
  | .triggerPulseEnd output => output < 32
  | .captureEdge input _ _ _ => input < 16
  | .frameStart port vc _ => port < 16 && vc < 16
  | .linePacket port vc dt data _ _ => port < 16 && vc < 16 && dt < 64 && data.length < 65536
  | .frameEnd port vc => port < 16 && vc < 16
  | .lineAck port frame line => port < 16 && frame < 2^32 && line < 65536
  | .lineTimeout port => port < 16
  | .lineWriteDenied port frame line => port < 16 && frame < 2^32 && line < 65536
  | .freeze => true
  | .freezeGated => true
  | .freezeRelease => true
  | .tmtNowRead path => path < 260
  | .capFifoPop input => input < 16
  | .frameReceive port frame full _ => port < 32 && full < 2^64 && frame.kind < 4
  | .aggTimeout entry full => entry < 4096 && full < 2^64
  | .queueSlotAck queue => queue < 32
  | .queueIndexAck queue => queue < 32
  | .txIndexWrite requester addr len _ _ => requesterWf requester && addr < 2^48 && 0 < len && len ≤ 256
  | .txSlotRead queue full _ => queue < 32 && full < 2^64
  | .commit path _ => path < 260
  | .entryRead path => path < 260
  | .resetCount path => path < 260
  | .qEnable queue value => queue < 32 && value < 2^64
  | .qDisable queue => queue < 32
  | .canBusOffRecovery controller => controller < 16
  | .jctOutbound _ tag _ len _ _ => tag < 4096 && 0 < len
  | .jctCompletion side readTag status _ _ => side < 3 && readTag < 256 && status < 5
  | .cplTimeout side readTag => side < 3 && readTag < 256
  | .tagQuarantineEnd side readTag => side < 3 && readTag < 256
  | .jctInbound port rid _ len _ _ _ => port < 2 && rid < 65536 && 0 < len
  | .lr _ tag _ addr len => tag < 4096 && (len == 4 || len == 8) && addr % len == 0
  | .sc _ tag _ addr data => tag < 4096 && (data.length == 4 || data.length == 8) && addr % data.length == 0
  | .amo _ tag _ addr len op _ _ _ => tag < 4096 && (len == 4 || len == 8) && addr % len == 0 && op < 9
  | .reservationTimeout => true
  | .pageReqTake tag data => tag < 4096 && hasLength data 8
  | .assign => true
  | .setShare => true
  | .pageFree => true
  | .pageHandoverDone => true
  | .enclaveCreate tag enclave _ => tag < 4096 && 0 < enclave && enclave < 64
  | .enclaveAdd tag enclave type page count => tag < 4096 && 0 < enclave && enclave < 64 && type < 4 && page < 2^25 && 0 < count && count ≤ 65536
  | .enclaveSeal tag enclave => tag < 4096 && 0 < enclave && enclave < 64
  | .enclaveDestroy tag enclave => tag < 4096 && 0 < enclave && enclave < 64
  | .enclaveSelect _ tag enclave => tag < 4096 && 0 < enclave && enclave < 64
  | .gateMark hart _ => hart < 20
  | .gateEnter hart _ rd rs1 rs2 _ _ => hart < 20 && rd < 32 && rs1 < 32 && rs2 < 32
  | .gateExit hart _ => hart < 20
  | .asyncExit hart _ _ => hart < 20
  | .dbgEnWrite tag value => tag < 4096 && value < 2^32
  | .secureRel tag domain _ => tag < 4096 && domain < 65536
  | .regionEntryWrite tag table entry data => tag < 4096 && table < 26 && entry < 32 && hasLength data 32
  | .memoryStatus => true
  | .reload => true
  | .setState _ _ => true
  | .powerQuery => true
  | .setPkgLimit => true
  | .powerHeldProceed domain _ => domain < 65536
  | .domainShutdownDone domain => domain < 65536
  | .domainPowerUpDone domain => domain < 65536
  | .dvfsLoop slacks tjs => slacks.length == 8 && tjs.length == 8 && tjs.all (· < 256)
  | .pkgPowerLoop mean powers => mean < 4096 && powers.length == 8
  | .thermalStep terrace tj => terrace < 8 && tj < 256
  | .clampSample temps currents _ => temps.length == 32 && temps.all (· < 256) && currents.length == 22 && currents.all (· < 3)
  | .clampIdle => true
  | .fwLoad => true
  | .fwVerifyDone => true
  | .activate => true
  | .fwAbort => true
  | .fwSwap => true
  | .fwCopyDone => true
  | .watchdogExpire => true
  | .islandSupplySwitch => true
  | .backupSupplyLow => true
  | .islandSupplyLoss => true
  | .linkTrainingDone port lanesBad peerSystem peerDevice peerPort => port < 4 && lanesBad < 256 && peerSystem < 2^64 && peerDevice < 64 && peerPort < 4
  | .linkRetry port => port < 4
  | .controlSlotTimeout port => port < 4
  | .blockReceive port _ _ control _ => port < 4 && hasLength control 64
  | .write flit data => hasLength flit 64 && data.length ≤ 256
  | .read flit => hasLength flit 64
  | .writeAck flit => hasLength flit 64
  | .readData flit data => hasLength flit 64 && data.length ≤ 256
  | .error flit => hasLength flit 64
  | .token flit => hasLength flit 64
  | .linkState flit _ => hasLength flit 64
  | .linkStateInterval => true
  | .linkStateTimeout device => device < 48
  | .apertureAccess _ tag addr len write data => tag < 4096 && 0 < len && len ≤ 256 && addr % 4096 + len ≤ 4096 && (!write || data.length == len)
  | .txnTimeout txn => txn < 65536
  | .statusRead cmd => supWf cmd
  | .heartbeat cmd => supWf cmd
  | .identityRead cmd => supWf cmd
  | .regRead cmd _ => supWf cmd
  | .regWrite cmd _ _ => supWf cmd
  | .memRead cmd _ => supWf cmd
  | .memWrite cmd _ => supWf cmd
  | .imageLoad cmd _ => supWf cmd
  | .repairRead cmd _ => supWf cmd
  | .safeRequest cmd => supWf cmd
  | .counterClear cmd => supWf cmd
  | .timeSet cmd _ => supWf cmd
  | .timeSetLapse => true
  | .transactionAbort => true
  | .verticalBlank stream width height _ _ _ => stream < 4 && width ≤ 3840 && height ≤ 2160
  | .extest => true
  | .idcode => true
  | .samplePreload => true
  | .clamp => true
  | .highz => true
  | .freezeStatus => true
  | .scanSelect chain => chain < 256
  | .scanRead _ => true
  | .tapMemSelect value => value < 2 ^ 64
  | .tapMemRead _ => true
  | .release => true
  | .debug hart request => hart < 22 && request < 5
  | .bypass _ _ => true
  | .registerWrite target => regTargetWf target
  | .uncorrectableHeader port => port < 16
  | .pcieLinkUp port _ => port < 2

end Sys2Proof
end

