-- ==== Sys2Proof/Tests/Slice0.lean ====
section
/-! SUPPORT. Tests: a term that each well-formedness check refuses, and for every statement with hypotheses a state and
operands that meet them. -/

namespace Sys2Proof.Tests

set_option Elab.async false

open Sys2Proof.Machine Sys2Proof.Safety

/-- A device out of reset with nothing loaded. -/
def up : State := { pins := { porstN := true } }

/-- A field that lies past a string of zeros is a field of what follows them. -/
theorem far_field (n k m : Nat) (b : Bytes) : le (zeros n ++ b) (n + k) m = le b k m := by
  simp [le, slice, List.drop_append, zeros]

/-- A pair by its parts. -/
theorem pairOf {α β : Type} (p : α × β) (b : β) (h : p.2 = b) : p = (p.1, b) := by rw [← h]

/-- A pair by its first part. -/
theorem pairOfFst {α β : Type} (p : α × β) (a : α) (h : p.1 = a) : p = (a, p.2) := by rw [← h]

/-- A table of one value reads it at its keys. -/
theorem tget_map {α : Type} (d a : α) (l : List Nat) (k : Nat) :
    tget d (l.map fun i => (i, a)) k = if k ∈ l then a else d := by
  induction l with
  | nil => simp [tget]
  | cons j r ih => by_cases h : j = k <;> simp [tget, ih, h, Ne.symm (a := j)]

/-- The device at start-up step 2 or later. -/
def stepped (n : Nat) : State := { up with boot := { step := n } }
/-- The frame of `x` with its CRC. -/
def sealed (op : Nat) (x : SupFrame) : SupFrame := { x with crc := crc32c (frameBytes op x) }
/-- The frame of `x` with a wrong CRC. -/
def spoiled (op : Nat) (x : SupFrame) : SupFrame := { x with crc := crc32c (frameBytes op x) + 1 }
theorem spoiled_bad (op : Nat) (x : SupFrame) : crc32c (frameBytes op (spoiled op x)) ≠ (spoiled op x).crc :=
  Nat.ne_of_lt (Nat.lt_succ_self (crc32c (frameBytes op x)))
theorem sealed_sound (op : Nat) (x : SupFrame) : crc32c (frameBytes op (sealed op x)) = (sealed op x).crc := rfl

theorem heard_sealed (s : State) (op : Nat) (x : SupFrame) (u : s.live = true) (a : s.supAnswers = true)
    (r : frameReserved op (sealed op x) = false) : Heard s op (sealed op x) := ⟨u, a, sealed_sound op x, r⟩

theorem witness_ResetPinsAndSupplies :
    up.pins.porstN = true ∧ State.reset.pins.porstN = false ∧ up.live = true ∧ up.pins.refClk = true ∧
      up.latched = false := by decide

theorem witness_StartUpBegins :
    (∃ s : State, s.pins.porstN = false ∧ s.pins.resetN = false) ∧
    (∃ (s : State) (porst : Bool) (sel : Nat),
      s.pins.porstN = !porst ∧ s.pins.resetN = porst ∧ sel < 3 ∧ s.boot.banksFenced = false) ∧
    (∃ (s : State) (porst : Bool), s.pins.porstN = !porst ∧ s.pins.resetN = porst) :=
  ⟨⟨{ pins := { resetN := false } }, by decide⟩, ⟨State.reset, true, 2, by decide⟩, ⟨State.reset, true, by decide⟩⟩

theorem witness_StartUpVerification :
    (∃ s : State, s.live = true ∧ s.boot.phase = .load ∧ s.boot.imageStaged = false ∧ s.boot.supLoad = false ∧
      (s.pins.bootSel = 0 ∨ s.pins.bootSel = 2) ∧ s.boot.slotAFailed = false) ∧
    (∃ s : State, s.live = true ∧ s.boot.phase = .load ∧ s.boot.imageStaged = true ∧ s.boot.bootSrc = .supervisor) ∧
    (∃ s : State, s.live = true ∧ s.boot.stmVerified = true ∧ s.boot.ilkReadBack = false ∧ s.boot.phase ≠ .failed ∧
      s.boot.phase ≠ .ready) ∧
    (∃ s : State, s.live = true ∧ s.boot.stmVerified = true ∧ s.boot.ilkReadBack = false ∧ s.boot.phase = .ready) :=
  ⟨⟨{ up with boot := { phase := .load } }, by decide⟩,
   ⟨{ up with boot := { phase := .load, imageStaged := true, bootSrc := .supervisor } }, by decide⟩,
   ⟨{ up with boot := { phase := .firmware, stmVerified := true } }, by decide⟩,
   ⟨{ up with boot := { phase := .ready, stmVerified := true } }, by decide⟩⟩

theorem witness_StartUpToSafeNRelease :
    (∃ s : State, s.live = true ∧ s.boot.phase = .firmware ∧ s.boot.ilkReadBack = false ∧
      s.boot.repairSealRejected = false) ∧
    (∃ s : State, s.live = true ∧ s.boot.ilkState = .selftest) ∧
    (∃ s : State, s.live = true ∧ s.boot.ilkState = .golden ∧ s.ilk.goldenPending = true) ∧
    (∃ s : State, s.live = true ∧ s.boot.ilkState = .golden ∧ s.ilk.goldenPending = false ∧ s.ilk.quarantine = 0) ∧
    (∃ s : State, s.live = true ∧ s.boot.ilkState = .golden ∧ s.ilk.goldenPending = false ∧ s.ilk.quarantine ≠ 0) ∧
    (∃ s : State, s.live = true ∧ s.boot.ilkState = .waitTime ∧ s.boot.phase = .ready ∧ s.ilkSplit = false ∧
      s.ilk.lockstep = true ∧ s.boot.ilkVerified = true ∧ s.boot.selftestPassed = true ∧ s.boot.goldenPassed = true ∧
      s.tmt.valid = true ∧ s.ilk.safeCause = 0) ∧
    (∃ s : State, s.live = true ∧ s.repair.changed = true) ∧
    (∃ s : State, s.live = true ∧ s.boot.slice0Handed = false ∧ s.boot.ilkVerified = true ∧
      (s.boot.phase = .ready ∨ s.boot.phase = .safe)) :=
  ⟨⟨{ up with boot := { phase := .firmware } }, by decide⟩,
   ⟨{ up with boot := { ilkState := .selftest } }, by decide⟩,
   ⟨{ up with boot := { ilkState := .golden }, ilk := { goldenPending := true } }, by decide⟩,
   ⟨{ up with boot := { ilkState := .golden } }, by decide⟩,
   ⟨{ up with boot := { ilkState := .golden }, ilk := { quarantine := 1 } }, by decide⟩,
   ⟨{ up with
      boot := { phase := .ready, ilkState := .waitTime, ilkVerified := true, selftestPassed := true, goldenPassed := true }
      tmt := { valid := true } }, by decide⟩,
   ⟨{ up with repair := { changed := true } }, by decide⟩,
   ⟨{ up with boot := { phase := .safe, ilkVerified := true } }, by decide⟩⟩

theorem witness_PartialReload :
    (∃ s : State, s.live = true ∧ s.reload.state = .verifying ∧ (s.boot.phase = .ready ∨ s.boot.phase = .safe)) ∧
    (∃ (s : State) (p q r : Bytes), s.live = true ∧ s.armedSection secTtsched = some p ∧
      s.armedSection secConsisttpl = some q ∧ s.armedSection secRules = some r ∧ s.tmt.freeze = .running) ∧
    (∃ s : State, s.live = true ∧ s.reload.oldRules ≠ none ∧ s.oldResultsOpen = false) :=
  ⟨⟨{ up with boot := { phase := .safe }, reload := { state := .verifying } }, by decide⟩,
   ⟨{ up with reload := { state := .armed, armed := true, armedSections := [(0x30, [1]), (0x31, [2]), (0x41, [3])] } },
    [1], [2], [3], by decide⟩,
   ⟨{ up with reload := { oldRules := some [] } }, by decide⟩⟩

/-- Terrace 0 is on and Basin 0 is shared. -/
def basins (b0 b1 : Basin) : State :=
  { up with clocks := [(1, { state := .on })], sections := [(0x20, [1, 1])], basins := [(0, b0), (1, b1)] }

theorem witness_BasinListEvents :
    ((basins {} {}).live = true ∧ (basins {} {}).terraceOn (0 / 8) = true ∧
      ((basins {} {}).basinRole 0 = 1 ∨ (basins {} {}).basinRole 0 = 2) ∧ ((basins {} {}).basin 0).list ≠ .running ∧
      ((basins {} {}).basin 0).list ≠ .stopping ∧ (basins {} {}).basinBusy 0 = false) ∧
    (∃ s : State, s.live = true ∧ s.runsList 0 = true ∧ (s.basin 0).haloWaiting = true ∧
      (s.basin 0).walkerPin = none) ∧
    (∃ s u : State, s.live = true ∧ (s.basin 0).list = .stopping ∧ u = (s.stopDma 0).haloFlush 0 ∧
      (u.basin 0).list = .stopping ∧ (u.basin 0).atStop = true) ∧
    (∃ s u : State, s.live = true ∧ (s.basin 0).list = .stopping ∧ u = (s.stopDma 0).haloFlush 0 ∧
      (u.basin 0).atStop = false) ∧
    (∃ s : State, s.live = true ∧ (s.basin 0).list = .ended ∧ (s.basin 0).tapsOpen = false ∧ (s.basin 0).queue = []) ∧
    (∃ s : State, s.live = true ∧ (s.basin 0).tapsOpen = true ∧ (s.basin 0).list.open = true ∧
      (s.basin 0).walkerPin = none) ∧
    (∃ (s : State) (rest : List (Nat × Nat × Nat × Nat)), s.live = true ∧ (s.basin 0).signals = (1, 2, 3, 4) :: rest ∧
      (s.modBasin 0 fun b => { b with signals := rest }).translate 0 1 = some 1 ∧ (s.basin 1).bound = true ∧ (s.basin 1).context = 3 ∧ (s.basin 1).generation = 4) ∧
    (∃ (s : State) (rest : List (Nat × Nat × Nat × Nat)), s.live = true ∧ (s.basin 0).signals = (1, 2, 3, 4) :: rest ∧
      (s.modBasin 0 fun b => { b with signals := rest }).translate 0 1 = some 1 ∧ (s.basin 1).generation ≠ 4) ∧
    (∃ s : State, s.live = true ∧ (s.monitor 63).en = true ∧ (s.monitor 63).frozen = false ∧
      fld (tget 0 (s.monitor 63).evsel 3) 0 6 ≠ 0 ∧ exactEvsel (tget 0 (s.monitor 63).evsel 3) = false) ∧
    (∃ s : State, s.live = true ∧ (s.monitor 64).en = true ∧ (s.monitor 64).frozen = false ∧
      fld (tget 0 (s.monitor 64).evsel 3) 0 6 ≠ 0) :=
  ⟨by decide, ⟨basins { list := .running, haloWaiting := true } {}, by decide⟩,
   ⟨basins { list := .stopping } {}, _, by decide, by decide, rfl, by decide, by decide⟩,
   ⟨basins { list := .stopping, unacked := [{}] } {}, _, by decide, by decide, rfl, by decide⟩,
   ⟨basins { list := .ended } {}, by decide⟩, ⟨basins { list := .ended, unacked := [{}] } {}, by decide⟩,
   ⟨basins { signals := [(1, 2, 3, 4)] } { bound := true, context := 3, generation := 4 }, [], by decide⟩,
   ⟨basins { signals := [(1, 2, 3, 4)] } { bound := true, context := 3, generation := 5 }, [], by decide⟩,
   ⟨{ up with basins := [(63, { pmu := { en := true, evsel := [(3, 63)] } })] }, by decide⟩,
   ⟨State.modMonitor up 64 fun p => { p with en := true, evsel := [(3, 63)] }, by decide⟩⟩

/-- Basin 0 of a powered Terrace runs a list whose only command stands at line 0 of its Pool. -/
def listed (cmd : Bytes) (b : Basin) : State :=
  { up with
    clocks := [(1, { state := .on })], sections := [(0x20, [1])]
    basins := [(0, { b with bound := true, tag := 0x201, list := .running, kernelPtr := poolBase })]
    banks := [(0, { ctlOwner := 0x201, ctlFree := false, ctlPwr := .on, curOwner := 0x201, curFree := false, pwrState := .on })]
    slc := { regions := [(288, { base := poolBase, limit := poolBase + 0x1FFFF, rWorlds := 4, wWorlds := 4, valid := true })] }
    mem := memWrite [] poolBase cmd }

/-- The same Basin with the command in the queue of its unit. -/
def queued (cmd : Bytes) (b : Basin) : State := listed cmd { b with listPos := 1, queue := [{ idx := 0, cmd := cmd }] }

/-- Its unit works on it. -/
theorem queued_works (cmd : Bytes) (op : Nat) (mask : List Nat) (b : Basin)
    (h1 : ((queued cmd b).issue 0 op).1 = queued cmd b) (h2 : unitsOf op ≠ 0) (h3 : byteAt cmd 0 = op)
    (h4 : resOk cmd (hdrMask ++ mask) = true) :
    Works (queued cmd b) 0 op mask { idx := 0, cmd := cmd } (queued cmd b) :=
  ⟨rfl, rfl, h1, by simp [State.unitHead, queued, listed, State.basin, tget, QCmd.uses, QCmd.opcode, h3, h2], h3, rfl,
    by simp [queued, listed, State.basin, tget, Basin.mayRun], h4⟩

/-- A command that the sequencer of a listed Basin comes to. -/
theorem listed_sequences (cmd : Bytes) (op : Nat) (mask : List Nat) (b : Basin)
    (h1 : ((listed cmd b).issue 0 op).2 = some cmd) (h2 : resOk cmd (hdrMask ++ mask) = true) :
    Sequences (listed cmd b) 0 op mask cmd ((listed cmd b).issue 0 op).1 :=
  ⟨rfl, pairOf _ _ h1, h2⟩

theorem witness_BasinSequencerCommands :
    (∃ (s r : State) (cmd : Bytes), Sequences s 0 0x00 [0, 0] cmd r) ∧
    (∃ (s r : State) (cmd : Bytes), Sequences s 0 0x30 [0, 0] cmd r) ∧
    (∃ (s r : State) (cmd : Bytes), Sequences s 0 0x31 [0, 0, 0x3F, 0xFF, 0xFF] cmd r ∧ (r.basin 0).outstanding 0 = 0) ∧
    (∃ (s r : State) (cmd : Bytes), Sequences s 0 0x31 [0, 0, 0x3F, 0xFF, 0xFF] cmd r ∧ (r.basin 0).outstanding 0 ≠ 0) ∧
    (∃ (s r : State) (cmd : Bytes), Sequences s 0 0x32 [0, 0, 0xFF, 0xFF, 0xFF, 0xFF] cmd r ∧ le cmd 6 2 ≠ 0 ∧
      (r.basin 0).scoreboard &&& le cmd 4 2 = le cmd 4 2) ∧
    (∃ (s r : State) (cmd : Bytes), Sequences s 0 0x32 [0, 0, 0xFF, 0xFF, 0xFF, 0xFF] cmd r ∧ le cmd 6 2 ≠ 0 ∧
      (r.basin 0).scoreboard &&& le cmd 4 2 ≠ le cmd 4 2) ∧
    (∃ (s r : State) (cmd : Bytes), Sequences s 0 0x3F [0, 0] cmd r ∧ (r.basin 0).queue = []) ∧
    (∃ (s r : State) (cmd : Bytes), Sequences s 0 0x3F [0, 0] cmd r ∧ (r.basin 0).queue ≠ []) ∧
    (∃ (s r q : State) (cmd : Bytes), Sequences s 0 0x3C [0, 0, 0xFF, 0xFF, 0xFF, 0x7F] cmd r ∧
      r.askLines 0 [] [(lineAt cmd 6, 1)] = (0, q)) ∧
    (∃ (s r : State) (q : QCmd), Works s 0 0x3E ([0, 0] ++ List.replicate 16 0xFF) q r) ∧
    (∃ (s r : State) (q : QCmd), Works s 0 0x38 [0, 0] q r) :=
  ⟨⟨_, _, zeros 32, listed_sequences _ _ _ {} (by decide) (by decide)⟩,
   ⟨_, _, 0x30 :: zeros 31, listed_sequences _ _ _ {} (by decide) (by decide)⟩,
   ⟨_, _, 0x31 :: zeros 31, listed_sequences _ _ _ {} (by decide) (by decide), by decide⟩,
   ⟨_, _, 0x31 :: zeros 31, listed_sequences _ _ _ { queue := [{ cmd := [1] }] } (by decide) (by decide), by decide⟩,
   ⟨_, _, [0x32, 0, 0, 0, 1, 0, 5] ++ zeros 25, listed_sequences _ _ _ { scoreboard := 1 } (by decide) (by decide),
    by decide, by decide⟩,
   ⟨_, _, [0x32, 0, 0, 0, 1, 0, 5] ++ zeros 25, listed_sequences _ _ _ {} (by decide) (by decide), by decide, by decide⟩,
   ⟨_, _, 0x3F :: zeros 31, listed_sequences _ _ _ {} (by decide) (by decide), by decide⟩,
   ⟨_, _, 0x3F :: zeros 31, listed_sequences _ _ _ { queue := [{ cmd := [1] }] } (by decide) (by decide), by decide⟩,
   ⟨_, _, _, 0x3C :: zeros 31, listed_sequences _ _ _ {} (by decide) (by decide), pairOfFst _ _ (by decide)⟩,
   ⟨_, _, _, queued_works (0x3E :: zeros 31) _ _ {} (by decide) (by decide) (by decide) (by decide)⟩,
   ⟨_, _, _, queued_works (0x38 :: zeros 31) _ _ {} (by decide) (by decide) (by decide) (by decide)⟩⟩

/-- What a listed Basin fetches, with no command outstanding. -/
theorem listed_fetches (cmd : Bytes) (op : Nat) (b : Basin) (h1 : (listed cmd b).runsList 0 = true)
    (h2 : ((listed cmd b).basin 0).queue = [] ∧ (((listed cmd b).fetchCmd 0).2.basin 0).queue = []) (h3 : b.listPos = 0)
    (h4 : ((listed cmd b).fetchCmd 0).1 = 0)
    (h5 : slice ((listed cmd b).fetchCmd 0).2.resp.bytes 0 32 = cmd) (h6 : byteAt cmd 0 = op)
    (h7 : fld (byteAt cmd 1) 4 4 ≤ 8) :
    Fetches (listed cmd b) 0 op cmd ((listed cmd b).fetchCmd 0).2 :=
  ⟨h1, h2, by simp [listed, State.basin, tget, h3], Prod.ext h4 rfl, h5, h6, h7⟩

theorem witness_BasinCommandOutcome :
    (∃ (s r : State) (cmd : Bytes), Fetches s 0 0x30 cmd r ∧ knownOpcode 0x30 = true ∧ unitsOf 0x30 = 0) ∧
    (∃ (s r : State) (cmd : Bytes), Fetches s 0 0x20 cmd r ∧ knownOpcode 0x20 = true ∧ unitsOf 0x20 ≠ 0) ∧
    (∃ (s r : State) (cmd : Bytes), s.live = true ∧ Fetches s 0 0xFF cmd r ∧ knownOpcode 0xFF = false) ∧
    (∃ (s r t : State) (q : QCmd), Works s 0 0x01 dmaMask q r ∧ (dmaOf q.cmd).run 0 0 q r = (0, t)) ∧
    (∃ (s r t : State) (q : QCmd), Works s 0 0x01 dmaMask q r ∧ (dmaOf q.cmd).run 0 1 q r = (waits, t)) ∧
    (∃ (s r t : State) (q : QCmd), Works s 0 0x10 matmulMask q r ∧ (matmulOf q.cmd).run 0 r = (1, t)) :=
  ⟨⟨_, _, 0x30 :: zeros 31, listed_fetches _ _ {} (by decide) (by decide) rfl (by decide) (by decide) (by decide)
      (by decide), by decide, by decide⟩,
   ⟨_, _, 0x20 :: zeros 31, listed_fetches _ _ {} (by decide) (by decide) rfl (by decide) (by decide) (by decide)
      (by decide), by decide, by decide⟩,
   ⟨_, _, 0xFF :: zeros 31, by decide, listed_fetches _ _ {} (by decide) (by decide) rfl (by decide) (by decide) (by decide)
      (by decide), by decide⟩,
   ⟨_, _, _, _, queued_works ([1, 0, 2, 0, 1, 0, 1, 0, 0, 0, 0, 0, 0, 0, 1, 0, 1] ++ zeros 15) _ _ {} (by decide) (by decide)
      (by decide) (by decide), pairOfFst _ _ (by decide)⟩,
   ⟨_, _, _, _, queued_works ([1, 0, 2, 0, 1, 0, 1, 0, 0, 0, 0, 0, 0, 0, 2, 0, 1] ++ zeros 15) _ _ {} (by decide) (by decide)
      (by decide) (by decide), pairOfFst _ _ (by decide)⟩,
   ⟨_, _, _, _, queued_works ([0x10, 0, 0, 0xFF] ++ zeros 28) _ _ {} (by decide) (by decide)
      (by decide) (by decide), pairOfFst _ _ (by decide)⟩⟩

/-- A Basin with the command in its unit's queue, that also owns the Pool banks 0 to `k - 1`, with `m` stored in its Pool. -/
def queuedBanks (k : Nat) (cmd : Bytes) (m : List (Nat × Bytes)) : State :=
  { queued cmd {} with
    banks := (List.range k).map fun i => (i, { ctlOwner := 0x201, ctlFree := false, ctlPwr := .on, curOwner := 0x201, curFree := false, pwrState := .on })
    mem := m.foldl (fun x e => memWrite x (poolAddr 0 e.1) e.2) (memWrite [] poolBase cmd) }

/-- The commands and Pool lines of the witnesses: a zero-filling DMA of line 1; a MATMUL and a CONV of one k in INT8 without
EMIT; an ATTN in direct mode of one row over no keys; a RILL of one no-operation bundle; a TRANSPOSE of one block; a JET of no
elements. -/
def dmaCmd : Bytes := [1, 0, 2, 0, 1, 0, 1, 0, 0, 0, 0, 0, 0, 0, 1, 0, 1] ++ zeros 15

/-- A MATMUL. -/
def matmulCmd : Bytes := [0x10, 0, 1, 0, 0, 63, 63, 0, 0, 0, 1, 0, 2, 0] ++ zeros 10 ++ [64] ++ zeros 7

/-- A CONV whose descriptor is line 1. -/
def convCmd : Bytes := [0x11, 0, 1, 0, 0, 0, 0, 0, 1, 0, 2, 0, 3, 0] ++ zeros 10 ++ [1] ++ zeros 7

/-- Its descriptor: one tap, one channel in and out, a 1 × 1 image. -/
def convDescriptor : Bytes :=
  [0, 0, 1, 1, 1, 1, 1, 1] ++ zeros 8 ++ [1, 0, 1, 0, 1, 0, 1, 0, 1, 0, 0, 0, 1, 0, 1, 0] ++ zeros 32

/-- An ATTN whose descriptor is line 1 and whose batch is line 2. -/
def attnCmd : Bytes :=
  [0x12, 0, 0, 0x44, 4, 0, 1, 0, 2, 0, 3, 0, 1, 0, 0x40, 0, 1, 0, 1, 0] ++ zeros 6 ++ [0, 0x20] ++ zeros 4

/-- Its descriptor. -/
def attnDescriptor : Bytes := [1, 0, 1, 0, 0, 0, 0, 0, 0, 0, 0x80, 0x3F] ++ zeros 52

/-- A RILL whose bundle is line 1. -/
def rillCmd : Bytes := [0x20, 0, 0, 0, 1] ++ zeros 27

/-- A TRANSPOSE of line 0 on to line 64. -/
def transposeCmd : Bytes := [0x21, 0, 0, 0, 0, 0, 64, 0, 1, 0, 1, 0, 1, 0] ++ zeros 18

/-- A JET. -/
def jetCmd : Bytes := 0x28 :: zeros 31

/-- `queued_works` for a Basin with banks of its own. -/
theorem queuedBanks_works (k : Nat) (cmd : Bytes) (m : List (Nat × Bytes)) (op : Nat) (mask : List Nat)
    (h1 : ((queuedBanks k cmd m).issue 0 op).1 = queuedBanks k cmd m) (h2 : unitsOf op ≠ 0)
    (h3 : byteAt cmd 0 = op) (h4 : resOk cmd (hdrMask ++ mask) = true) :
    Works (queuedBanks k cmd m) 0 op mask { idx := 0, cmd := cmd } (queuedBanks k cmd m) :=
  ⟨rfl, rfl, h1, by simp [State.unitHead, queuedBanks, queued, listed, State.basin, tget, QCmd.uses, QCmd.opcode, h3, h2],
    h3, rfl, by simp [queuedBanks, queued, listed, State.basin, tget, Basin.mayRun], h4⟩

theorem witness_DmaCompletes : ∃ (s r u t : State) (q : QCmd), Works s 0 0x01 dmaMask q r ∧ q.done = 0 ∧
      (dmaOf q.cmd).zero = true ∧ (dmaOf q.cmd).lines = 1 ∧ (dmaOf q.cmd).rows = 1 ∧ (dmaOf q.cmd).pitch ≠ 0 ∧
      u = r.modQ 0 q.idx (fun x => { x with started := true }) ∧
      u.basinIo 0 (poolAddr 0 (dmaOf q.cmd).line) 64 true (zeros 64) = (0, t) ∧
      (∀ x ∈ (t.basin 0).queue, x.idx = q.idx → x.left = 0) :=
  ⟨_, _, _, _, _, queued_works dmaCmd _ _ {} (by decide) (by decide) (by decide) (by decide), by decide, by decide,
    by decide, by decide, by decide, rfl, pairOfFst _ _ (by decide), by decide⟩

theorem witness_MatmulCompletes : ∃ (s r t : State) (q : QCmd) (m : Matmul),
    Works s 0 0x10 matmulMask q r ∧ m = matmulOf q.cmd ∧ fmtClass m.fa = some .int8 ∧ m.reserved .int8 = false ∧
      accMismatch (r.accStart 0 m.sel (bit m.flags 0)) .int8 = false ∧ m.badShape .int8 = false ∧
      r.askLines 0 (m.reads .int8) m.writes = (0, t) ∧ m.sparse = false :=
  ⟨_, _, _, _, _, queued_works matmulCmd _ _ {} (by decide) (by decide) (by decide) (by decide), rfl, by decide,
    by decide, by decide, by decide, pairOfFst _ _ (by decide), by decide⟩

theorem witness_ConvCompletes : ∃ (s r t1 t2 : State) (q : QCmd) (m : ConvCmd) (d : ConvDesc),
    Works s 0 0x11 convMask q r ∧ m = convOf q.cmd ∧ fmtClass m.fx = some .int8 ∧ m.reserved .int8 = false ∧
      accMismatch (r.accStart 0 m.sel (bit m.flags 0)) .int8 = false ∧ r.askLines 0 [(m.desc, 1)] [] = (0, t1) ∧
      d = convDescOf (t1.rd (poolAddr 0 m.desc) 64) ∧ m.descError d .int8 = false ∧ m.badShape d .int8 = false ∧
      t1.askLines 0 (m.reads d .int8) m.writes = (0, t2) ∧ m.sparse = false :=
  ⟨_, _, _, _, _, _, _, queuedBanks_works 1 convCmd [(1, convDescriptor)] _ _ (by decide) (by decide) (by decide)
    (by decide), rfl, by decide, by decide, by decide, pairOfFst _ _ (by decide), rfl,
    by decide +kernel, by decide +kernel, pairOfFst _ _ (by decide +kernel), by decide⟩

theorem witness_AttnCompletes : ∃ (s r t1 t2 t : State) (q : QCmd) (m : AttnCmd) (d : AttnDesc),
    Works s 0 0x12 (List.replicate 30 0xFF) q r ∧ m = attnOf q.cmd ∧ m.reserved q.cmd = false ∧
      r.askLines 0 [(m.desc, 1)] [] = (0, t1) ∧ d = attnDescOf (t1.rd (poolAddr 0 m.desc) 64) ∧
      d.paged = false ∧ m.append = false ∧ d.bad = false ∧ d.globals = 0 ∧
      regionsFit [(m.batch, (m.entries + 3) / 4)] = true ∧
      t1.askLines 0 [(m.batch, (m.entries + 3) / 4)] [] = (0, t2) ∧
      globalsBad d (t2.attnGlobals 0 d) = false ∧
      AttnEnv.run { n := 0, c := m, d := d, cls := (fmtClass m.fq).getD .fp8, p := t2.kvSpace d.space
                    g := t2.attnGlobals 0 d } 0 q t2 = (0, t) :=
  ⟨_, _, _, _, _, _, _, _, queuedBanks_works 8 attnCmd [(1, attnDescriptor)] _ _ (by decide) (by decide) (by decide)
    (by decide), rfl, by decide, pairOfFst _ _ (by decide), rfl, by decide, by decide,
    by decide, by decide, by decide, pairOfFst _ _ (by decide), by decide, pairOfFst _ _ (by decide +kernel)⟩

theorem witness_RillCompletes : ∃ (s r t1 t2 : State) (q : QCmd) (m : RillCmd),
    Works s 0 0x20 [0, 0x3F, 0xFF, 0x7F, 0xFF, 0xFF, 0xFF, 0x7F, 0xFF, 0xFF, 0xFF, 0x7F, 0xFF, 0xFF, 0xFF, 0x7F, 0xFF,
        0xFF, 0x3F] q r ∧ m = rillOf q.cmd ∧ m.iters * max m.count 4 ≤ 65536 ∧ regionsFit m.regions = true ∧
      r.askLines 0 [m.list] [] = (0, t1) ∧ (m.raw 0 t1).all bundleOk = true ∧
      t1.askLines 0 m.inputs m.output = (0, t2) :=
  ⟨_, _, _, _, _, _, queued_works rillCmd _ _ {} (by decide) (by decide) (by decide) (by decide), rfl, by decide, by decide,
    pairOfFst _ _ (by decide), by decide, pairOfFst _ _ (by decide)⟩

/-- The lines of one block, whichever way the pitch counts. -/
theorem transposeRegions_one (line : Nat) : transposeRegions line 1 1 64 = [(line, 64)] := by
  simp only [transposeRegions, blockByte]
  cases Config.transposeRowPitch <;> simp [List.range_succ] <;> omega

theorem witness_TransposeCompletes : ∃ (s r t : State) (q : QCmd) (ri wi : List (Nat × Nat)),
    Works s 0 0x21 transposeMask q r ∧ 2 ^ fld (byteAt q.cmd 3) 0 2 = 1 ∧ le q.cmd 8 2 = 1 ∧ q.done = 0 ∧
      ri = transposeRegions (lineAt q.cmd 4) (le q.cmd 10 2) 1 64 ∧
      wi = transposeRegions (lineAt q.cmd 6) (le q.cmd 12 2) 1 64 ∧
      regionsFit (ri ++ wi) = true ∧ r.askLines 0 ri wi = (0, t) := by
  refine ⟨_, _, _, _, [(0, 64)], [(64, 64)], queued_works transposeCmd _ _ {} (by decide) (by decide) (by decide)
    (by decide), by decide, by decide, rfl, ?_, ?_, by decide, pairOfFst _ _ (by decide)⟩
  · have a : lineAt transposeCmd 4 = 0 := by decide
    have c : le transposeCmd 10 2 = 1 := by decide
    rw [a, c, transposeRegions_one]
  · have b : lineAt transposeCmd 6 = 64 := by decide
    have d : le transposeCmd 12 2 = 1 := by decide
    rw [b, d, transposeRegions_one]

theorem witness_JetCompletes : ∃ (s r t : State) (q : QCmd) (count : Nat) (src dst : Nat × Nat),
    Works s 0 0x28 ([0x03, 0x07, 0xFF, 0x7F, 0xFF, 0x7F] ++ List.replicate 12 0xFF) q r ∧
      fld (byteAt q.cmd 3) 0 3 < 6 ∧ count = le q.cmd 8 4 ∧ count % 16 = 0 ∧ count ≤ 1048576 ∧ byteAt q.cmd 2 = 0 ∧
      src = (lineAt q.cmd 4, (count * 4 + 63) / 64) ∧ dst = (lineAt q.cmd 6, (count * 4 + 63) / 64) ∧
      regionsFit [src, dst] = true ∧ r.askLines 0 [src] [dst] = (0, t) :=
  ⟨_, _, _, _, _, _, _, queued_works jetCmd _ _ {} (by decide) (by decide) (by decide) (by decide), by decide, rfl,
    by decide, by decide, by decide, rfl, rfl, by decide, pairOfFst _ _ (by decide)⟩

/-- Bank 0 alone, with a transfer pair from tag 0x203 to tag 0x105. -/
def banked (b : Bank) : State :=
  { up with
    banks := [(0, b)], sections := [(0x22, zeros 6 ++ [1, 0] ++ zeros 0x138 ++ [0x03, 0x52, 0x10, 0x01])] }

theorem witness_BankControlWrites :
    (∃ s : State, s.live = true ∧ (s.bank 0).fenced = true) ∧
    (∃ s : State, s.live = true ∧ (s.bank 0).handover ≠ none) ∧
    (fld 0x4000 13 2 ≥ 2 ∧ fld 0x30000 16 2 = 3 ∧ fld 0x3000 13 2 = 1 ∧ bit 0x3000 12 = true) ∧
    (∃ s : State, s.live = true ∧ fld 0x2105 13 2 = 1 ∧ (s.bank 0).changesOwner 0x2105 = true ∧
      s.transferPair (s.bank 0).curOwner (fld 0x2105 0 12) 24 = false) ∧
    (∃ s : State, s.live = true ∧ s.bankRejects 0 0x20105 = false ∧ (s.bank 0).changesOwner 0x20105 = true ∧
      fld 0x20105 13 2 = 0) ∧
    (∃ s : State, s.live = true ∧ s.bankRejects 0 0x22105 = false ∧ (s.bank 0).changesOwner 0x22105 = true ∧
      fld 0x22105 13 2 = 1) ∧
    (∃ s : State, s.live = true ∧ s.bankRejects 0 0x10203 = false ∧ (s.bank 0).changesOwner 0x10203 = false ∧
      mayPower 0 .software = false) ∧ mayPower 0 .turntable = true ∧
    (∃ s : State, s.live = true ∧ s.bankRejects 0 0x10203 = false ∧ (s.bank 0).changesOwner 0x10203 = false ∧
      (s.bank 0).ctlPwr ≠ bankPwrOf (fld 0x10203 16 2) ∧ (s.bank 0).transition = none ∧
      (s.bank 0).pwrState ≠ bankPwrOf (fld 0x10203 16 2)) ∧
    (∃ s : State, s.live = true ∧ s.bankRejects 0 0x20203 = false ∧ (s.bank 0).changesOwner 0x20203 = false ∧
      (s.bank 0).ctlPwr ≠ bankPwrOf (fld 0x20203 16 2) ∧ (s.bank 0).transition = some { src := .on, dst := .off } ∧
      bankPwrOf (fld 0x20203 16 2) = .on) :=
  ⟨⟨banked { fenced := true }, by decide⟩, ⟨banked { handover := some {} }, by decide⟩, by decide,
   ⟨banked { ctlOwner := 0x203, ctlFree := false, curOwner := 0x204, curFree := false, pwrState := .on }, by decide⟩,
   ⟨banked { pwrState := .on }, by decide⟩,
   ⟨banked { ctlOwner := 0x203, ctlFree := false, curOwner := 0x203, curFree := false, pwrState := .on }, by decide⟩,
   ⟨banked { ctlOwner := 0x203, ctlFree := false, ctlPwr := .on, curOwner := 0x203, curFree := false, pwrState := .on },
    by decide⟩, by decide,
   ⟨banked { ctlOwner := 0x203, ctlFree := false, ctlPwr := .on, curOwner := 0x203, curFree := false, pwrState := .on },
    by decide⟩,
   ⟨banked { ctlOwner := 0x203, ctlFree := false, curOwner := 0x203, curFree := false, pwrState := .on
             transition := some { src := .on, dst := .off } }, by decide⟩⟩

theorem witness_BankTransitionsEnd :
    (∃ (s : State) (h : BankHandover), s.live = true ∧ (s.bank 0).handover = some h ∧ h.wake = false ∧ h.drain = [] ∧
      (s.bank 0).held = [] ∧ (s.bank 0).transition = none ∧ (s.bank 0).pwrState = h.pwr ∧ s.fwLoops = false) ∧
    (∃ (s : State) (x : BankTransition), s.live = true ∧ (s.bank 0).transition = some x ∧
      (s.bank 0).latchedPwr = none ∧ (s.bank 0).held = [] ∧ (s.bank 0).handover = none) :=
  ⟨⟨banked { handover := some { owner := 0x105, pwr := .on }, pwrState := .on }, { owner := 0x105, pwr := .on }, by decide⟩,
   ⟨banked { transition := some { src := .on, dst := .off } }, { src := .on, dst := .off }, by decide⟩⟩

theorem witness_BankAccesses :
    (∃ (s : State) (r : BankReq), s.live = true ∧ s.bankJudge 0 r = .serve ∧ r.origin = .other ∧ r.write = true) ∧
    (∃ (s : State) (r : BankReq), s.live = true ∧ s.bankJudge 0 r = .serve ∧ r.origin = .other ∧ r.write = false ∧ s.bankEcc 0 r = 2) ∧
    (∃ (s : State) (r : BankReq), s.live = true ∧ s.bankJudge 0 r = .fault 0 ∧ r.origin = .basin 0 ∧
      (s.basin 0).walkerPin = none ∧ (s.basin 0).list.open = true) ∧
    (∃ (s : State) (r : BankReq), s.live = true ∧ s.bankJudge 0 r = .hold) ∧
    ((banked { fenced := true }).bank 0).fenced = true ∧
    (((banked {}).bank 0).fenced = false ∧ ((banked {}).bank 0).handover = none ∧ ((banked {}).bank 0).curFree = true) ∧
    (∃ (s : State) (r : BankReq), (s.bank 0).fenced = false ∧ (s.bank 0).handover = none ∧ (s.bank 0).curFree = false ∧
      r.tag = (s.bank 0).curOwner ∧ (s.bank 0).transition = none) :=
  ⟨⟨banked { curOwner := 5, curFree := false, pwrState := .on }, { tag := 5, write := true }, by decide⟩,
   ⟨banked { curOwner := 5, curFree := false, pwrState := .on }, { tag := 5, ecc := 2 }, by decide⟩,
   ⟨{ banked { curOwner := 5, curFree := false, pwrState := .on } with basins := [(0, { list := .running })] },
    { tag := 6, origin := .basin 0 }, by decide⟩,
   ⟨banked { curOwner := 5, curFree := false, pwrState := .retention }, { tag := 5 }, by decide⟩, by decide, by decide,
   ⟨banked { curOwner := 5, curFree := false }, { tag := 5 }, by decide⟩⟩

theorem witness_BankMaintenance :
    (∃ s : State, s.live = true ∧ s.sweepable 0 = true ∧ (s.bank 0).foundBad (s.bank 0).sweepPos [] = [] ∧
      takeSpare (s.bank 0).spareList (s.bank 0).sweepPos = some [(1, 511), (0, 0), (0, 0), (0, 0), (0, 0)]) ∧
    (∃ s : State, s.live = true ∧ s.sweepable 0 = true ∧ (s.bank 0).foundBad (s.bank 0).sweepPos [] = [] ∧
      takeSpare (s.bank 0).spareList (s.bank 0).sweepPos = none) ∧
    (∃ s : State, s.live = true ∧ s.sweepable 0 = true ∧ (s.bank 0).foundBad (s.bank 0).sweepPos [31] = [16383]) ∧
    (∃ s : State, s.live = true ∧ bit 3 0 = true ∧ (s.block 0).marchBusy = false ∧
      s.marchAccepts 0 (s.block 0).marchMask (bit 3 1) = true) ∧
    (∃ s : State, s.live = true ∧ (s.block 0).marchBusy = true ∧ (s.block 0).marchSetPreserve = true) ∧
    (∃ s : State, s.live = true ∧ (s.dramCtrl 7).trained = true ∧ (s.dramCtrl 7).state = .on) :=
  ⟨⟨{ banked { curFree := false, pwrState := .on, sweepPos := 511 } with blocks := [(0, { sweepEn := true })] }, by decide⟩,
   ⟨{ banked { curFree := false, pwrState := .on, spares := [(1, 3), (1, 4), (2, 0), (1, 5), (1, 6)] } with
      blocks := [(0, { sweepEn := true })] }, by decide⟩,
   ⟨{ banked { curFree := false, pwrState := .on, sweepPos := 511 } with blocks := [(0, { sweepEn := true })] }, by decide⟩,
   ⟨{ banked { pwrState := .on } with blocks := [(0, { marchMask := 1 })] }, by decide⟩,
   ⟨{ up with blocks := [(0, { marchBusy := true, marchSetPreserve := true })] }, by decide⟩,
   ⟨{ up with dram := [(7, { state := .on, trained := true })] }, by decide⟩⟩

/-- A device with a schedule whose header starts with these bytes. -/
def scheduled (b : Bytes) (t : Tmt) : State := { up with sections := [(0x30, b)], tmt := t }

/-- A two-device Mawyn topology whose port 0 is up and measured. -/
def mawynTimed : State :=
  { up with
    sections := [(0x30, zeros 12 ++ [3]), (0x50, [0, 0, 0, 0, 1, 2, 0, 1])]
    mwl :=
      { ports := [(0, { state := .upX8, delays := [5, 5, 5, 5, 5, 5, 5, 5], timeValid := true })]
        peers := [(1, { ports := 2 })] } }

theorem witness_TimeDiscipline :
    (∃ s : State, s.live = true ∧ s.tmt.freeze = .running) ∧
    (∃ s : State, s.live = true ∧ (s.reach 7).timeMode = 1 ∧ (s.reach 7).ttField 0x0D 1 = 2 ∧ (s.reach 7).ttField 0x0E 1 = 3 ∧
      (s.reach 7).ttField 0x20 8 = 0 ∧ (s.reach 7).tmt.pdelay.done = true ∧ (s.reach 7).tmt.stepped = false ∧
      (s.reach 7).tmt.lost = false ∧ (s.reach 7).tmt.froze = false ∧ (s.reach 7).tmt.lostRun < 3) ∧
    (∃ s : State, s.live = true ∧ (s.reach 7).timeMode = 1 ∧ (s.reach 7).ttField 0x0D 1 = 2 ∧ (s.reach 7).ttField 0x0E 1 ≠ 4) ∧
    (∃ s : State, s.live = true ∧ (s.reach 7).timeMode = 1 ∧ (s.reach 7).ttField 0x0D 1 = 2 ∧
      (s.reach 7).ttField 0x0E 1 = 3 ∧ (s.reach 7).ttField 0x20 8 = 0 ∧ (s.reach 7).tmt.pdelay.done = true ∧
      (s.reach 7).tmt.stepped = true) ∧
    (∃ s : State, s.live = true ∧ (s.reach 7).ptpOn 2 3 = true ∧ (s.reach 7).tmt.pdelay.awaiting = true ∧
      (s.reach 7).tmt.pdelay.reqSeq = 9) ∧
    (∃ s : State, s.live = true ∧ (s.reach 7).timeMode = 2) ∧
    (∃ s : State, s.live = true ∧ s.tmt.lastSync = some 5 ∧ s.syncMode = true ∧ s.tmt.holdover = false) ∧
    (∃ s : State, s.live = true ∧ s.tmt.lastSync = some 5 ∧ s.syncMode = true ∧ s.tmt.holdover = true ∧ s.tmt.valid = true ∧
      s.latched = false) ∧
    (mawynTimed.live = true ∧ (mawynTimed.reach 7).timeMode = 3 ∧ (mawynTimed.reach 7).mawynOn = true ∧
      (mawynTimed.reach 7).timeParent = some 0 ∧ ((mawynTimed.reach 7).mport 0).delay = some 5 ∧
      ((mawynTimed.reach 7).mport 0).timeValid = true ∧ ((mawynTimed.reach 7).mport 0).state.up = true) :=
  ⟨⟨up, by decide⟩,
   ⟨scheduled (zeros 12 ++ [1, 2, 3]) { pdelay := { done := true } }, by decide⟩,
   ⟨scheduled (zeros 12 ++ [1, 2, 3]) {}, by decide⟩,
   ⟨scheduled (zeros 12 ++ [1, 2, 3]) { pdelay := { done := true }, stepped := true }, by decide⟩,
   ⟨scheduled (zeros 12 ++ [1, 2, 3]) { pdelay := { awaiting := true, reqSeq := 9 } }, by decide⟩,
   ⟨scheduled (zeros 12 ++ [2, 2, 3]) {}, by decide⟩,
   ⟨scheduled (zeros 12 ++ [1, 2, 3]) { lastSync := some 5 }, by decide⟩,
   ⟨scheduled (zeros 12 ++ [1, 2, 3]) { lastSync := some 5, holdover := true, valid := true }, by decide⟩,
   by decide⟩

theorem witness_FreezeAndRelease :
    (up.pins.porstN = true ∧ up.pins.resetN = true ∧ up.tmt.freeze = .running) ∧
    (∃ s : State, s.live = true ∧ s.tmt.freeze = .latched) ∧
    (∃ s : State, s.tmt.freeze = .frozen ∧ s.tmt.freezeByEvent = false ∧ s.latched = false ∧ s.tmt.valid = true) ∧
    (∃ (s : State) (a : ArmedSet), s.live = true ∧ s.tmt.freeze = .running ∧ s.tmt.armedSet = some a) :=
  ⟨by decide, ⟨{ up with tmt := { freeze := .latched } }, by decide⟩,
   ⟨{ up with tmt := { freeze := .frozen, valid := true } }, by decide⟩,
   ⟨{ up with tmt := { armedSet := some {} } }, {}, by decide⟩⟩

/-- A schedule with one PERIODIC event of 1 ms, number 1, that drives trigger output 0, and capture input 0 enabled. -/
def oneEvent : Bytes :=
  [0, 0, 0, 0, 1, 0] ++ zeros (0x100 - 6) ++ [1, 0, 1, 0, 0, 1] ++ zeros 14 ++ leBytes 4 1000000 ++ zeros 8

theorem witness_TimetableOccurrences_event :
    ∃ (s : State) (p : PendingEvent) (e : TtEvent), s.live = true ∧ s.tmt.freeze = .running ∧ s.nextEvent = some p ∧
      ((s.reach p.instant).events.find? fun x => x.id == p.id) = some e :=
  ⟨scheduled oneEvent { stepped := true }, ⟨1, 0, 0⟩, { id := 1, kind := 1, period := 1000000 }, by decide +kernel⟩

theorem far_trigger (b : Bytes) (x : Tmt) (i k m : Nat) :
    ((scheduled (zeros 0x20100 ++ b) x).reach i).trigField 0 k m = le b k m := by
  simp only [State.reach]; split <;> exact far_field 0x20100 k m b

theorem far_capture (b : Bytes) (x : Tmt) (i k m : Nat) :
    ((scheduled (zeros 0x20300 ++ b) x).reach i).capField 0 k m = le b k m := by
  simp only [State.reach]; split <;> exact far_field 0x20300 k m b

theorem witness_TimetableOccurrences_trigger :
    (∃ s : State, s.live = true ∧ s.tmt.freeze = .running ∧ (s.trig 0).due = [9] ∧ (s.reach 9).trigField 0 0 2 ≠ 0 ∧
      bit ((s.reach 9).trigField 0 2 1) 1 = true) ∧
    (∃ s : State, s.live = true ∧ s.tmt.freeze = .running ∧ (s.trig 0).due = [9] ∧ (s.reach 9).trigField 0 0 2 ≠ 0 ∧
      bit ((s.reach 9).trigField 0 2 1) 1 = false) ∧
    (∃ s : State, s.live = true ∧ s.tmt.freeze = .running ∧ (s.trig 0).pulseEnd = some 9) :=
  ⟨⟨scheduled (zeros 0x20100 ++ [1, 0, 2]) { triggers := [(0, { due := [9] })] }, by decide, by decide, by decide,
     by rw [far_trigger]; decide, by rw [far_trigger]; decide⟩,
   ⟨scheduled (zeros 0x20100 ++ [1, 0, 0]) { triggers := [(0, { due := [9] })] }, by decide, by decide, by decide,
     by rw [far_trigger]; decide, by rw [far_trigger]; decide⟩,
   ⟨{ up with tmt := { triggers := [(0, { pulseEnd := some 9 })] } }, by decide⟩⟩

theorem witness_TimetableOccurrences_capture :
    (∃ s : State, s.live = true ∧ s.tmt.freeze = .running) ∧
    (∃ s : State, s.live = true ∧ s.tmt.freeze = .running ∧ (s.reach 9).capSelects 0 false = true ∧
      (s.reach 9).capDead 0 9 = true) ∧
    (∃ s : State, s.live = true ∧ s.tmt.freeze = .running ∧ (s.reach 9).capSelects 0 false = true ∧
      (s.reach 9).capDead 0 9 = false ∧ (s.reach 9).tmt.armedSet = none) ∧
    (∃ s : State, s.live = true ∧ (s.cap 0).fifo = [(9, false)]) :=
  ⟨⟨up, by decide⟩,
   ⟨scheduled (zeros 0x20300 ++ [1, 0, 1]) { caps := [(0, { last := some 5 })] }, by decide, by decide,
     by rw [State.capSelects, far_capture]; decide, by rw [State.capDead, far_capture]; decide⟩,
   ⟨scheduled (zeros 0x20300 ++ [1]) {}, by decide, by decide, by rw [State.capSelects, far_capture]; decide,
     by rw [State.capDead, far_capture]; decide, by decide⟩,
   ⟨{ up with tmt := { caps := [(0, { fifo := [(9, false)] })] } }, by decide⟩⟩

theorem witness_ClockMonitorWindow :
    (∃ s : State, s.live = true) ∧
    (∃ u : State, u.live = true ∧ u.judged 12 = true ∧ u.nominalKHz [] 12 = 1000000 ∧ islandDomain 12 = true ∧
      u.latched = false) ∧
    (∃ u : State, u.live = true ∧ u.judged 14 = true ∧ u.nominalKHz [] 14 = 1000000) ∧
    (∃ u : State, u.live = true ∧ u.judged 9 = true ∧ u.nominalKHz [] 9 = 1800000 ∧ islandDomain 9 = false) :=
  ⟨⟨up, by decide⟩, ⟨{ up with clocks := [(12, { state := .on })] }, by decide⟩,
   ⟨{ up with clocks := [(14, { state := .on })] }, by decide⟩,
   ⟨{ up with clocks := [(9, { state := .on })] }, by decide⟩⟩

/-- Camera port 0 enabled, for virtual channel 0 and data type 0x2A, 4 lines of 2 bytes; its frame 1 open where `f`. -/
def camera (c : CamPort) : State :=
  { up with
    sections := [(secIoplan, zeros 4 ++ [1] ++ zeros 0x3B ++
      ([0, 1, 0, 0, 0, 0x2A] : Bytes) ++ zeros 14 ++ [1, 0, 4, 0, 2, 0, 0, 0])]
    clocks := [(37, { state := .on })]
    tmt := { cams := [(0, c)] } }

/-- A state in which a bank or page still holds a write of the source. -/
def heldFor (o : Origin) (s : State) : State := { s with slc := { s.slc with held := [{ origin := o }] } }

theorem witness_CameraFrames :
    (∃ (s : State) (p vc : Nat), s.live = true ∧ s.camTakes p vc = false) ∧
    (∃ s : State, s.live = true ∧ s.tmt.freeze = .running ∧ s.camTakes 0 0 = true ∧ ((s.reach 9).cam 0).isOpen = false) ∧
    (∃ (s : State) (f : CamFrame), s.live = true ∧ s.tmt.freeze = .running ∧ s.camTakes 0 0 = true ∧
      ((s.reach 9).cam 0).resync = false ∧ ((s.reach 9).cam 0).isOpen = true ∧ ((s.reach 9).cam 0).cur = some f ∧
      f.received < (s.reach 9).camField 0 0x16 2 ∧ s.camEnabled 0 = true) ∧
    (∃ s : State, s.live = true ∧ { frame := 1, line := 0 } ∈ (s.cam 0).writes ∧ s.awaits (.line 0 1 0) = true) ∧
    (∃ s : State, s.live = true ∧ { frame := 1, line := 0 } ∈ (s.cam 0).writes ∧ s.awaits (.line 0 1 0) = false) ∧
    (∃ s : State, s.live = true ∧ { frame := 1, line := 0, denied := true } ∈ (s.cam 0).writes) :=
  ⟨⟨up, 0, 0, by decide⟩, ⟨camera {}, by decide⟩,
   ⟨camera { frames := [{ frame := 1, isOpen := true }] }, { frame := 1, isOpen := true }, by decide⟩,
   ⟨heldFor (.line 0 1 0) (camera { writes := [{ frame := 1, line := 0 }] }), by decide⟩,
   ⟨camera { writes := [{ frame := 1, line := 0 }] }, by decide⟩,
   ⟨camera { writes := [{ frame := 1, line := 0, denied := true }] }, by decide⟩⟩

/-- Pool bank 0, which tag 0x201 owns and may access, with these strings stored in it. -/
def stored (m : List (Nat × Bytes)) : State :=
  { up with
    clocks := [(1, { state := .on })], sections := [(0x20, [1])]
    banks := [(0, { ctlOwner := 0x201, ctlFree := false, ctlPwr := .on, curOwner := 0x201, curFree := false, pwrState := .on })]
    slc := { regions := [(288, { base := poolBase, limit := poolBase + 0x1FFFF, rWorlds := 4, wWorlds := 4, valid := true })] }
    mem := m.foldl (fun x e => memWrite x e.1 e.2) [] }

/-- A device READY whose ring 0, in that bank, has one entry. -/
def ringed (m : List (Nat × Bytes)) (g : Table Graph) : State :=
  { stored m with
    boot := { phase := .ready }
    sbx := { rings := [(0, { log2Size := 6, base := poolBase, ownerTag := 0x201, armed := true, tail := 1 })], graphs := g } }

/-- The device of `ringed` with Pool bank 1 beside bank 0, one of them in retention. -/
def napping (b : Nat) (m : List (Nat × Bytes)) : State :=
  { ringed m [] with
    slc := { regions := [(288, { base := poolBase, limit := poolBase + 0x3FFFF, rWorlds := 4, wWorlds := 4, valid := true })] }
    banks := [0, 1].map fun k => (k, { ctlOwner := 0x201, ctlFree := false, ctlPwr := .on, curOwner := 0x201, curFree := false
                                       pwrState := if k = b then .retention else .on }) }

/-- The header of a graph of one JOIN node at line 1. -/
def joinHeader : Bytes := ([1, 0, 2, 0, 1, 0, 0, 0] : Bytes) ++ leBytes 6 (poolBase + 64) ++ zeros 50

/-- The record of a SAFETY JOIN node. -/
def joinNode : Bytes := zeros 0x14 ++ ([2, 1] : Bytes) ++ zeros 42

/-- A device whose ring 0 has its tail word at address 64 of DRAM, written under tag 7; Sluice 0 lets the Gateway write. -/
def watched : State :=
  { up with
    sections := [(secMemory, [0xFF, 0, 8])]
    dram := [(0, { state := .on })]
    slc := { regions := [(0, { limit := 0xFFFFF, rWorlds := 4, wWorlds := 4, valid := true })] }
    sbx := { rings := [(0, { log2Size := 6, tailAddr := 64, writerTag := 0x207, armed := true })] } }

/-- The writes of 8 bytes that submitters make at its tail word. -/
theorem witness_SignalBoxRings_tails (tag : Nat) (h : tag ∈ [7, 0x207, 0x208]) :
    ∃ (r : Ring) (acc : Access), watched.live = true ∧ watched.sbx.rings = [(0, r)] ∧ r.log2Size ≠ 0 ∧ 64 ≤ r.tailAddr ∧
      r.tailAddr + 4 ≤ 64 + 8 ∧ watched.target 64 = .dram 0 ∧ 
      (watched.blockAccess tag 64 8 true (leBytes 8 65)).map (fun a => { a with entryOk := true }) = some acc ∧
      (tag ≠ 7 → watched.verdict acc = .grant ∧ (watched.dramCtrl 0).state ≠ .off) ∧
      (tag = 7 → watched.verdict acc = .deny 3) ∧ (tag = 0x207 → tag = r.writerTag ∧ r.armed = true ∧
      2 ^ r.log2Size < subMod (le (leBytes 8 65) (r.tailAddr - 64) 4) r.head) ∧ (tag = 0x208 → tag ≠ r.writerTag) := by
  simp only [List.mem_cons, List.not_mem_nil, or_false] at h
  rcases h with rfl | rfl | rfl
  · exact ⟨_, _, by decide, rfl, by decide, by decide, by decide, by decide, rfl, by decide +kernel, by decide +kernel,
      by decide, by decide⟩
  · exact ⟨_, _, by decide, rfl, by decide, by decide, by decide, by decide, rfl, by decide +kernel, by decide,
      by decide +kernel, by decide⟩
  · exact ⟨_, _, by decide, rfl, by decide, by decide, by decide, by decide, rfl, by decide +kernel, by decide,
      by decide, by decide⟩

theorem witness_SignalBoxRings_rings :
    (∃ s : State, s.live = true ∧ s.armRefused 16 = false ∧ (s.ring 16).tailOk (s.ring 16).tail = true ∧
      (s.ring 16).gated = false) ∧
    (∃ s : State, s.live = true ∧ s.armRefused 16 = false ∧ (s.ring 16).tailOk (s.ring 16).tail = true ∧
      (s.ring 16).gated = true) ∧
    (∃ s : State, s.live = true ∧ s.armRefused 16 = true) ∧
    (∃ s : State, s.live = true ∧ s.armRefused 16 = false ∧ (s.ring 16).tailOk (s.ring 16).tail = false) ∧
    (∃ s : State, s.live = true ∧ (s.ring 0).armed = true) ∧
    (∃ s : State, s.live = true ∧ s.ringNext 0 = false) :=
  ⟨⟨{ up with
      sections := [(secMemory, [0xFF, 0, 8])], sbx := { rings := [(16, { log2Size := 6, gated := false })] } }, by decide⟩,
   ⟨{ up with sections := [(secMemory, [0xFF, 0, 8])], sbx := { rings := [(16, { log2Size := 6, gated := true })] } },
     by decide⟩,
   ⟨up, by decide⟩,
   ⟨{ up with
      sections := [(secMemory, [0xFF, 0, 8])], sbx := { rings := [(16, { log2Size := 6, tail := 65 })] } }, by decide⟩,
   ⟨ringed [] [], by decide +kernel⟩, ⟨up, by decide⟩⟩

/-- The header that GRAPH_ADMIT fetches. -/
def headOf (s : State) (n : Nat) : State × Fetch :=
  s.fetchBytes (s.ring n).ownerTag ((s.ring n).base + 64 * ((s.ring n).head % (s.ring n).size)) 64

/-- A general ring of Consist 1, whose template allows one node. -/
def generalRing (g : Table Graph) : State :=
  { stored [(poolBase, ([1, 0, 0, 0, 1, 0, 0, 0] : Bytes) ++ leBytes 6 (poolBase + 64) ++ zeros 50),
      (poolBase + 64, zeros 0x14 ++ ([2, 0] : Bytes) ++ zeros 42)] with
    boot := { phase := .ready }
    ttb := { consists := [(1, { tpl := zeros 8 ++ ([1, 0, 0, 0, 0] : Bytes) })] }
    sbx := { rings := [(16, { log2Size := 6, base := poolBase, ownerTag := 0x201, armed := true, tail := 1 })], graphs := g } }

theorem witness_SignalBoxRings_admit :
    (∃ s : State, s.live = true ∧ s.ringNext 0 = true ∧ ∃ v, headOf s 0 = (v, .failed)) ∧
    (∃ s : State, s.live = true ∧ s.ringNext 0 = true ∧ ∃ v, headOf s 0 = (v, .waits)) ∧
    (∃ (s v w : State) (h : Bytes), s.live = true ∧ s.ringNext 0 = true ∧ headOf s 0 = (v, .got h) ∧
      le h 0 2 ≠ 0 ∧ v.fetchGraph 0x201 h = (w, .waits)) ∧
    (∃ (s v : State) (h : Bytes), s.live = true ∧ s.ringNext 0 = true ∧ headOf s 0 = (v, .got h) ∧ le h 0 2 = 0) ∧
    (∃ (s v w : State) (h : Bytes), s.live = true ∧ s.ringNext 0 = true ∧ headOf s 0 = (v, .got h) ∧
      le h 0 2 ≠ 0 ∧ v.fetchGraph 0x201 h = (w, .failed)) ∧
    (∃ (s v w : State) (h : Bytes) (f : Fetched), s.live = true ∧ s.ringNext 0 = true ∧ headOf s 0 = (v, .got h) ∧
      le h 0 2 ≠ 0 ∧ v.fetchGraph 0x201 h = (w, .got f) ∧ (w.ringServed 0).rejectCode 0 f ≠ 0) ∧
    (∃ (s v w : State) (h : Bytes) (f : Fetched), s.live = true ∧ s.ringNext 0 = true ∧ headOf s 0 = (v, .got h) ∧
      le h 0 2 ≠ 0 ∧ v.fetchGraph 0x201 h = (w, .got f) ∧ (w.ringServed 0).rejectCode 0 f = 0 ∧
      (w.ringServed 0).quotaFor 0 f.recs.length (le h 0x30 4) = true ∧ (w.ringServed 0).roomFor 0 f.recs.length (le h 0x30 4) = true) ∧
    (∃ (s v w : State) (h : Bytes) (f : Fetched), s.live = true ∧ s.ringNext 0 = true ∧ headOf s 0 = (v, .got h) ∧
      le h 0 2 ≠ 0 ∧ v.fetchGraph 0x201 h = (w, .got f) ∧ (w.ringServed 0).rejectCode 0 f = 0 ∧
      (w.ringServed 0).quotaFor 0 f.recs.length (le h 0x30 4) = true ∧ (w.ringServed 0).roomFor 0 f.recs.length (le h 0x30 4) = false) ∧
    (∃ (s v w : State) (h : Bytes) (f : Fetched), s.live = true ∧ s.ringNext 16 = true ∧ headOf s 16 = (v, .got h) ∧
      le h 0 2 ≠ 0 ∧ v.fetchGraph 0x201 h = (w, .got f) ∧ (w.ringServed 16).rejectCode 16 f = 0 ∧
      (w.ringServed 16).quotaFor 16 f.recs.length (le h 0x30 4) = false) :=
  ⟨⟨{ ringed [] [] with mem := [], slc := {} }, by decide +kernel, by decide +kernel, _, pairOf _ _ (by decide +kernel)⟩,
   ⟨napping 0 [], by decide +kernel, by decide +kernel, _, pairOf _ _ (by decide +kernel)⟩,
   ⟨napping 1 [(poolBase, ([1, 0, 2, 0, 1, 0, 0, 0] : Bytes) ++ leBytes 6 (poolBase + 0x20000) ++ zeros 50)], _, _,
     ([1, 0, 2, 0, 1, 0, 0, 0] : Bytes) ++ leBytes 6 (poolBase + 0x20000) ++ zeros 50, by decide +kernel,
     by decide +kernel, pairOf _ _ (by decide +kernel), by decide +kernel, pairOf _ _ (by decide +kernel)⟩,
   ⟨ringed [] [], _, zeros 64, by decide +kernel, by decide +kernel, pairOf _ _ (by decide +kernel), by decide +kernel⟩,
   ⟨ringed [(poolBase, ([1, 0, 2, 0, 1, 0, 0, 0] : Bytes) ++ zeros 56)] [], _, _,
     ([1, 0, 2, 0, 1, 0, 0, 0] : Bytes) ++ zeros 56, by decide +kernel, by decide +kernel, pairOf _ _ (by decide +kernel),
     by decide +kernel, pairOf _ _ (by decide +kernel)⟩,
   ⟨ringed [(poolBase, joinHeader)] [], _, _, joinHeader, { hdr := joinHeader, recs := [zeros 64], succs := [[]] },
     by decide +kernel, by decide +kernel, pairOf _ _ (by decide +kernel), by decide +kernel,
     pairOf _ _ (by decide +kernel), by decide +kernel⟩,
   ⟨ringed [(poolBase, joinHeader), (poolBase + 64, joinNode)] [], _, _, joinHeader,
     { hdr := joinHeader, recs := [joinNode], succs := [[]] },
     by decide +kernel, by decide +kernel, pairOf _ _ (by decide +kernel), by decide +kernel,
     pairOf _ _ (by decide +kernel), by decide +kernel, by decide +kernel, by decide +kernel⟩,
   ⟨ringed [(poolBase, joinHeader), (poolBase + 64, joinNode)] [(5, { hdr := zeros 0x30 ++ ([1, 0, 16] : Bytes) })], _, _,
     joinHeader, { hdr := joinHeader, recs := [joinNode], succs := [[]] },
     by decide +kernel, by decide +kernel, pairOf _ _ (by decide +kernel), by decide +kernel,
     pairOf _ _ (by decide +kernel), by decide +kernel, by decide +kernel, by decide +kernel⟩,
   ⟨generalRing [(5, { ring := 16, consist := 1, nodes := [0] })], _, _,
     ([1, 0, 0, 0, 1, 0, 0, 0] : Bytes) ++ leBytes 6 (poolBase + 64) ++ zeros 50,
     { hdr := ([1, 0, 0, 0, 1, 0, 0, 0] : Bytes) ++ leBytes 6 (poolBase + 64) ++ zeros 50
       recs := [zeros 0x14 ++ ([2, 0] : Bytes) ++ zeros 42], succs := [[]] },
     by decide +kernel, by decide +kernel, pairOf _ _ (by decide +kernel), by decide +kernel,
     pairOf _ _ (by decide +kernel), by decide +kernel, by decide +kernel⟩⟩

/-- A READY device with a SAFETY BASIN node of one unit in slot 0 of graph 1 on ring 0, express Basin 0, and these contexts. -/
def safetyNode (st : NodeState) (c : Table Ctx) (w : Bool := false) : State :=
  { up with
    clocks := [(1, { state := .on })], sections := [(0x20, [2])], boot := { phase := .ready }
    sbx :=
      { rings := [(0, { log2Size := 6, ownerTag := 0x101 })], graphs := [(1, { nodes := [0] })]
        nodes := [(0, { bytes := zeros 0x15 ++ ([1, 0, 0, 1] : Bytes) ++ zeros 7 ++ ([1] : Bytes), graph := 1, state := st, ctxWait := w })] }
    ttb := { ctxs := c } }

/-- The contexts of a device whose SAFETY contexts are all taken. -/
def fullCtxs (n : Nat) : Table Ctx := (List.range n).map fun i => (i, { state := .running })

theorem full_freeCtx (st : NodeState) (n : Nat) (w : Bool) (h : 1024 ≤ n) : (safetyNode st (fullCtxs n) w).freeCtx 0 = none := by
  have hc : ∀ k, (safetyNode st (fullCtxs n) w).ctx k = if k ∈ List.range n then { state := .running } else {} :=
    tget_map ({} : Ctx) { state := .running } (List.range n)
  simp only [State.freeCtx]
  generalize List.map _ _ = l
  cases hl : l.find? fun k => ((safetyNode st (fullCtxs n) w).ctx k).state == .free with
  | none => rfl
  | some k =>
    have hk := List.find?_some hl
    rw [hc k] at hk
    by_cases hm : k < 1024
    · simp [List.mem_range, Nat.lt_of_lt_of_le hm h] at hk
    · simp [hm]

/-- A context whose rank on Basin 0 has failed; its rank on Basin 1 stands so. -/
def failedCtx (c : Nat) (l : ListState) : State :=
  { safetyNode .running [(0, { state := .running, consist := c, generation := 5, ranks := [{}, { vbasin := 1, basin := 1 }] })] with
    basins := [(0, { bound := true, list := .failed, status := 3 }), (1, { bound := true, list := l })] }

theorem witness_SignalBoxNodes :
    (∃ s : State, s.live = true ∧ (s.ctx 0).state = .free) ∧
    (∃ s : State, s.live = true ∧ (s.ctx 0).generation ≠ 5) ∧
    (∃ s : State, s.live = true ∧ (s.ctx 0).state ≠ .free ∧ (s.ctx 0).generation = 5 ∧
      s.failedRank 0 = none ∧ (s.ctx 0).workStatus = some 0) ∧
    (∃ s : State, s.live = true ∧ (s.ctx 0).state ≠ .free ∧ (s.ctx 0).generation = 5 ∧
      s.failedRank 0 = none ∧ (s.ctx 0).workStatus = none) ∧
    (∃ (s : State) (r : Rank), s.live = true ∧ (s.ctx 0).state ≠ .free ∧ (s.ctx 0).generation = 5 ∧
      s.failedRank 0 = some r ∧ (s.ctx 0).consist = 0 ∧ s.ctxAtRest 0 = true) ∧
    (∃ (s : State) (r : Rank), s.live = true ∧ (s.ctx 0).state ≠ .free ∧ (s.ctx 0).generation = 5 ∧
      s.failedRank 0 = some r ∧ (s.ctx 0).consist = 0 ∧ s.ctxAtRest 0 = false) ∧
    (∃ (s : State) (r : Rank), s.live = true ∧ (s.ctx 0).state ≠ .free ∧ (s.ctx 0).generation = 5 ∧
      s.failedRank 0 = some r ∧ (s.ctx 0).consist ≠ 0) ∧
    (∃ s : State, s.live = true ∧ (s.graph 1).interruptDue = true ∧ (s.graph 1).record ≠ .writing ∧ (s.graph 1).ring < 16) ∧
    (∃ s : State, s.live = true ∧ (s.graph 1).interruptDue = true ∧ (s.graph 1).record ≠ .writing ∧ 16 ≤ (s.graph 1).ring) ∧
    (∃ s : State, s.live = true ∧ s.firstInOrder (s.readyBasin fun n => n.flag 0) = some 0 ∧
      (s.node 0).units ≤ ((s.expressBasins (s.node 0).terraces).filter fun b => s.basinTaken 0 b = false).length ∧
      s.freeCtx 0 ≠ none) ∧
    (∀ w, ∃ s : State, s.live = true ∧ s.firstInOrder (s.readyBasin fun n => n.flag 0) = some 0 ∧
      (s.node 0).units ≤ ((s.expressBasins (s.node 0).terraces).filter fun b => s.basinTaken 0 b = false).length ∧
      s.freeCtx 0 = none ∧ (s.node 0).ctxWait = w) ∧
    (∃ s : State, s.live = true ∧ (s.node 0).deadline ≠ 0 ∧
      (s.reach ((s.graph 1).originNs + 64 * (s.node 0).deadline)).now < (s.graph 1).originNs + 64 * (s.node 0).deadline) ∧
    (∃ s : State, s.live = true ∧ (s.node 0).deadline ≠ 0 ∧
      (s.graph 1).originNs + 64 * (s.node 0).deadline ≤ (s.reach ((s.graph 1).originNs + 64 * (s.node 0).deadline)).now) ∧
    (up.node 0).deadline = 0 ∧ (∃ s : State, (s.node 0).state = .release ∧ (s.node 0).lateAt = true) ∧
    up.sbx.nodes = [] ∧ up.stm.replies = [] :=
  ⟨⟨up, by decide⟩, ⟨up, by decide⟩,
   ⟨safetyNode .running [(0, { state := .running, generation := 5 })], by decide +kernel⟩,
   ⟨safetyNode .running [(0, { state := .running, generation := 5, ranks := [{}] })], by decide +kernel⟩,
   ⟨failedCtx 0 .failed, _, by decide +kernel, by decide +kernel, by decide +kernel, rfl, by decide +kernel⟩,
   ⟨failedCtx 0 .running, _, by decide +kernel, by decide +kernel, by decide +kernel, rfl, by decide +kernel⟩,
   ⟨failedCtx 1 .running, _, by decide +kernel, by decide +kernel, by decide +kernel, rfl, by decide +kernel⟩,
   ⟨{ up with sbx := { graphs := [(1, { interruptDue := true })] } }, by decide⟩,
   ⟨{ up with sbx := { graphs := [(1, { interruptDue := true, ring := 16 })] } }, by decide⟩,
   ⟨safetyNode .ready [], by decide +kernel⟩,
   fun w => ⟨safetyNode .ready (fullCtxs 1024) w, rfl, by cases w <;> decide +kernel, by cases w <;> decide +kernel,
     full_freeCtx _ _ w (Nat.le_refl _), rfl⟩,
   ⟨{ safetyNode .ready [] with tmt := { freeze := .latched } }, by decide +kernel⟩, ⟨safetyNode .release [], by decide +kernel⟩,
   by decide, ⟨{ up with sbx := { nodes := [(0, { state := .release, lateAt := true })] } }, by decide⟩, by decide⟩

/-- A BASIN node of Consist 1's graph 1 is ready in slot 0; its Consist may use `cap` Basins of pool 0, of which Basin 0 is
one; a context 1024 of Consist 2 runs there where `x`. -/
def pooled (cap : Nat) (x : Table Ctx) (b : Basin) : State :=
  { up with
    clocks := [(1, { state := .on }), (8, { state := .on })]
    sections := [(0x20, ([1] : Bytes) ++ zeros 0x41 ++ ([1] : Bytes))]
    basins := [(0, b)], tmt := { nowNs := 2000 }
    sbx :=
      { graphs := [(1, { ring := 16, consist := 1, nodes := [0] }), (2, { ring := 17, consist := 2, nodes := [1] })]
        nodes := [(0, { bytes := zeros 0x18 ++ ([1] : Bytes) ++ zeros 39, graph := 1, state := .ready }),
          (1, { bytes := zeros 0x18 ++ ([1] : Bytes) ++ zeros 39, graph := 2, state := .running })] }
    ttb :=
      { ctxs := x
        consists := [(1, { state := .active, pool := 0, basinCap := cap, tpl := zeros 0x10 ++ ([4, 0, 0, 0] : Bytes) }),
          (2,
            { state := .active
              pool := 0
              basinCap := 1
              raised := 5
              binding := [(0, 0)]
              tpl := zeros 0x10 ++ ([4, 0, 1, 0] : Bytes) })] } }

/-- The device of `pooled` in which context 1024 of Consist 2 runs on Basin 0. -/
def crowded : State :=
  pooled 1 [(1024, { state := .running, node := 1, consist := 2, ranks := [{ vbasin := 0, basin := 0 }] })]
    { bound := true, list := .running, context := 1024 }

/-- Context 3 is being stopped for the node in slot 0; its ranks stand so. -/
def halting (rs : List Rank) : State :=
  { up with ttb := { preemptions := [(3, {})], ctxs := [(3, { state := .stopping, ranks := rs })] } }

/-- A preemption of context 3 for a node in slot `k` is past its step 2. -/
def moved (s : State) (k : Nat) : State := { s with ttb := { s.ttb with preemptions := [(3, { inNode := k, ranksStopped := true })] } }

theorem witness_TurntableBinding :
    (up.live = true ∧ up.pick 0 = none) ∧
    (∃ (s t : State) (rs : List Rank), s.live = true ∧ s.sbx.nodes.length + s.ttb.ctxs.length = 1 + 1 ∧ s.pick 0 = some 0 ∧
      s.placement 0 = some rs ∧ t = s.bindPicked 0 rs ∧ t.nodeBound 0 = true) ∧
    (∃ (s : State) (x : Ctx), s.live = true ∧ s.sbx.nodes.length + s.ttb.ctxs.length = 2 + 1 ∧ s.pick 0 = some 0 ∧
      s.placement 0 = none ∧
      (s.ttb.ctxs.find? fun e => s.qualifies 0 0 e.1 && s.placeableWithout 0 e.1) = some (1024, x)) ∧
    (∃ s : State, s.live = true ∧ s.sbx.nodes.length + s.ttb.ctxs.length = 2 + 1 ∧ s.pick 0 = some 0 ∧
      s.placement 0 = none ∧ (s.ttb.ctxs.find? fun e => s.qualifies 0 0 e.1 && s.placeableWithout 0 e.1) = none) ∧
    (∃ (s : State) (p : Preemption), s.live = true ∧ tfind s.ttb.preemptions 3 = some p ∧ p.ranksStopped = false ∧
      (s.ctx 3).state = .stopping ∧ ∀ r ∈ (s.ctx 3).ranks, r.done = true) ∧
    (∃ (s : State) (p : Preemption), s.live = true ∧ tfind s.ttb.preemptions 3 = some p ∧ p.ranksStopped = false ∧
      (s.ctx 3).state = .stopping ∧ (∃ r ∈ (s.ctx 3).ranks, r.done = false) ∧
      (∀ r ∈ (s.ctx 3).ranks, r.done = true ∨ r.stopped = true)) ∧
    (∃ (s : State) (p : Preemption), s.live = true ∧ tfind s.ttb.preemptions 3 = some p ∧ p.ranksStopped = true ∧
      ((s.chargeRest 3).endPreemption 3).stillWanted p.inNode = false) ∧
    (∃ (s u t : State) (p : Preemption) (rs : List Rank), s.live = true ∧ tfind s.ttb.preemptions 3 = some p ∧
      p.ranksStopped = true ∧ u = (s.chargeRest 3).endPreemption 3 ∧ u.stillWanted p.inNode = true ∧
      u.placement p.inNode = some rs ∧ t = u.bindPicked p.inNode rs ∧ t.nodeBound p.inNode = true) :=
  ⟨by decide,
   ⟨pooled 1 [] {}, _, [{ vbasin := 0, basin := 0 }], by decide +kernel, by decide +kernel, by decide +kernel, by decide +kernel, rfl,
     by decide +kernel⟩,
   ⟨crowded, { state := .running, node := 1, consist := 2, ranks := [{ vbasin := 0, basin := 0 }] }, by decide +kernel⟩,
   ⟨{ crowded with tmt := { nowNs := 500 } }, by decide +kernel⟩,
   ⟨halting [{ done := true }], {}, by decide⟩,
   ⟨halting [{ stopped := true }], {}, by decide, by decide, by decide, by decide, by decide, by decide⟩,
   ⟨moved up 0, _, by decide, rfl, by decide, by decide +kernel⟩,
   ⟨moved (pooled 1 [] {}) 0, _, _, _, [{ vbasin := 0, basin := 0 }], by decide +kernel, rfl, by decide +kernel, rfl, by decide +kernel,
     by decide +kernel, rfl, by decide +kernel⟩⟩

/-- A device with Consist 1 alone. -/
def consisted (x : Consist) : State := { up with ttb := { consists := [(1, x)] } }

/-- A device in which Consist 1 is so and its context 1024 runs on Basin 0, whose list is so. -/
def bound1 (x : Consist) (l : ListState) : State :=
  { up with
    basins := [(0, { bound := true, list := l, context := 1024 })]
    ttb := { consists := [(1, x)], ctxs := [(1024, { state := .running, consist := 1, ranks := [{}] })] } }

/-- A device in which Consist 1 holds bank 15 through its virtual Basin 0. -/
def holding (b : Bank) : State :=
  { consisted { state := .active, binding := [(0, 0)] } with
    banks := [(15, { b with curFree := false, curOwner := (consisted {}).consistTag 1 })] }

theorem witness_TurntableTeardown_start :
    (∃ k, teardownCause k = false) ∧ (up.live = true ∧ (up.consist 1).state = .free ∧ teardownCause 0x31 = true) ∧
    (∀ x, x = ConsistState.active ∨ x = .quiescing ∨ x = .quiesced ∨ x = .expired ∨ x = .teardown → ∃ s : State, s.live = true ∧
      (s.consist 1).state = x ∧ (s.consist 1).logReply = none ∧ (s.consist 1).quiesceReply = none ∧
      (∀ e ∈ s.ttb.ctxs, e.2.consist ≠ 1) ∧ (s.rtsAt 0).jobs = [] ∧ (s.rtsAt 1).jobs = []) ∧
    (∃ (s : State) (x : Ctx) (r : Rank), s.live = true ∧ (s.consist 1).state = .active ∧ (s.consist 1).logReply = none ∧
      (s.consist 1).quiesceReply = none ∧ (s.rtsAt 0).jobs = [] ∧ (s.rtsAt 1).jobs = [] ∧ s.ttb.ctxs = [(1024, x)] ∧
      x.consist = 1 ∧ x.state = .running ∧ x.rts = none ∧ x.ranks = [r] ∧ r.done = false ∧
      (s.basin r.basin).context = 1024 ∧ (s.basin r.basin).list = .running) :=
  ⟨⟨0, by decide⟩, by decide,
   fun x h => ⟨consisted { state := x }, rfl, rfl, rfl, rfl, by simp [consisted, up], rfl, rfl⟩,
   ⟨bound1 { state := .active } .running, _, _, by decide, by decide, by decide, by decide, by decide, by decide, rfl,
     by decide, by decide, by decide, rfl, by decide, by decide, by decide⟩⟩

theorem witness_TurntableTeardown_rest :
    (∃ s : State, s.live = true ∧ (s.consist 1).state = .teardown ∧ (s.consist 1).tornStopped = false ∧
      ∃ e ∈ s.ttb.ctxs, e.2.consist = 1 ∧ e.2.state ≠ .free ∧ s.ctxAtRest e.1 = false) ∧
    (∃ s : State, s.live = true ∧ (s.consist 1).state = .teardown ∧ (s.consist 1).tornStopped = false ∧
      s.ttb.ctxs ≠ [] ∧ ∀ e ∈ s.ttb.ctxs, e.2.consist = 1 → e.2.state ≠ .free → s.ctxAtRest e.1 = true) ∧
    (∃ s : State, s.live = true ∧ (s.consist 1).state = .teardown ∧ (s.consist 1).tornStopped = true ∧
      (s.consist 1).afterTeardown = .free) ∧
    (∃ s : State, s.live = true ∧ (s.consist 1).state = .teardown ∧ (s.consist 1).tornStopped = true ∧
      (s.consist 1).afterTeardown ≠ .free) ∧
    (∃ s : State, s.live = true ∧ (s.ttb.consists.filter fun e =>
      (e.2.state == .active || e.2.state == .teardown) && s.now ≥ e.2.leaseKick + s.leaseNs e.1) ≠ []) ∧
    (∀ x, ∃ s : State, s.live = true ∧ (s.consist 1).state = x ∧ (s.consist 1).driverTag = 5) ∧
    (∀ a, ∃ s : State, s.live = true ∧ (s.consist 1).state = .teardown ∧ (s.consist 1).afterTeardown = a ∧
      (s.consist 1).driverTag = 5) :=
  ⟨⟨bound1 { state := .teardown } .stopping, by decide⟩, ⟨bound1 { state := .teardown } .stopped, by decide⟩,
   ⟨consisted { state := .teardown, tornStopped := true, afterTeardown := .free }, by decide⟩,
   ⟨consisted { state := .teardown, tornStopped := true, afterTeardown := .expired }, by decide⟩,
   ⟨consisted { state := .active }, by decide⟩,
   fun x => ⟨consisted { state := x, driverTag := 5 }, rfl, rfl, rfl⟩,
   fun a => ⟨consisted { state := .teardown, afterTeardown := a, driverTag := 5 }, rfl, rfl, rfl, rfl⟩⟩

theorem witness_TurntableTeardown_pwr :
    (∀ f, ∃ s : State, s.live = true ∧ (s.consist 1).state ≠ .free ∧ tfind (s.consist 1).binding 0 = some 0 ∧
      (s.bank 15).curFree = false ∧ (s.bank 15).curOwner = s.consistTag 1 ∧ (s.bank 15).fenced = f ∧
      (s.bank 15).handover = none ∧ (s.bank 15).transition = none ∧ (s.bank 15).ctlFree = false ∧
      (s.bank 15).ctlOwner < 4096 ∧ (s.bank 15).ctlPwr = bankPwrOf 0 ∧ (s.bank 15).ctlPwr ≠ bankPwrOf 1 ∧
      (s.bank 15).pwrState = bankPwrOf 1 ∧ (s.bank 15).pwrState ≠ bankPwrOf 2) ∧
    (∃ s : State, s.live = true ∧ (s.consist 1).state ≠ .free ∧ tfind (s.consist 1).binding 0 = some 0 ∧
      (s.bank 15).curFree = false ∧ (s.bank 15).curOwner = s.consistTag 1 ∧ (s.bank 15).handover.isSome = true) ∧
    (∃ s : State, s.live = true ∧ (s.consist 1).state ≠ .free ∧ tfind (s.consist 1).binding 63 = none) :=
  ⟨fun f => ⟨holding { fenced := f, ctlFree := false, ctlPwr := bankPwrOf 0, pwrState := bankPwrOf 1 },
     by cases f <;> decide⟩,
   ⟨holding { handover := some { owner := 0, free := true, scrub := true, pwr := .off } }, by decide⟩,
   ⟨consisted { state := .active }, by decide⟩⟩

/-- A request of tag 5. -/
def request (service : BitVec 8) (body : Bytes) : MboxReq := { tag := 5, bytes := service :: zeros 63 ++ slice body 0 64 }

/-- A device with Consist 1, and one request of tag 5 from a service's body at the head of the mailbox. -/
def asking (service : BitVec 8) (body : Bytes) (x : Consist) : State :=
  { up with
    stm := { fwRunning := true, handshakes := [5], queue := [request service body] }
    ttb := { consists := [(1, x)] } }

theorem witness_MailboxTakesAndVersion :
    (∃ s : State, s.live = true ∧ s.stm.wdogExpired = true) ∧
    (∃ s : State, s.live = true ∧ s.stm.wdogExpired = false ∧ s.stm.queue.length < 32) ∧
    (∃ s : State, s.live = true ∧ s.stm.wdogExpired = false ∧ 32 ≤ s.stm.queue.length) ∧
    (∃ (s w : State) (r : MboxReq), Serves s 1 0 r w ∧ le r.body 0 4 / 65536 = w.matchVersion / 65536) ∧
    (∃ (s w : State) (r : MboxReq), Serves s 1 0 r w ∧ le r.body 0 4 / 65536 ≠ w.matchVersion / 65536) :=
  ⟨⟨{ up with stm := { wdogExpired := true } }, by decide⟩, ⟨up, by decide⟩,
   ⟨{ up with stm := { queue := List.replicate 32 {} } }, by decide⟩,
   ⟨asking 1 [] {}, _, request 1 [], ⟨by decide, by decide, by decide +kernel, rfl⟩, by decide +kernel⟩,
   ⟨asking 1 [0, 0, 1] {}, _, request 1 [0, 0, 1], ⟨by decide, by decide, by decide +kernel, rfl⟩, by decide +kernel⟩⟩

/-- Consist 1 answers to tag 5; its group count is 1. -/
def driven (st : ConsistState) : Consist := { state := st, driverTag := 5, tpl := zeros 0x16 ++ ([1] : Bytes) }

/-- A device in which tag 0x200 is privileged and owns these pages, whose pool 0 lets world 2 create one Consist from
template 1, and which that tag asks with this body. -/
def creator (body : Bytes) (own : List (Nat × OwnerEntry)) : State :=
  { up with
    sections := [(secBasinmap, ([1] : Bytes) ++ zeros 63 ++ ([1, 0, 0, 0, 4, 0, 1, 0] : Bytes)),
      (secMemory, [0xFF, 0, 8]), (secSluice, zeros 0x60 ++ ([1] : Bytes)),
      (secConsisttpl, ([0, 0, 0, 0, 1, 0] : Bytes) ++ zeros 10 ++ ([1, 0, 0, 0, 1, 0, 1, 0] : Bytes) ++ zeros 8 ++
        ([1, 0, 0, 0, 1, 0, 1, 0] : Bytes) ++ zeros 40)]
    stm := { fwRunning := true, handshakes := [0x200], queue := [{ request 2 body with tag := 0x200 }] }
    slc := { owners := own } }

/-- The pages of the smallest siding area. -/
def sidingPages : List (Nat × OwnerEntry) := (List.range 528).map fun i => (i, { owner := 0x200, free := false })

theorem siding_owned (s : State) (bytes : Nat) (h1 : s.slc.owners = sidingPages) (h2 : bytes ≤ s.dramSize)
    (h3 : (bytes + 4095) / 4096 ≤ 528) : s.pagesOwned 0 bytes 0x200 = true := by
  simp only [State.pagesOwned, Nat.zero_add, Nat.zero_div, h2, decide_true, Bool.true_and, List.all_eq_true, List.mem_range]
  intro i hi
  have : s.owner i = { owner := 0x200, free := false } := by
    rw [State.owner, h1, sidingPages, tget_map, if_pos (List.mem_range.mpr (by omega))]
  simp [this]

/-- The request of `creator`, and the state that it is taken from. -/
def createRequest : MboxReq := { request 2 [1, 0, 0, 2, 1] with tag := 0x200 }
def createState (own : List (Nat × OwnerEntry)) : State :=
  { creator [1, 0, 0, 2, 1] own with stm := { fwRunning := true, handshakes := [0x200] } }

theorem createState_owners (own : List (Nat × OwnerEntry)) : (createState own).slc.owners = own := rfl

theorem create_checks (t : Bytes)
    (h : t = ([1, 0, 0, 0, 1, 0, 1, 0] : Bytes) ++ zeros 8 ++ ([1, 0, 0, 0, 1, 0, 1, 0] : Bytes) ++ zeros 40) :
    (createState sidingPages).createCheck 0x200 createRequest.body t = 0 := by
  have a : (createState sidingPages).pagesOwned 0 0x210000 0x200 = true :=
    siding_owned _ _ (createState_owners sidingPages) (by decide +kernel) (by decide)
  have b : le createRequest.body 8 8 = 0 := by decide +kernel
  have c : sidingBytes (byteAt t 4) (le t 0x12 2) = 0x210000 := by subst h; decide +kernel
  have d : adminOf 0x200 = 0x200 := by decide
  unfold State.createCheck
  simp only [b, c, d, a]
  subst h
  decide +kernel

theorem witness_ConsistLifetime_create :
    (∃ (s w : State) (r : MboxReq), Serves s 2 1 r w ∧ createReserved r.body = true) ∧
    (∃ (s w : State) (r : MboxReq), Serves s 2 1 r w ∧ createReserved r.body = false ∧ w.privileged r.tag = false) ∧
    (∃ (s w : State) (r : MboxReq), Serves s 2 1 r w ∧ createReserved r.body = false ∧ w.privileged r.tag = true ∧
      consistOf r.tag = 0 ∧ w.template (le r.body 4 2) = none) ∧
    (∃ (s w : State) (r : MboxReq) (t : Bytes), Serves s 2 1 r w ∧ createReserved r.body = false ∧ w.privileged r.tag = true ∧
      consistOf r.tag = 0 ∧ w.template (le r.body 4 2) = some t ∧ w.createCheck r.tag r.body t ≠ 0) ∧
    (∃ (s w : State) (r : MboxReq) (t : Bytes), Serves s 2 1 r w ∧ createReserved r.body = false ∧ w.privileged r.tag = true ∧
      consistOf r.tag = 0 ∧ w.template (le r.body 4 2) = some t ∧ w.createCheck r.tag r.body t = 0) :=
  ⟨⟨asking 2 [1, 2] {}, _, request 2 [1, 2], ⟨by decide, by decide, by decide +kernel, rfl⟩, by decide +kernel⟩,
   ⟨asking 2 [1] {}, _, request 2 [1], ⟨by decide, by decide, by decide +kernel, rfl⟩, by decide +kernel⟩,
   ⟨creator [1] [], _, { request 2 [1] with tag := 0x200 }, ⟨by decide, by decide, by decide +kernel, rfl⟩,
     by decide +kernel⟩,
   ⟨creator [1, 0, 0, 2, 1] [], _, { request 2 [1, 0, 0, 2, 1] with tag := 0x200 },
     ([1, 0, 0, 0, 1, 0, 1, 0] : Bytes) ++ zeros 8 ++ ([1, 0, 0, 0, 1, 0, 1, 0] : Bytes) ++ zeros 40,
     ⟨by decide, by decide, by decide +kernel, rfl⟩, by decide +kernel⟩,
   ⟨creator [1, 0, 0, 2, 1] sidingPages, createState sidingPages, createRequest,
     ([1, 0, 0, 0, 1, 0, 1, 0] : Bytes) ++ zeros 8 ++ ([1, 0, 0, 0, 1, 0, 1, 0] : Bytes) ++ zeros 40,
     ⟨by decide, by decide, by decide +kernel, by decide +kernel⟩, by decide +kernel, by decide +kernel, by decide +kernel,
     by decide +kernel, create_checks _ rfl⟩⟩

theorem witness_ConsistLifetime_others :
    (∃ (s w : State) (r : MboxReq), Serves s 2 2 r w ∧ w.driverCheck r true ≠ 0) ∧
    (∃ (s w : State) (r : MboxReq), Serves s 2 2 r w ∧ w.driverCheck r true = 0) ∧
    (∃ (s w : State) (r : MboxReq), Serves s 2 3 r w ∧ w.driverCheck r true ≠ 0) ∧
    (∃ (s w : State) (r : MboxReq), Serves s 2 3 r w ∧ w.driverCheck r true = 0) ∧
    (∃ (s w : State) (r : MboxReq), Serves s 2 4 r w ∧ w.driverCheck r false ≠ 0) ∧
    (∃ (s w : State) (r : MboxReq), Serves s 2 4 r w ∧ w.driverCheck r false = 0 ∧ le r.body 0x22 2 = 0) ∧
    (∃ (s w : State) (r : MboxReq), Serves s 2 4 r w ∧ w.driverCheck r false = 0 ∧ le r.body 0x22 2 = 10000 ∧
      le r.body 0x20 2 = 0xFFFF) ∧
    (∃ (s w : State) (r : MboxReq), Serves s 2 4 r w ∧ w.driverCheck r false = 0 ∧ le r.body 0x22 2 = 1 ∧
      le r.body 0x20 2 = 0 ∧ (w.consist (byteAt r.body 2)).shareGroups = 1) ∧
    (∃ (s w : State) (r : MboxReq), Serves s 2 4 r w ∧ w.driverCheck r false = 0 ∧ le r.body 0x22 2 = 1 ∧
      le r.body 0x20 2 = 1 ∧ (w.consist (byteAt r.body 2)).shareGroups = 1) ∧
    (∃ (s w : State) (r : MboxReq), Serves s 2 9 r w ∧ w.driverCheck r false ≠ 0) ∧
    (∃ (s w : State) (r : MboxReq), Serves s 2 9 r w ∧ w.driverCheck r false = 0 ∧
      (w.consist (byteAt r.body 2)).state ≠ .quiesced) ∧
    (∃ (s w : State) (r : MboxReq), Serves s 2 9 r w ∧ w.driverCheck r false = 0 ∧
      (w.consist (byteAt r.body 2)).state = .quiesced) :=
  ⟨⟨asking 2 [2, 0, 1] {}, _, request 2 [2, 0, 1], ⟨by decide, by decide, by decide +kernel, rfl⟩, by decide +kernel⟩,
   ⟨asking 2 [2, 0, 1] (driven .active), _, request 2 [2, 0, 1], ⟨by decide, by decide, by decide +kernel, rfl⟩,
     by decide +kernel⟩,
   ⟨asking 2 [3, 0, 1] {}, _, request 2 [3, 0, 1], ⟨by decide, by decide, by decide +kernel, rfl⟩, by decide +kernel⟩,
   ⟨asking 2 [3, 0, 1] (driven .active), _, request 2 [3, 0, 1], ⟨by decide, by decide, by decide +kernel, rfl⟩,
     by decide +kernel⟩,
   ⟨asking 2 [4, 0, 1] {}, _, request 2 [4, 0, 1], ⟨by decide, by decide, by decide +kernel, rfl⟩, by decide +kernel⟩,
   ⟨asking 2 [4, 0, 1] (driven .active), _, request 2 [4, 0, 1], ⟨by decide, by decide, by decide +kernel, rfl⟩,
     by decide +kernel⟩,
   ⟨asking 2 ([4, 0, 1] ++ zeros 29 ++ ([0xFF, 0xFF, 0x10, 0x27] : Bytes)) (driven .active), _,
     request 2 ([4, 0, 1] ++ zeros 29 ++ ([0xFF, 0xFF, 0x10, 0x27] : Bytes)),
     ⟨by decide, by decide, by decide +kernel, rfl⟩, by decide +kernel⟩,
   ⟨asking 2 ([4, 0, 1] ++ zeros 29 ++ ([0, 0, 1, 0] : Bytes)) (driven .active), _,
     request 2 ([4, 0, 1] ++ zeros 29 ++ ([0, 0, 1, 0] : Bytes)),
     ⟨by decide, by decide, by decide +kernel, rfl⟩, by decide +kernel⟩,
   ⟨asking 2 ([4, 0, 1] ++ zeros 29 ++ ([1, 0, 1, 0] : Bytes)) (driven .active), _,
     request 2 ([4, 0, 1] ++ zeros 29 ++ ([1, 0, 1, 0] : Bytes)),
     ⟨by decide, by decide, by decide +kernel, rfl⟩, by decide +kernel⟩,
   ⟨asking 2 [9, 0, 1] {}, _, request 2 [9, 0, 1], ⟨by decide, by decide, by decide +kernel, rfl⟩, by decide +kernel⟩,
   ⟨asking 2 [9, 0, 1] (driven .active), _, request 2 [9, 0, 1], ⟨by decide, by decide, by decide +kernel, rfl⟩,
     by decide +kernel⟩,
   ⟨asking 2 [9, 0, 1] (driven .quiesced), _, request 2 [9, 0, 1], ⟨by decide, by decide, by decide +kernel, rfl⟩,
     by decide +kernel⟩⟩

/-- A device with a small DRAM whose Consist 1, which may log, answers to tag 5, which owns its first two pages. -/
def logging (body : Bytes) (x : Consist) : State :=
  { asking 2 body { x with driverTag := 5, tpl := ([0, 0, 0, 1] : Bytes) } with
    slc := { owners := [(0, { owner := 5, free := false }), (1, { owner := 5, free := false })] } }

theorem witness_ConsistLog :
    (∃ (s w : State) (r : MboxReq), Serves s 2 5 r w ∧ w.driverCheck r false ≠ 0) ∧
    (∃ (s w : State) (r : MboxReq), Serves s 2 5 r w ∧ w.driverCheck r false = 0 ∧ le r.body 0x10 8 % 4096 ≠ 0) ∧
    (∃ (s w : State) (r : MboxReq), Serves s 2 5 r w ∧ w.driverCheck r false = 0 ∧ le r.body 0x10 8 = 0 ∧
      le r.body 0x18 8 = 0 ∧ (w.consist (byteAt r.body 2)).logEn = true) ∧
    (∃ (s w : State) (r : MboxReq), Serves s 2 5 r w ∧ w.driverCheck r false = 0 ∧ le r.body 0x10 8 = 0x3000 ∧
      le r.body 0x18 8 = 0 ∧ (w.consist (byteAt r.body 2)).logEn = false ∧ (w.consist (byteAt r.body 2)).logOk = true ∧
      (w.consist (byteAt r.body 2)).state = .active ∧
      w.pagesOwned 0x3000 (w.dramSize / 32768) (w.consist (byteAt r.body 2)).driverTag = false) ∧
    (∃ (s w : State) (r : MboxReq), Serves s 2 5 r w ∧ w.driverCheck r false = 0 ∧ le r.body 0x10 8 = 0 ∧
      le r.body 0x18 8 = 0 ∧ (w.consist (byteAt r.body 2)).logEn = false ∧ (w.consist (byteAt r.body 2)).logOk = true ∧
      (w.consist (byteAt r.body 2)).state = .active ∧
      w.pagesOwned 0 (w.dramSize / 32768) (w.consist (byteAt r.body 2)).driverTag = true) ∧
    (∃ (s w : State) (r : MboxReq), Serves s 2 6 r w ∧ w.driverCheck r false = 0 ∧
      (w.consist (byteAt r.body 2)).logEn = true ∧ (w.consist (byteAt r.body 2)).flipBusy = false) ∧
    (∃ (s w : State) (r : MboxReq), Serves s 2 6 r w ∧ w.driverCheck r false ≠ 0) ∧
    (∃ (s w : State) (r : MboxReq), Serves s 2 7 r w ∧ w.driverCheck r false = 0 ∧
      (w.consist (byteAt r.body 2)).logEn = false) ∧
    (∃ (s w : State) (r : MboxReq), Serves s 2 7 r w ∧ w.driverCheck r false = 0 ∧
      (w.consist (byteAt r.body 2)).logEn = true ∧ (w.consist (byteAt r.body 2)).flipBusy = false) :=
  ⟨⟨logging [5] {}, _, request 2 [5], ⟨by decide, by decide, by decide +kernel, rfl⟩, by decide +kernel⟩,
   ⟨logging ([5, 0, 1] ++ zeros 13 ++ ([1] : Bytes)) { state := .active }, _, request 2 ([5, 0, 1] ++ zeros 13 ++ ([1] : Bytes)),
     ⟨by decide, by decide, by decide +kernel, rfl⟩, by decide +kernel⟩,
   ⟨logging [5, 0, 1] { state := .active, logEn := true }, _, request 2 [5, 0, 1],
     ⟨by decide, by decide, by decide +kernel, rfl⟩, by decide +kernel⟩,
   ⟨logging ([5, 0, 1] ++ zeros 14 ++ ([0x30] : Bytes)) { state := .active }, _,
     request 2 ([5, 0, 1] ++ zeros 14 ++ ([0x30] : Bytes)), ⟨by decide, by decide, by decide +kernel, rfl⟩, by decide +kernel⟩,
   ⟨logging [5, 0, 1] { state := .active }, _, request 2 [5, 0, 1], ⟨by decide, by decide, by decide +kernel, rfl⟩,
     by decide +kernel⟩,
   ⟨logging [6, 0, 1] { state := .active, logEn := true }, _, request 2 [6, 0, 1],
     ⟨by decide, by decide, by decide +kernel, rfl⟩, by decide +kernel⟩,
   ⟨logging [6] {}, _, request 2 [6], ⟨by decide, by decide, by decide +kernel, rfl⟩, by decide +kernel⟩,
   ⟨logging [7, 0, 1] { state := .active }, _, request 2 [7, 0, 1],
     ⟨by decide, by decide, by decide +kernel, rfl⟩, by decide +kernel⟩,
   ⟨logging [7, 0, 1] { state := .active, logEn := true }, _, request 2 [7, 0, 1],
     ⟨by decide, by decide, by decide +kernel, rfl⟩, by decide +kernel⟩⟩

/-- A device whose Consist 1 is quiescing, with its siding area at page 0 of a DRAM that it may write. -/
def parkable : State :=
  { consisted { state := .quiescing, quiesceReply := some {} } with
    sections := [(secMemory, [0xFF, 0, 8])]
    dram := [0, 1, 2, 3, 4, 5, 6, 7].map fun c => (c, { state := .on })
    slc := { regions := [0, 1, 2, 3, 4, 5, 6, 7].map fun c =>
      (18 * c, { limit := 0xFFFFF, rWorlds := 0xFF, wWorlds := 0xFF, valid := true }) } }

/-- The siding area of `parkable` takes every line: only the memory and the last response change. -/
theorem parkable_write (m : List Host.Cell) (r : Resp) (i : Nat) (bs : Bytes) (hi : i < 1024) (h : bs.length = 64) :
    ∃ m' r', ({ parkable with mem := m, resp := r } : State).devWrite 1 (64 * i) bs = { parkable with mem := m', resp := r' } ∧
      r'.kind = .data := by
  have hd : ∀ c, c < 8 → (tget ({} : DramCtrl) ([0, 1, 2, 3, 4, 5, 6, 7].map fun c => (c, { state := .on })) c).state = .on := by
    decide
  have hc : dramController 0xFF (64 * i) < 8 := by
    have f : ∀ x k, fld x k 3 < 2 ^ 3 := fun x k => Nat.mod_lt _ (by decide)
    exact Nat.xor_lt_two_pow (Nat.xor_lt_two_pow (Nat.xor_lt_two_pow (f _ _) (f _ _)) (f _ _)) (f _ _)
  generalize hu : ({ parkable with mem := m, resp := r } : State) = u
  have hs : 65536 ≤ u.dramSize := by
    subst hu
    show 65536 ≤ memoryUsable (parkable.sec secMemory)
    decide +kernel
  have ht : u.target (64 * i) = .dram (dramController 0xFF (64 * i)) := by
    simp only [State.target, if_pos (show 64 * i < u.dramSize by omega)]; subst hu; rfl
  generalize dramController 0xFF (64 * i) = c at hc ht
  have ho : (u.dramCtrl c).state = .on := by subst hu; exact hd c hc
  have hp : (64 * i + 63) / 4096 = 64 * i / 4096 := by omega
  have hr : u.region 0 0 = { limit := 0xFFFFF, rWorlds := 0xFF, wWorlds := 0xFF, valid := true } := by subst hu; rfl
  have hle : 64 * i ≤ 1052670 := by omega
  have hf : u.findRegion 0 (64 * i) = some { limit := 0xFFFFF, rWorlds := 0xFF, wWorlds := 0xFF, valid := true } := by
    simp [State.findRegion, List.range_eq_range', List.range'_succ, hr, hle]
  have hh : u.slc.held = [] := by subst hu; rfl
  have hv : u.verdict { sluice := c, tag := 1, addr := 64 * i, len := 64, write := true, data := bs, origin := .other } =
      .grant := by
    have h0 : sluiceTable c = 0 := by simp [sluiceTable, hc]
    have h1 : c ≠ 29 := by omega
    simp [State.verdict, State.judge, State.judgePage, h0, hf, h1, hp, State.behindHeld, hh, worldOf, fld, bit]
  have hl : ∀ (v : State) a n, v.slc = u.slc → v.ttb = u.ttb → v.logWrite a n = v := by
    intro v a n e1 e2
    have : ∀ w : State, w.slc = u.slc → ∀ p, w.logPage p = w := by
      intro w e p; subst hu; simp [State.logPage, State.owner, e, parkable, consisted, up, tget, consistOf, fld]
    simp [State.logWrite, this v e1]
  have hw : ∀ (v : State) x a n b, v.sbx = u.sbx → v.tailWatch x a n b = v := by
    intro v x a n b e; subst hu; simp [State.tailWatch, e, parkable, consisted, up]
  have hx : ∀ (v : State) x a n b, v.pts = u.pts → v.indexWatch x a n b = v := by
    intro v x a n b e; subst hu; simp [State.indexWatch, e, parkable, consisted, up]
  have hk : u.wakeDram c = u := by simp [State.wakeDram, ho]
  have hb : ∀ v : State, v.repair = u.repair → v.setBadLines (v.repair.badLines.filter fun l => !(lineIn (64 * i) 64 l)) = v := by
    intro v e
    have : v.repair.badLines = [] := by rw [e]; subst hu; rfl
    rw [this]; cases v; subst hu; simp only at e; subst e; rfl
  have e : u.devWrite 1 (64 * i) bs =
      { u.wr (64 * i) (bs.take 64) with resp := { kind := .data } } := by
    simp only [State.devWrite, State.devAccess, State.blockAccess, ht, targetSluice, Option.map, h, State.access, hv,
      State.carry, if_neg (show (u.dramCtrl c).state ≠ .off by rw [ho]; decide), hk, if_true, State.dramWrite]
    rw [show (u.wr (64 * i) (bs.take 64)).setBadLines (List.filter (fun l => !lineIn (64 * i) 64 l) u.repair.badLines) =
      u.wr (64 * i) (bs.take 64) from hb _ rfl]
    simp only [Bool.false_eq_true, if_false]
    rw [hl (u.wr (64 * i) (bs.take 64)) _ _ rfl rfl, hw (u.wr (64 * i) (bs.take 64)) _ _ _ _ rfl,
      hx (u.wr (64 * i) (bs.take 64)) _ _ _ _ rfl]
    rfl
  rw [e]; subst hu
  exact ⟨_, _, rfl, rfl⟩

/-- The siding area of `parkable` takes whole lines. -/
theorem parkable_lines (bs : Bytes) (h : bs.length = 65536) : ∃ u : State, parkable.putLines 1 0 bs = (u, .done) ∧
    (u.consist 1).state = .quiescing := by
  have key : ∀ (n : Nat), n ≤ 1024 → ∃ m r, (List.range n).foldl (fun (r : State × MoveEnd) i =>
      if r.2 = .done then
        let t := r.1.devWrite 1 (0 + 64 * i) (slice bs (64 * i) (min 64 (bs.length - 64 * i)))
        (t, if t.refused then .siding else .done)
      else r) (parkable, .done) = ({ parkable with mem := m, resp := r }, MoveEnd.done) := by
    intro n; induction n with
    | zero => intro _; exact ⟨parkable.mem, parkable.resp, rfl⟩
    | succ n ih =>
      intro hn
      obtain ⟨m, r, e⟩ := ih (by omega)
      have hl : (slice bs (64 * n) (min 64 (bs.length - 64 * n))).length = 64 := by
        simp [slice, h]; omega
      obtain ⟨m', r', e', k⟩ := parkable_write m r n _ (by omega) hl
      refine ⟨m', r', ?_⟩
      rw [List.range_succ, List.foldl_append, e]
      simp [e', State.refused, k]
  obtain ⟨m, r, e⟩ := key 1024 (Nat.le_refl _)
  refine ⟨{ parkable with mem := m, resp := r }, ?_, rfl⟩
  rw [State.putLines, show (bs.length + 63) / 64 = 1024 by omega]; exact e

/-- A siding area where no target stands takes none. -/
theorem unparkable_lines (s : State) (tag a n : Nat) (bs : Bytes) (h : (bs.length + 63) / 64 = n + 1)
    (hb : ∀ k d, s.blockAccess tag a k true d = none) : (s.putLines tag a bs).2 = .siding := by
  have stop : ∀ (l : List Nat) (f : State → Nat → State) (x : State × MoveEnd), x.2 = .siding →
      (l.foldl (fun (r : State × MoveEnd) i =>
        if r.2 = .done then let t := f r.1 i; (t, if t.refused then .siding else .done) else r) x).2 = .siding := by
    intro l f; induction l with
    | nil => intro x hx; exact hx
    | cons a l ih => intro x hx; rw [List.foldl_cons]; apply ih; simp [hx]
  rw [State.putLines, h, List.range_succ_eq_map, List.foldl_cons]
  apply stop _ (fun s i => s.devWrite tag (a + 64 * i) (slice bs (64 * i) (min 64 (bs.length - 64 * i))))
  simp [State.devWrite, State.devAccess, hb, State.answerError, State.settled, State.refused]

/-- A field has the length asked for. -/
theorem slice_length' (b : Bytes) (o n : Nat) : (slice b o n).length = n := by
  unfold slice; simp only [List.length_append, List.length_take, List.length_drop, List.length_replicate]; omega

/-- A Consist with nothing bound only writes its header. -/
theorem parkAll_unbound (s : State) (c : Nat) (h : (s.consist c).binding = []) : s.parkAll c =
    s.putLines (s.consistTag c) (s.consist c).sidingBase (slice (s.consist c).header 0 0x10000) := by
  simp [State.parkAll, h, State.moveAll]

theorem witness_ConsistQuiesce :
    (∃ (s : State) (r : MboxReq), s.live = true ∧ (s.consist 1).logReply = some r) ∧
    (∃ (s w : State) (r : MboxReq), Serves s 2 8 r w ∧ w.driverCheck r false ≠ 0) ∧
    (∃ (s w : State) (r : MboxReq), Serves s 2 8 r w ∧ w.driverCheck r false = 0 ∧
      (w.consist (byteAt r.body 2)).state ≠ .active) ∧
    (∃ (s w : State) (r : MboxReq), Serves s 2 8 r w ∧ w.driverCheck r false = 0 ∧
      (w.consist (byteAt r.body 2)).state = .active) ∧
    (∃ (s : State) (r : MboxReq), s.live = true ∧ (s.consist 1).state = .quiescing ∧ (s.consist 1).quiesceReply = some r ∧
      ∃ e ∈ s.sbx.graphs, e.2.consist = 1 ∧ e.2.inFlight = true) ∧
    (∃ (s : State) (r : MboxReq), s.live = true ∧ (s.consist 1).state = .quiescing ∧ (s.consist 1).quiesceReply = some r ∧
      (∀ e ∈ s.sbx.graphs, e.2.consist = 1 → e.2.inFlight = false) ∧ (s.consist 1).binding = [] ∧ (s.parkAll 1).2 = .siding) ∧
    (∃ (s u : State) (r : MboxReq), s.live = true ∧ (s.consist 1).state = .quiescing ∧ (s.consist 1).quiesceReply = some r ∧
      (∀ e ∈ s.sbx.graphs, e.2.consist = 1 → e.2.inFlight = false) ∧ s.parkAll 1 = (u, .done) ∧
      (u.consist 1).state = .quiescing) :=
  ⟨⟨consisted { logReply := some {} }, {}, by decide⟩,
   ⟨logging [8] {}, _, request 2 [8], ⟨by decide, by decide, by decide +kernel, rfl⟩, by decide +kernel⟩,
   ⟨logging [8, 0, 1] { state := .quiesced }, _, request 2 [8, 0, 1], ⟨by decide, by decide, by decide +kernel, rfl⟩,
     by decide +kernel⟩,
   ⟨logging [8, 0, 1] { state := .active }, _, request 2 [8, 0, 1], ⟨by decide, by decide, by decide +kernel, rfl⟩,
     by decide +kernel⟩,
   ⟨{ consisted { state := .quiescing, quiesceReply := some {} } with sbx := { graphs := [(4, { consist := 1 })] } }, {},
     by decide⟩,
   ⟨consisted { state := .quiescing, quiesceReply := some {} }, {}, by decide, by decide, by decide, by decide, by decide, by
     rw [parkAll_unbound _ _ (by decide)]
     exact unparkable_lines _ _ _ 1023 _ (by rw [slice_length']) (fun _ _ => rfl)⟩,
   by
     obtain ⟨u, e, k⟩ := parkable_lines (slice (parkable.consist 1).header 0 0x10000) (slice_length' _ _ _)
     exact ⟨parkable, u, {}, by decide, by decide, by decide, by decide, (parkAll_unbound _ _ (by decide)).trans e, k⟩⟩

/-- A record of one layer, one head and one page for Consist 1 of world 2, whose VALID bit is `v`. -/
def kvRecord (v : BitVec 8) : Bytes :=
  [v, 4, 1, 2, 1, 1] ++ zeros 14 ++ ([4] : Bytes) ++ zeros 43

/-- A KVC, enabled, with KV space 0 of Consist 1. -/
def kvState (v : BitVec 8) (k : Kvc) : State :=
  { up with
    ttb := { consists := [(1, { state := .active, world := 2 })] }
    kvc := { k with en := true, metaBase := 4096, spaces := [(0, { record := kvRecord v })] } }

theorem witness_KvcRecordsAndQueues :
    (∃ s : State, s.live = true ∧ (s.kvSpace 0).valid = true ∧ ∀ e ∈ s.kvc.pins, e.2.consist ≠ consistOf (s.kvSpace 0).ownerTag) ∧
    (∃ s : State, s.live = true ∧ (s.kvSpace 0).valid = false ∧ s.kvc.en = true ∧
      s.kvRecordBad 0 ((s.kvSpace 0).put 0 (leBytes 4 0x02010401)) = false) ∧
    (∃ s : State, s.live = true ∧ (s.kvSpace 0).valid = false ∧ s.kvc.en = false) ∧
    (∃ s : State, s.live = true ∧ (s.kvSpace 0).valid = true ∧
      ∃ e ∈ s.kvc.pins, e.2.consist = consistOf (s.kvSpace 0).ownerTag) ∧
    (∃ s : State, s.live = true ∧ s.kvc.metaBase ≠ 0 ∧ ∃ e ∈ s.kvc.spaces, e.2.valid = true) ∧
    (∃ s : State, s.live = true ∧ ∀ e ∈ s.kvc.spaces, e.2.valid = false) ∧
    (∃ s : State, s.live = true ∧ (s.kvQueue 1).queue.length < 16) ∧
    (∃ s : State, s.live = true ∧ 16 ≤ (s.kvQueue 1).queue.length) ∧
    (∃ s : State, s.live = true ∧ (s.basin 0).walkerWaits = true ∧ (s.basin 0).walkerPin = none ∧ s.kvFreePin = some 0) :=
  ⟨⟨kvState 1 {}, by decide +kernel⟩, ⟨kvState 0 {}, by decide +kernel⟩, ⟨up, by decide⟩,
   ⟨kvState 1 { pins := [(0, { consist := 1 })] }, by decide +kernel⟩, ⟨kvState 1 {}, by decide +kernel⟩,
   ⟨kvState 0 {}, by decide +kernel⟩, ⟨up, by decide⟩,
   ⟨kvState 0 { queues := [(1, { queue := List.replicate 16 [] })] }, by decide +kernel⟩,
   ⟨{ up with basins := [(0, { walkerWaits := true })] }, by decide +kernel⟩⟩

/-- A KVC with one request of Consist 1. -/
def kvAsked (r : Bytes) (k : Kvc) : State := kvState 1 { k with queues := [(1, { queue := [r] })] }

/-- That state with the request taken. -/
def kvTaken (s : State) : State := (State.kvDrainN s.kvWaiting s).kvPop 1

/-- A live sequence of slot 0 with one block in page 0. -/
def kvOne (refs len : Nat) : Kvc :=
  { seqs := [(0, { life := .live, length := len, blocks := [(0, 0)] })], pages := [(0, { life := .live, refs := refs })] }

theorem witness_KvcSequenceRequests :
    (∃ (s w : State) (r : Bytes), KvServes s 1 1 r w ∧ 4096 < kvArg0 r) ∧
    (∃ (s w : State) (r : Bytes), KvServes s 1 1 r w ∧ kvArg0 r ≤ 4096 ∧ w.kvFreeSlot (w.kvSpace (kvSp r)) = none) ∧
    (∃ (s w u : State) (r : Bytes), KvServes s 1 1 r w ∧ kvArg0 r ≤ 4096 ∧ w.kvFreeSlot (w.kvSpace (kvSp r)) = some 0 ∧
      w.fetchBytes (w.consistTag 1) (kvArg1 r) (8 * kvArg0 r) = (u, .failed)) ∧
    (∃ (s w u : State) (r : Bytes), KvServes s 1 1 r w ∧ kvArg0 r ≤ 4096 ∧ w.kvFreeSlot (w.kvSpace (kvSp r)) = some 0 ∧
      w.fetchBytes (w.consistTag 1) (kvArg1 r) (8 * kvArg0 r) = (u, .got []) ∧
      u.kvRefLimit ((u.kvMatch (kvSp r) 0 ((List.range (kvArg0 r)).map fun i => le [] (8 * i) 8)).map (·.2.page)) = false) ∧
    (∃ (s w : State) (r : Bytes), KvServes s 2 1 r w ∧ w.kvFreeSlot (w.kvSpace (kvSp r)) = none) ∧
    (∃ (s w : State) (r : Bytes), KvServes s 3 1 r w ∧ 262144 < kvArg0 r) ∧
    (∃ (s w : State) (r : Bytes), KvServes s 3 1 r w ∧ kvArg0 r ≤ 262144 ∧
      kvArg0 r < (w.kvSeq (kvHandle r % 65536)).length) ∧
    (∃ (s w : State) (r : Bytes), KvServes s 3 1 r w ∧ kvArg0 r ≤ 262144 ∧
      (w.kvSeq (kvHandle r % 65536)).length ≤ kvArg0 r ∧ (w.kvSeq (kvHandle r % 65536)).length % 64 = 0) ∧
    (∃ (s w : State) (r : Bytes), KvServes s 4 1 r w ∧ (w.kvSeq (kvHandle r % 65536)).length < kvArg0 r) ∧
    (∃ (s w : State) (r : Bytes), KvServes s 4 1 r w ∧ kvArg0 r ≤ (w.kvSeq (kvHandle r % 65536)).length) ∧
    (∃ (s w : State) (r : Bytes), KvServes s 6 1 r w) ∧ (∃ (s w : State) (r : Bytes), KvServes s 0x0A 1 r w) :=
  ⟨⟨kvAsked ([1, 0, 0, 0, 0, 0, 0, 0, 1, 16] : Bytes) {}, kvTaken _, [1, 0, 0, 0, 0, 0, 0, 0, 1, 16],
     ⟨by decide, by decide, by decide +kernel, by decide +kernel, by decide, by decide +kernel, rfl⟩, by decide⟩,
   ⟨kvAsked [1] (kvOne 1 64), kvTaken _, [1],
     ⟨by decide, by decide, by decide +kernel, by decide +kernel, by decide, by decide +kernel, rfl⟩, by decide +kernel⟩,
   ⟨kvAsked ([1, 0, 0, 0, 0, 0, 0, 0, 1] : Bytes) {}, kvTaken _, _, [1, 0, 0, 0, 0, 0, 0, 0, 1],
     ⟨by decide, by decide, by decide +kernel, by decide +kernel, by decide, by decide +kernel, rfl⟩, by decide,
     by decide +kernel, pairOf _ _ (by decide +kernel)⟩,
   ⟨kvAsked [1] {}, kvTaken _, _, [1],
     ⟨by decide, by decide, by decide +kernel, by decide +kernel, by decide, by decide +kernel, rfl⟩, by decide,
     by decide +kernel, pairOf _ _ (by decide +kernel), by decide +kernel⟩,
   ⟨kvAsked [2] (kvOne 1 64), kvTaken _, [2],
     ⟨by decide, by decide, by decide +kernel, by decide +kernel, by decide, by decide +kernel, rfl⟩, by decide +kernel⟩,
   ⟨kvAsked ([3, 0, 0, 0, 0, 0, 0, 0, 1, 0, 4] : Bytes) (kvOne 1 64), kvTaken _, [3, 0, 0, 0, 0, 0, 0, 0, 1, 0, 4],
     ⟨by decide, by decide, by decide +kernel, by decide +kernel, by decide, by decide +kernel, rfl⟩, by decide⟩,
   ⟨kvAsked [3] (kvOne 1 64), kvTaken _, [3],
     ⟨by decide, by decide, by decide +kernel, by decide +kernel, by decide, by decide +kernel, rfl⟩, by decide +kernel⟩,
   ⟨kvAsked ([3, 0, 0, 0, 0, 0, 0, 0, 128] : Bytes) (kvOne 1 64), kvTaken _, [3, 0, 0, 0, 0, 0, 0, 0, 128],
     ⟨by decide, by decide, by decide +kernel, by decide +kernel, by decide, by decide +kernel, rfl⟩, by decide +kernel⟩,
   ⟨kvAsked ([4, 0, 0, 0, 0, 0, 0, 0, 128] : Bytes) (kvOne 1 64), kvTaken _, [4, 0, 0, 0, 0, 0, 0, 0, 128],
     ⟨by decide, by decide, by decide +kernel, by decide +kernel, by decide, by decide +kernel, rfl⟩, by decide +kernel⟩,
   ⟨kvAsked [4] (kvOne 1 64), kvTaken _, [4],
     ⟨by decide, by decide, by decide +kernel, by decide +kernel, by decide, by decide +kernel, rfl⟩, by decide +kernel⟩,
   ⟨kvAsked [6] (kvOne 1 64), kvTaken _, [6],
     ⟨by decide, by decide, by decide +kernel, by decide +kernel, by decide, by decide +kernel, rfl⟩⟩,
   ⟨kvAsked [0x0A] (kvOne 1 64), kvTaken _, [0x0A],
     ⟨by decide, by decide, by decide +kernel, by decide +kernel, by decide, by decide +kernel, rfl⟩⟩⟩

theorem witness_KvcSequenceRequests_pages :
    (∃ (s w : State) (r : Bytes), KvServes s 3 1 r w ∧ kvArg0 r ≤ 262144 ∧
      (w.kvSeq (kvHandle r % 65536)).length ≤ kvArg0 r ∧ (w.kvSeq (kvHandle r % 65536)).length % 64 = 0 ∧
      ((w.kvFindPages 0 1).kvFreePages ((w.kvFindPages 0 1).kvSpace 0)).length = 3 ∧
      (kvArg0 r + 63) / 64 - ((w.kvSeq (kvHandle r % 65536)).length + 63) / 64 = 1) ∧
    (∃ (s w : State) (r : Bytes), KvServes s 3 1 r w ∧ (w.kvSeq (kvHandle r % 65536)).length ≤ kvArg0 r ∧
      (w.kvSeq (kvHandle r % 65536)).length % 64 ≠ 0 ∧ 1 < (w.kvPage 0).refs ∧
      ((w.kvFindPages 0 2).kvFreePages ((w.kvFindPages 0 2).kvSpace 0)).length = 3 ∧
      (kvArg0 r + 63) / 64 - ((w.kvSeq (kvHandle r % 65536)).length + 63) / 64 + 1 = 2) :=
  ⟨⟨kvAsked ([3, 0, 0, 0, 0, 0, 0, 0, 128] : Bytes) (kvOne 1 64), kvTaken _, [3, 0, 0, 0, 0, 0, 0, 0, 128],
     ⟨by decide, by decide, by decide +kernel, by decide +kernel, by decide, by decide +kernel, rfl⟩, by decide +kernel⟩,
   ⟨kvAsked ([3, 0, 0, 0, 0, 0, 0, 0, 128] : Bytes) (kvOne 2 63), kvTaken _, [3, 0, 0, 0, 0, 0, 0, 0, 128],
     ⟨by decide, by decide, by decide +kernel, by decide +kernel, by decide, by decide +kernel, rfl⟩, by decide +kernel⟩⟩

/-- A KVC whose space has a tree quota of one, and whose tree has these nodes. -/
def kvTree (r : Bytes) (quota : BitVec 8) (k : Kvc) : State :=
  { kvAsked r k with kvc := { k with
      en := true, metaBase := 4096, spaces := [(0, { record := patch (kvRecord 1) 0x24 [quota] })]
      queues := [(1, { queue := [r] })] } }

theorem witness_KvcPublish :
    (∃ (s w : State) (r : Bytes), KvServes s 5 1 r w ∧ (w.kvSeq (kvHandle r % 65536)).length / 64 ≤ kvArg0 r) ∧
    (∃ (s w : State) (r : Bytes), KvServes s 5 1 r w ∧ kvArg0 r < (w.kvSeq (kvHandle r % 65536)).length / 64 ∧
      kvArg0 r ≠ (w.kvSeq (kvHandle r % 65536)).path.length) ∧
    (∃ (s w : State) (r : Bytes), KvServes s 5 1 r w ∧ kvArg0 r < (w.kvSeq (kvHandle r % 65536)).length / 64 ∧
      kvArg0 r = (w.kvSeq (kvHandle r % 65536)).path.length ∧
      w.kvChild (kvSp r) ((w.kvSeq (kvHandle r % 65536)).path.getLastD 0) (kvArg1 r) ≠ none) ∧
    (∃ (s w : State) (r : Bytes), KvServes s 5 1 r w ∧ kvArg0 r < (w.kvSeq (kvHandle r % 65536)).length / 64 ∧
      kvArg0 r = (w.kvSeq (kvHandle r % 65536)).path.length ∧
      w.kvChild (kvSp r) ((w.kvSeq (kvHandle r % 65536)).path.getLastD 0) (kvArg1 r) = none ∧
      65535 ≤ (w.kvPage (tget 0 (w.kvSeq (kvHandle r % 65536)).blocks (kvArg0 r))).refs) ∧
    (∃ (s w : State) (r : Bytes), KvServes s 5 1 r w ∧ kvArg0 r < (w.kvSeq (kvHandle r % 65536)).length / 64 ∧
      kvArg0 r = (w.kvSeq (kvHandle r % 65536)).path.length ∧
      w.kvChild (kvSp r) ((w.kvSeq (kvHandle r % 65536)).path.getLastD 0) (kvArg1 r) = none ∧
      (w.kvPage (tget 0 (w.kvSeq (kvHandle r % 65536)).blocks (kvArg0 r))).refs < 65535 ∧
      (w.kvc.nodes.filter fun e => e.2.space == kvSp r).length < (w.kvSpace (kvSp r)).treeQuota ∧
      w.kvc.nodes.length < 1048576) ∧
    (∃ (s w : State) (r : Bytes), KvServes s 5 1 r w ∧ kvArg0 r < (w.kvSeq (kvHandle r % 65536)).length / 64 ∧
      kvArg0 r = (w.kvSeq (kvHandle r % 65536)).path.length ∧
      w.kvChild (kvSp r) ((w.kvSeq (kvHandle r % 65536)).path.getLastD 0) (kvArg1 r) = none ∧
      (w.kvPage (tget 0 (w.kvSeq (kvHandle r % 65536)).blocks (kvArg0 r))).refs < 65535 ∧
      (w.kvSpace (kvSp r)).treeQuota ≤ (w.kvc.nodes.filter fun e => e.2.space == kvSp r).length ∧
      ((w.kvEvictPass 1 (kvSp r)).kvSpace (kvSp r)).treeQuota ≤
        ((w.kvEvictPass 1 (kvSp r)).kvc.nodes.filter fun e => e.2.space == kvSp r).length) :=
  ⟨⟨kvTree ([5, 0, 0, 0, 0, 0, 0, 0, 1] : Bytes) 1 (kvOne 1 64), kvTaken _, [5, 0, 0, 0, 0, 0, 0, 0, 1],
     ⟨by decide, by decide, by decide +kernel, by decide +kernel, by decide, by decide +kernel, rfl⟩, by decide +kernel⟩,
   ⟨kvTree [5] 1 { seqs := [(0, { life := .live, length := 64, path := [1] })] }, kvTaken _, [5],
     ⟨by decide, by decide, by decide +kernel, by decide +kernel, by decide, by decide +kernel, rfl⟩, by decide +kernel⟩,
   ⟨kvTree [5] 1 { kvOne 1 64 with nodes := [(1, {})] }, kvTaken _, [5],
     ⟨by decide, by decide, by decide +kernel, by decide +kernel, by decide, by decide +kernel, rfl⟩, by decide +kernel⟩,
   ⟨kvTree [5] 1 (kvOne 65535 64), kvTaken _, [5],
     ⟨by decide, by decide, by decide +kernel, by decide +kernel, by decide, by decide +kernel, rfl⟩, by decide +kernel⟩,
   ⟨kvTree [5] 1 (kvOne 1 64), kvTaken _, [5],
     ⟨by decide, by decide, by decide +kernel, by decide +kernel, by decide, by decide +kernel, rfl⟩, by decide +kernel⟩,
   ⟨kvTree [5] 0 (kvOne 1 64), kvTaken _, [5],
     ⟨by decide, by decide, by decide +kernel, by decide +kernel, by decide, by decide +kernel, rfl⟩, by decide +kernel⟩⟩

/-- The pins of a KVC whose first `n` are taken. -/
def fullPins (n : Nat) : Table KvPin := (List.range n).map fun i => (i, {})

theorem tfind_map {α : Type} (a : α) (l : List Nat) (k : Nat) (h : k ∈ l) : tfind (l.map fun i => (i, a)) k = some a := by
  induction l with
  | nil => simp at h
  | cons j r ih =>
    by_cases e : j = k
    · simp [tfind, e]
    · simp only [List.map_cons, tfind, e, if_false]
      exact ih (by simpa [Ne.symm e] using h)

theorem full_freePin (s : State) (n : Nat) (h : s.kvc.pins = fullPins n) (hn : 4096 ≤ n) : s.kvFreePin = none := by
  simp only [State.kvFreePin, List.find?_eq_none, List.mem_range]
  intro k hk
  have : tfind s.kvc.pins k = some {} := by
    rw [h, fullPins, tfind_map _ _ _ (List.mem_range.mpr (by omega))]
  simp [this]

theorem taken_pins (p : Table KvPin) : (kvTaken (kvAsked [7] { pins := p })).kvc.pins = p := by
  have a : (kvAsked [7] { pins := p }).kvNext = some 1 := by rfl
  have b : (kvAsked [7] { pins := p }).kvCheck 1 [7] = 0 := by
    have : (kvAsked [7] { pins := p }).kvCheck 1 [7] = (kvAsked [7] {}).kvCheck 1 [7] := rfl
    rw [this]; decide +kernel
  have c : ((kvAsked [7] { pins := p }).kvQueue 1).queue.headD [] = [7] := by rfl
  have d : (kvAsked [7] { pins := p }).kvWaiting = 1 := by rfl
  have h : State.kvDrainN (kvAsked [7] { pins := p }).kvWaiting (kvAsked [7] { pins := p }) = kvAsked [7] { pins := p } := by
    simp only [d, State.kvDrainN, a, c, b, if_true]
  rw [kvTaken, h]; rfl

theorem witness_KvcPins :
    (∃ (s w : State) (r : Bytes), KvServes s 9 1 r w) ∧
    (∃ (s w : State) (r : Bytes), KvServes s 7 1 r w ∧ w.kvFreePin = some 0) ∧
    (∃ (s w : State) (r : Bytes), KvServes s 7 1 r w ∧ w.kvFreePin = none) ∧
    (∃ (s w : State) (r : Bytes), KvServes s 8 1 r w ∧ ∃ p, tfind w.kvc.pins (kvArg0 r) = some p ∧ p.consist = 1 ∧
      p.basin = none) ∧
    (∃ (s w : State) (r : Bytes), KvServes s 8 1 r w ∧
      ∀ p, tfind w.kvc.pins (kvArg0 r) = some p → p.consist ≠ 1 ∨ p.basin ≠ none) :=
  ⟨⟨kvAsked [9] (kvOne 1 64), kvTaken _, [9],
     ⟨by decide, by decide, by decide +kernel, by decide +kernel, by decide, by decide +kernel, rfl⟩⟩,
   ⟨kvAsked [7] (kvOne 1 64), kvTaken _, [7],
     ⟨by decide, by decide, by decide +kernel, by decide +kernel, by decide, by decide +kernel, rfl⟩, by decide +kernel⟩,
   ⟨kvAsked [7] { pins := fullPins 4096 }, kvTaken _, [7],
     ⟨by decide, by decide, by decide +kernel, by decide +kernel, by decide, by decide +kernel, rfl⟩,
     full_freePin _ 4096 (taken_pins _) (Nat.le_refl _)⟩,
   ⟨kvAsked [8] { pins := [(0, { consist := 1 })] }, kvTaken _, [8],
     ⟨by decide, by decide, by decide +kernel, by decide +kernel, by decide, by decide +kernel, rfl⟩,
     { consist := 1 }, by decide +kernel⟩,
   ⟨kvAsked [8] {}, kvTaken _, [8],
     ⟨by decide, by decide, by decide +kernel, by decide +kernel, by decide, by decide +kernel, rfl⟩,
     by
       intro p h
       have : tfind (kvTaken (kvAsked [8] {})).kvc.pins (kvArg0 [8]) = none := by decide +kernel
       rw [this] at h
       cases h⟩⟩

/-- Strings put into 128 zero bytes. -/
def descriptor (l : List (Nat × Bytes)) : Bytes := l.foldl (fun b e => patch b e.1 e.2) (zeros 128)

/-- A plan descriptor of a mode on a map of one cell in Pool bank 0, its record behind it. -/
def planDesc (mode : BitVec 8) : Bytes :=
  descriptor [(0, [mode, 0, 1]), (0x2C, [0, 0x3C, 0, 0x3C]), (0x30, leBytes 6 poolBase), (0x40, [0, 0, 0x80, 0x3F]),
    (0x48, [1, 0, 0, 0x3C, 0, 0, 0x80, 0x3F]), (0x60, leBytes 6 (poolBase + 4096))]

/-- A CHECK of one pose at the start of the bank. -/
def checkDesc : Bytes :=
  descriptor [(0, [3]), (0x4A, [0, 0x3C]), (0x60, leBytes 6 (poolBase + 4096)), (0x68, leBytes 6 poolBase), (0x70, [1])]

/-- A device whose Routesetter 0, of tag 0x201, has a world, a vehicle of no spheres, and these contents. -/
def routed (x : Rts) : State :=
  { stored [] with
    rts := [(0, { x with
      owner := 0x201, noOwner := false, worldValid := true, vehicleValid := true
      vehicle := zeros 7 ++ ([1, 0, 0, 0x80, 0x3F] : Bytes) })] }

/-- A job of tag 0x201 with a descriptor. -/
def routeJob (d : Option Bytes) : RtsJob := { tag := 0x201, desc := d }

theorem inrOf {α β : Type} (p : α ⊕ β) (h : p.isRight = true) : ∃ b, p = .inr b := by
  cases p with
  | inl a => simp at h
  | inr b => exact ⟨b, rfl⟩

theorem inlOf {α β : Type} (p : α ⊕ β) (h : p.isLeft = true) : ∃ b, p = .inl b := by
  cases p with
  | inl a => exact ⟨a, rfl⟩
  | inr b => simp at h

/-- A device whose planner has one job of this descriptor. -/
def planAt (d : Option Bytes) : State := routed { planQueue := [routeJob d] }
/-- The run of that job. -/
def planRunOf (d : Option Bytes) : RtsRun := planRun (planAt d) 0 (routeJob d)
/-- That state with the job taken. -/
def planTaken (d : Option Bytes) : State := State.routeRefill ((planAt d).routeOffer.modRts 0 fun x =>
  { x with planQueue := x.planQueue.filter fun k => k.slot != (routeJob d).slot, run := some (planRunOf d) })

theorem plan_at (mode : Nat) (d : Option Bytes)
    (h : ((planAt d).live = true ∧ ((planAt d).routeOffer.rtsAt 0).nextPlan = some (routeJob d)) ∧
      ((planAt d).routeOffer.rtsAt 0).run = none ∧ ((planAt d).routeOffer.rtsAt 0).holdsPlanner = false ∧
      (((routeJob d).desc = none ∨ 6 < (routeJob d).mode) ∨ (routeJob d).mode = mode)) :
    PlanSetsUp (planAt d) 0 mode (planRunOf d) (planTaken d) :=
  .taken (routeJob d) ⟨h.1.1, h.1.2, h.2.1, h.2.2.1, h.2.2.2, rfl⟩ rfl

/-- What setup answers of it. -/
def setupOf (d : Option Bytes) : State × RouteSetup := (planTaken d).rtsSetup 0 (planRunOf d)

/-- Setup is ready. -/
def setupReady (d : Option Bytes) : Bool := match (setupOf d).2 with
  | .ready _ => true
  | _ => false

theorem starts (d : Option Bytes) (h : setupReady d = true) :
    ((planTaken d).rtsAt 0).check (planRunOf d).job = 0 → ∃ q, setupOf d = ((setupOf d).1, .ready q) := by
  intro _
  unfold setupReady at h
  split at h
  · exact ⟨_, Prod.ext rfl ‹_›⟩
  · cases h

/-- A plan whose map lies where its tag may not read. -/
def farDesc : Bytes := patch (planDesc 0) 0x30 (leBytes 6 (poolBase + 0x20000))

theorem witness_RoutePlannerJobs_start :
    (PlanSetsUp (planAt (some (planDesc 0))) 0 0 (planRunOf (some (planDesc 0))) (planTaken (some (planDesc 0))) ∧
      ((planTaken (some (planDesc 0))).rtsAt 0).check (planRunOf (some (planDesc 0))).job = 0 ∧
      ∃ q, setupOf (some (planDesc 0)) = ((setupOf (some (planDesc 0))).1, .ready q)) ∧
    (PlanSetsUp (planAt (some (planDesc 1))) 0 1 (planRunOf (some (planDesc 1))) (planTaken (some (planDesc 1))) ∧
      ((planTaken (some (planDesc 1))).rtsAt 0).check (planRunOf (some (planDesc 1))).job = 0 ∧
      ∃ q, setupOf (some (planDesc 1)) = ((setupOf (some (planDesc 1))).1, .ready q)) ∧
    (PlanSetsUp (planAt (some (planDesc 2))) 0 2 (planRunOf (some (planDesc 2))) (planTaken (some (planDesc 2))) ∧
      ((planTaken (some (planDesc 2))).rtsAt 0).check (planRunOf (some (planDesc 2))).job = 0 ∧
      ∃ q, setupOf (some (planDesc 2)) = ((setupOf (some (planDesc 2))).1, .ready q)) ∧
    (PlanSetsUp (planAt (some checkDesc)) 0 3 (planRunOf (some checkDesc)) (planTaken (some checkDesc)) ∧
      ((planTaken (some checkDesc)).rtsAt 0).check (planRunOf (some checkDesc)).job = 0 ∧
      ∃ q, setupOf (some checkDesc) = ((setupOf (some checkDesc)).1, .ready q)) ∧
    (PlanSetsUp (planAt none) 0 0 (planRunOf none) (planTaken none) ∧
      ((planTaken none).rtsAt 0).check (planRunOf none).job ≠ 0) ∧
    (PlanSetsUp (planAt (some farDesc)) 0 0 (planRunOf (some farDesc)) (planTaken (some farDesc)) ∧
      ((planTaken (some farDesc)).rtsAt 0).check (planRunOf (some farDesc)).job = 0 ∧ (setupOf (some farDesc)).2 = .failed 8) ∧
    (∃ (s : State) (r : RtsRun), PlanSetsUp s 0 0 r s.routeOffer ∧ (s.routeOffer.rtsAt 0).check r.job = 0) :=
  ⟨⟨plan_at _ _ (by decide +kernel), by decide +kernel, starts _ (by decide +kernel) (by decide +kernel)⟩,
   ⟨plan_at _ _ (by decide +kernel), by decide +kernel, starts _ (by decide +kernel) (by decide +kernel)⟩,
   ⟨plan_at _ _ (by decide +kernel), by decide +kernel, starts _ (by decide +kernel) (by decide +kernel)⟩,
   ⟨plan_at _ _ (by decide +kernel), by decide +kernel, starts _ (by decide +kernel) (by decide +kernel)⟩,
   ⟨plan_at _ _ (by decide +kernel), by decide +kernel⟩,
   ⟨plan_at _ _ (by decide +kernel), by decide +kernel, by decide +kernel⟩,
   ⟨routed { run := some { job := routeJob (some (planDesc 0)), phase := .setup } }, _,
     .goesOn (by decide) rfl rfl rfl (by decide +kernel), by decide +kernel⟩⟩

theorem witness_RoutePlannerJobs_rest :
    (∃ (s : State) (r : RtsRun), s.live = true ∧ (s.rtsAt 0).run = some r ∧ r.phase = .search ∧
      le (r.job.desc.getD []) 8 4 = 0) ∧
    (∃ (s : State) (r : RtsRun), s.live = true ∧ (s.routeOffer.rtsAt 0).run = some r ∧ r.phase = .search ∧
      r.job.safety = false ∧ (∃ j ∈ (s.routeOffer.rtsAt 0).planQueue, j.safety = true) ∧ le (r.job.desc.getD []) 8 4 = 0) ∧
    (∃ (s : State) (l : RtsLoad), s.live = true ∧ (s.rtsAt 0).load = some l ∧ l.done = true) ∧
    (∃ (s : State) (r : RtsRun), s.live = true ∧ (s.rtsAt 0).run = some r ∧ r.phase = .done ∧ r.left = 0) :=
  ⟨⟨routed { run := some {} }, {}, by decide +kernel⟩,
   ⟨routed { run := some {}, planQueue := [{ safety := true }] }, {}, by decide +kernel⟩,
   ⟨routed { load := some { done := true } }, { done := true }, by decide +kernel⟩,
   ⟨routed { run := some { phase := .done } }, { phase := .done }, by decide +kernel⟩⟩

/-- A device whose loader has one job of this descriptor. -/
def loadAt (d : Option Bytes) (x : Rts) : State := routed { x with loadQueue := [routeJob d] }
/-- That state with the job taken. -/
def loadTaken (d : Option Bytes) (x : Rts) : State := State.routeRefill ((loadAt d x).routeOffer.modRts 0 fun y =>
  { y with loadQueue := y.loadQueue.drop 1, load := some { job := routeJob d, startNs := (loadAt d x).routeOffer.now } })

theorem load_at (mode : Nat) (d : Option Bytes) (x : Rts)
    (h : (loadAt d x).live = true ∧ ((loadAt d x).routeOffer.rtsAt 0).load = none ∧
      ((loadAt d x).routeOffer.rtsAt 0).loadQueue.head? = some (routeJob d) ∧ (routeJob d).mode = mode) :
    LoaderHas (loadAt d x) 0 mode (routeJob d) (loadTaken d x) := .taken ⟨h.1, h.2.1, h.2.2.1, h.2.2.2, rfl⟩

/-- A loader descriptor of a mode. -/
def loadDesc (mode : BitVec 8) : Bytes := descriptor [(0, [mode]), (0x68, leBytes 6 poolBase), (0x70, [1])]

theorem witness_RouteLoaderJobs :
    (∃ (s v : State) (j : RtsJob), LoaderHas s 0 4 j v ∧ (s.routeOffer.rtsAt 0).check j = 0 ∧
      (s.routeOffer.rtsAt 0).targetPinned = false) ∧
    (∃ (s v : State) (j : RtsJob), LoaderHas s 0 4 j v ∧ (s.routeOffer.rtsAt 0).check j = 0 ∧
      (s.routeOffer.rtsAt 0).targetPinned = true) ∧
    (∃ (s v : State) (j : RtsJob), LoaderHas s 0 5 j v ∧ (s.routeOffer.rtsAt 0).check j = 0 ∧
      (s.routeOffer.rtsAt 0).run = none) ∧
    (∃ (s v : State) (j : RtsJob), LoaderHas s 0 5 j v ∧ (s.routeOffer.rtsAt 0).check j = 0 ∧
      (s.routeOffer.rtsAt 0).run ≠ none) ∧
    (∃ (s v : State) (j : RtsJob), LoaderHas s 0 6 j v ∧ (s.routeOffer.rtsAt 0).check j = 0 ∧
      (s.routeOffer.rtsAt 0).run = none) ∧
    (∃ (s v : State) (j : RtsJob), LoaderHas s 0 6 j v ∧ (s.routeOffer.rtsAt 0).check j ≠ 0) ∧
    (∃ (s : State) (l : RtsLoad), s.live = true ∧ (s.rtsAt 0).load = some l ∧ l.built = some [] ∧ l.job.mode = 4) ∧
    (∃ (s : State) (l : RtsLoad), s.live = true ∧ (s.rtsAt 0).load = some l ∧ l.built = some [] ∧ l.job.mode ≠ 4) ∧
    (∃ s : State, s.live = true ∧ (s.rtsAt 0).idle = true) ∧ (∃ s : State, s.live = true ∧ (s.rtsAt 0).idle = false) :=
  ⟨⟨_, _, _, load_at 4 (some (loadDesc 4)) {} (by decide +kernel), by decide +kernel, by decide +kernel⟩,
   ⟨_, _, _, load_at 4 (some (loadDesc 4)) { run := some { pinned := true, searchBank := 1 } } (by decide +kernel),
     by decide +kernel, by decide +kernel⟩,
   ⟨_, _, _, load_at 5 (some (loadDesc 5)) {} (by decide +kernel), by decide +kernel, by decide +kernel⟩,
   ⟨_, _, _, load_at 5 (some (loadDesc 5)) { run := some {} } (by decide +kernel), by decide +kernel, by decide +kernel⟩,
   ⟨_, _, _, load_at 6 (some (loadDesc 6)) {} (by decide +kernel), by decide +kernel, by decide +kernel⟩,
   ⟨_, _, _, load_at 6 (some (patch (loadDesc 6) 14 [1])) {} (by decide +kernel), by decide +kernel⟩,
   ⟨routed { load := some { job := routeJob (some (loadDesc 4)), built := some [] } }, _, by decide +kernel, rfl,
     by decide +kernel⟩,
   ⟨routed { load := some { job := routeJob (some (loadDesc 5)), built := some [] } }, _, by decide +kernel, rfl,
     by decide +kernel⟩,
   ⟨routed {}, by decide +kernel⟩, ⟨routed { run := some {} }, by decide +kernel⟩⟩

theorem witness_SafeStateCauses :
    (∃ s : State, s.ilk.safeCause = 0) ∧ (∃ s : State, s.ilk.safeCause ≠ 0) ∧
    (∃ s : State, s.live = true ∧ byteAt (s.sec secIsland) 0 ≠ 1 ∧ s.ilk.debugBroken = false) ∧
    (∃ s : State, s.live = true ∧ byteAt (s.sec secIsland) 0 = 1) ∧
    (∃ s : State, s.live = true ∧ s.ilk.debugBroken = true) ∧
    (∃ s : State, s.live = true ∧ s.rtcSplit 1 = false ∧ 1 ∉ s.ilk.rtcBroken) ∧
    (∃ s : State, s.live = true ∧ s.rtcSplit 1 = true) ∧
    (∃ s : State, s.live = true ∧ 1 ∈ s.ilk.rtcBroken) ∧
    (∃ s : State, s.live = true ∧ bit s.slc.dbgInv 1 = true ∧ byteAt (s.sec secIsland) 0 ≠ 1) ∧
    (∃ s : State, s.live = true ∧ bit s.slc.dbgInv 1 = false) ∧
    (∃ s : State, s.live = true ∧ s.boot.selftestPassed = true ∧ s.ilk.testing = none) ∧
    (∃ s : State, s.live = true ∧ s.boot.selftestPassed = false) ∧
    (∃ s : State, s.live = true ∧ s.ilk.testing = some 9) ∧
    (∃ s : State, s.live = true ∧ s.ilk.readbackSkip = true) ∧
    (∃ s : State, s.live = true ∧ s.ilk.readbackSkip = false ∧ (true && s.pins.vddIo) = s.pins.safeNCmd) ∧
    (∃ s : State, s.live = true ∧ s.ilk.readbackSkip = false ∧ (true && s.pins.vddIo) ≠ s.pins.safeNCmd) ∧
    (∃ s : State, s.live = true ∧ s.latched = true ∧ s.ilk.asserted = false ∧ s.ilk.headers.any (·.beforeLatch) = false) ∧
    (∃ s : State, s.live = true ∧ s.latched = true ∧ s.ilk.asserted = false ∧ s.ilk.headers.any (·.beforeLatch) = true ∧
      s.ilk.detectNs + 6000 = s.now) ∧
    (∃ s : State, s.live = true ∧ s.latched = true ∧ s.ilk.headers.any (·.beforeLatch) = true ∧
      s.now + 1 = s.ilk.detectNs + 6000) :=
  ⟨⟨up, by decide⟩, ⟨{ up with ilk := { safeCause := 1 } }, by decide⟩, ⟨up, by decide⟩,
   ⟨{ up with sections := [(secIsland, [1])] }, by decide⟩, ⟨{ up with ilk := { debugBroken := true } }, by decide⟩,
   ⟨up, by decide⟩, ⟨{ up with sections := [(secIsland, [0, 2])] }, by decide⟩,
   ⟨{ up with ilk := { rtcBroken := [1] } }, by decide⟩, ⟨{ up with slc := { dbgInv := 2 } }, by decide⟩, ⟨up, by decide⟩,
   ⟨{ up with boot := { selftestPassed := true } }, by decide⟩, ⟨up, by decide⟩,
   ⟨{ up with ilk := { testing := some 9 } }, by decide⟩, ⟨{ up with ilk := { readbackSkip := true } }, by decide⟩,
   ⟨{ up with pins := { porstN := true, vddIo := true, safeNCmd := true }, ilk := { readbackSkip := false } }, by decide⟩,
   ⟨{ up with pins := { porstN := true, vddIo := true, safeNCmd := false }, ilk := { readbackSkip := false } }, by decide⟩,
   ⟨{ up with ilk := { safeCause := 1 } }, by decide⟩,
   ⟨{ up with ilk := { safeCause := 1, headers := [{ beforeLatch := true }] }, tmt := { nowNs := 6000 } }, by decide⟩,
   ⟨{ up with ilk := { safeCause := 1, headers := [{ beforeLatch := true }] }, tmt := { nowNs := 5999 } }, by decide⟩⟩

/-- A device whose one Headway class has these flags and ring mask 1, with this hand-over in a lane. -/
def handing (flags : Nat) (safety : Bool) (h : ResultHandover) (x : Ilk) : State :=
  { up with
    sections := [(secHeadway, zeros 4 ++ ([1] : Bytes) ++ zeros 59 ++ leBytes 1 flags ++ zeros 5 ++ ([1] : Bytes))]
    ilk := if safety then { x with laneSafety := [h] } else { x with laneQm := [h] } }

theorem witness_ResultPath :
    (∃ s : State, s.live = true ∧ s.ilk.toHand = [] ∧ s.ilk.headers = [] ∧ s.ilk.laneSafety = []) ∧
    (∃ (s : State) (h : ResultHandover), s.live = true ∧ s.ilk.toHand = [h] ∧ s.classKnown h.headwayClass = true ∧
      s.classSafety h.headwayClass = false) ∧
    (∃ (s : State) (h : ResultHandover), s.live = true ∧ s.ilk.toHand = [h] ∧ s.classKnown h.headwayClass = false) ∧
    (∃ s : State, s.live = true ∧ s.ilk.testing = some 2) ∧
    (∃ s : State, s.live = true ∧ s.ilk.testing = some 7) ∧
    (∃ (s : State) (h : ResultHandover), s.live = true ∧ s.laneHeld true = false ∧ s.ilk.laneSafety = [h] ∧
      h.headwayClass = 0 ∧ h.ring = 15 ∧ (State.goldenOutputs s false).2 = some true ∧ h.status = 0 ∧ h.marked = false) ∧
    (∃ (s : State) (h : ResultHandover), s.live = true ∧ s.laneHeld true = false ∧ s.ilk.laneSafety = [h] ∧
      h.headwayClass = 0 ∧ h.ring = 15 ∧ h.marked = true) ∧
    (∃ (s : State) (h : ResultHandover), s.live = true ∧ s.laneHeld true = false ∧ s.ilk.laneSafety = [h] ∧
      h.ring ≠ 15 ∧ h.resultPtr % 64 ≠ 0) ∧
    (∃ (s : State) (h : ResultHandover), s.live = true ∧ s.laneHeld false = false ∧ s.ilk.laneQm = [h] ∧ h.ring ≠ 15 ∧
      h.resultPtr % 64 = 0 ∧ s.classKnown h.headwayClass = true ∧ s.classSafety h.headwayClass = false) ∧
    (∃ (s : State) (h : ResultHandover), s.live = true ∧ s.laneHeld true = false ∧ s.ilk.laneSafety = [h] ∧ h.ring ≠ 15 ∧
      h.resultPtr % 64 = 0 ∧ s.classKnown h.headwayClass = false) ∧
    (∃ (s : State) (h : ResultHandover) (v : Verdicts), (s.sendHeader h v).resp.kind = .error) ∧
    (∃ (s : State) (w : HeaderWrite), s.live = true ∧ s.ilk.headers = [w] ∧ w.waiting = true) ∧
    (∃ (s : State) (w : HeaderWrite), s.live = true ∧ s.ilk.headers = [w] ∧ w.waiting = false ∧ w.consist = 0) ∧
    (∃ (s : State) (w : HeaderWrite), s.live = true ∧ s.ilk.headers = [w] ∧ w.waiting = false ∧ w.consist ≠ 0 ∧
      (s.consist w.consist).generation ≠ w.generation) ∧
    (∃ (s : State) (e : Capture), s.live = true ∧
      ((s.hdw 1).opened.find? fun x => s.now > x.stamp + 64 * s.classDeadline 1) = some e) ∧
    (∃ s : State, s.live = true ∧ (s.hdw 1).opened ≠ [] ∧
      ∀ x ∈ (s.hdw 1).opened, s.now ≤ x.stamp + 64 * s.classDeadline 1) :=
  ⟨⟨up, by decide⟩, ⟨handing 0 true {} { toHand := [{ headwayClass := 1 }] }, { headwayClass := 1 }, by decide +kernel⟩,
   ⟨handing 0 true {} { toHand := [{ headwayClass := 2 }] }, { headwayClass := 2 }, by decide +kernel⟩,
   ⟨{ up with ilk := { testing := some 2 } }, by decide⟩, ⟨{ up with ilk := { testing := some 7 } }, by decide⟩,
   ⟨{ up with ilk := { laneSafety := [{ ring := 15 }] } }, { ring := 15 }, by decide +kernel⟩,
   ⟨{ up with ilk := { laneSafety := [{ ring := 15, marked := true }] } }, { ring := 15, marked := true }, by decide +kernel⟩,
   ⟨{ up with ilk := { laneSafety := [{ resultPtr := 1 }] } }, { resultPtr := 1 }, by decide +kernel⟩,
   ⟨handing 0 false { headwayClass := 1 } {}, { headwayClass := 1 }, by decide +kernel⟩,
   ⟨handing 0 true { headwayClass := 2 } {}, { headwayClass := 2 }, by decide +kernel⟩,
   ⟨up, { resultPtr := 2 ^ 50 }, ⟨0, 0, 0, 0, 0, 0, 0, 0⟩, by decide +kernel⟩,
   ⟨{ up with ilk := { headers := [{ waiting := true }] } }, { waiting := true }, by decide⟩,
   ⟨{ up with ilk := { headers := [{}] } }, {}, by decide⟩,
   ⟨{ up with ilk := { headers := [{ consist := 1, generation := 9 }] } }, { consist := 1, generation := 9 }, by decide⟩,
   ⟨{ up with ilk := { classes := [(1, { opened := [{ stamp := 0 }] })] }, tmt := { nowNs := 1 } }, { stamp := 0 },
     by decide +kernel⟩,
   ⟨{ up with ilk := { classes := [(1, { opened := [{ stamp := 0 }] })] } }, by decide +kernel⟩⟩

/-- A hand-over of the SAFETY class 1 whose capture, at instant 0, has its expectation open, and an empty payload. -/
def passing : State := handing 1 true { headwayClass := 1 } { classes := [(1, { opened := [{ state := .isOpen }] })] }

theorem witness_ResultPasses :
    passing.live = true ∧ passing.laneHeld true = false ∧ passing.ilk.laneSafety = [{ headwayClass := 1 }] ∧
    ∃ (u t w : State) (p : Bytes), u = { passing with ilk := { passing.ilk with laneSafety := [] } } ∧
      u.classKnown 1 = true ∧ u.classSafety 1 = true ∧ bit (u.classField 1 6 2) 0 = true ∧
      (t, .got p) = u.readPayload { headwayClass := 1 } (u.classField 1 0x0C 4) false ∧
      t.failingRules (t.ruleSet 0) p 1 0 { headwayClass := 1 } ((u.matchCapture 1 0).getD (u.captureNow 1 0)) = [] ∧
      (w, 0) = State.headwayJudge { t with ilk := { t.ilk with ruleFails := satAdd 16 t.ilk.ruleFails 0 } } 1 0 ∧
      w.quarantined (tapMask (t.ruleSet 0) 1) = false := by
  refine ⟨by decide +kernel, by decide +kernel, by decide +kernel, _, _, _, [], rfl, by decide +kernel, by decide +kernel,
    by decide +kernel, pairOf _ _ (by decide +kernel), by decide +kernel, pairOf _ _ (by decide +kernel), by decide +kernel⟩

/-- A device whose Basin 5 has sent this record. -/
def tapped (r : TapRecord) : State := { up with basins := [(5, { unacked := [r] })] }

theorem witness_TapReceiver :
    (∃ (s : State) (r : TapRecord), s.live = true ∧ (s.basin 5).unacked = [r] ∧ crc16 (flipBits r.bytes []) ≠ crc16 r.bytes ^^^ 1) ∧
    (∃ (s : State) (r : TapRecord), s.live = true ∧ (s.basin 5).unacked = [r] ∧ fld (byteAt (flipBits r.bytes []) 0) 2 6 ≠ 6) ∧
    (∃ (s : State) (r : TapRecord), s.live = true ∧ (s.basin 5).unacked = [r] ∧ fld (byteAt (flipBits r.bytes [2]) 0) 0 2 = 3) ∧
    (∃ (s : State) (r : TapRecord) (d : Bytes), s.live = true ∧ (s.basin 5).unacked = [r] ∧ d = flipBits r.bytes [] ∧
      crc16 d = crc16 r.bytes ^^^ 0 ∧ fld (byteAt d 0) 2 6 = 5 ∧ fld (byteAt d 0) 0 2 = 1 ∧ residueFails d = true) ∧
    (∃ (s : State) (r : TapRecord) (d : Bytes), s.live = true ∧ (s.basin 5).unacked = [r] ∧ d = flipBits r.bytes [] ∧
      crc16 d = crc16 r.bytes ^^^ 0 ∧ fld (byteAt d 0) 2 6 = 5 ∧ fld (byteAt d 0) 0 2 = 1 ∧ residueFails d = false) ∧
    (∃ (s : State) (r : TapRecord) (d : Bytes), s.live = true ∧ (s.basin 5).unacked = [r] ∧ d = flipBits r.bytes [] ∧
      crc16 d = crc16 r.bytes ^^^ 0 ∧ fld (byteAt d 0) 2 6 = 63 ∧ fld (byteAt d 0) 0 2 = 2) ∧
    (∃ s : State, s.live = true ∧ (s.basin 5).unacked = []) ∧
    (∃ (t : State) (r : TapRecord), consistOf r.senderTag = 1 ∧ t.consistTag 1 = r.senderTag ∧
      (t.consist 1).generation ≠ r.senderGen) ∧
    (∃ r : TapRecord, consistOf r.senderTag = 0) ∧
    (∃ s : State, s.basinRole 5 = 2) ∧ (∃ s : State, s.basinRole 5 ≠ 2 ∧ s.ilk.qmFrame = some s.ilk.frame) ∧
    (∃ d : Bytes, bit (byteAt d 1) 0 = false) ∧ (∃ d : Bytes, bit (byteAt d 1) 0 = true) :=
  ⟨⟨tapped { basin := 5 }, { basin := 5 }, by decide +kernel⟩, ⟨tapped { basin := 5 }, { basin := 5 }, by decide⟩,
   ⟨tapped { basin := 5 }, { basin := 5 }, by decide⟩,
   ⟨tapped { basin := 5, rowRes := 1 }, { basin := 5, rowRes := 1 }, _, by decide, by decide, rfl, by decide +kernel⟩,
   ⟨tapped { basin := 5 }, { basin := 5 }, _, by decide, by decide, rfl, by decide +kernel⟩,
   ⟨tapped { basin := 63, marker := true }, { basin := 63, marker := true }, _, by decide, by decide, rfl, by decide +kernel⟩,
   ⟨up, by decide⟩,
   ⟨{ up with ttb := { consists := [(1, { state := .active, world := 2, generation := 1 })] } }, { senderTag := 0x201 },
     by decide⟩, ⟨{}, by decide⟩,
   ⟨{ up with sections := [(secBasinmap, [0, 0, 0, 0, 0, 2])] }, by decide⟩,
   ⟨{ up with ilk := { qmFrame := some 0 } }, by decide⟩, ⟨[0, 0], by decide⟩, ⟨[0, 1], by decide⟩⟩

/-- A device with a small DRAM, owned page by page, whose SLUICE makes 0x200 privileged and whose Sluices grant all. -/
def sluiced (own : List (Nat × OwnerEntry)) (x : Slc) : State :=
  { up with
    sections := [(secMemory, [0xFF, 0, 8]),
      (secSluice, zeros 0x0C ++ ([0, 0, 0x20, 0, 0, 0, 0, 0] : Bytes) ++ zeros 0x4C ++ ([1] : Bytes))]
    slc :=
      { x with
        owners := own
        regions := (List.range 26).map fun t =>
          (32 * t, { base := 0, limit := 0xFFFFFFFFF000, rWorlds := 0xFFFF, wWorlds := 0xFFFF, valid := true, paged := t == 0 }) } }

/-- A page of tag 0x201. -/
def mine : List (Nat × OwnerEntry) := [(7, { owner := 0x201, free := false })]

theorem witness_SluiceAccesses :
    (∃ (s : State) (a : Access), s.live = true ∧ a.core = none ∧ s.verdict a = .deny 7) ∧
    (∃ (s : State) (a : Access), s.live = true ∧ a.core = none ∧ s.verdict a = .deny 5) ∧
    (∃ (s : State) (a : Access), s.live = true ∧ a.core = none ∧ s.verdict a = .deny 4) ∧
    (∃ (s : State) (a : Access), s.live = true ∧ a.core = none ∧ s.verdict a = .hold) ∧
    (∃ (s : State) (a : Access), s.live = true ∧ a.core = none ∧ s.verdict a = .grant ∧ s.target a.addr = .dram 3 ∧
      (s.dramCtrl 3).state = .off) ∧
    (∃ (s : State) (a : Access), s.live = true ∧ a.core = none ∧ s.verdict a = .grant ∧ s.target a.addr = .dram 3 ∧
      (s.dramCtrl 3).state ≠ .off ∧ a.write = false) ∧
    (∃ (s : State) (a : Access), s.live = true ∧ a.core = none ∧ s.verdict a = .grant ∧ s.target a.addr = .dram 3 ∧
      (s.dramCtrl 3).state ≠ .off ∧ a.write = true ∧ a.fromCore = false) ∧
    (∃ (s : State) (a : Access), s.live = true ∧ a.core = none ∧ s.verdict a = .grant ∧ s.target a.addr = .dram 3 ∧
      (s.dramCtrl 3).state ≠ .off ∧ a.write = true ∧ a.fromCore = true) ∧
    (∃ (s : State) (a : Access), s.live = true ∧ a.core = none ∧ s.verdict a = .grant ∧ s.target a.addr = .pool 63) ∧
    (∃ (s : State) (a : Access), s.live = true ∧ a.core = none ∧ s.verdict a = .grant ∧ s.target a.addr = .reservoir 7) ∧
    (∃ (s : State) (a : Access), s.live = true ∧ a.core = none ∧ s.verdict a = .grant ∧ s.target a.addr = .ctlPriv) ∧
    (∃ (s : State) (a : Access), s.live = true ∧ a.core = none ∧ s.verdict a = .grant ∧ s.target a.addr = .fabric) ∧
    (∃ (s : State) (a : Access), s.live = true ∧ a.core = none ∧ s.verdict a = .grant ∧ s.target a.addr = .interruptFile 19 ∧ a.write = true) ∧
    (∃ (s : State) (a : Access), s.live = true ∧ a.core = none ∧ s.verdict a = .grant ∧ s.target a.addr = .interruptFile 0 ∧ a.write = false) ∧
    (∃ (s : State) (a : Access), s.live = true ∧ a.core = none ∧ s.verdict a = .grant ∧ s.target a.addr = .hole) ∧
    (∃ (s : State) (a : Access) (u : CoreUse), s.live = true ∧ a.core = some u ∧ u.op = .uncached) ∧
    (∀ op, op = .clean ∨ op = .flush ∨ op = .inval → ∃ (s : State) (a : Access) (u : CoreUse), s.live = true ∧
      a.core = some u ∧ u.op = op) ∧
    (∃ (s : State) (a : Access) (u : CoreUse), s.live = true ∧ a.core = some u ∧ u.op = .cached ∧ s.target a.addr = .dram 3) ∧
    (∃ (s : State) (l : CoreLine), tfind s.slc.coreLines 0x1C0 = some l ∧ l.tag = 0x201) ∧
    (∃ (s : State) (l : CoreLine), tfind s.slc.coreLines 0x1C0 = some l ∧ l.tag ≠ 0x202 ∧ s.boot.isolation = true ∧
      tfind ((s.writeBack 0x1C0).dropLine 0x1C0).slc.coreLines 0x1C0 = none) ∧
    (∃ (s : State) (a : Access), s.live = true ∧ a.core = none ∧ s.verdict a = .grant ∧ s.target a.addr = .dram 3 ∧
      (s.dramCtrl 3).state ≠ .off ∧ a.write = false ∧ a.ecc = 2) ∧
    (∃ (s : State) (a : Access), s.live = true ∧ a.core = none ∧ s.verdict a = .grant ∧ s.target a.addr = .mawyn) :=
  ⟨⟨up, { copiesAgree := false }, by decide⟩,
   ⟨sluiced mine {}, { addr := 0x7000, len := 1, tag := 0x201, entryOk := false }, by decide +kernel⟩,
   ⟨sluiced mine {}, { addr := 0x7000, len := 1, tag := 0x202 }, by decide +kernel⟩,
   ⟨sluiced mine { handover := some { first := 7, count := 1, newEntry := { owner := 0x202, free := false } } },
     { addr := 0x7000, len := 1, tag := 0x202 }, by decide +kernel⟩,
   ⟨{ sluiced mine {} with dram := [(3, { state := .off })] }, { addr := 0x7000, len := 1, tag := 0x201 },
     by decide +kernel⟩,
   ⟨{ sluiced mine {} with dram := [(3, { state := .on })] }, { addr := 0x7000, len := 1, tag := 0x201 },
     by decide +kernel⟩,
   ⟨{ sluiced mine {} with dram := [(3, { state := .on })] }, { addr := 0x7000, len := 1, tag := 0x201, write := true },
     by decide +kernel⟩,
   ⟨{ sluiced mine {} with dram := [(3, { state := .on })] }, { addr := 0x7000, len := 1, tag := 0x201, write := true, fromCore := true },
     by decide +kernel⟩,
   ⟨sluiced mine {}, { sluice := 23, addr := poolBase + 64 * 0x200000 - 1, len := 1, tag := 0x201 }, by decide +kernel⟩,
   ⟨sluiced mine {}, { sluice := 15, addr := rsvBase + 8 * 0x400000 - 1, len := 1, tag := 0x201 }, by decide +kernel⟩,
   ⟨sluiced mine {}, { sluice := 29, addr := ctlBase, len := 1, tag := 0x200 }, by decide +kernel⟩,
   ⟨sluiced mine {}, { sluice := 24, addr := 0x003100000000, len := 1, tag := 0x201 }, by decide +kernel⟩,
   ⟨sluiced mine {}, { sluice := 32, addr := 0x003300000000 + 19 * 0x10000, len := 4, tag := 0x201, write := true },
     by decide +kernel⟩,
   ⟨sluiced mine {}, { sluice := 30, addr := 0x003300000000, len := 4, tag := 0x201 }, by decide +kernel⟩,
   ⟨sluiced mine {}, { sluice := 24, addr := 0x002020000000, len := 1, tag := 0x201 }, by decide +kernel⟩,
   ⟨up, { core := some { op := .uncached } }, { op := .uncached }, by decide⟩,
   fun op _ => ⟨up, { core := some { op := op } }, { op := op }, by decide, rfl, rfl⟩,
   ⟨sluiced mine {}, { core := some { op := .cached }, addr := 0x7000 }, { op := .cached }, by decide +kernel⟩,
   ⟨{ up with slc := { coreLines := [(0x1C0, { tag := 0x201 })] } }, { tag := 0x201 }, by decide⟩,
   ⟨{ up with slc := { coreLines := [(0x1C0, { tag := 0x201 })] }, boot := { up.boot with isolation := true } },
     { tag := 0x201 }, by decide +kernel⟩,
   ⟨{ sluiced mine {} with dram := [(3, { state := .on })] }, { addr := 0x7000, len := 1, tag := 0x201, ecc := 2 },
     by decide +kernel⟩,
   ⟨sluiced mine {}, { sluice := 25, addr := mawynBase, len := 1, tag := 0x201 }, by decide +kernel⟩⟩

/-- A page request of one page, page 7, from tag 0x200. -/
def pageRequest (op mode : BitVec 8) (owner : Nat) : PageReq :=
  { tag := 0x200, bytes := ([op, mode, 0, 0, 1, 0, 0, 0, 7, 0, 0, 0] : Bytes) ++ leBytes 2 owner ++ zeros 18 }

theorem witness_PageRequests :
    (∃ s : State, s.live = true ∧ s.slc.pageQueue = [] ∧ s.slc.handover = none) ∧
    (∃ s : State, s.live = true ∧ 64 ≤ s.slc.pageQueue.length) ∧
    (∃ (s : State) (r : PageReq), s.live = true ∧ s.slc.pageQueue = [r] ∧ s.slc.handover = none ∧ byteAt r.bytes 0 = 1 ∧
      (s.pageCheck r).1 = 0) ∧
    (∃ (s : State) (r : PageReq), s.live = true ∧ s.slc.pageQueue = [r] ∧ s.slc.handover = none ∧ byteAt r.bytes 0 = 1 ∧
      (s.pageCheck r).1 = 3) ∧
    (∃ (s : State) (r : PageReq), s.live = true ∧ s.slc.pageQueue = [r] ∧ s.slc.handover = none ∧ byteAt r.bytes 0 = 2 ∧
      (s.pageCheck r).1 = 0) ∧
    (∃ (s : State) (r : PageReq), s.live = true ∧ s.slc.pageQueue = [r] ∧ s.slc.handover = none ∧ byteAt r.bytes 0 = 3 ∧
      (s.pageCheck r).1 = 0) ∧
    (∃ (s : State) (r : PageReq), s.live = true ∧ s.slc.pageQueue = [r] ∧ byteAt r.bytes 0 = 3 ∧ s.slc.handover ≠ none) ∧
    (∃ (s : State) (h : PageHandover), s.live = true ∧ s.slc.handover = some h) :=
  ⟨⟨up, by decide⟩, ⟨{ up with slc := { pageQueue := List.replicate 64 {} } }, by decide⟩,
   ⟨sluiced mine { pageQueue := [pageRequest 1 0 0x202] }, pageRequest 1 0 0x202, by decide +kernel⟩,
   ⟨sluiced mine { pageQueue := [pageRequest 1 0 0x302] }, pageRequest 1 0 0x302, by decide +kernel⟩,
   ⟨sluiced mine { pageQueue := [pageRequest 2 0 0] }, pageRequest 2 0 0, by decide +kernel⟩,
   ⟨sluiced mine { pageQueue := [pageRequest 3 0 0] }, pageRequest 3 0 0, by decide +kernel⟩,
   ⟨sluiced mine { pageQueue := [pageRequest 3 0 0], handover := some {} }, pageRequest 3 0 0, by decide +kernel⟩,
   ⟨{ up with slc := { handover := some {} } }, {}, by decide⟩⟩

theorem witness_Enclaves :
    (∃ s : State, s.live = true ∧ (s.enclave 1).state ≠ .empty ∧ (s.enclave 1).state ≠ .building) ∧
    (∃ s : State, s.live = true ∧ (s.enclave 1).state = .empty ∧ s.mayCreate 0x201 = false) ∧
    (∃ s : State, s.live = true ∧ (s.enclave 1).state = .empty ∧ s.mayCreate 0x200 = true ∧ s.debugAllowed = false) ∧
    (∃ s : State, s.live = true ∧ (s.enclave 1).state = .building ∧ s.isCreator 0x201 1 = false) ∧
    (∃ s : State, s.live = true ∧ (s.enclave 1).state = .building ∧ s.isCreator 0x200 1 = true ∧
      (s.owner 7).owner ≠ (s.enclave 1).creator * 256) ∧
    (∃ s : State, s.live = true ∧ (s.enclave 1).state = .building ∧ s.isCreator 0x200 1 = true ∧
      (∀ i < 1, (s.owner (7 + i)).free = false ∧ (s.owner (7 + i)).owner = (s.enclave 1).creator * 256) ∧
      s.entryPage 1 = none) ∧
    (∃ s : State, s.live = true ∧ (s.enclave 1).state = .building ∧ s.isCreator 0x200 1 = true ∧ s.entryPage 1 ≠ none) ∧
    (∃ s : State, s.live = true ∧ (s.hart 3).enclave = 0) ∧
    (∃ s : State, s.live = true ∧ (s.hart 3).enclave ≠ 0 ∧ (s.hart 3).haltHeld = false) ∧
    (∃ (s : State) (r : HartRegs), s.live = true ∧ s.enterCode 3 (regGet r 5) (regGet r 6) = 1) ∧
    (∃ (s : State) (r : HartRegs), s.live = true ∧ s.enterCode 0 (regGet r 5) (regGet r 6) = 0 ∧
      regGet r 6 = 2 ^ 64 - 1) ∧
    (∃ (s : State) (r : HartRegs), s.live = true ∧ s.enterCode 0 (regGet r 5) (regGet r 6) = 0 ∧
      regGet r 6 ≠ 2 ^ 64 - 1 ∧ s.entryMarked (regGet r 5) 0x7800 = true) ∧
    (∃ (s : State) (r : HartRegs), s.live = true ∧ s.enterCode 0 (regGet r 5) (regGet r 6) = 0 ∧
      regGet r 6 ≠ 2 ^ 64 - 1 ∧ s.entryMarked (regGet r 5) 0x9000 = false) := by
  refine ⟨⟨sluiced [] { enclaves := [(1, { state := .ready })] }, by decide⟩, ⟨sluiced [] {}, by decide +kernel⟩,
   ⟨sluiced [] {}, by decide +kernel⟩,
   ⟨sluiced [] { enclaves := [(1, { state := .building, creator := 2 })] }, by decide +kernel⟩,
   ⟨sluiced mine { enclaves := [(1, { state := .building, creator := 2 })] }, by decide +kernel⟩,
   ⟨sluiced [(7, { owner := 0x200, free := false })] { enclaves := [(1, { state := .building, creator := 2 })] },
     by decide +kernel⟩,
   ⟨{ sluiced [] { enclaves := [(1, { state := .building, creator := 2, pages := [(2, 7)] })] } with
     mem := [(0x7000, 1)] }, by decide +kernel⟩,
   ⟨up, by decide⟩, ⟨sluiced [] { harts := [(3, { enclave := 1 })] }, by decide⟩, ⟨up, {}, by decide +kernel⟩,
   ⟨sluiced [] { enclaves := [(1, { state := .ready, pages := [(3, 1), (3, 2), (3, 3), (3, 4)], slots := [(0, {})] })] },
     { x := [(5, 1), (6, 2 ^ 64 - 1)] }, by decide +kernel⟩,
   ⟨{ sluiced [(7, { owner := 0xF01, free := false })]
       { enclaves := [(1, { state := .ready, pages := [(2, 7), (3, 1), (3, 2), (3, 3), (3, 4)] })] } with
     mem := [(0x7000, 1), (0x7800, 0x0B)] }, { x := [(5, 1)] }, by decide +kernel⟩,
   ⟨{ sluiced [] { enclaves := [(1, { state := .ready, pages := [(2, 7), (3, 1), (3, 2), (3, 3), (3, 4)] })] } with
     mem := [(0x7000, 1)] }, { x := [(5, 1)] }, by decide +kernel⟩⟩

theorem witness_DebugEnables :
    (∃ s : State, s.live = true ∧ s.privileged 0x200 = true) ∧
    (∃ (s : State) (d : Bytes), s.live = true ∧ (9 : Nat) ≠ s.stmTag ∧ (regionOf d).paged = false) ∧
    (∃ s : State, s.live = true ∧ (s.region 3 4).locked = true) ∧
    (∃ (s : State) (d : Bytes), s.live = true ∧ (regionOf d).paged = true ∧ (regionOf d).window = false) ∧
    (∃ (s : State) (d : Bytes), s.live = true ∧ (regionOf d).window = true) ∧
    (∃ (s : State) (d : Bytes), s.live = true ∧
      windowOk ((List.range 32).map fun r => if r = 0 then regionOf d else s.region 22 r) = false) ∧
    (∃ (s : State) (d : Bytes), s.live = true ∧ (s.region 3 4).locked = false ∧ (regionOf d).paged = false ∧
      (regionOf d).window = false) ∧
    (∃ (s : State) (d : Bytes), s.live = true ∧ (s.region 22 31).locked = false ∧ (regionOf d).window = true ∧
      windowOk ((List.range 32).map fun r => if r = 31 then regionOf d else s.region 22 r) = true) :=
  ⟨⟨sluiced [] {}, by decide +kernel⟩, ⟨up, [], by decide⟩,
   ⟨{ up with slc := { regions := [(100, { locked := true })] } }, by decide⟩,
   ⟨up, zeros 0x14 ++ ([2] : Bytes), by decide⟩, ⟨up, zeros 0x14 ++ ([8] : Bytes), by decide⟩,
   ⟨up, [], by decide⟩, ⟨up, [], by decide⟩,
   ⟨up, leBytes 8 0x003000800000 ++ leBytes 8 0x00300085F000 ++ zeros 4 ++ ([9] : Bytes), by decide +kernel⟩⟩

/-- A device whose Points run with all ports enabled. -/
def pointing (x : Pts) : State :=
  { up with clocks := [(69, { state := .on })], sections := [(secIoplan, zeros 6 ++ ([0xFF, 3, 0xFF, 0xFF] : Bytes))], pts := x }

/-- A CAN FD frame, and an Ethernet frame of the least length. -/
def canFrame : NetFrame := { kind := 2, bytes := zeros 64 }
/-- An Ethernet frame of the least length. -/
def ethFrame : NetFrame := { bytes := zeros 60 }

theorem witness_PointsFrames :
    (∃ s : State, s.live = true ∧ s.portEnabled 3 = false) ∧
    (∃ s : State, s.live = true ∧ 31 - 16 ∈ s.pts.busOff) ∧
    (∃ s : State, s.live = true ∧ (s.clock 69).state = .on ∧ s.portEnabled 31 = true ∧ 31 - 16 ∉ s.pts.busOff ∧
      frameLenOk { canFrame with bytes := zeros 63 } = false) ∧
    (∃ s : State, s.live = true ∧ (s.clock 69).state = .on ∧ s.portEnabled 9 = true ∧ frameLenOk ethFrame = true ∧
      ethFrame.bad = false ∧ ethFrame.remote = false ∧ s.ptsLookup (frameKey 9 ethFrame) = some 4) ∧
    (∃ s : State, s.live = true ∧ (s.clock 69).state = .on ∧ s.portEnabled 16 = true ∧ frameLenOk canFrame = true ∧
      canFrame.bad = false ∧ canFrame.remote = false ∧ s.ptsLookup (frameKey 16 canFrame) = none) ∧
    (∃ e : Bytes, byteAt e 0x20 = 4) ∧ (∃ e : Bytes, byteAt e 0x20 = 0) ∧ (∃ e : Bytes, byteAt e 0x20 = 1) ∧
    (∃ e : Bytes, byteAt e 0x20 = 3) ∧
    (∃ e : Bytes, byteAt e 0x20 = 2 ∧ maskBits (le e 0x18 8) 32 = [9] ∧ canFrame.kind = 2) ∧
    (∃ s : State, s.carries 10 ethFrame = false) ∧
    (∃ s : State, s.carries 9 ethFrame = true ∧ bit 0x200 9 = true ∧ bit 0 9 = false) ∧
    (∃ (s : State) (a : PtsAgg), s.live = true ∧ tfind s.pts.aggs 4 = some a ∧ (s.clock 69).state = .on) ∧
    (∃ s : State, s.live = true ∧ tfind s.pts.aggs 4 = none) :=
  ⟨⟨up, by decide⟩, ⟨pointing { busOff := [15] }, by decide⟩, ⟨pointing {}, by decide +kernel⟩,
   ⟨pointing { entries := [(4, zeros 0x22 ++ ([1] : Bytes))] }, by decide +kernel⟩, ⟨pointing {}, by decide +kernel⟩,
   ⟨zeros 0x20 ++ ([4] : Bytes), by decide⟩, ⟨[], by decide⟩, ⟨zeros 0x20 ++ ([1] : Bytes), by decide⟩,
   ⟨zeros 0x20 ++ ([3] : Bytes), by decide⟩,
   ⟨zeros 0x19 ++ ([2, 0, 0, 0, 0, 0, 0, 2] : Bytes), by decide⟩, ⟨pointing {}, by decide +kernel⟩, ⟨pointing {}, by decide +kernel⟩,
   ⟨pointing { aggs := [(4, {})] }, {}, by decide +kernel⟩, ⟨pointing {}, by decide⟩⟩

/-- A Points queue 3 with these contents, its slots and index word in the Pool bank of tag 0x201. -/
def memQueue (x : PtsQueue) : State :=
  { pointing { queues := [(3, { x with ownerTag := 0x201, base := poolBase, addr := poolBase + 0x8000 })] } with
    slc := (stored []).slc, banks := (stored []).banks }

/-- A device of `watched` whose queue 3 has its index word at address 64 of DRAM, written under tag 0x207. -/
def indexed : State :=
  { watched with
    sbx := {}, pts := { queues := [(3, { en := true, tx := true, log2Slots := 4, addr := 64, writerTag := 0x207 })] } }

theorem witness_PointsQueues :
    (∃ s : State, s.live = true ∧ (s.ptsQueue 3).slotWrites = [] ∧ (s.ptsQueue 3).indexWrites = []) ∧
    (∃ s : State, s.live = true ∧ (s.ptsQueue 3).slotWrites = [(0, 1)] ∧ s.awaits (.slot 3 0) = false ∧
      (State.devAccess (s.modQueue 3 fun x => { x with slotWrites := [] }) (.index 3 (some 0)) (s.ptsQueue 3).ownerTag
        ((s.ptsQueue 3).addr + 64) 8 true (leBytes 8 1)).resp.kind ≠ .error) ∧
    (∃ s : State, s.live = true ∧ (s.ptsQueue 3).slotWrites = [(0, 1)] ∧ s.awaits (.slot 3 0) = true) ∧
    (∃ s : State, s.live = true ∧ (s.ptsQueue 3).indexWrites = [0] ∧ s.awaits (.index 3 (some 0)) = true) ∧
    (∃ s : State, s.live = true ∧ (s.ptsQueue 3).slotWrites = [(0, 1)] ∧ s.awaits (.slot 3 0) = false ∧
      (State.devAccess (s.modQueue 3 fun x => { x with slotWrites := [] }) (.index 3 (some 0)) (s.ptsQueue 3).ownerTag
        ((s.ptsQueue 3).addr + 64) 8 true (leBytes 8 1)).resp.kind = .error) ∧
    (∃ s : State, s.live = true ∧ (s.ptsQueue 3).indexWrites = [0] ∧ s.awaits (.index 3 (some 0)) = false) ∧
    (∃ (s : State) (x : PtsQueue), s.live = true ∧ s.pts.queues = [(3, x)] ∧ x.en = true ∧ x.indexOk 16 = true ∧
      x.indexOk 17 = false) ∧
    (∃ s : State, s.live = true ∧ (s.clock 69).state = .on ∧ (s.ptsQueue 3).en = true ∧ (s.ptsQueue 3).tx = true ∧
      (s.ptsQueue 3).captured ≠ (s.ptsQueue 3).index ∧
      (State.fetchBytes (s.reach 0) (s.ptsQueue 3).ownerTag ((s.ptsQueue 3).slotAt 0) 64).2 = .got (zeros 64)) ∧
    (∃ s : State, s.live = true ∧ (s.clock 69).state = .on ∧ (s.ptsQueue 3).en = true ∧ (s.ptsQueue 3).tx = true ∧
      (s.ptsQueue 3).captured ≠ (s.ptsQueue 3).index ∧
      (State.fetchBytes (s.reach 0) (s.ptsQueue 3).ownerTag ((s.ptsQueue 3).slotAt 0) 64).2 = .failed) ∧
    (∃ (s : State) (x : PtsQueue) (acc : Access), s.live = true ∧ s.pts.queues = [(3, x)] ∧ s.target 64 = .dram 0 ∧
      (s.blockAccess 0x207 64 8 true (leBytes 8 17)).map (fun b => { b with entryOk := true }) = some acc ∧ s.verdict acc = .grant ∧ (s.dramCtrl 0).state ≠ .off ∧
      x.en = true ∧ 64 ≤ x.addr ∧ x.addr + 4 ≤ 64 + 8 ∧ x.writerTag = 0x207) ∧
    (∃ (s : State) (x : PtsQueue) (acc : Access), s.live = true ∧ s.pts.queues = [(3, x)] ∧ s.target 64 = .dram 0 ∧
      (s.blockAccess 7 64 8 true (leBytes 8 17)).map (fun b => { b with entryOk := true }) = some acc ∧ s.verdict acc = .deny 3) ∧
    (∃ s : State, s.live = true ∧ (s.clock 69).state = .on ∧ s.entryBad (slice (tget [] s.pts.entryData 3) 0 64) = true) ∧
    (∃ s : State, s.live = true ∧ (s.clock 69).state = .on ∧ s.entryBad (slice (tget [] s.pts.entryData 3) 0 64) = false) ∧
    (∃ s : State, s.live = true ∧ (s.clock 69).state = .on ∧ (s.ptsQueue 3).en = true) ∧
    (∃ s : State, s.live = true ∧ (s.clock 69).state = .on ∧ (s.ptsQueue 3).en = false ∧ (s.ptsQueue 3).slotWrites = [] ∧
      (s.ptsQueue 3).indexWrites = []) :=
  ⟨⟨up, by decide⟩, ⟨memQueue { slotWrites := [(0, 1)] }, by decide +kernel⟩,
   ⟨heldFor (.slot 3 0) (memQueue { slotWrites := [(0, 1)] }), by decide +kernel⟩,
   ⟨heldFor (.index 3 (some 0)) (memQueue { indexWrites := [0] }), by decide +kernel⟩,
   ⟨pointing { queues := [(3, { slotWrites := [(0, 1)] })] }, by decide +kernel⟩,
   ⟨memQueue { indexWrites := [0] }, by decide +kernel⟩,
   ⟨{ up with pts := { queues := [(3, { en := true, tx := true, log2Slots := 4 })] } },
     { en := true, tx := true, log2Slots := 4 }, by decide⟩,
   ⟨memQueue { en := true, tx := true, log2Slots := 4, captured := 1 }, by decide +kernel⟩,
   ⟨pointing { queues := [(3, { en := true, tx := true, captured := 1 })] }, by decide +kernel⟩,
   ⟨indexed, _, _, by decide, rfl, by decide, rfl, by decide +kernel, by decide, by decide, by decide, by decide, by decide⟩,
   ⟨indexed, _, _, by decide, rfl, by decide, rfl, by decide +kernel⟩,
   ⟨pointing { entryData := [(3, zeros 0x20 ++ ([5] : Bytes))] }, by decide +kernel⟩, ⟨pointing {}, by decide +kernel⟩,
   ⟨memQueue { en := true }, by decide⟩, ⟨memQueue {}, by decide⟩⟩

/-- A device whose Junction runs. -/
def joined (x : Jct) : State := { up with clocks := [(71, { state := .on })], jct := x }

theorem witness_JunctionReads :
    (∃ s : State, s.live = true ∧ s.sideOf 0 = none) ∧
    (∃ s : State, s.live = true ∧ (s.clock 71).state = .on ∧ s.sideOf 0x003110FFFFFF = some 2) ∧
    (∃ s : State, s.live = true ∧ (s.clock 71).state = .on ∧ s.sideOf 0x005FFFFFFFFF = some 1) ∧
    (∃ s : State, s.live = true ∧ (s.clock 71).state = .on ∧ tfind (s.side 1).tags 255 = none) ∧
    (∃ (s : State) (g : JctTag), s.live = true ∧ (s.clock 71).state = .on ∧ tfind (s.side 1).tags 255 = some g ∧
      g.quarantined = true) ∧
    (∃ (s : State) (g : JctTag) (r : JctRead), s.live = true ∧ (s.clock 71).state = .on ∧
      tfind (s.side 1).tags 255 = some g ∧ g.quarantined = false ∧ tfind (s.side 1).reads g.read = some r) :=
  ⟨⟨up, by decide⟩, ⟨joined {}, by decide +kernel⟩, ⟨joined {}, by decide +kernel⟩, ⟨joined {}, by decide⟩,
   ⟨joined { sides := [(1, { tags := [(255, { quarantined := true })] })] }, _, by decide, by decide, rfl, by decide⟩,
   ⟨joined { sides := [(1, { tags := [(255, {})], reads := [(0, {})] })] }, _, _, by decide, by decide, rfl, by decide, rfl⟩⟩

theorem witness_JunctionInbound :
    (∃ s : State, s.live = true ∧ (s.clock 71).state ≠ .on) ∧
    (∃ s : State, s.live = true ∧ (s.clock 71).state = .on ∧ s.inWindowOf 1 7 0x1000 = none) ∧
    (∃ (s : State) (x : JctWindow), s.live = true ∧ (s.clock 71).state = .on ∧ s.inWindowOf 1 7 0x1FFF = some x ∧
      (s.inboundPieces x.streamTag (x.target + (0x1FFF - x.base)) true [1]
        (cutPieces 64 64 1 (x.target + (0x1FFF - x.base)) 1)).2 = none) ∧
    (∃ (s : State) (x : JctWindow), s.live = true ∧ (s.clock 71).state = .on ∧ s.inWindowOf 1 7 0x1000 = some x ∧
      (s.inboundPieces x.streamTag (x.target + (0x1000 - x.base)) true [1]
        (cutPieces 64 64 1 (x.target + (0x1000 - x.base)) 1)).2 = some []) ∧
    (∃ s : State, s.live = true ∧ s.sideOf 0 = none) ∧
    (∃ s : State, s.live = true ∧ (s.clock 71).state = .on ∧ s.sideOf 0x003100000000 = some 2 ∧
      (s.jct.slots.filter fun r => r.granule != 0x003100000000 / 64).length ≥ 16) ∧
    (∃ s : State, s.live = true ∧ (s.clock 71).state = .on ∧ s.sideOf 0x003100000000 = some 2 ∧
      ∃ r ∈ s.jct.slots, r.granule = 0x003100000000 / 64 ∧ r.src = 1 ∧ r.tag = 2 ∧ r.hart = 3) ∧
    (∃ s : State, s.live = true ∧ (s.clock 71).state = .on ∧ s.sideOf 0x003100000000 = some 2 ∧
      ∀ r ∈ s.jct.slots, ¬(r.granule = 0x003100000000 / 64 ∧ r.src = 1 ∧ r.tag = 2 ∧ r.hart = 3)) :=
  ⟨⟨up, by decide⟩, ⟨joined {}, by decide +kernel⟩,
   ⟨joined { sides := [(1, { windows := [(15, { en := true, base := 0x1000, limit := 0x1000 })] })] },
     { en := true, base := 0x1000, limit := 0x1000 }, by decide +kernel⟩,
   ⟨{ joined { sides := [(1, { windows := [(15, { en := true, base := 0x1000, limit := 0x1000, target := poolBase, streamTag := 0x201 })] })] } with
     slc := (stored []).slc, banks := (stored []).banks },
     { en := true, base := 0x1000, limit := 0x1000, target := poolBase, streamTag := 0x201 }, by decide +kernel⟩,
   ⟨up, by decide⟩, ⟨joined { slots := List.replicate 16 {} }, by decide +kernel⟩,
   ⟨joined { slots := [{ granule := 0x003100000000 / 64, src := 1, tag := 2, hart := 3 }] }, by decide +kernel⟩,
   ⟨joined { slots := [{ granule := 0x003100000000 / 64, src := 1, tag := 2, hart := 4 }] }, by decide +kernel⟩⟩

/-- A device whose power plan lets the world of tag 5 switch domains, with a power request at the head of the mailbox. -/
def switching (body : Bytes) (p : Pwr) (c : Table ClockDomain) : State :=
  { asking 3 body {} with
    sections := [(secPowerplan, zeros 4 ++ leBytes 2 120 ++ zeros 8 ++ ([1] : Bytes)),
      (secClockplan, zeros 8 ++ List.replicate 16 255)]
    pwr := p, clocks := c }

theorem witness_SetState :
    (∃ (s w : State) (r : MboxReq), Serves s 3 1 r w ∧ 4 < byteAt r.body 1) ∧
    (∃ (s w : State) (r : MboxReq), Serves s 3 1 r w ∧ byteAt r.body 1 ≤ 4 ∧ pwrDomain (le r.body 2 2) = none) ∧
    (∃ (s w : State) (r : MboxReq) (k : PwrKind), Serves s 3 1 r w ∧ pwrDomain (le r.body 2 2) = some k ∧
      k.supports (byteAt r.body 1) = false) ∧
    (∃ (s w : State) (r : MboxReq) (k : PwrKind), Serves s 3 1 r w ∧ pwrDomain (le r.body 2 2) = some k ∧
      k.supports (byteAt r.body 1) = true ∧ byteAt r.body 1 = 0 ∧ w.secureUsers k ≠ [] ∧
      w.userAdmin r.tag (w.secureUsers k) = false) ∧
    (∃ (s w : State) (r : MboxReq) (k : PwrKind), Serves s 3 1 r w ∧ pwrDomain (le r.body 2 2) = some k ∧
      k.supports (byteAt r.body 1) = true ∧ w.clockMayRun k = true ∧ w.secureUsers k = [] ∧ w.notUser k r.tag = false) ∧
    (∃ (s w : State) (r : MboxReq) (k : PwrKind), Serves s 3 1 r w ∧ pwrDomain (le r.body 2 2) = some k ∧
      k.supports (byteAt r.body 1) = true ∧ w.clockMayRun k = true ∧ w.secureUsers k = [] ∧ w.notUser k r.tag = true) :=
  ⟨⟨switching [1, 5] {} [], _, request 3 [1, 5], ⟨by decide, by decide, by decide +kernel, rfl⟩, by decide +kernel⟩,
   ⟨switching [1, 4, 8] {} [], _, request 3 [1, 4, 8], ⟨by decide, by decide, by decide +kernel, rfl⟩, by decide +kernel⟩,
   ⟨switching [1, 3, 7] {} [], _, request 3 [1, 3, 7], .terrace 7, ⟨by decide, by decide, by decide +kernel, rfl⟩,
     by decide +kernel⟩,
   ⟨{ switching [1, 0, 0, 1] {} [] with banks := [(0, { curOwner := 0xC00, curFree := false })] }, _,
     request 3 [1, 0, 0, 1], .bank 0, ⟨by decide, by decide, by decide +kernel, rfl⟩, by decide +kernel⟩,
   ⟨switching [1, 2, 0x1C, 6] {} [], _, request 3 [1, 2, 0x1C, 6], .fountain,
     ⟨by decide, by decide, by decide +kernel, rfl⟩, by decide +kernel⟩,
   ⟨switching [1, 2, 0x12, 6] {} [], _, request 3 [1, 2, 0x12, 6], .cluster 2,
     ⟨by decide, by decide, by decide +kernel, rfl⟩, by decide +kernel⟩⟩

theorem witness_ApplyPower :
    (∃ s : State, (s.dom 7).cut = true ∧ s.pwr.clampState ≠ 0) ∧
    (∃ s : State, (s.dom 7).cut = false ∧ (s.dom 7).target = none ∧ s.domState 7 (.terrace 7) = 2 ∧
      s.domIdle (.terrace 7) 0 false = true) ∧
    (∃ s : State, (s.dom 0x612).cut = false ∧ (s.dom 0x612).target = none ∧ s.domState 0x612 (.cluster 2) = 2 ∧
      s.domIdle (.cluster 2) 0 false = false) ∧
    (∃ s : State, (s.dom 7).cut = false ∧ (s.dom 7).target = some 0) ∧
    (∃ (s w : State) (r : MboxReq), Serves s 3 2 r w) ∧
    (∃ (s w : State) (r : MboxReq), Serves s 3 3 r w ∧ w.powerAdmin r.tag = true ∧ le r.body 4 2 = 90 ∧
      90 ≤ le (w.sec secPowerplan) 4 2) ∧
    (∃ (s w : State) (r : MboxReq), Serves s 3 3 r w ∧ le r.body 4 2 = 89) ∧
    (∃ (s w : State) (r : MboxReq), Serves s 3 3 r w ∧ le (w.sec secPowerplan) 4 2 < le r.body 4 2) ∧
    (∃ s : State, s.live = true ∧ s.holdOf 7 = none) ∧
    (∃ (s : State) (x : PwrHold), s.live = true ∧ s.holdOf 0x100 = some x ∧ x.secure = true ∧ s.secureUsers (.bank 0) ≠ [] ∧
      s.userAdmin 0xC00 (s.secureUsers (.bank 0)) = true ∧ s.userAdmin 0xC01 (s.secureUsers (.bank 0)) = false ∧
      x.state ≠ 2 ∧ s.userAdmin x.tag (s.secureUsers (.bank 0)) = false ∧ x.released = false) ∧
    (∃ (s : State) (x : PwrHold), s.live = true ∧ s.holdOf 0x100 = some x ∧ x.secure = false ∧ s.secureUsers (.bank 0) ≠ [] ∧
      x.state ≠ 2 ∧ s.userAdmin x.tag (s.secureUsers (.bank 0)) = false ∧ x.released = false) ∧
    (∃ (s : State) (x : PwrHold), s.live = true ∧ s.holdOf 7 = some x ∧ x.secure = false) ∧
    (∃ s : State, s.live = true ∧ (s.dom 7).target = some 0 ∧ (s.dom 7).latchedOn = true) ∧
    (∃ s : State, s.live = true ∧ (s.dom 7).target = some 4 ∧ (s.dom 7).latchedOn = false) ∧
    (∃ s : State, s.live = true ∧ (s.dom 0x638).target = some 2) ∧
    (∃ s : State, s.live = true ∧ (s.dom 7).target = some 2) :=
  ⟨⟨{ up with pwr := { doms := [(7, { cut := true })], clampState := 2 } }, by decide⟩,
   ⟨switching [] {} [(8, { state := .on })], by decide +kernel⟩, ⟨switching [] {} [(65, { state := .on })], by decide +kernel⟩,
   ⟨{ up with pwr := { doms := [(7, { target := some 0 })] } }, by decide⟩,
   ⟨switching [2] {} [], _, request 3 [2], by decide, by decide, by decide +kernel, rfl⟩,
   ⟨switching [3, 0, 0, 0, 90] {} [], _, request 3 [3, 0, 0, 0, 90], ⟨by decide, by decide, by decide +kernel, rfl⟩,
     by decide +kernel⟩,
   ⟨switching [3, 0, 0, 0, 89] {} [], _, request 3 [3, 0, 0, 0, 89], ⟨by decide, by decide, by decide +kernel, rfl⟩,
     by decide +kernel⟩,
   ⟨switching [3, 0, 0, 0, 121] {} [], _, request 3 [3, 0, 0, 0, 121], ⟨by decide, by decide, by decide +kernel, rfl⟩,
     by decide +kernel⟩,
   ⟨up, by decide⟩,
   ⟨{ up with
       pwr := { holds := [{ domain := 0x100, secure := true }] }
       banks := [(0, { curOwner := 0xC01, curFree := false })]
       sections := [(secSluice, zeros 0x100 ++ ([1] : Bytes))] }, { domain := 0x100, secure := true }, by decide +kernel⟩,
   ⟨{ up with
       pwr := { holds := [{ domain := 0x100 }] }
       banks := [(0, { curOwner := 0xC01, curFree := false })]
       sections := [(secSluice, zeros 0x100 ++ ([1] : Bytes))] }, { domain := 0x100 }, by decide +kernel⟩,
   ⟨{ up with pwr := { holds := [{ domain := 7 }] } }, { domain := 7 }, by decide⟩,
   ⟨{ up with pwr := { doms := [(7, { target := some 0, latchedOn := true })] } }, by decide⟩,
   ⟨{ up with pwr := { doms := [(7, { target := some 4 })] } }, by decide⟩,
   ⟨{ up with pwr := { doms := [(0x638, { target := some 2 })] } }, by decide⟩,
   ⟨{ up with pwr := { doms := [(7, { target := some 2 })] } }, by decide⟩⟩

/-- A device whose firmware runs its loops over Terrace 7. -/
def looping (p : Pwr) : State :=
  { up with
    stm := { fwRunning := true }, clocks := [(8, { state := .on })], pwr := p
    sections := [(secPowerplan, zeros 8 ++ ([100, 105] : Bytes)),
      (secClockplan, zeros 4 ++ ([2] : Bytes) ++ zeros 0x3D ++ ([1, 0, 9, 0, 0, 0, 0, 0, 1, 0, 9, 0] : Bytes))] }

theorem witness_PowerLoops :
    (∃ s : State, s.live = true ∧ s.fwLoops = false) ∧
    (∃ s : State, s.live = true ∧ s.fwLoops = true ∧ s.terraceOn 7 = true ∧
      s.pointField (s.terr 7).point 2 ≤ s.pointField (s.terr 7).point 4 ∧
      hottest [] ((List.range 8).filter fun t =>
        s.terraceOn t && s.expressTerrace t == false && (s.terr t).point < s.slowest t) = some 7) ∧
    (∃ s : State, s.live = true ∧ s.fwLoops = true ∧ 10 * s.pwr.pkgLimit < 1 ∧
      ((List.range 8).filter fun t => s.terraceOn t && (s.terr t).point < s.slowest t) = []) ∧
    (∃ s : State, s.live = true ∧ ((s.reach 7).clampRead [] []).trigger = none ∧ (s.reach 7).pwr.clampState = 0) ∧
    (∃ s : State, s.live = true ∧ ((s.reach 7).clampRead [169] []).trigger = some 0 ∧ (s.reach 7).pwr.clampState = 0) ∧
    (∃ s : State, s.live = true ∧ (s.reach 7).pwr.clampState ≠ 0) ∧
    (∃ s : State, s.live = true ∧ s.pwr.clearNs = none) ∧
    (∃ s : State, s.live = true ∧ s.pwr.clearNs = some 4 ∧ s.pwr.clampState ≠ 0) ∧
    (∃ s : State, s.live = true ∧ s.stm.fwRunning = false) ∧
    (∃ s : State, s.live = true ∧ s.stm.fwRunning = true ∧ s.stm.wdogExpired = false) ∧
    (∃ s : State, s.live = true ∧ s.pwr.onBackup = true) ∧ (∃ s : State, s.live = true ∧ s.pwr.onBackup = false) ∧
    (∃ s : State, s.pwr.islandLost = true) :=
  ⟨⟨up, by decide⟩, ⟨looping {}, by decide +kernel⟩,
   ⟨{ up with stm := { fwRunning := true }, pwr := { pkgLimit := 0 } }, by decide +kernel⟩,
   ⟨looping {}, by decide +kernel⟩, ⟨looping {}, by decide +kernel⟩, ⟨looping { clampState := 1 }, by decide +kernel⟩,
   ⟨up, by decide⟩, ⟨looping { clampState := 1, clearNs := some 4 }, by decide⟩, ⟨up, by decide⟩, ⟨looping {}, by decide⟩,
   ⟨looping { onBackup := true }, by decide⟩, ⟨up, by decide⟩, ⟨looping { islandLost := true }, by decide⟩⟩

/-- A device whose firmware serves a request, in a boot phase. -/
def updating (service : BitVec 8) (body : Bytes) (b : Boot) (m : Stm) (clamp : Nat) : State :=
  { up with
    boot := b, pwr := { clampState := clamp }
    stm := { m with fwRunning := true, handshakes := [5], queue := [request service body] } }

theorem witness_FirmwareServices :
    (∃ (s w : State) (r : MboxReq), Serves s 4 (byteAt r.body 0) r w) ∧
    (∃ (s w : State) (r : MboxReq), Serves s 5 (byteAt r.body 0) r w ∧ w.boot.phase ≠ .ready ∧ w.boot.phase ≠ .safe) ∧
    (∃ (s w : State) (r : MboxReq), Serves s 5 (byteAt r.body 0) r w ∧ w.boot.phase = .safe ∧ w.reload.busy = true) ∧
    (∃ (s w : State) (r : MboxReq), Serves s 5 (byteAt r.body 0) r w ∧ w.boot.phase = .ready ∧ w.reload.busy = false ∧
      le r.body 0 4 = 255) ∧
    (∃ (s w : State) (r : MboxReq), Serves s 6 1 r w ∧ w.stm.fwState = 4) ∧
    (∃ (s w : State) (r : MboxReq), Serves s 6 1 r w ∧ w.stm.fwState = 5) ∧
    (∃ s : State, s.live = true ∧ s.stm.fwState ≠ 1) ∧
    (∃ (s : State) (c : Nat), s.live = true ∧ s.stm.fwState = 1 ∧ s.fwLoops = true ∧
      s.fwFault s.stm.fwImage s.stm.fwLen = some c) ∧
    (∃ (s w : State) (r : MboxReq), Serves s 6 2 r w ∧ w.stm.fwState ≠ 2) ∧
    (∃ (s w : State) (r : MboxReq), Serves s 6 2 r w ∧ w.stm.fwState = 2 ∧ w.pwr.clampState = 0) ∧
    (∃ (s w : State) (r : MboxReq), Serves s 6 2 r w ∧ w.stm.fwState = 2 ∧ w.pwr.clampState ≠ 0) ∧
    (∃ (s w : State) (r : MboxReq), Serves s 6 3 r w ∧ w.stm.fwState = 3) ∧
    (∃ (s w : State) (r : MboxReq), Serves s 6 3 r w ∧ w.stm.fwState = 4) ∧
    (∃ s : State, s.live = true ∧ s.stm.fwState = 3 ∧ s.fwLoops = true ∧ s.pwr.clampState = 0) ∧
    (∃ s : State, s.live = true ∧ s.stm.fwSwapped = false) ∧
    (∃ s : State, s.live = true ∧ s.stm.fwSwapped = true ∧ s.stm.wdogExpired = false) :=
  ⟨⟨updating 4 [] {} {} 0, _, request 4 [], by decide, by decide, by decide +kernel, rfl⟩,
   ⟨updating 5 [] {} {} 0, _, request 5 [], ⟨by decide, by decide, by decide +kernel, rfl⟩, by decide +kernel⟩,
   ⟨{ updating 5 [] { phase := .safe } {} 0 with reload := { state := .verifying } }, _, request 5 [],
     ⟨by decide, by decide, by decide +kernel, rfl⟩, by decide +kernel⟩,
   ⟨updating 5 [255] { phase := .ready } {} 0, _, request 5 [255], ⟨by decide, by decide, by decide +kernel, rfl⟩,
     by decide +kernel⟩,
   ⟨updating 6 [1] {} { fwState := 4 } 0, _, request 6 [1], ⟨by decide, by decide, by decide +kernel, rfl⟩, by decide +kernel⟩,
   ⟨updating 6 [1] {} { fwState := 5 } 0, _, request 6 [1], ⟨by decide, by decide, by decide +kernel, rfl⟩, by decide +kernel⟩,
   ⟨up, by decide⟩, ⟨updating 6 [1] {} { fwState := 1, fwLen := 9 } 0, 5, by decide, by decide, by decide, by decide +kernel⟩,
   ⟨updating 6 [2] {} {} 0, _, request 6 [2], ⟨by decide, by decide, by decide +kernel, rfl⟩, by decide +kernel⟩,
   ⟨updating 6 [2] {} { fwState := 2 } 0, _, request 6 [2], ⟨by decide, by decide, by decide +kernel, rfl⟩, by decide +kernel⟩,
   ⟨updating 6 [2] {} { fwState := 2 } 1, _, request 6 [2], ⟨by decide, by decide, by decide +kernel, rfl⟩, by decide +kernel⟩,
   ⟨updating 6 [3] {} { fwState := 3 } 0, _, request 6 [3], ⟨by decide, by decide, by decide +kernel, rfl⟩, by decide +kernel⟩,
   ⟨updating 6 [3] {} { fwState := 4 } 0, _, request 6 [3], ⟨by decide, by decide, by decide +kernel, rfl⟩, by decide +kernel⟩,
   ⟨updating 6 [3] {} { fwState := 3 } 0, by decide⟩, ⟨up, by decide⟩, ⟨updating 6 [3] {} { fwSwapped := true } 0, by decide⟩⟩

/-- A device 0 of a two-device ring whose ports are on, with these ports' states and peers. -/
def linked (m : Mwl) : State :=
  { up with
    sections := [(secMawyn, [0, 0, 0, 0, 1, 2, 0, 0, 15, 4])]
    clocks := (List.range 4).map (fun p => (57 + p, { state := .on })), mwl := m }

theorem witness_MawynLinks :
    (∃ s : State, s.live = true ∧ (s.mport 3).state ≠ .training ∧ (s.mport 3).state ≠ .failed ∧
      (s.mport 3).state ≠ .wrongPeer ∧ (s.mport 3).state.up = false) ∧
    (∃ s : State, s.live = true ∧ (s.mport 3).state = .training ∧ s.mportOn 3 = true) ∧
    (∃ s : State, s.live = true ∧ (s.mport 0).state = .failed) ∧
    (∃ s : State, s.live = true ∧ (s.mport 0).state.up = true ∧ le [1] 0 2 ≠ (s.mport 0).rxExpect) ∧
    (∃ s : State, s.live = true ∧ (s.mport 0).state.up = true ∧ le [0, 0, 0, 0, 5] 0 2 = (s.mport 0).rxExpect ∧
      bit (byteAt [0, 0, 0, 0, 5] 4) 0 = true ∧ bit (byteAt [0, 0, 0, 0, 5] 4) 2 = true) ∧
    (∃ s : State, s.live = true ∧ (s.mport 0).state.up = true ∧ le [0, 0, 0, 0, 1] 0 2 = (s.mport 0).rxExpect ∧
      bit (byteAt [0, 0, 0, 0, 1] 4) 2 = false ∧
      ∃ q, q = ((s.reach 5).now :: (s.mport 0).replayNs).take 65 ∧
        ∀ t, q[64]? = some t → t + 1000000 ≤ (s.reach 5).now) ∧
    (∃ s : State, s.live = true ∧ (s.mport 0).state.up = true ∧ le [0, 0, 0, 0, 1] 0 2 = (s.mport 0).rxExpect ∧
      ∃ q, q = ((s.reach 5).now :: (s.mport 0).replayNs).take 65 ∧
        ∃ t, q[64]? = some t ∧ (s.reach 5).now < t + 1000000) ∧
    (∃ (s : State) (f : Bytes), s.live = true ∧ Arrives (s.reach 5) 0x11 f ∧
      (tget ({} : MwlPeer) s.mwl.peers (byteAt f 3)).heard = true ∧
      le f 0x0C 4 = (tget ({} : MwlPeer) s.mwl.peers (byteAt f 3)).seq) ∧
    (∃ (s : State) (f : Bytes), s.live = true ∧ Arrives (s.reach 5) 0x11 f ∧
      (tget ({} : MwlPeer) s.mwl.peers (byteAt f 3)).heard = false) ∧
    (∃ s : State, s.live = true ∧ s.mawynOn = false) ∧ (∃ s : State, s.live = true ∧ s.mawynOn = true) ∧
    (∃ s : State, s.live = true ∧ (tget ({} : MwlPeer) s.mwl.peers 1).heard = false) ∧
    (∃ s : State, s.live = true ∧ (tget ({} : MwlPeer) s.mwl.peers 1).heard = true) :=
  ⟨⟨up, by decide⟩, ⟨linked { ports := [(3, { state := .training })] }, by decide +kernel⟩,
   ⟨linked { ports := [(0, { state := .failed })] }, by decide⟩,
   ⟨linked { ports := [(0, { state := .upX4 })] }, by decide⟩,
   ⟨linked { ports := [(0, { state := .upX8 })] }, by decide⟩,
   ⟨linked { ports := [(0, { state := .upX8 })] }, by decide, by decide, by decide, by decide, _, rfl,
     by intro t h; simp [linked, State.mport, tget] at h⟩,
   ⟨linked { ports := [(0, { state := .upX8, replayNs := List.replicate 64 7 })] }, by decide, by decide, by decide, _, rfl,
     7, by decide +kernel, by decide +kernel⟩,
   ⟨linked { peers := [(1, { heard := true })] }, [0x11, 0, 0, 1], by decide,
     ⟨by decide, by decide, by decide, by decide⟩, by decide⟩,
   ⟨linked {}, [0x11, 0, 0, 1], by decide, ⟨by decide, by decide, by decide, by decide⟩, by decide⟩,
   ⟨up, by decide⟩, ⟨linked {}, by decide⟩, ⟨up, by decide⟩, ⟨linked { peers := [(1, { heard := true })] }, by decide⟩⟩

/-- A message header with these first bytes. -/
def flit (b : Bytes) : Bytes := b ++ zeros (64 - b.length)

/-- A device 0 of a two-device ring with inbound window 0 onto the Pool bank and outbound window 0 to device 1. -/
def windowed (m : Mwl) : State :=
  { linked m with
    sections := [(secMawyn, ([0, 0, 0, 0, 1, 2, 0, 0, 15, 4] : Bytes) ++ zeros 54 ++ ([7, 1, 0, 0, 1] : Bytes) ++ zeros 2043
      ++ ([15, 0, 1, 2, 1, 0, 0, 0] : Bytes) ++ leBytes 8 poolBase)]
    slc := { (stored []).slc with regions := (stored []).slc.regions ++ [(32 * 18,
      { base := mawynBase, limit := 0xFFFFFFFFF000, rWorlds := 0xFFFF, valid := true })] }
    banks := (stored []).banks }

/-- The Mawyn layer with its link to device 1 up. -/
def reached (m : Mwl) : Mwl :=
  { m with ports := [(0, { state := .upX8 })], peers := [(1, { ports := 3, heard := true })], reach := 3 }

theorem witness_MawynMessages :
    (∃ s : State, s.mawynOn = false) ∧
    (∃ (s : State) (f : Bytes), s.mawynOn = true ∧ mwlMalformed f = true) ∧
    (∃ (s : State) (f : Bytes), s.mawynOn = true ∧ mwlMalformed f = false ∧ byteAt f 2 ≠ s.ownDevice ∧ s.nextPort f = none) ∧
    (∃ (s : State) (f : Bytes), s.mawynOn = true ∧ mwlMalformed f = false ∧ byteAt f 2 ≠ s.ownDevice ∧
      s.nextPort f = some 0) ∧
    (∃ (s : State) (f : Bytes), Arrives s 1 f ∧ s.inRefused f true = true) ∧
    (∃ (s : State) (f : Bytes) (acc : Access), Arrives s 1 f ∧ s.inRefused f true = false ∧
      s.blockAccess (fld (s.inField (fld (le f 8 2) 0 5) 2 2) 0 12) (fld (s.inField (fld (le f 8 2) 0 5) 8 8) 0 48 + le f 0x10 8)
        (le f 0x0A 2) true (slice [] 0 (le f 0x0A 2)) = some acc ∧ (s.access acc).resp.kind = .data) ∧
    (∃ (s : State) (f : Bytes) (t : MwlTxn), s.live = true ∧ Arrives s 3 f ∧ tfind s.mwl.txns (le f 4 2) = some t ∧
      t.dst = byteAt f 3 ∧ t.write = true) ∧
    (∃ (s : State) (f : Bytes) (t : MwlTxn), s.live = true ∧ Arrives s 4 f ∧ tfind s.mwl.txns (le f 4 2) = some t ∧
      t.dst = byteAt f 3 ∧ t.write = false) ∧
    (∃ (s : State) (f : Bytes), s.live = true ∧ Arrives s 3 f ∧ tfind s.mwl.txns (le f 4 2) = none) ∧
    (∃ (s : State) (f : Bytes) (t : MwlTxn), s.live = true ∧ Arrives s 5 f ∧ tfind s.mwl.txns (le f 4 2) = some t ∧
      t.dst = byteAt f 3) ∧
    (∃ (s : State) (f : Bytes), s.live = true ∧ Arrives s 0x10 f) :=
  ⟨⟨up, by decide⟩, ⟨linked {}, flit [6], by decide +kernel⟩, ⟨linked {}, flit [3, 0, 8, 8], by decide +kernel⟩,
   ⟨linked {}, flit [3, 0, 1], by decide +kernel⟩,
   ⟨linked {}, flit [1, 0, 0, 1, 0, 0, 0, 0, 0, 0, 1], ⟨by decide, by decide +kernel, by decide, by decide⟩, by decide +kernel⟩,
   ⟨windowed {}, flit [1, 0, 0, 1, 0, 0, 0, 0, 0, 0, 1], { sluice := 16, tag := 0x201, addr := poolBase, len := 1, write := true, data := [0] },
     ⟨by decide, by decide +kernel, by decide +kernel, by decide⟩, by decide +kernel⟩,
   ⟨linked { txns := [(0, { dst := 1, write := true })] }, flit [3, 0, 0, 1], { dst := 1, write := true }, by decide,
     ⟨by decide, by decide +kernel, by decide, by decide⟩, by decide +kernel⟩,
   ⟨linked { txns := [(0, { dst := 1 })] }, flit [4, 0, 0, 1], { dst := 1 }, by decide,
     ⟨by decide, by decide +kernel, by decide, by decide⟩, by decide +kernel⟩,
   ⟨linked {}, flit [3, 0, 0, 1], by decide, ⟨by decide, by decide +kernel, by decide, by decide⟩, by decide +kernel⟩,
   ⟨linked { txns := [(0, { dst := 1 })] }, flit [5, 0, 0, 1], { dst := 1 }, by decide,
     ⟨by decide, by decide +kernel, by decide, by decide⟩, by decide +kernel⟩,
   ⟨linked {}, flit [0x10, 0, 0, 1], by decide, by decide, by decide +kernel, by decide, by decide⟩⟩

theorem witness_MawynWindows :
    (∃ (s : State) (f : Bytes), s.live = true ∧ Arrives s 2 f ∧ s.inRefused f false = false) ∧
    (∃ s : State, s.live = true ∧ s.windowLets (63, 0) 1 true = false) ∧
    (∃ s : State, s.live = true ∧ s.windowLets (0, 4095) 1 true = true ∧
      (s.routeTo (s.outField 0 1 1)).bind (s.firstHop (s.outField 0 1 1)) = none) ∧
    (∃ s : State, s.live = true ∧ s.windowLets (0, 0) 1 true = true ∧
      (s.routeTo (s.outField 0 1 1)).bind (s.firstHop (s.outField 0 1 1)) = some 0 ∧
      s.judge { sluice := 25, tag := 0x201, addr := mawynBase, len := 1, write := true, data := [1], origin := .core 0 0x201 } =
        .deny 3) ∧
    (∃ s : State, s.live = true ∧ s.windowLets (0, 0) 1 false = true ∧
      (s.routeTo (s.outField 0 1 1)).bind (s.firstHop (s.outField 0 1 1)) = some 0 ∧
      s.judge { sluice := 25, tag := 0x201, addr := mawynBase, len := 1, origin := .core 0 0x201 } = .grant ∧
      s.behindHeld { sluice := 25, tag := 0x201, addr := mawynBase, len := 1, origin := .core 0 0x201 } = false) ∧
    (∃ s : State, s.live = true ∧ s.target mawynBase = .mawyn ∧
      s.judge { sluice := 25, tag := 0x201, addr := mawynBase, len := 1, origin := .core 0 0x201 } = .grant ∧
      s.behindHeld { sluice := 25, tag := 0x201, addr := mawynBase, len := 1, origin := .core 0 0x201 } = true) ∧
    (∃ s : State, s.live = true ∧ mawynBase ≤ 0xF00000000000 ∧ s.target 0xF00000000000 = .hole) ∧
    (∃ s : State, s.inRefused (flit [2, 0, 0, 1, 0, 0, 0, 0, 0, 0, 1]) false = false ∧
      s.blockAccess (fld (s.inField 0 2 2) 0 12) (fld (s.inField 0 8 8) 0 48) 1 false [] = none) ∧
    (∃ s : State, s.resp.kind = .error) ∧
    (∃ s : State, s.resp.kind = .held) ∧ (∃ s : State, s.resp.kind = .data) ∧
    (∃ s : State, s.live = true ∧ tfind s.mwl.txns 7 = none) ∧
    (∃ (s : State) (t : MwlTxn), s.live = true ∧ tfind s.mwl.txns 7 = some t) :=
  ⟨⟨windowed {}, flit [2, 0, 0, 1, 0, 0, 0, 0, 0, 0, 1], by decide, ⟨by decide, by decide +kernel, by decide +kernel, by decide⟩,
     by decide +kernel⟩,
   ⟨linked {}, by decide +kernel⟩, ⟨windowed {}, by decide +kernel⟩, ⟨windowed (reached {}), by decide +kernel⟩,
   ⟨windowed (reached {}), by decide +kernel⟩,
   ⟨{ windowed (reached {}) with slc := { (windowed {}).slc with held := [{ tag := 0x201, addr := mawynBase, len := 1 }] } },
     by decide +kernel⟩,
   ⟨linked {}, by decide +kernel⟩,
   ⟨{ windowed {} with
      sections := [(secMawyn, ((windowed {}).sec secMawyn).take 2120 ++ leBytes 8 0xF00000000000)] }, by decide +kernel⟩,
   ⟨{ up with resp := { kind := .error } }, rfl⟩, ⟨{ up with resp := { kind := .held } }, rfl⟩,
   ⟨{ up with resp := { kind := .data } }, rfl⟩,
   ⟨linked {}, by decide⟩, ⟨linked { txns := [(7, {})] }, {}, by decide, rfl⟩⟩

theorem witness_SupervisorFrames :
    (∃ s : State, s.live = true ∧ s.supAnswers = false) ∧
    (∃ (s : State) (x : SupFrame), s.live = true ∧ s.supAnswers = true ∧ crc32c (frameBytes 1 x) ≠ x.crc) ∧
    (∃ (s : State) (x : SupFrame), s.live = true ∧ s.supAnswers = true ∧ crc32c (frameBytes 1 x) = x.crc ∧ x.opcode = some 0x7F) ∧
    (∃ (s : State) (x : SupFrame), s.live = true ∧ s.supAnswers = true ∧ crc32c (frameBytes 1 x) = x.crc ∧ x.seq = 16) ∧
    (∃ (s : State) (x : SupFrame), s.live = true ∧ s.supAnswers = true ∧ crc32c (frameBytes 1 x) = x.crc ∧ x.cflags = 2) ∧
    (∃ (s : State) (x : SupFrame), s.live = true ∧ s.supAnswers = true ∧ crc32c (frameBytes 1 x) = x.crc ∧ x.cflags = 1) ∧
    (∃ (s : State) (x : SupFrame), s.live = true ∧ s.supAnswers = true ∧ crc32c (frameBytes 1 x) = x.crc ∧ x.res = 1) ∧
    (∃ (s : State) (x : SupFrame), s.live = true ∧ s.supAnswers = true ∧ crc32c (frameBytes 3 x) = x.crc ∧
      frameReserved 3 x = false ∧ s.boot.identityReadable = false) ∧
    (∃ (s : State) (x : SupFrame), s.live = true ∧ s.supAnswers = true ∧ crc32c (frameBytes 1 x) = x.crc ∧
      frameReserved 1 x = false ∧ (bare x && x.addr == 0) = false) :=
  ⟨⟨stepped 1, by decide⟩,
   ⟨stepped 2, spoiled 1 {}, by decide, by decide, spoiled_bad _ _⟩,
   ⟨stepped 2, sealed 1 { opcode := some 0x7F }, by decide, by decide, sealed_sound _ _, rfl⟩,
   ⟨stepped 2, sealed 1 { seq := 16 }, by decide, by decide, sealed_sound _ _, rfl⟩,
   ⟨stepped 2, sealed 1 { cflags := 2 }, by decide, by decide, sealed_sound _ _, rfl⟩,
   ⟨stepped 2, sealed 1 { cflags := 1 }, by decide, by decide, sealed_sound _ _, rfl⟩,
   ⟨stepped 2, sealed 1 { res := 1 }, by decide, by decide, sealed_sound _ _, rfl⟩,
   ⟨stepped 2, sealed 3 {}, by decide, by decide, sealed_sound _ _, rfl, rfl⟩,
   ⟨stepped 2, sealed 1 { addr := 1 }, by decide, by decide, sealed_sound _ _, rfl, rfl⟩⟩

theorem witness_SupervisorIslandCommands :
    (∃ x, Heard (stepped 2) 0x01 x ∧ bare x = true ∧ x.addr = 0) ∧
    (∃ x, Heard (stepped 2) 0x02 x ∧ x.length = 4 ∧ x.payload.length = 4) ∧
    (∃ (s : State) (x : SupFrame), Heard s 0x03 x ∧ bare x = true ∧ s.boot.identityReadable = true) ∧
    (∀ o ∈ [0x1028, 0x1038, 0x2018], ∃ x, Heard (stepped 2) 0x21 x ∧ x.length = 8 ∧ x.payload.length = 8 ∧
      ctlBase ≤ x.addr ∧ o = x.addr - ctlBase) ∧
    (∃ x, Heard (stepped 2) 0x21 x ∧ x.length = 8 ∧ x.payload.length = 8 ∧ ctlBase ≤ x.addr ∧
      (stepped 2).counterClear x.addr (leNat x.payload) = none) ∧
    (∃ x, Heard (stepped 2) 0x22 x ∧ x.length = 16 ∧ x.payload.length = 16 ∧ le x.payload 8 4 = 1000000000) ∧
    (∃ x, Heard (stepped 2) 0x22 x ∧ x.length = 16 ∧ x.payload.length = 16 ∧ byteAt x.payload 12 = 17) ∧
    (∃ x, Heard (stepped 2) 0x22 x ∧ x.length = 16 ∧ x.payload.length = 16 ∧ zeroAt x.payload 13 3 = false) ∧
    (∃ x, Heard (stepped 2) 0x22 x ∧ x.length = 16 ∧ x.payload.length = 16 ∧ le x.payload 8 4 = 999999999 ∧
      byteAt x.payload 12 = 16 ∧ zeroAt x.payload 13 3 = true) ∧
    (∃ s : State, (s.reach 5).timeMode ≠ 2) ∧ (∃ s : State, (s.reach 5).tmt.stepped = true) ∧
    (∃ s : State, (s.reach 5).timeMode = 2 ∧ (s.reach 5).tmt.stepped = false) ∧
    (∃ s : State, s.live = true ∧ s.supAnswers = false) ∧ (∃ s : State, s.live = true ∧ s.supAnswers = true) :=
  ⟨⟨_, heard_sealed (stepped 2) 1 {} rfl rfl rfl, rfl, rfl⟩,
   ⟨_, heard_sealed (stepped 2) 2 { length := 4, payload := [1, 2, 3, 4] } rfl rfl rfl, rfl, rfl⟩,
   ⟨{ up with boot := { step := 2, identityReadable := true } }, _, heard_sealed _ 3 {} rfl rfl rfl, rfl, rfl⟩,
   (by
     intro o _
     refine ⟨_, heard_sealed (stepped 2) 0x21 { length := 8, addr := ctlBase + o, payload := zeros 8 } rfl rfl ?_, rfl, rfl,
       ?_, ?_⟩
     · simp [frameReserved, sealed]
     · simp [sealed]
     · simp [sealed]),
   ⟨_, heard_sealed (stepped 2) 0x21 { length := 8, addr := ctlBase, payload := zeros 8 } rfl rfl rfl, rfl, rfl,
     Nat.le_refl _, by decide⟩,
   ⟨_, heard_sealed (stepped 2) 0x22
     { length := 16, payload := zeros 8 ++ [0, 0xCA, 0x9A, 0x3B, 0, 0, 0, 0] } rfl rfl rfl, rfl, rfl, by decide⟩,
   ⟨_, heard_sealed (stepped 2) 0x22 { length := 16, payload := zeros 12 ++ [17, 0, 0, 0] } rfl rfl rfl, rfl, rfl, by decide⟩,
   ⟨_, heard_sealed (stepped 2) 0x22 { length := 16, payload := zeros 12 ++ [16, 0, 0, 1] } rfl rfl rfl, rfl, rfl, by decide⟩,
   ⟨_, heard_sealed (stepped 2) 0x22
     { length := 16, payload := zeros 8 ++ [0xFF, 0xC9, 0x9A, 0x3B, 16, 0, 0, 0] } rfl rfl rfl, rfl, rfl, by decide, by decide,
     by decide⟩,
   ⟨up, by decide⟩, ⟨{ up with tmt := { stepped := true } }, by decide⟩,
   ⟨{ up with sections := [(secTtsched, zeros 12 ++ [2])] }, by decide⟩, ⟨stepped 1, by decide⟩, ⟨stepped 2, by decide⟩⟩

theorem witness_SupervisorTransfers :
    (∃ x, Heard (stepped 2) 0x08 x ∧ islandRange x = true ∧ regShape x = true ∧ x.payload = []) ∧
    (∃ x, Heard (stepped 3) 0x08 x ∧ islandRange x = false ∧ regShape x = true ∧ x.payload = []) ∧
    (∃ x, Heard (stepped 2) 0x09 x ∧ islandRange x = true ∧ regShape x = true ∧ x.payload.length = x.length) ∧
    (∃ x, Heard (stepped 3) 0x09 x ∧ islandRange x = false ∧ regShape x = true ∧ x.payload.length = x.length) ∧
    (∃ (s : State) (x : SupFrame), Heard s 0x0A x ∧ s.phaseUp = true ∧ memShape x = true ∧ x.payload = []) ∧
    (∃ (s : State) (x : SupFrame), Heard s 0x0B x ∧ s.phaseUp = true ∧ memShape x = true ∧ x.payload.length = x.length) ∧
    (∃ (s : State) (x : SupFrame), Heard s 0x11 x ∧ s.boot.repairUpdated = true ∧ memShape x = true ∧ x.payload = [] ∧
      x.addr + x.length = 16384) ∧
    (∃ s : State, (s.pathAccess 0 ctlBase 4 false [] false).answered = true) ∧
    (∃ s : State, (s.pathAccess 0 1 4 false [] false).answered = false) :=
  ⟨⟨_, heard_sealed (stepped 2) 8 { length := 256, addr := ctlBase } rfl rfl rfl, by decide, by decide, rfl⟩,
   ⟨_, heard_sealed (stepped 3) 8 { length := 4, addr := ctlBase + 0x4000 } rfl rfl rfl, by decide, by decide, rfl⟩,
   ⟨_, heard_sealed (stepped 2) 9 { length := 4, addr := ctlBase, payload := zeros 4 } rfl rfl rfl, by decide, by decide, rfl⟩,
   ⟨_, heard_sealed (stepped 3) 9 { length := 4, addr := ctlBase + 0x4000, payload := zeros 4 } rfl rfl rfl, by decide,
     by decide, rfl⟩,
   ⟨{ up with boot := { step := 12, phase := .ready } }, _, heard_sealed _ 0x0A { length := 64 } rfl rfl rfl, by decide,
     by decide, rfl⟩,
   ⟨{ up with boot := { step := 12, phase := .ready } }, _, heard_sealed _ 0x0B { length := 64, payload := zeros 64 } rfl rfl rfl,
     by decide, by decide, rfl⟩,
   ⟨{ up with boot := { step := 12, repairUpdated := true } }, _,
     heard_sealed _ 0x11 { length := 4096, addr := 12288 } rfl rfl rfl, by decide, by decide, rfl, by decide⟩,
   ⟨up, by decide +kernel⟩, ⟨up, by decide +kernel⟩⟩

theorem witness_ImageLoadChunks :
    (∃ (s : State) (x : SupFrame), Heard s 0x10 x ∧ s.loadsBoot = true ∧ chunkShape x = true) ∧
    (∃ (s : State) (x : SupFrame), Heard s 0x10 x ∧ s.loadsPartial = true ∧ chunkShape x = true) ∧
    (∃ (s : State) (x : SupFrame), s.sup.lastChunk = some (x.addr, x.length, x.crc)) ∧
    (∃ (s : State) (x : SupFrame), s.sup.lastChunk ≠ some (x.addr, x.length, x.crc) ∧ x.length = 0 ∧ x.addr = 0 ∧ x.cflags = 0) ∧
    (∃ x : SupFrame, x.addr = 0 ∧ x.length = 255) ∧
    (∃ x : SupFrame, x.addr = 0 ∧ x.length = 256 ∧ maxImage < imgLen x.payload) ∧
    (∃ x : SupFrame, x.addr = 0 ∧ x.length = 256 ∧ imgLen x.payload = 255 ∧ chunkFits x (imgLen x.payload) = false) ∧
    (∃ x : SupFrame, x.addr = 0 ∧ x.length = 256 ∧ imgLen x.payload = 256 ∧ chunkFits x (imgLen x.payload) = true) ∧
    (∃ x : SupFrame, x.addr = 64 ∧ 0 < x.length) ∧
    (∃ (s : State) (y : SupImage), s.sup.image = some y ∧ y.next = 256) ∧
    (∃ x : SupFrame, x.cflags = 1) ∧
    (∃ s : State, s.phaseUp = true ∧ s.reload.state ≠ .verifying ∧ s.reload.armed = false) ∧
    (∃ s : State, s.phaseUp = true ∧ s.reload.armed = true) ∧ (∃ s : State, s.phaseUp = false) :=
  ⟨⟨{ up with boot := { step := 4, phase := .load, supLoad := true } }, _,
     heard_sealed _ 0x10 { length := 64, payload := zeros 64 } rfl rfl rfl, by decide, by decide⟩,
   ⟨{ up with boot := { step := 12, phase := .ready } }, _, heard_sealed _ 0x10 {} rfl rfl rfl, by decide, by decide⟩,
   ⟨{ up with sup := { lastChunk := some (0, 0, 0) } }, {}, by decide⟩, ⟨up, {}, by decide⟩, ⟨{ length := 255 }, by decide⟩,
   ⟨{ length := 256, payload := List.replicate 256 255 }, by decide⟩,
   ⟨{ length := 256, payload := zeros 8 ++ [255] }, by decide⟩, ⟨{ length := 256, payload := zeros 8 ++ [0, 1] }, by decide⟩,
   ⟨{ addr := 64, length := 64 }, by decide⟩,
   ⟨{ up with sup := { image := some { partialImage := true, len := 512, next := 256 } } }, _, rfl, rfl⟩,
   ⟨{ cflags := 1 }, rfl⟩, ⟨{ up with boot := { phase := .ready } }, by decide⟩,
   ⟨{ up with boot := { phase := .ready }, reload := { armed := true } }, by decide⟩, ⟨up, by decide⟩⟩

theorem witness_SafeRequest :
    (∃ x, Heard (stepped 2) 0x20 x ∧ x.length = 0 ∧ x.payload = [] ∧ x.addr = 0x5AFE000D ∧
      (stepped 2).ilk.safeCause = 0 ∧ (stepped 2).ilk.asserted = false ∧ (stepped 2).ilk.headers = []) ∧
    (∃ (s : State) (x : SupFrame), Heard s 0x20 x ∧ x.length = 0 ∧ x.payload = [] ∧ x.addr = 0x5AFE000D ∧
      s.ilk.safeCause ≠ 0) ∧
    (∃ x, Heard (stepped 2) 0x20 x ∧ x.length = 0 ∧ x.payload = [] ∧ x.addr ≠ 0x5AFE000D) :=
  ⟨⟨_, heard_sealed (stepped 2) 0x20 { addr := 0x5AFE000D } rfl rfl rfl, rfl, rfl, rfl, rfl, rfl, rfl⟩,
   ⟨{ up with boot := { step := 2 }, ilk := { safeCause := 1 } }, _, heard_sealed _ 0x20 { addr := 0x5AFE000D } rfl rfl rfl,
     rfl, rfl, rfl, by decide⟩,
   ⟨_, heard_sealed (stepped 2) 0x20 {} rfl rfl rfl, rfl, rfl, by decide⟩⟩

/-- The device frozen by an event, with this test access port. -/
def halted (t : TapPort) : State := { up with tmt := { freeze := .frozen, freezeByEvent := true }, tapPort := t }

theorem witness_TapInstructions :
    (∃ s : State, s.boundaryInForce = true) ∧ (∃ s : State, s.tmt.freeze ≠ .frozen) ∧
    (∃ s : State, s.tmt.freeze = .frozen ∧ s.tapPort.shifted = 0 ∧ s.tapReadout = false ∧ s.tmt.freezeByEvent = true) ∧
    (∃ s : State, s.tmt.freeze = .frozen ∧ s.tapPort.shifted = 8191 ∧ chainLength s.tapPort.chain = 8192) ∧
    (∃ s : State, s.tmt.freeze = .frozen ∧ s.tmt.freezeByEvent = false) ∧
    (∃ s : State, s.storedWord 0x0100 0 = some (bankBase 0)) ∧
    (∃ s : State, ∃ k < 2, s.tapPort.memWord + k = memoryWords s.tapPort.memId) :=
  ⟨⟨halted { instr := 4 }, by decide⟩, ⟨up, by decide⟩, ⟨halted {}, by decide⟩,
   ⟨halted { chain := 72, shifted := 8191 }, by decide⟩, ⟨{ up with tmt := { freeze := .frozen } }, by decide⟩,
   ⟨{ up with banks := [(0, { pwrState := .on })] }, by decide +kernel⟩,
   ⟨halted { memId := 1, memWord := 32767 }, 1, by decide, by decide⟩⟩

theorem witness_DebugRequests :
    (∃ s : State, s.live = false) ∧
    (∃ s : State, s.live = true ∧ (s.hart 3).enclave ≠ 0 ∧ (s.enclave (s.hart 3).enclave).debug = false) ∧
    (∃ s : State, s.live = true ∧ (s.hart 3).enclave = 0 ∧ bit s.slc.dbgInv (s.debugWorld 3) = false ∧
      bit s.slc.dbgNonInv (s.debugWorld 3) = false) ∧
    (∃ s : State, s.live = true ∧ (s.hart 3).enclave = 0 ∧ bit s.slc.dbgInv (s.debugWorld 3) = true) ∧
    (∃ s : State, s.live = true ∧ (s.hart 3).enclave = 0 ∧ bit s.slc.dbgNonInv (s.debugWorld 3) = true) :=
  ⟨⟨{ up with pins := {} }, by decide⟩, ⟨{ up with slc := { harts := [(3, { enclave := 1 })] } }, by decide +kernel⟩,
   ⟨up, by decide +kernel⟩, ⟨{ up with slc := { dbgInv := 0xFFFF } }, by decide +kernel⟩,
   ⟨{ up with slc := { dbgNonInv := 0xFFFF } }, by decide +kernel⟩⟩

/-- A device whose stream 0 and Fountain are on, with this stream. -/
def showing (x : FtnStream) : State :=
  { up with clocks := [(70, { state := .on }), (53, { state := .on })], ftn := { streams := [(0, x)] } }
/-- A device whose Fountain may read Pool bank 0, with these strings stored in it and the layer list at its start. -/
def drawn (valid : Bool) (m : List (Nat × Bytes)) : State :=
  { showing { en := true, listBase := poolBase } with
    clocks := [(1, { state := .on }), (70, { state := .on }), (53, { state := .on })]
    sections := [(0x20, [1]), (secTags, zeros 0x16 ++ [1, 2])]
    banks := [(0, { ctlOwner := 0x201, ctlFree := false, ctlPwr := .on, curOwner := 0x201, curFree := false, pwrState := .on })]
    slc :=
      { regions := (List.range 26).map fun t =>
          (32 * t, { base := 0, limit := 0xFFFFFFFFF000, rWorlds := 0xFFFF, wWorlds := 0xFFFF, valid := true }) }
    tmt := { valid := valid }
    mem := m.foldl (fun x e => memWrite x e.1 e.2) [] }

/-- A layer descriptor of one pixel, with these flags and this RESULT_PTR. -/
def layerOf (flags ptr : Nat) : Bytes :=
  leBytes 4 flags ++ ([1, 0, 1, 0, 0, 0, 0, 0, 1, 0, 1, 0] : Bytes) ++ zeros 0x18 ++ leBytes 8 ptr ++ zeros 16

/-- A result header of this status without its CRC. -/
def resultHead (status : Byte) : Bytes := ([0x54, 0x53, 0x52, 1] : Bytes) ++ status :: zeros 55

theorem witness_DisplayBlanks :
    (∃ s : State, s.live = true ∧ s.streamOn 0 = false) ∧
    (∃ s : State, s.live = true ∧ s.streamOn 0 = true ∧ (s.stream 0).en = false) ∧
    (∃ s : State, s.live = true ∧ s.streamOn 0 = true ∧ (s.stream 0).en = true) ∧
    (∃ s : State, (s.devRead s.ftnTag ((s.stream 0).listBase + 64 * 7) 64).answered = false) ∧
    (∃ s v : State, v = s.devRead s.ftnTag ((s.stream 0).listBase + 64 * 7) 64 ∧ v.answered = true ∧
      bit (byteAt v.resp.bytes 0) 0 = false) ∧
    (∃ s v : State, v = s.devRead s.ftnTag ((s.stream 0).listBase + 64 * 0) 64 ∧ v.answered = true ∧
      bit (byteAt v.resp.bytes 0) 0 = true ∧ layerOk v.resp.bytes 1 1 = false) ∧
    (∃ s v : State, v = s.devRead s.ftnTag ((s.stream 0).listBase + 64 * 0) 64 ∧ v.answered = true ∧
      bit (byteAt v.resp.bytes 0) 0 = true ∧ layerOk v.resp.bytes 1 1 = true ∧ bit (byteAt v.resp.bytes 0) 1 = false) :=
  ⟨⟨up, by decide⟩, ⟨showing {}, by decide⟩, ⟨showing { en := true }, by decide⟩, ⟨showing { en := true }, by decide +kernel⟩,
   ⟨drawn true [], _, rfl, by decide +kernel⟩, ⟨drawn true [(poolBase, [9])], _, rfl, by decide +kernel⟩,
   ⟨drawn true [(poolBase, layerOf 1 0)], _, rfl, by decide +kernel⟩⟩

theorem witness_DisplayBlanks_age :
    (∃ s v z : State, v = s.devRead s.ftnTag ((s.stream 0).listBase + 64 * 0) 64 ∧ v.answered = true ∧
      bit (byteAt v.resp.bytes 0) 0 = true ∧ layerOk v.resp.bytes 1 1 = true ∧ bit (byteAt v.resp.bytes 0) 1 = true ∧
      z = v.devRead v.ftnTag (le v.resp.bytes 0x28 8 % 2 ^ 48) 64 ∧ z.answered = true ∧ z.tmt.valid = true ∧
      le z.resp.bytes 0 4 = 0x01525354 ∧ le z.resp.bytes 0x3C 4 = crc32c (slice z.resp.bytes 0 0x3C) ∧
      byteAt z.resp.bytes 4 = 0xA5 ∧
      z.now = le z.resp.bytes 0x10 8 * 1000000000 + le z.resp.bytes 0x18 4 + 64 * le z.resp.bytes 0x20 4) ∧
    (∃ s v z : State, v = s.devRead s.ftnTag ((s.stream 0).listBase + 64 * 0) 64 ∧ v.answered = true ∧
      bit (byteAt v.resp.bytes 0) 0 = true ∧ layerOk v.resp.bytes 1 1 = true ∧ bit (byteAt v.resp.bytes 0) 1 = true ∧
      z = v.devRead v.ftnTag (le v.resp.bytes 0x28 8 % 2 ^ 48) 64 ∧ z.tmt.valid = false) :=
  ⟨⟨drawn true [(poolBase, layerOf 3 (poolBase + 64)),
      (poolBase + 64, resultHead 0xA5 ++ leBytes 4 (crc32c (resultHead 0xA5)))], _, _, rfl,
      by decide +kernel, by decide +kernel, by decide +kernel, by decide +kernel, rfl, by decide +kernel, by decide +kernel,
      by decide +kernel, by decide +kernel, by decide +kernel, by decide +kernel⟩,
   ⟨drawn false [(poolBase, layerOf 3 (poolBase + 64))], _, _, rfl,
      by decide +kernel, by decide +kernel, by decide +kernel, by decide +kernel, rfl, by decide +kernel⟩⟩

theorem witness_StepRunsFrontCommand :
    (∃ s : State, s.pending = [] ∧ s.pins.porstN = true ∧ s.tmt.freeze = .running) ∧
    (∃ s : State, s.pending = [] ∧ s.pins.porstN = false) ∧ (∃ s : State, s.pending = [] ∧ s.tmt.freeze ≠ .running) :=
  ⟨⟨up, by decide⟩, ⟨State.reset, by decide⟩, ⟨halted {}, by decide⟩⟩

theorem witness_EveryCommandCompletes :
    ∃ (c : Instr) (s : State), c ≠ .porstNAssert ∧ c ≠ .resetNAssert ∧ s.ilk.safeCause ≠ 0 ∧ s.ilk.asserted = true :=
  ⟨.idcode, { up with ilk := { safeCause := 13, asserted := true } }, by decide⟩

theorem witness_NothingActsWhileStopped :
    (∃ s : State, s.pins.porstN = false) ∧ (∃ s : State, s.pins.resetN = false) ∧ (∃ s : State, s.tmt.freeze = .frozen) ∧
    (∃ s : State, s.pwr.islandLost = true) ∧ alwaysActs .safeNAssert = false :=
  ⟨⟨State.reset, by decide⟩, ⟨{ up with pins := { resetN := false } }, by decide⟩, ⟨halted {}, by decide⟩,
   ⟨{ up with pwr := { islandLost := true } }, by decide⟩, by decide⟩

theorem witness_OnlyTheInterlockingReleasesSafeN :
    (∃ s t : State, Inv s ∧ step s = .next t ∧ s.pins.safeNCmd = false ∧ t.pins.safeNCmd = true) ∧
    (∃ s t : State, Inv s ∧ step s = .next t ∧ s.pins.safeNCmd = false ∧ s.boot.phase ≠ .ready) ∧
    (∃ s t : State, Inv s ∧ step s = .next t ∧ t.pins.porstN = false) :=
  ⟨⟨{ up with
      pending := [.safeNRelease]
      boot := { phase := .ready, ilkState := .waitTime, ilkVerified := true, selftestPassed := true, goldenPassed := true }
      tmt := { valid := true }, ilk := { lockstep := true } }, _,
     ⟨by decide, by intro h; exact absurd h (by decide), by decide⟩, rfl, by decide, by decide +kernel⟩,
   ⟨up, _, ⟨by decide, by intro h; exact absurd h (by decide), by decide⟩, rfl, by decide, by decide⟩,
   ⟨State.reset, _, ⟨by decide, by intro h; exact absurd h (by decide), by decide⟩, rfl, by decide +kernel⟩⟩

theorem witness_EveryStepKeepsInv :
    ∃ s t : State, Inv s ∧ step s = .next t ∧ s.ilk.asserted = true ∧ s.mem = [(4, 1)] ∧ s.pending = [.vddIoLoss] :=
  ⟨{ up with
      pending := [.vddIoLoss], mem := [(4, 1)], ilk := { safeCause := 1, asserted := true }
      pins := { porstN := true, safeNCmd := false } }, _,
   ⟨by decide, by intro _; exact ⟨by decide, by decide⟩, by decide⟩, rfl, rfl, rfl, rfl⟩

/-! ### Well-formed terms -/

/-- A term of each of these commands that every check accepts. -/
theorem test_well_formed_1 :
    (([
    .porstNAssert, .resetNAssert, .resetRelease false 0 false false false false {}, .imageStaged false [],
    .stmVerifyDone false, .memoryTrainingDone false {} [], .ilkVerifyDone false, .slice0Handoff,
    .startupSelftestDone none, .startupGoldenDone 0, .safeNRelease, .repairWriteBack, .reloadVerifyDone false,
    .ttschedSwap, .consisttplSwap, .rulesSwap, .rulesRetire, .clockMonitorWindow [] [] (List.replicate 4 0),
    .refClkLoss, .vddIoLoss, .sluiceAccess {} false, .bankAccess 0 {}, .tapRecordReceive {} (zeros 16) 0,
    .listStart 0 0 0 0 0 0, .nop 0, .dma {}, .matmul 0, .conv 0, .attn {}, .rill 0, .transpose {}, .jet 0,
    .barrier 0, .haloSignal 0, .haloSignalDeliver 0, .haloWait 0, .haloTimeout 0, .tapFlush 0, .perfMark 0,
    .setrnd 0, .endList 0, .tapTimeout 0, .listComplete 0 0, .stopRequest 0, .rankStopped 0 0, .pmuClear 0,
    .pmuOverflow 0 0 0 0 false, .bankScrubHandover 0 {}, .bankTransfer 0 {}, .bankPwrChange 0 {} false,
    .handoverComplete 0, .powerTransitionDone 0, .sweepRegionTest 0 false [], .marchStart 0 0, .marchDone 0 [] [] [],
    .dramRetrain 0, .tailWrite (.tag 0) 0 1 0 false, .graphAdmit 0, .headWriteError 0, .arm 0 false] : List Instr).all fun c => wellFormed c) = true := by decide +kernel

/-- A term of each of these commands that every check accepts. -/
theorem test_well_formed_2 :
    (([
    .cancel 0, .disarm 0, .nodeComplete 0 0, .completionInterrupt 0, .safetyDispatch, .nodeDeadline 0,
    .tokenCfgWrite 0 0, .tokenGenWrite 0 0, .tokenValueWrite 0 0, .contextBind 0, .quantumTick 0,
    .preemptRanksStopped, .preemptMovesDone 0 {}, .teardown 1 0 0 0, .teardownRanksStopped 1, .teardownScrubDone 1,
    .leaseCheck, .kick 1 0, .cstBankPwr 1 0, .ttbSlowClear 0, .preemptClear, .mboxTake 0 (zeros 8), .version,
    .consistCreate, .consistDestroy, .consistReset, .setWeight, .logStart, .logFlip, .logStop, .logSyncDone 1,
    .quiesce, .quiesceDone 1, .resume, .kvcReqTake 1 (zeros 8), .kvcCreate, .kvcFork, .kvcAppend, .kvcTruncate,
    .kvcPublish, .kvcFree, .kvcPin, .kvcUnpin, .kvcEvict, .kvcQuery, .pageReclaim, .walkerPinGrant 0,
    .kvSpaceValid 0 1, .kvSpaceInvalidate 0 0, .kvcEnable 0, .planTree 0 0, .planMap 0 0, .planLattice 0 0,
    .check 0 0, .commitDynamic 0 0, .commitStatic 0 0, .loadVehicle 0 0, .commitSwap 0, .searchEnd 0 0 0 0,
    .yield 0 0 0 0] : List Instr).all fun c => wellFormed c) = true := by decide +kernel

/-- A term of each of these commands that every check accepts. -/
theorem test_well_formed_3 :
    (([
    .routeJobDone 0 false 0, .worldOwnerWrite 0 0, .rtsOverrunClear 0 0, .resultHandover, .resultRelease false false,
    .resultHeaderAck, .headwayExpire 1, .selftestSliceStart, .selftestSliceEnd false, .safeNReadback false,
    .lockstepMismatch, .checkerMismatch 0, .islandEcc 0, .rtcMismatch 0, .debugInvasive, .safeNAssert,
    .sluiceProbe 0 false false, .gptpSync 0 0 0 0 0 false 0, .pdelayReq 0 0 0 0, .pdelayResp 0 0 0 0 0 0,
    .pdelayInterval 0, .syncInterval 0, .syncTimeout, .holdoverTimeout, .mawynTimeSync 0, .timetableEvent,
    .triggerEdge 0, .triggerPulseEnd 0, .captureEdge 0 false 0 0, .frameStart 0 0 0, .linePacket 0 0 0 [] false 0,
    .frameEnd 0 0, .lineAck 0 0 0, .lineTimeout 0, .lineWriteDenied 0 0 0, .freeze, .freezeGated, .freezeRelease,
    .tmtNowRead 0, .capFifoPop 0, .frameReceive 0 {} 0 0, .aggTimeout 0 0, .queueSlotAck 0, .queueIndexAck 0,
    .txIndexWrite (.tag 0) 0 1 0 false, .txSlotRead 0 0 0, .commit 0 false, .entryRead 0, .resetCount 0,
    .qEnable 0 0, .qDisable 0, .canBusOffRecovery 0, .jctOutbound 0 0 0 1 false [], .jctCompletion 0 0 0 [] false,
    .cplTimeout 0 0, .tagQuarantineEnd 0 0, .jctInbound 0 0 0 1 false [] false, .lr 0 0 0 0 4, .sc 0 0 0 0 (zeros 4),
    .amo 0 0 0 0 4 0 0 0 false] : List Instr).all fun c => wellFormed c) = true := by decide +kernel

/-- A term of each of these commands that every check accepts. -/
theorem test_well_formed_4 :
    (([
    .reservationTimeout, .pageReqTake 0 (zeros 8), .assign, .setShare, .pageFree, .pageHandoverDone,
    .enclaveCreate 0 1 false, .enclaveAdd 0 1 0 0 1, .enclaveSeal 0 1, .enclaveDestroy 0 1, .enclaveSelect 0 0 1,
    .gateMark 0 {}, .gateEnter 0 .machine 0 0 0 0 {}, .gateExit 0 {}, .asyncExit 0 0 {}, .dbgEnWrite 0 0,
    .secureRel 0 0 false, .regionEntryWrite 0 0 0 (zeros 32), .memoryStatus, .reload, .setState false false,
    .powerQuery, .setPkgLimit, .powerHeldProceed 0 false, .domainShutdownDone 0, .domainPowerUpDone 0,
    .dvfsLoop (List.replicate 8 0) (List.replicate 8 0), .pkgPowerLoop 0 (List.replicate 8 0), .thermalStep 0 0,
    .clampSample (List.replicate 32 0) (List.replicate 22 0) 0, .clampIdle, .fwLoad, .fwVerifyDone, .activate,
    .fwAbort, .fwSwap, .fwCopyDone, .watchdogExpire, .islandSupplySwitch, .backupSupplyLow, .islandSupplyLoss,
    .linkTrainingDone 0 0 0 0 0, .linkRetry 0, .controlSlotTimeout 0, .blockReceive 0 false false (zeros 64) 0,
    .write (zeros 64) [], .read (zeros 64), .writeAck (zeros 64), .readData (zeros 64) [], .error (zeros 64),
    .token (zeros 64), .linkState (zeros 64) 0, .linkStateInterval, .linkStateTimeout 0,
    .apertureAccess 0 0 0 1 false [], .txnTimeout 0, .statusRead {}, .heartbeat {}, .identityRead {},
    .regRead {} .met] : List Instr).all fun c => wellFormed c) = true := by decide +kernel

/-- A term of each of these commands that every check accepts. -/
theorem test_well_formed_5 :
    (([
    .regWrite {} .met false, .memRead {} .met, .memWrite {} .met, .imageLoad {} .met, .repairRead {} .met,
    .safeRequest {}, .counterClear {}, .timeSet {} 0, .timeSetLapse, .transactionAbort,
    .verticalBlank 0 0 0 0 false 0, .extest, .idcode, .samplePreload, .clamp, .highz, .freezeStatus, .scanSelect 0,
    .scanRead 0, .tapMemSelect 0, .tapMemRead 0, .release, .debug 0 0, .bypass 0 0, .registerWrite (.csr 0 0 0 0),
    .uncorrectableHeader 0, .pcieLinkUp 0 false] : List Instr).all fun c => wellFormed c) = true := by decide +kernel

/-- Terms just out of the range of one check each, which that check refuses. -/
theorem test_ill_formed_1 :
    (([
    .resetRelease false 4 false false false false {},
    .resetRelease false 0 false false false false { rows := [(1023, 0)] },
    .resetRelease false 0 false false false false { rows := [(1056, 0)] },
    .resetRelease false 0 false false false false { rows := [(1024, 512)] },
    .resetRelease false 0 false false false false { badSpares := [(1056, 0)] },
    .resetRelease false 0 false false false false { badSpares := [(1024, 5)] },
    .resetRelease false 0 false false false false { badSweepRows := [1023] },
    .resetRelease false 0 false false false false { badSweepRows := [1056] },
    .memoryTrainingDone false { rows := [(1280, 0)] } [], .memoryTrainingDone false { rows := [(0, 512)] } [],
    .memoryTrainingDone false { badSpares := [(1280, 0)] } [],
    .memoryTrainingDone false { badSpares := [(0, 5)] } [], .memoryTrainingDone false {} [1280],
    .startupSelftestDone (some 10), .clockMonitorWindow [(0, 0)] [] (List.replicate 4 0),
    .clockMonitorWindow [(73, 0)] [] (List.replicate 4 0), .clockMonitorWindow [] [36] (List.replicate 4 0),
    .clockMonitorWindow [] [61] (List.replicate 4 0), .clockMonitorWindow [] [] (List.replicate 5 0),
    .sluiceAccess { core := some { hart := 20 } } false, .sluiceAccess { sluice := 33 } false,
    .sluiceAccess { tag := 4096 } false, .sluiceAccess { addr := 2^48 } false, .bankAccess 1280 {},
    .bankAccess 0 { tag := 4096 }, .bankAccess 0 { off := 131072, len := 1 },
    .tapRecordReceive { basin := 64 } (zeros 16) 0, .tapRecordReceive { port := 64 } (zeros 16) 0,
    .tapRecordReceive {} (zeros 15) 0, .tapRecordReceive {} (zeros 16) 65536, .listStart 64 0 0 0 0 0,
    .listStart 0 (2^48) 0 0 0 0, .listStart 0 0 (2^14) 0 0 0, .listStart 0 0 0 4096 0 0, .listStart 0 0 0 0 (2^18) 0,
    .listStart 0 0 0 0 0 (2^16), .nop 64, .dma { basin := 64 }, .matmul 64, .conv 64, .attn { basin := 64 },
    .rill 64, .transpose { basin := 64 }, .jet 64, .barrier 64, .haloSignal 64, .haloSignalDeliver 64, .haloWait 64,
    .haloTimeout 64, .tapFlush 64, .perfMark 64, .setrnd 64, .endList 64, .tapTimeout 64, .listComplete 64 0,
    .stopRequest 64, .rankStopped 64 0, .pmuClear 96, .pmuOverflow 96 0 0 0 false, .pmuOverflow 0 4 0 0 false] : List Instr).all fun c => !wellFormed c) = true := by decide +kernel

/-- Terms just out of the range of one check each, which that check refuses. -/
theorem test_ill_formed_2 :
    (([
    .pmuOverflow 0 0 65536 0 false, .pmuOverflow 0 0 0 5 false, .bankScrubHandover 1280 {},
    .bankScrubHandover 0 { value := 2^32 }, .bankTransfer 1280 {}, .bankTransfer 0 { value := 2^32 },
    .bankPwrChange 1280 {} false, .bankPwrChange 0 { value := 2^32 } false, .handoverComplete 1280,
    .powerTransitionDone 1280, .sweepRegionTest 1280 false [], .sweepRegionTest 0 false [32], .marchStart 72 0,
    .marchStart 0 (2^32), .marchDone 72 [] [] [], .dramRetrain 8, .tailWrite (.tag 4096) 0 1 0 false,
    .tailWrite (.hart 20 .machine) 0 1 0 false, .tailWrite (.tag 0) (2^48) 1 0 false,
    .tailWrite (.tag 0) 0 0 0 false, .tailWrite (.tag 0) 0 257 0 false, .graphAdmit 1024, .headWriteError 1024,
    .arm 1024 false, .cancel 1024, .disarm 1024, .nodeComplete (2^14) 0, .nodeComplete 0 (2^16),
    .nodeDeadline (2^18), .tokenCfgWrite 260 0, .tokenCfgWrite 0 (2^32), .tokenGenWrite 260 0,
    .tokenGenWrite 0 (2^32), .tokenValueWrite 260 0, .tokenValueWrite 0 (2^32), .contextBind 16, .quantumTick 16,
    .preemptMovesDone (2^14) {}, .teardown 0 0 0 0, .teardown 256 0 0 0, .teardown 1 0 64 0, .teardown 1 0 0 (2^18),
    .teardownRanksStopped 0, .teardownRanksStopped 256, .teardownScrubDone 0, .teardownScrubDone 256, .kick 0 0,
    .kick 256 0, .kick 1 4096, .cstBankPwr 0 0, .cstBankPwr 256 0, .cstBankPwr 1 (2^32), .ttbSlowClear (2^32),
    .mboxTake 4096 (zeros 8), .mboxTake 0 (zeros 7), .logSyncDone 0, .logSyncDone 256, .quiesceDone 0,
    .quiesceDone 256, .kvcReqTake 0 (zeros 8)] : List Instr).all fun c => !wellFormed c) = true := by decide +kernel

/-- Terms just out of the range of one check each, which that check refuses. -/
theorem test_ill_formed_3 :
    (([
    .kvcReqTake 256 (zeros 8), .kvcReqTake 1 (zeros 7), .walkerPinGrant 64, .kvSpaceValid 256 1,
    .kvSpaceValid 0 (2^32), .kvSpaceValid 0 0, .kvSpaceInvalidate 256 0, .kvSpaceInvalidate 0 (2^32),
    .kvSpaceInvalidate 0 1, .kvcEnable (2^32), .planTree 2 0, .planTree 0 3, .planMap 2 0, .planMap 0 3,
    .planLattice 2 0, .planLattice 0 3, .check 2 0, .check 0 3, .commitDynamic 2 0, .commitDynamic 0 3,
    .commitStatic 2 0, .commitStatic 0 3, .loadVehicle 2 0, .loadVehicle 0 3, .commitSwap 2, .searchEnd 2 0 0 0,
    .searchEnd 0 (2^32) 0 0, .searchEnd 0 0 5 0, .searchEnd 0 0 0 3, .yield 2 0 0 0, .yield 0 (2^32) 0 0,
    .yield 0 0 5 0, .yield 0 0 0 3, .routeJobDone 2 false 0, .worldOwnerWrite 2 0, .worldOwnerWrite 0 (2^32),
    .rtsOverrunClear 2 0, .rtsOverrunClear 0 (2^32), .headwayExpire 0, .headwayExpire 128, .checkerMismatch 65536,
    .islandEcc 65536, .rtcMismatch 2, .sluiceProbe 33 false false, .gptpSync 10 0 0 0 0 false 0,
    .gptpSync 0 256 0 0 0 false 0, .gptpSync 0 0 (2^64) 0 0 false 0, .pdelayReq 10 0 0 0, .pdelayReq 0 256 0 0,
    .pdelayReq 0 0 65536 0, .pdelayResp 10 0 0 0 0 0, .pdelayResp 0 256 0 0 0 0, .pdelayResp 0 0 65536 0 0 0,
    .pdelayResp 0 0 0 1 0 0, .triggerEdge 32, .triggerPulseEnd 32, .captureEdge 16 false 0 0, .frameStart 16 0 0,
    .frameStart 0 16 0, .linePacket 16 0 0 [] false 0] : List Instr).all fun c => !wellFormed c) = true := by decide +kernel

/-- Terms just out of the range of one check each, which that check refuses. -/
theorem test_ill_formed_4 :
    (([
    .linePacket 0 16 0 [] false 0, .linePacket 0 0 64 [] false 0, .linePacket 0 0 0 (zeros 65536) false 0,
    .frameEnd 16 0, .frameEnd 0 16, .lineAck 16 0 0, .lineAck 0 (2^32) 0, .lineAck 0 0 65536, .lineTimeout 16,
    .lineWriteDenied 16 0 0, .lineWriteDenied 0 (2^32) 0, .lineWriteDenied 0 0 65536, .tmtNowRead 260,
    .capFifoPop 16, .frameReceive 32 {} 0 0, .frameReceive 0 {} (2^64) 0, .frameReceive 0 { kind := 4 } 0 0,
    .aggTimeout 4096 0, .aggTimeout 0 (2^64), .queueSlotAck 32, .queueIndexAck 32,
    .txIndexWrite (.tag 4096) 0 1 0 false, .txIndexWrite (.hart 20 .machine) 0 1 0 false,
    .txIndexWrite (.tag 0) (2^48) 1 0 false, .txIndexWrite (.tag 0) 0 0 0 false,
    .txIndexWrite (.tag 0) 0 257 0 false, .txSlotRead 32 0 0, .txSlotRead 0 (2^64) 0, .commit 260 false,
    .entryRead 260, .resetCount 260, .qEnable 32 0, .qEnable 0 (2^64), .qDisable 32, .canBusOffRecovery 16,
    .jctOutbound 0 4096 0 1 false [], .jctOutbound 0 0 0 0 false [], .jctCompletion 3 0 0 [] false,
    .jctCompletion 0 256 0 [] false, .jctCompletion 0 0 5 [] false, .cplTimeout 3 0, .cplTimeout 0 256,
    .tagQuarantineEnd 3 0, .tagQuarantineEnd 0 256, .jctInbound 2 0 0 1 false [] false,
    .jctInbound 0 65536 0 1 false [] false, .jctInbound 0 0 0 0 false [] false, .lr 0 4096 0 0 4, .lr 0 0 0 0 5,
    .lr 0 0 0 2 4, .sc 0 4096 0 0 (zeros 4), .sc 0 0 0 0 (zeros 5), .sc 0 0 0 2 (zeros 4),
    .amo 0 4096 0 0 4 0 0 0 false, .amo 0 0 0 0 5 0 0 0 false, .amo 0 0 0 2 4 0 0 0 false,
    .amo 0 0 0 0 4 9 0 0 false, .pageReqTake 4096 (zeros 8), .pageReqTake 0 (zeros 7), .enclaveCreate 4096 1 false] : List Instr).all fun c => !wellFormed c) = true := by decide +kernel

/-- Terms just out of the range of one check each, which that check refuses. -/
theorem test_ill_formed_5 :
    (([
    .enclaveCreate 0 0 false, .enclaveCreate 0 64 false, .enclaveAdd 4096 1 0 0 1, .enclaveAdd 0 0 0 0 1,
    .enclaveAdd 0 64 0 0 1, .enclaveAdd 0 1 4 0 1, .enclaveAdd 0 1 0 (2^25) 1, .enclaveAdd 0 1 0 0 0,
    .enclaveAdd 0 1 0 0 65537, .enclaveSeal 4096 1, .enclaveSeal 0 0, .enclaveSeal 0 64, .enclaveDestroy 4096 1,
    .enclaveDestroy 0 0, .enclaveDestroy 0 64, .enclaveSelect 0 4096 1, .enclaveSelect 0 0 0, .enclaveSelect 0 0 64,
    .gateMark 20 {}, .gateEnter 20 .machine 0 0 0 0 {}, .gateEnter 0 .machine 32 0 0 0 {},
    .gateEnter 0 .machine 0 32 0 0 {}, .gateEnter 0 .machine 0 0 32 0 {}, .gateExit 20 {}, .asyncExit 20 0 {},
    .dbgEnWrite 4096 0, .dbgEnWrite 0 (2^32), .secureRel 4096 0 false, .secureRel 0 65536 false,
    .regionEntryWrite 4096 0 0 (zeros 32), .regionEntryWrite 0 26 0 (zeros 32), .regionEntryWrite 0 0 32 (zeros 32),
    .regionEntryWrite 0 0 0 (zeros 31), .powerHeldProceed 65536 false, .domainShutdownDone 65536,
    .domainPowerUpDone 65536, .dvfsLoop (List.replicate 9 0) (List.replicate 8 0),
    .dvfsLoop (List.replicate 8 0) (List.replicate 9 0), .dvfsLoop (List.replicate 8 0) (256 :: List.replicate 7 0),
    .pkgPowerLoop 4096 (List.replicate 8 0), .pkgPowerLoop 0 (List.replicate 9 0), .thermalStep 8 0,
    .thermalStep 0 256, .clampSample (List.replicate 33 0) (List.replicate 22 0) 0,
    .clampSample (256 :: List.replicate 31 0) (List.replicate 22 0) 0,
    .clampSample (List.replicate 32 0) (List.replicate 23 0) 0,
    .clampSample (List.replicate 32 0) (3 :: List.replicate 21 0) 0, .linkTrainingDone 4 0 0 0 0,
    .linkTrainingDone 0 256 0 0 0, .linkTrainingDone 0 0 (2^64) 0 0, .linkTrainingDone 0 0 0 64 0,
    .linkTrainingDone 0 0 0 0 4, .linkRetry 4, .controlSlotTimeout 4, .blockReceive 4 false false (zeros 64) 0,
    .blockReceive 0 false false (zeros 63) 0, .write (zeros 63) [], .write (zeros 64) (zeros 257), .read (zeros 63),
    .writeAck (zeros 63)] : List Instr).all fun c => !wellFormed c) = true := by decide +kernel

/-- Terms just out of the range of one check each, which that check refuses. -/
theorem test_ill_formed_6 :
    (([
    .readData (zeros 63) [], .readData (zeros 64) (zeros 257), .error (zeros 63), .token (zeros 63),
    .linkState (zeros 63) 0, .linkStateTimeout 48, .apertureAccess 0 4096 0 1 false [],
    .apertureAccess 0 0 0 0 false [], .apertureAccess 0 0 0 257 false (zeros 257),
    .apertureAccess 0 0 4095 2 false [], .apertureAccess 0 0 0 1 true [], .txnTimeout 65536,
    .statusRead { seq := 256 }, .statusRead { cflags := 256 }, .statusRead { res := 256 },
    .statusRead { length := 2 ^ 32 }, .statusRead { addr := 2 ^ 64 }, .statusRead { crc := 2 ^ 32 },
    .heartbeat { seq := 256 }, .identityRead { seq := 256 }, .regRead { seq := 256 } .met,
    .regWrite { seq := 256 } .met false, .memRead { seq := 256 } .met, .memWrite { seq := 256 } .met,
    .imageLoad { seq := 256 } .met, .repairRead { seq := 256 } .met, .safeRequest { seq := 256 },
    .counterClear { seq := 256 }, .timeSet { seq := 256 } 0, .verticalBlank 4 0 0 0 false 0,
    .verticalBlank 0 3841 0 0 false 0, .verticalBlank 0 0 2161 0 false 0, .scanSelect 256, .tapMemSelect (2 ^ 64),
    .debug 22 0, .debug 0 5, .registerWrite (.bus 0 (.hart 20 .machine) 0 4 0 false),
    .registerWrite (.bus 0 (.tag 0) (2 ^ 48) 4 0 false), .registerWrite (.bus 0 (.tag 0) 0 5 0 false),
    .registerWrite (.bus 0 (.tag 0) 0 4 (2 ^ 32) false), .registerWrite (.csr 20 0 0 0),
    .registerWrite (.csr 0 4096 0 0), .registerWrite (.csr 0 0 4 0), .registerWrite (.csr 0 0 0 (2 ^ 64)),
    .uncorrectableHeader 16, .pcieLinkUp 2 false] : List Instr).all fun c => !wellFormed c) = true := by decide +kernel

/-! ### Values that the spec states -/

/-- "The chains hold 35,360,768 bits in all" (R494). -/
theorem test_scan_bits : ((List.range 73).map chainLength).sum = 35360768 := by decide +kernel

/-- The memories of R496 hold the 35,242,048 words of R497 and the checker SRAM's 8,192, which that figure leaves out. -/
theorem test_memory_words : ((List.range 0x600).map memoryWords).sum = 35242048 + 8192 := by decide +kernel

/-- Largest finite E4M3 and E5M2: 448 and 57,344 (format codes of R77). -/
theorem test_fp8_largest : floatElem 4 0x7E = .num false 14 5 ∧ fpEq (floatElem 5 0x7B) (.num false 57344 0) = true := by decide

/-- Infinity into E4M3 (R79): 448 (0x7E) with SAT, and otherwise 0x7F. -/
theorem test_convert_inf : (convert 4 true none (.inf false)).bits = 0x7E ∧ (convert 4 false none (.inf false)).bits = 0x7F := by
  decide

/-- Largest finite FP16 is 65,504 (R79). -/
theorem test_fp16_largest : fpEq (dec16 true 0x7BFF) (.num false 65504 0) = true := by decide

/-- The CRC-32C of RFC 3720 (R266): its test vector of 32 bytes of zeros. -/
theorem test_crc32c_zeros : crc32c (zeros 32) = 0x8A9136AA := by decide +kernel

/-- The CRC-16 of R21: the check value of polynomial 0x1021 with initial value 0xFFFF over "123456789". -/
theorem test_crc16_check : crc16 [0x31, 0x32, 0x33, 0x34, 0x35, 0x36, 0x37, 0x38, 0x39] = 0x29B1 := by decide +kernel

/-- A CAN FD frame of 8 B as one ACF message: with the Ethernet, VLAN and NTSCF headers, 54 B (the wheel-speed example). -/
theorem test_acf_length : (acfMessage 5 0 { kind := 2, bytes := zeros 8 }).length = 54 - 14 - 4 - 12 := by decide

/-- IDCODE shifts 0x3B048B4F (R492). -/
theorem test_idcode : (match exec .idcode up with | .next t => t.tapPort.out | _ => (0, 0)) = (32, 0x3B048B4F) := by decide

/-- A step on an empty queue is one nanosecond at the nominal rate (R314). -/
theorem test_tick : (match step up with | .next t => t.tmt.nowNs | _ => 0) = 1 := by decide

/-- A write is read back, and one of the unlisted value removes the cells. -/
theorem test_memory : memRead (memWrite [] 7 [1, 2]) 6 4 = [0, 1, 2, 0] ∧ memWrite (memWrite [] 7 [1, 2]) 7 [0, 0] = [] := by decide

end Sys2Proof.Tests
end

section
/-! Proofs of the family of the two hierarchies: the invariant, at reset and over every step (O59, O60). -/

namespace Sys2Proof.Safety

open Sys2Proof.Machine Sys2Proof.Laws

/-! ### The invariant and the fields it speaks of -/

/-- A safe state that is not asserted holds. -/
theorem safeHolds_of_not_asserted {s : State} (h : s.ilk.asserted = false) : safeHolds s :=
  fun a => absurd a (by simp [h])

/-- An asserted safe state stands on a latched cause, so without one it is not asserted. -/
theorem Inv.not_asserted {s : State} (hi : Inv s) (h : s.latched = false) : s.ilk.asserted = false := by
  cases ha : s.ilk.asserted with
  | false => rfl
  | true => simp [(hi.safe ha).1] at h

/-- The invariant does not speak of the queue. -/
theorem Inv.withPending {s : State} (hi : Inv s) (q : List Instr) : Inv { s with pending := q } :=
  ⟨hi.memory, hi.safe, hi.held⟩

/-- Whatever every command keeps, keeps the invariant. -/
theorem Inv.of_keeps {s t : State} (hi : Inv s) (hk : Keeps s t) : Inv t where
  memory := hk.mem hi.memory
  safe ha := by
    rcases hk.asserts ha with hs | ⟨hc, hl⟩
    · obtain ⟨hc, hl⟩ := hi.safe hs
      have hc : s.ilk.safeCause ≠ 0 := by simpa [State.latched] using hc
      refine ⟨by simpa [State.latched, (hk.cause hc).1] using hc, ?_⟩
      cases ht : t.pins.safeNCmd with
      | false => rfl
      | true => simp [hk.cmd ht] at hl
    · exact ⟨by simpa [State.latched] using hc, hl⟩
  held hp := by
    rw [hk.porst, hk.reset] at hp
    cases ht : t.pins.safeNCmd with
    | false => rfl
    | true => simpa [hk.cmd ht] using hi.held hp

/-! ### The commands that break what the others keep: the two resets, their release, the release of SAFE_N -/

/-- A state whose blocks are at their reset values, with SAFE_N low, keeps the invariant. -/
theorem Inv.of_reset {s : State} (hm : s.mem = []) (ha : s.ilk.asserted = false) (hl : s.pins.safeNCmd = false) :
    Inv s :=
  ⟨by rw [hm]; rfl, safeHolds_of_not_asserted ha, fun _ => hl⟩

/-- Pins with SAFE_N as commanded, and a reset pin low only where one was. -/
theorem Inv.withPins {s : State} (hi : Inv s) {p : Pins} (hc : p.safeNCmd = s.pins.safeNCmd)
    (hp : p.porstN = false ∨ p.resetN = false → s.pins.porstN = false ∨ s.pins.resetN = false) :
    Inv { s with pins := p } :=
  ⟨hi.memory, fun a => ⟨(hi.safe a).1, hc.trans (hi.safe a).2⟩, fun h => hc.trans (hi.held (hp h))⟩

theorem execPorstNAssert_inv (s : State) : ∃ t, execPorstNAssert s = .next t ∧ Inv t :=
  ⟨_, rfl, Inv.of_reset rfl rfl rfl⟩

theorem execResetNAssert_inv {s : State} (hi : Inv s) : ∃ t, execResetNAssert s = .next t ∧ Inv t := by
  unfold execResetNAssert
  split
  · rename_i h
    have hp : s.pins.porstN = false := by simpa using h
    exact ⟨_, rfl, hi.memory, hi.safe, fun _ => hi.held (.inl hp)⟩
  · exact ⟨_, rfl, Inv.of_reset rfl rfl rfl⟩

/-- RESET_RELEASE of a low pin: BOOT_SEL is sampled and the pin goes high, PORST_N with the supplies and REF_CLK. -/
def releasedPins (porst : Bool) (bootSel : Nat) (p : Pins) : Pins :=
  if porst then
    { p with bootSel := bootSel, porstN := true, vddIo := true, safeNDriven := true, refClk := true
             aonInternalOsc := false }
  else { p with bootSel := bootSel, resetN := true }

theorem execResetRelease_eq (porst : Bool) (bootSel : Nat) (fabricLocked pufOk memoriesOk backupOk : Bool)
    (march : BootMarch) (s : State) (h : (if porst then s.pins.porstN else s.pins.resetN) = false) :
    execResetRelease porst bootSel fabricLocked pufOk memoriesOk backupOk march s = .next
      (let p := releasedPins porst bootSel s.pins
       if p.porstN && p.resetN then
         ({ s with pins := p } : State).runRom fabricLocked pufOk memoriesOk backupOk march.rows march.badSpares
           march.badSweepRows
       else { s with pins := p }) := by
  unfold execResetRelease
  rw [if_neg (by simp [h])]
  cases porst <;> rfl

theorem execResetRelease_inv (porst : Bool) (bootSel : Nat) (fabricLocked pufOk memoriesOk backupOk : Bool)
    (march : BootMarch) {s : State} (hi : Inv s) :
    ∃ t, execResetRelease porst bootSel fabricLocked pufOk memoriesOk backupOk march s = .next t ∧ Inv t := by
  cases h : (if porst then s.pins.porstN else s.pins.resetN) with
  | true => exact ⟨s, if_pos h, hi⟩
  | false =>
    have hp : Inv { s with pins := releasedPins porst bootSel s.pins } :=
      hi.withPins (by cases porst <;> rfl) (by cases porst <;> simp_all [releasedPins])
    refine ⟨_, execResetRelease_eq _ _ _ _ _ _ _ _ h, ?_⟩
    dsimp only
    split
    · exact hp.of_keeps (State.runRom_keeps _ _ _ _ _ _ _ _ (Keeps.refl _))
    · exact hp

/-- SAFE_N rises only with no cause latched and both reset pins high. -/
theorem execSafeNRelease_inv {s : State} (hi : Inv s) : ∃ t, execSafeNRelease s = .next t ∧ Inv t := by
  refine ⟨_, rfl, ?_⟩
  dsimp only
  split
  · rename_i hlive
    split
    · exact hi
    · rename_i hmay
      have hn : s.latched = false := by simp [State.mayRelease] at hmay; exact hmay.2
      have ha := hi.not_asserted hn
      have hp : s.pins.porstN = true ∧ s.pins.resetN = true := by
        simp [State.live] at hlive; exact hlive.1.1
      unfold State.driveSafeN
      split
      · exact ⟨hi.memory, hi.safe, hi.held⟩
      · exact ⟨hi.memory, safeHolds_of_not_asserted ha, fun h => by simp [hp.1, hp.2] at h⟩
  · exact hi

/-! ### Every command -/

/-- Every command answers a next state and keeps the invariant. -/
theorem exec_inv (c : Instr) {s : State} (hi : Inv s) : ∃ t, exec c s = .next t ∧ Inv t := by
  cases hc : breaks c with
  | false =>
    obtain ⟨t, he, hk⟩ := exec_keeps c s (Keeps.refl s) hc
    exact ⟨t, he, hi.of_keeps hk⟩
  | true =>
    cases c <;> simp only [breaks, Bool.false_eq_true] at hc
    case porstNAssert => exact execPorstNAssert_inv s
    case resetNAssert => exact execResetNAssert_inv hi
    case resetRelease => exact execResetRelease_inv _ _ _ _ _ _ _ hi
    case safeNRelease => exact execSafeNRelease_inv hi

/-- Settles O59: at reset every block is at its reset values and SAFE_N is low. -/
theorem invAtReset : Obligations.InvAtReset :=
  ⟨Inv.of_reset rfl rfl rfl, rfl, rfl, rfl, rfl, rfl⟩

/-- Settles O60: a step is a tick of the Timetable or the command at the front of the queue, and both keep it. -/
theorem everyStepKeepsInv : Obligations.EveryStepKeepsInv := by
  intro s t hi hs
  unfold step at hs
  split at hs
  · cases hs
    exact hi.of_keeps (State.tick_keeps s (Keeps.refl s))
  · rename_i c rest _
    obtain ⟨u, hu, hiu⟩ := exec_inv c (hi.withPending rest)
    rw [hu] at hs
    cases hs
    exact hiu

end Sys2Proof.Safety
end

section
/-! Proofs of the family of the two hierarchies: the reset pins and the supplies (O1), a freeze and its release
(O15). -/

namespace Sys2Proof.Machine

/-! ### When a command acts -/

/-- A command acts while the device runs. -/
theorem act_live {s : State} (h : s.live = true) (f : State → State) : act s f = .next (f s) := by
  simp only [act, if_pos h]

/-- The first cause latched: its code, its SUBCAUSE and its instant, and nothing changes outside the island (R290). -/
theorem State.latch_first {s : State} (h : s.latched = false) (cause sub : Nat) :
    (s.latch cause sub).ilk.safeCause = cause ∧ (s.latch cause sub).ilk.safeSub = sub % 65536 ∧
    (s.latch cause sub).ilk.detectNs = s.now ∧ s.latch cause sub = { s with ilk := (s.latch cause sub).ilk } := by
  simp [State.latch, h]

/-- Settles O1: the resets leave reset values, and the supply events leave all but their pins and the latch. -/
theorem resetPinsAndSupplies : Obligations.ResetPinsAndSupplies := by
  refine ⟨fun _ => rfl, fun s hp => ?_, fun s hp => ?_, fun s hlive hclk hl => ?_, fun _ => rfl⟩
  · exact ⟨_, if_neg (by simp [hp]), rfl, rfl, rfl, rfl, rfl⟩
  · exact if_pos (by simp [hp])
  · have hu : ({ s with pins := { s.pins with refClk := false, aonInternalOsc := true } } : State).latched = false := hl
    obtain ⟨hc, hs, hd, hf⟩ := State.latch_first hu 8 72
    exact ⟨_, congrArg Host.Outcome.next (if_pos (by simp [hlive, hclk])), hc, hs, hd, hf⟩

/-- SAFE_N driven to a level: beside the command only the skip of the next read-back can change. -/
theorem State.driveSafeN_eq (s : State) (level : Bool) : ∃ skip, s.driveSafeN level =
    { s with pins := { s.pins with safeNCmd := level }, ilk := { s.ilk with readbackSkip := skip } } := by
  by_cases h : s.pins.safeNCmd = level
  · exact ⟨s.ilk.readbackSkip, by rw [State.driveSafeN, if_pos h, ← h]⟩
  · exact ⟨true, by rw [State.driveSafeN, if_neg h]⟩

/-- A freeze that starts: the latch, its time, its source, the triggers and SAFE_N (R331, R332). -/
theorem State.startFreeze_running {s : State} (h : s.tmt.freeze = .running) (byEvent : Bool) (atNs : Nat) :
    ∃ skip, s.startFreeze byEvent atNs = { s with
      freeCtr := s.freeCtr + 1
      tmt := { s.tmt with
        freeze := .latched, freezeNs := atNs, freezeByEvent := byEvent, freezeValid := true, froze := true
        validAtFreeze := s.tmt.valid
        triggers := tmap s.tmt.triggers fun _ o => { o with asserted := false, pulseEnd := none } }
      pins := { s.pins with safeNCmd := false }
      ilk := { s.ilk with readbackSkip := skip } } := by
  unfold State.startFreeze
  rw [if_neg (by simp [h])]
  exact State.driveSafeN_eq _ false

/-- Validity withdrawn with no cause latched: where time was valid, the cause is TIME_LOST (R318). -/
theorem State.withdrawTime_first {s : State} (h : s.latched = false) :
    ∃ i : Ilk, s.withdrawTime =
      { s with tmt := { s.tmt with valid := false, lost := s.tmt.valid || s.tmt.lost }, ilk := i } ∧
      (s.tmt.valid = true → i.safeCause = 0x0B) ∧ (s.tmt.valid = false → i = s.ilk) := by
  unfold State.withdrawTime
  cases hv : s.tmt.valid with
  | true =>
    obtain ⟨hc, -, -, hf⟩ :=
      State.latch_first (s := s.modTmt fun t => { t with valid := false, lost := true }) h 0x0B 0
    exact ⟨_, by simpa using hf, fun _ => hc, by simp⟩
  | false => exact ⟨s.ilk, (if_neg (by simp)).trans (by rw [Bool.false_or, ← hv]), by simp, fun _ => rfl⟩

/-- A freeze released with no cause latched: the controllers and domains restart and validity is withdrawn (R335). -/
theorem State.releaseFreeze_first {s : State} (hf : s.tmt.freeze ≠ .running) (h : s.latched = false) :
    ∃ i : Ilk, s.releaseFreeze = { s with
      tmt := { s.tmt with freeze := .running, stepped := false, valid := false, lost := s.tmt.valid || s.tmt.lost }
      dram := tmap s.dram fun _ d => if d.state = .selfRefresh then { d with state := .on } else d
      clocks := tmap s.clocks fun _ c =>
        if c.state = .frozen then { c with state := .on, stepInWindow := true } else c
      ilk := i } ∧
      (s.tmt.valid = true → i.safeCause = 0x0B) ∧ (s.tmt.valid = false → i = s.ilk) := by
  unfold State.releaseFreeze
  rw [if_neg hf]
  exact State.withdrawTime_first h

/-- While the counter runs it reaches an instant that lies ahead, and never goes back. -/
theorem State.reach_running {s : State} (hp : s.pins.porstN = true) (hf : s.tmt.freeze = .running) (t : Nat) :
    s.reach t = s.modTmt fun x => { x with nowNs := max x.nowNs t } := by
  simp [State.reach, hp, hf]

theorem State.live_porst {s : State} (h : s.live = true) : s.pins.porstN = true := by
  simp only [State.live, Bool.and_eq_true] at h
  exact h.1.1.1

/-- Settles O15: a freeze starts, gates and releases by the operations' equations. -/
theorem freezeAndRelease : Obligations.FreezeAndRelease := by
  refine ⟨fun s hp hr hf => ?_, fun s hlive hf => ?_, fun s hf he hl => ?_, fun s a hlive hf ha => ?_⟩
  · obtain ⟨skip, hs⟩ :=
      State.startFreeze_running (s := { s with pins := { s.pins with freezeN := false } }) hf false s.now
    refine ⟨_, congrArg Host.Outcome.next ((if_pos (by simp [hp, hr])).trans hs), ?_⟩
    exact ⟨rfl, rfl, rfl, rfl, rfl, rfl, rfl⟩
  · exact (act_live hlive _).trans (congrArg Host.Outcome.next (if_pos hf))
  · obtain ⟨i, hw, hc, hi⟩ := State.releaseFreeze_first (s := { s with pins := { s.pins with freezeN := true } })
      (show s.tmt.freeze ≠ .running by simp [hf]) hl
    refine ⟨_, congrArg Host.Outcome.next ((if_pos (by simp [hf, he])).trans hw), ?_⟩
    exact ⟨rfl, rfl, rfl, fun hv => ⟨by simp [hv], hc hv⟩, hi, rfl, rfl, rfl, rfl⟩
  · simp only [exec, execTimeSetLapse, act_live hlive, ha, State.reach_running (State.live_porst hlive) hf]
    rfl

end Sys2Proof.Machine
end

section
/-! Proofs of the family of the two hierarchies: an access at a bank (O12). -/

namespace Sys2Proof.Machine

open Sys2Proof.Laws

/-! ### What each verdict of a bank makes of an access -/

theorem State.bankMeet_serve {s : State} {k : Nat} {r : BankReq} (h : s.bankJudge k r = .serve) :
    s.bankMeet k r = s.bankServe k r := by
  simp only [State.bankMeet, h]

theorem State.bankMeet_hold {s : State} {k : Nat} {r : BankReq} (h : s.bankJudge k r = .hold) :
    s.bankMeet k r = { s with
      banks := tmod {} s.banks k fun b => { (Bank.wake b) with held := b.held ++ [r] }, resp := { kind := .held } } := by
  simp only [State.bankMeet, h]
  rfl

theorem State.bankMeet_fault {s : State} {k c : Nat} {r : BankReq} (h : s.bankJudge k r = .fault c) :
    s.bankMeet k r = ((s.noteBankFault k r c).noteOldOwner k r.tag).answerError r.origin (bankError c) := by
  simp only [State.bankMeet, h]

/-- The owner's access at a bank that is neither fenced nor in a handover meets the bank's power state (R96, R103). -/
theorem State.bankJudge_owner {s : State} {k : Nat} {r : BankReq} (hf : (s.bank k).fenced = false)
    (hh : (s.bank k).handover = none) (hfree : (s.bank k).curFree = false) (ht : r.tag = (s.bank k).curOwner) :
    s.bankJudge k r = (s.bank k).powerVerdict := by
  simp [State.bankJudge, hf, hh, hfree, ht]

/-! ### What a refused access leaves of the bank and its block -/

/-- Whether or not it is captured, a fault adds one to the block's count (FAULT_INFO). -/
theorem State.noteBankFault_faultCount (s : State) (k c : Nat) (r : BankReq) :
    ((s.noteBankFault k r c).block (blockOf k)).faultCount = min ((s.block (blockOf k)).faultCount + 1) 0xFFFF := by
  simp only [State.noteBankFault, State.modBlock_same]
  split <;> rfl

/-- A late access of the previous owner marks its bank and changes nothing else of it. -/
theorem State.noteOldOwner_bank (s : State) (k tag : Nat) :
    (s.noteOldOwner k tag).bank k =
      { s.bank k with oldOwnerFault := ((s.noteOldOwner k tag).bank k).oldOwnerFault } := by
  simp only [State.noteOldOwner, State.modBank_same]
  split <;> rfl

/-! ### What a refused access makes of a Basin's list -/

/-- A Basin that holds no walker's pin ends its list, and nothing but the Basins changes (R69). -/
theorem State.basinFail_eq {s : State} {n : Nat} (h : (s.basin n).walkerPin = none) (idx status : Nat) :
    s.basinFail n idx status = { s with basins := (s.basinFail n idx status).basins } ∧
    ((s.basinFail n idx status).basin n).list = .failed ∧ ((s.basinFail n idx status).basin n).status = status ∧
    ((s.basinFail n idx status).basin n).failIndex = idx % 65536 := by
  unfold State.basinFail State.dropWalkerPin
  simp only [h]
  exact ⟨rfl, by simp, by simp, by simp⟩

theorem State.answerError_basin {s : State} {n : Nat} (h : (s.basin n).list.open = true) (e : AccessError) :
    s.answerError (.basin n) e =
      State.basinFail { s with resp := { kind := .error } } n (s.basin n).listPos e.status := by
  exact if_pos h

theorem bankError_status (c : Nat) : (bankError c).status = 3 := by
  unfold bankError
  split <;> rfl

/-! ### The command -/

theorem execBankAccess_live {s : State} (h : s.live = true) (k : Nat) (r : BankReq) :
    exec (.bankAccess k r) s = .next (s.bankAccess k r) := by
  rw [exec, execBankAccess, act_live h]

/-- Only a list that an uncorrectable word ends tears its context down. -/
theorem State.bankAccess_eq {s : State} {k : Nat} {r : BankReq}
    (h : ∀ n, r.origin = .basin n → (s.basin n).list.open = true → ((s.bankMeet k r).basin n).list = .failed →
      ((s.bankMeet k r).basin n).status ≠ 0x31) : s.bankAccess k r = s.bankMeet k r := by
  unfold State.bankAccess
  split
  · rename_i n ho
    refine if_neg fun hc => ?_
    simp only [Bool.and_eq_true, decide_eq_true_eq] at hc
    obtain ⟨⟨⟨⟨hopen, hl⟩, hst⟩, -⟩, -⟩ := hc
    exact h n ho hopen hl hst
  · rfl

theorem State.bankAccess_other {s : State} {k : Nat} {r : BankReq} (h : r.origin = .other) :
    s.bankAccess k r = s.bankMeet k r :=
  State.bankAccess_eq fun n hn => by simp [h] at hn

theorem execBankAccess_served {s : State} {k : Nat} {r : BankReq} (hlive : s.live = true)
    (hj : s.bankJudge k r = .serve) (ho : r.origin = .other) :
    exec (.bankAccess k r) s = .next (s.bankServe k r) := by
  rw [execBankAccess_live hlive, State.bankAccess_other ho, State.bankMeet_serve hj]

/-- A held access changes no Basin, so none of its lists has just failed. -/
theorem State.bankAccess_hold {s : State} {k : Nat} {r : BankReq} (h : s.bankJudge k r = .hold) :
    s.bankAccess k r = s.bankMeet k r := by
  refine State.bankAccess_eq fun n _ hopen hl => ?_
  rw [State.bankMeet_hold h] at hl
  rw [show (s.basin n).list = .failed from hl] at hopen
  exact absurd hopen (by decide)

/-- A read that finds no uncorrectable word brings the bytes and counts a corrected error (R91). -/
theorem State.bankServe_read {s : State} {k : Nat} {r : BankReq} (hw : r.write = false) (he : s.bankEcc k r = 0)
    (ho : r.origin = .other) : s.bankServe k r = { s with
      blocks := if r.ecc = 1 then tmod {} s.blocks (blockOf k) fun b => { b with ce := sat16 b.ce } else s.blocks
      resp := { kind := .data, bytes := memRead s.mem (bankBase k + r.off) r.len } } := by
  simp only [State.bankServe, hw, he, ho, State.answerData_other]
  by_cases h : r.ecc = 1
  · simp only [if_pos h]; rfl
  · simp only [if_neg h]; rfl

/-- A read that finds an uncorrectable word changes the bank's record and its poison alone (R91). -/
theorem State.bankServe_uncorrectable {s : State} {k : Nat} {r : BankReq} (hw : r.write = false)
    (he : s.bankEcc k r = 2) (ho : r.origin = .other) :
    (s.bankServe k r).resp = { kind := .error } ∧ s.bankServe k r =
      { s with blocks := (s.bankServe k r).blocks, banks := (s.bankServe k r).banks, resp := (s.bankServe k r).resp } := by
  unfold State.bankServe
  simp only [hw, he, ho, State.answerError_other]
  exact ⟨rfl, rfl⟩

theorem getElem?_memRead (m : List Host.Cell) :
    ∀ (n a k : Nat), k < n → (memRead m a n)[k]? = some (memGet m (a + k))
  | n + 1, a, 0, _ => rfl
  | n + 1, a, k + 1, h => by
    rw [memRead, List.getElem?_cons_succ, getElem?_memRead m n (a + 1) k (by omega), Nat.add_right_comm, Nat.add_assoc]

/-- Settles O12: by the bank's verdict on the access. -/
theorem bankAccesses : Obligations.BankAccesses := by
  refine ⟨fun s k r hlive hj ho hw => ?_, fun s k r hlive hj ho hw => ⟨fun he => ?_, fun he => ?_⟩,
    fun s k c r hlive hj => ⟨fun ho => ?_, fun n ho hp hopen => ?_⟩, fun s k r hlive hj => ?_,
    fun s k r hf => ?_, fun s k r hf hh hfree => ?_, fun s k r hf hh hfree ht hk => ?_,
    fun s k r hf hh hfree ht htr => ?_, fun m a x n k d => ⟨fun h₁ h₂ => memGet_memWrite_in m a d x h₁ h₂,
      memGet_memWrite_out m a d x, length_memRead m n a, getElem?_memRead m n a k⟩⟩
  · rw [execBankAccess_served hlive hj ho, State.bankServe, if_pos hw, ho, State.answerData_other]
    rfl
  · rw [execBankAccess_served hlive hj ho, State.bankServe_read hw he ho]
  · exact ⟨_, execBankAccess_served hlive hj ho, State.bankServe_uncorrectable hw he ho⟩
  · rw [execBankAccess_live hlive, State.bankAccess_other ho, State.bankMeet_fault hj, ho, State.answerError_other]
    exact ⟨_, rfl, rfl, State.noteBankFault_faultCount s k c r,
      State.noteOldOwner_bank (s.noteBankFault k r c) k r.tag, rfl⟩
  · have hm := State.bankMeet_fault hj
    rw [ho, State.answerError_basin (s := (s.noteBankFault k r c).noteOldOwner k r.tag) hopen, bankError_status] at hm
    obtain ⟨hfr, hl, hst, -⟩ := State.basinFail_eq
      (s := { (s.noteBankFault k r c).noteOldOwner k r.tag with resp := { kind := .error } }) hp
      (((s.noteBankFault k r c).noteOldOwner k r.tag).basin n).listPos 3
    have ha : s.bankAccess k r = s.bankMeet k r := by
      refine State.bankAccess_eq fun m hm' _ _ => ?_
      cases hm'.symm.trans ho
      rw [hm, hst]
      decide
    refine ⟨_, execBankAccess_live hlive k r, ?_⟩
    rw [ha, hm]
    have hmem := congrArg State.mem hfr
    exact ⟨hl, hst, hmem⟩
  · refine ⟨_, execBankAccess_live hlive k r, ?_⟩
    rw [State.bankAccess_hold hj, State.bankMeet_hold hj]
    exact ⟨rfl, by simp [State.bank], rfl⟩
  · simp [State.bankJudge, hf]
  · simp [State.bankJudge, hf, hh, hfree]
  · have hb : s.bootBank k = false := by
      simp only [State.bootBank, Bool.and_eq_false_iff, decide_eq_false_iff_not]
      exact .inl (.inl (by omega))
    simp [State.bankJudge, hf, hh, hfree, ht, hb]
  · rw [State.bankJudge_owner hf hh hfree ht]
    cases hp : (s.bank k).pwrState <;> simp only [Bank.powerVerdict, htr, hp]

end Sys2Proof.Machine
end

section
/-! Proofs of the family of the two hierarchies: what an access that nothing waits for leaves alone. -/

namespace Sys2Proof.Machine

/-! ### An access reaches memory, the banks, the controllers, the Sluices, the filters and the links, and nothing else -/

/-- The state beside what an access that nothing waits for can reach. -/
def State.beside (s : State) : State :=
  { s with
    freeCtr := 0, mem := [], clocks := [], banks := [], blocks := [], dram := [], repair := {}, slc := {}, sbx := {}
    sent := [], resp := {}, pts := {}, mwl := {} }

theorem State.beside_foldl {α : Type} {f : State → α → State} (h : ∀ s a, (f s a).beside = s.beside) (l : List α)
    (s : State) : (l.foldl f s).beside = s.beside := by
  induction l generalizing s with
  | nil => rfl
  | cons a l ih => exact (ih (f s a)).trans (h s a)

theorem State.pumpN_beside (p : Nat) : ∀ (k : Nat) (s : State), (State.pumpN p k s).beside = s.beside
  | 0, _ => rfl
  | k + 1, s => by
    unfold State.pumpN
    split
    · split
      · exact (State.pumpN_beside p k _).trans rfl
      · rfl
    · rfl

theorem State.mwlSend_beside (s : State) (dst : Nat) (prio : Bool) (flit : Nat → Bytes) (data : Bytes) :
    (s.mwlSend dst prio flit data).beside = s.beside := by
  unfold State.mwlSend
  split
  · split
    · exact (State.pumpN_beside _ _ _).trans rfl
    · rfl
  · rfl

theorem State.logPage_beside (s : State) (page : Nat) : (s.logPage page).beside = s.beside := by
  unfold State.logPage
  dsimp only
  split <;> rfl

theorem State.logWrite_beside (s : State) (a n : Nat) : (s.logWrite a n).beside = s.beside := by
  unfold State.logWrite
  dsimp only
  split
  · exact s.logPage_beside _
  · exact (State.logPage_beside _ _).trans (s.logPage_beside _)

theorem State.tailWatch_beside (s : State) (tag addr len : Nat) (data : Bytes) :
    (s.tailWatch tag addr len data).beside = s.beside := by
  refine State.beside_foldl (fun s e => ?_) _ s
  dsimp only
  split
  · split <;> rfl
  · rfl

theorem State.indexWatch_beside (s : State) (tag addr len : Nat) (data : Bytes) :
    (s.indexWatch tag addr len data).beside = s.beside := by
  refine State.beside_foldl (fun s e => ?_) _ s
  dsimp only
  split <;> rfl

theorem State.dramWrite_beside {s : State} {acc : Access} (h : acc.origin = .other) :
    (s.dramWrite acc).beside = s.beside := by
  unfold State.dramWrite
  rw [h, State.answerData_other]
  refine (State.indexWatch_beside _ _ _ _ _).trans ((State.tailWatch_beside _ _ _ _ _).trans ?_)
  split
  · rfl
  · exact (State.logWrite_beside _ _ _).trans rfl

theorem State.dramRead_beside {s : State} {c : Nat} {acc : Access} (h : acc.origin = .other) :
    (s.dramRead c acc).beside = s.beside := by
  unfold State.dramRead
  rw [h]
  split
  · rw [State.answerError_other]; rfl
  · dsimp only
    rw [State.answerData_other]
    split <;> rfl

theorem State.wakeDram_beside (s : State) (c : Nat) : (s.wakeDram c).beside = s.beside := by
  unfold State.wakeDram
  split <;> rfl

theorem State.bankServe_beside {s : State} {k : Nat} {r : BankReq} (h : r.origin = .other) :
    (s.bankServe k r).beside = s.beside := by
  unfold State.bankServe
  rw [h]
  dsimp only
  split
  · rw [State.answerData_other]; rfl
  · split
    · rw [State.answerError_other]; rfl
    · rw [State.answerData_other]
      split <;> rfl

theorem State.bankMeet_beside {s : State} {k : Nat} {r : BankReq} (h : r.origin = .other) :
    (s.bankMeet k r).beside = s.beside := by
  cases hj : s.bankJudge k r with
  | serve => rw [State.bankMeet_serve hj]; exact State.bankServe_beside h
  | hold => rw [State.bankMeet_hold hj]; rfl
  | fault c => rw [State.bankMeet_fault hj, h, State.answerError_other]; rfl

theorem State.issueTxn_beside (s : State) (q : MwlReq) (c : Nat) : (s.issueTxn q c).beside = s.beside := by
  unfold State.issueTxn
  dsimp only
  rw [State.mwlSend_beside]
  rfl

theorem State.tryTxn_beside {s : State} {q : MwlReq} (h : q.origin = .other) : (s.tryTxn q).beside = s.beside := by
  have he : (s.answerTxn q.origin none).beside = s.beside := by
    rw [h, State.answerTxn, State.answerError_other]; rfl
  unfold State.tryTxn
  dsimp only
  split
  · exact he
  · split
    · exact he
    · split
      · rfl
      · exact s.issueTxn_beside q _

/-- The answer is no part of it. -/
theorem State.beside_withResp (s : State) (r : Resp) : State.beside { s with resp := r } = s.beside := rfl

theorem State.freeAnswer_beside (s : State) (n : Nat) : (s.freeAnswer n).beside = s.beside := rfl

theorem State.aperture_beside {s : State} {acc : Access} (h : acc.origin = .other) :
    (s.aperture acc).beside = s.beside := by
  have ht : (State.tryTxn { s with resp := { kind := .held } } (apertureReq acc)).beside = s.beside := by
    rw [State.tryTxn_beside (show (apertureReq acc).origin = .other from h), State.beside_withResp]
  unfold State.aperture
  dsimp only
  split
  · rw [State.freeAnswer_beside, ht]
  · exact ht

theorem State.carry_beside {s : State} {acc : Access} (h : acc.origin = .other) : (s.carry acc).beside = s.beside := by
  have he : ∀ e, (s.answerError acc.origin e).beside = s.beside := fun e => by
    rw [h, State.answerError_other]; rfl
  unfold State.carry
  split
  · rename_i c _
    split
    · exact he _
    · dsimp only
      split
      · exact (State.dramWrite_beside h).trans (s.wakeDram_beside c)
      · exact (State.dramRead_beside h).trans (s.wakeDram_beside c)
  · exact State.bankMeet_beside h
  · exact State.bankMeet_beside h
  · exact State.aperture_beside h
  · exact he _
  · rw [h]
    split <;> rw [State.answerData_other] <;> rfl

theorem State.access_beside {s : State} {acc : Access} (h : acc.origin = .other) : (s.access acc).beside = s.beside := by
  rcases s.access_cases acc with ⟨-, he⟩ | ⟨-, he⟩ | ⟨k, -, he⟩
  · rw [he]; exact State.carry_beside h
  · rw [he]; rfl
  · rw [he, h, State.answerError_other]; rfl

theorem State.devWrite_beside (s : State) (tag a : Nat) (bs : Bytes) : (s.devWrite tag a bs).beside = s.beside := by
  unfold State.devWrite State.devAccess
  split
  · exact State.access_beside rfl
  · rw [State.answerError_other]; rfl

theorem State.msi_beside (s : State) (tag a data : Nat) : (s.msi tag a data).beside = s.beside := by
  unfold State.msi
  split
  · rfl
  · exact s.devWrite_beside _ _ _

theorem State.ilk_eq_of_beside {s t : State} (h : t.beside = s.beside) : t.ilk = s.ilk := by
  have hi := congrArg State.ilk h
  exact hi

theorem State.msi_ilk (s : State) (tag a data : Nat) : (s.msi tag a data).ilk = s.ilk :=
  State.ilk_eq_of_beside (s.msi_beside tag a data)

end Sys2Proof.Machine
end

section
/-! Proofs of the family of the two hierarchies: the tap receiver (O33). -/

namespace Sys2Proof.Machine

open Sys2Proof.Laws

/-! ### A failing record -/

/-- An alert writes its record and sends its interrupt; the counts of the taps and of the failures stay (R289). -/
theorem State.alert_counts (s : State) (kind cause cls basin rule seq frame : Nat) :
    (s.alert kind cause cls basin rule seq frame).ilk.taps = s.ilk.taps ∧
    (s.alert kind cause cls basin rule seq frame).ilk.tapFailsQm = s.ilk.tapFailsQm ∧
    (s.alert kind cause cls basin rule seq frame).ilk.tapFailsExpress = s.ilk.tapFailsExpress := by
  unfold State.alert
  dsimp only
  rw [State.msi_ilk]
  exact ⟨rfl, rfl, rfl⟩

/-- A failing record of an express Basin is counted (R278). -/
theorem State.tapFailed_express {s : State} {p : Nat} (h : s.basinRole p = 2) : s.tapFailed p =
    { s with ilk := { s.ilk with
      lastFailBasin := p, tapFailsExpress := min (s.ilk.tapFailsExpress + 1) 0xFFFF } } :=
  if_pos h

/-- A second failing record of a pool Basin in one frame is counted and raises no alert (R278). -/
theorem State.tapFailed_sameFrame {s : State} {p : Nat} (h : s.basinRole p ≠ 2)
    (hq : s.ilk.qmFrame = some s.ilk.frame) : s.tapFailed p =
    { s with ilk := { s.ilk with lastFailBasin := p, tapFailsQm := min (s.ilk.tapFailsQm + 1) 0xFFFF } } :=
  (if_neg h).trans (if_pos hq)

/-- The first one of a frame raises the alert as well (R278). -/
theorem State.tapFailed_newFrame {s : State} {p : Nat} (h : s.basinRole p ≠ 2)
    (hq : s.ilk.qmFrame ≠ some s.ilk.frame) : s.tapFailed p =
    State.alert { s with ilk := { s.ilk with
      lastFailBasin := p, tapFailsQm := min (s.ilk.tapFailsQm + 1) 0xFFFF, qmFrame := some s.ilk.frame } }
      alertTapQm 0 0 p 0xFFFF 0 s.ilk.frame :=
  (if_neg h).trans (if_neg hq)

/-- A failing record of a pool Basin is counted once, and not as an express one (R278). -/
theorem State.tapFailed_pool {s : State} {p : Nat} (h : s.basinRole p ≠ 2) :
    (s.tapFailed p).ilk.taps = s.ilk.taps ∧
    (s.tapFailed p).ilk.tapFailsQm = min (s.ilk.tapFailsQm + 1) 0xFFFF ∧
    (s.tapFailed p).ilk.tapFailsExpress = s.ilk.tapFailsExpress := by
  by_cases hq : s.ilk.qmFrame = some s.ilk.frame
  · rw [State.tapFailed_sameFrame h hq]
    exact ⟨rfl, rfl, rfl⟩
  · rw [State.tapFailed_newFrame h hq]
    exact State.alert_counts ..

/-- The failure of a record changes no port's counts by itself. -/
theorem State.tap_tapFailed (s : State) (p q : Nat) : (s.tapFailed p).tap q = s.tap q := by
  have ht : (s.tapFailed p).ilk.taps = s.ilk.taps := by
    by_cases h : s.basinRole p = 2
    · rw [State.tapFailed_express h]
    · exact (State.tapFailed_pool h).1
  rw [State.tap, ht, State.tap]

theorem State.tap_modTap_same (s : State) (p : Nat) (f : TapCount → TapCount) : (s.modTap p f).tap p = f (s.tap p) :=
  tget_tmod_same _ _ _ _

/-! ### A record that is used -/

/-- The sequence check of a used record: a loss where it is not the one expected, which is then the next one (R276). -/
def State.tapSeq (s : State) (p seq : Nat) : State :=
  (if seq = (s.tap p).nextSeq then s else s.tapLoss p).modTap p fun t => { t with nextSeq := wrapInc 16 seq }

/-- The check leaves the residue records counted since the previous marker. -/
theorem State.tapSeq_sinceMarker (s : State) (p seq : Nat) :
    ((s.tapSeq p seq).tap p).sinceMarker = (s.tap p).sinceMarker := by
  rw [State.tapSeq, State.tap_modTap_same]
  split
  · rfl
  · rw [State.tapLoss, State.tap_tapFailed, State.tap_modTap_same]

/-- A flush marker adds a loss where its RECORD_COUNT is not the count since the previous marker (R276). -/
theorem State.tapUse_marker {s : State} {p : Nat} {d : Bytes} (h : fld (byteAt d 0) 0 2 = 2) : s.tapUse p d =
    (if le d 10 2 = (s.tap p).sinceMarker then s.tapSeq p (le d 2 2) else (s.tapSeq p (le d 2 2)).tapLoss p).modTap p
      fun t => { t with sinceMarker := 0 } := by
  rw [← s.tapSeq_sinceMarker p (le d 2 2)]
  exact if_pos h

/-- A residue record is counted, and so is one whose residues fail (R276, R278). -/
theorem State.tapUse_residue {s v : State} {p : Nat} {d : Bytes} (h : fld (byteAt d 0) 0 2 ≠ 2)
    (hv : v = (s.tapSeq p (le d 2 2)).modTap p fun t => { t with
      sinceMarker := wrapInc 16 t.sinceMarker, records := wrapInc 32 t.records
      nonfinite := if bit (byteAt d 1) 1 then wrapInc 32 t.nonfinite else t.nonfinite }) :
    s.tapUse p d = if residueFails d then
      (v.modTap p fun t => { t with residueFails := wrapInc 32 t.residueFails }).tapFailed p else v := by
  subst hv
  exact if_neg h

/-! ### The receiver -/

/-- A record whose CRC, BASIN or TYPE is wrong is one loss of the port it arrived on (R276). -/
theorem State.tapReceive_bad {s : State} {p crc : Nat} {d : Bytes}
    (h : crc16 d ≠ crc ∨ fld (byteAt d 0) 2 6 ≠ p ∨ fld (byteAt d 0) 0 2 = 0 ∨ fld (byteAt d 0) 0 2 = 3) :
    s.tapReceive p d crc = s.tapLoss p := by
  unfold State.tapReceive
  dsimp only
  split
  · rfl
  · rename_i hc
    exact if_pos (h.resolve_left hc)

theorem State.tapReceive_good {s : State} {p crc : Nat} {d : Bytes} (hc : crc16 d = crc)
    (hp : fld (byteAt d 0) 2 6 = p) (ht : fld (byteAt d 0) 0 2 = 1 ∨ fld (byteAt d 0) 0 2 = 2) :
    s.tapReceive p d crc = s.tapUse p d := by
  refine (if_neg fun h => h hc).trans (if_neg ?_)
  omega

theorem execTapRecordReceive_none {s : State} (hlive : s.live = true) {n : Nat} (h : (s.basin n).unacked = [])
    (p : Nat) (f : Bytes) (x : Nat) : exec (.tapRecordReceive ⟨n, p⟩ f x) s = .next s := by
  simp only [exec, execTapRecordReceive, act_live hlive, h]

theorem execTapRecordReceive_cons {s : State} (hlive : s.live = true) {n : Nat} {r : TapRecord} {l : List TapRecord}
    (h : (s.basin n).unacked = r :: l) (p : Nat) (f : Bytes) (x : Nat) :
    exec (.tapRecordReceive ⟨n, p⟩ f x) s =
      .next ((s.tapAck n r).tapReceive p (flipBits r.bytes f) (crc16 r.bytes ^^^ x)) := by
  simp only [exec, execTapRecordReceive, act_live hlive, h]

/-! ### Acknowledgement and residues -/

theorem State.tapAck_eq (s : State) (n : Nat) (r : TapRecord) (t : State)
    (ht : t = s.modBasin n fun b => { b with unacked := b.unacked.drop 1 }) :
    s.tapAck n r =
      if consistOf r.senderTag ≠ 0 ∧ t.consistTag (consistOf r.senderTag) = r.senderTag ∧
        (t.consist (consistOf r.senderTag)).generation ≠ r.senderGen then
        { t with sbx := { t.sbx with genDiscards := min (t.sbx.genDiscards + 1) 0xFFFF } }
      else t := by
  subst ht
  simp only [State.tapAck, Bool.and_eq_true, decide_eq_true_eq, beq_iff_eq, bne_iff_ne, and_assoc]
  rfl

theorem residueFails_integer {d : Bytes} (h : bit (byteAt d 1) 0 = false) :
    residueFails d = true ↔ le d 4 4 ≠ 0 ∨ le d 8 4 ≠ 0 := by
  simp [residueFails, h]

theorem residueFails_float {d : Bytes} (h : bit (byteAt d 1) 0 = true) :
    residueFails d = true ↔ ∃ o, (o = 4 ∨ o = 8) ∧
      (dec32 (le d o 4) = .nan ∨ fpLt (dec32 (le d 12 4)) (fpAbs (dec32 (le d o 4))) = true) := by
  simp [residueFails, h]

/-- Settles O33: by the outcome of the record's checks, its type and its residues. -/
theorem tapReceiver : Obligations.TapReceiver := by
  refine ⟨fun s u n p crc x d f r l hlive => ⟨fun h => execTapRecordReceive_none hlive h p f x,
      fun h hu hd hcrc => ?_⟩,
    fun s t n c r ht hc => ?_, fun d => ⟨residueFails_integer, residueFails_float⟩,
    fun s p => ⟨State.tapFailed_express, fun h => ?_⟩⟩
  · have he := execTapRecordReceive_cons hlive h p f x
    rw [← hu, ← hd, ← hcrc] at he
    refine ⟨fun hbad => ?_, fun hc hp ht => ⟨_, _, rfl, rfl, ?_⟩⟩
    · rw [he, State.tapReceive_bad hbad]
      rfl
    · rw [he, State.tapReceive_good hc hp ht]
      by_cases hm : fld (byteAt d 0) 0 2 = 2
      · rw [if_pos hm, State.tapUse_marker hm]
        rfl
      · rw [if_neg hm, State.tapUse_residue hm rfl]
        rfl
  · subst hc
    rw [State.tapAck_eq s n r t ht]
    refine ⟨fun h₀ h₁ h₂ => if_pos ⟨h₀, h₁, h₂⟩, fun h => if_neg ?_⟩
    rintro ⟨h₀, h₁, h₂⟩
    rcases h with h | h | h
    · exact h₀ h
    · exact h h₁
    · exact h₂ h
  · obtain ⟨htaps, hqm, hex⟩ := State.tapFailed_pool h
    exact ⟨hqm, hex, htaps, State.tapFailed_sameFrame h⟩

end Sys2Proof.Machine
end

section
/-! Proofs of the family of the two hierarchies: a Basin's list and its monitors (O6). -/

namespace Sys2Proof.Machine

open Sys2Proof.Laws

/-! ### The start of a list -/

theorem execListStart_starts {s : State} {n : Nat} (hlive : s.live = true) (ht : s.terraceOn (n / 8) = true)
    (hr : s.basinRole n = 1 ∨ s.basinRole n = 2) (h₁ : (s.basin n).list ≠ .running) (h₂ : (s.basin n).list ≠ .stopping)
    (hb : s.basinBusy n = false) (kernel c tag node gen : Nat) :
    exec (.listStart n kernel c tag node gen) s = .next (s.startList n kernel c tag node gen) := by
  rw [exec, execListStart, act_live hlive]
  have hz : s.basinRole n ≠ 0 ∧ s.basinRole n ≠ 3 := by omega
  simp [ht, hz, h₁, h₂, hb]

/-- The Basin that a list starts in: bound anew, at command 0, the register state cleared for another tag (R64, R376). -/
theorem State.startList_basin (s : State) (n kernel c tag node gen : Nat) :
    (s.startList n kernel c tag node gen).basin n =
      let clear := s.boot.isolation && (s.basin n).lastTag != some tag
      { s.basin n with
        bound := true, context := c, tag := tag, node := node, generation := gen, lastTag := some tag
        queue := [], haloWaiting := false
        acc := if clear then [] else (s.basin n).acc
        rill := if clear then [] else (s.basin n).rill
        scoreboard := if clear then 0 else (s.basin n).scoreboard
        rnd := if clear then {} else (s.basin n).rnd
        pmu := if clear && (s.basin n).pmu.virt then { (s.basin n).pmu with cycle := 0, cnt := [] } else (s.basin n).pmu
        kernelPtr := kernel, list := .running, listPos := 0, status := 0, failIndex := 0, run := (s.basin n).run + 1
        accOvf := false, nanSeen := false, satHit := false } := by
  rw [State.startList, State.modBasin_same, State.bindBasin, State.modBasin_same]

theorem State.startList_other (s : State) {n m : Nat} (h : m ≠ n) (kernel c tag node gen : Nat) :
    (s.startList n kernel c tag node gen).basin m = s.basin m := by
  rw [State.startList, State.modBasin_other _ _ _ _ h, State.bindBasin, State.modBasin_other _ _ _ _ h]

/-! ### The end of a list by its monitors -/

/-- A list in work that a timeout ends: its status, its index, and nothing but the Basins changes (R69). -/
theorem exec_basinFail {i : Instr} {s : State} {n status : Nat}
    (h : exec i s = .next (s.basinFail n (s.basin n).listPos status)) (hp : (s.basin n).walkerPin = none) :
    ∃ t, exec i s = .next t ∧ t = { s with basins := t.basins } ∧ (t.basin n).list = .failed ∧
      (t.basin n).status = status ∧ (t.basin n).failIndex = (s.basin n).listPos % 65536 :=
  ⟨_, h, State.basinFail_eq hp _ _⟩

/-! ### Halo signals -/

theorem execHaloSignalDeliver_cons {s : State} {n : Nat} {e : Nat × Nat × Nat × Nat}
    {rest : List (Nat × Nat × Nat × Nat)} (hlive : s.live = true) (h : (s.basin n).signals = e :: rest) :
    exec (.haloSignalDeliver n) s = .next ((s.modBasin n fun b => { b with signals := rest }).haloArrive n e) := by
  simp only [exec, execHaloSignalDeliver, act_live hlive, h]

/-- A signal sets its bits at a target of its context and generation, and is otherwise dropped (R72). -/
theorem State.haloArrive_eq {s : State} {n p : Nat} {e : Nat × Nat × Nat × Nat} (h : s.translate n e.1 = some p) :
    s.haloArrive n e =
      if (s.basin p).bound = true ∧ (s.basin p).context = e.2.2.1 ∧ (s.basin p).generation = e.2.2.2 then
        s.modBasin p fun b => { b with scoreboard := b.scoreboard ||| e.2.1 }
      else s.dropHalo n := by
  simp only [State.haloArrive, h, Bool.and_eq_true, beq_iff_eq, and_assoc]

/-- Taking a signal from a Basin's queue changes no Basin's binding. -/
theorem State.binding_modSignals (s : State) (n p : Nat) (rest : List (Nat × Nat × Nat × Nat)) :
    let t := s.modBasin n fun b => { b with signals := rest }
    (t.basin p).bound = (s.basin p).bound ∧ (t.basin p).context = (s.basin p).context ∧
      (t.basin p).generation = (s.basin p).generation := by
  by_cases h : p = n
  · subst h
    simp
  · simp [h]

/-! ### Performance monitors -/

theorem State.monitor_modMonitor (s : State) (m : Nat) (f : Pmu → Pmu) :
    (s.modMonitor m f).monitor m = f (s.monitor m) := by
  unfold State.monitor State.modMonitor
  by_cases h : m < 64
  · simp [h]
  · simp [h]

/-- The overflow of a counter that counts an event which the model does not count itself (R88, R89). -/
theorem execPmuOverflow_wraps {s : State} {m k : Nat} (hlive : s.live = true) (hen : (s.monitor m).en = true)
    (hf : (s.monitor m).frozen = false) (hev : fld (tget 0 (s.monitor m).evsel k) 0 6 ≠ 0)
    (hx : 64 ≤ m ∨ exactEvsel (tget 0 (s.monitor m).evsel k) = false) (i v : Nat) (exact : Bool) :
    exec (.pmuOverflow m k i v exact) s =
      let u := (s.countOn m).modMonitor m fun p => p.wrap k i v exact (m < 64)
      .next (if 64 ≤ m && bit (tget 0 (s.monitor m).evsel k) 8 then
        u.msi u.monTag (s.monitor m).msiAddr (s.monitor m).msiData else u) := by
  rw [exec, execPmuOverflow, act_live hlive]
  have hx' : (decide (m < 64) && exactEvsel (tget 0 (s.monitor m).evsel k)) = false := by
    rcases hx with h | h
    · simp [Nat.not_lt.mpr h]
    · simp [h]
  exact congrArg Host.Outcome.next (if_pos (by simp [hen, hf, hev, hx']))

/-- A Basin's monitor whose counter wraps: nothing but the Basins and the count of free values changes (R89). -/
theorem State.wrap_basinMonitor {s : State} {m : Nat} (hm : m < 64) (hen : (s.monitor m).en = true)
    (hf : (s.monitor m).frozen = false) (k i v : Nat) (exact basin : Bool) :
    let t := (s.countOn m).modMonitor m fun p => p.wrap k i v exact basin
    t = { s with basins := t.basins, freeCtr := s.freeCtr + 1 } ∧ tget 0 (t.monitor m).cnt k = 0 ∧
      (t.monitor m).ovf = (s.monitor m).ovf ||| 2 ^ k ∧ (t.monitor m).frozen = (s.monitor m).freezeOnOvf := by
  have hc : s.countOn m = s.draw.2.modMonitor m fun p => p.countOn s.freeCtr (m < 64) := if_pos (by simp [hen, hf])
  have hmon : (s.countOn m).monitor m = (s.monitor m).countOn s.freeCtr (m < 64) := by
    rw [hc, State.monitor_modMonitor]
    rfl
  intro t
  have ht : t.monitor m = ((s.monitor m).countOn s.freeCtr (m < 64)).wrap k i v exact basin := by
    rw [← hmon]
    exact State.monitor_modMonitor _ _ _
  refine ⟨?_, ?_, ?_, ?_⟩
  · simp only [t, hc, State.modMonitor, if_pos hm]
    rfl
  · rw [ht]
    exact tget_tset_same _ _ _ _
  · rw [ht]
    rfl
  · rw [ht]
    simp [Pmu.wrap, Pmu.countOn, hf]

/-- Settles O6: event by event, each from its command's equation. -/
theorem basinListEvents : Obligations.BasinListEvents := by
  refine ⟨fun s n kernel c tag node gen hlive ht hr h₁ h₂ hb => ?_, fun s n hlive hr => ?_,
    fun s u n blamed hlive hl hu => ⟨fun hl' ha => ?_, fun h => ?_⟩, fun s n blamed hlive hl ho hq => ?_,
    fun s n hlive ho hl hp => ?_, fun s n hlive hr hw hp => ?_,
    fun s n p dest bits c gen rest hlive hs htr => ⟨fun hb hc hg => ?_, fun hg => ?_⟩, fun s m hlive => ?_,
    fun s m k i v exact hlive hm hen hf hev hx => ?_, fun s u m k i v exact hlive hm hen hf hev hu => ?_⟩
  · refine ⟨_, execListStart_starts hlive ht hr h₁ h₂ hb kernel c tag node gen, rfl,
      fun m hm => s.startList_other hm kernel c tag node gen, ?_⟩
    rw [State.startList_basin]
    by_cases hc : s.boot.isolation = true ∧ (s.basin n).lastTag ≠ some tag
    · simp [hc]
    · have hc' : (s.boot.isolation && (s.basin n).lastTag != some tag) = false := by simpa using hc
      simp only [if_neg hc, hc']
      simp
  · rw [exec, execStopRequest, act_live hlive, if_pos hr]
  · rw [exec, execRankStopped, act_live hlive, if_pos hl, ← hu]
    simp [hl', ha]
  · rw [exec, execRankStopped, act_live hlive, if_pos hl, ← hu]
    exact congrArg Host.Outcome.next (if_neg (by rcases h with h | h <;> simp [h]))
  · rw [exec, execListComplete, act_live hlive]
    simp [hl, ho, hq]
  · refine exec_basinFail ?_ hp
    rw [exec, execTapTimeout, act_live hlive]
    simp [ho, hl]
  · refine exec_basinFail ?_ hp
    rw [exec, execHaloTimeout, act_live hlive]
    simp [hr, hw]
  · obtain ⟨eb, ec, eg⟩ := State.binding_modSignals s n p rest
    rw [execHaloSignalDeliver_cons hlive hs, State.haloArrive_eq htr, if_pos ⟨eb.trans hb, ec.trans hc, eg.trans hg⟩]
  · obtain ⟨-, -, eg⟩ := State.binding_modSignals s n p rest
    rw [execHaloSignalDeliver_cons hlive hs, State.haloArrive_eq htr, if_neg fun h => hg (eg.symm.trans h.2.2)]
  · rw [exec, execPmuClear, act_live hlive]
  · refine ⟨_, (execPmuOverflow_wraps hlive hen hf hev (.inr hx) i v exact).trans ?_,
      State.wrap_basinMonitor hm hen hf k i v exact (m < 64)⟩
    simp [Nat.not_le.mpr hm]
  · rw [execPmuOverflow_wraps hlive hen hf hev (.inl hm) i v exact, hu]
    simp [hm, Nat.not_lt.mpr hm]

end Sys2Proof.Machine
end

section
/-! Proofs of the family of the two hierarchies: an access at its Sluice, in the cores' caches, and the probe (O34). -/

namespace Sys2Proof.Machine

/-! ### The verdicts -/

theorem execSluiceAccess_plain {s : State} {a : Access} (hlive : s.live = true) (hc : a.core = none) (h : Bool) :
    exec (.sluiceAccess a h) s = .next (s.sluiceAccess a h) := by
  simp only [exec, execSluiceAccess, act_live hlive, hc]

/-- A denied access: the two denials that also tell another block (R366, R369). -/
theorem State.sluiceAccess_deny {s : State} {a : Access} {k : Nat} (hv : s.verdict a = .deny k) (h : Bool) :
    s.sluiceAccess a h =
      let u := (s.noteDenial a k).answerError a.origin .denied
      if k = 7 then u.latch 2 (0x100 + a.sluice) else if k = 5 then u.report 5 a.sluice (a.addr / 4096) else u := by
  have ha : s.access a = (s.noteDenial a k).answerError a.origin .denied := by simp only [State.access, hv]
  unfold State.sluiceAccess
  rw [hv, ha]
  dsimp only
  by_cases h7 : k = 7
  · subst h7; rfl
  · by_cases h5 : k = 5
    · subst h5; rfl
    · rw [if_neg h7, if_neg h5]
      split
      · contradiction
      · rename_i e; exact absurd (Verdict.deny.inj e) h7
      · rename_i e; exact absurd (Verdict.deny.inj e) h5
      · rfl

theorem State.sluiceAccess_hold {s : State} {a : Access} (hv : s.verdict a = .hold) (h : Bool) :
    s.sluiceAccess a h = { s with slc := { s.slc with held := s.slc.held ++ [a] }, resp := { kind := .held } } := by
  simp only [State.sluiceAccess, State.access, hv]
  rfl

theorem execSluiceAccess_grant {s : State} {a : Access} (hlive : s.live = true) (hc : a.core = none)
    (hv : s.verdict a = .grant) (h : Bool) : exec (.sluiceAccess a h) s = .next (s.grantedAccess a h) := by
  rw [execSluiceAccess_plain hlive hc, State.sluiceAccess, hv]

/-! ### DRAM -/

theorem State.grantedAccess_dram {s : State} {a : Access} {c : Nat} (ht : s.target a.addr = .dram c) (h : Bool) :
    s.grantedAccess a h =
      if (s.dramCtrl c).state = .off then s.answerError a.origin .memory
      else if a.write then (s.wakeDram c).dramWrite a else (s.wakeDram c).dramRead c a := by
  simp only [State.grantedAccess, State.carry, ht]

/-- A read with an uncorrectable error (R91, R117). -/
theorem State.dramRead_bad {v : State} {a : Access}
    (h : (a.ecc == 2 || v.repair.badLines.any (lineMet a.addr a.len)) = true) (c : Nat) :
    v.dramRead c a = ((v.modDram c fun d => { d with ue := (d.ue + 1) % 2 ^ 32 }).setBadLines
      (if a.ecc = 2 then insertNat (a.addr / 64) v.repair.badLines else v.repair.badLines)).answerError a.origin
      .memory :=
  if_pos (by simpa using h)

theorem State.dramRead_good {v : State} {a : Access}
    (h : (a.ecc == 2 || v.repair.badLines.any (lineMet a.addr a.len)) = false) (c : Nat) :
    v.dramRead c a = (if a.ecc = 1 then v.modDram c fun d => { d with ce := (d.ce + 1) % 2 ^ 32 } else v).answerData
      a.origin (v.rd a.addr a.len) :=
  if_neg (by simpa using h)

/-! ### The other targets -/

/-- The targets whose access is answered here (R479). -/
theorem State.grantedAccess_bank {s : State} {a : Access} {n : Nat}
    (ht : s.target a.addr = .pool n ∨ s.target a.addr = .reservoir n) (h : Bool) :
    s.grantedAccess a h = s.bankMeet (bankOf a.addr).1 (bankReqOf a) := by
  rcases ht with ht | ht <;> simp only [State.grantedAccess, State.carry, ht]

theorem State.grantedAccess_control {s : State} {a : Access}
    (ht : s.target a.addr = .ctlPriv ∨ s.target a.addr = .ctlWindow) (h : Bool) :
    s.grantedAccess a h = s.gateAccess a h := by
  rcases ht with ht | ht <;> simp only [State.grantedAccess, ht]

theorem State.grantedAccess_far {s : State} {a : Access} {n : Nat}
    (ht : s.target a.addr = .fabric ∨ s.target a.addr = .ecam n ∨ s.target a.addr = .outbound n) (h : Bool) :
    s.grantedAccess a h = { s with resp := { kind := .held } } := by
  rcases ht with ht | ht | ht <;> simp only [State.grantedAccess, ht]

theorem State.grantedAccess_mawyn {s : State} {a : Access} (ht : s.target a.addr = .mawyn) (h : Bool) :
    s.grantedAccess a h =
      if s.windowLets (apertureOf a.addr) a.len a.write = true ∧ s.windowPort (apertureOf a.addr).1 ≠ none then
        s.aperture a
      else s.answerError a.origin .denied := by
  simp only [State.grantedAccess, ht, Bool.and_eq_true, Option.isSome_iff_ne_none]

theorem State.grantedAccess_interrupt {s : State} {a : Access} {n : Nat} (ht : s.target a.addr = .interruptFile n)
    (h : Bool) : s.grantedAccess a h =
      if a.write then
        ({ s with sent := s.sent ++ [(a.tag, a.addr, a.data.take a.len)] } : State).answerData a.origin []
      else s.draw.2.answerData a.origin ((List.range a.len).map (Config.freeByte s.freeCtr)) := by
  simp only [State.grantedAccess, State.carry, ht]

theorem State.grantedAccess_hole {s : State} {a : Access} (ht : s.target a.addr = .hole) (h : Bool) :
    s.grantedAccess a h = s.answerError a.origin .denied := by
  simp only [State.grantedAccess, State.carry, ht]

/-! ### An access of a hart, and the cores' caches -/

theorem execSluiceAccess_hart {s : State} {a : Access} {u : CoreUse} (hlive : s.live = true) (hc : a.core = some u)
    (h : Bool) : exec (.sluiceAccess a h) s = .next (s.hartAccess u a h) := by
  simp only [exec, execSluiceAccess, act_live hlive, hc]

/-- A cached access of memory goes through the caches (R12, R375). -/
theorem State.hartAccess_cached {s : State} {a : Access} {u : CoreUse} {n : Nat} (hu : u.op = .cached)
    (ht : s.target a.addr = .dram n ∨ s.target a.addr = .pool n ∨ s.target a.addr = .reservoir n) (h : Bool) :
    s.hartAccess u a h = (s.modHart u.hart fun x => { x with tag := s.coreTag u.hart u.level }).cachedAccess
      (s.coreTag u.hart u.level) a.addr a.len a.write a.data := by
  have ht' (f : Hart → Hart) : (s.modHart u.hart f).target a.addr = s.target a.addr := rfl
  rcases ht with ht | ht | ht <;> simp only [State.hartAccess, hu, ht', ht, if_true]

theorem State.lineMatches_iff (s : State) (l : CoreLine) (tag : Nat) : s.lineMatches l tag = true ↔
    l.tag = tag ∨ (s.boot.isolation = false ∧ worldClass (worldOf l.tag) ≠ .enclave) := by
  simp [State.lineMatches]

theorem State.lineAccess_hit {s : State} {a tag : Nat} {l : CoreLine} (hl : tfind s.slc.coreLines (a / 64) = some l)
    (hm : s.lineMatches l tag = true) (n : Nat) (w : Bool) (d : Bytes) :
    s.lineAccess tag a n w d = s.hitLine (a / 64) l (a % 64) n w d := by
  simp only [State.lineAccess, hl, hm, if_true]

/-- A line of another tag is written back and leaves, and the access then meets no line (R375). -/
theorem State.lineAccess_mismatch {s t : State} {a tag : Nat} {l : CoreLine}
    (hl : tfind s.slc.coreLines (a / 64) = some l) (hm : s.lineMatches l tag ≠ true)
    (ht : t = (s.writeBack (a / 64)).dropLine (a / 64)) (hn : tfind t.slc.coreLines (a / 64) = none)
    (n : Nat) (w : Bool) (d : Bytes) : s.lineAccess tag a n w d = t.lineAccess tag a n w d := by
  have hm' : s.lineMatches l tag = false := by simpa using hm
  simp only [State.lineAccess, hl, hm', Bool.false_eq_true, if_false, ← ht, hn]

theorem execSluiceProbe_live {s : State} (hlive : s.live = true) (k : Nat) (grant deny : Bool) :
    exec (.sluiceProbe k grant deny) s = .next (if grant && !deny then s else s.latch 2 (0x200 + k)) := by
  rw [exec, execSluiceProbe, act_live hlive]

/-- Settles O34: by the Sluice's verdict, then the target or the part of the caches. -/
theorem sluiceAccesses : Obligations.SluiceAccesses := by
  refine ⟨fun s u a h k hlive hc hv hu => ⟨?_, fun ho => ?_⟩, fun s a h hlive hc hv => ?_,
    fun s v w a h bad c hlive hc hv ht => ⟨fun hoff => ?_, fun hon hv' => ⟨fun hw hbad => ⟨fun hb => ⟨_, rfl, ?_⟩,
      fun hb hw' => ?_⟩, fun hw hw' => ?_⟩⟩,
    fun s a h n hlive hc hv => ⟨fun ht => ?_, fun ht => ?_, fun ht => ?_, fun ht => ?_, fun ht hw => ?_,
      fun ht hw => ?_, fun ht => ?_⟩,
    fun s v a b h u hlive hc hu hv hb => ?_,
    fun s v a h u n hlive hc hv => ⟨fun hu ht => ?_, fun hu => ?_, fun hu => ?_, fun hu => ?_⟩,
    fun s tag a n w d l hl => ⟨fun hm => ?_, fun htag hiso t ht hn => ?_⟩,
    fun s k hlive => ⟨execSluiceProbe_live hlive k true false, execSluiceProbe_live hlive k false false,
      execSluiceProbe_live hlive k false true, execSluiceProbe_live hlive k true true⟩⟩
  · rw [execSluiceAccess_plain hlive hc, State.sluiceAccess_deny hv, hu]
  · rw [hu, ho, State.answerError_other]
    rfl
  · rw [execSluiceAccess_plain hlive hc, State.sluiceAccess_hold hv]
  · rw [execSluiceAccess_grant hlive hc hv, State.grantedAccess_dram ht, if_pos hoff]
  · rw [execSluiceAccess_grant hlive hc hv, State.grantedAccess_dram ht, if_neg hon, hw, ← hv',
      if_neg Bool.false_ne_true, State.dramRead_bad (hbad.symm.trans hb)]
  · rw [execSluiceAccess_grant hlive hc hv, State.grantedAccess_dram ht, if_neg hon, hw, ← hv',
      if_neg Bool.false_ne_true, State.dramRead_good (hbad.symm.trans hb), hw']
  · rw [execSluiceAccess_grant hlive hc hv, State.grantedAccess_dram ht, if_neg hon, if_pos hw, ← hv', hw']
    rfl
  · rw [execSluiceAccess_grant hlive hc hv, State.grantedAccess_bank ht]
    rfl
  · rw [execSluiceAccess_grant hlive hc hv, State.grantedAccess_control ht]
  · rw [execSluiceAccess_grant hlive hc hv, State.grantedAccess_far ht]
  · rw [execSluiceAccess_grant hlive hc hv, State.grantedAccess_mawyn ht]
  · rw [execSluiceAccess_grant hlive hc hv, State.grantedAccess_interrupt ht, if_pos hw]
    exact ⟨_, rfl, rfl⟩
  · rw [execSluiceAccess_grant hlive hc hv, State.grantedAccess_interrupt ht, if_neg (by simp [hw])]
    exact ⟨s.draw.2, _, by simp, rfl, rfl⟩
  · rw [execSluiceAccess_grant hlive hc hv, State.grantedAccess_hole ht]
  · simp only [execSluiceAccess_hart hlive hc, State.hartAccess, hu, hv, hb]
  · rw [execSluiceAccess_hart hlive hc, State.hartAccess_cached hu ht, hv]
  · simp only [execSluiceAccess_hart hlive hc, State.hartAccess, hu, hv]
  · simp only [execSluiceAccess_hart hlive hc, State.hartAccess, hu, hv]
  · simp only [execSluiceAccess_hart hlive hc, State.hartAccess, hu, hv]
  · exact State.lineAccess_hit hl ((s.lineMatches_iff l tag).mpr hm) n w d
  · refine State.lineAccess_mismatch hl (fun hm => ?_) ht hn n w d
    rcases (s.lineMatches_iff l tag).mp hm with hm | ⟨hi, he⟩
    · exact htag hm
    · rcases hiso with hiso | hiso
      · exact Bool.false_ne_true (hi.symm.trans hiso)
      · exact he hiso

end Sys2Proof.Machine
end

section
/-! Proofs of the family of the image and start-up: what acts while the device is stopped, and what drives SAFE_N high
(O57, O58). -/

namespace Sys2Proof.Safety

open Sys2Proof.Machine Sys2Proof.Laws

/-! ### Nothing acts while the device is stopped -/

theorem live_iff (s : State) : s.live = true ↔ s.pins.porstN = true ∧ s.pins.resetN = true ∧ s.tmt.freeze ≠ .frozen ∧
    s.pwr.islandLost = false := by
  simp [State.live, and_assoc]

/-- A command that acts only while the device runs leaves a stopped device as it is. -/
theorem act_stopped {s : State} (h : s.live = false) (f : State → State) : act s f = .next s := by
  simp only [act, h, Bool.false_eq_true, if_false]

/-- Every command but those of `alwaysActs` acts only while the device runs. -/
theorem exec_eq_act (c : Instr) (s : State) (hc : alwaysActs c = false) : ∃ f, exec c s = act s f := by
  cases c <;> simp only [alwaysActs, Bool.true_eq_false] at hc <;> rw [exec] <;> exact ⟨_, rfl⟩

/-- Settles O57: the device does not run, so no command that acts only while it runs changes it. -/
theorem nothingActsWhileStopped : Obligations.NothingActsWhileStopped := by
  refine ⟨fun c s hs hc => ?_, live_iff⟩
  obtain ⟨f, hf⟩ := exec_eq_act c s hc
  have hstopped : s.live = false := by
    rw [← Bool.not_eq_true, live_iff]
    rintro ⟨hp, hr, hf, hi⟩
    simp [hp, hr, hf, hi] at hs
  rw [hf, act_stopped hstopped]

/-! ### What drives SAFE_N high -/

/-- The conditions of R53 for the release of SAFE_N. -/
theorem mayRelease_iff (s : State) : s.mayRelease = true ↔ s.boot.ilkState = .waitTime ∧ s.boot.phase = .ready ∧
    s.ilkSplit = false ∧ s.ilk.lockstep = true ∧ s.boot.ilkVerified = true ∧ s.boot.selftestPassed = true ∧
    s.boot.goldenPassed = true ∧ s.tmt.valid = true ∧ s.latched = false := by
  simp [State.mayRelease, and_assoc]

/-- SAFE_N_RELEASE acts where the device runs and R53's conditions hold. -/
theorem execSafeNRelease_eq (s : State) : exec .safeNRelease s = .next (if s.live && s.mayRelease then
      { s.driveSafeN true with boot := { (s.driveSafeN true).boot with phase := .safe, ilkState := .checking } }
    else s) := by
  rw [exec, execSafeNRelease, act]
  cases s.live <;> cases s.mayRelease <;> rfl

/-- What every command but a few keeps, keeps SAFE_N low. -/
theorem low_of_keeps {s t : State} (h : Keeps s t) (hl : s.pins.safeNCmd = false) : t.pins.safeNCmd = false :=
  Bool.eq_false_iff.mpr fun ht => by simpa [hl] using h.cmd ht

/-- The boot ROM does not drive SAFE_N high. -/
theorem execResetRelease_keeps_low {s t : State} {porst : Bool} {sel : Nat} {a b c d : Bool} {march : BootMarch}
    (h : execResetRelease porst sel a b c d march s = .next t) (hl : s.pins.safeNCmd = false) :
    t.pins.safeNCmd = false := by
  cases hp : (if porst then s.pins.porstN else s.pins.resetN) with
  | true =>
    rw [execResetRelease, if_pos hp] at h
    cases h
    exact hl
  | false =>
    rw [execResetRelease_eq _ _ _ _ _ _ _ _ hp] at h
    cases h
    have hpins : ({ s with pins := releasedPins porst sel s.pins } : State).pins.safeNCmd = false := by
      cases porst <;> exact hl
    dsimp only
    split
    · exact low_of_keeps (State.runRom_keeps _ _ _ _ _ _ _ _ (Keeps.refl _)) hpins
    · exact hpins

/-- No command but SAFE_N_RELEASE drives SAFE_N high. -/
theorem exec_keeps_low {c : Instr} {s t : State} (h : exec c s = .next t) (hc : c ≠ .safeNRelease)
    (hl : s.pins.safeNCmd = false) : t.pins.safeNCmd = false := by
  cases hb : breaks c with
  | false =>
    obtain ⟨u, hu, hk⟩ := exec_keeps c s (Keeps.refl s) hb
    cases h.symm.trans hu
    exact low_of_keeps hk hl
  | true =>
    cases c <;> simp only [breaks, Bool.false_eq_true] at hb
    case porstNAssert => cases h; rfl
    case resetNAssert =>
      rw [exec, execResetNAssert] at h
      split at h <;> cases h
      · exact hl
      · rfl
    case resetRelease => exact execResetRelease_keeps_low h hl
    case safeNRelease => exact absurd rfl hc

/-- A step that drives SAFE_N high runs SAFE_N_RELEASE, the device running and R53's conditions holding. -/
theorem step_raises {s t : State} (h : step s = .next t) (hl : s.pins.safeNCmd = false)
    (ht : t.pins.safeNCmd = true) :
    s.pending.head? = some .safeNRelease ∧ s.live = true ∧ s.mayRelease = true := by
  unfold step at h
  split at h
  · cases h
    exact absurd ht (by simp [low_of_keeps (State.tick_keeps s (Keeps.refl s)) hl])
  · rename_i c rest hq
    by_cases hc : c = .safeNRelease
    · subst hc
      refine ⟨by rw [hq]; rfl, ?_⟩
      rw [execSafeNRelease_eq] at h
      cases h
      split at ht
      · rename_i hm
        exact Bool.and_eq_true_iff.mp hm
      · exact absurd ht (by simp [hl])
    · exact absurd ht (by simp [exec_keeps_low h hc hl])

/-- Settles O58: of the commands only SAFE_N_RELEASE drives SAFE_N high, and a reset holds it low by the invariant. -/
theorem onlyTheInterlockingReleasesSafeN : Obligations.OnlyTheInterlockingReleasesSafeN := by
  refine ⟨fun s t _ h hl ht => ?_, fun s t _ h hl hp => ?_, fun s t hi h => (everyStepKeepsInv s t hi h).held⟩
  · obtain ⟨hq, hlive, hm⟩ := step_raises h hl ht
    obtain ⟨hst, hph, hsplit, hlock, hver, hself, hgold, hval, hlat⟩ := (mayRelease_iff s).mp hm
    exact ⟨hq, hlive, hph, hst, hver, by simpa [State.ilkSplit] using hsplit, hlock, hself, hgold, hval,
      by simpa [State.latched] using hlat⟩
  · refine Bool.eq_false_iff.mpr fun ht => ?_
    obtain ⟨-, -, hm⟩ := step_raises h hl ht
    exact hp ((mayRelease_iff s).mp hm).2.1

end Sys2Proof.Safety
end

section
/-! Proofs of the family of the image and start-up: the causes of the safe state and its assertion (O31). -/

namespace Sys2Proof.Machine

/-! ### The latch and the commanded level -/

theorem State.latched_iff (s : State) : s.latched = true ↔ s.ilk.safeCause ≠ 0 := by simp [State.latched]

/-- A later cause is counted, and the second code kept (R290). -/
theorem State.latch_later {s : State} (h : s.latched = true) (cause sub : Nat) :
    s.latch cause sub = { s with ilk := { s.ilk with
      causeCount := min (s.ilk.causeCount + 1) 255
      secondCause := if s.ilk.secondCause = 0 then cause else s.ilk.secondCause } } := if_pos h

/-- SAFE_N driven low: where it was high the next read-back is skipped (R288). -/
theorem State.driveSafeN_low (s : State) : s.driveSafeN false = { s with
    pins := { s.pins with safeNCmd := false }
    ilk := { s.ilk with readbackSkip := s.ilk.readbackSkip || s.pins.safeNCmd } } := by
  cases h : s.pins.safeNCmd with
  | false => rw [State.driveSafeN, if_pos h, Bool.or_false, ← h]
  | true => rw [State.driveSafeN, if_neg (by simp [h]), Bool.or_true]

theorem State.ilkSplit_iff (s : State) : s.ilkSplit = true ↔ byteAt (s.sec secIsland) 0 = 1 := by simp [State.ilkSplit]

/-! ### The island's own monitors -/

theorem execLockstepMismatch_live {s : State} (h : s.live = true) : exec .lockstepMismatch s =
    .next (if s.ilk.debugBroken || s.ilkSplit then s
      else State.latch { s with ilk := { s.ilk with lockstep := false } } 1 0) := by
  rw [exec, execLockstepMismatch, act_live h]

theorem execRtcMismatch_live {s : State} (h : s.live = true) (p : Nat) : exec (.rtcMismatch p) s =
    .next (if s.rtcSplit p || s.ilk.rtcBroken.contains p then s else s.latch 0x0E p) := by
  rw [exec, execRtcMismatch, act_live h]

theorem execDebugInvasive_live {s : State} (h : s.live = true) : exec .debugInvasive s =
    .next (if bit s.slc.dbgInv 1 then s.breakLockstep else s) := by
  rw [exec, execDebugInvasive, act_live h]

/-- Settles O31: the latch by whether a cause stands, each monitor by the conditions it looks at. -/
theorem safeStateCauses : Obligations.SafeStateCauses := by
  refine ⟨fun s c n => ⟨fun h => if_neg (by simp [s.latched_iff, h]),
      fun h => State.latch_later (s.latched_iff.mpr h) c n⟩,
    fun s hlive => ⟨fun hs hb => ?_, fun h => ?_⟩,
    fun s n hlive => ⟨?_, ?_⟩,
    fun s p hlive => ⟨fun hs hb => ?_, fun h => ?_⟩,
    fun s v hlive hv => ⟨fun hb hs => ?_, fun h => ?_⟩,
    fun s hlive => ⟨fun hp ht => ?_, fun h => ?_⟩,
    fun s v k pass hlive => ⟨fun ht => ?_, fun ht hv => ?_⟩,
    fun s l hlive => ⟨fun hs => ?_, fun hs hl => ?_, fun hs hl => ?_⟩,
    fun s b hlive hb => ⟨fun hl ha hw => ?_, fun h => ?_⟩⟩
  · rw [execLockstepMismatch_live hlive, if_neg (by simp [hb, s.ilkSplit_iff, hs])]
  · rw [execLockstepMismatch_live hlive, if_pos (by simpa [s.ilkSplit_iff] using h.symm)]
  · rw [exec, execCheckerMismatch, act_live hlive]
  · rw [exec, execIslandEcc, act_live hlive]
  · rw [execRtcMismatch_live hlive, if_neg (by simp [hs, hb])]
  · rw [execRtcMismatch_live hlive, if_pos (by simpa using h)]
  · rw [execDebugInvasive_live hlive, if_pos hb, State.breakLockstep, if_neg (by simp [s.ilkSplit_iff, hs]), hv]
  · rw [execDebugInvasive_live hlive]
    rcases h with hb | hs
    · rw [if_neg (by simp [hb])]
    · rw [State.breakLockstep, if_pos (s.ilkSplit_iff.mpr hs), ite_self]
  · rw [exec, execSelftestSliceStart, act_live hlive, if_neg (by simp [hp, ht])]
  · rw [exec, execSelftestSliceStart, act_live hlive, if_pos (by simpa [Option.isSome_iff_ne_none] using h)]
  · simp only [exec, execSelftestSliceEnd, act_live hlive, ht]
  · simp only [exec, execSelftestSliceEnd, act_live hlive, ht, hv]
    rfl
  · rw [exec, execSafeNReadback, act_live hlive, if_pos hs]
  · rw [exec, execSafeNReadback, act_live hlive, if_neg (by simp [hs]), if_pos (by simp [hl])]
  · rw [exec, execSafeNReadback, act_live hlive, if_neg (by simp [hs]), if_neg (by simpa using hl)]
  · rw [exec, execSafeNAssert, act_live hlive]
    dsimp only
    rw [if_neg, State.driveSafeN_low, hb]
    rcases hw with hw | hw <;> simp [hl, ha, ← hb, hw]
  · rw [exec, execSafeNAssert, act_live hlive]
    dsimp only
    rw [if_pos]
    rcases h with h | h | ⟨h, hn⟩
    · simp [h]
    · simp [h]
    · simp [← hb, h, hn]

end Sys2Proof.Machine
end

section
/-! Proofs of the family of the image and start-up: no access and no evaluation of the Signal box changes the start-up
record or stops the Stationmaster's loops. -/

namespace Sys2Proof.Machine

/-! ### The start-up record and the firmware's loops -/

/-- The start-up record, and whether the Stationmaster's firmware runs its loops. -/
def State.bootLoops (s : State) : Boot × Bool := (s.boot, s.fwLoops)

theorem State.boot_of_bootLoops {s t : State} (h : t.bootLoops = s.bootLoops) : t.boot = s.boot := congrArg Prod.fst h

theorem State.fwLoops_of_bootLoops {s t : State} (h : t.bootLoops = s.bootLoops) : t.fwLoops = s.fwLoops :=
  congrArg Prod.snd h

/-- What an access that nothing waits for cannot reach, holds both. -/
theorem State.bootLoops_of_beside {s t : State} (h : t.beside = s.beside) : t.bootLoops = s.bootLoops := by
  have hb := congrArg State.bootLoops h
  exact hb

theorem State.bootLoops_ite {s t u : State} {c : Prop} [Decidable c] (ht : t.bootLoops = s.bootLoops)
    (hu : u.bootLoops = s.bootLoops) : (if c then t else u).bootLoops = s.bootLoops := by
  split
  · exact ht
  · exact hu

theorem State.bootLoops_foldl {α : Type} {f : State → α → State} (h : ∀ s a, (f s a).bootLoops = s.bootLoops)
    (l : List α) (s : State) : (l.foldl f s).bootLoops = s.bootLoops := by
  induction l generalizing s with
  | nil => rfl
  | cons a l ih => exact (ih (f s a)).trans (h s a)

theorem State.withResp_bootLoops (s : State) (r : Resp) : State.bootLoops { s with resp := r } = s.bootLoops := rfl

theorem State.withIlk_bootLoops (s : State) (i : Ilk) : State.bootLoops { s with ilk := i } = s.bootLoops := rfl

theorem State.withTtb_bootLoops (s : State) (t : Ttb) : State.bootLoops { s with ttb := t } = s.bootLoops := rfl

theorem State.modConsist_bootLoops (s : State) (c : Nat) (f : Consist → Consist) :
    (s.modConsist c f).bootLoops = s.bootLoops := rfl

theorem State.wr_bootLoops (s : State) (a : Nat) (b : Bytes) : (s.wr a b).bootLoops = s.bootLoops := rfl

theorem State.modDram_bootLoops (s : State) (c : Nat) (f : DramCtrl → DramCtrl) :
    (s.modDram c f).bootLoops = s.bootLoops := rfl

theorem State.setBadLines_bootLoops (s : State) (l : List Nat) : (s.setBadLines l).bootLoops = s.bootLoops := rfl

theorem State.mwlSend_bootLoops (s : State) (dst : Nat) (prio : Bool) (flit : Nat → Bytes) (data : Bytes) :
    (s.mwlSend dst prio flit data).bootLoops = s.bootLoops :=
  State.bootLoops_of_beside (s.mwlSend_beside dst prio flit data)

theorem State.msi_bootLoops (s : State) (tag a data : Nat) : (s.msi tag a data).bootLoops = s.bootLoops :=
  State.bootLoops_of_beside (s.msi_beside tag a data)

/-! ### Answers -/

theorem State.basinFail_bootLoops (s : State) (n idx status : Nat) :
    (s.basinFail n idx status).bootLoops = s.bootLoops := by
  unfold State.basinFail State.dropWalkerPin
  cases (s.basin n).walkerPin <;> rfl

theorem State.listFails_bootLoops (s : State) (n idx status : Nat) :
    (s.listFails n idx status).bootLoops = s.bootLoops := by
  unfold State.listFails
  split
  · exact s.basinFail_bootLoops n idx status
  · rfl

theorem State.lineAnswered_bootLoops (s : State) (n idx : Nat) : (s.lineAnswered n idx).bootLoops = s.bootLoops := rfl

theorem State.recordDone_bootLoops (s : State) (g : Nat) (ok : Bool) :
    (s.recordDone g ok).bootLoops = s.bootLoops := by
  cases ok <;> rfl

theorem State.tokenReceive_bootLoops (s : State) (token value device tag gen : Nat) :
    (s.tokenReceive token value device tag gen).bootLoops = s.bootLoops := by
  unfold State.tokenReceive
  dsimp only
  split <;> rfl

theorem State.routeWritten_bootLoops (s : State) (i slot : Nat) (ok : Bool) :
    (s.routeWritten i slot ok).bootLoops = s.bootLoops := by
  unfold State.routeWritten
  split
  · rfl
  · split
    · rfl
    · cases ok <;> rfl

theorem State.frameAnswered_bootLoops (s : State) (id : Nat) (acked : Bool) :
    (s.frameAnswered id acked).bootLoops = s.bootLoops := by
  unfold State.frameAnswered
  split
  · rfl
  · dsimp only
    split <;> rfl

theorem State.queueLost_bootLoops (s : State) (q : Nat) (id : Option Nat) :
    (s.queueLost q id).bootLoops = s.bootLoops := by
  unfold State.queueLost
  cases id with
  | none => rfl
  | some id =>
    dsimp only
    split
    · exact State.frameAnswered_bootLoops _ id false
    · rfl

/-- Whatever waits for an answer, its settlement leaves both. -/
theorem State.settled_bootLoops (s : State) (o : Origin) (e : AccessError) :
    (s.settled o e).bootLoops = s.bootLoops := by
  unfold State.settled
  split
  · rfl
  · dsimp only
    cases o with
    | other => rfl
    | core src tag => rfl
    | basin n => exact State.bootLoops_ite rfl (s.listFails_bootLoops _ _ _)
    | dma n run idx =>
      exact State.bootLoops_ite rfl (State.bootLoops_ite (s.lineAnswered_bootLoops n idx) (s.listFails_bootLoops _ _ _))
    | dmaRead n run idx line => exact State.bootLoops_ite rfl (s.listFails_bootLoops _ _ _)
    | record g => exact s.recordDone_bootLoops g _
    | head ring => dsimp only; split <;> rfl
    | route i slot => exact s.routeWritten_bootLoops i slot _
    | header slot => rfl
    | line p f l => dsimp only; split <;> rfl
    | slot q id => exact State.bootLoops_ite rfl (s.queueLost_bootLoops _ _)
    | index q id => exact State.bootLoops_ite rfl (s.queueLost_bootLoops _ _)
    | reply t a d => dsimp only; split <;> rfl
    | kvc token value tag gen => exact State.bootLoops_ite (s.tokenReceive_bootLoops _ _ _ _ _) rfl
    | inbound f =>
      dsimp only
      split
      · exact State.mwlSend_bootLoops _ _ _ _ _
      · split <;> exact s.mwlSend_bootLoops _ _ _ _

theorem State.answerData_bootLoops (s : State) (o : Origin) (b : Bytes) :
    (s.answerData o b).bootLoops = s.bootLoops := State.settled_bootLoops _ o _

theorem State.answerError_bootLoops (s : State) (o : Origin) (e : AccessError) :
    (s.answerError o e).bootLoops = s.bootLoops := State.settled_bootLoops _ o e

/-! ### Accesses, whatever waits for their answers -/

theorem State.bankServe_bootLoops (s : State) (k : Nat) (r : BankReq) : (s.bankServe k r).bootLoops = s.bootLoops := by
  unfold State.bankServe
  dsimp only
  split
  · exact State.answerData_bootLoops _ _ _
  · split
    · exact State.answerError_bootLoops _ _ _
    · rw [State.answerData_bootLoops]
      split <;> rfl

theorem State.bankMeet_bootLoops (s : State) (k : Nat) (r : BankReq) : (s.bankMeet k r).bootLoops = s.bootLoops := by
  cases hj : s.bankJudge k r with
  | serve => rw [State.bankMeet_serve hj]; exact s.bankServe_bootLoops k r
  | hold => rw [State.bankMeet_hold hj]; rfl
  | fault c => rw [State.bankMeet_fault hj]; exact State.answerError_bootLoops _ _ _

theorem State.poolDeliver_bootLoops (s : State) (n run idx line : Nat) (data : Bytes) :
    (s.poolDeliver n run idx line data).bootLoops = s.bootLoops := by
  unfold State.poolDeliver
  dsimp only
  split
  · exact s.bankMeet_bootLoops _ _
  · exact State.answerError_bootLoops _ _ _
  · rfl

theorem State.answerTxn_bootLoops (s : State) (o : Origin) (r : Option Bytes) :
    (s.answerTxn o r).bootLoops = s.bootLoops := by
  unfold State.answerTxn
  split
  · split
    · exact s.poolDeliver_bootLoops _ _ _ _ _
    · rfl
  · exact s.answerData_bootLoops _ _
  · exact s.answerError_bootLoops _ _

theorem State.tryTxn_bootLoops (s : State) (q : MwlReq) : (s.tryTxn q).bootLoops = s.bootLoops := by
  unfold State.tryTxn
  dsimp only
  split
  · exact s.answerTxn_bootLoops _ _
  · split
    · exact s.answerTxn_bootLoops _ _
    · split
      · rfl
      · exact State.bootLoops_of_beside (s.issueTxn_beside q _)

theorem State.retryWaiting_bootLoops (s : State) : s.retryWaiting.bootLoops = s.bootLoops :=
  State.bootLoops_foldl State.tryTxn_bootLoops _ _

theorem State.endTxn_bootLoops (s : State) (id : Nat) (r : Option Bytes) :
    (s.endTxn id r).bootLoops = s.bootLoops := by
  unfold State.endTxn
  split
  · rfl
  · exact (State.retryWaiting_bootLoops _).trans (State.answerTxn_bootLoops _ _ _)

theorem State.freeAnswer_bootLoops (s : State) (n : Nat) : (s.freeAnswer n).bootLoops = s.bootLoops :=
  State.bootLoops_of_beside (s.freeAnswer_beside n)

theorem State.aperture_bootLoops (s : State) (acc : Access) : (s.aperture acc).bootLoops = s.bootLoops := by
  unfold State.aperture
  dsimp only
  refine (State.bootLoops_ite (State.freeAnswer_bootLoops _ _) rfl).trans ?_
  rw [State.tryTxn_bootLoops, State.withResp_bootLoops]

theorem State.dramWrite_bootLoops (s : State) (acc : Access) : (s.dramWrite acc).bootLoops = s.bootLoops := by
  unfold State.dramWrite
  dsimp only
  rw [State.answerData_bootLoops]
  refine (State.bootLoops_of_beside ((State.indexWatch_beside _ _ _ _ _).trans
    (State.tailWatch_beside _ _ _ _ _))).trans ?_
  refine (State.bootLoops_ite rfl (State.bootLoops_of_beside (State.logWrite_beside _ _ _))).trans ?_
  rw [State.setBadLines_bootLoops, State.wr_bootLoops]

theorem State.dramRead_bootLoops (s : State) (c : Nat) (acc : Access) :
    (s.dramRead c acc).bootLoops = s.bootLoops := by
  unfold State.dramRead
  dsimp only
  refine State.bootLoops_ite ?_ ?_
  · rw [State.answerError_bootLoops, State.setBadLines_bootLoops, State.modDram_bootLoops]
  · rw [State.answerData_bootLoops]
    exact State.bootLoops_ite (State.modDram_bootLoops _ _ _) rfl

theorem State.carry_bootLoops (s : State) (acc : Access) : (s.carry acc).bootLoops = s.bootLoops := by
  unfold State.carry
  split
  · rename_i c _
    split
    · exact s.answerError_bootLoops _ _
    · have hw := State.bootLoops_of_beside (s.wakeDram_beside c)
      dsimp only
      split
      · exact (State.dramWrite_bootLoops _ _).trans hw
      · exact (State.dramRead_bootLoops _ _ _).trans hw
  · exact s.bankMeet_bootLoops _ _
  · exact s.bankMeet_bootLoops _ _
  · exact s.aperture_bootLoops acc
  · exact s.answerError_bootLoops _ _
  · split <;> exact State.answerData_bootLoops _ _ _

theorem State.access_bootLoops (s : State) (acc : Access) : (s.access acc).bootLoops = s.bootLoops := by
  rcases s.access_cases acc with ⟨-, he⟩ | ⟨-, he⟩ | ⟨k, -, he⟩
  · rw [he, s.carry_bootLoops]
  · rw [he]; rfl
  · rw [he, State.answerError_bootLoops]; rfl

theorem State.devAccess_bootLoops (s : State) (o : Origin) (tag a len : Nat) (write : Bool) (data : Bytes) :
    (s.devAccess o tag a len write data).bootLoops = s.bootLoops := by
  unfold State.devAccess
  split
  · exact s.access_bootLoops _
  · exact s.answerError_bootLoops o _

theorem State.sendReplies_bootLoops (s : State) : s.sendReplies.bootLoops = s.bootLoops := by
  unfold State.sendReplies
  refine (State.bootLoops_foldl (fun s e => ?_) _ _).trans rfl
  exact s.msi_bootLoops e.1 e.2.1 e.2.2

/-! ### The Signal box (R131, R137) -/

theorem State.modNode_bootLoops (s : State) (k : Nat) (f : Node → Node) :
    (s.modNode k f).bootLoops = s.bootLoops := rfl

theorem State.modGraph_bootLoops (s : State) (g : Nat) (f : Graph → Graph) :
    (s.modGraph g f).bootLoops = s.bootLoops := rfl

theorem State.foldl_modNode_bootLoops {α : Type} (k : α → Nat) (f : α → Node → Node) (l : List α) (s : State) :
    (l.foldl (fun s e => s.modNode (k e) (f e)) s).bootLoops = s.bootLoops := by
  refine State.bootLoops_foldl (fun s e => ?_) l s
  exact s.modNode_bootLoops _ _

theorem State.sendTokens_bootLoops (s : State) (n : Node) : (s.sendTokens n).bootLoops = s.bootLoops := by
  refine State.bootLoops_foldl (fun s e => ?_) _ s
  dsimp only
  split
  · exact s.tokenReceive_bootLoops _ _ _ _ _
  · split
    · exact s.mwlSend_bootLoops _ _ _ _
    · rfl

theorem State.endGraph_bootLoops (s : State) (g status : Nat) : (s.endGraph g status).bootLoops = s.bootLoops :=
  (State.modGraph_bootLoops _ _ _).trans (State.foldl_modNode_bootLoops id _ _ s)

theorem State.noteFailure_bootLoops (s : State) (g : Nat) (n : Node) (status failCmd : Nat) :
    (s.noteFailure g n status failCmd).bootLoops = s.bootLoops :=
  State.bootLoops_ite rfl ((State.modGraph_bootLoops _ _ _).trans (s.endGraph_bootLoops g 2))

theorem State.writeRecord_bootLoops (s : State) (g : Nat) (bad : Bool) (r : Bytes) :
    (s.writeRecord g bad r).bootLoops = s.bootLoops :=
  State.bootLoops_ite (s.recordDone_bootLoops g false) (State.bootLoops_ite rfl
    ((State.devAccess_bootLoops _ _ _ _ _ _ _).trans (State.modGraph_bootLoops _ _ _)))

theorem State.finishGraph_bootLoops (s : State) (g : Nat) (bad : Bool) :
    (s.finishGraph g bad).bootLoops = s.bootLoops :=
  (State.writeRecord_bootLoops _ g bad _).trans (State.modGraph_bootLoops _ _ _)

theorem State.finishNode_bootLoops (s : State) (slot : Nat) : (s.finishNode slot).bootLoops = s.bootLoops := by
  unfold State.finishNode
  dsimp only
  refine (State.bootLoops_ite (State.finishGraph_bootLoops _ _ _) rfl).trans ?_
  refine (State.bootLoops_ite rfl ?_).trans (s.modNode_bootLoops slot _)
  exact (State.bootLoops_ite (State.sendTokens_bootLoops _ _) rfl).trans (State.foldl_modNode_bootLoops _ _ _ _)

theorem State.completeNode_bootLoops (s : State) (slot status failCmd : Nat) :
    (s.completeNode slot status failCmd).bootLoops = s.bootLoops := by
  unfold State.completeNode
  dsimp only
  refine (State.bootLoops_ite (State.withIlk_bootLoops _ _) (State.finishNode_bootLoops _ slot)).trans ?_
  exact (State.bootLoops_ite (State.noteFailure_bootLoops _ _ _ _ _) rfl).trans (s.modNode_bootLoops slot _)

theorem State.raiseIdle_bootLoops (s : State) (slot : Nat) : (s.raiseIdle slot).bootLoops = s.bootLoops := by
  unfold State.raiseIdle
  dsimp only
  exact State.bootLoops_ite rfl ((State.withTtb_bootLoops _ _).trans (s.modConsist_bootLoops _ _))

theorem State.makeReady_bootLoops (s : State) (slot : Nat) (late : Bool) :
    (s.makeReady slot late).bootLoops = s.bootLoops :=
  (State.modNode_bootLoops _ _ _).trans (s.raiseIdle_bootLoops slot)

theorem State.releaseNode_bootLoops (s : State) (slot : Nat) : (s.releaseNode slot).bootLoops = s.bootLoops := by
  unfold State.releaseNode
  dsimp only
  refine State.bootLoops_ite (s.completeNode_bootLoops slot _ _) ?_
  refine (State.bootLoops_ite (State.completeNode_bootLoops _ slot _ _) (State.makeReady_bootLoops _ slot _)).trans ?_
  exact State.bootLoops_ite (s.modGraph_bootLoops _ _) rfl

theorem State.evaluate_bootLoops (s : State) (slot : Nat) : (s.evaluate slot).bootLoops = s.bootLoops := by
  unfold State.evaluate
  dsimp only
  refine State.bootLoops_ite (State.bootLoops_ite (s.completeNode_bootLoops slot _ _) ?_)
    (State.bootLoops_ite (s.completeNode_bootLoops slot _ _) ?_)
  · refine Eq.trans ?_ (s.modNode_bootLoops slot
      fun n => { n with state := .release, nextFrom := s.eventCount (fld n.release 8 16) })
    split
    · exact State.releaseNode_bootLoops _ slot
    · exact State.completeNode_bootLoops _ slot _ _
    · exact State.bootLoops_ite (State.completeNode_bootLoops _ slot _ _) rfl
  · split
    · exact s.releaseNode_bootLoops slot
    · exact s.completeNode_bootLoops slot _ _
    · rfl

theorem State.settleN_bootLoops : ∀ (k : Nat) (s : State), (State.settleN k s).bootLoops = s.bootLoops
  | 0, _ => rfl
  | k + 1, s => by
    unfold State.settleN
    split
    · exact (State.settleN_bootLoops k _).trans (s.evaluate_bootLoops _)
    · rfl

theorem State.settle_bootLoops (s : State) : s.settle.bootLoops = s.bootLoops :=
  (State.settleN_bootLoops _ _).trans s.sendReplies_bootLoops

/-! ### The routes of the Mawyn links (R147, R441) -/

theorem State.deviceLost_bootLoops (s : State) (d : Nat) : (s.deviceLost d).bootLoops = s.bootLoops := by
  unfold State.deviceLost
  refine (State.bootLoops_foldl (fun s id => ?_) _ _).trans rfl
  exact s.endTxn_bootLoops id none

theorem State.recompute_bootLoops (s : State) : s.recompute.bootLoops = s.bootLoops := by
  unfold State.recompute
  refine (State.settle_bootLoops _).trans ((State.retryWaiting_bootLoops _).trans ?_)
  exact (State.bootLoops_foldl State.deviceLost_bootLoops _ _).trans rfl

end Sys2Proof.Machine
end

section
/-! Proofs of the family of the image and start-up: the boot ROM's steps and both verifications (O2, O3). -/

namespace Sys2Proof.Machine

open Sys2Proof.Laws Sys2Proof.Safety

/-! ### The staging area, and a failure of start-up -/

/-- A loop whose body touches only memory and banks. -/
theorem State.foldl_memBanks {α : Type} {f : State → α → State}
    (h : ∀ s a, ∃ m b, f s a = { s with mem := m, banks := b }) (l : List α) (s : State) :
    ∃ m b, l.foldl f s = { s with mem := m, banks := b } := by
  induction l generalizing s with
  | nil => exact ⟨s.mem, s.banks, rfl⟩
  | cons a l ih =>
    obtain ⟨m, b, ha⟩ := h s a
    obtain ⟨m', b', hl⟩ := ih (f s a)
    exact ⟨m', b', by rw [List.foldl_cons, hl, ha]⟩

theorem State.scrubStaging_eq (s : State) : ∃ m b, s.scrubStaging = { s with mem := m, banks := b } := by
  refine State.foldl_memBanks (fun s i => ?_) _ s
  exact ⟨_, _, rfl⟩

theorem State.applyBankown_eq (s : State) (ks : List Nat) :
    ∃ m b, s.applyBankown ks = { s with mem := m, banks := b } := by
  refine State.foldl_memBanks (fun s k => ?_) _ s
  exact ⟨_, _, rfl⟩

theorem State.driveSafeN_cmd (s : State) (l : Bool) : (s.driveSafeN l).pins.safeNCmd = l := by
  obtain ⟨skip, h⟩ := s.driveSafeN_eq l
  rw [h]

/-- What a failure of start-up records (R55, R57). -/
theorem State.bootFail_boot (s : State) (f : ImageFault) (cure : Bool) :
    (s.bootFail f cure).boot.phase = .failed ∧ (s.bootFail f cure).boot.failCode = f.code ∧
    (s.bootFail f cure).boot.detailSection = f.sect ∧ (s.bootFail f cure).boot.fieldOffset = f.offset :=
  ⟨rfl, rfl, rfl, rfl⟩

theorem State.bootFail_safeN (s : State) (f : ImageFault) (cure : Bool) :
    (s.bootFail f cure).pins.safeNCmd = false := by
  rw [State.bootFail]
  generalize failOff.foldl State.forceOff s = u
  exact u.scrubStaging.driveSafeN_cmd false

/-! ### Steps 1 to 4 (R52) -/

/-- The boot ROM with every self-check passing and nothing found by its march. -/
theorem State.runRom_passes {s : State} (h : s.pins.bootSel ≠ 3) :
    s.runRom true true true true [] [] [] = { s with
      clocks := bootClocks true, banks := bootBanks, mem := memWrite s.mem logBase (leBytes 4 0x01474F4C)
      repair := { s.repair with built := true }
      boot := { s.boot with step := 4, phase := .load, identityReadable := true, supLoad := s.pins.bootSel == 1 } } :=
  if_neg h

theorem releasedPins_both {p : Pins} {porst : Bool} (hp : p.porstN = !porst) (hr : p.resetN = porst) (sel : Nat) :
    (releasedPins porst sel p).porstN = true ∧ (releasedPins porst sel p).resetN = true := by
  cases porst <;> simp [releasedPins, hp, hr]

theorem releasedPins_bootSel (porst : Bool) (sel : Nat) (p : Pins) :
    (releasedPins porst sel p).bootSel = sel ∧ (releasedPins porst sel p).safeNCmd = p.safeNCmd := by
  cases porst <;> exact ⟨rfl, rfl⟩

/-- RESET_RELEASE of the last low pin runs the boot ROM. -/
theorem execResetRelease_last {s : State} {porst : Bool} (hp : s.pins.porstN = !porst) (hr : s.pins.resetN = porst)
    (sel : Nat) (a b c d : Bool) (march : BootMarch) :
    exec (.resetRelease porst sel a b c d march) s =
      .next (State.runRom { s with pins := releasedPins porst sel s.pins } a b c d march.rows march.badSpares
        march.badSweepRows) := by
  obtain ⟨h₁, h₂⟩ := releasedPins_both hp hr sel
  rw [exec, execResetRelease_eq _ _ _ _ _ _ _ _ (by cases porst <;> simp [hp, hr])]
  simp only [h₁, h₂, Bool.and_self, if_true]

/-- Settles O2: the release by `releasedPins`, and the boot ROM on the pins that it leaves. -/
theorem startUpBegins : Obligations.StartUpBegins := by
  refine ⟨fun s porst a b c d sel march hp hr => ?_, fun s porst sel hp hr hsel _ => ?_,
    fun s porst b c d sel march hp hr => ?_⟩
  · rw [exec, execResetRelease_eq _ _ _ _ _ _ _ _ (by cases porst <;> simp [hp, hr])]
    cases porst <;> simp [releasedPins, hp, hr]
  · obtain ⟨h₁, h₂⟩ := releasedPins_both hp hr sel
    obtain ⟨hs, hc⟩ := releasedPins_bootSel porst sel s.pins
    have hrom := State.runRom_passes (s := { s with pins := releasedPins porst sel s.pins })
      (show (releasedPins porst sel s.pins).bootSel ≠ 3 by omega)
    refine ⟨_, (execResetRelease_last hp hr sel true true true true {}).trans (congrArg Host.Outcome.next hrom), ?_⟩
    exact ⟨h₁, h₂, hs, hc, by simp only [hs], rfl⟩
  · exact ⟨_, execResetRelease_last hp hr sel false b c d march, rfl, rfl, State.bootFail_safeN _ _ _⟩

/-! ### Step 5: an image is staged (R33) -/

/-- IMAGE_STAGED in PHASE LOAD without an image, slot A next. -/
theorem execImageStaged_slotA {s : State} (hlive : s.live = true) (hph : s.boot.phase = .load)
    (hst : s.boot.imageStaged = false) (hsup : s.boot.supLoad = false) (hsel : s.pins.bootSel = 0 ∨ s.pins.bootSel = 2)
    (ha : s.boot.slotAFailed = false) (readable : Bool) (content : Bytes) :
    exec (.imageStaged readable content) s = .next (if readable then s.stage content .slotA
      else State.slotFailed { s with boot := { s.boot with bootSrc := .slotA } } { code := 0x01 } false) := by
  rw [exec, execImageStaged, act_live hlive]
  dsimp only
  rw [if_neg (by simp [hph, hst, hsup]; omega), ha]
  rfl

/-- A staged image stands at the foot of slice 0, in staging and in the record. -/
theorem State.stage_eq (s : State) (content : Bytes) (src : BootSrc) : ∃ m b,
    s.stage content src = { s with
      mem := m, banks := b
      boot := { s.boot with imageStaged := true, bootSrc := src, ilkState := .verify,
                            image := (s.stage content src).boot.image } } ∧
    ∀ i, i < (s.stage content src).boot.image.length →
      memGet m (rsvBase + i) = (s.stage content src).boot.image.getD i 0 := by
  obtain ⟨m, b, h⟩ := s.scrubStaging_eq
  refine ⟨memWrite m rsvBase (s.stage content src).boot.image, b, by simp only [State.stage, h]; rfl, fun i hi => ?_⟩
  rw [memGet_memWrite_in _ _ _ _ (by omega) (by omega), Nat.add_sub_cancel_left]

/-- Slot A fails: it is noted, and slot B is next. -/
theorem State.slotFailed_slotA {s : State} (h : s.boot.slotAFailed = false) (f : ImageFault) (readable : Bool) :
    s.slotFailed f readable = { s with boot := { s.boot with
      imageStaged := false, image := [], ilkState := .rom, slotAFailed := true, slotARead := readable
      slotACode := f.code, detailSection := f.sect, fieldOffset := f.offset } } :=
  if_neg (by simp [h])

/-! ### Step 6: the boot ROM's verification (R35, R52) -/

theorem execStmVerifyDone_fault {s : State} (hlive : s.live = true) (hph : s.boot.phase = .load)
    (hst : s.boot.imageStaged = true) (locked : Bool) {f : ImageFault}
    (hf : imageFault s.boot.image s.identity = some f) :
    exec (.stmVerifyDone locked) s =
      .next (if s.boot.bootSrc == .supervisor then s.bootFail f true else s.slotFailed f true) := by
  rw [exec, execStmVerifyDone, act_live hlive, if_neg (by simp [hph, hst])]
  simp only [hf]

theorem execStmVerifyDone_sound {s u : State} (hlive : s.live = true) (hph : s.boot.phase = .load)
    (hst : s.boot.imageStaged = true) (locked : Bool) (hf : imageFault s.boot.image s.identity = none)
    (hu : u = (s.noteImage).applySections [secSmfw, secClockplan, secRepair]) :
    exec (.stmVerifyDone locked) s =
      .next (if !locked then u.bootFail { code := 0x11 } false
        else if u.slice0Lost then u.bootFail { code := 0x10 } false else u.startFirmware) := by
  rw [exec, execStmVerifyDone, act_live hlive, if_neg (by simp [hph, hst]), hu]
  simp only [hf]

/-! ### Step 9: the Interlocking's verification and the read-back (R36, R52) -/

theorem execIlkVerifyDone_live {s : State} (hlive : s.live = true) (hv : s.boot.stmVerified = true)
    (hr : s.boot.ilkReadBack = false) (hph : s.boot.phase ≠ .failed) (agrees : Bool) :
    exec (.ilkVerifyDone agrees) s = .next (if !agrees then s.bootFail { code := 0x0E } true
      else if s.boot.phase == .ready then State.finishStep9 { s with boot := { s.boot with ilkReadBack := true } }
      else { s with boot := { s.boot with ilkReadBack := true } }) := by
  rw [exec, execIlkVerifyDone, act_live hlive, if_neg (by simp [hv, hr, hph])]

/-- Step 9 after its sections have come into force: the read-back ends it or fails start-up. -/
theorem State.finishStep9_cases {r u : State}
    (hu : u = r.applySections [secIlkfw, secIsland, secTtsched, secHeadway, secRules]) :
    (u.readBackOk = true → r.finishStep9.boot.ilkVerified = true ∧
      (r.finishStep9.boot.ilkState = .selftest ∨ r.finishStep9.boot.ilkState = .split)) ∧
    (u.readBackOk = false → r.finishStep9.boot.phase = .failed ∧ r.finishStep9.boot.failCode = 0x0E) := by
  unfold State.finishStep9
  rw [← hu]
  refine ⟨fun h => ?_, fun h => ?_⟩
  · rw [if_neg (by simp [h])]
    refine ⟨rfl, ?_⟩
    dsimp only
    split
    · exact .inr rfl
    · exact .inl rfl
  · rw [if_pos (by simp [h])]
    exact ⟨rfl, rfl⟩

/-- Settles O3: staging, then each verification by its outcome. -/
theorem startUpVerification : Obligations.StartUpVerification := by
  refine ⟨fun s content hlive hph hst hsup hsel ha => ⟨?_, ?_⟩, fun s locked hlive hph hst => ?_,
    fun s hlive hv hr hph => ⟨?_, fun hn => ?_, fun hy r u hr' hu => ?_⟩⟩
  · obtain ⟨m, b, he, hm⟩ := s.stage_eq content .slotA
    refine ⟨s.stage content .slotA, execImageStaged_slotA hlive hph hst hsup hsel ha true content, rfl, ?_, ?_, ?_⟩
    · exact congrArg State.boot he
    · have hmem : (s.stage content .slotA).mem = m := congrArg State.mem he
      rw [hmem]
      exact hm
    · rw [he]
  · rw [execImageStaged_slotA hlive hph hst hsup hsel ha, if_neg (by simp)]
    exact congrArg Host.Outcome.next
      (State.slotFailed_slotA (s := { s with boot := { s.boot with bootSrc := .slotA } }) ha _ _)
  · cases hf : imageFault s.boot.image s.identity with
    | some f =>
      refine ⟨_, execStmVerifyDone_fault hlive hph hst locked hf, fun g hg hsrc => ?_, by simp, by simp⟩
      cases hg
      rw [if_pos (by simp [hsrc])]
      exact State.bootFail_boot s f true
    | none =>
      refine ⟨_, execStmVerifyDone_sound hlive hph hst locked hf rfl, by simp,
        fun _ hl u hu => ⟨fun h0 => ?_, fun h0 => ?_⟩, fun _ hl => ?_⟩
      · rw [← hu, if_neg (by simp [hl]), if_neg (by simp [h0])]
        exact ⟨rfl, rfl⟩
      · rw [← hu, if_neg (by simp [hl]), if_pos h0]
        exact ⟨rfl, rfl⟩
      · rw [if_pos (by simp [hl])]
        exact ⟨rfl, rfl⟩
  · exact ⟨_, execIlkVerifyDone_live hlive hv hr hph false, rfl, rfl, State.bootFail_safeN _ _ _⟩
  · rw [execIlkVerifyDone_live hlive hv hr hph, if_neg (by simp), if_neg (by simpa using hn)]
  · obtain ⟨hok, hbad⟩ := State.finishStep9_cases hu
    refine ⟨?_, hok, hbad⟩
    rw [execIlkVerifyDone_live hlive hv hr hph, if_neg (by simp), if_pos (by simp [hy]), hr']

end Sys2Proof.Machine
end

section
/-! Proofs of the family of the image and start-up: from memory training to the release of SAFE_N (O4). -/

namespace Sys2Proof.Machine

/-! ### Step 8: PHASE READY (R52) -/

theorem State.modPwr_bootLoops (s : State) (f : Pwr → Pwr) : (s.modPwr f).bootLoops = s.bootLoops := rfl

theorem State.modClock_bootLoops (s : State) (d : Nat) (f : ClockDomain → ClockDomain) :
    (s.modClock d f).bootLoops = s.bootLoops := rfl

theorem State.modRing_bootLoops (s : State) (n : Nat) (f : Ring → Ring) :
    (s.modRing n f).bootLoops = s.bootLoops := rfl

theorem State.modMport_bootLoops (s : State) (p : Nat) (f : MwlPort → MwlPort) :
    (s.modMport p f).bootLoops = s.bootLoops := rfl

theorem State.withDram_bootLoops (s : State) (d : Table DramCtrl) :
    State.bootLoops { s with dram := d } = s.bootLoops := rfl

theorem State.setDomain_bootLoops (s : State) (k : PwrKind) (st : Nat) :
    (s.setDomain k st).bootLoops = s.bootLoops := by
  unfold State.setDomain
  split
  · exact s.modPwr_bootLoops _
  · exact (State.modClock_bootLoops _ _ _).trans (s.withDram_bootLoops _)
  · split
    · exact s.modClock_bootLoops _ _
    · rfl

theorem State.bringUp_bootLoops (s : State) (d st : Nat) : (s.bringUp d st).bootLoops = s.bootLoops := by
  unfold State.bringUp
  split
  · exact State.bootLoops_ite rfl ((State.modPwr_bootLoops _ _).trans (s.setDomain_bootLoops _ st))
  · exact State.bootLoops_ite (s.setDomain_bootLoops _ st) rfl
  · exact (State.bootLoops_ite (State.modMport_bootLoops _ _ _) rfl).trans (s.setDomain_bootLoops _ st)
  · exact s.setDomain_bootLoops _ st
  · rfl

theorem State.applyPowerplan_bootLoops (s : State) : s.applyPowerplan.bootLoops = s.bootLoops := by
  unfold State.applyPowerplan
  dsimp only
  refine (State.bootLoops_foldl (fun s i => s.bringUp_bootLoops _ _) _ _).trans ?_
  refine (State.bootLoops_ite ?_ rfl).trans (s.modPwr_bootLoops _)
  refine State.bootLoops_foldl (fun s k => ?_) _ _
  rfl

theorem State.armRing_bootLoops (s : State) (n : Nat) (window : Bool) : (s.armRing n window).bootLoops = s.bootLoops :=
  State.bootLoops_ite rfl (State.bootLoops_ite (s.modRing_bootLoops n _)
    (State.bootLoops_ite (s.modRing_bootLoops n _) (s.modRing_bootLoops n _)))

theorem State.applyRing_bootLoops (s : State) (n : Nat) : (s.applyRing n).bootLoops = s.bootLoops := by
  unfold State.applyRing
  dsimp only
  exact (State.bootLoops_ite rfl (State.armRing_bootLoops _ n false)).trans (s.modRing_bootLoops n _)

theorem State.applyTags_bootLoops (s : State) : s.applyTags.bootLoops = s.bootLoops := by
  refine State.bootLoops_foldl (fun s h => ?_) _ s
  rfl

theorem State.noteRepair_ilkReadBack (s : State) : s.noteRepair.boot.ilkReadBack = s.boot.ilkReadBack := by
  unfold State.noteRepair
  split <;> rfl

/-- PHASE READY is reached with the Interlocking's verification as it was noted. -/
theorem State.becomeReady_ilkReadBack (s : State) : s.becomeReady.boot.ilkReadBack = s.boot.ilkReadBack := by
  obtain ⟨m, b, hown⟩ := State.applyBankown_eq (s.applySections stationSections) outerBanks
  unfold State.becomeReady
  dsimp only
  rw [State.boot_of_bootLoops ((State.bootLoops_ite (State.recompute_bootLoops _) rfl).trans
      (State.bootLoops_foldl State.applyRing_bootLoops _ _)), State.noteRepair_ilkReadBack,
    State.boot_of_bootLoops ((State.applyPowerplan_bootLoops _).trans (State.applyTags_bootLoops _)), hown]
  rfl

theorem execMemoryTrainingDone_live {s : State} (hlive : s.live = true) (hph : s.boot.phase = .firmware)
    (trained : Bool) (march : MarchRows) (sweep : List Nat) :
    exec (.memoryTrainingDone trained march sweep) s = .next (if !trained then s.bootFail { code := 0x12 } true
      else
        let s := if s.boot.repairSealRejected then s.startupMarch march.rows march.badSpares sweep else s
        if s.becomeReady.boot.ilkReadBack then s.becomeReady.finishStep9 else s.becomeReady) := by
  rw [exec, execMemoryTrainingDone, act_live hlive, if_neg (by simp [hph])]

/-! ### Steps 10 and 11 (R53) -/

theorem execStartupSelftestDone_pass {s : State} (hlive : s.live = true) (h : s.boot.ilkState = .selftest) :
    exec (.startupSelftestDone none) s =
      .next (State.startupGolden { s with boot := { s.boot with selftestPassed := true, ilkState := .golden }
                                          ilk := { s.ilk with goldenTerrace := s.goldenTerraces.headD 0 } }) := by
  rw [exec, execStartupSelftestDone, act_live hlive, if_neg (by simp [h])]

theorem execStartupSelftestDone_fail {s : State} (hlive : s.live = true) (h : s.boot.ilkState = .selftest) (k : Nat) :
    exec (.startupSelftestDone (some k)) s = .next (s.bootFail { code := 0x13, offset := k } true) := by
  rw [exec, execStartupSelftestDone, act_live hlive, if_neg (by simp [h])]

/-- Time that has come to an instant moves the counter alone. -/
theorem State.reach_eq (s : State) (i : Nat) : ∃ t, s.reach i = { s with tmt := t } := by
  unfold State.reach
  split
  · exact ⟨_, rfl⟩
  · exact ⟨s.tmt, rfl⟩

theorem execStartupGoldenDone_live {s r : State} {i : Nat} (hlive : s.live = true) (h : s.boot.ilkState = .golden)
    (hr : r = s.reach i) : exec (.startupGoldenDone i) s = .next (if s.ilk.goldenPending then r
      else if s.ilk.quarantine = 0 then { r with boot := { s.boot with goldenPassed := true, ilkState := .waitTime } }
      else r.bootFail { code := 0x14 } true) := by
  obtain ⟨t, ht⟩ := s.reach_eq i
  have hb : r.boot = s.boot := by rw [hr, ht]
  have hi : r.ilk = s.ilk := by rw [hr, ht]
  rw [exec, execStartupGoldenDone, act_live hlive]
  dsimp only
  rw [← hr, hb, hi, h]
  rfl

/-! ### Step 12, the repair map and the handover of slice 0 (R51, R53, R111, R113) -/

/-- SAFE_N_RELEASE under R53's conditions. -/
theorem execSafeNRelease_may {s : State} (hlive : s.live = true) (hm : s.mayRelease = true) : ∃ skip,
    exec .safeNRelease s = .next { s with
      pins := { s.pins with safeNCmd := true }, boot := { s.boot with phase := .safe, ilkState := .checking }
      ilk := { s.ilk with readbackSkip := skip } } := by
  obtain ⟨skip, hd⟩ := s.driveSafeN_eq true
  refine ⟨skip, ?_⟩
  rw [Safety.execSafeNRelease_eq, if_pos (by simp [hlive, hm]), hd]

/-- A trace point touches the log ring and its sequence number alone (R422, R423). -/
theorem State.trace_eq (s : State) (tp : Nat) (args : List Nat) :
    ∃ m n, s.trace tp args = { s with mem := m, stm := { s.stm with logSeq := n } } := by
  unfold State.trace
  dsimp only
  split
  · exact ⟨s.mem, s.stm.logSeq, rfl⟩
  · exact ⟨_, _, rfl⟩

theorem execRepairWriteBack_changed {s r : State} (hlive : s.live = true) (hc : s.repair.changed = true)
    (hr : r = { s with repair := { s.repair with updateSeq := (s.repair.updateSeq + 1) % 2 ^ 32 } }) :
    exec .repairWriteBack s = .next (State.trace { r with
      repair := { r.repair with sealed := r.repairPayload, changed := false }
      boot := { s.boot with repairUpdated := true } } 0x9001 []) := by
  rw [exec, execRepairWriteBack, act_live hlive, if_pos hc, hr]
  rfl

theorem execSlice0Handoff_due {s : State} (hlive : s.live = true) (hh : s.boot.slice0Handed = false)
    (hv : s.boot.ilkVerified = true) (hp : s.boot.phase = .ready ∨ s.boot.phase = .safe) : ∃ m b,
    exec .slice0Handoff s =
      .next { s with mem := m, banks := b, boot := { s.boot with slice0Handed := true, image := [] } } := by
  obtain ⟨m, b, h⟩ := s.applyBankown_eq ((List.range 30).map (1024 + ·))
  refine ⟨m, b, ?_⟩
  rw [exec, execSlice0Handoff, act_live hlive, if_neg (by rcases hp with hp | hp <;> simp [hh, hv, hp]), h]

/-- Settles O4: each of the last start-up events by its equation. -/
theorem startUpToSafeNRelease : Obligations.StartUpToSafeNRelease := by
  refine ⟨fun s march sweep hlive hph => ⟨?_, fun hrb hrs => ?_⟩, fun s hlive h => ⟨?_, fun k => ?_⟩,
    fun s r i hlive h hr => ⟨fun hp => ?_, fun hp hq => ?_, fun hp hq => ?_⟩,
    fun s hlive hst hph hsplit hlock hver hself hgold hval hcause => ?_, fun s hlive hc => ?_,
    fun s hlive hh hv hp => ?_⟩
  · exact ⟨_, execMemoryTrainingDone_live hlive hph false march sweep, rfl, rfl, State.bootFail_safeN _ _ _⟩
  · refine ⟨s.becomeReady, ?_, rfl, rfl⟩
    rw [execMemoryTrainingDone_live hlive hph, if_neg (by simp), hrs]
    exact congrArg Host.Outcome.next (if_neg (by simp [State.becomeReady_ilkReadBack, hrb]))
  · exact execStartupSelftestDone_pass hlive h
  · exact ⟨_, execStartupSelftestDone_fail hlive h k, rfl, rfl, rfl⟩
  · rw [execStartupGoldenDone_live hlive h hr, if_pos hp]
  · rw [execStartupGoldenDone_live hlive h hr, if_neg (by simp [hp]), if_pos hq]
  · refine ⟨_, execStartupGoldenDone_live hlive h hr, ?_⟩
    rw [if_neg (by simp [hp]), if_neg hq]
    exact ⟨rfl, rfl⟩
  · have hm : s.mayRelease = true := by
      rw [Safety.mayRelease_iff]
      exact ⟨hst, hph, hsplit, hlock, hver, hself, hgold, hval, by simp [State.latched, hcause]⟩
    obtain ⟨skip, he⟩ := execSafeNRelease_may hlive hm
    exact ⟨_, he, rfl, rfl, rfl⟩
  · refine ⟨_, execRepairWriteBack_changed hlive hc rfl, ?_⟩
    obtain ⟨m, n, ht⟩ := State.trace_eq _ 0x9001 []
    rw [ht]
    exact ⟨rfl, rfl, rfl, rfl⟩
  · obtain ⟨m, b, he⟩ := execSlice0Handoff_due hlive hh hv hp
    exact ⟨_, he, rfl, rfl, rfl⟩

end Sys2Proof.Machine
end

section
/-! Proofs of the family of the image and start-up: the partial reload (O5). -/

namespace Sys2Proof.Machine

open Sys2Proof.Laws

/-! ### The end of a reload, and its rejection (R59, R63) -/

/-- The end of a reload is a matter of STATE alone. -/
theorem State.reloadSettle_eq (s : State) : ∃ st a,
    s.reloadSettle = { s with reload := { s.reload with state := st, armed := a } } := by
  unfold State.reloadSettle
  dsimp only
  split
  · exact ⟨.done, false, rfl⟩
  · exact ⟨s.reload.state, s.reload.armed, rfl⟩

/-- A rejection scrubs the staging area, and the running configuration stays as it is. -/
theorem State.reloadReject_eq (s : State) (code : Nat) : s.reloadReject code =
    { s.scrubStaging with reload := { s.reload with state := .rejected, code := code, image := [] } } := by
  obtain ⟨m, b, h⟩ := s.scrubStaging_eq
  rw [State.reloadReject, h]
  rfl

theorem State.phaseUp_iff (s : State) : s.phaseUp = true ↔ s.boot.phase = .ready ∨ s.boot.phase = .safe := by
  simp [State.phaseUp]

/-- RELOAD_VERIFY_DONE where the Interlocking disagrees. -/
theorem execReloadVerifyDone_disagrees {s : State} (hlive : s.live = true) (hv : s.reload.state = .verifying)
    (hp : s.phaseUp = true) : exec (.reloadVerifyDone false) s = .next (s.reloadReject 0x0E) := by
  rw [exec, execReloadVerifyDone, act_live hlive, if_neg (by simp [hv]), if_neg (by simp [hp]), if_pos (by simp)]

theorem execReloadVerifyDone_fault {s : State} (hlive : s.live = true) (hv : s.reload.state = .verifying)
    (hp : s.phaseUp = true) {c : Nat} (hc : s.reloadCode s.reload.image = some c) :
    exec (.reloadVerifyDone true) s = .next (s.reloadReject c) := by
  rw [exec, execReloadVerifyDone, act_live hlive, if_neg (by simp [hv]), if_neg (by simp [hp]), if_neg (by simp)]
  simp only [hc]

theorem execReloadVerifyDone_sound {s : State} (hlive : s.live = true) (hv : s.reload.state = .verifying)
    (hp : s.phaseUp = true) (hc : s.reloadCode s.reload.image = none) :
    exec (.reloadVerifyDone true) s = .next s.reloadArm := by
  rw [exec, execReloadVerifyDone, act_live hlive, if_neg (by simp [hv]), if_neg (by simp [hp]), if_neg (by simp)]
  simp only [hc]

/-! ### The swaps (R59 to R61) -/

/-- A section that has been set is the one in force. -/
theorem State.sec_tset (s : State) (type : Nat) (p : Bytes) :
    State.sec { s with sections := tset s.sections type p } type = p :=
  tget_tset_same [] type p s.sections

/-- TTSCHED_SWAP of an armed schedule while the clocks run (R59, R60). -/
theorem execTtschedSwap_due {s : State} {p : Bytes} (hlive : s.live = true) (ha : s.armedSection secTtsched = some p)
    (hf : s.tmt.freeze = .running) {r : State}
    (hr : r = ((s.reach s.ttschedDue).scheduleSwap p s.ttschedDue).disarm secTtsched) :
    exec .ttschedSwap s = .next ((State.removeOrphans { r with reload := { r.reload with
      ttschedSwapped := true, eventsOrphaned := min 255 (r.reload.eventsOrphaned + r.orphans.length) } }
      r.orphans).settle).reloadSettle := by
  rw [exec, execTtschedSwap, act_live hlive]
  simp only [ha]
  rw [if_neg (by simp [hf]), hr]
  rfl

/-- CONSISTTPL_SWAP of armed templates while the clocks run (R59). -/
theorem execConsisttplSwap_due {s : State} {p : Bytes} (hlive : s.live = true)
    (ha : s.armedSection secConsisttpl = some p) (hf : s.tmt.freeze = .running) :
    exec .consisttplSwap s = .next (State.reloadSettle { s with
      tmt := { s.tmt with nowNs := max s.tmt.nowNs s.reload.activateNs }
      sections := tset s.sections secConsisttpl p
      reload := { s.reload with
        armedSections := tdel s.reload.armedSections secConsisttpl, consisttplSwapped := true } }) := by
  rw [exec, execConsisttplSwap, act_live hlive]
  simp only [ha]
  rw [if_neg (by simp [hf]), State.reach_running (State.live_porst hlive) hf]
  rfl

/-- RULES_SWAP of an armed rule set while the clocks run: the old set is kept (R61). -/
theorem execRulesSwap_due {s : State} {p : Bytes} (hlive : s.live = true) (ha : s.armedSection secRules = some p)
    (hf : s.tmt.freeze = .running) :
    exec .rulesSwap s = .next { s with
      tmt := { s.tmt with nowNs := max s.tmt.nowNs s.rulesDue }
      sections := tset s.sections secRules p
      reload := { s.reload with
        armedSections := tdel s.reload.armedSections secRules, rulesSwapped := true, swapNs := s.rulesDue
        oldRules := some (s.sec secRules), oldRulesVersion := s.reload.rulesVersion
        rulesVersion := s.reload.version } } := by
  rw [exec, execRulesSwap, act_live hlive]
  simp only [ha]
  rw [if_neg (by simp [hf]), State.reach_running (State.live_porst hlive) hf]
  rfl

/-- RULES_RETIRE of an old set that no earlier result needs (R61). -/
theorem execRulesRetire_due {s : State} (hlive : s.live = true) (ho : s.reload.oldRules ≠ none)
    (hopen : s.oldResultsOpen = false) : exec .rulesRetire s = .next (State.reloadSettle (State.keepHistories { s with
      reload := { s.reload with oldRules := none, rulesOldRetired := true } })) := by
  rw [exec, execRulesRetire, act_live hlive, if_neg (by simp [ho, hopen])]
  rfl

/-- Settles O5: the verification by its outcome, each swap by its equation. -/
theorem partialReload : Obligations.PartialReload := by
  refine ⟨fun s hlive hv hp => ?_, fun s p hlive ha hf => ?_, fun s p hlive ha hf => ?_, fun s p hlive ha hf => ?_,
    fun s hlive ho hopen => ?_⟩
  · have hup := s.phaseUp_iff.mpr hp
    refine ⟨(execReloadVerifyDone_disagrees hlive hv hup).trans (by rw [State.reloadReject_eq]), ?_⟩
    cases hc : s.reloadCode s.reload.image with
    | some c =>
      refine ⟨_, execReloadVerifyDone_fault hlive hv hup hc, fun d hd => ?_, by simp⟩
      cases hd
      exact ⟨rfl, rfl⟩
    | none =>
      refine ⟨_, execReloadVerifyDone_sound hlive hv hup hc, by simp, fun _ => ⟨rfl, ?_⟩⟩
      unfold State.reloadArm
      obtain ⟨st, a, h⟩ := State.reloadSettle_eq _
      dsimp only
      rw [h]
      exact ⟨rfl, rfl, rfl⟩
  · refine ⟨_, rfl, ?_, rfl, ?_, execTtschedSwap_due hlive ha hf rfl⟩
    · exact State.sec_tset _ _ p
    · rw [State.reach_running (State.live_porst hlive) hf]
      rfl
  · obtain ⟨st, a, h⟩ := State.reloadSettle_eq { s with
      tmt := { s.tmt with nowNs := max s.tmt.nowNs s.reload.activateNs }
      sections := tset s.sections secConsisttpl p
      reload := { s.reload with
        armedSections := tdel s.reload.armedSections secConsisttpl, consisttplSwapped := true } }
    exact ⟨_, (execConsisttplSwap_due hlive ha hf).trans (congrArg Host.Outcome.next h), State.sec_tset s _ p, rfl, rfl,
      rfl, rfl⟩
  · exact ⟨_, execRulesSwap_due hlive ha hf, State.sec_tset s _ p, rfl, rfl, rfl⟩
  · obtain ⟨st, a, h⟩ := State.reloadSettle_eq (State.keepHistories { s with
      reload := { s.reload with oldRules := none, rulesOldRetired := true } })
    exact ⟨_, (execRulesRetire_due hlive ho hopen).trans (congrArg Host.Outcome.next h), rfl, rfl, rfl⟩

end Sys2Proof.Machine
end

section
/-! Proofs of the family of the image and start-up: the Stationmaster's reload and firmware services (O44). -/

namespace Sys2Proof.Machine

open Sys2Proof.Safety

/-! ### Serving the request at the head (R399, R400) -/

theorem State.mboxAnswer_bootLoops (s : State) (r : MboxReq) (st : Nat) (body : Bytes) :
    (s.mboxAnswer r st body).bootLoops = s.bootLoops := by
  unfold State.mboxAnswer
  exact State.bootLoops_ite (s.msi_bootLoops _ _ _)
    ((State.sendReplies_bootLoops _).trans (s.devAccess_bootLoops _ _ _ _ _ _))

theorem State.mboxDrainN_bootLoops : ∀ (k : Nat) (s : State), (State.mboxDrainN k s).bootLoops = s.bootLoops
  | 0, _ => rfl
  | k + 1, s => by
    unfold State.mboxDrainN
    split
    · rfl
    · split
      · rfl
      · exact (State.mboxDrainN_bootLoops k _).trans (State.mboxAnswer_bootLoops _ _ _ _)

/-- The requests that need no service leave the firmware's loops running. -/
theorem State.mboxDrain_fwLoops (s : State) : s.mboxDrain.fwLoops = s.fwLoops :=
  State.fwLoops_of_bootLoops (State.mboxDrainN_bootLoops _ s)

/-- The request that a service row is to serve stands first and is not turned away. -/
theorem State.mboxHead_some {s : State} {service op : Nat} {r : MboxReq} (h : s.mboxHead service op = some r) :
    (∃ rest, s.stm.queue = r :: rest) ∧ s.mboxTurnAway r = none ∧ byteAt r.body 0 = op := by
  unfold State.mboxHead at h
  split at h
  · cases h
  · rename_i q rest hq
    split at h
    · rename_i hc
      cases h
      simp only [Bool.and_eq_true, Option.isNone_iff_eq_none, beq_iff_eq] at hc
      exact ⟨⟨rest, hq⟩, hc.1.1, hc.2⟩
    · cases h

/-- A request that a service is to serve is not answered without one. -/
theorem State.mboxDrain_of_head {s : State} {r : MboxReq} {rest : List MboxReq} (hq : s.stm.queue = r :: rest)
    (ht : s.mboxTurnAway r = none) : s.mboxDrain = s := by
  rw [State.mboxDrain, hq, List.length_cons, State.mboxDrainN]
  simp only [hq, ht]

theorem State.serve_eq {s w : State} {service op : Nat} {r : MboxReq} (hl : s.fwLoops = true)
    (hh : s.mboxDrain.mboxHead service op = some r) (hw : w = s.mboxDrain.mboxPop)
    (f : State → MboxReq → State × Bytes) : s.serve service op f = reply (f w r).1 r (f w r).2 := by
  unfold State.serve State.serveLater
  rw [if_neg (by simp [hl])]
  simp only [hh, ← hw]
  rfl

/-- A service serves the request at the head, once those before it are answered. -/
theorem serve_of_serves {s w : State} {service op : Nat} {r : MboxReq} (h : Serves s service op r w)
    (f : State → MboxReq → State × Bytes) : s.serve service op f = reply (f w r).1 r (f w r).2 :=
  State.serve_eq h.loops h.head h.popped f

/-- A service that takes any first byte serves the request at the head in the same way. -/
theorem serveAny_of_serves {s w : State} {service : Nat} {r : MboxReq} (h : Serves s service (byteAt r.body 0) r w)
    (f : State → MboxReq → State × Bytes) : s.serveAny service f = reply (f w r).1 r (f w r).2 := by
  obtain ⟨⟨rest, hq⟩, ht, -⟩ := State.mboxHead_some h.head
  have hd := State.mboxDrain_of_head hq ht
  unfold State.serveAny
  rw [if_neg (by simp [h.loops])]
  simp only [hq]
  exact State.serve_eq (s.mboxDrain_fwLoops.trans h.loops) (hd.symm ▸ h.head) (hd.symm ▸ h.popped) f

/-! ### RELOAD (R58, R400) -/

theorem execReload_served {s w : State} {r : MboxReq} (h : Serves s 5 (byteAt r.body 0) r w) :
    exec .reload s = .next (reply (w.reloadFromStaging (le r.body 0 4)) r []) := by
  rw [exec, execReload, act_live h.up, serveAny_of_serves h]

/-- What a partial reload makes of the staged image: the phase, another reload, the length, then the verification. -/
theorem State.reloadFromStaging_down {w : State} (h : w.phaseUp = false) (n : Nat) :
    w.reloadFromStaging n = w.reloadReject 0x24 := if_pos (by simp [h])

theorem State.reloadFromStaging_busy {w : State} (h : w.phaseUp = true) (hb : w.reload.busy = true) (n : Nat) :
    w.reloadFromStaging n = w.reloadReject 0x23 := by
  rw [State.reloadFromStaging, if_neg (by simp [h]), if_pos hb]

theorem State.reloadFromStaging_free {w u : State} {i : Bytes} {n : Nat} (h : w.phaseUp = true)
    (hb : w.reload.busy = false) (hu : u = w.reloadOpen) (hi : i = u.rd rsvBase (min n maxImage)) :
    w.reloadFromStaging n =
      if maxImage < n ∨ n < 256 ∨ imgLen i ≠ n then u.reloadReject 0x05 else u.reloadStaged i := by
  rw [State.reloadFromStaging, if_neg (by simp [h]), if_neg (by simp [hb]), hi, hu]

/-! ### The firmware update (R417 to R419) -/

theorem execFwLoad_served {s w : State} {r : MboxReq} (h : Serves s 6 1 r w) :
    exec .fwLoad s = .next (if 1 ≤ w.stm.fwState ∧ w.stm.fwState ≤ 4 then
        reply (State.trace { w with stm := { w.stm with fwCode := 0x43 } } 0x8004 [0x43]) r [6]
      else reply { w with stm := { w.stm with
        fwState := 1, fwCode := 0, fwLen := le r.body 4 4
        fwImage := w.rd rsvBase (min (le r.body 4 4) maxImage) } } r [1]) := by
  rw [exec, execFwLoad, act_live h.up, serve_of_serves h]
  split <;> rfl

theorem execFwVerifyDone_idle {s : State} (hlive : s.live = true) (h : s.stm.fwState ≠ 1 ∨ s.fwLoops = false) :
    exec .fwVerifyDone s = .next s := by
  rw [exec, execFwVerifyDone, act_live hlive, if_pos (by simpa using h)]

theorem execFwVerifyDone_fault {s : State} {c : Nat} (hlive : s.live = true) (hv : s.stm.fwState = 1)
    (hl : s.fwLoops = true) (hc : s.fwFault s.stm.fwImage s.stm.fwLen = some c) :
    exec .fwVerifyDone s = .next (s.fwReject c) := by
  rw [exec, execFwVerifyDone, act_live hlive, if_neg (by simp [hv, hl])]
  simp only [hc]

theorem execFwVerifyDone_sound {s : State} (hlive : s.live = true) (hv : s.stm.fwState = 1)
    (hl : s.fwLoops = true) (hc : s.fwFault s.stm.fwImage s.stm.fwLen = none) :
    exec .fwVerifyDone s = .next (State.trace { s with stm := { s.stm with fwState := 2 } } 0x8001 []) := by
  rw [exec, execFwVerifyDone, act_live hlive, if_neg (by simp [hv, hl])]
  simp only [hc]
  rfl

/-- FSTATUS after a trace point is the STATE before it. -/
theorem State.trace_fstatus (s : State) (tp : Nat) (args : List Nat) : (s.trace tp args).fstatus = s.fstatus := by
  obtain ⟨m, n, h⟩ := s.trace_eq tp args
  rw [h]
  rfl

theorem execActivate_served {s w : State} {r : MboxReq} (h : Serves s 6 2 r w) :
    exec .activate s = .next (if w.stm.fwState ≠ 2 then reply w r (leBytes 1 w.stm.fwState)
      else if w.pwr.clampState = 0 then reply { w with stm := { w.stm with fwState := 4 } } r [4]
      else reply (State.trace { w with stm := { w.stm with fwState := 3 } } 0x8002 []) r [3]) := by
  rw [exec, execActivate, act_live h.up, serve_of_serves h]
  dsimp only
  split
  · rfl
  · split
    · rfl
    · rw [State.trace_fstatus]
      rfl

theorem execFwAbort_served {s w : State} {r : MboxReq} (h : Serves s 6 3 r w) :
    exec .fwAbort s = .next (if w.stm.fwState = 2 ∨ w.stm.fwState = 3 then
        reply (w.scrubStaging.modStm fun m => { m with fwState := 7, fwLen := 0, fwImage := [] }) r [7]
      else reply w r (leBytes 1 w.stm.fwState)) := by
  rw [exec, execFwAbort, act_live h.up, serve_of_serves h]
  dsimp only
  split <;> rfl

theorem execFwSwap_live {s : State} (hlive : s.live = true) : exec .fwSwap s =
    .next (if (s.stm.fwState = 3 ∨ s.stm.fwState = 4) ∧ s.fwLoops = true ∧ s.pwr.clampState = 0 then
      { s with stm := { s.stm with fwState := 4, fwSwapped := true } } else s) := by
  rw [exec, execFwSwap, act_live hlive]
  rfl

/-- Settles O44: each service by what it makes of the request at the head. -/
theorem firmwareServices : Obligations.FirmwareServices := by
  refine ⟨fun s w r h => ?_, fun s w r n h hn => ⟨fun h₁ h₂ => ?_, fun hp => ?_⟩,
    fun s w r h => ⟨fun h₁ h₂ => ?_, fun hn => ?_⟩,
    fun s hlive => ⟨execFwVerifyDone_idle hlive, fun hv hl =>
      ⟨fun c => execFwVerifyDone_fault hlive hv hl, execFwVerifyDone_sound hlive hv hl⟩⟩,
    fun s w r h => ⟨fun hn => ?_, fun hs hc => ?_, fun hs hc => ?_⟩,
    fun s w r h => ⟨fun hs => ⟨_, rfl, ?_⟩, fun h₂ h₃ => ?_⟩,
    fun s hlive => ⟨fun hs hl hc => ?_, fun hn => ?_⟩, fun s hlive => ⟨fun hn => ?_, fun hs hw => ?_⟩⟩
  · rw [exec, execMemoryStatus, act_live h.up, serveAny_of_serves h]
  · have hup : w.phaseUp = false := Bool.eq_false_iff.mpr fun hu => by
      rcases w.phaseUp_iff.mp hu with hu | hu
      · exact h₁ hu
      · exact h₂ hu
    rw [execReload_served h, State.reloadFromStaging_down hup]
  · have hup := w.phaseUp_iff.mpr hp
    refine ⟨fun hb => ?_, fun hb u i hu hi => ⟨fun hbad => ?_, fun h₁ h₂ h₃ => ?_⟩⟩
    · rw [execReload_served h, State.reloadFromStaging_busy hup hb]
    · rw [execReload_served h, ← hn, State.reloadFromStaging_free hup hb hu hi, if_pos hbad]
    · rw [execReload_served h, ← hn, State.reloadFromStaging_free hup hb hu hi, if_neg (by omega)]
      rfl
  · rw [execFwLoad_served h, if_pos ⟨h₁, h₂⟩]
  · rw [execFwLoad_served h, if_neg (by omega)]
  · rw [execActivate_served h, if_pos hn]
  · rw [execActivate_served h, if_neg (by simp [hs]), if_pos hc]
  · rw [execActivate_served h, if_neg (by simp [hs]), if_neg hc]
  · rw [execFwAbort_served h, if_pos hs]
    rfl
  · rw [execFwAbort_served h, if_neg (by simp [h₂, h₃])]
  · rw [execFwSwap_live hlive, if_pos ⟨hs, hl, hc⟩]
  · rw [execFwSwap_live hlive, if_neg]
    rintro ⟨hs, hl, hc⟩
    rcases hn with ⟨h₃, h₄⟩ | hn | hn
    · exact hs.elim h₃ h₄
    · simp [hl] at hn
    · exact hn hc
  · rw [exec, execFwCopyDone, act_live hlive, if_pos (by simpa using hn)]
  · refine ⟨_, _, rfl, rfl, ?_⟩
    rw [exec, execFwCopyDone, act_live hlive, if_neg (by simp [hs, hw])]
    rfl

end Sys2Proof.Machine
end

section
/-! Proofs of the family of the image and start-up: the chunks of IMAGE_LOAD (O50). -/

namespace Sys2Proof.Machine

open Sys2Proof.Safety

/-! ### The frame and its bound (R451 to R453) -/

/-- A frame that is heard and accepted and has its shape takes effect. -/
theorem State.command_heard {s : State} {op : Nat} {cmd : SupFrame} {accepted shape : Bool} (h : Heard s op cmd)
    (ha : accepted = true) (hs : shape = true) (f : State → Nat × Bytes × State) :
    s.command op cmd accepted shape f = (f s).2.2.respond cmd (f s).1 (f s).2.1 := by
  rw [State.command, if_neg (by simp [h.answers]), if_neg (by simp [h.crc]), if_neg (by simp [h.sound]),
    if_neg (by simp [ha]), if_neg (by simp [hs])]

/-- The chunk rules answer OK, BAD_LENGTH or SEQUENCE: each branch names its status. -/
theorem State.imageChunk_status (s : State) (cmd : SupFrame) :
    (s.imageChunk cmd).1 = rsOk ∨ (s.imageChunk cmd).1 = rsBadLength ∨ (s.imageChunk cmd).1 = rsSequence := by
  unfold State.imageChunk
  repeat' split
  all_goals simp

theorem State.imageChunk_ne_timeout (s : State) (cmd : SupFrame) : (s.imageChunk cmd).1 ≠ rsTimeout := by
  rcases s.imageChunk_status cmd with hc | hc | hc <;> rw [hc] <;> decide

/-- A command of the bulk path within its bound, whose own status is no TIMEOUT. -/
theorem State.bulk_met {s : State} {f : State → Nat × Bytes × State} (h : (f s).1 ≠ rsTimeout) : s.bulk .met f = f s :=
  if_neg h

/-- An IMAGE_LOAD frame that is accepted runs the chunk rules under its bound. -/
theorem execImageLoad_heard {s : State} {cmd : SupFrame} {b : SupBound} {q : Nat × Bytes × State}
    (h : Heard s 0x10 cmd) (ha : s.loadsBoot = true ∨ s.loadsPartial = true) (hs : chunkShape cmd = true)
    (hq : q = s.bulk b fun s => ((s.imageChunk cmd).1, [], (s.imageChunk cmd).2)) :
    exec (.imageLoad cmd b) s = .next (q.2.2.respond cmd q.1 q.2.1) := by
  rw [exec, execImageLoad, act_live h.up, State.command_heard h (by simpa using ha) hs, hq]

/-! ### The chunk rules (R456) -/

theorem chunkFits_iff (cmd : SupFrame) (n : Nat) : chunkFits cmd n = true ↔
    cmd.addr + cmd.length ≤ n ∧ (cmd.cflags = 1 → cmd.addr + cmd.length = n) := by
  simp only [chunkFits, Bool.and_eq_true, Bool.or_eq_true, decide_eq_true_eq, bne_iff_ne, beq_iff_eq]
  exact and_congr_right fun _ => Decidable.imp_iff_not_or.symm

section Fresh

variable {s : State} {cmd : SupFrame} (hn : s.sup.lastChunk ≠ some (cmd.addr, cmd.length, cmd.crc))
include hn

/-- A chunk of no bytes abandons the image at ADDR 0 and is wrong elsewhere. -/
theorem State.imageChunk_empty (hl : cmd.length = 0) : s.imageChunk cmd =
    if cmd.addr = 0 ∧ cmd.cflags = 0 then (0, s.loadAbandon) else (3, s) := by
  rw [State.imageChunk, if_neg hn, if_pos hl]
  rfl

/-- A chunk at ADDR 0 opens an image. -/
theorem State.imageChunk_start (ha : cmd.addr = 0) (hl : cmd.length ≠ 0) : s.imageChunk cmd =
    if cmd.length < 256 then (3, s)
    else if imgLen cmd.payload ≤ maxImage ∧ chunkFits cmd (imgLen cmd.payload) = false then (3, s)
    else (0, s.loadOpen cmd) := by
  rw [State.imageChunk, if_neg hn, if_neg hl, if_pos ha]
  simp only [Bool.not_eq_true']
  rfl

/-- A later chunk belongs to the image that is open, where its ADDR comes next. -/
theorem State.imageChunk_outOfOrder (ha : cmd.addr ≠ 0) (hl : cmd.length ≠ 0)
    (hx : ∀ x, s.sup.image = some x → cmd.addr ≠ x.next) : s.imageChunk cmd = (7, s) := by
  rw [State.imageChunk, if_neg hn, if_neg hl, if_neg ha]
  split
  · rfl
  · rename_i x hi
    exact if_pos (hx x hi)

theorem State.imageChunk_next (ha : cmd.addr ≠ 0) (hl : cmd.length ≠ 0) {x : SupImage} (hi : s.sup.image = some x)
    (hx : cmd.addr = x.next) : s.imageChunk cmd =
      if chunkFits cmd x.len = false then (3, s) else (0, s.loadChunk cmd x) := by
  rw [State.imageChunk, if_neg hn, if_neg hl, if_neg ha]
  simp only [hi, Bool.not_eq_true']
  exact if_neg fun hne => hne hx

end Fresh

/-! ### What a chunk does to the image (R59, R456) -/

theorem State.loadChunk_eq {s u : State} {cmd : SupFrame} {x y : SupImage}
    (hy : y = { x with next := cmd.addr + cmd.length })
    (hu : u = (s.wr (rsvBase + cmd.addr) cmd.payload).modSup fun z =>
      { z with image := some y, lastChunk := some (cmd.addr, cmd.length, cmd.crc) }) :
    s.loadChunk cmd x = if cmd.cflags = 1 then u.loadEnds y else u := by
  rw [State.loadChunk, hu, hy]

theorem State.loadEnds_eq {u v : State} {y : SupImage} (hv : v = u.modSup fun z => { z with image := none }) :
    u.loadEnds y = if y.partialImage then v.reloadStaged (u.rd rsvBase y.len)
      else { v with boot := { v.boot with
        imageStaged := true, image := u.rd rsvBase y.len, bootSrc := .supervisor, ilkState := .verify } } := by
  rw [State.loadEnds, hv]

section Opens

variable {s u : State} {cmd : SupFrame} (hu : u = s.modSup fun y =>
  { y with lastChunk := some (cmd.addr, cmd.length, cmd.crc), image := none })
include hu

/-- The start of a partial image (R59). -/
theorem State.loadOpen_up (hp : u.phaseUp = true) : s.loadOpen cmd =
    if u.reload.state = .verifying ∨ u.reload.armed = true then u.reloadReject 0x23
    else if maxImage < imgLen cmd.payload then u.reloadOpen.reloadReject 0x05
    else u.reloadOpen.scrubStaging.loadChunk cmd { partialImage := true, len := imgLen cmd.payload } := by
  rw [State.loadOpen, ← hu]
  dsimp only
  rw [if_pos hp]
  simp only [Bool.or_eq_true, beq_iff_eq]

/-- The start of a boot image (R34, R57). -/
theorem State.loadOpen_boot (hp : u.phaseUp = false) {w z : State}
    (hw : w = if u.boot.phase = .failed then u.restartLoad else u)
    (hz : z = { w with boot := { w.boot with
      imageStaged := false, image := [], bootSrc := .supervisor, ilkState := .rom } }) : s.loadOpen cmd =
    if maxImage < imgLen cmd.payload then z.bootFail { code := 0x05 } true
    else z.scrubStaging.loadChunk cmd { partialImage := false, len := imgLen cmd.payload } := by
  rw [State.loadOpen, ← hu]
  dsimp only
  rw [if_neg (by simp [hp]), hz, hw]
  simp only [beq_iff_eq]

end Opens

/-- Settles O50: the bound, then the chunk rules in the order in which they are judged. -/
theorem imageLoadChunks : Obligations.ImageLoadChunks := by
  refine ⟨fun s cmd b h ha hs => ⟨_, rfl, fun hb => ?_, fun hb => ?_, fun hb => ?_⟩,
    fun s cmd => ⟨fun h => if_pos h, fun hn => ⟨fun hl ha hc => ?_, fun hl h => ?_, fun ha h₀ h₁ => ?_,
      fun ha h₁ => ⟨fun hm => ?_, fun hm hf => ?_, fun hf => ?_⟩,
      fun ha hl => ⟨State.imageChunk_outOfOrder hn ha (Nat.ne_of_gt hl),
        fun x hi hx => ⟨fun hf => ?_, fun hf => ?_⟩⟩⟩⟩,
    chunkFits_iff, fun s u v cmd x y hy hu hv => ⟨fun hc => ?_, fun hc hx => ?_, fun hc hx => ?_⟩,
    fun s u cmd hu => ⟨fun hp hv ha => ⟨fun hm => ?_, fun hm => ?_⟩, fun hp hv => ?_,
      fun hp => ⟨_, rfl, _, rfl, fun hm => ?_, fun hm => ?_⟩⟩,
    fun s => ⟨fun hi => ?_, fun x u hi hu => ?_⟩⟩
  · rw [execImageLoad_heard h ha hs rfl, hb, State.bulk_met (s.imageChunk_ne_timeout cmd)]
  · rw [execImageLoad_heard h ha hs rfl, hb]
    rfl
  · rw [execImageLoad_heard h ha hs rfl, hb]
    rfl
  · rw [State.imageChunk_empty hn hl, if_pos ⟨ha, hc⟩]
  · rw [State.imageChunk_empty hn hl, if_neg (by omega)]
  · rw [State.imageChunk_start hn ha (by omega), if_pos h₁]
  · rw [State.imageChunk_start hn ha (by omega), if_neg (by omega), if_neg (by omega)]
  · rw [State.imageChunk_start hn ha (by omega), if_neg (by omega), if_pos ⟨hm, hf⟩]
  · rw [State.imageChunk_start hn ha (by omega), if_neg (by omega), if_neg (by simp [hf])]
  · rw [State.imageChunk_next hn ha (by omega) hi hx, if_pos hf]
  · rw [State.imageChunk_next hn ha (by omega) hi hx, if_neg (by simp [hf])]
  · rw [State.loadChunk_eq hy hu, if_neg hc]
  · rw [State.loadChunk_eq hy hu, if_pos hc, State.loadEnds_eq hv, hy, if_pos hx]
  · rw [State.loadChunk_eq hy hu, if_pos hc, State.loadEnds_eq hv, hy, if_neg (by simp [hx])]
  · rw [State.loadOpen_up hu hp, if_neg (by simp [hv, ha]), if_pos hm]
  · rw [State.loadOpen_up hu hp, if_neg (by simp [hv, ha]), if_neg (by omega)]
  · rw [State.loadOpen_up hu hp, if_pos hv]
  · rw [State.loadOpen_boot hu hp rfl rfl, if_neg (by omega)]
  · rw [State.loadOpen_boot hu hp rfl rfl, if_pos hm]
  · simp only [State.loadAbandon, hi]
  · simp only [State.loadAbandon, hi, ← hu]

end Sys2Proof.Machine
end

section
/-! Proofs of the family of the Basin: what its sequencer issues, and the rules by which a command that it stands at, or
that a unit works on, completes, waits or fails. -/

namespace Sys2Proof.Machine

open Sys2Proof.Laws

/-! ### A Basin with no command outstanding -/

section Idle

variable {b : Basin}

/-- With nothing outstanding no WAIT holds a command back (R65). -/
theorem Basin.waitOk_idle (h : b.queue = []) (cmd : Bytes) : b.waitOk cmd = true := by
  simp [Basin.waitOk, Basin.outstanding, h]

/-- An empty queue has room (R64). -/
theorem Basin.room_idle (h : b.queue = []) (cmd : Bytes) : b.room cmd = true := by
  simp [Basin.room, h]

theorem State.unitHead_idle {s : State} {n : Nat} (h : (s.basin n).queue = []) (units : Nat) :
    s.unitHead n units = none := by
  simp [State.unitHead, h]

/-- A unit without a command does nothing. -/
theorem State.runUnit_idle {s : State} {n : Nat} (h : (s.basin n).queue = []) (op : Nat) (mask : List Nat)
    (f : QCmd → State → CmdResult) : s.runUnit n op mask f = s := by
  simp only [State.runUnit, State.unitHead_idle h]

end Idle

/-! ### What an issue and a failure leave of the Basin -/

section Frames

variable (s : State) (n : Nat)

/-- A counted event changes a Basin's monitor only. -/
theorem State.pmuEvent_basin (event : Nat) :
    (s.pmuEvent n event).basin n = { s.basin n with pmu := ((s.pmuEvent n event).basin n).pmu } := by
  rw [State.pmuEvent, State.modBasin_same]
  rfl

theorem State.nextCmd_basin : (s.nextCmd n).basin n =
    { s.basin n with pmu := ((s.nextCmd n).basin n).pmu, listPos := (s.basin n).listPos + 1 } := by
  rw [State.nextCmd, State.modBasin_same, State.pmuEvent_basin]

/-- An issued command stands last in the queue, and the list moves on (R64). -/
theorem State.issueCmd_basin (cmd : Bytes) : (s.issueCmd n cmd).basin n = { s.basin n with
    pmu := ((s.issueCmd n cmd).basin n).pmu, listPos := (s.basin n).listPos + 1
    queue := (s.basin n).queue ++ [{ idx := (s.basin n).listPos, cmd := cmd }] } := by
  rw [State.issueCmd, State.nextCmd_basin, State.modBasin_same]

/-- A command issued to an idle Basin is the oldest of its units. -/
theorem State.unitHead_issueCmd {s : State} {n : Nat} (h : (s.basin n).queue = []) {cmd : Bytes}
    (hu : unitsOf (byteAt cmd 0) ≠ 0) :
    (s.issueCmd n cmd).unitHead n (unitsOf (byteAt cmd 0)) = some { idx := (s.basin n).listPos, cmd := cmd } := by
  rw [State.unitHead, State.issueCmd_basin]
  simp [h, QCmd.uses, QCmd.opcode, hu]

/-- A list that fails keeps of its queue the started commands but the failing one (R69). -/
theorem State.basinFail_queue (idx status : Nat) : ((s.basinFail n idx status).basin n).queue =
    (s.basin n).queue.filter fun q => q.started && q.idx != idx := by
  rw [State.basinFail, State.modBasin_same, State.dropWalkerPin, State.modBasin_same]
  split <;> rfl

end Frames

/-- Units that have a command are issued no other (R64). -/
theorem State.issueFor_head {s : State} {n op : Nat} {q : QCmd} (hu : unitsOf op ≠ 0)
    (h : s.unitHead n (unitsOf op) = some q) (fuel : Nat) : State.issueFor n op fuel s = (s, none) := by
  cases fuel with
  | zero => rfl
  | succ k => simp [State.issueFor, hu, h]

end Sys2Proof.Machine

namespace Sys2Proof.Safety

open Sys2Proof.Machine

/-! ### A fetched command -/

section Fetched

variable {s r : State} {n op : Nat} {cmd : Bytes}

/-- The command that an idle Basin fetches ends the list, comes to the sequencer or issues, by its opcode (R64, R71). -/
theorem Fetches.issue (h : Fetches s n op cmd r) (op' : Nat) : s.issue n op' =
    if knownOpcode op = false then (r.basinFail n (s.basin n).listPos 1, none)
    else if unitsOf op = 0 then (r, if op = op' then some cmd else none)
    else State.issueFor n op' 39 (r.issueCmd n cmd) := by
  obtain ⟨hs, hr⟩ := h.alone
  rw [State.issue, if_pos h.runs, issueFuel, State.issueFor, State.unitHead_idle hs, h.fetched,
    if_neg (by simp), if_neg (Nat.not_le.mpr h.within)]
  simp [waits, h.command, h.opcode, Nat.not_lt.mpr h.lag, Basin.waitOk_idle hr, Basin.room_idle hr]

/-- A command of no opcode ends the list with status 1, and no unit is left with a command to work on (R69, R71). -/
theorem Fetches.unknown (h : Fetches s n op cmd r) (hlive : s.live = true) (hk : knownOpcode op = false) (op' : Nat)
    (mask : List Nat) (f : QCmd → State → CmdResult) :
    act s (fun s => s.runQueued n op' mask f) = .next (r.basinFail n (s.basin n).listPos 1) := by
  have ht : s.terraceOn (n / 8) = true := (Bool.and_eq_true_iff.mp h.runs).2
  rw [act_live hlive, State.runQueued, if_pos ht, h.issue, if_pos hk, State.runUnit_idle]
  rw [State.basinFail_queue, h.alone.2, List.filter_nil]

end Fetched

/-! ### A command of the sequencer's own -/

section Own

variable {s r t : State} {n op : Nat} {mask : List Nat} {cmd : Bytes} {f : Bytes → State → CmdResult}

/-- The sequencer's command at the list position, by what its run comes to (R64, R69). -/
theorem Sequences.runSeq (h : Sequences s n op mask cmd r) (f : Bytes → State → CmdResult) :
    s.runSeq n op mask f =
      if (f cmd r).1 = waits then (f cmd r).2
      else if (f cmd r).1 ≠ 0 then (f cmd r).2.basinFail n (r.basin n).listPos (f cmd r).1
      else (f cmd r).2.nextCmd n := by
  simp only [State.runSeq, h.issued]
  exact if_neg (by simp [h.reserved])

/-- A command of its own that is done moves the list on. -/
theorem Sequences.done (h : Sequences s n op mask cmd r) (hf : f cmd r = (0, t)) :
    act s (fun s => s.runSeq n op mask f) = .next (t.nextCmd n) := by
  rw [act_live h.up, h.runSeq, hf]
  rfl

/-- One that must wait stays at the list position. -/
theorem Sequences.stays (h : Sequences s n op mask cmd r) (hf : f cmd r = (waits, t)) :
    act s (fun s => s.runSeq n op mask f) = .next t := by
  rw [act_live h.up, h.runSeq, hf]
  rfl

end Own

/-! ### A command of a unit -/

section Unit

variable {s r t : State} {n op st : Nat} {mask : List Nat} {q : QCmd} {f : QCmd → State → CmdResult}

/-- A unit's oldest command, by what its run comes to (R64, R69). -/
theorem Works.runQueued (h : Works s n op mask q r) (f : QCmd → State → CmdResult) :
    s.runQueued n op mask f =
      if (f q r).1 = waits then (f q r).2
      else if (f q r).1 ≠ 0 then (f q r).2.listFails n q.idx (f q r).1
      else (f q r).2.dropQ n q.idx := by
  rw [State.runQueued, if_pos h.on, h.issued]
  simp only [State.runUnit, h.head]
  rw [if_neg (by simp [h.opcode, h.left, h.runs]), if_neg (by simp [h.reserved])]

/-- A command of a unit that is done leaves its queue. -/
theorem Works.done (h : Works s n op mask q r) (hf : f q r = (0, t)) :
    act s (fun s => s.runQueued n op mask f) = .next (t.dropQ n q.idx) := by
  rw [act_live h.up, h.runQueued, hf]
  rfl

/-- One that goes on later, or must wait, stays. -/
theorem Works.stays (h : Works s n op mask q r) (hf : f q r = (waits, t)) :
    act s (fun s => s.runQueued n op mask f) = .next t := by
  rw [act_live h.up, h.runQueued, hf]
  rfl

/-- One that fails ends its list. -/
theorem Works.fails (h : Works s n op mask q r) (hf : f q r = (st, t)) (h₀ : st ≠ 0) (hw : st ≠ waits) :
    act s (fun s => s.runQueued n op mask f) = .next (t.listFails n q.idx st) := by
  rw [act_live h.up, h.runQueued, hf, if_neg hw, if_pos h₀]

end Unit

end Sys2Proof.Safety
end

section
/-! Proofs of the family of the Basin: the sequencer's own commands, SETRND and TAP_FLUSH (O7), and what becomes of a fetched
command and of a unit's command (O8). -/

namespace Sys2Proof.Safety

open Sys2Proof.Machine

/-- Settles O7: each command by its run, done or waiting. That END waits for its units is the model's (log entry 23). -/
theorem basinSequencerCommands : Obligations.BasinSequencerCommands := by
  refine ⟨fun s r n cmd h => h.done rfl, fun s r n cmd h => ?_,
    fun s r n cmd h => ⟨fun hd => h.done (if_neg (· hd)), fun hd => h.stays (if_pos hd)⟩,
    fun s r n cmd h hm => ⟨fun hb => h.done ((if_neg hm).trans (if_pos hb)),
      fun hb => h.stays ((if_neg hm).trans (if_neg hb))⟩,
    fun s r n cmd h => ⟨fun hq => h.done (if_neg (· hq)), fun hq => h.stays (if_pos hq)⟩,
    fun s r q v n cmd h hq hv => ?_, fun s r n q h => h.done rfl, fun s r n q h => h.done rfl⟩
  · by_cases hq : (r.basin n).queue = []
    · rw [if_pos hq]
      exact h.done (congrArg (·, r) (if_pos hq))
    · rw [if_neg hq]
      exact h.stays (congrArg (·, r) (if_neg hq))
  · subst hv
    refine h.done ?_
    dsimp only
    rw [hq]
    rfl

/-- Settles O8: a fetched command by its opcode, a unit's command by the outcome of its run. -/
theorem basinCommandOutcome : Obligations.BasinCommandOutcome := by
  refine ⟨fun s r n op cmd h hk => ⟨fun hu => ?_, fun hu => ?_⟩, fun s r n op cmd i hlive h hk hi => ?_,
    fun s r t n k st op q i mask hi h => ?_⟩
  · rw [h.issue, if_neg (by simp [hk]), if_pos hu, if_pos rfl]
  · have hd : (r.issueCmd n cmd).unitHead n (unitsOf op) = some { idx := (r.basin n).listPos, cmd := cmd } := by
      rw [← h.opcode] at hu ⊢
      exact State.unitHead_issueCmd h.alone.2 hu
    refine ⟨?_, by rw [State.issueCmd_basin], hd⟩
    rw [h.issue, if_neg (by simp [hk]), if_neg hu, State.issueFor_head hu hd]
  · obtain ⟨k, rfl | rfl | rfl | rfl | rfl | rfl | rfl⟩ := hi <;> exact h.unknown hlive hk _ _ _
  · have hf : ∃ f, exec i s = act s (fun s => s.runQueued n op mask f) ∧ f q r = (st, t) := by
      rcases hi with ⟨rfl, rfl, rfl, hr⟩ | ⟨rfl, rfl, rfl, hr⟩ | ⟨rfl, rfl, rfl, hr⟩ | ⟨rfl, rfl, rfl, hr⟩ |
        ⟨rfl, rfl, rfl, hr⟩ | ⟨rfl, rfl, rfl, hr⟩ <;> exact ⟨_, rfl, hr⟩
    obtain ⟨f, hi, hf⟩ := hf
    rw [hi]
    refine ⟨fun h₀ => h.done (hf.trans (by rw [h₀])), fun hw => h.stays (hf.trans (by rw [hw])), h.fails hf⟩

end Sys2Proof.Safety
end

section
/-! Proofs of the family of the Basin: each engine's command completes where its checks pass and its banks serve (O9). -/

namespace Sys2Proof.Machine

/-! ### DMA -/

/-- A DMA of one zero-filled line lies within the Pool (R71, R72). -/
theorem DmaCmd.badShape_zeroLine {c : Bytes} (hz : (dmaOf c).zero = true) (hl : (dmaOf c).lines = 1)
    (hr : (dmaOf c).rows = 1) (hp : (dmaOf c).pitch ≠ 0) : (dmaOf c).badShape = false := by
  have hline : (dmaOf c).line < 0x8000 := Nat.mod_lt _ (by decide)
  simp [DmaCmd.badShape, hz, hl, hr, hp]
  omega

/-- One line of a DMA that has gone records its progress (R70). -/
theorem State.dmaSteps_one {s t : State} {n idx p : Nat} {d : DmaCmd}
    (h : s.dmaLine n idx d (d.poolLine p) (d.extAddr p) = (0, t)) :
    s.dmaSteps n idx p 1 d = (0, t.modQ n idx fun x => { x with done := p + 1 }) := by
  simp [State.dmaSteps, List.range_succ, h]

/-- A command whose accesses have all been answered still has none left when its record changes otherwise. -/
theorem State.modQ_left {s : State} {n idx : Nat} {f : QCmd → QCmd}
    (hf : ∀ x, (f x).left = x.left)
    (h : ∀ x ∈ (s.basin n).queue, x.idx = idx → x.left = 0) :
    ∀ x ∈ ((s.modQ n idx f).basin n).queue, x.idx = idx → x.left = 0 := by
  rw [State.modQ, State.modBasin_same]
  intro x hx hi
  obtain ⟨y, hy, rfl⟩ := List.mem_map.mp hx
  by_cases hyi : y.idx = idx
  · rw [if_pos hyi]
    exact (hf y).trans (h y hy hyi)
  · rw [if_neg hyi] at hi
    exact absurd hi hyi

/-- A DMA of one zero-filled line writes it and is whole (R65, R72). -/
theorem DmaCmd.run_zeroLine {c : Bytes} {n k : Nat} {q : QCmd} {s t : State} (hd : q.done = 0)
    (hz : (dmaOf c).zero = true) (hl : (dmaOf c).lines = 1) (hr : (dmaOf c).rows = 1) (hp : (dmaOf c).pitch ≠ 0)
    (hio : (s.modQ n q.idx fun x => { x with started := true }).basinIo n (poolAddr n (dmaOf c).line) 64 true (zeros 64)
      = (0, t)) (hleft : ∀ x ∈ (t.basin n).queue, x.idx = q.idx → x.left = 0) :
    (dmaOf c).run n k q s = (0, (t.modQ n q.idx fun x => { x with done := 1 }).modQ n q.idx
      fun x => { x with whole := true }) := by
  have hrest : (dmaOf c).total - q.done = 1 := by simp [DmaCmd.total, hr, hl, hd]
  have htodo : (if k = 0 then 1 else min k 1) = 1 := by split <;> omega
  have hline : (s.modQ n q.idx fun x => { x with started := true }).dmaLine n q.idx (dmaOf c)
      ((dmaOf c).poolLine q.done) ((dmaOf c).extAddr q.done) = (0, t) := by
    have hpool : (dmaOf c).poolLine q.done = (dmaOf c).line := by simp [DmaCmd.poolLine, hl, hd]
    rw [State.dmaLine, if_pos hz, hpool, hio]
  have hwhole := State.modQ_left (f := fun x => { x with whole := true }) (fun _ => rfl)
    (State.modQ_left (f := fun x => { x with done := 1 }) (fun _ => rfl) hleft)
  rw [DmaCmd.run, if_neg (by simp [DmaCmd.badShape_zeroLine hz hl hr hp])]
  simp only [hrest, htodo, State.dmaSteps_one hline]
  rw [hd]
  refine congrArg (·, _) (if_neg ?_)
  simpa using hwhole

/-! ### The Cascade's tiles -/

/-- A MATMUL accumulates its tile and drains it where EMIT says so (R75, R80). -/
theorem Matmul.run_tile {m : Matmul} {n : Nat} {c : FmtClass} {s t : State} (hc : fmtClass m.fa = some c)
    (hres : m.reserved c = false) (hacc : accMismatch (s.accStart n m.sel (bit m.flags 0)) c = false)
    (hshape : m.badShape c = false) (hask : s.askLines n (m.reads c) m.writes = (0, t))
    (hmeta : m.sparse = true → t.metaOk n m.metaLine (m.k c) = true) :
    m.run n s = (0, t.tileInto n m.sel (bit m.flags 0)
      (if c.isInt then .inl (m.intTile t n c) else .inr (m.floatTile t n c)) m.emit m.drain) := by
  simp only [Matmul.run, hc, hres, hacc, hshape, hask, Bool.or_self, Bool.false_eq_true, if_false, ne_eq,
    not_true_eq_false]
  exact if_neg (by simpa using hmeta)

/-- A CONV whose descriptor and shape hold comes to its tile (R184). -/
theorem ConvCmd.run_compute {m : ConvCmd} {n : Nat} {c : FmtClass} {d : ConvDesc} {s t₁ t₂ : State}
    (hc : fmtClass m.fx = some c) (hres : m.reserved c = false)
    (hacc : accMismatch (s.accStart n m.sel (bit m.flags 0)) c = false)
    (hask₁ : s.askLines n [(m.desc, 1)] [] = (0, t₁)) (hd : d = convDescOf (t₁.rd (poolAddr n m.desc) 64))
    (hdesc : m.descError d c = false) (hshape : m.badShape d c = false)
    (hask₂ : t₁.askLines n (m.reads d c) m.writes = (0, t₂)) : m.run n s = m.compute d c n t₂ := by
  subst hd
  simp only [ConvCmd.run, hc, hres, hacc, hask₁, hdesc, hshape, hask₂]
  rfl

/-- A CONV accumulates its tile and drains it by channels where EMIT says so (R185, R189). -/
theorem ConvCmd.compute_tile {m : ConvCmd} {n : Nat} {c : FmtClass} {d : ConvDesc} {s : State}
    (hmeta : m.sparse = true → s.metaOkAt n m.metaLine (m.usedGroups d) = true) {w : State × AccSet}
    (hw : w = s.tileAcc n m.sel (bit m.flags 0)
      (if c.isInt then .inl (m.intTile s n d c) else .inr (m.floatTile s n d c))) :
    m.compute d c n s = (0, if m.emit then w.1.drainChannels n w.2 m.drainOf else w.1) := by
  subst hw
  exact if_neg (by simpa using hmeta)

/-! ### ATTN -/

/-- The environment of an ATTN in direct mode, which no space binds (R201). -/
def AttnCmd.directEnv (m : AttnCmd) (n : Nat) (d : AttnDesc) (t : State) : AttnEnv :=
  { n := n, c := m, d := d, cls := (fmtClass m.fq).getD .fp8, p := t.kvSpace d.space, g := t.attnGlobals n d }

/-- An ATTN in direct mode whose checks pass comes to its batch (R201, R203). -/
theorem AttnCmd.run_direct {m : AttnCmd} {n k : Nat} {q : QCmd} {d : AttnDesc} {s t₁ t₂ : State}
    (hres : m.reserved q.cmd = false) (hask₁ : s.askLines n [(m.desc, 1)] [] = (0, t₁))
    (hd : d = attnDescOf (t₁.rd (poolAddr n m.desc) 64)) (hpaged : d.paged = false) (happ : m.append = false)
    (hbad : d.bad = false) (hglob : d.globals = 0) (hfit : regionsFit [(m.batch, (m.entries + 3) / 4)] = true)
    (hask₂ : t₁.askLines n [(m.batch, (m.entries + 3) / 4)] [] = (0, t₂))
    (hg : globalsBad d (t₂.attnGlobals n d) = false) :
    m.run n k q s = (m.directEnv n d t₂).run k q t₂ := by
  have hspace : t₁.attnSpaceBad n m d = false := by simp [State.attnSpaceBad, hpaged]
  simp only [AttnCmd.run, hres, hask₁, happ, ← hd]
  simp [AttnCmd.withDesc, AttnCmd.directEnv, hbad, hspace, hglob, hfit, hask₂, hg, hpaged]

/-! ### The Rill, its transposer and the Jet -/

/-- A RILL whose bundles are valid runs all its iterations (R81). -/
theorem RillCmd.run_iters {m : RillCmd} {n : Nat} {s t₁ t₂ : State} (hit : m.iters * max m.count 4 ≤ 65536)
    (hfit : regionsFit m.regions = true) (hask₁ : s.askLines n [m.list] [] = (0, t₁))
    (hraw : (m.raw n t₁).all bundleOk = true) (hask₂ : t₁.askLines n m.inputs m.output = (0, t₂)) :
    m.run n s = (0, (List.range m.iters).foldl (m.iter n ((m.raw n t₂).map bundleOf)) t₂) := by
  rw [RillCmd.run, if_neg (by simp [hit, hfit])]
  simp only [hask₁, hraw, hask₂]
  rfl

/-- A TRANSPOSE that may move all its remaining blocks moves them (R72). -/
theorem transposeRun_rest {n e blocks : Nat} {q : QCmd} {s t : State} (he : e = 2 ^ fld (byteAt q.cmd 3) 0 2)
    (he₈ : e ≠ 8) (hb : blocks = le q.cmd 8 2) (hb₀ : blocks ≠ 0) (hdone : q.done ≤ blocks)
    {reads writes : List (Nat × Nat)} (hr : reads = transposeRegions (lineAt q.cmd 4) (le q.cmd 10 2) blocks 64)
    (hw : writes = transposeRegions (lineAt q.cmd 6) (le q.cmd 12 2) blocks (64 * e))
    (hfit : regionsFit (reads ++ writes) = true)
    (hask : s.askLines n (reads.drop q.done) (writes.drop q.done) = (0, t)) :
    transposeRun n 0 q s = (0, (List.range (blocks - q.done)).foldl (fun s b =>
      s.transposeBlock n e (lineAt q.cmd 4) (le q.cmd 10 2) (lineAt q.cmd 6) (le q.cmd 12 2) (q.done + b)) t) := by
  have hall : q.done + (blocks - q.done) = blocks := by omega
  simp only [transposeRun, ← he, ← hb, ← hr, ← hw, if_neg he₈, hask]
  rw [if_neg (by simp [hb₀, hfit])]
  exact if_pos hall

/-- The values that a JET in FP32 makes of its elements (R84). -/
def jetValues (cmd : Bytes) (n : Nat) (t : State) : List Nat :=
  (List.range (le cmd 8 4)).map fun i => jetElem (fld (byteAt cmd 3) 0 3) (le cmd 12 4) (le cmd 16 4)
    (t.rdLe (poolAddr n (lineAt cmd 4) + 4 * i) 4) false

/-- What a JET in FP32 leaves: its values in the Pool, and NAN_SEEN (R69, R84). -/
def State.jetStore (t : State) (n : Nat) (cmd : Bytes) (ys : List Nat) : State :=
  (t.wr (poolAddr n (lineAt cmd 6)) (ys.map (leBytes 4)).flatten).modBasin n fun b =>
    { b with nanSeen := b.nanSeen || ys.any fun y => dec32 y == .nan }

end Sys2Proof.Machine

namespace Sys2Proof.Safety

open Sys2Proof.Machine

/-- A JET in FP32 whose checks pass completes with its values stored (R84). -/
theorem Works.jet {s r t : State} {n count : Nat} {q : QCmd} {src dst : Nat × Nat}
    (h : Works s n 0x28 ([0x03, 0x07, 0xFF, 0x7F, 0xFF, 0x7F] ++ List.replicate 12 0xFF) q r)
    (hf : fld (byteAt q.cmd 3) 0 3 < 6) (hcount : count = le q.cmd 8 4) (h₁₆ : count % 16 = 0) (hmax : count ≤ 1048576)
    (hfmt : byteAt q.cmd 2 = 0) (hsrc : src = (lineAt q.cmd 4, (count * 4 + 63) / 64))
    (hdst : dst = (lineAt q.cmd 6, (count * 4 + 63) / 64)) (hfit : regionsFit [src, dst] = true)
    (hask : r.askLines n [src] [dst] = (0, t)) :
    exec (.jet n) s = .next ((t.jetStore n q.cmd (jetValues q.cmd n t)).dropQ n q.idx) := by
  have hb : ∀ i, bit (byteAt q.cmd 2) i = false := fun i => by simp [hfmt, bit]
  refine h.done ?_
  simp only [hb, ← hcount, Bool.false_eq_true, if_false, ← hsrc, ← hdst, hask]
  rw [if_neg (Nat.not_le.mpr hf), if_neg (by simp [h₁₆, hmax, hfit]), hcount]
  rfl

/-- Settles O9: each engine by its run; a JET by what it stores. -/
theorem basinEnginesComplete : Obligations.BasinEnginesComplete := by
  refine ⟨fun s r u t n k q h hd hz hl hr hp hu hio hleft => ?_,
    fun s r t n q c m h hm hc hres hacc hshape hask hmeta => ?_,
    fun s r t₁ t₂ n q c m d h hm hc hres hacc hask₁ hd hdesc hshape hask₂ hmeta => ⟨_, rfl, ?_⟩,
    fun s r t₁ t₂ t n k q m d g h hm hres hask₁ hd hpaged happ hbad hglob hfit hask₂ hg hgb hrun => ?_,
    fun s r t₁ t₂ n q m h hm hit hfit hask₁ hraw hask₂ => ?_,
    fun s r t n e blocks q ri wi h he he₈ hb hb₀ hdone hri hwi hfit hask => ?_,
    fun s r t n func count q src dst h hfunc hf hcount h₁₆ hmax hfmt hsrc hdst hfit hask => ?_⟩
  · subst hu
    exact h.done (DmaCmd.run_zeroLine hd hz hl hr hp hio hleft)
  · subst hm
    exact h.done (Matmul.run_tile hc hres hacc hshape hask hmeta)
  · subst hm
    exact h.done ((ConvCmd.run_compute hc hres hacc hask₁ hd hdesc hshape hask₂).trans
      (ConvCmd.compute_tile hmeta rfl))
  · subst hm hg
    exact h.done ((AttnCmd.run_direct hres hask₁ hd hpaged happ hbad hglob hfit hask₂ hgb).trans hrun)
  · subst hm
    exact h.done (RillCmd.run_iters hit hfit hask₁ hraw hask₂)
  · exact h.done (transposeRun_rest he he₈ hb hb₀ hdone hri hwi hfit hask)
  · subst hfunc
    refine ⟨_, jetValues q.cmd n t, h.jet hf hcount h₁₆ hmax hfmt hsrc hdst hfit hask, ?_⟩
    subst hcount
    refine ⟨rfl, rfl, rfl, ?_, ?_⟩ <;>
      rw [State.dropQ, State.modBasin_same, State.jetStore, State.modBasin_same] <;> rfl

end Sys2Proof.Safety
end

section
/-! Proofs of the family of the Pools, the Reservoir and the external memory: a bank control write (O10). -/

namespace Sys2Proof.Machine

open Sys2Proof.Laws

/-! ### A change of one bank -/

/-- A change of a bank is what it makes of the bank that stands there. -/
theorem State.modBank_congr {s : State} {k : Nat} {f g : Bank → Bank} (h : f (s.bank k) = g (s.bank k)) :
    s.modBank k f = s.modBank k g :=
  congrArg (fun b => { s with banks := tset s.banks k b }) h

/-! ### What a control write does -/

/-- A write that the bank rejects sets HANDOVER_REJECTED alone (R98). -/
theorem State.bankCtlWrite_rejected {s : State} {k v : Nat} (h : s.bankRejects k v = true) (w : BankWriter)
    (past : Option Bool) :
    s.bankCtlWrite k v w past = s.modBank k fun b => { b with handoverRejected := true } := by
  rw [State.bankCtlWrite, if_pos h]

/-- An accepted write of another owner starts a handover (R100). -/
theorem State.bankCtlWrite_owner {s : State} {k v : Nat} (h : s.bankRejects k v = false)
    (hc : (s.bank k).changesOwner v = true) (w : BankWriter) (past : Option Bool) :
    s.bankCtlWrite k v w past = s.modBank k fun b =>
      b.startHandover v (if mayPower k w then bankPwrOf (fld v 16 2) else (s.bank k).ctlPwr) := by
  simp only [State.bankCtlWrite, h, hc, if_true, Bool.false_eq_true, if_false]

/-- An accepted write of the owner in place by a writer that may not switch the bank changes nothing (log entry 109). -/
theorem State.bankCtlWrite_unchanged {s : State} {k v : Nat} {w : BankWriter} (h : s.bankRejects k v = false)
    (hc : (s.bank k).changesOwner v = false) (hw : mayPower k w = false) (past : Option Bool) :
    s.bankCtlWrite k v w past = s := by
  simp only [State.bankCtlWrite, h, hc, hw, Bool.false_eq_true, if_false, if_true]

/-- An accepted write of the owner in place with another PWR reaches the bank's power (R102, R105). -/
theorem State.bankCtlWrite_pwr {s : State} {k v : Nat} {w : BankWriter} (h : s.bankRejects k v = false)
    (hc : (s.bank k).changesOwner v = false) (hw : mayPower k w = true)
    (hp : (s.bank k).ctlPwr ≠ bankPwrOf (fld v 16 2)) (past : Bool) :
    s.bankCtlWrite k v w (some past) = s.modBank k fun b => b.pwrWrite (bankPwrOf (fld v 16 2)) past := by
  simp only [State.bankCtlWrite, h, hc, hw, hp, Bool.false_eq_true, if_false, if_true, State.bankPwr]

/-- A bank at rest in another state starts its transition (R102). -/
theorem Bank.pwrWrite_rest {b : Bank} {dst : BankPwr} (ht : b.transition = none) (hp : b.pwrState ≠ dst) (past : Bool) :
    b.pwrWrite dst past = { b with ctlPwr := dst, transition := some { src := b.pwrState, dst := dst } } := by
  simp only [Bank.pwrWrite, ht, if_neg hp]

/-- A write of on during an on to off transition aborts it before the isolation point and is latched after it (R105). -/
theorem Bank.pwrWrite_abort {b : Bank} (ht : b.transition = some { src := .on, dst := .off }) (past : Bool) :
    b.pwrWrite .on past =
      if past then { b with ctlPwr := .on, latchedPwr := some .on, pwrAborted := false }
      else { b with ctlPwr := .on, transition := none, latchedPwr := none, pwrState := .on, pwrAborted := true } := by
  simp only [Bank.pwrWrite, ht, and_self, if_true]

theorem execBankScrubHandover_live {s : State} (hlive : s.live = true) (k v : Nat) (w : BankWriter) :
    exec (.bankScrubHandover k ⟨v, w⟩) s = .next (s.bankCtlWrite k v w none) := by
  rw [exec, execBankScrubHandover, act_live hlive]

theorem execBankTransfer_live {s : State} (hlive : s.live = true) (k v : Nat) (w : BankWriter) :
    exec (.bankTransfer k ⟨v, w⟩) s = .next (s.bankCtlWrite k v w none) := by
  rw [exec, execBankTransfer, act_live hlive]

theorem execBankPwrChange_live {s : State} (hlive : s.live = true) (k v : Nat) (w : BankWriter) (past : Bool) :
    exec (.bankPwrChange k ⟨v, w⟩ past) s = .next (s.bankCtlWrite k v w (some past)) := by
  rw [exec, execBankPwrChange, act_live hlive]

/-- The three bank control writes are one write; only the third says on which side of the isolation point it comes (R97,
R98, R114). -/
theorem exec_bankWrite {s : State} (hlive : s.live = true) {i : Instr} {k v : Nat} {w : BankWriter} {past : Bool}
    (hi : i = .bankScrubHandover k ⟨v, w⟩ ∨ i = .bankTransfer k ⟨v, w⟩ ∨ i = .bankPwrChange k ⟨v, w⟩ past) :
    ∃ p : Option Bool, exec i s = .next (s.bankCtlWrite k v w p) := by
  rcases hi with rfl | rfl | rfl
  · exact ⟨none, execBankScrubHandover_live hlive k v w⟩
  · exact ⟨none, execBankTransfer_live hlive k v w⟩
  · exact ⟨some past, execBankPwrChange_live hlive k v w past⟩

/-- What a bank rejects (R98). -/
theorem State.bankRejects_of {s : State} {k v : Nat}
    (h : (s.bank k).fenced = true ∨ (s.bank k).handover ≠ none ∨ fld v 13 2 ≥ 2 ∨ fld v 16 2 = 3 ∨
      (fld v 13 2 = 1 ∧ bit v 12 = true) ∨
      (fld v 13 2 = 1 ∧ (s.bank k).changesOwner v = true ∧
        s.transferPair (s.bank k).curOwner (fld v 0 12) 24 = false)) : s.bankRejects k v = true := by
  rw [← Option.isSome_iff_ne_none] at h
  rcases h with h | h | h | h | ⟨hm, hb⟩ | ⟨hm, hc, ht⟩ <;> simp [State.bankRejects, *]

/-- A write in TRANSFER mode that a bank accepts does not name FREE (R98). -/
theorem State.bankRejects_transfer_free {s : State} {k v : Nat} (h : s.bankRejects k v = false)
    (hm : fld v 13 2 = 1) : bit v 12 = false := by
  cases hb : bit v 12 with
  | false => rfl
  | true => simp [State.bankRejects_of (s := s) (k := k) (.inr (.inr (.inr (.inr (.inl ⟨hm, hb⟩)))))] at h

/-- Settles O10: a write is rejected, starts a handover, or reaches the bank's power. -/
theorem bankControlWrites : Obligations.BankControlWrites := by
  refine ⟨fun s i k v w past hlive hi hr => ?_, fun s k v w p hlive hr hc hp => ⟨fun hm => ?_, fun hm => ?_⟩,
    fun s k v w past hlive hr hc hw => ?_, fun s k v w past hlive hr hc hw hp => ⟨fun ht hs => ?_, fun ht hon => ?_⟩⟩
  · obtain ⟨p, he⟩ := exec_bankWrite hlive hi
    rw [he, State.bankCtlWrite_rejected (State.bankRejects_of hr)]
  · rw [execBankScrubHandover_live hlive, State.bankCtlWrite_owner hr hc, ← hp]
    simp [Bank.startHandover, hm]
  · rw [execBankTransfer_live hlive, State.bankCtlWrite_owner hr hc, ← hp]
    simp [Bank.startHandover, hm, State.bankRejects_transfer_free hr hm]
  · rw [execBankPwrChange_live hlive, State.bankCtlWrite_unchanged hr hc hw]
  · rw [execBankPwrChange_live hlive, State.bankCtlWrite_pwr hr hc hw hp]
    exact congrArg _ (State.modBank_congr (Bank.pwrWrite_rest ht hs past))
  · rw [execBankPwrChange_live hlive, State.bankCtlWrite_pwr hr hc hw hp, hon]
    exact congrArg _ (State.modBank_congr (Bank.pwrWrite_abort ht past))

end Sys2Proof.Machine
end

section
/-! Proofs of the family of the Pools, the Reservoir and the external memory: the end of a handover and of
a power transition (O11). -/

namespace Sys2Proof.Machine

open Sys2Proof.Laws

theorem tset_tset {α : Type} (k : Nat) (a b : α) : ∀ t : Table α, tset (tset t k a) k b = tset t k b
  | [] => by simp [tset]
  | (j, c) :: r => by
    rcases Nat.lt_trichotomy k j with h | h | h
    · simp [tset, h]
    · simp [tset, h]
    · simp [tset, Nat.not_lt.mpr (Nat.le_of_lt h), Nat.ne_of_gt h, tset_tset k a b r]

/-! ### A bank put in place, its bytes zeroed or left -/

/-- Bank `k` is `b`, its bytes are zeroed where `z` says so, and nothing else changes: what the steps of a bank's
handover and power transition amount to. -/
def State.withBank (s : State) (k : Nat) (z : Bool) (b : Bank) : State :=
  { s with mem := if z then memZero s.mem (bankBase k) 0x20000 else s.mem, banks := tset s.banks k b }

theorem State.modBank_eq_withBank (s : State) (k : Nat) (f : Bank → Bank) :
    s.modBank k f = s.withBank k false (f (s.bank k)) := rfl

theorem State.zeroBank_eq_withBank (s : State) (k : Nat) :
    s.zeroBank k = s.withBank k true { s.bank k with poison := [] } := rfl

@[simp] theorem State.withBank_bank (s : State) (k : Nat) (z : Bool) (b : Bank) : (s.withBank k z b).bank k = b :=
  tget_tset_same _ _ _ _

theorem State.withBank_bank_other (s : State) {k j : Nat} (h : j ≠ k) (z : Bool) (b : Bank) :
    (s.withBank k z b).bank j = s.bank j := tget_tset_other _ _ _ _ h _

/-- Of two banks put in place the later one stands; its bytes are zeroed where either says so. -/
@[simp] theorem State.withBank_withBank (s : State) (k : Nat) (y z : Bool) (b c : Bank) :
    (s.withBank k y b).withBank k z c = s.withBank k (y || z) c := by
  have hz : memZero (memZero s.mem (bankBase k) 0x20000) (bankBase k) 0x20000 = memZero s.mem (bankBase k) 0x20000 := by
    simp [memZero]
  cases y <;> cases z <;> simp [State.withBank, tset_tset, hz]

@[simp] theorem State.withBank_modBank (s : State) (k : Nat) (z : Bool) (b : Bank) (f : Bank → Bank) :
    (s.withBank k z b).modBank k f = s.withBank k z (f b) := by
  simp [State.modBank_eq_withBank]

/-- A bank zeroed where `p` holds, then changed. -/
theorem State.zeroIf_modBank (s : State) (k : Nat) (p : Prop) [Decidable p] (f : Bank → Bank) :
    (if p then s.zeroBank k else s).modBank k f =
      s.withBank k p (f { s.bank k with poison := if p then [] else (s.bank k).poison }) := by
  by_cases h : p
  · simp [h, State.zeroBank_eq_withBank]
  · simp [h, State.modBank_eq_withBank]

/-- A bank put in place leaves every other bank, every byte outside, and all but the banks and the memory. -/
theorem State.withBank_frame (s : State) (k : Nat) (z : Bool) (b : Bank) :
    (∀ j, j ≠ k → (s.withBank k z b).bank j = s.bank j) ∧
    (∀ a, (a < bankBase k ∨ bankBase k + 0x20000 ≤ a) → memGet (s.withBank k z b).mem a = memGet s.mem a) ∧
    (∀ a, bankBase k ≤ a → a < bankBase k + 0x20000 →
      memGet (s.withBank k z b).mem a = if z then 0 else memGet s.mem a) ∧
    s.withBank k z b = { s with banks := (s.withBank k z b).banks, mem := (s.withBank k z b).mem } := by
  refine ⟨fun j hj => s.withBank_bank_other hj z b, fun a ha => ?_, fun a h₁ h₂ => ?_, rfl⟩
  · cases z
    · rfl
    · exact memGet_memZero_out _ _ _ _ ha
  · cases z
    · rfl
    · exact memGet_memZero_in _ _ _ _ h₁ h₂

/-! ### The steps of a handover at a bank that holds nothing -/

/-- A bank that holds no access serves none (R100 step 5). -/
theorem State.serveHeld_withBank (s : State) (k : Nat) (z : Bool) {b : Bank} (h : b.held = []) :
    (s.withBank k z b).serveHeld k = s.withBank k z b := by
  have hb : { b with held := [] } = b := by rw [← h]
  simp [State.serveHeld, h, hb]

/-- With nothing to drain and no wake, step 2 of a handover leaves the bank as it stands (R100). -/
theorem State.drainHandover_idle {s : State} {k : Nat} {h : BankHandover} (hh : (s.bank k).handover = some h)
    (hd : h.drain = []) : s.drainHandover k false = s.withBank k false (s.bank k) := by
  have hb : { s.bank k with handover := some { h with drain := [] } } = s.bank k := by rw [← hd, ← hh]
  simp [State.drainHandover, State.serveDrain, State.modBank_eq_withBank, hh, hd, hb]

/-- Steps 4 and 5 of a handover: the new owner, and in SCRUB mode no poisoned word (R97, R100). -/
def Bank.owned (b : Bank) (h : BankHandover) : Bank :=
  { b with
    poison := if h.scrub then [] else b.poison
    prevOwner := if b.curFree then none else some b.curOwner
    curOwner := if h.free then b.curOwner else h.owner
    curFree := h.free
    handover := none }

theorem State.giveOwner_withBank (s : State) (k : Nat) (b : Bank) (h : BankHandover) :
    (s.withBank k false b).giveOwner k h = s.withBank k h.scrub (b.owned h) := by
  simp [State.giveOwner, Bank.owned, State.zeroIf_modBank]

/-- No power change is asked of a bank that is at rest in the state of the ownership write (R114). -/
theorem State.followPwr_withBank (s : State) (k : Nat) (z : Bool) {b : Bank} {p : BankPwr} (ht : b.transition = none)
    (hp : b.pwrState = p) : (s.withBank k z b).followPwr k p = s.withBank k z { b with ctlPwr := p } := by
  simp [State.followPwr, ht, hp]

/-- The handover of a bank that is at rest and holds nothing ends with the new owner in place (R100, R101). -/
theorem State.finishHandover_idle {s : State} {k : Nat} {h : BankHandover} (hh : (s.bank k).handover = some h)
    (hw : h.wake = false) (hd : h.drain = []) (hheld : (s.bank k).held = []) (ht : (s.bank k).transition = none)
    (hp : (s.bank k).pwrState = h.pwr) (hfw : s.fwLoops = false) :
    s.finishHandover k = s.withBank k h.scrub { (s.bank k).owned h with ctlPwr := h.pwr } := by
  have hdr : (s.bank k).draining = false := by simp [Bank.draining, hh, ht]
  have hend : ((((s.drainHandover k h.wake).giveOwner k h).serveHeld k).followPwr k h.pwr) =
      s.withBank k h.scrub { (s.bank k).owned h with ctlPwr := h.pwr } := by
    have hheld' : ((s.bank k).owned h).held = [] := hheld
    rw [hw, State.drainHandover_idle hh hd, State.giveOwner_withBank, State.serveHeld_withBank _ _ _ hheld',
      State.followPwr_withBank (b := (s.bank k).owned h) _ _ _ ht hp]
  have hloops : (s.withBank k h.scrub { (s.bank k).owned h with ctlPwr := h.pwr }).fwLoops = false := hfw
  simp only [State.finishHandover, hh, hdr, hend, hloops, Bool.and_false, Bool.false_and, Bool.false_eq_true, if_false]

/-! ### The end of a power transition at a bank that holds nothing -/

/-- The bank loses its contents: the transition is from or to off (R102). -/
def BankTransition.loses (x : BankTransition) : Bool := decide (x.src = .off ∨ x.dst = .off)

/-- The bank after its transition, with nothing latched (R102, R105). -/
def Bank.switched (b : Bank) (x : BankTransition) : Bank :=
  { b with
    poison := if x.loses then [] else b.poison
    pwrState := x.dst
    transition := none
    latchedPwr := none
    pwrAborted := if x.dst = .off then false else b.pwrAborted }

/-- A bank outside a handover drains nothing. -/
theorem State.serveDrain_withBank (s : State) (k : Nat) (z : Bool) {b : Bank} (h : b.handover = none) :
    (s.withBank k z b).serveDrain k = s.withBank k z b := by
  simp only [State.serveDrain, State.withBank_bank, h]

theorem Bank.followLatched_none {b : Bank} (h : b.latchedPwr = none) :
    b.followLatched = { b with transition := none, latchedPwr := none } := by
  simp only [Bank.followLatched, h]

/-- The transition of a bank that holds nothing ends in its target state (R102). -/
theorem State.finishPower_idle {s : State} {k : Nat} {x : BankTransition} (hx : (s.bank k).transition = some x)
    (hl : (s.bank k).latchedPwr = none) (hheld : (s.bank k).held = []) (hh : (s.bank k).handover = none) :
    s.finishPower k = s.withBank k x.loses ((s.bank k).switched x) := by
  simp only [State.finishPower, hx, State.zeroIf_modBank]
  split
  · simp [State.serveDrain_withBank, State.serveHeld_withBank, Bank.followLatched_none, Bank.switched,
      BankTransition.loses, hh, hheld, hl]
  · simp [State.serveHeld_withBank, Bank.followLatched_none, Bank.switched, BankTransition.loses, hheld, hl]

/-- Settles O11: each end puts one bank in place, its bytes zeroed where the mode or the transition says so. -/
theorem bankTransitionsEnd : Obligations.BankTransitionsEnd := by
  refine ⟨fun s k h hlive hh hw hd hheld ht hp hfw => ?_, fun s k x hlive hx hl hheld hh => ?_⟩
  · refine ⟨s.finishHandover k, by rw [exec, execHandoverComplete, act_live hlive], ?_⟩
    rw [State.finishHandover_idle hh hw hd hheld ht hp hfw, State.withBank_bank]
    exact ⟨rfl, rfl, fun hf => by simp [Bank.owned, hf], rfl, State.withBank_frame _ _ _ _⟩
  · refine ⟨s.finishPower k, by rw [exec, execPowerTransitionDone, act_live hlive], ?_⟩
    obtain ⟨hother, hout, hin, hfr⟩ := State.withBank_frame s k x.loses ((s.bank k).switched x)
    rw [State.finishPower_idle hx hl hheld hh, State.withBank_bank]
    exact ⟨rfl, rfl, hother, hout, fun a h₁ h₂ => by simpa [BankTransition.loses] using hin a h₁ h₂, hfr⟩

end Sys2Proof.Machine
end

section
/-! Proofs of the family of the Pools, the Reservoir and the external memory: the sweeper, the march engine
and the retraining (O13). -/

namespace Sys2Proof.Machine

open Sys2Proof.Laws

/-! ### The sweeper -/

/-- The sweeper moves on from a region whose words `bad` it found uncorrectable (R106, R109). -/
def State.sweepOn (s : State) (k : Nat) (bad : List Nat) : State :=
  bad.foldl (fun t w => t.poisonWord k w) (s.modBank k fun b => { b with sweepPos := (b.sweepPos + 1) % 512 })

/-- A region of a bank that the sweeper does not skip: its uncorrectable words, then its repair (R106). -/
theorem execSweepRegionTest_sweepable {s : State} {k : Nat} (hlive : s.live = true) (hs : s.sweepable k = true)
    (fails : Bool) {l bad : List Nat} (hbad : (s.bank k).foundBad (s.bank k).sweepPos l = bad) :
    exec (.sweepRegionTest k fails l) s = .next
      (if fails then (s.sweepOn k bad).repairRegion k (s.bank k).sweepPos else s.sweepOn k bad) := by
  rw [exec, execSweepRegionTest, act_live hlive, if_pos hs, ← hbad]
  rfl

@[simp] theorem State.sweepOn_nil_bank (s : State) (k : Nat) :
    (s.sweepOn k []).bank k = { s.bank k with sweepPos := ((s.bank k).sweepPos + 1) % 512 } :=
  State.modBank_same _ _ _

theorem State.sweepOn_nil_spareList (s : State) (k : Nat) :
    ((s.sweepOn k []).bank k).spareList = (s.bank k).spareList := by
  rw [State.sweepOn_nil_bank]
  rfl

/-- A failing region takes the first free spare, is reported, and the repair map has changed (R108, R111). -/
theorem State.repairRegion_spare {s : State} {k row : Nat} {sp : List (Nat × Nat)}
    (h : takeSpare (s.bank k).spareList row = some sp) :
    s.repairRegion k row = ((s.modBank k fun b => { b with spares := sp }).repairChange).report 2 k row := by
  simp only [State.repairRegion, h]

/-- With no spare free a failing region degrades its bank, which the sweeper skips from then on (R108). -/
theorem State.repairRegion_none {s : State} {k row : Nat} (h : takeSpare (s.bank k).spareList row = none) :
    s.repairRegion k row =
      ((s.modBank k fun b => { b with degraded := true, noSweep := true }).repairChange).report 3 k row := by
  simp only [State.repairRegion, h]

@[simp] theorem State.report_bank (s : State) (kind a b k : Nat) : (s.report kind a b).bank k = s.bank k := rfl

@[simp] theorem State.repairChange_bank (s : State) (k : Nat) : s.repairChange.bank k = s.bank k := rfl

/-- A single uncorrectable word stays poisoned and is reported with the owner's tag (R109). -/
theorem State.sweepOn_singleton (s : State) (k w : Nat) : s.sweepOn k [w] =
    ((s.sweepOn k []).modBank k fun b => { b with poison := insertNat w b.poison }).report 4 (16384 * k + w)
      (s.bank k).curOwner := by
  have howner : ((s.sweepOn k []).bank k).curOwner = (s.bank k).curOwner := by simp
  exact howner ▸ rfl

/-! ### The march engine -/

/-- A start of an acceptable set while no run is in progress (R110). -/
theorem execMarchStart_accepted {s : State} {b ctl : Nat} (hlive : s.live = true) (hgo : bit ctl 0 = true)
    (hidle : (s.block b).marchBusy = false) (ha : s.marchAccepts b (s.block b).marchMask (bit ctl 1) = true) :
    exec (.marchStart b ctl) s = .next ((s.modBlock b fun x => { x with marchPreserve := bit ctl 1 }).modBlock b fun x =>
      { x with marchBusy := true, marchSet := x.marchMask, marchSetPreserve := bit ctl 1 }) := by
  rw [exec, execMarchStart, act_live hlive]
  have ha' : (s.modBlock b fun x => { x with marchPreserve := bit ctl 1 }).marchAccepts b (s.block b).marchMask
      (bit ctl 1) = true := ha
  simp [hgo, hidle, ha']

/-- A start while a run is in progress is rejected (R110). -/
theorem execMarchStart_busy {s : State} {b ctl : Nat} (hlive : s.live = true) (hgo : bit ctl 0 = true)
    (hbusy : (s.block b).marchBusy = true) :
    exec (.marchStart b ctl) s = .next ((s.modBlock b fun x => { x with marchPreserve := bit ctl 1 }).modBlock b fun x =>
      { x with marchRejected := true }) := by
  rw [exec, execMarchStart, act_live hlive]
  simp [hgo, hbusy]

/-- A preserve-mode run that found no failing row repairs nothing and zeroes nothing (R110). -/
theorem State.marchFinish_preserve_nil (s : State) (block : Nat) (set : List Nat) (spares : List (Nat × Nat))
    (sweep : List Nat) : s.marchFinish block set true [] spares sweep = s := rfl

/-- Settles O13: the sweeper and the march engine by their equations, the retraining by its own. -/
theorem bankMaintenance : Obligations.BankMaintenance := by
  refine ⟨fun s k hlive hs => ⟨fun hbad => ⟨?_, fun sp hsp => ?_, fun hsp => ?_⟩, fun w l hbad => ?_⟩,
    fun s b ctl hlive hgo => ⟨fun hidle ha => ?_, fun hbusy => ?_⟩, fun s b spares sweep hlive hbusy hp => ?_,
    fun s c hlive ht hon => ?_⟩
  · exact execSweepRegionTest_sweepable hlive hs false hbad
  · refine ⟨_, execSweepRegionTest_sweepable hlive hs true hbad, ?_⟩
    rw [← State.sweepOn_nil_spareList] at hsp
    rw [if_pos rfl, State.repairRegion_spare hsp]
    exact ⟨by simp, rfl, rfl, rfl, rfl⟩
  · refine ⟨_, execSweepRegionTest_sweepable hlive hs true hbad, ?_⟩
    rw [← State.sweepOn_nil_spareList] at hsp
    rw [if_pos rfl, State.repairRegion_none hsp]
    exact ⟨by simp, by simp, rfl, rfl⟩
  · refine ⟨_, execSweepRegionTest_sweepable hlive hs false hbad, ?_⟩
    rw [if_neg Bool.false_ne_true, State.sweepOn_singleton]
    exact ⟨by simp, rfl, rfl⟩
  · exact ⟨_, execMarchStart_accepted hlive hgo hidle ha, rfl, by simp⟩
  · exact ⟨_, execMarchStart_busy hlive hgo hbusy, rfl, by simp⟩
  · rw [exec, execMarchDone, act_live hlive]
    simp only [hbusy, hp, if_true, State.marchFinish_preserve_nil]
  · refine ⟨{ s with dram := tset s.dram c { s.dramCtrl c with retrains := (s.dramCtrl c).retrains + 1 } }, ?_, rfl,
      tget_tset_same _ _ _ _, fun d hd => tget_tset_other _ _ _ _ hd _⟩
    rw [exec, execDramRetrain, act_live hlive]
    simp [ht, hon]

end Sys2Proof.Machine
end

section
/-! Proofs of the family of the Signal box: a ring's registers, its tail word and its admission (O19). -/

namespace Sys2Proof.Machine

/-! ### A tail word that is written (R122 to R124) -/

/-- The ring with a captured tail: an invalid one disarms it where it is armed (R123, R124). -/
def Ring.captured (r : Ring) (x : Nat) : Ring :=
  if r.armed = true ∧ 2 ^ r.log2Size < subMod x r.head then
    { r with tail := x, error := 1, armed := false, gated := true, waitSlots := false, waitQuota := false }
  else { r with tail := x }

/-- The rings with one listed ring changed. -/
theorem State.modRing_single {s : State} {n : Nat} {r : Ring} (h : s.sbx.rings = [(n, r)]) (f : Ring → Ring) :
    s.modRing n f = { s with sbx := { s.sbx with rings := [(n, f r)] } } := by
  simp [State.modRing, h, tmod, tset, tget]

/-- A tail captured under the ring's writer tag (R123). -/
theorem State.capture_single {s : State} {n : Nat} {r : Ring} (h : s.sbx.rings = [(n, r)]) (x : Nat) :
    (let t := s.modRing n fun r => { r with tail := x }
      if (t.ring n).armed && !((t.ring n).tailOk x) then t.ringError n 1 else t) =
      { s with sbx := { s.sbx with rings := [(n, r.captured x)] } } := by
  have hr : s.ring n = r := by simp [State.ring, h, tget]
  have hbad : (r.armed && !(Ring.tailOk { r with tail := x } x)) = true ↔
      r.armed = true ∧ 2 ^ r.log2Size < subMod x r.head := by
    rw [Bool.and_eq_true, Bool.not_eq_true', Ring.tailOk, decide_eq_false_iff_not, Nat.not_le]
    rfl
  simp only [State.modRing_same, hr, hbad, Ring.captured]
  split
  · rw [State.modRing_single h, State.ringError,
      State.modRing_single (s := { s with sbx := { s.sbx with rings := [(n, { r with tail := x })] } }) rfl]
  · exact State.modRing_single h _

section TailWatch

variable {s : State} {n tag addr len : Nat} {r : Ring} (hrings : s.sbx.rings = [(n, r)]) (hsize : r.log2Size ≠ 0)
  (hlo : addr ≤ r.tailAddr) (hhi : r.tailAddr + 4 ≤ addr + len)

include hrings hsize hlo hhi

/-- The one listed ring is the one whose tail word the write covers. -/
theorem State.watched_single : (s.sbx.rings.filter fun e =>
    e.2.log2Size != 0 && addr ≤ e.2.tailAddr && e.2.tailAddr + 4 ≤ addr + len) = [(n, r)] := by
  simp [hrings, hsize, hlo, hhi]

theorem State.tailWatch_writer (htag : tag = r.writerTag) (data : Bytes) : s.tailWatch tag addr len data =
    { s with sbx := { s.sbx with rings := [(n, r.captured (le data (r.tailAddr - addr) 4))] } } := by
  rw [State.tailWatch, State.watched_single hrings hsize hlo hhi, List.foldl_cons, List.foldl_nil, if_pos htag]
  exact State.capture_single hrings _

theorem State.tailWatch_stranger (htag : tag ≠ r.writerTag) (data : Bytes) : s.tailWatch tag addr len data =
    { s with sbx := { s.sbx with tailIgnored := sat16 s.sbx.tailIgnored } } := by
  rw [State.tailWatch, State.watched_single hrings hsize hlo hhi, List.foldl_cons, List.foldl_nil, if_neg htag]

end TailWatch

/-! ### What else a write of DRAM does (R119, R178, R346) -/

/-- The filter on Points' index words stores nothing and changes no ring. -/
theorem State.indexWatch_mem_sbx (s : State) (tag addr len : Nat) (data : Bytes) :
    (s.indexWatch tag addr len data).mem = s.mem ∧ (s.indexWatch tag addr len data).sbx = s.sbx := by
  unfold State.indexWatch
  refine List.foldlRecOn _ _ (motive := fun t : State => t.mem = s.mem ∧ t.sbx = s.sbx) ⟨rfl, rfl⟩
    fun t ht e _ => ?_
  dsimp only
  split <;> exact ht

theorem State.wakeDram_eq (s : State) (c : Nat) :
    s.wakeDram c = { s with dram := (s.wakeDram c).dram, clocks := (s.wakeDram c).clocks } := by
  unfold State.wakeDram
  split <;> rfl

/-- Dirty logging reads memory, the owner entries and the Consists. -/
theorem State.logPage_mem_congr {s t : State} (hm : t.mem = s.mem) (ho : t.slc = s.slc) (hc : t.ttb = s.ttb)
    (page : Nat) : (t.logPage page).mem = (s.logPage page).mem := by
  have howner : t.owner page = s.owner page := congrArg (fun x : Slc => tget ({} : OwnerEntry) x.owners page) ho
  have hconsist : ∀ c, t.consist c = s.consist c := fun c =>
    congrArg (fun x : Ttb => tget ({} : Consist) x.consists c) hc
  unfold State.logPage
  dsimp only
  rw [howner, hconsist]
  split
  · simp only [State.wr, hm]
  · exact hm

/-- Dirty logging changes memory alone. -/
theorem State.logPage_eq (s : State) (page : Nat) : s.logPage page = { s with mem := (s.logPage page).mem } := by
  unfold State.logPage
  dsimp only
  split <;> rfl

theorem State.logPage_slc_ttb_sbx (s : State) (page : Nat) :
    (s.logPage page).slc = s.slc ∧ (s.logPage page).ttb = s.ttb ∧ (s.logPage page).sbx = s.sbx := by
  rw [State.logPage_eq]
  exact ⟨rfl, rfl, rfl⟩

theorem State.logWrite_mem_congr {s t : State} (hm : t.mem = s.mem) (ho : t.slc = s.slc) (hc : t.ttb = s.ttb)
    (a n : Nat) : (t.logWrite a n).mem = (s.logWrite a n).mem := by
  obtain ⟨hso, hsc, -⟩ := s.logPage_slc_ttb_sbx (a / 4096)
  obtain ⟨hto, htc, -⟩ := t.logPage_slc_ttb_sbx (a / 4096)
  have hfirst := State.logPage_mem_congr hm ho hc (a / 4096)
  unfold State.logWrite
  dsimp only
  split
  · exact hfirst
  · exact State.logPage_mem_congr hfirst (by rw [hto, hso, ho]) (by rw [htc, hsc, hc]) _

theorem State.logWrite_sbx (s : State) (a n : Nat) : (s.logWrite a n).sbx = s.sbx := by
  obtain ⟨-, -, hs⟩ := s.logPage_slc_ttb_sbx (a / 4096)
  unfold State.logWrite
  dsimp only
  split
  · exact hs
  · obtain ⟨-, -, ht⟩ := (s.logPage (a / 4096)).logPage_slc_ttb_sbx ((a + n - 1) / 4096)
    exact ht.trans hs

/-- A block's write of DRAM with its dirty bits, before the filters see it. -/
def State.dramStored (s : State) (acc : Access) : State :=
  ((s.wr acc.addr (acc.data.take acc.len)).setBadLines
    (s.repair.badLines.filter fun l => !(lineIn acc.addr acc.len l))).logWrite acc.addr acc.len

theorem State.wakeDram_dramStored (s : State) (c : Nat) (acc : Access) :
    ((s.wakeDram c).dramStored acc).sbx = s.sbx ∧ ((s.wakeDram c).dramStored acc).mem =
      ((s.wr acc.addr (acc.data.take acc.len)).logWrite acc.addr acc.len).mem := by
  rw [State.wakeDram_eq, State.dramStored]
  refine ⟨State.logWrite_sbx _ _ _, State.logWrite_mem_congr ?_ ?_ ?_ _ _⟩ <;> rfl

/-- What the filters leave of a block's write (R123, R346). -/
theorem State.dramWrite_mem_sbx {s : State} {acc : Access} (ho : acc.origin = .other) (hc : acc.fromCore = false) :
    (s.dramWrite acc).mem = ((s.dramStored acc).tailWatch acc.tag acc.addr acc.len acc.data).mem ∧
    (s.dramWrite acc).sbx = ((s.dramStored acc).tailWatch acc.tag acc.addr acc.len acc.data).sbx := by
  have hw : s.dramWrite acc = (((s.dramStored acc).tailWatch acc.tag acc.addr acc.len acc.data).indexWatch acc.tag
      acc.addr acc.len acc.data).answerData .other [] := by
    simp only [State.dramWrite, ho, hc, State.dramStored, Bool.false_eq_true, if_false]
  rw [hw, State.answerData_other]
  exact State.indexWatch_mem_sbx _ _ _ _ _

/-! ### TAIL_WRITE -/

section TailWrite

variable {s : State} {tag addr len value c : Nat} {ok : Bool} {acc : Access}
  (hlive : s.live = true) (ht : s.target addr = .dram c)
  (hacc : (s.blockAccess tag addr len true (leBytes len value)).map (fun a => { a with entryOk := ok }) = some acc)

include ht hacc

theorem State.tailAccess_eq : acc =
    { sluice := c, tag := tag, addr := addr, len := len, write := true, data := leBytes len value, entryOk := ok } := by
  simp only [State.blockAccess, ht, targetSluice, Option.map_some, Option.some.injEq] at hacc
  exact hacc.symm

include hlive

theorem execTailWrite_tag : exec (.tailWrite (.tag tag) addr len value ok) s = .next (s.access acc) := by
  rw [State.tailAccess_eq ht hacc, exec, execTailWrite, act_live hlive]
  simp only [State.requesterWrite, State.requesterTag, State.blockAccess, ht, targetSluice, Option.map_some]

theorem execTailWrite_denied {k : Nat} (hv : s.verdict acc = .deny k) :
    exec (.tailWrite (.tag tag) addr len value ok) s = .next ((s.noteDenial acc k).answerError .other .denied) := by
  rw [execTailWrite_tag hlive ht hacc, State.access, hv, State.tailAccess_eq ht hacc]

/-- A granted write meets the filter with its bytes and dirty bits stored (R123). -/
theorem execTailWrite_granted (hv : s.verdict acc = .grant) (hon : (s.dramCtrl c).state ≠ .off) :
    ∃ v t : State, v.sbx = s.sbx ∧ v.mem = ((s.wr addr ((leBytes len value).take len)).logWrite addr len).mem ∧
      exec (.tailWrite (.tag tag) addr len value ok) s = .next t ∧
      t.mem = (v.tailWatch tag addr len (leBytes len value)).mem ∧
      t.sbx = (v.tailWatch tag addr len (leBytes len value)).sbx := by
  have ha : s.access acc = (s.wakeDram c).dramWrite acc := by
    rw [State.access, hv, State.tailAccess_eq ht hacc]
    simp only [State.carry, ht, if_neg hon, if_true]
  obtain ⟨hsbx, hmem⟩ := s.wakeDram_dramStored c acc
  obtain ⟨htm, hts⟩ := State.dramWrite_mem_sbx (s := s.wakeDram c) (acc := acc)
    (by rw [State.tailAccess_eq ht hacc]) (by rw [State.tailAccess_eq ht hacc])
  rw [execTailWrite_tag hlive ht hacc, ha]
  have heq := State.tailAccess_eq ht hacc
  subst heq
  exact ⟨_, _, hsbx, hmem, rfl, htm, hts⟩

end TailWrite

/-! ### ARM, DISARM, CANCEL and the head-write error (R121, R144, R150) -/

section Ring

variable {s : State} {n : Nat} (hlive : s.live = true)

include hlive

theorem execArm_refused (h : s.armRefused n = true ∨ (s.ring n).tailOk (s.ring n).tail = false) :
    exec (.arm n false) s = .next (s.ringError n (if s.armRefused n then 3 else 1)) := by
  rw [exec, execArm, act_live hlive, State.armRing]
  cases hr : s.armRefused n with
  | true => rfl
  | false =>
    have htail : (s.ring n).tailOk (s.ring n).tail = false := h.resolve_left (by simp [hr])
    simp [htail]

theorem execArm_accepted (hr : s.armRefused n = false) (htail : (s.ring n).tailOk (s.ring n).tail = true) {w : Bool}
    (hw : w = true → 16 ≤ n ∧ (s.ring n).gated = false) : exec (.arm n w) s =
      .next (s.modRing n fun r => { r with error := 0, armed := true, gated := if w then r.gated else false }) := by
  have hopen : ¬ (w && (n < 16 || (s.ring n).gated)) = true := by
    cases w with
    | false => simp
    | true =>
      obtain ⟨hn, hg⟩ := hw rfl
      simp [hg, hn]
  rw [exec, execArm, act_live hlive, State.armRing, if_neg hopen]
  simp [hr, htail]

theorem execArm_window_shut (h : n < 16 ∨ (s.ring n).gated = true) : exec (.arm n true) s = .next s := by
  rw [exec, execArm, act_live hlive, State.armRing, if_pos (by simpa using h)]

theorem execDisarm_live : exec (.disarm n) s = .next (s.disarmRing n) := by
  rw [exec, execDisarm, act_live hlive]

theorem execHeadWriteError_armed (h : (s.ring n).armed = true) :
    exec (.headWriteError n) s = .next (s.ringError n 2) := by
  rw [exec, execHeadWriteError, act_live hlive, if_pos h]

theorem execCancel_live : exec (.cancel n) s = .next ((s.cancelRing n).cancelRoutes
    fun x => (s.graph (s.node x.node).graph).ring == n) := by
  rw [exec, execCancel, act_live hlive]

end Ring

/-! ### GRAPH_ADMIT (R125, R126) -/

section Fetch

variable {s u : State} {n : Nat} (hlive : s.live = true)

include hlive

/-- A ring whose turn it is not is left alone (R125). -/
theorem execGraphAdmit_notNext (hnext : s.ringNext n = false) : exec (.graphAdmit n) s = .next s := by
  rw [exec, execGraphAdmit, act_live hlive, State.graphAdmit, hnext]
  rfl

variable (hnext : s.ringNext n = true)

include hnext

theorem execGraphAdmit_waits (hz : s.fetchBytes (s.ring n).ownerTag
    ((s.ring n).base + 64 * ((s.ring n).head % (s.ring n).size)) 64 = (u, .waits)) :
    exec (.graphAdmit n) s = .next u := by
  rw [exec, execGraphAdmit, act_live hlive, State.graphAdmit, hnext]
  simp only [hz, Bool.not_true, Bool.false_eq_true, if_false]

/-- A header that cannot be read disarms the ring (R150). -/
theorem execGraphAdmit_failed (hz : s.fetchBytes (s.ring n).ownerTag
    ((s.ring n).base + 64 * ((s.ring n).head % (s.ring n).size)) 64 = (u, .failed)) :
    exec (.graphAdmit n) s = .next ((u.ringServed n).ringError n 4) := by
  rw [exec, execGraphAdmit, act_live hlive, State.graphAdmit, hnext]
  simp only [hz, Bool.not_true, Bool.false_eq_true, if_false]

theorem execGraphAdmit_got {h : Bytes} (hz : s.fetchBytes (s.ring n).ownerTag
    ((s.ring n).base + 64 * ((s.ring n).head % (s.ring n).size)) 64 = (u, .got h)) :
    exec (.graphAdmit n) s = .next (u.admitEntry n h) := by
  rw [exec, execGraphAdmit, act_live hlive, State.graphAdmit, hnext]
  simp only [hz, Bool.not_true, Bool.false_eq_true, if_false]

end Fetch

section Entry

variable {u v : State} {n : Nat} {h : Bytes}

theorem State.admitEntry_skipped (h0 : le h 0 2 = 0) : u.admitEntry n h = (u.ringServed n).advanceHead n :=
  if_pos h0

theorem State.admitEntry_waits (h0 : le h 0 2 ≠ 0) (hf : u.fetchGraph (u.ring n).ownerTag h = (v, .waits)) :
    u.admitEntry n h = v := by
  simp only [State.admitEntry, if_neg h0, hf]

theorem State.admitEntry_failed (h0 : le h 0 2 ≠ 0) (hf : u.fetchGraph (u.ring n).ownerTag h = (v, .failed)) :
    u.admitEntry n h = (v.ringServed n).rejectGraph n h 0x0A := by
  simp only [State.admitEntry, if_neg h0, hf]

/-- A graph that was fetched: the reject code, the quotas and the room decide, in this order (R126). -/
theorem State.admitEntry_fetched {x : State} {f : Fetched} (h0 : le h 0 2 ≠ 0)
    (hf : u.fetchGraph (u.ring n).ownerTag h = (v, .got f)) (hx : x = v.ringServed n) : u.admitEntry n h =
      if x.rejectCode n f ≠ 0 then x.rejectGraph n h (x.rejectCode n f)
      else if x.quotaFor n f.recs.length (le h 0x30 4) = false then
        x.modRing n fun r => { r with waitQuota := true, waitSlots := false }
      else if x.roomFor n f.recs.length (le h 0x30 4) = false then
        x.modRing n fun r => { r with waitSlots := true, waitQuota := false }
      else x.admitGraph n f := by
  simp only [State.admitEntry, if_neg h0, hf, hx, Bool.not_eq_true']

end Entry

/-- Settles O19: the tail word by the filter's equation, the registers by theirs, and admission by what each fetch and
check comes to. -/
theorem signalBoxRings : Obligations.SignalBoxRings := by
  refine ⟨fun s n tag addr len value c ok r acc hlive hrings hsize hlo hhi ht hacc =>
      ⟨fun k hv => execTailWrite_denied hlive ht hacc hv, fun hv hon => ?_⟩,
    fun s n hlive hr htail => ⟨?_, fun hn hg => ?_, execArm_window_shut hlive⟩,
    fun s n hlive h => execArm_refused hlive h,
    fun s n hlive => ⟨execDisarm_live hlive, execHeadWriteError_armed hlive, execCancel_live hlive⟩,
    fun s n hlive hnext => execGraphAdmit_notNext hlive hnext,
    fun s u v w x n h f z hlive hnext hz => ⟨fun hw => ?_, fun hw => ?_, fun hg => ?_⟩⟩
  · obtain ⟨v, t, hsbx, hmem, he, htm, hts⟩ := execTailWrite_granted hlive ht hacc hv hon
    have hv : v.sbx.rings = [(n, r)] := by rw [hsbx, hrings]
    refine ⟨fun htag x hx => ⟨t, he, ?_, ?_⟩, fun htag => ⟨t, he, ?_, ?_⟩⟩
    · rw [htm, State.tailWatch_writer hv hsize hlo hhi htag, hmem]
    · rw [hts, State.tailWatch_writer hv hsize hlo hhi htag, hsbx, hx]
      rfl
    · rw [htm, State.tailWatch_stranger hv hsize hlo hhi htag, hmem]
    · rw [hts, State.tailWatch_stranger hv hsize hlo hhi htag, hsbx]
      rfl
  · exact execArm_accepted hlive hr htail (by simp)
  · exact execArm_accepted hlive hr htail fun _ => ⟨hn, hg⟩
  · exact execGraphAdmit_waits hlive hnext (hw ▸ hz)
  · exact execGraphAdmit_failed hlive hnext (hw ▸ hz)
  · rw [execGraphAdmit_got hlive hnext (hg ▸ hz)]
    refine ⟨fun h0 => ?_, fun h0 hf => ?_, fun h0 hf => ?_, fun h0 hf hx =>
      ⟨fun hc => ?_, fun hc hq => ?_, fun hc hq hroom => ?_, fun hc hq hroom => ?_⟩⟩
    · rw [State.admitEntry_skipped h0]
    · rw [State.admitEntry_waits h0 hf]
    · rw [State.admitEntry_failed h0 hf]
    · rw [State.admitEntry_fetched h0 hf hx, if_pos hc]
    · rw [State.admitEntry_fetched h0 hf hx, if_neg (not_not_intro hc), if_pos hq]
    · rw [State.admitEntry_fetched h0 hf hx, if_neg (not_not_intro hc), if_neg (by simp [hq]), if_pos hroom]
    · rw [State.admitEntry_fetched h0 hf hx, if_neg (not_not_intro hc), if_neg (by simp [hq]),
        if_neg (by simp [hroom])]

end Sys2Proof.Machine
end

section
/-! Proofs of the family of the Signal box: completion, dispatch, deadlines and tokens (O20). -/

namespace Sys2Proof.Machine

/-! ### NODE_COMPLETE (R137, R142, R143, R170) -/

/-- A completion that is discarded, or late for its Consist, is counted (R142). -/
def State.discardCompletion (s : State) (c : Nat) : State :=
  let u : State := { s with sbx := { s.sbx with genDiscards := min (s.sbx.genDiscards + 1) 0xFFFF } }
  if (s.ctx c).consist = 0 then u
  else u.modConsist (s.ctx c).consist fun x => { x with lateCompletions := min (x.lateCompletions + 1) 0xFFFF }

section NodeComplete

variable {s : State} {c g : Nat} (hlive : s.live = true)

include hlive

theorem execNodeComplete_discarded (h : (s.ctx c).state = .free ∨ (s.ctx c).generation ≠ g) :
    exec (.nodeComplete c g) s = .next (s.discardCompletion c) := by
  rw [exec, execNodeComplete, act_live hlive, State.nodeComplete]
  dsimp only
  rw [if_pos h]
  rfl

variable (hused : (s.ctx c).state ≠ .free) (hgen : (s.ctx c).generation = g)

include hused hgen

/-- Work that is done completes its node with the work's status (R137). -/
theorem execNodeComplete_done {st : Nat} (hf : s.failedRank c = none) (hw : (s.ctx c).workStatus = some st) :
    exec (.nodeComplete c g) s = .next (s.finishContext c st 0) := by
  rw [exec, execNodeComplete, act_live hlive, State.nodeComplete]
  simp [hused, hgen, hf, hw]

theorem execNodeComplete_running (hf : s.failedRank c = none) (hw : (s.ctx c).workStatus = none) :
    exec (.nodeComplete c g) s = .next s := by
  rw [exec, execNodeComplete, act_live hlive, State.nodeComplete]
  simp [hused, hgen, hf, hw]

/-- A failed rank ends a SAFETY context at rest, and fails any other (R143, R170). -/
theorem execNodeComplete_failed {r : Rank} (hf : s.failedRank c = some r) : exec (.nodeComplete c g) s = .next
    (if (s.ctx c).consist = 0 ∧ s.ctxAtRest c = true then
      s.finishContext c (s.basin r.basin).status (s.basin r.basin).failIndex
    else s.failContext c (s.basin r.basin).status (s.basin r.basin).failIndex r.basin) := by
  rw [exec, execNodeComplete, act_live hlive, State.nodeComplete]
  simp [hused, hgen, hf]

end NodeComplete

/-! ### COMPLETION_INTERRUPT (R141) -/

/-- The completion interrupt of a graph, to its ring's address or its Consist's (R141). -/
def State.graphMsi (s : State) (x : Graph) : State :=
  if x.ring < 16 then s.msi s.sbxTag (s.ring x.ring).msiAddr (s.ring x.ring).msiData
  else s.msi s.sbxTag (s.consist x.consist).complMsiAddr (s.consist x.consist).complMsiData

theorem execCompletionInterrupt_due {s : State} {g : Nat} (hlive : s.live = true)
    (hdue : (s.graph g).interruptDue = true) (hrec : (s.graph g).record ≠ .writing) : exec (.completionInterrupt g) s =
      .next { s.graphMsi (s.graph g) with sbx :=
        { (s.graphMsi (s.graph g)).sbx with graphs := tdel (s.graphMsi (s.graph g)).sbx.graphs g } } := by
  rw [exec, execCompletionInterrupt, act_live hlive]
  dsimp only
  rw [if_pos (by simp [hdue, hrec])]
  rfl

/-! ### SAFETY_DISPATCH (R136) -/

/-- A node's lack of a context is counted once (R152). -/
theorem State.ctxDelayed_waiting {s : State} {k : Nat} (h : (s.node k).ctxWait = true) : s.ctxDelayed k = s :=
  if_pos h

theorem State.ctxDelayed_first {s : State} {k : Nat} (h : (s.node k).ctxWait = false) :
    s.ctxDelayed k = { (s.modNode k fun n => { n with ctxWait := true }) with
      ttb := { s.ttb with ctxWaits := min (s.ttb.ctxWaits + 1) 0x7FFF } } :=
  if_neg (by simp [h])

section Dispatch

variable {s : State} {k : Nat} {idle : List Nat}
  (hfirst : s.firstInOrder (s.readyBasin fun n => n.flag 0) = some k)
  (hidle : (s.expressBasins (s.node k).terraces).filter (fun b => !(s.basinTaken k b)) = idle)
  (hunits : (s.node k).units ≤ idle.length)

include hfirst hidle hunits

/-- The first ready node, with Basins enough: it wants only a context. -/
theorem State.safetyDispatch_none (hc : s.freeCtx 0 = none) : s.safetyDispatch = s.ctxDelayed k := by
  simp only [State.safetyDispatch, hfirst, hc, hidle, if_neg (Nat.not_lt.mpr hunits)]

/-- The node is bound to the first of the idle express Basins under its ring's owner tag (R136). -/
theorem State.safetyDispatch_some {c : Nat} {rs : List Rank} (hc : s.freeCtx 0 = some c)
    (hrs : rs = (idle.take (s.node k).units).map fun b => { vbasin := b, basin := b }) : s.safetyDispatch =
      ((s.bindRanks c k (s.ring (s.graph (s.node k).graph).ring).ownerTag (s.graph (s.node k).graph).generation false
        rs).modNode k fun n => { n with state := .running, context := c }).modCtx c fun _ =>
          { state := .running, node := k, consist := 0, generation := (s.graph (s.node k).graph).generation, ranks := rs
            boundAt := s.now, firstBound := s.now, queuedNs := s.now - (s.node k).readyAt } := by
  simp only [State.safetyDispatch, hfirst, hc, hidle, if_neg (Nat.not_lt.mpr hunits), hrs]

end Dispatch

theorem execSafetyDispatch_live {s : State} (hlive : s.live = true) :
    exec .safetyDispatch s = .next s.safetyDispatch := by
  rw [exec, execSafetyDispatch, act_live hlive]

/-! ### NODE_DEADLINE (R133) -/

section Deadline

variable {s : State} {k : Nat} (hlive : s.live = true)

include hlive

theorem execNodeDeadline_none (h : (s.node k).deadline = 0) : exec (.nodeDeadline k) s = .next s := by
  rw [exec, execNodeDeadline, act_live hlive]
  simp only [State.deadlineNs, if_pos h]

/-- A deadline acts once time can come to it. -/
theorem execNodeDeadline_set {t : State} {d : Nat} (h : (s.node k).deadline ≠ 0)
    (hd : d = (s.graph (s.node k).graph).originNs + 64 * (s.node k).deadline) (ht : t = s.reach d) :
    exec (.nodeDeadline k) s =
      .next (if t.now < d then s else (t.modNode k fun n => { n with lateAt := true }).settle) := by
  rw [exec, execNodeDeadline, act_live hlive]
  simp only [State.deadlineNs, if_neg h, ht, hd]

end Deadline

/-- A node marked late whose condition has not held ends with RELEASE_TIMEOUT (R133). -/
theorem State.evaluate_late {s : State} {k : Nat} (hst : (s.node k).state = .release)
    (hlate : (s.node k).lateAt = true) :
    s.evaluate k = s.completeNode k 0x21 0 := by
  simp [State.evaluate, State.pastDeadline, hst, hlate]

/-! ### The token registers (R146, R147), and the evaluation with nothing to do -/

section Tokens

variable {s : State} (hlive : s.live = true) (p v : Nat)

include hlive

theorem execTokenCfgWrite_live : exec (.tokenCfgWrite p v) s = .next ((s.modToken (s.tokenShown p) fun t =>
    { t with ownerConsist := v % 256, srcDevice := v / 2 ^ 8 % 64, srcTag := v / 2 ^ 14 % 4096
             valid := v.testBit 26 }).settle) := by
  have hdev : fld v 8 6 = v / 2 ^ 8 % 64 := congrArg (· % 64) (Nat.shiftRight_eq_div_pow v 8)
  have htag : fld v 14 12 = v / 2 ^ 14 % 4096 := congrArg (· % 4096) (Nat.shiftRight_eq_div_pow v 14)
  rw [← hdev, ← htag, exec, execTokenCfgWrite]
  exact act_live hlive _

theorem execTokenGenWrite_live : exec (.tokenGenWrite p v) s = .next ((s.modToken (s.tokenShown p) fun t =>
    { t with expectGen := v % 2 ^ 16, stale := false }).settle) := by
  rw [exec, execTokenGenWrite, act_live hlive]
  simp only [fld, Nat.shiftRight_zero]

theorem execTokenValueWrite_live : exec (.tokenValueWrite p v) s =
    .next ((s.modToken (s.tokenShown p) fun t => { t with value := v % 2 ^ 32 }).settle) := by
  rw [exec, execTokenValueWrite, act_live hlive]
  simp only [fld, Nat.shiftRight_zero]

end Tokens

/-- Without nodes and responses the evaluation changes nothing. -/
theorem State.settle_idle {s : State} (hn : s.sbx.nodes = []) (hr : s.stm.replies = []) : s.settle = s := by
  have hs : s.sendReplies = s := by
    unfold State.sendReplies
    rw [hr, List.foldl_nil, ← hr]
  rw [State.settle, hn, hs]
  rfl

/-- Settles O20: completion by what the context's ranks have come to, the rest by the equations of each command. -/
theorem signalBoxNodes : Obligations.SignalBoxNodes := by
  refine ⟨fun s c g hlive h => execNodeComplete_discarded hlive h,
    fun s u c g st x hlive hx hused hgen => ?_,
    fun s v c g x r b hlive hx hused hgen hf hb hv => ?_,
    fun s g hlive hdue hrec => ⟨_, execCompletionInterrupt_due hlive hdue hrec, fun h => if_pos h,
      fun h => if_neg (Nat.not_lt.mpr h)⟩,
    fun s k n idle hlive hfirst hn hidle hunits => ?_,
    fun s k hlive => ⟨execNodeDeadline_none hlive, fun t hd ht => ⟨fun hlt => ?_, fun hle => ?_⟩⟩,
    fun s k => State.evaluate_late,
    fun s p v hlive => ⟨execTokenCfgWrite_live hlive p v, execTokenGenWrite_live hlive p v,
      execTokenValueWrite_live hlive p v⟩,
    fun s => State.settle_idle⟩
  · subst hx
    refine ⟨fun hu => ?_, execNodeComplete_done hlive hused hgen, execNodeComplete_running hlive hused hgen⟩
    rw [hu]
    rfl
  · subst hx hb hv
    rw [execNodeComplete_failed hlive hused hgen hf]
    refine ⟨fun h0 hrest => ?_, fun h0 hrest => ?_, fun h0 => ?_⟩
    · rw [if_pos ⟨h0, hrest⟩]
      rfl
    · rw [if_neg (by simp [hrest]), State.failContext, if_pos h0]
    · rw [if_neg (by simp [h0]), State.failContext, if_neg h0]
  · subst hn
    have hfree : (s.expressBasins (s.node k).terraces).filter (fun b => !(s.basinTaken k b)) = idle := by
      simp [hidle]
    rw [execSafetyDispatch_live hlive]
    refine ⟨fun hc hw => ?_, fun hc hw => ?_, fun c hc => ?_⟩
    · rw [State.safetyDispatch_none hfirst hfree hunits hc, State.ctxDelayed_waiting hw]
    · rw [State.safetyDispatch_none hfirst hfree hunits hc, State.ctxDelayed_first hw]
    · rw [State.safetyDispatch_some hfirst hfree hunits hc rfl]
  · rw [execNodeDeadline_set hlive hd rfl ht, if_pos hlt]
  · rw [execNodeDeadline_set hlive hd rfl ht, if_neg (Nat.not_lt.mpr hle)]

end Sys2Proof.Machine
end

section
/-! Proofs of the family of the Turntable and the Consists: binding, selection and preemption (O21). -/

namespace Sys2Proof.Machine

/-! ### The selection (R160, R161) -/

section Selection

variable {s : State} {p : Nat}

theorem execContextBind_none (hlive : s.live = true)
    (h : s.pick p = none ∨ ∃ k, s.pick p = some k ∧ s.placement k = none) :
    exec (.contextBind p) s = .next s := by
  rw [exec, execContextBind, act_live hlive]
  rcases h with h | ⟨k, hk, hpl⟩
  · simp only [h]
  · simp only [hk, hpl]

theorem execContextBind_some {k : Nat} {rs : List Rank} (hlive : s.live = true) (hk : s.pick p = some k)
    (hpl : s.placement k = some rs) : exec (.contextBind p) s = .next (s.bindPicked k rs) := by
  rw [exec, execContextBind, act_live hlive]
  simp only [hk, hpl]

/-- With nothing to pick the selection ends. -/
theorem State.selectN_none (h : s.pick p = none) : ∀ f : Nat, State.selectN f s p = s
  | 0 => rfl
  | f + 1 => by simp only [State.selectN, h]

/-- A picked node that can be placed is bound, and the selection goes on while a node gets bound. -/
theorem State.selectN_placed {k : Nat} {rs : List Rank} (hk : s.pick p = some k) (hpl : s.placement k = some rs) (f : Nat) :
    State.selectN (f + 1) s p =
      if (s.bindPicked k rs).nodeBound k then State.selectN f (s.bindPicked k rs) p else s.bindPicked k rs := by
  simp only [State.selectN, hk, hpl]

/-- One without a place, where no context qualifies that would leave it one, ends the selection. -/
theorem State.selectN_stuck {k : Nat} (hk : s.pick p = some k) (hpl : s.placement k = none)
    (hc : (s.ttb.ctxs.find? fun e => s.qualifies p k e.1 && s.placeableWithout k e.1) = none) (f : Nat) :
    State.selectN (f + 1) s p = s := by
  simp only [State.selectN, hk, hpl, hc]

/-- One without a place preempts the first context that qualifies and leaves it one. -/
theorem State.selectN_preempts {k c : Nat} {x : Ctx} (hk : s.pick p = some k) (hpl : s.placement k = none)
    (hc : (s.ttb.ctxs.find? fun e => s.qualifies p k e.1 && s.placeableWithout k e.1) = some (c, x)) (f : Nat) :
    State.selectN (f + 1) s p = State.selectN f (s.preempt c k) p := by
  simp only [State.selectN, hk, hpl, hc]

theorem execQuantumTick_live (hlive : s.live = true) {n : Nat} (hn : s.sbx.nodes.length + s.ttb.ctxs.length = n) :
    exec (.quantumTick p) s = .next (State.selectN n s p) := by
  rw [exec, execQuantumTick, act_live hlive, State.quantumTick, hn]

end Selection

/-! ### A preemption starts (R163 step 1) -/

/-- Stop requests change Basins alone (R135). -/
theorem State.stopRanks_eq (s : State) (c : Nat) : ∃ b, s.stopRanks c = { s with basins := b } := by
  suffices h : ∀ (f : State → Rank → State), (∀ s r, ∃ b, f s r = { s with basins := b }) →
      ∀ (l : List Rank) (s : State), ∃ b, l.foldl f s = { s with basins := b } from
    h _ (fun s r => by split <;> exact ⟨_, rfl⟩) _ s
  intro f hf l
  induction l with
  | nil => exact fun s => ⟨s.basins, rfl⟩
  | cons r l ih =>
    intro s
    obtain ⟨b, hb⟩ := hf s r
    rw [List.foldl_cons, hb]
    exact ih { s with basins := b }

/-- A preemption stops its context and is recorded beside the others. -/
theorem State.preempt_eq (s : State) (c k : Nat) :
    (∃ b t, s.preempt c k = { s with basins := b, ttb := t }) ∧ ((s.preempt c k).ctx c).state = .stopping ∧
    ((s.preempt c k).ctx c).preemptAt = s.now ∧ (s.preempt c k).ttb.preemptions = tset s.ttb.preemptions c
      { inNode := k, start := s.now
        terraces := ((s.ctx c).ranks.map fun r => 2 ^ (r.basin / 8)).foldl (· ||| ·) 0 } := by
  obtain ⟨b, hb⟩ := s.stopRanks_eq c
  have hctx : (s.preempt c k).ctx c = { (s.stopRanks c).ctx c with state := .stopping, preemptAt := s.now } :=
    State.modCtx_same (s.stopRanks c) c fun x => { x with state := .stopping, preemptAt := s.now }
  refine ⟨?_, by rw [hctx], by rw [hctx], ?_⟩
  · rw [State.preempt, hb]
    exact ⟨_, _, rfl⟩
  · rw [State.preempt, hb]
    rfl

/-! ### Step 2 of a preemption (R163, R166) -/

theorem execPreemptRanksStopped_live {s : State} (hlive : s.live = true) : exec .preemptRanksStopped s =
    .next (s.ttb.preemptions.foldl (fun s e => s.preemptStopped e.1) s) := by
  rw [exec, execPreemptRanksStopped, act_live hlive]

section Stopped

variable {s : State} {c : Nat} {p : Preemption} (hp : tfind s.ttb.preemptions c = some p)
  (hr : p.ranksStopped = false) (hs : (s.ctx c).state = .stopping)

include hp hr hs

/-- A rank that still runs holds the preemption back. -/
theorem State.preemptStopped_running (h : ∃ r ∈ (s.ctx c).ranks, r.done = false ∧ r.stopped = false) :
    s.preemptStopped c = s := by
  obtain ⟨r, hm, hd, hst⟩ := h
  have hdone : (s.ctx c).ranks.all (·.done) = false := List.all_eq_false.mpr ⟨r, hm, by simp [hd]⟩
  have hrest : ((s.ctx c).ranks.all fun r => r.done || r.stopped) = false :=
    List.all_eq_false.mpr ⟨r, hm, by simp [hd, hst]⟩
  unfold State.preemptStopped
  simp only [hp]
  rw [if_neg (by simp [hr]), if_neg (by simp [hs]), if_neg (by simp [hdone]), if_neg (by simp [hrest])]

/-- With every rank complete the stop is void (R166). -/
theorem State.preemptStopped_void (h : ∀ r ∈ (s.ctx c).ranks, r.done = true) : s.preemptStopped c =
    (s.modCtx c fun x => { x with state := .running }).endPreemption c := by
  unfold State.preemptStopped
  simp only [hp]
  rw [if_neg (by simp [hr]), if_neg (by simp [hs]), if_pos (List.all_eq_true.mpr h)]

/-- With every rank at rest, and one of them stopped, what the parking comes to decides. -/
theorem State.preemptStopped_parks {u : State} {e : MoveEnd} (h : ∃ r ∈ (s.ctx c).ranks, r.done = false)
    (hrest : ∀ r ∈ (s.ctx c).ranks, r.done = true ∨ r.stopped = true) (hu : s.parkCtx c = (u, e)) :
    s.preemptStopped c =
      if e = .done then u.holdBasins c p
      else if e = .waits then s
      else (u.endPreemption c).moverFault (s.ctx c).consist (16 * ((s.ctx c).ranks.headD {}).basin) e := by
  obtain ⟨r, hm, hd⟩ := h
  have hdone : (s.ctx c).ranks.all (·.done) = false := List.all_eq_false.mpr ⟨r, hm, by simp [hd]⟩
  have hall : ((s.ctx c).ranks.all fun r => r.done || r.stopped) = true :=
    List.all_eq_true.mpr fun r hm => by simpa using hrest r hm
  unfold State.preemptStopped
  simp only [hp, hu]
  rw [if_neg (by simp [hr]), if_neg (by simp [hs]), if_neg (by simp [hdone]), if_pos hall]
  cases e <;> rfl

end Stopped

/-! ### The end of a preemption (R163 steps 4 to 6, R165) -/

section Moved

variable {s u : State} {c : Nat} {p : Preemption}

/-- Past step 2 and without an error the outgoing context is charged and its preemption ends; the incoming node is bound
where it is still wanted. -/
theorem execPreemptMovesDone_clean (hlive : s.live = true) (hp : tfind s.ttb.preemptions c = some p)
    (hr : p.ranksStopped = true) (hu : u = (s.chargeRest c).endPreemption c) :
    exec (.preemptMovesDone c {}) s = .next (if u.stillWanted p.inNode then u.bindIncoming p else u) := by
  rw [exec, execPreemptMovesDone, act_live hlive, hu]
  unfold State.preemptMoved
  simp only [hp, hr, Bool.not_true, Bool.false_eq_true, if_false, List.foldl_nil, Bool.false_and]
  cases ((s.chargeRest c).endPreemption c).stillWanted p.inNode <;> rfl

theorem State.bindIncoming_unplaced (h : u.placement p.inNode = none) : u.bindIncoming p = u := by
  simp only [State.bindIncoming, h]

/-- The latency is recorded where the incoming node gets bound, and only there (R165). -/
theorem State.bindIncoming_placed {t : State} {rs : List Rank} (h : u.placement p.inNode = some rs)
    (ht : t = u.bindPicked p.inNode rs) : u.bindIncoming p =
      if t.nodeBound p.inNode then
        (((t.freeInstant p.stoppedNs).2.modCtx (t.node p.inNode).context fun x =>
          { x with boundAt := (t.freeInstant p.stoppedNs).1 }).noteLatency (u.now - p.start))
      else t := by
  rw [ht]
  simp only [State.bindIncoming, h]

/-- A free instant is one draw, and nothing else changes. -/
theorem State.freeInstant_state (s : State) (a : Nat) :
    (s.freeInstant a).2 = { s with freeCtr := s.freeCtr + 1 } := rfl

/-- The latency stands in the maximum and, over 100 µs, in the count. -/
theorem State.noteLatency_ttb (s : State) (ns : Nat) : s.noteLatency ns = { s with ttb := { s.ttb with
    maxNs := min (max s.ttb.maxNs ns) 0xFFFFFFFF
    overBound := if ns > 100000 then min (s.ttb.overBound + 1) 0xFFFF else s.ttb.overBound } } := rfl

end Moved

/-- Settles O21: the selection by what it picks, each preemption step by what its ranks and its parking have come to. -/
theorem turntableBinding : Obligations.TurntableBinding := by
  refine ⟨fun s p hlive => ⟨execContextBind_none hlive, fun k rs => execContextBind_some hlive,
      fun h => ?_, fun f hf => ⟨fun k rs t hk hpl ht => ?_, fun k hk hpl hc => ?_, fun k c x hk hpl hc => ?_⟩⟩,
    fun s t c k ht => ?_, fun s => execPreemptRanksStopped_live,
    fun s c p hp hr hs => ⟨State.preemptStopped_running hp hr hs, State.preemptStopped_void hp hr hs,
      fun h hrest u e hu => ?_⟩,
    fun s u c p hlive hp hr hu => ⟨fun h => ?_, fun rs t hw hpl ht => ⟨fun hb => ?_, fun hb => ?_⟩⟩⟩
  · rw [execQuantumTick_live hlive rfl, State.selectN_none h]
  · rw [execQuantumTick_live hlive hf, State.selectN_placed hk hpl, ht]
  · rw [execQuantumTick_live hlive hf, State.selectN_stuck hk hpl hc]
  · rw [execQuantumTick_live hlive hf, State.selectN_preempts hk hpl hc]
  · obtain ⟨⟨b, x, hbx⟩, hst, hat, hpre⟩ := s.preempt_eq c k
    exact ⟨by rw [ht, hbx], ht ▸ hst, ht ▸ hat, ht ▸ hpre⟩
  · rw [State.preemptStopped_parks hp hr hs h hrest hu]
    cases e <;> rfl
  · rw [execPreemptMovesDone_clean hlive hp hr hu]
    rcases h with h | h
    · rw [if_neg (by simp [h])]
    · rw [State.bindIncoming_unplaced h, ite_self]
  · rw [execPreemptMovesDone_clean hlive hp hr hu, if_pos hw, State.bindIncoming_placed hpl ht, if_neg (by simp [hb])]
  · rw [execPreemptMovesDone_clean hlive hp hr hu, if_pos hw, State.bindIncoming_placed hpl ht, if_pos hb,
      State.freeInstant_state, State.noteLatency_ttb]
    exact ⟨_, rfl, rfl, rfl, rfl⟩

end Sys2Proof.Machine
end

section
/-! Proofs of the family of the Turntable and the Consists: the teardown, the lease, the power of a Consist's banks and the
Turntable's clears (O22). -/

namespace Sys2Proof.Machine

open Sys2Proof.Laws

/-! ### A cause reaches the Turntable (R169, R171, R172) -/

section Cause

variable {s : State} {c k b n : Nat}

theorem execTeardown_live (hlive : s.live = true) :
    exec (.teardown c k b n) s = .next (s.teardown c k b n) := by
  rw [exec, execTeardown, act_live hlive]

theorem State.teardown_ignored (h : teardownCause k = false ∨ (s.consist c).state = .free) :
    s.teardown c k b n = s := by
  unfold State.teardown
  rcases h with h | h
  · rw [if_pos (by simp [h])]
  · simp only [h, ite_self]

/-- A cause that reaches a Consist in TEARDOWN merges into it (R172). -/
theorem State.teardown_merges (hk : teardownCause k = true) (h : (s.consist c).state = .teardown) :
    s.teardown c k b n =
      s.modConsist c fun x => { x with afterTeardown := mergeAfter x.afterTeardown (afterCause k) } := by
  rw [State.teardown, if_neg (by simp [hk])]
  simp only [h]

theorem State.teardown_starts (hk : teardownCause k = true) (h : (s.consist c).state = .active ∨
    (s.consist c).state = .quiescing ∨ (s.consist c).state = .quiesced) :
    s.teardown c k b n = s.teardownStart c k b n := by
  rw [State.teardown, if_neg (by simp [hk])]
  rcases h with h | h | h <;> simp only [h]

theorem State.teardown_expired (hk : teardownCause k = true) (h : (s.consist c).state = .expired) :
    s.teardown c k b n = if k = 0x41 ∨ k = 0x42 then s.teardownStart c k b n else s := by
  rw [State.teardown, if_neg (by simp [hk])]
  simp only [h]

end Cause

/-! ### Steps 1 and 2 of a teardown (R171) -/

/-- A change of a Consist is what it makes of the Consist that stands there. -/
theorem State.modConsist_congr {s : State} {c : Nat} {f g : Consist → Consist} (h : f (s.consist c) = g (s.consist c)) :
    s.modConsist c f = s.modConsist c g :=
  congrArg (fun x => { s with ttb := { s.ttb with consists := tset s.ttb.consists c x } }) h

/-- Two changes of a Consist are one. -/
theorem State.modConsist_modConsist (s : State) (c : Nat) (f g : Consist → Consist) :
    (s.modConsist c f).modConsist c g = s.modConsist c fun x => g (f x) := by
  simp only [State.modConsist, tmod, tset_tset, tget_tset_same]

/-- A Consist as the start of a teardown leaves it, no answer of it being kept: the first valid cause stays. -/
def Consist.tearing (x : Consist) (cause basin node now : Nat) : Consist :=
  { x with
    flipBusy := false, state := .teardown, afterTeardown := afterCause cause, tornStopped := false
    leaseKick := if x.state = .active then x.leaseKick else now
    teardowns := min (x.teardowns + 1) 0xFF
    causeCode := if x.causeValid then x.causeCode else cause
    causeBasin := if x.causeValid then x.causeBasin else basin
    causeGen := if x.causeValid then x.causeGen else x.generation
    causeNode := if x.causeValid then x.causeNode else node
    causeValid := true }

/-- What the start of a teardown does to a context of the Consist: a parked one goes, one that resumes is free, and any other
stops. -/
def State.stopContext (s : State) (e : Nat × Ctx) : State :=
  match e.2.state with
  | .parked => ((s.chargeRest e.1).freeContext e.1).endPreemption e.1
  | .resuming => s.freeContext e.1
  | _ => (s.stopRanks e.1).modCtx e.1 fun x => { x with state := .stopping }

/-- A Basin that a stop request reaches (R135). -/
def Basin.stopAsked (b : Basin) : Basin :=
  if b.list = .running then { b with list := .stopping, haloWaiting := false, walkerWaits := false } else b

/-- A running context of one rank stops, and its Basin is asked to. -/
theorem State.stopContext_single {s : State} {i : Nat} {x : Ctx} {r : Rank} (hx : x.state = .running)
    (hr : (s.ctx i).ranks = [r]) (hd : r.done = false) (hb : (s.basin r.basin).context = i) :
    s.stopContext (i, x) = (s.modBasin r.basin Basin.stopAsked).modCtx i fun x => { x with state := .stopping } := by
  have hstop : s.stopRanks i = s.modBasin r.basin Basin.stopAsked := by
    rw [State.stopRanks, hr, List.foldl_cons, List.foldl_nil, if_neg (by simp [hd, hb])]
    rfl
  simp only [State.stopContext, hx, hstop]

section Start

variable {s : State} {c : Nat} (hl : (s.consist c).logReply = none) (hq : (s.consist c).quiesceReply = none)

include hl hq

/-- With no answer kept only a flip under way ends. -/
theorem State.failReplies_none : s.failReplies c = s.modConsist c fun x => { x with flipBusy := false } := by
  unfold State.failReplies
  simp only [hl, hq]
  exact State.modConsist_congr (by simp only [hl, hq])

theorem State.teardownStart_noReply (k b n : Nat) : s.teardownStart c k b n =
    State.cancelRoutes ((s.ttb.ctxs.filter fun e => e.2.consist == c && e.2.state != .free && e.2.rts.isNone).foldl
      State.stopContext (s.modConsist c fun x => x.tearing k b n s.now)) fun x => x.consist == c := by
  rw [State.teardownStart, State.failReplies_none hl hq, State.modConsist_modConsist]
  rfl

end Start

/-- Without a planner job there is none to cancel (R246). -/
theorem State.cancelRoutes_idle {s : State} (h0 : (s.rtsAt 0).jobs = []) (h1 : (s.rtsAt 1).jobs = []) (q : Ctx → Bool) :
    (s.cancelRoutes q).ttb = s.ttb ∧ (s.cancelRoutes q).basins = s.basins := by
  unfold State.cancelRoutes
  simp only [List.foldl_cons, List.foldl_nil, h0, List.filter_nil]
  rw [State.modRts_other _ _ _ _ (by decide), h1]
  exact ⟨rfl, rfl⟩

section StartIdle

variable {s : State} {c : Nat} (hl : (s.consist c).logReply = none) (hq : (s.consist c).quiesceReply = none)
  (h0 : (s.rtsAt 0).jobs = []) (h1 : (s.rtsAt 1).jobs = [])

include hl hq h0 h1

/-- The start of a teardown of a Consist without a context. -/
theorem State.teardownStart_noContext (k b n : Nat) (h : ∀ e ∈ s.ttb.ctxs, e.2.consist ≠ c) :
    (s.teardownStart c k b n).consist c = (s.consist c).tearing k b n s.now := by
  have hnone : (s.ttb.ctxs.filter fun e => e.2.consist == c && e.2.state != .free && e.2.rts.isNone) = [] :=
    List.filter_eq_nil_iff.mpr fun e he => by simp [h e he]
  rw [State.teardownStart_noReply hl hq, hnone, List.foldl_nil, State.consist,
    (State.cancelRoutes_idle (s := s.modConsist c _) h0 h1 _).1]
  exact State.modConsist_same _ _ _

/-- The start of a teardown of a Consist whose only context runs on one Basin: the context and its rank's list are to
stop. -/
theorem State.teardownStart_running (k b n : Nat) {i : Nat} {x : Ctx} {r : Rank} (hctx : s.ttb.ctxs = [(i, x)])
    (hx : x.consist = c) (hrun : x.state = .running) (hrts : x.rts = none) (hr : x.ranks = [r]) (hd : r.done = false)
    (hb : (s.basin r.basin).context = i) (hlist : (s.basin r.basin).list = .running) :
    ((s.teardownStart c k b n).ctx i).state = .stopping ∧
    ((s.teardownStart c k b n).basin r.basin).list = .stopping := by
  have hmine : (s.ttb.ctxs.filter fun e => e.2.consist == c && e.2.state != .free && e.2.rts.isNone) = [(i, x)] := by
    rw [hctx]
    exact List.filter_cons_of_pos (by simp [hx, hrun, hrts])
  have hranks : (s.ctx i).ranks = [r] := by simp [State.ctx, hctx, tget, hr]
  have hstop := State.stopContext_single (s := s.modConsist c fun x => x.tearing k b n s.now) hrun hranks hd hb
  obtain ⟨ht, hbs⟩ := State.cancelRoutes_idle
    (s := (s.modConsist c fun x => x.tearing k b n s.now).stopContext (i, x)) (by rw [hstop]; exact h0)
    (by rw [hstop]; exact h1) fun x => x.consist == c
  rw [State.teardownStart_noReply hl hq, hmine, List.foldl_cons, List.foldl_nil, State.ctx, State.basin, ht, hbs, hstop]
  refine ⟨congrArg Ctx.state (State.modCtx_same _ _ _), (congrArg Basin.list (State.modBasin_same _ _ _)).trans ?_⟩
  exact congrArg Basin.list (if_pos hlist)

end StartIdle

/-! ### The later steps of a teardown (R171, R175) -/

section Later

variable {s u v : State} {c : Nat} (hlive : s.live = true)

include hlive

/-- A context of the Consist that is not at rest holds step 3 back. -/
theorem execTeardownRanksStopped_waits
    (h : ∃ e ∈ s.ttb.ctxs, e.2.consist = c ∧ e.2.state ≠ .free ∧ s.ctxAtRest e.1 = false) :
    exec (.teardownRanksStopped c) s = .next s := by
  obtain ⟨e, he, hc, hf, hr⟩ := h
  have hall : (((s.ttb.ctxs.filter fun e => e.2.consist == c && e.2.state != .free).map (·.1)).all s.ctxAtRest) = false :=
    List.all_eq_false.mpr ⟨e.1, List.mem_map_of_mem (List.mem_filter.mpr ⟨he, by simp [hc, hf]⟩), by simp [hr]⟩
  rw [exec, execTeardownRanksStopped, act_live hlive, State.teardownStopped, if_pos (by simp [hall])]

/-- With every context at rest steps 3 to 5 are taken. -/
theorem execTeardownRanksStopped_rest (hst : (s.consist c).state = .teardown)
    (hts : (s.consist c).tornStopped = false)
    (h : ∀ e ∈ s.ttb.ctxs, e.2.consist = c → e.2.state ≠ .free → s.ctxAtRest e.1 = true)
    (hu : u = ((s.ttb.ctxs.filter fun e => e.2.consist == c && e.2.state != .free).map (·.1)).foldl State.dropContext
      (s.dropIncoming c)) (hv : v = (u.generationAdvance c).kvcGenDrop c) :
    exec (.teardownRanksStopped c) s =
      .next (((v.banksOf (v.consistTag c)).foldl State.scrubFree v).modConsist c fun x =>
        { x with generation := nextGen x.generation, validMap := 0, binding := [], tornStopped := true }) := by
  have hall : (((s.ttb.ctxs.filter fun e => e.2.consist == c && e.2.state != .free).map (·.1)).all s.ctxAtRest) = true := by
    refine List.all_eq_true.mpr fun i hi => ?_
    obtain ⟨e, he, rfl⟩ := List.mem_map.mp hi
    obtain ⟨he, hp⟩ := List.mem_filter.mp he
    simp only [Bool.and_eq_true, beq_iff_eq, bne_iff_ne] at hp
    exact h e he hp.1 hp.2
  rw [exec, execTeardownRanksStopped, act_live hlive, State.teardownStopped, if_neg (by simp [hst, hts, hall]), hv, hu]

theorem execTeardownScrubDone_stopped (hst : (s.consist c).state = .teardown)
    (hts : (s.consist c).tornStopped = true)
    (hu : u = s.msi s.sbxTag (s.consist c).tearMsiAddr (s.consist c).tearMsiData) :
    exec (.teardownScrubDone c) s = .next (if (s.consist c).afterTeardown = .free then u.releaseConsist c
      else u.modConsist c fun x => { x with state := x.afterTeardown, tornStopped := false }) := by
  rw [exec, execTeardownScrubDone, act_live hlive, State.teardownDone, if_neg (by simp [hst, hts]), hu]

end Later

/-! ### The lease (R176) -/

section Lease

variable {s : State} {c tag : Nat} (hlive : s.live = true)

include hlive

theorem execLeaseCheck_live : exec .leaseCheck s = .next (((s.ttb.consists.filter fun e =>
    (e.2.state == .active || e.2.state == .teardown) && s.now ≥ e.2.leaseKick + s.leaseNs e.1).map (·.1)).foldl
      (fun s c => s.teardown c 0x40 0 0) s) := by
  rw [exec, execLeaseCheck, act_live hlive, State.leaseCheck]

theorem execKick_ignored (h : (s.consist c).state = .free ∨ tag ≠ (s.consist c).driverTag) :
    exec (.kick c tag) s = .next s := by
  rw [exec, execKick, act_live hlive, if_pos h]

/-- The driver's KICK renews the lease, or comes too late. -/
theorem execKick_driver (hf : (s.consist c).state ≠ .free) (ht : tag = (s.consist c).driverTag) :
    exec (.kick c tag) s = .next (if (s.consist c).state = .expired ∨
        ((s.consist c).state = .teardown ∧ (s.consist c).afterTeardown = .expired) then
      s.modConsist c fun x => { x with lateKicks := min (x.lateKicks + 1) 0xFF }
    else s.modConsist c fun x => { x with leaseKick := s.now }) := by
  rw [exec, execKick, act_live hlive, if_neg (by simp [hf, ht])]
  rfl

end Lease

/-! ### CST_BANK_PWR (R102, R158) -/

/-- The fields of a CST_BANK_PWR write. -/
theorem fld_cstBankPwr {v b p : Nat} (hv : v < 64) (hb : b < 16) (hp : p < 4) :
    fld (v + 2 ^ 8 * b + 2 ^ 12 * p) 0 6 = v ∧ fld (v + 2 ^ 8 * b + 2 ^ 12 * p) 8 4 = b ∧
    fld (v + 2 ^ 8 * b + 2 ^ 12 * p) 12 2 = p := by
  simp only [fld, Nat.shiftRight_eq_div_pow]
  omega

section BankWrite

variable {s : State} {k p : Nat}

/-- A write of the owner in place: SCRUB mode, not FREE, the same owner, and PWR `p`. -/
theorem Bank.write_inPlace (b : Bank) (ho : b.ctlOwner < 4096) (hp : p < 4) :
    fld (b.ctlOwner + 0x10000 * p) 0 12 = b.ctlOwner ∧ bit (b.ctlOwner + 0x10000 * p) 12 = false ∧
    fld (b.ctlOwner + 0x10000 * p) 13 2 = 0 ∧ fld (b.ctlOwner + 0x10000 * p) 16 2 = p := by
  simp only [fld, bit, Nat.shiftRight_eq_div_pow, Nat.testBit_eq_decide_div_mod_eq, decide_eq_false_iff_not]
  omega

theorem State.bankRejects_inPlace (hf : (s.bank k).fenced = false) (hh : (s.bank k).handover = none)
    (ho : (s.bank k).ctlOwner < 4096) (hp : p < 3) :
    s.bankRejects k ((s.bank k).ctlOwner + 0x10000 * p) = false := by
  obtain ⟨-, -, hm, hpw⟩ := (s.bank k).write_inPlace ho (Nat.lt_succ_of_lt hp)
  simp only [State.bankRejects, hf, hh, hm, hpw]
  simp [Nat.ne_of_lt hp]

theorem Bank.changesOwner_inPlace (b : Bank) (hfree : b.ctlFree = false) (ho : b.ctlOwner < 4096) (hp : p < 3) :
    b.changesOwner (b.ctlOwner + 0x10000 * p) = false := by
  obtain ⟨how, hb, -, -⟩ := b.write_inPlace ho (Nat.lt_succ_of_lt hp)
  simp [Bank.changesOwner, how, hb, hfree]

/-- The Turntable's write of the owner in place reaches a Pool bank's power, where PWR changes (R102). -/
theorem State.bankCtlWrite_inPlace (hk : k < 1024) (hf : (s.bank k).fenced = false) (hh : (s.bank k).handover = none)
    (hfree : (s.bank k).ctlFree = false) (ho : (s.bank k).ctlOwner < 4096) (hp : p < 3) :
    s.bankCtlWrite k ((s.bank k).ctlOwner + 0x10000 * p) .turntable none =
      if (s.bank k).ctlPwr = bankPwrOf p then s else s.bankPwr k (bankPwrOf p) none := by
  have hm : mayPower k .turntable = true := decide_eq_true hk
  obtain ⟨-, -, -, hpw⟩ := (s.bank k).write_inPlace ho (Nat.lt_succ_of_lt hp)
  simp only [State.bankCtlWrite, State.bankRejects_inPlace hf hh ho hp, (s.bank k).changesOwner_inPlace hfree ho hp, hm,
    hpw, Bool.false_eq_true, if_false, if_true]

/-- A PWR write at a bank without a transition: it starts one unless the bank is in that state already. -/
theorem Bank.pwrWrite_none {b : Bank} (ht : b.transition = none) (dst : BankPwr) (past : Bool) : b.pwrWrite dst past =
    if b.pwrState = dst then { b with ctlPwr := dst }
    else { b with ctlPwr := dst, transition := some { src := b.pwrState, dst := dst } } := by
  simp only [Bank.pwrWrite, ht]

end BankWrite

section BankPwr

variable {s : State} {c v b p : Nat} (hlive : s.live = true) (hused : (s.consist c).state ≠ .free) (hv : v < 64)
  (hb : b < 16)

include hlive hused hv hb

/-- A bank that the Consist owns is written as the Turntable writes it for the bank's owner. -/
theorem execCstBankPwr_resident {phys k : Nat} (hp : p < 3) (hbind : tfind (s.consist c).binding v = some phys)
    (hk : k = 16 * phys + b) (hfree : (s.bank k).curFree = false) (hown : (s.bank k).curOwner = s.consistTag c) :
    exec (.cstBankPwr c (v + 2 ^ 8 * b + 2 ^ 12 * p)) s =
      .next (s.bankCtlWrite k ((s.bank k).ctlOwner + 0x10000 * p) .turntable none) := by
  obtain ⟨hfv, hfb, hfp⟩ := fld_cstBankPwr hv hb (Nat.lt_succ_of_lt hp)
  subst hk
  rw [exec, execCstBankPwr, act_live hlive]
  simp only [hfv, hfb, hfp, hbind, hfree, hown]
  rw [if_neg (by simp [hused, Nat.ne_of_lt hp])]
  simp

/-- A bank that is not resident is parked, and its slot is emptied. -/
theorem execCstBankPwr_parked (hbind : tfind (s.consist c).binding v = none) :
    exec (.cstBankPwr c (v + 2 ^ 8 * b)) s =
      .next (s.modConsist c fun x => { x with validMap := setFld x.validMap (16 * v + b) 1 0 }) := by
  obtain ⟨hfv, hfb, hfp⟩ := fld_cstBankPwr (p := 0) hv hb (by decide)
  simp only [Nat.mul_zero, Nat.add_zero] at hfv hfb hfp
  rw [exec, execCstBankPwr, act_live hlive]
  simp only [hfv, hfb, hfp, hbind]
  rw [if_neg (by simp [hused]), if_pos trivial]
  rfl

end BankPwr

/-! ### The Turntable's clears (R165, R168) -/

theorem execTtbSlowClear_live {s : State} {first count : Nat} (hlive : s.live = true) (h1 : first < 4096)
    (h2 : count ≤ 256) : exec (.ttbSlowClear (first + 2 ^ 12 * count)) s = .next { s with ttb := { s.ttb with
      slow := s.ttb.slow.filter fun e => e.1 < first || first + count ≤ e.1 } } := by
  have hf : fld (first + 2 ^ 12 * count) 0 12 = first := by
    simp only [fld, Nat.shiftRight_eq_div_pow]
    omega
  have hc : min (fld (first + 2 ^ 12 * count) 12 9) 256 = count := by
    simp only [fld, Nat.shiftRight_eq_div_pow]
    omega
  rw [exec, execTtbSlowClear, act_live hlive]
  simp only [hf, hc]

theorem execPreemptClear_live {s : State} (hlive : s.live = true) : exec .preemptClear s =
    .next { s with ttb := { s.ttb with maxNs := 0, overBound := 0, ctxWaits := 0 } } := by
  rw [exec, execPreemptClear, act_live hlive]

/-- Settles O22: a cause by the Consist's state, each later event by what it waits for, a bank's power by where the bank
is. That an ACTIVE Consist's lease runs on during its teardown is the model's (log entry 118). -/
theorem turntableTeardown : Obligations.TurntableTeardown := by
  refine ⟨fun s c k b n hlive => ?_,
    fun s t c k b n hl hq h0 h1 ht => ⟨fun h => ?_, fun i x r hctx hx hrun hrts hr hd hb hlist => ?_⟩,
    fun s u v c hlive hst hts => ⟨execTeardownRanksStopped_waits hlive, fun h =>
      execTeardownRanksStopped_rest hlive hst hts h⟩,
    fun s u c hlive hst hts hu => ⟨fun h => ?_, fun h => ?_⟩, fun s => execLeaseCheck_live,
    fun s c tag hlive => ⟨execKick_ignored hlive, fun ht h => ?_, fun ht h => ?_⟩,
    fun s c v b p phys k hlive hp hused hv hb hbind hk hk' hfree hown => ⟨fun h => ?_, fun hf hh ht hcf ho => ?_⟩,
    fun s c v b hlive hused hv hb hbind => execCstBankPwr_parked hlive hused hv hb hbind,
    fun s first count hlive h1 h2 => ⟨execTtbSlowClear_live hlive h1 h2, execPreemptClear_live hlive⟩⟩
  · rw [execTeardown_live hlive]
    exact ⟨fun h => by rw [State.teardown_ignored h], fun hk h => by rw [State.teardown_merges hk h],
      fun hk h => by rw [State.teardown_starts hk h], fun hk h => by rw [State.teardown_expired hk h]⟩
  · rw [ht, State.teardownStart_noContext hl hq h0 h1 k b n h]
    rfl
  · rw [ht]
    exact State.teardownStart_running hl hq h0 h1 k b n hctx hx hrun hrts hr hd hb hlist
  · rw [execTeardownScrubDone_stopped hlive hst hts hu, if_pos h]
  · rw [execTeardownScrubDone_stopped hlive hst hts hu, if_neg h]
  · have hf : (s.consist c).state ≠ .free := by rcases h with h | h | h | h <;> simp [h]
    rw [execKick_driver hlive hf ht, if_neg (by rcases h with h | h | h | h <;> simp [h])]
  · have hf : (s.consist c).state ≠ .free := by rcases h with h | h <;> simp [h]
    rw [execKick_driver hlive hf ht, if_pos h]
  · rw [execCstBankPwr_resident hlive hused hv hb hp hbind hk hfree hown, State.bankCtlWrite_rejected]
    exact State.bankRejects_of (h.imp_right fun h => .inl (Option.isSome_iff_ne_none.mp h))
  · rw [execCstBankPwr_resident hlive hused hv hb hp hbind hk hfree hown, State.bankCtlWrite_inPlace hk' hf hh hcf ho hp]
    refine ⟨fun hsame => by rw [if_pos hsame], fun hother => ?_⟩
    rw [if_neg hother]
    exact ⟨_, rfl, rfl, (State.modBank_same _ _ _).trans (Bank.pwrWrite_none ht _ _),
      fun j hj => State.modBank_other _ _ _ _ hj⟩

end Sys2Proof.Machine
end

section
/-! Proofs of the family of the Turntable and the Consists: the Consist service of the mailbox (O24, O25). -/

namespace Sys2Proof.Machine

open Sys2Proof.Laws Sys2Proof.Safety

/-! ### A service whose answer may wait (R399, R400) -/

section Later

variable {s w v : State} {service op : Nat} {r : MboxReq} {f : State → MboxReq → State × Option Bytes}
  (h : Serves s service op r w)

include h

/-- An operation that gives a body answers the request at the head at once. -/
theorem serveLater_answered {body : Bytes} (hf : f w r = (v, some body)) :
    s.serveLater service op f = reply v r body := by
  unfold State.serveLater
  rw [if_neg (by simp [h.loops])]
  simp only [h.head, ← h.popped, hf]
  rfl

/-- An operation that gives none keeps the answer, and the requests behind it are looked at. -/
theorem serveLater_kept (hf : f w r = (v, none)) : s.serveLater service op f = v.mboxDrain := by
  unfold State.serveLater
  rw [if_neg (by simp [h.loops])]
  simp only [h.head, ← h.popped, hf]

end Later

/-! ### CREATE (R173, R180) -/

section Create

variable {s : State} {r : MboxReq}

theorem State.consistCreate_reserved (h : createReserved r.body = true) :
    s.consistCreate r = (s, s.consistReply 1 0) := if_pos h

theorem State.consistCreate_denied (h : createReserved r.body = false)
    (hp : s.privileged r.tag = false ∨ consistOf r.tag ≠ 0) : s.consistCreate r = (s, s.consistReply 3 0) := by
  rw [State.consistCreate, if_neg (by simp [h]), if_pos (by simpa using hp)]

/-- A CREATE that a privileged tag may make goes on to its template. -/
theorem State.consistCreate_unnamed (h : createReserved r.body = false) (hp : s.privileged r.tag = true)
    (h0 : consistOf r.tag = 0) (ht : s.template (le r.body 4 2) = none) :
    s.consistCreate r = (s, s.consistReply 2 0) := by
  rw [State.consistCreate, if_neg (by simp [h]), if_neg (by simp [hp, h0])]
  simp only [ht]

theorem State.consistCreate_named {t : Bytes} (h : createReserved r.body = false) (hp : s.privileged r.tag = true)
    (h0 : consistOf r.tag = 0) (ht : s.template (le r.body 4 2) = some t) : s.consistCreate r =
      if s.createCheck r.tag r.body t ≠ 0 then (s, s.consistReply (s.createCheck r.tag r.body t) 0)
      else ((s.carve r.tag r.body t).1,
        (s.carve r.tag r.body t).1.consistReply 0 (s.carve r.tag r.body t).2) := by
  rw [State.consistCreate, if_neg (by simp [h]), if_neg (by simp [hp, h0])]
  simp only [ht]

/-- The Consist that a CREATE carves is ACTIVE, its driver the requester, with the world and siding area that the request
names and its lease just begun. -/
theorem State.carve_consist {v : State} {c tag : Nat} {b t : Bytes} (h : s.carve tag b t = (v, c)) :
    (v.consist c).state = .active ∧ (v.consist c).driverTag = tag ∧ (v.consist c).world = byteAt b 3 ∧
    (v.consist c).sidingBase = le b 8 8 ∧ (v.consist c).leaseKick = s.now := by
  obtain ⟨rfl, rfl⟩ := Prod.mk.injEq .. ▸ h
  simp only [State.consist, tget_tset_same, and_self]

theorem execConsistCreate_served {w : State} (h : Serves s 2 1 r w) :
    exec .consistCreate s = .next (reply (w.consistCreate r).1 r (w.consistCreate r).2) := by
  rw [exec, execConsistCreate, act_live h.up, serve_of_serves h]

end Create

/-! ### Requests for a Consist that exists: the driver's check, then the operation (R160, R173, R175, R179) -/

section Operations

variable {s : State} {r : MboxReq}

theorem State.consistTear_failed (h : s.driverCheck r true ≠ 0) (cause : Nat) : s.consistTear cause r =
    (s, s.consistReply (s.driverCheck r true) (byteAt r.body 2)) := if_pos h

theorem State.consistTear_passed {v : State} (h : s.driverCheck r true = 0) (cause : Nat)
    (hv : v = (s.modConsist (byteAt r.body 2) fun x => { x with driverTag := r.tag }).teardown (byteAt r.body 2) cause 0 0) :
    s.consistTear cause r = (v, v.consistReply 0 (byteAt r.body 2)) := by
  rw [hv, State.consistTear, if_neg (by simp [h])]

theorem State.setWeight_failed (h : s.driverCheck r false ≠ 0) :
    s.setWeight r = (s, s.consistReply (s.driverCheck r false) (byteAt r.body 2)) := if_pos h

theorem State.setWeight_range (h : s.driverCheck r false = 0)
    (hbad : le r.body 0x22 2 = 0 ∨ le r.body 0x22 2 > 10000 ∨
      (le r.body 0x20 2 ≠ 0xFFFF ∧ le r.body 0x20 2 ≥ (s.consist (byteAt r.body 2)).shareGroups)) :
    s.setWeight r = (s, s.consistReply 1 (byteAt r.body 2)) := by
  rw [State.setWeight, if_neg (by simp [h]), if_pos hbad]

theorem State.setWeight_consist {v : State} (h : s.driverCheck r false = 0) (h1 : 1 ≤ le r.body 0x22 2)
    (h2 : le r.body 0x22 2 ≤ 10000) (hg : le r.body 0x20 2 = 0xFFFF)
    (hv : v = s.modConsist (byteAt r.body 2) fun x => { x with weight := le r.body 0x22 2 }) :
    s.setWeight r = (v, v.consistReply 0 (byteAt r.body 2)) := by
  rw [hv, State.setWeight, if_neg (by simp [h]), if_neg (by omega), if_pos hg]

theorem State.setWeight_group {v : State} (h : s.driverCheck r false = 0) (h1 : 1 ≤ le r.body 0x22 2)
    (h2 : le r.body 0x22 2 ≤ 10000) (hg : le r.body 0x20 2 ≠ 0xFFFF)
    (hlt : le r.body 0x20 2 < (s.consist (byteAt r.body 2)).shareGroups)
    (hv : v = { s with ttb := { s.ttb with
      groups := tmod {} s.ttb.groups ((s.consist (byteAt r.body 2)).firstGroup + le r.body 0x20 2) fun e =>
        { e with weight := le r.body 0x22 2 } } }) :
    s.setWeight r = (v, v.consistReply 0 (byteAt r.body 2)) := by
  rw [hv, State.setWeight, if_neg (by simp [h]), if_neg (by omega), if_neg hg]

theorem State.resume_failed (h : s.driverCheck r false ≠ 0) :
    s.resume r = (s, s.consistReply (s.driverCheck r false) (byteAt r.body 2)) := if_pos h

theorem State.resume_busy (h : s.driverCheck r false = 0) (hs : (s.consist (byteAt r.body 2)).state ≠ .quiesced) :
    s.resume r = (s, s.consistReply 6 (byteAt r.body 2)) := by
  rw [State.resume, if_neg (by simp [h]), if_pos hs]

theorem State.resume_quiesced {v : State} (h : s.driverCheck r false = 0)
    (hs : (s.consist (byteAt r.body 2)).state = .quiesced)
    (hv : v = s.modConsist (byteAt r.body 2) fun x => { x with state := .active, leaseKick := s.now }) :
    s.resume r = (v, v.consistReply 0 (byteAt r.body 2)) := by
  rw [hv, State.resume, if_neg (by simp [h]), if_neg (by simp [hs])]

end Operations

section Served

variable {s w : State} {r : MboxReq}

theorem execConsistDestroy_served (h : Serves s 2 2 r w) :
    exec .consistDestroy s = .next (reply (w.consistTear 0x42 r).1 r (w.consistTear 0x42 r).2) := by
  rw [exec, execConsistDestroy, act_live h.up, serve_of_serves h]

theorem execConsistReset_served (h : Serves s 2 3 r w) :
    exec .consistReset s = .next (reply (w.consistTear 0x41 r).1 r (w.consistTear 0x41 r).2) := by
  rw [exec, execConsistReset, act_live h.up, serve_of_serves h]

theorem execSetWeight_served (h : Serves s 2 4 r w) :
    exec .setWeight s = .next (reply (w.setWeight r).1 r (w.setWeight r).2) := by
  rw [exec, execSetWeight, act_live h.up, serve_of_serves h]

theorem execResume_served (h : Serves s 2 9 r w) :
    exec .resume s = .next (reply (w.resume r).1 r (w.resume r).2) := by
  rw [exec, execResume, act_live h.up, serve_of_serves h]

end Served

/-- Settles O24: each request by its checks in their order, then by the operation that they let through. WORLD_DENIED for a
tag that may not create, BAD_STATE for a Consist in another state, and DESTROY's and RESET's answer before their teardown
ends are the model's (log entry 36). -/
theorem consistLifetime : Obligations.ConsistLifetime := by
  refine ⟨fun s w r h => ⟨fun hr => ?_, fun hr hp => ?_, fun hr hp h0 => ⟨fun ht => ?_, fun t ht =>
      ⟨fun hc => ?_, fun hc v c hv => ⟨?_, State.carve_consist hv⟩⟩⟩⟩,
    fun s w r h => ⟨fun hd => ?_, fun hd => ⟨_, rfl, ?_⟩⟩,
    fun s w r h => ⟨fun hd => ?_, fun hd => ⟨_, rfl, ?_⟩⟩,
    fun s w r c g k h hc hg hk => ?_,
    fun s w r c h hc => ?_⟩
  · rw [execConsistCreate_served h, State.consistCreate_reserved hr]
  · rw [execConsistCreate_served h, State.consistCreate_denied hr hp]
  · rw [execConsistCreate_served h, State.consistCreate_unnamed hr hp h0 ht]
  · rw [execConsistCreate_served h, State.consistCreate_named hr hp h0 ht, if_pos hc]
  · rw [execConsistCreate_served h, State.consistCreate_named hr hp h0 ht, if_neg (by simp [hc]), hv]
  · rw [execConsistDestroy_served h, State.consistTear_failed hd]
  · rw [execConsistDestroy_served h, State.consistTear_passed hd 0x42 rfl]
  · rw [execConsistReset_served h, State.consistTear_failed hd]
  · rw [execConsistReset_served h, State.consistTear_passed hd 0x41 rfl]
  · subst hc hg hk
    refine ⟨fun hd => ?_, fun hd hk => ?_, fun hd h1 h2 =>
      ⟨fun hg => ⟨_, rfl, ?_⟩, fun hg hlt => ⟨_, rfl, ?_⟩, fun hg hle => ?_⟩⟩
    · rw [execSetWeight_served h, State.setWeight_failed hd]
    · rw [execSetWeight_served h, State.setWeight_range hd (hk.imp_right .inl)]
    · rw [execSetWeight_served h, State.setWeight_consist hd h1 h2 hg rfl]
    · rw [execSetWeight_served h, State.setWeight_group hd h1 h2 hg hlt rfl]
    · rw [execSetWeight_served h, State.setWeight_range hd (.inr (.inr ⟨hg, hle⟩))]
  · subst hc
    refine ⟨fun hd => ?_, fun hd hs => ?_, fun hd hs => ⟨_, rfl, ?_⟩⟩
    · rw [execResume_served h, State.resume_failed hd]
    · rw [execResume_served h, State.resume_busy hd hs]
    · rw [execResume_served h, State.resume_quiesced hd hs rfl]

end Sys2Proof.Machine
end

section
/-! Proofs of the family of the Turntable and the Consists: dirty logging and quiescence (O25). -/

namespace Sys2Proof.Machine

open Sys2Proof.Laws Sys2Proof.Safety

/-! ### Dirty logging (R178) -/

section Log

variable {s : State} {r : MboxReq}

theorem State.logStart_failed (h : s.driverCheck r false ≠ 0) :
    s.logStart r = (s, s.consistReply (s.driverCheck r false) (byteAt r.body 2)) := if_pos h

theorem State.logStart_misplaced (h : s.driverCheck r false = 0)
    (hb : le r.body 0x10 8 % 4096 ≠ 0 ∨ le r.body 0x18 8 % 4096 ≠ 0 ∨ 2 ^ 48 ≤ le r.body 0x10 8 ∨
      2 ^ 48 ≤ le r.body 0x18 8) :
    s.logStart r = (s, s.consistReply 1 (byteAt r.body 2)) := by
  rw [State.logStart, if_neg (by simp [h]), if_pos hb]

/-- With both buffers in place, the Consist's state and then their ownership decide. -/
theorem State.logStart_placed {x : Consist} {v : State} (h : s.driverCheck r false = 0)
    (hb : ¬(le r.body 0x10 8 % 4096 ≠ 0 ∨ le r.body 0x18 8 % 4096 ≠ 0 ∨ 2 ^ 48 ≤ le r.body 0x10 8 ∨
      2 ^ 48 ≤ le r.body 0x18 8)) (hx : x = s.consist (byteAt r.body 2))
    (hv : v = s.modConsist (byteAt r.body 2) fun x =>
      { x with logEn := true, activeBuf := 0, dirtyBase0 := le r.body 0x10 8, dirtyBase1 := le r.body 0x18 8 }) :
    s.logStart r =
      if x.logEn || !x.logOk || !(x.state == .active || x.state == .quiescing || x.state == .quiesced) then
        (s, s.consistReply 6 (byteAt r.body 2))
      else if !(s.pagesOwned (le r.body 0x10 8) (s.dramSize / 32768) x.driverTag
          && s.pagesOwned (le r.body 0x18 8) (s.dramSize / 32768) x.driverTag) then
        (s, s.consistReply 7 (byteAt r.body 2))
      else (v, v.consistReply 0 (byteAt r.body 2)) := by
  rw [hx, hv, State.logStart, if_neg (by simp [h]), if_neg hb]

theorem execLogStart_served {w : State} (h : Serves s 2 5 r w) :
    exec .logStart s = .next (reply (w.logStart r).1 r (w.logStart r).2) := by
  rw [exec, execLogStart, act_live h.up, serve_of_serves h]

theorem State.logSync_failed (h : s.driverCheck r false ≠ 0) (stop : Bool) :
    s.logSync stop r = (s, some (s.consistReply (s.driverCheck r false) (byteAt r.body 2))) := if_pos h

theorem State.logSync_busy (h : s.driverCheck r false = 0) (stop : Bool)
    (hx : (s.consist (byteAt r.body 2)).logEn = false ∨ (s.consist (byteAt r.body 2)).flipBusy = true) :
    s.logSync stop r = (s, some (s.consistReply 6 (byteAt r.body 2))) := by
  rw [State.logSync, if_neg (by simp [h]), if_pos (by simpa using hx)]

theorem State.logSync_started (h : s.driverCheck r false = 0) (stop : Bool)
    (hen : (s.consist (byteAt r.body 2)).logEn = true) (hidle : (s.consist (byteAt r.body 2)).flipBusy = false) :
    s.logSync stop r = (s.modConsist (byteAt r.body 2) fun x =>
      { x with
        activeBuf := if stop then x.activeBuf else 1 - x.activeBuf
        flipBusy := true, logStopping := stop, logReply := some r }, none) := by
  rw [State.logSync, if_neg (by simp [h]), if_neg (by simp [hen, hidle])]

/-- LOG_FLIP and LOG_STOP are one operation, whose answer waits for the sync. -/
theorem exec_logSync {op : Nat} {k : Instr} (hlive : s.live = true)
    (hk : op = 6 ∧ k = .logFlip ∨ op = 7 ∧ k = .logStop) :
    exec k s = .next (s.serveLater 2 op (State.logSync (op == 7))) := by
  rcases hk with ⟨rfl, rfl⟩ | ⟨rfl, rfl⟩
  · rw [exec, execLogFlip, act_live hlive]
    rfl
  · rw [exec, execLogStop, act_live hlive]
    rfl

theorem execLogSyncDone_kept {v : State} {c : Nat} (hlive : s.live = true) (hr : (s.consist c).logReply = some r)
    (hv : v = s.modConsist c fun x =>
      { x with logReply := none, flipBusy := false, logEn := x.logEn && !x.logStopping, logStopping := false }) :
    exec (.logSyncDone c) s = .next (v.mboxAnswer r 0 (v.consistReply 0 c)) := by
  rw [exec, execLogSyncDone, act_live hlive]
  simp only [hr, hv]

end Log

/-! ### Quiescence (R153, R179) -/

section Quiesce

variable {s : State} {r : MboxReq}

theorem State.quiesce_failed (h : s.driverCheck r false ≠ 0) :
    s.quiesce r = (s, some (s.consistReply (s.driverCheck r false) (byteAt r.body 2))) := if_pos h

theorem State.quiesce_busy (h : s.driverCheck r false = 0) (hs : (s.consist (byteAt r.body 2)).state ≠ .active) :
    s.quiesce r = (s, some (s.consistReply 6 (byteAt r.body 2))) := by
  rw [State.quiesce, if_neg (by simp [h]), if_pos hs]

theorem State.quiesce_started (h : s.driverCheck r false = 0) (hs : (s.consist (byteAt r.body 2)).state = .active) :
    s.quiesce r = (((s.consistRings (byteAt r.body 2)).foldl State.disarmRing s).modConsist (byteAt r.body 2) fun x =>
      { x with state := .quiescing, quiesceReply := some r }, none) := by
  rw [State.quiesce, if_neg (by simp [h]), if_neg (by simp [hs])]

theorem execQuiesce_live (hlive : s.live = true) :
    exec .quiesce s = .next (s.serveLater 2 8 State.quiesce) := by
  rw [exec, execQuiesce, act_live hlive]

variable {c : Nat}

theorem execQuiesceDone_live (hlive : s.live = true) : exec (.quiesceDone c) s = .next (s.quiesceDone c) := by
  rw [exec, execQuiesceDone, act_live hlive]

/-- Graphs of the Consist in flight hold its quiescence back (R179 step 2). -/
theorem State.quiesceDone_inFlight (h : ∃ e ∈ s.sbx.graphs, e.2.consist = c ∧ e.2.inFlight = true) :
    s.quiesceDone c = s := by
  obtain ⟨e, he, hc, hf⟩ := h
  have hany : (s.sbx.graphs.any fun e => e.2.consist == c && e.2.inFlight) = true :=
    List.any_eq_true.mpr ⟨e, he, by simp [hc, hf]⟩
  rw [State.quiesceDone, if_pos (by simp [hany])]

/-- Without them, what the parking comes to decides (R179 steps 3 to 5). -/
theorem State.quiesceDone_parked {u : State} {e : MoveEnd} (hs : (s.consist c).state = .quiescing)
    (hr : (s.consist c).quiesceReply = some r)
    (hidle : ∀ e ∈ s.sbx.graphs, e.2.consist = c → e.2.inFlight = false) (hp : s.parkAll c = (u, e)) :
    s.quiesceDone c =
      if e = .waits then s
      else if e ≠ .done then u.moverFault c 0 e
      else if (u.consist c).state != .quiescing then u
      else (u.modConsist c fun y => { y with state := .quiesced, binding := [], quiesceReply := none }).mboxAnswer r 0
        ((u.modConsist c fun y => { y with state := .quiesced, binding := [], quiesceReply := none }).consistReply 0 c) := by
  have hnone : (s.sbx.graphs.any fun e => e.2.consist == c && e.2.inFlight) = false := by
    simpa [List.any_eq_false] using fun k g hg hc => hidle (k, g) hg hc
  rw [State.quiesceDone, if_neg (by simp [hs, hnone])]
  simp only [hp, hr]

/-- A Consist with nothing bound has only its header to write (R153, log entry 119). -/
theorem State.parkAll_of_unbound (h : (s.consist c).binding = []) : s.parkAll c =
    s.putLines (s.consistTag c) (s.consist c).sidingBase (slice (s.consist c).header 0 0x10000) := by
  rw [State.parkAll, h]
  rfl

end Quiesce

/-- Settles O25: each request by its checks in their order, the two late answers by what has become of the state. The
BAD_STATE answers and the kept ones are the model's (log entry 36), and so is parking on QUIESCE (log entries 37, 119). -/
theorem consistLogAndQuiesce : Obligations.ConsistLogAndQuiesce := by
  refine ⟨fun s w r c b0 b1 h hc h0 h1 => ?_, fun s w r c op k h hc hk => ?_,
    fun s v c r hlive hr hv => execLogSyncDone_kept hlive hr hv, fun s w r c h hc => ?_,
    fun s u v c r hlive hs hr => ⟨fun hf => ?_, fun hidle e hp => ⟨fun he => ?_, fun he => ?_, fun he hu hv => ?_⟩⟩,
    fun s c => State.parkAll_of_unbound⟩
  · subst hc h0 h1
    rw [execLogStart_served h]
    refine ⟨fun hd => ?_, fun hd hb => ?_, fun hd ha0 ha1 hl0 hl1 => ?_⟩
    · rw [State.logStart_failed hd]
    · rw [State.logStart_misplaced hd hb]
    · rw [State.logStart_placed hd (by omega) rfl rfl]
      refine ⟨fun hx => ?_, fun hen hok hst => ?_⟩
      · rw [if_pos (by rcases hx with hx | hx <;> simp [hx])]
      · rw [if_neg (by rcases hst with hst | hst | hst <;> simp [hen, hok, hst])]
        refine ⟨fun ho => ?_, fun ho0 ho1 => ⟨_, rfl, ?_⟩⟩
        · rw [if_pos (by simp [ho])]
        · rw [if_neg (by simp [ho0, ho1])]
  · subst hc
    rw [exec_logSync h.up hk]
    refine ⟨fun hd => ?_, fun hd hx => ?_, fun hd hen hidle => ?_⟩
    · rw [serveLater_answered h (State.logSync_failed hd _)]
    · rw [serveLater_answered h (State.logSync_busy hd _ hx)]
    · rw [serveLater_kept h (State.logSync_started hd _ hen hidle)]
      rcases hk with ⟨rfl, -⟩ | ⟨rfl, -⟩ <;> rfl
  · subst hc
    rw [execQuiesce_live h.up]
    refine ⟨fun hd => ?_, fun hd hx => ?_, fun hd hx => ?_⟩
    · rw [serveLater_answered h (State.quiesce_failed hd)]
    · rw [serveLater_answered h (State.quiesce_busy hd hx)]
    · rw [serveLater_kept h (State.quiesce_started hd hx)]
  · rw [execQuiesceDone_live hlive, State.quiesceDone_inFlight hf]
  · rw [execQuiesceDone_live hlive, State.quiesceDone_parked hs hr hidle hp, if_pos he]
  · have hw : e ≠ .waits := by rcases he with rfl | rfl <;> decide
    have hd : e ≠ .done := by rcases he with rfl | rfl <;> decide
    rw [execQuiesceDone_live hlive, State.quiesceDone_parked hs hr hidle hp, if_neg hw, if_pos hd]
  · subst he hv
    rw [execQuiesceDone_live hlive, State.quiesceDone_parked hs hr hidle hp, if_neg (by decide), if_neg (by decide),
      if_neg (by simp [hu])]

end Sys2Proof.Machine
end

section
/-! Proofs of the family of attention and the KV cache: the KVC's records, its request slots, reclaim and the walker's
pins (O26). -/

namespace Sys2Proof.Machine

open Sys2Proof.Laws Sys2Proof.Safety

variable {s : State} {n v : Nat}

/-! ### Space records (R216) -/

theorem State.kvSetValid_valid (h : (s.kvSpace n).valid = true) : s.kvSetValid n v = s := if_pos h

theorem State.kvSetValid_accepted (h : (s.kvSpace n).valid = false) (hen : s.kvc.en = true)
    (hok : s.kvRecordBad n ((s.kvSpace n).put 0 (leBytes 4 v)) = false) :
    s.kvSetValid n v = (s.modKvSpace n fun _ => (s.kvSpace n).put 0 (leBytes 4 v)).kvMeta := by
  rw [State.kvSetValid, if_neg (by simp [h]), if_neg (by simp [hen, hok])]

theorem State.kvSetValid_rejected (h : (s.kvSpace n).valid = false)
    (hbad : s.kvc.en = false ∨ s.kvRecordBad n ((s.kvSpace n).put 0 (leBytes 4 v)) = true) :
    s.kvSetValid n v =
      s.modKvSpace n fun x => { x.put 0 (leBytes 4 (v - v % 2)) with cfgRejected := true } := by
  rw [State.kvSetValid, if_neg (by simp [h]), if_pos (by simpa using hbad)]

theorem State.kvClearValid_unset (h : (s.kvSpace n).valid = false) :
    s.kvClearValid n v = s.modKvSpace n fun x => x.put 0 (leBytes 4 v) := if_pos (by simp [h])

/-- A valid record leaves with its space unless its owner holds a pin. -/
theorem State.kvClearValid_valid (h : (s.kvSpace n).valid = true) :
    s.kvClearValid n v =
      if s.kvc.pins.any fun e => e.2.consist == consistOf (s.kvSpace n).ownerTag then
        s.modKvSpace n fun x => { x with cfgRejected := true }
      else s.kvDropSpace n := if_neg (by simp [h])

/-! ### The enable (R229) -/

theorem execKvcEnable_set (hlive : s.live = true) (h : v % 2 = 1) : exec (.kvcEnable v) s =
    .next (if s.kvc.metaBase = 0 then s else { s with kvc := { s.kvc with en := true } }) := by
  rw [exec, execKvcEnable, act_live hlive, if_pos (by simpa [bit, Nat.testBit_zero] using h)]
  rfl

theorem execKvcEnable_clear (hlive : s.live = true) (h : v % 2 = 0) : exec (.kvcEnable v) s =
    .next (if s.kvc.spaces.any fun e => e.2.valid then s else { s with kvc := { s.kvc with en := false } }) := by
  rw [exec, execKvcEnable, act_live hlive, if_neg (by simp [bit, Nat.testBit_zero, h])]
  rfl

/-! ### Request slots (R219) -/

variable {c : Nat} {d x : Bytes}

theorem State.kvcTake_queued (hx : x = patch (slice (s.kvQueue c).slot 0 64) 0x38 (slice d 0 8))
    (h : (s.kvQueue c).queue.length < 16) : s.kvcTake c d = { s with kvc := { s.kvc with
      queues := tset s.kvc.queues c { s.kvQueue c with slot := x, queue := (s.kvQueue c).queue ++ [x] } } } := by
  subst hx
  simp only [State.kvcTake, if_neg (Nat.not_le.mpr h)]
  rfl

theorem State.kvcTake_dropped (hx : x = patch (slice (s.kvQueue c).slot 0 64) 0x38 (slice d 0 8))
    (h : 16 ≤ (s.kvQueue c).queue.length) : s.kvcTake c d = { s with kvc := { s.kvc with
      queues := tset s.kvc.queues c
        { s.kvQueue c with slot := x, drops := min ((s.kvQueue c).drops + 1) 0xFFFF } } } := by
  subst hx
  simp only [State.kvcTake, ge_iff_le, if_pos h]
  rfl

/-! ### The walker's pins (R225) -/

theorem State.walkerPin_granted {k : Nat} (h : (s.basin n).walkerPin = none) (hk : s.kvFreePin = some k) :
    s.walkerPin n = (s.kvGrant k (s.basinConsist n) (some n)).modBasin n fun b =>
      { b with walkerPin := some k, walkerWaits := false } := by
  rw [State.walkerPin, if_neg (by simp [h]), hk]

/-- Settles O26: each record write, enable, request and grant by the conditions that it looks at. That VALID is rejected
while EN is clear (log entry 38), the lowest free pin (log entry 35) and the KVC's own accesses of its metadata (log
entry 92) are the model's. -/
theorem kvcRecordsAndQueues : Obligations.KvcRecordsAndQueues := by
  refine ⟨fun s n v hlive => ?_, fun s n v hlive => ?_, fun s v hlive => ?_, fun s c d x hlive hx => ?_,
    fun s hlive => ?_, fun s n k hlive hw hp hk => ?_⟩
  · rw [exec, execKvSpaceValid, act_live hlive]
    refine ⟨fun h => ?_, fun h hen hok => ?_, fun h hbad => ?_⟩
    · rw [State.kvSetValid_valid h]
    · rw [State.kvSetValid_accepted h hen hok]
    · rw [State.kvSetValid_rejected h hbad]
  · rw [exec, execKvSpaceInvalidate, act_live hlive]
    refine ⟨fun h => ?_, fun h hpin => ?_, fun h hfree => ?_⟩
    · rw [State.kvClearValid_unset h]
    · rw [State.kvClearValid_valid h, if_pos (by simpa using hpin)]
    · rw [State.kvClearValid_valid h, if_neg (by simpa using hfree)]
  · refine ⟨execKvcEnable_set hlive, fun h hval => ?_, fun h hnone => ?_⟩
    · rw [execKvcEnable_clear hlive h, if_pos (by simpa using hval)]
    · rw [execKvcEnable_clear hlive h, if_neg (by simpa using hnone)]
  · rw [exec, execKvcReqTake, act_live hlive]
    refine ⟨fun h => ?_, fun h => ?_⟩
    · rw [State.kvcTake_queued hx h]
    · rw [State.kvcTake_dropped hx h]
  · rw [exec, execPageReclaim, act_live hlive]
    rfl
  · rw [exec, execWalkerPinGrant, act_live hlive, if_pos hw, State.walkerPin_granted hp hk]
    rfl

end Sys2Proof.Machine
end

section
/-! Proofs of the family of attention and the KV cache: the requests that make, change and end sequences (O27). -/

namespace Sys2Proof.Machine

open Sys2Proof.Laws Sys2Proof.Safety

/-! ### Serving a request (R219) -/

section Serve

variable {s w : State} {op c : Nat} {r : Bytes} {f : State → Nat → Bytes → KvDone} {k : Instr} {d : KvDone}

/-- A served operation ends with its answer, or waits with its request at the head of the queue. -/
theorem State.kvServe_served (h : KvServes s op c r w) : s.kvServe op f =
    if (f w c r).waits then (f w c r).st.kvAdvanceEpoch.modKvc fun v =>
      { v with
        queues := (State.kvDrainN s.kvWaiting s).kvc.queues
        lastServed := (State.kvDrainN s.kvWaiting s).kvc.lastServed }
    else kvReply w c r (f w c r) := by
  obtain ⟨-, hen, hnext, rfl, hop, hpass, rfl⟩ := h
  simp only [State.kvServe, hen, hnext, hop, hpass, kvReply, ne_eq, not_true_eq_false, or_self, Bool.not_true,
    Bool.false_eq_true, if_false]

/-- A command that serves an operation answers what the operation comes to. -/
theorem exec_kvServed (h : KvServes s op c r w) (hk : exec k s = act s fun s => s.kvServe op f) (hd : f w c r = d)
    (hend : d.waits = false) : exec k s = .next (kvReply w c r d) := by
  rw [hk, act_live h.up, State.kvServe_served h, hd, if_neg (by simp [hend])]

/-- A command whose operation comes to a held access keeps its request at the head of the queue. -/
theorem exec_kvHeld (h : KvServes s op c r w) (hk : exec k s = act s fun s => s.kvServe op f) (hd : f w c r = d)
    (hwait : d.waits = true) : exec k s = .next (d.st.kvAdvanceEpoch.modKvc fun v =>
      { v with
        queues := (State.kvDrainN s.kvWaiting s).kvc.queues
        lastServed := (State.kvDrainN s.kvWaiting s).kvc.lastServed }) := by
  rw [hk, act_live h.up, State.kvServe_served h, hd, if_pos hwait]

end Serve

/-! ### CREATE and FORK (R220) -/

/-- The blocks that a CREATE matched: each page has one reference more, each node is matched now. -/
def State.kvTakePath (s : State) (path : List (Nat × KvNode)) : State :=
  path.foldl (fun s e =>
    (s.kvAddRef e.2.page).modKvc fun k =>
      { k with nodes := tmod {} k.nodes e.1 fun x => { x with matched := k.matchCount }, matchCount := k.matchCount + 1 }) s

/-- Taking a path changes the KVC only. -/
theorem State.kvTakePath_frame (path : List (Nat × KvNode)) : ∀ s : State,
    s.kvTakePath path = { s with kvc := (s.kvTakePath path).kvc } := by
  induction path with
  | nil => exact fun _ => rfl
  | cons e path ih => exact fun s => ih _

section Create

variable {s u : State} {c slot : Nat} {r bs : Bytes} {path : List (Nat × KvNode)}

theorem State.kvCreate_tooLong (h : 4096 < kvArg0 r) : s.kvCreate c r = { status := 6, st := s } := if_pos h

theorem State.kvCreate_noSlot (h : kvArg0 r ≤ 4096) (hs : s.kvFreeSlot (s.kvSpace (kvSp r)) = none) :
    s.kvCreate c r = { status := 5, st := s } := by
  simp only [State.kvCreate, gt_iff_lt, if_neg (Nat.not_lt.mpr h), hs]

theorem State.kvCreate_unreadable (h : kvArg0 r ≤ 4096) (hs : s.kvFreeSlot (s.kvSpace (kvSp r)) = some slot)
    (hf : s.fetchBytes (s.consistTag c) (kvArg1 r) (8 * kvArg0 r) = (u, .failed)) :
    s.kvCreate c r = { status := 0x0E, st := u } := by
  simp only [State.kvCreate, gt_iff_lt, if_neg (Nat.not_lt.mpr h), hs, hf]

theorem State.kvCreate_held (h : kvArg0 r ≤ 4096) (hs : s.kvFreeSlot (s.kvSpace (kvSp r)) = some slot)
    (hf : s.fetchBytes (s.consistTag c) (kvArg1 r) (8 * kvArg0 r) = (u, .waits)) :
    s.kvCreate c r = { waits := true, st := u } := by
  simp only [State.kvCreate, gt_iff_lt, if_neg (Nat.not_lt.mpr h), hs, hf]

/-- The sequence that a CREATE makes in a slot from the blocks that it matched. -/
def State.kvCreated (s : State) (slot space : Nat) (path : List (Nat × KvNode)) : State :=
  (s.kvTakePath path).modKvSeq slot fun x =>
    { x with
      life := .live, space := space, length := 64 * path.length, path := path.map (·.1)
      blocks := (List.range path.length).zip (path.map (·.2.page)) }

/-- With its list read, a CREATE fails only at the reference limit. -/
theorem State.kvCreate_read (h : kvArg0 r ≤ 4096) (hs : s.kvFreeSlot (s.kvSpace (kvSp r)) = some slot)
    (hf : s.fetchBytes (s.consistTag c) (kvArg1 r) (8 * kvArg0 r) = (u, .got bs))
    (hp : path = u.kvMatch (kvSp r) 0 ((List.range (kvArg0 r)).map fun i => le bs (8 * i) 8)) :
    s.kvCreate c r =
      if u.kvRefLimit (path.map (·.2.page)) then { status := 0x0B, st := u }
      else { seq := (u.kvCreated slot (kvSp r) path).kvHandleOf slot, count := path.length
             st := u.kvCreated slot (kvSp r) path } := by
  subst hp
  simp only [State.kvCreate, gt_iff_lt, if_neg (Nat.not_lt.mpr h), hs, hf]
  rfl

theorem State.kvCreated_seq (space : Nat) : (s.kvCreated slot space path).kvSeq slot =
    { (s.kvTakePath path).kvSeq slot with
      life := .live, space := space, length := 64 * path.length, path := path.map (·.1)
      blocks := (List.range path.length).zip (path.map (·.2.page)) } := State.modKvSeq_same _ _ _

theorem State.kvCreated_frame (space : Nat) : s.kvCreated slot space path =
    { s with kvc := (s.kvCreated slot space path).kvc } := by
  rw [State.kvCreated, State.kvTakePath_frame]
  rfl

theorem State.kvFork_noSlot (hs : s.kvFreeSlot (s.kvSpace (kvSp r)) = none) :
    s.kvFork c r = { status := 5, seq := kvHandle r, st := s } := by
  simp only [State.kvFork, hs]

/-- With a slot, a FORK fails only at the reference limit. -/
theorem State.kvFork_slot {q : KvSeq} {v : State} (hs : s.kvFreeSlot (s.kvSpace (kvSp r)) = some slot)
    (hq : q = s.kvSeq (kvHandle r % 65536))
    (hv : v = (q.blocks.foldl (fun s b => s.kvAddRef b.2) s).modKvSeq slot fun x => { q with reuse := x.reuse }) :
    s.kvFork c r =
      if s.kvRefLimit (q.blocks.map (·.2)) then { status := 0x0B, seq := kvHandle r, st := s }
      else { seq := v.kvHandleOf slot, st := v } := by
  subst hv hq
  simp only [State.kvFork, hs]

end Create

/-! ### APPEND (R220, R223, R224) -/

section Append

variable {s u x : State} {c need old : Nat} {r : Bytes} {q : KvSeq} {pages : List Nat}

theorem State.kvAppend_tooLong (h : 262144 < kvArg0 r) :
    s.kvAppend c r = { status := 6, seq := kvHandle r, st := s } := if_pos h

theorem State.kvAppend_badLength (h : kvArg0 r ≤ 262144) (hq : q = s.kvSeq (kvHandle r % 65536))
    (hl : kvArg0 r < q.length) : s.kvAppend c r = { status := 0x0D, seq := kvHandle r, st := s } := by
  subst hq
  rw [State.kvAppend, if_neg (Nat.not_lt.mpr h), if_pos hl]

/-- The last page of a sequence that an APPEND copies: one that is not full and is shared (R223). -/
def State.kvShared (s : State) (q : KvSeq) : Option Nat :=
  if q.length % 64 ≠ 0 && (s.kvPage (tget 0 q.blocks (q.length / 64))).refs > 1 then
    some (tget 0 q.blocks (q.length / 64))
  else none

theorem State.kvShared_none (h : q.length % 64 = 0 ∨ (s.kvPage (tget 0 q.blocks (q.length / 64))).refs ≤ 1) :
    s.kvShared q = none := if_neg (by simpa [Decidable.imp_iff_not_or] using h)

theorem State.kvShared_some (hl : q.length % 64 ≠ 0) (ho : old = tget 0 q.blocks (q.length / 64))
    (h : 1 < (s.kvPage old).refs) : s.kvShared q = some old := by
  subst ho
  exact if_pos (by simp [hl, h])

/-- The copy of a shared last page, where there is one. -/
def State.kvCopyShared (s : State) (p : KvSpace) (shared : Option Nat) (dst : Nat) : State × Fetch :=
  match shared with
  | some old => s.kvCopyPage p old dst
  | none => (s, .got [])

/-- What an APPEND comes to once its copy has ended in a state. -/
def State.kvAppendEnd (s : State) (r : Bytes) (shared : Option Nat) (pages : List Nat) : Fetch → KvDone
  | .failed => { status := 0x0E, seq := kvHandle r, st := s }
  | .waits => { seq := kvHandle r, waits := true, st := s }
  | .got _ => { seq := kvHandle r, st := s.kvExtend r (kvHandle r % 65536) shared pages }

section Paged

variable {shared : Option Nat} (h : kvArg0 r ≤ 262144) (hq : q = s.kvSeq (kvHandle r % 65536))
  (hl : q.length ≤ kvArg0 r) (hs : s.kvShared q = shared)
  (hn : need = (kvArg0 r + 63) / 64 - (q.length + 63) / 64 + b2n shared.isSome)
  (hu : u = s.kvFindPages (kvSp r) need) (hp : pages = (u.kvFreePages (u.kvSpace (kvSp r))).take need)

include h hq hl hs hn hu hp

/-- An APPEND within its bounds by the pages that it finds and by the copy of a shared last page. -/
theorem State.kvAppend_bounded : s.kvAppend c r =
    if pages.length < need then
      { status := 4, seq := kvHandle r
        st := u.modKvSpace (kvSp r) fun x => { x with noPages := min (x.noPages + 1) 0xFFFF } }
    else
      let w := u.kvCopyShared (u.kvSpace (kvSp r)) shared (pages.headD 0)
      w.1.kvAppendEnd r shared pages w.2 := by
  subst hp hu hn hs hq
  rw [State.kvAppend, if_neg (Nat.not_lt.mpr h), if_neg (Nat.not_lt.mpr hl)]
  rfl

theorem State.kvAppend_noPages (hlack : pages.length < need) : s.kvAppend c r =
    { status := 4, seq := kvHandle r
      st := u.modKvSpace (kvSp r) fun x => { x with noPages := min (x.noPages + 1) 0xFFFF } } :=
  (State.kvAppend_bounded h hq hl hs hn hu hp).trans (if_pos hlack)

theorem State.kvAppend_paged {ok : Fetch} (henough : need ≤ pages.length)
    (hcopy : u.kvCopyShared (u.kvSpace (kvSp r)) shared (pages.headD 0) = (x, ok)) :
    s.kvAppend c r = x.kvAppendEnd r shared pages ok := by
  rw [State.kvAppend_bounded h hq hl hs hn hu hp, if_neg (Nat.not_lt.mpr henough), hcopy]

end Paged

end Append

/-! ### TRUNCATE and FREE (R220, R222) -/

section Shorten

variable {s v : State} {c : Nat} {r : Bytes} {q : KvSeq}

theorem State.kvTruncate_badLength (hq : q = s.kvSeq (kvHandle r % 65536)) (h : q.length < kvArg0 r) :
    s.kvTruncate c r = { status := 0x0D, seq := kvHandle r, st := s } := by
  subst hq
  exact if_pos h

theorem State.kvTruncate_shortened (hq : q = s.kvSeq (kvHandle r % 65536)) (h : kvArg0 r ≤ q.length)
    (hv : v = ((q.blocks.filter fun b => b.1 ≥ (kvArg0 r + 63) / 64).foldl (fun s b => s.kvDropRef b.2) s).modKvSeq
      (kvHandle r % 65536) fun x =>
        { x with
          length := kvArg0 r
          blocks := x.blocks.filter fun b => b.1 < (kvArg0 r + 63) / 64
          path := x.path.take (kvArg0 r / 64) }) :
    s.kvTruncate c r = { seq := kvHandle r, st := v } := by
  subst hq hv
  rw [State.kvTruncate, if_neg (Nat.not_lt.mpr h)]

end Shorten

/-- Settles O27: each request by its checks in their order, then by what its list, its pages or its copy have come to. The
lowest free slot and page are the model's (log entry 35), and so are CREATE's TOO_LONG and REF_LIMIT, FORK's copy of
the path and TRUNCATE's cut of it (log entry 38). -/
theorem kvcSequenceRequests : Obligations.KvcSequenceRequests := by
  refine ⟨fun s w c r h => ⟨fun hn => ?_, fun hn hs => ?_, fun slot u hn hs => ⟨fun hf => ?_, fun hf d hd => ?_,
      fun bs path hf hp => ⟨fun hlim => ?_, fun hlim => ⟨u.kvCreated slot (kvSp r) path, ?_, ?_⟩⟩⟩⟩,
    fun s w c r h => ⟨fun hs => ?_, fun slot q hs hq => ⟨fun hlim => ?_, fun hlim => ⟨_, rfl, ?_⟩⟩⟩,
    fun s w c n r q h hn hq => ⟨fun hlong => ?_, fun hb hl => ?_, fun hb hl u need pages =>
      ⟨fun hc hneed hu hp => ⟨fun hlack => ⟨_, rfl, ?_⟩, fun henough => ?_⟩,
       fun old hpart hold hrefs hneed hu hp henough x ok hcopy => ⟨fun hok => ?_, fun bs hok => ?_⟩⟩⟩,
    fun s w c r q h hq => ⟨fun hl => ?_, fun hl => ⟨_, rfl, ?_⟩⟩,
    fun s w c r h => ⟨_, _, rfl, rfl, exec_kvServed h rfl rfl rfl⟩,
    fun s w c r h => exec_kvServed h rfl rfl rfl⟩
  · exact exec_kvServed h rfl (State.kvCreate_tooLong hn) rfl
  · exact exec_kvServed h rfl (State.kvCreate_noSlot hn hs) rfl
  · exact exec_kvServed h rfl (State.kvCreate_unreadable hn hs hf) rfl
  · subst hd
    exact exec_kvHeld h rfl (State.kvCreate_held hn hs hf) rfl
  · exact exec_kvServed h rfl ((State.kvCreate_read hn hs hf hp).trans (if_pos hlim)) rfl
  · exact exec_kvServed h rfl ((State.kvCreate_read hn hs hf hp).trans (if_neg (by simp [hlim]))) rfl
  · simp only [State.kvCreated_seq, true_and]
    exact State.kvCreated_frame _
  · exact exec_kvServed h rfl (State.kvFork_noSlot hs) rfl
  · exact exec_kvServed h rfl ((State.kvFork_slot hs hq rfl).trans (if_pos hlim)) rfl
  · exact exec_kvServed h rfl ((State.kvFork_slot hs hq rfl).trans (if_neg (by simp [hlim]))) rfl
  · subst hn
    exact exec_kvServed h rfl (State.kvAppend_tooLong hlong) rfl
  · subst hn
    exact exec_kvServed h rfl (State.kvAppend_badLength hb hq hl) rfl
  · subst hn
    exact exec_kvServed h rfl (State.kvAppend_noPages hb hq hl (State.kvShared_none hc) hneed hu hp hlack) rfl
  · subst hn
    exact exec_kvServed h rfl
      (State.kvAppend_paged hb hq hl (State.kvShared_none hc) hneed hu hp henough rfl) rfl
  · subst hn hok
    exact exec_kvServed h rfl
      (State.kvAppend_paged hb hq hl (State.kvShared_some hpart hold hrefs) hneed hu hp henough hcopy) rfl
  · subst hn hok
    exact exec_kvServed h rfl
      (State.kvAppend_paged hb hq hl (State.kvShared_some hpart hold hrefs) hneed hu hp henough hcopy) rfl
  · exact exec_kvServed h rfl (State.kvTruncate_badLength hq hl) rfl
  · exact exec_kvServed h rfl (State.kvTruncate_shortened hq hl rfl) rfl

end Sys2Proof.Machine
end

section
/-! Proofs of the family of attention and the KV cache: the requests of the tree and those of the Consists' pins (O28). -/

namespace Sys2Proof.Machine

open Sys2Proof.Laws Sys2Proof.Safety

theorem tfind_tset_same {α : Type} (k : Nat) (a : α) : ∀ t : Table α, tfind (tset t k a) k = some a
  | [] => by simp [tset, tfind]
  | (j, b) :: t => by
    unfold tset
    split
    · simp [tfind]
    · split
      · simp [tfind]
      · next hne => simp [tfind, Ne.symm hne, tfind_tset_same k a t]

/-! ### PUBLISH (R220, R224) -/

section Publish

variable {s u : State} {c space page slot k : Nat} {r : Bytes} {q : KvSeq}

/-- A page that a node comes to hold: one that no node held has one reference more and is published (R222). -/
def State.kvHold (s : State) (page : Nat) : State :=
  if s.kvHeld page then s else (s.kvAddRef page).modKvPage page fun x => { x with published := true }

theorem State.kvHold_held (h : s.kvHeld page = true) : s.kvHold page = s := if_pos h

theorem State.kvHold_page (h : s.kvHeld page = false) : (s.kvHold page).kvPage page =
    { s.kvPage page with life := .live, refs := (s.kvPage page).refs + 1, published := true } := by
  rw [State.kvHold, if_neg (by simp [h]), State.modKvPage_same, State.kvAddRef, State.modKvPage_same]

/-- To hold a page changes the KVC only. -/
theorem State.kvHold_frame : s.kvHold page = { s with kvc := (s.kvHold page).kvc } := by
  unfold State.kvHold
  split <;> rfl

/-- Of the KVC, to hold a page changes page records only. -/
theorem State.kvHold_kvc : (s.kvHold page).kvc = { s.kvc with pages := (s.kvHold page).kvc.pages } := by
  unfold State.kvHold
  split <;> rfl

/-- The node of a block of a sequence that a PUBLISH adds, not yet matched. -/
def kvBlockNode (r : Bytes) (q : KvSeq) (page : Nat) : KvNode :=
  { space := kvSp r, parent := q.path.getLastD 0, hash := kvArg1 r, page := page }

/-- The state with a block published: its page held, its node in the tree and at the end of its sequence's path. -/
def State.kvPublished (s : State) (slot k : Nat) (n : KvNode) : State :=
  ((s.kvHold n.page).modKvc fun v =>
    { v with nodes := tset v.nodes k { n with matched := v.matchCount }, matchCount := v.matchCount + 1 }).modKvSeq slot
      fun x => { x with path := x.path ++ [k] }

/-- The tree has no room for one node more of a space (R224). -/
def State.kvTreeFull (s : State) (space : Nat) : Bool :=
  (s.kvc.nodes.filter fun e => e.2.space == space).length ≥ (s.kvSpace space).treeQuota || s.kvc.nodes.length ≥ 1048576

theorem State.kvTreeFull_iff : s.kvTreeFull space = true ↔
    (s.kvSpace space).treeQuota ≤ (s.kvc.nodes.filter fun e => e.2.space == space).length ∨
      1048576 ≤ s.kvc.nodes.length := by
  simp [State.kvTreeFull]

/-! The checks of a PUBLISH, in their order. -/

theorem State.kvPublish_notFull (hq : q = s.kvSeq (kvHandle r % 65536)) (hb : q.length / 64 ≤ kvArg0 r) :
    s.kvPublish c r = { status := 7, seq := kvHandle r, st := s } := by
  subst hq
  exact if_pos hb

theorem State.kvPublish_notNext (hq : q = s.kvSeq (kvHandle r % 65536)) (hb : kvArg0 r < q.length / 64)
    (hn : kvArg0 r ≠ q.path.length) : s.kvPublish c r = { status := 8, seq := kvHandle r, st := s } := by
  subst hq
  rw [State.kvPublish, if_neg (Nat.not_le.mpr hb), if_pos hn]

theorem State.kvPublish_known (hq : q = s.kvSeq (kvHandle r % 65536)) (hb : kvArg0 r < q.length / 64)
    (hn : kvArg0 r = q.path.length) (hc : s.kvChild (kvSp r) (q.path.getLastD 0) (kvArg1 r) ≠ none) :
    s.kvPublish c r = { status := 9, seq := kvHandle r, st := s } := by
  subst hq
  rw [State.kvPublish, if_neg (Nat.not_le.mpr hb), if_neg (not_not_intro hn), if_pos (Option.isSome_iff_ne_none.mpr hc)]

theorem State.kvPublish_refLimit (hq : q = s.kvSeq (kvHandle r % 65536)) (hb : kvArg0 r < q.length / 64)
    (hn : kvArg0 r = q.path.length) (hc : s.kvChild (kvSp r) (q.path.getLastD 0) (kvArg1 r) = none)
    (hp : page = tget 0 q.blocks (kvArg0 r)) (hheld : s.kvHeld page = false) (hrefs : 65535 ≤ (s.kvPage page).refs) :
    s.kvPublish c r = { status := 0x0B, seq := kvHandle r, st := s } := by
  subst hp hq
  rw [State.kvPublish, if_neg (Nat.not_le.mpr hb), if_neg (not_not_intro hn),
    if_neg (by rw [hc]; exact Bool.false_ne_true), if_pos (by simp [hheld, State.kvRefLimit, hrefs])]

/-- A PUBLISH that passes its checks fails only where the tree has no room after an eviction at the quota. -/
theorem State.kvPublish_admitted (hq : q = s.kvSeq (kvHandle r % 65536)) (hb : kvArg0 r < q.length / 64)
    (hn : kvArg0 r = q.path.length) (hc : s.kvChild (kvSp r) (q.path.getLastD 0) (kvArg1 r) = none)
    (hp : page = tget 0 q.blocks (kvArg0 r)) (hfit : s.kvHeld page = true ∨ (s.kvPage page).refs < 65535)
    (hu : u = if s.kvTreeFull (kvSp r) then s.kvEvictPass 1 (kvSp r) else s) :
    s.kvPublish c r =
      if u.kvTreeFull (kvSp r) then { status := 0x0A, seq := kvHandle r, st := u }
      else
        { seq := kvHandle r
          st := u.kvPublished (kvHandle r % 65536) u.kvFreeNode (kvBlockNode r q page) } := by
  subst hu hp hq
  rw [State.kvPublish, if_neg (Nat.not_le.mpr hb), if_neg (not_not_intro hn),
    if_neg (by rw [hc]; exact Bool.false_ne_true), if_neg (by simpa [State.kvRefLimit, Decidable.imp_iff_not_or] using hfit)]
  rfl

theorem State.kvPublished_page_held {n : KvNode} (h : s.kvHeld n.page = true) :
    (s.kvPublished slot k n).kvPage n.page = s.kvPage n.page := by
  rw [State.kvPublished, State.kvHold_held h]
  rfl

theorem State.kvPublished_page_new {n : KvNode} (h : s.kvHeld n.page = false) :
    (s.kvPublished slot k n).kvPage n.page =
      { s.kvPage n.page with life := .live, refs := (s.kvPage n.page).refs + 1, published := true } :=
  State.kvHold_page h

/-- The node stands in the tree, matched now. -/
theorem State.kvPublished_node {n : KvNode} :
    tfind (s.kvPublished slot k n).kvc.nodes k = some { n with matched := s.kvc.matchCount } :=
  (tfind_tset_same _ _ _).trans (by rw [State.kvHold_kvc])

theorem State.kvPublished_path {n : KvNode} :
    ((s.kvPublished slot k n).kvSeq slot).path = (s.kvSeq slot).path ++ [k] := by
  have hseqs : (s.kvHold n.page).kvc.seqs = s.kvc.seqs := by rw [State.kvHold_kvc]
  rw [State.kvPublished, State.modKvSeq_same]
  exact congrArg (fun q => (tget {} q slot).path ++ [k]) hseqs

theorem State.kvPublished_frame {n : KvNode} : s.kvPublished slot k n = { s with kvc := (s.kvPublished slot k n).kvc } :=
  congrArg (fun t : State => { t with kvc := (s.kvPublished slot k n).kvc }) State.kvHold_frame

end Publish

/-! ### PIN and UNPIN (R225) -/

section Pin

variable {s : State} {c n : Nat} {r : Bytes}

theorem State.kvPin_full (h : s.kvFreePin = none) : s.kvPin c r = { status := 0x0C, st := s } := by
  unfold State.kvPin
  rw [h]

theorem State.kvPin_taken (h : s.kvFreePin = some n) : s.kvPin c r = { pin := n, st := s.kvGrant n c none } := by
  unfold State.kvPin
  rw [h]

theorem State.kvUnpin_own {p : KvPin} (h : tfind s.kvc.pins (kvArg0 r) = some p) (hc : p.consist = c)
    (hb : p.basin = none) : s.kvUnpin c r =
      { seq := kvHandle r, st := { s with kvc := { s.kvc with pins := tdel s.kvc.pins (kvArg0 r) } } } := by
  simp only [State.kvUnpin, h, hc, hb, beq_self_eq_true, Option.isNone_none, Bool.and_self, if_true]
  rfl

/-- A pin that is free, another Consist's or a walker's stays. -/
theorem State.kvUnpin_other (h : ∀ p, tfind s.kvc.pins (kvArg0 r) = some p → p.consist ≠ c ∨ p.basin ≠ none) :
    s.kvUnpin c r = { seq := kvHandle r, st := s } := by
  cases hp : tfind s.kvc.pins (kvArg0 r) with
  | none => simp [State.kvUnpin, hp]
  | some p =>
    have hother : (p.consist == c && p.basin.isNone) = false := by
      rcases h p hp with hc | hb
      · rw [beq_eq_false_iff_ne.mpr hc, Bool.false_and]
      · rw [Option.isNone_eq_false_iff.mpr (Option.isSome_iff_ne_none.mpr hb), Bool.and_false]
    simp [State.kvUnpin, hp, hother]

end Pin

/-- Settles O28: PUBLISH by its checks in their order and then by the room in the tree, PIN by the lowest free pin, UNPIN
by whose the pin is. PUBLISH's REF_LIMIT and its eviction of one node at the quota are the model's (log entry 38), and
so is the lowest free pin (log entry 35). -/
theorem kvcTreeAndPinRequests : Obligations.KvcTreeAndPinRequests := by
  refine ⟨fun s w c b page r q h hq hb hp => ?_, fun s w v c n r h he => ?_,
    fun s w c r h => ⟨fun hn => ?_, fun n hn => ⟨_, rfl, ?_⟩⟩,
    fun s w c r h => ⟨fun p hf hc hb => ⟨_, rfl, ?_⟩, fun hother => ?_⟩⟩
  · subst hb
    refine ⟨fun hb => ?_, fun hb hn => ?_, fun hb hn => ⟨fun hc => ?_, fun hc hheld hrefs => ?_,
      fun hc hfit u hu => ?_⟩⟩
    · exact exec_kvServed h rfl (State.kvPublish_notFull hq hb) rfl
    · exact exec_kvServed h rfl (State.kvPublish_notNext hq hb hn) rfl
    · exact exec_kvServed h rfl (State.kvPublish_known hq hb hn hc) rfl
    · exact exec_kvServed h rfl (State.kvPublish_refLimit hq hb hn hc hp hheld hrefs) rfl
    · have hpub := State.kvPublish_admitted (c := c) hq hb hn hc hp hfit
        (hu.trans (ite_congr (propext State.kvTreeFull_iff.symm) (fun _ => rfl) fun _ => rfl))
      refine ⟨fun hfull => ?_, fun hquota hroom => ⟨_, ?_,
        State.kvPublished_page_held (n := kvBlockNode r q page), fun hnew => ?_, State.kvPublished_node,
        State.kvPublished_path, State.kvPublished_frame⟩⟩
      · exact exec_kvServed h rfl (hpub.trans (if_pos (State.kvTreeFull_iff.mpr hfull))) rfl
      · have hroom : ¬u.kvTreeFull (kvSp r) = true := by
          rw [State.kvTreeFull_iff]
          omega
        exact exec_kvServed h rfl (hpub.trans (if_neg hroom)) rfl
      · have hrec := State.kvPublished_page_new (slot := kvHandle r % 65536) (k := u.kvFreeNode)
          (n := kvBlockNode r q page) hnew
        exact ⟨congrArg KvPage.published hrec, congrArg KvPage.life hrec, congrArg KvPage.refs hrec⟩
  · have hd : w.kvEvict c r = { count := n, st := v } := by rw [State.kvEvict, he]
    exact exec_kvServed h rfl hd rfl
  · exact exec_kvServed h rfl (State.kvPin_full hn) rfl
  · exact exec_kvServed h rfl (State.kvPin_taken hn) rfl
  · exact exec_kvServed h rfl (State.kvUnpin_own hf hc hb) rfl
  · exact exec_kvServed h rfl (State.kvUnpin_other hother) rfl

end Sys2Proof.Machine
end

section
/-! Proofs of the family of the Routesetter: the planner's rows, the end of a search and the reports of finished jobs
(O29). -/

namespace Sys2Proof.Safety

open Sys2Proof.Machine

theorem PlanSetsUp.live {s v : State} {i mode : Nat} {r : RtsRun} (h : PlanSetsUp s i mode r v) : s.live = true := by
  cases h with
  | taken j take _ => exact take.up
  | goesOn up _ _ _ _ => exact up

/-- A job that a row may take is not left to another row: it is of the row's mode, or has no mode. -/
theorem PlanTakes.notLeft {s v : State} {i mode : Nat} {j : RtsJob} (h : PlanTakes s i mode j v) :
    (j.desc.isSome && decide (j.mode ≤ 6) && j.mode != mode) = false := by
  rcases h.mode with (hnone | hbig) | hmode
  · rw [hnone, Option.isSome_none, Bool.false_and, Bool.false_and]
  · rw [decide_eq_false (Nat.not_le.mpr hbig), Bool.and_false, Bool.false_and]
  · rw [hmode, bne_self_eq_false, Bool.and_false]

end Sys2Proof.Safety

namespace Sys2Proof.Machine

open Sys2Proof.Laws Sys2Proof.Safety
open Sys2Proof.Config (RouteFound)

/-! ### A planner row's job and its setup (R243, R245, R258) -/

section PlanRow

variable {s u v : State} {i m mode code : Nat} {r q : RtsRun} {f : State → Nat → RtsRun → State}

/-- A row sets up the job that it takes, or that it goes on with. -/
theorem State.planStart_setsUp (h : PlanSetsUp s i mode r v) : s.planStart i mode m f = v.planSetUp i m r f := by
  cases h with
  | taken j take hr =>
    subst hr
    rw [State.planStart, take.idle, take.next, take.popped]
    exact if_neg (by simp only [take.free, take.notLeft, Bool.or_self, Bool.false_eq_true, not_false_eq_true])
  | goesOn _ hv hrun hphase hmode =>
    subst hv
    rw [State.planStart, hrun]
    exact if_pos (by simp only [hphase, hmode, decide_true, beq_self_eq_true, Bool.and_self])

theorem State.planSetUp_refused (hc : (v.rtsAt i).check r.job ≠ 0) :
    v.planSetUp i m r f = v.runFail i ((v.rtsAt i).check r.job) r := if_pos hc

variable (hc : (v.rtsAt i).check r.job = 0)

include hc

theorem State.planSetUp_failed (hx : v.rtsSetup i r = (u, .failed code)) :
    v.planSetUp i m r f = u.runFail i code r := by
  rw [State.planSetUp, if_neg (not_not_intro hc), hx]

theorem State.planSetUp_waits (hx : v.rtsSetup i r = (u, .waits)) : v.planSetUp i m r f = u := by
  rw [State.planSetUp, if_neg (not_not_intro hc), hx]

theorem State.planSetUp_ready (hx : v.rtsSetup i r = (u, .ready q)) :
    v.planSetUp i m r f = if m ≠ 0 then (u.rtsMemError i m).runFail i 9 q else f u i q := by
  rw [State.planSetUp, if_neg (not_not_intro hc), hx]

end PlanRow

/-! ### The end of a search (R244, R245, R252) -/

/-- A run whose search has ended: the world is unpinned, and PFLAGS says whether it yielded. -/
def RtsRun.searched (r : RtsRun) (yielded : Bool) : RtsRun :=
  { r with pinned := false, pflags := r.pflags + 16 * b2n yielded }

/-- The road map and the closed cells that a search leaves in the internal stores. -/
def Rts.keepFound (x : Rts) (found : RouteFound) : Rts :=
  { x with nodes := found.mapNodes.take (32 * storeNodes), closed := found.closed }

section SearchEnds

variable {s : State} {i n tries m : Nat} {r : RtsRun} {yielded : Bool} (hrun : (s.rtsAt i).run = some r)
  (hphase : r.phase = .search) (hlimit : le (r.job.desc.getD []) 8 4 = 0 ∨ n ≤ le (r.job.desc.getD []) 8 4)

include hrun hphase hlimit

/-- Within the iteration limit a memory error met ends the job, and without one its output follows. -/
theorem State.endSearch_eq {found : RouteFound}
    (hfound : found = routeSearch ((s.rtsAt i).input (r.searched yielded) r.searchBank n)) :
    s.endSearch i yielded n tries m =
      if m ≠ 0 then (s.rtsMemError i m).runFail i 9 (r.searched yielded)
      else (s.modRts i fun x => x.keepFound found).planOutput i (r.searched yielded) found n tries false := by
  have hgoes : (r.phase != .search || (le (r.job.desc.getD []) 8 4 != 0 && decide (n > le (r.job.desc.getD []) 8 4)))
      = false := by
    rcases hlimit with h0 | hn
    · simp only [hphase, h0, bne_self_eq_false, Bool.false_and, Bool.or_self]
    · simp only [hphase, bne_self_eq_false, decide_eq_false (Nat.not_lt.mpr hn), Bool.and_false, Bool.or_self]
  subst hfound
  rw [State.endSearch, hrun]
  exact if_neg (by rw [hgoes]; exact Bool.false_ne_true)

end SearchEnds

/-- A QM search yields to a queued SAFETY job: it is counted and the search ends. -/
theorem execYield_yields {s : State} {i n tries m : Nat} {r : RtsRun} (hlive : s.live = true)
    (hrun : (s.routeOffer.rtsAt i).run = some r) (hphase : r.phase = .search) (hqm : r.job.safety = false)
    (hwaits : ∃ j ∈ (s.routeOffer.rtsAt i).planQueue, j.safety = true) :
    exec (.yield i n tries m) s = .next
      ((s.routeOffer.modRts i fun x => { x with yields := sat16 x.yields }).endSearch i true n tries m) := by
  rw [exec, execYield, act_live hlive]
  simp only [hrun]
  rw [if_neg (by simp only [hqm, hphase, List.any_eq_true.mpr hwaits, bne_self_eq_false, Bool.not_true, Bool.or_self,
    Bool.false_eq_true, not_false_eq_true])]

/-! ### The reports of finished jobs (R245, R255, R257) -/

section Report

variable {s : State} {i ex : Nat}

theorem execRouteJobDone_loader {l : RtsLoad} (hlive : s.live = true) (hload : (s.rtsAt i).load = some l)
    (hdone : l.done = true) : exec (.routeJobDone i true ex) s =
      .next ((s.rtsReport l.job l.startNs l.status 0 0).modRts i fun x => { x with load := none }) := by
  rw [exec, execRouteJobDone, act_live hlive]
  simp only [hload, hdone, if_true]

theorem execRouteJobDone_planner {r : RtsRun} (hlive : s.live = true) (hrun : (s.rtsAt i).run = some r)
    (hphase : r.phase = .done) (hleft : r.left = 0) :
    exec (.routeJobDone i false ex) s = .next (s.runDone i r ex) := by
  rw [exec, execRouteJobDone, act_live hlive]
  simp only [hrun, hphase, hleft, and_self, if_true, Bool.false_eq_true, if_false]

/-- A planner's report within BUDGET writes TOTAL_US, reports, and counts by its status; the overrun counters stand. -/
theorem State.runDone_inBudget {r : RtsRun} : s.runDone i r 0 =
    ((if r.status = 0 then s.devWrite r.job.tag (rtsAddr (r.job.desc.getD []) 0x60 + 0x28)
        (leBytes 4 ((s.now - r.startNs) / 1000)) else s).rtsReport r.job r.startNs r.status r.planStatus
          r.pflags).modRts i fun x =>
        { x with
          run := none
          notFound := if r.status = 0 ∧ (r.planStatus = 1 ∨ r.planStatus = 2) then sat16 x.notFound else x.notFound
          degraded := if r.status = 0 ∧ r.planStatus = 3 then sat16 x.degraded else x.degraded } := by
  simp [State.runDone, b2n]

end Report

/-- Settles O29: each row by the job that it sets up and what its setup comes to, the end of a search by its iteration
limit and a memory error met, each report by the engine that makes it. The arithmetic of the search is the model's (log
entry 39), and so is the numeric order of the checks (log entry 40). -/
theorem routePlannerJobs : Obligations.RoutePlannerJobs := by
  refine ⟨fun s v i m mode r k f h hrow => ?_, fun s i n tries m r hlive hrun hphase hlimit => ?_,
    fun s u i n tries r hlive hu hrun hphase hqm hwaits hlimit => ⟨_, _, _, _, rfl, rfl, rfl, rfl, ?_⟩,
    fun s i ex l hlive hload hdone => ?_, fun s i r hlive hrun hphase hleft u hu => ?_⟩
  · have hk : exec k s = act s fun s => s.planStart i mode m f := by
      rcases hrow with ⟨rfl, rfl, rfl⟩ | ⟨rfl, rfl, rfl⟩ | ⟨rfl, rfl, rfl⟩ | ⟨rfl, rfl, rfl⟩ <;> rfl
    rw [hk, act_live h.live, State.planStart_setsUp h]
    refine ⟨fun hc => ?_, fun hc u x hx => ⟨fun c hfail => ?_, fun hwait => ?_,
      fun q hready => ⟨fun hm => ?_, fun hm => ?_⟩⟩⟩
    · rw [State.planSetUp_refused hc]
    · subst hfail
      rw [State.planSetUp_failed hc hx]
    · subst hwait
      rw [State.planSetUp_waits hc hx]
    · subst hready
      rw [State.planSetUp_ready hc hx, if_pos hm]
    · subst hready
      rw [State.planSetUp_ready hc hx, if_neg (not_not_intro hm)]
  · rw [exec, execSearchEnd, act_live hlive, State.endSearch_eq hrun hphase hlimit rfl]
    refine ⟨fun hm => ?_, fun hm f u hf hu => ?_⟩
    · rw [if_pos hm]
      rfl
    · subst hf hu
      rw [if_neg (not_not_intro hm)]
      rfl
  · subst hu
    have hcounted : ((s.routeOffer.modRts i fun x => { x with yields := sat16 x.yields }).rtsAt i).run = some r := by
      rw [State.modRts_same]
      exact hrun
    rw [execYield_yields hlive hrun hphase hqm hwaits, State.endSearch_eq hcounted hphase hlimit rfl,
      if_neg (not_not_intro rfl)]
    rfl
  · rw [execRouteJobDone_loader hlive hload hdone]
    rfl
  · subst hu
    rw [execRouteJobDone_planner hlive hrun hphase hleft, State.runDone_inBudget]
    rfl

end Sys2Proof.Machine
end

section
/-! Proofs of the family of the Routesetter: the loader's rows, the swap, the world's owner and the overrun clear
(O30). -/

namespace Sys2Proof.Safety

open Sys2Proof.Machine

theorem LoaderHas.live {s v : State} {i mode : Nat} {j : RtsJob} (h : LoaderHas s i mode j v) : s.live = true := by
  cases h with
  | taken take => exact take.up
  | goesOn _ up _ _ _ _ _ _ => exact up

end Sys2Proof.Safety

namespace Sys2Proof.Machine

open Sys2Proof.Laws Sys2Proof.Safety

/-! ### A loader row's job (R234, R239) -/

section LoadRow

variable {s v : State} {i m mode : Nat} {j : RtsJob} {f : State → Nat → RtsJob → State}

/-- A row checks the job that it takes or goes on with, waits where it must, and then carries the job out. -/
theorem State.loadStart_has (h : LoaderHas s i mode j v) : s.loadStart i mode m f =
    if (s.routeOffer.rtsAt i).check j ≠ 0 then v.loadFail i ((s.routeOffer.rtsAt i).check j) j
    else if mode = 4 && (s.routeOffer.rtsAt i).targetPinned then v.modRts i fun x => { x with bankWait := true }
    else if mode ≠ 4 && (s.routeOffer.rtsAt i).run.isSome then v
    else if m ≠ 0 then ((v.modRts i fun x => { x with bankWait := false }).rtsMemError i m).loadFail i 9 j
    else f (v.modRts i fun x => { x with bankWait := false }) i j := by
  cases h with
  | taken take =>
    have hhead : (s.routeOffer.rtsAt i).loadQueue.head?.filter (fun j => j.mode == mode) = some j := by
      rw [take.next, Option.filter_some, if_pos (beq_iff_eq.mpr take.mode)]
    rw [State.loadStart, take.popped]
    simp only [take.idle, hhead, Option.isSome_none, Bool.false_eq_true, if_false]
  | goesOn l _ hv hload hjob hmode hbuilt hdone =>
    subst hv hjob
    have hgoes : (l.built.isSome || l.done || l.job.mode != mode) = false := by
      rw [hbuilt, hdone, hmode, bne_self_eq_false, Option.isSome_none, Bool.or_self, Bool.or_self]
    rw [State.loadStart]
    simp only [hload, hgoes, Option.isSome_some, Bool.false_eq_true, if_false, if_true]

theorem State.loadStart_refused (h : LoaderHas s i mode j v) (hc : (s.routeOffer.rtsAt i).check j ≠ 0) :
    s.loadStart i mode m f = v.loadFail i ((s.routeOffer.rtsAt i).check j) j := by
  rw [State.loadStart_has h, if_pos hc]

theorem State.loadStart_pinned (h : LoaderHas s i 4 j v) (hc : (s.routeOffer.rtsAt i).check j = 0)
    (hp : (s.routeOffer.rtsAt i).targetPinned = true) :
    s.loadStart i 4 m f = v.modRts i fun x => { x with bankWait := true } := by
  rw [State.loadStart_has h, if_neg (not_not_intro hc), if_pos (by simp [hp])]

theorem State.loadStart_plannerRuns (h : LoaderHas s i mode j v) (hc : (s.routeOffer.rtsAt i).check j = 0)
    (hm : mode ≠ 4) (hrun : (s.routeOffer.rtsAt i).run ≠ none) : s.loadStart i mode m f = v := by
  rw [State.loadStart_has h, if_neg (not_not_intro hc), if_neg (by simp [hm]),
    if_pos (by simp [hm, Option.isSome_iff_ne_none.mpr hrun])]

/-- A job that need not wait fails on a memory error met, and is otherwise carried out. -/
theorem State.loadStart_carried (h : LoaderHas s i mode j v) (hc : (s.routeOffer.rtsAt i).check j = 0)
    (hfree : mode = 4 ∧ (s.routeOffer.rtsAt i).targetPinned = false ∨
      mode ≠ 4 ∧ (s.routeOffer.rtsAt i).run = none) : s.loadStart i mode m f =
    if m ≠ 0 then ((v.modRts i fun x => { x with bankWait := false }).rtsMemError i m).loadFail i 9 j
    else f (v.modRts i fun x => { x with bankWait := false }) i j := by
  rw [State.loadStart_has h, if_neg (not_not_intro hc)]
  rcases hfree with ⟨hm, hp⟩ | ⟨hm, hrun⟩
  · rw [if_neg (by simp [hp]), if_neg (by simp [hm])]
  · rw [if_neg (by simp [hm]), if_neg (by simp [hrun])]

end LoadRow

/-! ### The swap (R238) -/

/-- What a swap makes of a Routesetter whose loader has built the layer `b`. -/
def Rts.swapIn (x : Rts) (l : RtsLoad) (b : Bytes) : Rts :=
  let x := { x with epoch := wrapInc 32 x.epoch, load := some { l with built := none, done := true } }
  if l.job.mode = 4 then
    { x with
      banks := tset x.banks (1 - x.active) { prims := b, stamp := l.stamp }, active := 1 - x.active
      hier := tset x.hier (1 - x.active) (Config.broadPhase b)
      worldValid := !x.lostStatic, lostDynamic := false }
  else
    { x with
      statics := b, leaves := l.leaves, hier := tset x.hier 2 (Config.broadPhase b), triCache := []
      staticValid := true, lostStatic := false
      worldValid := x.worldValid || (x.lostStatic && !x.lostDynamic) }

section Swap

variable {s : State} {x : Rts} {i : Nat} {l : RtsLoad} {b : Bytes}

theorem State.commitSwap_built (hload : (s.rtsAt i).load = some l) (hbuilt : l.built = some b) :
    (s.commitSwap i).rtsAt i = (s.rtsAt i).swapIn l b := by
  rw [State.commitSwap, State.modRts_same]
  simp only [hload, hbuilt]
  rfl

theorem Rts.swapIn_epoch : (x.swapIn l b).epoch = (x.epoch + 1) % 2 ^ 32 := by
  unfold Rts.swapIn
  split <;> rfl

theorem Rts.swapIn_load : (x.swapIn l b).load = some { l with built := none, done := true } := by
  unfold Rts.swapIn
  split <;> rfl

/-- A dynamic layer becomes the active bank. -/
theorem Rts.swapIn_dynamic (hm : l.job.mode = 4) : (x.swapIn l b).active = 1 - x.active ∧
    tget {} (x.swapIn l b).banks (1 - x.active) = { prims := b, stamp := l.stamp } ∧
    (x.swapIn l b).worldValid = !x.lostStatic ∧ (x.swapIn l b).statics = x.statics := by
  rw [Rts.swapIn, if_pos hm]
  exact ⟨rfl, tget_tset_same _ _ _ _, rfl, rfl⟩

/-- A static layer replaces the statics. -/
theorem Rts.swapIn_static (hm : l.job.mode ≠ 4) : (x.swapIn l b).statics = b ∧ (x.swapIn l b).leaves = l.leaves ∧
    (x.swapIn l b).staticValid = true ∧ (x.swapIn l b).banks = x.banks ∧ (x.swapIn l b).active = x.active := by
  rw [Rts.swapIn, if_neg hm]
  exact ⟨rfl, rfl, rfl, rfl, rfl⟩

end Swap

/-! ### The world's owner and the overrun clear (R237, R254) -/

section Owner

variable {s : State} {i v : Nat}

/-- An idle Routesetter's stores are scrubbed and its owner is set. -/
theorem execWorldOwnerWrite_idle (hlive : s.live = true) (h : (s.rtsAt i).idle = true) :
    exec (.worldOwnerWrite i v) s = .next ((s.rtsScrub i).modRts i fun x =>
      { x with owner := fld v 0 12, noOwner := bit v 12 }) := by
  rw [exec, execWorldOwnerWrite, act_live hlive, if_pos h]

theorem execWorldOwnerWrite_busy (hlive : s.live = true) (h : (s.rtsAt i).idle = false) :
    exec (.worldOwnerWrite i v) s = .next (s.modRts i fun x => { x with ownerRejected := true }) := by
  rw [exec, execWorldOwnerWrite, act_live hlive, if_neg (by rw [h]; exact Bool.false_ne_true)]

end Owner

/-- Settles O30: each row by the conditions that it looks at, the swap by the layer built, the owner by whether the
Routesetter is idle. The numeric order of the checks is the model's (log entry 40). -/
theorem routeLoaderJobs : Obligations.RouteLoaderJobs := by
  refine ⟨fun s v i m mode j k f h hrow => ?_, fun s i l b hlive hload hbuilt => ?_,
    fun s i v hlive => ⟨fun hidle => ⟨_, execWorldOwnerWrite_idle hlive hidle, ?_, rfl⟩,
      execWorldOwnerWrite_busy hlive, ?_⟩⟩
  · have hk : exec k s = act s fun s => s.loadStart i mode m f := by
      rcases hrow with ⟨rfl, rfl, rfl⟩ | ⟨rfl, rfl, rfl⟩ | ⟨rfl, rfl, rfl⟩ <;> rfl
    rw [hk, act_live h.live]
    refine ⟨fun hc => ?_, fun hc hm hp => ?_, fun hc hm hrun => ?_,
      fun hc hfree => ⟨_, rfl, fun hm => ?_, fun hm => ?_⟩⟩
    · rw [State.loadStart_refused h hc]
    · subst hm
      rw [State.loadStart_pinned h hc hp]
    · rw [State.loadStart_plannerRuns h hc hm hrun]
    · rw [State.loadStart_carried h hc hfree, if_pos hm]
    · rw [State.loadStart_carried h hc hfree, if_neg (not_not_intro hm)]
  · refine ⟨s.commitSwap i, act_live hlive fun s => s.commitSwap i, ?_⟩
    rw [State.commitSwap_built hload hbuilt]
    exact ⟨Rts.swapIn_epoch, Rts.swapIn_load, Rts.swapIn_dynamic, Rts.swapIn_static, rfl,
      fun n hn => State.modRts_other _ _ _ _ hn⟩
  · rw [State.modRts_same, State.rtsScrub, State.modRts_same, fld, Nat.shiftRight_zero]
    rfl
  · exact act_live hlive _

end Sys2Proof.Machine
end

section
/-! Proofs of the family of the Interlocking: every command completes (O56). -/

namespace Sys2Proof.Safety

open Sys2Proof.Machine Sys2Proof.Laws

/-- From `s` to `t` the queue and the free values in use stand, and so do the first cause and the asserted safe state
(R290). -/
structure Stands (s t : State) : Prop where
  /-- The queue. -/
  pending : t.pending = s.pending
  /-- The free values. -/
  free : s.freeCtr ≤ t.freeCtr
  /-- The first cause. -/
  cause : s.ilk.safeCause ≠ 0 → t.ilk.safeCause = s.ilk.safeCause ∧ t.ilk.safeSub = s.ilk.safeSub ∧
    t.ilk.detectNs = s.ilk.detectNs
  /-- The asserted safe state. -/
  asserted : s.ilk.asserted = true → t.ilk.asserted = true

theorem Stands.refl (s : State) : Stands s s := ⟨rfl, Nat.le_refl _, fun _ => ⟨rfl, rfl, rfl⟩, id⟩

/-- Whatever every command keeps, stands; it does not speak of the pins. -/
theorem Stands.of_keeps {s t : State} (p : Pins) (h : Keeps { s with pins := p } t) : Stands s t :=
  ⟨h.pending, h.free, h.cause, h.stays⟩

/-- A released pin starts the boot ROM where the other is high too, and neither latches nor withdraws a cause. -/
theorem execResetRelease_stands (porst : Bool) (sel : Nat) (a b c d : Bool) (march : BootMarch) (s : State) :
    ∃ t, execResetRelease porst sel a b c d march s = .next t ∧ Stands s t := by
  cases hp : (if porst then s.pins.porstN else s.pins.resetN) with
  | true => exact ⟨s, if_pos hp, Stands.refl s⟩
  | false =>
    refine ⟨_, execResetRelease_eq _ _ _ _ _ _ _ _ hp, ?_⟩
    dsimp only
    split
    · exact Stands.of_keeps _ (State.runRom_keeps _ _ _ _ _ _ _ _ (Keeps.refl _))
    · exact Stands.of_keeps _ (Keeps.refl _)

/-- Driving SAFE_N changes its level and what the next read-back is worth. -/
theorem State.driveSafeN_stands (s : State) (level : Bool) : Stands s (s.driveSafeN level) := by
  unfold State.driveSafeN
  split
  · exact Stands.refl s
  · exact ⟨rfl, Nat.le_refl _, fun _ => ⟨rfl, rfl, rfl⟩, id⟩

theorem execSafeNRelease_stands (s : State) : ∃ t, exec .safeNRelease s = .next t ∧ Stands s t := by
  refine ⟨_, execSafeNRelease_eq s, ?_⟩
  split
  · obtain ⟨hq, hn, hc, ha⟩ := State.driveSafeN_stands s true
    exact ⟨hq, hn, hc, ha⟩
  · exact Stands.refl s

/-- A command that pulls no reset pin low answers a next state, and what stands, stands. -/
theorem exec_stands {c : Instr} (hp : c ≠ .porstNAssert) (hr : c ≠ .resetNAssert) (s : State) :
    ∃ t, exec c s = .next t ∧ Stands s t := by
  cases hb : breaks c with
  | false =>
    obtain ⟨t, ht, hk⟩ := exec_keeps c s (Keeps.refl s) hb
    exact ⟨t, ht, Stands.of_keeps s.pins hk⟩
  | true =>
    cases c <;> simp only [breaks, Bool.false_eq_true] at hb
    case porstNAssert => exact absurd rfl hp
    case resetNAssert => exact absurd rfl hr
    case resetRelease => exact execResetRelease_stands _ _ _ _ _ _ _ s
    case safeNRelease => exact execSafeNRelease_stands s

/-- RESET_N pulled low keeps the queue and the free values, whether or not PORST_N was low before. -/
theorem execResetNAssert_queue (s : State) :
    ∃ t, exec .resetNAssert s = .next t ∧ t.pending = s.pending ∧ s.freeCtr = t.freeCtr := by
  rw [exec, execResetNAssert]
  split <;> exact ⟨_, rfl, rfl, rfl⟩

/-- Settles O56: the reset pins keep the queue and the count, every other command what stands. That every command
completes and that a reset keeps the two are the model's choices (log entries 7 and 4). -/
theorem everyCommandCompletes : Obligations.EveryCommandCompletes := by
  intro c s
  by_cases hp : c = .porstNAssert
  · subst hp
    exact ⟨_, rfl, rfl, Nat.le_refl _, fun h => absurd rfl h⟩
  · by_cases hr : c = .resetNAssert
    · subst hr
      obtain ⟨t, ht, hq, hn⟩ := execResetNAssert_queue s
      exact ⟨t, ht, hq, Nat.le_of_eq hn, fun _ h => absurd rfl h⟩
    · obtain ⟨t, ht, hs⟩ := exec_stands hp hr s
      exact ⟨t, ht, hs.pending, hs.free, fun _ _ => ⟨hs.cause, hs.asserted⟩⟩

end Sys2Proof.Safety
end

section
/-! Proofs of the family of the Interlocking: the requests of the debug module (O53). -/

namespace Sys2Proof.Machine

/-- DEBUG loads its instruction in every state, and the harts answer while the device runs (R492). -/
theorem execDebug_eq (s : State) (h q : Nat) : exec (.debug h q) s = .next (if s.live
    then (s.tapLoad 0x1F).debugRequest h q
    else (s.tapLoad 0x1F).modTapPort fun p => { p with dmi := .unavailable }) := rfl

section Request

variable {s : State} {h q : Nat}

/-- A hart inside an enclave without DEBUG: a halt is held, any other request finds it unavailable (R387). -/
theorem State.debugRequest_enclave (he : (s.hart h).enclave ≠ 0)
    (hd : (s.enclave (s.hart h).enclave).debug = false) : s.debugRequest h q =
      if q = 0 then (s.modHart h fun x => { x with haltHeld := true }).modTapPort fun p => { p with dmi := .held }
      else s.modTapPort fun p => { p with dmi := .unavailable } :=
  if_pos (by simp [he, hd])

/-- Any other hart answers by its world's enables, of which reads and trace take either (R387). -/
theorem State.debugRequest_outside (he : (s.hart h).enclave = 0 ∨ (s.enclave (s.hart h).enclave).debug = true) :
    s.debugRequest h q =
      if bit s.slc.dbgInv (s.debugWorld h) = true ∨ (q = 3 ∧ bit s.slc.dbgNonInv (s.debugWorld h) = true)
      then s.debugAct h q else s.modTapPort fun p => { p with dmi := .unavailable } := by
  rw [State.debugRequest, if_neg (by rcases he with he | he <;> simp [he])]
  simp only [Bool.or_eq_true, Bool.and_eq_true, beq_iff_eq]

end Request

/-- What an invasive request breaks: of an Interlocking core its lock-step, of a real-time hart that of its pair (R264). -/
def State.debugBreaks (s : State) (h : Nat) : State :=
  if 20 ≤ h then s.breakLockstep else if 16 ≤ h then s.breakPair ((h - 16) % 2) else s

section Act

variable {s u : State} (hu : u = s.modTapPort fun p => { p with dmi := .done }) (h : Nat)
include hu

theorem State.debugAct_halt : s.debugAct h 0 = (u.modHart h fun x => { x with debugHalted := true }).debugBreaks h := by
  rw [hu]
  rfl

theorem State.debugAct_step : s.debugAct h 1 = u.debugBreaks h := by
  rw [hu]
  rfl

theorem State.debugAct_write : s.debugAct h 2 = u.debugBreaks h := by
  rw [hu]
  rfl

theorem State.debugAct_resume : s.debugAct h 4 = u.modHart h fun x => { x with debugHalted := false } := by
  rw [hu]
  rfl

/-- A read answers with the next free value. -/
theorem State.debugAct_read : ∃ v, s.debugAct h 3 =
    { u with freeCtr := s.freeCtr + 1, tapPort := { u.tapPort with out := (64, v) } } :=
  ⟨(Config.freeWord s.freeCtr 0).toNat + 2 ^ 32 * (Config.freeWord s.freeCtr 1).toNat, by rw [hu]; rfl⟩

end Act

section Breaks

variable (s : State) {h : Nat}

theorem State.debugBreaks_core (hh : 20 ≤ h) : s.debugBreaks h = s.breakLockstep := if_pos hh

theorem State.debugBreaks_realTime (hl : 16 ≤ h) (hh : h < 20) : s.debugBreaks h = s.breakPair ((h - 16) % 2) := by
  rw [State.debugBreaks, if_neg (by omega), if_pos hl]

theorem State.debugBreaks_application (hh : h < 16) : s.debugBreaks h = s := by
  rw [State.debugBreaks, if_neg (by omega), if_neg (by omega)]

end Breaks

/-- Settles O53: a request by where the hart stands and what its world's enables allow, its effect by the hart's kind.
Which requests there are and the answers inside an enclave are the model's reading (log entry 60). -/
theorem debugRequests : Obligations.DebugRequests := by
  refine ⟨fun s t h q ht => ⟨fun hl => ?_, fun hl he hd => ?_, fun hl he => ?_⟩,
    fun s u h hu => ⟨fun hh => ?_, fun hl hh => ?_, fun hh => ?_, State.debugAct_resume hu h,
      State.debugAct_read hu h⟩⟩
  · rw [execDebug_eq, if_neg (by simp [hl]), ht]
  · have hr : exec (.debug h q) s = .next (t.debugRequest h q) := by rw [execDebug_eq, if_pos hl, ht]
    have hq : t.debugRequest h q = _ := State.debugRequest_enclave (by rw [ht]; exact he) (by rw [ht]; exact hd)
    exact ⟨fun h0 => by rw [hr, hq, if_pos h0], fun h0 => by rw [hr, hq, if_neg h0]⟩
  · have hr : exec (.debug h q) s = .next (t.debugRequest h q) := by rw [execDebug_eq, if_pos hl, ht]
    have hq : t.debugRequest h q = if bit s.slc.dbgInv (s.debugWorld h) = true ∨
        (q = 3 ∧ bit s.slc.dbgNonInv (s.debugWorld h) = true) then t.debugAct h q
        else t.modTapPort fun p => { p with dmi := .unavailable } := by
      subst ht
      exact State.debugRequest_outside he
    refine ⟨fun hi hn => ?_, fun ha => by rw [hr, hq, if_pos ha]⟩
    rw [hr, hq, if_neg]
    rintro (h1 | ⟨h3, h1⟩)
    · simp [hi] at h1
    · exact hn.elim (absurd h3) (by simp [h1])
  · simp only [State.debugAct_halt hu, State.debugAct_step hu, State.debugAct_write hu,
      State.debugBreaks_application _ hh, and_self]
  · simp only [State.debugAct_halt hu, State.debugAct_step hu, State.debugAct_write hu,
      State.debugBreaks_realTime _ hl hh, and_self]
  · simp only [State.debugAct_halt hu, State.debugAct_step hu, State.debugAct_write hu,
      State.debugBreaks_core _ hh, and_self]

end Sys2Proof.Machine
end

section
/-! Proofs of the family of the Interlocking: the supervisor's commands to the island (O48). -/

namespace Sys2Proof.Machine

open Sys2Proof.Safety

/-! ### Status, heartbeat and identity (R454, R461) -/

/-- The first byte of a response is its RSTATUS (R450). -/
theorem State.respond_status (s : State) (cmd : SupFrame) (d : Bytes) :
    (s.respond cmd 0 d).sup.response.head? = some 0 := rfl

/-- A STATUS_READ that is answered OK clears ALERT_PENDING. -/
theorem execStatusRead_heard {s : State} {cmd : SupFrame} (h : Heard s 0x01 cmd) (hb : bare cmd = true)
    (ha : cmd.addr = 0) {t : State}
    (ht : t = s.respond cmd 0 (if s.ilk.asserted then s.safeFrame else s.normalFrame)) :
    exec (.statusRead cmd) s = .next { t with ilk := { t.ilk with alertPending := false } } := by
  rw [exec, execStatusRead, act_live h.up]
  dsimp only
  rw [State.command_heard h rfl (by simp [hb, ha]), ht]
  exact congrArg _ (if_pos (by rw [h.answers]; exact beq_iff_eq.mpr (s.respond_status cmd _)))

theorem execHeartbeat_heard {s : State} {cmd : SupFrame} (h : Heard s 0x02 cmd) (hl : cmd.length = 4)
    (hp : cmd.payload.length = 4) {n : Nat} (hn : n = (s.sup.hbCount + 1) % 2 ^ 32) :
    exec (.heartbeat cmd) s = .next ((s.modSup fun x => { x with hbCount := n }).respond cmd 0
      (leBytes 4 (crc32c (cmd.payload ++ leBytes 4 n)) ++ leBytes 4 n ++ leBytes 4 s.ilk.frame
        ++ leBytes 1 (pack [(0, ilkStateCode s.boot.ilkState), (3, b2n s.latched), (4, b2n s.ilk.lockstep)])
        ++ zeros 3)) := by
  rw [exec, execHeartbeat, act_live h.up, State.command_heard h rfl (by simp [hl, hp]), hn]
  rfl

theorem execIdentityRead_heard {s : State} {cmd : SupFrame} (h : Heard s 0x03 cmd) (hb : bare cmd = true)
    (hi : s.boot.identityReadable = true) : exec (.identityRead cmd) s =
      .next (s.respond cmd 0 (slice s.identity 0 48 ++ slice Config.pufPublicKey 0 97)) := by
  rw [exec, execIdentityRead, act_live h.up, State.command_heard h hi hb]
  rfl

/-! ### COUNTER_CLEAR (R459) -/

/-- A field of all ones clears its counter. -/
theorem onesClear_eq (c v lo w : Nat) : onesClear c v lo w = if v / 2 ^ lo % 2 ^ w = 2 ^ w - 1 then 0 else c := by
  rw [onesClear, fld, Nat.shiftRight_eq_div_pow]

section Clear

variable {s : State} {cmd : SupFrame} {v : Nat} (h : Heard s 0x21 cmd) (hl : cmd.length = 8)
  (hp : cmd.payload.length = 8) (hv : v = leNat cmd.payload)
include h hl hp hv

/-- A register that ADDR names takes the value and is answered OK. -/
theorem execCounterClear_some {t : State} (ht : s.counterClear cmd.addr v = some t) :
    exec (.counterClear cmd) s = .next (t.respond cmd 0 []) := by
  rw [exec, execCounterClear, act_live h.up, State.command_heard h rfl (by simp [hl, hp])]
  dsimp only
  rw [← hv, ht]
  rfl

/-- An ADDR that names none is answered RESERVED_ENCODING. -/
theorem execCounterClear_none (ht : s.counterClear cmd.addr v = none) :
    exec (.counterClear cmd) s = .next (s.respond cmd 2 []) := by
  rw [exec, execCounterClear, act_live h.up, State.command_heard h rfl (by simp [hl, hp])]
  dsimp only
  rw [← hv, ht]
  rfl

end Clear

section Named

variable {s : State} {a v : Nat} (ha : ctlBase ≤ a)
include ha

/-- The tap, rule and agreement counts of the Interlocking. -/
theorem State.counterClear_fails (ho : a - ctlBase = 0x1028) : s.counterClear a v = some { s with ilk := { s.ilk with
    tapFailsExpress := onesClear s.ilk.tapFailsExpress v 0 16, tapFailsQm := onesClear s.ilk.tapFailsQm v 16 16
    ruleFails := onesClear s.ilk.ruleFails v 32 16, agreeForced := onesClear s.ilk.agreeForced v 48 16 } } := by
  rw [State.counterClear]
  dsimp only
  rw [ho, if_neg (Nat.not_lt.mpr ha), if_pos rfl]

/-- The count of golden failures. -/
theorem State.counterClear_golden (ho : a - ctlBase = 0x1038) : s.counterClear a v = some { s with ilk := { s.ilk with
    goldenFails := onesClear s.ilk.goldenFails v 8 8 } } := by
  rw [State.counterClear]
  dsimp only
  rw [ho, if_neg (Nat.not_lt.mpr ha), if_neg (by decide), if_pos rfl]

/-- The greatest age of the class shown. -/
theorem State.counterClear_maxAge (ho : a - ctlBase = 0x2018) : s.counterClear a v =
    some (s.modHdw (s.classShown 0) fun x => { x with maxAge := onesClear x.maxAge v 0 32 }) := by
  rw [State.counterClear, ho, if_neg (Nat.not_lt.mpr ha)]
  iterate 4 rw [if_neg (by decide)]
  rw [if_pos rfl]

end Named

/-- Outside the blocks of the island no register is named. -/
theorem State.counterClear_outside (s : State) {a : Nat} (v : Nat) (ha : a < ctlBase ∨ ctlBase + 0x4000 ≤ a) :
    s.counterClear a v = none := by
  rw [State.counterClear]
  rcases ha with ha | ha
  · exact if_pos ha
  · iterate 10 rw [if_neg (by omega)]

/-! ### TIME_SET (R319, R458) -/

/-- A frame is heard at whatever instant it comes. -/
theorem heard_reach {s : State} {op : Nat} {cmd : SupFrame} (h : Heard s op cmd) (i : Nat) :
    Heard (s.reach i) op cmd := by
  obtain ⟨hup, hans, hcrc, hsound⟩ := h
  unfold State.reach
  split
  · exact ⟨hup, hans, hcrc, hsound⟩
  · exact ⟨hup, hans, hcrc, hsound⟩

section TimeSet

variable {s r : State} {cmd : SupFrame} {i ns src v : Nat} (h : Heard s 0x22 cmd) (hl : cmd.length = 16)
  (hp : cmd.payload.length = 16) (hr : r = s.reach i) (hns : ns = le cmd.payload 8 4)
  (hsrc : src = byteAt cmd.payload 12) (hv : v = le cmd.payload 0 8 * 1000000000 + ns)
include h hl hp hr hns hsrc hv

/-- A TIME_SET frame that is heard: its payload is judged, then the mode of the time, and then its source. -/
theorem execTimeSet_heard : exec (.timeSet cmd i) s = .next (
    if 1000000000 ≤ ns ∨ 16 < src ∨ zeroAt cmd.payload 13 3 = false then r.respond cmd 2 []
    else if r.timeMode ≠ 2 ∨ r.tmt.stepped = true then r.respond cmd 8 []
    else if src = 0 then (r.timeSet v r.now).respond cmd 0 []
    else (r.modTmt fun t => { t with
      armedSet := some { src := src, valueNs := v, lapseNs := r.now + 2000000000 } }).respond cmd 0 []) := by
  rw [exec, execTimeSet, act_live h.up, hv, hns, hsrc, hr]
  dsimp only
  rw [State.command_heard (heard_reach h i) rfl (by simp [hl, hp])]
  simp only [Bool.not_eq_true']
  split
  · rfl
  · split
    · rfl
    · split <;> rfl

end TimeSet

/-! ### TRANSACTION_ABORT (R453) -/

theorem execTransactionAbort_live {s : State} (hlive : s.live = true) : exec .transactionAbort s =
    .next (if s.supAnswers then s.modSup fun x => { x with aborts := min (x.aborts + 1) 0xFFFF, response := [] }
      else s) := by
  rw [exec, execTransactionAbort, act_live hlive]
  rfl

/-- Settles O48: each command by the equation of its frame, TIME_SET in the order of its checks. The safe-state frame from
the assertion on is the model's choice (log entry 42), and so is that order (log entry 73). -/
theorem supervisorIslandCommands : Obligations.SupervisorIslandCommands := by
  refine ⟨fun s cmd h hb ha => ⟨_, rfl, execStatusRead_heard h hb ha rfl⟩,
    fun s cmd n h hl hp hn => execHeartbeat_heard h hl hp hn,
    fun s cmd h hb hi => execIdentityRead_heard h hb hi,
    fun s cmd v o h hl hp hv ha ho => ⟨fun h1 => ?_, fun h1 => ?_, fun h1 => ?_, fun hn => ?_⟩,
    fun s a v => s.counterClear_outside v,
    fun s r cmd i ns src v h hl hp hr hns hsrc hv => ⟨fun hbad => ?_, fun hn hs hz => ⟨fun hm => ?_, fun hm hst h0 => ?_,
      fun hm hst h0 => ?_⟩⟩,
    fun s hlive => ⟨fun ha => ?_, fun ha => ?_⟩⟩
  · rw [execCounterClear_some h hl hp hv (State.counterClear_fails ha (ho ▸ h1))]
    simp only [onesClear_eq, Nat.reducePow, Nat.reduceSub, Nat.div_one]
  · rw [execCounterClear_some h hl hp hv (State.counterClear_golden ha (ho ▸ h1))]
    simp only [onesClear_eq, Nat.reducePow, Nat.reduceSub]
  · rw [execCounterClear_some h hl hp hv (State.counterClear_maxAge ha (ho ▸ h1))]
    simp only [onesClear_eq, Nat.reducePow, Nat.reduceSub, Nat.div_one]
  · exact execCounterClear_none h hl hp hv hn
  · rw [execTimeSet_heard h hl hp hr hns hsrc hv, if_pos hbad]
  · rw [execTimeSet_heard h hl hp hr hns hsrc hv, if_neg (by simp [hz]; omega), if_pos hm]
  · rw [execTimeSet_heard h hl hp hr hns hsrc hv, if_neg (by simp [hz]; omega), if_neg (by simp [hm, hst]), if_pos h0]
  · rw [execTimeSet_heard h hl hp hr hns hsrc hv, if_neg (by simp [hz]; omega), if_neg (by simp [hm, hst]), if_neg h0]
  · rw [execTransactionAbort_live hlive, ha]
    rfl
  · rw [execTransactionAbort_live hlive, if_pos ha]

end Sys2Proof.Machine
end

section
/-! Proofs of the family of the Interlocking: the result path (O32). -/

namespace Sys2Proof.Machine

open Sys2Proof.Laws

/-! ### Hand-over and the head of a lane (R269, R288) -/

theorem execResultHandover_none {s : State} (hlive : s.live = true) (h : s.ilk.toHand = []) :
    exec .resultHandover s = .next s := by
  simp only [exec, execResultHandover, act_live hlive, h]

/-- The oldest hand-over enters the lane of its class, which may be full. -/
theorem execResultHandover_cons {s : State} (hlive : s.live = true) {h : ResultHandover} {r : List ResultHandover}
    (hh : s.ilk.toHand = h :: r) : exec .resultHandover s = .next (
      if s.classKnown h.headwayClass && !(s.classSafety h.headwayClass) then
        if s.ilk.laneQm.length ≥ 256 then s
        else { s with ilk := { s.ilk with toHand := r, laneQm := s.ilk.laneQm ++ [h] } }
      else if s.ilk.laneSafety.length ≥ 256 then s
      else { s with ilk := { s.ilk with toHand := r, laneSafety := s.ilk.laneSafety ++ [h] } }) := by
  simp only [exec, execResultHandover, act_live hlive, hh]

/-- Slices 2 to 7 hold the SAFETY lane, slice 7 both (R288). -/
theorem State.laneHeld_of_testing {s : State} {lane : Bool} {k : Nat} (ht : s.ilk.testing = some k)
    (hk : k = 7 ∨ lane = true ∧ 2 ≤ k ∧ k ≤ 7) : s.laneHeld lane = true := by
  simpa [State.laneHeld, ht, and_assoc] using hk

section Lane

variable {s : State} (hlive : s.live = true) {lane : Bool} (err : Bool)
include hlive

theorem execResultRelease_held (hh : s.laneHeld lane = true) : exec (.resultRelease lane err) s = .next s := by
  rw [exec, execResultRelease, act_live hlive, if_pos hh]

theorem execResultRelease_empty (hl : (if lane then s.ilk.laneSafety else s.ilk.laneQm) = []) :
    exec (.resultRelease lane err) s = .next s := by
  cases hh : s.laneHeld lane with
  | true => exact execResultRelease_held hlive err hh
  | false =>
    rw [exec, execResultRelease, act_live hlive, if_neg (by simp [hh])]
    cases lane with
    | true => simp only [if_true] at hl ⊢; rw [hl]
    | false => simp only [Bool.false_eq_true, if_false] at hl ⊢; rw [hl]

/-- The oldest hand-over of a lane leaves it and is judged. -/
theorem execResultRelease_head (hh : s.laneHeld lane = false) {h : ResultHandover} {r : List ResultHandover}
    (hl : (if lane then s.ilk.laneSafety else s.ilk.laneQm) = h :: r) {u : State}
    (hu : u = (if lane then { s with ilk := { s.ilk with laneSafety := r } }
      else { s with ilk := { s.ilk with laneQm := r } })) :
    exec (.resultRelease lane err) s = .next (u.judgeHandover h err) := by
  rw [hu, exec, execResultRelease, act_live hlive, if_neg (by simp [hh])]
  cases lane with
  | true => simp only [if_true] at hl ⊢; rw [hl]
  | false => simp only [Bool.false_eq_true, if_false] at hl ⊢; rw [hl]

end Lane

/-! ### Which judgement a hand-over meets (R266 to R269) -/

theorem State.judgeHandover_golden (s : State) {h : ResultHandover} (hc : h.headwayClass = 0) (hr : h.ring = 15)
    (err : Bool) : s.judgeHandover h err = s.judgeGolden h err := if_pos ⟨hc, hr⟩

section Judged

variable {s : State} {h : ResultHandover} (hg : h.headwayClass ≠ 0 ∨ h.ring ≠ 15) (err : Bool)
include hg

/-- A pointer off a line: counted and acknowledged, and nothing written. -/
theorem State.judgeHandover_badPtr (hp : h.resultPtr % 64 ≠ 0) : s.judgeHandover h err =
    State.finishHanded { s with ilk := { s.ilk with badPtr := min (s.ilk.badPtr + 1) 0xFFFF } } h.slot h.consist
      h.generation := by
  rw [State.judgeHandover, if_neg (by omega), if_pos hp]
  rfl

variable (hp : h.resultPtr % 64 = 0)
include hp

theorem State.judgeHandover_qm (hk : s.classKnown h.headwayClass = true) (hs : s.classSafety h.headwayClass = false) :
    s.judgeHandover h err = s.judgeQm h := by
  rw [State.judgeHandover, if_neg (by omega), if_neg (by omega), if_pos (by simp [hk, hs])]

theorem State.judgeHandover_unknown (hk : s.classKnown h.headwayClass = false) :
    s.judgeHandover h err = s.judgeInvalidClass h := by
  rw [State.judgeHandover, if_neg (by omega), if_neg (by omega), if_neg (by simp [hk]), if_pos (by simp [hk])]

theorem State.judgeHandover_safety (hk : s.classKnown h.headwayClass = true) (hs : s.classSafety h.headwayClass = true) :
    s.judgeHandover h err = s.judgeSafety h err := by
  rw [State.judgeHandover, if_neg (by omega), if_neg (by omega), if_neg (by simp [hs]), if_neg (by simp [hk])]

end Judged

/-! ### The golden judgement (R286) -/

section Golden

variable {s t : State} {err : Bool} (h : ResultHandover)

theorem State.judgeGolden_waits (hq : (t, none) = s.goldenOutputs err) : s.judgeGolden h err = t.laneBack h := by
  rw [State.judgeGolden, ← hq]

theorem State.judgeGolden_done {ok : Bool} (hq : (t, some ok) = s.goldenOutputs err) :
    s.judgeGolden h err = t.judgeGoldenDone h ok := by
  rw [State.judgeGolden, ← hq]

variable {n : Nat} (hn : n = t.ilk.goldenTerrace) {v : State}
include hn

/-- A pass lifts the Terrace's quarantine and goes on to the next Terrace. -/
theorem State.judgeGoldenDone_pass (hf : t.terraceFails n = t.ilk.goldenSnap) (hs : h.status = 0)
    (hm : h.marked = false) (hv : v = { t with ilk := { t.ilk with
      goldenPending := false, goldenDeferrals := 0, goldenPasses := (t.ilk.goldenPasses + 1) % 2 ^ 16
      quarantine := setFld t.ilk.quarantine n 1 0, goldenTerrace := t.nextTerrace n } }) :
    t.judgeGoldenDone h true = (v.startupNext n).finishHanded h.slot h.consist h.generation := by
  subst hn hv
  rw [State.judgeGoldenDone]
  dsimp only
  rw [if_pos (by simp [hf, hs, hm])]
  rfl

/-- Anything else is a failure: the Terrace is quarantined, the frame marked and an alert raised. -/
theorem State.judgeGoldenDone_fail {ok : Bool}
    (hf : ok = false ∨ t.terraceFails n ≠ t.ilk.goldenSnap ∨ h.status ≠ 0 ∨ h.marked = true)
    (hv : v = { t with ilk := { t.ilk with
      goldenPending := false, goldenDeferrals := 0, goldenFails := min (t.ilk.goldenFails + 1) 255
      quarantine := setFld t.ilk.quarantine n 1 1 } }) :
    t.judgeGoldenDone h ok = State.finishHanded ((v.markFrame v.ilk.goldenFrame 0).alert 3 0 0
      (v.markFrame v.ilk.goldenFrame 0).ilk.lastFailBasin 0xFFFF 0 (v.markFrame v.ilk.goldenFrame 0).ilk.goldenFrame)
      h.slot h.consist h.generation := by
  subst hn hv
  rw [State.judgeGoldenDone]
  dsimp only
  rw [if_neg (by rcases hf with hf | hf | hf | hf <;> simp [hf])]
  rfl

end Golden

/-! ### QM results, and classes that are unknown or not the ring's (R266, R268, R269) -/

theorem State.judgeQm_header (s : State) (h : ResultHandover) : ∃ v : Verdicts,
    s.judgeQm h = s.issueHeader h v false false ∧ v.validity = 0x20 ∧ v.cause = 0 ∧ v.rule = 0xFFFF ∧ v.crc = 0 :=
  ⟨_, rfl, rfl, rfl, rfl, rfl⟩

/-- CLASS_INVALID is the first check (R268): the record names it whatever fails after it. -/
theorem firstFailed_classInvalid (l : List Failed) :
    firstFailed ({ cause := 0x16 } :: l) = some { cause := 0x16 } := rfl

theorem State.baseValidity_classInvalid (s : State) (l : List Failed) (d : Bool) :
    s.baseValidity ({ cause := 0x16 } :: l) d = 0x11 := if_pos rfl

theorem State.validity_classInvalid (s : State) (l : List Failed) (d : Bool) :
    s.validity ({ cause := 0x16 } :: l) d = if s.latched then 0x16 else if s.ilkSplit then 0x15 else 0x11 := by
  rw [State.validity, State.baseValidity_classInvalid]

/-- A failed check of a result that is not flagged raises RESULT_FAIL alone (R289). -/
theorem State.recordAlerts_failed (s : State) (cause cls rule seq frame : Nat) :
    s.recordAlerts 0x11 cause cls rule seq frame false =
      s.alert 1 cause cls s.ilk.lastFailBasin rule seq frame := rfl

/-- A result of an unknown class: its header says so, and an alert follows. -/
theorem State.judgeInvalidClass_header (s : State) (h : ResultHandover) : ∃ (v : Verdicts) (w : State),
    (w = s.issueHeader h v true false ∧ s.judgeInvalidClass h = w.recordAlerts 0x11 0x16 (h.headwayClass % 256) 0xFFFF
      (w.hdw h.headwayClass).seq (w.frameAt h.originNs) false) ∧
    v.validity = (if s.latched then 0x16 else if s.ilkSplit then 0x15 else 0x11) ∧ v.cause = 0x16 ∧ v.crc = 0 :=
  ⟨_, _, ⟨rfl, rfl⟩, s.validity_classInvalid [] false, rfl, rfl⟩

theorem State.classRingOk_false {s : State} {h : ResultHandover}
    (hr : 16 ≤ h.ring ∨ bit (s.classField h.headwayClass 6 2) h.ring = false) : s.classRingOk h = false := by
  rcases hr with hr | hr
  · simp [State.classRingOk, Nat.not_lt.mpr hr]
  · simp [State.classRingOk, hr]

/-- A ring that may not use the class: every check runs, CLASS_INVALID decides, and the record carries no CRC. -/
theorem State.judgePayload_classInvalid (x : State) (h : ResultHandover) (snap : Capture) (p : Option Bytes) :
    ∃ (v : Verdicts) (w : State) (closes flagged : Bool) (f : Nat),
      x.judgePayload h false snap p = (w.issueHeader h v true closes).recordAlerts 0x11 0x16 h.headwayClass v.rule
        ((w.issueHeader h v true closes).hdw h.headwayClass).seq f flagged ∧
      v.validity = (if w.latched then 0x16 else if w.ilkSplit then 0x15 else 0x11) ∧ v.cause = 0x16 ∧ v.crc = 0 := by
  unfold State.judgePayload
  simp only [Bool.false_eq_true, if_false, List.cons_append, List.nil_append,
    State.baseValidity_classInvalid, State.validity_classInvalid, firstFailed_classInvalid]
  cases p with
  | none => exact ⟨_, _, _, _, _, rfl, rfl, rfl, rfl⟩
  | some p => exact ⟨_, _, _, _, _, rfl, rfl, rfl, rfl⟩

/-! ### A result whose every check passes (R268) -/

/-- While a read of the payload is held the hand-over waits; else it is judged with the capture of its origin. -/
theorem State.judgeSafety_read {s t : State} {h : ResultHandover} {err : Bool} {f : Fetch}
    (hq : (t, f) = s.readPayload h (s.classField h.headwayClass 0x0C 4) err) : s.judgeSafety h err =
      if f = .waits then t.laneBack h
      else t.judgePayload h (s.classRingOk h)
        ((s.matchCapture h.headwayClass h.originNs).getD (s.captureNow h.headwayClass h.originNs)) f.bytes := by
  rw [State.judgeSafety, ← hq]

section Passes

variable (s : State) (d : Bool)

theorem State.baseValidity_nil : s.baseValidity [] d =
    if s.boot.phase ≠ .safe ∨ s.ilk.debugBroken = true then 0x14 else if d then 0xA6 else 0xA5 := by
  simp [State.baseValidity]

/-- VALIDITY of a record with no failing check: the first of the marks that applies (R268). -/
theorem State.validity_nil : s.validity [] d = if s.latched then 0x16 else if s.ilkSplit then 0x15
    else if s.boot.phase ≠ .safe ∨ s.ilk.debugBroken = true then 0x14 else if d then 0xA6 else 0xA5 := by
  rw [State.validity, State.baseValidity_nil]

/-- Its CAUSE is that of the mark. -/
theorem State.markCause_validity_nil : s.markCause (s.validity [] d) = if s.latched then 0x14
    else if s.ilkSplit then 0x13 else if s.boot.phase ≠ .safe then 0x11 else if s.ilk.debugBroken then 0x12 else 0 := by
  rw [State.validity_nil]
  by_cases hl : s.latched
  · simp [State.markCause, hl]
  by_cases hs : s.ilkSplit
  · simp [State.markCause, hl, hs]
  by_cases hp : s.boot.phase = .safe
  · cases hb : s.ilk.debugBroken <;> cases d <;> simp [State.markCause, hl, hs, hp]
  · simp [State.markCause, hl, hs, hp]

/-- It raises no alert of a failure (R289). -/
theorem State.recordAlerts_passed (t : State) (cause cls rule seq frame : Nat) (flagged : Bool) :
    t.recordAlerts (s.baseValidity [] d) cause cls rule seq frame flagged =
      if flagged then t.alert 7 cause cls t.ilk.lastFailBasin rule seq frame else t := by
  have hb : s.baseValidity [] d = 0x14 ∨ s.baseValidity [] d = 0xA6 ∨ s.baseValidity [] d = 0xA5 := by
    rw [State.baseValidity_nil]
    split
    · exact .inl rfl
    · cases d
      · exact .inr (.inr rfl)
      · exact .inr (.inl rfl)
  rcases hb with hb | hb | hb <;> rw [hb] <;> rfl

end Passes

/-- PLAN_STATUS flags a record of a class with a PLAN rule (R289). -/
theorem planFlagged_iff (b : Bool) (n : Nat) :
    (b && (n == 1 || n == 2 || n == 3)) = true ↔ b = true ∧ 1 ≤ n ∧ n ≤ 3 := by
  simp only [Bool.and_eq_true, Bool.or_eq_true, beq_iff_eq]
  exact and_congr_right fun _ => by omega

/-- No check fails: the header carries the mark, and the histories take the record (R268, R280, R289). -/
theorem State.judgePayload_passes {t w : State} {h : ResultHandover} {snap : Capture} {p set : Bytes} {deg : Bool}
    (hset : set = t.ruleSet h.originNs)
    (hrules : t.failingRules set p h.headwayClass h.originNs h snap = [])
    (hw : (w, 0) = State.headwayJudge { t with ilk := { t.ilk with ruleFails := satAdd 16 t.ilk.ruleFails 0 } }
      h.headwayClass h.originNs)
    (hm : h.marked = false) (hmiss : missingClass h.status = false) (hfail : failureClass h.status = false)
    (hquar : w.quarantined (tapMask set h.headwayClass) = false)
    (hdeg : deg = (w.classPlan h.headwayClass && ((classRules set h.headwayClass).any fun x => ruleKind x == 5)
      && bit (le p 6 2) 1)) :
    ∃ (v : Verdicts) (x y : State), x = w.issueHeader h v true true ∧
      y = (if ((classRules set h.headwayClass).any fun x => ruleKind x == 5) = true ∧ 1 ≤ h.planStatus ∧ h.planStatus ≤ 3
        then x.alert 7 v.cause h.headwayClass x.ilk.lastFailBasin 0xFFFF (x.hdw h.headwayClass).seq (w.frameAt h.originNs)
        else x) ∧
      t.judgePayload h true snap (some p) = y.commitRecord p h.headwayClass h.originNs ∧
      v.validity = w.validity [] deg ∧ v.cause = w.markCause (w.validity [] deg) ∧ v.rule = 0xFFFF ∧
      v.crc = crc32c p := by
  unfold State.judgePayload
  simp only [← hset, hrules, List.length_nil, ← hw, hm, hmiss, hfail, hquar, Bool.or_false,
    Bool.false_eq_true, if_true, if_false, List.append_nil, Option.getD_some, ← hdeg, State.recordAlerts_passed,
    planFlagged_iff]
  exact ⟨_, _, _, rfl, rfl, rfl, rfl, rfl, rfl, rfl⟩

/-! ### The header and its acknowledgement (R269) -/

theorem State.hdw_modHdw_same (s : State) (c : Nat) (f : HdwClass → HdwClass) : (s.modHdw c f).hdw c = f (s.hdw c) :=
  tget_tmod_same _ _ _ _

theorem State.hdw_of_classes {s t : State} (h : t.ilk.classes = s.ilk.classes) (c : Nat) : t.hdw c = s.hdw c := by
  rw [State.hdw, State.hdw, h]

/-- What a header that is not denied does to its class (R266, R272). -/
def HdwClass.released (x : HdwClass) (closes : Bool) (origin age : Nat) : HdwClass :=
  let x := if closes then x.note origin .closed else x
  { x with seq := wrapInc 32 x.seq, maxAge := max x.maxAge age }

theorem HdwClass.released_seq (x : HdwClass) (closes : Bool) (origin age : Nat) :
    (x.released closes origin age).seq = (x.seq + 1) % 2 ^ 32 := by
  cases closes <;> rfl

section Header

variable {s t : State} {h : ResultHandover} {v : Verdicts} (ht : t = s.sendHeader h v) (safety closes : Bool)
include ht

/-- A denied header changes nothing further. -/
theorem State.issueHeader_denied (he : t.resp.kind = .error) : s.issueHeader h v safety closes = t := by
  rw [State.issueHeader, ← ht]
  exact if_pos (by simp [State.refused, he])

/-- One that is not denied releases its class. -/
theorem State.issueHeader_classes (he : t.resp.kind ≠ .error) : (s.issueHeader h v safety closes).ilk.classes =
    (t.modHdw h.headwayClass fun x => x.released closes h.originNs (ageUnits t.now h.originNs)).ilk.classes := by
  rw [State.issueHeader, ← ht]
  dsimp only
  rw [if_neg (by simp [State.refused, he])]
  cases safety <;> rfl

/-- So the class's SEQ advances (R266). -/
theorem State.issueHeader_seq (he : t.resp.kind ≠ .error) :
    ((s.issueHeader h v safety closes).hdw h.headwayClass).seq = ((t.hdw h.headwayClass).seq + 1) % 2 ^ 32 := by
  rw [State.hdw_of_classes (State.issueHeader_classes ht safety closes he), State.hdw_modHdw_same,
    HdwClass.released_seq]

end Header

theorem execResultHeaderAck_none {s : State} (hlive : s.live = true) (h : s.ilk.headers = []) :
    exec .resultHeaderAck s = .next s := by
  simp only [exec, execResultHeaderAck, act_live hlive, h]

theorem execResultHeaderAck_cons {s : State} (hlive : s.live = true) {w : HeaderWrite} {r : List HeaderWrite}
    (h : s.ilk.headers = w :: r) : exec .resultHeaderAck s = .next (if w.waiting then s
      else State.finishHanded { s with ilk := { s.ilk with headers := r } } w.slot w.consist w.generation) := by
  simp only [exec, execResultHeaderAck, act_live hlive, h]

/-- An acknowledgement of the Consist's present generation completes the node (R137). -/
theorem State.finishHanded_present {s : State} {slot c g : Nat} (h : c = 0 ∨ (s.consist c).generation = g) :
    s.finishHanded slot c g = (s.finishNode slot).settle := by
  rw [State.finishHanded, if_neg]
  rcases h with h | h <;> simp [h]

/-- One of an old generation is counted (R142, R177). -/
theorem State.finishHanded_old {s : State} {slot c g : Nat} (hc : c ≠ 0) (h : (s.consist c).generation ≠ g) :
    s.finishHanded slot c g = { s with sbx := { s.sbx with genDiscards := min (s.sbx.genDiscards + 1) 0xFFFF } } := by
  rw [State.finishHanded, if_pos (by simp [hc, h])]
  rfl

/-! ### Expectations (R272) -/

/-- The expectation that HEADWAY_EXPIRE looks for is past its deadline. -/
theorem State.inTime_not (s : State) (c : Nat) (e : Capture) :
    (!(s.inTime c e.stamp)) = decide (s.now > e.stamp + 64 * s.classDeadline c) := by
  simp only [State.inTime, gt_iff_lt, ← Nat.not_le, decide_not]

theorem execHeadwayExpire_none {s : State} (hlive : s.live = true) {c : Nat}
    (h : ∀ x ∈ (s.hdw c).opened, s.now ≤ x.stamp + 64 * s.classDeadline c) : exec (.headwayExpire c) s = .next s := by
  have hf : ((s.hdw c).opened.find? fun x => s.now > x.stamp + 64 * s.classDeadline c) = none :=
    List.find?_eq_none.mpr fun x hx => by simpa using h x hx
  simp only [exec, execHeadwayExpire, act_live hlive, State.inTime_not, hf]

/-- The expectation is closed as expired, the class reacts, and an alert is raised. -/
theorem execHeadwayExpire_some {s v w : State} (hlive : s.live = true) {c : Nat} {e : Capture}
    (h : ((s.hdw c).opened.find? fun x => s.now > x.stamp + 64 * s.classDeadline c) = some e)
    (hv : v = s.modHdw c fun x => { x.note e.stamp .expired with expired := min (x.expired + 1) 0xFFFF })
    (hw : w = v.react (v.classField c 5 1) (v.frameAt e.stamp) c 4 c true) :
    exec (.headwayExpire c) s = .next (w.alert 2 0 c w.ilk.lastFailBasin 0xFFFF 0 (v.frameAt e.stamp)) := by
  simp only [exec, execHeadwayExpire, act_live hlive, State.inTime_not, h]
  rw [hw, hv]
  rfl

/-- Settles O32: a lane by its head, the head by the judgement that its class and ring give it, a header by its one write,
an acknowledgement by the generation, an expectation by its deadline. -/
theorem resultPath : Obligations.ResultPath := by
  refine ⟨fun s h r hlive => ⟨execResultHandover_none hlive, fun hh => ⟨fun hc => ?_, fun hc => ?_⟩⟩,
    fun s lane err k hlive => ⟨fun ht hk => execResultRelease_held hlive err (State.laneHeld_of_testing ht hk),
      execResultRelease_empty hlive err⟩,
    fun s u lane err h r hlive hheld hl hu => ?_,
    fun s u t w h r err p set deg hlive hheld hl hu hp hk hs hr hb hset hq hrules hw hm hmiss hfail hquar hdeg => ?_,
    fun s t h v safety closes ht => ⟨State.issueHeader_denied ht safety closes, State.issueHeader_seq ht safety closes⟩,
    fun s w r hlive => ⟨execResultHeaderAck_none hlive, fun h hw => ?_, fun h hw => ⟨_, rfl, fun hg => ?_, fun hc hg => ?_⟩⟩,
    fun s v w c e hlive => ⟨execHeadwayExpire_none hlive, execHeadwayExpire_some hlive⟩⟩
  · rw [execResultHandover_cons hlive hh, if_pos (by simp [hc])]
  · rw [execResultHandover_cons hlive hh, if_neg (by rcases hc with hc | hc <;> simp [hc])]
  · have hrel := execResultRelease_head hlive err hheld hl hu
    rw [hrel]
    refine ⟨fun hc hring t n hn => ?_, fun hg => ⟨fun hp => ⟨_, rfl, ?_⟩, fun t f hp hk hs hq => ?_, fun hp hk hs => ?_,
      State.classRingOk_false, fun x snap p => ?_, fun hp hk => ?_⟩⟩
    · rw [State.judgeHandover_golden u hc hring]
      refine ⟨fun hq => ?_, fun hq hf hs hm => ⟨_, rfl, ?_⟩, fun ok hq hf => ⟨_, rfl, ?_⟩⟩
      · rw [State.judgeGolden_waits h hq]
      · rw [State.judgeGolden_done h hq, State.judgeGoldenDone_pass h hn hf hs hm rfl]
      · rw [State.judgeGolden_done h hq, State.judgeGoldenDone_fail h hn hf rfl]
    · rw [State.judgeHandover_badPtr hg err hp]
    · rw [State.judgeHandover_safety hg err hp hk hs, State.judgeSafety_read hq]
    · obtain ⟨v, hqm, hval, hcause, hrule, hcrc⟩ := u.judgeQm_header h
      exact ⟨v, hval, hcause, hrule, hcrc, by rw [State.judgeHandover_qm hg err hp hk hs, hqm]⟩
    · obtain ⟨v, w, closes, flagged, f, hres, hval, hcause, hcrc⟩ := x.judgePayload_classInvalid h snap p
      exact ⟨v, w, closes, flagged, f, hval, hcause, hcrc, hres⟩
    · obtain ⟨v, w, ⟨hw, hres⟩, hval, hcause, hcrc⟩ := u.judgeInvalidClass_header h
      exact ⟨v, w, hval, hcause, hcrc, hw, by rw [State.judgeHandover_unknown hg err hp hk, hres,
        State.recordAlerts_failed]⟩
  · have hg : h.headwayClass ≠ 0 ∨ h.ring ≠ 15 := .inl fun h0 => by simp [State.classKnown, h0] at hk
    have hring : u.classRingOk h = true := by simp [State.classRingOk, hk, hr, hb]
    obtain ⟨v, x, y, hx, hy, hres, hval, hcause, hrule, hcrc⟩ :=
      State.judgePayload_passes hset hrules hw hm hmiss hfail hquar hdeg
    refine ⟨v, x, y, hval.trans (w.validity_nil deg), hcause.trans (w.markCause_validity_nil deg), hrule, hcrc, hx, hy, ?_⟩
    rw [execResultRelease_head (lane := true) hlive err hheld hl hu, State.judgeHandover_safety hg err hp hk hs,
      State.judgeSafety_read hq, if_neg (by simp), hring]
    exact congrArg _ hres
  · rw [execResultHeaderAck_cons hlive h, if_pos hw]
  · rw [execResultHeaderAck_cons hlive h, if_neg (by simp [hw]), State.finishHanded_present hg]
  · rw [execResultHeaderAck_cons hlive h, if_neg (by simp [hw]), State.finishHanded_old hc hg]

end Sys2Proof.Machine
end

section
/-! Proofs of the family of the Timetable: the time counter's discipline and its validity (O14). -/

namespace Sys2Proof.Machine

/-! ### The counter and validity (R314, R318) -/

/-- A latched cause leaves the Timetable alone. -/
theorem State.latch_tmt (s : State) (cause sub : Nat) : (s.latch cause sub).tmt = s.tmt := by
  unfold State.latch
  split <;> rfl

/-- Time that has come to an instant changes NOW alone. -/
theorem State.reach_now (s : State) (i : Nat) : s.reach i =
    { s with tmt := { s.tmt with nowNs := (s.reach i).now } } := by
  unfold State.reach
  split <;> rfl

theorem State.withdrawTime_tmt (s : State) :
    s.withdrawTime.tmt = { s.tmt with valid := false, lost := s.tmt.valid || s.tmt.lost } := by
  unfold State.withdrawTime
  cases hv : s.tmt.valid with
  | true => exact State.latch_tmt _ _ _
  | false => rw [if_neg (by simp), Bool.false_or, ← hv]

/-- A granted validity withdrawn at an instant: beside NOW and the validity only the latch changes, with TIME_LOST
(R318). -/
theorem State.withdrawTime_reached {s : State} {i : Nat} (hv : s.tmt.valid = true) (hc : s.latched = false) :
    ∃ t, (s.reach i).withdrawTime = t ∧ t.tmt.valid = false ∧ t.tmt.lost = true ∧ t.ilk.safeCause = 0x0B ∧
      t = { s with tmt := { s.tmt with nowNs := t.now, valid := false, lost := true }, ilk := t.ilk } := by
  rw [s.reach_now i]
  obtain ⟨k, hw, hcause, -⟩ := State.withdrawTime_first
    (s := { s with tmt := { s.tmt with nowNs := (s.reach i).now } }) hc
  rw [hv, Bool.true_or] at hw
  exact ⟨_, hw, rfl, rfl, hcause hv, rfl⟩

theorem State.grantTime_granted {s : State} (hl : s.tmt.lost = false) (hf : s.tmt.froze = false) :
    s.grantTime = s.modTmt fun t => { t with valid := true } :=
  if_neg (by simp [hl, hf])

/-- A grant of validity changes VALID alone. -/
theorem State.grantTime_tmt (s : State) : ∃ v, s.grantTime.tmt = { s.tmt with valid := v } := by
  unfold State.grantTime
  split
  · exact ⟨s.tmt.valid, rfl⟩
  · exact ⟨true, rfl⟩

/-! ### An accepted Sync (R317) -/

theorem clampRate_bounds (v : Int) : -rateLimit ≤ clampRate v ∧ clampRate v ≤ rateLimit := by
  simp only [clampRate, rateLimit]
  omega

/-- The servo's rate stays within 500 ppm (R314). -/
theorem servo_bounds (integ off dt : Int) (free : Nat) :
    -rateLimit ≤ (servo integ off dt free).2 ∧ (servo integ off dt free).2 ≤ rateLimit := by
  unfold servo
  split <;> exact clampRate_bounds _

/-- How many accepted Syncs in a row, this one counted, had an offset above LOST_OFFSET_NS (R318). -/
def State.syncRun (s : State) (off : Int) : Nat :=
  if off.natAbs > s.lostOffset then min (s.tmt.lostRun + 1) 4 else 0

/-- RATE and integ as the servo sets them; a division by 0 draws a free value (R317). -/
def State.syncServo (s : State) (off : Int) : State :=
  let dt := match s.tmt.lastSync with | some l => (s.now : Int) - l | none => 0
  let r := servo s.tmt.integ off dt s.freeCtr
  (if dt = 0 then s.draw.2 else s).modTmt fun t => { t with integ := r.1, rate := r.2 }

/-- How the counter follows an accepted Sync: the first one steps it, a later one goes to the servo, and grants validity
where its offset is small enough (R317, R318). -/
def State.syncFollow (s : State) (off : Int) : State :=
  if !s.tmt.stepped then (s.stepTime (-off)).grantTime
  else if off.natAbs ≤ (s.syncServo off).lostOffset then (s.syncServo off).grantTime else s.syncServo off

/-- What is recorded of an accepted Sync (R317, R318, R320). -/
def State.syncNote (s : State) (off : Int) : State := s.modTmt fun t => { t with
  offset := satOff off, syncAccepted := (t.syncAccepted + 1) % 2 ^ 16, holdover := false
  lastSync := some t.nowNs, lostRun := s.syncRun off % 4 }

/-- An accepted Sync is followed and recorded, and the fourth large offset in a row withdraws validity (R317, R318). -/
theorem State.syncApply_eq (s : State) (off : Int) : s.syncApply off =
    if (s.syncFollow off).syncRun off = 4 then ((s.syncFollow off).syncNote off).withdrawTime
    else (s.syncFollow off).syncNote off := rfl

/-- The servo leaves NOW in place and keeps RATE within 500 ppm (R314, R317). -/
theorem State.syncServo_tmt (s : State) (off : Int) : (s.syncServo off).now = s.now ∧
    -rateLimit ≤ (s.syncServo off).tmt.rate ∧ (s.syncServo off).tmt.rate ≤ rateLimit := by
  unfold State.syncServo
  generalize (match s.tmt.lastSync with | some l => (s.now : Int) - l | none => 0) = dt
  obtain ⟨hlo, hhi⟩ := servo_bounds s.tmt.integ off dt s.freeCtr
  refine ⟨?_, hlo, hhi⟩
  dsimp only
  split <;> rfl

theorem State.syncFollow_later {s : State} (h : s.tmt.stepped = true) (off : Int) : (s.syncFollow off).now = s.now ∧
    -rateLimit ≤ (s.syncFollow off).tmt.rate ∧ (s.syncFollow off).tmt.rate ≤ rateLimit := by
  have hs := s.syncServo_tmt off
  rw [State.syncFollow, if_neg (by simp [h])]
  split
  · obtain ⟨v, hv⟩ := (s.syncServo off).grantTime_tmt
    rw [State.now, hv]
    exact hs
  · exact hs

/-- The first Sync with validity grantable and fewer than three large offsets before it only steps and grants. -/
theorem State.syncApply_first {s : State} (off : Int) (hs : s.tmt.stepped = false) (hl : s.tmt.lost = false)
    (hf : s.tmt.froze = false) (hr : s.tmt.lostRun < 3) : s.syncApply off =
      ((s.stepTime (-off)).modTmt fun t => { t with valid := true }).syncNote off := by
  have hg : s.syncFollow off = (s.stepTime (-off)).modTmt fun t => { t with valid := true } :=
    (if_pos (by simp [hs])).trans (State.grantTime_granted hl hf)
  have hrun : (s.syncFollow off).syncRun off ≠ 4 := by
    have hkeep : (s.syncFollow off).tmt.lostRun = s.tmt.lostRun := by rw [hg]; rfl
    rw [State.syncRun, hkeep]
    split <;> omega
  rw [State.syncApply_eq, if_neg hrun, hg]

/-- A later Sync leaves NOW in place, keeps RATE within 500 ppm and ends a holdover. -/
theorem State.syncApply_later {s : State} (off : Int) (hs : s.tmt.stepped = true) :
    (s.syncApply off).now = s.now ∧ -rateLimit ≤ (s.syncApply off).tmt.rate ∧
    (s.syncApply off).tmt.rate ≤ rateLimit ∧ (s.syncApply off).tmt.holdover = false ∧
    (s.syncApply off).tmt.lastSync = some (s.now : Int) := by
  obtain ⟨hn, hlo, hhi⟩ := State.syncFollow_later hs off
  have hl : some ((s.syncFollow off).now : Int) = some (s.now : Int) := by rw [hn]
  rw [State.syncApply_eq]
  split
  · rw [State.now, State.withdrawTime_tmt]
    exact ⟨hn, hlo, hhi, rfl, hl⟩
  · exact ⟨hn, hlo, hhi, rfl, hl⟩

/-! ### gPTP (R316, R317) -/

section Sync

variable {s r : State} {mac dom id origin i : Nat} {c : Int} {ok : Bool} (hlive : s.live = true) (hr : r = s.reach i)
  (hm : r.timeMode = 1) (hmac : r.ttField 0x0D 1 = mac)
include hlive hr hm hmac

/-- A Sync at a slave's MAC is rejected, does nothing before a link delay is measured, or is applied with its offset. -/
theorem execGptpSync_slave : exec (.gptpSync mac dom id origin c ok i) s = .next (
    if ok = false ∨ r.ttField 0x0E 1 ≠ dom ∨ (r.ttField 0x20 8 ≠ 0 ∧ r.ttField 0x20 8 ≠ id) then
      { r with tmt := { r.tmt with syncRejected := min (r.tmt.syncRejected + 1) 0xFFFF } }
    else if r.tmt.pdelay.done = false then r
    else r.syncApply ((r.now : Int) - (origin + Int.tdiv c 65536 + r.tmt.pdelay.meanDelay))) := by
  rw [exec, execGptpSync, act_live hlive, ← hr]
  dsimp only
  rw [if_neg (by simp [hm, hmac])]
  simp only [Bool.or_eq_true, Bool.not_eq_true', Bool.and_eq_true, bne_iff_ne, or_assoc]
  rfl

end Sync

section Pdelay

variable {s r : State} {mac dom seq i : Nat} (hlive : s.live = true) (hr : r = s.reach i)
include hlive hr

theorem execPdelayReq_on (hon : r.ptpOn mac dom = true) :
    exec (.pdelayReq mac dom seq i) s = .next (r.ptpSend 3 seq) := by
  rw [exec, execPdelayReq, act_live hlive, ← hr]
  exact congrArg Host.Outcome.next (if_pos hon)

theorem execPdelayResp_open (hon : r.ptpOn mac dom = true) (ha : r.tmt.pdelay.awaiting = true)
    (hq : r.tmt.pdelay.reqSeq = seq) (t2 t3 : Nat) : exec (.pdelayResp mac dom seq t2 t3 i) s =
      .next { r with tmt := { r.tmt with pdelay := { r.tmt.pdelay with
        awaiting := false, done := true, meanDelay := linkDelay r.tmt.pdelay t2 t3 r.now, lastT3 := t3
        lastT4 := r.now } } } := by
  rw [exec, execPdelayResp, act_live hlive, ← hr]
  exact congrArg Host.Outcome.next (if_pos (by simp [hon, ha, hq]))

theorem execPdelayInterval_ptp (hm : r.timeMode = 1 ∨ r.timeMode = 2) : exec (.pdelayInterval i) s =
    .next ((r.ptpSend 2 ((r.tmt.pdelay.reqSeq + 1) % 2 ^ 16)).modTmt fun t => { t with pdelay := { t.pdelay with
      reqSeq := (r.tmt.pdelay.reqSeq + 1) % 2 ^ 16, t1 := t.nowNs, awaiting := true } }) := by
  rw [exec, execPdelayInterval, act_live hlive, ← hr]
  exact congrArg Host.Outcome.next (if_pos hm)

theorem execSyncInterval_gm (hm : r.timeMode = 2) : exec (.syncInterval i) s =
    .next ((r.ptpSend 0 ((r.tmt.syncSeq + 1) % 2 ^ 16)).modTmt fun t =>
      { t with syncSeq := (r.tmt.syncSeq + 1) % 2 ^ 16 }) := by
  rw [exec, execSyncInterval, act_live hlive, ← hr]
  exact congrArg Host.Outcome.next (if_pos hm)

end Pdelay

/-! ### The timeouts and a Mawyn block (R318, R443) -/

section Timeouts

variable {s : State} {l : Int} (hlive : s.live = true) (hl : s.tmt.lastSync = some l) (hm : s.syncMode = true)
include hlive hl hm

theorem execSyncTimeout_due (hh : s.tmt.holdover = false) : exec .syncTimeout s =
    .next ((s.reach (l + s.ttField 0x12 2 * 1000000).toNat).modTmt fun t =>
      { t with holdover := true, rate := t.integ }) := by
  rw [exec, execSyncTimeout, act_live hlive, hl]
  exact congrArg Host.Outcome.next (if_pos (by simp [hm, hh]))

theorem execHoldoverTimeout_due (hh : s.tmt.holdover = true) : exec .holdoverTimeout s =
    .next (s.reach (l + (s.ttField 0x12 2 + s.ttField 0x14 2) * 1000000).toNat).withdrawTime := by
  rw [exec, execHoldoverTimeout, act_live hlive, hl]
  exact congrArg Host.Outcome.next (if_pos (by simp [hm, hh]))

end Timeouts

theorem execMawynTimeSync_measured {s r : State} {i p : Nat} {d : Int} (hlive : s.live = true) (hr : r = s.reach i)
    (hm : r.timeMode = 3) (hon : r.mawynOn = true) (hp : r.timeParent = some p) (hd : (r.mport p).delay = some d)
    (hv : (r.mport p).timeValid = true) (hu : (r.mport p).state.up = true) : exec (.mawynTimeSync i) s =
      .next (r.syncApply (((r.mport p).arrival : Int) - ((r.mport p).txTime + d))) := by
  rw [exec, execMawynTimeSync, act_live hlive, ← hr]
  dsimp only
  rw [if_neg (by simp [hm, hon]), hp]
  dsimp only
  rw [hd]
  exact congrArg Host.Outcome.next (if_pos (by simp [hv, hu]))

/-- Settles O14: a Sync by whether it is accepted and whether the counter was stepped before, every other event by the
equation of its command. That the run of large offsets counts the Sync that steps and that a holdover ends only with an
accepted Sync (log entry 46), the mean link delay (entry 48) and the parent's last block (entry 69) are the model's
choice. -/
theorem timeDiscipline : Obligations.TimeDiscipline := by
  refine ⟨fun s i hlive hf => State.reach_running (State.live_porst hlive) hf i,
    fun s r mac dom id origin i c ok hlive hr hm hmac hbad => ?_,
    fun s r mac dom id origin i c off hlive hr hm hmac hdom hid hdone ho => ?_,
    fun s r mac dom seq i hlive hr hon => ⟨execPdelayReq_on hlive hr hon, fun t2 t3 ha hq =>
      execPdelayResp_open hlive hr hon ha hq t2 t3⟩,
    fun s r i hlive hr => ⟨fun hm => ⟨_, execPdelayInterval_ptp hlive hr hm, rfl, rfl⟩,
      fun hm => ⟨_, execSyncInterval_gm hlive hr hm, rfl⟩⟩,
    fun s l hlive hl hm => ⟨fun hh => ⟨_, rfl, execSyncTimeout_due hlive hl hm hh⟩, fun hh hv hc => ?_⟩,
    fun s r i p d hlive hr hm hon hp hd hv hu => execMawynTimeSync_measured hlive hr hm hon hp hd hv hu⟩
  · rw [execGptpSync_slave hlive hr hm hmac, if_pos hbad]
  · have hx : exec (.gptpSync mac dom id origin c true i) s = .next (r.syncApply off) := by
      have hok : ¬(true = false ∨ r.ttField 0x0E 1 ≠ dom ∨ (r.ttField 0x20 8 ≠ 0 ∧ r.ttField 0x20 8 ≠ id)) := by
        rintro (hf | hd | ⟨h0, hne⟩)
        · cases hf
        · exact hd hdom
        · exact hid.elim h0 hne
      rw [execGptpSync_slave hlive hr hm hmac, if_neg hok, if_neg (by rw [hdone]; decide), ho]
    refine ⟨fun hs hl hf hrun => ⟨_, hx, ?_⟩, fun hs => ⟨_, hx, State.syncApply_later off hs⟩⟩
    rw [State.syncApply_first off hs hl hf hrun, Int.sub_eq_add_neg]
    refine ⟨rfl, rfl, rfl, rfl, rfl, rfl, rfl, rfl, ?_⟩
    rw [hr, s.reach_now i]
    rfl
  · obtain ⟨t, ht, h⟩ := State.withdrawTime_reached
      (i := (l + (s.ttField 0x12 2 + s.ttField 0x14 2) * 1000000).toNat) hv hc
    exact ⟨t, (execHoldoverTimeout_due hlive hl hm hh).trans (congrArg Host.Outcome.next ht), h⟩

end Sys2Proof.Machine
end

section
/-! Proofs of the family of the Timetable: events, trigger outputs, capture inputs and the reads with an effect
(O16). -/

namespace Sys2Proof.Machine

open Sys2Proof.Laws

/-! ### Events (R325 to R327) -/

/-- The occurrence that comes next takes place at its instant. -/
theorem execTimetableEvent_next {s u : State} {p : PendingEvent} {e : TtEvent} (hlive : s.live = true)
    (hf : s.tmt.freeze = .running) (hp : s.nextEvent = some p) (hu : u = s.reach p.instant)
    (he : (u.events.find? fun x => x.id == p.id) = some e) : exec .timetableEvent s = .next (u.occur e p) := by
  rw [exec, execTimetableEvent, act_live hlive, if_neg (by simp [hf]), hp]
  dsimp only
  rw [← hu, he]

/-! ### Trigger outputs (R329) -/

/-- Two changes of an output are one. -/
theorem State.modTrig_modTrig (s : State) (n : Nat) (f g : TrigOut → TrigOut) :
    (s.modTrig n f).modTrig n g = s.modTrig n fun o => g (f o) := by
  simp only [State.modTrig, State.modTmt, tmod, tget_tset_same, tset_tset]

/-- The trigger outputs stand as they are when time comes to an instant. -/
theorem State.reach_trig (s : State) (i n : Nat) : (s.reach i).trig n = s.trig n := by
  rw [s.reach_now i]
  rfl

/-- The edge of an output comes inside the pulse in progress. -/
def State.inPulse (s : State) (n d : Nat) : Bool :=
  match (s.trig n).pulseEnd with | some e => decide (d < e) | none => false

/-- An edge that comes inside a pulse is counted (R329). -/
def State.noteOverlap (s : State) (x : Bool) : State :=
  { s with tmt := { s.tmt with trigOverlap := if x then min (s.tmt.trigOverlap + 1) 0xFFFF else s.tmt.trigOverlap } }

/-! An edge that an output with an event takes leaves the queue, and inverts the output or starts its pulse anew. -/

section Trigger

variable {s u : State} {n d : Nat} {r : List Nat} (hlive : s.live = true) (hf : s.tmt.freeze = .running)
  (hd : (s.trig n).due = d :: r) (hu : u = s.reach d) (hid : u.trigField n 0 2 ≠ 0)
include hlive hf hd hu hid

theorem execTriggerEdge_toggle (ht : bit (u.trigField n 2 1) 1 = true) : exec (.triggerEdge n) s =
    .next (u.modTrig n fun o => { o with due := r, asserted := !o.asserted }) := by
  rw [exec, execTriggerEdge, act_live hlive, hd]
  dsimp only
  rw [if_neg (by simp [hf]), ← hu]
  exact congrArg Host.Outcome.next (((if_neg hid).trans (if_pos ht)).trans (u.modTrig_modTrig n _ _))

theorem execTriggerEdge_pulse (ht : bit (u.trigField n 2 1) 1 = false) : exec (.triggerEdge n) s =
    .next ((u.noteOverlap (s.inPulse n d)).modTrig n fun o =>
      { o with due := r, asserted := true, pulseEnd := some (d + u.trigField n 4 4) }) := by
  have hp : ((u.modTrig n fun o => { o with due := r }).trig n).pulseEnd = (s.trig n).pulseEnd := by
    rw [State.modTrig_same, hu, State.reach_trig]
  rw [exec, execTriggerEdge, act_live hlive, hd]
  dsimp only
  rw [if_neg (by simp [hf]), ← hu, hp]
  refine congrArg Host.Outcome.next (((if_neg hid).trans (if_neg ?_)).trans ?_)
  · exact Bool.eq_false_iff.mp ht
  · unfold State.inPulse
    cases (s.trig n).pulseEnd with
    | none => exact u.modTrig_modTrig n _ _
    | some e =>
      by_cases he : d < e
      · simp only [he, decide_true, if_true]
        exact (u.noteOverlap true).modTrig_modTrig n (fun o => { o with due := r })
          fun o => { o with asserted := true, pulseEnd := some (d + u.trigField n 4 4) }
      · simp only [he, decide_false, Bool.false_eq_true, if_false]
        exact u.modTrig_modTrig n _ _

end Trigger

theorem execTriggerPulseEnd_due {s : State} {n e : Nat} (hlive : s.live = true) (hf : s.tmt.freeze = .running)
    (he : (s.trig n).pulseEnd = some e) : exec (.triggerPulseEnd n) s =
      .next ((s.reach e).modTrig n fun o => { o with asserted := false, pulseEnd := none }) := by
  rw [exec, execTriggerPulseEnd, act_live hlive, he]
  exact congrArg Host.Outcome.next (if_neg (by simp [hf]))

/-! ### Capture inputs (R330) -/

/-- An accepted edge is numbered and stamped, and put into the FIFO or counted where 16 stand in it. -/
theorem State.acceptEdge_eq (s : State) (n stamp : Nat) (falling : Bool) : s.acceptEdge n stamp falling =
    (((s.modCap n fun c => { c with
      last := some stamp, edgeNo := ((s.cap n).edgeNo + 1) % 2 ^ 32
      fifo := if c.fifo.length < 16 then c.fifo ++ [(stamp, falling)] else c.fifo
      overflow := if c.fifo.length < 16 then c.overflow else min (c.overflow + 1) 0xFF }).capture 2 n stamp
        (((s.cap n).edgeNo + 1) % 2 ^ 32)).sourceEvents 3 n stamp (((s.cap n).edgeNo + 1) % 2 ^ 32)) := by
  unfold State.acceptEdge
  dsimp only
  congr 3
  funext c
  split
  · next h => simp only [if_neg (Nat.not_lt.mpr h)]; rfl
  · next h => simp only [if_pos (Nat.lt_of_not_le h)]; rfl

section Capture

variable {s u : State} {n held i : Nat} {falling : Bool} (hlive : s.live = true) (hu : u = s.reach i)
include hlive hu

theorem execCaptureEdge_unselected (h : held < 20 ∨ u.capSelects n falling = false) :
    exec (.captureEdge n falling held i) s = .next u := by
  rw [exec, execCaptureEdge, act_live hlive, ← hu]
  exact congrArg Host.Outcome.next (if_pos (by rcases h with h | h <;> simp [h]))

variable (hf : s.tmt.freeze = .running) (hh : 20 ≤ held) (hs : u.capSelects n falling = true)
include hf hh hs

/-- A selected edge that held is ignored in the dead time, and else accepted, at an armed time-set's value where the
input is its source. -/
theorem execCaptureEdge_selected : exec (.captureEdge n falling held i) s = .next (
    if u.capDead n i then u.modCap n fun c => { c with ignored := min (c.ignored + 1) 0xFF }
    else match u.tmt.armedSet with
      | some a => if a.src = n + 1 then (u.timeSet a.valueNs i).acceptEdge n a.valueNs falling
          else u.acceptEdge n i falling
      | none => u.acceptEdge n i falling) := by
  have hr : u.tmt.freeze = .running := by
    rw [hu, s.reach_now i]
    exact hf
  rw [exec, execCaptureEdge, act_live hlive, ← hu]
  refine congrArg Host.Outcome.next ((if_neg ?_).trans rfl)
  simp [hr, hs, Nat.not_lt.mpr hh]

end Capture

/-! ### Reads with an effect (R336) -/

theorem execTmtNowRead_live {s : State} (hlive : s.live = true) (path : Nat) : exec (.tmtNowRead path) s =
    .next { s with
      tmt := { s.tmt with nowLatch := tset s.tmt.nowLatch path (s.now % 1000000000, s.tmt.nowFrac / 65536) }
      resp := { kind := .data, bytes := leBytes 8 (s.now / 1000000000) } } := by
  rw [exec, execTmtNowRead, act_live hlive]
  rfl

theorem execCapFifoPop_nil {s : State} (hlive : s.live = true) {n : Nat} (h : (s.cap n).fifo = []) :
    exec (.capFifoPop n) s = .next { s with resp := { kind := .data, bytes := leBytes 4 0 } } := by
  rw [exec, execCapFifoPop, act_live hlive, h]

theorem execCapFifoPop_cons {s : State} (hlive : s.live = true) {n t : Nat} {f : Bool} {r : List (Nat × Bool)}
    (h : (s.cap n).fifo = (t, f) :: r) : exec (.capFifoPop n) s =
      .next { s.modCap n (fun c => { c with fifo := r }) with
        resp := { kind := .data, bytes := leBytes 4 (t % 1000000000 + 2 ^ 30 * b2n f + 2 ^ 31) } } := by
  rw [exec, execCapFifoPop, act_live hlive, h]

/-- Settles O16: an occurrence by the one that comes next, an edge of an output by its mode and the pulse in progress, a
captured edge by its level, its polarity and the dead time, a read by its command's equation. -/
theorem timetableOccurrences : Obligations.TimetableOccurrences := by
  refine ⟨fun s u p e hlive hf hp hu he => execTimetableEvent_next hlive hf hp hu he,
    fun s u n d r hlive hf hd hu hid => ⟨execTriggerEdge_toggle hlive hf hd hu hid, fun ht x hx => ?_⟩,
    fun s n e hlive hf he => execTriggerPulseEnd_due hlive hf he,
    fun s u n held i falling hlive hf hu => ⟨execCaptureEdge_unselected hlive hu, fun hh hs hd => ?_,
      fun hh hs hd ha => ?_⟩,
    fun s path hlive => execTmtNowRead_live hlive path,
    fun s n hlive => ⟨execCapFifoPop_nil hlive, fun t f r => execCapFifoPop_cons hlive⟩⟩
  · subst hx
    exact execTriggerEdge_pulse hlive hf hd hu hid ht
  · rw [execCaptureEdge_selected hlive hu hf hh hs, if_pos hd]
  · rw [execCaptureEdge_selected hlive hu hf hh hs, if_neg (by simp [hd])]
    cases harm : u.tmt.armedSet with
    | none => exact congrArg Host.Outcome.next (u.acceptEdge_eq n i falling)
    | some a => exact congrArg Host.Outcome.next ((if_neg (ha a harm)).trans (u.acceptEdge_eq n i falling))

end Sys2Proof.Machine
end

section
/-! Proofs of the family of the Timetable: the test access port (O52). -/

namespace Sys2Proof.Machine

open Sys2Proof.Laws

/-! ### Shifted bits and words -/

/-- Bit `k` of a shifted string is its bit `k`, and a 0 past its end. -/
theorem testBit_bitsNat : ∀ (l : List Bool) (k : Nat), (bitsNat l).testBit k = l.getD k false
  | [], k => by simp [bitsNat]
  | b :: r, 0 => by cases b <;> simp [bitsNat, b2n, Nat.testBit_zero]
  | b :: r, k + 1 => by
    have hdiv : (b2n b + 2 * bitsNat r) / 2 = bitsNat r := by
      cases b <;> simp only [b2n, if_true, if_false, Bool.false_eq_true] <;> omega
    rw [bitsNat, Nat.testBit_succ, hdiv, testBit_bitsNat r k, List.getD_cons_succ]

theorem bitsNat_false (n : Nat) : bitsNat (List.replicate n false) = 0 := by
  induction n with
  | zero => rfl
  | succ n ih => rw [List.replicate_succ, bitsNat, ih]; rfl

/-- Word `k` of a packed string is its word `k`, cut to the width. -/
theorem packWords_word (w : Nat) : ∀ (l : List Nat) (k : Nat),
    packWords w l / 2 ^ (w * k) % 2 ^ w = l.getD k 0 % 2 ^ w
  | [], k => by simp [packWords]
  | v :: r, 0 => by simp [packWords]
  | v :: r, k + 1 => by
    have hdiv : packWords w (v :: r) / 2 ^ w = packWords w r := by
      rw [packWords, Nat.add_mul_div_left _ _ (Nat.two_pow_pos w),
        Nat.div_eq_of_lt (Nat.mod_lt _ (Nat.two_pow_pos w)), Nat.zero_add]
    rw [Nat.mul_succ, Nat.add_comm, Nat.pow_add, ← Nat.div_div_eq_div_mul, hdiv, packWords_word w r k,
      List.getD_cons_succ]

theorem getD_map_range {α : Type} (f : Nat → α) (d : α) {n k : Nat} (h : k < n) :
    ((List.range n).map f).getD k d = f k := by
  simp [h]

theorem leNat_lt : ∀ b : Bytes, leNat b < 2 ^ (8 * b.length)
  | [] => by simp [leNat]
  | b :: r => by
    have hr := leNat_lt r
    have hb : b.toNat < 256 := b.isLt
    have hp : 2 ^ (8 * (b :: r).length) = 256 * 2 ^ (8 * r.length) := by
      rw [List.length_cons, Nat.mul_succ, Nat.pow_add, Nat.mul_comm]
    rw [leNat, hp]
    omega

theorem State.rdLe_lt (s : State) (a n : Nat) : s.rdLe a n < 2 ^ (8 * n) := by
  have h := leNat_lt (s.rd a n)
  rwa [State.rd, length_memRead] at h

/-- A word that the model holds as bytes shifts as it is stored (R496). -/
theorem State.tapWord_stored {s : State} {id w a : Nat} (h : s.storedWord id w = some a) :
    s.tapWord id w % 2 ^ 64 = s.rdLe a 8 := by
  rw [State.tapWord, h]
  exact (Nat.add_mul_mod_self_left _ _ _).trans (Nat.mod_eq_of_lt (s.rdLe_lt a 8))

/-! ### What each instruction does in a freeze and outside it -/

theorem State.frozen_iff (s : State) : s.frozen = true ↔ s.tmt.freeze = .frozen := by simp [State.frozen]

theorem State.boundaryInForce_iff (s : State) : s.boundaryInForce = true ↔
    s.tapPort.instr ∈ [0x00, 0x03, 0x04] ∧ (s.pins.porstN = false ∨ s.tmt.freeze = .frozen) := by
  simp [State.boundaryInForce, State.frozen_iff, or_assoc]

section NotFrozen

variable {s : State} (h : s.frozen = false) (n : Nat)
include h

theorem execScanSelect_running : exec (.scanSelect n) s = .next (s.tapLoad 0x11) :=
  congrArg Host.Outcome.next (if_neg (by simp [h]))

theorem execTapMemSelect_running : exec (.tapMemSelect n) s = .next (s.tapLoad 0x13) :=
  congrArg Host.Outcome.next (if_neg (by simp [h]))

theorem execRelease_running : exec .release s = .next (s.tapLoad 0x18) :=
  congrArg Host.Outcome.next (if_neg (by simp [h]))

theorem execScanRead_running : exec (.scanRead n) s =
    .next ((s.tapLoad 0x12).modTapPort fun t => { t with out := (n, 0) }) := by
  simp only [exec, execScanRead, h, Bool.not_false, if_true]

theorem execTapMemRead_running : exec (.tapMemRead n) s = .next ((s.tapLoad 0x14).modTapPort fun t =>
    { t with out := ((if s.tapPort.memEcc then 72 else 64) * n, 0) }) := by
  simp only [exec, execTapMemRead, h, Bool.not_false, if_true]

end NotFrozen

/-- The bit that SCAN_READ shifts `k`-th: the selected chain's at the place that the rotation has reached (R494). -/
def State.scanBitAt (s : State) (k : Nat) : Bool :=
  s.tapReadout && chainLength s.tapPort.chain != 0 &&
    Config.scanBit s.freeCtr s.tapPort.chain ((s.tapPort.shifted + k) % chainLength s.tapPort.chain)

/-- The word that MEM_READ shifts `k`-th: of the selected memory, and zero past its end (R496). -/
def State.memWordAt (s : State) (k : Nat) : Nat :=
  if s.tapReadout && s.tapPort.memWord + k < memoryWords s.tapPort.memId
  then s.tapWord s.tapPort.memId (s.tapPort.memWord + k) else 0

section Frozen

variable {s : State} (h : s.frozen = true) (n : Nat)
include h

/-- No rotation is pending, so the select takes the chain; its count of shifted bits stays 0. -/
theorem execScanSelect_frozen (h0 : s.tapPort.shifted = 0) : exec (.scanSelect n) s =
    .next ((s.tapLoad 0x11).modTapPort fun t => { t with chain := n }) := by
  refine congrArg Host.Outcome.next ((if_pos (by simp [h, State.rotationPending, h0])).trans ?_)
  simp only [State.modTapPort, State.tapLoad, h0]

theorem execScanRead_frozen : exec (.scanRead n) s = .next ((s.tapLoad 0x12).modTapPort fun t =>
    { t with out := (n, bitsNat ((List.range n).map s.scanBitAt))
             shifted := (s.tapPort.shifted + n) % chainLength s.tapPort.chain }) := by
  simp only [exec, execScanRead, h, Bool.not_true, Bool.false_eq_true, if_false]
  rfl

theorem execTapMemSelect_frozen : exec (.tapMemSelect n) s = .next ((s.tapLoad 0x13).modTapPort fun t =>
    { t with memId := n % 2 ^ 16, memEcc := bit n 16, memWord := n / 2 ^ 24 % 2 ^ 32 }) := by
  refine congrArg Host.Outcome.next ((if_pos h).trans ?_)
  simp only [fld, Nat.shiftRight_eq_div_pow, Nat.pow_zero, Nat.div_one]

theorem execTapMemRead_frozen {w : Nat} (hw : w = if s.tapPort.memEcc then 72 else 64) : exec (.tapMemRead n) s =
    .next ((s.tapLoad 0x14).modTapPort fun t =>
      { t with out := (w * n, packWords w ((List.range n).map s.memWordAt)), memWord := s.tapPort.memWord + n }) := by
  simp only [exec, execTapMemRead, h, hw, Bool.not_true, Bool.false_eq_true, if_false]
  rfl

theorem execRelease_frozen (h0 : s.tapPort.shifted = 0) (he : s.tmt.freezeByEvent = true) :
    exec .release s = .next (s.tapLoad 0x18).releaseFreeze :=
  congrArg Host.Outcome.next (if_pos (by simp [h, State.rotationPending, h0, he]))

end Frozen

/-- A pending rotation holds SCAN_SELECT off (R495). -/
theorem execScanSelect_pending {s : State} (n : Nat) (h0 : s.tapPort.shifted ≠ 0) :
    exec (.scanSelect n) s = .next (s.tapLoad 0x11) :=
  congrArg Host.Outcome.next (if_neg (by simp [State.rotationPending, h0]))

/-- A pending rotation, or a freeze that FREEZE_N started, holds RELEASE off (R495). -/
theorem execRelease_refused {s : State} (h : s.tapPort.shifted ≠ 0 ∨ s.tmt.freezeByEvent = false) :
    exec .release s = .next (s.tapLoad 0x18) :=
  congrArg Host.Outcome.next (if_neg (by rcases h with h | h <;> simp [State.rotationPending, h]))

/-- Without TAP_READOUT every bit of a chain shifts as 0 (R388). -/
theorem State.scanBits_closed {s : State} (h : s.tapReadout = false) (n : Nat) :
    bitsNat ((List.range n).map s.scanBitAt) = 0 := by
  have hb : s.scanBitAt = fun _ => false := funext fun k => by simp [State.scanBitAt, h]
  rw [hb, List.map_const', bitsNat_false]

/-- Word `k` of what MEM_READ shifts (R496). -/
theorem State.memWords_word (s : State) {w n k : Nat} (hk : k < n) :
    packWords w ((List.range n).map s.memWordAt) / 2 ^ (w * k) % 2 ^ w =
      if s.tapReadout && s.tapPort.memWord + k < memoryWords s.tapPort.memId
      then s.tapWord s.tapPort.memId (s.tapPort.memWord + k) % 2 ^ w else 0 := by
  rw [packWords_word, getD_map_range _ _ hk, State.memWordAt]
  split
  · rfl
  · exact Nat.zero_mod _

/-- Settles O52: the instructions that only load a register by their definitions, the others by whether the device is
FROZEN and a rotation pending, the shifted values bit by bit and word by word. That MEM_READ goes on from the word
after the last is the model's reading (log entry 63). -/
theorem tapInstructions : Obligations.TapInstructions := by
  refine ⟨fun s c code hc => ?_, fun s => ⟨s.boundaryInForce_iff, fun hb => ?_⟩,
    fun s bits count => ⟨rfl, rfl, rfl⟩,
    fun s n hf => ?_, fun s n c l hf hc hl => ?_, fun s id w a => State.tapWord_stored, by decide⟩
  · simp only [List.mem_cons, Prod.mk.injEq, List.not_mem_nil, or_false] at hc
    rcases hc with ⟨rfl, rfl⟩ | ⟨rfl, rfl⟩ | ⟨rfl, rfl⟩ | ⟨rfl, rfl⟩ <;> rfl
  · rw [State.safeNPulled, hb, Bool.or_true]
  · have hz : s.frozen = false := by simp [State.frozen, hf]
    exact ⟨execScanSelect_running hz n, execTapMemSelect_running hz n, execRelease_running hz,
      execScanRead_running hz n, execTapMemRead_running hz n⟩
  · subst hl hc
    have hz : s.frozen = true := s.frozen_iff.mpr hf
    refine ⟨execScanSelect_frozen hz n, fun h0 => ⟨execScanSelect_pending n h0, execRelease_refused (.inl h0)⟩,
      ⟨_, execScanRead_frozen hz n, fun ho => State.scanBits_closed ho n, fun k hk => ?_⟩,
      execTapMemSelect_frozen hz n, ⟨_, _, rfl, execTapMemRead_frozen hz n rfl, fun k hk => s.memWords_word hk⟩,
      execRelease_frozen hz, fun he => execRelease_refused (.inr he)⟩
    rw [testBit_bitsNat, getD_map_range _ _ hk, State.scanBitAt]

end Sys2Proof.Machine
end

section
/-! Proofs of the family of the Timetable: a step takes the command at the front of the queue, or is one cycle of the
reference (O55). -/

namespace Sys2Proof.Machine

section Tick

variable {s : State}

/-- While the counter runs, a cycle adds 1 ns + RATE × 2⁻³² ns to NOW, and nothing else changes (R314). -/
theorem State.tick_running (hp : s.pins.porstN = true) (hf : s.tmt.freeze = .running) {v : Nat}
    (hv : (v : Int) = max 0 ((s.tmt.nowFrac : Int) + 2 ^ 32 + s.tmt.rate)) : s.tick =
      { s with tmt := { s.tmt with nowNs := s.tmt.nowNs + v / 2 ^ 32, nowFrac := v % 2 ^ 32 } } := by
  have hn : ((s.tmt.nowFrac : Int) + 2 ^ 32 + s.tmt.rate).toNat = v := by omega
  rw [State.tick, if_pos (by simp [hp, hf]), hn]
  rfl

/-- Under PORST_N and in a freeze the counter stands still (R314, R332). -/
theorem State.tick_stopped (h : s.pins.porstN = false ∨ s.tmt.freeze ≠ .running) : s.tick = s :=
  if_neg (by rcases h with h | h <;> simp [h])

theorem step_of_pending_nil (h : s.pending = []) : step s = .next s.tick := by
  rw [step, h]

end Tick

/-- Settles O55: a queued command by the definition of a step, an empty queue by the tick that it leaves. That a step on
an empty queue is one cycle of the reference is the model's choice (log entry 1). -/
theorem stepRunsFrontCommand : Obligations.StepRunsFrontCommand :=
  ⟨fun _ _ _ => rfl,
   fun _ _ he hp hf hv => (step_of_pending_nil he).trans (congrArg Host.Outcome.next (State.tick_running hp hf hv)),
   fun _ he h => (step_of_pending_nil he).trans (congrArg Host.Outcome.next (State.tick_stopped h))⟩

end Sys2Proof.Machine
end

section
/-! Proofs of the family of the gateway and the Junction: the frames that Points receives and sends, and its aggregation
timeout (O38). -/

namespace Sys2Proof.Machine

theorem State.ptsOn_iff (s : State) : s.ptsOn = true ↔ (s.clock 69).state = .on := by simp [State.ptsOn]

/-! ### FRAME_RECEIVE (R342, R350) -/

section Receive

variable {s : State} {p full i : Nat} {f : NetFrame}

theorem execFrameReceive_ignored (hlive : s.live = true)
    (h : (s.clock 69).state ≠ .on ∨ s.portEnabled p = false ∨ (16 ≤ p ∧ p - 16 ∈ s.pts.busOff)) :
    exec (.frameReceive p f full i) s = .next s := by
  rw [exec, execFrameReceive, act_live hlive, if_pos]
  rcases h with h | h | h <;> simp [State.ptsOn, h]

/-- A frame that a port takes is counted as good or bad, and a good one is looked up (R342). -/
theorem execFrameReceive_taken (hlive : s.live = true) (hon : (s.clock 69).state = .on) (hp : s.portEnabled p = true)
    (hb : p < 16 ∨ p - 16 ∉ s.pts.busOff) : exec (.frameReceive p f full i) s = .next (
      if f.bad || f.remote || !(frameLenOk f) then
        (s.reach i).modPort p fun q => { q with rxErrors := min (q.rxErrors + 1) 0xFFFF }
      else ((s.reach i).modPort p fun q => { q with rxFrames := (q.rxFrames + 1) % 2 ^ 32 }).ptsFrame full p i f) := by
  have hbus : ¬ (16 ≤ p ∧ p - 16 ∈ s.pts.busOff) := by
    rintro ⟨hge, hoff⟩
    exact hb.elim (Nat.not_lt.mpr hge) (· hoff)
  rw [exec, execFrameReceive, act_live hlive, if_neg (by simpa [State.ptsOn, hon, hp] using hbus)]
  rfl

/-- The matching entry decides (R342). -/
theorem State.ptsFrame_match {n : Nat} (h : s.ptsLookup (frameKey p f) = some n) :
    s.ptsFrame full p i f = s.ptsDecide full n (s.ptsEntry n) p i f := by
  rw [State.ptsFrame, h]

/-- A frame that no entry matches goes to the port's default queue, or is dropped (R342). -/
theorem State.ptsFrame_miss (h : s.ptsLookup (frameKey p f) = none) : s.ptsFrame full p i f =
    if (tget {} s.pts.ports p).defaultEn then s.queueFrame [(tget {} s.pts.ports p).defaultQ] f p 0xFFFF i
    else s.ptsCount 0 := by
  rw [State.ptsFrame, h]

end Receive

/-! ### The actions of an entry (R344) -/

section Decide

variable {s : State} {full n p i : Nat} {e : Bytes} {f : NetFrame}

theorem State.ptsDecide_drop (h : byteAt e 0x20 = 4) : s.ptsDecide full n e p i f = s.ptsCount 0 := if_pos h

theorem State.ptsDecide_forward (h : byteAt e 0x20 = 0) : s.ptsDecide full n e p i f =
    ((maskBits (le e 0x18 8) 32).foldl (fun s p => s.ptsForward full p e f) s).queueFrame
      (maskBits (le e 0x18 8 >>> 32) 32) f p n i := by
  simp [State.ptsDecide, h]

theorem State.ptsDecide_translate (h : byteAt e 0x20 = 1) : s.ptsDecide full n e p i f =
    ((maskBits (le e 0x18 8) 32).foldl (fun s p => s.ptsForward full p e (frameTranslate f (le e 0x24 4))) s).queueFrame
      (maskBits (le e 0x18 8 >>> 32) 32) f p n i := by
  simp [State.ptsDecide, h]

/-- A CAN frame joins the entry's IEEE 1722 frame where EGRESS names Ethernet ports alone (R344). -/
theorem State.ptsDecide_encap (h : byteAt e 0x20 = 2) (hne : maskBits (le e 0x18 8) 32 ≠ [])
    (hports : ∀ x ∈ maskBits (le e 0x18 8) 32, x < 10) (hcan : f.kind = 1 ∨ f.kind = 2) :
    s.ptsDecide full n e p i f =
      (s.encapsulate full n e p i f).queueFrame (maskBits (le e 0x18 8 >>> 32) 32) f p n i := by
  have hnone : (maskBits (le e 0x18 8) 32).filter (· ≥ 10) = [] :=
    List.filter_eq_nil_iff.mpr fun x hx => by simpa using hports x hx
  have hsome : (maskBits (le e 0x18 8) 32).all (· ≥ 10) = false := by
    obtain ⟨x, hx⟩ := List.exists_mem_of_ne_nil _ hne
    exact List.all_eq_false.mpr ⟨x, hx, by simpa using hports x hx⟩
  simp only [State.ptsDecide, h, hnone, hsome, hcan, List.foldl_nil, reduceIte, Nat.reduceEqDiff, Bool.false_eq_true]

theorem State.ptsDecide_decap (h : byteAt e 0x20 = 3) : s.ptsDecide full n e p i f =
    (s.decapsulate full (fld (byteAt e 0x21) 0 3) f).queueFrame (maskBits (le e 0x18 8 >>> 32) 32) f p n i := by
  simp [State.ptsDecide, h]

end Decide

/-! ### An egress port (R349, R350) -/

section Send

variable {s : State} {full p tc : Nat} {f : NetFrame}

theorem State.ptsSend_cannotCarry (h : s.carries p f = false) : s.ptsSend full p tc f = s.ptsDrop 3 p :=
  if_pos (by simp [h])

theorem State.ptsSend_full (h : s.carries p f = true) (hf : bit full p = true) :
    s.ptsSend full p tc f = s.ptsDrop 2 p := by
  rw [State.ptsSend, if_neg (by simp [h]), if_pos hf]

theorem State.ptsSend_queued (h : s.carries p f = true) (hf : bit full p = false) : s.ptsSend full p tc f =
    { s with pts := { s.pts with sent := s.pts.sent ++ [{ port := p, tc := tc, frame := f }] } } := by
  rw [State.ptsSend, if_neg (by simp [h]), if_neg (by simp [hf])]
  rfl

end Send

/-! ### AGG_TIMEOUT (R344) -/

section AggTimeout

variable {s : State} {n full : Nat} (hlive : s.live = true)

include hlive

theorem execAggTimeout_due {a : PtsAgg} (ha : tfind s.pts.aggs n = some a) (hon : (s.clock 69).state = .on) :
    exec (.aggTimeout n full) s = .next ((s.reach (a.sinceNs + 1000 * le a.entry 0x2A 2)).flushAgg full n) := by
  rw [exec, execAggTimeout, act_live hlive]
  simp only [ha, s.ptsOn_iff.mpr hon, if_true]

theorem execAggTimeout_idle (h : tfind s.pts.aggs n = none ∨ (s.clock 69).state ≠ .on) :
    exec (.aggTimeout n full) s = .next s := by
  rw [exec, execAggTimeout, act_live hlive]
  split
  · rename_i a ha
    have hoff : (s.clock 69).state ≠ .on := h.resolve_left (by simp [ha])
    rw [if_neg (mt s.ptsOn_iff.mp hoff)]
  · rfl

end AggTimeout

/-- Settles O38: a frame at its port by the checks it meets, then by the entry's action, the egress port and the timeout.
That a bus-off controller takes no frame, and what a full queue counts, are the model's choice (log entry 54). -/
theorem pointsFrames : Obligations.PointsFrames := by
  refine ⟨fun s r p full i f hlive hr => ⟨execFrameReceive_ignored hlive, fun hon hp hb => ⟨fun hbad => ?_,
      fun hbad hrem hlen => ⟨_, rfl, fun n hn => ?_, fun hn => ?_⟩⟩⟩,
    fun s full n p i e f l q hl hq => ?_,
    fun s full p tc f => ⟨State.ptsSend_cannotCarry, State.ptsSend_full, State.ptsSend_queued⟩,
    fun s n full a hlive => ⟨execAggTimeout_due hlive, execAggTimeout_idle hlive⟩⟩
  · have hdrop : (f.bad || f.remote || !(frameLenOk f)) = true := by simpa [or_assoc] using hbad
    rw [execFrameReceive_taken hlive hon hp hb, if_pos hdrop, hr]
  · rw [execFrameReceive_taken hlive hon hp hb, if_neg (by simp [hbad, hrem, hlen]), ← hr, State.ptsFrame_match hn]
  · rw [execFrameReceive_taken hlive hon hp hb, if_neg (by simp [hbad, hrem, hlen]), ← hr, State.ptsFrame_miss hn]
  · subst hl hq
    exact ⟨State.ptsDecide_drop, State.ptsDecide_forward, State.ptsDecide_translate, State.ptsDecide_encap,
      State.ptsDecide_decap⟩

end Sys2Proof.Machine
end

section
/-! Proofs of the family of the gateway and the Junction: the memory queues of Points and the entry commands (O39). -/

namespace Sys2Proof.Machine

/-! ### Acknowledgements of an RX queue's writes (R348) -/

section Acknowledgement

variable {s : State} {q id i : Nat}

theorem execQueueSlotAck_nil (hlive : s.live = true) (h : (s.ptsQueue q).slotWrites = []) :
    exec (.queueSlotAck q) s = .next s := by
  rw [exec, execQueueSlotAck, act_live hlive]
  simp only [h]

/-- A slot write that is still held is not acknowledged; one that has been answered leaves the queue's list, and the
index word is written, an error response to which disables the queue. -/
theorem execQueueSlotAck_cons {u : State} {l : List (Nat × Nat)} (hlive : s.live = true)
    (h : (s.ptsQueue q).slotWrites = (id, i) :: l)
    (hu : u = (s.modQueue q fun x => { x with slotWrites := l }).devAccess (.index q (some id)) (s.ptsQueue q).ownerTag
      ((s.ptsQueue q).addr + 64) 8 true (leBytes 8 i)) :
    exec (.queueSlotAck q) s = .next (
      if s.awaits (.slot q id) = true then s
      else if u.resp.kind = .error then (u.modQueue q fun x => { x with en := false, error := 2 }).frameDone id false
      else u.modQueue q fun x => { x with indexWrites := x.indexWrites ++ [id] }) := by
  rw [exec, execQueueSlotAck, act_live hlive, hu]
  simp only [h]
  rfl

theorem execQueueIndexAck_nil (hlive : s.live = true) (h : (s.ptsQueue q).indexWrites = []) :
    exec (.queueIndexAck q) s = .next s := by
  rw [exec, execQueueIndexAck, act_live hlive]
  simp only [h]

theorem execQueueIndexAck_cons {l : List Nat} (hlive : s.live = true) (h : (s.ptsQueue q).indexWrites = id :: l) :
    exec (.queueIndexAck q) s = .next (
      if s.awaits (.index q (some id)) = true then s
      else ((s.modQueue q fun x => { x with indexWrites := l }).msi (s.ptsQueue q).ownerTag (s.ptsQueue q).msiAddr
        (s.ptsQueue q).msiData).frameDone id true) := by
  rw [exec, execQueueIndexAck, act_live hlive]
  simp only [h]

end Acknowledgement

/-! ### The filter on the index words (R346) -/

/-- A queue whose index word software has written: an index that breaks R124 disables it. -/
def PtsQueue.indexed (x : PtsQueue) (t : Nat) : PtsQueue :=
  if x.indexOk t then { x with captured := t } else { x with en := false, error := 1 }

section IndexWatch

variable {s : State} {q tag a n : Nat} {x : PtsQueue} (hq : s.pts.queues = [(q, x)])

include hq

/-- The queues with the one listed queue changed. -/
theorem State.modQueue_single (f : PtsQueue → PtsQueue) :
    s.modQueue q f = { s with pts := { s.pts with queues := [(q, f x)] } } := by
  simp [State.modQueue, State.modPts, hq, tmod, tset, tget]

theorem State.indexWatch_covered (hen : x.en = true) (hlo : a ≤ x.addr) (hhi : x.addr + 4 ≤ a + n)
    (htag : x.writerTag = tag) (d : Bytes) : s.indexWatch tag a n d =
      { s with pts := { s.pts with queues := [(q, x.indexed (le d (x.addr - a) 4))] } } := by
  have hone : (s.pts.queues.filter fun e => e.2.en && a ≤ e.2.addr && e.2.addr + 4 ≤ a + n && e.2.writerTag == tag) =
      [(q, x)] := by
    simp [hq, hen, hlo, hhi, htag]
  rw [State.indexWatch, hone, List.foldl_cons, List.foldl_nil]
  dsimp only
  rw [State.queueError, State.modQueue_single hq, State.modQueue_single hq, PtsQueue.indexed]
  split <;> rfl

theorem State.indexWatch_missed (h : x.en = false ∨ x.addr < a ∨ a + n < x.addr + 4 ∨ x.writerTag ≠ tag) (d : Bytes) :
    s.indexWatch tag a n d = s := by
  have hmiss : (x.en && a ≤ x.addr && x.addr + 4 ≤ a + n && x.writerTag == tag) = false := by
    rcases h with h | h | h | h
    · simp [h]
    · simp [Nat.not_le.mpr h]
    · simp [Nat.not_le.mpr h]
    · rw [beq_eq_false_iff_ne.mpr h, Bool.and_false]
  rw [State.indexWatch, hq, List.filter_singleton, hmiss]
  rfl

end IndexWatch

/-- The filter on the rings' tail words stores nothing and changes no queue. -/
theorem State.tailWatch_mem_pts (s : State) (tag addr len : Nat) (data : Bytes) :
    (s.tailWatch tag addr len data).mem = s.mem ∧ (s.tailWatch tag addr len data).pts = s.pts := by
  unfold State.tailWatch
  refine List.foldlRecOn _ _ (motive := fun t : State => t.mem = s.mem ∧ t.pts = s.pts) ⟨rfl, rfl⟩
    fun t ht e _ => ?_
  dsimp only
  split
  · split <;> exact ht
  · exact ht

theorem State.logPage_pts (s : State) (page : Nat) : (s.logPage page).pts = s.pts := by
  rw [State.logPage_eq]

theorem State.logWrite_pts (s : State) (a n : Nat) : (s.logWrite a n).pts = s.pts := by
  unfold State.logWrite
  dsimp only
  split
  · exact s.logPage_pts _
  · exact (State.logPage_pts _ _).trans (s.logPage_pts _)

theorem State.wakeDram_dramStored_pts (s : State) (c : Nat) (acc : Access) :
    ((s.wakeDram c).dramStored acc).pts = s.pts := by
  rw [State.wakeDram_eq, State.dramStored, State.logWrite_pts]
  rfl

/-! ### TX_INDEX_WRITE (R346) -/

section TxIndexWrite

variable {s : State} {tag addr len value c : Nat} {ok : Bool} {acc : Access}
  (hlive : s.live = true) (ht : s.target addr = .dram c)
  (hacc : (s.blockAccess tag addr len true (leBytes len value)).map (fun a => { a with entryOk := ok }) = some acc)

/-- A write of an index word is the write that TAIL_WRITE makes: one Sluice judges both and both filters see both. -/
theorem execTxIndexWrite_eq_tailWrite (r : Requester) (addr len value : Nat) (ok : Bool) (s : State) :
    exec (.txIndexWrite r addr len value ok) s = exec (.tailWrite r addr len value ok) s := rfl

include hlive ht hacc

theorem execTxIndexWrite_denied {k : Nat} (hv : s.verdict acc = .deny k) :
    exec (.txIndexWrite (.tag tag) addr len value ok) s =
      .next ((s.noteDenial acc k).answerError .other .denied) := by
  rw [execTxIndexWrite_eq_tailWrite, execTailWrite_denied hlive ht hacc hv]

/-- A granted write meets the filter on the index words with its bytes and dirty bits stored. -/
theorem execTxIndexWrite_granted (hv : s.verdict acc = .grant) (hon : (s.dramCtrl c).state ≠ .off) :
    ∃ w t : State, w.pts = s.pts ∧ w.mem = ((s.wr addr ((leBytes len value).take len)).logWrite addr len).mem ∧
      exec (.txIndexWrite (.tag tag) addr len value ok) s = .next t ∧ t.mem = w.mem ∧
      t.pts = (w.indexWatch tag addr len (leBytes len value)).pts := by
  have heq := State.tailAccess_eq ht hacc
  have ha : s.access acc = (s.wakeDram c).dramWrite acc := by
    rw [State.access, hv, heq]
    simp only [State.carry, ht, if_neg hon, if_true]
  have hw : (s.wakeDram c).dramWrite acc = ((((s.wakeDram c).dramStored acc).tailWatch tag addr len
      (leBytes len value)).indexWatch tag addr len (leBytes len value)).answerData .other [] := by
    rw [heq]
    simp only [State.dramWrite, State.dramStored, Bool.false_eq_true, if_false]
  obtain ⟨hwm, hwp⟩ := ((s.wakeDram c).dramStored acc).tailWatch_mem_pts tag addr len (leBytes len value)
  obtain ⟨him, -⟩ := (((s.wakeDram c).dramStored acc).tailWatch tag addr len (leBytes len value)).indexWatch_mem_sbx
    tag addr len (leBytes len value)
  obtain ⟨-, hmem⟩ := s.wakeDram_dramStored c acc
  rw [execTxIndexWrite_eq_tailWrite, execTailWrite_tag hlive ht hacc, ha, hw, State.answerData_other]
  refine ⟨_, _, hwp.trans (s.wakeDram_dramStored_pts c acc), ?_, rfl, him, rfl⟩
  rw [hwm, hmem, heq]

end TxIndexWrite

/-! ### TX_SLOT_READ (R347) -/

section ReadSlot

variable {s u : State} {x : PtsQueue} {h : Bytes}

theorem PtsQueue.frameFits_iff (x : PtsQueue) (h : Bytes) :
    x.frameFits h = true ↔ byteAt h 3 < 4 ∧ le h 0 2 + 64 ≤ x.slotBytes := by
  simp [PtsQueue.frameFits]

/-- A header whose read fails or waits ends the read of the slot. -/
theorem State.readSlot_headerLost {z : Fetch} (hu : s.fetchBytes x.ownerTag (x.slotAt x.index) 64 = (u, z))
    (hz : ∀ b, z ≠ .got b) : s.readSlot x = (u, z, []) := by
  cases z with
  | got b => exact absurd rfl (hz b)
  | failed => simp only [State.readSlot, hu]
  | waits => simp only [State.readSlot, hu]

variable (hu : s.fetchBytes x.ownerTag (x.slotAt x.index) 64 = (u, .got h))

include hu

/-- No bytes are read of a frame that does not fit its slot, or that has none. -/
theorem State.readSlot_headerOnly (hf : x.frameFits h = false ∨ le h 0 2 = 0) : s.readSlot x = (u, .got [], h) := by
  simp only [State.readSlot, hu]
  rw [if_neg]
  rcases hf with hf | hf <;> simp [hf]

theorem State.readSlot_frame (hf : x.frameFits h = true) (hn : le h 0 2 ≠ 0) {w : State} {o : Fetch}
    (hw : u.fetchBytes x.ownerTag (x.slotAt x.index + 64) (le h 0 2) = (w, o)) : s.readSlot x = (w, o, h) := by
  simp only [State.readSlot, hu, hf, hn, hw, ne_eq, not_false_eq_true, decide_true, Bool.and_self, if_true]

end ReadSlot

section TxSlotRead

variable {s u : State} {q full i : Nat} {x : PtsQueue}

theorem execTxSlotRead_idle (hlive : s.live = true) (hx : x = s.ptsQueue q)
    (h : (s.clock 69).state ≠ .on ∨ x.en = false ∨ x.tx = false ∨ x.captured = x.index) :
    exec (.txSlotRead q full i) s = .next s := by
  subst hx
  rw [exec, execTxSlotRead, act_live hlive, if_pos]
  rcases h with h | h | h | h <;> simp [State.ptsOn, h]

/-- What a queue with a slot left makes of its read (R347). -/
def State.txSlotOutcome (u : State) (q full i : Nat) (x : PtsQueue) (h : Bytes) : Fetch → State
  | .failed => u.modQueue q fun y => { y with en := false, error := 3 }
  | .waits => u
  | .got d => u.txSlotTaken q full i x (x.frameFits h) (slotFrame h d)

theorem execTxSlotRead_reads (hlive : s.live = true) (hx : x = s.ptsQueue q) (hon : (s.clock 69).state = .on)
    (hen : x.en = true) (htx : x.tx = true) (hleft : x.captured ≠ x.index) {z : Fetch} {h : Bytes}
    (hr : (s.reach i).readSlot x = (u, z, h)) :
    exec (.txSlotRead q full i) s = .next (u.txSlotOutcome q full i x h z) := by
  subst hx
  rw [exec, execTxSlotRead, act_live hlive, if_neg (by simp [State.ptsOn, hon, hen, htx, hleft])]
  simp only [hr]
  cases z <;> rfl

end TxSlotRead

/-! ### The entry commands and the queues' enables (R343, R362) -/

theorem execQEnable_enabled {s : State} {q : Nat} (hlive : s.live = true) (hen : (s.ptsQueue q).en = true) (v : Nat) :
    exec (.qEnable q v) s = .next s := by
  rw [exec, execQEnable, act_live hlive, if_pos (by simp [hen])]

section Entries

variable {s : State} (hlive : s.live = true) (hon : (s.clock 69).state = .on)

include hlive hon

theorem execCommit_on (p : Nat) (b : Bool) : exec (.commit p b) s = .next (
    if s.entryBad (slice (tget [] s.pts.entryData p) 0 64) then { s with pts := { s.pts with rejected := true } }
    else { s with pts := { s.pts with
      entries := tset s.pts.entries (tget 0 s.pts.entrySel p) (slice (tget [] s.pts.entryData p) 0 64)
      arrivals := if b then tset s.pts.arrivals (tget 0 s.pts.entrySel p) 0 else s.pts.arrivals } }) := by
  rw [exec, execCommit, act_live hlive, if_neg (by simp [State.ptsOn, hon])]
  rfl

theorem execEntryRead_on (p : Nat) : exec (.entryRead p) s = .next { s with pts := { s.pts with
    entryData := tset s.pts.entryData p (s.ptsEntry (tget 0 s.pts.entrySel p)) } } := by
  rw [exec, execEntryRead, act_live hlive, if_neg (by simp [State.ptsOn, hon])]
  rfl

theorem execResetCount_on (p : Nat) : exec (.resetCount p) s = .next { s with pts := { s.pts with
    arrivals := tset s.pts.arrivals (tget 0 s.pts.entrySel p) 0 } } := by
  rw [exec, execResetCount, act_live hlive, if_neg (by simp [State.ptsOn, hon])]
  rfl

theorem execQDisable_on (q : Nat) : exec (.qDisable q) s = .next (s.modQueue q fun x => { x with en := false }) := by
  rw [exec, execQDisable, act_live hlive, if_pos (s.ptsOn_iff.mpr hon)]

section Disabled

variable {q v : Nat} {u : State} (hen : (s.ptsQueue q).en = false)
  (hu : u = s.modQueue q fun x => { x with
    log2Slots := v % 16, slotSize := fld v 4 2, tx := bit v 6, ownerTag := fld v 8 12, writerTag := fld v 20 12 })

include hen hu

/-- A disabled queue takes its configuration, and stays disabled with LOG2_SLOTS out of range. -/
theorem execQEnable_outOfRange (hv : v % 16 < 4 ∨ 14 < v % 16) :
    exec (.qEnable q v) s = .next (u.modQueue q fun x => { x with error := 3 }) := by
  rw [exec, execQEnable, act_live hlive, if_neg (by simp [State.ptsOn, hon, hen]), hu]
  have hlog : fld v 0 4 = v % 16 := rfl
  dsimp only
  rw [hlog, if_pos (by simpa using hv)]

/-- With LOG2_SLOTS in range, and no write of it outstanding, it starts empty. -/
theorem execQEnable_inRange (hlo : 4 ≤ v % 16) (hhi : v % 16 ≤ 14) (hs : (s.ptsQueue q).slotWrites = [])
    (hi : (s.ptsQueue q).indexWrites = []) : exec (.qEnable q v) s = .next (u.modQueue q fun x => { x with
      en := true, error := 0, index := 0, captured := 0, seq := 0, slotWrites := [], indexWrites := [] }) := by
  rw [exec, execQEnable, act_live hlive, if_neg (by simp [State.ptsOn, hon, hen]), hu]
  have hlog : fld v 0 4 = v % 16 := rfl
  dsimp only
  rw [hlog, if_neg (by simp [Nat.not_lt.mpr hlo, Nat.not_lt.mpr hhi]), State.modQueue_same, hs, hi]
  rfl

end Disabled

end Entries

theorem execCanBusOffRecovery_live {s : State} (hlive : s.live = true) (c : Nat) : exec (.canBusOffRecovery c) s =
    .next { s with pts := { s.pts with busOff := s.pts.busOff.erase c } } := by
  rw [exec, execCanBusOffRecovery, act_live hlive]
  rfl

/-- Settles O39: the acknowledgements and the entry commands by their equations, an index write by the filter's, and a
slot's read by what the fetches of its header and its frame come to. That a slot which cannot be read is error 3 and
that Q_ENABLE starts both indexes at 0 are the model's choice (log entry 54). -/
theorem pointsQueuesAndEntries : Obligations.PointsQueuesAndEntries := by
  refine ⟨fun s q id i l hlive => ⟨execQueueSlotAck_nil hlive, fun h hw => ?_, fun h hw =>
      ⟨_, rfl, fun he => ?_, fun he => ?_⟩⟩,
    fun s q id l hlive => ⟨execQueueIndexAck_nil hlive, fun h hw => ?_, fun h hw => ?_⟩,
    fun s tag a n v q c t ok x acc hlive hq ht hacc ht' => ⟨fun k hv => execTxIndexWrite_denied hlive ht hacc hv,
      fun hv hon => ?_⟩,
    fun s u q full i x h z hlive hx => ⟨execTxSlotRead_idle hlive hx, fun hon hen htx hleft hz => ?_⟩,
    fun s p n e b hlive hon hn he => ?_,
    fun s u q v hlive hon => ⟨execQDisable_on hlive hon q, fun hen => execQEnable_enabled hlive hen v, fun hen hu =>
      ⟨execQEnable_outOfRange hlive hon hen hu, execQEnable_inRange hlive hon hen hu⟩⟩,
    fun s c hlive => execCanBusOffRecovery_live hlive c⟩
  · rw [execQueueSlotAck_cons hlive h rfl, if_pos hw]
  · rw [execQueueSlotAck_cons hlive h rfl, if_neg (by simp [hw]), if_pos he]
  · rw [execQueueSlotAck_cons hlive h rfl, if_neg (by simp [hw]), if_neg he]
  · rw [execQueueIndexAck_cons hlive h, if_pos hw]
  · rw [execQueueIndexAck_cons hlive h, if_neg (by simp [hw])]
  · obtain ⟨w, u, hwp, hwm, hexec, hum, hup⟩ := execTxIndexWrite_granted hlive ht hacc hv hon
    have hwq : w.pts.queues = [(q, x)] := by rw [hwp, hq]
    refine ⟨u, hexec, hum.trans hwm, fun hen hlo hhi htag => ?_, fun hmiss => ?_⟩
    · rw [hup, State.indexWatch_covered hwq hen hlo hhi htag, hwp, ← ht']
      exact ⟨fun hok => by rw [PtsQueue.indexed, if_pos hok],
        fun hbad => by rw [PtsQueue.indexed, if_neg (by simp [hbad])]⟩
    · rw [hup, State.indexWatch_missed hwq hmiss, hwp]
  · have hread : ∀ {w : State} {o : Fetch} {b : Bytes}, (s.reach i).readSlot x = (w, o, b) →
        exec (.txSlotRead q full i) s = .next (w.txSlotOutcome q full i x b o) :=
      execTxSlotRead_reads hlive hx hon hen htx hleft
    refine ⟨?_, ?_, ?_, ?_, ?_⟩
    · rintro rfl
      exact hread (State.readSlot_headerLost hz (by simp))
    · rintro rfl
      exact hread (State.readSlot_headerLost hz (by simp))
    · rintro rfl hbad
      have hf : x.frameFits h = false := by
        rw [Bool.eq_false_iff, ne_eq, PtsQueue.frameFits_iff]
        omega
      rw [hread (State.readSlot_headerOnly hz (.inl hf)), State.txSlotOutcome, hf]
    · rintro rfl hk hn hroom
      have hf : x.frameFits h = true := (x.frameFits_iff h).mpr ⟨hk, by omega⟩
      rw [hread (State.readSlot_headerOnly hz (.inr hn)), State.txSlotOutcome, hf]
    · rintro rfl hk hn hroom w o hw
      have hf : x.frameFits h = true := (x.frameFits_iff h).mpr ⟨hk, hroom⟩
      rw [hread (State.readSlot_frame hz hf hn hw.symm)]
      refine ⟨?_, ?_, fun d => ?_⟩ <;> rintro rfl
      · rfl
      · rfl
      · rw [State.txSlotOutcome, hf]
  · subst hn he
    exact ⟨fun hbad => by rw [execCommit_on hlive hon, if_pos hbad],
      fun hok => by rw [execCommit_on hlive hon, if_neg (by simp [hok])], execEntryRead_on hlive hon p,
      execResetCount_on hlive hon p⟩

end Sys2Proof.Machine
end

section
/-! Proofs of the family of the gateway and the Junction: outbound accesses of the Junction, their completions and their
timeouts (O40). -/

namespace Sys2Proof.Machine

theorem State.jctOn_iff (s : State) : s.jctOn = true ↔ (s.clock 71).state = .on := by simp [State.jctOn]

/-! ### JCT_OUTBOUND (R354) -/

section Outbound

variable {s : State} {a x : Nat} (hlive : s.live = true) (src tag n : Nat)

include hlive

theorem execJctOutbound_ignored (h : (s.clock 71).state ≠ .on ∨ s.sideOf a = none) (w : Bool) (d : Bytes) :
    exec (.jctOutbound src tag a n w d) s = .next s := by
  rw [exec, execJctOutbound, act_live hlive]
  rcases h with h | h
  · rw [if_pos (by simp [State.jctOn, h])]
  · simp only [h, ite_self]

variable (hon : (s.clock 71).state = .on) (hx : s.sideOf a = some x) (d : Bytes)

include hon hx

theorem execJctOutbound_write : exec (.jctOutbound src tag a n true d) s =
    .next { (s.breakOthers src tag 32 a n).issueWrite x tag a (d.take n) with resp := { kind := .data } } := by
  rw [exec, execJctOutbound, act_live hlive, if_neg (by simp [State.jctOn, hon])]
  simp only [hx, if_true]

theorem execJctOutbound_read : exec (.jctOutbound src tag a n false d) s =
    .next { s.issueRead x src tag a n with resp := { kind := .held } } := by
  rw [exec, execJctOutbound, act_live hlive, if_neg (by simp [State.jctOn, hon])]
  simp only [hx, Bool.false_eq_true, if_false]

end Outbound

/-! ### Reservations and pieces (R354, R359) -/

theorem JctSlot.others_iff (r : JctSlot) (src tag hart : Nat) :
    r.others src tag hart = true ↔ r.src ≠ src ∨ r.tag ≠ tag ∨ r.hart ≠ hart := by
  simp [JctSlot.others, or_assoc]

theorem State.mem_breakOthers (s : State) (src tag h a n : Nat) (r : JctSlot) :
    r ∈ (s.breakOthers src tag h a n).jct.slots ↔ r ∈ s.jct.slots ∧
      ¬((r.src ≠ src ∨ r.tag ≠ tag ∨ r.hart ≠ h) ∧ a / 64 ≤ r.granule ∧ r.granule ≤ (a + n - 1) / 64) := by
  simp only [State.breakOthers, State.modJct_jct, List.mem_filter, Bool.not_eq_true', ← Bool.not_eq_true,
    Bool.and_eq_true, decide_eq_true_eq, JctSlot.others_iff, and_assoc]

/-- A piece that stays below the next boundary crosses none. -/
theorem div_piece_end {bound a m : Nat} (hm : 0 < m) (hle : m ≤ bound - a % bound) :
    a / bound = (a + m - 1) / bound := by
  have hdiv := Nat.div_add_mod a bound
  have hcomm := Nat.mul_comm bound (a / bound)
  have hsucc := Nat.add_one_mul (a / bound) bound
  exact (Nat.div_eq_of_lt_le (by omega) (by omega)).symm

theorem cutPieces_succ {bound most k a n : Nat} (hn : n ≠ 0) : cutPieces bound most (k + 1) a n =
    (a, min n (min most (bound - a % bound))) ::
      cutPieces bound most k (a + min n (min most (bound - a % bound))) (n - min n (min most (bound - a % bound))) :=
  if_neg hn

/-- The pieces of an access make up its length, and each lies in the access, is no longer than `most` and crosses no
boundary (R354). -/
theorem cutPieces_spec {bound most : Nat} (hb : 0 < bound) (hm : 0 < most) : ∀ {k a n : Nat}, n ≤ k →
    ((cutPieces bound most k a n).map (·.2)).sum = n ∧
    ∀ p ∈ cutPieces bound most k a n, 0 < p.2 ∧ p.2 ≤ most ∧ a ≤ p.1 ∧ p.1 + p.2 ≤ a + n ∧
      p.1 / bound = (p.1 + p.2 - 1) / bound
  | 0, a, n, hk => by
    obtain rfl : n = 0 := Nat.le_zero.mp hk
    simp [cutPieces]
  | k + 1, a, n, hk => by
    rcases Nat.eq_zero_or_pos n with rfl | hn
    · simp [cutPieces]
    rw [cutPieces_succ (Nat.ne_of_gt hn)]
    have hroom : 0 < bound - a % bound := Nat.sub_pos_of_lt (Nat.mod_lt a hb)
    generalize hc : min n (min most (bound - a % bound)) = m
    obtain ⟨hsum, hrest⟩ := cutPieces_spec hb hm (k := k) (a := a + m) (n := n - m) (by omega)
    refine ⟨by rw [List.map_cons, List.sum_cons, hsum]; omega, fun p hp => ?_⟩
    rcases List.mem_cons.mp hp with rfl | hp
    · dsimp only
      exact ⟨by omega, by omega, Nat.le_refl _, by omega, div_piece_end (by omega) (by omega)⟩
    · obtain ⟨hpos, hmost, hge, hend, hdiv⟩ := hrest p hp
      exact ⟨hpos, hmost, by omega, by omega, hdiv⟩

/-! ### JCT_COMPLETION (R355, R356) -/

section Completion

variable {s : State} {x t : Nat} {g : JctTag} {d : Bytes}

/-- A completion for a free or quarantined tag is counted and nothing else (R356). -/
theorem execJctCompletion_late (hlive : s.live = true) (hon : (s.clock 71).state = .on)
    (h : tfind (s.side x).tags t = none ∨ tfind (s.side x).tags t = some g ∧ g.quarantined = true) (st : Nat)
    (l : Bool) : exec (.jctCompletion x t st d l) s =
      .next (s.modSide x fun y => { y with lateCpl := min (y.lateCpl + 1) 0xFFFF }) := by
  rw [exec, execJctCompletion, act_live hlive, if_neg (by simp [State.jctOn, hon])]
  rcases h with h | ⟨h, hq⟩
  · simp only [h]
    rfl
  · simp only [h, hq, if_true]
    rfl

theorem execJctCompletion_held (hlive : s.live = true) (hon : (s.clock 71).state = .on)
    (h : tfind (s.side x).tags t = some g) (hq : g.quarantined = false) (st : Nat) (l : Bool) :
    exec (.jctCompletion x t st d l) s = .next (s.complete x t g st d l) := by
  rw [exec, execJctCompletion, act_live hlive, if_neg (by simp [State.jctOn, hon])]
  simp only [h, hq, Bool.false_eq_true, if_false]

/-! What a completion for a held tag does to its read (R355, R360). -/

/-- A change of a far side is what it makes of the side that stands there. -/
theorem State.modSide_congr {f k : JctSide → JctSide} (h : f (s.side x) = k (s.side x)) :
    s.modSide x f = s.modSide x k :=
  congrArg (fun y => s.modJct fun j => { j with sides := tset j.sides x y }) h

/-- An error changes no read and no tag of its far side (R360). -/
theorem State.jctError_reads_tags (s : State) (x kind tag rdTag : Nat) (write inbound : Bool) (a : Nat) :
    ((s.jctError x kind tag rdTag write inbound a).side x).reads = (s.side x).reads ∧
    ((s.jctError x kind tag rdTag write inbound a).side x).tags = (s.side x).tags := by
  rw [State.jctError, State.modSide_same]
  dsimp only
  split <;> exact ⟨rfl, rfl⟩

theorem tget_of_tfind {α : Type} {d a : α} : ∀ {t : Table α} {k : Nat}, tfind t k = some a → tget d t k = a
  | (j, b) :: l, k, h => by
    rw [tfind] at h
    rw [tget]
    split at h
    · rw [if_pos ‹_›, Option.some.inj h]
    · rw [if_neg ‹_›]
      exact tget_of_tfind h

variable {r : JctRead} (hr : tfind (s.side x).reads g.read = some r)

include hr

/-- Data that is not the piece's last joins the read, and the tag stays held. -/
theorem State.complete_more : s.complete x t g 0 d false = s.modSide x fun y => { y with
    tags := tset y.tags t { g with addr := g.addr + d.length }
    reads := tset y.reads g.read { r with parts := memWrite r.parts g.addr d } } := by
  simp only [State.complete, bne_self_eq_false, Bool.or_self, Bool.false_eq_true, if_false, if_true]
  refine State.modSide_congr ?_
  simp only [hr, Bool.or_false]

/-- The last data of a piece frees the tag for waiting pieces, and answers the read that has no piece left. -/
theorem State.complete_last : s.complete x t g 0 d true = (((s.modSide x fun y => { y with
    tags := tdel y.tags t
    reads := tset y.reads g.read { r with
      parts := memWrite r.parts g.addr d, outstanding := r.outstanding - 1 } }).issueReads x).readDone x g.read) := by
  simp only [State.complete, Bool.true_or, if_true]
  refine congrArg (fun u : State => (u.issueReads x).readDone x g.read) (State.modSide_congr ?_)
  simp only [hr, bne_self_eq_false, Bool.or_false]

/-- A piece that fails marks its read and is recorded; it frees its tag as the last data does. -/
theorem State.complete_error {st : Nat} (h₁ : 1 ≤ st) (h₃ : st ≤ 3) (l : Bool) : s.complete x t g st d l =
    ((((s.jctError x (st + 1) r.tag t false false g.addr).modSide x fun y => { y with
      tags := tdel y.tags t
      reads := tset y.reads g.read { r with failed := true, outstanding := r.outstanding - 1 } }).issueReads x).readDone
        x g.read) := by
  have hne : st ≠ 0 := by omega
  have hkind : (if st = 1 then 2 else if st = 2 then 3 else if st = 3 then 4 else 5) = st + 1 := by
    split_ifs <;> omega
  have hbad : (st != 0) = true := by simp [hne]
  have hends : (l || st != 0) = true := by rw [hbad, Bool.or_true]
  have hr' : tfind ((s.jctError x (st + 1) r.tag t false false g.addr).side x).reads g.read = some r := by
    rw [(s.jctError_reads_tags x (st + 1) r.tag t false false g.addr).1, hr]
  simp only [State.complete, hends, if_true, if_neg hne, hkind, tget_of_tfind hr]
  refine congrArg (fun u : State => (u.issueReads x).readDone x g.read) (State.modSide_congr ?_)
  simp only [hr', hbad, Bool.or_true]

end Completion

/-! ### CPL_TIMEOUT and TAG_QUARANTINE_END (R356) -/

section Timeout

variable {s : State} {x t : Nat} {g : JctTag} (hlive : s.live = true)

include hlive

theorem exec_timeouts_free (h : tfind (s.side x).tags t = none) :
    exec (.cplTimeout x t) s = .next s ∧ exec (.tagQuarantineEnd x t) s = .next s := by
  rw [exec, exec, execCplTimeout, execTagQuarantineEnd, act_live hlive, act_live hlive]
  simp only [h, and_self]

variable (h : tfind (s.side x).tags t = some g)

include h

theorem execTagQuarantineEnd_held (hq : g.quarantined = false) : exec (.tagQuarantineEnd x t) s = .next s := by
  rw [exec, execTagQuarantineEnd, act_live hlive]
  simp only [h, hq, Bool.not_false, Bool.true_or, if_true]

theorem execCplTimeout_quarantined (hq : g.quarantined = true) : exec (.cplTimeout x t) s = .next s := by
  rw [exec, execCplTimeout, act_live hlive]
  simp only [h, hq, Bool.true_or, if_true]

variable (hon : (s.clock 71).state = .on)

include hon

/-- A tag whose completion is overdue is quarantined, and its read ends with an error. -/
theorem execCplTimeout_held {r : State} (hq : g.quarantined = false)
    (hr : r = s.reach (g.sinceNs + 1000 * (s.side x).timeoutUs)) : exec (.cplTimeout x t) s =
      .next (((r.modSide x fun y => { y with
        tags := tset y.tags t { g with quarantined := true, sinceNs := r.now } }).jctError x 1
          (tget {} (r.side x).reads g.read).tag t false false g.addr).answerRead x g.read true) := by
  rw [exec, execCplTimeout, act_live hlive, hr]
  simp only [h, hq, s.jctOn_iff.mpr hon, Bool.not_true, Bool.or_self, Bool.false_eq_true, if_false]

theorem execTagQuarantineEnd_quarantined (hq : g.quarantined = true) : exec (.tagQuarantineEnd x t) s =
    .next (((s.reach (g.sinceNs + 2000 * (s.side x).timeoutUs)).modSide x fun y =>
      { y with tags := tdel y.tags t }).issueReads x) := by
  rw [exec, execTagQuarantineEnd, act_live hlive]
  simp only [h, hq, s.jctOn_iff.mpr hon, Bool.not_true, Bool.or_self, Bool.false_eq_true, if_false]

end Timeout

/-! ### PCIE_LINK_UP (R361) -/

theorem execPcieLinkUp_live {s : State} (hlive : s.live = true) (p : Nat) (b : Bool) :
    exec (.pcieLinkUp p b) s = .next (s.modSide p fun d => { d with up := b }) := by
  rw [exec, execPcieLinkUp, act_live hlive]

/-- Settles O40: an outbound access and its pieces by their equations, a completion and a timeout by what its tag is.
That a failed read ends only once every piece is answered is the model's choice (log entry 56). -/
theorem junctionReadsAndWrites : Obligations.JunctionReadsAndWrites :=
  ⟨fun s src tag a n x w d hlive => ⟨fun h => execJctOutbound_ignored hlive src tag n h w d, fun hon hx =>
      ⟨execJctOutbound_write hlive src tag n hon hx d, execJctOutbound_read hlive src tag n hon hx d⟩⟩,
   fun s src tag h a n r => s.mem_breakOthers src tag h a n r,
   fun bound most k a n hb hm hk => cutPieces_spec hb hm hk,
   fun s x t st d l g hlive hon => ⟨fun h => execJctCompletion_late hlive hon h st l, fun h hq r hr =>
     ⟨fun hst hl => ⟨_, by rw [execJctCompletion_held hlive hon h hq, hst, hl, State.complete_more hr], rfl⟩,
      fun hst hl => ⟨_, rfl, by rw [execJctCompletion_held hlive hon h hq, hst, hl, State.complete_last hr]⟩,
      fun h₁ h₃ => ⟨_, rfl, by rw [execJctCompletion_held hlive hon h hq, State.complete_error hr h₁ h₃]⟩⟩⟩,
   fun s r x t g hlive hon => ⟨exec_timeouts_free hlive,
     fun h hq hr => ⟨execTagQuarantineEnd_held hlive h hq, execCplTimeout_held hlive h hon hq hr⟩,
     fun h hq => ⟨execCplTimeout_quarantined hlive h hq, execTagQuarantineEnd_quarantined hlive h hon hq⟩⟩,
   fun s p b hlive => execPcieLinkUp_live hlive p b⟩

end Sys2Proof.Machine
end

section
/-! Proofs of the family of the gateway and the Junction: inbound requests of PCIe and the exclusive and atomic sequences
(O41). -/

namespace Sys2Proof.Machine

/-! ### JCT_INBOUND (R358) -/

section Inbound

variable {s : State} {p rid a n : Nat} {w : Bool} {d : Bytes} (hlive : s.live = true)

include hlive

theorem execJctInbound_off (hoff : (s.clock 71).state ≠ .on) (b : Bool) :
    exec (.jctInbound p rid a n w d b) s = .next s := by
  rw [exec, execJctInbound, act_live hlive, if_pos (by simp [State.jctOn, hoff])]

variable (hon : (s.clock 71).state = .on)

include hon

theorem execJctInbound_atomic :
    exec (.jctInbound p rid a n w d true) s = .next { s with resp := { kind := .error } } := by
  rw [exec, execJctInbound, act_live hlive, if_neg (by simp [State.jctOn, hon]), if_pos rfl]

/-- A request outside every window is answered with an error and recorded as kind 6. -/
theorem execJctInbound_noWindow (h : s.inWindowOf p rid a = none) : exec (.jctInbound p rid a n w d false) s =
    .next { s.jctError p 6 0 0 w true a with resp := { kind := .error } } := by
  rw [exec, execJctInbound, act_live hlive, if_neg (by simp [State.jctOn, hon]), if_neg Bool.false_ne_true]
  simp only [h]

variable {x : JctWindow} {u : State} (h : s.inWindowOf p rid a = some x)

include h

/-- A request whose access is denied is answered with an error and recorded as kind 7. -/
theorem execJctInbound_denied (hu : (u, none) = s.inboundPieces x.streamTag (x.target + (a - x.base)) w (d.take n)
    (cutPieces 64 64 n (x.target + (a - x.base)) n)) : exec (.jctInbound p rid a n w d false) s =
      .next { u.jctError p 7 x.streamTag 0 w true a with resp := { kind := .error } } := by
  rw [exec, execJctInbound, act_live hlive, if_neg (by simp [State.jctOn, hon]), if_neg Bool.false_ne_true]
  simp only [h, ← hu]

theorem execJctInbound_answered {r : Bytes} (hu : (u, some r) = s.inboundPieces x.streamTag
    (x.target + (a - x.base)) w (d.take n) (cutPieces 64 64 n (x.target + (a - x.base)) n)) :
    exec (.jctInbound p rid a n w d false) s =
      .next { u with resp := { kind := .data, bytes := if w then [] else r } } := by
  rw [exec, execJctInbound, act_live hlive, if_neg (by simp [State.jctOn, hon]), if_neg Bool.false_ne_true]
  simp only [h, ← hu]

end Inbound

/-! ### Exclusive and atomic sequences (R359) -/

/-- A reservation on the granule of an address by its holder. -/
theorem JctSlot.mine_iff (r : JctSlot) (src tag h a : Nat) : (r.granule == a / 64 && !(r.others src tag h)) = true ↔
    r.granule = a / 64 ∧ r.src = src ∧ r.tag = tag ∧ r.hart = h := by
  simp [JctSlot.others, and_assoc]

section Sequence

variable {s : State} {a : Nat} (hlive : s.live = true) (src tag h n : Nat) (d : Bytes)

include hlive

theorem exec_sequences_ignored (hoff : (s.clock 71).state ≠ .on ∨ s.sideOf a = none) (op v old : Nat) (ok : Bool) :
    exec (.lr src tag h a n) s = .next s ∧ exec (.sc src tag h a d) s = .next s ∧
      exec (.amo src tag h a n op v old ok) s = .next s := by
  rw [exec, exec, exec, execLr, execSc, execAmo, act_live hlive, act_live hlive, act_live hlive]
  rcases hoff with hoff | hoff
  · have hj : (!s.jctOn) = true := by simp [State.jctOn, hoff]
    simp only [if_pos hj, and_self]
  · simp only [hoff, ite_self, and_self]

variable {x : Nat} (hon : (s.clock 71).state = .on) (hx : s.sideOf a = some x)

include hon hx

/-- LR: the granule's reservation is taken anew, the oldest giving way when all 16 are held, and the read is issued. -/
theorem execLr_live {l : List JctSlot} (hl : l = s.jct.slots.filter fun r => r.granule != a / 64) {u : State}
    (hu : u = { s with jct := { s.jct with slots := (if l.length ≥ 16 then l.drop 1 else l)
      ++ [{ granule := a / 64, src := src, tag := tag, hart := h, sinceNs := s.now }] } }) :
    exec (.lr src tag h a n) s = .next { u.issueRead x src tag a n with resp := { kind := .held } } := by
  rw [exec, execLr, act_live hlive, if_neg (by simp [State.jctOn, hon]), hu, hl]
  simp only [hx]
  rfl

/-- SC where its holder's reservation stands: it is spent, and the write is answered 0. -/
theorem execSc_reserved (hr : ∃ r ∈ s.jct.slots, r.granule = a / 64 ∧ r.src = src ∧ r.tag = tag ∧ r.hart = h)
    {u : State} (hu : u = { s with jct := { s.jct with slots := s.jct.slots.filter fun r =>
      !(r.granule == a / 64 && !(r.others src tag h)) } }) :
    exec (.sc src tag h a d) s = .next { (u.breakOthers src tag h a d.length).issueWrite x tag a d with
      resp := { kind := .data, bytes := leBytes d.length 0 } } := by
  have hany : (s.jct.slots.any fun r => r.granule == a / 64 && !(r.others src tag h)) = true :=
    List.any_eq_true.mpr (hr.imp fun r => And.imp_right (r.mine_iff src tag h a).mpr)
  rw [exec, execSc, act_live hlive, if_neg (by simp [State.jctOn, hon]), hu]
  simp only [hx, hany, if_true]
  rfl

/-- SC without one: it is counted, and answered 1. -/
theorem execSc_broken (hr : ∀ r ∈ s.jct.slots, ¬(r.granule = a / 64 ∧ r.src = src ∧ r.tag = tag ∧ r.hart = h)) :
    exec (.sc src tag h a d) s = .next { (s.modSide x fun y => { y with scFailed := min (y.scFailed + 1) 0xFFFF }) with
      resp := { kind := .data, bytes := leBytes d.length 1 } } := by
  have hany : (s.jct.slots.any fun r => r.granule == a / 64 && !(r.others src tag h)) = false :=
    List.any_eq_false.mpr fun r hm => mt (r.mine_iff src tag h a).mp (hr r hm)
  rw [exec, execSc, act_live hlive, if_neg (by simp [State.jctOn, hon])]
  simp only [hx, hany, Bool.false_eq_true, if_false]
  rfl

end Sequence

/-- The Junction with an AMO's reservation made: none is left on the granule, and the oldest gives way when 16 are
held. -/
def State.amoReserve (s : State) (a : Nat) : State :=
  let l := s.jct.slots.filter fun r => r.granule != a / 64
  { s with jct := { s.jct with slots := if l.length ≥ 16 then l.drop 1 else l } }

theorem State.amoReserve_slots (s : State) (a : Nat) :
    ∀ r ∈ (s.amoReserve a).jct.slots, r.granule ≠ a / 64 ∧ r ∈ s.jct.slots := by
  intro r hr
  have hl : r ∈ s.jct.slots.filter fun r => r.granule != a / 64 := by
    unfold State.amoReserve at hr
    dsimp only at hr
    split at hr
    · exact List.mem_of_mem_drop hr
    · exact hr
  obtain ⟨hm, hg⟩ := List.mem_filter.mp hl
  exact ⟨bne_iff_ne.mp hg, hm⟩

section Amo

variable {s : State} {a x : Nat} (hlive : s.live = true) (hon : (s.clock 71).state = .on) (hx : s.sideOf a = some x)
  (src tag h n op v old : Nat)

include hlive hon hx

theorem execAmo_read : exec (.amo src tag h a n op v old true) s = .next
    { ((s.amoReserve a).breakOthers src tag h a n).issueWrite x tag a
        (leBytes n (amoResult (8 * n) op (old % 2 ^ (8 * n)) (v % 2 ^ (8 * n)))) with
      resp := { kind := .data, bytes := leBytes n old } } := by
  rw [exec, execAmo, act_live hlive, if_neg (by simp [State.jctOn, hon])]
  simp only [hx, if_true]
  rfl

/-- An AMO whose read fails writes nothing. -/
theorem execAmo_unread : exec (.amo src tag h a n op v old false) s = .next
    { (s.amoReserve a).jctError x (if x = 2 then 5 else 2) tag 0 false false a with resp := { kind := .error } } := by
  rw [exec, execAmo, act_live hlive, if_neg (by simp [State.jctOn, hon])]
  simp only [hx, Bool.false_eq_true, if_false]
  rfl

end Amo

section ReservationTimeout

variable {s : State} (hlive : s.live = true)

include hlive

theorem execReservationTimeout_nil (h : s.jct.slots = []) : exec .reservationTimeout s = .next s := by
  rw [exec, execReservationTimeout, act_live hlive]
  simp only [h]

theorem execReservationTimeout_cons {r : JctSlot} {l : List JctSlot} (h : s.jct.slots = r :: l)
    (hon : (s.clock 71).state = .on) : exec .reservationTimeout s =
      .next ((s.reach (r.sinceNs + 4000)).modJct fun j => { j with slots := l }) := by
  rw [exec, execReservationTimeout, act_live hlive]
  simp only [h, s.jctOn_iff.mpr hon, if_true]

end ReservationTimeout

/-- Settles O41: an inbound request by the window that matches and what its pieces come to, the sequences by the
reservations that stand. SC's answers 0 and 1, the atomic in one step and the error's address before translation are the
model's choice (log entry 56). -/
theorem junctionInboundAndAtomics : Obligations.JunctionInboundAndAtomics := by
  refine ⟨fun s p rid a n w d b hlive => ⟨fun hoff => execJctInbound_off hlive hoff b, fun hon =>
      ⟨execJctInbound_atomic hlive hon, execJctInbound_noWindow hlive hon, fun x hx u o hu => ⟨?_, fun r => ?_⟩⟩⟩,
    fun s src tag h a n op v old d ok hlive hoff => exec_sequences_ignored hlive src tag h n d hoff op v old ok,
    fun s src tag h a n x l hlive hon hx hl => ⟨_, rfl, execLr_live hlive src tag h n hon hx hl rfl⟩,
    fun s src tag h a x d hlive hon hx =>
      ⟨fun hr => ⟨_, rfl, execSc_reserved hlive src tag h d hon hx hr rfl⟩, execSc_broken hlive src tag h d hon hx⟩,
    fun s src tag h a n op v old x hlive hon hx => ⟨s.amoReserve a, rfl, s.amoReserve_slots a,
      execAmo_read hlive hon hx src tag h n op v old, execAmo_unread hlive hon hx src tag h n op v old⟩,
    fun s r l hlive => ⟨execReservationTimeout_nil hlive, execReservationTimeout_cons hlive⟩⟩
  · rintro rfl
    exact execJctInbound_denied hlive hon hx hu
  · rintro rfl
    exact execJctInbound_answered hlive hon hx hu

end Sys2Proof.Machine
end

section
/-! Proofs of the family of the external interfaces: the supervisor port's frames, its transfers and SAFE_REQUEST (O47,
O49, O51). -/

namespace Sys2Proof.Machine

open Sys2Proof.Safety

/-! ### Frames that a command does not get past (R447, R449 to R452) -/

theorem frameReserved_iff (op : Nat) (cmd : SupFrame) : frameReserved op cmd = true ↔
    cmd.opcode ≠ none ∨ 16 ≤ cmd.seq ∨ 2 ≤ cmd.cflags ∨ (cmd.cflags = 1 ∧ op ≠ 0x10) ∨ cmd.res ≠ 0 := by
  simp [frameReserved, Option.isSome_iff_ne_none, or_assoc]

/-- An instant that comes leaves the port's answering as it is. -/
theorem State.supAnswers_reach (s : State) (i : Nat) : (s.reach i).supAnswers = s.supAnswers := by
  unfold State.reach
  split <;> rfl

section Refusals

variable {s : State} {op : Nat} {cmd : SupFrame} {accepted shape : Bool} (f : State → Nat × Bytes × State)

theorem State.command_unheard (h : s.supAnswers = false) : s.command op cmd accepted shape f = s := if_pos (by simp [h])

variable (ha : s.supAnswers = true)
include ha

theorem State.command_badCrc (h : crc32c (frameBytes op cmd) ≠ cmd.crc) : s.command op cmd accepted shape f =
    (s.modSup fun x => { x with crcErrors := min (x.crcErrors + 1) 0xFFFF }).respond cmd 1 [] := by
  rw [State.command, if_neg (by simp [ha]), if_pos h]
  rfl

variable (hc : crc32c (frameBytes op cmd) = cmd.crc)
include hc

theorem State.command_reserved (h : frameReserved op cmd = true) :
    s.command op cmd accepted shape f = s.respond cmd 2 [] := by
  rw [State.command, if_neg (by simp [ha]), if_neg (by simp [hc]), if_pos h]
  rfl

variable (hr : frameReserved op cmd = false)
include hr

theorem State.command_notNow (h : accepted = false) : s.command op cmd accepted shape f = s.respond cmd 4 [] := by
  rw [State.command, if_neg (by simp [ha]), if_neg (by simp [hc]), if_neg (by simp [hr]), if_pos (by simp [h])]
  rfl

theorem State.command_badLength (h : accepted = true) (hs : shape = false) :
    s.command op cmd accepted shape f = s.respond cmd 3 [] := by
  rw [State.command, if_neg (by simp [ha]), if_neg (by simp [hc]), if_neg (by simp [hr]), if_neg (by simp [h]),
    if_pos (by simp [hs])]
  rfl

end Refusals

/-- What STATUS_READ does after its answer: one that is answered OK clears ALERT_PENDING (R454). -/
def State.statusSeen (s t : State) : State :=
  if s.supAnswers && t.sup.response.head? == some 0 then { t with ilk := { t.ilk with alertPending := false } } else t

theorem State.statusSeen_unheard {s : State} (h : s.supAnswers = false) (t : State) : s.statusSeen t = t :=
  if_neg (by simp [h])

theorem State.statusSeen_respond {st : Nat} (hp : 0 < st) (hl : st < 256) (s t : State) (cmd : SupFrame) :
    s.statusSeen (t.respond cmd st []) = t.respond cmd st [] := by
  have hb : BitVec.ofNat 8 st ≠ 0#8 := fun hz => by
    have := congrArg BitVec.toNat hz
    rw [BitVec.toNat_ofNat, Nat.mod_eq_of_lt hl] at this
    exact absurd this (Nat.ne_of_gt hp)
  refine if_neg ?_
  rw [show (t.respond cmd st []).sup.response.head? = some (BitVec.ofNat 8 st) from rfl]
  simpa using fun _ => hb

/-- The commands of the port: each is checked as its row says, at the instant it comes (R452). STATUS_READ alone does
something after its answer. -/
theorem exec_command {s : State} (hlive : s.live = true) {cmd : SupFrame} {b : SupBound} {h : Bool} {i op : Nat}
    {c : Instr} {accepted shape : Bool} {r : State}
    (hm : (op, c, accepted, shape, r) ∈
      [(0x01, Instr.statusRead cmd, true, bare cmd && cmd.addr == 0, s),
       (0x02, .heartbeat cmd, true, cmd.length == 4 && cmd.payload.length == 4, s),
       (0x03, .identityRead cmd, s.boot.identityReadable, bare cmd, s),
       (0x08, .regRead cmd b, islandRange cmd || 3 ≤ s.boot.step, regShape cmd && cmd.payload == [], s),
       (0x09, .regWrite cmd b h, islandRange cmd || 3 ≤ s.boot.step, regShape cmd && cmd.payload.length == cmd.length, s),
       (0x0A, .memRead cmd b, s.phaseUp, memShape cmd && cmd.payload == [], s),
       (0x0B, .memWrite cmd b, s.phaseUp, memShape cmd && cmd.payload.length == cmd.length, s),
       (0x10, .imageLoad cmd b, s.loadsBoot || s.loadsPartial, chunkShape cmd, s),
       (0x11, .repairRead cmd b, s.boot.repairUpdated,
         memShape cmd && cmd.payload == [] && cmd.addr + cmd.length ≤ 16384, s),
       (0x20, .safeRequest cmd, true, bare cmd, s),
       (0x21, .counterClear cmd, true, cmd.length == 8 && cmd.payload.length == 8, s),
       (0x22, .timeSet cmd i, true, cmd.length == 16 && cmd.payload.length == 16, s.reach i)]) :
    r.supAnswers = s.supAnswers ∧
      ∃ f, exec c s = .next (r.command op cmd accepted shape f) ∨
        exec c s = .next (s.statusSeen (r.command op cmd accepted shape f)) := by
  simp only [List.mem_cons, Prod.mk.injEq, List.not_mem_nil, or_false] at hm
  obtain hm | hm | hm | hm | hm | hm | hm | hm | hm | hm | hm | hm := hm <;> obtain ⟨rfl, rfl, rfl, rfl, rfl⟩ := hm
  · exact ⟨rfl, _, .inr ((exec.eq_def _ _).trans ((act_live hlive _).trans rfl))⟩
  iterate 10 exact ⟨rfl, _, .inl ((exec.eq_def _ _).trans ((act_live hlive _).trans rfl))⟩
  · exact ⟨s.supAnswers_reach i, _, .inl ((exec.eq_def _ _).trans ((act_live hlive _).trans rfl))⟩

/-- Settles O47: the checks of a frame in their order, the same for each command, which has no effect before it passes
them. That order after the CRC is the model's choice (log entry 73). -/
theorem supervisorFrames : Obligations.SupervisorFrames := by
  refine ⟨fun s cmd b h i op c accepted shape r hlive hm => ?_, fun s cmd st d e he => ⟨_, rfl, he ▸ rfl⟩⟩
  obtain ⟨hr, f, he⟩ := exec_command hlive hm
  have out {t : State} (ht : r.command op cmd accepted shape f = t) (hs : s.statusSeen t = t) : exec c s = .next t := by
    rcases he with he | he <;> rw [he, ht]
    rw [hs]
  refine ⟨fun ha => out (State.command_unheard f (hr.trans ha)) (State.statusSeen_unheard ha _),
    fun ha hc => out (State.command_badCrc f (hr.trans ha) hc) ?_,
    fun ha hc hx => out (State.command_reserved f (hr.trans ha) hc ((frameReserved_iff op cmd).mpr hx)) ?_,
    fun ha hc hx => ⟨fun hn => out (State.command_notNow f (hr.trans ha) hc hx hn) ?_,
      fun hn hs => out (State.command_badLength f (hr.trans ha) hc hx hn hs) ?_⟩⟩
  all_goals exact State.statusSeen_respond (by decide) (by decide) _ _ _

/-! ### The bulk path (R453, R462) -/

/-- A command that misses its bound: it is counted and answered TIMEOUT. -/
def State.timedOut (s : State) (cmd : SupFrame) : State :=
  (s.modSup fun x => { x with timeouts := min (x.timeouts + 1) 0xFFFF }).respond cmd 5 []

section Bulk

variable {s : State} {op : Nat} {cmd : SupFrame} {accepted shape : Bool} (h : Heard s op cmd) (ha : accepted = true)
  (hs : shape = true) {f : State → Nat × Bytes × State}
include h ha hs

/-- Within its bound a command of the bulk path is answered by its own status, unless an access was held. -/
theorem State.command_bulk_met (hf : (f s).1 ≠ 5) : (s.command op cmd accepted shape fun s => s.bulk .met f) =
    (f s).2.2.respond cmd (f s).1 (f s).2.1 := by
  rw [State.command_heard h ha hs, State.bulk_met hf]

/-- One that ends late, or whose access is held, has its effect. -/
theorem State.command_bulk_lateDone {b : SupBound} (hb : b = .lateDone ∨ b = .met ∧ (f s).1 = 5) :
    (s.command op cmd accepted shape fun s => s.bulk b f) = (f s).2.2.timedOut cmd := by
  rw [State.command_heard h ha hs]
  rcases hb with rfl | ⟨rfl, hf⟩
  · rfl
  · rw [show s.bulk .met f = s.bulk .lateDone f from if_pos hf]
    rfl

/-- One that is lost has none. -/
theorem State.command_bulk_lateLost : (s.command op cmd accepted shape fun s => s.bulk .lateLost f) = s.timedOut cmd :=
  State.command_heard h ha hs _

end Bulk

/-! ### Register, memory and repair transfers (R452, R457, R462, R482) -/

theorem boundOf_island {cmd : SupFrame} {b : SupBound} (h : islandRange cmd = true ∨ b = .met) :
    boundOf cmd b = .met := by
  rcases h with h | rfl
  · exact if_pos h
  · exact ite_self _

theorem boundOf_bulk {cmd : SupFrame} (h : islandRange cmd = false) (b : SupBound) : boundOf cmd b = b :=
  if_neg (by simp [h])

/-- A transfer of registers of the island, or one within its bound, ends OK or DENIED, and never in TIMEOUT. -/
theorem ok_or_denied_ne_timeout (b : Bool) : (if b then rsOk else rsDenied) ≠ 5 := by cases b <;> decide

section Registers

variable {s : State} {cmd : SupFrame} {b : SupBound} (hr : islandRange cmd = true ∨ 3 ≤ s.boot.step)
  (hs : regShape cmd = true)
include hr hs

theorem execRegRead_met (h : Heard s 0x08 cmd) (hp : cmd.payload = []) (hb : islandRange cmd = true ∨ b = .met)
    {r : Option Bytes × State} (hq : r = State.regsRead 64 cmd.addr cmd.length s) : exec (.regRead cmd b) s =
      .next (r.2.respond cmd (if r.1.isSome then rsOk else rsDenied) (r.1.getD [])) := by
  rw [exec, execRegRead, act_live h.up, boundOf_island hb, hq]
  exact congrArg _ (State.command_bulk_met h (by simpa [State.regAccepted] using hr) (by simp [hs, hp])
    (ok_or_denied_ne_timeout _))

theorem execRegRead_late (h : Heard s 0x08 cmd) (hp : cmd.payload = []) (hb : islandRange cmd = false) :
    exec (.regRead cmd .lateDone) s = .next ((State.regsRead 64 cmd.addr cmd.length s).2.timedOut cmd) ∧
      exec (.regRead cmd .lateLost) s = .next (s.timedOut cmd) := by
  have ha : s.regAccepted cmd = true := by simpa [State.regAccepted] using hr
  rw [exec, exec, execRegRead, execRegRead, act_live h.up, act_live h.up, boundOf_bulk hb, boundOf_bulk hb]
  exact ⟨congrArg _ (State.command_bulk_lateDone h ha (by simp [hs, hp]) (.inl rfl)),
    congrArg _ (State.command_bulk_lateLost h ha (by simp [hs, hp]))⟩

theorem execRegWrite_met (h : Heard s 0x09 cmd) (hp : cmd.payload.length = cmd.length)
    (hb : islandRange cmd = true ∨ b = .met) {st : Bool} {r : Bool × State}
    (hq : r = State.regsWrite 64 cmd.addr cmd.payload st s) :
    exec (.regWrite cmd b st) s = .next (r.2.respond cmd (if r.1 then 0 else 6) []) := by
  rw [exec, execRegWrite, act_live h.up, boundOf_island hb, hq]
  exact congrArg _ (State.command_bulk_met h (by simpa [State.regAccepted] using hr) (by simp [hs, hp])
    (ok_or_denied_ne_timeout _))

theorem execRegWrite_late (h : Heard s 0x09 cmd) (hp : cmd.payload.length = cmd.length)
    (hb : islandRange cmd = false) (st : Bool) :
    exec (.regWrite cmd .lateDone st) s = .next ((State.regsWrite 64 cmd.addr cmd.payload st s).2.timedOut cmd) ∧
      exec (.regWrite cmd .lateLost st) s = .next (s.timedOut cmd) := by
  have ha : s.regAccepted cmd = true := by simpa [State.regAccepted] using hr
  rw [exec, exec, execRegWrite, execRegWrite, act_live h.up, act_live h.up, boundOf_bulk hb, boundOf_bulk hb]
  exact ⟨congrArg _ (State.command_bulk_lateDone h ha (by simp [hs, hp]) (.inl rfl)),
    congrArg _ (State.command_bulk_lateLost h ha (by simp [hs, hp]))⟩

end Registers

/-- The size of the next access of a register transfer, and what its answer makes of the rest. -/
theorem State.regsRead_succ {n : Nat} (hn : n ≠ 0) (f a : Nat) {s u : State} {k : Nat} (hk : k = busStep a n)
    (hu : u = s.pathAccess 0 a k false [] false) : State.regsRead (f + 1) a n s =
      if u.answered then ((State.regsRead f (a + k) (n - k) u).1.map (slice u.resp.bytes 0 k ++ ·),
        (State.regsRead f (a + k) (n - k) u).2) else (none, u) := by
  rw [State.regsRead, if_neg hn, hu, hk]

theorem State.regsWrite_succ {d : Bytes} (hd : d ≠ []) (f a : Nat) (h : Bool) {s u : State} {k : Nat}
    (hk : k = busStep a d.length) (hu : u = s.pathAccess 0 a k true (d.take k) h) : State.regsWrite (f + 1) a d h s =
      if u.answered then State.regsWrite f (a + k) (d.drop k) h u else (false, u) := by
  rw [State.regsWrite, if_neg hd, hu, hk]

theorem State.bulkStatus_eq (s : State) :
    s.bulkStatus = if s.resp.kind = .data then 0 else if s.resp.kind = .held then 5 else 6 := by
  unfold State.bulkStatus
  cases s.resp.kind <;> rfl

section Memory

variable {s : State} {cmd : SupFrame} {b : SupBound} (hs : memShape cmd = true)
include hs

/-- A memory read, by the status of its lines and its bound. -/
theorem execMemRead_heard (h : Heard s 0x0A cmd) (hu : s.phaseUp = true) (hp : cmd.payload = [])
    {r : Nat × Bytes × State} (hr : r = State.linesRead (cmd.length / 64) cmd.addr s) :
    (b = .met → r.1 ≠ 5 → exec (.memRead cmd b) s = .next (r.2.2.respond cmd r.1 r.2.1)) ∧
    (b = .lateDone ∨ (b = .met ∧ r.1 = 5) → exec (.memRead cmd b) s = .next (r.2.2.timedOut cmd)) ∧
    (b = .lateLost → exec (.memRead cmd b) s = .next (s.timedOut cmd)) := by
  have hq : (memShape cmd && cmd.payload == []) = true := by simp [hs, hp]
  rw [exec, execMemRead, act_live h.up, hr]
  refine ⟨?_, fun hb => congrArg _ (State.command_bulk_lateDone h hu hq hb), ?_⟩
  · rintro rfl hn
    exact congrArg _ (State.command_bulk_met h hu hq hn)
  · rintro rfl
    exact congrArg _ (State.command_bulk_lateLost h hu hq)

/-- A memory write, by the status of its lines and its bound. -/
theorem execMemWrite_heard (h : Heard s 0x0B cmd) (hu : s.phaseUp = true) (hp : cmd.payload.length = cmd.length)
    {r : Nat × State} (hr : r = State.linesWrite (cmd.length / 64) cmd.addr cmd.payload s) :
    (b = .met → r.1 ≠ 5 → exec (.memWrite cmd b) s = .next (r.2.respond cmd r.1 [])) ∧
    (b = .lateDone ∨ (b = .met ∧ r.1 = 5) → exec (.memWrite cmd b) s = .next (r.2.timedOut cmd)) ∧
    (b = .lateLost → exec (.memWrite cmd b) s = .next (s.timedOut cmd)) := by
  have hq : (memShape cmd && cmd.payload.length == cmd.length) = true := by simp [hs, hp]
  rw [exec, execMemWrite, act_live h.up, hr]
  refine ⟨?_, fun hb => congrArg _ (State.command_bulk_lateDone h hu hq hb), ?_⟩
  · rintro rfl hn
    exact congrArg _ (State.command_bulk_met h hu hq hn)
  · rintro rfl
    exact congrArg _ (State.command_bulk_lateLost h hu hq)

/-- A read of the sealed REPAIR payload: it touches nothing, so that one past its bound is a lost one. -/
theorem execRepairRead_heard (h : Heard s 0x11 cmd) (hu : s.boot.repairUpdated = true) (hp : cmd.payload = [])
    (hl : cmd.addr + cmd.length ≤ 16384) :
    (b = .met → exec (.repairRead cmd b) s = .next (s.respond cmd 0 (slice s.repair.sealed cmd.addr cmd.length))) ∧
    (b ≠ .met → exec (.repairRead cmd b) s = .next (s.timedOut cmd)) := by
  have hq : (memShape cmd && cmd.payload == [] && cmd.addr + cmd.length ≤ 16384) = true := by simp [hs, hp, hl]
  rw [exec, execRepairRead, act_live h.up]
  refine ⟨?_, fun hb => ?_⟩
  · rintro rfl
    exact congrArg _ (State.command_bulk_met h hu hq (show rsOk ≠ 5 by decide))
  · match b, hb with
    | .lateDone, _ => exact congrArg _ (State.command_bulk_lateDone h hu hq (.inl rfl))
    | .lateLost, _ => exact congrArg _ (State.command_bulk_lateLost h hu hq)

end Memory

/-- Settles O49: each transfer by the rules of the bulk path. The sizes of the accesses, and TIMEOUT for one that its
target holds, are the model's choice (log entry 74). -/
theorem supervisorTransfers : Obligations.SupervisorTransfers := by
  refine ⟨fun s cmd b h ha hs hp => ⟨_, rfl, fun hb => ⟨fun d hd => ?_, fun hd => ?_⟩, fun hi hb => ?_, fun hi hb => ?_⟩,
    fun s cmd b st h ha hs hp => ⟨_, rfl, fun hb => execRegWrite_met ha hs h hp hb rfl, fun hi hb => ?_,
      fun hi hb => ?_⟩,
    fun s u f a n k d h hk => ⟨fun hn hu => ⟨fun hx => ?_, fun hx => ?_⟩,
      fun hd hn hu => ⟨fun hx => ?_, fun hx => ?_⟩, rfl, rfl⟩,
    fun s cmd b h hu hs hp => ⟨_, rfl, execMemRead_heard hs h hu hp rfl⟩,
    fun s cmd b h hu hs hp => ⟨_, rfl, execMemWrite_heard hs h hu hp rfl⟩,
    fun s u n a c d => ⟨fun hu hc => ?_, fun hu hc => ?_⟩,
    fun s cmd b h hr hs hp hl => execRepairRead_heard hs h hr hp hl⟩
  · rw [execRegRead_met ha hs h hp hb rfl, hd]
    rfl
  · rw [execRegRead_met ha hs h hp hb rfl, hd]
    rfl
  · exact hb ▸ (execRegRead_late ha hs h hp hi).1
  · exact hb ▸ (execRegRead_late ha hs h hp hi).2
  · exact hb ▸ (execRegWrite_late ha hs h hp hi st).1
  · exact hb ▸ (execRegWrite_late ha hs h hp hi st).2
  · rw [State.regsRead_succ hn f a hk hu, if_neg (by simp [hx])]
  · rw [State.regsRead_succ hn f a hk hu, if_pos hx]
  · rw [State.regsWrite_succ hd f a h (hn ▸ hk) hu, if_neg (by simp [hx])]
  · rw [State.regsWrite_succ hd f a h (hn ▸ hk) hu, if_pos hx]
  · rw [hc, ← u.bulkStatus_eq, hu]
    rfl
  · rw [hc, ← u.bulkStatus_eq, hu]
    rfl

/-! ### SAFE_REQUEST (R460) -/

theorem execSafeRequest_heard {s : State} {cmd : SupFrame} (h : Heard s 0x20 cmd) (hb : bare cmd = true) :
    exec (.safeRequest cmd) s = .next
      (if cmd.addr = 0x5AFE000D then (s.latch 0x0D 0).respond cmd 0 [] else s.respond cmd 2 []) := by
  rw [exec, execSafeRequest, act_live h.up, State.command_heard h rfl hb]
  split <;> rfl

/-- With a cause latched before the assertion and no header pending, SAFE_N is asserted and driven low (R291). -/
theorem execSafeNAssert_asserts {t : State} (hlive : t.live = true) (hl : t.latched = true)
    (ha : t.ilk.asserted = false) (hh : t.ilk.headers = []) :
    ∃ u, exec .safeNAssert t = .next u ∧ u.ilk.asserted = true ∧ u.pins.safeNCmd = false := by
  rw [exec, execSafeNAssert, act_live hlive]
  dsimp only
  rw [if_neg (by simp [hl, ha, hh]), State.driveSafeN_low]
  exact ⟨_, rfl, rfl, rfl⟩

/-- Detecting a cause asserts nothing yet, and leaves the pending headers, marked as issued before it. -/
theorem State.latch_pending (s : State) (cause sub : Nat) : (s.latch cause sub).ilk.asserted = s.ilk.asserted ∧
    (s.ilk.headers = [] → (s.latch cause sub).ilk.headers = []) ∧ (s.latch cause sub).live = s.live := by
  unfold State.latch
  split
  · exact ⟨rfl, id, rfl⟩
  · exact ⟨rfl, fun h => by simp [h], rfl⟩

/-- Where a cause is latched a later one leaves its code, SUBCAUSE and instant (R290). -/
theorem State.latch_stands {s : State} (h : s.latched = true) (cause sub : Nat) :
    (s.latch cause sub).ilk.safeCause = s.ilk.safeCause ∧ (s.latch cause sub).ilk.safeSub = s.ilk.safeSub ∧
      (s.latch cause sub).ilk.detectNs = s.ilk.detectNs := by
  rw [State.latch_later h]
  exact ⟨rfl, rfl, rfl⟩

theorem State.latch_latched {cause : Nat} (h : cause ≠ 0) (s : State) (sub : Nat) :
    (s.latch cause sub).latched = true := by
  rw [State.latched_iff]
  cases hl : s.latched with
  | true => rw [(State.latch_stands hl cause sub).1]; exact s.latched_iff.mp hl
  | false => rw [(State.latch_first hl cause sub).1]; exact h

/-- Settles O51: the first cause stays, and the assertion follows from what the latch leaves. -/
theorem safeRequest : Obligations.SafeRequest := by
  intro s cmd h hl hp
  have hb : bare cmd = true := by simp [bare, hl, hp]
  obtain ⟨hass, hhead, hup⟩ := s.latch_pending 0x0D 0
  have hlat := s.latch_latched (cause := 0x0D) (by decide) 0
  refine ⟨fun ha => ⟨(s.latch 0x0D 0).respond cmd 0 [], by rw [execSafeRequest_heard h hb, if_pos ha], rfl, hlat,
    fun hc => ?_, fun hc => State.latch_stands (s.latched_iff.mpr hc) 0x0D 0,
    fun hna hh => execSafeNAssert_asserts (hup.trans h.up) hlat (hass.trans hna) (hhead hh)⟩,
    fun ha => by rw [execSafeRequest_heard h hb, if_neg ha]⟩
  obtain ⟨hcause, hsub, hns, -⟩ := State.latch_first (s := s) (by simp [State.latched, hc]) 0x0D 0
  exact ⟨hcause, hsub, hns⟩

end Sys2Proof.Machine
end

section
/-! Proofs of the family of the firmware and power: the mailbox takes requests, and VERSION (O23). -/

namespace Sys2Proof.Machine

open Sys2Proof.Safety

/-! ### MBOX_TAKE (R399, R421) -/

section Take

variable {s : State} (hlive : s.live = true) (tag : Nat) (d : Bytes)
include hlive

theorem execMboxTake_expired (h : s.stm.wdogExpired = true) :
    exec (.mboxTake tag d) s = .next { s with resp := { kind := .error } } := by
  rw [exec, execMboxTake, act_live hlive, State.mboxTake, if_pos h]

theorem execMboxTake_room (h : s.stm.wdogExpired = false) (hq : s.stm.queue.length < 32) {slot : Bytes}
    (hs : slot = slice d 0 8 ++ slice (s.stm.mboxSlot.drop 8) 0 120) : exec (.mboxTake tag d) s = .next { s with
      stm := { s.stm with mboxSlot := slot, queue := s.stm.queue ++ [{ tag := tag, bytes := slot }] }
      resp := { kind := .data } } := by
  rw [exec, execMboxTake, act_live hlive, State.mboxTake, if_neg (by simp [h])]
  dsimp only
  rw [if_neg (Nat.not_le.mpr hq), hs]

theorem execMboxTake_full (h : s.stm.wdogExpired = false) (hq : 32 ≤ s.stm.queue.length) :
    exec (.mboxTake tag d) s = .next { s with
      stm := { s.stm with
        mboxSlot := slice d 0 8 ++ slice (s.stm.mboxSlot.drop 8) 0 120
        mboxRefused := min (s.stm.mboxRefused + 1) 0xFFFF }
      resp := { kind := .error } } := by
  rw [exec, execMboxTake, act_live hlive, State.mboxTake, if_neg (by simp [h])]
  dsimp only
  rw [if_pos hq]
  rfl

end Take

/-! ### VERSION (R401, R402) -/

/-- VERSION, served: the tag leaves the list of handshakes, and where its version matches goes last, a list of 64 losing
its oldest. -/
theorem execVersion_served {s w : State} {op : Nat} {r : MboxReq} (h : Serves s 1 op r w) {ok : Bool}
    (hok : ok = (le r.body 0 4 / 65536 == w.matchVersion / 65536)) {l : List Nat}
    (hl : l = w.stm.handshakes.filter (· != r.tag)) : exec .version s = .next (reply { w with stm := { w.stm with
      handshakes := if ok then (if l.length < 64 then l else l.drop 1) ++ [r.tag] else l } } r
        (leBytes 4 w.fwVersion ++ leBytes 4 w.matchVersion ++ [if ok then 1 else 0])) := by
  obtain ⟨-, -, rfl⟩ := State.mboxHead_some h.head
  rw [exec, execVersion, act_live h.up, serveAny_of_serves h]
  dsimp only
  rw [← hok, ← hl]
  have hdrop : (if (ok && decide (l.length ≥ 64)) = true then l.drop 1 else l) =
      if ok then (if l.length < 64 then l else l.drop 1) else l := by
    by_cases hn : l.length < 64 <;> cases ok <;> simp [hn]
  rw [hdrop]
  cases ok <;> rfl

/-- Settles O23: a write by the room in the queue, VERSION by whether the major versions match. -/
theorem mailboxTakesAndVersion : Obligations.MailboxTakesAndVersion := by
  refine ⟨fun s tag d hlive => ⟨execMboxTake_expired hlive tag d, fun h hq => execMboxTake_room hlive tag d h hq rfl,
      execMboxTake_full hlive tag d⟩,
    fun s w op r h => ⟨fun hm => ⟨_, rfl, ?_⟩, fun hm => ?_⟩⟩
  · exact execVersion_served h (beq_iff_eq.mpr hm).symm rfl
  · exact execVersion_served h (beq_eq_false_iff_ne.mpr hm).symm rfl

end Sys2Proof.Machine
end

section
/-! Proofs of the family of the external interfaces: the vertical blank of a display stream (O54). -/

namespace Sys2Proof.Machine

/-! ### A descriptor of the list (R465) -/

theorem headerFresh_iff (b : Bytes) (t : Nat) : headerFresh b t = true ↔
    le b 0 4 = 0x01525354 ∧ le b 0x3C 4 = crc32c (slice b 0 0x3C) ∧ byteAt b 4 ∈ [0xA5, 0xA6, 0x20] ∧
      t ≤ le b 0x10 8 * 1000000000 + le b 0x18 4 + 64 * le b 0x20 4 := by
  simp only [headerFresh, Bool.and_eq_true, beq_iff_eq, List.contains_iff_mem, decide_eq_true_eq, and_assoc]

section Layer

variable {s v : State} {n k w h : Nat} {d : Bytes}
  (hv : v = s.devRead s.ftnTag ((s.stream n).listBase + 64 * k) 64) (hd : d = v.resp.bytes)
include hv

theorem State.readLayer_unread (ha : v.answered = false) : s.readLayer n k w h = v := by
  rw [State.readLayer, ← hv, if_pos (by simp [ha])]

variable (ha : v.answered = true)
include ha hd

theorem State.readLayer_disabled (he : bit (byteAt d 0) 0 = false) : s.readLayer n k w h = v := by
  rw [State.readLayer, ← hv, if_neg (by simp [ha]), ← hd, if_pos (by simp [layerEnabled, he])]

variable (he : bit (byteAt d 0) 0 = true)
include he

theorem State.readLayer_bad (ho : layerOk d w h = false) : s.readLayer n k w h =
    v.modStream n fun x => { x with badDesc := min (x.badDesc + 1) 0xFFFF } := by
  rw [State.readLayer, ← hv, if_neg (by simp [ha]), ← hd, if_neg (by simp [layerEnabled, he]), if_pos (by simp [ho])]
  rfl

variable (ho : layerOk d w h = true)
include ho

theorem State.readLayer_ungated (hg : bit (byteAt d 0) 1 = false) : s.readLayer n k w h =
    v.modStream n fun x => { x with layers := x.layers ++ [(k, 0)] } := by
  rw [State.readLayer, ← hv, if_neg (by simp [ha]), ← hd, if_neg (by simp [layerEnabled, he]), if_neg (by simp [ho]),
    if_neg (by simp [hg])]

/-- A gated layer by its age check (R466): shown where its header is fresh, else counted and replaced. -/
theorem State.readLayer_gated (hg : bit (byteAt d 0) 1 = true) {z : State}
    (hz : z = v.devRead v.ftnTag (le d 0x28 8 % 2 ^ 48) 64) : s.readLayer n k w h =
      if z.answered && z.tmt.valid && headerFresh z.resp.bytes z.now then
        z.modStream n fun x => { x with layers := x.layers ++ [(k, 0)] }
      else z.modStream n fun x => { x with
        stale := min (x.stale + 1) 0xFFFF, layers := x.layers ++ [(k, if bit (byteAt d 0) 2 then 2 else 1)] } := by
  rw [State.readLayer, ← hv, if_neg (by simp [ha]), ← hd, if_neg (by simp [layerEnabled, he]), if_neg (by simp [ho]),
    if_pos hg, hz]
  rfl

end Layer

/-! ### VERTICAL_BLANK (R465, R488) -/

/-- A stream as a vertical blank finds it: the frame scanned out is counted, EN takes effect and no layer is left. -/
def FtnStream.blanked (x : FtnStream) (underruns : Nat) (hpd : Bool) : FtnStream := { x with
  frames := if x.active then (x.frames + 1) % 2 ^ 32 else x.frames
  underrun := if x.active then min 0xFFFF (x.underrun + underruns) else x.underrun
  hpd := hpd, active := x.en, layers := [] }

/-- The instant of a blank moves nothing but the time. -/
theorem State.stream_reach (s : State) (i n : Nat) :
    (s.reach i).streamOn n = s.streamOn n ∧ (s.reach i).stream n = s.stream n := by
  obtain ⟨t, ht⟩ := s.reach_eq i
  rw [ht]
  exact ⟨rfl, rfl⟩

section Blank

variable {s r : State} (hlive : s.live = true) {i n : Nat} (hr : r = s.reach i) (w h u : Nat) (p : Bool)
include hlive hr

theorem execVerticalBlank_off (hon : s.streamOn n = false) : exec (.verticalBlank n w h u p i) s = .next r := by
  rw [exec, execVerticalBlank, act_live hlive, ← hr, if_pos (by simp [hr, s.stream_reach, hon])]

theorem execVerticalBlank_on (hon : s.streamOn n = true) : exec (.verticalBlank n w h u p i) s = .next
    (if (s.stream n).en then (List.range 8).foldl (fun s k => s.readLayer n k w h) (r.modStream n (·.blanked u p))
      else r.modStream n (·.blanked u p)) := by
  have hf (f : FtnStream → FtnStream) (hx : ∀ x, f x = x.blanked u p) :
      (if !((r.modStream n f).stream n).en then r.modStream n f
        else (List.range 8).foldl (fun s k => s.readLayer n k w h) (r.modStream n f)) =
      if (s.stream n).en then (List.range 8).foldl (fun s k => s.readLayer n k w h) (r.modStream n (·.blanked u p))
        else r.modStream n (·.blanked u p) := by
    obtain rfl : f = (·.blanked u p) := funext hx
    rw [State.modStream_same, hr, (s.stream_reach i n).2, FtnStream.blanked]
    cases (s.stream n).en <;> rfl
  rw [exec, execVerticalBlank, act_live hlive, ← hr, if_neg (by simp [hr, s.stream_reach, hon])]
  refine congrArg _ (hf _ fun x => ?_)
  cases hx : x.active <;> simp [FtnStream.blanked, hx, wrapInc]

end Blank

/-- Settles O54: the blank by the stream's state, a descriptor by its checks in their order. That only descriptors with
ENABLE are judged, that an unreadable line is not counted, and that EN takes effect at the blank are the model's choice
(log entry 76). -/
theorem displayBlanks : Obligations.DisplayBlanks := by
  refine ⟨fun s r n w h u i p hlive hr => ⟨execVerticalBlank_off hlive hr w h u p, fun hon => ⟨_, rfl, fun he => ?_,
      fun he => ?_⟩⟩,
    fun s v n k w h d hv hd => ⟨State.readLayer_unread hv, fun ha he => State.readLayer_disabled hv hd ha he,
      fun ha he ho => State.readLayer_bad hv hd ha he ho, fun ha he ho =>
        ⟨State.readLayer_ungated hv hd ha he ho, fun hg => ⟨_, rfl, _, rfl, fun ha' ht hm hc hs hn => ?_, fun hx => ?_⟩⟩⟩⟩
  · rw [execVerticalBlank_on hlive hr w h u p hon, if_neg (by simp [he])]
    rfl
  · rw [execVerticalBlank_on hlive hr w h u p hon, if_pos he]
    rfl
  · rw [State.readLayer_gated hv hd ha he ho hg rfl, if_pos]
    rw [ha', ht, (headerFresh_iff _ _).mpr ⟨hm, hc, hs, hn⟩]
    rfl
  · rw [State.readLayer_gated hv hd ha he ho hg rfl, if_neg]
    simp only [Bool.and_eq_true, headerFresh_iff, not_and_or, Bool.not_eq_true, Nat.not_le, or_assoc]
    exact hx

end Sys2Proof.Machine
end

section
/-! Proofs of the family of the firmware and power: the control loops, the clamp, the watchdog and the island's supplies
(O43). -/

namespace Sys2Proof.Machine

/-! ### DVFS_LOOP and PKG_POWER_LOOP (R411, R412) -/

theorem execDvfsLoop_live {s : State} (hlive : s.live = true) (l : List Int) (j : List Nat) : exec (.dvfsLoop l j) s =
    .next (if s.fwLoops then (List.range 8).foldl (fun s t => if s.terraceOn t then
      (s.voltageStep t (l.getD t 0)).modTerr t fun x => { x with tj := j.getD t 0 } else s) s else s) := by
  rw [exec, execDvfsLoop, act_live hlive]
  cases s.fwLoops <;> rfl

/-- A change of a Terrace depends on what it makes of that Terrace alone. -/
theorem State.modTerr_eq {s : State} {t : Nat} {f g : Terr → Terr} (h : f (s.terr t) = g (s.terr t)) :
    s.modTerr t f = s.modTerr t g := by
  unfold State.terr at h
  simp only [State.modTerr, State.modPwr, tmod, h]

/-- A voltage step ends within the range of the Terrace's point (R411). -/
theorem State.voltageStep_inRange (s : State) (t : Nat) (d : Int) {p : Nat} (hp : p = (s.terr t).point)
    (hr : s.pointField p 2 ≤ s.pointField p 4) : ∃ k, s.voltageStep t d = s.modTerr t (fun x => { x with voltage := k }) ∧
      s.pointField p 2 ≤ k ∧ k ≤ s.pointField p 4 := by
  subst hp
  exact ⟨_, State.modTerr_eq rfl, le_max_left _ _, max_le hr (min_le_left _ _)⟩

theorem hottest_eq_none {ps l : List Nat} (h : hottest ps l = none) : l = [] := by
  cases l with
  | nil => rfl
  | cons t r =>
    simp only [hottest] at h
    split at h
    · split at h <;> cases h
    · cases h

/-- The hottest Terrace of a list is one of it, and none of it draws more. -/
theorem hottest_spec {ps : List Nat} : ∀ {l : List Nat} {t : Nat}, hottest ps l = some t →
    t ∈ l ∧ ∀ u ∈ l, ps.getD u 0 ≤ ps.getD t 0
  | [], _, h => by cases h
  | a :: r, t, h => by
    cases hr : hottest ps r with
    | none =>
      obtain rfl := hottest_eq_none hr
      simp only [hottest, Option.some.injEq] at h
      simp [h]
    | some u =>
      obtain ⟨hu, hmax⟩ := hottest_spec hr
      simp only [hottest, hr] at h
      split at h <;> cases h
      · refine ⟨List.mem_cons_of_mem _ hu, fun v hv => ?_⟩
        rcases List.mem_cons.mp hv with rfl | hv
        · omega
        · exact hmax v hv
      · refine ⟨List.mem_cons_self, fun v hv => ?_⟩
        rcases List.mem_cons.mp hv with rfl | hv
        · exact Nat.le_refl _
        · exact (hmax v hv).trans (by omega)

/-- The Terraces that the package loop may take a point from: on, with or without express Basins, and not at their
slowest point (R412). -/
def State.canSlow (s : State) (express : Bool) : List Nat := (List.range 8).filter fun t =>
  s.terraceOn t && s.expressTerrace t == express && (s.terr t).point < s.slowest t

section PkgPower

variable {s u : State} (hlive : s.live = true) {m : Nat} (ps : List Nat)
  (hu : u = { s with pwr := { s.pwr with pkgPower := m } })
include hlive

theorem execPkgPowerLoop_idle (hf : s.fwLoops = false) : exec (.pkgPowerLoop m ps) s = .next s := by
  rw [exec, execPkgPowerLoop, act_live hlive, if_pos (by simp [hf])]

variable (hf : s.fwLoops = true)
include hf hu

theorem execPkgPowerLoop_within (hm : m ≤ 10 * s.pwr.pkgLimit) : exec (.pkgPowerLoop m ps) s =
    .next { u with pwr := { u.pwr with pkgLimited := false } } := by
  rw [exec, execPkgPowerLoop, act_live hlive, if_neg (by simp [hf])]
  exact congrArg _ ((if_pos hm).trans (hu ▸ rfl))

theorem execPkgPowerLoop_over (hm : 10 * s.pwr.pkgLimit < m) : exec (.pkgPowerLoop m ps) s =
    .next (match (hottest ps (s.canSlow false)).orElse fun _ => hottest ps (s.canSlow true) with
      | some t => u.setPoint t ((s.terr t).point + 1)
      | none => State.trace { u with pwr := { u.pwr with pkgLimited := true } } 0x6001 [m]) := by
  rw [exec, execPkgPowerLoop, act_live hlive, if_neg (by simp [hf])]
  exact congrArg _ ((if_neg (Nat.not_le.mpr hm)).trans (hu ▸ rfl))

end PkgPower

/-- The choice of the package loop: from the first list that names a Terrace. -/
theorem hottest_orElse (ps a b : List Nat) :
    ((hottest ps a).orElse fun _ => hottest ps b) = hottest ps (if a = [] then b else a) := by
  cases ha : hottest ps a with
  | none => rw [if_pos (hottest_eq_none ha)]; rfl
  | some t =>
    rw [if_neg (by rintro rfl; cases ha), ha]
    rfl

/-! ### THERMAL_STEP (R413) -/

section Thermal

variable {s : State} (hlive : s.live = true) {t j : Nat}
include hlive

theorem execThermalStep_idle (h : s.fwLoops = false ∨ s.terraceOn t = false) :
    exec (.thermalStep t j) s = .next s := by
  rw [exec, execThermalStep, act_live hlive, if_pos (by simpa using h)]

variable {u : State} {x : Terr}
  (hx : x = { s.terr t with
    tj := j
    cooling := if j > byteAt (s.sec secPowerplan) 8 + 64 then true
      else if j + 2 ≤ byteAt (s.sec secPowerplan) 8 + 64 then false else (s.terr t).cooling })
  (hu : u = s.modTerr t fun _ => x) (hf : s.fwLoops = true) (hon : s.terraceOn t = true)
include hx hu hf hon

theorem execThermalStep_acts : exec (.thermalStep t j) s = .next (
    if x.cooling then if x.point < s.slowest t then u.setPoint t (x.point + 1) else u
    else if j < byteAt (s.sec secPowerplan) 8 + 64 && 0 < x.point && !s.pwr.pkgLimited
      && s.pwr.pkgPower ≤ 10 * s.pwr.pkgLimit then u.setPoint t (x.point - 1) else u) := by
  have hm : (s.modTerr t fun y => { y with
      tj := j
      cooling := if j > byteAt (s.sec secPowerplan) 8 + 64 then true
        else if j + 2 ≤ byteAt (s.sec secPowerplan) 8 + 64 then false else y.cooling }) = u :=
    hu ▸ State.modTerr_eq hx.symm
  have ht : u.terr t = x := hu ▸ s.modTerr_same t _
  rw [exec, execThermalStep, act_live hlive, if_neg (by simp [hf, hon])]
  dsimp only
  rw [hm, ht, hu]
  rfl

end Thermal

/-! ### The clamp (R414 to R416) -/

/-- A trace point and a deferred activation leave the time and the power state. -/
theorem State.trace_pwr (s : State) (tp : Nat) (l : List Nat) :
    (s.trace tp l).pwr = s.pwr ∧ (s.trace tp l).now = s.now := by
  obtain ⟨m, n, h⟩ := s.trace_eq tp l
  rw [h]
  exact ⟨rfl, rfl⟩

theorem State.deferUpdate_pwr (s : State) : s.deferUpdate.pwr = s.pwr ∧ s.deferUpdate.now = s.now := by
  unfold State.deferUpdate
  split
  · exact State.trace_pwr _ _ _
  · exact ⟨rfl, rfl⟩

/-- A step in the windows of clock domains changes the clocks alone (R26). -/
theorem State.stepWindows_pwr (l : List Nat) (s : State) :
    (l.foldl (fun s d => s.modClock d fun c => { c with stepInWindow := true }) s).pwr = s.pwr ∧
      (l.foldl (fun s d => s.modClock d fun c => { c with stepInWindow := true }) s).now = s.now := by
  induction l generalizing s with
  | nil => exact ⟨rfl, rfl⟩
  | cons d l ih => exact ih _

theorem State.clampStep_pwr (s : State) : s.clampStep.pwr = s.pwr ∧ s.clampStep.now = s.now :=
  State.stepWindows_pwr _ s

/-- The cuts of a sample while the clamp is not IDLE: segments that are hot, or whose current stays at its maximum. -/
def State.clampCuts (s : State) (cs hot : List Nat) : State :=
  if s.pwr.clampState = 0 then s
  else ((hot ++ (List.range 22).filter fun g => cs.getD g 0 ≥ 2 && s.now ≥ s.pwr.throttleNs + 20000).eraseDups.filter
    fun g => g < 22 && !(s.pwr.cutSegs.contains g)).foldl State.cutSegment s

/-- Just throttled, no current has stayed at its maximum for 20 µs. -/
theorem State.clampCuts_throttled {s : State} (hz : s.pwr.clampState ≠ 0) (h : s.now < s.pwr.throttleNs + 20000)
    (cs hot : List Nat) : s.clampCuts cs hot =
      (hot.eraseDups.filter fun g => g < 22 && !(s.pwr.cutSegs.contains g)).foldl State.cutSegment s := by
  have hl : ((List.range 22).filter fun g => cs.getD g 0 ≥ 2 && s.now ≥ s.pwr.throttleNs + 20000) = [] :=
    List.filter_eq_nil_iff.mpr fun g _ => by simp [h]
  rw [State.clampCuts, if_neg hz, hl, List.append_nil]

/-- The power state of a clamp that leaves IDLE at the trigger `t`. -/
def State.throttledPwr (u : State) (t : Nat) : Pwr := { u.pwr with
  clampState := 1, clampSensor := t, throttles := min (u.pwr.throttles + 1) 0xFFFF, throttleNs := u.now }

/-- The clamp throttles, and an activation not yet swapped is deferred (R414, R419). -/
def State.throttle (u : State) (t : Nat) : State :=
  State.deferUpdate ((State.clampStep { u with pwr := u.throttledPwr t }).trace 0x7001 [t, u.pwr.tjMax])

theorem State.throttle_pwr (u : State) (t : Nat) :
    (u.throttle t).pwr = u.throttledPwr t ∧ (u.throttle t).now = u.now := by
  unfold State.throttle
  rw [(State.deferUpdate_pwr _).1, (State.deferUpdate_pwr _).2, (State.trace_pwr _ _ _).1, (State.trace_pwr _ _ _).2,
    (State.clampStep_pwr _).1, (State.clampStep_pwr _).2]
  exact ⟨rfl, rfl⟩

/-- What the first level of a sample does. -/
def State.clampTrigger (u : State) (trigger : Option Nat) : State :=
  match trigger with
  | some t => if u.pwr.clampState = 0 then u.throttle t else u
  | none => u

section Sample

variable {s r u : State} (hlive : s.live = true) {ts cs : List Nat} {i : Nat} {c : ClampReading} (hr : r = s.reach i)
  (hc : c = r.clampRead ts cs)
  (hu : u = { r with pwr := { r.pwr with
    tjMax := ts.foldl max 0
    clearNs := if c.clear then r.pwr.clearNs.orElse fun _ => some r.now else none } })
include hlive hr hc hu

theorem execClampSample_live :
    exec (.clampSample ts cs i) s = .next ((u.clampTrigger c.trigger).clampCuts cs c.hot) := by
  rw [exec, execClampSample, act_live hlive, hu, hc, hr]
  rfl

/-- In IDLE with nothing over its level a sample is only noted. -/
theorem execClampSample_quiet (ht : c.trigger = none) (hz : r.pwr.clampState = 0) :
    exec (.clampSample ts cs i) s = .next u := by
  rw [execClampSample_live hlive hr hc hu, ht, State.clampTrigger]
  exact congrArg _ (if_pos (hu ▸ hz))

theorem execClampSample_trigger {t : Nat} (ht : c.trigger = some t) (hz : r.pwr.clampState = 0) :
    exec (.clampSample ts cs i) s = .next ((c.hot.eraseDups.filter fun g =>
      g < 22 && !(u.pwr.cutSegs.contains g)).foldl State.cutSegment (u.throttle t)) := by
  have hz' : u.pwr.clampState = 0 := hu ▸ hz
  obtain ⟨hp, hn⟩ := u.throttle_pwr t
  rw [execClampSample_live hlive hr hc hu, ht, State.clampTrigger, if_pos hz', State.clampCuts_throttled, hp]
  · rfl
  · simp [hp, State.throttledPwr]
  · simp [hp, hn, State.throttledPwr]

theorem execClampSample_throttling (hz : r.pwr.clampState ≠ 0) : exec (.clampSample ts cs i) s = .next
    (((c.hot ++ (List.range 22).filter fun g => cs.getD g 0 ≥ 2 && r.now ≥ r.pwr.throttleNs + 20000).eraseDups.filter
      fun g => g < 22 && !(r.pwr.cutSegs.contains g)).foldl State.cutSegment u) := by
  have hz' : u.pwr.clampState ≠ 0 := hu ▸ hz
  have ht : u.clampTrigger c.trigger = u := by
    unfold State.clampTrigger
    split
    · exact if_neg hz'
    · rfl
  rw [execClampSample_live hlive hr hc hu, ht, State.clampCuts, if_neg hz', hu]
  rfl

end Sample

theorem execClampIdle_waits {s : State} (hlive : s.live = true) (h : s.pwr.clearNs = none ∨ s.pwr.clampState = 0) :
    exec .clampIdle s = .next s := by
  rw [exec, execClampIdle, act_live hlive]
  rcases h with h | h
  · simp only [h]
  · cases s.pwr.clearNs <;> simp only [h, if_true]

theorem execClampIdle_clear {s u : State} (hlive : s.live = true) {t : Nat} (h : s.pwr.clearNs = some t)
    (hz : s.pwr.clampState ≠ 0) (hu : u = s.reach (t + 1000000)) : exec .clampIdle s =
      .next ((State.clampStep { u with pwr := { u.pwr with clampState := 0, cutSegs := [] } }).trace 0x7003
        [s.pwr.clampSensor, s.pwr.tjMax]) := by
  rw [exec, execClampIdle, act_live hlive]
  simp only [h, if_neg hz, ← hu]
  rfl

/-! ### The watchdog (R421) -/

/-- A Terrace as a watchdog that expires leaves it: the slower of its point and the floor, at that point's VMAX. -/
def State.heldTerr (s : State) (x : Terr) : Terr := { x with
  point := max x.point s.floorPoint, voltage := s.pointField (max x.point s.floorPoint) 4 }

/-- One Terrace is held. -/
def State.holdTerr (s : State) (t : Nat) : State :=
  (s.setPoint t (max (s.terr t).point s.floorPoint)).modTerr t fun x =>
    { x with voltage := s.pointField (max (s.terr t).point s.floorPoint) 4 }

/-- A Terrace that is held: its own entry and clock, and nothing else. -/
theorem State.holdTerr_frame (s : State) (t : Nat) : ∃ a c, s.holdTerr t =
    { s with pwr := { s.pwr with terr := a }, clocks := c } := ⟨_, _, rfl⟩

theorem State.holdTerr_same (s : State) (t : Nat) : (s.holdTerr t).terr t = s.heldTerr (s.terr t) := by
  unfold State.holdTerr State.setPoint State.heldTerr
  rw [State.modTerr_same]
  have h (u : State) (n : Nat) (f : ClockDomain → ClockDomain) : (u.modClock n f).terr t = u.terr t := rfl
  rw [h, State.modTerr_same]

theorem State.holdTerr_other (s : State) {t k : Nat} (h : k ≠ t) : (s.holdTerr t).terr k = s.terr k := by
  unfold State.holdTerr State.setPoint
  rw [State.modTerr_other _ _ _ _ h]
  exact State.modTerr_other s t k _ h

/-- Terraces held one after another, each once: those of the list, and no other. -/
theorem State.holdTerrs (l : List Nat) (s : State) (hl : l.Nodup) :
    (∃ a c, l.foldl State.holdTerr s = { s with pwr := { s.pwr with terr := a }, clocks := c }) ∧
    (∀ k ∈ l, (l.foldl State.holdTerr s).terr k = s.heldTerr (s.terr k)) ∧
    ∀ k ∉ l, (l.foldl State.holdTerr s).terr k = s.terr k := by
  induction l generalizing s with
  | nil => exact ⟨⟨s.pwr.terr, s.clocks, rfl⟩, by simp, fun k _ => rfl⟩
  | cons t l ih =>
    obtain ⟨ht, hl⟩ := List.nodup_cons.mp hl
    obtain ⟨⟨a, c, hf⟩, hin, hout⟩ := ih (s.holdTerr t) hl
    obtain ⟨b, d, hs⟩ := s.holdTerr_frame t
    have hheld (x : Terr) : (s.holdTerr t).heldTerr x = s.heldTerr x := by rw [hs]; rfl
    refine ⟨⟨a, c, by rw [List.foldl_cons, hf, hs]⟩, fun k hk => ?_, fun k hk => ?_⟩
    · rcases eq_or_ne k t with rfl | hne
      · exact (hout k ht).trans (s.holdTerr_same k)
      · have hk : k ∈ l := (List.mem_cons.mp hk).resolve_left hne
        rw [List.foldl_cons, hin k hk, hheld, s.holdTerr_other hne]
    · obtain ⟨hne, hk⟩ := not_or.mp (mt List.mem_cons.mpr hk)
      exact (hout k hk).trans (s.holdTerr_other hne)

section Watchdog

variable {s : State} (hlive : s.live = true)
include hlive

theorem execWatchdogExpire_idle (h : s.stm.fwRunning = false ∨ s.stm.wdogExpired = true) :
    exec .watchdogExpire s = .next s := by
  rw [exec, execWatchdogExpire, act_live hlive, if_pos (by simpa using h)]

theorem execWatchdogExpire_halts (h : s.stm.fwRunning = true) (hn : s.stm.wdogExpired = false) :
    exec .watchdogExpire s = .next ((List.range 8).foldl State.holdTerr
      { s with stm := { s.stm with wdogExpired := true, fwRunning := false } }) := by
  rw [exec, execWatchdogExpire, act_live hlive, if_neg (by simp [h, hn])]
  rfl

end Watchdog

/-! ### The island's supplies (R425 to R427) -/

theorem exec_islandSupply_onBackup {s : State} (hlive : s.live = true) (h : s.pwr.onBackup = true) :
    exec .islandSupplySwitch s = .next s ∧ exec .backupSupplyLow s = .next s := by
  rw [exec, exec, execIslandSupplySwitch, execBackupSupplyLow, act_live hlive, act_live hlive, if_pos h, if_pos h]
  exact ⟨rfl, rfl⟩

theorem exec_islandSupply_onMain {s : State} (hlive : s.live = true) (h : s.pwr.onBackup = false) :
    exec .islandSupplySwitch s = .next (State.latch { s with pwr := { s.pwr with onBackup := true } } 9 0) ∧
    exec .backupSupplyLow s = .next (State.report { s with pwr := { s.pwr with
      bkLow := true, bkLowEvents := min (s.pwr.bkLowEvents + 1) 0xFFFF } } 7 0 0) := by
  rw [exec, exec, execIslandSupplySwitch, execBackupSupplyLow, act_live hlive, act_live hlive, if_neg (by simp [h]),
    if_neg (by simp [h])]
  exact ⟨rfl, rfl⟩

/-- Settles O43: the loops by their firmware and their readings, the clamp by its state, the watchdog Terrace by Terrace.
The backup supply's report of kind 7 is the model's choice (log entry 66), and so are the rise of points by THERMAL_STEP
alone and the reading of a segment (log entry 65). -/
theorem powerLoopsAndClamp : Obligations.PowerLoopsAndClamp := by
  refine ⟨fun s l j hlive => ⟨fun hf => ?_, fun hf => ?_⟩, fun s t d p hp hr => ?_,
    fun s u m ps hlive hu => ⟨execPkgPowerLoop_idle hlive ps, execPkgPowerLoop_within hlive ps hu,
      fun hf hm a b ha hb => ?_⟩,
    fun ps l t => hottest_spec, fun s u t j p x hlive hp hx hu => ?_,
    fun s r u ts cs i c hlive hr hc hu => ⟨execClampSample_quiet hlive hr hc hu, fun t ht hz => ⟨_, rfl, ?_⟩,
      execClampSample_throttling hlive hr hc hu⟩,
    fun s t hlive => ⟨execClampIdle_waits hlive, fun h hz => ⟨_, _, rfl, rfl, execClampIdle_clear hlive h hz rfl⟩⟩,
    fun s hlive => ⟨execWatchdogExpire_idle hlive, fun h hn => ?_⟩,
    fun s hlive => ⟨exec_islandSupply_onBackup hlive, exec_islandSupply_onMain hlive⟩,
    fun s => ⟨rfl, fun h => by simp [State.live, h]⟩⟩
  · rw [execDvfsLoop_live hlive, if_neg (by simp [hf])]
  · rw [execDvfsLoop_live hlive, if_pos hf]
  · obtain ⟨k, hk, hlo, hhi⟩ := s.voltageStep_inRange t d hp hr
    exact ⟨k, hk, by exact_mod_cast hlo, by exact_mod_cast hhi⟩
  · have hact := execPkgPowerLoop_over hlive ps hu hf hm
    rw [hottest_orElse, show s.canSlow false = a from ha.symm, show s.canSlow true = b from hb.symm] at hact
    refine ⟨fun t ht => ?_, fun ha hb => ?_⟩
    · rw [hact, ht]
    · rw [hact, if_pos ha, hb]
      rfl
  · have hp : x.point = p := by rw [hp, hx]
    refine ⟨execThermalStep_idle hlive, fun hf hon hc => ?_, fun hf hon hc => ?_⟩
    · rw [execThermalStep_acts hlive hx hu hf hon, if_pos hc, hp]
    · rw [execThermalStep_acts hlive hx hu hf hon, if_neg (by simp [hc]), hp]
      simp only [Bool.and_eq_true, decide_eq_true_eq, Bool.not_eq_true', and_assoc]
  · rw [execClampSample_trigger hlive hr hc hu ht hz, hu]
    rfl
  · obtain ⟨⟨a, c, hf⟩, hin, -⟩ := State.holdTerrs (List.range 8)
      { s with stm := { s.stm with wdogExpired := true, fwRunning := false } } List.nodup_range
    refine ⟨_, execWatchdogExpire_halts hlive h hn, by rw [hf], by rw [hf], fun k hk => ?_⟩
    rw [hin k (List.mem_range.mpr hk)]
    exact ⟨rfl, rfl⟩

end Sys2Proof.Machine
end

section
/-! Proofs of the family of the firmware and power: the power service, its held requests and the ends of transitions
(O42). -/

namespace Sys2Proof.Machine

open Sys2Proof.Safety

/-! ### SET_STATE (R389, R390, R405) -/

theorem execSetState_served {s w : State} {r : MboxReq} (hs : Serves s 3 1 r w) (h p : Bool) {st d : Nat}
    (hst : st = byteAt r.body 1) (hd : d = le r.body 2 2) {q : State × Nat} (hq : q = w.setPower d st r.tag h p) :
    exec (.setState h p) s = .next (reply q.1 r (q.1.powerBody q.2 d)) := by
  rw [exec, execSetState, act_live hs.up, serve_of_serves hs, hq, hst, hd]

/-- The requests that the power service holds, without those of the domain `d`. -/
def State.unheld (w : State) (d : Nat) : State :=
  { w with pwr := { w.pwr with holds := w.pwr.holds.filter fun x => x.domain != d } }

section Judged

variable {w : State} {d st tag : Nat} {h p : Bool}

/-- A reserved state, then a reserved domain, is refused. -/
theorem State.setPower_state (hst : 4 < st) : w.setPower d st tag h p = (w, 1) := if_pos hst

variable (hst : st ≤ 4)
include hst

theorem State.setPower_domain (hk : pwrDomain d = none) : w.setPower d st tag h p = (w, 2) := by
  rw [State.setPower, if_neg (Nat.not_lt.mpr hst), hk]

variable {k : PwrKind} (hk : pwrDomain d = some k)
include hk

theorem State.setPower_lacks (hn : k.supports st = false ∨ (st ≠ 0 ∧ w.clockMayRun k = false)) :
    w.setPower d st tag h p = (w, 4) := by
  rw [State.setPower, if_neg (Nat.not_lt.mpr hst), hk]
  exact if_pos (by simpa using hn)

variable (hs : k.supports st = true) (hc : st = 0 ∨ w.clockMayRun k = true)
include hs hc

/-- A state that the domain has: the request is held for secure use, refused to a tag that may not switch the domain, or
applied. -/
theorem State.setPower_judged : w.setPower d st tag h p =
    if st ≠ 2 ∧ w.secureUsers k ≠ [] ∧ w.userAdmin tag (w.secureUsers k) = false then
      ((w.unheld d).holdSecure d st tag, 5)
    else if w.notUser k tag then (w, 3) else (w.unheld d).applyPower d k st tag h p false := by
  rw [State.setPower, if_neg (Nat.not_lt.mpr hst), hk]
  dsimp only
  rw [if_neg (by rcases hc with rfl | hc <;> simp [*])]
  simp only [lowers, Bool.and_eq_true, bne_iff_ne, Bool.not_eq_true', List.isEmpty_eq_false_iff, and_assoc]
  rfl

end Judged

/-! ### A request that is applied (R406, R408, R415) -/

/-- A request that waits in the power service. -/
def State.holdPower (s : State) (d st tag : Nat) (rel : Bool) : State :=
  { s with pwr := { s.pwr with holds := s.pwr.holds ++ [{ domain := d, state := st, tag := tag, released := rel }] } }

section Applied

variable {s : State} {d st tag : Nat} {k : PwrKind} {h p rel : Bool}

/-- ON for a domain that the clamp cut waits for the clamp. -/
theorem State.applyPower_cut (hst : st = 2) (hc : (s.dom d).cut = true) (hz : s.pwr.clampState ≠ 0) :
    s.applyPower d k st tag h p rel = (s.holdPower d st tag rel, 6) := if_pos (by simp [hst, hc, hz])

variable (hf : st ≠ 2 ∨ (s.dom d).cut = false ∨ s.pwr.clampState = 0)
include hf

theorem State.applyPower_bank {b : Nat} (hk : k = .bank b) : s.applyPower d k st tag h p rel =
    ((s.modDom d fun x => { x with cut := x.cut && st != 2 }).bankPower b st p, 0) := by
  subst hk
  exact if_neg (by rcases hf with hf | hf | hf <;> simp [hf])

/-- A domain that is no bank: by its target where a transition is in progress, else by its state. -/
theorem State.applyPower_logic (hk : ∀ b, k ≠ .bank b) : s.applyPower d k st tag h p rel =
    match (s.dom d).target with
    | some t =>
      if st = t then (s, 0)
      else if st = 2 then
        if p then (s.modDom d fun x => { x with latchedOn := true }, 0)
        else ((s.modDom d fun x => { x with target := none, outcome := 2 }).setDomain k 2, 0)
      else (s.holdPower d st tag rel, 6)
    | none =>
      if s.domState d k = st then (s, 0)
      else if st ≠ 2 ∧ s.domState d k = 2 ∧ s.domIdle k st h = false then (s.holdPower d st tag rel, 6)
      else (s.startDomain d k st, 0) := by
  unfold State.applyPower
  dsimp only
  rw [if_neg (by rcases hf with hf | hf | hf <;> simp [hf])]
  simp only [lowers, Bool.and_eq_true, bne_iff_ne, beq_iff_eq, Bool.not_eq_true', and_assoc]
  cases k with
  | bank b => exact absurd rfl (hk b)
  | _ => cases (s.dom d).target <;> rfl

end Applied

/-! ### POWER_QUERY and SET_PKG_LIMIT (R404, R405) -/

theorem execPowerQuery_served {s w : State} {r : MboxReq} (hs : Serves s 3 2 r w) : exec .powerQuery s =
    .next (reply w r (w.powerBody (if (pwrDomain (le r.body 2 2)).isSome then 0 else 2) (le r.body 2 2))) := by
  rw [exec, execPowerQuery, act_live hs.up, serve_of_serves hs]

theorem execSetPkgLimit_served {s w : State} {r : MboxReq} (hs : Serves s 3 3 r w) {x : Nat} (hx : x = le r.body 4 2) :
    exec .setPkgLimit s = .next (
      if w.powerAdmin r.tag = true ∧ 90 ≤ x ∧ x ≤ le (w.sec secPowerplan) 4 2 then
        reply { w with pwr := { w.pwr with pkgLimit := x } } r [0]
      else reply w r [7]) := by
  rw [exec, execSetPkgLimit, act_live hs.up, serve_of_serves hs, ← hx]
  simp only [Bool.and_eq_true, decide_eq_true_eq, and_assoc]
  split <;> rfl

/-! ### Held requests (R390, R406) -/

section Held

variable {s : State} (hlive : s.live = true) {d tag : Nat} {h : Bool}
include hlive

theorem exec_held_none (hn : s.holdOf d = none) :
    exec (.powerHeldProceed d h) s = .next s ∧ exec (.secureRel tag d h) s = .next s := by
  rw [exec, exec, execPowerHeldProceed, execSecureRel, act_live hlive, act_live hlive]
  simp only [hn, and_self]

variable {x : PwrHold} {k : PwrKind} (hx : s.holdOf d = some x) (hk : pwrDomain d = some k)
include hx hk

/-- A held request proceeds unless it waits for its domain to leave secure use. -/
theorem execPowerHeldProceed_some : exec (.powerHeldProceed d h) s = .next (
    if x.state ≠ 2 ∧ s.secureUsers k ≠ [] ∧ s.userAdmin x.tag (s.secureUsers k) = false ∧ x.released = false then
      s.deferHold x
    else s.proceed x h false) := by
  rw [exec, execPowerHeldProceed, act_live hlive]
  simp only [hx, hk, State.waitsSecure, lowers, Bool.and_eq_true, bne_iff_ne, Bool.not_eq_true',
    List.isEmpty_eq_false_iff, and_assoc]

/-- SECURE_REL releases a request that is held for secure use, where a user's admin asks. -/
theorem execSecureRel_some : exec (.secureRel tag d h) s = .next (
    if x.secure = true ∧ s.userAdmin tag (s.secureUsers k) = true then
      State.proceed { s with pwr := { s.pwr with
        holds := s.pwr.holds.map fun y => if y = x then { y with released := true } else y } }
        { x with released := true } h false
    else s) := by
  rw [exec, execSecureRel, act_live hlive]
  simp only [hx, hk, Bool.and_eq_true]
  rfl

end Held

/-! ### The ends of transitions (R407 to R409) -/

/-- What a domain does that comes up: a Mawyn port trains, and what its change asks of the links follows (R409, R432). -/
def State.cameUp (v : State) : PwrKind → State
  | .mawyn p => (v.modMport p fun x => { x with state := .training }).portChanged
  | _ => v

theorem State.cameUp_other (v : State) {k : PwrKind} (h : ∀ p, k ≠ .mawyn p) : v.cameUp k = v := by
  cases k with
  | mawyn p => exact absurd rfl (h p)
  | _ => rfl

section Ends

variable {s : State} (hlive : s.live = true) {d : Nat}
include hlive

theorem exec_domainDone_idle (ht : (s.dom d).target = none) :
    exec (.domainShutdownDone d) s = .next s ∧ exec (.domainPowerUpDone d) s = .next s := by
  rw [exec, exec, execDomainShutdownDone, execDomainPowerUpDone, act_live hlive, act_live hlive]
  simp only [ht]
  cases pwrDomain d <;> exact ⟨rfl, rfl⟩

variable {k : PwrKind} (hk : pwrDomain d = some k) {t : Nat} (ht : (s.dom d).target = some t)
include hk ht

/-- The end of a shutdown does nothing in a power-up, and the end of a power-up nothing in a shutdown. -/
theorem exec_domainDone_other : (t = 2 → exec (.domainShutdownDone d) s = .next s) ∧
    (t ≠ 2 → exec (.domainPowerUpDone d) s = .next s) := by
  rw [exec, exec, execDomainShutdownDone, execDomainPowerUpDone, act_live hlive, act_live hlive]
  simp only [hk, ht]
  exact ⟨fun h => by rw [if_pos h], fun h => by rw [if_pos h]⟩

theorem execDomainShutdownDone_ends (hn : t ≠ 2) {v : State}
    (hv : v = (if t = 0 then (s.setDomain k t).domainLost k else s.setDomain k t).modDom d fun x =>
      { x with target := none, latchedOn := false, outcome := if (s.dom d).latchedOn then 3 else 1 }) :
    exec (.domainShutdownDone d) s = .next (if (s.dom d).latchedOn then v.startDomain d k 2 else v) := by
  rw [exec, execDomainShutdownDone, act_live hlive, hv]
  simp only [hk, ht, if_neg hn]

theorem execDomainPowerUpDone_ends (hn : t = 2) : exec (.domainPowerUpDone d) s =
    .next (((s.setDomain k 2).modDom d fun x => { x with target := none }).cameUp k) := by
  rw [exec, execDomainPowerUpDone, act_live hlive]
  simp only [hk, ht, if_neg (not_not.mpr hn)]
  cases k <;> rfl

end Ends

/-- Settles O42: SET_STATE by its checks in their order, the transitions by their target. A clock that DOMAIN_EN excludes
as a state that the domain lacks, secure use in the way of a lowering alone, and one held request per domain are the
model's choice (log entry 66). -/
theorem powerRequests : Obligations.PowerRequests := by
  have freed {w : State} {st tag : Nat} {l : List Nat} (h : st = 2 ∨ l = [] ∨ w.userAdmin tag l = true) :
      ¬(st ≠ 2 ∧ l ≠ [] ∧ w.userAdmin tag l = false) := by
    rintro ⟨h2, hl, ha⟩
    simp_all
  refine ⟨fun s w u r st d h p hs hst hd hu => ⟨fun h4 => ?_, fun h4 hk => ?_, fun h4 k hk => ⟨fun hn => ?_,
      fun hsup hc => ⟨fun h2 hus had => ⟨_, rfl, ?_⟩, fun hfree => ⟨fun hn => ?_, fun hn v x hv => ?_⟩⟩⟩⟩,
    fun s d st tag k h p rel hold hh => ⟨fun h2 hc hz => ?_,
      fun hf hb => ⟨fun ht he => ?_, fun ht he hi => ?_, fun ht he h2 hi => ?_,
        fun t ht => ⟨fun he => ?_, fun he h2 => ?_, fun he h2 => ?_⟩⟩,
      fun hf b hb => State.applyPower_bank hf hb⟩,
    fun s w r d hs hd => hd ▸ execPowerQuery_served hs,
    fun s w r x hs hx => ⟨fun ha hlo hhi => ?_, fun hn => ?_⟩,
    fun s d tag h x k hlive hk => ⟨exec_held_none hlive, fun hx => ⟨fun h2 hus had hrel => ?_, fun hfree => ?_,
      fun hn => ?_, fun hsec had => ?_⟩⟩,
    fun s d t k hlive hk => ⟨exec_domainDone_idle hlive, fun ht hn => ⟨(exec_domainDone_other hlive hk ht).2 hn, _, rfl,
        execDomainShutdownDone_ends hlive hk ht hn rfl⟩, fun ht hm => ⟨(exec_domainDone_other hlive hk ht).1 rfl, ?_⟩,
      fun ht p hp => ⟨(exec_domainDone_other hlive hk ht).1 rfl, _, rfl, ?_⟩⟩⟩
  · rw [execSetState_served hs h p hst hd rfl, State.setPower_state h4]
  · rw [execSetState_served hs h p hst hd rfl, State.setPower_domain h4 hk, State.powerBody, hk]
    rfl
  · rw [execSetState_served hs h p hst hd rfl, State.setPower_lacks h4 hk hn]
  · rw [execSetState_served hs h p hst hd rfl, State.setPower_judged h4 hk hsup hc, if_pos ⟨h2, hus, had⟩, hu]
    rfl
  · rw [execSetState_served hs h p hst hd rfl, State.setPower_judged h4 hk hsup hc, if_neg (freed hfree), if_pos hn]
  · rw [execSetState_served hs h p hst hd rfl, State.setPower_judged h4 hk hsup hc, if_neg (freed hfree),
      if_neg (by simp [hn]), show w.unheld d = u from hu.symm, ← hv]
  · rw [State.applyPower_cut h2 hc hz, hh]
    rfl
  · rw [State.applyPower_logic hf hb, ht]
    exact if_pos he
  · rw [State.applyPower_logic hf hb, ht]
    exact (if_neg he).trans (if_neg fun ⟨h1, h2, h3⟩ => by rcases hi with hi | hi | hi <;> simp_all)
  · rw [State.applyPower_logic hf hb, ht, hh]
    exact (if_neg (he ▸ h2.symm)).trans (if_pos ⟨h2, he, hi⟩)
  · rw [State.applyPower_logic hf hb, ht]
    exact if_pos he
  · rw [State.applyPower_logic hf hb, ht, hh]
    exact (if_neg he).trans (if_neg h2)
  · rw [State.applyPower_logic hf hb, ht]
    refine (if_neg he).trans ((if_pos h2).trans ?_)
    cases p <;> rfl
  · rw [execSetPkgLimit_served hs hx, if_pos ⟨ha, hlo, hhi⟩]
  · rw [execSetPkgLimit_served hs hx, if_neg]
    rintro ⟨ha, hlo, hhi⟩
    rcases hn with hn | hn | hn
    · simp [ha] at hn
    · omega
    · omega
  · rw [execPowerHeldProceed_some hlive hx hk, if_pos ⟨h2, hus, had, hrel⟩]
    rfl
  · rw [execPowerHeldProceed_some hlive hx hk, if_neg]
    rintro ⟨h2, hus, had, hrel⟩
    rcases hfree with hfree | hfree | hfree | hfree
    · exact h2 hfree
    · exact hus hfree
    · simp [had] at hfree
    · simp [hrel] at hfree
  · rw [execSecureRel_some hlive hx hk, if_neg]
    rcases hn with hn | hn <;> simp [hn]
  · rw [execSecureRel_some hlive hx hk, if_pos ⟨hsec, had⟩]
  · rw [execDomainPowerUpDone_ends hlive hk ht rfl, State.cameUp_other _ hm]
  · rw [execDomainPowerUpDone_ends hlive hk ht rfl, hp]
    rfl

end Sys2Proof.Machine
end

section
/-! Proofs of the family of isolation: page requests (O35), and the debug enables, region entries and register writes
(O37). -/

namespace Sys2Proof.Machine

/-! ### Page requests (R371 to R373) -/

theorem execPageReqTake_live {s : State} (hlive : s.live = true) (tag : Nat) {d q : Bytes}
    (hq : q = slice s.slc.pageSlot 0 24 ++ slice d 0 8) : exec (.pageReqTake tag d) s = .next (
      if 64 ≤ s.slc.pageQueue.length then
        { s with slc := { s.slc with refused := min (s.slc.refused + 1) 0xFFFF }, resp := { kind := .error } }
      else { s with
        slc := { s.slc with pageSlot := q, pageQueue := s.slc.pageQueue ++ [{ tag := tag, bytes := q }] }
        resp := { kind := .data } }) := by
  rw [exec, execPageReqTake, act_live hlive, hq]
  rfl

/-- A request at the head that has an operation, or that a handover keeps waiting, is not answered on the way. -/
theorem State.pageDrain_of_head {s : State} {r : PageReq} {l : List PageReq} (hq : s.slc.pageQueue = r :: l)
    (hr : s.slc.handover ≠ none ∨ (1 ≤ r.op ∧ r.op ≤ 3)) (n : Nat) : State.pageDrain n s = s := by
  cases n with
  | zero => rfl
  | succ n =>
    rw [State.pageDrain]
    simp only [hq]
    exact if_pos (by simpa [Option.isSome_iff_ne_none] using hr)

/-- The handover that a request starts: only an ASSIGN in TRANSFER mode, and a SET_SHARE, leave the pages' bytes (R373). -/
def PageReq.handover (r : PageReq) : PageHandover :=
  { req := r, first := r.page, count := r.count, scrub := r.op == 3 || (r.op == 1 && !r.transfer), newEntry := r.entry
    keepOwner := r.op == 2 }

theorem PageReq.handover_eq (r : PageReq) : r.handover =
    { req := r, first := le r.bytes 8 4, count := le r.bytes 4 4
      scrub := r.op == 3 || (r.op == 1 && byteAt r.bytes 1 != 1), newEntry := r.entry, keepOwner := r.op == 2 } := by
  have hs : (r.op == 1 && !r.transfer) = (r.op == 1 && byteAt r.bytes 1 != 1) := by
    unfold PageReq.transfer
    cases r.op == 1 <;> simp [bne]
  rw [PageReq.handover, hs]
  rfl

section Start

variable {s : State} {op : Nat}

theorem State.pageStart_nil (h : s.slc.pageQueue = []) : s.pageStart op = s := by
  rw [State.pageStart, h, List.length_nil, State.pageDrain]
  simp only [h]

variable {r : PageReq} {l : List PageReq} (hq : s.slc.pageQueue = r :: l)
include hq

theorem State.pageStart_other (h1 : 1 ≤ r.op) (h3 : r.op ≤ 3) (hn : r.op ≠ op ∨ s.slc.handover ≠ none) :
    s.pageStart op = s := by
  rw [State.pageStart, State.pageDrain_of_head hq (.inr ⟨h1, h3⟩)]
  simp only [hq]
  exact if_pos (by rw [Bool.or_eq_true, bne_iff_ne, Option.isSome_iff_ne_none]; exact hn.symm)

/-- A request of its own operation at the head, with no handover running: it is answered where a check fails, else its
handover starts. -/
theorem State.pageStart_own (hop : r.op = op) (h1 : 1 ≤ op) (h3 : op ≤ 3) (hn : s.slc.handover = none) {u : State}
    (hu : u = { s with slc := { s.slc with pageQueue := l } }) : s.pageStart op =
      if (s.pageCheck r).1 ≠ 0 then u.pageAnswer r (s.pageCheck r).1 (s.pageCheck r).2
      else { u with slc := { u.slc with handover := some r.handover } } := by
  rw [State.pageStart, State.pageDrain_of_head hq (.inr (hop ▸ ⟨h1, h3⟩)), hu]
  simp only [hq]
  rw [if_neg (by simp [hn, hop])]
  rfl

end Start

/-- The three rows that start the request at the head, each for its own operation (R372). -/
theorem exec_pageRow {s : State} (hlive : s.live = true) {op : Nat} {c : Instr}
    (hc : op = 1 ∧ c = .assign ∨ op = 2 ∧ c = .setShare ∨ op = 3 ∧ c = .pageFree) :
    exec c s = .next (s.pageStart op) ∧ 1 ≤ op ∧ op ≤ 3 := by
  rcases hc with ⟨rfl, rfl⟩ | ⟨rfl, rfl⟩ | ⟨rfl, rfl⟩
  · rw [exec, execAssign, act_live hlive]
    exact ⟨rfl, by decide, by decide⟩
  · rw [exec, execSetShare, act_live hlive]
    exact ⟨rfl, by decide, by decide⟩
  · rw [exec, execPageFree, act_live hlive]
    exact ⟨rfl, by decide, by decide⟩

section Done

variable {s : State} (hlive : s.live = true)
include hlive

theorem execPageHandoverDone_none (h : s.slc.handover = none) : exec .pageHandoverDone s = .next s := by
  rw [exec, execPageHandoverDone, act_live hlive, State.pageHandoverDone]
  simp only [h]

theorem execPageHandoverDone_some {h : PageHandover} (hh : s.slc.handover = some h) {u v w : State}
    (hu : u = if h.scrub then (s.revokeLines h.first h.count h.scrub s.newOwner).zeroDram (h.first * 4096) (h.count * 4096)
      else s.revokeLines h.first h.count h.scrub s.newOwner)
    (hv : v = { u with slc := { u.slc with
      owners := (List.range h.count).foldl (fun t i => tset t (h.first + i) (u.newOwner (h.first + i))) u.slc.owners
      handover := none, held := [] } })
    (hw : w = u.slc.held.foldl State.access v) : exec .pageHandoverDone s =
      .next (State.pageDrain w.slc.pageQueue.length (w.pageAnswer h.req 0 0)).settle := by
  rw [exec, execPageHandoverDone, act_live hlive, State.pageHandoverDone, hw, hv]
  simp only [hh, ← hu]
  rfl

end Done

/-- Settles O35: the slot's write by the room in the queue, a row by the request at the head, the end by the handover. -/
theorem pageRequests : Obligations.PageRequests := by
  refine ⟨fun s tag d q hlive hq => ⟨fun h => ?_, fun h => ?_⟩,
    fun s u c op r l hlive hc => ?_,
    fun s u v w h hlive => ⟨execPageHandoverDone_none hlive, fun hh hu hv hw =>
      execPageHandoverDone_some hlive hh hu hv hw⟩⟩
  · rw [execPageReqTake_live hlive tag hq, if_neg (Nat.not_le.mpr h)]
  · rw [execPageReqTake_live hlive tag hq, if_pos h]
  · obtain ⟨he, h1, h3⟩ := exec_pageRow hlive hc
    rw [he]
    refine ⟨fun h => congrArg _ (State.pageStart_nil h), fun hq hlo hhi hn => congrArg _ (State.pageStart_other hq hlo hhi hn),
      fun hq hn hop hu => ⟨fun hp => ?_, fun hp => ⟨_, rfl, ?_⟩⟩⟩
    · rw [State.pageStart_own hq hop h1 h3 hn hu, if_pos hp]
    · rw [State.pageStart_own hq hop h1 h3 hn hu, if_neg (not_not.mpr hp), r.handover_eq, show r.op = op from hop]

/-! ### Debug enables (R387) -/

/-- A number made of bits has those bits. -/
theorem bit_sum_bits (f : Nat → Bool) (n i : Nat) :
    bit ((List.range n).map fun w => b2n (f w) * 2 ^ w).sum i = (decide (i < n) && f i) ∧
      ((List.range n).map fun w => b2n (f w) * 2 ^ w).sum < 2 ^ n := by
  induction n with
  | zero => simp [bit]
  | succ n ih =>
    obtain ⟨hbit, hlt⟩ := ih
    have hb : b2n (f n) ≤ 1 := by cases f n <;> decide
    rw [List.range_succ, List.map_append, List.sum_append, List.map_singleton, List.sum_singleton, Nat.add_comm,
      Nat.mul_comm]
    refine ⟨?_, ?_⟩
    · rw [bit, Nat.testBit_two_pow_mul_add _ hlt]
      rcases Nat.lt_trichotomy i n with h | rfl | h
      · rw [if_pos h, ← bit, hbit]
        simp [h, Nat.lt_succ_of_lt h]
      · cases hf : f i <;> simp [b2n]
      · have : 2 ≤ 2 ^ (i - n) := by
          calc 2 = 2 ^ 1 := rfl
            _ ≤ 2 ^ (i - n) := Nat.pow_le_pow_right (by decide) (by omega)
        rw [if_neg (by omega), Nat.testBit_lt_two_pow (by omega)]
        simp
        omega
    · rw [Nat.pow_succ, Nat.mul_two]
      have := Nat.mul_le_mul_left (2 ^ n) hb
      omega

/-- Whose write it is decides an enable (R387): the world's own admin, or a SAFETY tag for the SAFETY world, sets it where
SLUICE allows and clears it; the DEVICE admin clears it. -/
theorem State.dbgBits_bit (s : State) {tag cur want allow w : Nat} (hw : w < 16) {mine dev : Bool}
    (hm : mine = ((s.privileged tag && worldOf tag == w) || (worldClass (worldOf tag) == .safety && w == 1)))
    (hd : dev = (s.privileged tag && worldClass (worldOf tag) == .device)) :
    bit (s.dbgBits tag cur want allow) w =
      if bit want w && !bit cur w then mine && s.worldFlag w allow
      else if !bit want w && bit cur w then !(mine || dev) else bit cur w := by
  unfold State.dbgBits
  dsimp only
  rw [(bit_sum_bits _ 16 w).1, hm, hd]
  simp [hw]

theorem bit_fld {v lo n w : Nat} (hw : w < n) : bit (fld v lo n) w = bit v (lo + w) := by
  simp [bit, fld, Nat.testBit_mod_two_pow, hw]

theorem execDbgEnWrite_live {s : State} (hlive : s.live = true) (tag val : Nat) : exec (.dbgEnWrite tag val) s =
    .next { s with slc := { s.slc with
      dbgInv := s.dbgBits tag s.slc.dbgInv (fld val 0 16) 1
      dbgNonInv := s.dbgBits tag s.slc.dbgNonInv (fld val 16 16) 2 } } := by
  rw [exec, execDbgEnWrite, act_live hlive]

/-! ### Region entries (R367, R368, R484) -/

theorem execRegionEntryWrite_live {s : State} (hlive : s.live = true) {tag tbl n : Nat} {d : Bytes} {l : List Region}
    (hl : l = (List.range 32).map fun r => if r = n then regionOf d else s.region 22 r) :
    exec (.regionEntryWrite tag tbl n d) s = .next (
      if tag ≠ s.stmTag ∨ (s.region tbl n).locked = true ∨ ((regionOf d).paged = true ∧ tbl ≠ 0) ∨
          ((regionOf d).window = true ∧ tbl ≠ 22) ∨ (tbl = 22 ∧ windowOk l = false) then s
      else { s with slc := { s.slc with regions := tset s.slc.regions (32 * tbl + n) (regionOf d) } }) := by
  rw [exec, execRegionEntryWrite, act_live hlive, hl]
  simp only [Bool.or_eq_true, Bool.and_eq_true, decide_eq_true_eq, bne_iff_ne, beq_iff_eq, Bool.not_eq_true', or_assoc]

/-! ### Register writes (R386, R482) -/

section Registers

variable {s : State} (hlive : s.live = true)
include hlive

theorem execRegisterWrite_csr (h n l v : Nat) : exec (.registerWrite (.csr h n l v)) s = .next (
    if n = 0x7C1 ∧ l = 3 then s.modHart h fun x => { x with hstag := v % 4096 }
    else if n = 0x6C0 ∧ (l = 1 ∨ l = 3) then s.modHart h fun x => { x with vstag := v % 4096 } else s) := by
  rw [exec, execRegisterWrite, act_live hlive]
  rfl

theorem execRegisterWrite_path {path : Nat} (hp : path < 3) (a n v : Nat) (q : Requester) (b : Bool) :
    exec (.registerWrite (.bus path q a n v b)) s = .next (
      if a < ctlBase ∨ ctlBase + 0x800000 ≤ a then s.refuse
      else s.privAccess { path := path, tag := s.pathTag path } (a - ctlBase) n true (leBytes n v) b) := by
  rw [exec, execRegisterWrite, act_live hlive]
  exact congrArg _ (if_pos hp)

theorem execRegisterWrite_gateway {path : Nat} (hp : 3 ≤ path) (a n v : Nat) (b : Bool) :
    (∀ tag, exec (.registerWrite (.bus path (.tag tag) a n v b)) s = .next (s.sluiceAccess
      { sluice := 29, tag := tag, addr := a, len := n, write := true, data := leBytes n v } b)) ∧
    (∀ h l, exec (.registerWrite (.bus path (.hart h l) a n v b)) s =
      .next ((s.modHart h fun x => { x with tag := s.coreTag h l }).sluiceAccess
        { sluice := 29, tag := s.coreTag h l, addr := a, len := n, write := true, data := leBytes n v, fromCore := true }
        b)) := by
  refine ⟨fun tag => ?_, fun h l => ?_⟩ <;> rw [exec, execRegisterWrite, act_live hlive]
  · exact congrArg _ (if_neg (Nat.not_lt.mpr hp))
  · exact congrArg _ (if_neg (Nat.not_lt.mpr hp))

end Registers

/-- Settles O37: an enable bit by bit, an entry by its conditions, a register write by its path. The levels that write
hstag and vstag stand in log entry 71. -/
theorem debugEnablesAndRegions : Obligations.DebugEnablesAndRegions := by
  refine ⟨fun s tag val w hlive hw => ⟨_, execDbgEnWrite_live hlive tag val, rfl, fun mine dev hm hd => ⟨?_, ?_⟩⟩,
    fun s tag tbl n d l hlive hl => ⟨fun h => ?_, fun ht hlk hp hwin hok => ?_⟩,
    fun s h v hlive => ⟨?_, ?_, ?_, fun n l h1 h2 => ?_⟩,
    fun s path a n v q b hlive hp => ⟨fun h => ?_, fun hlo hhi => ?_⟩,
    fun s path a n v b hlive hp => ⟨(execRegisterWrite_gateway hlive hp a n v b).1,
      fun h l => ⟨_, rfl, (execRegisterWrite_gateway hlive hp a n v b).2 h l⟩⟩⟩
  · rw [State.dbgBits_bit s hw hm hd, bit_fld hw, Nat.zero_add]
  · rw [State.dbgBits_bit s hw hm hd, bit_fld hw]
  · rw [execRegionEntryWrite_live hlive hl, if_pos h]
  · rw [execRegionEntryWrite_live hlive hl, if_neg]
    rintro (h | h | ⟨h, h'⟩ | ⟨h, h'⟩ | ⟨h, h'⟩)
    · exact h ht
    · simp [hlk] at h
    · exact h' (hp h)
    · exact h' (hwin h)
    · simp [hok h] at h'
  · rw [execRegisterWrite_csr hlive, if_pos (by decide)]
  · rw [execRegisterWrite_csr hlive, if_neg (by decide), if_pos (by decide)]
  · rw [execRegisterWrite_csr hlive, if_neg (by decide), if_pos (by decide)]
  · rw [execRegisterWrite_csr hlive, if_neg h1, if_neg h2]
  · rw [execRegisterWrite_path hlive hp, if_pos h]
  · rw [execRegisterWrite_path hlive hp, if_neg (by omega)]

end Sys2Proof.Machine
end

section
/-! Proofs of the family of isolation: the enclave operations, the gateway instructions and the asynchronous exit (O36). -/

namespace Sys2Proof.Machine

open Sys2Proof.Laws

/-! ### ENCLAVE_CREATE and ENCLAVE_SELECT (R381, R382) -/

theorem execEnclaveCreate_live {s : State} (hlive : s.live = true) (tag n : Nat) (d : Bool) :
    exec (.enclaveCreate tag n d) s = .next (
      if (s.enclave n).state ≠ .empty then s.encDone 1
      else if s.mayCreate tag = false then s.encDone 2
      else if d = true ∧ s.debugAllowed = false then s.encDone 5
      else (s.modEnclave n fun _ => { state := .building, creator := worldOf tag, debug := d }).encDone 0) := by
  rw [exec, execEnclaveCreate, act_live hlive]
  simp only [Bool.and_eq_true, Bool.not_eq_true']

theorem execEnclaveSelect_live {s : State} (hlive : s.live = true) (path tag n : Nat) :
    exec (.enclaveSelect path tag n) s = .next { s with
      slc := { s.slc with selected := tset s.slc.selected path n, encError := 0 } } := by
  rw [exec, execEnclaveSelect, act_live hlive]
  rfl

/-! ### ENCLAVE_ADD (R381) -/

/-- A page is measured and passes to the enclave. -/
def State.addPage (s : State) (n ty p : Nat) : State :=
  (s.modEnclave n fun e => { e with
    measure := Config.sha384 ((s.enclave n).m ++ leBytes 1 ty ++ leBytes 4 (s.enclave n).pages.length ++ s.rd (p * 4096) 4096)
    pages := e.pages ++ [(ty, p)] }).modOwner p fun _ => { owner := enclaveTag n, free := false }

/-- The measurement after the first `k` pages of an ADD. -/
def State.addMeasure (s : State) (n ty p k : Nat) : Bytes :=
  (List.range k).foldl (fun m i => Config.sha384 (slice m 0 48 ++ leBytes 1 ty
    ++ leBytes 4 ((s.enclave n).pages.length + i) ++ s.rd ((p + i) * 4096) 4096)) (s.enclave n).measure

theorem State.addMeasure_succ (s : State) (n ty p k : Nat) : s.addMeasure n ty p (k + 1) =
    Config.sha384 (slice (s.addMeasure n ty p k) 0 48 ++ leBytes 1 ty ++ leBytes 4 ((s.enclave n).pages.length + k)
      ++ s.rd ((p + k) * 4096) 4096) := by
  rw [State.addMeasure, List.range_succ, List.foldl_append]
  rfl

theorem State.addPage_enclave (s : State) (n ty p : Nat) : (s.addPage n ty p).enclave n = { s.enclave n with
    measure := Config.sha384 ((s.enclave n).m ++ leBytes 1 ty ++ leBytes 4 (s.enclave n).pages.length ++ s.rd (p * 4096) 4096)
    pages := (s.enclave n).pages ++ [(ty, p)] } := by
  have h (u : State) (f : OwnerEntry → OwnerEntry) : (u.modOwner p f).enclave n = u.enclave n := rfl
  rw [State.addPage, h, State.modEnclave_same]

theorem State.addPage_owner (s : State) (n ty p q : Nat) : (s.addPage n ty p).owner q =
    if q = p then { owner := enclaveTag n, free := false } else s.owner q := by
  unfold State.addPage
  split
  · next h => rw [h, State.modOwner_same]
  · next h => exact State.modOwner_other _ _ _ _ h

/-- Pages added one after another are measured in their order. -/
theorem State.addPages (s : State) (n ty p k : Nat) {t : State}
    (ht : t = ((List.range k).map (p + ·)).foldl (fun s q => s.addPage n ty q) s) :
    t = { s with slc := t.slc } ∧
    t.enclave n = { s.enclave n with
      measure := s.addMeasure n ty p k
      pages := (s.enclave n).pages ++ (List.range k).map (fun i => (ty, p + i)) } ∧
    ∀ q, t.owner q = if p ≤ q ∧ q < p + k then { owner := enclaveTag n, free := false } else s.owner q := by
  induction k generalizing t with
  | zero => subst ht; exact ⟨rfl, by simp [State.addMeasure], fun q => (if_neg (by omega)).symm⟩
  | succ k ih =>
    obtain ⟨hf, he, ho⟩ := ih rfl
    rw [List.range_succ, List.map_append, List.foldl_append] at ht
    generalize ((List.range k).map (p + ·)).foldl (fun s q => s.addPage n ty q) s = u at hf he ho ht
    obtain rfl : t = u.addPage n ty (p + k) := ht
    have hrd : u.rd ((p + k) * 4096) 4096 = s.rd ((p + k) * 4096) 4096 := by rw [hf]; rfl
    refine ⟨?_, ?_, fun q => ?_⟩
    · rw [hf]
      rfl
    · rw [State.addPage_enclave, he, hrd, State.addMeasure_succ, List.range_succ]
      simp [Enclave.m]
    · rw [State.addPage_owner, ho]
      by_cases hq : q = p + k
      · rw [if_pos hq, if_pos (by omega)]
      · rw [if_neg hq]
        exact if_congr (by omega) rfl rfl

/-- A page handover in progress on one of the pages ends first. -/
theorem State.pagesSettled_eq (s : State) (l : List Nat) : s.pagesSettled l =
    if s.slc.handover.any (fun h => l.any fun q => h.first ≤ q && q < h.first + h.count) then s.pageHandoverDone else s := by
  unfold State.pagesSettled
  cases s.slc.handover <;> rfl

section Add

variable {s : State} (hlive : s.live = true) {tag n ty p k : Nat}
include hlive

theorem execEnclaveAdd_state (h : (s.enclave n).state ≠ .building) :
    exec (.enclaveAdd tag n ty p k) s = .next (s.encDone 1) := by
  rw [exec, execEnclaveAdd, act_live hlive]
  exact congrArg _ (if_pos h)

variable (h : (s.enclave n).state = .building)
include h

theorem execEnclaveAdd_creator (hc : s.isCreator tag n = false) :
    exec (.enclaveAdd tag n ty p k) s = .next (s.encDone 2) := by
  rw [exec, execEnclaveAdd, act_live hlive]
  exact congrArg _ ((if_neg (not_not.mpr h)).trans (if_pos (by simp [hc])))

variable (hc : s.isCreator tag n = true) {u : State} (hu : u = s.pagesSettled ((List.range k).map (p + ·)))
include hc hu

/-- Each page is of the creator's admin, or the ADD is refused; then the cached lines leave, and the pages pass. -/
theorem execEnclaveAdd_pages : exec (.enclaveAdd tag n ty p k) s = .next (
    if ∀ i < k, (u.owner (p + i)).free = false ∧ (u.owner (p + i)).owner = (s.enclave n).creator * 256 then
      (((List.range k).map (p + ·)).foldl (fun s q => s.addPage n ty q)
        (u.revokePages ((List.range k).map (p + ·)) false { owner := enclaveTag n, free := false })).encDone 0
    else u.encDone 3) := by
  rw [exec, execEnclaveAdd, act_live hlive, hu]
  refine congrArg _ ((if_neg (not_not.mpr h)).trans ((if_neg (by simp [hc])).trans ?_))
  simp only [Bool.not_eq_true', List.all_map, ← Bool.not_eq_true, List.all_eq_true, List.mem_range, Function.comp_apply,
    Bool.and_eq_true, beq_iff_eq]
  rw [ite_not]
  rfl

end Add

/-! ### ENCLAVE_SEAL and ENCLAVE_DESTROY (R381, R382) -/

theorem execEnclaveSeal_live {s : State} (hlive : s.live = true) (tag n : Nat) :
    exec (.enclaveSeal tag n) s = .next (
      if (s.enclave n).state ≠ .building then s.encDone 1
      else if s.isCreator tag n = false then s.encDone 2
      else if s.entryPage n = none then s.encDone 4
      else State.encDone (s.modEnclave n fun e => { e with
        state := .ready
        measure := Config.sha384 (slice e.measure 0 48 ++ leBytes 1 0xFF ++ leBytes 1 (b2n e.debug)) }) 0) := by
  rw [exec, execEnclaveSeal, act_live hlive]
  simp only [Bool.not_eq_true', Option.isNone_iff_eq_none]
  rfl

section Destroy

variable {s : State} (hlive : s.live = true) {tag n : Nat}
include hlive

theorem execEnclaveDestroy_refused : ((s.enclave n).state = .empty → exec (.enclaveDestroy tag n) s = .next (s.encDone 1)) ∧
    ((s.enclave n).state ≠ .empty → s.isCreator tag n = false →
      exec (.enclaveDestroy tag n) s = .next (s.encDone 2)) := by
  rw [exec, execEnclaveDestroy, act_live hlive]
  exact ⟨fun h => congrArg _ (if_pos h), fun h hc => congrArg _ ((if_neg h).trans (if_pos (by simp [hc])))⟩

theorem execEnclaveDestroy_done (h : (s.enclave n).state ≠ .empty) (hc : s.isCreator tag n = true) {u w v : State}
    (hu : u = ((s.slc.harts.filter fun x => x.2.enclave == n).map (·.1)).foldl State.asyncExit s)
    (hw : w = ((s.enclave n).pages.map (·.2)).foldl
      (fun x q => x.revokeLines q 1 true fun _ => { owner := (s.enclave n).creator * 256, free := false }) u)
    (hv : v = (s.enclave n).pages.foldl (fun w p => (w.zeroDram (p.2 * 4096) 4096).modOwner p.2 fun _ =>
      { owner := (s.enclave n).creator * 256, free := false }) w) : exec (.enclaveDestroy tag n) s =
    .next { v with slc := { v.slc with enclaves := tdel v.slc.enclaves n, encError := 0 } } := by
  rw [exec, execEnclaveDestroy, act_live hlive, hv, hw, hu]
  exact congrArg _ ((if_neg h).trans (if_neg (by simp [hc])))

end Destroy

/-! ### GATE.MARK and GATE.EXIT (R383, R385) -/

theorem execGateMark_live {s : State} (hlive : s.live = true) (h : Nat) (r : HartRegs) : exec (.gateMark h r) s =
    .next (s.modHart h fun x => { x with regs := { r with pc := (r.pc + 4) % 2 ^ 64 } }) := by
  rw [exec, execGateMark, act_live hlive]

/-- A change of a hart depends on what it makes of that hart alone. -/
theorem State.modHart_eq {s : State} {h : Nat} {f g : Hart → Hart} (e : f (s.hart h) = g (s.hart h)) :
    s.modHart h f = s.modHart h g := by
  unfold State.hart at e
  simp only [State.modHart, tmod, e]

/-- The registers with which a hart leaves its enclave (R385): the arguments are kept, sp, ra and pc are restored, the rest
is clear. -/
def exitRegs (x : Hart) (r : HartRegs) : HartRegs :=
  regSet { pc := x.savedPc, x := tset (tset ((List.range 8).foldl (fun t i => tset t (10 + i) (regGet r (10 + i))) []) 1
    x.savedRa) 2 x.savedSp } x.savedRd 0

theorem exitRegs_rest (x : Hart) (r : HartRegs) : (exitRegs x r).pc = x.savedPc ∧ (exitRegs x r).f = [] ∧
    (exitRegs x r).v = [] ∧ (exitRegs x r).fcsr = 0 ∧ (exitRegs x r).vcsr = [] := by
  unfold exitRegs regSet
  split <;> exact ⟨rfl, rfl, rfl, rfl, rfl⟩

theorem tget_foldl_tset (f : Nat → Nat) (n k : Nat) :
    tget 0 ((List.range n).foldl (fun t i => tset t (10 + i) (f (10 + i))) []) k =
      if 10 ≤ k ∧ k < 10 + n then f k else 0 := by
  induction n with
  | zero => simp [tget]
  | succ n ih =>
    rw [List.range_succ, List.foldl_append, List.foldl_cons, List.foldl_nil]
    by_cases hk : k = 10 + n
    · rw [hk, tget_tset_same, if_pos (by omega)]
    · rw [tget_tset_other _ _ _ _ hk, ih]
      exact if_congr (by omega) rfl rfl

theorem regGet_regSet (r : HartRegs) (k v : Nat) {i : Nat} (hi : 0 < i) :
    regGet (regSet r k v) i = if i = k then v else regGet r i := by
  unfold regGet regSet
  rw [if_neg (Nat.ne_of_gt hi), if_neg (Nat.ne_of_gt hi)]
  split
  · next hk => rw [if_neg (by omega)]
  · split
    · next hik => rw [hik, tget_tset_same]
    · next hik => exact tget_tset_other _ _ _ _ hik _

theorem regGet_exitRegs (x : Hart) (r : HartRegs) {i : Nat} (hi : 0 < i) : regGet (exitRegs x r) i =
    if i = x.savedRd then 0 else if i = 1 then x.savedRa else if i = 2 then x.savedSp
    else if 10 ≤ i ∧ i ≤ 17 then regGet r i else 0 := by
  rw [exitRegs, regGet_regSet _ _ _ hi]
  refine if_congr Iff.rfl rfl ?_
  rw [regGet, if_neg (Nat.ne_of_gt hi)]
  dsimp only
  by_cases h2 : i = 2
  · rw [h2, tget_tset_same]
    rfl
  · rw [tget_tset_other _ _ _ _ h2, if_neg h2]
    by_cases h1 : i = 1
    · rw [h1, tget_tset_same, if_pos rfl]
    · rw [tget_tset_other _ _ _ _ h1, if_neg h1, tget_foldl_tset]
      exact if_congr (by omega) rfl rfl

/-- A hart with no halt request held is left as it is by the exit's look at it (R387). -/
theorem State.releaseHalt_none {s : State} {h : Nat} (e : (s.hart h).haltHeld = false) : s.releaseHalt h = s :=
  if_neg (by simp [e])

section Exit

variable {s : State} (hlive : s.live = true) (h : Nat) (r : HartRegs)
include hlive

theorem execGateExit_outside (he : (s.hart h).enclave = 0) : exec (.gateExit h r) s =
    .next (s.modHart h fun x => { x with regs := r, xepc := r.pc, xcause := 2 }) := by
  rw [exec, execGateExit, act_live hlive, State.gateExit]
  exact congrArg _ (if_pos he)

theorem execGateExit_inside (he : (s.hart h).enclave ≠ 0) (hh : (s.hart h).haltHeld = false) :
    exec (.gateExit h r) s = .next (s.modHart h fun x => { x with
      regs := exitRegs (s.hart h) r, tag := (s.hart h).savedTag, enclave := 0 }) := by
  rw [exec, execGateExit, act_live hlive, State.gateExit]
  refine congrArg _ ((if_neg he).trans ((State.releaseHalt_none ?_).trans (State.modHart_eq rfl)))
  rw [State.modHart_same]
  exact hh

end Exit

/-! ### GATE.ENTER (R384) -/

section Enter

variable {s : State} (hlive : s.live = true) {h rd r1 r2 ph : Nat} {r : HartRegs} {l : HartLevel}

/-- An index that is answered 0 is that of an entry of the enclave's ENTRY page, where it does not resume. -/
theorem State.entryPage_of_enterCode {n i : Nat} (hc : s.enterCode h n i = 0) (hi : i ≠ 2 ^ 64 - 1) :
    ∃ pg, s.entryPage n = some pg := by
  cases he : s.entryPage n with
  | some pg => exact ⟨pg, rfl⟩
  | none =>
    unfold State.enterCode at hc
    simp only [he, if_neg hi] at hc
    split at hc
    · cases hc
    · simp at hc

include hlive

theorem execGateEnter_machine : exec (.gateEnter h .machine rd r1 r2 ph r) s =
    .next (s.modHart h fun x => { x with regs := r, xepc := r.pc, xcause := 2 }) := by
  rw [exec, execGateEnter, act_live hlive, State.gateEnter]
  exact congrArg _ (if_pos rfl)

omit hlive in
/-- The internal gate state of a hart that enters, and its tag (R384 steps 1 to 3), before what follows at the entry. -/
theorem State.gateTake_hart {n : Nat} (F : Hart → Hart) :
    ((s.gateTake h n rd l r).modHart h F).hart h = F { s.hart h with
      savedPc := (r.pc + 4) % 2 ^ 64, savedSp := regGet r 2, savedRa := regGet r 1, savedTag := s.coreTag h l, savedRd := rd
      tag := enclaveTag n, enclave := n, aex := false, gateFault := false } :=
  (State.modHart_same _ _ _).trans (congrArg F (s.modHart_same h _))

omit hlive in
theorem State.gateTake_other {n : Nat} (F : Hart → Hart) {j : Nat} (hj : j ≠ h) :
    ((s.gateTake h n rd l r).modHart h F).hart j = s.hart j :=
  (State.modHart_other _ _ _ _ hj).trans (s.modHart_other h j _ hj)

variable (hl : l ≠ .machine)
include hl

theorem execGateEnter_fails (hc : s.enterCode h (regGet r r1) (regGet r r2) ≠ 0) :
    exec (.gateEnter h l rd r1 r2 ph r) s = .next (s.modHart h fun x => { x with
      regs := { (regSet r rd (s.enterCode h (regGet r r1) (regGet r r2))) with pc := (r.pc + 4) % 2 ^ 64 } }) := by
  rw [exec, execGateEnter, act_live hlive, State.gateEnter]
  exact congrArg _ ((if_neg hl).trans (if_pos hc))

variable (hc : s.enterCode h (regGet r r1) (regGet r r2) = 0) {u : State}
  (hu : u = s.gateTake h (regGet r r1) rd l r)
include hc hu

theorem execGateEnter_resumes (hi : regGet r r2 = 2 ^ 64 - 1) : exec (.gateEnter h l rd r1 r2 ph r) s =
    .next (u.modHart h fun x => { x with regs := tget {} (s.enclave (regGet r r1)).slots h }) := by
  rw [exec, execGateEnter, act_live hlive, State.gateEnter, hu]
  exact congrArg _ ((if_neg hl).trans ((if_neg (not_not.mpr hc)).trans (if_pos hi)))

variable (hi : regGet r r2 ≠ 2 ^ 64 - 1)
include hi

theorem execGateEnter_marked (hm : s.entryMarked (regGet r r1) ph = true) {pg : Nat}
    (hp : s.entryPage (regGet r r1) = some pg) : exec (.gateEnter h l rd r1 r2 ph r) s =
      .next (u.modHart h fun x => { x with
        regs := { r with pc := s.rdLe (pg * 4096 + 8 + 8 * regGet r r2) 8 } }) := by
  rw [exec, execGateEnter, act_live hlive, State.gateEnter, hu]
  refine congrArg _ ((if_neg hl).trans ((if_neg (not_not.mpr hc)).trans ((if_neg hi).trans ((if_pos hm).trans ?_))))
  rw [show (s.gateTake h (regGet r r1) rd l r).entryPage (regGet r r1) = some pg from hp]
  rfl

theorem execGateEnter_unmarked (hm : s.entryMarked (regGet r r1) ph = false) :
    ∃ v, exec (.gateEnter h l rd r1 r2 ph r) s =
      .next (State.modHart { u with freeCtr := s.freeCtr + 1 } h fun x => { x with
        regs := r, tag := s.coreTag h l, enclave := 0, gateFault := true, xepc := r.pc, xcause := 1, xtval := v }) := by
  rw [exec, execGateEnter, act_live hlive, State.gateEnter, hu]
  refine ⟨_, congrArg _ ((if_neg hl).trans ((if_neg (not_not.mpr hc)).trans ((if_neg hi).trans (if_neg ?_))))⟩
  exact ne_true_of_eq_false hm

end Enter

/-! ### The asynchronous exit (R386, R387) -/

/-- Writes of memory one after another change memory alone. -/
theorem State.foldl_wr {α : Type} (f : α → Nat) (g : α → Bytes) (l : List α) (s : State) :
    ∃ m, l.foldl (fun s p => s.wr (f p) (g p)) s = { s with mem := m } := by
  induction l generalizing s with
  | nil => exact ⟨s.mem, rfl⟩
  | cons p l ih =>
    obtain ⟨m, hm⟩ := ih (s.wr (f p) (g p))
    exact ⟨m, hm⟩

/-- The registers of an enclave stand in the hart's slot; the slot's pages in memory are written. -/
theorem State.saveSlot_eq (s : State) (n h : Nat) (r : HartRegs) : ∃ m, s.saveSlot n h r =
    State.modEnclave { s with mem := m, freeCtr := s.freeCtr + 1 } n fun e => { e with slots := tset e.slots h r } := by
  obtain ⟨m, hm⟩ := State.foldl_wr (fun p => p * 4096)
    (fun p => (List.range 4096).map (Config.freeByte (s.freeCtr + p))) ((s.enclave n).slotPages h)
    { s with freeCtr := s.freeCtr + 1 }
  exact ⟨m, congrArg (fun t => State.modEnclave t n fun e => { e with slots := tset e.slots h r }) hm⟩

/-- A held halt request that meets the enables concerns the halting of its hart alone. -/
theorem State.releaseHalt_spec (s : State) (h : Nat) :
    (∃ l, s.releaseHalt h = { s with slc := { s.slc with harts := l } }) ∧
    (∀ j, j ≠ h → (s.releaseHalt h).hart j = s.hart j) ∧
    ∃ a b, (s.releaseHalt h).hart h = { s.hart h with haltHeld := a, debugHalted := b } := by
  unfold State.releaseHalt
  split
  · exact ⟨⟨_, rfl⟩, fun j hj => State.modHart_other _ _ _ _ hj, _, _, State.modHart_same _ _ _⟩
  · exact ⟨⟨s.slc.harts, rfl⟩, fun _ _ => rfl, (s.hart h).haltHeld, (s.hart h).debugHalted, rfl⟩

/-- A hart that leaves its enclave asynchronously: what it shows outside. -/
def Hart.exited (x : Hart) : Hart :=
  { x with
    regs := { pc := (x.savedPc + (2 ^ 64 - 4)) % 2 ^ 64, x := tset (tset [] 1 x.savedRa) 2 x.savedSp }
    tag := x.savedTag, enclave := 0, aex := true, xepc := (x.savedPc + (2 ^ 64 - 4)) % 2 ^ 64, xtval := 0 }

/-- An asynchronous exit: the hart's slot, the hart itself, and memory. -/
theorem State.asyncExit_inside {s : State} {h : Nat} (he : (s.hart h).enclave ≠ 0) {t : State} (ht : t = s.asyncExit h) :
    t = { s with mem := t.mem, freeCtr := t.freeCtr, slc := t.slc } ∧
    (∀ j, j ≠ h → t.hart j = s.hart j) ∧
    tget {} (t.enclave (s.hart h).enclave).slots h = (s.hart h).regs ∧
    ∃ a b, t.hart h = { (s.hart h).exited with haltHeld := a, debugHalted := b } := by
  obtain ⟨m, hm⟩ := s.saveSlot_eq (s.hart h).enclave h (s.hart h).regs
  obtain ⟨⟨l, hl⟩, hj, a, b, hab⟩ :=
    ((s.saveSlot (s.hart h).enclave h (s.hart h).regs).modHart h Hart.exited).releaseHalt_spec h
  have ht : t = ((s.saveSlot (s.hart h).enclave h (s.hart h).regs).modHart h Hart.exited).releaseHalt h :=
    ht.trans (if_neg he)
  have hhart (j : Nat) : (s.saveSlot (s.hart h).enclave h (s.hart h).regs).hart j = s.hart j := by rw [hm]; rfl
  refine ⟨?_, fun j hne => ?_, ?_, a, b, ?_⟩
  · rw [ht, hl, hm]
    rfl
  · rw [ht, hj j hne, State.modHart_other _ _ _ _ hne, hhart]
  · have hs : ((s.saveSlot (s.hart h).enclave h (s.hart h).regs).enclave (s.hart h).enclave).slots =
        tset (s.enclave (s.hart h).enclave).slots h (s.hart h).regs := by
      rw [hm, State.modEnclave_same]
      rfl
    rw [ht, hl]
    exact (congrArg (tget {} · h) hs).trans (tget_tset_same _ _ _ _)
  · rw [ht, hab, State.modHart_same, hhart]

section Async

variable {s : State} (hlive : s.live = true) (h c : Nat) (r : HartRegs)
include hlive

theorem execAsyncExit_outside (he : (s.hart h).enclave = 0) : exec (.asyncExit h c r) s = .next s := by
  rw [exec, execAsyncExit, act_live hlive, if_pos he]

theorem execAsyncExit_inside (he : (s.hart h).enclave ≠ 0) : exec (.asyncExit h c r) s =
    .next (((s.modHart h fun x => { x with regs := r }).asyncExit h).modHart h fun x => { x with xcause := c }) := by
  rw [exec, execAsyncExit, act_live hlive, if_neg he]

end Async

/-- Settles O36: the enclave operations by their checks in their order, the gateway by where the hart stands. That ADD waits
for a page handover on its pages, and that a CREATE of another tag is error 2, are the model's choice (log entry 58). -/
theorem enclaves : Obligations.Enclaves := by
  refine ⟨fun s tag n d hlive => ⟨fun h => ?_, fun h hm => ?_, fun h hm hd ha => ?_, fun h hm hd => ?_⟩,
    fun s tag n ty p k hlive => ⟨fun h => ⟨execEnclaveAdd_state hlive h, ?_⟩,
      fun h hc => ⟨execEnclaveAdd_creator hlive h hc, ?_⟩, fun h hc => ⟨fun u hu => ?_, fun he => ?_, fun he => ?_⟩⟩,
    fun s tag n hlive => ⟨(execEnclaveDestroy_refused hlive).1, (execEnclaveDestroy_refused hlive).2, fun h hc =>
      ⟨_, _, _, rfl, rfl, rfl, execEnclaveDestroy_done hlive h hc rfl rfl rfl⟩⟩,
    fun s path tag n hlive => execEnclaveSelect_live hlive path tag n,
    fun s h r hlive => ⟨execGateMark_live hlive h r, execGateExit_outside hlive h r, fun he hh => ?_⟩,
    fun s h rd r1 r2 ph r l hlive => ⟨execGateEnter_machine hlive, execGateEnter_fails hlive, fun hl hc => ?_⟩,
    fun s h c r hlive => ⟨execAsyncExit_outside hlive h c r, fun he => ?_⟩⟩
  · rw [execEnclaveCreate_live hlive, if_pos h]
  · rw [execEnclaveCreate_live hlive, if_neg (not_not.mpr h), if_pos hm]
  · rw [execEnclaveCreate_live hlive, if_neg (not_not.mpr h), if_neg (by simp [hm]), if_pos ⟨hd, ha⟩]
  · rw [execEnclaveCreate_live hlive, if_neg (not_not.mpr h), if_neg (by simp [hm]), if_neg]
    rintro ⟨rfl, ha⟩
    simp [ha] at hd
  · rw [execEnclaveSeal_live hlive, if_pos h]
  · rw [execEnclaveSeal_live hlive, if_neg (not_not.mpr h), if_pos hc]
  · rw [← s.pagesSettled_eq] at hu
    refine ⟨fun ⟨i, hi, hbad⟩ => ?_, fun hgood => ?_⟩
    · rw [execEnclaveAdd_pages hlive h hc hu, if_neg]
      intro hall
      obtain ⟨hf, ho⟩ := hall i hi
      rcases hbad with hbad | hbad
      · simp [hf] at hbad
      · exact hbad ho
    · obtain ⟨hf, he, ho⟩ := State.addPages
        (u.revokePages ((List.range k).map (p + ·)) false { owner := enclaveTag n, free := false }) n ty p k rfl
      have hx := execEnclaveAdd_pages (ty := ty) hlive h hc hu
      rw [if_pos hgood] at hx
      refine ⟨_, _, rfl, hx, rfl, ?_, ?_, ?_, ?_, ho⟩
      · rw [hf]
        rfl
      · exact (congrArg Enclave.state he :)
      · exact (congrArg Enclave.pages he :)
      · exact (congrArg Enclave.measure he :)
  · rw [execEnclaveSeal_live hlive, if_neg (not_not.mpr h), if_neg (by simp [hc]), if_pos he]
  · rw [execEnclaveSeal_live hlive, if_neg (not_not.mpr h), if_neg (by simp [hc]), if_neg he]
  · obtain ⟨hpc, hf, hv, hfc, hvc⟩ := exitRegs_rest (s.hart h) r
    exact ⟨_, exitRegs (s.hart h) r, execGateExit_inside hlive h r he hh, rfl, hpc, hf, hv, hfc, hvc,
      fun i hi => regGet_exitRegs _ r hi⟩
  · by_cases hi : regGet r r2 = 2 ^ 64 - 1
    · exact ⟨_, _, execGateEnter_resumes hlive hl hc rfl hi, (State.gateTake_hart _).symm, rfl,
        fun j hj => State.gateTake_other _ hj, rfl, rfl, rfl, rfl, rfl, fun _ => ⟨rfl, rfl, rfl⟩,
        fun hn => absurd hi hn, fun hn => absurd hi hn⟩
    · cases hm : s.entryMarked (regGet r r1) ph with
      | true =>
        obtain ⟨pg, hp⟩ := State.entryPage_of_enterCode hc hi
        exact ⟨_, _, execGateEnter_marked hlive hl hc rfl hi hm hp, (State.gateTake_hart _).symm, rfl,
          fun j hj => State.gateTake_other _ hj, rfl, rfl, rfl, rfl, rfl, fun hn => absurd hn hi,
          fun _ _ => ⟨rfl, rfl, pg, hp, rfl⟩, fun _ hn => absurd hn (by simp)⟩
      | false =>
        obtain ⟨v, hv⟩ := execGateEnter_unmarked hlive hl hc rfl hi hm
        exact ⟨_, _, hv, (State.gateTake_hart _).symm, rfl, fun j hj => State.gateTake_other _ hj, rfl, rfl, rfl, rfl,
          rfl, fun hn => absurd hn hi, fun _ hn => absurd hn (by simp), fun _ _ => ⟨rfl, rfl, rfl, rfl, rfl, rfl⟩⟩
  · obtain ⟨hf, hj, hs, a, b, hab⟩ := State.asyncExit_inside (s := s.modHart h fun x => { x with regs := r })
      (h := h) (by rw [State.modHart_same]; exact he) rfl
    rw [State.modHart_same] at hs hab
    refine ⟨_, _, execAsyncExit_inside hlive h c r he, rfl, ?_⟩
    rw [State.modHart_same, hab]
    refine ⟨rfl, rfl, rfl, rfl, rfl, rfl, rfl, hs, fun j hne => ?_, ?_⟩
    · rw [State.modHart_other _ _ _ _ hne, hj j hne, State.modHart_other _ _ _ _ hne]
    · rw [hf]
      rfl

end Sys2Proof.Machine
end

section
/-! Proofs of the family of the Mawyn links: training, blocks, outputs and link states (O45). -/

namespace Sys2Proof.Machine

open Sys2Proof.Safety

/-- A change of a port depends on what it makes of that port alone. -/
theorem State.modMport_eq {s : State} {p : Nat} {f g : MwlPort → MwlPort} (h : f (s.mport p) = g (s.mport p)) :
    s.modMport p f = s.modMport p g := by
  unfold State.mport at h
  simp only [State.modMport, State.modMwl, tmod, h]

theorem State.reach_mport (s : State) (i p : Nat) : (s.reach i).mport p = s.mport p := by
  obtain ⟨t, h⟩ := s.reach_eq i
  rw [h]
  rfl

/-! ### Training (R432) -/

section Training

variable {s : State} (hlive : s.live = true) {p bad sys dev pp : Nat}
include hlive

theorem execLinkTrainingDone_idle (h : (s.mport p).state ≠ .training ∨ s.mportOn p = false) :
    exec (.linkTrainingDone p bad sys dev pp) s = .next s := by
  rw [exec, execLinkTrainingDone, act_live hlive, if_pos (by simpa using h)]

/-- The state that a training ends in, by its lanes and by the peer that answered (R432 steps 4 to 6). -/
def State.trainedTo (s : State) (p bad sys dev pp : Nat) : LinkState :=
  if bad ≠ 0 ∧ (halfGood bad = false ∨ s.mwField 9 1 ≠ 4) then .failed
  else if sys ≠ s.mwField 0x10 8 ∨ dev ≠ neighbour s.trays s.slots s.ownDevice p ∨ pp ≠ oppositePort p then .wrongPeer
  else if bad = 0 then .upX8 else .upX4

theorem execLinkTrainingDone_done (ht : (s.mport p).state = .training) (hon : s.mportOn p = true) {st : LinkState}
    (hst : st = s.trainedTo p bad sys dev pp) :
    exec (.linkTrainingDone p bad sys dev pp) s = .next ((s.modMport p fun x => { x with
      state := st
      lanesBad := bad
      rxExpect := 0
      ackSeen := 0
      prioRun := 0
      credits := (List.range 12).map fun c => (c, Config.initialCredits c)
      peerDevice := if st = .failed then x.peerDevice else dev
      peerPort := if st = .failed then x.peerPort else pp }).portChanged.pump p) := by
  rw [exec, execLinkTrainingDone, act_live hlive, if_neg (by simp [ht, hon])]
  have hm : (if (bad ≠ 0 && !(halfGood bad && s.mwField 9 1 == 4)) = true then LinkState.failed
      else if (sys != s.mwField 0x10 8 || dev != neighbour s.trays s.slots s.ownDevice p || pp != oppositePort p) = true
      then .wrongPeer else if bad = 0 then .upX8 else .upX4) = st := by
    rw [hst, State.trainedTo]
    exact ite_congr (by simp) (fun _ => rfl) fun _ => ite_congr (by simp [or_assoc]) (fun _ => rfl) fun _ => rfl
  dsimp only
  rw [hm]
  simp only [beq_iff_eq]

theorem execLinkRetry_down (h : (s.mport p).state = .failed ∨ (s.mport p).state = .wrongPeer) :
    exec (.linkRetry p) s = .next (s.modMport p fun x => { x with state := .training }).portChanged := by
  rw [exec, execLinkRetry, act_live hlive, if_pos (by simpa using h)]

theorem execLinkRetry_idle (hf : (s.mport p).state ≠ .failed) (hw : (s.mport p).state ≠ .wrongPeer) :
    exec (.linkRetry p) s = .next s := by
  rw [exec, execLinkRetry, act_live hlive, if_neg (by simp [hf, hw])]

theorem execControlSlotTimeout_live : exec (.controlSlotTimeout p) s =
    .next (if (s.mport p).state.up then s.retrain p else s) := by
  rw [exec, execControlSlotTimeout, act_live hlive]

end Training

/-! ### Blocks (R433) -/

/-- The port after the part of a control slot in order that is not credits: its acknowledgement, its time and its delay
sample at the instant `now` (R433, R443). -/
def MwlPort.acked (x : MwlPort) (c : Bytes) (now : Nat) : MwlPort := { x with
  rxExpect := (le c 0 2 + 1) % 2 ^ 16
  ackSeen := le c 2 2
  nakDue := false
  txTime := le c 0x18 8
  timeValid := bit (byteAt c 4) 1
  arrival := now
  delays := if le c 0x20 8 = 0 then x.delays
    else (Int.tdiv ((now : Int) - le c 0x20 8 - le c 0x28 4) 2 :: x.delays).take 16 }

theorem MwlPort.acked_replayNs (x : MwlPort) (c : Bytes) (now : Nat) : (x.acked c now).replayNs = x.replayNs := rfl

/-- The port with a NAK counted, and the instants of the last ones. -/
def MwlPort.replayed (x : MwlPort) (q : List Nat) : MwlPort := { x with
  replays := min (x.replays + 1) 0xFFFF
  replayNs := q }

section ControlSlot

variable {u w v : State} {p : Nat} {c : Bytes} {q : List Nat}
  (hq : q = if bit (byteAt c 4) 0 then (u.now :: (u.mport p).replayNs).take 65 else (u.mport p).replayNs)
  (hw : w = u.modMport p fun x => x.acked c u.now)
  (hv : v = if bit (byteAt c 4) 0 then w.modMport p fun x => x.replayed q else w)
include hq hw hv

/-- A control slot in order, with the replays of its port named. -/
theorem State.controlSlot_eq : u.controlSlot p c =
    if bit (byteAt c 4) 2 || (match q[64]? with | some t => u.now < t + 1000000 | none => false) then v.retrain p
    else (v.modMport p fun x => x.credited c).pump p := by
  have hr : (w.mport p).replayNs = (u.mport p).replayNs := by
    rw [hw, State.modMport_same, MwlPort.acked_replayNs]
  have hvq : (v.mport p).replayNs = q := by
    rw [hv, hq]
    split
    · rw [State.modMport_same]; rfl
    · exact hr
  have hs : u.controlSlot p c =
      (fun v : State => if bit (byteAt c 4) 2 ||
          (match (v.mport p).replayNs[64]? with | some t => v.now < t + 1000000 | none => false) then v.retrain p
        else (v.modMport p fun x => x.credited c).pump p)
      (if bit (byteAt c 4) 0 then w.modMport p fun x => x.replayed ((u.now :: x.replayNs).take 65) else w) := by
    subst hw
    rfl
  have hvw : (if bit (byteAt c 4) 0 then w.modMport p fun x => x.replayed ((u.now :: x.replayNs).take 65) else w) = v := by
    rw [hv, hq]
    refine ite_congr rfl (fun hb => State.modMport_eq ?_) fun _ => rfl
    rw [if_pos hb, hr]
  have hvn : v.now = u.now := by
    rw [hv, hw]
    split <;> rfl
  rw [hs, hvw]
  dsimp only
  rw [hvq, hvn]

/-- A port retrains where the slot asks for it, or where 65 replays fell in 1 ms (R433). -/
theorem State.controlSlot_retrains (h : bit (byteAt c 4) 2 = true ∨ ∃ t, q[64]? = some t ∧ u.now < t + 1000000) :
    u.controlSlot p c = v.retrain p := by
  rw [State.controlSlot_eq hq hw hv]
  refine if_pos ?_
  rcases h with h | ⟨t, ht, hlt⟩
  · rw [h]; rfl
  · simp [ht, hlt]

/-- Any other slot adds its credits, and waiting messages go (R434). -/
theorem State.controlSlot_credits (h : bit (byteAt c 4) 2 = false) (hb : ∀ t, q[64]? = some t → t + 1000000 ≤ u.now) :
    u.controlSlot p c = (v.modMport p fun x => x.credited c).pump p := by
  rw [State.controlSlot_eq hq hw hv]
  refine if_neg ?_
  cases ht : q[64]? with
  | none => simp [h]
  | some t => simpa [h] using hb t ht

end ControlSlot

section Block

variable {s : State} (hlive : s.live = true) {p i : Nat} {b g : Bool} {c : Bytes}
include hlive

theorem execBlockReceive_down (hup : (s.mport p).state.up = false) : exec (.blockReceive p b g c i) s = .next s := by
  rw [exec, execBlockReceive, act_live hlive, if_pos (by simp [hup])]

variable (hup : (s.mport p).state.up = true) {r u : State} (hr : r = s.reach i)
include hup hr

theorem execBlockReceive_uncorrectable : exec (.blockReceive p b false c i) s = .next (r.modMport p fun x => { x with
    uncorrectable := min (x.uncorrectable + 1) 0xFFFF
    nakDue := true }) := by
  rw [exec, execBlockReceive, act_live hlive, if_neg (by simp [hup]), hr]
  rfl

variable (hu : u = if b then r.modMport p fun x => { x with fecCorrected := min (x.fecCorrected + 1) 0xFFFF } else r)
include hu

omit hlive hup in
/-- A block that the codes correct is counted; of its port nothing else changes. -/
theorem corrected_mport : ∃ n, u.mport p = { s.mport p with fecCorrected := n } := by
  rw [hu, hr]
  split
  · rw [State.modMport_same, State.reach_mport]
    exact ⟨_, rfl⟩
  · rw [State.reach_mport]
    exact ⟨_, rfl⟩

theorem execBlockReceive_good : exec (.blockReceive p b true c i) s =
    .next (if le c 0 2 ≠ (s.mport p).rxExpect then u.modMport p fun x => { x with nakDue := true }
      else u.controlSlot p c) := by
  obtain ⟨n, hn⟩ := corrected_mport hr hu
  have hx : (u.mport p).rxExpect = (s.mport p).rxExpect := by rw [hn]
  rw [← hx, exec, execBlockReceive, act_live hlive, if_neg (by simp [hup])]
  subst hu hr
  rfl

end Block

/-! ### Outputs (R13, R434) -/

/-- A candidate of an output waits in its queue, and its class has credits for all its flits. -/
theorem MwlPort.mem_candidates {x : MwlPort} {m : MwlMsg} (h : m ∈ x.candidates) :
    m ∈ x.queue ∧ m.flits ≤ tget 0 x.credits m.cls := by
  obtain ⟨c, -, hc⟩ := List.mem_filterMap.mp h
  cases hf : x.queue.find? (fun m => m.cls == c) with
  | none => simp [hf] at hc
  | some n =>
    have hcls : n.cls = c := by simpa using List.find?_some hf
    simp only [hf] at hc
    split at hc <;> cases hc
    exact ⟨List.mem_of_find?_eq_some hf, by rw [hcls]; assumption⟩

/-- What the output sends next: a normal message where there is none with PRIO, or where the PRIO flits would make more
than seven; else one with PRIO (R434). -/
theorem MwlPort.nextMsg_cases {x : MwlPort} {m : MwlMsg} (h : x.nextMsg = some m) : m ∈ x.candidates ∧
    ((m.prio = true ∧ ∀ n ∈ x.candidates, n.prio = false → x.prioRun + m.flits ≤ 7) ∨
      (m.prio = false ∧
        ∀ n ∈ x.candidates, n.prio = true → ∃ k ∈ x.candidates, k.prio = true ∧ 7 < x.prioRun + k.flits)) := by
  unfold MwlPort.nextMsg at h
  cases hp : x.candidates.find? (·.prio) with
  | none =>
    simp only [hp] at h
    have hm := List.find?_some h
    refine ⟨List.mem_of_find?_eq_some h, .inr ⟨by simpa using hm, fun n hn hpn => ?_⟩⟩
    exact absurd hpn (List.find?_eq_none.mp hp n hn)
  | some p =>
    have hpp : p.prio = true := by simpa using List.find?_some hp
    have hpm := List.mem_of_find?_eq_some hp
    cases hn : x.candidates.find? (fun m => !m.prio) with
    | none =>
      simp only [hp, hn, Option.some.injEq] at h
      subst h
      exact ⟨hpm, .inl ⟨hpp, fun n hmem hnorm => absurd hnorm (by simpa using List.find?_eq_none.mp hn n hmem)⟩⟩
    | some n =>
      simp only [hp, hn] at h
      split at h <;> cases h
      · have hnn : m.prio = false := by simpa using List.find?_some hn
        exact ⟨List.mem_of_find?_eq_some hn, .inr ⟨hnn, fun _ _ _ => ⟨p, hpm, hpp, by omega⟩⟩⟩
      · exact ⟨hpm, .inl ⟨hpp, fun _ _ _ => by omega⟩⟩

/-! ### LINK_STATE (R441) -/

/-- A sound message of its TYPE for this device has its effect (R435). -/
theorem State.mwlArrive_here {s : State} {t : Nat} {f : Bytes} (h : Arrives s t f) (d : Bytes) (e : State → State) :
    s.mwlArrive t f d e = e s := by
  obtain ⟨hon, hsound, hhere, htype⟩ := h
  rw [State.mwlArrive, if_neg (by simp [hon]), if_neg (by simp [hsound]), if_neg (by simp [hhere]), if_pos htype]

/-- What a LINK_STATE message that arrives at `now` says of its device (R441). -/
def advertised (f : Bytes) (now : Nat) : MwlPeer :=
  { ports := fld (le f 8 2) 0 4, seq := le f 0x0C 4, heard := true, heardNs := now }

section LinkState

variable {s r : State} (hlive : s.live = true) {f : Bytes} {i d : Nat} {p : MwlPeer}
include hlive

variable (hr : r = s.reach i) (ha : Arrives r 0x11 f) (hd : d = byteAt f 3) (hp : p = tget {} s.mwl.peers d)
include hr ha hd hp

theorem execLinkState_arrives : exec (.linkState f i) s =
    .next (if p.heard && !(ge32 (le f 0x0C 4) p.seq && le f 0x0C 4 != p.seq) then r
      else (r.modMwl fun m => { m with peers := tset m.peers d (advertised f r.now) }).recompute) := by
  have hpr : p = tget {} r.mwl.peers d := by
    obtain ⟨t, ht⟩ := s.reach_eq i
    rw [hp, hr, ht]
  rw [exec, execLinkState, act_live hlive]
  dsimp only
  rw [← hr, State.mwlArrive_here ha, hpr, hd]
  rfl

theorem execLinkState_old (h : p.heard = true) (hs : ge32 (le f 0x0C 4) p.seq = false ∨ le f 0x0C 4 = p.seq) :
    exec (.linkState f i) s = .next r := by
  rw [execLinkState_arrives hlive hr ha hd hp, if_pos (by rcases hs with hs | hs <;> simp [h, hs])]

theorem execLinkState_newer
    (h : p.heard = false ∨ (ge32 (le f 0x0C 4) p.seq = true ∧ le f 0x0C 4 ≠ p.seq)) :
    exec (.linkState f i) s = .next (r.modMwl fun m => { m with peers := tset m.peers d (advertised f r.now) }).recompute := by
  rw [execLinkState_arrives hlive hr ha hd hp, if_neg]
  rcases h with h | ⟨hg, hne⟩
  · simp [h]
  · simp [hg, hne]

omit hr ha hd in
theorem execLinkStateTimeout_live : exec (.linkStateTimeout d) s =
    .next (if p.heard then ((s.reach (p.heardNs + 5000000)).modMwl fun m =>
      { m with peers := tset m.peers d { p with heard := false } }).recompute else s) := by
  rw [exec, execLinkStateTimeout, act_live hlive, hp]

end LinkState

/-! ### What a message that leaves changes (R434, R441) -/

/-- `t` follows `s` by messages that enter queues, leave, or are dropped: of the Mawyn layer the ports, the messages sent
and the dropped ones have changed, and nothing else. -/
structure MwlMoved (s t : State) : Prop where
  /-- Nothing else has changed. -/
  frame : t = { s with mwl := { s.mwl with
    sent := t.mwl.sent
    dropped := t.mwl.dropped
    ports := t.mwl.ports } }
  /-- Messages are sent after those sent before. -/
  sent : ∃ l : List MwlMsg, t.mwl.sent = s.mwl.sent ++ l

theorem MwlMoved.refl (s : State) : MwlMoved s s := ⟨rfl, [], (List.append_nil _).symm⟩

theorem MwlMoved.trans {s t u : State} (h : MwlMoved s t) (g : MwlMoved t u) : MwlMoved s u := by
  obtain ⟨hf, l, hl⟩ := h
  obtain ⟨gf, k, hk⟩ := g
  refine ⟨?_, l ++ k, by rw [hk, hl, List.append_assoc]⟩
  rw [gf, hf]

theorem State.modMport_moved (s : State) (p : Nat) (f : MwlPort → MwlPort) : MwlMoved s (s.modMport p f) :=
  ⟨rfl, [], (List.append_nil _).symm⟩

theorem State.pumpN_moved (p : Nat) : ∀ (k : Nat) (s : State), MwlMoved s (State.pumpN p k s)
  | 0, s => .refl s
  | k + 1, s => by
    unfold State.pumpN
    split
    · next m _ =>
      split
      · exact ((s.modMport_moved p _).trans ⟨rfl, [m], rfl⟩).trans (State.pumpN_moved p k _)
      · exact .refl s
    · exact .refl s

theorem State.mwlSend_moved (s : State) (dst : Nat) (prio : Bool) (flit : Nat → Bytes) (data : Bytes) :
    MwlMoved s (s.mwlSend dst prio flit data) := by
  unfold State.mwlSend
  split
  · split
    · exact (s.modMport_moved _ _).trans (State.pumpN_moved _ _ _)
    · exact .refl s
  · exact ⟨rfl, [], (List.append_nil _).symm⟩

theorem MwlMoved.foldl {g : State → Nat → State} (hg : ∀ s d, MwlMoved s (g s d)) :
    ∀ (l : List Nat) (s : State), MwlMoved s (l.foldl g s)
  | [], s => .refl s
  | d :: l, s => (hg s d).trans (MwlMoved.foldl hg l (g s d))

section Announce

variable {s t : State} (hlive : s.live = true) {q : Nat}
include hlive

theorem execLinkStateInterval_off (h : s.mawynOn = false) : exec .linkStateInterval s = .next s := by
  rw [exec, execLinkStateInterval, act_live hlive]
  exact congrArg _ (if_pos (by simp [h]))

/-- A device's advertisement of its ports goes to the devices that a route leads to (R441). -/
theorem execLinkStateInterval_on (h : s.mawynOn = true) (hq : q = (s.mwl.seq + 1) % 2 ^ 32)
    (ht : t = ((List.range 48).filter fun d =>
        d != s.ownDevice && inTorus s.trays s.slots d && (s.routeTo d).isSome).foldl
      (fun s d => s.mwlSend d true (fun fl => mwlHeader 0x11 fl d s.ownDevice 0 0 0 s.ownPorts 0 q 0 0 0 0) [])
      { s with mwl := { s.mwl with seq := q } }) :
    exec .linkStateInterval s = .next t := by
  rw [exec, execLinkStateInterval, act_live hlive, ht, hq]
  exact congrArg _ (if_neg (by simp [h]))

end Announce

/-- Settles O45, by the rules of the ports, the outputs and the link states above. The credits that a port starts with are
the model's choice (log entry 124), as are PRIO judged message by message with at most seven flits in a row (log entry
123) and LINK_STATE to devices that have not been heard (log entry 125). -/
theorem mawynLinks : Obligations.MawynLinks := by
  unfold Obligations.MawynLinks
  refine ⟨?_, ?_, ?_, ?_, ?_, ?_, ?_, fun s d => ⟨_, rfl, _, rfl, rfl⟩⟩
  · intro s p bad sys dev pp st hlive
    exact ⟨execLinkTrainingDone_idle hlive, fun ht hon hst => execLinkTrainingDone_done hlive ht hon hst⟩
  · intro s p hlive
    refine ⟨execLinkRetry_down hlive, execLinkRetry_idle hlive, fun h => ?_, fun h => ?_⟩
    · rw [execControlSlotTimeout_live hlive, if_neg (by simp [h])]
    · rw [execControlSlotTimeout_live hlive, if_pos h]
      rfl
  · intro s r u p i b c hlive hr hu
    refine ⟨fun hup => ⟨execBlockReceive_down hlive hup, execBlockReceive_down hlive hup⟩, fun hup =>
      ⟨execBlockReceive_uncorrectable hlive hup hr, fun hx => ?_, fun hx w v q hq hw hv => ?_⟩⟩
    · rw [execBlockReceive_good hlive hup hr hu, if_pos hx]
    · have hn : r.now = u.now := by
        rw [hu]
        split <;> rfl
      have hm : (u.mport p).replayNs = (s.mport p).replayNs := by
        obtain ⟨n, hn⟩ := corrected_mport hr hu
        rw [hn]
      rw [hn] at hq hw ⊢
      rw [← hm] at hq
      rw [execBlockReceive_good hlive hup hr hu, if_neg (not_not.mpr hx)]
      exact ⟨fun h => congrArg _ (State.controlSlot_retrains hq hw hv h),
        fun hf hb => congrArg _ (State.controlSlot_credits hq hw hv hf hb)⟩
  · intro x m h
    obtain ⟨hm, hcase⟩ := MwlPort.nextMsg_cases h
    obtain ⟨hq, hc⟩ := MwlPort.mem_candidates hm
    refine ⟨hq, hc, fun hp => ?_, fun hp => ?_⟩
    · rcases hcase with ⟨-, h⟩ | ⟨hf, -⟩
      · exact h
      · rw [hf] at hp; cases hp
    · rcases hcase with ⟨ht, -⟩ | ⟨-, h⟩
      · rw [ht] at hp; cases hp
      · exact h
  · intro s r f i d p hlive hr ha hd hp
    exact ⟨execLinkState_old hlive hr ha hd hp, fun h => ⟨_, rfl, execLinkState_newer hlive hr ha hd hp h⟩⟩
  · intro s hlive
    refine ⟨execLinkStateInterval_off hlive, fun hon q t hq ht => ⟨execLinkStateInterval_on hlive hon hq ht, ?_⟩⟩
    have hmoved := MwlMoved.foldl (fun s d => s.mwlSend_moved d true
      (fun fl => mwlHeader 0x11 fl d s.ownDevice 0 0 0 s.ownPorts 0 q 0 0 0 0) [])
      ((List.range 48).filter fun d => d != s.ownDevice && inTorus s.trays s.slots d && (s.routeTo d).isSome)
      { s with mwl := { s.mwl with seq := q } }
    rw [← ht] at hmoved
    obtain ⟨hf, hl⟩ := hmoved
    exact ⟨by rw [hf], hf, hl⟩
  · intro s d p hlive hp
    refine ⟨fun h => ?_, fun h => ?_⟩
    · rw [execLinkStateTimeout_live hlive hp, if_neg (by simp [h])]
    · rw [execLinkStateTimeout_live hlive hp, if_pos h]

end Sys2Proof.Machine
end

section
/-! Proofs of the family of the Mawyn links: messages, windows and transactions (O46). -/

namespace Sys2Proof.Machine

open Sys2Proof.Safety

/-! ### What an arriving message does (R435, R440) -/

section Arrive

variable {s : State} {t : Nat} {f d : Bytes} {e : State → State}

theorem State.mwlArrive_off (hoff : s.mawynOn = false) : s.mwlArrive t f d e = s := by
  rw [State.mwlArrive, if_pos (by simp [hoff])]

variable (hon : s.mawynOn = true)
include hon

theorem State.mwlArrive_malformed (hm : mwlMalformed f = true) :
    s.mwlArrive t f d e = { s with mwl := { s.mwl with dropped := min (s.mwl.dropped + 1) 0xFFFF } } := by
  rw [State.mwlArrive, if_neg (by simp [hon]), if_pos hm]
  rfl

variable (hm : mwlMalformed f = false) (hother : byteAt f 2 ≠ s.ownDevice)
include hm hother

theorem State.mwlArrive_lost (hp : s.nextPort f = none) :
    s.mwlArrive t f d e = { s with mwl := { s.mwl with dropped := min (s.mwl.dropped + 1) 0xFFFF } } := by
  rw [State.mwlArrive, if_neg (by simp [hon]), if_neg (by simp [hm]), if_pos hother, hp]
  rfl

theorem State.mwlArrive_forward {p : Nat} (hp : s.nextPort f = some p) :
    s.mwlArrive t f d e = (s.modMport p fun x =>
      { x with queue := x.queue ++ [{ port := p, flit := f, data := d, cls := s.bufferClass f p }] }).pump p := by
  rw [State.mwlArrive, if_neg (by simp [hon]), if_neg (by simp [hm]), if_pos hother, hp]
  rfl

end Arrive

/-! ### Inbound requests (R437) -/

section Inbound

variable {s : State} {f d : Bytes} {w : Bool}

theorem State.inbound_refused (h : s.inRefused f w = true) : s.inbound f d w =
    State.mwlRespond { s with mwl := { s.mwl with noWindow := min (s.mwl.noWindow + 1) 0xFFFF } } f 5 1 [] := by
  rw [State.inbound, if_pos h]
  rfl

variable {n x : Nat} (hn : n = le f 0x0A 2) (hx : x = fld (le f 8 2) 0 5) (h : s.inRefused f w = false)
include hn hx h

theorem State.inbound_untaken (ho : s.blockAccess (fld (s.inField x 2 2) 0 12)
    (fld (s.inField x 8 8) 0 48 + le f 0x10 8) n w (slice d 0 n) = none) : s.inbound f d w =
    State.mwlRespond { s with mwl := { s.mwl with remoteErrors := min (s.mwl.remoteErrors + 1) 0xFFFF } } f 5 3 [] := by
  subst hn hx
  rw [State.inbound, if_neg (by simp [h])]
  dsimp only
  rw [ho]
  rfl

theorem State.inbound_taken {acc : Access} (ho : s.blockAccess (fld (s.inField x 2 2) 0 12)
    (fld (s.inField x 8 8) 0 48 + le f 0x10 8) n w (slice d 0 n) = some acc) :
    s.inbound f d w = s.access { acc with origin := .inbound f } := by
  subst hn hx
  rw [State.inbound, if_neg (by simp [h])]
  dsimp only
  rw [ho]

end Inbound

section Settled

variable {s : State} {f : Bytes} {e : AccessError}

theorem State.settled_inbound_held (h : s.resp.kind = .held) : s.settled (.inbound f) e = s := by
  rw [State.settled, if_pos h]

theorem State.settled_inbound_data (h : s.resp.kind = .data) : s.settled (.inbound f) e =
    if byteAt f 0 = 1 then s.mwlRespond f 3 0 [] else s.mwlRespond f 4 0 s.resp.bytes := by
  rw [State.settled, if_neg (by simp [h])]
  exact if_neg (by simp [h])

theorem AccessError.ecode_eq (e : AccessError) : e.ecode = if e = .denied ∨ e = .owner then 2 else 3 := by
  cases e <;> rfl

theorem State.settled_inbound_error (h : s.resp.kind = .error) : s.settled (.inbound f) e = State.mwlRespond
    { s with mwl := { s.mwl with remoteErrors := min (s.mwl.remoteErrors + 1) 0xFFFF } } f 5
    (if e = .denied ∨ e = .owner then 2 else 3) [] := by
  rw [← AccessError.ecode_eq, State.settled, if_neg (by simp [h])]
  exact if_pos (by simp [h])

end Settled

/-! ### Answers of this device's transactions (R438, R442) -/

theorem State.respFor_iff {s : State} {f : Bytes} {w : Bool} {t : MwlTxn} (h : tfind s.mwl.txns (le f 4 2) = some t) :
    s.respFor f w = true ↔ t.dst = byteAt f 3 ∧ t.write = w := by
  simp [State.respFor, h]

theorem State.respFor_none {s : State} {f : Bytes} {w : Bool} (h : tfind s.mwl.txns (le f 4 2) = none) :
    s.respFor f w = false := by
  simp [State.respFor, h]

/-- An answer from another device or of the other kind is none of the transaction's. -/
theorem State.respFor_other {s : State} {f : Bytes} {w : Bool} {t : MwlTxn} (h : tfind s.mwl.txns (le f 4 2) = none ∨
    tfind s.mwl.txns (le f 4 2) = some t ∧ (t.dst ≠ byteAt f 3 ∨ t.write = !w)) : ¬ s.respFor f w = true := by
  rcases h with h | ⟨h, hne⟩
  · simp [State.respFor_none h]
  · rw [State.respFor_iff h]
    rintro ⟨hd, hw⟩
    rcases hne with hne | hne
    · exact hne hd
    · rw [hw] at hne
      cases w <;> cases hne

section Answers

variable {s : State} (hlive : s.live = true) {f : Bytes}
include hlive

theorem execWriteAck_arrives (ha : Arrives s 3 f) : exec (.writeAck f) s =
    .next (if s.respFor f true then (s.endTxn (le f 4 2) (some [])).settle else s) := by
  rw [exec, execWriteAck, act_live hlive, State.mwlArrive_here ha]

theorem execReadData_arrives (ha : Arrives s 4 f) (d : Bytes) : exec (.readData f d) s =
    .next (match tfind s.mwl.txns (le f 4 2) with
      | some t => if s.respFor f false then (s.endTxn (le f 4 2) (some (slice d 0 t.len))).settle else s
      | none => s) := by
  rw [exec, execReadData, act_live hlive]
  exact congrArg _ (State.mwlArrive_here ha d _)

theorem execReadData_other (ha : Arrives s 4 f) (d : Bytes) (h : ¬ s.respFor f false = true) :
    exec (.readData f d) s = .next s := by
  rw [execReadData_arrives hlive ha]
  cases tfind s.mwl.txns (le f 4 2) with
  | none => rfl
  | some t => exact congrArg _ (if_neg h)

variable {u : State} (hu : u = { s with mwl := { s.mwl with remoteErrors := min (s.mwl.remoteErrors + 1) 0xFFFF } })
include hu

theorem execError_ends (ha : Arrives s 5 f) {t : MwlTxn} (h : tfind s.mwl.txns (le f 4 2) = some t)
    (hd : t.dst = byteAt f 3) : exec (.error f) s = .next (u.endTxn (le f 4 2) none).settle := by
  rw [exec, execError, act_live hlive, State.mwlArrive_here ha]
  dsimp only [State.modMwl]
  rw [h, hu]
  exact congrArg _ (if_pos hd)

theorem execError_none (ha : Arrives s 5 f) (h : tfind s.mwl.txns (le f 4 2) = none) :
    exec (.error f) s = .next u := by
  rw [exec, execError, act_live hlive, State.mwlArrive_here ha]
  dsimp only [State.modMwl]
  rw [h, hu]
  rfl

omit hu in
theorem execToken_arrives (ha : Arrives s 0x10 f) : exec (.token f) s =
    .next (s.tokenReceive (le f 0x18 2) (le f 0x1C 4) (byteAt f 3) (fld (le f 8 2) 0 12) (le f 0x1A 2)).settle := by
  rw [exec, execToken, act_live hlive, State.mwlArrive_here ha]

end Answers

/-! ### Accesses to the aperture (R436) -/

/-- The aperture is at the top of the address map (R479). -/
theorem State.mawynBase_le_of_target {s : State} {a : Nat} (h : s.target a = .mawyn) : mawynBase ≤ a := by
  unfold State.target at h
  iterate 9 rw [if_neg (by rintro hc; rw [if_pos hc] at h; cases h)] at h
  by_contra hlt
  rw [if_neg fun hc => hlt hc.1] at h
  cases h

/-- No block stands at a hole of the address map. -/
theorem State.blockAccess_hole {s : State} {a : Nat} (h : s.target a = .hole) (tag n : Nat) (w : Bool) (d : Bytes) :
    s.blockAccess tag a n w d = none := by
  rw [State.blockAccess, h]
  rfl

theorem State.blockAccess_mawyn {s : State} {a : Nat} (h : s.target a = .mawyn) (tag n : Nat) (w : Bool) (d : Bytes) :
    s.blockAccess tag a n w d = if s.windowLets (apertureOf a) n w then
      (s.windowPort (apertureOf a).1).map fun p =>
        { sluice := 25 + p, tag := tag, addr := a, len := n, write := w, data := d } else none := by
  rw [State.blockAccess, h]

theorem State.devAccess_none {s : State} {o : Origin} {tag a n : Nat} {w : Bool} {d : Bytes}
    (h : s.blockAccess tag a n w d = none) : s.devAccess o tag a n w d = s.answerError o .denied := by
  rw [State.devAccess, h]

theorem State.devAccess_some {s : State} {o : Origin} {tag a n : Nat} {w : Bool} {d : Bytes} {acc : Access}
    (h : s.blockAccess tag a n w d = some acc) : s.devAccess o tag a n w d = s.access { acc with origin := o } := by
  rw [State.devAccess, h]

/-- An access that its Sluice grants waits behind an earlier one of its tag to its line (R14, R365). -/
theorem State.verdict_hold {s : State} {acc : Access}
    (h : s.judge acc = .hold ∨ s.judge acc = .grant ∧ s.behindHeld acc = true) : s.verdict acc = .hold := by
  rcases h with h | ⟨h, hb⟩
  · rw [State.verdict, h]
  · rw [State.verdict, h]
    exact if_pos hb

theorem State.verdict_grant {s : State} {acc : Access} (h : s.judge acc = .grant) (hb : s.behindHeld acc = false) :
    s.verdict acc = .grant := by
  rw [State.verdict, h]
  exact if_neg (by simp [hb])

theorem State.verdict_deny {s : State} {acc : Access} {k : Nat} (h : s.judge acc = .deny k) :
    s.verdict acc = .deny k := by
  rw [State.verdict, h]

/-- The access of a core to the aperture goes out as a transaction (R436, R438). -/
theorem State.carry_mawyn {s : State} {acc : Access} (ht : s.target acc.addr = .mawyn) (ho : acc.origin ≠ .other) :
    s.carry acc = State.tryTxn { s with resp := { kind := .held } } (apertureReq acc) := by
  rw [State.carry, ht]
  exact if_neg (by simp [ho])

section Aperture

variable {s : State} (hlive : s.live = true) {src tag a n : Nat} {w : Bool} {d : Bytes}
include hlive

theorem execApertureAccess_below (h : a < mawynBase) : exec (.apertureAccess src tag a n w d) s = .next s := by
  rw [exec, execApertureAccess, act_live hlive, if_pos h]

theorem execApertureAccess_none (h : mawynBase ≤ a) (hb : s.blockAccess tag a n w d = none) :
    exec (.apertureAccess src tag a n w d) s = .next (s.answerError (.core src tag) .denied) := by
  rw [exec, execApertureAccess, act_live hlive, if_neg (Nat.not_lt.mpr h), State.devAccess_none hb]

theorem execApertureAccess_some (h : mawynBase ≤ a) {acc : Access} (hb : s.blockAccess tag a n w d = some acc) :
    exec (.apertureAccess src tag a n w d) s = .next (s.access { acc with origin := .core src tag }) := by
  rw [exec, execApertureAccess, act_live hlive, if_neg (Nat.not_lt.mpr h), State.devAccess_some hb]

end Aperture

section ApertureSluice

variable {s : State} {acc : Access} {p src tag a n : Nat} {w : Bool} {d : Bytes}
  (hacc : acc = { sluice := 25 + p, tag := tag, addr := a, len := n, write := w, data := d, origin := .core src tag })
include hacc

theorem State.access_aperture_deny {k : Nat} (hj : s.judge acc = .deny k) :
    s.access acc = (s.noteDenial acc k).answerError (.core src tag) .denied := by
  rw [State.access, State.verdict_deny hj, hacc]

omit hacc in
theorem State.access_hold (hj : s.judge acc = .hold ∨ s.judge acc = .grant ∧ s.behindHeld acc = true) :
    s.access acc = { s with slc := { s.slc with held := s.slc.held ++ [acc] }, resp := { kind := .held } } := by
  rw [State.access, State.verdict_hold hj]
  rfl

theorem State.access_aperture_grant (ht : s.target a = .mawyn) (hj : s.judge acc = .grant)
    (hb : s.behindHeld acc = false) : s.access acc = State.tryTxn { s with resp := { kind := .held } }
      { origin := .core src tag, tag := tag, window := (apertureOf a).1, offset := (apertureOf a).2, len := n
        write := w, data := d } := by
  rw [State.access, State.verdict_grant hj hb]
  subst hacc
  exact State.carry_mawyn ht (by simp)

end ApertureSluice

theorem State.answerTxn_core (s : State) (src tag : Nat) (r : Option Bytes) : s.answerTxn (.core src tag) r =
    { s with
      resp := { kind := if r = none then .error else .data, bytes := r.getD [] }
      mwl := { s.mwl with answers := s.mwl.answers ++ [(src, tag, r)] } } := by
  cases r <;> rfl

theorem execTxnTimeout_none {s : State} (hlive : s.live = true) {n : Nat} (h : tfind s.mwl.txns n = none) :
    exec (.txnTimeout n) s = .next s := by
  rw [exec, execTxnTimeout, act_live hlive, h]

theorem execTxnTimeout_some {s : State} (hlive : s.live = true) {n : Nat} {t : MwlTxn} (h : tfind s.mwl.txns n = some t)
    {u : State} (hu : u = s.reach (t.sentNs + 1000 * s.mwField 0x0A 2)) : exec (.txnTimeout n) s =
      .next (State.endTxn { u with mwl := { u.mwl with timeouts := min (u.mwl.timeouts + 1) 0xFFFF } } n none).settle := by
  rw [exec, execTxnTimeout, act_live hlive, h, hu]
  rfl

/-- An APERTURE_ACCESS through a window that lets it, and its first hop (R436). -/
theorem execApertureAccess_window {s : State} (hlive : s.live = true) {src tag a n : Nat} {w : Bool} {d : Bytes}
    (ht : s.target a = .mawyn) (hw : s.windowLets (apertureOf a) n w = true) :
    exec (.apertureAccess src tag a n w d) s = .next (match s.windowPort (apertureOf a).1 with
      | none => s.answerError (.core src tag) .denied
      | some p => s.access { sluice := 25 + p, tag := tag, addr := a, len := n, write := w, data := d
                             origin := .core src tag }) := by
  have hb := State.blockAccess_mawyn ht tag n w d
  rw [if_pos hw] at hb
  have hle := State.mawynBase_le_of_target ht
  cases hp : s.windowPort (apertureOf a).1 with
  | none =>
    rw [hp] at hb
    exact execApertureAccess_none hlive hle hb
  | some p =>
    rw [hp] at hb
    exact execApertureAccess_some hlive hle hb

/-- Settles O46, by the rules of arriving messages, inbound requests, answers and the aperture above. Which messages
NO_WINDOW and REMOTE_ERRORS count, the errors sent among them, is the model's choice (log entry 69). -/
theorem mawynTransactions : Obligations.MawynTransactions := by
  unfold Obligations.MawynTransactions
  refine ⟨?_, ?_, ?_, ?_, ?_, ?_, State.answerTxn_core, ?_⟩
  · intro s t f d e
    exact ⟨State.mwlArrive_off, State.mwlArrive_malformed, fun hon hm hother =>
      ⟨State.mwlArrive_lost hon hm hother, fun p hp => State.mwlArrive_forward hon hm hother hp⟩,
      fun ha => State.mwlArrive_here ha d e⟩
  · intro s f d hlive
    exact ⟨by rw [exec, execWrite, act_live hlive], by rw [exec, execRead, act_live hlive]⟩
  · intro s f d w n x hn hx
    refine ⟨State.inbound_refused, fun h o ho => ⟨fun hnone => ?_, fun acc hsome => ?_⟩⟩
    · exact State.inbound_untaken hn hx h (ho.symm.trans hnone)
    · exact State.inbound_taken hn hx h (ho.symm.trans hsome)
  · intro s f e
    exact ⟨State.settled_inbound_held, State.settled_inbound_data, State.settled_inbound_error⟩
  · intro s f d t hlive
    refine ⟨fun ha h hd hw => ?_, fun ha h => ?_, fun ha h hd hw => ?_, fun ha h => ?_, fun ha => ?_,
      execToken_arrives hlive⟩
    · rw [execWriteAck_arrives hlive ha, if_pos ((State.respFor_iff h).mpr ⟨hd, hw⟩)]
    · rw [execWriteAck_arrives hlive ha, if_neg (State.respFor_other h)]
    · rw [execReadData_arrives hlive ha, h]
      exact congrArg _ (if_pos ((State.respFor_iff h).mpr ⟨hd, hw⟩))
    · exact execReadData_other hlive ha d (State.respFor_other h)
    · exact ⟨_, rfl, fun h hd => execError_ends hlive rfl ha h hd, fun h => execError_none hlive rfl ha h⟩
  · intro s src tag a n w d x hlive
    refine ⟨execApertureAccess_below hlive, fun hle ht => ?_, fun ht hx => ?_⟩
    · exact execApertureAccess_none hlive hle (State.blockAccess_hole ht tag n w d)
    obtain rfl : x = apertureOf a := hx
    refine ⟨fun hw => ?_, fun hw o ho => ?_⟩
    · have hb := State.blockAccess_mawyn ht tag n w d
      rw [if_neg (by simp [hw])] at hb
      exact execApertureAccess_none hlive (State.mawynBase_le_of_target ht) hb
    have he := execApertureAccess_window hlive (src := src) (tag := tag) (d := d) ht hw
    obtain rfl : o = s.windowPort (apertureOf a).1 := ho
    refine ⟨fun hnone => ?_, fun p acc hp hacc => ?_⟩
    · rw [hnone] at he
      exact he
    · rw [hp] at he
      dsimp only at he
      rw [he, ← hacc]
      exact ⟨fun k hj => by rw [State.access_aperture_deny hacc hj], fun hj => by rw [State.access_hold hj],
        fun hj hb => by rw [State.access_aperture_grant hacc ht hj hb]⟩
  · intro s n t hlive
    exact ⟨execTxnTimeout_none hlive, fun h => ⟨_, _, rfl, rfl, execTxnTimeout_some hlive h rfl⟩⟩

end Sys2Proof.Machine
end
